-- ==== Sys2Proof/Word.lean ====
section
/-! DEFINITION. The word types, the saturating arithmetic and the operand types of the commands. -/

namespace Sys2Proof

abbrev Byte := BitVec 8
abbrev Half := BitVec 16
abbrev Word := BitVec 32
abbrev DWord := BitVec 64
abbrev W48 := BitVec 48
abbrev W256 := BitVec 256

/-- A thread Cc.tm as 4c + m (R249 THREAD, R339 source codes 0 to 15). -/
abbrev Thread := Fin 16
abbrev Chan := Fin 128
abbrev Furrow := Fin 32
abbrev Bay := Fin 4
/-- A general register number g0 to g31 (R297). -/
abbrev Gpr := BitVec 5
abbrev Tile := Fin 16

/-- One more, holding at the greatest value: every counter the manual calls saturating. -/
def satInc {w : Nat} (x : BitVec w) : BitVec w := if x = BitVec.allOnes w then x else x + 1

/-- `k` more, holding at the greatest value. -/
def satAdd {w : Nat} (x : BitVec w) (k : Nat) : BitVec w := BitVec.ofNat w (min (x.toNat + k) (2 ^ w - 1))

/-- A Bool as one bit. -/
def bit (b : Bool) : Nat := if b then 1 else 0

/-- A value placed at bit `lo` of a register image. -/
def fld {w : Nat} (v : BitVec w) (lo : Nat) : Word := BitVec.ofNat 32 (v.toNat <<< lo)

/-- A Bool placed at bit `lo` of a register image. -/
def flag (b : Bool) (lo : Nat) : Word := BitVec.ofNat 32 (bit b <<< lo)

/-- Who makes an access (R334, R339, R485): a thread, the Enclosure firmware acting on its own thread, the host
of a bay, the resident Headland or the TAP. -/
inductive Req where
  | thread (t : Thread)
  | encl
  | bay (b : Bay)
  | headland
  | tap
  deriving DecidableEq, Repr

/-- The width of an access in bytes (R306, R497). -/
inductive Width where
  | byte | half | word
  deriving DecidableEq, Repr

def Width.bytes : Width → Nat
  | .byte => 1
  | .half => 2
  | .word => 4

/-- What the ROM's reads of fuses and flash return at a start (R106 Edges, R112, R113). -/
structure RomSense where
  /-- the fuse view's two pairs of samples end in agreement -/
  fusesAgree : Bool
  /-- some INTRUSION copy showed blown in any of the four samples -/
  intrusionSeen : Bool
  errSlotA : Bool
  errSlotB : Bool
  errRec0 : Bool
  errRec1 : Bool
  /-- ROM start to handover in µs (BOOT.TIMES) -/
  handoverUs : Half
  deriving DecidableEq, Repr

/-- What the seed store's reads return at application (R128, R140 code 9), and BOOT.TIMES.LIVE_US. -/
structure SeedSense where
  errSlotA : Bool
  errSlotB : Bool
  errDir0 : Bool
  errDir1 : Bool
  liveUs : Half
  deriving DecidableEq, Repr

/-- A pin monitor's sample (R234): the pin's voltage, the two current limits and, for a differential pair,
|A − B| and the load. -/
structure PinReading where
  mv : Int
  highLimit : Bool
  lowLimit : Bool
  diffMv : Nat
  diffOhms : Nat
  /-- the pin has held its driven state for at least 1 µs -/
  held1us : Bool
  /-- the level the module drives on the pin now -/
  level : Bool
  deriving DecidableEq, Repr

/-- The source queue an item is read from (R251): CHEV[f] or HKQ. -/
inductive EventQueue where
  | chev (f : Furrow)
  | hkq
  deriving DecidableEq, Repr

/-- One bit's samples as the receiver takes them (R187): three at 8×; at 3× the first alone counts. -/
structure Samples where
  a : Bool
  b : Bool
  c : Bool
  deriving DecidableEq, Repr

/-- What an array read met in check bits (R460). -/
inductive Ecc where
  | clean
  | corrected (groups : Nat)
  | uncorrectable
  deriving DecidableEq, Repr

/-- What a host's read names (R368, R370, R371; log entry 98): the window of BAR2, BAR0, or configuration space. -/
inductive HostSpace where
  | window | registers | config
  deriving DecidableEq, Repr

/-- The Relaxed Ordering and ID-based ordering attributes of a host's request (R389). -/
structure TlpAttr where
  ro : Bool := false
  ido : Bool := false
  deriving DecidableEq, Repr

/-- How a DMA read failed (R384). -/
inductive DmaFault where
  | unsupported | aborted | poisoned | timeout
  deriving DecidableEq, Repr

/-- Which DMA read failed (R384): a submission fetch of queue `q`, or the data phase of command slot `k`. -/
inductive DmaRead where
  | fetch (q : Fin 16)
  | data (k : Fin 256)
  deriving DecidableEq, Repr

/-- A rail as its current sensor reports it (R40, R234): its current, and whether it is in current limit or the limit has
ended (log entry 104). -/
structure RailLoad where
  ma : Byte
  inLimit : Bool := true
  deriving DecidableEq, Repr

/-- What the overlap detector saw of a character (R201): its peak amplitude, and an edge outside the framing. -/
structure PeakSeen where
  amp : Byte
  edge : Bool := false
  deriving DecidableEq, Repr

/-- A reply's turnaround ends (R176, R222); `boundary`: a slave is at a word boundary with SEL0 asserted. -/
structure ReplyDue where
  chan : Chan
  boundary : Bool := false
  deriving DecidableEq, Repr

/-- A thread's access returns (R292); `uncorrectable`: flash met an uncorrectable error (R502). -/
structure DataBack where
  thread : Thread
  uncorrectable : Bool := false
  deriving DecidableEq, Repr

/-- A DMA read that failed, and how (R384). -/
structure DmaFailure where
  read : DmaRead
  fault : DmaFault
  deriving DecidableEq, Repr

/-- A host's memory or configuration request (R368, R370, R371, R389). -/
structure HostReq where
  space : HostSpace := .window
  write : Bool
  attr : TlpAttr := {}
  deriving DecidableEq, Repr

/-- A flash controller operation (R502): bytes programmed from an address, a range erased, or the boot record with
which the Enclosure activates a new image of itself (R113, R116). -/
inductive FlashOp where
  | program (addr : Word) (data : List Byte)
  | erase (addr : Word) (len : Nat)
  | activate (slotB : Bool)
  deriving DecidableEq, Repr

end Sys2Proof
end

