-- ==== Sys2Proof/Syntax.lean ====
section
/-! DEFINITION. The commands of the block: one constructor per row of spec/opcode_table.json, in the table's order. -/

namespace Sys2Proof

/-- The commands. An event row carries what the outside world shows the module at that event; an instruction row
carries the thread that executes it and its register operands. -/
inductive Instr where
  -- power, boot and seed (02, 04, 05, 06)
  | powerOn (vsupMv : Half) (svc5v : Bool)
  | romSequence (sense : RomSense)
  | bootHandover (r : Req) (key : Byte)
  | seedApply (sense : SeedSense)
  | commonsBind (errA errB : Bool)
  | coldResetRequest (r : Req)
  | warmResetRequest (r : Req)
  | mainPowerLost
  | pllLockLoss (pll : Fin 3)
  | svc5vApplied
  | vsupOnServiceSupply (mv : Half)
  | vsupOvervoltage (mv : Half)
  | vsupLowRange (mv : Half)
  | railOverload (j : Fin 8) (load : RailLoad)
  | railHiccup (j : Fin 8)
  | railRestart (j : Fin 8)
  | bayPowerRequest (r : Req) (b : Bay) (on : Bool)
  | bayOutputFault (b : Bay)
  | bayReenable (b : Bay)
  | bayBudgetShed (baseMc : Int) (m0 m1 m2 m3 : Half) (tripped : BitVec 4)
  | thermalWarn (tj : Byte)
  | thermalShed (tj : Byte)
  | thermalShutdown (tj : Byte)
  | thermalRecovery (tj : Byte)
  | ignChange (level : Bool)
  | safeInAssert (asserted : Bool)
  | svcPresentChange (high : Bool)
  | nvProtDeassert (asserted : Bool)
  -- the backup domain (03)
  | supplySwitchover (src : Fin 3) (battMv vcapMv vbkMv : Half)
  | vbkLow (vbkMv : Half)
  | powerDecay
  | decayRecovery
  | backupPor
  | bkpResetWrite (r : Req) (key : Byte)
  | calSecond
  | calSecLoRead (r : Req)
  | timeLoRead (r : Req)
  | calApply (r : Req)
  | calApplyEdge
  | alarmWrite (r : Req) (a : Fin 4) (hi : Bool) (value : Word)
  | alarmFire (a : Fin 4)
  | wakeoutRelease (a : Fin 4)
  | wakePulseEnd
  | intrusionTrip (sensors : BitVec 6)
  | fuseBlow (r : Req) (bitNo : BitVec 12)
  | fuseBlowDone (verified : Bool)
  | remeasureDone (uncorrectable : Bool) (timeUs : Half)
  -- modes (04)
  | sleepRequest (r : Req)
  | sleepDrainEnd
  | sleepDrainTimeout
  | wakePathComplete (latUs : BitVec 12)
  | serviceExitRequest (r : Req)
  | serviceWindowEnd
  -- clocks (07)
  | furrowFreqWrite (r : Req) (f : Furrow) (hz : BitVec 27)
  | furrowRelockStart (f : Furrow)
  | furrowLocked (f : Furrow)
  | furrowWriteAbandon (f : Furrow)
  | clockMeasureStart (r : Req) (dom : BitVec 6)
  | clockMeasureDone (count : BitVec 24)
  | d5Hop
  -- channels (08, 09, 10, 11)
  | channelEnable (r : Req) (n : Chan)
  | channelReset (r : Req) (n : Chan)
  | characterReceive (n : Chan) (samples : List Samples) (startAmp : Byte) (peak : PeakSeen)
  | frameComplete (n : Chan)
  | frameConfirm (n : Chan)
  | frameGapTimeout (n : Chan)
  | overlap (n : Chan) (amp : Byte) (edge : Bool)
  | ovlHoldEnd (n : Chan)
  | pinChange (n : Chan) (levels : BitVec 4)
  | post (n : Chan)
  | postDeadline (n : Chan)
  | replyStart (due : ReplyDue)
  | replyDone (n : Chan)
  | replyAbandon (n : Chan)
  | replyOutcome (n : Chan)
  | txPost (r : Req) (n : Chan) (cells : BitVec 6) (len : BitVec 12)
  | txFrameStart (n : Chan)
  | txFrameDone (n : Chan)
  | txCollision (n : Chan)
  | retryBackoffEnd (n : Chan)
  | watchMatch (n : Chan) (address : Byte)
  | watchHandback (n : Chan)
  | csTransferStart (n : Chan)
  | csTransferEnd (n : Chan) (words : List Word)
  | strbWaitEnd (n : Chan) (bits : Nat) (words : List Word)
  | modeFault (n : Chan)
  | modeFaultClear (r : Req) (n : Chan)
  | slaveSelect (n : Chan)
  | slaveWord (n : Chan) (word : Word)
  | slaveRelease (n : Chan) (partialBits : Nat)
  | errSubwindow (n : Chan)
  | pinMonitorSample (n : Chan) (pin : Fin 4) (reading : PinReading)
  | pinFaultPersist (n : Chan)
  | driverLinkLoss (j : Fin 8)
  | retireFoldDone
  | sysUnretireWrite (r : Req) (n : Chan)
  -- the drill and the books (12, 20)
  | channelEventAdmit (q : EventQueue)
  | taskDispatch
  | agePromotion (d : Fin 1024)
  | matchTimeout (e : Fin 512)
  | taskRelease (d : Fin 1024)
  | drillTimerStart (r : Req) (i : Fin 64)
  | drillTimerFire (i : Fin 64)
  | deadlinePass (t : Thread)
  | histClear (r : Req)
  | loadWindowEnd (c : Fin 4)
  | overloadSubwindow (f : BitVec 12)
  | snapshotStart (r : Req)
  | snapshotDone
  -- cores (13)
  | taskStart (t : Thread)
  | interruptStart (t : Thread)
  | tickExpire (t : Thread)
  | kick (r : Req) (core th : Fin 4)
  | coreModeChange (c : Fin 4)
  | loadE (r : Req)
  | loadC (r : Req)
  | vectorLoadDone
  | lineFillDone (c : Fin 4) (encl : Bool) (addr : Word) (uncorrectable : Bool)
  | dataReturn (back : DataBack)
  -- instructions (14)
  | add (t : Thread) (rd rs1 rs2 : Gpr)
  | sub (t : Thread) (rd rs1 rs2 : Gpr)
  | and (t : Thread) (rd rs1 rs2 : Gpr)
  | or (t : Thread) (rd rs1 rs2 : Gpr)
  | xor (t : Thread) (rd rs1 rs2 : Gpr)
  | sll (t : Thread) (rd rs1 rs2 : Gpr)
  | srl (t : Thread) (rd rs1 rs2 : Gpr)
  | sra (t : Thread) (rd rs1 rs2 : Gpr)
  | slt (t : Thread) (rd rs1 rs2 : Gpr)
  | sltu (t : Thread) (rd rs1 rs2 : Gpr)
  | min (t : Thread) (rd rs1 rs2 : Gpr)
  | max (t : Thread) (rd rs1 rs2 : Gpr)
  | minu (t : Thread) (rd rs1 rs2 : Gpr)
  | maxu (t : Thread) (rd rs1 rs2 : Gpr)
  | clz (t : Thread) (rd rs1 : Gpr)
  | popc (t : Thread) (rd rs1 : Gpr)
  | bswap (t : Thread) (rd rs1 : Gpr)
  | cmp (t : Thread) (rs1 rs2 : Gpr)
  | mul (t : Thread) (rd rs1 rs2 : Gpr)
  | mulh (t : Thread) (rd rs1 rs2 : Gpr)
  | mulhu (t : Thread) (rd rs1 rs2 : Gpr)
  | div (t : Thread) (rd rs1 rs2 : Gpr)
  | divu (t : Thread) (rd rs1 rs2 : Gpr)
  | rem (t : Thread) (rd rs1 rs2 : Gpr)
  | remu (t : Thread) (rd rs1 rs2 : Gpr)
  | addi (t : Thread) (rd rs1 : Gpr) (imm : Half)
  | andi (t : Thread) (rd rs1 : Gpr) (imm : Half)
  | ori (t : Thread) (rd rs1 : Gpr) (imm : Half)
  | xori (t : Thread) (rd rs1 : Gpr) (imm : Half)
  | slti (t : Thread) (rd rs1 : Gpr) (imm : Half)
  | sltui (t : Thread) (rd rs1 : Gpr) (imm : Half)
  | shiSll (t : Thread) (rd rs1 : Gpr) (sh : BitVec 5)
  | shiSrl (t : Thread) (rd rs1 : Gpr) (sh : BitVec 5)
  | shiSra (t : Thread) (rd rs1 : Gpr) (sh : BitVec 5)
  | lui (t : Thread) (rd : Gpr) (imm : Half)
  | cmpi (t : Thread) (rs1 : Gpr) (imm : Half)
  | lb (t : Thread) (rd rs1 : Gpr) (imm : Half)
  | lbu (t : Thread) (rd rs1 : Gpr) (imm : Half)
  | lh (t : Thread) (rd rs1 : Gpr) (imm : Half)
  | lhu (t : Thread) (rd rs1 : Gpr) (imm : Half)
  | lw (t : Thread) (rd rs1 : Gpr) (imm : Half)
  | sb (t : Thread) (rs2 rs1 : Gpr) (imm : Half)
  | sh (t : Thread) (rs2 rs1 : Gpr) (imm : Half)
  | sw (t : Thread) (rs2 rs1 : Gpr) (imm : Half)
  | amoswap (t : Thread) (rd rs1 rs2 : Gpr)
  | amoadd (t : Thread) (rd rs1 rs2 : Gpr)
  | amoand (t : Thread) (rd rs1 rs2 : Gpr)
  | amoor (t : Thread) (rd rs1 rs2 : Gpr)
  | cas (t : Thread) (rd rs1 rs2 : Gpr)
  | bcc (t : Thread) (cond : BitVec 4) (off : BitVec 22)
  | cbz (t : Thread) (rs1 : Gpr) (imm : Half)
  | cbnz (t : Thread) (rs1 : Gpr) (imm : Half)
  | j (t : Thread) (off : BitVec 26)
  | jal (t : Thread) (off : BitVec 26)
  | jalr (t : Thread) (rd rs1 : Gpr) (imm : Half)
  | bmov (t : Thread) (rd rs1 rs2 : Gpr)
  | nop (t : Thread)
  | csync (t : Thread)
  | fence (t : Thread)
  | waiti (t : Thread)
  | reti (t : Thread)
  | trap (t : Thread) (imm : Half)
  | brk (t : Thread) (imm : Half)
  | stile (t : Thread) (service : Half)
  | leave (t : Thread)
  | tdone (t : Thread) (status : Byte)
  | getf (t : Thread) (rd : Gpr)
  | setf (t : Thread) (rs1 : Gpr)
  | tsync (t : Thread)
  | temit (t : Thread) (rd rs1 : Gpr)
  | tcancel (t : Thread) (rd rs1 : Gpr)
  | tcancelEntry (t : Thread) (rd rs1 rs2 : Gpr)
  | tld (t : Thread) (td : Tile) (rs1 rs2 : Gpr)
  | tst (t : Thread) (ta : Tile) (rs1 rs2 : Gpr)
  | tmma (t : Thread) (td ta tb : Tile) (rs1 : Gpr)
  | tel (t : Thread) (td ta tb : Tile) (rs1 : Gpr)
  | tzero (t : Thread) (td : Tile)
  | tnote (t : Thread) (rs1 rs2 : Gpr)
  -- the tile engine (16)
  | geomWrite (r : Req) (tile : Tile) (value : Word)
  | tileExecute
  | tileCompletion
  | tilePolicyChange
  -- services, guards and the watchdog (15)
  | svcStatus (t : Thread)
  | svcGranary (t : Thread)
  | svcLedger (t : Thread)
  | ownerEnter (t : Thread)
  | ownerLeave (t : Thread)
  | svcMode (t : Thread)
  | svcTime (t : Thread)
  | svcReset (t : Thread)
  | guardProbe (r : Req) (value : Word)
  | guardLock (r : Req)
  | wdogKick (r : Req)
  | watchdogWarn
  | watchdogExpire
  -- bays (17)
  | sqDoorbell (b : Bay) (q : Fin 16) (value : BitVec 10)
  | cqDoorbell (b : Bay) (q : Fin 16) (value : BitVec 10)
  | sqFetchDone (b : Bay) (q : Fin 16) (entries : List (List Byte))
  | dataInDone (b : Bay) (slot : Fin 256) (data : List Byte)
  | submit (b : Bay)
  | cancel (b : Bay)
  | stageOpen (b : Bay)
  | stageWrite (b : Bay)
  | stageCheck (b : Bay) (uncorrectable : Bool)
  | stageActivate (b : Bay)
  | stageAbort (b : Bay)
  | stageEraseDone
  | stageCopyDone (uncorrectable : Bool)
  | granary (b : Bay)
  | status (b : Bay)
  | notifyGo (t : Thread) (b : Bay)
  | msixUnmask (b : Bay) (vec : Fin 32)
  | dmaError (b : Bay) (failure : DmaFailure)
  | bar2Access (b : Bay) (req : HostReq) (off : BitVec 20) (len : Nat) (data : List Byte)
  | ltrUpdate (b : Bay)
  | presenceChange (b : Bay) (present : Bool)
  | attentionButton (b : Bay)
  | buttonWindowEnd (b : Bay)
  | quiesceTimeout (b : Bay)
  | surpriseRemoval (b : Bay) (linkDown : Bool)
  | perstAssert (b : Bay)
  | perstDeassert (b : Bay)
  | hotReset (b : Bay)
  | functionLevelReset (b : Bay)
  | linkUp (b : Bay) (speed : BitVec 2) (credits : List Nat)
  -- the Granary (18, 19)
  | granaryStart (pufOk : Bool)
  | seal (entropyOk : Bool)
  | grnOpen
  | wrap
  | unwrap
  | mkleaf
  | grnExport
  | respond
  | check
  | sign (entropyOk : Bool)
  | pubkey
  | ecdh
  | hash
  | random (entropyOk : Bool)
  | nonce (entropyOk : Bool)
  | create (entropyOk : Bool)
  | delete
  | rebind
  | restore
  | nonceExpire
  | remaskPass
  | backupShareInvert
  | granaryCompletion
  -- the ledger (21)
  | ledgerRead (ecc : Ecc)
  | ledgerWrite
  | ledgerErase
  | cread
  | cadvance
  | log
  | lread (ecc : Ecc)
  | counterIncrement (c : Fin 4)
  | ledgerCompletion
  | patrolVisit (weak : Bool)
  | startPass (weakRows : List Nat)
  -- the Headland (22)
  | romInfo
  | romBuf (off : Nat) (data : List Byte)
  | romNonce
  | prov
  | provNonceExpire
  | slotaErase
  | slotaWrite (off len : Nat)
  | fieldCmd
  | info
  | time
  | buf (off : Nat) (data : List Byte)
  | hlNonce (entropyOk : Bool)
  | cert
  | exit
  | rd (addr : Word) (n : Nat)
  | wr (addr value : Word)
  | halt (t : Thread)
  | go (t : Thread)
  | regs (t : Thread)
  | hlStageOpen
  | hlStageWrite (off len : Nat)
  | hlStageCheck (uncorrectable : Bool)
  | hlStageActivate
  | hlStageAbort
  | unretire (n : Chan)
  | bkprst
  | vault (op : Byte) (owner : BitVec 6) (inlen auxlen : Nat) (entropyOk : Bool)
  | lineTimeout
  | dbgacc (op : BitVec 2) (data addr : Word)
  -- general and added rows
  | registerWrite (r : Req) (addr : Word) (width : Width) (value : Word)
  | svc5vRemoved
  | vsupReturnToRange (mv : Half)
  | flashOperationEnd (bank : Fin 4) (op : FlashOp)
  | updatefcReceived (b : Bay) (items : Nat)
  | l1Exit (b : Bay)
  | illegalInstruction (t : Thread) (word : Word)
  | dividerFree (c : Fin 4)
  | rstbEdgeOutsideTransfer (n : Chan)
  | headlandUnknownLine (overflow : Bool)
  deriving DecidableEq, Repr

end Sys2Proof
end

