-- ==== Sys2Proof/Decode.lean ====
section
/-! DEFINITION. The command a word spells by the opcode table's bits. No row of the table gives bits, so no word spells
a command; the cores' own instruction words are decoded in Sys2Proof/Machine/CoreWord.lean (R300, R301). -/

namespace Sys2Proof

def decodeTableWord (_nbits _w : Nat) : Option Instr := none

end Sys2Proof
end

