-- ==== Sys2Proof/Config.lean ====
section
/-! DEFINITION. What an implementation fixes and the values the manual leaves open. Each is a constant with no body,
applied to the operands it depends on or to State's counter of drawn values, so that no proof can see a value of it. -/

namespace Sys2Proof.Config

/-- Entropy: the `n`th drawn number (R148, R430). A draw of `w` bits takes its low `w` bits (log entry 6). -/
opaque entropy : Nat → Nat

/-- K_puf, the key the PUF and its helper data yield (R402); no statement rests on its value (log entry 6). -/
opaque puf : Nat

/-- The 40 PAYLOAD bytes of a housekeeping task: a cause code and its data, read by the resident firmware (R250);
the manual gives no codes. Arguments: the model's cause number and its data (log entry 7). -/
opaque hkPayload : Nat → Nat → Nat

/-- The temperature of the module's cavity at a model time, in °C plus 64 (R80, log entry 99). -/
opaque cavity : Nat → BitVec 8

/-- Whether a read of an Enclosure slot, B where the flag says so, meets an uncorrectable flash error at a model time
(R112, R117, log entry 91). -/
opaque slotError : Nat → Bool → Bool

/-- A value the manual leaves open and that no other constant names: kind, draw number. -/
opaque free : Nat → Nat → Nat

end Sys2Proof.Config
end

