-- ==== Sys2Proof/Machine/Tab.lean ====
section
/-! DEFINITION. Sparse tables in one canonical form (keys strictly rising, no entry equal to the default), the
byte memories built on them, and bytes inside fixed-width data. -/

namespace Sys2Proof.Machine

/-- A sparse table: the listed keys hold their values, every other key holds the default. -/
abbrev Tab (α : Type) := List (Nat × α)

/-- What key `k` holds: the value of the first pair with that key, else the default. -/
def tabGet {α : Type} (d : α) : Tab α → Nat → α
  | [], _ => d
  | (j, v) :: t, k => if j = k then v else tabGet d t k

/-- Key `k` removed. -/
def tabDrop {α : Type} (k : Nat) : Tab α → Tab α
  | [] => []
  | (j, v) :: t => if j = k then tabDrop k t else (j, v) :: tabDrop k t

/-- A pair put in its place among rising keys. -/
def tabInsert {α : Type} (k : Nat) (v : α) : Tab α → Tab α
  | [] => [(k, v)]
  | (j, w) :: t => if k < j then (k, v) :: (j, w) :: t else (j, w) :: tabInsert k v t

/-- Key `k` holds `v` from now on; the default is not listed. -/
def tabPut {α : Type} [DecidableEq α] (d : α) (t : Tab α) (k : Nat) (v : α) : Tab α :=
  if v = d then tabDrop k t else tabInsert k v (tabDrop k t)

/-- Keys strictly rising above `lo`, and no entry equal to the default. -/
def tabWfFrom {α : Type} [DecidableEq α] (d : α) : Nat → Tab α → Bool
  | _, [] => true
  | lo, (k, v) :: t => decide (lo ≤ k) && decide (v ≠ d) && tabWfFrom d (k + 1) t

/-- The canonical form: equal tables are equal lists. -/
def tabWf {α : Type} [DecidableEq α] (d : α) (t : Tab α) : Bool := tabWfFrom d 0 t

/-- A byte memory: the listed addresses hold their bytes, every other holds the erase value of that memory. -/
abbrev Memory := Tab Byte

/-- What an unlisted byte of SRAM reads as: zero (R103: SRAM is zeroed before use). -/
def sramBlank : Byte := 0#8
/-- What an unlisted byte of program flash or of the seed store reads as (log entry 4). -/
def norBlank : Byte := 0xFF#8
/-- What an unlisted byte of the ledger array reads as: erased, all ones (R458). -/
def ledgerBlank : Byte := 0xFF#8

/-- The canonical form of a memory with an erase value. -/
def Memory.wf (blank : Byte) (m : Memory) : Bool := tabWf blank m

/-- `n` bytes of a memory from address `a` upwards. -/
def memBytes (d : Byte) (m : Memory) (a : Nat) : Nat → List Byte
  | 0 => []
  | n + 1 => tabGet d m a :: memBytes d m (a + 1) n

/-- Bytes stored from address `a` upwards. -/
def memStore (d : Byte) (m : Memory) (a : Nat) : List Byte → Memory
  | [] => m
  | b :: bs => memStore d (tabPut d m a b) (a + 1) bs

/-- Every byte from `a` up to `a + n - 1` removed, so that it reads as the blank value. -/
def memErase (m : Memory) (a n : Nat) : Memory := m.filter fun p => decide (p.1 < a ∨ a + n ≤ p.1)

/-- The number a little-endian byte string spells (R5). -/
def leNat : List Byte → Nat
  | [] => 0
  | b :: bs => b.toNat + 256 * leNat bs

/-- The number a big-endian byte string spells. -/
def beNat (bs : List Byte) : Nat := leNat bs.reverse

/-- A number as `n` little-endian bytes. -/
def leBytes : Nat → Nat → List Byte
  | 0, _ => []
  | n + 1, x => BitVec.ofNat 8 x :: leBytes n (x / 256)

/-- A number as `n` big-endian bytes. -/
def beBytes (n x : Nat) : List Byte := (leBytes n x).reverse

/-- Byte `k` of a fixed-width datum, byte 0 in bits 7:0 (R5). -/
def byteAt {w : Nat} (x : BitVec w) (k : Nat) : Byte := x.extractLsb' (8 * k) 8

/-- Bits `lo` upward of a datum, `n` of them, as a number. -/
def bitsAt {w : Nat} (x : BitVec w) (lo n : Nat) : Nat := (x.toNat >>> lo) % 2 ^ n

/-- The datum with `n` bits at `lo` replaced. -/
def setBits {w : Nat} (x : BitVec w) (lo n v : Nat) : BitVec w :=
  let mask := ((2 ^ n - 1) <<< lo)
  BitVec.ofNat w ((x.toNat - (x.toNat &&& mask)) + (((v % 2 ^ n) <<< lo) &&& mask))

/-- The datum with byte `k` replaced. -/
def setByte {w : Nat} (x : BitVec w) (k : Nat) (b : Byte) : BitVec w := setBits x (8 * k) 8 b.toNat

/-- Bytes laid into a datum from byte `k` upwards. -/
def setBytes {w : Nat} (x : BitVec w) (k : Nat) : List Byte → BitVec w
  | [] => x
  | b :: bs => setBytes (setByte x k b) (k + 1) bs

/-- The first `n` bytes of a datum from byte `k`. -/
def bytesOf {w : Nat} (x : BitVec w) (k n : Nat) : List Byte := (List.range n).map fun i => byteAt x (k + i)

/-- A datum of `w` bits from bytes, byte 0 lowest, the rest zero. -/
def ofBytes (w : Nat) (bs : List Byte) : BitVec w := BitVec.ofNat w (leNat bs)

end Sys2Proof.Machine
end

