-- ==== Sys2Proof/Machine/State.lean ====
section
/-! DEFINITION. The state of the module, all of it plain data, and the state right after a cold reset. -/

namespace Sys2Proof.Machine

/-! ### Power and pins (02) -/

/-- A channel connector's pin rail (R35, R39, R40, R59 SYS.RAIL[j]). -/
structure Rail where
  en : Bool := false
  level5 : Bool := false
  hiccupAct : Bool := false
  overload : Bool := false
  /-- in current limit now (R40, R234) -/
  limit : Bool := false
  hiccups : Byte := 0
  current : Byte := 0
  deriving DecidableEq, Repr

/-- A bay's 12 V output (R47, R48, R50). -/
structure BayOut where
  on : Bool := false
  /-- its own fault trip is latched -/
  fault : Bool := false
  shed : Bool := false
  /-- what the bay's power controller asks for -/
  request : Bool := false
  /-- model time of the last fault trip -/
  tripAt : Nat := 0
  deriving DecidableEq, Repr

structure Power where
  rails : Vector Rail 8 := .replicate 8 {}
  bayOut : Vector BayOut 4 := .replicate 4 {}
  /-- VSUP present, above 6.0 V -/
  vsup : Bool := true
  ov : Bool := false
  ext : Bool := false
  extNow : Bool := false
  svc5v : Bool := false
  batt : Bool := false
  vsupMv : Half := 0
  thermShed : Bool := false
  warn : Bool := false
  tj : Byte := 0
  /-- the 135 °C shutdown of R55 holds until the junction is below 110 °C -/
  thermalOff : Bool := false
  order : Byte := 0
  totalMa : Half := 0
  deriving DecidableEq, Repr

/-- The levels of the input pins of J1 and J14 (R29, R34 › Edges: the levels of open pins). -/
structure Pins where
  ign : Bool := false
  /-- SAFE_IN counts as asserted (R31) -/
  safeIn : Bool := false
  svcPresentHigh : Bool := true
  nvProt : Bool := true
  deriving DecidableEq, Repr

/-! ### The backup domain (03) -/

structure Alarm where
  sec : W48 := 0
  en : Bool := false
  task : Bool := false
  wake : Bool := false
  wakeout : Bool := false
  fired : Bool := false
  /-- the firing asserts WAKE_OUT and is not yet released (R100) -/
  drives : Bool := false
  deriving DecidableEq, Repr

/-- One reader's shadow registers (R66, R67): the calendar's and TIME_HI's. -/
structure Shadow where
  secHi : Half := 0
  subsec : BitVec 15 := 0
  fields0 : Word := 0
  fields1 : Word := 0
  timeHi : Word := 0
  deriving DecidableEq, Repr

/-- CAL registers (R65 to R70, R80). -/
structure Calendar where
  sec : W48 := 0
  subsec : BitVec 15 := 0
  /-- D0 cycles within the trim period of 2^20 (R69) -/
  phase : BitVec 20 := 0
  set : W48 := 0
  trim : Byte := 0
  applyPending : Bool := false
  sets : Byte := 0
  steppedBack : Bool := false
  valid : Bool := false
  deriving DecidableEq, Repr

/-- TAMP registers (R73 to R78, R80). -/
structure Tamper where
  witness : Bool := false
  intrusion : Bool := false
  first : BitVec 3 := 0
  safePend : Bool := false
  safe : Bool := false
  /-- sticky bits in register order: MESH 0, LIGHT 1, TEMP_LO 2, TEMP_HI 3, GLITCH 4, OSC 5 -/
  sensors : BitVec 6 := 0
  time : W48 := 0
  temp : Byte := 0
  deriving DecidableEq, Repr

structure Backup where
  cause : BitVec 2 := 0
  vbkLow : Bool := false
  src : BitVec 2 := 0
  battMv : Half := 0
  vcapMv : Half := 0
  /-- model time of a 0x5A byte written to BKP.RESET that still awaits 0xA5 (R79) -/
  armed : Option Nat := none
  share : W256 := 0
  mask : W256 := 0
  /-- a power-loss clear holds the domain's logic (R64) -/
  held : Bool := false
  /-- a POR has happened since main power was last present -/
  por : Bool := false
  cal : Calendar := {}
  tamp : Tamper := {}
  alarms : Vector Alarm 4 := .replicate 4 {}
  /-- shadow sets, keyed 3 × thread + context, 48 the Headland, 49 the TAP (R67) -/
  shadows : Tab Shadow := []
  /-- model time from which the next inversion of the share in Backup is counted (R419) -/
  invertAt : Nat := 0
  deriving DecidableEq, Repr

/-! ### Modes and resets (04) -/

/-- Where Sleep entry stands (R87). -/
inductive SleepPhase where
  | awake
  | draining
  | asleep
  deriving DecidableEq, Repr

structure Sys where
  /-- SYS.MODE.MODE, codes of R81 -/
  mode : BitVec 3 := 3
  prev : BitVec 3 := 1
  limpSet : BitVec 4 := 0
  lock : BitVec 4 := 0
  sleepFail : Bool := false
  /-- the mode Service came from (R84) -/
  serviceFrom : BitVec 3 := 4
  sleep : SleepPhase := .awake
  /-- the wake path is running (R89) -/
  waking : Bool := false
  latUs : BitVec 12 := 0
  watchCh : Byte := 0
  /-- SYS.WAKE bits 5:0 -/
  wake : BitVec 6 := 0
  cause : BitVec 4 := 0
  wakeoutSw : Bool := false
  pulse : Bool := false
  /-- a cold reset has happened and the ROM sequence has not yet run (R114) -/
  romPending : Bool := true
  deriving DecidableEq, Repr

/-! ### Fuses and start (05) -/

structure Fuses where
  /-- the array (R106) -/
  array : BitVec 4096 := 0
  /-- the fuse view -/
  view : BitVec 4096 := 0
  /-- the bit being blown -/
  blowing : Option (BitVec 12) := none
  /-- bits that the fuse controller or the Enclosure still has to blow, in their order (R74, R108, R116) -/
  queue : List (BitVec 12) := []
  /-- the view's samples never agreed at this start (R106 › Edges) -/
  torn : Bool := false
  /-- bits whose blow was cut off, so that each start may read them differently (R108) -/
  uncertain : List (BitVec 12) := []
  done : Bool := false
  fail : Bool := false
  deriving DecidableEq, Repr

/-- Which Headland answers on J14 (R114, R479). -/
inductive Headland where
  | absent
  | rom
  | romStatusOnly
  | resident
  deriving DecidableEq, Repr

structure Boot where
  measValid : Bool := false
  romLocked : Bool := false
  commons : BitVec 2 := 0
  commonsSlot : Bool := false
  enclSlot : Bool := false
  fallback : Bool := false
  svn : Byte := 0
  failA : BitVec 4 := 0
  failB : BitVec 4 := 0
  mlen : BitVec 20 := 0
  entry : Vector Word 4 := .replicate 4 0
  meas : W256 := 0
  handoverUs : Half := 0
  liveUs : Half := 0
  remBusy : Bool := false
  remMatch : Bool := false
  trigger : BitVec 2 := 0
  runs : BitVec 4 := 0
  timeUs : Half := 0
  headland : Headland := .absent
  deriving DecidableEq, Repr

/-! ### The seed image (06) -/

/-- One entry of an applied seed record: its type, its record's LOCK flag and its bytes (R131, R133). -/
structure SeedEntry where
  type : Byte
  lock : Bool
  data : List Byte
  deriving DecidableEq, Repr

/-- What the staging session waits for (R143, R145): the command slot of a bay's command, if a bay issued it. -/
inductive StageWait where
  | idle
  | erasing (slot : Option (Fin 256))
  | copying (slot : Option (Fin 256)) (target : Bool)
  deriving DecidableEq, Repr

structure Seed where
  applied : Bool := false
  slot : Bool := false
  fallback : Bool := false
  lockdownOnly : Bool := false
  svn : Byte := 0
  failA : BitVec 4 := 0
  failB : BitVec 4 := 0
  issue : Word := 0
  digest : W256 := 0
  commit : Bool := false
  open_ : Bool := false
  source : BitVec 3 := 0
  result : BitVec 2 := 0
  code : BitVec 4 := 0
  /-- the ranges written in this session: offset and length -/
  written : List (Nat × Nat) := []
  /-- no WRITE has followed the last CHECK -/
  checkedLast : Bool := false
  wait : StageWait := .idle
  /-- a new seed image has been activated since the last start (R94) -/
  activated : Bool := false
  /-- the entries of the applied image in their order -/
  recs : List SeedEntry := []
  deriving DecidableEq, Repr

/-! ### Clocks (07) -/

structure FurrowReg where
  pending : Bool := false
  fail : Bool := false
  locked : Bool := false
  relocking : Bool := false
  /-- the frequency in force, 0 = off -/
  freq : BitVec 27 := 0
  next : BitVec 27 := 0
  /-- model time at which LOCKED was last set under R151 (R229) -/
  lockedAt : Option Nat := none
  /-- model time of the write that is pending (R151) -/
  writtenAt : Nat := 0
  deriving DecidableEq, Repr

/-- A dual-clock queue's counters (R155 to R159). -/
structure QStat where
  peak : Byte := 0
  stalls : Half := 0
  wr : Half := 0
  rd : Half := 0
  deriving DecidableEq, Repr

structure Clocks where
  strbRun : BitVec 16 := 0
  bayLock : BitVec 4 := 0
  hops : Half := 0
  step : Byte := 0
  measuring : Option (BitVec 6) := none
  measDone : Bool := false
  measCount : BitVec 24 := 0
  furrow : Vector FurrowReg 32 := .replicate 32 {}
  q : Tab QStat := []
  deriving DecidableEq, Repr

/-! ### Channels (08 to 11) -/

/-- The settings of CFG, RATE and FORMAT (R161, R165). -/
structure ChCfg where
  func : BitVec 3 := 0
  overlapCapture : Bool := false
  dropOldest : Bool := false
  bias : Bool := false
  term : Bool := false
  pm0 : BitVec 4 := 0
  pm1 : BitVec 4 := 0
  pm2 : BitVec 4 := 0
  pm3 : BitVec 4 := 0
  rate : Word := 0
  retries : BitVec 4 := 0
  oversample : BitVec 4 := 0
  overlapPct : Byte := 0
  fmt : Byte := 0
  deriving DecidableEq, Repr

structure ChPins where
  filter : Byte := 0
  fall : BitVec 4 := 0
  rise : BitVec 4 := 0
  inp : BitVec 4 := 0
  out : BitVec 4 := 0
  deriving DecidableEq, Repr

/-- An answer rule (R174). -/
structure Rule where
  computed : Bool := false
  hdrLen : BitVec 4 := 0
  send : BitVec 4 := 0
  fallback : BitVec 4 := 0
  tlen : BitVec 7 := 0
  turnNs : Word := 0
  mtch : DWord := 0
  mask : DWord := 0
  deriving DecidableEq, Repr

/-- Receive cell states (R167). -/
inductive RxCell where
  | free | filling | held | transit | tasked
  deriving DecidableEq, Repr

/-- Transmit cell states (R167). -/
inductive TxCell where
  | free | written | transit | queued | sending
  deriving DecidableEq, Repr

/-- A channel event (R172) before its DEADLINE is stamped. -/
structure ChEvent where
  ch : Chan
  kind : Byte
  rule : Byte := 0xFF
  seq : Byte := 0
  info : Byte := 0
  len : Half := 0
  /-- receive cells in the order they were taken -/
  cells : List (BitVec 5) := []
  noans : Bool := false
  late : Bool := false
  drops : Half := 0
  /-- model time of the frame's end, from which a post deadline counts (R173) -/
  since : Nat := 0
  /-- furrow cycles from the frame's end to the post deadline of the reply armed for it (R173, R177) -/
  postCycles : Nat := 0
  /-- the flow whose credit it carries in CHEV[f] -/
  flow : BitVec 12 := 0
  deriving DecidableEq, Repr

/-- The armed reply (R175 to R180). -/
structure Reply where
  seq : Byte
  rule : BitVec 4
  computed : Bool
  buf : BitVec 512
  len : BitVec 7
  /-- the SEND template's length and the FALLBACK template, as they stood at arming (R177, R178, R180) -/
  sendLen : BitVec 7 := 0
  fbBuf : BitVec 512 := 0
  fbLen : BitVec 7 := 0
  posted : Bool := false
  deadlinePassed : Bool := false
  fallback : Bool := false
  turnEnded : Bool := false
  sending : Bool := false
  late : Bool := false
  /-- model time of the frame's completion, from which the turnaround counts -/
  since : Nat
  /-- bytes already sent, of a bonded slave's reply (R222) -/
  sent : Nat := 0
  deriving DecidableEq, Repr

/-- A posted frame (R169): its cells in order, its length, the failed attempts so far, the bytes a slave has sent. -/
structure TxFrame where
  cells : List (BitVec 5)
  len : Nat
  attempt : BitVec 4 := 0
  sent : Nat := 0
  deriving DecidableEq, Repr

/-- What a reply came to, on its way to the drill (R252). -/
inductive ReplyEnd where
  | sent | fallback | abandoned
  deriving DecidableEq, Repr

/-- The async settings registers (R206). -/
structure AsyncRegs where
  cfg : Word := 0x00040000
  frame : Word := 0x00000001
  de : Word := 0x00000003
  addr : Word := 0x0000FF00
  deriving DecidableEq, Repr

/-- A frame in progress (R190): the cells taken, the bytes and characters so far. -/
structure RxFrame where
  cells : List (BitVec 5) := []
  len : Nat := 0
  chars : Nat := 0
  noise : Bool := false
  /-- model time of the last stop bit (R191) -/
  endedAt : Nat := 0
  /-- declared complete, awaiting the idle gap's confirmation (R191, mode 0) -/
  declared : Bool := false
  /-- no cell was free and the frame is being discarded as it arrives (R170) -/
  dropping : Bool := false
  /-- a false start has been seen inside the frame and no valid start since (R189) -/
  falseStart : Bool := false
  /-- the total length that the length byte gave (R190, mode 2) -/
  total : Option Nat := none
  /-- an error has been found and reported; the rest of the frame is discarded as it arrives (R193) -/
  failed : Bool := false
  deriving DecidableEq, Repr

/-- A watch channel's wake acknowledgement (R204): its turnaround runs, or its template is being sent. -/
inductive AckPhase where
  | turning | sending
  deriving DecidableEq, Repr

structure AsyncState where
  regs : AsyncRegs := {}
  /-- the values in force -/
  now : AsyncRegs := {}
  /-- ASYNC_STS bits 7:0 -/
  flags : Byte := 0
  ovlHold : Bool := false
  /-- the driver of a half-duplex line (R196): the model time it is enabled from, and the one it is disabled at -/
  driver : Option (Nat × Option Nat) := none
  line : Bool := true
  /-- the bits of the frame, reply or acknowledgement being sent, first bit first (R186, R194, R204) -/
  wire : List Bool := []
  /-- the wake acknowledgement of this Sleep (R204) -/
  ack : Option AckPhase := none
  peak : Byte := 0
  ref : Byte := 0
  ackAbandoned : Byte := 0
  matches_ : Byte := 0
  /-- on its sleep receiver (R205) -/
  onSleep : Bool := false
  /-- matched its address in this Sleep (R205) -/
  watchHit : Bool := false
  /-- ignoring characters up to the next address character (R200) -/
  ignoring : Bool := false
  /-- waiting for mark after a break (R189) -/
  breakWait : Bool := false
  deriving DecidableEq, Repr

/-- The clocked serial settings registers (R226). -/
structure CsRegs where
  cfg : Word := 0x4000F000
  timing : Word := 0x00401004
  frame : Word := 0x00000001
  strb : Word := 0x00001000
  deriving DecidableEq, Repr

structure CsState where
  regs : CsRegs := {}
  now : CsRegs := {}
  /-- CS_STS bits 4:0 -/
  flags : BitVec 5 := 0
  selIn : BitVec 4 := 0
  selActive : Bool := false
  underruns : Half := 0
  shorts : Byte := 0
  longs : Byte := 0
  strobes : Byte := 0
  modeFaults : Byte := 0
  /-- a master's SEL value that the selects carry, of the transfer in progress or held after it (R215 to R217) -/
  sel : Option (BitVec 4) := none
  /-- the transfer in progress: its word count -/
  xfer : Option Nat := none
  /-- a master's data out (R212): the bits of the transfer first bit first, its last bit once they are out; none: 0 -/
  sdo : List Bool := []
  /-- transfers with returned strobe whose capture window is still open, oldest first: word counts (R218) -/
  strbWait : List Nat := []
  prevWord : Word := 0
  frameDone : Bool := false
  /-- edges have come after the frame's completion (R223) -/
  longSeen : Bool := false
  /-- words received while SEL0 is asserted -/
  words : Nat := 0
  repeats : Nat := 0
  deriving DecidableEq, Repr

/-- A pin's condition, the model time its checkable samples have covered since its first faulty one, the model time
up to which that is counted (none: the last sample could not be checked), and their number (R235). -/
structure PinTimer where
  cond : BitVec 2 := 0
  acc : Nat := 0
  seen : Option Nat := none
  count : Nat := 0
  deriving DecidableEq, Repr

structure Health where
  windowMs : Half := 0
  errLimit : Half := 0
  pinFaultMs : Half := 0
  backoffUs : Half := 0
  /-- counted errors per sub-window, the current one first (R232) -/
  win : Vector Nat 8 := .replicate 8 0
  lastErr : Byte := 0
  attempt : BitVec 4 := 0
  retrying : Bool := false
  cntErrors : Word := 0
  /-- pins P0 to P3 of the channel, then of the odd channel of a pair -/
  pins : Vector PinTimer 8 := .replicate 8 {}
  deriving DecidableEq, Repr

/-- How a channel's pins are driven (R36, R58, R94, R96, R237, R53). -/
inductive PinDrive where
  | hiZ
  /-- as its function has them: the channel runs -/
  | func
  /-- in Sleep, P0 and P1 on the sleep transceiver and the other pins in their Sleep state (R53) -/
  | watch
  /-- the seed's safe levels -/
  | safe
  | sleep
  | retired
  deriving DecidableEq, Repr

structure ChRx where
  /-- the frame in progress -/
  cur : Option RxFrame := none
  cells : Vector RxCell 32 := .replicate 32 .free
  data : Tab (BitVec 512) := []
  last : BitVec 5 := 31
  /-- events waiting for admission, held frames among them, oldest first (R170, R451) -/
  held : List ChEvent := []
  /-- grants the channel holds (R451) -/
  grants : Nat := 0
  drops : Half := 0
  deriving DecidableEq, Repr

structure ChTx where
  tail : BitVec 5 := 0
  cells : Vector TxCell 32 := .replicate 32 .free
  data : Tab (BitVec 512) := []
  posted : List TxFrame := []
  /-- the first posted frame is being sent -/
  busy : Bool := false
  backoff : Bool := false
  deriving DecidableEq, Repr

/-- The six counters of 0x040 (R170 to R180). -/
structure ChCounters where
  frames : Word := 0
  drops : Word := 0
  replies : Word := 0
  fallbacks : Word := 0
  noans : Word := 0
  abandoned : Word := 0
  deriving DecidableEq, Repr

structure Channel where
  owner : Byte := 0
  en : Bool := false
  drive : PinDrive := .hiZ
  cfg : ChCfg := {}
  flow : BitVec 12 := 0
  evmask : BitVec 6 := 0
  pins : ChPins := {}
  rules : Tab Rule := []
  tpls : Tab (BitVec 512) := []
  postData : BitVec 512 := 0
  reply : Option Reply := none
  seq : Byte := 0
  /-- SEQ of the computed reply that ended last, for a post that comes after its deadline (R177) -/
  lateSeq : Option Byte := none
  postLate : Bool := false
  postRej : Bool := false
  txRej : Bool := false
  drop : Bool := false
  cnt : ChCounters := {}
  /-- outcomes of replies that the drill has not read -/
  outcomes : List (Byte × ReplyEnd) := []
  async : AsyncState := {}
  cs : CsState := {}
  health : Health := {}
  rx : ChRx := {}
  tx : ChTx := {}
  deriving DecidableEq, Repr

/-- An entry of CHWR[f] (R155). -/
inductive ChwrItem where
  | post (n : Chan) (seq : Byte) (off : BitVec 6) (len : BitVec 7) (data : BitVec 512)
  | handover (n : Chan) (frame : TxFrame)
  | grant (n : Chan)
  | release (n : Chan) (cells : List (BitVec 5))
  deriving DecidableEq, Repr

/-- The channels' common state. -/
structure Channels where
  ch : Vector Channel 128 := .replicate 128 {}
  retired : BitVec 128 := 0
  retirePending : Bool := false
  lastCause : BitVec 2 := 0
  lastCh : Byte := 0
  /-- channels whose RETIRED record is still to be written or folded (R237 step 5): cause, pin and condition -/
  toFold : List (Chan × Byte × Byte) := []
  /-- CHEV[f], oldest first -/
  chev : Tab (List ChEvent) := []
  /-- CHWR[f], oldest first -/
  chwr : Tab (List ChwrItem) := []
  deriving DecidableEq, Repr

/-! ### The drill and the books (12, 20) -/

structure Flow where
  en : Bool := false
  world : Bool := false
  ready : Bool := false
  kind : BitVec 2 := 0
  prio : BitVec 3 := 0
  cores : BitVec 4 := 0
  weight : Byte := 0
  vec : BitVec 6 := 0
  credits : BitVec 11 := 0
  /-- credits not Free: granted, in transit or used (R450) -/
  taken : Nat := 0
  bay : Byte := 0xFF
  locked : Bool := false
  /-- DRILL.TIME at which an atomic flow's oldest task last became the next to run (R253, R274) -/
  freedAt : Nat := 0
  nextOrder : Half := 0
  /-- the ORDER released next on an ordered flow (R254) -/
  nextRelease : Half := 0
  /-- ORDERs consumed by a cancel before their turn (R254) -/
  skipped : List Half := []
  overloadMs : Half := 0
  operands : BitVec 3 := 0
  timeoutUs : Word := 0
  deriving DecidableEq, Repr

inductive DescState where
  | free | queued | matching | transit | dispatched | releasing
  deriving DecidableEq, Repr

/-- What a housekeeping event is about; the codes software sees are not in the manual (R250). -/
inductive HkCause where
  | rail | vsup | therm | bayShed | ign | alarm | wake | retired | overload | bay | seed | ledger | tamper | granary
  deriving DecidableEq, Repr

/-- An entry of HKQ: its cause and its datum (a number of the object concerned). -/
structure HkEvent where
  cause : HkCause
  data : Nat
  deriving DecidableEq, Repr

/-- The parts of a descriptor that its record does not show. -/
structure DescLife where
  /-- DRILL.TIME at which the task became ready (R257, R274) -/
  readyAt : Nat := 0
  /-- the AGE_US periods it has waited: levels above its flow's (R259) -/
  boost : Nat := 0
  /-- a bay's service-flow command, which the resident firmware and no thread's selection takes up (R378) -/
  firm : Bool := false
  /-- the operand index of a held emission (R268) -/
  index : BitVec 2 := 0
  /-- completion status so far under R15 -/
  status : Byte := 0
  /-- TDONE has been given -/
  ended : Bool := false
  /-- channels whose events the task carries (R183) -/
  chans : List Chan := []
  /-- cells the task holds: channel and cell -/
  cells : List (Chan × BitVec 5) := []
  /-- the replies whose outcomes the task awaits: channel and SEQ (R252) -/
  awaits : List (Chan × Byte) := []
  /-- the bay commands that issued it: bay and command slot -/
  slots : List (Bay × Fin 256) := []
  /-- for an emission of an ordered flow's task: the parent descriptor, until its release (R268) -/
  parent : Option (Fin 1024) := none
  /-- the housekeeping event that the task carries (R90) -/
  hk : Option HkEvent := none
  /-- the task's result words and length, for a bay command's DIR OUT (R381) -/
  result : DWord := 0
  deriving DecidableEq, Repr

/-- A task descriptor (R248 to R250), with what its release still needs. -/
structure Desc where
  st : DescState := .free
  flow : BitVec 12 := 0
  src : Byte := 0
  expired : Bool := false
  partial_ : Bool := false
  solo : Bool := false
  aged : Bool := false
  missed : Bool := false
  order : Half := 0
  arrival : Word := 0
  deadline : Word := 0
  opmask : BitVec 4 := 0
  level : BitVec 3 := 0
  entry : Half := 0xFFFF
  tag : Half := 0
  thread : BitVec 4 := 0
  bay : Byte := 0xFF
  payload : BitVec 320 := 0
  life : DescLife := {}
  deriving DecidableEq, Repr

inductive EntryState where
  | free | waiting | attached
  deriving DecidableEq, Repr

/-- A matching-store entry (R262): its operand cells of 32 bytes. -/
structure MatchEntry where
  st : EntryState := .free
  flow : BitVec 12 := 0
  /-- none: untagged -/
  tag : Option Half := none
  opened : Nat := 0
  desc : BitVec 10 := 0
  cells : Vector W256 4 := .replicate 4 0
  deriving DecidableEq, Repr

structure DrillTimer where
  en : Bool := false
  periodic : Bool := false
  flow : BitVec 12 := 0
  period : Word := 0
  next : Word := 0
  missed : Half := 0
  fires : Word := 0
  deriving DecidableEq, Repr

/-- A level's round-robin place (R258): the flow whose turn it is and the selections it has used. -/
structure Turn where
  flow : BitVec 12 := 4095
  used : Nat := 256
  deriving DecidableEq, Repr

/-- DRILL.SHED[f] (R454, R457). -/
structure Shed where
  refused : Word := 0
  overload : Bool := false
  shedding : Bool := false
  run : BitVec 4 := 0
  deriving DecidableEq, Repr

/-- An entry of RET[c] (R155, R157): a task's end with its status. -/
structure RetItem where
  thread : Thread
  desc : Fin 1024
  status : Byte
  deriving DecidableEq, Repr

structure Drill where
  flows : Tab Flow := []
  descs : Tab Desc := []
  entries : Tab MatchEntry := []
  timers : Vector DrillTimer 64 := .replicate 64 {}
  time : DWord := 0
  ageUs : Half := 0x03E8
  winMs : Byte := 0x0A
  peak : Vector (BitVec 11) 8 := .replicate 8 0
  load : Vector (BitVec 10) 4 := .replicate 4 0
  tload : Vector (BitVec 10) 16 := .replicate 16 0
  /-- DRILL.TIME at which the window of LOAD and TLOAD began, and the cycles each thread has held a task since (R274) -/
  loadAt : Vector Nat 4 := .replicate 4 0
  busy : Vector Nat 16 := .replicate 16 0
  timeouts : Half := 0
  duplicates : Half := 0
  /-- HIST[p][b], keyed 16p + b -/
  hist : Tab Word := []
  turns : Vector Turn 8 := .replicate 8 {}
  shed : Tab Shed := []
  /-- DISP[c] and RET[c], oldest first (R155) -/
  disp : Vector (List (Thread × Fin 1024)) 4 := .replicate 4 []
  ret : Vector (List RetItem) 4 := .replicate 4 []
  /-- HKQ, oldest first -/
  hkq : List HkEvent := []
  /-- the RESERVE fields in force (R256), 0xFFFF none -/
  reserve : Vector Half 16 := .replicate 16 0xFFFF
  /-- ENCL_THREADS in force -/
  enclThreads : BitVec 16 := 0x0001
  deriving DecidableEq, Repr

/-- BOOKS (R446 to R457): the results of the last snapshot, keyed by register offset / 4. -/
structure Books where
  epoch : Bool := false
  busy : Bool := false
  done : Bool := false
  aborted : Bool := false
  imbal : BitVec 10 := 0
  time : Word := 0
  /-- the counts latched in phase 1, then the results shown -/
  latched : Tab Word := []
  shown : Tab Word := []
  deriving DecidableEq, Repr

/-! ### Cores and threads (13, 14) -/

/-- The control fields that CSYNC brings into force (R295). -/
structure Ctl where
  imask : BitVec 5 := 0
  epc : Word := 0
  /-- ESTS: bit 31 IDLE, bit 30 WORLD, bits 7:0 FLAGS -/
  ests : Word := 0
  stack : Word := 0
  deriving DecidableEq, Repr

/-- A line of 32 bytes that a line store or a data cache holds: the world of its ways and its address / 32 (R281, R292,
R294). Its bytes are those at that address in the memories (log entry 126). -/
structure CacheLine where
  encl : Bool
  line : Nat
  deriving DecidableEq, Repr

/-- An instruction that an interrupt may still abandon (R286, R323): its address, what it replaced, its result. -/
structure Outstanding where
  pc : Word
  rd : Gpr
  old : Word
  result : Word
  /-- the result is kept in the return latch when abandoned (an access or a drill request); otherwise the
  instruction is executed again from the start -/
  latched : Bool
  /-- the data cache line that a load's data fills (R292) -/
  fill : Option CacheLine := none
  /-- a load from program flash (R502) -/
  flash : Bool := false
  deriving DecidableEq, Repr

inductive RunState where
  | idle | running | held
  deriving DecidableEq, Repr

/-- A thread's control registers (R296). -/
structure ThrCtl where
  ipend : BitVec 5 := 0
  tick : Word := 0
  /-- as written -/
  ctl : Ctl := {}
  /-- in force -/
  now : Ctl := {}
  /-- fields last written by another thread: bit 0 IMASK, 1 EPC, 2 ESTS, 3 STACK -/
  foreign : BitVec 4 := 0
  deriving DecidableEq, Repr

/-- A hardware thread (R297, R327). -/
structure Thr where
  run : RunState := .idle
  commons : Vector Word 32 := .replicate 32 0
  encl : Vector Word 32 := .replicate 32 0
  pc : Word := 0
  flags : BitVec 4 := 0
  /-- the return stack, newest first -/
  ret : List Word := []
  /-- FLAGS and return stack saved beside the Commons bank (R327) -/
  savedFlags : BitVec 4 := 0
  savedRet : List Word := []
  latch : Option (Word × Word) := none
  outstanding : Option Outstanding := none
  /-- a task started and its first instruction has not issued (R288) -/
  starting : Bool := false
  task : Option (Fin 1024) := none
  /-- in an interrupt or exception handler until RETI -/
  inInt : Bool := false
  /-- inside STILE: the address of the STILE instruction -/
  stile : Option Word := none
  /-- running the DEBUG handler (R326) -/
  debug : Bool := false
  /-- running the Enclosure's double-fault entry (R322, R326) -/
  dfault : Bool := false
  /-- waiting in WAITI -/
  waiting : Bool := false
  /-- waiting in TSYNC -/
  syncing : Bool := false
  /-- DLINE has been set for the running task (R289) -/
  dlineDone : Bool := false
  /-- BAY.TRESULT[t] (R381) -/
  result : DWord := 0
  ext : ThrCtl := {}
  deriving DecidableEq, Repr

/-- An entry of the branch-target buffer (R281): its world tag, its branch, its target and its direction counter. -/
structure BtbEntry where
  encl : Bool
  pc : Word
  target : Word
  count : BitVec 2
  deriving DecidableEq, Repr

/-- A core's line store, data cache and branch-target buffer (R281, R292, R294). -/
structure Caches where
  lines : List CacheLine := []
  dlines : List CacheLine := []
  btb : List BtbEntry := []
  deriving DecidableEq, Repr

structure Core where
  single : Bool := false
  /-- a mode change waiting under R280 -/
  modeNext : Option Bool := none
  perfIssue : Word := 0
  perfImiss : Word := 0
  perfDmiss : Word := 0
  perfMispred : Word := 0
  /-- the thread holding the divider (R304) -/
  divider : Option Thread := none
  deriving DecidableEq, Repr

structure Cores where
  thr : Vector Thr 16 := .replicate 16 {}
  core : Vector Core 4 := .replicate 4 {}
  vbaseE : Word := 0
  vbaseC : Word := 0
  eValid : Bool := false
  cValid : Bool := false
  loadingE : Bool := false
  loadingC : Bool := false
  /-- the vector line store: 80 lines of 32 bytes per world (R283) -/
  vlsE : List Byte := []
  vlsC : List Byte := []
  deriving DecidableEq, Repr

/-! ### Guards and worlds (15) -/

/-- GUARD[g].REGION[r] (R335, R346). -/
structure Region where
  base : Word := 0
  limit : Word := 0
  en : Bool := false
  fixed : Bool := false
  perm : BitVec 3 := 0
  world : Bool := false
  owner : Byte := 0
  bay : Byte := 0
  deriving DecidableEq, Repr

structure Guards where
  /-- keyed 16g + r -/
  region : Tab Region := []
  lock : Bool := false
  vcnt : Vector Half 22 := .replicate 22 0
  vlastSrc : BitVec 5 := 0
  vlastKind : BitVec 3 := 0
  vlastWrite : Bool := false
  vlastFetch : Bool := false
  vlastAddr : Word := 0
  towner : Vector Byte 16 := .replicate 16 0xFF
  probeAddr : Word := 0
  probeLen : Word := 0
  /-- PROBE_REQ.SRC, which a reserved code leaves unchanged (R10) -/
  probeSrc : BitVec 5 := 0
  probeDone : Bool := false
  probeAllow : Bool := false
  deriving DecidableEq, Repr

structure World where
  /-- PERIOD_MS in force and as written (R342) -/
  period : BitVec 12 := 250
  periodNext : BitVec 12 := 250
  /-- D3 cycles since the last reload in which the watchdog ran -/
  elapsed : Nat := 0
  started : Bool := false
  warned : Bool := false
  restart : Bool := false
  cause : BitVec 2 := 0
  thread : Byte := 0
  lastUs : Half := 0
  /-- model time at which the running restart was triggered -/
  restartAt : Nat := 0
  /-- model times of the Enclosure restarts of the last 600 s (R345) -/
  times : List Nat := []
  cfLast : Byte := 0
  cfCount : Half := 0
  /-- Commons threads whose double fault is held until the restart ends (R343 › Edges) -/
  cfHeld : List Thread := []
  stileStack : Vector Word 16 := .replicate 16 0
  deriving DecidableEq, Repr

/-! ### The tile engine (16) -/

/-- A tile's geometry (R347). -/
structure Geom where
  rows : BitVec 7 := 64
  rbytes : BitVec 7 := 64
  fmt : BitVec 3 := 0
  deriving DecidableEq, Repr

/-- A tile register T0 to T15 (R347, R349, R361). -/
structure TileReg where
  geom : Geom := {}
  /-- the 4 KiB, byte 64 i + b of row i -/
  bytes : Tab Byte := []
  /-- the guard byte of int32 element [i][j], keyed 16 i + j (R349) -/
  guards : Tab Byte := []
  /-- STS bits 4:1: OVF 0, SAT 1, FPX 2, BAD 3 -/
  flags : BitVec 4 := 0
  ovrow : DWord := 0
  marked : Bool := false
  deriving DecidableEq, Repr

/-- A tile instruction's operation with the register values it was issued with (R319). -/
inductive TileOp where
  | tld (td : Tile) (addr ctl : Word)
  | tst (ta : Tile) (addr ctl : Word)
  | tmma (td ta tb : Tile) (ctl : Word)
  | tel (td ta tb : Tile) (ctl : Word)
  | tzero (td : Tile)
  | tnote (target word : Word)
  deriving DecidableEq, Repr

/-- An entry of TLQ (R341, R351): an instruction with its thread, that thread's executing world and owner tag at
issue, the flow of its task and the task (descriptor and ORDER); a GEOM write; the zeroing of marked tiles. -/
inductive TileEntry where
  | op (t : Thread) (encl : Bool) (owner : Byte) (flow : Option (BitVec 12)) (task : Option (Fin 1024 × Half)) (o : TileOp)
  | geom (t : Tile) (value : Word)
  | zeroMarked
  deriving DecidableEq, Repr

/-- A TNOTE on its way to the drill (R363, R364). -/
structure TileNote where
  target : Word
  word : Word
  flags : BitVec 4
  encl : Bool
  flow : Option (BitVec 12)
  deriving DecidableEq, Repr

/-- An entry of TLC (R320, R362): the instruction's thread, whether it overflowed, and its note. -/
structure TileDone where
  thread : Thread
  task : Option (Fin 1024 × Half) := none
  ovf : Bool := false
  note : Option TileNote := none
  deriving DecidableEq, Repr

structure TileEngine where
  tiles : Vector TileReg 16 := .replicate 16 {}
  enclTiles : Half := 0
  policy : Bool := false
  trap : Bool := false
  /-- ENCL_TILES and POLICY written, awaiting an idle engine (R365) -/
  change : Option (Half × Bool) := none
  tlq : List TileEntry := []
  tlc : List TileDone := []
  noteDrops : Half := 0
  perfBusy : Word := 0
  /-- flags each thread's instructions raised since its last TNOTE (R364) -/
  since : Vector (BitVec 4) 16 := .replicate 16 0
  deriving DecidableEq, Repr

/-! ### Bays (17) -/

/-- HB.SQ[q] (R374 to R376). -/
structure SubQ where
  base : DWord := 0
  en : Bool := false
  cqid : BitVec 4 := 0
  owner : Byte := 0xFF
  size : BitVec 11 := 2
  err : Bool := false
  head : BitVec 10 := 0
  tail : BitVec 10 := 0
  /-- entries of the read in flight -/
  fetching : Nat := 0
  deriving DecidableEq, Repr

/-- HB.CQ[q] (R374 to R376, R382). -/
structure CmpQ where
  base : DWord := 0
  en : Bool := false
  ien : Bool := false
  vec : BitVec 5 := 0
  size : BitVec 11 := 2
  phase : Bool := true
  tail : BitVec 10 := 0
  /-- the host's head, from its doorbell -/
  head : BitVec 10 := 0
  reserved : Nat := 0
  deriving DecidableEq, Repr

/-- Where a fetched command stands (R380). -/
inductive CmdState where
  /-- its DIR IN data phase runs -/
  | dataIn
  /-- to be carried out by the row of its opcode -/
  | ready
  /-- a task carries it -/
  | admitted
  /-- the firmware has taken it up, and its end is still to come -/
  | served
  deriving DecidableEq, Repr

/-- A command slot in use (R376, R377, R382). -/
structure BayCmd where
  slot : Fin 256
  q : Fin 16
  sqhd : BitVec 10
  body : BitVec 512
  st : CmdState
  deriving DecidableEq, Repr

/-- An MSI-X table entry and its pending bit (R387). -/
structure Vec where
  addr : DWord := 0
  data : Word := 0
  mask : Bool := true
  pending : Bool := false
  deriving DecidableEq, Repr

/-- What the module sends to the host (R376, R380 to R391). -/
inductive HostItem where
  | write (addr : DWord) (data : List Byte)
  | completion (cq : Fin 16) (addr : DWord) (entry : BitVec 128)
  | message (vec : BitVec 5) (addr : DWord) (data : Word)
  | read (addr : DWord) (len : Nat)
  | reply (data : List Byte) (attr : TlpAttr)
  | ltr (value : BitVec 13) (required : Bool)
  deriving DecidableEq, Repr

/-- An item in BAYOUT[b], or sent and its credits not yet returned (R456). -/
structure HostOut where
  item : HostItem
  ido : Bool := false
  sent : Bool := true
  deriving DecidableEq, Repr

/-- A notice or a completion for the host (R397). -/
def HostOut.completes (o : HostOut) : Bool := match o.item with
  | .completion _ _ _ => true
  | _ => false

structure BayState where
  -- slot control (R392 to R397)
  wakeEn : Bool := false
  btnAct : Bool := false
  autoOff : Bool := true
  autoOn : Bool := true
  pwr : Bool := false
  ind : BitVec 3 := 0
  /-- IND before the removal sequence began -/
  indSaved : BitVec 3 := 0
  quiesced : Bool := false
  btnPend : Bool := false
  present : Bool := false
  dllsc : Bool := false
  pdc : Bool := false
  abp : Bool := false
  pfault : Bool := false
  -- the link (R366, R396 to R398)
  cause : BitVec 4 := 0
  resets : Byte := 0
  perst : Bool := true
  speed : BitVec 2 := 0
  link : BitVec 3 := 0
  /-- the transmit credits the host advertises at link up: PH, PD, NPH, NPD, CPLH, CPLD; 0 = infinite (R446, R456) -/
  txLimit : Vector Nat 6 := .replicate 6 0
  /-- writable configuration registers, by dword offset (R368, R369) -/
  cfg : Tab Word := []
  -- commands (R374 to R386)
  dmaErr : Bool := false
  busys : Byte := 0
  sq : Vector SubQ 16 := .replicate 16 {}
  cq : Vector CmpQ 16 := .replicate 16 {}
  /-- the queue whose fetch turn was last -/
  turn : Fin 16 := 15
  /-- commands in use, in the order they were fetched -/
  cmds : List BayCmd := []
  vecs : Vector Vec 32 := .replicate 32 {}
  evtIen : Bool := false
  evtVec : BitVec 5 := 0
  quiescing : Bool := false
  chsel : BitVec 7 := 0
  notifyLo : Word := 0
  notifyHi : Word := 0
  notifyCq : BitVec 4 := 0
  notifyTag : Half := 0
  out : List HostOut := []
  -- LTR (R390, R391)
  ltrSent : Half := 0
  /-- the last value sent: SCALE in bits 12:10, VALUE in 9:0 -/
  ltrLast : BitVec 13 := 0
  /-- the tolerance last sent in ns, none before the first message -/
  ltrNs : Option Nat := none
  ltrAt : Nat := 0
  deriving DecidableEq, Repr

/-! ### The Granary (18, 19) -/

/-- A secret held as data and mask registers whose XOR is the value (R418). -/
structure Masked where
  d : W256 := 0
  q : W256 := 0
  deriving DecidableEq, Repr

inductive SlotState where
  | free | cached | busy | transit
  deriving DecidableEq, Repr

/-- A key slot (R413, R414). -/
structure KeySlot where
  st : SlotState := .free
  id : W256 := 0
  key : Masked := {}
  usage : Byte := 0
  alg : Byte := 0
  attr : Word := 0
  notAfter : W48 := 0
  owner : BitVec 6 := 0
  /-- the lengthened path's number of steps -/
  depth : Nat := 0
  stamp : Nat := 0
  deriving DecidableEq, Repr

/-- A live vault nonce with its ephemeral private key (R434). -/
structure VaultNonce where
  nonce : BitVec 128
  priv : W256
  issued : Nat
  deriving DecidableEq, Repr

/-- Who waits for a Granary or ledger request (R330, R378, R426): a thread in STILE with WAIT 1, a completion flow
with WAIT 0 and the descriptor's address, a bay's command slot, or the hardware's own fold. -/
inductive Caller where
  | wait (t : Thread)
  | flow (t : Thread) (target addr : Word)
  | cmd (b : Bay) (slot : Fin 256)
  | fold
  deriving DecidableEq, Repr

/-- A request in GRQ (R424, R425): its descriptor with addresses translated, the steps, blob and authorisation copied
into it, the requester's source code, owner tag and the bay it acts for. -/
structure GrnReq where
  caller : Caller
  src : Fin 22
  tag : Byte
  bay : Option Bay
  /-- the request came from a bay's command -/
  byBay : Bool
  /-- the descriptor is malformed (R427) -/
  malformed : Bool
  opc : Byte
  flags : Byte
  depth : Byte
  owner : Byte
  trunc : Byte
  path : List Byte
  blob : List Byte
  auth : List Byte
  inAddr : Word
  inLen : Word
  aadAddr : Word
  aadLen : Word
  auxAddr : Word
  auxLen : Word
  outAddr : Word
  outLen : Word
  deriving DecidableEq, Repr

/-- A completion in GRC (R426), with the slots whose release it gives notice of (R413). -/
structure GrnDone where
  caller : Caller
  status : Byte
  verdict : Byte := 0
  written : Word := 0
  slots : List (Fin 48) := []
  deriving DecidableEq, Repr

structure Granary where
  ready : Bool := false
  pufFail : Bool := false
  shareNew : Bool := false
  /-- the escrow copy in force: false at 0xC_0000, true at 0xE_0000 (R422) -/
  escrow : Option Bool := none
  /-- its CTR is the counter plus one -/
  escPending : Bool := false
  /-- the roots unwrapped into vault SRAM, keyed by owner -/
  roots : Tab (Option Masked) := []
  ostate : Vector (BitVec 4) 64 := .replicate 64 0
  slots : Vector KeySlot 48 := .replicate 48 {}
  /-- the use counter that last-use stamps are taken from -/
  uses : Nat := 0
  nonces : List VaultNonce := []
  /-- KEK, formed at start (R403) -/
  kek : W256 := 0
  polarity : Bool := false
  passes : Half := 0
  /-- model time at which the present re-masking period began, and the periods ended since READY (R418, R419) -/
  periodAt : Nat := 0
  periods : Nat := 0
  evicts : Word := 0
  grq : List GrnReq := []
  grc : List GrnDone := []
  cmds : Word := 0
  reason : BitVec 4 := 0
  accepted : Byte := 0
  refused : Byte := 0
  entFail : Bool := false
  lastOpc : Byte := 0
  lastOwner : Byte := 0
  lastVerdict : Byte := 0
  lastStatus : Byte := 0
  deriving DecidableEq, Repr

/-! ### The ledger (21) -/

/-- A request in LGQ (R474): the data of a WRITE or LOG copied into it. -/
structure LdgReq where
  caller : Caller
  src : Byte
  encl : Bool
  tag : Byte
  malformed : Bool
  opc : Byte
  part : Byte
  index : Half
  buf : Word
  type : Byte
  data : List Byte
  arg : Word
  deriving DecidableEq, Repr

/-- A completion in LGC (R469, R474). -/
structure LdgDone where
  caller : Caller
  status : Byte
  verdict : Byte := 0
  value : Word := 0
  prot : Bool := false
  /-- the slot image of a READ or LREAD and its SRAM address -/
  image : List Byte := []
  buf : Word := 0
  deriving DecidableEq, Repr

structure Ledger where
  corr : Half := 0
  uncorr : Half := 0
  row : BitVec 11 := 0
  rewrites : Half := 0
  protDrops : Word := 0
  pinProt : BitVec 4 := 0
  /-- slots with an uncorrectable group already logged (R460): partition and slot -/
  logged : List (Nat × Nat) := []
  /-- slots that hold an uncorrectable group, until they are erased (R460) -/
  bad : List (Nat × Nat) := []
  /-- rows visited since P0 record 1 was last written (R468) -/
  visits : Nat := 0
  /-- a start pass is due and has not run (R468) -/
  passDue : Bool := false
  lgq : List LdgReq := []
  lgc : List LdgDone := []
  deriving DecidableEq, Repr

/-! ### The Headland (22) -/

/-- A line's answer (R481): 0 for OK, else the ER code; the values and the bytes printed. -/
structure Answer where
  code : Byte := 0
  values : List Nat := []
  bytes : List Byte := []
  deriving DecidableEq, Repr

/-- The words after ER 03 of a refusal under R117 (R483), as the last value of an answer. -/
inductive Refused117 where
  | nonce | signature | provisioned | noKey | noImage
  deriving DecidableEq, Repr

structure HeadlandState where
  /-- the baud and the frame of J14's UART: 0 8N1, 1 8E1, 2 8O1, 3 8N2 (R479) -/
  baud : Word := 115200
  frame : Byte := 0
  /-- HLD.SCOPE: the granted scopes of R486 -/
  scope : Byte := 0
  /-- HLD.END -/
  endSec : W48 := 0
  keyIdx : BitVec 3 := 0
  lastRefusal : BitVec 4 := 0
  accepted : Half := 0
  /-- HLD.HALT: threads held in the DEBUG handler or on their way to it -/
  halt : Half := 0
  /-- the 512-byte monitor buffer (R482) -/
  buf : BitVec 4096 := 0
  /-- the last line's answer -/
  answer : Answer := {}
  /-- how many lines have been answered -/
  answers : Nat := 0
  /-- why PROV or FIELD was refused last -/
  refused : Option Refused117 := none
  /-- the ROM's provisioning nonce and its model time (R117) -/
  romNonce : Option (BitVec 128 × Nat) := none
  /-- ranges of slot A written since its erase (R483) -/
  slotA : List (Nat × Nat) := []
  /-- a staging session was opened by the Headland -/
  staged : Bool := false
  /-- the TAP's last read result and status (R492) -/
  tapData : Word := 0
  tapStatus : BitVec 2 := 0
  deriving DecidableEq, Repr

/-! ### The whole -/

/-- The memories: SRAM by address from 0x2000_0000, flash by address from 0x0800_0000, the seed store and the
ledger array by their own offsets (R109, R126, R458, R494). -/
structure Memories where
  sram : Memory := []
  flash : Memory := []
  store : Memory := []
  ledger : Memory := []
  deriving DecidableEq, Repr

/-- No command of this block stops it: every refused access is silent (R8) and every exception is taken (R322). -/
inductive Fault where
  deriving DecidableEq, Repr

/-- Why a command has no meaning in the model. -/
inductive Refusal where
  /-- raised by the dispatch for a command whose meaning is not written; safe: the model says nothing of it -/
  | notModelled (mnemonic : String)
  deriving DecidableEq, Repr

structure State where
  /-- model time in D3 cycles (log entry 2) -/
  now : Nat := 0
  /-- how many free values have been drawn (log entry 6) -/
  draws : Nat := 0
  pow : Power := {}
  pins : Pins := {}
  bkp : Backup := {}
  sys : Sys := {}
  fuse : Fuses := {}
  boot : Boot := {}
  seed : Seed := {}
  clk : Clocks := {}
  chs : Channels := {}
  drill : Drill := {}
  books : Books := {}
  cores : Cores := {}
  cache : Vector Caches 4 := .replicate 4 {}
  guard : Guards := {}
  wld : World := {}
  tile : TileEngine := {}
  bays : Vector BayState 4 := .replicate 4 {}
  grn : Granary := {}
  ldg : Ledger := {}
  hld : HeadlandState := {}
  mem : Memories := {}
  /-- the commands waiting, first in, first out -/
  pending : List Instr := []
  deriving DecidableEq, Repr

/-- Flow 4095, the housekeeping flow, as it stands before any seed image names it (R245). -/
def flow4095 : Flow := { en := true, world := true, kind := 0, prio := 6, weight := 16, credits := 32 }

/-- The cores as the ROM finds them: C0.t0 runs in single mode and the other threads are held (13 › At start). -/
def bootCores : Cores :=
  { thr := (Vector.replicate 16 { run := .held }).set 0 { run := .running }
    core := (Vector.replicate 4 {}).set 0 { single := true } }

/-- The module right after a cold reset has begun, before the ROM runs: every field at the value its chapter's reset
tables state, and where the manual gives none at the value its log entry names (log entries 2, 4, 5). -/
def State.reset : State :=
  { drill := { flows := [(4095, flow4095)] }, cores := bootCores }

end Sys2Proof.Machine
end

