-- ==== Sys2Proof/Machine/Ops.lean ====
section
/-! DEFINITION. The named operations every family of commands shares: reaching an indexed part of the state, model
time, the queues' counters, housekeeping events, modes, worlds, violations and free values. -/

namespace Sys2Proof.Machine

/-! ### Indexed parts -/

def vget {α : Type} {n : Nat} (v : Vector α n) (i : Fin n) : α := v[i.val]'i.isLt
def vset {α : Type} {n : Nat} (v : Vector α n) (i : Fin n) (x : α) : Vector α n := v.set i.val x i.isLt

def chan (s : State) (n : Chan) : Channel := vget s.chs.ch n
def setChan (s : State) (n : Chan) (c : Channel) : State := { s with chs := { s.chs with ch := vset s.chs.ch n c } }
def thr (s : State) (t : Thread) : Thr := vget s.cores.thr t
def setThr (s : State) (t : Thread) (x : Thr) : State := { s with cores := { s.cores with thr := vset s.cores.thr t x } }
def coreOf (t : Thread) : Fin 4 := ⟨t.val / 4, by omega⟩
def core (s : State) (c : Fin 4) : Core := vget s.cores.core c
def setCore (s : State) (c : Fin 4) (x : Core) : State := { s with cores := { s.cores with core := vset s.cores.core c x } }
def bay (s : State) (b : Bay) : BayState := vget s.bays b
def setBay (s : State) (b : Bay) (x : BayState) : State := { s with bays := vset s.bays b x }
def flow (s : State) (f : Nat) : Flow := tabGet {} s.drill.flows f
def setFlow (s : State) (f : Nat) (x : Flow) : State := { s with drill := { s.drill with flows := tabPut {} s.drill.flows f x } }
def desc (s : State) (d : Fin 1024) : Desc := tabGet {} s.drill.descs d
def setDesc (s : State) (d : Fin 1024) (x : Desc) : State := { s with drill := { s.drill with descs := tabPut {} s.drill.descs d x } }
def entry (s : State) (e : Nat) : MatchEntry := tabGet {} s.drill.entries e
def setEntry (s : State) (e : Nat) (x : MatchEntry) : State :=
  { s with drill := { s.drill with entries := tabPut {} s.drill.entries e x } }
def furrow (s : State) (f : Furrow) : FurrowReg := vget s.clk.furrow f
def setFurrow (s : State) (f : Furrow) (x : FurrowReg) : State := { s with clk := { s.clk with furrow := vset s.clk.furrow f x } }
def rail (s : State) (j : Fin 8) : Rail := vget s.pow.rails j
def setRail (s : State) (j : Fin 8) (x : Rail) : State := { s with pow := { s.pow with rails := vset s.pow.rails j x } }
def bayOut (s : State) (b : Bay) : BayOut := vget s.pow.bayOut b
def setBayOut (s : State) (b : Bay) (x : BayOut) : State := { s with pow := { s.pow with bayOut := vset s.pow.bayOut b x } }
def alarm (s : State) (a : Fin 4) : Alarm := vget s.bkp.alarms a
def setAlarm (s : State) (a : Fin 4) (x : Alarm) : State := { s with bkp := { s.bkp with alarms := vset s.bkp.alarms a x } }
def setCal (s : State) (c : Calendar) : State := { s with bkp := { s.bkp with cal := c } }
def setTamp (s : State) (x : Tamper) : State := { s with bkp := { s.bkp with tamp := x } }

/-- The furrow a channel belongs to (R160). -/
def furrowOf (n : Chan) : Furrow := ⟨n.val / 4, by omega⟩
/-- The connector's rail that serves a channel (R16). -/
def railOf (n : Chan) : Fin 8 := ⟨n.val / 16, by omega⟩

/-- Every index below `n`, in rising order. -/
def fins (n : Nat) : List (Fin n) := List.finRange n

/-! ### Time and free values -/

/-- Model time in whole microseconds: 250 D3 cycles each (R147). -/
def nowUs (s : State) : Nat := s.now / 250

/-- A free value of `w` bits: the opaque entropy constant at the counter of draws (log entry 6). -/
def draw (w : Nat) (s : State) : BitVec w × State :=
  (BitVec.ofNat w (Config.entropy s.draws), { s with draws := s.draws + 1 })

/-! ### Queue counters (R155 to R159) -/

def qstat (s : State) (n : Nat) : QStat := tabGet {} s.clk.q n
def setQstat (s : State) (n : Nat) (x : QStat) : State := { s with clk := { s.clk with q := tabPut {} s.clk.q n x } }

/-- The occupancy a queue's counters show (R158). -/
def qOcc (s : State) (n : Nat) : Half := (qstat s n).wr - (qstat s n).rd

/-- `k` entries written to queue `n`: WR_CNT, and PEAK follows the occupancy. -/
def qWrite (n : Nat) (k : Nat) (s : State) : State :=
  let q := qstat s n
  let wr := q.wr + BitVec.ofNat 16 k
  let occ := BitVec.ofNat 8 (min 255 (wr - q.rd).toNat)
  setQstat s n { q with wr := wr, peak := if q.peak < occ then occ else q.peak }

/-- `k` entries read from queue `n`: RD_CNT. -/
def qRead (n : Nat) (k : Nat) (s : State) : State :=
  let q := qstat s n
  setQstat s n { q with rd := q.rd + BitVec.ofNat 16 k }

/-- An entry that crosses queue `n` within the step: written and read (log entry 3). -/
def qPass (n : Nat) (s : State) : State := qRead n 1 (qWrite n 1 s)

/-- A source finds its queue full: one stalled cycle in CLK.Q[n].STALLS (R156). -/
def countStall (n : Nat) (s : State) : State := setQstat s n { qstat s n with stalls := satInc (qstat s n).stalls }

/-- Queue `n` of the given depth with `k` items in it and waiting at its source, when one more comes (R155, R156): it
enters where there is room; else it waits at the source, which stalls. -/
def qJoin (n depth k : Nat) (s : State) : State := if k < depth then qWrite n 1 s else countStall n s

/-- The head of a queue is read; of `k` items in it and at its source, the first that waited enters. -/
def qLeave (n depth k : Nat) (s : State) : State := if depth < k then qWrite n 1 (qRead n 1 s) else qRead n 1 s

/-- Of the items of a queue and its source, those that fail `keep` are taken out: the ones that had entered count as
read, and ones that waited move up (R157 › Edges). -/
def qPurge {α : Type} (n depth : Nat) (keep : α → Bool) (l : List α) (s : State) : State :=
  let gone := ((l.take depth).filter fun x => !keep x).length
  qWrite n (min (l.filter keep).length depth - (min l.length depth - gone)) (qRead n gone s)

/-! ### Housekeeping -/

/-- A housekeeping event enters HKQ; one that already waits is merged (R452, last row). -/
def hk (cause : HkCause) (data : Nat) (s : State) : State :=
  let e : HkEvent := { cause := cause, data := data }
  if e ∈ s.drill.hkq then s
  else qJoin 106 8 s.drill.hkq.length { s with drill := { s.drill with hkq := s.drill.hkq ++ [e] } }

/-! ### Modes (R81) -/

namespace Mode
def store : BitVec 3 := 0
def backup : BitVec 3 := 1
def sleep : BitVec 3 := 2
def boot : BitVec 3 := 3
def run : BitVec 3 := 4
def service : BitVec 3 := 5
def limp : BitVec 3 := 6
def lockdown : BitVec 3 := 7
end Mode

def mode (s : State) : BitVec 3 := s.sys.mode

/-- The main die is powered and running: neither Backup nor Sleep (R81). -/
def mainOn (s : State) : Bool := decide (s.sys.mode ≠ Mode.backup ∧ s.sys.mode ≠ Mode.sleep)

/-- VSUP supplies the field side: present, and the main rails not cut by the 135 °C shutdown (R46, R55). -/
def fieldSupply (s : State) : Bool := s.pow.vsup && !s.pow.thermalOff

/-- Limp reason `k` in force (R93). -/
def limpReason (s : State) (k : Nat) : Bool := s.sys.limpSet.getLsbD (k - 1)

/-- SYS.MODE.LIMP: reason 2 whenever it is in force, otherwise the lowest (R93). -/
def limpShown (x : BitVec 4) : Nat :=
  if x.getLsbD 1 then 2 else if x.getLsbD 0 then 1 else if x.getLsbD 2 then 3 else if x.getLsbD 3 then 4 else 0

/-- The Enclosure firmware runs: not before handover, not halted under Limp reason 2 or 4, not restarting, not in
Lockdown's loop (R81, R93, R96). -/
def enclRuns (s : State) : Bool :=
  mainOn s && s.boot.romLocked && !limpReason s 2 && !limpReason s 4 && !s.wld.restart && !s.boot.remBusy

/-! ### Wake sources (R89, R92) -/

/-- A wake source is latched: in Sleep it starts the wake path, during the drain it abandons the entry; bit `k` of
SYS.WAKE. -/
def latchWake (k : Nat) (s : State) : State :=
  let y := s.sys
  if y.mode = Mode.sleep then { s with sys := { y with wake := setBits y.wake k 1 1, waking := true } }
  else if y.sleep = .draining then
    { s with sys := { y with wake := setBits y.wake k 1 1, sleep := .awake, sleepFail := true } }
  else s

/-! ### Worlds (R326) -/

/-- The thread's home world is the Enclosure (R289). -/
def homeEncl (s : State) (t : Thread) : Bool := s.drill.enclThreads.getLsbD t.val

/-- The thread executes in the Enclosure (R326). -/
def inEncl (s : State) (t : Thread) : Bool :=
  homeEncl s t || (thr s t).stile.isSome || (thr s t).dfault || (thr s t).debug

/-- The lowest Enclosure thread, which stands for the resident firmware as a source (log entry 8). -/
def firmwareThread (s : State) : Nat := ((List.range 16).find? fun i => s.drill.enclThreads.getLsbD i).getD 0

/-- The source code of a requester (R339). -/
def srcCode (s : State) : Req → Nat
  | .thread t => t.val
  | .encl => firmwareThread s
  | .bay b => 16 + b.val
  | .headland => 20
  | .tap => 21

/-- The requester has the Enclosure's rights (R334): a thread executing in that world, its firmware, or the Headland
and the TAP under scope ENCL (R485). -/
def isEncl (s : State) : Req → Bool
  | .thread t => inEncl s t
  | .encl => true
  | .bay _ => false
  | .headland | .tap => s.hld.scope.getLsbD 2

/-- The requester has the rights of the Commons (R334, R485). -/
def isCommons (s : State) : Req → Bool
  | .bay _ => false
  | r => !isEncl s r

/-! ### Violations (R339, R340) -/

/-- The kind codes of R339. -/
inductive Vio where
  | guard | block | locked | retired | bay | usage
  deriving DecidableEq, Repr

def Vio.code : Vio → BitVec 3
  | .guard => 1
  | .block => 2
  | .locked => 3
  | .retired => 4
  | .bay => 5
  | .usage => 6

/-- A nonce dies 120 s after its issue (R434). -/
def nonceLives (s : State) (x : VaultNonce) : Bool := decide (s.now < x.issued + 30000000000)

/-- A violation by source code `src`: its counter, VLAST and VLAST_ADDR (R340). -/
def violateSrc (src : Nat) (kind : Vio) (addr : Word) (write fetch : Bool) (s : State) : State :=
  if h : src < 22 then
    { s with guard := { s.guard with
        vcnt := vset s.guard.vcnt ⟨src, h⟩ (satInc (vget s.guard.vcnt ⟨src, h⟩))
        vlastSrc := BitVec.ofNat 5 src, vlastKind := kind.code, vlastWrite := write, vlastFetch := fetch
        vlastAddr := addr } }
  else s

def violate (r : Req) (kind : Vio) (addr : Word) (write : Bool) (s : State) : State :=
  violateSrc (srcCode s r) kind addr write false s

/-! ### Seed records -/

/-- A little-endian field of a seed entry. -/
def SeedEntry.num (e : SeedEntry) (off n : Nat) : Nat := leNat ((e.data.drop off).take n)

/-- The entries of one type in the applied image. -/
def seedOf (s : State) (type : Nat) : List SeedEntry := s.seed.recs.filter fun e => e.type.toNat = type

/-- The entry of a type whose first `n` bytes spell `key`. -/
def seedFind (s : State) (type n key : Nat) : Option SeedEntry := (seedOf s type).find? fun e => e.num 0 n = key

/-- The one entry of a type that appears at most once. -/
def seedOne (s : State) (type : Nat) : Option SeedEntry := (seedOf s type).head?

/-! ### Fuse view (R106, R107) -/

def fuseBit (v : BitVec 4096) (b : Nat) : Bool := v.getLsbD b
/-- A field of the view, `n` bits from `lo`. -/
def fuseField (v : BitVec 4096) (lo n : Nat) : Nat := bitsAt v lo n
/-- A thermometer: the position of its highest blown bit plus one, 0 when none is (R107). -/
def thermometer (v : BitVec 4096) (lo : Nat) : Nat → Nat
  | 0 => 0
  | n + 1 => if fuseBit v (lo + n) then n + 1 else thermometer v lo n
def enclVer (s : State) : Nat := thermometer s.fuse.view 832 128
def seedVer (s : State) : Nat := thermometer s.fuse.view 960 128
def blownCount (v : BitVec 4096) (lo n : Nat) : Nat := ((List.range n).filter fun i => fuseBit v (lo + i)).length
def fielded (v : BitVec 4096) : Bool := decide (2 ≤ blownCount v 1088 3)
def scrapped (v : BitVec 4096) : Bool := decide (2 ≤ blownCount v 1091 3)
def intrusionFuse (v : BitVec 4096) : Bool := decide (1 ≤ blownCount v 1094 4)
def debugDis (v : BitVec 4096) : Bool := decide (1 ≤ blownCount v 1098 4)

/-- The lifecycle (R107). -/
inductive Lifecycle where
  | store | fielded | scrapped
  deriving DecidableEq, Repr

def lifecycle (v : BitVec 4096) : Lifecycle :=
  if scrapped v then .scrapped else if fielded v then .fielded else .store

/-- The device serial of the fuses, 8 bytes (R106). -/
def serialFuses (s : State) : Nat := fuseField s.fuse.view 768 64

end Sys2Proof.Machine
end

