-- ==== Sys2Proof/Machine/Sha.lean ====
section
/-! DEFINITION. SHA-256 (FIPS 180-4), HMAC-SHA-256 (FIPS 198-1), and the cyclic redundancy checks. The manual names
the standards and not their tables: what is here is the published standards' (log entry 9). -/

namespace Sys2Proof.Machine

/-! A word of SHA-256 is held as a number below 2^32. -/

/-- A number of 256 bits cut into its eight words, the greatest first. -/
def eightWords (x : Nat) : List Nat :=
  (List.range 8).map fun i => x >>> (32 * (7 - i)) % 2 ^ 32

/-- The round constants of SHA-256: the fractions of the cube roots of the first 64 primes, eight to a number. -/
def shaK : List Nat :=
  [0x428a2f9871374491b5c0fbcfe9b5dba53956c25b59f111f1923f82a4ab1c5ed5,
   0xd807aa9812835b01243185be550c7dc372be5d7480deb1fe9bdc06a7c19bf174,
   0xe49b69c1efbe47860fc19dc6240ca1cc2de92c6f4a7484aa5cb0a9dc76f988da,
   0x983e5152a831c66db00327c8bf597fc7c6e00bf3d5a7914706ca635114292967,
   0x27b70a852e1b21384d2c6dfc53380d13650a7354766a0abb81c2c92e92722c85,
   0xa2bfe8a1a81a664bc24b8b70c76c51a3d192e819d6990624f40e3585106aa070,
   0x19a4c1161e376c082748774c34b0bcb5391c0cb34ed8aa4a5b9cca4f682e6ff3,
   0x748f82ee78a5636f84c878148cc7020890befffaa4506cebbef9a3f7c67178f2].flatMap eightWords

/-- The eight working words of SHA-256. -/
structure ShaState where
  a : Nat
  b : Nat
  c : Nat
  d : Nat
  e : Nat
  f : Nat
  g : Nat
  h : Nat
  deriving DecidableEq, Repr

/-- Eight words as a state; missing words are 0. -/
def ShaState.ofWords (w : List Nat) : ShaState :=
  { a := w.getD 0 0, b := w.getD 1 0, c := w.getD 2 0, d := w.getD 3 0,
    e := w.getD 4 0, f := w.getD 5 0, g := w.getD 6 0, h := w.getD 7 0 }

/-- The start: the fractions of the square roots of the first eight primes. -/
def shaInit : ShaState := .ofWords (eightWords 0x6a09e667bb67ae853c6ef372a54ff53a510e527f9b05688c1f83d9ab5be0cd19)

/-- A word turned right by `n` places. -/
def turnRight (n x : Nat) : Nat := x >>> n ||| (x <<< (32 - n)) % 2 ^ 32

/-- One round. -/
def shaRound (s : ShaState) (k w : Nat) : ShaState :=
  let s1 := turnRight 6 s.e ^^^ turnRight 11 s.e ^^^ turnRight 25 s.e
  let ch := (s.e &&& s.f) ^^^ ((2 ^ 32 - 1 - s.e) &&& s.g)
  let t1 := s.h + s1 + ch + k + w
  let s0 := turnRight 2 s.a ^^^ turnRight 13 s.a ^^^ turnRight 22 s.a
  let maj := (s.a &&& s.b) ^^^ (s.a &&& s.c) ^^^ (s.b &&& s.c)
  { a := (t1 + s0 + maj) % 2 ^ 32, b := s.a, c := s.b, d := s.c, e := (s.d + t1) % 2 ^ 32, f := s.e, g := s.f, h := s.g }

/-- The next schedule word, from those sixteen, fifteen, seven and two before it. -/
def shaNextW (w0 w1 w9 w14 : Nat) : Nat :=
  ((turnRight 17 w14 ^^^ turnRight 19 w14 ^^^ (w14 >>> 10)) + w9 + (turnRight 7 w1 ^^^ turnRight 18 w1 ^^^ (w1 >>> 3)) + w0) % 2 ^ 32

/-- The rounds over the constants, the window of sixteen words sliding. -/
def shaRounds : List Nat → (w0 w1 w2 w3 w4 w5 w6 w7 w8 w9 w10 w11 w12 w13 w14 w15 : Nat) → ShaState → ShaState
  | [], _, _, _, _, _, _, _, _, _, _, _, _, _, _, _, _, s => s
  | k :: ks, w0, w1, w2, w3, w4, w5, w6, w7, w8, w9, w10, w11, w12, w13, w14, w15, s =>
    shaRounds ks w1 w2 w3 w4 w5 w6 w7 w8 w9 w10 w11 w12 w13 w14 w15 (shaNextW w0 w1 w9 w14) (shaRound s k w0)

/-- Big-endian words of a byte string; a short tail is dropped. -/
def beWords : List Byte → List Nat
  | a :: b :: c :: d :: t => (((a.toNat * 256 + b.toNat) * 256 + c.toNat) * 256 + d.toNat) :: beWords t
  | _ => []

/-- The rounds over the words of one block. -/
def shaWords (s : ShaState) : List Nat → ShaState
  | [w0, w1, w2, w3, w4, w5, w6, w7, w8, w9, w10, w11, w12, w13, w14, w15] =>
    shaRounds shaK w0 w1 w2 w3 w4 w5 w6 w7 w8 w9 w10 w11 w12 w13 w14 w15 s
  | _ => s

/-- One 64-byte block. -/
def shaBlock (s : ShaState) (block : List Byte) : ShaState :=
  let r := shaWords s (beWords block)
  { a := (s.a + r.a) % 2 ^ 32, b := (s.b + r.b) % 2 ^ 32, c := (s.c + r.c) % 2 ^ 32, d := (s.d + r.d) % 2 ^ 32,
    e := (s.e + r.e) % 2 ^ 32, f := (s.f + r.f) % 2 ^ 32, g := (s.g + r.g) % 2 ^ 32, h := (s.h + r.h) % 2 ^ 32 }

/-- The padded message: 0x80, zeros, and the bit length in eight big-endian bytes. -/
def shaPad (m : List Byte) : List Byte :=
  m ++ 0x80#8 :: List.replicate ((119 - m.length % 64) % 64) 0#8 ++ beBytes 8 (8 * m.length)

/-- The blocks of a padded message, `n` of them. -/
def shaBlocks : Nat → List Byte → ShaState → ShaState
  | 0, _, s => s
  | n + 1, m, s => shaBlocks n (m.drop 64) (shaBlock s (m.take 64))

/-- SHA-256 of a byte string: 32 bytes. -/
def sha256 (m : List Byte) : List Byte :=
  let p := shaPad m
  let s := shaBlocks (p.length / 64) p shaInit
  [s.a, s.b, s.c, s.d, s.e, s.f, s.g, s.h].flatMap fun w => beBytes 4 w

/-- HMAC-SHA-256. -/
def hmac (key msg : List Byte) : List Byte :=
  let k0 := if 64 < key.length then sha256 key else key
  let k := k0 ++ List.replicate (64 - k0.length) 0#8
  sha256 (k.map (· ^^^ 0x5c#8) ++ sha256 (k.map (· ^^^ 0x36#8) ++ msg))

/-- A reflected CRC, as a number, over `n` bits already mixed in. -/
def crcShift (poly : Nat) : Nat → Nat → Nat
  | 0, c => c
  | n + 1, c => if c % 2 = 1 then crcShift poly n ((c / 2) ^^^ poly) else crcShift poly n (c / 2)

/-- A reflected CRC of width `w` over bytes from a start value. -/
def crcReflected {w : Nat} (poly : BitVec w) (start : BitVec w) (m : List Byte) : BitVec w :=
  BitVec.ofNat w (m.foldl (fun c b => crcShift poly.toNat 8 (c ^^^ b.toNat)) start.toNat)

/-- CRC-32 with the IEEE 802.3 polynomial (R113). -/
def crc32 (m : List Byte) : Word := ~~~(crcReflected 0xEDB88320#32 0xFFFFFFFF#32 m)

/-- One byte into the CRC of code 1: polynomial 0x1021, not reflected. -/
def crcCcittStep (c : Half) (b : Byte) : Half :=
  (List.range 8).foldl (fun c _ => if c.getLsbD 15 then (c <<< 1) ^^^ 0x1021 else c <<< 1) (c ^^^ (b.setWidth 16 <<< 8))

end Sys2Proof.Machine
end

