-- ==== Sys2Proof/Machine/Records.lean ====
section
/-! DEFINITION. The ledger array: slots, records, rotation counters and the system log, and the mode changes that the
log records (21, 04). -/

namespace Sys2Proof.Machine

/-! ### The array (R458, R459) -/

def ldgRead (s : State) (a n : Nat) : List Byte := memBytes ledgerBlank s.mem.ledger a n
def ldgErase (a n : Nat) (s : State) : State := { s with mem := { s.mem with ledger := memErase s.mem.ledger a n } }
def ldgProgram (a : Nat) (bs : List Byte) (s : State) : State :=
  { s with mem := { s.mem with ledger := memStore ledgerBlank s.mem.ledger a bs } }

/-- The array offset of a 64-byte slot of P0, P1 or P3. -/
def slotBase (part slot : Nat) : Nat :=
  (if part = 0 then 0 else if part = 1 then 0x4000 else 0x18000) + 64 * slot

/-- NV_PROT is asserted and protects the partition (R469). -/
def ldgProtected (s : State) (part : Nat) : Bool := s.pins.nvProt && s.ldg.pinProt.getLsbD part

/-- An ignored operation counts in LDG.PROT_DROPS. -/
def countProt (s : State) : State := { s with ldg := { s.ldg with protDrops := satInc s.ldg.protDrops } }

/-! ### Slots (R461) -/

/-- The CRC of a slot, over bytes 0 to 13 and 16 to 63. -/
def slotCrc (bs : List Byte) : Half := (bs.take 14 ++ (bs.drop 16).take 48).foldl crcCcittStep 0xFFFF

def slotBytesAt (s : State) (part slot : Nat) : List Byte := ldgRead s (slotBase part slot) 64

/-- Some bit of the slot is programmed: an erased slot is invalid. -/
def slotProgrammed (s : State) (part slot : Nat) : Bool :=
  s.mem.ledger.any fun p => decide (slotBase part slot ≤ p.1 ∧ p.1 < slotBase part slot + 64)

/-- The slot's CRC is right and it holds no uncorrectable group. -/
def slotValid (s : State) (part slot : Nat) : Bool :=
  let bs := slotBytesAt s part slot
  slotProgrammed s part slot && decide ((part, slot) ∉ s.ldg.bad) && decide (slotCrc bs = BitVec.ofNat 16 (beNat ((bs.drop 14).take 2)))

def slotNum (s : State) (part slot off n : Nat) : Nat := leNat (((slotBytesAt s part slot).drop off).take n)
def slotSeq (s : State) (part slot : Nat) : Nat := slotNum s part slot 4 4
def slotData (s : State) (part slot : Nat) : List Byte := (slotBytesAt s part slot).drop 16

/-- A slot's 64 bytes with its CRC. -/
def makeSlot (id len flags seq stamp : Nat) (data : List Byte) : List Byte :=
  let head := leBytes 2 id ++ leBytes 1 len ++ leBytes 1 flags ++ leBytes 4 seq ++ leBytes 6 stamp
  let body := (data ++ List.replicate 48 0).take 48
  head ++ beBytes 2 (((head ++ body).foldl crcCcittStep 0xFFFF).toNat) ++ body

/-- A slot erased and programmed. -/
def putSlot (part slot : Nat) (bs : List Byte) (s : State) : State :=
  let s := ldgProgram (slotBase part slot) bs (ldgErase (slotBase part slot) 64 s)
  { s with ldg := { s.ldg with bad := s.ldg.bad.filter (· ≠ (part, slot)), logged := s.ldg.logged.filter (· ≠ (part, slot)) } }

/-- A slot erased. -/
def wipeSlot (part slot : Nat) (s : State) : State :=
  let s := ldgErase (slotBase part slot) 64 s
  { s with ldg := { s.ldg with bad := s.ldg.bad.filter (· ≠ (part, slot)), logged := s.ldg.logged.filter (· ≠ (part, slot)) } }

/-! ### Records (R462) -/

/-- The slot of a record that is in force; none when the record is EMPTY. -/
def recordSlot (s : State) (part r : Nat) : Option Nat :=
  match slotValid s part (2 * r), slotValid s part (2 * r + 1) with
  | false, false => none
  | true, false => some (2 * r)
  | false, true => some (2 * r + 1)
  | true, true => if slotSeq s part (2 * r) < slotSeq s part (2 * r + 1) then some (2 * r + 1) else some (2 * r)

/-- The slot a write goes to and the SEQ it gets. -/
def recordTarget (s : State) (part r : Nat) : Nat × Nat :=
  match recordSlot s part r with
  | none => (2 * r, 1)
  | some k => (if k = 2 * r then 2 * r + 1 else 2 * r, slotSeq s part k + 1)

/-- A record written (R461, R462). -/
def writeRecord (part r len : Nat) (data : List Byte) (s : State) : State :=
  let (k, seq) := recordTarget s part r
  putSlot part k (makeSlot r len (bit s.bkp.cal.valid) (seq % 2 ^ 32) s.bkp.cal.sec.toNat data) s

/-- The DATA of a record; none when EMPTY. -/
def recordData (s : State) (part r : Nat) : Option (List Byte) := (recordSlot s part r).map fun k => slotData s part k

/-! ### Rotation counters (R463 to R465) -/

/-- A half's first byte: half A at 0, half B at 128. -/
def halfBase (c : Nat) (b : Bool) : Nat := 0x10000 + 256 * c + (if b then 128 else 0)

def halfHeader (s : State) (c : Nat) (b : Bool) : Nat := leNat (ldgRead s (halfBase c b) 4)

/-- BASE XOR its complement is all ones. -/
def halfValid (s : State) (c : Nat) (b : Bool) : Bool :=
  decide (halfHeader s c b + leNat (ldgRead s (halfBase c b + 4) 4) = 2 ^ 32 - 1)

/-- Programmed bits of a byte from bit 0 up to the first erased one. -/
def lowZeros (b : Byte) : Nat := ((List.range 8).find? fun i => b.getLsbD i).getD 8

/-- Programmed bits of a half from bit 0 up to the first erased one. -/
def thermCount : List Byte → Nat
  | [] => 0
  | b :: bs => if b = 0 then 8 + thermCount bs else lowZeros b

def halfCount (s : State) (c : Nat) (b : Bool) : Nat := thermCount (ldgRead s (halfBase c b + 8) 120)
def halfValue (s : State) (c : Nat) (b : Bool) : Nat := halfHeader s c b + halfCount s c b

/-- The counter's value: the highest among its valid halves, 0 without one. -/
def counterValue (s : State) (c : Nat) : Nat :=
  max (if halfValid s c false then halfValue s c false else 0) (if halfValid s c true then halfValue s c true else 0)

/-- The active half of R464, equal values settled by R463: the half whose count is below 960, half A if both or
neither is. -/
def activeHalf (s : State) (c : Nat) : Option Bool :=
  match halfValid s c false, halfValid s c true with
  | false, false => none
  | true, false => some false
  | false, true => some true
  | true, true =>
    let a := halfValue s c false
    let b := halfValue s c true
    if a < b then some true
    else if b < a then some false
    else some (decide (960 ≤ halfCount s c false) && decide (halfCount s c true < 960))

/-- A thermometer bit programmed. -/
def programBit (c : Nat) (b : Bool) (k : Nat) (s : State) : State :=
  let a := halfBase c b + 8 + k / 8
  let old := tabGet ledgerBlank s.mem.ledger a
  ldgProgram a [setBits old (k % 8) 1 0] s

/-- One increment of a counter (R464). -/
def stepCounter (c : Nat) (s : State) : State :=
  let start := fun (other : Bool) (s : State) =>
    let v := counterValue s c
    let s := ldgErase (halfBase c other) 128 s
    programBit c other 0 (ldgProgram (halfBase c other) (leBytes 4 v ++ leBytes 4 (2 ^ 32 - 1 - v)) s)
  match activeHalf s c with
  | none => start false s
  | some h => if halfCount s c h < 960 then programBit c h (halfCount s c h) s else start (!h) s

/-- `n` increments. -/
def stepCounterN (c : Nat) : Nat → State → State
  | 0, s => s
  | n + 1, s => stepCounterN c n (stepCounter c s)

/-- A hardware-port increment (R464, R466, R469): whether it was made, and the state after it. -/
def incrementCounter (c : Nat) (s : State) : Bool × State :=
  if counterValue s c = 2 ^ 32 - 1 then (false, s)
  else if ldgProtected s 2 then (false, countProt s)
  else (true, stepCounter c s)

/-! ### The system log (R471 to R473) -/

/-- The valid slot of P3 with the highest SEQ. -/
def logTop (s : State) : Option Nat :=
  (List.range 512).foldl (fun best k =>
    if slotValid s 3 k then
      match best with
      | none => some k
      | some b => if slotSeq s 3 b < slotSeq s 3 k then some k else best
    else best) none

def logHead (s : State) : Nat := match logTop s with
  | none => 0
  | some k => (k + 1) % 512

def logNextSeq (s : State) : Nat := match logTop s with
  | none => 1
  | some k => (slotSeq s 3 k + 1) % 2 ^ 32

/-- FOLDED_SEQ of P0 record 0. -/
def foldedSeq (s : State) : Nat := match recordData s 0 0 with
  | none => 0
  | some d => leNat ((d.drop 16).take 4)

def logType (s : State) (k : Nat) : Nat := slotNum s 3 k 0 1

/-- The latest TYPE 0x01 entry of a channel. -/
def latestRetire (s : State) (n : Nat) : Option Nat :=
  (List.range 512).foldl (fun best k =>
    if slotValid s 3 k ∧ logType s k = 1 ∧ slotNum s 3 k 16 1 = n then
      match best with
      | none => some k
      | some b => if slotSeq s 3 b < slotSeq s 3 k then some k else best
    else best) none

/-- RETIRE and UNRETIRE entries that the mask does not include, by rising SEQ. -/
def unfolded (s : State) : List Nat :=
  ((List.range 512).filter fun k => slotValid s 3 k && decide (logType s k = 1 ∨ logType s k = 2) &&
    decide (foldedSeq s < slotSeq s 3 k)).mergeSort fun a b => decide (slotSeq s 3 a ≤ slotSeq s 3 b)

/-- The mask with the entries not yet folded into it. -/
def retiredSet (s : State) : BitVec 128 :=
  let mask := match recordData s 0 0 with
    | none => 0
    | some d => leNat (d.take 16)
  (unfolded s).foldl (fun m k => setBits m (slotNum s 3 k 16 1) 1 (if logType s k = 1 then 1 else 0)) (BitVec.ofNat 128 mask)

/-- The channels that are retired: SYS.RETIRED once a seed is applied, before that what the ledger says (R238, R241). -/
def retiredNow (s : State) : BitVec 128 := if s.seed.applied then s.chs.retired else retiredSet s ||| s.chs.retired

/-- The append skips this slot (R471). -/
def logHeld (s : State) (k : Nat) : Bool :=
  slotValid s 3 k && ((decide (logType s k = 1 ∨ logType s k = 2) && decide (foldedSeq s < slotSeq s 3 k)) ||
    (decide (logType s k = 1) && (retiredNow s).getLsbD (slotNum s 3 k 16 1) &&
      decide (latestRetire s (slotNum s 3 k 16 1) = some k)))

/-- The slot an append takes. -/
def logSlot (s : State) : Nat :=
  let h := logHead s
  (((List.range 512).map fun i => (h + i) % 512).find? fun k => !logHeld s k).getD h

/-- An entry appended to P3: the slot it took (R461, R471). -/
def appendLog (type src : Nat) (data : List Byte) (s : State) : Nat × State :=
  let k := logSlot s
  (k, putSlot 3 k (makeSlot (type + 256 * src) data.length (bit s.bkp.cal.valid) (logNextSeq s) s.bkp.cal.sec.toNat data) s)

/-- An entry of the hardware or of the Enclosure firmware, ignored while NV_PROT protects P3 (R469). -/
def logEntry (type src : Nat) (data : List Byte) (s : State) : State :=
  if ldgProtected s 3 then countProt s else (appendLog type src data s).2

/-- An entry that the resident Enclosure firmware appends: SRC is its thread's code (log entry 8). -/
def fwLog (type : Nat) (data : List Byte) (s : State) : State := logEntry type (firmwareThread s) data s

/-! ### Mode changes (R82, R84, R472) -/

/-- A Sleep request that still drains is dropped by any mode but Sleep, and SLEEP_FAIL shows it (R83, R105). -/
def dropDrain (m : BitVec 3) (y : Sys) : Sys :=
  if y.sleep = .draining ∧ m ≠ Mode.sleep then { y with sleep := .awake, sleepFail := true } else y

/-- A transition of R84: PREV takes the mode left, and the change is logged wherever the ledger is powered
(log entry 15). -/
def transition (m : BitVec 3) (s : State) : State :=
  let s := { s with sys := dropDrain m { s.sys with prev := s.sys.mode, mode := m } }
  if m = Mode.backup then s
  else logEntry 6 0xFF [m.setWidth 8, BitVec.ofNat 8 (limpShown s.sys.limpSet), s.sys.lock.setWidth 8] s

/-- A mode entered, unless it is in force. -/
def enterMode (m : BitVec 3) (s : State) : State := if s.sys.mode = m then s else transition m s

/-- The remasking period in seconds: 60 where the seed gives none, 0 before a seed is applied. -/
def remaskSeconds (s : State) : Nat :=
  if !s.seed.applied then 0
  else match seedOne s 0x0E with
    | none => 60
    | some e => if e.num 0 2 = 0 then 60 else e.num 0 2

end Sys2Proof.Machine
end

