-- ==== Sys2Proof/Machine/Events.lean ====
section
/-! DEFINITION. Channel events on their way to the drill: credit grants, the event hold, CHEV[f] and CHWR[f], and the
receive cells that events name (08, 20). -/

namespace Sys2Proof.Machine

/-- The channel that configures and reports for `n`: the even one of a bonded pair (R164). -/
def evenOf (n : Chan) : Chan := ⟨n.val - n.val % 2, by omega⟩
def oddOf (n : Chan) : Chan := ⟨n.val - n.val % 2 + 1, by omega⟩
/-- The function codes of a bonded pair (R161). -/
def isPairFunc (f : BitVec 3) : Bool := decide (f = 3 ∨ f = 4)
/-- The channel belongs to a bonded pair: the even channel's FUNC is 3 or 4 (R164). -/
def paired (s : State) (n : Chan) : Bool := isPairFunc (chan s (evenOf n)).cfg.func
/-- The channel whose registers and events stand for `n`. -/
def headOf (s : State) (n : Chan) : Chan := if paired s n then evenOf n else n
def isRetired (s : State) (n : Chan) : Bool := s.chs.retired.getLsbD n.val

/-- The channel runs: enabled, released at END and its pins its function's, not off, not retired (R136, R161, R182). -/
def chanLive (s : State) (n : Chan) : Bool :=
  let c := chan s n
  decide (c.drive = .func) && c.en && decide (c.cfg.func ≠ 0) && !isRetired s n

/-- The channel raises events of its own: not the odd channel of a pair (R164). -/
def raisesEvents (s : State) (n : Chan) : Bool := chanLive s n && decide (headOf s n = n)

def chevOf (s : State) (f : Furrow) : List ChEvent := tabGet [] s.chs.chev f.val
def setChev (s : State) (f : Furrow) (l : List ChEvent) : State :=
  { s with chs := { s.chs with chev := tabPut [] s.chs.chev f.val l } }
def chwrOf (s : State) (f : Furrow) : List ChwrItem := tabGet [] s.chs.chwr f.val
def setChwr (s : State) (f : Furrow) (l : List ChwrItem) : State :=
  { s with chs := { s.chs with chwr := tabPut [] s.chs.chwr f.val l } }

/-- Receive cells set to a state. -/
def setRxCells (st : RxCell) (cells : List (BitVec 5)) (v : Vector RxCell 32) : Vector RxCell 32 :=
  cells.foldl (fun v c => vset v c.toFin st) v

def setTxCells (st : TxCell) (cells : List (BitVec 5)) (v : Vector TxCell 32) : Vector TxCell 32 :=
  cells.foldl (fun v c => vset v c.toFin st) v

/-- The channel's cells move to a state. -/
def moveRx (n : Chan) (st : RxCell) (cells : List (BitVec 5)) (s : State) : State :=
  let c := chan s n
  setChan s n { c with rx := { c.rx with cells := setRxCells st cells c.rx.cells } }

def moveTx (n : Chan) (st : TxCell) (cells : List (BitVec 5)) (s : State) : State :=
  let c := chan s n
  setChan s n { c with tx := { c.tx with cells := setTxCells st cells c.tx.cells } }

/-! ### Flow credits (R450, R451) -/

def freeCredits (fl : Flow) : Nat := fl.credits.toNat - fl.taken

def takeCredit (f : Nat) (s : State) : State :=
  let fl := flow s f
  setFlow s f { fl with taken := fl.taken + 1 }

def returnCredit (f : Nat) (s : State) : State :=
  let fl := flow s f
  setFlow s f { fl with taken := fl.taken - 1 }

/-- Held events move into CHEV[f] while the channel holds grants and the queue of 8 has room (R155, R156, R170, R451);
a frame's cells become Transit. -/
def flushHeld (n : Chan) : Nat → State → State
  | 0, s => s
  | k + 1, s =>
    let c := chan s n
    match c.rx.held with
    | [] => s
    | e :: rest =>
      if c.rx.grants = 0 then s
      else if 8 ≤ (chevOf s (furrowOf n)).length then countStall (furrowOf n).val s
      else
        let rx := { c.rx with held := rest, grants := c.rx.grants - 1, cells := setRxCells .transit e.cells c.rx.cells }
        let s := setChan s n { c with rx := rx }
        let f := furrowOf n
        let s := setChev s f (chevOf s f ++ [{ e with flow := c.flow }])
        flushHeld n k (qWrite f.val 1 s)

/-- Channel `k` of a furrow. -/
def furrowChan (f : Furrow) (k : Fin 4) : Chan := ⟨4 * f.val + k.val, by omega⟩
def furrowChans (f : Furrow) : List Chan := (fins 4).map fun k => furrowChan f k

/-- Room in CHEV[f]: what its channels hold follows, in ascending order of channel (log entry 112). -/
def refillChev (f : Furrow) (s : State) : State := (furrowChans f).foldl (fun s n => flushHeld n 64 s) s

/-- The furrow's clock runs and is not relocking (R151). -/
def furrowRuns (s : State) (f : Furrow) : Bool :=
  let x := furrow s f
  decide (x.freq ≠ 0) && !x.relocking

/-- A release crosses CHWR[f] back to its channel: the named cells return to Free (R167, R170). -/
def releaseCells (n : Chan) (cells : List (BitVec 5)) (s : State) : State := moveRx n .free cells s

/-- What an entry of CHWR[f] does at the channel, all but a post (R155, R447). -/
def applyChwr (i : ChwrItem) (s : State) : State :=
  match i with
  | .post .. => s
  | .grant n =>
    let c := chan s n
    flushHeld n 64 (setChan s n { c with rx := { c.rx with grants := c.rx.grants + 1 } })
  | .release n cells => releaseCells n cells s
  | .handover n fr =>
    let s := moveTx n .queued fr.cells s
    let c := chan s n
    setChan s n { c with tx := { c.tx with posted := c.tx.posted ++ [fr] } }

/-- An entry stands in CHWR[f]: the cells it names are Transit (R167). -/
def crossCells (i : ChwrItem) (s : State) : State :=
  match i with
  | .release n cells => moveRx n .transit cells s
  | .handover n fr => moveTx n .transit fr.cells s
  | _ => s

/-- The head of CHWR[f] is read, and the first entry that waited for room enters (R155, R156). -/
def popChwr (f : Furrow) (rest : List ChwrItem) (s : State) : State :=
  let s := qLeave (32 + f.val) 16 (rest.length + 1) (setChwr s f rest)
  match rest[15]? with
  | none => s
  | some i => crossCells i s

/-- Entries ahead of the first post pass to their channels in order, while the furrow's clock runs (R157); a post waits
for its own row. -/
def settleChwr (f : Furrow) : Nat → State → State
  | 0, s => s
  | k + 1, s =>
    if !furrowRuns s f then s
    else match chwrOf s f with
      | [] => s
      | .post .. :: _ => s
      | i :: rest => settleChwr f k (applyChwr i (popChwr f rest s))

/-- An entry goes into CHWR[f], or waits at its source for one of the 16 places (R155, R156). -/
def sendChwr (f : Furrow) (i : ChwrItem) (s : State) : State :=
  let l := chwrOf s f
  let s := qJoin (32 + f.val) 16 l.length (setChwr s f (l ++ [i]))
  settleChwr f (l.length + 1) (if l.length < 16 then crossCells i s else s)

/-- Grants a channel holds or has on their way (R451). -/
def grantsOf (s : State) (n : Chan) : Nat :=
  (chan s n).rx.grants + ((chwrOf s (furrowOf n)).filter fun i => decide (i = .grant n)).length

/-- The channel lacks a grant: it holds fewer than 2, or it is retired and its RETIRED event still waits (R237, R451). -/
def wantsGrant (s : State) (n : Chan) : Bool :=
  if raisesEvents s n then decide (grantsOf s n < 2)
  else isRetired s n && decide (grantsOf s n < (chan s n).rx.held.length)

/-- One pass of granting on a flow: each channel of it that lacks a grant, in ascending order, gets one while the flow
has a Free credit (R451). -/
def grantPass (f : Nat) (s : State) : State :=
  (fins 128).foldl (fun s n =>
    if (chan s n).flow.toNat = f ∧ wantsGrant s n ∧ 0 < freeCredits (flow s f) ∧ (flow s f).en
    then sendChwr (furrowOf n) (.grant n) (takeCredit f s) else s) s

/-- Granting until nothing more can be granted. -/
def pumpGrants (f : Nat) : Nat → State → State
  | 0, s => s
  | k + 1, s =>
    if freeCredits (flow s f) = 0 ∨ grantPass f s = s then s else pumpGrants f k (grantPass f s)

def pump (f : Nat) (s : State) : State := pumpGrants f 64 s

/-- The grants of a channel return to Free (R452 › Edges, R183). -/
def dropGrants (n : Chan) (s : State) : State :=
  let c := chan s n
  let f := c.flow.toNat
  let fl := flow s f
  let s := setFlow s f { fl with taken := fl.taken - c.rx.grants }
  setChan s n { c with rx := { c.rx with grants := 0 } }

/-! ### Raising events (R171, R172, R451) -/

/-- The mask bit of a kind, if it has one (R171). -/
def maskBit (kind : Byte) : Option Nat :=
  match kind.toNat with
  | 3 => some 0
  | 4 => some 1
  | 5 => some 2
  | 6 => some 3
  | 7 => some 4
  | 9 => some 5
  | _ => none

/-- Kinds that the full event hold may discard (R451). -/
def discardable (kind : Byte) : Bool := decide ((3 ≤ kind.toNat ∧ kind.toNat ≤ 7) ∨ kind.toNat = 9)

/-- The first discardable event taken out. -/
def dropOldestEvent : List ChEvent → Option (ChEvent × List ChEvent)
  | [] => none
  | e :: t =>
    if discardable e.kind then some (e, t)
    else (dropOldestEvent t).map fun p => (p.1, e :: p.2)

/-- An event joins the hold: at most 14 discardable ones wait (16 places, two kept), in order with held frames; it
takes the channel's DROPS with it (R172, R451). -/
def holdEvent (e : ChEvent) (rx : ChRx) : ChRx :=
  let e := { e with drops := rx.drops }
  let full := decide (14 ≤ (rx.held.filter fun x => discardable x.kind).length)
  match if discardable e.kind && full then dropOldestEvent rx.held else none with
  | some (old, rest) => { rx with held := rest ++ [e], drops := satAdd old.drops 1 }
  | none => { rx with held := rx.held ++ [e], drops := 0 }

/-- Whether a kind is raised under the channel's EVMASK (R171). -/
def unmasked (c : Channel) (kind : Byte) : Bool :=
  match maskBit kind with
  | none => true
  | some b => c.evmask.getLsbD b

/-- The channel raises an event (R171, R451). -/
def raiseEvent (n : Chan) (e : ChEvent) (s : State) : State :=
  let c := chan s n
  if unmasked c e.kind then
    let s := setChan s n { c with rx := holdEvent e c.rx }
    pump c.flow.toNat (flushHeld n 64 s)
  else s

/-- A plain event of a kind with INFO. -/
def raiseKind (n : Chan) (kind info : Byte) (s : State) : State :=
  raiseEvent n { ch := n, kind := kind, info := info } s

/-- A frame dropped: CNT_DROPS, the DROPS of the next event, STS.DROP (R170). -/
def countDrop (c : Channel) : Channel :=
  { c with drop := true, cnt := { c.cnt with drops := satInc c.cnt.drops }, rx := { c.rx with drops := satInc c.rx.drops } }

/-- A refusal: SHED[f].REFUSED and the current sub-window (R452, R454). -/
def countRefusal (f : Nat) (s : State) : State :=
  let x := tabGet {} s.drill.shed f
  { s with drill := { s.drill with shed := tabPut {} s.drill.shed f ({ x with refused := satInc x.refused, shedding := if f = 4095 then x.shedding else true }) } }

/-- Discards the oldest held frame, if any (R170 drop-oldest): its cells return to Free. -/
def dropOldestFrame : List ChEvent → Option (ChEvent × List ChEvent)
  | [] => none
  | e :: t => if e.cells ≠ [] then some (e, t) else (dropOldestFrame t).map fun p => (p.1, e :: p.2)

/-- The lowest-numbered free receive cell above the last taken, cyclically (R168). -/
def nextFreeCell (rx : ChRx) : Option (BitVec 5) :=
  ((List.range 32).map fun i => rx.last + 1 + BitVec.ofNat 5 i).find? fun c => decide (vget rx.cells c.toFin = .free)

/-- The channel takes a receive cell for the frame in progress; with none free, its drop rule decides, and the
frame lost counts in its flow's SHED (R168, R170, R452; log entry 157). -/
def takeCell (n : Chan) (s : State) : Option (BitVec 5) × State :=
  let c := chan s n
  let take := fun (c : Channel) (k : BitVec 5) =>
    setChan s n { c with rx := { c.rx with last := k, cells := vset c.rx.cells k.toFin .filling } }
  match nextFreeCell c.rx with
  | some k => (some k, take c k)
  | none =>
    match if c.cfg.dropOldest then dropOldestFrame c.rx.held else none with
    | none => (none, countRefusal c.flow.toNat (setChan s n (countDrop c)))
    | some (old, rest) =>
      let c := countDrop { c with rx := { c.rx with held := rest, drops := satAdd c.rx.drops old.drops.toNat, cells := setRxCells .free old.cells c.rx.cells } }
      match nextFreeCell c.rx with
      | some k => (some k, countRefusal c.flow.toNat (take c k))
      | none => (none, countRefusal c.flow.toNat (setChan s n c))

/-- The error codes of an ERROR event (R228). -/
inductive Upset where
  | parity | framing | noise | brk | crc | timeout | overlap | txcoll | txFailed | strobe | shortWord | modeFault
  deriving DecidableEq, Repr

def Upset.code : Upset → Byte
  | .parity => 1
  | .framing => 2
  | .noise => 3
  | .brk => 4
  | .crc => 5
  | .timeout => 6
  | .overlap => 7
  | .txcoll => 8
  | .txFailed => 9
  | .strobe => 10
  | .shortWord => 11
  | .modeFault => 12

end Sys2Proof.Machine
end

