-- ==== Sys2Proof/Machine/ChanRates.lean ====
section
/-! DEFINITION. Channel settings: rates and divisors, formats, pin modes, and which settings are reserved codes
(R163, R165, R176, R177, R184, R185, R191, R195, R207 to R209). -/

namespace Sys2Proof.Machine

/-- The furrow frequency a channel runs from, in Hz. -/
def freqOf (s : State) (n : Chan) : Nat := (furrow s (furrowOf n)).freq.toNat

/-- The furrow's clock runs and is not relocking (R151). -/
def clockRuns (s : State) (n : Chan) : Bool := furrowRuns s (furrowOf n)

/-! ### Formats (R165) -/

def fmtMultidrop (f : Byte) : Bool := f.getLsbD 7
def fmtParity (f : Byte) : Nat := bitsAt f 4 2
def fmtData (f : Byte) : Nat := bitsAt f 0 4
def fmtTwoStops (f : Byte) : Bool := f.getLsbD 6
def fmtDdr (f : Byte) : Bool := f.getLsbD 7
def fmtCpha (f : Byte) : Bool := f.getLsbD 6
def fmtCpol (f : Byte) : Bool := f.getLsbD 5
/-- The word length in bits. -/
def fmtWord (f : Byte) : Nat := bitsAt f 0 5 + 1

/-- The storage size of a word in bytes (R210). -/
def wordBytes (bits : Nat) : Nat := if bits ≤ 8 then 1 else if bits ≤ 16 then 2 else 4

/-- The format code is defined for the function (R165, R209). -/
def fmtOk (n : Chan) (func : BitVec 3) (f : Byte) : Bool :=
  match func.toNat with
  | 1 | 2 =>
    decide (5 ≤ fmtData f ∧ fmtData f ≤ 9) && decide (fmtParity f ≠ 3) &&
      (!fmtMultidrop f || decide (fmtData f = 8 ∧ fmtParity f = 0))
  | 3 => decide (3 ≤ bitsAt f 0 5) && (!fmtDdr f || (decide (n.val % 8 < 2) && !fmtCpha f && decide (fmtWord f % 2 = 0)))
  | 4 => decide (3 ≤ bitsAt f 0 5) && !fmtDdr f
  | 5 => decide (f = 0)
  | _ => true

/-! ### Async settings registers -/

def aSync (r : AsyncRegs) : Bool := r.cfg.getLsbD 31
def aFilter (r : AsyncRegs) : Bool := r.cfg.getLsbD 30
def aNoise (r : AsyncRegs) : Bool := r.cfg.getLsbD 29
def aCrc (r : AsyncRegs) : Nat := bitsAt r.cfg 26 2
def aDelim (r : AsyncRegs) : Nat := bitsAt r.cfg 24 2
def aIdle (r : AsyncRegs) : Nat := bitsAt r.cfg 16 8
def aLpos (r : AsyncRegs) : Nat := bitsAt r.frame 26 6
def aLadd (r : AsyncRegs) : Nat := bitsAt r.frame 20 6
def aFixed (r : AsyncRegs) : Nat := bitsAt r.frame 0 12

/-! ### Clocked settings registers -/

def csFramed (r : CsRegs) : Bool := r.cfg.getLsbD 31
def csRxEn (r : CsRegs) : Bool := r.cfg.getLsbD 30
def csDecode (r : CsRegs) : Bool := r.cfg.getLsbD 28
def csMfEn (r : CsRegs) : Bool := r.cfg.getLsbD 27
def csCapDly (r : CsRegs) : Nat := bitsAt r.cfg 24 3
def csSelPol (r : CsRegs) : Nat := bitsAt r.cfg 8 4
def csLag (r : CsRegs) : Nat := bitsAt r.timing 10 10
def csFrameWords (r : CsRegs) : Nat := bitsAt r.frame 0 11
/-- SEL3 is at its asserted level (R216, R224). -/
def sel3Asserted (c : CsState) : Bool := c.selIn.getLsbD 3 == (BitVec.ofNat 4 (csSelPol c.now)).getLsbD 3

/-! ### Divisors (R184, R195, R207) -/

/-- A quotient rounded to the nearest whole number. -/
def roundDiv (a b : Nat) : Nat := if b = 0 then 0 else (2 * a + b) / (2 * b)

/-- DIV of an asynchronous channel (R184). -/
def asyncDiv (f rate ovs : Nat) : Nat := roundDiv f (ovs * rate)

/-- DIV of a master: the even number nearest to F / RATE (R207). -/
def masterDiv (f rate : Nat) : Nat := 2 * roundDiv f (2 * rate)

/-- `f / k` lies within 0.5 % of `rate`. -/
def within005 (f k rate : Nat) : Bool :=
  decide (0 < k) && decide (200 * f ≤ 201 * rate * k) && decide (199 * rate * k ≤ 200 * f)

/-- The divisor in force: 0 where none fits. -/
def chanDiv (c : Channel) (f : Nat) : Nat :=
  let rate := c.cfg.rate.toNat
  match c.cfg.func.toNat with
  | 1 | 2 => if rate = 0 then 0 else if aSync c.async.now then f / rate else asyncDiv f rate c.cfg.oversample.toNat
  | 3 => if rate = 0 then 0 else masterDiv f rate
  | _ => 0

/-- Furrow cycles of one bit time (R177, R184, R195, R208); 0 where the channel has none. -/
def bitCycles (c : Channel) (f : Nat) : Nat :=
  let rate := c.cfg.rate.toNat
  match c.cfg.func.toNat with
  | 1 | 2 => if aSync c.async.now then f / rate else c.cfg.oversample.toNat * chanDiv c f
  | 3 => chanDiv c f
  | 4 => if rate = 0 then 0 else f / rate
  | _ => 0

/-- The realised rate error in units of 10 ppm, rounded toward zero, as a 16-bit two's complement number. -/
def rateErr (f k rate : Nat) : Half :=
  if rate * k = 0 then 0
  else BitVec.ofInt 16 (((f : Int) - (rate * k : Nat)) * 100000 |>.tdiv (rate * k : Nat))

/-! ### Which rates a setting may carry (R38, R185, R195, R207, R208, R209) -/

def pushPull (pm : BitVec 4) : Bool := decide (pm = 1)

/-- The connector's 5 V rail lets the function's push-pull outputs run at this rate (R38, R209). -/
def railLets (level5 : Bool) (cfg : ChCfg) : Bool :=
  let r := cfg.rate.toNat
  match cfg.func.toNat with
  | 1 => !(level5 && pushPull cfg.pm0) || decide (r ≤ 10000000)
  | 3 => !(level5 && (pushPull cfg.pm0 || pushPull cfg.pm1)) || decide (r ≤ if fmtDdr cfg.fmt then 5000000 else 10000000)
  | 4 => !(level5 && pushPull cfg.pm1) || decide (r ≤ 10000000)
  | _ => true

/-- The rate is within the function's range, whatever the furrow's frequency (R185, R207, R38). -/
def rateInRange (level5 : Bool) (cfg : ChCfg) (sync : Bool) : Bool :=
  let r := cfg.rate.toNat
  let s := cfg.oversample.toNat
  railLets level5 cfg && (match cfg.func.toNat with
    | 1 => decide (50 ≤ r ∧ r ≤ if sync ∨ s = 8 then 12500000 else 25000000)
    | 2 => decide (50 ≤ r ∧ r ≤ if s = 8 then 12500000 else 20000000)
    | 3 => decide (1000 ≤ r ∧ r ≤ 50000000)
    | _ => true)

/-- The furrow clock realises the rate within the function's tolerance (R184, R195, R207, R208). -/
def rateRealised (f : Nat) (cfg : ChCfg) (sync : Bool) : Bool :=
  let r := cfg.rate.toNat
  let s := cfg.oversample.toNat
  let async := decide (1 ≤ asyncDiv f r s ∧ asyncDiv f r s ≤ 65535) && within005 f (s * asyncDiv f r s) r
  match cfg.func.toNat with
  | 1 => if sync then decide (f % r = 0 ∧ (f / r) % 2 = 0 ∧ 4 ≤ f / r ∧ f / r ≤ 65534) else async
  | 2 => async
  | 3 => decide (2 ≤ masterDiv f r ∧ masterDiv f r ≤ 65534) && within005 f (masterDiv f r) r
  | 4 => decide (4 * r ≤ f)
  | _ => true

/-- The rate is within the function's range and the furrow clock realises it. -/
def rateOk (level5 : Bool) (f : Nat) (cfg : ChCfg) (sync : Bool) : Bool :=
  rateInRange level5 cfg sync && rateRealised f cfg sync

/-! ### Pin modes (R163) -/

/-- An output's modes: push-pull or open-drain. -/
def pmOut (m : Nat) : Bool := decide (m = 1 ∨ m = 2)
/-- An input's modes: hi-Z, pull-up or pull-down. -/
def pmIn (m : Nat) : Bool := decide (m = 0 ∨ m = 3 ∨ m = 4)

/-- Pin `k` of a channel with this function may take mode `m`; `odd` for the odd channel of a pair. -/
def pinModeOk (func : BitVec 3) (odd : Bool) (k m : Nat) (mfEn sync : Bool) : Bool :=
  match func.toNat, odd with
  | 0, _ => decide (m ≤ 4)
  | 1, _ => match k with
    | 0 => pmOut m
    | 1 => pmIn m
    | 2 => if sync then pmOut m else decide (m ≤ 4)
    | _ => decide (m ≤ 4)
  | 2, _ => if k < 2 then decide (m = 5) else decide (m ≤ 4)
  | 3, false => if k < 2 then pmOut m else pmIn m
  | 3, true => if k = 3 then (if mfEn then pmIn m else pmOut m || pmIn m) else pmOut m
  | 4, false => match k with
    | 1 => pmOut m
    | _ => pmIn m
  | 4, true => pmIn m
  | _, _ => decide (m ≤ 4)

/-! ### Answer rules (R161, R176, R177, R191, R208, R222) -/

/-- Nanoseconds as furrow cycles, rounded to the nearest cycle (R176). -/
def nsCycles (f ns : Nat) : Nat := roundDiv (ns * f) 1000000000

/-- Furrow cycles of the idle gap that confirms a frame in mode 0 (R191). -/
def confirmCycles (c : Channel) (f : Nat) : Nat :=
  if (c.cfg.func = 1 ∨ c.cfg.func = 2) ∧ aDelim c.async.now = 0 then aIdle c.async.now * bitCycles c f else 0

/-- The function has answer rules (R161). -/
def hasRules (func : BitVec 3) : Bool := decide (func = 1 ∨ func = 2 ∨ func = 4)

/-- HDR_LEN may take this value. -/
def hdrLenOk (c : Channel) (r : Rule) : Bool := decide (r.hdrLen.toNat ≤ 8) && (decide (r.hdrLen = 0) || hasRules c.cfg.func)

/-- TLEN may take this value (R222: a multiple of SB on a slave). -/
def tlenOk (c : Channel) (r : Rule) : Bool :=
  decide (1 ≤ r.tlen.toNat ∧ r.tlen.toNat ≤ 64) &&
    (decide (c.cfg.func ≠ 4) || decide (r.tlen.toNat % wordBytes (fmtWord c.cfg.fmt) = 0))

/-- TURN_NS is in range and allowed with COMPUTED and the delimiter in force. A template-only slot (HDR_LEN 0) is no
rule and carries only the range. -/
def turnOk (c : Channel) (f : Nat) (r : Rule) : Bool :=
  let cyc := nsCycles f r.turnNs.toNat
  let bit := bitCycles c f
  let gap := confirmCycles c f
  decide (500 ≤ r.turnNs.toNat ∧ r.turnNs.toNat ≤ 1000000) &&
    (decide (r.hdrLen = 0) ||
      (decide (4 ≤ cyc) && (decide (gap = 0) || decide (gap + 4 ≤ cyc)) &&
        (!r.computed ||
          (decide (bit ≠ 0) && decide (gap + 2 * bit ≤ cyc) && decide (500 * f ≤ (cyc - gap - 2 * bit) * 1000000000)))))

/-- A slave without a bit time has no computed rule (R208). -/
def slaveTimed (c : Channel) (r : Rule) : Bool :=
  !(decide (c.cfg.func = 4 ∧ c.cfg.rate = 0 ∧ r.hdrLen ≠ 0) && r.computed)

/-- The rules and template lengths held are no reserved codes under the channel's settings (R177, R191, R208, R222);
the rules of a function that has none are kept without effect (log entry 116). -/
def rulesFit (c : Channel) (f : Nat) : Bool :=
  c.rules.all fun p =>
    (decide (p.2.tlen = 0) || tlenOk c p.2) && (decide (p.2.hdrLen = 0) || !hasRules c.cfg.func || turnOk c f p.2)

/-- The function's own registers suit the settings (R195, R200, R213, R220). -/
def regsFit (c : Channel) (f : Nat) : Bool :=
  match c.cfg.func.toNat with
  | 1 => !aFilter c.async.regs || fmtMultidrop c.cfg.fmt
  | 2 => (!aFilter c.async.regs || fmtMultidrop c.cfg.fmt) && !aSync c.async.regs
  | 3 => decide (csCapDly c.cs.regs + 1 ≤ masterDiv f c.cfg.rate.toNat)
  | 4 => decide (csFrameWords c.cs.regs * wordBytes (fmtWord c.cfg.fmt) ≤ 2048)
  | _ => true

/-- A channel's settings hold no reserved code (R161, R165, R166, R176, R177, R185, R191, R207 to R209, R222). -/
def settingsFit (level5 : Bool) (n : Chan) (f : Nat) (c : Channel) : Bool :=
  fmtOk n c.cfg.func c.cfg.fmt && rateOk level5 f c.cfg (aSync c.async.regs) && rulesFit c f && regsFit c f

/-! ### Seed values of a channel (R133, R139, R183) -/

def ruleOfSeed (e : SeedEntry) : Rule :=
  { computed := decide (e.num 5 1 % 2 = 1), hdrLen := BitVec.ofNat 4 (e.num 4 1), send := BitVec.ofNat 4 (e.num 2 1)
    fallback := BitVec.ofNat 4 (e.num 3 1), tlen := BitVec.ofNat 7 (e.num 28 1), turnNs := BitVec.ofNat 32 (e.num 8 4)
    mtch := BitVec.ofNat 64 (e.num 12 8), mask := BitVec.ofNat 64 (e.num 20 8) }

def cfgOfSeed (e : SeedEntry) : ChCfg :=
  let fl := e.num 3 1
  { func := BitVec.ofNat 3 (e.num 1 1), term := fl.testBit 0, bias := fl.testBit 1, dropOldest := fl.testBit 2
    overlapCapture := fl.testBit 3, rate := BitVec.ofNat 32 (e.num 4 4), fmt := BitVec.ofNat 8 (e.num 8 1)
    oversample := BitVec.ofNat 4 (e.num 9 1), overlapPct := BitVec.ofNat 8 (e.num 10 1)
    retries := BitVec.ofNat 4 (e.num 11 1), pm0 := BitVec.ofNat 4 (e.num 16 1), pm1 := BitVec.ofNat 4 (e.num 17 1)
    pm2 := BitVec.ofNat 4 (e.num 18 1), pm3 := BitVec.ofNat 4 (e.num 19 1) }

/-- The RETIRE entry that covers a channel: its own, else the default (R243). -/
def retireEntry (s : State) (n : Chan) : Option SeedEntry :=
  match seedFind s 0x11 1 n.val with
  | some e => some e
  | none => seedFind s 0x11 1 0xFF

def healthOfSeed (s : State) (n : Chan) : Health :=
  match retireEntry s n with
  | none => { windowMs := 10000, errLimit := 500, pinFaultMs := 500, backoffUs := 200 }
  | some e => { windowMs := BitVec.ofNat 16 (e.num 2 2), errLimit := BitVec.ofNat 16 (e.num 4 2)
                pinFaultMs := BitVec.ofNat 16 (e.num 6 2), backoffUs := BitVec.ofNat 16 (e.num 8 2) }

/-- The REPLY entries of a channel. -/
def replyEntries (s : State) (n : Chan) : List SeedEntry := (seedOf s 0x04).filter fun e => decide (e.num 0 1 = n.val)

def rulesOfSeed (s : State) (n : Chan) : Tab Rule :=
  (replyEntries s n).foldl (fun t e => tabPut {} t (e.num 1 1) (ruleOfSeed e)) []

def tplsOfSeed (s : State) (n : Chan) : Tab (BitVec 512) :=
  (replyEntries s n).foldl (fun t e => tabPut 0 t (e.num 1 1) (ofBytes 512 ((e.data.drop 32).take 64))) []

/-- A channel with the seed's values and everything else as after a channel reset (R134, R183). -/
def seedChannel (s : State) (n : Chan) : Channel :=
  match seedFind s 0x03 1 n.val with
  | none => { health := healthOfSeed s n }
  | some e =>
    { owner := BitVec.ofNat 8 (e.num 2 1), en := decide (e.num 1 1 ≠ 0), cfg := cfgOfSeed e
      flow := BitVec.ofNat 12 (e.num 12 2), rules := rulesOfSeed s n, tpls := tplsOfSeed s n
      health := healthOfSeed s n }

/-- The MODES entry's four bytes of a channel: SAFE, SLEEP, RETIRED, LIMP (R133). -/
def modesByte (s : State) (n : Chan) (k : Nat) : Nat :=
  match seedOne s 0x12 with
  | none => if k = 3 then 2 else 0
  | some e => e.num (8 + 4 * n.val + k) 1

/-- The LIMP action of a channel (R94): 2, HIZ, by default. -/
def limpAction (s : State) (n : Chan) : Nat := modesByte s n 3

/-- RETIRED_LIMIT (R240): 0 = never. -/
def retiredLimit (s : State) : Nat :=
  match seedOne s 0x12 with
  | none => 0
  | some e => e.num 2 1

end Sys2Proof.Machine
end

