-- ==== Sys2Proof/Machine/Cache.lean ====
section
/-! DEFINITION. The cores' line stores, data caches and branch-target buffers: their ways, fills, invalidations and
predictions (13). -/

namespace Sys2Proof.Machine

def cache (s : State) (c : Fin 4) : Caches := vget s.cache c
def setCache (s : State) (c : Fin 4) (x : Caches) : State := { s with cache := vset s.cache c x }

/-- Every core's structures changed. -/
def mapCaches (f : Fin 4 → Caches → Caches) (s : State) : State := { s with cache := Vector.ofFn fun c => f c (cache s c) }

/-! ### The CACHE record (R294) -/

/-- POLICY 1: the crossings of the worlds invalidate. -/
def flushPolicy (s : State) : Bool := match seedOne s 0x09 with
  | none => false
  | some e => decide (e.num 0 1 = 1)

/-- A line or entry of world `w` serves a lookup of world `encl`: under POLICY 0 its own world's alone. Before a seed image
is applied no way is kept for a world (log entry 126). -/
def sameWays (s : State) (encl w : Bool) : Bool := match seedOne s 0x09 with
  | none => true
  | some e => decide (e.num 0 1 = 1) || encl == w

/-- The ways that a world uses of each set's eight. -/
def waysOf (s : State) (encl : Bool) : Nat := match seedOne s 0x09 with
  | none => 8
  | some e => if e.num 0 1 = 1 then 8 else if encl then e.num 1 1 else 8 - e.num 1 1

/-! ### Lines (R281, R292, R293) -/

/-- A lookup of a line hits. -/
def holdsLine (s : State) (encl : Bool) (line : Nat) (l : List CacheLine) : Bool :=
  l.any fun x => decide (x.line = line) && sameWays s encl x.encl

/-- A line filled into a structure of `sets` sets; in a full set of ways it takes the place of a line that the manual
leaves open (log entry 126). -/
def fillInto (sets : Nat) (x : CacheLine) (l : List CacheLine) (s : State) : List CacheLine × State :=
  if holdsLine s x.encl x.line l then (l, s)
  else
    let mates := l.filter fun y => decide (y.line % sets = x.line % sets) && sameWays s x.encl y.encl
    if mates.length < waysOf s x.encl then (l ++ [x], s)
    else
      let (v, s) := draw 8 s
      (l.erase (mates.getD (v.toNat % mates.length) x) ++ [x], s)

/-- A fill of a core's line store: 64 sets. -/
def fillCode (c : Fin 4) (x : CacheLine) (s : State) : State :=
  let (l, s) := fillInto 64 x (cache s c).lines s
  setCache s c { cache s c with lines := l }

/-- A fill of a core's data cache: 32 sets. -/
def fillData (c : Fin 4) (x : CacheLine) (s : State) : State :=
  let (l, s) := fillInto 32 x (cache s c).dlines s
  setCache s c { cache s c with dlines := l }

/-- The line holds one of `n` bytes from `a`. -/
def onLine (a n : Nat) (x : CacheLine) : Bool := decide (0 < n ∧ a / 32 ≤ x.line ∧ x.line ≤ (a + n - 1) / 32)

/-- A write to SRAM invalidates the matching lines of the data caches, but for those of the writer's own that `keep` has
it update. -/
def dropData (keep : Fin 4 → CacheLine → Bool) (a n : Nat) (s : State) : State :=
  mapCaches (fun c k => { k with dlines := k.dlines.filter fun x => keep c x || !onLine a n x }) s

/-- The line lies in a flash bank (R282) that `n` bytes from `a` touch. -/
def inBankOf (a n : Nat) (x : CacheLine) : Bool :=
  let bank := fun (b : Nat) => (b - 0x08000000) / 0x200000
  decide (0x08000000 ≤ 32 * x.line ∧ 32 * x.line < 0x08800000) && decide (bank a ≤ bank (32 * x.line) ∧ bank (32 * x.line) ≤ bank (a + n - 1))

/-- A program or erase has ended: the bank's cached lines are invalid. -/
def dropBanks (a n : Nat) (s : State) : State :=
  mapCaches (fun _ k => { k with lines := k.lines.filter fun x => !inBankOf a n x, dlines := k.dlines.filter fun x => !inBankOf a n x }) s

/-- The Enclosure's ways are invalid (13 › At start). -/
def dropEncl (s : State) : State :=
  mapCaches (fun _ k => { lines := k.lines.filter fun x => !x.encl, dlines := k.dlines.filter fun x => !x.encl
                          btb := k.btb.filter fun x => !x.encl }) s

/-- A crossing of the worlds on a core: under POLICY 1 all three structures are invalid. -/
def crossWorlds (t : Thread) (s : State) : State := if flushPolicy s then setCache s (coreOf t) {} else s

/-- The same where the DEBUG handler was entered from, or returns to, the Commons (R290). -/
def crossDebug (t : Thread) (before : Bool) (s : State) : State := if before != inEncl s t then crossWorlds t s else s

/-! ### Branch prediction (R279, R281, R310) -/

/-- The buffer's entry for a branch. -/
def btbFind (s : State) (t : Thread) (pc : Word) : Option BtbEntry :=
  (cache s (coreOf t)).btb.find? fun e => decide (e.pc = pc) && sameWays s (inEncl s t) e.encl

/-- The predicted next address: the buffer's target while its counter is 2 or 3 (log entry 127). -/
def predicted (s : State) (t : Thread) (pc : Word) : Word := match btbFind s t pc with
  | none => pc + 4
  | some e => if e.count.getLsbD 1 then e.target else pc + 4

def stepCount (taken : Bool) (k : BitVec 2) : BitVec 2 := if taken then satInc k else if k = 0 then 0 else k - 1

/-- The buffer learns a resolved branch; of a new entry the manual gives no counter and no victim. -/
def learnBranch (t : Thread) (pc target : Word) (taken : Bool) (s : State) : State :=
  let c := coreOf t
  match btbFind s t pc with
  | some e =>
    let e' := { e with target := if taken then target else e.target, count := stepCount taken e.count }
    setCache s c { cache s c with btb := (cache s c).btb.map fun y => if y = e then e' else y }
  | none =>
    if !taken then s
    else
      let (v, s) := draw 9 s
      let l := (cache s c).btb
      let l := if l.length < 128 then l else l.eraseIdx (v.toNat % 128)
      setCache s c { cache s c with btb := l ++ [{ encl := inEncl s t, pc := pc, target := target, count := v.extractLsb' 7 2 }] }

/-- PERF_MISPRED counts a misprediction. -/
def countMispred (t : Thread) (wrong : Bool) (s : State) : State :=
  let k := core s (coreOf t)
  if wrong then setCore s (coreOf t) { k with perfMispred := satInc k.perfMispred } else s

/-- A branch or jump is resolved: its misprediction counts, and the buffer learns it. -/
def resolveBranch (t : Thread) (pc target : Word) (taken : Bool) (s : State) : State :=
  let next := if taken then target else pc + 4
  learnBranch t pc target taken (countMispred t (decide (predicted s t pc ≠ next)) s)

end Sys2Proof.Machine
end

