-- ==== Sys2Proof/Machine/Resume.lean ====
section
/-! DEFINITION. The return from a handler, halted threads, the tile engine's queue, and what a certificate's scope
closes when Service ends (14, 15, 22). -/

namespace Sys2Proof.Machine

/-! ### TLQ and the tiles that POLICY 1 marks (R341, R351) -/

/-- A GEOM write enters TLQ (R351); a full TLQ holds the writer back. -/
def pushTlq (e : TileEntry) (s : State) : State :=
  qJoin 94 32 s.tile.tlq.length { s with tile := { s.tile with tlq := s.tile.tlq ++ [e] } }

/-- The world executing in the thread, for the count of R341. -/
def holdsWork (s : State) (t : Thread) : Bool := let x := thr s t; x.task.isSome || x.inInt

/-- Threads that hold a task or an interrupt while executing in the Enclosure (R341). -/
def enclHolders (s : State) : Nat := ((fins 16).filter fun t => holdsWork s t && inEncl s t).length

/-- When their number falls to zero, POLICY 1 sends the zeroing of the marked tiles (R341). -/
def checkTiles (before after : State) : State :=
  if before.tile.policy ∧ 0 < enclHolders before ∧ enclHolders after = 0 then pushTlq .zeroMarked after else after

/-! ### RETI (R314, R323) -/

/-- RETI's effect: PC, FLAGS, the world, idleness; the latch stays only for a return to its address. -/
def returnFrom (t : Thread) (s : State) : State :=
  let x := thr s t
  let n := x.ext.now
  let idle := n.ests.getLsbD 31
  let keep := match x.latch with
    | none => false
    | some (a, _) => decide (a = n.epc)
  let s := setThr s t { x with inInt := false, debug := false, dfault := false, pc := n.epc &&& ~~~3#32
                               flags := n.ests.setWidth 4, run := if idle then .idle else .running
                               latch := if keep then x.latch else none, outstanding := none }
  if idle ∧ x.task.isNone then { s with guard := { s.guard with towner := vset s.guard.towner t 0xFF } } else s

/-- A halted thread's bit in HLD.HALT clears. -/
def clearHalt (t : Thread) (s : State) : State := { s with hld := { s.hld with halt := setBits s.hld.halt t.val 1 0 } }

/-- GO: a thread halted in the DEBUG handler returns by RETI; a halt still pending is withdrawn (R490). -/
def resumeThread (t : Thread) (s : State) : State :=
  let x := thr s t
  if x.debug then checkTiles s (crossDebug t (inEncl s t) (clearHalt t (returnFrom t s)))
  else if s.hld.halt.getLsbD t.val then
    clearHalt t (setThr s t { x with ext := { x.ext with ipend := setBits x.ext.ipend 4 1 0 } })
  else s

/-! ### A staging session's end (R145) -/

/-- The session ends; RESULT and CODE stay until the next OPEN. -/
def endStaging (s : State) : State :=
  { s with seed := { s.seed with open_ := false, source := 0, written := [], checkedLast := false, wait := .idle }
           hld := { s.hld with staged := false } }

/-! ### Service's end (R488) -/

/-- What a certificate opened closes, and every halted thread resumes. -/
def closeScope (s : State) : State :=
  let s := { s with hld := { s.hld with scope := 0 } }
  let s := if s.hld.staged ∧ s.seed.open_ ∧ s.seed.source = 1 ∧ ¬ limpReason s 1 then endStaging s else s
  (fins 16).foldl (fun s t => resumeThread t s) s

end Sys2Proof.Machine
end

