-- ==== Sys2Proof/Machine/Guard.lean ====
section
/-! DEFINITION. The address map and the region guards (15, 23). -/

namespace Sys2Proof.Machine

/-- The guard that checks an address (R333, R494). -/
def guardOf (a : Nat) : Option Nat :=
  if 0x08000000 ≤ a ∧ a ≤ 0x087FFFFF then some 0
  else if 0x20000000 ≤ a ∧ a ≤ 0x201FFFFF then some (1 + (a - 0x20000000) / 0x80000)
  else if 0x40000000 ≤ a ∧ a ≤ 0x4007FFFF then some 5
  else if 0x40100000 ≤ a ∧ a ≤ 0x4017FFFF then some 6
  else if 0x50000000 ≤ a ∧ a ≤ 0x58FFFFFF then some (7 + (a - 0x50000000) / 0x1000000)
  else if 0x5F000000 ≤ a ∧ a ≤ 0x5FFFFFFF then some 16
  else none

/-- The address is mapped: the mask ROM or a guard's block (R494). -/
def mapped (a : Nat) : Bool := decide (a ≤ 0x7FFF) || (guardOf a).isSome

/-- The last address of a guard's block. -/
def guardEnd (g : Nat) : Nat :=
  if g = 0 then 0x087FFFFF
  else if g ≤ 4 then 0x20000000 + 0x80000 * g - 1
  else if g = 5 then 0x4007FFFF
  else if g = 6 then 0x4017FFFF
  else if g ≤ 15 then 0x50000000 + 0x1000000 * (g - 6) - 1
  else 0x5FFFFFFF

/-- The first address of a guard's block. -/
def guardBase (g : Nat) : Nat :=
  if g = 0 then 0x08000000
  else if g ≤ 4 then 0x20000000 + 0x80000 * (g - 1)
  else if g = 5 then 0x40000000
  else if g = 6 then 0x40100000
  else if g ≤ 15 then 0x50000000 + 0x1000000 * (g - 7)
  else 0x5F000000

def region (s : State) (g r : Nat) : Region := tabGet {} s.guard.region (16 * g + r)
def setRegion (s : State) (g r : Nat) (x : Region) : State :=
  { s with guard := { s.guard with region := tabPut {} s.guard.region (16 * g + r) x } }

/-- The enabled regions of a guard. -/
def regionsOf (s : State) (g : Nat) : List Region := ((List.range 16).map fun r => region s g r).filter fun r => r.en

/-- The attributes of a Commons or bay request at a guard (R334). -/
structure Attr where
  bay : Option Bay
  owner : Byte
  deriving DecidableEq, Repr

/-- A region matches a request and grants every permission in `perm` (R335): bit 0 read, 1 write, 2 execute. -/
def regionGrants (x : Region) (at' : Attr) (perm : BitVec 3) : Bool :=
  !x.world && (match at'.bay with
    | none => decide (x.bay = 0xFF)
    | some b => decide (x.bay.toNat = b.val)) &&
    (decide (x.owner = 0xFF) || decide (x.owner = at'.owner)) && decide (x.perm &&& perm = perm)

/-- From address `a` on, granting regions cover everything up to `last`; each round passes one region. -/
def covered (s : State) (at' : Attr) (perm : BitVec 3) (last : Nat) : Nat → Nat → Bool
  | 0, _ => false
  | k + 1, a =>
    match guardOf a with
    | none => false
    | some g =>
      let ends := ((regionsOf s g).filter fun x =>
        regionGrants x at' perm && decide (x.base.toNat ≤ a ∧ a ≤ x.limit.toNat)).map fun x => min x.limit.toNat (guardEnd g)
      match ends with
      | [] => false
      | e :: es =>
        let m := es.foldl max e
        if last ≤ m then true else covered s at' perm last k (m + 1)

/-- Some byte of the range lies in an Enclosure-only region (R335). -/
def excluded (s : State) (a last : Nat) : Bool :=
  (List.range 17).any fun g => (regionsOf s g).any fun x =>
    x.world && decide (max x.base.toNat (guardBase g) ≤ last ∧ a ≤ min x.limit.toNat (guardEnd g))

/-- The guard's decision on a request that is not the Enclosure's (R335, R12). -/
def guardPasses (s : State) (at' : Attr) (perm : BitVec 3) (a len : Nat) : Bool :=
  decide (0 < len) && !excluded s a (a + len - 1) && covered s at' perm (a + len - 1) 300 a

/-- The owner tag of a requester (R334, R337, R485). -/
def ownerTag (s : State) : Req → Byte
  | .thread t => vget s.guard.towner t
  | _ => 0xFF

/-- The attributes of a requester. -/
def attrOf (s : State) (r : Req) : Attr :=
  { bay := match r with
      | .bay b => some b
      | _ => none
    owner := ownerTag s r }

/-- The guard lets the request through: the Enclosure always, any other by the regions, and the ROM has no guard
(R333, R335). -/
def guardLets (s : State) (r : Req) (perm : BitVec 3) (a len : Nat) : Bool :=
  isEncl s r || decide (a ≤ 0x7FFF) || guardPasses s (attrOf s r) perm a len

def permR : BitVec 3 := 1
def permW : BitVec 3 := 2
def permX : BitVec 3 := 4

/-- Whether a write to a register at `a` may be made: the guard, then the block's own rule (R335); and what a refusal
records (R339). A bay reaches registers only through its BAR0, which has no guard (R334, R370). -/
def tryWrite (r : Req) (a : Word) (blockOk : Bool) (act : State → State) (s : State) : State :=
  match r with
  | .bay _ => if blockOk then act s else violate r .bay a true s
  | _ =>
    if !guardLets s r permW a.toNat 4 then violate r .guard a true s
    else if !blockOk then violate r .block a true s
    else act s

/-- The same for a read. -/
def tryRead (r : Req) (a : Word) (blockOk : Bool) (act : State → State) (s : State) : State :=
  match r with
  | .bay _ => if blockOk then act s else violate r .bay a false s
  | _ =>
    if !guardLets s r permR a.toNat 4 then violate r .guard a false s
    else if !blockOk then violate r .block a false s
    else act s

/-- The bay whose flow the thread's task is on: the thread acts for it (R373). -/
def actingBay (s : State) (t : Thread) : Option Bay :=
  match (thr s t).task with
  | none => none
  | some d =>
    let b := (flow s (desc s d).flow.toNat).bay.toNat
    if h : b < 4 then some ⟨b, h⟩ else none

/-- The requester owns a channel (R181): 0 Commons, 1 Enclosure, 2 to 5 a bay, for whose channels a thread that acts
for it counts as owner too (R373). -/
def ownsChannel (s : State) (r : Req) (n : Chan) : Bool :=
  let o := (chan s n).owner.toNat
  let acts := fun (t : Thread) => match actingBay s t with
    | none => false
    | some b => decide (o = 2 + b.val)
  match r with
  | .bay b => decide (o = 2 + b.val)
  | .thread t => acts t || (isEncl s r && decide (o = 1)) || (isCommons s r && decide (o = 0))
  | r => (isEncl s r && decide (o = 1)) || (isCommons s r && decide (o = 0))

/-- The resident Headland or the TAP, which four write-only registers refuse in every scope (R485). -/
def debugPort (r : Req) : Bool := decide (r = .headland ∨ r = .tap)

/-- The base address of a channel's register block. -/
def chanBase (n : Chan) : Word := BitVec.ofNat 32 (0x40000000 + 0x1000 * n.val)

end Sys2Proof.Machine
end

