-- ==== Sys2Proof/Machine/BayQueue.lean ====
section
/-! DEFINITION. A bay's share, its window, and the queues it shares with its host: fetches, completions, messages and
what is sent (17, 20). -/

namespace Sys2Proof.Machine

/-! ### The bay's share (R133, R372) -/

/-- The applied BAY record of a bay. -/
def bayRec (s : State) (b : Bay) : Option SeedEntry := seedFind s 0x0B 1 b.val
def bayNum (s : State) (b : Bay) (off n : Nat) : Nat := match bayRec s b with
  | none => 0
  | some e => e.num off n
/-- The bay is enabled: a BAY record with ENABLE has been applied (R134, R136). -/
def bayEnabled (s : State) (b : Bay) : Bool := (bayNum s b 1 1).testBit 0
def bayStages (s : State) (b : Bay) : Bool := (bayNum s b 1 1).testBit 2
def bayMaxRate (s : State) (b : Bay) : Nat := bayNum s b 2 1
def bayHasChannel (s : State) (b : Bay) (n : Nat) : Bool := (bayNum s b 16 16).testBit n
def bayHasOwner (s : State) (b : Bay) (o : Nat) : Bool := decide (o < 64) && (bayNum s b 32 8).testBit o
def flowBase (s : State) (b : Bay) : Nat := bayNum s b 40 2
def flowCount (s : State) (b : Bay) : Nat := bayNum s b 42 2
def bayHasFlow (s : State) (b : Bay) (f : Nat) : Bool :=
  (bayRec s b).isSome && decide (flowBase s b ≤ f ∧ f < flowBase s b + flowCount s b)
def winBase (s : State) (b : Bay) : Nat := bayNum s b 44 4
def winSize (s : State) (b : Bay) : Nat := bayNum s b 48 4

/-! ### SRAM -/

def sramBase : Nat := 0x20000000
def inSram (a len : Nat) : Bool := decide (sramBase ≤ a ∧ a + len ≤ 0x20200000)
def sramRead (s : State) (a n : Nat) : List Byte := memBytes sramBlank s.mem.sram a n
def sramStore (a : Nat) (bs : List Byte) (s : State) : State :=
  { s with mem := { s.mem with sram := memStore sramBlank s.mem.sram a bs } }
/-- A write by any master but a core's own store: every data cache's lines are invalid (R293). -/
def sramWrite (a : Nat) (bs : List Byte) (s : State) : State :=
  dropData (fun _ _ => false) a bs.length (sramStore a bs s)
/-- A core's own store: it updates the line that it hits, and every other copy is invalid (R292, R293; log entry 126). -/
def coreWrite (t : Thread) (a : Nat) (bs : List Byte) (s : State) : State :=
  dropData (fun c x => decide (c = coreOf t) && sameWays s (inEncl s t) x.encl) a bs.length (sramStore a bs s)

/-- The bay's request to SRAM passes the guards with this owner tag (R334, R335). -/
def winPasses (s : State) (b : Bay) (tag : Byte) (perm : BitVec 3) (a len : Nat) : Bool :=
  inSram a len && guardPasses s { bay := some b, owner := tag } perm a len

/-- A bay's read of its window: zeros where it is refused (R8, R12). -/
def winRead (b : Bay) (tag : Byte) (off len : Nat) (s : State) : List Byte × State :=
  let a := winBase s b + off
  if len = 0 then ([], s)
  else if winPasses s b tag permR a len then (sramRead s a len, s)
  else (List.replicate len 0, violateSrc (16 + b.val) .guard (BitVec.ofNat 32 a) false false s)

/-- A bay's write to its window. -/
def winWrite (b : Bay) (tag : Byte) (off : Nat) (bs : List Byte) (s : State) : State :=
  let a := winBase s b + off
  if bs = [] then s
  else if winPasses s b tag permW a bs.length then sramWrite a bs s
  else violateSrc (16 + b.val) .guard (BitVec.ofNat 32 a) true false s

/-! ### Configuration space (R366, R368, R369) -/

/-- The writable bits of a configuration dword, where the capabilities of R369 lie: command, BARs, power management,
device control, device control 2, MSI-X control, the masks and severity of AER (log entry 16). -/
def cfgMask (off : Nat) : Word :=
  if off = 0x04 then 0x00000146
  else if off = 0x10 then 0xFFFF0000
  else if off = 0x14 then 0xFFFFFFFF
  else if off = 0x18 then 0xFFF00000
  else if off = 0x1C then 0xFFFFFFFF
  else if off = 0x3C then 0x000000FF
  else if off = 0x44 then 0x00000103
  else if off = 0x58 then 0x000071EF
  else if off = 0x60 then 0x000000C3
  else if off = 0x78 then 0x00000700
  else if off = 0x80 then 0x0000000F
  else if off = 0x90 then 0xC0000000
  else if off = 0x108 ∨ off = 0x10C then 0x00175000
  else if off = 0x114 then 0x000031C1
  else 0

/-- What a writable dword holds after a bay reset: the PCI Express reset values (R368): Max Read Request Size 512 bytes,
correctable and other reports off. -/
def cfgReset (off : Nat) : Word :=
  if off = 0x58 then 0x00002000 else if off = 0x10C then 0x00462030 else if off = 0x114 then 0x00002000 else 0

/-- The sticky bits of a dword, each cleared by a 1: AER's Uncorrectable and Correctable Error Status. -/
def cfgSticky (off : Nat) : Word := if off = 0x104 then 0x0017F000 else if off = 0x110 then 0x000031C1 else 0

/-- The lowest words of the capabilities of R369, at their offsets: ID, version and the next one's offset
(log entry 110). -/
def capabilityWord (last : Bool) (off : Nat) : Word :=
  if off = 0x40 then 0x00035001
  else if off = 0x50 then 0x00029010
  else if off = 0x90 then 0x001F0011
  else if off = 0x94 then 0x00002000
  else if off = 0x98 then 0x00002800
  else if off = 0x100 then 0x14020001
  else if off = 0x140 then 0x15010003
  else if off = 0x150 then if last then 0x00010018 else 0x16010018
  else if off = 0x160 then if last then 0 else 0x00010019
  else 0

/-- The read-only fields of a configuration dword: the header of R368 and the capabilities of R369. -/
def cfgFixed (s : State) (b : Bay) (off : Nat) : Word :=
  let id (at' dflt : Nat) : Nat := if bayNum s b at' 2 = 0 then dflt else bayNum s b at' 2
  if off = 0 then BitVec.ofNat 32 (id 4 0x1F3A + id 6 0x0128 * 65536)
  else if off = 0x08 then 0x0C800002
  else if off = 0x10 then 0x00000004
  else if off = 0x18 then 0x0000000C
  else if off = 0x2C then BitVec.ofNat 32 (bayNum s b 8 2 + bayNum s b 10 2 * 65536)
  else if off = 0x34 then 0x00000040
  else if off = 0x144 then BitVec.ofNat 32 (serialFuses s)
  else if off = 0x148 then BitVec.ofNat 32 (serialFuses s / 2 ^ 32)
  else capabilityWord (decide (bayMaxRate s b ≠ 3)) off

def cfgHeld (s : State) (b : Bay) (off : Nat) : Word := tabGet (cfgReset off) (bay s b).cfg off

def msixOn (s : State) (b : Bay) : Bool := (cfgHeld s b 0x90).getLsbD 31
def msixMasked (s : State) (b : Bay) : Bool := (cfgHeld s b 0x90).getLsbD 30
def idoRequests (s : State) (b : Bay) : Bool := (cfgHeld s b 0x78).getLsbD 8
def idoCompletions (s : State) (b : Bay) : Bool := (cfgHeld s b 0x78).getLsbD 9
def ltrOn (s : State) (b : Bay) : Bool := (cfgHeld s b 0x78).getLsbD 10

/-! ### Sending (R155, R387, R388, R456) -/

/-- The link carries TLPs: L0, or L1, which it leaves to send. -/
def linkCarries (s : State) (b : Bay) : Bool := decide ((bay s b).link = 2 ∨ (bay s b).link = 3)

/-- The flow control type of an item (posted 0, non-posted 2, completion 4) and its data credits, 16 bytes each. -/
def itemCost : HostItem → Fin 6 × Nat
  | .write _ bs => (0, (bs.length + 15) / 16)
  | .completion .. => (0, 1)
  | .message .. => (0, 1)
  | .ltr _ _ => (0, 0)
  | .read .. => (2, 0)
  | .reply bs _ => (4, (bs.length + 15) / 16)

/-- Credits of a type that items of one kind hold: `header` or data. -/
def creditsOf (l : List HostOut) (ty : Fin 6) : Nat :=
  (l.map fun o => let (k, n) := itemCost o.item
                  if k = ty then 1 else if k.val + 1 = ty.val then n else 0).foldl (· + ·) 0

/-- A finite credit type has room for `n` more beside the items sent and not yet returned (R456). -/
def creditLets (x : BayState) (ty : Fin 6) (n : Nat) : Bool :=
  decide (vget x.txLimit ty = 0 ∨ creditsOf (x.out.filter fun o => o.sent) ty + n ≤ vget x.txLimit ty)

/-- The item's credits are available. -/
def creditFree (x : BayState) (i : HostItem) : Bool :=
  let (k, n) := itemCost i
  creditLets x k 1 && (if k = 0 then creditLets x 1 n else if k = 2 then creditLets x 3 n else creditLets x 5 n)

/-- The first unsent item is marked sent. -/
def markSent : List HostOut → List HostOut
  | [] => []
  | o :: t => if o.sent then o :: markSent t else { o with sent := true } :: t

/-- Items in BAYOUT[b] and waiting to enter it. -/
def unsent (x : BayState) : Nat := (x.out.filter fun o => !o.sent).length

/-- Items leave in order while the link carries them and the host's credits last (R456, log entry 3). -/
def flushOut (b : Bay) : Nat → State → State
  | 0, s => s
  | k + 1, s =>
    let x := bay s b
    match x.out.find? fun o => !o.sent with
    | none => s
    | some o =>
      if linkCarries s b && creditFree x o.item then
        flushOut b k (qLeave (102 + b.val) 32 (unsent x) (setBay s b { x with out := markSent x.out }))
      else s

/-- An item enters BAYOUT[b] and leaves as soon as it may; its IDO attribute is the host's setting for requests or for
completions, and a completion also copies the request's (R388, R389; log entry 131). -/
def hostSend (b : Bay) (i : HostItem) (s : State) : State :=
  let x := bay s b
  let ido := match i with
    | .reply _ a => idoCompletions s b || a.ido
    | .ltr _ _ => false
    | _ => idoRequests s b
  let s := qJoin (102 + b.val) 32 (unsent x) (setBay s b { x with out := x.out ++ [{ item := i, ido := ido, sent := false }] })
  flushOut b (x.out.length + 1) s

/-- The payload size in force: 256 bytes, or 128 where the host programs it (R366). -/
def maxPayload (s : State) (b : Bay) : Nat := if bitsAt (cfgHeld s b 0x58) 5 3 = 0 then 128 else 256
/-- The read request size in force: 512 bytes at most (R366). -/
def maxRead (s : State) (b : Bay) : Nat := min 512 (128 * 2 ^ bitsAt (cfgHeld s b 0x58) 12 3)

/-- Bytes written to the host in requests of the payload size. -/
def sendWrites (b : Bay) (size : Nat) : Nat → DWord → List Byte → State → State
  | 0, _, _, s => s
  | k + 1, a, bs, s =>
    if bs = [] then s
    else sendWrites b size k (a + BitVec.ofNat 64 size) (bs.drop size) (hostSend b (.write a (bs.take size)) s)

/-- A range read from the host in requests of the read size. -/
def sendReads (b : Bay) (size : Nat) : Nat → DWord → Nat → State → State
  | 0, _, _, s => s
  | k + 1, a, n, s =>
    if n = 0 then s
    else sendReads b size k (a + BitVec.ofNat 64 size) (n - size) (hostSend b (.read a (min n size)) s)

/-- An unsent message for the vector waits. -/
def messageWaits (s : State) (b : Bay) (v : BitVec 5) : Bool :=
  (bay s b).out.any fun o => !o.sent && (match o.item with
    | .message w _ _ => decide (w = v)
    | _ => false)

/-- The message of a vector, sent, absorbed, or turned into a pending bit (R387). -/
def raiseVec (b : Bay) (v : BitVec 5) (s : State) : State :=
  let x := bay s b
  let e := vget x.vecs v.toFin
  if e.mask ∨ ¬ msixOn s b ∨ msixMasked s b then
    setBay s b { x with vecs := vset x.vecs v.toFin { e with pending := true } }
  else if e.addr.toNat % 4 ≠ 0 ∨ messageWaits s b v then s
  else hostSend b (.message v e.addr e.data) s

/-- A pending message whose mask has cleared is sent. -/
def releaseVec (b : Bay) (v : Fin 32) (s : State) : State :=
  let x := bay s b
  let e := vget x.vecs v
  if e.pending ∧ ¬ e.mask ∧ msixOn s b ∧ ¬ msixMasked s b then
    raiseVec b (BitVec.ofNat 5 v.val) (setBay s b { x with vecs := vset x.vecs v { e with pending := false } })
  else s

/-- HB.STS has changed: the event vector (R387, R395). -/
def bayEvent (b : Bay) (s : State) : State :=
  let x := bay s b
  if x.evtIen then raiseVec b x.evtVec s else s

/-! ### Queues (R374 to R376) -/

def setSq (b : Bay) (q : Fin 16) (x : SubQ) (s : State) : State :=
  let y := bay s b
  setBay s b { y with sq := vset y.sq q x }
def setCq (b : Bay) (q : Fin 16) (x : CmpQ) (s : State) : State :=
  let y := bay s b
  setBay s b { y with cq := vset y.cq q x }
def sqOf (s : State) (b : Bay) (q : Fin 16) : SubQ := vget (bay s b).sq q
def cqOf (s : State) (b : Bay) (q : Fin 16) : CmpQ := vget (bay s b).cq q

/-- Entries of a ring of `size` between two indexes. -/
def ringLen (head tail size : Nat) : Nat := if size = 0 then 0 else (tail + size - head % size) % size

/-- Completions written and not yet consumed by the host. -/
def cqWritten (x : CmpQ) : Nat := ringLen x.head.toNat x.tail.toNat x.size.toNat
/-- Free CQ slots: SIZE − 1 less the reserved and the unconsumed ones. -/
def cqFree (x : CmpQ) : Nat := x.size.toNat - 1 - x.reserved - cqWritten x
/-- Entries to be fetched. -/
def sqPending (x : SubQ) : Nat := ringLen x.head.toNat x.tail.toNat x.size.toNat - x.fetching
/-- Command slots that a completion still in BAYOUT[b] names (R376, R447); a notice, with SQID 0xFF, names none. -/
def slotsLeaving (x : BayState) : Nat :=
  (x.out.filter fun o => !o.sent && (match o.item with
    | .completion _ _ e => decide (bitsAt e 64 16 ≠ 0xFF)
    | _ => false)).length

/-- Command slots that are not free: fetching, admitted, or in transit. -/
def slotsUsed (x : BayState) : Nat := x.cmds.length + (x.sq.toList.foldl (fun k q => k + q.fetching) 0) + slotsLeaving x

/-- Entries that one request of a queue's turn reads (R376). -/
def fetchSize (s : State) (b : Bay) (q : Fin 16) : Nat :=
  let x := sqOf s b q
  let y := bay s b
  if x.en ∧ x.fetching = 0 ∧ ¬ y.quiescing ∧ ¬ y.quiesced ∧ s.sys.mode ≠ Mode.lockdown then
    min 8 (min (sqPending x) (min (x.size.toNat - x.head.toNat) (min (cqFree (cqOf s b x.cqid.toFin)) (256 - slotsUsed y))))
  else 0

/-- The queues from the one after the last turn on. -/
def turnOrder (k : Fin 16) : List (Fin 16) := (List.range 16).map fun i => Fin.ofNat 16 (k.val + 1 + i)

/-- One fetch turn: the first queue in turn that may fetch reserves its slots and its read is sent (R375, R376). -/
def fetchTurn (b : Bay) (s : State) : Option State :=
  ((turnOrder (bay s b).turn).find? fun q => decide (0 < fetchSize s b q)).map fun q =>
    let n := fetchSize s b q
    let x := sqOf s b q
    let c := cqOf s b x.cqid.toFin
    let s := setCq b x.cqid.toFin { c with reserved := c.reserved + n } (setSq b q { x with fetching := n } s)
    let s := setBay s b { bay s b with turn := q }
    sendReads b (maxRead s b) 8 (x.base + BitVec.ofNat 64 (64 * x.head.toNat)) (64 * n) s

/-- Fetches are issued while a queue may fetch: at most one read per queue is in flight. -/
def pumpFetchN (b : Bay) : Nat → State → State
  | 0, s => s
  | k + 1, s => match fetchTurn b s with
    | none => s
    | some s' => pumpFetchN b k s'

def pumpFetch (b : Bay) (s : State) : State := pumpFetchN b 16 s

/-! ### Completions (R381, R382) -/

/-- A completion entry without its phase. -/
def entryBits (result : DWord) (sqid : Nat) (sqhd : Nat) (cid : Nat) (status : Byte) (notice phase : Bool) : BitVec 128 :=
  BitVec.ofNat 128 (result.toNat + sqid * 2 ^ 64 + sqhd * 2 ^ 80 + cid * 2 ^ 96 + status.toNat * 2 ^ 112 +
    (bit phase + 2 * bit notice) * 2 ^ 120)

/-- A completion is written to the next entry of a CQ, and its message follows. -/
def writeEntry (b : Bay) (q : Fin 16) (result : DWord) (sqid sqhd cid : Nat) (status : Byte) (notice : Bool) (s : State) : State :=
  let c := cqOf s b q
  let e := entryBits result sqid sqhd cid status notice c.phase
  let a := c.base + BitVec.ofNat 64 (16 * c.tail.toNat)
  let wrap := decide (c.tail.toNat + 1 = c.size.toNat)
  let s := setCq b q { c with tail := if wrap then 0 else c.tail + 1, phase := if wrap then !c.phase else c.phase
                              reserved := c.reserved - 1 } s
  let s := hostSend b (.completion q a e) s
  if c.ien then raiseVec b c.vec s else s

def cmdOf (s : State) (b : Bay) (k : Fin 256) : Option BayCmd := (bay s b).cmds.find? fun c => decide (c.slot = k)
def dropCmd (b : Bay) (k : Fin 256) (s : State) : State :=
  let x := bay s b
  setBay s b { x with cmds := x.cmds.filter fun c => decide (c.slot ≠ k) }
def setCmd (b : Bay) (c : BayCmd) (s : State) : State :=
  let x := bay s b
  setBay s b { x with cmds := x.cmds.map fun y => if y.slot = c.slot then c else y }

/-- Fields of a command (R377). -/
def cmdNum (c : BayCmd) (off n : Nat) : Nat := bitsAt c.body (8 * off) (8 * n)
def cmdOpc (c : BayCmd) : Nat := cmdNum c 0 1
def cmdDir (c : BayCmd) : Nat := bitsAt c.body 8 2
def cmdIndex (c : BayCmd) : Nat := bitsAt c.body 10 2

/-- An orderly removal ends once no command is in use (R395): power off, indicator off, QUIESCED. -/
def settleQuiesce (b : Bay) (s : State) : State :=
  let x := bay s b
  if x.quiescing && decide (x.cmds = []) then
    let o := bayOut s b
    let s := setBayOut s b { o with on := false, request := false }
    bayEvent b (setBay s b { x with quiescing := false, quiesced := true, ind := 0, pwr := false })
  else s

/-- A command's completion entry, and its slot is free (R376, R382). -/
def completeCmd (b : Bay) (c : BayCmd) (status : Byte) (result : DWord) (s : State) : State :=
  let q := sqOf s b c.q
  let s := writeEntry b q.cqid.toFin result c.q.val c.sqhd.toNat (cmdNum c 2 2) status false (dropCmd b c.slot s)
  let s := if status = 1 then setBay s b { bay s b with busys := satInc (bay s b).busys } else s
  settleQuiesce b (pumpFetch b s)

/-- DIR OUT: the window's bytes are written to the host (R381). -/
def dirOut (b : Bay) (c : BayCmd) (s : State) : State :=
  let len := cmdNum c 20 4
  if cmdDir c = 2 ∧ 0 < len then
    let (bs, s) := winRead b (sqOf s b c.q).owner (cmdNum c 16 4) len s
    sendWrites b (maxPayload s b) (len / 128 + 1) (BitVec.ofNat 64 (cmdNum c 8 8)) bs s
  else s

/-- A command's work has ended with a status: the data out phase, the completion, the message; after a removal
nothing reaches the host (R272, R381). -/
def bayCmdDone (b : Bay) (slot : Fin 256) (status : Byte) (result : DWord) (s : State) : State :=
  match cmdOf s b slot with
  | none => s
  | some c =>
    if status = 5 then settleQuiesce b (dropCmd b slot s)
    else completeCmd b c status result (if status = 1 then s else dirOut b c s)

end Sys2Proof.Machine
end

