-- ==== Sys2Proof/Machine/Tasks.lean ====
section
/-! DEFINITION. The drill's operations on tasks: admission, the matching store, selection, end and release (12). -/

namespace Sys2Proof.Machine

def timeLo (s : State) : Word := s.drill.time.setWidth 32

/-- A deadline has passed: it is not 0 and (TIME_LO − D) modulo 2^32 is below 2^31 (R252). -/
def deadlinePassed (s : State) (d : Word) : Bool := decide (d ≠ 0 ∧ (timeLo s - d).toNat < 2 ^ 31)

/-- A computed deadline of 0 is stamped as 1 (R252). -/
def stampDeadline (d : Word) : Word := if d = 0 then 1 else d

/-- The place of a status in the order of R15, the first reported lowest. -/
def statusRank (c : Byte) : Nat :=
  match c.toNat with
  | 5 => 0
  | 6 => 1
  | 2 => 2
  | 3 => 3
  | 4 => 4
  | 1 => 5
  | _ => 6

/-- The one of two statuses that R15 reports. -/
def worstStatus (a b : Byte) : Byte := if statusRank a ≤ statusRank b then a else b

/-! ### Descriptors -/

/-- A Free descriptor: 992 to 1023 are kept for flow 4095 (R247); the lowest free is taken (log entry 12). -/
def freeDesc (s : State) (f : Nat) : Option (Fin 1024) :=
  (fins 1024).find? fun d => decide ((desc s d).st = .free) && (decide (992 ≤ d.val) == decide (f = 4095))

def freeEntry (s : State) : Option (Fin 512) := (fins 512).find? fun e => decide ((entry s e.val).st = .free)

/-- Descriptors in a state. -/
def countDesc (s : State) (st : DescState) : Nat := (s.drill.descs.filter fun p => decide (p.2.st = st)).length

/-- A task's effective level (R259): its flow's level as it is now, and one more for each AGE_US waited, up to 6. -/
def effLevel (s : State) (x : Desc) : BitVec 3 :=
  let p := (flow s x.flow.toNat).prio
  if 6 ≤ p.toNat then p else BitVec.ofNat 3 (min 6 (p.toNat + x.life.boost))

/-- Ready and held tasks at an effective level (R274). -/
def depthAt (s : State) (p : BitVec 3) : Nat :=
  (s.drill.descs.filter fun q => decide (q.2.st = .queued ∧ effLevel s q.2 = p)).length

/-- QDEPTH's peak follows the depth. -/
def notePeak (p : BitVec 3) (s : State) : State :=
  let d := BitVec.ofNat 11 (depthAt s p)
  let v := s.drill.peak
  if vget v p.toFin < d then { s with drill := { s.drill with peak := vset v p.toFin d } } else s

/-- The peaks follow every level's depth. -/
def notePeaks (s : State) : State := (List.range 8).foldl (fun s p => notePeak (BitVec.ofNat 3 p) s) s

/-- A descriptor becomes Queued and ready now. -/
def queueTask (d : Fin 1024) (s : State) : State :=
  let x := desc s d
  notePeak (flow s x.flow.toNat).prio
    (setDesc s d { x with st := .queued, life := { x.life with readyAt := s.drill.time.toNat, boost := 0 } })

/-- The task record filled at admission: ORDER, ARRIVAL and the number (R249). The credit is already taken. -/
def fillDesc (f : Nat) (d : Fin 1024) (x : Desc) (s : State) : State :=
  let fl := flow s f
  let x := { x with flow := BitVec.ofNat 12 f, order := fl.nextOrder, arrival := timeLo s,
                    life := { x.life with readyAt := s.drill.time.toNat, boost := 0 } }
  setDesc (setFlow s f { fl with nextOrder := fl.nextOrder + 1 }) d x

/-- An admitted task on a priority-queue flow, or a SOLO task: Queued at once. -/
def admitTask (f : Nat) (d : Fin 1024) (x : Desc) (s : State) : State := queueTask d (fillDesc f d x s)

/-! ### The matching store (R261 to R265) -/

/-- The channels that are untagged sources of a flow, ascending (R261). -/
def untaggedChannels (s : State) (f : Nat) : List Chan :=
  (fins 128).filter fun n => decide ((chan s n).flow.toNat = f) && decide ((chan s n).cfg.func ≠ 0) &&
    decide (headOf s n = n)

/-- The timers that are untagged sources of a flow, ascending: those that name it and have a PERIOD_US (R261; log
entry 124). -/
def untaggedTimers (s : State) (f : Nat) : List (Fin 64) :=
  (fins 64).filter fun i => decide ((vget s.drill.timers i).period ≠ 0 ∧ (vget s.drill.timers i).flow.toNat = f)

/-- The flow has an operand index for each of its untagged sources and for `more` of them (R261). -/
def sourcesFit (s : State) (f more : Nat) : Bool :=
  let fl := flow s f
  !fl.ready || decide ((untaggedChannels s f).length + (untaggedTimers s f).length + more ≤ fl.operands.toNat)

/-- The target of an emission, a note or a completion: flow, operand index and tag (R317, R363, R261; log entry 125). -/
def targetFlow (w : Word) : Nat := bitsAt w 0 12
def targetIndex (w : Word) : BitVec 2 := BitVec.ofNat 2 (bitsAt w 12 2)
def targetTag (w : Word) : Half := BitVec.ofNat 16 (bitsAt w 16 16)

/-- The operand index is one of the flow's: any other is a reserved code, and raises nothing (R261). -/
def indexOk (s : State) (f : Nat) (i : BitVec 2) : Bool := !(flow s f).ready || decide (i.toNat < (flow s f).operands.toNat)


/-- The position of the first element that is `x`. -/
def position {α : Type} [DecidableEq α] (x : α) : List α → Nat
  | [] => 0
  | y :: t => if x = y then 0 else position x t + 1

/-- The oldest waiting entry of a flow that passes a test (R261); equal ages in entry order. -/
def oldestEntry (s : State) (f : Nat) (p : MatchEntry → Bool) : Option (Fin 512) :=
  (fins 512).foldl (fun best e =>
    let x := entry s e.val
    if x.st = .waiting ∧ x.flow.toNat = f ∧ p x then
      match best with
      | none => some e
      | some b => if x.opened < (entry s b.val).opened then some e else best
    else best) none

/-- An operand cell: the source's 20-byte record, then SRC, then zeros (R262). -/
def operandCell (record : BitVec 320) (src : Byte) : W256 :=
  BitVec.ofNat 256 ((record.toNat % 2 ^ 160) + (src.toNat <<< 160))

/-- The operand is written to its entry; with the last one the task is Queued (R262). -/
def joinEntry (e : Fin 512) (i : BitVec 2) (cell : W256) (y : DescLife) (s : State) : State :=
  let x := entry s e.val
  let d : Fin 1024 := x.desc.toFin
  let t := desc s d
  let mask := t.opmask ||| (1#4 <<< i.toNat)
  let fl := flow s x.flow.toNat
  let t := { t with opmask := mask, life := { t.life with cells := t.life.cells ++ y.cells, chans := t.life.chans ++ y.chans,
                                                                   awaits := t.life.awaits ++ y.awaits,
                                                                   slots := t.life.slots ++ y.slots } }
  let full := decide (mask.toNat = 2 ^ fl.operands.toNat - 1)
  let s := setEntry s e.val { x with cells := vset x.cells i.toFin cell, st := if full then .attached else .waiting }
  let s := setDesc s d t
  if full then queueTask d s else s

/-- A new entry with its descriptor, its credit already taken, and its first operand (R262), whose SRC, BAY and DEADLINE
the task has (log entry 128). -/
def openEntry (f : Nat) (e : Fin 512) (d : Fin 1024) (tag : Option Half) (i : BitVec 2) (cell : W256) (x : Desc) (s : State) : State :=
  let y := x.life
  let x := { x with st := .matching, entry := BitVec.ofNat 16 e.val, tag := tag.getD 0, payload := 0, opmask := 0,
                    life := { x.life with cells := [], chans := [], awaits := [], slots := [] } }
  let s := fillDesc f d x s
  let s := setEntry s e.val { st := .waiting, flow := BitVec.ofNat 12 f, tag := tag, opened := s.drill.time.toNat,
                              desc := BitVec.ofNat 10 d.val }
  joinEntry e i cell y s

/-- A waiting entry becomes Queued with PARTIAL (R263). -/
def partialEntry (e : Fin 512) (s : State) : State :=
  let x := entry s e.val
  let d : Fin 1024 := x.desc.toFin
  let s := setEntry s e.val { x with st := .attached }
  queueTask d (setDesc s d { desc s d with partial_ := true })

/-- What an admission came to. -/
inductive Admit where
  | admitted (d : Fin 1024)
  | joined (d : Fin 1024)
  | refused

/-- A tagged source's work enters a flow (R261, R263, R265, R452): a task, or an operand that joins or opens an entry.
`credit` says that the source holds a credit of the flow already. -/
def admitTagged (f : Nat) (credit : Bool) (tag : Half) (i : BitVec 2) (x : Desc) (s : State) : Admit × State :=
  let fl := flow s f
  let canCredit := credit || decide (0 < freeCredits fl)
  let take := fun s => if credit then s else takeCredit f s
  if fl.ready then
    let cell := operandCell x.payload x.src
    match oldestEntry s f (fun m => decide (m.tag = some tag)) with
    | some e =>
      let d : Fin 1024 := (entry s e.val).desc.toFin
      if (desc s d).opmask.getLsbD i.toNat then
        -- a duplicate: the entry is queued at once and the operand opens a new one
        let s := partialEntry e { s with drill := { s.drill with duplicates := satInc s.drill.duplicates } }
        match freeEntry s, freeDesc s f, canCredit with
        | some e', some d', true => (.admitted d', openEntry f e' d' (some tag) i cell x (take s))
        | _, _, _ => (.refused, countRefusal f s)
      else
        let s := joinEntry e i cell x.life s
        (.joined d, if credit then returnCredit f s else s)
    | none =>
      match freeEntry s, freeDesc s f, canCredit with
      | some e', some d', true => (.admitted d', openEntry f e' d' (some tag) i cell x (take s))
      | _, _, _ => (.refused, countRefusal f s)
  else
    match freeDesc s f, canCredit with
    | some d, true => (.admitted d, admitTask f d x (take s))
    | _, _ => (.refused, countRefusal f s)

/-- An untagged operand (R261): joins the oldest untagged entry that lacks its index, or opens one. -/
def admitUntagged (f : Nat) (i : Nat) (credit : Bool) (x : Desc) (s : State) : Admit × State :=
  let fl := flow s f
  let canCredit := credit || decide (0 < freeCredits fl)
  let take := fun s => if credit then s else takeCredit f s
  let j := BitVec.ofNat 2 i
  let cell := operandCell x.payload x.src
  match oldestEntry s f (fun m => decide (m.tag = none) && !(desc s m.desc.toFin).opmask.getLsbD i) with
  | some e =>
    let s' := joinEntry e j cell x.life s
    (.joined (entry s e.val).desc.toFin, if credit then returnCredit f s' else s')
  | none =>
    match freeEntry s, freeDesc s f, canCredit with
    | some e, some d, true => (.admitted d, openEntry f e d none j cell x (take s))
    | _, _, _ => (.refused, s)

/-! ### Release (R252, R254, R267) -/

/-- Skipped ORDERs are consumed (R254). -/
def advanceOrder : Nat → Flow → Flow
  | 0, fl => fl
  | k + 1, fl =>
    if fl.nextRelease ∈ fl.skipped then
      advanceOrder k { fl with nextRelease := fl.nextRelease + 1, skipped := fl.skipped.filter (· ≠ fl.nextRelease) }
    else fl

/-- The ORDER of a released or cancelled task is consumed. -/
def consumeOrder (o : Half) (fl : Flow) : Flow :=
  if fl.nextRelease = o then advanceOrder 1024 { fl with nextRelease := fl.nextRelease + 1 }
  else { fl with skipped := fl.skipped ++ [o] }

/-- The cells of a task go back to their channels through CHWR[f] (R167, R447). -/
def returnCells (cells : List (Chan × BitVec 5)) (s : State) : State :=
  (fins 128).foldl (fun s n =>
    let mine := (cells.filter fun p => decide (p.1 = n)).map fun p => p.2
    if mine = [] then s else sendChwr (furrowOf n) (.release n mine) s) s

/-- One held emission of the parent enters its flow, or its credit goes back. -/
def enterChild (d : Fin 1024) (s : State) (c : Fin 1024) : State :=
  let x := desc s c
  let f := x.flow.toNat
  if x.st = .releasing ∧ x.life.parent = some d then
    let y := { x with opmask := 0, life := { x.life with parent := none } }
    if (flow s f).ready then
      match admitTagged f true x.tag x.life.index y (setDesc s c {}) with
      | (.refused, s) => returnCredit f s
      | (_, s) => s
    else admitTask f c y s
  else s

/-- Emissions that waited on a parent enter their flows at its release, in descriptor order (R268, R254); one for a
matching flow enters the store and is lost if no entry is free. -/
def enterChildren (d : Fin 1024) (s : State) : State := (fins 1024).foldl (enterChild d) s

/-- The release of a descriptor: completion to its source, cells, entry, credit, descriptor, and its emissions
(R267, R254, R381). -/
def releaseDesc (d : Fin 1024) (s : State) : State :=
  let x := desc s d
  let f := x.flow.toNat
  let s := x.life.slots.foldl (fun s p => bayCmdDone p.1 p.2 x.life.status x.life.result s) s
  let s := returnCells x.life.cells s
  let s := if x.entry = 0xFFFF then s else setEntry s x.entry.toNat {}
  let fl := flow s f
  let s := setFlow s f { consumeOrder x.order fl with taken := fl.taken - 1 }
  let s := enterChildren d (setDesc s d {})
  pump f s

/-- The oldest of a flow's queued tasks that pass a test: the lowest age in ORDER. -/
def oldestQueued (s : State) (f : Nat) (p : Desc → Bool) : Option (Fin 1024) :=
  let fl := flow s f
  (fins 1024).foldl (fun best d =>
    let x := desc s d
    if x.st = .queued ∧ x.flow.toNat = f ∧ p x then
      match best with
      | none => some d
      | some b => if (x.order - fl.nextOrder).toNat < ((desc s b).order - fl.nextOrder).toNat then some d else best
    else best) none

/-- The oldest ready task of a flow; none on an atomic flow whose lock is held (R253). -/
def oldestReady (s : State) (f : Nat) : Option (Fin 1024) :=
  if (flow s f).kind = 0 ∧ (flow s f).locked then none else oldestQueued s f fun _ => true

/-- DRILL.TIME at which a task became ready (R253, R257, R274). -/
def readySince (s : State) (x : Desc) : Nat :=
  let fl := flow s x.flow.toNat
  if fl.kind = 0 then max x.life.readyAt fl.freedAt else x.life.readyAt

/-- Selection sees a task 8 D3 cycles after it became ready (R257), and the firmware's commands never (R378). -/
def visible (s : State) (x : Desc) : Bool := decide (readySince s x + 8 ≤ s.drill.time.toNat) && !x.life.firm

/-- The task of a flow that a selection would take (R253, R257): of an atomic flow the oldest, once it is visible. -/
def oldestVisible (s : State) (f : Nat) : Option (Fin 1024) :=
  if (flow s f).kind = 0 then (oldestReady s f).filter fun d => visible s (desc s d) else oldestQueued s f (visible s)

/-- The next task of an atomic flow is ready from now on, when its oldest is withdrawn (R253, R274). -/
def passTurn (d : Fin 1024) (s : State) : State :=
  let f := (desc s d).flow.toNat
  if (flow s f).kind = 0 ∧ oldestReady s f = some d then setFlow s f { flow s f with freedAt := s.drill.time.toNat } else s

/-- A task withdrawn before dispatch completes with `status` and is released; it takes no lock (R253, R269, R272). -/
def cancelDesc (d : Fin 1024) (status : Byte) (s : State) : State :=
  let x := desc s d
  releaseDesc d (setDesc (passTurn d s) d { x with life := { x.life with status := worstStatus x.life.status status } })

/-- The descriptor may be withdrawn: Queued or Matching (R269). -/
def cancellable (x : Desc) : Bool := decide (x.st = .queued ∨ x.st = .matching)

/-- A TDONE is read from RET[c]: the lock is freed and the descriptor moves to Releasing with
its result word (R253, R267, R381). -/
def readRetItem (i : RetItem) (s : State) : State :=
  let x := desc s i.desc
  let f := x.flow.toNat
  let fl := flow s f
  let s := if fl.kind = 0 then setFlow s f { fl with locked := false, freedAt := s.drill.time.toNat } else s
  setDesc s i.desc { x with st := .releasing,
                            life := { x.life with ended := true, status := worstStatus x.life.status i.status
                                                  result := (thr s i.thread).result } }

/-- One cycle takes at most one item from each RET queue (R251). -/
def readRet (s : State) : State :=
  (fins 4).foldl (fun s c =>
    match vget s.drill.ret c with
    | [] => s
    | i :: rest => readRetItem i (qRead (84 + c.val) 1 { s with drill := { s.drill with ret := vset s.drill.ret c rest } })) s

/-- A Releasing task may be released: ended, its outcome arrived, no parent, and its turn on an ordered flow
(R252, R254, R255). -/
def releasable (s : State) (d : Fin 1024) : Bool :=
  let x := desc s d
  let fl := flow s x.flow.toNat
  decide (x.st = .releasing) && x.life.ended && decide (x.life.awaits = []) && x.life.parent.isNone &&
    (decide (fl.kind ≠ 1) || decide (fl.nextRelease = x.order))

/-! ### Selection (R256 to R259) -/

/-- The drill sees the thread idle: no task, no interrupt, nothing in DISP or RET for it, and its core's mode lets it
take tasks (R256, R280). -/
def threadIdle (s : State) (t : Thread) : Bool :=
  let x := thr s t
  let c := coreOf t
  decide (x.run = .idle) && x.task.isNone && !x.inInt &&
    !((vget s.drill.ret c).any fun i => decide (i.thread = t)) &&
    !((vget s.drill.disp c).any fun i => decide (i.1 = t)) &&
    (!(core s c).single || decide (t.val % 4 = 0)) && mainOn s

/-- The thread is eligible for a task of flow `f` (R256). -/
def eligible (s : State) (f : Nat) (t : Thread) : Bool :=
  let fl := flow s f
  let r := vget s.drill.reserve t
  threadIdle s t && (decide (fl.cores = 0) || fl.cores.getLsbD (coreOf t).val) && (homeEncl s t == fl.world) &&
    (decide (r = 0xFFFF) || decide (r.toNat = f))

/-- The flows with queued tasks, ascending. -/
def activeFlows (s : State) : List Nat :=
  (s.drill.flows.map fun p => p.1).filter fun f => s.drill.descs.any fun q => decide (q.2.st = .queued ∧ q.2.flow.toNat = f)

/-- Tasks a core has dispatched or on their way to it (R257). -/
def coreLoad (s : State) (c : Fin 4) : Nat :=
  (s.drill.descs.filter fun q =>
    decide ((q.2.st = .dispatched ∨ q.2.st = .transit) ∧ q.2.thread.toNat / 4 = c.val)).length

/-- The thread chosen for a flow: lowest core with the fewest dispatched tasks, then lowest thread (R257). -/
def chooseThread (s : State) (f : Nat) : Option Thread :=
  (fins 16).foldl (fun best t =>
    if eligible s f t then
      match best with
      | none => some t
      | some b => if coreLoad s (coreOf t) < coreLoad s (coreOf b) then some t else best
    else best) none

/-- The effective level of the task of a flow that selection sees. -/
def readyLevel (s : State) (f : Nat) : Option (BitVec 3) := (oldestVisible s f).map fun d => effLevel s (desc s d)

/-- Flows at a level with a ready task that some idle eligible thread can take, ascending. -/
def contenders (s : State) (p : BitVec 3) : List Nat :=
  (activeFlows s).filter fun f => decide (readyLevel s f = some p) && (chooseThread s f).isSome

/-- Round-robin by flow number, a flow keeping its turn for WEIGHT selections (R258). -/
def chooseFlow (s : State) (p : BitVec 3) : Option (Nat × Turn) :=
  let l := contenders s p
  let turn := vget s.drill.turns p.toFin
  let cur := turn.flow.toNat
  if cur ∈ l ∧ turn.used < (flow s cur).weight.toNat then some (cur, { turn with used := turn.used + 1 })
  else
    match (l.filter fun f => decide (cur < f)) ++ l with
    | [] => none
    | f :: _ => some (f, { flow := BitVec.ofNat 12 f, used := 1 })

/-- The histogram bucket of a wait in D3 cycles (R274). -/
def histBucket (wait : Nat) : Nat := if wait < 8 then 0 else min 15 (wait.log2 - 2)

/-- What a selection notes: EXPIRED, AGED, LEVEL, THREAD, the atomic lock and HIST (R252, R253, R259, R274). -/
def noteSelection (d : Fin 1024) (thread : Nat) (st : DescState) (s : State) : State :=
  let x := desc s d
  let f := x.flow.toNat
  let fl := flow s f
  let p := effLevel s x
  let k := 16 * p.toNat + histBucket (s.drill.time.toNat - readySince s x)
  let s := setDesc s d { x with st := st, expired := x.expired || deadlinePassed s x.deadline,
                                aged := decide (fl.prio < p), level := p, thread := BitVec.ofNat 4 thread }
  let s := if fl.kind = 0 then setFlow s f { fl with locked := true } else s
  { s with drill := { s.drill with hist := tabPut 0 s.drill.hist k (satInc (tabGet 0 s.drill.hist k)) } }

/-- The task is selected for the thread and enters DISP[c] (R257). -/
def selectTask (d : Fin 1024) (t : Thread) (s : State) : State :=
  let c := coreOf t
  let s := noteSelection d t.val .transit s
  qWrite (80 + c.val) 1 { s with drill := { s.drill with disp := vset s.drill.disp c (vget s.drill.disp c ++ [(t, d)]) } }

/-- The reserved selection of R257: the lowest idle thread reserved to a flow with a ready task. -/
def reservedPick (s : State) : Option (Fin 1024 × Thread) :=
  (fins 16).findSome? fun t =>
    let r := vget s.drill.reserve t
    if r = 0xFFFF then none
    else if eligible s r.toNat t then (oldestVisible s r.toNat).map fun d => (d, t) else none

/-- The levels in the order of selection. -/
def levelsDown : List (BitVec 3) := [7, 6, 5, 4, 3, 2, 1, 0]

/-- A flow has a ready task at a level (R258). -/
def readyAt (s : State) (f : Nat) (p : BitVec 3) : Bool :=
  match oldestReady s f with
  | some d => decide (effLevel s (desc s d) = p)
  | none => false

/-- A flow with no ready task at the level loses its turn there (R258). -/
def loseTurns (s : State) : State :=
  let keep := fun (p : Fin 8) =>
    let x := vget s.drill.turns p
    if readyAt s x.flow.toNat (BitVec.ofNat 3 p) then x else { x with used := 256 }
  { s with drill := { s.drill with turns := Vector.ofFn keep } }

/-- One selection of R257. -/
def selectNext (s : State) : State :=
  match reservedPick s with
  | some (d, t) => selectTask d t s
  | none =>
    match levelsDown.findSome? fun p => (chooseFlow s p).map fun r => (p, r) with
    | none => s
    | some (p, f, turn) =>
      match oldestVisible s f, chooseThread s f with
      | some d, some t =>
        selectTask d t { s with drill := { s.drill with turns := vset s.drill.turns p.toFin turn } }
      | _, _ => s

/-- One cycle of selection; a turn is lost as soon as its flow has no ready task (R257, R258). -/
def selectOne (s : State) : State := loseTurns (selectNext (loseTurns s))

end Sys2Proof.Machine
end

