-- ==== Sys2Proof/Machine/Wire.lean ====
section
/-! DEFINITION. The levels a channel puts on its pins: characters and words as bits on the line, and the selects
(R186, R194, R195, R204, R210, R212, R216, R217, R219, R224). -/

namespace Sys2Proof.Machine

/-! ### Characters (R186, R194) -/

/-- The `k` low bits of a value, least significant first. -/
def lowBits (k v : Nat) : List Bool := (List.range k).map fun i => v.testBit i

/-- One character as its line levels, true for mark: start, data, address bit, parity, stop bits. -/
def charLine (f : Byte) (addr : Bool) (v : Nat) : List Bool :=
  let data := lowBits (fmtData f) v
  let ones := data.foldl (fun k b => k + bit b) 0
  let multi := if fmtMultidrop f then [addr] else []
  let par := match fmtParity f with
    | 0 => []
    | 1 => [decide (ones % 2 = 1)]
    | _ => [decide (ones % 2 = 0)]
  [false] ++ data ++ multi ++ par ++ List.replicate (if fmtTwoStops f then 2 else 1) true

/-- The characters of a frame's bytes: two bytes a character with DATA 9. -/
def charsOf (f : Byte) : List Byte → List Nat
  | a :: b :: t => if fmtData f = 9 then (a.toNat + 256 * (b.toNat % 2)) :: charsOf f t else a.toNat :: charsOf f (b :: t)
  | [a] => [a.toNat]
  | [] => []

/-- Characters joined by `gap` mark bits, none after the last. -/
def joinChars (gap : Nat) : List (List Bool) → List Bool
  | [] => []
  | [c] => c
  | c :: t => c ++ List.replicate gap true ++ joinChars gap t

/-- A frame or reply as its line levels (R194): in multidrop byte 0 carries address bit 1. -/
def frameLine (c : Channel) (bs : List Byte) : List Bool :=
  let f := c.cfg.fmt
  joinChars (bitsAt c.async.now.cfg 12 4)
    ((charsOf f bs).zipIdx.map fun p => charLine f (decide (p.2 = 0)) p.1)

/-- A wake acknowledgement (R204): nine-bit characters back to back, one stop bit each, no parity. -/
def ackLine (bs : List Byte) : List Bool :=
  joinChars 0 (bs.zipIdx.map fun p => charLine 0x88 (decide (p.2 = 0)) p.1.toNat)

/-! ### Words (R210, R212) -/

def csLsbFirst (r : CsRegs) : Bool := r.cfg.getLsbD 29
def csIdleCode (r : CsRegs) : BitVec 4 := BitVec.ofNat 4 (bitsAt r.cfg 12 4)

/-- A word as bits in the order of the wire. -/
def wordBits (c : Channel) (w : Word) : List Bool :=
  let l := lowBits (fmtWord c.cfg.fmt) w.toNat
  if csLsbFirst c.cs.now then l else l.reverse

/-- Bytes `k` up to a word of a buffer, as a word to send: the bits above the word length are ignored (R210). -/
def wordFrom (c : Channel) (bs : List Byte) (k : Nat) : Word :=
  let b := fmtWord c.cfg.fmt
  BitVec.ofNat 32 (leNat ((bs.drop k).take (wordBytes b)) % 2 ^ b)

/-- The bits a master's posted frame puts on SDO (R211, R212). -/
def transferBits (c : Channel) (bs : List Byte) : List Bool :=
  let sb := wordBytes (fmtWord c.cfg.fmt)
  (List.range ((bs.length - 1) / sb)).flatMap fun i => wordBits c (wordFrom c bs (1 + i * sb))

/-! ### Selects (R216, R217, R224) -/

/-- The levels a master drives on SEL3 to SEL0: in direct mode each line asserted or not, active low unless SEL_POL;
in decoded mode the code itself or IDLE_CODE, lines inverted by SEL_POL (log entry 122). -/
def selLevels (c : CsState) : BitVec 4 :=
  let pol := BitVec.ofNat 4 (csSelPol c.now)
  if csDecode c.now then c.sel.getD (csIdleCode c.now) ^^^ pol else c.sel.getD 0 ^^^ ~~~pol

/-- A master drives SCK, SDO and SEL0 to SEL2: always, or with MF_EN only under a transfer or a held select (R224). -/
def masterDrives (c : CsState) : Bool := !csMfEn c.now || c.xfer.isSome || c.sel.isSome

/-! ### The driver (R196) -/

/-- Pin `k` of a running channel with an output mode is driven by its function. -/
def pinDriven (s : State) (n : Chan) (k : Nat) (driver : Bool) : Bool :=
  let c := chan s n
  let h := chan s (headOf s n)
  match c.cfg.func.toNat with
  | 2 => decide (2 ≤ k) || driver
  | 3 => if n.val % 2 = 1 ∧ k = 3 then true else masterDrives h.cs
  | 4 => h.cs.selActive
  | _ => true

/-- The level of pin `k` as the function drives it, where it does (R162). -/
def pinSignal (s : State) (n : Chan) (k : Nat) (driver : Bool) : Bool :=
  let c := chan s n
  let h := chan s (headOf s n)
  let odd := decide (n.val % 2 = 1)
  let seen := c.pins.inp.getLsbD k
  match c.cfg.func.toNat with
  | 1 => if k = 0 then c.async.wire.headD true else seen
  | 2 => if driver ∧ k < 2 then (c.async.wire.headD true) == decide (k = 0) else seen
  | 3 =>
    if !masterDrives h.cs then seen
    else if odd then (if k = 3 ∧ !(decide (c.cfg.pm3 = 1) || decide (c.cfg.pm3 = 2)) then seen else (selLevels h.cs).getLsbD k)
    else if k = 0 then fmtCpol h.cfg.fmt
    else if k = 1 then h.cs.sdo.headD false
    else seen
  | 4 => if !odd ∧ k = 1 ∧ h.cs.selActive then h.cs.sdo.headD false else seen
  | _ => seen

end Sys2Proof.Machine
end

