-- ==== Sys2Proof/Machine/ChanOps.lean ====
section
/-! DEFINITION. What channels do inside a step: frames and matches, replies, the transmitter, upsets, retirement,
channel reset and the Limp actions (08 to 11). -/

namespace Sys2Proof.Machine

/-- Settings written take effect when the channel is idle (R206, R226). -/
def settle (n : Chan) (s : State) : State :=
  let c := chan s n
  let idle := c.rx.cur.isNone && !c.async.ovlHold && !c.tx.busy && c.reply.isNone && !c.cs.selActive && c.cs.xfer.isNone
  if idle then setChan s n { c with async := { c.async with now := c.async.regs }, cs := { c.cs with now := c.cs.regs } }
  else s

/-- The drill will hear what became of a computed reply (R252). -/
def reportOutcome (n : Chan) (seq : Byte) (o : ReplyEnd) (s : State) : State :=
  let c := chan s n
  setChan s n { c with outcomes := c.outcomes ++ [(seq, o)] }

/-- A computed reply that ends after its deadline: a post for it is late from now on (R177). -/
def pastReply (c : Channel) (r : Reply) : Channel :=
  { c with reply := none, lateSeq := if r.computed ∧ r.deadlinePassed then some r.seq else none }

/-- The armed reply is abandoned, with its outcome if it was a computed one (R180, R183); one whose deadline has chosen
the fallback has missed it, though the fallback never started (R178; log entry 119). -/
def dropReply (n : Chan) (s : State) : State :=
  let c := chan s n
  match c.reply with
  | none => s
  | some r =>
    let s := setChan s n (pastReply c r)
    if !r.computed || (r.fallback && r.sending) then s
    else reportOutcome n r.seq (if r.fallback then .fallback else .abandoned) s

/-! ### Frames (R168, R174, R190 to R193) -/

/-- The bytes of a frame from its cells. -/
def frameBytes (c : Channel) (cells : List (BitVec 5)) (len : Nat) : List Byte :=
  (cells.flatMap fun k => bytesOf (tabGet 0 c.rx.data k.toNat) 0 64).take len

/-- One byte stored in the frame in progress; every 64 bytes take a cell (R168, R170). -/
def storeByte (n : Chan) (b : Byte) (s : State) : State :=
  match (chan s n).rx.cur with
  | none => s
  | some fr =>
    if fr.dropping || fr.failed then
      let c := chan s n
      setChan s n { c with rx := { c.rx with cur := some { fr with len := fr.len + 1 } } }
    else if fr.len % 64 = 0 then
      let (k, s) := takeCell n s
      let c := chan s n
      match k with
      | none =>
        setChan s n { c with rx := { c.rx with cells := setRxCells .free fr.cells c.rx.cells
                                               cur := some { fr with len := fr.len + 1, cells := [], dropping := true } } }
      | some k =>
        setChan s n { c with rx := { c.rx with data := tabPut 0 c.rx.data k.toNat (b.setWidth 512)
                                               cur := some { fr with len := fr.len + 1, cells := fr.cells ++ [k] } } }
    else
      let c := chan s n
      match fr.cells.getLast? with
      | none => s
      | some k =>
        let d := setByte (tabGet 0 c.rx.data k.toNat) (fr.len % 64) b
        setChan s n { c with rx := { c.rx with data := tabPut 0 c.rx.data k.toNat d
                                               cur := some { fr with len := fr.len + 1 } } }

def storeBytes (n : Chan) (bs : List Byte) (s : State) : State := bs.foldl (fun s b => storeByte n b s) s

/-- Rule `r` matches a frame (R174). -/
def ruleMatches (r : Rule) (bs : List Byte) : Bool :=
  decide (0 < r.hdrLen.toNat) && decide (r.hdrLen.toNat ≤ bs.length) &&
    (List.range r.hdrLen.toNat).all fun i => (bs.getD i 0 &&& byteAt r.mask i) == (byteAt r.mtch i &&& byteAt r.mask i)

/-- The first enabled rule that matches, on a function that has rules. -/
def matchRule (c : Channel) (bs : List Byte) : Option (BitVec 4) :=
  if hasRules c.cfg.func then
    ((List.range 16).find? fun i => ruleMatches (tabGet {} c.rules i) bs).map fun i => BitVec.ofNat 4 i
  else none

/-- The reply a matching rule arms: the SEND template copied now, and the FALLBACK template as it stands now (R175,
R178, R180). -/
def armReply (c : Channel) (r : BitVec 4) (since : Nat) : Reply :=
  let rule := tabGet {} c.rules r.toNat
  let len := fun (k : BitVec 4) => (tabGet {} c.rules k.toNat).tlen
  { seq := c.seq + 1, rule := r, computed := rule.computed, buf := tabGet 0 c.tpls rule.send.toNat
    len := len rule.send, sendLen := len rule.send, fbBuf := tabGet 0 c.tpls rule.fallback.toNat
    fbLen := len rule.fallback, since := since }

/-- Furrow cycles from the frame's end to the post deadline of a rule (R177). -/
def postCycles (c : Channel) (f : Nat) (rule : Rule) : Nat := nsCycles f rule.turnNs.toNat - 2 * bitCycles c f

/-- Model time of a count of furrow cycles (log entry 2). -/
def cyclesTime (f k : Nat) : Nat := if f = 0 then 0 else k * 250000000 / f

/-- Model time of a number of ticks of the channel (R184). -/
def ticksTime (c : Channel) (f k : Nat) : Nat := cyclesTime f (k * chanDiv c f)

/-- The driver of a half-duplex reply is enabled LEAD ticks before the turnaround ends, or at arming where the turnaround
is shorter (R196). -/
def leadDriver (c : Channel) (f : Nat) (rule : Rule) (since : Nat) : AsyncState :=
  if c.cfg.func = 2 then
    let lead := ticksTime c f (bitsAt c.async.now.de 0 8)
    { c.async with driver := some (since + (cyclesTime f (nsCycles f rule.turnNs.toNat) - lead), none) }
  else c.async

/-- The driver is enabled at this model time (R196). -/
def driverOn (a : AsyncState) (now : Nat) : Bool :=
  match a.driver with
  | none => false
  | some (on, off) => decide (on ≤ now) && (off.map fun t => decide (now < t)).getD true

/-- A frame is complete and free of error: its cells are Held, it is matched, a reply is armed unless one is, and
one FRAME or COMPUTED event is raised (R171, R174, R175, R179). -/
def deliverFrame (n : Chan) (fr : RxFrame) (s : State) : State :=
  let c := chan s n
  let bs := frameBytes c fr.cells fr.len
  let m := matchRule c bs
  let c := { c with cnt := { c.cnt with frames := satInc c.cnt.frames }
                    rx := { c.rx with cur := none, cells := setRxCells .held fr.cells c.rx.cells } }
  let ev : ChEvent := { ch := n, kind := 1, len := BitVec.ofNat 16 fr.len, cells := fr.cells, since := fr.endedAt }
  match m with
  | none => raiseEvent n ev (setChan s n c)
  | some r =>
    let rule := tabGet {} c.rules r.toNat
    let kind : Byte := if rule.computed then 2 else 1
    let rn : Byte := r.setWidth 8
    if c.reply.isSome then
      let c := { c with cnt := { c.cnt with noans := satInc c.cnt.noans } }
      raiseEvent n { ev with kind := kind, rule := rn, noans := true } (setChan s n c)
    else
      let f := freqOf s n
      let rep := armReply c r fr.endedAt
      let ev := { ev with kind := kind, rule := rn, seq := if rule.computed then rep.seq else 0, postCycles := postCycles c f rule }
      raiseEvent n ev (setChan s n { c with reply := some rep, seq := rep.seq, async := leadDriver c f rule fr.endedAt })

/-- The frame in progress is thrown away, its filling cells Free (R170). -/
def abandonRx (n : Chan) (s : State) : State :=
  let c := chan s n
  match c.rx.cur with
  | none => s
  | some fr => setChan s n { c with rx := { c.rx with cur := none, cells := setRxCells .free fr.cells c.rx.cells } }

/-! ### Retirement (R237 to R240) -/

/-- The channels that reset and retire together: both of a bonded pair (R183, R237). -/
def group (s : State) (n : Chan) : List Chan := if paired s n then [evenOf n, oddOf n] else [n]

/-- A queued event of the channel carries its credit back and its cells to Free (R157 › Edges, R183). -/
def dropEvent (e : ChEvent) (s : State) : State :=
  returnCredit e.flow.toNat (moveRx e.ch .free e.cells s)

/-- The channel an entry of CHWR[f] is for. -/
def ChwrItem.chan : ChwrItem → Chan
  | .post n _ _ _ _ => n
  | .handover n _ => n
  | .grant n => n
  | .release n _ => n

/-- An entry of CHWR[f] that is discarded: its credit and its cells return (R157 › Edges, R183). -/
def dropChwr (i : ChwrItem) (s : State) : State :=
  match i with
  | .grant n => returnCredit (chan s n).flow.toNat s
  | .release n cells => moveRx n .free cells s
  | .handover n fr => moveTx n .free fr.cells s
  | .post .. => s

/-- The channel's entries in CHEV[f] and CHWR[f] are discarded and counted as read, and entries that waited for room
in CHWR[f] enter (R157 › Edges). -/
def purgeQueues (n : Chan) (s : State) : State :=
  let f := furrowOf n
  let mine := (chevOf s f).filter fun e => decide (e.ch = n)
  let s := qRead f.val mine.length (setChev s f ((chevOf s f).filter fun e => decide (e.ch ≠ n)))
  let s := mine.foldl (fun s e => dropEvent e s) s
  let l := chwrOf s f
  let stay := fun (i : ChwrItem) => decide (i.chan ≠ n)
  let s := qPurge (32 + f.val) 16 stay l (setChwr s f (l.filter stay))
  let s := (l.filter fun i => !stay i).foldl (fun s i => dropChwr i s) s
  let s := (((l.filter stay).take 16).drop ((l.take 16).filter stay).length).foldl (fun s i => crossCells i s) s
  settleChwr f l.length s

/-- Tasks that carry an event of the channel and are not dispatched complete CANCELLED (R183 step 3, R270). -/
def cancelChannelTasks (n : Chan) (s : State) : State :=
  (fins 1024).foldl (fun s d =>
    let x := desc s d
    if cancellable x ∧ n ∈ x.life.chans then cancelDesc d 2 s else s) s

/-- Steps 1 to 5 of R183 on one channel. -/
def quietChannel (n : Chan) (s : State) : State :=
  let s := dropReply n s
  let s := purgeQueues n s
  let s := abandonRx n s
  let c := chan s n
  let heldCells := c.rx.held.flatMap fun e => e.cells
  let s := dropGrants n (setChan s n { c with rx := { c.rx with held := [], drops := 0
                                                                cells := setRxCells .free heldCells c.rx.cells } })
  let s := cancelChannelTasks n s
  let c := chan s n
  dropGrants n (setChan s n { c with tx := {} })

/-- What a channel's pins take (R46, R58, R85, R93, R94, R96, R237): hi-Z without field power, the safe levels in
Lockdown, the RETIRED state, the Limp action of reasons 2 and 3, else its function once it is enabled. -/
def driveOf (s : State) (n : Chan) : PinDrive :=
  let c := chan s n
  let m := s.sys.mode
  if !fieldSupply s then .hiZ
  else if m = Mode.lockdown then (if s.seed.applied then .safe else .hiZ)
  else if isRetired s n then .retired
  else if limpReason s 1 ∨ limpReason s 4 ∨ ¬ (m = Mode.boot ∨ m = Mode.run ∨ m = Mode.service ∨ m = Mode.limp) then .hiZ
  else if (limpReason s 2 ∨ limpReason s 3) ∧ limpAction s n = 1 then .safe
  else if (limpReason s 2 ∨ limpReason s 3) ∧ limpAction s n ≠ 0 then .hiZ
  else if c.en then .func
  else .hiZ

/-- The pins of a channel take their state. -/
def takeDrive (n : Chan) (s : State) : State := setChan s n { chan s n with drive := driveOf s n }

/-- What a channel reset keeps: outcomes still to be read, cells still tasked, received data, ownership, the count of
armed replies (R175) and the levels at the pins. -/
def resetValues (s : State) (n : Chan) (old : Channel) : Channel :=
  let fresh := seedChannel s n
  { fresh with outcomes := old.outcomes, seq := old.seq
               pins := { fresh.pins with inp := old.pins.inp }
               cs := { fresh.cs with selIn := old.cs.selIn }
               async := { fresh.async with line := old.async.line }
               rx := { fresh.rx with cells := old.rx.cells, data := old.rx.data, last := old.rx.last } }

/-- The strobe domain of a pair (8j, 8j+1) runs or stops (R149). -/
def setStrobe (n : Chan) (on : Bool) (s : State) : State :=
  if n.val % 8 < 2 then { s with clk := { s.clk with strbRun := setBits s.clk.strbRun (n.val / 8) 1 (bit on) } } else s

/-- It exists only while its pair is a running clocked serial master with returned strobe (R149, R218). -/
def settleStrobe (n : Chan) (s : State) : State :=
  let c := chan s (evenOf n)
  setStrobe n (c.en && decide (c.cfg.func = 3) && fmtDdr c.cfg.fmt && !isRetired s (evenOf n)) s

/-- A channel reset (R183): steps 1 to 6, on both channels of a pair, whose strobe domain stops until the pair is
configured again (08 › Edges). -/
def resetChannel (n : Chan) (s : State) : State :=
  let g := group s n
  let s := g.foldl (fun s k => quietChannel k s) s
  let s := g.foldl (fun s k => takeDrive k (setChan s k (resetValues s k (chan s k)))) s
  let s := if 2 ≤ g.length then setStrobe n false s else s
  g.foldl (fun s k => pump (chan s k).flow.toNat s) s

/-- The channel's answer engine, transmitter and receiver stop and its pins take a state (R94, R96): a frame being sent
is Queued again. -/
def stopChannel (n : Chan) (d : PinDrive) (s : State) : State :=
  let s := abandonRx n (dropReply n s)
  let c := chan s n
  let t := c.tx
  let cells := if t.busy then (t.posted.head?.map fun fr => setTxCells .queued fr.cells t.cells).getD t.cells else t.cells
  setChan s n { c with drive := d, tx := { t with busy := false, backoff := false, cells := cells }
                       async := { c.async with driver := none, wire := [], ovlHold := false, breakWait := false, ignoring := false }
                       cs := { c.cs with selActive := false, sel := none, xfer := none, sdo := [], strbWait := [] }
                       health := { c.health with attempt := 0, retrying := false } }

/-- The Limp action of a channel under reasons 2 and 3 (R94). -/
def limpChannel (s : State) (n : Chan) : State :=
  if isRetired s n then s
  else if limpAction s n = 0 then s
  else stopChannel n (driveOf s n) s

/-- Limp with reason `k` (R84, R93): what Service opened closes (R98), LIMP_SET gains the reason, the mode is Limp, and
under reasons 2 and 3 each channel takes its action. A reason added in Limp is a transition of its own. A higher mode
of R83 in force prevails. -/
def enterLimp (k : Nat) (s : State) : State :=
  if s.sys.mode = Mode.lockdown ∨ s.sys.mode = Mode.backup then s
  else
    let added := decide (s.sys.mode = Mode.limp) && !limpReason s k
    let s := if s.sys.mode = Mode.service then closeScope s else s
    let s := { s with sys := { s.sys with limpSet := setBits s.sys.limpSet (k - 1) 1 1 } }
    let s := if added then transition Mode.limp s else enterMode Mode.limp s
    if k = 2 ∨ k = 3 then (fins 128).foldl limpChannel s
    else (fins 128).foldl (fun s n => stopChannel n .hiZ s) s

/-- The retired count (R240). -/
def retiredCount (s : State) : Nat := ((List.range 128).filter fun i => s.chs.retired.getLsbD i).length

/-- R240, where the module is in a mode that reason 3 may leave (R84). -/
def checkRetiredLimit (s : State) : State :=
  if retiredLimit s ≠ 0 ∧ retiredLimit s < retiredCount s ∧
      (s.sys.mode = Mode.run ∨ s.sys.mode = Mode.service ∨ s.sys.mode = Mode.boot) then enterLimp 3 s else s

/-- The retirement mask of P0 record 0 and FOLDED_SEQ as they now stand (R473). -/
def foldData (s : State) : List Byte :=
  leBytes 16 s.chs.retired.toNat ++ leBytes 4 ((logNextSeq s + 2 ^ 32 - 1) % 2 ^ 32)

/-- The Enclosure asks the ledger to write the retirement mask (R237 step 5, R238). -/
def requestFold (s : State) : State :=
  let d := foldData s
  let r : LdgReq := { caller := .fold, src := 0xFF, encl := true, tag := 0xFF, malformed := false, opc := 2, part := 0
                      index := 0, buf := 0, type := 0, data := d, arg := 0 }
  if s.ldg.lgq.any fun x => decide (x.caller = .fold) then
    { s with ldg := { s.ldg with lgq := s.ldg.lgq.map fun x => if x.caller = .fold then r else x } }
  else qJoin 96 8 s.ldg.lgq.length { s with ldg := { s.ldg with lgq := s.ldg.lgq ++ [r] } }

/-- DATA of a RETIRE entry (R472). -/
def retireData (s : State) (n : Chan) (cause pinCond : Byte) : List Byte :=
  [BitVec.ofNat 8 n.val, cause, pinCond &&& 7, pinCond >>> 3] ++ bytesOf s.seed.digest 0 8

/-- Step 5 of R237: the records waiting are written to P3 and the fold is requested, once the Enclosure runs and
NV_PROT does not protect P3 (log entry 121). -/
def foldRetirements (s : State) : State :=
  if s.chs.toFold = [] ∨ ¬ enclRuns s ∨ ldgProtected s 3 then s
  else
    let l := s.chs.toFold
    let s := { s with chs := { s.chs with toFold := [] } }
    requestFold (l.foldl (fun s x => fwLog 1 (retireData s x.1 x.2.1 x.2.2) s) s)

/-- Retirement of a channel, or of both channels of its pair (R237): quiet, registers dark, RETIRED pin state, one
RETIRED event, SYS.RETIRED and RETIRE_STS, housekeeping, a record to fold. -/
def retireQuietly (n : Chan) (cause : BitVec 2) (pinCond : Byte) (s : State) : State :=
  if isRetired s n then s
  else
    let g := group s n
    let h := headOf s n
    let s := g.foldl (fun s k => quietChannel k s) s
    let s := g.foldl (fun s k =>
      let c := chan s k
      let s := setChan s k { c with drive := if fieldSupply s then .retired else .hiZ, health := healthOfSeed s k, async := {}, cs := {}, cnt := {} }
      { s with chs := { s.chs with retired := setBits s.chs.retired k.val 1 1 } }) s
    let s := { s with chs := { s.chs with retirePending := true, lastCause := cause, lastCh := BitVec.ofNat 8 h.val
                                          toFold := s.chs.toFold ++ g.map fun k => (k, cause.setWidth 8, pinCond) } }
    foldRetirements (hk .retired h.val (raiseKind h 8 0 (if 2 ≤ g.length then setStrobe h false s else s)))

/-- One channel or pair retires, and R240 is evaluated. -/
def retireChannel (n : Chan) (cause : BitVec 2) (pinCond : Byte) (s : State) : State :=
  if isRetired s n then s else checkRetiredLimit (retireQuietly n cause pinCond s)

/-! ### Upsets (R228, R229, R232) -/

/-- The sum of the error-rate window. -/
def windowCount (h : Health) : Nat := (h.win.toList).foldl (· + ·) 0

/-- One counted error in the current sub-window (R232). -/
def countError (h : Health) : Health :=
  { h with win := vset h.win 0 (vget h.win 0 + 1), cntErrors := satInc h.cntErrors }

/-- The window count exceeds ERR_LIMIT, and neither threshold is 0 (R232). -/
def rateExceeded (h : Health) : Bool :=
  decide (h.windowMs ≠ 0 ∧ h.errLimit ≠ 0 ∧ h.errLimit.toNat < windowCount h)

/-- The channel's furrow relocked less than 1 ms ago (R229). -/
def freshLock (s : State) (n : Chan) : Bool :=
  match (furrow s (furrowOf n)).lockedAt with
  | none => false
  | some t => decide (s.now - t < 250000)

/-- A transient upset: LAST_ERR, an ERROR event, and where it counts the window, which may retire the channel
(R228, R229, R232). -/
def upset (n : Chan) (u : Upset) (s : State) : State :=
  let c := chan s n
  let counted := decide (u ≠ .txFailed) && !freshLock s n
  let h := { c.health with lastErr := u.code }
  let s := setChan s n { c with health := if counted then countError h else h }
  let s := raiseKind n 3 u.code s
  if counted ∧ rateExceeded (chan s n).health then retireChannel n 1 0 s else s

/-- A frame in error is over: cells Free, one ERROR event, and settings that waited (R193, R206, R226). One whose error
has been reported raises no second event. -/
def discardFrame (n : Chan) (u : Upset) (s : State) : State :=
  let told := (chan s n).rx.cur.any fun fr => fr.failed
  let s := abandonRx n s
  settle n (if told then s else upset n u s)

/-- The first error of a frame in progress (R193): its cells are Free and one ERROR event tells it; the rest of the frame
is discarded as it arrives, up to the frame's end. -/
def failFrame (n : Chan) (u : Upset) (s : State) : State :=
  let c := chan s n
  match c.rx.cur with
  | none => upset n u s
  | some fr =>
    if fr.failed then s
    else upset n u (setChan s n { c with rx := { c.rx with cells := setRxCells .free fr.cells c.rx.cells
                                                           cur := some { fr with cells := [], failed := true } } })

/-- An ASYNC_STS flag set. -/
def setAsyncFlag (n : Chan) (b : Nat) (s : State) : State :=
  let c := chan s n
  setChan s n { c with async := { c.async with flags := setBits c.async.flags b 1 1 } }

def setCsFlag (n : Chan) (b : Nat) (s : State) : State :=
  let c := chan s n
  setChan s n { c with cs := { c.cs with flags := setBits c.cs.flags b 1 1 } }

/-! ### The CRC of a frame (R192) -/

/-- The frame passes its check: the register after the last byte is 0 (R192). -/
def crcOk (code : Nat) (bs : List Byte) : Bool :=
  match code with
  | 1 => decide (3 ≤ bs.length) && decide (bs.foldl crcCcittStep 0xFFFF = 0)
  | 2 => decide (3 ≤ bs.length) && decide (crcReflected 0xA001#16 0xFFFF#16 bs = 0)
  | _ => true

/-- The end of a received frame: dropped frames vanish, a failed CRC discards, else the frame is delivered. -/
def finishFrame (n : Chan) (s : State) : State :=
  let c := chan s n
  match c.rx.cur with
  | none => s
  | some fr =>
    if fr.dropping || fr.failed then settle n (setChan s n { c with rx := { c.rx with cur := none } })
    else if !crcOk (aCrc c.async.now) (frameBytes c fr.cells fr.len) then discardFrame n .crc (setAsyncFlag n 3 s)
    else settle n (deliverFrame n fr s)

/-! ### Replies and posted frames (R169, R176 to R180) -/

/-- The post deadline passes: with nothing posted, the fallback template takes the reply's place (R178). -/
def passDeadline (r : Reply) : Reply :=
  if r.deadlinePassed then r
  else if r.posted then { r with deadlinePassed := true }
  else
    { r with deadlinePassed := true, fallback := true, buf := r.fbBuf, len := r.fbLen }

/-- The transmitter begins a line of characters: its bits, and on a half-duplex line the driver, enabled now unless it
has been for its lead (R194, R196). -/
def beginWire (c : Channel) (now : Nat) (bs : List Byte) : AsyncState :=
  let half := decide (c.cfg.func = 2)
  let on := match c.async.driver with
    | some (t, none) => min t now
    | _ => now
  { c.async with wire := frameLine c bs, driver := if half then some (on, none) else c.async.driver
                 line := if half then false else c.async.line }

/-- The last bit is out, or the transmission stops: on a half-duplex line the driver is disabled LAG ticks later, and
the line is at mark (R196, R197). -/
def endWire (c : Channel) (f now : Nat) : AsyncState :=
  let half := decide (c.cfg.func = 2)
  let off := now + ticksTime c f (bitsAt c.async.now.de 8 8)
  { c.async with wire := [], driver := if half then c.async.driver.map fun d => (d.1, some off) else c.async.driver
                 line := half || c.async.line }

/-- The first bit of the reply leaves: the driver is on, and a fallback gives its notice (R176, R178). RULE of the notice
and of REPLY_SENT is 0xFF (log entry 120). -/
def beginReply (n : Chan) (r : Reply) (s : State) : State :=
  let c := chan s n
  let s := setChan s n { c with reply := some { r with sending := true, turnEnded := true }
                                async := beginWire c s.now (bytesOf r.buf 0 r.len.toNat) }
  if r.fallback then
    raiseEvent n { ch := n, kind := 6, seq := r.seq, late := r.late } (reportOutcome n r.seq .fallback s)
  else s

/-- The last bit of a reply is out: counters, REPLY_SENT, and the outcome of a computed reply (R171, R252). -/
def endReply (n : Chan) (r : Reply) (s : State) : State :=
  let c := chan s n
  let cnt := if r.fallback then { c.cnt with fallbacks := satInc c.cnt.fallbacks }
    else { c.cnt with replies := satInc c.cnt.replies }
  let s := setChan s n { pastReply c r with cnt := cnt, async := endWire c (freqOf s n) s.now }
  let s := if r.fallback then s
    else
      let s := if r.computed then reportOutcome n r.seq .sent s else s
      raiseEvent n { ch := n, kind := 5, seq := r.seq, late := r.late } s
  settle n s

/-- Free transmit cells. -/
def txFree (c : Channel) : Nat := (c.tx.cells.toList.filter fun x => decide (x = .free)).length

/-- The bytes of a posted frame. -/
def txBytes (c : Channel) (fr : TxFrame) : List Byte :=
  (fr.cells.flatMap fun k => bytesOf (tabGet 0 c.tx.data k.toNat) 0 64).take fr.len

/-- A master's control byte and length are of the form of R211. -/
def masterPostOk (c : Channel) (bs : List Byte) : Bool :=
  let ctl := bs.headD 0
  let sb := wordBytes (fmtWord c.cfg.fmt)
  decide (1 + sb ≤ bs.length) && decide ((bs.length - 1) % sb = 0) && decide (bitsAt ctl 5 3 = 0) &&
    !(csMfEn c.cs.now && ctl.getLsbD 3)

/-- A slave's posted frame is a whole number of words (R221). -/
def slavePostOk (c : Channel) (len : Nat) : Bool := decide (len % wordBytes (fmtWord c.cfg.fmt) = 0)

/-- A post of `cells` cells and `len` bytes (R169, R211): handed over through CHWR[f], or discarded with TXREJ. -/
def txPostOp (n : Chan) (cells len : Nat) (s : State) : State :=
  let c := chan s n
  let ks := (List.range cells).map fun i => c.tx.tail + BitVec.ofNat 5 i
  let fr : TxFrame := { cells := ks, len := len }
  let ok := decide (1 ≤ cells ∧ cells ≤ txFree c ∧ 1 ≤ len ∧ len ≤ 64 * cells) &&
    (decide (c.cfg.func ≠ 3) || masterPostOk c (txBytes c fr)) && (decide (c.cfg.func ≠ 4) || slavePostOk c len)
  if ok then
    let s := setChan s n { c with tx := { c.tx with tail := c.tx.tail + BitVec.ofNat 5 cells
                                                    cells := setTxCells .written ks c.tx.cells } }
    sendChwr (furrowOf n) (.handover n fr) s
  else setChan s n { c with txRej := true }

/-- The first posted frame leaves the ring: its cells are Free (R167). -/
def popPosted (n : Chan) (s : State) : State :=
  let c := chan s n
  match c.tx.posted with
  | [] => s
  | fr :: rest =>
    setChan s n { c with tx := { c.tx with posted := rest, busy := false, backoff := false
                                           cells := setTxCells .free fr.cells c.tx.cells }
                         health := { c.health with attempt := 0, retrying := false } }

/-- A post reaches the channel (R177). -/
def applyPost (n : Chan) (seq : Byte) (off : BitVec 6) (len : BitVec 7) (data : BitVec 512) (s : State) : State :=
  let c := chan s n
  match c.reply with
  | none => if c.lateSeq = some seq then setChan s n { c with postLate := true } else setChan s n { c with postRej := true }
  | some r =>
    if ¬ r.computed ∨ r.seq ≠ seq ∨ len.toNat = 0 ∨ 64 < len.toNat ∨ r.sendLen.toNat < off.toNat + len.toNat then
      setChan s n { c with postRej := true }
    else if r.deadlinePassed then setChan s n { c with postLate := true }
    else
      let r := { r with posted := true, buf := setBytes r.buf off.toNat (bytesOf data 0 len.toNat) }
      setChan s n { c with reply := some r }

end Sys2Proof.Machine
end

