-- ==== Sys2Proof/Machine/ChanRegs.lean ====
section
/-! DEFINITION. The channel registers: what each offset reads, what a read clears, what a write does (08 to 11). -/

namespace Sys2Proof.Machine

/-- The pins the function does not use (R162). -/
def spareMask (c : Channel) : BitVec 4 :=
  match c.cfg.func.toNat with
  | 1 => if aSync c.async.now then 0x8 else 0xC
  | 2 => 0xC
  | 3 | 4 => 0
  | _ => 0xF

/-- A seed record's LOCK flag covers the entry of a type whose first byte is `n` (R138). -/
def recLocked (s : State) (type n : Nat) : Bool :=
  match seedFind s type 1 n with
  | some e => e.lock
  | none => false

/-- The REPLY entry of a slot is locked. -/
def replyLocked (s : State) (n : Chan) (slot : Nat) : Bool :=
  (replyEntries s n).any fun e => decide (e.num 1 1 = slot) && e.lock

def retireLocked (s : State) (n : Chan) : Bool :=
  match retireEntry s n with
  | some e => e.lock
  | none => false

def rxFree (c : Channel) : Nat := (c.rx.cells.toList.filter fun x => decide (x = .free)).length
def heldFrames (c : Channel) : Nat := (c.rx.held.filter fun e => decide (e.cells ≠ [])).length

def cfgWord (c : ChCfg) : Word :=
  fld c.func 24 ||| flag c.overlapCapture 19 ||| flag c.dropOldest 18 ||| flag c.bias 17 ||| flag c.term 16 |||
    fld c.pm3 12 ||| fld c.pm2 8 ||| fld c.pm1 4 ||| fld c.pm0 0

def formatWord (c : ChCfg) : Word := fld c.retries 20 ||| fld c.oversample 16 ||| fld c.overlapPct 8 ||| fld c.fmt 0

def stsWord (c : Channel) : Word :=
  flag c.reply.isSome 30 ||| flag (c.tx.busy || c.cs.xfer.isSome || (c.reply.any fun r => r.sending)) 29 |||
    flag c.rx.cur.isSome 28 ||| fld (BitVec.ofNat 6 (rxFree c)) 22 ||| fld (BitVec.ofNat 6 (heldFrames c)) 16 |||
    flag c.postLate 7 ||| flag c.postRej 6 ||| flag c.txRej 5 ||| flag c.drop 4

/-- CH[n].PINS: bits for pins that the function uses read as the pin's signal. -/
def pinsWord (s : State) (n : Chan) : Word :=
  let c := chan s n
  let m := spareMask c
  let signal := (List.range 4).foldl (fun (x : BitVec 4) k => setBits x k 1 (bit (pinSignal s n k (driverOn c.async s.now)))) 0
  let show' := fun (x : BitVec 4) => (x &&& m) ||| (signal &&& ~~~m)
  fld c.pins.filter 24 ||| fld (show' c.pins.fall) 20 ||| fld (show' c.pins.rise) 16 ||| fld c.pins.inp 8 |||
    fld (show' c.pins.out) 0

def ruleWord (r : Rule) (k : Nat) : Word :=
  match k with
  | 0 => flag r.computed 31 ||| fld r.hdrLen 24 ||| fld r.send 20 ||| fld r.fallback 16 ||| fld r.tlen 0
  | 1 => r.turnNs
  | 2 => r.mtch.extractLsb' 0 32
  | 3 => r.mtch.extractLsb' 32 32
  | 4 => r.mask.extractLsb' 0 32
  | 5 => r.mask.extractLsb' 32 32
  | _ => 0

def asyncWord (c : Channel) (f now k : Nat) : Word :=
  let a := c.async
  match k with
  | 0 => a.regs.cfg
  | 1 => a.regs.frame
  | 2 => a.regs.de
  | 3 => a.regs.addr
  | 4 => flag a.ovlHold 18 ||| flag (driverOn a now) 17 ||| flag a.line 16 ||| fld a.flags 0
  | 5 => fld a.peak 24 ||| fld a.ref 16
  | 6 =>
    let d := chanDiv c f
    let k := if aSync a.now then d else c.cfg.oversample.toNat * d
    fld (rateErr f k c.cfg.rate.toNat) 16 ||| fld (BitVec.ofNat 16 d) 0
  | 7 => fld a.ackAbandoned 8 ||| fld a.matches_ 0
  | _ => 0

def csWord (c : Channel) (f k : Nat) : Word :=
  let a := c.cs
  match k with
  | 0 => a.regs.cfg
  | 1 => a.regs.timing
  | 2 => a.regs.frame
  | 3 => a.regs.strb
  | 4 => fld a.selIn 28 ||| flag a.selActive 27 ||| fld a.flags 0
  | 5 =>
    let d := chanDiv c f
    fld (rateErr f d c.cfg.rate.toNat) 16 ||| fld (BitVec.ofNat 16 d) 0
  | 6 => fld a.underruns 16 ||| fld a.shorts 8 ||| fld a.longs 0
  | 7 => fld a.strobes 8 ||| fld a.modeFaults 0
  | _ => 0

def pinSts (h : Health) : Half :=
  (List.range 8).foldl (fun x k => x ||| ((h.pins.toList.getD k {}).cond.setWidth 16 <<< (2 * k))) 0

def healthWord (h : Health) (k : Nat) : Word :=
  match k with
  | 0 => fld h.windowMs 16 ||| fld h.errLimit 0
  | 1 => fld h.pinFaultMs 16 ||| fld h.backoffUs 0
  | 2 => fld (BitVec.ofNat 16 (min 0xFFFF (windowCount h))) 16 ||| fld h.lastErr 8 ||| fld h.attempt 4 ||| flag h.retrying 0
  | 3 => h.cntErrors
  | 4 => fld (pinSts h) 0
  | _ => 0

def cntWord (c : ChCounters) (k : Nat) : Word :=
  match k with
  | 0 => c.frames
  | 1 => c.drops
  | 2 => c.replies
  | 3 => c.fallbacks
  | 4 => c.noans
  | 5 => c.abandoned
  | _ => 0

/-- What word offset `off` of a channel's block reads (08 to 11 › Registers). -/
def chanValue (s : State) (n : Chan) (off : Nat) : Word :=
  let c := chan s n
  let h := chan s (headOf s n)
  let f := freqOf s n
  if off = 0 then fld c.owner 8 ||| BitVec.ofNat 32 n.val
  else if off = 0x4 then flag c.en 31
  else if off = 0x8 then stsWord c
  else if off = 0xC then cfgWord c.cfg
  else if off = 0x10 then c.cfg.rate
  else if off = 0x14 then formatWord c.cfg
  else if off = 0x18 then fld c.evmask 16 ||| fld c.flow 0
  else if off = 0x1C then pinsWord s n
  else if off = 0x20 then fld (BitVec.ofNat 6 (txFree c)) 8 ||| fld c.tx.tail 0
  else if 0x40 ≤ off ∧ off ≤ 0x54 then cntWord c.cnt ((off - 0x40) / 4)
  else if 0x100 ≤ off ∧ off ≤ 0x11C then
    if c.cfg.func = 1 ∨ c.cfg.func = 2 then asyncWord c f s.now ((off - 0x100) / 4)
    else if paired s n then csWord h f ((off - 0x100) / 4)
    else 0
  else if 0x200 ≤ off ∧ off ≤ 0x210 then healthWord h.health ((off - 0x200) / 4)
  else if 0x400 ≤ off ∧ off < 0x600 then ruleWord (tabGet {} c.rules ((off - 0x400) / 32)) ((off - 0x400) % 32 / 4)
  else if 0x800 ≤ off ∧ off < 0xC00 then
    (tabGet 0 c.tpls ((off - 0x800) / 64)).extractLsb' (8 * ((off - 0x800) % 64 / 4 * 4)) 32
  else 0

/-- The register holds a WO, W1C, W1S or RC field, so that it acts only on a 32-bit access (R498). -/
def chanSpecial (s : State) (n : Chan) (off : Nat) : Bool :=
  decide (off = 0x4 ∨ off = 0x8 ∨ off = 0x24 ∨ (0x40 ≤ off ∧ off ≤ 0x54) ∨ off = 0x110 ∨ off = 0x11C ∨ off = 0x20C ∨
    off = 0xC40) || (decide (off = 0x118) && paired s n)

/-- What a 32-bit read of an RC register clears. -/
def chanReadEffect (n : Chan) (off : Nat) (s : State) : State :=
  let c := chan s n
  let hn := headOf s n
  let h := chan s hn
  if off = 0x40 then setChan s n { c with cnt := { c.cnt with frames := 0 } }
  else if off = 0x44 then setChan s n { c with cnt := { c.cnt with drops := 0 } }
  else if off = 0x48 then setChan s n { c with cnt := { c.cnt with replies := 0 } }
  else if off = 0x4C then setChan s n { c with cnt := { c.cnt with fallbacks := 0 } }
  else if off = 0x50 then setChan s n { c with cnt := { c.cnt with noans := 0 } }
  else if off = 0x54 then setChan s n { c with cnt := { c.cnt with abandoned := 0 } }
  else if off = 0x20C then setChan s hn { h with health := { h.health with cntErrors := 0 } }
  else if off = 0x118 ∧ paired s n then
    setChan s hn { h with cs := { h.cs with underruns := 0, shorts := 0, longs := 0 } }
  else if off = 0x11C then
    if paired s n then setChan s hn { h with cs := { h.cs with strobes := 0, modeFaults := 0 } }
    else if c.cfg.func = 1 ∨ c.cfg.func = 2 then
      setChan s n { c with async := { c.async with ackAbandoned := 0, matches_ := 0 } }
    else s
  else s

/-! ### Writes -/

/-- A field written: its new value where the code is defined, else the old (R10). -/
def orKeep {α : Type} (ok : Bool) (new old : α) : α := if ok then new else old

def level5 (s : State) (n : Chan) : Bool := (rail s (railOf n)).level5

/-- The odd channel of a bonded pair. -/
def isOddOfPair (s : State) (n : Chan) : Bool := decide (n.val % 2 = 1) && paired s n

/-- FUNC may take this value on this channel (R161, R164): the odd channel of a pair keeps the pair's, and a pair forms
over an odd channel that does not run (log entry 117). -/
def funcOk (s : State) (n : Chan) (f : BitVec 3) : Bool :=
  if isOddOfPair s n then decide (f = (chan s (evenOf n)).cfg.func)
  else if f.toNat ≤ 2 ∨ f = 5 then true
  else isPairFunc f && decide (n.val % 2 = 0) && !(chan s (oddOf n)).en

/-- All four pin modes suit the function (R163). -/
def pinsOk (c : Channel) (odd : Bool) (func : BitVec 3) (m0 m1 m2 m3 : BitVec 4) : Bool :=
  let mf := csMfEn c.cs.regs
  let sy := aSync c.async.regs
  pinModeOk func odd 0 m0.toNat mf sy && pinModeOk func odd 1 m1.toNat mf sy && pinModeOk func odd 2 m2.toNat mf sy &&
    pinModeOk func odd 3 m3.toNat mf sy

/-- The pin modes that a CFG write leaves under function `f`: each pin's new mode, or the old one where the new one is
reserved (R163). -/
def modesAfter (s : State) (n : Chan) (v : Word) (f : BitVec 3) : ChCfg :=
  let c := chan s n
  let odd := decide (n.val % 2 = 1)
  let mf := csMfEn (chan s (headOf s n)).cs.regs
  let sy := aSync c.async.regs
  let pick := fun k (old : BitVec 4) =>
    let new := BitVec.ofNat 4 (bitsAt v (4 * k) 4)
    orKeep (pinModeOk f odd k new.toNat mf sy) new old
  { c.cfg with func := f, pm0 := pick 0 c.cfg.pm0, pm1 := pick 1 c.cfg.pm1, pm2 := pick 2 c.cfg.pm2, pm3 := pick 3 c.cfg.pm3 }

/-- A change of FUNC holds no reserved code: the pins, the odd channel's pins of a pair, and the settings kept
(R163 to R166, log entry 115). -/
def funcFits (s : State) (n : Chan) (cfg : ChCfg) : Bool :=
  let c := chan s n
  let odd := decide (n.val % 2 = 1)
  let o := (chan s (oddOf n)).cfg
  funcOk s n cfg.func && pinsOk c odd cfg.func cfg.pm0 cfg.pm1 cfg.pm2 cfg.pm3 &&
    (!isPairFunc cfg.func || odd || pinsOk c true cfg.func o.pm0 o.pm1 o.pm2 o.pm3) &&
    (isOddOfPair s n || settingsFit (level5 s n) n (freqOf s n) { c with cfg := cfg }) &&
    (decide (c.cfg.func ≠ 0) || sourcesFit s c.flow.toNat 1)

/-- CFG after a write (R161, R163, R38): FUNC and the pin modes are judged together; where FUNC is not taken, or stays,
P0 and P1 keep their modes if the new ones would exceed R38. -/
def cfgAfter (s : State) (n : Chan) (v : Word) : ChCfg :=
  let c := chan s n
  let fNew := BitVec.ofNat 3 (bitsAt v 24 3)
  let same := modesAfter s n v c.cfg.func
  let same := if isOddOfPair s n || railLets (level5 s n) same || !railLets (level5 s n) c.cfg then same
    else { same with pm0 := c.cfg.pm0, pm1 := c.cfg.pm1 }
  let cfg := if fNew ≠ c.cfg.func ∧ funcFits s n (modesAfter s n v fNew) then modesAfter s n v fNew else same
  { cfg with overlapCapture := v.getLsbD 19, dropOldest := v.getLsbD 18, bias := v.getLsbD 17, term := v.getLsbD 16 }

/-- FORMAT after a write (R165, R185, R191, R200, R209, R220, R222); an odd channel's is ignored with its pair (R164). -/
def formatAfter (s : State) (n : Chan) (v : Word) : ChCfg :=
  let c := chan s n
  let ok := fun (x : ChCfg) => isOddOfPair s n || settingsFit (level5 s n) n (freqOf s n) { c with cfg := x }
  let c1 := { c.cfg with retries := BitVec.ofNat 4 (bitsAt v 20 4) }
  let o := bitsAt v 16 4
  let c2 := { c1 with oversample := BitVec.ofNat 4 o }
  let c2 := orKeep (decide (o = 3 ∨ o = 8) && ok c2) c2 c1
  let p := bitsAt v 8 8
  let c3 := orKeep (decide (25 ≤ p ∧ p ≤ 75)) { c2 with overlapPct := BitVec.ofNat 8 p } c2
  let fm := BitVec.ofNat 8 (bitsAt v 0 8)
  let c4 := { c3 with fmt := fm }
  orKeep (ok c4) c4 c3

/-- The channel as it starts at an enable: as after a channel reset (R183), but with the settings that its owner has
written, SYNC among them (R166, R195, R206, R226; log entry 118). -/
def startedChannel (c : Channel) : Channel :=
  { c with en := true, cnt := {}, postLate := false, postRej := false, txRej := false, drop := false
           async := { regs := c.async.regs, now := c.async.regs, line := c.async.line }
           cs := { regs := c.cs.regs, now := c.cs.regs, selIn := c.cs.selIn }
           health := { c.health with win := .replicate 8 0, lastErr := 0, attempt := 0, retrying := false
                                     pins := .replicate 8 {}, cntErrors := 0 } }

/-- The channel, or its pair, is enabled (R166, R36, R149). -/
def enableChannel (n : Chan) (s : State) : State :=
  let s := (group s n).foldl (fun s k =>
    let s := quietChannel k s
    setChan s k (startedChannel (chan s k))) s
  let s := (group s n).foldl (fun s k => takeDrive k s) s
  pump (chan s n).flow.toNat (settleStrobe n s)

/-- The channel, or its pair, is disabled: it stops and its pins go hi-Z (log entry 14). -/
def disableChannel (n : Chan) (s : State) : State :=
  settleStrobe n ((group s n).foldl (fun s k =>
    let s := stopChannel k .hiZ s
    setChan s k { chan s k with en := false }) s)

/-- EN written (R166): a channel whose settings hold a reserved code is not enabled (log entry 115). -/
def writeEn (n : Chan) (en : Bool) (s : State) : State :=
  let h := headOf s n
  if en = (chan s n).en then s
  else if !en then disableChannel n s
  else if settingsFit (level5 s h) h (freqOf s h) (chan s h) then enableChannel n s
  else s

/-- A rule after a write of word `k` (R10, R161, R176, R177, R191, R222); `free` for the odd channel of a pair, whose
rules are ignored and held to the fields' ranges alone (R164; log entry 116). -/
def ruleAfter (free : Bool) (c : Channel) (f : Nat) (r : Rule) (k : Nat) (v : Word) : Rule :=
  let hdr := fun (x : Rule) => if free then decide (x.hdrLen.toNat ≤ 8) else hdrLenOk c x
  let len := fun (x : Rule) => if free then decide (1 ≤ x.tlen.toNat ∧ x.tlen.toNat ≤ 64) else tlenOk c x
  let turn := fun (x : Rule) => if free then decide (500 ≤ x.turnNs.toNat ∧ x.turnNs.toNat ≤ 1000000) else turnOk c f x
  match k with
  | 0 =>
    let r1 := { r with send := BitVec.ofNat 4 (bitsAt v 20 4), fallback := BitVec.ofNat 4 (bitsAt v 16 4) }
    let r2 := { r1 with tlen := BitVec.ofNat 7 (bitsAt v 0 7) }
    let r2 := orKeep (len r2) r2 r1
    let r3 := { r2 with hdrLen := BitVec.ofNat 4 (bitsAt v 24 4) }
    let r4 := { r3 with computed := v.getLsbD 31 }
    if hdr r3 && turn r4 then r4
    else if hdr r3 && turn r3 then r3
    else
      let r5 := { r2 with computed := v.getLsbD 31 }
      orKeep (turn r5) r5 r2
  | 1 => let r1 := { r with turnNs := v }
         orKeep (turn r1) r1 r
  | 2 => { r with mtch := BitVec.ofNat 64 (r.mtch.toNat / 2 ^ 32 * 2 ^ 32 + v.toNat) }
  | 3 => { r with mtch := BitVec.ofNat 64 (r.mtch.toNat % 2 ^ 32 + v.toNat * 2 ^ 32) }
  | 4 => { r with mask := BitVec.ofNat 64 (r.mask.toNat / 2 ^ 32 * 2 ^ 32 + v.toNat) }
  | 5 => { r with mask := BitVec.ofNat 64 (r.mask.toNat % 2 ^ 32 + v.toNat * 2 ^ 32) }
  | _ => r

/-- Every rule stays allowed under these async settings (R191). -/
def rulesAllow (c : Channel) (f : Nat) (a : AsyncRegs) : Bool :=
  c.rules.all fun p => turnOk { c with async := { c.async with now := a } } f p.2 || !turnOk c f p.2

/-- ASYNC_CFG after a write (R190 to R192, R195, R200): DELIM and IDLE_BITS are judged together against the rules, and
one by one where both together are not allowed (R191). -/
def asyncCfgAfter (s : State) (n : Chan) (v : Word) : Word :=
  let c := chan s n
  let f := freqOf s n
  let w := c.async.regs.cfg
  let put := fun (ok : Bool) lo k (x : Word) => if ok then setBits x lo k (bitsAt v lo k) else x
  let try' := fun (ok : Bool) lo k (x : Word) =>
    let y := put ok lo k x
    if rulesAllow c f { c.async.regs with cfg := y } then y else x
  let w := try' (!c.en && (if v.getLsbD 31 then decide (c.cfg.func = 1) && pmOut c.cfg.pm2.toNat && rateOk (level5 s n) f c.cfg true
    else decide (c.cfg.func ≠ 1) || rateOk (level5 s n) f c.cfg false)) 31 1 w
  let w := put (!v.getLsbD 30 || fmtMultidrop c.cfg.fmt) 30 1 w
  let w := put true 29 1 w
  let w := put (decide (bitsAt v 26 2 ≠ 3)) 26 2 w
  let both := put (decide (bitsAt v 16 8 ≠ 0)) 16 8 (put (decide (bitsAt v 24 2 ≠ 3)) 24 2 w)
  let w := if rulesAllow c f { c.async.regs with cfg := both } then both
    else try' (decide (bitsAt v 16 8 ≠ 0)) 16 8 (try' (decide (bitsAt v 24 2 ≠ 3)) 24 2 w)
  put true 12 4 w

/-- CS_CFG after a write (R213, R224, R225 › Edges). -/
def csCfgAfter (s : State) (n : Chan) (v : Word) : Word :=
  let c := chan s n
  let w := c.cs.regs.cfg
  let put := fun (ok : Bool) lo k (x : Word) => if ok then setBits x lo k (bitsAt v lo k) else x
  let w := put true 29 3 w
  let mf := v.getLsbD 27
  let dec := v.getLsbD 28
  let mfOk := !mf || (pmIn (chan s (oddOf n)).cfg.pm3.toNat && !dec)
  let mf' := if mfOk then mf else w.getLsbD 27
  let w := put (!dec || !mf') 28 1 w
  let w := put mfOk 27 1 w
  let w := put (decide (bitsAt v 24 3 + 1 ≤ chanDiv c (freqOf s n)) || decide (c.cfg.func = 4)) 24 3 w
  put true 8 16 w

/-- CH[n].FLOW may name this flow (08 › Registers): configured, and its owner's (R246). -/
def flowPermitted (s : State) (owner : Byte) (f : Nat) : Bool :=
  let fl := flow s f
  fl.en && (match owner.toNat with
    | 0 => !fl.world && decide (fl.bay = 0xFF)
    | 1 => fl.world
    | o => decide (fl.bay.toNat + 2 = o))

/-- A write of word offset `off`: the register's effect, no lock involved. -/
def chanStore (n : Chan) (off : Nat) (v : Word) (s : State) : State :=
  let c := chan s n
  let hn := headOf s n
  let h := chan s hn
  let f := freqOf s n
  let odd := isOddOfPair s n
  if off = 0x4 then
    let s := writeEn n (v.getLsbD 31) s
    if bitsAt v 0 8 = 0x5C then resetChannel n s else s
  else if off = 0x8 then
    setChan s n { c with postLate := c.postLate && !v.getLsbD 7, postRej := c.postRej && !v.getLsbD 6
                         txRej := c.txRej && !v.getLsbD 5, drop := c.drop && !v.getLsbD 4 }
  else if off = 0xC then
    if c.en then s
    else
      let cfg := cfgAfter s n v
      let s := setChan s n { c with cfg := cfg }
      if n.val % 2 = 0 ∧ (isPairFunc cfg.func ∨ isPairFunc c.cfg.func) then
        let o := chan s (oddOf n)
        setChan s (oddOf n) { o with cfg := { o.cfg with func := if isPairFunc cfg.func then cfg.func else 0 } }
      else s
  else if off = 0x10 then
    let c' := { c with cfg := { c.cfg with rate := v } }
    if c.en ∨ ¬ (odd ∨ settingsFit (level5 s n) n f c') then s else setChan s n c'
  else if off = 0x14 then if c.en then s else setChan s n { c with cfg := formatAfter s n v }
  else if off = 0x18 then
    let ev := BitVec.ofNat 6 (bitsAt v 16 6)
    let fl := bitsAt v 0 12
    if fl ≠ c.flow.toNat ∧ flowPermitted s c.owner fl ∧ sourcesFit s fl 1 then
      let s := dropGrants n s
      let c := chan s n
      let s := setChan s n { c with evmask := ev, flow := BitVec.ofNat 12 fl }
      pump fl (pump c.flow.toNat s)
    else setChan s n { c with evmask := ev }
  else if off = 0x1C then
    let m := spareMask c
    let w := fun lo (old : BitVec 4) => (BitVec.ofNat 4 (bitsAt v lo 4) &&& m) ||| (old &&& ~~~m)
    setChan s n { c with pins := { c.pins with filter := BitVec.ofNat 8 (bitsAt v 24 8), fall := w 20 c.pins.fall
                                               rise := w 16 c.pins.rise, out := w 0 c.pins.out } }
  else if off = 0x24 then
    if odd then setChan s n { c with txRej := true } else txPostOp n (bitsAt v 16 6) (bitsAt v 0 12) s
  else if off = 0x100 then
    if c.cfg.func = 1 ∨ c.cfg.func = 2 then
      settle n (setChan s n { c with async := { c.async with regs := { c.async.regs with cfg := asyncCfgAfter s n v } } })
    else if paired s n then
      settle hn (setChan s hn { h with cs := { h.cs with regs := { h.cs.regs with cfg := csCfgAfter s hn v } } })
    else s
  else if off = 0x104 then
    if c.cfg.func = 1 ∨ c.cfg.func = 2 then
      let w := c.async.regs.frame
      let w := if bitsAt v 26 6 = 63 then w else setBits w 26 6 (bitsAt v 26 6)
      let w := setBits w 20 6 (bitsAt v 20 6)
      let l := bitsAt v 0 12
      let w := if 1 ≤ l ∧ l ≤ 2048 then setBits w 0 12 l else w
      settle n (setChan s n { c with async := { c.async with regs := { c.async.regs with frame := w } } })
    else if paired s n then
      let put := fun lo (x : Word) => if bitsAt v lo 10 = 0 then x else setBits x lo 10 (bitsAt v lo 10)
      settle hn (setChan s hn { h with cs := { h.cs with regs := { h.cs.regs with timing := put 20 (put 10 (put 0 h.cs.regs.timing)) } } })
    else s
  else if off = 0x108 then
    if c.cfg.func = 1 ∨ c.cfg.func = 2 then
      settle n (setChan s n { c with async := { c.async with regs := { c.async.regs with de := v &&& 0xFFFF } } })
    else if paired s n then
      let k := bitsAt v 0 11
      if 1 ≤ k ∧ k * wordBytes (fmtWord h.cfg.fmt) ≤ 2048 then
        settle hn (setChan s hn { h with cs := { h.cs with regs := { h.cs.regs with frame := BitVec.ofNat 32 k } } })
      else s
    else s
  else if off = 0x10C then
    if c.cfg.func = 1 ∨ c.cfg.func = 2 then
      settle n (setChan s n { c with async := { c.async with regs := { c.async.regs with addr := v &&& 0x01FFFFFF } } })
    else if paired s n then
      let w := setBits h.cs.regs.strb 0 5 (bitsAt v 0 5)
      let w := if bitsAt v 8 8 = 0 then w else setBits w 8 8 (bitsAt v 8 8)
      settle hn (setChan s hn { h with cs := { h.cs with regs := { h.cs.regs with strb := w } } })
    else s
  else if off = 0x110 then
    if c.cfg.func = 1 ∨ c.cfg.func = 2 then
      setChan s n { c with async := { c.async with flags := c.async.flags &&& ~~~(v.setWidth 8) } }
    else if paired s n then
      let clr : BitVec 5 := v.setWidth 5
      let clr := if sel3Asserted h.cs then clr &&& ~~~(8#5) else clr
      setChan s hn { h with cs := { h.cs with flags := h.cs.flags &&& ~~~clr } }
    else s
  else if off = 0x200 then
    let w := bitsAt v 16 16
    let hh := { h.health with errLimit := BitVec.ofNat 16 (bitsAt v 0 16)
                              windowMs := orKeep (decide (w % 8 = 0 ∧ w ≤ 65528)) (BitVec.ofNat 16 w) h.health.windowMs }
    setChan s hn { h with health := hh }
  else if off = 0x204 then
    setChan s hn { h with health := { h.health with pinFaultMs := BitVec.ofNat 16 (bitsAt v 16 16)
                                                    backoffUs := BitVec.ofNat 16 (bitsAt v 0 16) } }
  else if 0x400 ≤ off ∧ off < 0x600 then
    let k := (off - 0x400) / 32
    setChan s n { c with rules := tabPut {} c.rules k (ruleAfter odd c f (tabGet {} c.rules k) ((off - 0x400) % 32 / 4) v) }
  else if off = 0xC40 then
    sendChwr (furrowOf n) (.post n (BitVec.ofNat 8 (bitsAt v 24 8)) (BitVec.ofNat 6 (bitsAt v 16 6))
      (BitVec.ofNat 7 (bitsAt v 0 7)) c.postData) s
  else s

/-- Bytes stored into the data areas TPL and POST_DATA (R497). -/
def chanData (n : Chan) (off : Nat) (bs : List Byte) (s : State) : State :=
  let c := chan s n
  if 0x800 ≤ off ∧ off < 0xC00 then
    let k := (off - 0x800) / 64
    setChan s n { c with tpls := tabPut 0 c.tpls k (setBytes (tabGet 0 c.tpls k) ((off - 0x800) % 64) bs) }
  else if 0xC00 ≤ off ∧ off < 0xC40 then setChan s n { c with postData := setBytes c.postData (off - 0xC00) bs }
  else s

def isChanData (off : Nat) : Bool := decide (0x800 ≤ off ∧ off < 0xC40)

/-- The seed-locked part of a channel's settings (R138). -/
structure LockView where
  cfg : ChCfg
  flow : BitVec 12
  deriving DecidableEq

/-- A write would change a locked field (R139): the settings it touches before and after differ under a lock. -/
def chanLocked (s s' : State) (n : Chan) : Bool :=
  let c := chan s n
  let c' := chan s' n
  let h := chan s (headOf s n)
  let h' := chan s' (headOf s n)
  (recLocked s 0x03 n.val && decide (({ cfg := c.cfg, flow := c.flow } : LockView) ≠ { cfg := c'.cfg, flow := c'.flow })) ||
    ((List.range 16).any fun k => replyLocked s n k &&
      decide (tabGet {} c.rules k ≠ tabGet {} c'.rules k ∨ tabGet 0 c.tpls k ≠ tabGet 0 c'.tpls k)) ||
    (retireLocked s (headOf s n) && decide (h.health.windowMs ≠ h'.health.windowMs ∨ h.health.errLimit ≠ h'.health.errLimit ∨
      h.health.pinFaultMs ≠ h'.health.pinFaultMs ∨ h.health.backoffUs ≠ h'.health.backoffUs))

/-- A channel-reset write restores seed values and is no write to a locked field. -/
def chanWriteOp (r : Req) (n : Chan) (off : Nat) (v : Word) (s : State) : State :=
  let s' := chanStore n off v s
  if off ≠ 0x4 ∧ (chanLocked s s' n ∨ chanLocked s s' (oddOf n)) then violate r .locked (chanBase n + BitVec.ofNat 32 off) true s else s'

/-- A write to a channel's block by a requester (R181, R182, R335): ownership, retirement, then the register. -/
def chanWrite (r : Req) (n : Chan) (off : Nat) (v : Word) (s : State) : State :=
  let a := chanBase n + BitVec.ofNat 32 off
  tryWrite r a (ownsChannel s r (headOf s n)) (fun s =>
    if isRetired s n then violate r .retired a true s else chanWriteOp r n off v s) s

end Sys2Proof.Machine
end

