-- ==== Sys2Proof/Machine/Aes.lean ====
section
/-! DEFINITION. AES-256 (FIPS 197), its key wrap KW (NIST SP 800-38F) and GCM (NIST SP 800-38D). The manual names the
standards and not their tables: what is here is the published standards' (log entry 9). -/

namespace Sys2Proof.Machine

/-- The substitution table as one number, the entry for 0 in the lowest byte. -/
def aesBox : Nat :=
  0xc072a49cafa2d4adf04759fa7dc982ca76abd7fe2b670130c56f6bf27b777c63 +
  0x75b227ebe28012079a059618c323c7041531d871f1e5a534ccf73f362693fdb7 * 2 ^ 256 +
  0xcf584c4a39becb6a5bb1fc20ed00d153842fe329b3d63b52a05a6e1b1a2c8309 * 2 ^ 512 +
  0xd2f3ff1021dab6bcf5389d928f40a351a89f3c507f02f94585334d43fbaaefd0 * 2 ^ 768 +
  0xdb0b5ede14b8ee4688902a22dc4f816073195d643d7ea7c41744975fec130ccd * 2 ^ 1024 +
  0x08ae7a65eaf4566ca94ed58d6d37c8e779e4959162acd3c25c2406490a3a32e0 * 2 ^ 1280 +
  0x9e1dc186b95735610ef6034866b53e708a8bbd4b1f74dde8c6b4a61c2e2578ba * 2 ^ 1536 +
  0x16bb54b00f2d99416842e6bf0d89a18cdf2855cee9871e9b948ed9691198f8e1 * 2 ^ 1792

/-- The inverse substitution. -/
def aesBoxInv : Nat :=
  0xcbe9dec444438e3487ff2f9b8239e37cfbd7f3819ea340bf38a53630d56a0952 +
  0x25d18b6d49a25b76b224d92866a12e084ec3fa420b954cee3d23c2a632947b54 * 2 ^ 256 +
  0x849d8da75746155edab9edfd5048706c92b6655dcc5ca4d41698688664f6f872 * 2 ^ 512 +
  0x6b8a130103bdafc1020f3fca8f1e2cd00645b3b80558e4f70ad3bc8c00abd890 * 2 ^ 768 +
  0x6edf751ce837f9e28535ade72274ac9673e6b4f0cecff297eadc674f4111913a * 2 ^ 1024 +
  0xf45acd78fec0db9a2079d2c64b3e56fc1bbe18aa0e62b76f89c5291d711af147 * 2 ^ 1280 +
  0xef9cc9939f7ae52d0d4ab519a97f51605fec8027591012b131c7078833a8dd1f * 2 ^ 1536 +
  0x7d0c2155631469e126d677ba7e042b17619953833cbbebc8b0f52aae4d3be0a0 * 2 ^ 1792

def subByte (b : Nat) : Nat := aesBox >>> (8 * b) % 256
def subByteInv (b : Nat) : Nat := aesBoxInv >>> (8 * b) % 256

def xorBytes (a b : List Byte) : List Byte := List.zipWith (fun x y => x ^^^ y) a b

/-! A byte of the cipher's state is held as a number below 256, the state as its four columns one after another. -/

def addKey (a k : List Nat) : List Nat := List.zipWith (fun x y => x ^^^ y) a k

/-- Multiplication by x in GF(2^8). -/
def xtime (b : Nat) : Nat := if b < 128 then 2 * b else (2 * b) ^^^ 0x11B

/-- ShiftRows: row r turns left by r. -/
def shiftRows : List Nat → List Nat
  | [a0, a1, a2, a3, b0, b1, b2, b3, c0, c1, c2, c3, d0, d1, d2, d3] =>
    [a0, b1, c2, d3, b0, c1, d2, a3, c0, d1, a2, b3, d0, a1, b2, c3]
  | s => s
def shiftRowsInv : List Nat → List Nat
  | [a0, a1, a2, a3, b0, b1, b2, b3, c0, c1, c2, c3, d0, d1, d2, d3] =>
    [a0, d1, c2, b3, b0, a1, d2, c3, c0, b1, a2, d3, d0, c1, b2, a3]
  | s => s

/-- MixColumns: each column multiplied by the circulant of 2, 3, 1, 1. -/
def mixColumns : List Nat → List Nat
  | a :: b :: c :: d :: rest =>
    let all := a ^^^ b ^^^ c ^^^ d
    (a ^^^ all ^^^ xtime (a ^^^ b)) :: (b ^^^ all ^^^ xtime (b ^^^ c)) :: (c ^^^ all ^^^ xtime (c ^^^ d)) ::
      (d ^^^ all ^^^ xtime (d ^^^ a)) :: mixColumns rest
  | _ => []

/-- Each column multiplied by the circulant of 5, 0, 4, 0, which with MixColumns makes its inverse. -/
def mixFives : List Nat → List Nat
  | a :: b :: c :: d :: rest =>
    let u := xtime (xtime (a ^^^ c))
    let v := xtime (xtime (b ^^^ d))
    (a ^^^ u) :: (b ^^^ v) :: (c ^^^ u) :: (d ^^^ v) :: mixFives rest
  | _ => []
def mixColumnsInv (s : List Nat) : List Nat := mixColumns (mixFives s)

/-- The next word of the key schedule, the i-th, from the word before it and the one eight before it. -/
def keyWord (i rcon : Nat) : List Nat → List Nat → List Nat
  | [a, b, c, d], [p, q, r, s] =>
    if i % 8 = 0 then [p ^^^ subByte b ^^^ rcon, q ^^^ subByte c, r ^^^ subByte d, s ^^^ subByte a]
    else if i % 8 = 4 then [p ^^^ subByte a, q ^^^ subByte b, r ^^^ subByte c, s ^^^ subByte d]
    else [p ^^^ a, q ^^^ b, r ^^^ c, s ^^^ d]
  | _, _ => []

/-- The key schedule: from the last eight words, newest last, the next words one at a time. -/
def keyWords : Nat → Nat → Nat → List (List Nat) → List (List Nat)
  | n + 1, i, rcon, [w0, w1, w2, w3, w4, w5, w6, w7] =>
    let x := keyWord i rcon w7 w0
    x :: keyWords n (i + 1) (if i % 8 = 0 then xtime rcon else rcon) [w1, w2, w3, w4, w5, w6, w7, x]
  | _, _, _, _ => []

/-- A string in pieces of `n`; `k` bounds their number. -/
def pieces {α : Type} [DecidableEq α] (n : Nat) : Nat → List α → List (List α)
  | 0, _ => []
  | k + 1, bs => if bs = [] then [] else bs.take n :: pieces n k (bs.drop n)

/-- The fifteen round keys of AES-256. -/
def roundKeys (key : List Byte) : List (List Nat) :=
  let w := pieces 4 8 (key.map fun b => b.toNat)
  pieces 16 15 ((w ++ keyWords 52 8 1 w).flatMap id)

def aesRounds : List (List Nat) → List Nat → List Nat
  | [], s => s
  | [k], s => addKey (shiftRows (s.map subByte)) k
  | k :: ks, s => aesRounds ks (addKey (mixColumns (shiftRows (s.map subByte))) k)

def aesRoundsInv : List (List Nat) → List Nat → List Nat
  | [], s => s
  | [k], s => addKey ((shiftRowsInv s).map subByteInv) k
  | k :: ks, s => aesRoundsInv ks (mixColumnsInv (addKey ((shiftRowsInv s).map subByteInv) k))

/-- A block through rounds under round keys, the first of which is only added. -/
def aesBlock (rounds : List (List Nat) → List Nat → List Nat) (ks : List (List Nat)) (b : List Byte) : List Byte :=
  (rounds (ks.drop 1) (addKey (b.map fun x => x.toNat) (ks.getD 0 []))).map fun x => BitVec.ofNat 8 x

/-- One block enciphered. -/
def aesEnc (ks : List (List Nat)) (b : List Byte) : List Byte := aesBlock aesRounds ks b

/-- One block deciphered. -/
def aesDec (ks : List (List Nat)) (b : List Byte) : List Byte := aesBlock aesRoundsInv ks.reverse b

/-! ### Key wrap KW -/

def kwIv : List Byte := List.replicate 8 0xA6

/-- The blocks of one pass; `t` is the step number before it. -/
def kwPass (ks : List (List Nat)) : Nat → List Byte → List (List Byte) → List Byte × List (List Byte)
  | _, a, [] => (a, [])
  | t, a, r :: rs =>
    let b := aesEnc ks (a ++ r)
    let a := xorBytes (b.take 8) (beBytes 8 (t + 1))
    let (a', rs') := kwPass ks (t + 1) a rs
    (a', b.drop 8 :: rs')

def kwPasses (ks : List (List Nat)) (n : Nat) : Nat → Nat → List Byte → List (List Byte) → List Byte × List (List Byte)
  | 0, _, a, rs => (a, rs)
  | j + 1, t, a, rs =>
    let (a, rs) := kwPass ks t a rs
    kwPasses ks n j (t + n) a rs

/-- KW: the data, a multiple of 8 bytes, wrapped under a 256-bit key. -/
def keyWrap (key data : List Byte) : List Byte :=
  let rs := pieces 8 (data.length / 8) data
  let (a, rs) := kwPasses (roundKeys key) rs.length 6 0 kwIv rs
  a ++ rs.flatMap id

/-- The reverse of a pass, over the blocks last first. -/
def kwUnpass (ks : List (List Nat)) : Nat → List Byte → List (List Byte) → List Byte × List (List Byte)
  | _, a, [] => (a, [])
  | t, a, r :: rs =>
    let b := aesDec ks (xorBytes a (beBytes 8 t) ++ r)
    let (a', rs') := kwUnpass ks (t - 1) (b.take 8) rs
    (a', b.drop 8 :: rs')

def kwUnpasses (ks : List (List Nat)) (n : Nat) : Nat → Nat → List Byte → List (List Byte) → List Byte × List (List Byte)
  | 0, _, a, rs => (a, rs)
  | j + 1, t, a, rs =>
    let (a, rs) := kwUnpass ks t a rs
    kwUnpasses ks n j (t - n) a rs

/-- The unwrapped data, none when the integrity check fails. -/
def keyUnwrap (key data : List Byte) : Option (List Byte) :=
  let rs := (pieces 8 (data.length / 8) (data.drop 8)).reverse
  let (a, rs) := kwUnpasses (roundKeys key) rs.length 6 (6 * rs.length) (data.take 8) rs
  if a = kwIv then some (rs.reverse.flatMap id) else none

/-! ### GCM -/

/-- Multiplication in GF(2^128), the first bit of a block its most significant. -/
def ghMul (x y : BitVec 128) : BitVec 128 :=
  ((List.range 128).foldl (fun (p : BitVec 128 × BitVec 128) i =>
    (if x.getLsbD (127 - i) then p.1 ^^^ p.2 else p.1,
      if p.2.getLsbD 0 then (p.2 >>> 1) ^^^ 0xE1000000000000000000000000000000 else p.2 >>> 1)) (0, y)).1

def block128 (b : List Byte) : BitVec 128 := BitVec.ofNat 128 (beNat b)
def padBlock (bs : List Byte) : List Byte := bs ++ List.replicate ((16 - bs.length % 16) % 16) 0

/-- GHASH of additional data and ciphertext. -/
def ghash (h : BitVec 128) (aad c : List Byte) : BitVec 128 :=
  let all := padBlock aad ++ padBlock c ++ beBytes 8 (8 * aad.length) ++ beBytes 8 (8 * c.length)
  (pieces 16 (all.length / 16) all).foldl (fun y b => ghMul (y ^^^ block128 b) h) 0

/-- Counter mode from counter `k` on. -/
def gctr (ks : List (List Nat)) (iv : List Byte) : Nat → List (List Byte) → List Byte
  | _, [] => []
  | k, b :: bs => xorBytes b (aesEnc ks (iv ++ beBytes 4 k)) ++ gctr ks iv (k + 1) bs

def gcmTag (ks : List (List Nat)) (iv aad c : List Byte) : List Byte :=
  let h := block128 (aesEnc ks (List.replicate 16 0))
  beBytes 16 (ghash h aad c ^^^ block128 (aesEnc ks (iv ++ beBytes 4 1))).toNat

/-- Sealing with a 96-bit IV: ciphertext and tag. -/
def gcmSeal (key iv aad plain : List Byte) : List Byte × List Byte :=
  let ks := roundKeys key
  let c := gctr ks iv 2 (pieces 16 (plain.length / 16 + 1) plain)
  (c, gcmTag ks iv aad c)

/-- Opening: the plaintext, none when the tag fails. -/
def gcmOpen (key iv aad c tag : List Byte) : Option (List Byte) :=
  let ks := roundKeys key
  if gcmTag ks iv aad c = tag then some (gctr ks iv 2 (pieces 16 (c.length / 16 + 1) c)) else none

end Sys2Proof.Machine
end

