-- ==== Sys2Proof/Machine/Flash.lean ====
section
/-! DEFINITION. Program flash as the module itself reads and writes it (R109, R110). -/

namespace Sys2Proof.Machine

def inFlash (a len : Nat) : Bool := decide (0x08000000 ≤ a ∧ a + len ≤ 0x08800000)
def flashRead (s : State) (a n : Nat) : List Byte := memBytes norBlank s.mem.flash a n

/-- Some byte of the range is PUF helper data, which nothing programs or erases (R110). -/
def touchesPuf (a n : Nat) : Bool := decide (0 < n ∧ a < 0x087F9000 ∧ 0x087F8000 < a + n)

/-- Bytes placed in flash: the range is erased where it must be and programmed (log entry 17). -/
def flashProgram (a : Nat) (bs : List Byte) (s : State) : State :=
  if touchesPuf a bs.length then s
  else dropBanks a bs.length { s with mem := { s.mem with flash := memStore norBlank s.mem.flash a bs } }

def flashErase (a n : Nat) (s : State) : State :=
  if touchesPuf a n then s else dropBanks a n { s with mem := { s.mem with flash := memErase s.mem.flash a n } }

end Sys2Proof.Machine
end

