-- ==== Sys2Proof/Machine/Services.lean ====
section
/-! DEFINITION. What the resident firmware's services share: who asks, the probe of the caller's memory, and how a
completion reaches its caller (15, 19, 21). -/

namespace Sys2Proof.Machine

/-! ### The caller -/

/-- Who asks a service, and what memory it names (R330, R425, R475, R485). -/
structure Asker where
  caller : Caller
  src : Fin 22
  encl : Bool
  tag : Byte
  bay : Option Bay
  byBay : Bool
  at' : Attr
  /-- where the caller's addresses count from, and how far they reach -/
  base : Nat
  size : Option Nat
  deriving DecidableEq, Repr

/-- A thread in STILE, or an Enclosure thread on its own behalf. -/
def threadAsker (s : State) (t : Thread) (caller : Caller) : Asker :=
  let tag := vget s.guard.towner t
  { caller := caller, src := ⟨t.val, by omega⟩, encl := homeEncl s t, tag := tag, bay := actingBay s t, byBay := false
    at' := { bay := none, owner := tag }, base := 0, size := none }

/-- A bay's command: offsets in its window, under its queue's owner tag (R425). -/
def bayAsker (s : State) (b : Bay) (slot : Fin 256) (tag : Byte) : Asker :=
  { caller := .cmd b slot, src := ⟨16 + b.val, by omega⟩, encl := false, tag := tag, bay := some b, byBay := true
    at' := { bay := some b, owner := tag }, base := winBase s b, size := some (winSize s b) }

/-! ### The probe (R331) -/

/-- GUARD.PROBE's answer: SRAM, or flash that is not to be written (R502), and granted by the guards; a length of 0 is
refused. -/
def probeAllows (s : State) (at' : Attr) (perm : BitVec 3) (a len : Nat) : Bool :=
  decide (0 < len) && (inSram a len || (inFlash a len && !perm.getLsbD 1)) && guardPasses s at' perm a len

/-- The caller may use this range of SRAM with this permission; nothing is asked of an empty range. -/
def reaches (s : State) (k : Asker) (perm : BitVec 3) (off len : Nat) : Bool :=
  decide (len = 0) ||
    ((match k.size with
      | none => true
      | some n => decide (off + len ≤ n)) && inSram (k.base + off) len &&
      (k.encl || guardPasses s k.at' perm (k.base + off) len))

/-- The caller's bytes. -/
def callerBytes (s : State) (k : Asker) (off len : Nat) : List Byte := sramRead s (k.base + off) len

/-! ### Service registers (R327 to R330) -/

def stileReg (s : State) (t : Thread) (k : Nat) : Word := (thr s t).encl.getD k 0

/-- A Commons thread inside STILE whose Enclosure bank names service `n`, or an Enclosure thread acting for itself. -/
def serving (s : State) (t : Thread) (n : Nat) : Bool :=
  enclRuns s && (homeEncl s t || ((thr s t).stile.isSome && decide (stileReg s t 1 = BitVec.ofNat 32 n)))

/-- g4 takes the status, g5 and g6 the results, g7 to g11 zero (R13, R330, R426). -/
def svcResults (t : Thread) (status : Byte) (v1 v2 v3 : Word) (s : State) : State :=
  let x := thr s t
  let put := fun (v : Vector Word 32) (k : Fin 32) (w : Word) => vset v k w
  let e := put (put (put (put (put (put (put (put x.encl 4 (status.setWidth 32)) 5 v1) 6 v2) 7 v3) 8 0) 9 0) 10 0) 11 0
  setThr s t { x with encl := e }

/-- A Commons thread inside STILE whose Enclosure bank names a service that R330 does not list. -/
def unlisted (s : State) (t : Thread) : Bool :=
  enclRuns s && !homeEncl s t && (thr s t).stile.isSome && decide (8 ≤ (stileReg s t 1).toNat)

/-- A call whose arguments the service refuses: status OK and zeros (R330). -/
def svcSilent (t : Thread) (s : State) : State := svcResults t 0 0 0 0 s

/-- The target may take the caller's completions: a flow that is enabled, of the caller's world and no other bay's, and one
of its operand indexes (R261, R268; log entries 18 and 125). -/
def completionFlowOk (s : State) (k : Asker) (target : Word) : Bool :=
  let f := targetFlow target
  let fl := flow s f
  indexOk s f (targetIndex target) && fl.en && (fl.world == k.encl) && (match k.bay with
    | none => true
    | some b => decide (fl.bay = 0xFF) || decide (fl.bay.toNat = b.val))

/-! ### Completions (R330, R426, R474) -/

/-- PAYLOAD of a completion task (R426): descriptor address, status, verdict and value. -/
def donePayload (addr : Word) (status verdict : Byte) (value : Word) : BitVec 320 :=
  BitVec.ofNat 320 (addr.toNat + status.toNat * 2 ^ 32 + verdict.toNat * 2 ^ 40 + value.toNat * 2 ^ 64)

/-- The descriptor of the task that carries a bay command. -/
def cmdDesc (s : State) (b : Bay) (slot : Fin 256) : Option (Fin 1024) :=
  (fins 1024).find? fun d => decide ((desc s d).st ≠ .free) && decide ((b, slot) ∈ (desc s d).life.slots)

/-- A command that the firmware carries out has ended: its task's atomic lock is freed and it is released in its turn
(R253, R254, R381). -/
def endCmd (b : Bay) (slot : Fin 256) (status : Byte) (result : DWord) (s : State) : State :=
  match cmdDesc s b slot with
  | none => bayCmdDone b slot status result s
  | some d =>
    let x := desc s d
    let fl := flow s x.flow.toNat
    let s := if fl.kind = 0 ∧ x.st = .dispatched then setFlow s x.flow.toNat { fl with locked := false, freedAt := s.drill.time.toNat } else s
    let s := setDesc s d { x with st := .releasing, life := { x.life with ended := true, status := worstStatus x.life.status status
                                                                          result := result } }
    if releasable s d then releaseDesc d s else s

/-- A completion reaches its caller: of a request with WAIT 0, as a task of its flow or a tagged operand, which the credit
reserved for it carries; none while it finds no descriptor or entry (R261, R330, R378, R426). A caller that is gone is
passed over (R344). -/
def deliverDone (src : Byte) (caller : Caller) (status verdict : Byte) (value : Word) (s : State) : Option State :=
  match caller with
  | .fold => some s
  | .wait t =>
    if (thr s t).stile.isSome ∨ homeEncl s t then some (svcResults t status value (verdict.setWidth 32) 0 s) else some s
  | .cmd b slot =>
    some (endCmd b slot status (BitVec.ofNat 64 (value.toNat + verdict.toNat * 2 ^ 32)) s)
  | .flow _ target addr =>
    let f := targetFlow target
    let x : Desc := { src := src, tag := if (flow s f).ready then targetTag target else 0
                      payload := donePayload addr status verdict value }
    match admitTagged f true (targetTag target) (targetIndex target) x s with
    | (.refused, _) => none
    | (_, s) => some s

/-- The caller of a request with WAIT 0 holds a credit of its completion flow (R452). -/
def reserveDone (caller : Caller) (s : State) : State := match caller with
  | .flow _ target _ => takeCredit (targetFlow target) s
  | _ => s

end Sys2Proof.Machine
end

