-- ==== Sys2Proof/Machine/Ledger.lean ====
section
/-! DEFINITION. The ledger: requests and their completions, counters, the patrol, and the retirement fold (21, 11). -/

namespace Sys2Proof.Machine

def okNext (s : State) : Host.Outcome State Fault Refusal := .next s

/-! ### Requests (R474, R475) -/

/-- LDG verdicts: DONE, EMPTY, NOT_NEWER, TOO_FAR. -/
def ldgDone : Byte := 0
def ldgEmpty : Byte := 1
def ldgNotNewer : Byte := 2
def ldgTooFar : Byte := 3

/-- The request's form, all but who makes it (R474): a known opcode, PART 0, 1 or 3 for record operations and zero
otherwise, LEN at most 48, the zero field zero, INDEX in range, a TYPE for LOG (log entry 19). -/
def ldgFormOk (opc part index len type pad : Nat) : Bool :=
  decide (len ≤ 48 ∧ pad = 0) &&
    match opc with
    | 0x01 | 0x02 | 0x03 => decide ((part = 0 ∧ index ≤ 127) ∨ (part = 1 ∧ index ≤ 383))
    | 0x10 | 0x11 => decide (part = 0 ∧ index ≤ 127)
    | 0x20 => decide (part = 0 ∧ 1 ≤ type)
    | 0x21 => decide (part = 0 ∧ index ≤ 511)
    | _ => false

/-- The owner that the seed assigns a counter (R466). -/
def counterOwner (s : State) (c : Nat) : Option Nat := (seedFind s 0x10 1 c).map fun e => e.num 1 1

/-- Who may make which request (R475). -/
def ldgMay (s : State) (encl : Bool) (tag : Byte) (opc part index type : Nat) : Bool :=
  match opc with
  | 0x01 | 0x02 | 0x03 => encl || decide (part = 1)
  | 0x10 => encl || (decide (8 ≤ index) && decide (counterOwner s index = some tag.toNat))
  | 0x11 =>
    if encl then decide (index = 0 ∨ (4 ≤ index ∧ index ≤ 7))
    else decide (8 ≤ index) && decide (counterOwner s index = some tag.toNat)
  | 0x20 => encl || decide (0x80 ≤ type)
  | 0x21 => true
  | _ => false

/-- The direction and the length of the buffer that a request names. -/
def ldgBuffer (opc len : Nat) : BitVec 3 × Nat :=
  if opc = 0x02 ∨ opc = 0x20 then (permR, len) else if opc = 0x01 ∨ opc = 0x21 then (permW, 64) else (permR, 0)

/-- What the service makes of a request. -/
inductive LdgTake where
  | silent
  | violation
  | busy
  | queued (r : LdgReq)

/-- The ledger service reads the 16-byte descriptor (R331, R474, R475). -/
def ldgTake (s : State) (k : Asker) (addr : Nat) : LdgTake :=
  if !reaches s k permR addr 16 then .silent
  else
    let d := callerBytes s k addr 16
    let opc := leNat (d.take 1)
    let part := leNat ((d.drop 1).take 1)
    let index := leNat ((d.drop 2).take 2)
    let buf := leNat ((d.drop 4).take 4)
    let len := leNat ((d.drop 8).take 1)
    let type := leNat ((d.drop 9).take 1)
    let pad := leNat ((d.drop 10).take 2)
    let arg := leNat ((d.drop 12).take 4)
    if !ldgFormOk opc part index len type pad || !ldgMay s k.encl k.tag opc part index type then .violation
    else
      let (perm, n) := ldgBuffer opc len
      if !reaches s k perm buf n then .silent
      else if 16 ≤ s.ldg.lgq.length then .busy
      else
        .queued { caller := k.caller, src := BitVec.ofNat 8 k.src.val, encl := k.encl, tag := k.tag, malformed := false
                  opc := BitVec.ofNat 8 opc, part := BitVec.ofNat 8 part, index := BitVec.ofNat 16 index
                  buf := BitVec.ofNat 32 (k.base + buf), type := BitVec.ofNat 8 type
                  data := if opc = 0x02 ∨ opc = 0x20 then callerBytes s k buf len else [], arg := BitVec.ofNat 32 arg }

def pushLgq (r : LdgReq) (s : State) : State :=
  qJoin 96 8 s.ldg.lgq.length { s with ldg := { s.ldg with lgq := s.ldg.lgq ++ [r] } }

/-- SVC_LEDGER's work for a thread (R330, R474, R452). -/
def svcLedgerOp (t : Thread) (s : State) : State :=
  let addr := (stileReg s t 5).toNat
  let wait := (stileReg s t 6).getLsbD 0
  let target := stileReg s t 7
  let f := targetFlow target
  let k := threadAsker s t (if wait then .wait t else .flow t target (BitVec.ofNat 32 addr))
  if !wait && !completionFlowOk s k target then svcSilent t s
  else
    match ldgTake s k addr with
    | .silent => svcSilent t s
    | .violation => svcSilent t (violateSrc t.val .block (BitVec.ofNat 32 addr) true false s)
    | .busy => svcResults t 1 0 0 0 (if wait then s else countRefusal f s)
    | .queued r =>
      if wait then pushLgq r s
      else if freeCredits (flow s f) = 0 then svcResults t 1 0 0 0 (countRefusal f s)
      else svcResults t 0 0 0 0 (pushLgq r (takeCredit f s))

/-! ### What the array does (R460, R462, R465, R469, R471) -/

/-- The head of LGQ gives way to its completion in LGC. -/
def ldgAnswer (r : LdgReq) (status verdict : Byte) (value : Nat) (prot : Bool) (image : List Byte) (s : State) : State :=
  let d : LdgDone := { caller := r.caller, status := status, verdict := verdict, value := BitVec.ofNat 32 value, prot := prot
                       image := image, buf := r.buf }
  let s := qLeave 96 8 s.ldg.lgq.length { s with ldg := { s.ldg with lgq := s.ldg.lgq.drop 1 } }
  qJoin 97 8 s.ldg.lgc.length { s with ldg := { s.ldg with lgc := s.ldg.lgc ++ [d] } }

/-- A group found bad in a slot: UNCORR, the slot invalid, and one TYPE 0x08 entry (R460). -/
def uncorrectableIn (part slot : Nat) (s : State) : State :=
  let s := { s with ldg := { s.ldg with uncorr := satInc s.ldg.uncorr
                                        bad := if (part, slot) ∈ s.ldg.bad then s.ldg.bad else (part, slot) :: s.ldg.bad } }
  if (part, slot) ∈ s.ldg.logged then s
  else
    let s := { s with ldg := { s.ldg with logged := (part, slot) :: s.ldg.logged } }
    if enclRuns s then
      fwLog 8 [BitVec.ofNat 8 part, 0, BitVec.ofNat 8 slot, BitVec.ofNat 8 (slot / 256)] s
    else s

/-- What a read of a slot met in its check bits. -/
def eccMet (e : Ecc) (part slot : Nat) (s : State) : State :=
  match e with
  | .clean => s
  | .corrected k => { s with ldg := { s.ldg with corr := satAdd s.ldg.corr k } }
  | .uncorrectable => uncorrectableIn part slot s

/-- P0 is out of reach and requests are turned away: Limp reason 2 (R93, R474). -/
def ldgHalted (s : State) : Bool := limpReason s 2

/-- A row of an opcode: it acts on the request at the head of LGQ. -/
def onRequest (opc : Byte) (act : LdgReq → State → State) (s : State) : State :=
  match s.ldg.lgq with
  | [] => s
  | r :: _ =>
    if r.opc ≠ opc ∨ ¬ mainOn s then s
    else if ldgHalted s then ldgAnswer r 6 0 0 false [] s
    else act r s

def ldgReadOp (e : Ecc) (r : LdgReq) (s : State) : State :=
  let part := r.part.toNat
  let i := r.index.toNat
  let s := eccMet e part ((recordSlot s part i).getD (2 * i)) s
  match recordSlot s part i with
  | none => ldgAnswer r 0 ldgEmpty 0 false (List.replicate 64 0) s
  | some k => ldgAnswer r 0 ldgDone (slotSeq s part k) false (slotBytesAt s part k) s

def ldgWriteOp (r : LdgReq) (s : State) : State :=
  let part := r.part.toNat
  let i := r.index.toNat
  let seq := (recordTarget s part i).2
  if ldgProtected s part then ldgAnswer r 0 ldgDone seq true [] (countProt s)
  else ldgAnswer r 0 ldgDone seq false [] (writeRecord part i r.data.length r.data s)

def ldgEraseOp (r : LdgReq) (s : State) : State :=
  let part := r.part.toNat
  let i := r.index.toNat
  match recordSlot s part i with
  | none => ldgAnswer r 0 ldgEmpty 0 false [] s
  | some k =>
    let seq := slotSeq s part k
    if ldgProtected s part then ldgAnswer r 0 ldgDone seq true [] (countProt s)
    else ldgAnswer r 0 ldgDone seq false [] (wipeSlot part (2 * i) (wipeSlot part (2 * i + 1) s))

def ldgAdvanceOp (r : LdgReq) (s : State) : State :=
  let c := r.index.toNat
  let v := counterValue s c
  let t := r.arg.toNat
  if t ≤ v then ldgAnswer r 0 ldgNotNewer v false [] s
  else if 64 < t - v then ldgAnswer r 0 ldgTooFar v false [] s
  else if ldgProtected s 2 then ldgAnswer r 0 ldgDone t true [] (countProt s)
  else ldgAnswer r 0 ldgDone t false [] (stepCounterN c (t - v) s)

def ldgLogOp (r : LdgReq) (s : State) : State :=
  if ldgProtected s 3 then ldgAnswer r 0 ldgDone (logSlot s) true [] (countProt s)
  else
    let (k, s) := appendLog r.type.toNat r.src.toNat r.data s
    ldgAnswer r 0 ldgDone k false [] s

def ldgLreadOp (e : Ecc) (r : LdgReq) (s : State) : State :=
  let k := r.index.toNat
  let s := eccMet e 3 k s
  if slotValid s 3 k then ldgAnswer r 0 ldgDone (slotSeq s 3 k) false (slotBytesAt s 3 k) s
  else ldgAnswer r 0 ldgEmpty 0 false (List.replicate 64 0) s

/-- READ (R460, R462, R474). -/
def execLedgerRead (ecc : Ecc) (s : State) : Host.Outcome State Fault Refusal := .next (onRequest 0x01 (ldgReadOp ecc) s)
/-- WRITE (R462, R469, R474). -/
def execLedgerWrite (s : State) : Host.Outcome State Fault Refusal := .next (onRequest 0x02 ldgWriteOp s)
/-- ERASE (R462, R469, R474). -/
def execLedgerErase (s : State) : Host.Outcome State Fault Refusal := .next (onRequest 0x03 ldgEraseOp s)
/-- CREAD (R463, R474). -/
def execCread (s : State) : Host.Outcome State Fault Refusal :=
  .next (onRequest 0x10 (fun r s => ldgAnswer r 0 ldgDone (counterValue s r.index.toNat) false [] s) s)
/-- CADVANCE (R465, R469). -/
def execCadvance (s : State) : Host.Outcome State Fault Refusal := .next (onRequest 0x11 ldgAdvanceOp s)
/-- LOG (R471, R474). -/
def execLog (s : State) : Host.Outcome State Fault Refusal := .next (onRequest 0x20 ldgLogOp s)
/-- LREAD (R460, R474). -/
def execLread (ecc : Ecc) (s : State) : Host.Outcome State Fault Refusal := .next (onRequest 0x21 (ldgLreadOp ecc) s)

/-- COUNTER_INCREMENT (R464, R466): an increment by the hardware port, of counters 1 to 3. -/
def execCounterIncrement (c : Fin 4) (s : State) : Host.Outcome State Fault Refusal :=
  .next (if c.val = 0 ∨ ¬ mainOn s then s else (incrementCounter c.val s).2)

/-! ### Completions (R238, R469, R474) -/

/-- The completion at the head of LGC is read. -/
def popLgc (s : State) : State := qLeave 97 8 s.ldg.lgc.length { s with ldg := { s.ldg with lgc := s.ldg.lgc.drop 1 } }

/-- The image of a READ or LREAD is laid down at its buffer (log entry 20). -/
def layImage (d : LdgDone) (s : State) : State := if d.image = [] then s else sramWrite d.buf.toNat d.image s

/-- LEDGER_COMPLETION (R474, R238): a completion reaches its caller; a fold that met NV_PROT leaves PENDING. -/
def execLedgerCompletion (s : State) : Host.Outcome State Fault Refusal :=
  .next (match s.ldg.lgc with
  | [] => s
  | d :: _ =>
    if d.caller = .fold then (if d.prot ∨ d.status ≠ 0 then popLgc s else s)
    else
      match deliverDone 7 d.caller d.status d.verdict d.value (layImage d s) with
      | none => s
      | some s' => popLgc s')

/-- RETIRE_FOLD_DONE (R237, R238): the fold's completion without PROT; PENDING clears with no record left to write and no
later fold on its way. -/
def execRetireFoldDone (s : State) : Host.Outcome State Fault Refusal :=
  .next (match s.ldg.lgc with
  | [] => s
  | d :: _ =>
    if d.caller = .fold ∧ ¬ d.prot ∧ d.status = 0 then
      let s := popLgc s
      let more := decide (s.chs.toFold ≠ []) || (s.ldg.lgq.any fun r => decide (r.caller = .fold)) ||
        (s.ldg.lgc.any fun r => decide (r.caller = .fold))
      { s with chs := { s.chs with retirePending := more } }
    else s)

/-! ### The patrol (R467, R468, R473) -/

/-- The stored record 1: next row, CAL.SEC and VALID of the last pass end. -/
def patrolRecord (s : State) : Option (Nat × Nat × Bool) :=
  (recordData s 0 1).map fun d => (leNat (d.take 2), leNat ((d.drop 2).take 6), (leNat ((d.drop 8).take 1)).testBit 0)

/-- A start pass is due (R468). -/
def startPassDue (s : State) : Bool :=
  match patrolRecord s with
  | none => true
  | some (_, sec, ok) => !s.bkp.cal.valid || !ok || decide (2592000 < s.bkp.cal.sec.toNat - sec)

/-- The patrol goes on from the recorded row (R468). -/
def loadPatrol (s : State) : State :=
  let row := match patrolRecord s with
    | none => 0
    | some (r, _, _) => r % 1536
  { s with ldg := { s.ldg with row := BitVec.ofNat 11 row, visits := 0 } }

/-- Record 1 written with the position and the end of the last pass; exempt from NV_PROT. -/
def writePatrol (ended : Bool) (s : State) : State :=
  let old := (patrolRecord s).map fun p => (p.2.1, p.2.2)
  let (sec, ok) := if ended then (s.bkp.cal.sec.toNat, s.bkp.cal.valid) else old.getD (0, false)
  let s := writeRecord 0 1 9 (leBytes 2 s.ldg.row.toNat ++ leBytes 6 sec ++ leBytes 1 (bit ok)) s
  { s with ldg := { s.ldg with visits := 0 } }

/-- A record rewritten with its own fields but a SEQ one higher (R467). -/
def refreshRecord (part r : Nat) (s : State) : State :=
  match recordSlot s part r with
  | none => s
  | some k =>
    let bs := slotBytesAt s part k
    let (k', seq) := recordTarget s part r
    let img := makeSlot (leNat (bs.take 2)) (leNat ((bs.drop 2).take 1)) (leNat ((bs.drop 3).take 1)) (seq % 2 ^ 32)
      (leNat ((bs.drop 8).take 6)) (bs.drop 16)
    putSlot part k' img s

/-- A weak row is made good: in P0 its record is rewritten, in P2 its programmed bits are programmed again. -/
def refreshRow (row : Nat) (s : State) : State :=
  let s := if row < 512 then refreshRecord 0 (row / 4) s else s
  { s with ldg := { s.ldg with rewrites := satInc s.ldg.rewrites } }

/-- The patrol runs in this mode (R468). -/
def patrolRuns (s : State) : Bool :=
  decide (s.sys.mode = Mode.run ∨ s.sys.mode = Mode.service) ||
    (decide (s.sys.mode = Mode.limp) && !limpReason s 4)

/-- PATROL_VISIT (R467, R468): one row; P0 is skipped in Limp reason 2. -/
def execPatrolVisit (weak : Bool) (s : State) : Host.Outcome State Fault Refusal :=
  .next (if !patrolRuns s then s
  else
    let row := if ldgHalted s ∧ s.ldg.row.toNat < 512 then 512 else s.ldg.row.toNat
    let s := if weak then refreshRow row s else s
    let next := (row + 1) % 1536
    let s := { s with ldg := { s.ldg with row := BitVec.ofNat 11 next, visits := s.ldg.visits + 1 } }
    if next % 64 = 0 ∧ ¬ ldgHalted s then writePatrol (decide (next = 0)) s else s)

/-- START_PASS (R468): every row back to back; it ends a pass (log entry 21). -/
def execStartPass (weakRows : List Nat) (s : State) : Host.Outcome State Fault Refusal :=
  .next (if !s.ldg.passDue || !mainOn s then s
  else
    let s := ((List.range 1536).filter fun r => decide (r ∈ weakRows) && !(ldgHalted s && decide (r < 512))).foldl
      (fun s r => refreshRow r s) s
    let s := { s with ldg := { s.ldg with row := 0, passDue := false } }
    if ldgHalted s then s else writePatrol true s)

/-! ### Unretiring (R242) -/

/-- A channel, or both of its pair, returns to service: the mask bit, an UNRETIRE entry, the fold, a channel reset. -/
def unretireChannel (n : Chan) (s : State) : State :=
  let g := group s n
  let s := g.foldl (fun s k =>
    let s := { s with chs := { s.chs with retired := setBits s.chs.retired k.val 1 0 } }
    fwLog 2 ([BitVec.ofNat 8 k.val, 0, 0, 0] ++ bytesOf s.seed.digest 0 8) s) s
  resetChannel n (requestFold s)

/-- The scope bits of R486 that are granted now. -/
def scopeHas (s : State) (k : Nat) : Bool := s.hld.scope.getLsbD k

/-- SYS_UNRETIRE_WRITE (R242, R244): SYS.UNRETIRE written with KEY 0x9E by the Enclosure in Service under scope
REPAIR. -/
def unretireWrite (r : Req) (n : Chan) (s : State) : State :=
  if s.sys.mode = Mode.service ∧ isEncl s r ∧ scopeHas s 6 ∧ isRetired s n then unretireChannel n s else s

def execSysUnretireWrite (r : Req) (n : Chan) (s : State) : Host.Outcome State Fault Refusal :=
  .next (tryWrite r 0x54000814 (isEncl s r) (unretireWrite r n) s)

end Sys2Proof.Machine
end

