-- ==== Sys2Proof/Machine/Curve.lean ====
section
/-! DEFINITION. The curve P-256 and ECDSA over it (FIPS 186-5), as the manual's rules R112, R140 and the Granary's
commands use them. Points are Option of affine coordinates, none the point at infinity (log entry 9). -/

namespace Sys2Proof.Machine

def p256P : Nat := 2 ^ 256 - 2 ^ 224 + 2 ^ 192 + 2 ^ 96 - 1
def p256N : Nat := 0xFFFFFFFF00000000FFFFFFFFFFFFFFFFBCE6FAADA7179E84F3B9CAC2FC632551
def p256B : Nat := 0x5AC635D8AA3A93E7B3EBBD55769886BC651D06B0CC53B0F63BCE3C3E27D2604B
def p256Gx : Nat := 0x6B17D1F2E12C4247F8BCE6E563A440F277037D812DEB33A0F4A13945D898C296
def p256Gy : Nat := 0x4FE342E2FE1A7F9B8EE7EB4A7C0F9E162BCE33576B315ECECBB6406837BF51F5

abbrev Point := Option (Nat × Nat)

/-- `a * b` in the field of `m`. -/
def mulMod (m a b : Nat) : Nat := a * b % m

/-- `a - b` in the field of `m`, both below `m`. -/
def subMod (m a b : Nat) : Nat := (a + m - b % m) % m

/-- `b ^ e` modulo `m`, over the low `n` bits of `e`, from the top bit down. -/
def powMod (m b e : Nat) : Nat → Nat → Nat
  | 0, acc => acc
  | n + 1, acc =>
    let sq := acc * acc % m
    powMod m b e n (if e.testBit n then sq * b % m else sq)

/-- The inverse modulo a prime of at most 256 bits. -/
def invMod (m a : Nat) : Nat := powMod m (a % m) (m - 2) 256 1

/-- Whether the pair is a point of the curve y² = x³ − 3x + b with both coordinates below p. -/
def onCurve (x y : Nat) : Bool :=
  decide (x < p256P) && decide (y < p256P) &&
    decide (y * y % p256P = (x * x * x + (p256P - 3) * x + p256B) % p256P)

/-- The point with its slope given. -/
def chord (l x1 y1 x2 : Nat) : Point :=
  let x3 := subMod p256P (subMod p256P (mulMod p256P l l) x1) x2
  some (x3, subMod p256P (mulMod p256P l (subMod p256P x1 x3)) y1)

def pointAdd : Point → Point → Point
  | none, q => q
  | some p, none => some p
  | some (x1, y1), some (x2, y2) =>
    if x1 = x2 then
      if (y1 + y2) % p256P = 0 then none
      else chord (mulMod p256P (3 * x1 * x1 + (p256P - 3)) (invMod p256P (2 * y1))) x1 y1 x2
    else chord (mulMod p256P (subMod p256P y2 y1) (invMod p256P (subMod p256P x2 x1))) x1 y1 x2

/-! Multiplication runs in Jacobian coordinates, (x, y, z) for the point (x / z², y / z³) and z = 0 for the point at
infinity, so that one inversion serves the whole product. -/

abbrev Jacobian := Nat × Nat × Nat

def atInfinity : Jacobian := (1, 1, 0)

/-- Twice a point, with the curve's coefficient −3. -/
def pointDouble (p : Jacobian) : Jacobian :=
  let (x, y, z) := p
  if z = 0 ∨ y = 0 then atInfinity
  else
    let yy := mulMod p256P y y
    let zz := mulMod p256P z z
    let b := mulMod p256P x yy
    let a := 3 * mulMod p256P (subMod p256P x zz) (x + zz)
    let x3 := subMod p256P (mulMod p256P a a) (8 * b)
    (x3, subMod p256P (mulMod p256P a (subMod p256P (4 * b % p256P) x3)) (8 * yy * yy), mulMod p256P 2 (y * z))

/-- A point plus one in affine coordinates. -/
def pointPlus (p : Jacobian) (q : Nat × Nat) : Jacobian :=
  let (x1, y1, z1) := p
  if z1 = 0 then (q.1, q.2, 1)
  else
    let zz := mulMod p256P z1 z1
    let h := subMod p256P (mulMod p256P q.1 zz) x1
    let r := subMod p256P (mulMod p256P q.2 (mulMod p256P z1 zz)) y1
    if h = 0 then (if r = 0 then pointDouble p else atInfinity)
    else
      let hh := mulMod p256P h h
      let hhh := mulMod p256P h hh
      let v := mulMod p256P x1 hh
      let x3 := subMod p256P (subMod p256P (mulMod p256P r r) hhh) (2 * v)
      (x3, subMod p256P (mulMod p256P r (subMod p256P v x3)) (y1 * hhh), mulMod p256P z1 h)

def affine (p : Jacobian) : Point :=
  let (x, y, z) := p
  if z = 0 then none
  else
    let i := invMod p256P z
    let ii := mulMod p256P i i
    some (mulMod p256P x ii, mulMod p256P y (mulMod p256P ii i))

/-- `k` times a point, over the low `n` bits of `k`, from the top bit down. -/
def pointMulFrom (k : Nat) (q : Nat × Nat) : Nat → Jacobian → Jacobian
  | 0, acc => acc
  | n + 1, acc =>
    let d := pointDouble acc
    pointMulFrom k q n (if k.testBit n then pointPlus d q else d)

def pointMul (k : Nat) : Point → Point
  | none => none
  | some q => affine (pointMulFrom k q 256 atInfinity)

def basePoint : Point := some (p256Gx, p256Gy)

/-- A 64-byte public key, X then Y, each 32 bytes big-endian (R111). -/
def keyPoint (key : List Byte) : Option (Nat × Nat) :=
  let x := beNat (key.take 32)
  let y := beNat ((key.drop 32).take 32)
  if key.length = 64 ∧ onCurve x y then some (x, y) else none

def pointBytes : Point → List Byte
  | none => List.replicate 64 0#8
  | some (x, y) => beBytes 32 x ++ beBytes 32 y

/-- ECDSA verification of a digest: fails on r or s zero or not below the order, or a key off the curve (R112). -/
def ecdsaVerify (key digest sig : List Byte) : Bool :=
  let r := beNat (sig.take 32)
  let s := beNat ((sig.drop 32).take 32)
  match keyPoint key with
  | none => false
  | some q =>
    if r = 0 ∨ s = 0 ∨ p256N ≤ r ∨ p256N ≤ s then false
    else
      let w := invMod p256N s
      match pointAdd (pointMul (beNat digest * w % p256N) basePoint) (pointMul (r * w % p256N) (some q)) with
      | none => false
      | some (x, _) => decide (x % p256N = r)

/-- An ECDSA signature of a digest with private key `d` and per-message secret `k`; none where r or s would be 0. -/
def ecdsaSign (d k : Nat) (digest : List Byte) : Option (List Byte) :=
  match pointMul (k % p256N) basePoint with
  | none => none
  | some (x, _) =>
    let r := x % p256N
    let s := invMod p256N k * ((beNat digest + r * d) % p256N) % p256N
    if r = 0 ∨ s = 0 then none else some (beBytes 32 r ++ beBytes 32 s)

/-- The public key of a private scalar. -/
def publicKey (d : Nat) : List Byte := pointBytes (pointMul d basePoint)

/-- The shared x coordinate of ECDH; none where the peer's key is off the curve or the product is at infinity. -/
def ecdhShared (d : Nat) (peer : List Byte) : Option (List Byte) :=
  match keyPoint peer with
  | none => none
  | some q =>
    match pointMul d (some q) with
    | none => none
    | some (x, _) => some (beBytes 32 x)

end Sys2Proof.Machine
end

