-- ==== Sys2Proof/Machine/SeedCheck.lean ====
section
/-! DEFINITION. The seed store, the layout of a seed image, and its validation (R126 to R140). -/

namespace Sys2Proof.Machine

/-! ### The seed store (R126, R128) -/

def storeRead (s : State) (a n : Nat) : List Byte := memBytes norBlank s.mem.store a n
def storeErase (a n : Nat) (s : State) : State := { s with mem := { s.mem with store := memErase s.mem.store a n } }
def storeProgram (a : Nat) (bs : List Byte) (s : State) : State :=
  { s with mem := { s.mem with store := memStore norBlank s.mem.store a bs } }

/-- The offset of seed slot A, slot B, and the staging area. -/
def seedSlotBase (b : Bool) : Nat := if b then 0x40000 else 0
def stagingBase : Nat := 0x80000
def seedAreaLen : Nat := 0x40000

def bytesAt (bs : List Byte) (off n : Nat) : List Byte := (bs.drop off).take n
def numAt (bs : List Byte) (off n : Nat) : Nat := leNat (bytesAt bs off n)
def zeroAt (bs : List Byte) (off n : Nat) : Bool := (bytesAt bs off n).all fun b => decide (b = 0)
def asciiAt (bs : List Byte) (off : Nat) (txt : List Byte) : Bool := decide (bytesAt bs off txt.length = txt)

/-- ASCII "SEED". -/
def magicSeed : List Byte := [0x53, 0x45, 0x45, 0x44]
/-- ASCII "SDIR". -/
def magicSdir : List Byte := [0x53, 0x44, 0x49, 0x52]
/-- ASCII "BREC". -/
def magicBrec : List Byte := [0x42, 0x52, 0x45, 0x43]

/-- A 32-byte boot or directory record is valid (R113, R128). -/
def prefRecordOk (magic bs : List Byte) : Bool :=
  asciiAt bs 0 magic && decide (numAt bs 8 1 ≤ 1) && zeroAt bs 9 19 &&
    decide (numAt bs 28 4 = (crc32 (bytesAt bs 0 28)).toNat)

/-- The record in force of two: the valid one with the higher SEQ, the first when equal. -/
def prefInForce (magic r0 r1 : List Byte) (err0 err1 : Bool) : Option (Bool × Nat × Nat) :=
  let ok0 := prefRecordOk magic r0 && !err0
  let ok1 := prefRecordOk magic r1 && !err1
  let view := fun (second : Bool) (r : List Byte) => (second, numAt r 4 4, numAt r 8 1)
  match ok0, ok1 with
  | false, false => none
  | true, false => some (view false r0)
  | false, true => some (view true r1)
  | true, true => if numAt r0 4 4 < numAt r1 4 4 then some (view true r1) else some (view false r0)

/-- A record that prefers a slot, as it is written: to the place not in force, with SEQ one above. -/
def prefRecord (magic : List Byte) (seq : Nat) (slotB : Bool) : List Byte :=
  let head := magic ++ leBytes 4 seq ++ leBytes 1 (bit slotB) ++ List.replicate 19 0
  head ++ leBytes 4 (crc32 head).toNat

/-- The seed directory in force: its place, SEQ and PREF. -/
def seedDirectory (s : State) (err0 err1 : Bool) : Option (Bool × Nat × Nat) :=
  prefInForce magicSdir (storeRead s 0xFF000 32) (storeRead s 0xFF800 32) err0 err1

/-- Where the next record goes and its SEQ: over the one not in force, one above it; the first place with SEQ 1 when
none is valid (R113, R128). Read errors of the records play no part in this choice (log entry 107). -/
def nextRecord (inForce : Option (Bool × Nat × Nat)) (first second : Nat) : Nat × Nat :=
  match inForce with
  | none => (first, 1)
  | some (sec, q, _) => (if sec then first else second, (q + 1) % 2 ^ 32)

/-- The seed directory record that prefers a slot is written (R145); an uncorrectable error in a record there plays no
part in its place and SEQ (log entry 107). -/
def writeDirectory (slotB : Bool) (s : State) : State :=
  let (a, seq) := nextRecord (seedDirectory s false false) 0xFF000 0xFF800
  storeProgram a (prefRecord magicSdir seq slotB) (storeErase a 32 s)

/-! ### Records (R131 to R133) -/

/-- A record: its type, FLAGS and payload. -/
structure RawRec where
  type : Nat
  flags : Byte
  payload : List Byte
  deriving DecidableEq, Repr

/-- The records of a byte string, END last with nothing after it; none when the structure breaks. -/
def parseRecs : Nat → List Byte → Option (List RawRec)
  | 0, _ => none
  | k + 1, bs =>
    let ty := numAt bs 0 1
    let len := numAt bs 2 2
    if bs.length < 4 ∨ len % 4 ≠ 0 ∨ bs.length < 4 + len then none
    else
      let r : RawRec := { type := ty, flags := bs.getD 1 0, payload := bytesAt bs 4 len }
      if ty = 0xFF then (if len = 0 ∧ bs.length = 4 then some [r] else none)
      else (parseRecs k (bs.drop (4 + len))).map fun t => r :: t

/-- Entry size, greatest number of entries over all records (0 = bounded by the payload length alone), and whether the
type appears at most once with exactly one entry (R133). -/
def recShape (ty : Nat) : Option (Nat × Nat × Bool) :=
  match ty with
  | 0x01 => some (16, 1, true)
  | 0x02 => some (8, 32, false)
  | 0x03 => some (24, 128, false)
  | 0x04 => some (96, 0, false)
  | 0x05 => some (16, 0, false)
  | 0x06 => some (8, 512, false)
  | 0x07 => some (40, 1, true)
  | 0x08 => some (16, 0, false)
  | 0x09 => some (4, 1, true)
  | 0x0A => some (8, 1, true)
  | 0x0B => some (64, 4, false)
  | 0x0C => some (8, 4, false)
  | 0x0D => some (136, 64, false)
  | 0x0E => some (8, 1, true)
  | 0x0F => some (4, 1, true)
  | 0x10 => some (4, 120, false)
  | 0x11 => some (16, 129, false)
  | 0x12 => some (520, 1, true)
  | 0x13 => some (80, 0, false)
  | 0x14 => some (8, 1, true)
  | 0x15 => some (36, 8, false)
  | 0x16 => some (72, 1, true)
  | _ => none

/-- A payload cut into entries. -/
def cutEntries (n : Nat) : Nat → List Byte → List (List Byte)
  | 0, _ => []
  | k + 1, bs => if bs = [] then [] else bs.take n :: cutEntries n k (bs.drop n)

/-- The entries of the records, in order. -/
def entriesOf (rs : List RawRec) : List SeedEntry :=
  rs.flatMap fun r => match recShape r.type with
    | none => []
    | some (n, _, _) => (cutEntries n r.payload.length r.payload).map fun d =>
        { type := BitVec.ofNat 8 r.type, lock := r.flags.getLsbD 0, data := d }

/-- Types in ascending order, a single type once (R132). -/
def recsOrdered : List RawRec → Bool
  | a :: b :: t =>
    (decide (a.type < b.type) || (decide (a.type = b.type) && !((recShape a.type).any fun x => x.2.2))) && recsOrdered (b :: t)
  | _ => true

/-- Check 6 of R140. More entries of a type than R133 counts are an error of the structure (log entry 113). -/
def structureOk (rs : List RawRec) : Bool :=
  recsOrdered rs && decide ((rs.map fun r => r.type).head? = some 1) &&
    rs.all (fun r => decide (r.flags.toNat ≤ 1) && (decide (r.type = 0xFF) || match recShape r.type with
      | none => false
      | some (n, _, one) => decide (r.payload.length % n = 0) && (!one || decide (r.payload.length = n)))) &&
    (List.range 0x17).all fun ty => match recShape ty with
      | none => true
      | some (n, mx, _) =>
        decide (mx = 0) || decide ((rs.filter fun r => decide (r.type = ty)).foldl (fun k r => k + r.payload.length / n) 0 ≤ mx)

/-! ### Values (check 7) -/

def ofType (es : List SeedEntry) (ty : Nat) : List SeedEntry := es.filter fun e => decide (e.type.toNat = ty)
def findEntry (es : List SeedEntry) (ty n key : Nat) : Option SeedEntry := (ofType es ty).find? fun e => decide (e.num 0 n = key)
def SeedEntry.zero (e : SeedEntry) (off n : Nat) : Bool := zeroAt e.data off n

/-- RAIL_5V of a connector (R35). -/
def seedLevel5 (es : List SeedEntry) (ch : Nat) : Bool :=
  ((ofType es 1).head?.map fun e => (e.num 2 1).testBit (ch / 16)).getD false

/-- The seed's frequency of a channel's furrow, 0 when it is not named. -/
def seedFreq (es : List SeedEntry) (ch : Nat) : Nat := ((findEntry es 2 1 (ch / 4)).map fun e => e.num 4 4).getD 0

/-- FUNC that the seed gives a channel. -/
def seedFunc (es : List SeedEntry) (ch : Nat) : Nat := ((findEntry es 3 1 ch).map fun e => e.num 1 1).getD 0

/-- The odd channel of a bonded pair of this image. -/
def seedOdd (es : List SeedEntry) (ch : Nat) : Bool :=
  decide (ch % 2 = 1) && decide (seedFunc es (ch - 1) = 3 ∨ seedFunc es (ch - 1) = 4)

/-- A CHANNEL entry's FLOW: a flow number, and where the image configures the flow, one permitted to the owner (R246,
08 › Registers). -/
def seedFlowPermitted (es : List SeedEntry) (owner f : Nat) : Bool :=
  decide (f ≤ 4095) && (if f = 4095 then decide (owner = 1) else match findEntry es 5 2 f with
    | none => true
    | some e => match owner with
      | 0 => decide (e.num 8 1 = 0 ∧ e.num 9 1 = 0xFF)
      | 1 => decide (e.num 8 1 = 1)
      | o => decide (e.num 9 1 + 2 = o))

/-- A CHANNEL entry (R133, R161 to R165, R184, R185, R195, R207 to R209, R38). -/
def channelValueOk (es : List SeedEntry) (e : SeedEntry) : Bool :=
  let ch := e.num 0 1
  let fn := e.num 1 1
  let cfg := cfgOfSeed e
  let odd := decide (ch % 2 = 1)
  let f := seedFreq es ch
  let oddPair := odd && decide (fn = 3 ∨ fn = 4)
  decide (ch ≤ 127 ∧ fn ≤ 5 ∧ e.num 2 1 ≤ 5 ∧ e.num 3 1 ≤ 15 ∧ e.num 11 1 ≤ 15) &&
    (oddPair || decide (fn = 0) || seedFlowPermitted es (e.num 2 1) (e.num 12 2)) &&
    decide (e.num 9 1 = 3 ∨ e.num 9 1 = 8) && decide (25 ≤ e.num 10 1 ∧ e.num 10 1 ≤ 75) && e.zero 14 2 && e.zero 20 4 &&
    (oddPair || (rateInRange (seedLevel5 es ch) cfg false && (decide (f = 0) || rateRealised f cfg false))) &&
    (oddPair || decide (fn = 0) || (if h : ch < 128 then fmtOk ⟨ch, h⟩ cfg.func cfg.fmt else false)) &&
    ((List.range 4).all fun k => pinModeOk cfg.func odd k (e.num (16 + k) 1) false false)

/-- The channel a REPLY entry is for, as the image configures it. -/
def replyChannel (es : List SeedEntry) (ch : Nat) : Channel :=
  match findEntry es 3 1 ch with
  | none => {}
  | some e => { cfg := cfgOfSeed e }

/-- A REPLY entry; those of a pair's odd channel are ignored and held to their ranges alone (log entry 116) (R133, R161, R176, R177, R191, R208, R222). -/
def replyValueOk (es : List SeedEntry) (e : SeedEntry) : Bool :=
  let ch := e.num 0 1
  let c := replyChannel es ch
  let r := ruleOfSeed e
  let f := seedFreq es ch
  decide (ch ≤ 127 ∧ e.num 1 1 ≤ 15 ∧ e.num 2 1 ≤ 15 ∧ e.num 3 1 ≤ 15 ∧ e.num 4 1 ≤ 8 ∧ e.num 5 1 ≤ 1) &&
    e.zero 6 2 && e.zero 29 3 && decide (1 ≤ e.num 28 1 ∧ e.num 28 1 ≤ 64) &&
    decide (500 ≤ e.num 8 4 ∧ e.num 8 4 ≤ 1000000) &&
    (seedOdd es ch || (hdrLenOk c r && tlenOk c r && slaveTimed c r && (decide (f = 0) || turnOk c f r)))

def flowValueOk (e : SeedEntry) : Bool :=
  decide (e.num 0 2 ≤ 4094 ∧ e.num 2 1 ≤ 2 ∧ e.num 3 1 ≤ 7 ∧ 1 ≤ e.num 4 2 ∧ e.num 4 2 ≤ 1024 ∧ e.num 6 1 ≤ 1 ∧
    e.num 7 1 ≤ 15 ∧ e.num 8 1 ≤ 1 ∧ 1 ≤ e.num 10 2 ∧ e.num 10 2 ≤ 60000 ∧ 1 ≤ e.num 12 1) &&
    decide (e.num 9 1 ≤ 3 ∨ e.num 9 1 = 0xFF) && e.zero 13 3

/-- A range and a guard's range. -/
def guardValueOk (e : SeedEntry) : Bool :=
  let g := e.num 0 1
  let r := e.num 1 1
  let owner := e.num 4 1
  let b := e.num 5 1
  let base := e.num 8 4
  let limit := e.num 12 4
  decide (g ≤ 16 ∧ r ≤ 15 ∧ e.num 2 1 ≤ 7 ∧ e.num 3 1 ≤ 1) && decide (owner ≤ 63 ∨ owner = 0xFF) &&
    decide (b ≤ 3 ∨ b = 0xFF) && e.zero 6 2 && !(decide (g = 0 ∧ 14 ≤ r)) && !(decide (g = 1 ∧ r = 15)) &&
    decide (guardBase g ≤ base ∧ base ≤ limit ∧ limit ≤ guardEnd g) &&
    (decide (e.num 3 1 = 0) || decide (e.num 2 1 = 0 ∧ owner = 0xFF ∧ b = 0xFF))

def bayValueOk (e : SeedEntry) : Bool :=
  let base := e.num 44 4
  let size := e.num 48 4
  decide (e.num 0 1 ≤ 3 ∧ e.num 1 1 ≤ 7 ∧ 1 ≤ e.num 2 1 ∧ e.num 2 1 ≤ 3) && e.zero 3 1 && e.zero 12 4 && e.zero 52 12 &&
    decide (1 ≤ e.num 42 2 ∧ e.num 42 2 ≤ 1024 ∧ e.num 40 2 + e.num 42 2 ≤ 4095) &&
    decide (size % 4096 = 0 ∧ size ≤ 0x100000) &&
    (decide (size = 0) || decide (0x20000000 ≤ base ∧ base + size ≤ 0x20200000))

def ownerValueOk (e : SeedEntry) : Bool :=
  let k := e.num 2 1
  decide (e.num 0 1 ≤ 63 ∧ e.num 1 1 ≤ 3 ∧ 2 ≤ k ∧ k ≤ 4) && e.zero 3 1 && e.zero 132 4 &&
    (List.range 4).all fun i => decide (i < k) || e.zero (4 + 32 * i) 32

def watchValueOk (e : SeedEntry) : Bool :=
  decide (e.num 0 1 ≤ 127 ∧ 1 ≤ e.num 3 1 ∧ 1 ≤ e.num 8 1 ∧ e.num 8 1 ≤ 64) && decide (e.num 2 1 = 3 ∨ e.num 2 1 = 8) &&
    decide (4 ≤ nsCycles 1843200 (e.num 4 4)) && e.zero 9 7

/-- An entry's values lie in their ranges. -/
def valueOk (es : List SeedEntry) (e : SeedEntry) : Bool :=
  match e.type.toNat with
  | 0x01 => e.zero 4 12
  | 0x02 => decide (e.num 0 1 ≤ 31 ∧ 1000000 ≤ e.num 4 4 ∧ e.num 4 4 ≤ 100000000) && e.zero 1 3
  | 0x03 => channelValueOk es e
  | 0x04 => replyValueOk es e
  | 0x05 => flowValueOk e
  | 0x06 => decide (e.num 0 2 ≤ 4095 ∧ 1 ≤ e.num 2 1 ∧ e.num 2 1 ≤ 4) && e.zero 3 1
  | 0x07 =>
    ((List.range 4).all fun i => decide (e.num i 1 ≤ 1)) &&
      ((List.range 16).all fun i => decide (e.num (4 + 2 * i) 2 ≤ 4095 ∨ e.num (4 + 2 * i) 2 = 0xFFFF) &&
        (decide (i % 4 = 0 ∨ e.num (i / 4) 1 = 0) || decide (e.num (4 + 2 * i) 2 = 0xFFFF))) &&
      decide (e.num 36 2 ≠ 0) && e.zero 38 2
  | 0x08 => guardValueOk e
  | 0x09 => decide (e.num 0 1 ≤ 1 ∧ 1 ≤ e.num 1 1 ∧ e.num 1 1 ≤ 7) && e.zero 2 2
  | 0x0A => decide (e.num 2 1 ≤ 1 ∧ e.num 3 1 ≤ 1) && e.zero 4 4 && (decide (e.num 2 1 = 0) || decide (e.num 0 2 = 0))
  | 0x0B => bayValueOk e
  | 0x0C => decide (e.num 0 1 ≤ 3 ∧ e.num 1 1 ≤ 1)
  | 0x0D => ownerValueOk e
  | 0x0E => decide (e.num 0 2 ≤ 3600) && e.zero 2 6
  | 0x0F => decide (e.num 0 1 ≤ 15) && e.zero 1 3
  | 0x10 => decide (8 ≤ e.num 0 1 ∧ e.num 0 1 ≤ 127 ∧ e.num 1 1 ≤ 63) && e.zero 2 2
  | 0x11 =>
    decide (e.num 0 1 ≤ 127 ∨ e.num 0 1 = 0xFF) && decide (e.num 1 1 ≤ 1 ∧ e.num 2 2 % 8 = 0) && e.zero 10 6 &&
      !(decide (e.num 0 1 ≤ 127) && seedOdd es (e.num 0 1))
  | 0x12 => e.zero 3 5 && (List.range 128).all fun n => decide (e.num (8 + 4 * n + 3) 1 ≤ 2)
  | 0x13 => watchValueOk e
  | 0x14 => (decide (e.num 0 4 = 0) || decide (1200 ≤ e.num 0 4 ∧ e.num 0 4 ≤ 921600)) && decide (e.num 4 1 ≤ 3) && e.zero 5 3
  | 0x15 => decide (e.num 0 1 ≤ 7) && e.zero 2 2
  | 0x16 => decide (e.num 0 1 ≤ 1 ∧ e.num 1 1 ≤ 1) && e.zero 2 6
  | _ => true

/-- Check 7 of R140. -/
def valuesOk (es : List SeedEntry) : Bool := es.all (valueOk es) && decide ((ofType es 0x13).length ≤ 16)

/-! ### Consistency (check 8) -/

/-- The object an entry names: its type and a number within the type. -/
def objectOf (e : SeedEntry) : Option (Nat × Nat) :=
  match e.type.toNat with
  | 0x02 | 0x03 | 0x0B | 0x0C | 0x0D | 0x10 | 0x11 | 0x13 | 0x15 => some (e.type.toNat, e.num 0 1)
  | 0x04 | 0x08 => some (e.type.toNat, e.num 0 2)
  | 0x05 | 0x06 => some (e.type.toNat, e.num 0 2)
  | _ => none

def noRepeats {α : Type} [DecidableEq α] : List α → Bool
  | [] => true
  | x :: t => decide (x ∉ t) && noRepeats t

/-- A flow is configured: by a FLOW entry, or 4095 by hardware (R245). -/
def seedFlow (es : List SeedEntry) (f : Nat) : Bool := decide (f = 4095) || (findEntry es 5 2 f).isSome

/-- CHANNEL entries: bonded partners, furrows and flows (R135, R164). -/
def channelConsistent (es : List SeedEntry) (e : SeedEntry) : Bool :=
  let ch := e.num 0 1
  let fn := e.num 1 1
  let pairFn := decide (fn = 3 ∨ fn = 4)
  let partner := findEntry es 3 1 (if ch % 2 = 0 then ch + 1 else ch - 1)
  let odd := decide (ch % 2 = 1)
  (!pairFn || (match partner with
    | none => false
    | some o => decide (o.num 1 1 = fn ∧ o.num 2 1 = e.num 2 1))) &&
    !(seedOdd es ch && !pairFn) &&
    (decide (fn = 0) || decide (seedFreq es ch ≠ 0)) &&
    (decide (fn = 0) || (odd && pairFn) || seedFlow es (e.num 12 2))

/-- OWNER 2 + b and the CHANNELS bitmaps agree (R135). -/
def ownersConsistent (es : List SeedEntry) : Bool :=
  (List.range 4).all fun b => (List.range 128).all fun ch =>
    let named := ((findEntry es 0x0B 1 b).map fun e => (e.num 16 16).testBit ch).getD false
    let owner := ((findEntry es 3 1 ch).map fun e => e.num 2 1).getD 0
    named == decide (owner = 2 + b)

/-- A BAY entry's flows are configured, and its service flow is an Enclosure flow (R372). -/
def bayConsistent (es : List SeedEntry) (e : SeedEntry) : Bool :=
  ((List.range (e.num 42 2)).all fun i => seedFlow es (e.num 40 2 + i)) &&
    ((findEntry es 5 2 (e.num 40 2)).map fun f => decide (f.num 8 1 = 1)).getD false

/-- Two ranges share nothing. -/
def apart (a n b m : Nat) : Bool := decide (n = 0 ∨ m = 0 ∨ a + n ≤ b ∨ b + m ≤ a)

def baysApart (es : List SeedEntry) : Bool :=
  let l := ofType es 0x0B
  l.all fun x => l.all fun y => decide (x.num 0 1 = y.num 0 1) ||
    (apart (x.num 40 2) (x.num 42 2) (y.num 40 2) (y.num 42 2) && apart (x.num 44 4) (x.num 48 4) (y.num 44 4) (y.num 48 4))

/-- A WATCH entry's channel: function 2, multidrop, no computed rule (R91, R203). -/
def watchConsistent (es : List SeedEntry) (e : SeedEntry) : Bool :=
  let ch := e.num 0 1
  decide (seedFunc es ch = 2) && ((findEntry es 3 1 ch).map fun c => fmtMultidrop (BitVec.ofNat 8 (c.num 8 1))).getD false &&
    (ofType es 4).all fun r => !(decide (r.num 0 1 = ch) && decide (r.num 5 1 = 1) && decide (r.num 4 1 ≠ 0))

/-- A computed rule's FALLBACK names a template of the channel. -/
def fallbackConsistent (es : List SeedEntry) (e : SeedEntry) : Bool :=
  !(decide (e.num 5 1 = 1) && decide (e.num 4 1 ≠ 0)) ||
    (ofType es 4).any fun r => decide (r.num 0 1 = e.num 0 1 ∧ r.num 1 1 = e.num 3 1 ∧ 1 ≤ r.num 28 1 ∧ r.num 28 1 ≤ 64)

/-- A GUARD entry covers nothing that R110 locks. -/
def guardConsistent (e : SeedEntry) : Bool :=
  let a := e.num 8 4
  let n := e.num 12 4 + 1 - a
  apart a n 0x08000000 0x200000 && apart a n 0x08700000 0x100000

/-- BAY_ORDER names each bay once; 0 stands for 0xE4. -/
def bayOrderOk (v : Nat) : Bool :=
  decide (v = 0) || noRepeats ((List.range 4).map fun i => v / 4 ^ i % 4)

/-- The channels that are untagged sources of a flow of this image (R261). -/
def seedSources (es : List SeedEntry) (f : Nat) : Nat :=
  ((ofType es 3).filter fun e => decide (e.num 1 1 ≠ 0 ∧ e.num 12 2 = f) && !seedOdd es (e.num 0 1)).length

/-- Check 8 of R140. -/
def consistent (es : List SeedEntry) : Bool :=
  noRepeats (es.filterMap objectOf) && (ofType es 3).all (channelConsistent es) && ownersConsistent es &&
    ((ofType es 6).all fun e => ((findEntry es 5 2 (e.num 0 2)).map fun f => decide (f.num 6 1 = 1)).getD false) &&
    ((ofType es 6).all fun e => decide (seedSources es (e.num 0 2) ≤ e.num 2 1)) &&
    ((ofType es 5).all fun f => decide (f.num 6 1 = 0) || (findEntry es 6 2 (f.num 0 2)).isSome) &&
    ((ofType es 7).all fun e => (List.range 16).all fun i =>
      decide (e.num (4 + 2 * i) 2 = 0xFFFF) || seedFlow es (e.num (4 + 2 * i) 2)) &&
    (ofType es 0x0B).all (bayConsistent es) && baysApart es && (ofType es 0x13).all (watchConsistent es) &&
    (ofType es 4).all (fallbackConsistent es) && (ofType es 8).all guardConsistent &&
    (ofType es 1).all fun e => bayOrderOk (e.num 3 1)

/-! ### The whole check (R129, R130, R140) -/

/-- Check 1: the header. -/
def seedHeaderOk (h : List Byte) : Bool :=
  let len := numAt h 0x0C 4
  asciiAt h 0 magicSeed && decide (numAt h 4 2 = 1 ∧ numAt h 6 2 ≤ 1 ∧ numAt h 8 1 ≤ 128) && zeroAt h 9 3 &&
    decide (len % 4 = 0 ∧ 8 ≤ len ∧ len ≤ 0x3FF40) && zeroAt h 0x1C 36

/-- The signed message of an image. -/
def seedMessage (img : List Byte) : List Byte := bytesAt img 0 (0x80 + numAt img 0x0C 4)

/-- The code of R140 for the image at `base`, 0 when it passes; `err` says that the store returned an uncorrectable
error. -/
def seedCode (s : State) (base : Nat) (err : Bool) : Nat :=
  let h := storeRead s base 0x80
  if !seedHeaderOk h then 1
  else if numAt h 0x10 8 ≠ 0 ∧ numAt h 0x10 8 ≠ serialFuses s then 2
  else if sha256 (bytesAt h 0x40 64) ≠ leBytes 32 (fuseField s.fuse.view 256 256) then 3
  else if err then 9
  else if numAt h 8 1 < seedVer s then 4
  else
    let img := storeRead s base (0x80 + numAt h 0x0C 4 + 64)
    let m := seedMessage img
    if !ecdsaVerify (bytesAt h 0x40 64) (sha256 m) (bytesAt img (0x80 + numAt h 0x0C 4) 64) then 5
    else
      match parseRecs 0x10000 (bytesAt img 0x80 (numAt h 0x0C 4)) with
      | none => 6
      | some rs =>
        if !structureOk rs then 6
        else
          let es := entriesOf rs
          if !valuesOk es then 7 else if !consistent es then 8 else 0

/-- The entries of an image that passes. -/
def seedEntries (s : State) (base : Nat) : List SeedEntry :=
  let h := storeRead s base 0x80
  match parseRecs 0x10000 (storeRead s (base + 0x80) (numAt h 0x0C 4)) with
  | none => []
  | some rs => entriesOf rs

/-- The seed digest of an image, byte k in bits 8k + 7 to 8k. -/
def seedDigest (s : State) (base : Nat) : W256 :=
  ofBytes 256 (sha256 (storeRead s base (0x80 + numAt (storeRead s base 0x80) 0x0C 4)))

end Sys2Proof.Machine
end

