-- ==== Sys2Proof/Machine/Vault.lean ====
section
/-! DEFINITION. The Granary's owners, root records, escrow, derivation tree and key slots (18). -/

namespace Sys2Proof.Machine

/-! ### The seed's owners (R133, R401) -/

def ownerEntry (s : State) (o : Nat) : Option SeedEntry := seedFind s 0x0D 1 o
def ownerFlag (s : State) (o k : Nat) : Bool := ((ownerEntry s o).map fun e => (e.num 1 1).testBit k).getD false
def dualUse (s : State) (o : Nat) : Bool := ownerFlag s o 0
def escrows (s : State) (o : Nat) : Bool := ownerFlag s o 1
/-- Bytes 2 to 131 of an OWNER entry: the officer set. -/
def officerSet (e : SeedEntry) : List Byte := bytesAt e.data 2 130
/-- The officer digest of the seed's OWNER entry (R401). -/
def seedOfficers (s : State) (o : Nat) : Option (List Byte) := (ownerEntry s o).map fun e => sha256 (officerSet e)
/-- The key hashes of a 130-byte officer set. -/
def officerHashes (set : List Byte) : List (List Byte) :=
  (List.range (min 4 (numAt set 0 1))).map fun i => bytesAt set (2 + 32 * i) 32

/-! ### Keys from the PUF (R403) -/

def bytes256 (x : W256) : List Byte := bytesOf x 0 32
def shareValue (s : State) : W256 := s.bkp.share ^^^ s.bkp.mask
def deviceSalt (s : State) : List Byte := leBytes 32 (fuseField s.fuse.view 512 256)
def serialBytes (s : State) : List Byte := leBytes 8 (serialFuses s)

/-- The SP 800-108 counter-mode block. -/
def kdf (key label context : List Byte) : List Byte :=
  hmac key ([0, 0, 0, 1] ++ label ++ [0] ++ context ++ [0, 0, 1, 0])

def pufKey : List Byte := leBytes 32 Config.puf
/-- KEK: label "OLKEK". -/
def kekOf (s : State) : List Byte := kdf pufKey [0x4F, 0x4C, 0x4B, 0x45, 0x4B] (bytes256 (shareValue s) ++ deviceSalt s)
/-- K_esc: label "OLESC". -/
def escKey (s : State) : List Byte := kdf pufKey [0x4F, 0x4C, 0x45, 0x53, 0x43] (deviceSalt s ++ serialBytes s)
/-- Escrow is barred (R420). -/
def escBarred (s : State) : Bool := intrusionFuse s.fuse.view || s.bkp.tamp.intrusion

/-! ### Root records (R404) -/

def rootLoc (o : Nat) (second : Bool) : Nat := 0x08700000 + 0x100 * o + (if second then 0x80 else 0)
def rootBytes (s : State) (o : Nat) (second : Bool) : List Byte := flashRead s (rootLoc o second) 128

/-- ASCII "ROOT". -/
def magicRoot : List Byte := [0x52, 0x4F, 0x4F, 0x54]

def rootValid (s : State) (o : Nat) (second : Bool) : Bool :=
  let bs := rootBytes s o second
  asciiAt bs 0 magicRoot && decide (numAt bs 4 1 = o) && decide (numAt bs 124 4 = (crc32 (bs.take 124)).toNat)

/-- The valid location with the higher SEQ. -/
def rootRecord (s : State) (o : Nat) : Option (Bool × List Byte) :=
  let a := rootBytes s o false
  let b := rootBytes s o true
  match rootValid s o false, rootValid s o true with
  | false, false => none
  | true, false => some (false, a)
  | false, true => some (true, b)
  | true, true => if numAt a 8 4 < numAt b 8 4 then some (true, b) else some (false, a)

def recGen (r : List Byte) : Nat := numAt r 6 2
def recDigest (r : List Byte) : List Byte := bytesAt r 16 32
def recWrapped (r : List Byte) : List Byte := bytesAt r 48 40

/-- A root record written to the location not in force (R404). -/
def writeRoot (o flags gen : Nat) (digest : List Byte) (root : List Byte) (s : State) : State :=
  let (place, seq) : Bool × Nat := match rootRecord s o with
    | none => (false, 1)
    | some (b, r) => (!b, numAt r 8 4 + 1)
  let body := magicRoot ++ leBytes 1 o ++ leBytes 1 flags ++ leBytes 2 gen ++ leBytes 4 seq ++ [0, 0, 0, 0] ++ digest ++
    keyWrap (bytes256 s.grn.kek) root ++ List.replicate 36 0
  flashProgram (rootLoc o place) (body ++ leBytes 4 (crc32 body).toNat) s

def eraseRoot (o : Nat) (s : State) : State := flashErase (rootLoc o true) 128 (flashErase (rootLoc o false) 128 s)

/-- The root that a record yields under the KEK in force. -/
def unwrapRoot (s : State) (r : List Byte) : Option (List Byte) :=
  if s.grn.pufFail then none else keyUnwrap (bytes256 s.grn.kek) (recWrapped r)

/-! ### The escrow (R420 to R422) -/

def escBase (second : Bool) : Nat := if second then 0xE0000 else 0xC0000
/-- ASCII "ESCR". -/
def magicEscr : List Byte := [0x45, 0x53, 0x43, 0x52]

def escHeader (s : State) (second : Bool) : List Byte := storeRead s (escBase second) 64
def escSeq (s : State) (second : Bool) : Nat := numAt (escHeader s second) 8 4
def escCtr (s : State) (second : Bool) : Nat := numAt (escHeader s second) 12 4
def escCount (s : State) (second : Bool) : Nat := numAt (escHeader s second) 6 2
def escEntry (s : State) (second : Bool) (i : Nat) : List Byte := storeRead s (escBase second + 64 + 96 * i) 96

/-- The header's tag: GCM over no plaintext. -/
def escTag (key h48 : List Byte) : List Byte := (gcmSeal key (bytesAt h48 8 8 ++ List.replicate 4 0xFF) h48 []).2

/-- A copy is valid (R422). -/
def escValid (s : State) (second : Bool) : Bool :=
  let h := escHeader s second
  let c := counterValue s 2
  !escBarred s && !s.grn.pufFail && asciiAt h 0 magicEscr && decide (numAt h 4 2 = 1) && decide (bytesAt h 16 8 = serialBytes s) &&
    decide (numAt h 6 2 ≤ 64) && decide (numAt h 12 4 = c ∨ numAt h 12 4 = c + 1) &&
    decide (bytesAt h 48 16 = escTag (escKey s) (h.take 48))

/-- The valid copy with the higher SEQ. -/
def escChoice (s : State) : Option Bool :=
  match escValid s false, escValid s true with
  | false, false => none
  | true, false => some false
  | false, true => some true
  | true, true => some (decide (escSeq s false < escSeq s true))

/-- The copy in force as the state holds it: none while escrow is barred. -/
def escInForce (s : State) : Option Bool := if escBarred s then none else s.grn.escrow

/-- The entries of the copy in force. -/
def escEntries (s : State) : List (List Byte) := match escInForce s with
  | none => []
  | some b => (List.range (escCount s b)).map fun i => escEntry s b i

def escFind (s : State) (o : Nat) : Option (List Byte) := (escEntries s).find? fun e => decide (numAt e 0 1 = o)

/-- Escrow at start (R422): the copy in force, and its pending commit. -/
def startEscrow (s : State) : State :=
  match escChoice s with
  | none => { s with grn := { s.grn with escrow := none, escPending := false } }
  | some b =>
    if escCtr s b = counterValue s 2 then { s with grn := { s.grn with escrow := some b, escPending := false } }
    else
      let (ok, s) := incrementCounter 2 s
      if ok then { s with grn := { s.grn with escrow := some b, escPending := false } }
      else if escValid s (!b) ∧ escCtr s (!b) = counterValue s 2 then
        { s with grn := { s.grn with escrow := some (!b), escPending := false } }
      else { s with grn := { s.grn with escrow := some b, escPending := true } }

/-! ### Owner states (R400) -/

namespace Owner
def absent : BitVec 4 := 0
def declared : BitVec 4 := 1
def active : BitVec 4 := 2
def escrowWait : BitVec 4 := 3
def rebind : BitVec 4 := 4
def orphaned : BitVec 4 := 5
def lost : BitVec 4 := 6
end Owner

def ownerState (s : State) (o : Fin 64) : BitVec 4 := vget s.grn.ostate o

/-- The unwrapped root of an owner. -/
def rootOf (s : State) (o : Nat) : Option (List Byte) := (tabGet none s.grn.roots o).map fun m => bytes256 (m.d ^^^ m.q)

/-- The rows of R400 from top to bottom. A record that unwraps and whose root is not held stays ORPHANED until the next
cold reset (R402 › Edges, log entry 22). -/
def judgeOwner (s : State) (o : Nat) : BitVec 4 :=
  let named := (ownerEntry s o).isSome
  match rootRecord s o with
  | none => if s.sys.mode = Mode.lockdown ∧ named then Owner.lost else if named then Owner.declared else Owner.absent
  | some (_, r) =>
    let opens := (unwrapRoot s r).isSome
    if s.sys.mode = Mode.lockdown then Owner.lost
    else if !opens && (s.grn.pufFail || (escFind s o).isNone) then Owner.lost
    else if !named then Owner.orphaned
    else if !opens then Owner.escrowWait
    else if (rootOf s o).isNone then Owner.orphaned
    else if some (recDigest r) ≠ seedOfficers s o then Owner.rebind
    else Owner.active

def freeSlots (p : KeySlot → Bool) (s : State) : State :=
  { s with grn := { s.grn with slots := s.grn.slots.map fun k => if p k then {} else k } }

/-- Every slot Free (R415). -/
def flushSlots (s : State) : State := freeSlots (fun _ => true) s

/-- A changed owner's slots are flushed (R415), and an ORPHANED owner's copy is zeroed (R402 › Edges). -/
def setOwner (o : Fin 64) (st : BitVec 4) (s : State) : State :=
  let s := if ownerState s o = st then s else freeSlots (fun k => decide (k.owner.toNat = o.val)) s
  let s := { s with grn := { s.grn with ostate := vset s.grn.ostate o st } }
  if st = Owner.orphaned then { s with grn := { s.grn with roots := tabPut none s.grn.roots o.val none } } else s

/-- Every owner evaluated (R400). -/
def judgeOwners (s : State) : State := (fins 64).foldl (fun s o => setOwner o (judgeOwner s o.val) s) s

/-! ### Escrow writing (R422) -/

/-- One entry of a new copy. -/
def sealEntry (s : State) (h48 : List Byte) (seq ctr o : Nat) (r root : List Byte) : List Byte :=
  let iv := leBytes 4 seq ++ leBytes 4 ctr ++ [BitVec.ofNat 8 o, 0, 0, 0]
  let head := [BitVec.ofNat 8 o] ++ bytesAt r 5 1 ++ bytesAt r 6 2 ++ iv ++ recDigest r
  let (c, tag) := gcmSeal (escKey s) iv (h48 ++ head) root
  head ++ c ++ tag

/-- The owners whose roots the escrow holds. -/
def escOwners (s : State) : List (Fin 64) :=
  (fins 64).filter fun o => decide (ownerState s o = Owner.active) && escrows s o.val

/-- A new copy is written where the one in force is not, and rotation counter 2 follows; none while barred. -/
def writeEscrow (s : State) : State :=
  if escBarred s || s.grn.pufFail then s
  else
    let (place, seq) : Bool × Nat := match escInForce s with
      | none => (false, 1)
      | some b => (!b, escSeq s b + 1)
    let ctr := counterValue s 2 + 1
    let os := escOwners s
    let h48 := magicEscr ++ leBytes 2 1 ++ leBytes 2 os.length ++ leBytes 4 seq ++ leBytes 4 ctr ++ serialBytes s ++
      List.replicate 24 0
    let es := os.flatMap fun o => match rootRecord s o.val, rootOf s o.val with
      | some (_, r), some root => sealEntry s h48 seq ctr o.val r root
      | _, _ => []
    let bs := h48 ++ escTag (escKey s) h48 ++ es
    let s := storeProgram (escBase place) bs (storeErase (escBase place) 6208 s)
    let (ok, s) := incrementCounter 2 s
    { s with grn := { s.grn with escrow := some place, escPending := !ok } }

/-- At the end of Boot the escrow is written if the set of escrowed owners differs from the copy in force (R422). -/
def settleEscrow (s : State) : State :=
  if s.grn.ready ∧ (escOwners s).map (fun o => o.val) ≠ (escEntries s).map (fun e => numAt e 0 1) then writeEscrow s else s

/-! ### Start (R405) -/

/-- A 256-bit draw that is not zero: a zero is drawn again. -/
def drawNonzero (s : State) : W256 × State :=
  let (x, s) := draw 256 s
  if x = 0 then
    let (y, s) := draw 256 s
    (if y = 0 then 1 else y, s)
  else (x, s)

/-- The share's two registers hold `v` under a fresh mask (R418). -/
def setShare (v : W256) (s : State) : State :=
  let (q, s) := draw 256 s
  { s with bkp := { s.bkp with share := v ^^^ q, mask := q } }

/-- An owner's root enters vault SRAM under a fresh mask. -/
def holdRoot (o : Nat) (root : List Byte) (s : State) : State :=
  let (q, s) := draw 256 s
  { s with grn := { s.grn with roots := tabPut none s.grn.roots o (some { d := ofBytes 256 root ^^^ q, q := q }) } }

/-- Every root record unwrapped. -/
def unwrapRoots (s : State) : State :=
  (List.range 64).foldl (fun s o =>
    match (rootRecord s o).bind fun p => unwrapRoot s p.2 with
    | none => { s with grn := { s.grn with roots := tabPut none s.grn.roots o none } }
    | some root => holdRoot o root s) s

/-- The module is in a mode in which the Granary serves (R444). -/
def granaryServes (s : State) : Bool :=
  mainOn s && decide (s.sys.mode ≠ Mode.store ∧ s.sys.mode ≠ Mode.lockdown)

def granaryStartOp (pufOk : Bool) (s : State) : State :=
  if s.grn.ready || !granaryServes s then s
  else
    let fresh := decide (shareValue s = 0)
    let s := if fresh then
        let (v, s) := drawNonzero s
        setShare v s
      else s
    let s := { s with grn := { s.grn with pufFail := !pufOk, shareNew := s.grn.shareNew || fresh
                                          kek := if pufOk then ofBytes 256 (kekOf s) else 0 } }
    let s := judgeOwners (startEscrow (unwrapRoots s))
    { s with grn := { s.grn with ready := true, periodAt := s.now, periods := 0 } }

/-- The vault SRAM, slots, nonces and working registers cleared; queued requests gone (R442). -/
def clearGranary (s : State) : State :=
  { s with grn := { s.grn with ready := false, roots := [], slots := .replicate 48 {}, nonces := [], kek := 0
                               grq := [], grc := [] } }

/-! ### The tree (R402, R406 to R412, R417) -/

/-- A key as the walk finds it. -/
structure KeyInfo where
  usage : Nat
  alg : Nat
  attr : Nat
  notAfter : Nat
  key : List Byte
  id : List Byte
  deriving DecidableEq, Repr

def attrUses (a : Nat) : Nat := a % 32
def attrBays (a : Nat) : Nat := a / 256 % 16
def attrCommons (a : Nat) : Bool := a.testBit 12
def attrNoExport (a : Nat) : Bool := a.testBit 16
def attrDual (a : Nat) : Bool := a.testBit 17

/-- Every set bit of `x` is set in `y`. -/
def bitsIn (x y : Nat) : Bool := decide (x &&& y = x)

/-- The bays that list the owner (R402). -/
def ownerBays (s : State) (o : Nat) : Nat :=
  (fins 4).foldl (fun k b => if bayHasOwner s b o then k + 2 ^ b.val else k) 0

/-- The root as the parent of depth 1 (R402, R412). -/
def rootInfo (s : State) (o : Nat) : Option KeyInfo :=
  match rootOf s o, rootRecord s o with
  | some root, some (_, r) =>
    some { usage := 8, alg := 1, attr := 0x1F + 256 * ownerBays s o + 4096, notAfter := 0, key := root
           id := sha256 (leBytes 1 o ++ leBytes 2 (recGen r)) }
  | _, _ => none

/-- The permitted sets and their algorithms (R408). -/
def usageOk (u a : Nat) : Bool :=
  (decide (u = 1 ∨ u = 2 ∨ u = 3 ∨ u = 4) && decide (a = 0)) || (decide (u = 8 ∨ u = 16) && decide (a = 1 ∨ a = 2))

/-- The narrowing of R410, with only ATTR's listed bits set (R409). -/
def narrows (dual : Bool) (parent : KeyInfo) (u a attr na : Nat) : Bool :=
  usageOk u a && decide (bitsIn attr 0x31F1F) && bitsIn u (attrUses attr) && bitsIn u (attrUses parent.attr) &&
    bitsIn (attr % 0x2000) (parent.attr % 0x2000) && bitsIn (parent.attr / 0x10000) (attr / 0x10000) &&
    (!attrDual attr || dual) && decide (na < 2 ^ 48) &&
    (decide (parent.notAfter = 0) || decide (na ≠ 0 ∧ na ≤ parent.notAfter))

/-- The form of a step message at depth `d` for owner `o` (R407). -/
def stepForm (m : List Byte) (d o : Nat) : Bool :=
  let ll := numAt m 8 1
  decide (m.length = 64) && decide (bytesAt m 0 8 = [0, 0, 0, 1, 0x4F, 0x4C, 0x47, 0x52]) && decide (1 ≤ ll ∧ ll ≤ 32) &&
    zeroAt m (9 + ll) (32 - ll) && zeroAt m 41 1 && decide (numAt m 43 1 = d) && decide (numAt m 44 1 = o) && zeroAt m 46 2 &&
    decide (bytesAt m 60 4 = [0, 0, 1, 0])

/-- NOT_AFTER has not passed (R411, log entry 23). -/
def inTime (s : State) (na : Nat) : Bool := decide (na = 0) || (s.bkp.cal.valid && decide (s.bkp.cal.sec.toNat ≤ na))

/-- The child of a derivation parent is to be an intermediate step: Derive with HMAC (R406). -/
def derives (k : KeyInfo) : Bool := decide (k.usage = 8 ∧ k.alg = 1)

/-! ### Slots (R413, R414) -/

def slotOfId (s : State) (id : List Byte) : Option (Fin 48) :=
  (fins 48).find? fun k => decide ((vget s.grn.slots k).st ≠ .free) && decide ((vget s.grn.slots k).id = ofBytes 256 id)

def setSlot (k : Fin 48) (x : KeySlot) (s : State) : State := { s with grn := { s.grn with slots := vset s.grn.slots k x } }

/-- The slot to fill: a Free one, else the Cached one with the oldest stamp, whether evicted. -/
def slotToFill (s : State) : Option (Fin 48 × Bool) :=
  match (fins 48).find? fun k => decide ((vget s.grn.slots k).st = .free) with
  | some k => some (k, false)
  | none =>
    ((fins 48).foldl (fun (best : Option (Fin 48)) k =>
      if (vget s.grn.slots k).st = .cached then
        match best with
        | none => some k
        | some b => if (vget s.grn.slots k).stamp < (vget s.grn.slots b).stamp then some k else best
      else best) none).map fun k => (k, true)

/-- The step is found in a slot or enters one; its slot, which a last step keeps Busy. -/
def touchSlot (info : KeyInfo) (o depth : Nat) (last : Bool) (s : State) : Option (Fin 48) × State :=
  let st : SlotState := if last then .busy else .cached
  let stamp := s.grn.uses
  let s := { s with grn := { s.grn with uses := s.grn.uses + 1 } }
  match slotOfId s info.id with
  | some k =>
    let x := vget s.grn.slots k
    (some k, setSlot k { x with stamp := stamp, st := if x.st = .cached then st else x.st } s)
  | none =>
    match slotToFill s with
    | none => (none, s)
    | some (k, evicted) =>
      let (q, s) := draw 256 s
      let s := if evicted then { s with grn := { s.grn with evicts := satInc s.grn.evicts } } else s
      (some k, setSlot k { st := st, id := ofBytes 256 info.id, key := { d := ofBytes 256 info.key ^^^ q, q := q }
                           usage := BitVec.ofNat 8 info.usage, alg := BitVec.ofNat 8 info.alg
                           attr := BitVec.ofNat 32 info.attr, notAfter := BitVec.ofNat 48 info.notAfter
                           owner := BitVec.ofNat 6 o, depth := depth, stamp := stamp } s)

/-- A slot whose time has passed is made Free (R413 › Edges). -/
def dropExpired (id : List Byte) (s : State) : State := match slotOfId s id with
  | none => s
  | some k => setSlot k {} s

/-- One step: its key, none where it breaks R406 to R411. -/
def stepInfo (s : State) (parent : KeyInfo) (m : List Byte) (d o : Nat) : Option KeyInfo :=
  let u := numAt m 42 1
  let a := numAt m 45 1
  let attr := numAt m 48 4
  let na := numAt m 52 8
  if derives parent && stepForm m d o && narrows (dualUse s o) parent u a attr na then
    some { usage := u, alg := a, attr := attr, notAfter := na, key := hmac parent.key m, id := sha256 (parent.id ++ m) }
  else none

/-- The walk of R412 from `parent` at depth `d`: the last step's key, which `fin` must admit, and its slot; steps before
a mismatch keep their slots. -/
def walkSteps (o : Nat) (fin : KeyInfo → Bool) : Nat → KeyInfo → List (List Byte) → State →
    Option (KeyInfo × Option (Fin 48)) × State
  | _, _, [], s => (none, s)
  | d, parent, m :: ms, s =>
    match stepInfo s parent m d o with
    | none => (none, s)
    | some k =>
      if !inTime s k.notAfter then (none, dropExpired k.id s)
      else if ms = [] then
        if fin k then
          let (slot, s) := touchSlot k o d true s
          (some (k, slot), s)
        else (none, s)
      else if !derives k then (none, s)
      else walkSteps o fin (d + 1) k ms (touchSlot k o d false s).2

/-- The walk of a whole path of an owner. -/
def walkPath (o depth : Nat) (path : List Byte) (fin : KeyInfo → Bool) (s : State) :
    Option (KeyInfo × Option (Fin 48)) × State :=
  match rootInfo s o with
  | none => (none, s)
  | some root => walkSteps o fin 1 root (pieces 64 depth path) s

/-- A leaf's plaintext (R416) as a key under its wrapping key (R417). -/
def leafInfo (s : State) (o : Nat) (parent : KeyInfo) (blobId plain : List Byte) : Option KeyInfo :=
  let u := numAt plain 32 1
  let a := numAt plain 33 1
  let attr := numAt plain 36 4
  let na := numAt plain 40 8
  let scalar := beNat (plain.take 32)
  if decide (plain.length = 48) && zeroAt plain 34 2 && narrows (dualUse s o) parent u a attr na &&
      (decide (a ≠ 2) || decide (1 ≤ scalar ∧ scalar < p256N)) then
    some { usage := u, alg := a, attr := attr, notAfter := na, key := plain.take 32, id := sha256 (parent.id ++ blobId) }
  else none

/-- A wrapping key. -/
def wraps (k : KeyInfo) : Bool := decide (k.usage = 4 ∧ k.alg = 0)

/-- The key of a request: its path's, or the imported leaf under it (R412, R417, R428). -/
def keyOf (o depth : Nat) (path : List Byte) (leaf : Option (List Byte)) (fin : KeyInfo → Bool) (s : State) :
    Option (KeyInfo × List (Fin 48)) × State :=
  match leaf with
  | none =>
    let (r, s) := walkPath o depth path fin s
    (r.map fun p => (p.1, p.2.toList), s)
  | some blob =>
    let (r, s) := walkPath o depth path wraps s
    match r with
    | none => (none, s)
    | some (w, ws) =>
      match (keyUnwrap w.key blob).bind fun plain => leafInfo s o w blob plain with
      | none => (none, s)
      | some k =>
        if !inTime s k.notAfter then (none, dropExpired k.id s)
        else if fin k then
          let (slot, s) := touchSlot k o (depth + 1) true s
          (some (k, ws.toList ++ slot.toList), s)
        else (none, s)

/-- The private scalar of a P-256 key: derived, or a leaf's own (R407, R416). -/
def scalarOf (leaf : Bool) (k : KeyInfo) : Nat := if leaf then beNat k.key else 1 + beNat k.key % (p256N - 1)

/-- Busy slots become `st`: Transit with a release notice in GRC, or Cached. -/
def settleSlots (st : SlotState) (s : State) : State :=
  { s with grn := { s.grn with slots := s.grn.slots.map fun k => if k.st = .busy then { k with st := st } else k } }

/-- The slots that no key uses any more after a mismatch: Busy ones are Cached. -/
def busySlots (s : State) : List (Fin 48) := (fins 48).filter fun k => decide ((vget s.grn.slots k).st = .busy)

/-! ### Re-masking (R418, R419) -/

/-- Δ applied to a pair of registers. -/
def remaskPair (r : W256) (p : Bool) (m : Masked) : Masked :=
  let delta := m.q ^^^ r ^^^ (if p then BitVec.allOnes 256 else 0)
  { d := m.d ^^^ delta, q := m.q ^^^ delta }

/-- A re-masking period: REMASK_S, or 60 s without one (R419). -/
def remaskSpan (s : State) : Nat := 250000000 * (if remaskSeconds s = 0 then 60 else remaskSeconds s)

/-- The re-masking periods that have ended since the last pass. -/
def periodsEnded (s : State) : Nat := (s.now - s.grn.periodAt) / remaskSpan s

/-- One pass over the share, the roots and the slots, at the end of a period; it counts as every period that has ended,
and P is all ones on every second one (log entry 133). -/
def remaskOp (s : State) : State :=
  let n := periodsEnded s
  if !s.grn.ready || !mainOn s || decide (n = 0) then s
  else
    let p := decide ((s.grn.periods + n) % 2 = 0)
    let (r, s) := draw 256 s
    let sh := remaskPair r p { d := s.bkp.share, q := s.bkp.mask }
    { s with
      bkp := { s.bkp with share := sh.d, mask := sh.q }
      grn := { s.grn with
        roots := s.grn.roots.map fun x => (x.1, x.2.map (remaskPair r p))
        slots := s.grn.slots.map fun k => if k.st = .free then k else { k with key := remaskPair r p k.key }
        polarity := p, passes := satInc s.grn.passes, periods := s.grn.periods + n
        periodAt := s.grn.periodAt + n * remaskSpan s } }

end Sys2Proof.Machine
end

