-- ==== Sys2Proof/Machine/Granary.lean ====
section
/-! DEFINITION. The Granary's commands: requests, key use, dual control, owner operations, completions (19). -/

namespace Sys2Proof.Machine

/-! ### The opcode table (R429) -/

/-- A key-use command: the classes its key may have and the ALG it must have. -/
def opKey (opc : Nat) : Option (Nat × Nat) :=
  match opc with
  | 0x01 => some (1, 0)
  | 0x02 => some (2, 0)
  | 0x03 | 0x04 | 0x05 | 0x06 => some (4, 0)
  | 0x10 | 0x11 => some (16, 1)
  | 0x12 => some (16, 2)
  | 0x13 => some (31, 2)
  | 0x14 => some (8, 2)
  | _ => none

def opKnown (opc : Nat) : Bool := (opKey opc).isSome || decide (opc = 0x20 ∨ opc = 0x21 ∨ (0x30 ≤ opc ∧ opc ≤ 0x34))
/-- CREATE, DELETE, REBIND and RESTORE. -/
def opOwner (opc : Nat) : Bool := decide (0x31 ≤ opc ∧ opc ≤ 0x34)
/-- A command that needs a drawn value (R430). -/
def opDraws (opc : Nat) : Bool := decide (opc = 0x01 ∨ opc = 0x12 ∨ opc = 0x21 ∨ opc = 0x30 ∨ opc = 0x31)

/-- A descriptor's fields that decide its form. -/
structure GrnForm where
  opc : Nat
  flags : Nat
  depth : Nat
  owner : Nat
  trunc : Nat
  inLen : Nat
  aadLen : Nat
  auxLen : Nat
  outLen : Nat
  deriving DecidableEq, Repr

/-- What a performed command writes at OUT (R429, R434, R438, R441). -/
def outSize (f : GrnForm) : Nat :=
  match f.opc with
  | 0x01 => f.inLen + 28
  | 0x02 => f.inLen - 28
  | 0x03 => f.inLen + 8
  | 0x04 => f.inLen - 8
  | 0x05 | 0x06 => 56
  | 0x10 => f.trunc
  | 0x12 | 0x13 => 64
  | 0x14 | 0x20 => 32
  | 0x21 => f.outLen
  | 0x30 => 80
  | 0x31 => 2
  | 0x34 => 1
  | _ => 0

def leafFlag (f : Nat) : Bool := f.testBit 0
def dcFlag (f : Nat) : Bool := f.testBit 1
def importFlag (f : Nat) : Bool := f.testBit 2

/-- IN's length (R429, R439). -/
def inLenOk (f : GrnForm) : Bool :=
  match f.opc with
  | 0x01 | 0x12 | 0x20 => decide (f.inLen ≤ 65536)
  | 0x02 => decide (28 ≤ f.inLen)
  | 0x03 => decide (16 ≤ f.inLen ∧ f.inLen ≤ 4096 ∧ f.inLen % 8 = 0)
  | 0x04 => decide (24 ≤ f.inLen ∧ f.inLen ≤ 4104 ∧ f.inLen % 8 = 0)
  | 0x05 => decide (f.inLen = 48)
  | 0x10 | 0x11 => decide (1 ≤ f.inLen ∧ f.inLen ≤ 4096)
  | 0x14 => decide (f.inLen = 64)
  | 0x31 => decide (f.inLen = if importFlag f.flags then 112 else 0)
  | _ => true

/-- AUX's length. -/
def auxLenOk (f : GrnForm) : Bool :=
  match f.opc with
  | 0x06 => decide (64 ≤ f.auxLen ∧ f.auxLen ≤ 512 ∧ f.auxLen % 64 = 0)
  | 0x11 => decide (f.auxLen = f.trunc)
  | 0x32 | 0x33 => decide (f.auxLen = 130)
  | _ => true

/-- The descriptor is well formed (R424, R427 › Edges). -/
def grnFormOk (f : GrnForm) (zeros : Bool) : Bool :=
  opKnown f.opc && zeros && decide (f.flags < 8) && decide (f.owner ≤ 63) &&
    (if (opKey f.opc).isSome then
      (if leafFlag f.flags then decide (1 ≤ f.depth ∧ f.depth ≤ 7) else decide (1 ≤ f.depth ∧ f.depth ≤ 8))
     else decide (f.depth = 0) && !leafFlag f.flags) &&
    (!importFlag f.flags || decide (f.opc = 0x31)) &&
    (if f.opc = 0x10 ∨ f.opc = 0x11 then decide (4 ≤ f.trunc ∧ f.trunc ≤ 32) else decide (f.trunc = 0)) &&
    decide (f.aadLen ≤ 4096) && inLenOk f && auxLenOk f &&
    (decide (f.opc ≠ 0x21) || decide (1 ≤ f.outLen ∧ f.outLen ≤ 4096)) && decide (outSize f ≤ f.outLen)

/-! ### Taking a request (R425 to R427, R444) -/

/-- What the service makes of a descriptor. -/
inductive GrnTake where
  | silent
  | busy
  | queued (r : GrnReq)

/-- The Granary service reads the 64-byte descriptor, probes every buffer and copies PATH, BLOB and AUTH. -/
def grnTake (s : State) (k : Asker) (addr : Nat) : GrnTake :=
  if !reaches s k permR addr 64 || !granaryServes s then .silent
  else
    let d := callerBytes s k addr 64
    let num := numAt d
    let f : GrnForm := { opc := num 0 1, flags := num 1 1, depth := num 2 1, owner := num 3 1, trunc := num 4 1
                         inLen := num 20 4, aadLen := num 28 4, auxLen := num 36 4, outLen := num 48 4 }
    let pathLen := if 8 < f.depth then 0 else 64 * f.depth
    let blobLen := if leafFlag f.flags then 56 else 0
    let authLen := if dcFlag f.flags then 320 else 0
    if !(reaches s k permR (num 8 4) pathLen && reaches s k permR (num 12 4) blobLen && reaches s k permR (num 40 4) authLen &&
        reaches s k permR (num 16 4) f.inLen && reaches s k permR (num 24 4) f.aadLen && reaches s k permR (num 32 4) f.auxLen &&
        reaches s k permW (num 44 4) f.outLen) then .silent
    else if 32 ≤ s.grn.grq.length then .busy
    else
      let w := fun (x : Nat) => BitVec.ofNat 32 x
      .queued { caller := k.caller, src := k.src, tag := k.tag, bay := k.bay, byBay := k.byBay
                malformed := !grnFormOk f (zeroAt d 5 3 && zeroAt d 52 12)
                opc := BitVec.ofNat 8 f.opc, flags := BitVec.ofNat 8 f.flags, depth := BitVec.ofNat 8 f.depth
                owner := BitVec.ofNat 8 f.owner, trunc := BitVec.ofNat 8 f.trunc
                path := callerBytes s k (num 8 4) pathLen, blob := callerBytes s k (num 12 4) blobLen
                auth := callerBytes s k (num 40 4) authLen
                inAddr := w (k.base + num 16 4), inLen := w f.inLen, aadAddr := w (k.base + num 24 4), aadLen := w f.aadLen
                auxAddr := w (k.base + num 32 4), auxLen := w f.auxLen, outAddr := w (k.base + num 44 4), outLen := w f.outLen }

def pushGrq (r : GrnReq) (s : State) : State :=
  qJoin 92 16 s.grn.grq.length { s with grn := { s.grn with grq := s.grn.grq ++ [r] } }

/-- SVC_GRANARY's work for a thread (R330, R427, R452): with WAIT 1 it waits for a place. -/
def svcGranaryOp (t : Thread) (s : State) : State :=
  let addr := (stileReg s t 5).toNat
  let wait := (stileReg s t 6).getLsbD 0
  let target := stileReg s t 7
  let f := targetFlow target
  let k := threadAsker s t (if wait then .wait t else .flow t target (BitVec.ofNat 32 addr))
  if !wait && !completionFlowOk s k target then svcSilent t s
  else
    match grnTake s k addr with
    | .silent => svcSilent t s
    | .busy => if wait then s else svcResults t 1 0 0 0 (countRefusal f s)
    | .queued r =>
      if wait then pushGrq r s
      else if freeCredits (flow s f) = 0 then svcResults t 1 0 0 0 (countRefusal f s)
      else svcResults t 0 0 0 0 (pushGrq r (takeCredit f s))

/-! ### A command's work -/

/-- A command ready to run: its request and its inputs. -/
structure GrnJob where
  r : GrnReq
  inp : List Byte
  aad : List Byte
  aux : List Byte
  headland : Bool
  deriving DecidableEq, Repr

/-- What a command comes to: status, verdict, the bytes for OUT, and WRITTEN. -/
structure GrnResult where
  status : Byte := 0
  verdict : Byte := 0
  out : List Byte := []
  written : Nat := 0
  deriving DecidableEq, Repr

def GrnReq.form (r : GrnReq) : GrnForm :=
  { opc := r.opc.toNat, flags := r.flags.toNat, depth := r.depth.toNat, owner := r.owner.toNat, trunc := r.trunc.toNat
    inLen := r.inLen.toNat, aadLen := r.aadLen.toNat, auxLen := r.auxLen.toNat, outLen := r.outLen.toNat }

/-- The command was performed, its output as given. -/
def performed (out : List Byte) : GrnResult := { out := out, written := out.length }

/-- A violation that names no address: the address recorded is a free value. -/
def violateNowhere (src : Nat) (kind : Vio) (s : State) : State :=
  violateSrc src kind (BitVec.ofNat 32 (Config.free 1 s.draws)) false false { s with draws := s.draws + 1 }

/-- A usage mismatch (R433): zeros over OUT_LEN, OK, DONE, and the WRITTEN of a performed command. -/
def mismatchKind (kind : Vio) (j : GrnJob) (s : State) : GrnResult × State :=
  ({ out := List.replicate j.r.outLen.toNat 0, written := outSize j.r.form }, violateNowhere j.r.src.val kind s)

def mismatch (j : GrnJob) (s : State) : GrnResult × State := mismatchKind .usage j s

/-! ### Who may invoke (R444) -/

/-- The mode serves the opcode: in Limp reason 1 HASH and RANDOM alone. -/
def modeServes (s : State) (opc : Nat) : Bool := !limpReason s 1 || decide (opc = 0x20 ∨ opc = 0x21)

/-- The requester may invoke an owner operation on `o`; the Headland under scope VAULT. -/
def mayOwner (s : State) (j : GrnJob) (opc o : Nat) : Bool :=
  if j.headland then s.hld.scope.getLsbD 7
  else match j.r.bay with
    | none => true
    | some b => bayHasOwner s b (if opc = 0x34 then 0 else o)

/-- The kind of a refusal under R444: 5 for a bay's request outside its OWNERS. -/
def refusalKind (s : State) (r : GrnReq) : Vio :=
  match r.bay with
  | none => .usage
  | some b => if r.byBay && !bayHasOwner s b (if r.opc = 0x34 then 0 else r.owner.toNat) then .bay else .usage

/-- A key admits the requester (R409, R411, R444). -/
def admits (j : GrnJob) (k : KeyInfo) : Bool :=
  !j.headland && match j.r.bay with
    | none => attrCommons k.attr
    | some b => (attrBays k.attr).testBit b.val

/-! ### Dual control (R434 to R437) -/

/-- The live nonce of a name. -/
def findNonce (s : State) (n : List Byte) : Option VaultNonce :=
  s.grn.nonces.find? fun x => decide (bytesOf x.nonce 0 16 = n) && nonceLives s x

/-- The nonce is dead from its first naming (R434). -/
def killNonce (n : List Byte) (s : State) : State :=
  { s with grn := { s.grn with nonces := s.grn.nonces.filter fun x => decide (bytesOf x.nonce 0 16 ≠ n) } }

def authNonce (a : List Byte) : List Byte := bytesAt a 16 16

/-- Check 1: the nonce lives and the header is as in R435. ASCII "OLDC". -/
def authHeader (s : State) (a : List Byte) (opc o : Nat) : Bool :=
  asciiAt a 0 [0x4F, 0x4C, 0x44, 0x43] && decide (numAt a 4 1 = 1 ∧ numAt a 5 1 = opc ∧ numAt a 6 1 = o) && zeroAt a 7 1 &&
    decide (bytesAt a 8 8 = serialBytes s) && (findNonce s (authNonce a)).isSome

/-- Check 2: both keys are of the set and differ. -/
def authSigners (set a : List Byte) : Bool :=
  let h1 := sha256 (bytesAt a 64 64)
  let h2 := sha256 (bytesAt a 192 64)
  let hs := officerHashes set
  decide (h1 ∈ hs) && decide (h2 ∈ hs) && decide (h1 ≠ h2)

/-- Check 3: both signatures verify. -/
def authSignatures (a : List Byte) : Bool :=
  let dg := sha256 (a.take 64)
  ecdsaVerify (bytesAt a 64 64) dg (bytesAt a 128 64) && ecdsaVerify (bytesAt a 192 64) dg (bytesAt a 256 64)

/-- Checks 1 to 3 (R437): the first that fails, 0 when all pass. -/
def authBasics (s : State) (a : List Byte) (opc o : Nat) (set : List Byte) : Nat :=
  if !authHeader s a opc o then 1 else if !authSigners set a then 2 else if !authSignatures a then 3 else 0

def authParam (a : List Byte) : List Byte := bytesAt a 32 32

/-- The authorisation of a key with DUAL (R436, R437). -/
def keyAuthOk (s : State) (j : GrnJob) : Bool :=
  let a := j.r.auth
  let o := j.r.owner.toNat
  dcFlag j.r.flags.toNat && (match ownerEntry s o with
    | none => false
    | some e => decide (authBasics s a j.r.opc.toNat o (officerSet e) = 0)) &&
    decide (authParam a = sha256 (j.r.path ++ sha256 j.inp))

def countAuth (ok : Bool) (s : State) : State :=
  if ok then { s with grn := { s.grn with accepted := satInc s.grn.accepted } }
  else { s with grn := { s.grn with refused := satInc s.grn.refused } }

/-! ### Key use (R428 to R433) -/

/-- The requester's owner tag is the owner and the owner is ACTIVE (R411). -/
def ownerServed (s : State) (r : GrnReq) : Bool :=
  decide (r.tag = r.owner) && (if h : r.owner.toNat < 64 then decide (ownerState s ⟨r.owner.toNat, h⟩ = Owner.active) else false)

/-- A drawn private value below the order: a free value in 1 to n − 1. -/
def drawScalar (s : State) : Nat × State :=
  let (x, s) := draw 256 s
  (1 + x.toNat % (p256N - 1), s)

/-- The first `n` bytes of successive 32-byte draws. -/
def drawBytes : Nat → State → List Byte × State
  | 0, s => ([], s)
  | n + 1, s =>
    let (x, s) := draw 256 s
    let (bs, s) := drawBytes n s
    (bytesOf x 0 32 ++ bs, s)

/-- A signature: a secret whose r or s would be 0 is drawn again. -/
def signDigest (d : Nat) (dg : List Byte) (s : State) : Option (List Byte) × State :=
  let (k, s) := drawScalar s
  match ecdsaSign d k dg with
  | some sg => (some sg, s)
  | none =>
    let (k, s) := drawScalar s
    (ecdsaSign d k dg, s)

/-- EXPORT's subject: a key of the same owner, valid for the requester, without NOEXPORT (R430). -/
def exportKey (j : GrnJob) (s : State) : Option (KeyInfo × Option (Fin 48)) × State :=
  walkPath j.r.owner.toNat (j.r.auxLen.toNat / 64) j.aux (fun k => admits j k && !attrNoExport k.attr) s

/-- A key as a leaf's plaintext (R416). -/
def leafPlain (k : KeyInfo) : List Byte :=
  (if k.alg = 2 then beBytes 32 (scalarOf false k) else k.key) ++ leBytes 1 k.usage ++ leBytes 1 k.alg ++ [0, 0] ++
    leBytes 4 k.attr ++ leBytes 8 k.notAfter

/-- The depth at which the request's key stands. -/
def keyDepth (r : GrnReq) : Nat := r.depth.toNat + (if leafFlag r.flags.toNat then 1 else 0)

/-- The algorithm of each key-use command under its key (R430, R431); none is a usage mismatch. -/
def useKey (j : GrnJob) (k : KeyInfo) (s : State) : Option GrnResult × State :=
  let leaf := leafFlag j.r.flags.toNat
  let n := j.r.trunc.toNat
  match j.r.opc.toNat with
  | 0x01 =>
    let (iv, s) := draw 96 s
    let ivb := bytesOf iv 0 12
    let (c, tag) := gcmSeal k.key ivb j.aad j.inp
    (some (performed (ivb ++ c ++ tag)), s)
  | 0x02 =>
    let c := bytesAt j.inp 12 (j.inp.length - 28)
    match gcmOpen k.key (j.inp.take 12) j.aad c (j.inp.drop (j.inp.length - 16)) with
    | some p => (some (performed p), s)
    | none => (some { verdict := 1, out := List.replicate c.length 0, written := c.length }, s)
  | 0x03 => (some (performed (keyWrap k.key j.inp)), s)
  | 0x04 =>
    match keyUnwrap k.key j.inp with
    | some p => (some (performed p), s)
    | none => (some { verdict := 1, out := List.replicate (j.inp.length - 8) 0, written := j.inp.length - 8 }, s)
  | 0x05 =>
    if keyDepth j.r ≤ 7 ∧ (leafInfo s j.r.owner.toNat k [] j.inp).isSome then (some (performed (keyWrap k.key j.inp)), s)
    else (none, s)
  | 0x06 =>
    let (sub, s) := exportKey j s
    (sub.map fun p => performed (keyWrap k.key (leafPlain p.1)), s)
  | 0x10 => (some (performed ((hmac k.key j.inp).take n)), s)
  | 0x11 => (some { verdict := if (hmac k.key j.inp).take n = j.aux then 0 else 2 }, s)
  | 0x12 =>
    let (sg, s) := signDigest (scalarOf leaf k) (sha256 j.inp) s
    (sg.map performed, s)
  | 0x13 => (some (performed (publicKey (scalarOf leaf k))), s)
  | 0x14 => ((ecdhShared (scalarOf leaf k) j.inp).map performed, s)
  | _ => (none, s)

/-- The key's classes and ALG serve the opcode (R428). -/
def keyServes (opc : Nat) (k : KeyInfo) : Bool := match opKey opc with
  | none => false
  | some (cls, alg) => decide (k.usage &&& cls ≠ 0) && decide (k.alg = alg)

/-- Slots that a request has filled and that its mismatch empties again (R411). -/
def undoFill (before : Vector KeySlot 48) (ks : List (Fin 48)) (s : State) : State :=
  ks.foldl (fun s k => if (vget before k).id = (vget s.grn.slots k).id ∧ (vget before k).st ≠ .free then s else setSlot k {} s) s

/-- A key-use command: the walk, the usage, any dual control, the algorithm. -/
def keyCommand (j : GrnJob) (s : State) : GrnResult × State :=
  let o := j.r.owner.toNat
  if !ownerServed s j.r then mismatchKind (refusalKind s j.r) j s
  else
    let leaf := if leafFlag j.r.flags.toNat then some j.r.blob else none
    let before := s.grn.slots
    let (found, s) := keyOf o j.r.depth.toNat j.r.path leaf (fun k => keyServes j.r.opc.toNat k && admits j k) s
    match found with
    | none => mismatch j s
    | some (k, ks) =>
      let ok := !attrDual k.attr || keyAuthOk s j
      let s := if attrDual k.attr && dcFlag j.r.flags.toNat then countAuth ok s else s
      if !ok then mismatch j (undoFill before ks s)
      else match useKey j k s with
        | (some r, s) => (r, s)
        | (none, s) => mismatch j (undoFill before ks s)

/-! ### Owner operations (R436 to R441) -/

/-- An owner operation is refused with a code (R437). -/
def refuse (code : Nat) (s : State) : GrnResult × State :=
  ({ verdict := 3 }, { s with grn := { s.grn with reason := BitVec.ofNat 4 code, refused := satInc s.grn.refused } })

def acceptAuth (s : State) : State := countAuth true s

/-- The imported root (R439): opened under the transport key; none where Qc or the tag fails. ASCII "OLIMP". -/
def importRoot (s : State) (j : GrnJob) (priv : Nat) : Option (List Byte) :=
  let qc := bytesAt j.inp 0 64
  let nonce := authNonce j.r.auth
  (ecdhShared priv qc).bind fun x =>
    let tk := hmac x ([0x4F, 0x4C, 0x49, 0x4D, 0x50] ++ nonce)
    gcmOpen tk (nonce.take 12) ([j.r.owner] ++ (seedOfficers s j.r.owner.toNat).getD []) (bytesAt j.inp 64 32) (bytesAt j.inp 96 16)

/-- The officer set at AUX, or the seed's. -/
def opSet (s : State) (j : GrnJob) (opc o : Nat) : List Byte :=
  if opc = 0x32 ∨ opc = 0x33 then j.aux
  else ((ownerEntry s (if opc = 0x34 then 0 else o)).map officerSet).getD []

/-- The owner's state permits the operation (check 4). -/
def opState (s : State) (opc : Nat) (st : BitVec 4) : Bool :=
  match opc with
  | 0x31 => decide (st = Owner.declared) && !s.grn.pufFail
  | 0x32 => decide (st = Owner.active ∨ st = Owner.escrowWait ∨ st = Owner.rebind ∨ st = Owner.orphaned ∨ st = Owner.lost)
  | 0x33 => decide (st = Owner.rebind)
  | _ => true

/-- PARAM and the officer set (check 5); of CREATE with IMPORT the root as well. -/
def opParam (s : State) (j : GrnJob) (opc o : Nat) (imported : Option (List Byte)) : Bool :=
  let p := authParam j.r.auth
  let seed := (seedOfficers s o).getD []
  let recOk := fun (tail : List Byte → List Byte) => match rootRecord s o with
    | none => false
    | some (_, r) => decide (p = sha256 (recDigest r ++ tail r)) && decide (sha256 j.aux = recDigest r)
  match opc with
  | 0x31 => decide (p = sha256 (seed ++ j.inp)) && (!importFlag j.r.flags.toNat || imported.isSome)
  | 0x32 => recOk fun r => bytesAt r 6 2
  | 0x33 => recOk fun _ => seed
  | _ => match escInForce s with
    | none => true
    | some b => decide (p = sha256 (escHeader s b))

/-- RESTORE is open (check 6, R441). -/
def restoreOpen (s : State) : Bool :=
  !escBarred s && (match escFind s 0 with
    | none => false
    | some e => decide (some (bytesAt e 16 32) = seedOfficers s 0))

/-- A new owner's root: the one imported, or a free value (R436). -/
def newRoot (imported : Option (List Byte)) (s : State) : List Byte × State := match imported with
  | some r => (r, s)
  | none =>
    let (x, s) := draw 256 s
    (bytes256 x, s)

/-- The root and record of CREATE (R438): none where the increment is refused. -/
def createOwner (j : GrnJob) (o : Fin 64) (imported : Option (List Byte)) (s : State) : GrnResult × State :=
  let (root, s) := newRoot imported s
  let (ok, s) := incrementCounter 3 s
  if !ok then refuse 4 s
  else
    let gen := counterValue s 3 % 2 ^ 16
    let s := writeRoot o.val (bit (importFlag j.r.flags.toNat)) gen ((seedOfficers s o.val).getD []) root (acceptAuth s)
    let s := judgeOwners (holdRoot o.val root s)
    let s := if escrows s o.val then writeEscrow s else s
    (performed (leBytes 2 gen), s)

/-- DELETE (R440). -/
def deleteOwner (o : Fin 64) (s : State) : GrnResult × State :=
  let s := eraseRoot o.val (acceptAuth s)
  let s := freeSlots (fun k => decide (k.owner.toNat = o.val))
    { s with grn := { s.grn with roots := tabPut none s.grn.roots o.val none } }
  (performed [], writeEscrow (judgeOwners s))

/-- REBIND (R440): the same root and GEN under the seed's officers. -/
def rebindOwner (o : Fin 64) (s : State) : GrnResult × State :=
  match rootRecord s o.val, rootOf s o.val with
  | some (_, r), some root =>
    let s := writeRoot o.val (numAt r 5 1) (recGen r) ((seedOfficers s o.val).getD []) root (acceptAuth s)
    let s := freeSlots (fun k => decide (k.owner.toNat = o.val)) s
    (performed [], writeEscrow (judgeOwners s))
  | _, _ => refuse 4 s

/-- One entry of the escrow restored: whether its root opened (R441). -/
def restoreEntry (h48 : List Byte) (e : List Byte) (s : State) : Bool × State :=
  let o := numAt e 0 1
  if h : o < 64 then
    if ownerState s ⟨o, h⟩ = Owner.escrowWait then
      match gcmOpen (escKey s) (bytesAt e 4 12) (h48 ++ e.take 48) (bytesAt e 48 32) (bytesAt e 80 16) with
      | none => (false, s)
      | some root => (true, holdRoot o root (writeRoot o (numAt e 1 1) (numAt e 2 2) (bytesAt e 16 32) root s))
    else (false, s)
  else (false, s)

def restoreAll (h48 : List Byte) : List (List Byte) → State → Nat × State
  | [], s => (0, s)
  | e :: es, s =>
    let (ok, s) := restoreEntry h48 e s
    let (n, s) := restoreAll h48 es s
    (n + bit ok, s)

/-- RESTORE (R441). -/
def restoreOwners (s : State) : GrnResult × State :=
  match escInForce s with
  | none => refuse 6 s
  | some b =>
    let (n, s) := restoreAll ((escHeader s b).take 48) (escEntries s) (acceptAuth s)
    (performed [BitVec.ofNat 8 n], judgeOwners s)

/-- An owner operation under its checks in order (R437). -/
def ownerCommand (j : GrnJob) (s : State) : GrnResult × State :=
  let opc := j.r.opc.toNat
  let o := j.r.owner.toNat
  let a := j.r.auth
  let priv := ((findNonce s (authNonce a)).map fun n => n.priv.toNat).getD 0
  let code := if dcFlag j.r.flags.toNat then authBasics s a opc o (opSet s j opc o) else 1
  let s := if dcFlag j.r.flags.toNat then killNonce (authNonce a) s else s
  if code ≠ 0 then refuse code s
  else if h : o < 64 then
    let imported := if opc = 0x31 ∧ importFlag j.r.flags.toNat then importRoot s j priv else none
    if !opState s opc (ownerState s ⟨o, h⟩) then refuse 4 s
    else if !opParam s j opc o imported then refuse 5 s
    else match opc with
      | 0x31 => createOwner j ⟨o, h⟩ imported s
      | 0x32 => deleteOwner ⟨o, h⟩ s
      | 0x33 => rebindOwner ⟨o, h⟩ s
      | _ => if restoreOpen s then restoreOwners s else refuse 6 s
  else mismatch j s

/-- NONCE (R434): a fifth live nonce replaces the oldest. -/
def drawNonce (s : State) : GrnResult × State :=
  let (n, s) := draw 128 s
  let (d, s) := drawScalar s
  let live := s.grn.nonces ++ [{ nonce := n, priv := BitVec.ofNat 256 d, issued := s.now }]
  let s := { s with grn := { s.grn with nonces := live.drop (live.length - 4) } }
  (performed (bytesOf n 0 16 ++ publicKey d), s)

/-- One command: the entropy, its form, who asks, then its work (R427, R430, R433, R444). -/
def runJob (j : GrnJob) (entropyOk : Bool) (s : State) : GrnResult × State :=
  let opc := j.r.opc.toNat
  let s := if opDraws opc then { s with grn := { s.grn with entFail := !entropyOk } } else s
  if j.r.malformed then mismatch j s
  else if opDraws opc && !entropyOk then ({ status := 1 }, s)
  else if !modeServes s opc then mismatch j s
  else if opc = 0x20 then (performed (sha256 j.inp), s)
  else if opc = 0x21 then
    let n := j.r.outLen.toNat
    let (bs, s) := drawBytes ((n + 31) / 32) s
    (performed (bs.take n), s)
  else if opc = 0x30 then drawNonce s
  else if opOwner opc then
    if !mayOwner s j opc j.r.owner.toNat then mismatchKind (refusalKind s j.r) j s else ownerCommand j s
  else
    let (r, s) := keyCommand j s
    (r, if dcFlag j.r.flags.toNat then killNonce (authNonce j.r.auth) s else s)

/-- The command's figures (R445). -/
def noteCommand (j : GrnJob) (r : GrnResult) (s : State) : State :=
  { s with grn := { s.grn with cmds := satInc s.grn.cmds, lastOpc := j.r.opc, lastOwner := j.r.owner, lastVerdict := r.verdict
                               lastStatus := r.status } }

/-- The command at the head of GRQ runs to its completion in GRC (R424 to R433). -/
def runHead (r : GrnReq) (entropyOk : Bool) (s : State) : State :=
  let s := qLeave 92 16 s.grn.grq.length { s with grn := { s.grn with grq := s.grn.grq.drop 1 } }
  let j : GrnJob := { r := r, inp := sramRead s r.inAddr.toNat r.inLen.toNat, aad := sramRead s r.aadAddr.toNat r.aadLen.toNat
                      aux := sramRead s r.auxAddr.toNat r.auxLen.toNat, headland := false }
  let (res, s) := runJob j entropyOk s
  let s := if res.out = [] then s else sramWrite r.outAddr.toNat res.out s
  let slots := busySlots s
  let d : GrnDone := { caller := r.caller, status := res.status, verdict := res.verdict, written := BitVec.ofNat 32 res.written
                       slots := slots }
  let s := noteCommand j res (settleSlots .transit s)
  qJoin 93 16 s.grn.grc.length { s with grn := { s.grn with grc := s.grn.grc ++ [d] } }

/-- A row of an opcode: it acts on the request at the head of GRQ once the Granary is READY (R405, R427). -/
def onGrq (p : Byte → Bool) (entropyOk : Bool) (s : State) : State :=
  match s.grn.grq with
  | [] => s
  | r :: _ => if p r.opc && s.grn.ready && granaryServes s then runHead r entropyOk s else s

/-- SEAL (R429, R430). -/
def execSeal (entropyOk : Bool) (s : State) : Host.Outcome State Fault Refusal := .next (onGrq (· == 0x01) entropyOk s)
/-- OPEN (R429, R430). -/
def execGrnOpen (s : State) : Host.Outcome State Fault Refusal := .next (onGrq (· == 0x02) true s)
/-- WRAP (R429, R430). -/
def execWrap (s : State) : Host.Outcome State Fault Refusal := .next (onGrq (· == 0x03) true s)
/-- UNWRAP (R429, R430). -/
def execUnwrap (s : State) : Host.Outcome State Fault Refusal := .next (onGrq (· == 0x04) true s)
/-- MKLEAF (R416, R417, R430). -/
def execMkleaf (s : State) : Host.Outcome State Fault Refusal := .next (onGrq (· == 0x05) true s)
/-- EXPORT (R430). -/
def execGrnExport (s : State) : Host.Outcome State Fault Refusal := .next (onGrq (· == 0x06) true s)
/-- RESPOND (R431). -/
def execRespond (s : State) : Host.Outcome State Fault Refusal := .next (onGrq (· == 0x10) true s)
/-- CHECK (R431). -/
def execCheck (s : State) : Host.Outcome State Fault Refusal := .next (onGrq (· == 0x11) true s)
/-- SIGN (R430). -/
def execSign (entropyOk : Bool) (s : State) : Host.Outcome State Fault Refusal := .next (onGrq (· == 0x12) entropyOk s)
/-- PUBKEY (R429). -/
def execPubkey (s : State) : Host.Outcome State Fault Refusal := .next (onGrq (· == 0x13) true s)
/-- ECDH (R430). -/
def execEcdh (s : State) : Host.Outcome State Fault Refusal := .next (onGrq (· == 0x14) true s)
/-- HASH (R429); a request of a reserved opcode is a mismatch and is answered here as well (R427 › Edges). -/
def execHash (s : State) : Host.Outcome State Fault Refusal := .next (onGrq (fun o => o == 0x20 || !opKnown o.toNat) true s)
/-- RANDOM (R430). -/
def execRandom (entropyOk : Bool) (s : State) : Host.Outcome State Fault Refusal := .next (onGrq (· == 0x21) entropyOk s)
/-- NONCE (R434). -/
def execNonce (entropyOk : Bool) (s : State) : Host.Outcome State Fault Refusal := .next (onGrq (· == 0x30) entropyOk s)
/-- CREATE (R438, R439). -/
def execCreate (entropyOk : Bool) (s : State) : Host.Outcome State Fault Refusal := .next (onGrq (· == 0x31) entropyOk s)
/-- DELETE (R440). -/
def execDelete (s : State) : Host.Outcome State Fault Refusal := .next (onGrq (· == 0x32) true s)
/-- REBIND (R440). -/
def execRebind (s : State) : Host.Outcome State Fault Refusal := .next (onGrq (· == 0x33) true s)
/-- RESTORE (R441). -/
def execRestore (s : State) : Host.Outcome State Fault Refusal := .next (onGrq (· == 0x34) true s)

/-- GRANARY_START (R403, R405, R419 › Edges, R422). -/
def execGranaryStart (pufOk : Bool) (s : State) : Host.Outcome State Fault Refusal := .next (granaryStartOp pufOk s)

/-- NONCE_EXPIRE (R434): every nonce whose 120 s have passed is gone, its private key with it. -/
def execNonceExpire (s : State) : Host.Outcome State Fault Refusal :=
  .next { s with grn := { s.grn with nonces := s.grn.nonces.filter (nonceLives s) } }

/-- REMASK_PASS (R418, R419). -/
def execRemaskPass (s : State) : Host.Outcome State Fault Refusal := .next (remaskOp s)

/-- BACKUP_SHARE_INVERT (R419): in Backup both share registers are inverted every 3,600 s. -/
def execBackupShareInvert (s : State) : Host.Outcome State Fault Refusal :=
  .next (if s.sys.mode = Mode.backup ∧ ¬ s.bkp.held ∧ s.bkp.invertAt + 900000000000 ≤ s.now then
    { s with bkp := { s.bkp with share := ~~~s.bkp.share, mask := ~~~s.bkp.mask, invertAt := s.bkp.invertAt + 900000000000 } }
  else s)

/-- GRANARY_COMPLETION (R426, R413, R157): the head of GRC is read; its slots are Cached. -/
def execGranaryCompletion (s : State) : Host.Outcome State Fault Refusal :=
  .next (match s.grn.grc with
  | [] => s
  | d :: rest =>
    match deliverDone 4 d.caller d.status d.verdict d.written s with
    | none => s
    | some s =>
      let later := rest.flatMap fun x => x.slots
      let s := d.slots.foldl (fun s k =>
        let x := vget s.grn.slots k
        if x.st = .transit ∧ k ∉ later then setSlot k { x with st := .cached } s else s) s
      qLeave 93 16 (rest.length + 1) { s with grn := { s.grn with grc := rest } })

end Sys2Proof.Machine
end

