-- ==== Sys2Proof/Machine/Float.lean ====
section
/-! DEFINITION. The tile engine's floating point: exact dyadic values, rounding to nearest even with subnormals flushed,
and the operations of R350 and R358. -/

namespace Sys2Proof.Machine

/-- A floating-point value: a NaN, an infinity with its sign, or a signed multiple of a power of two. -/
inductive Fv where
  | nan (signalling : Bool)
  | inf (neg : Bool)
  | fin (neg : Bool) (m : Nat) (e : Int)
  deriving DecidableEq, Repr

/-- A format by its exponent and fraction widths (R348). -/
structure FloatFmt where
  eb : Nat
  fb : Nat
  deriving DecidableEq, Repr

def binary16 : FloatFmt := { eb := 5, fb := 10 }
def bfloat16 : FloatFmt := { eb := 8, fb := 7 }
def binary32 : FloatFmt := { eb := 8, fb := 23 }

def FloatFmt.bias (f : FloatFmt) : Nat := 2 ^ (f.eb - 1) - 1

/-- A bit pattern as a value; a subnormal input is zero of its sign (R350). -/
def floatOf (f : FloatFmt) (x : Nat) : Fv :=
  let neg := x.testBit (f.eb + f.fb)
  let ex := x / 2 ^ f.fb % 2 ^ f.eb
  let fr := x % 2 ^ f.fb
  if ex = 2 ^ f.eb - 1 then (if fr = 0 then .inf neg else .nan (!fr.testBit (f.fb - 1)))
  else if ex = 0 then .fin neg 0 0
  else .fin neg (2 ^ f.fb + fr) ((ex : Int) - f.bias - f.fb)

/-- `m` shifted right by `k`, rounded to nearest even. -/
def shiftRne (m k : Nat) : Nat :=
  let q := m >>> k
  let r := m % 2 ^ k
  if 2 * r > 2 ^ k ∨ (2 * r = 2 ^ k ∧ q % 2 = 1) then q + 1 else q

/-- The quiet NaN of R350. -/
def quietNan (f : FloatFmt) : Nat := (2 ^ f.eb - 1) * 2 ^ f.fb + 2 ^ (f.fb - 1)
def signBit (f : FloatFmt) (neg : Bool) : Nat := if neg then 2 ^ (f.eb + f.fb) else 0
def infBits (f : FloatFmt) (neg : Bool) : Nat := signBit f neg + (2 ^ f.eb - 1) * 2 ^ f.fb

/-- A value in a format: its bits, and whether FPX is raised by overflow (R350). -/
def floatBits (f : FloatFmt) : Fv → Nat × Bool
  | .nan _ => (quietNan f, false)
  | .inf neg => (infBits f neg, false)
  | .fin neg m e =>
    if m = 0 then (signBit f neg, false)
    else
      let emin : Int := 1 - f.bias
      let sh : Int := max ((Nat.log2 m : Int) - f.fb) (emin - f.fb - e)
      let q := if 0 ≤ sh then shiftRne m sh.toNat else m <<< (-sh).toNat
      -- a carry out of the significand
      let (q, e') : Nat × Int := if q = 2 ^ (f.fb + 1) then (2 ^ f.fb, e + sh + 1) else (q, e + sh)
      let ex : Int := e' + f.fb + f.bias
      if q < 2 ^ f.fb then (signBit f neg, false)
      else if (2 ^ f.eb - 1 : Int) ≤ ex then (infBits f neg, true)
      else (signBit f neg + ex.toNat * 2 ^ f.fb + (q - 2 ^ f.fb), false)

def isSig : Fv → Bool
  | .nan sg => sg
  | _ => false
def isNan : Fv → Bool
  | .nan _ => true
  | _ => false

/-- A signed multiple of 2^e as an integer. -/
def signed (neg : Bool) (m : Nat) : Int := if neg then -(m : Int) else m

/-- Sum: the exact value, and whether the operation is invalid. -/
def floatAdd (a b : Fv) : Fv × Bool :=
  match a, b with
  | .nan _, _ | _, .nan _ => (.nan false, isSig a || isSig b)
  | .inf x, .inf y => if x = y then (.inf x, false) else (.nan false, true)
  | .inf x, _ => (.inf x, false)
  | _, .inf y => (.inf y, false)
  | .fin x m e, .fin y n g =>
    let lo := min e g
    let v := signed x m * 2 ^ (e - lo).toNat + signed y n * 2 ^ (g - lo).toNat
    if v = 0 then (.fin (x && y) 0 0, false) else (.fin (decide (v < 0)) v.natAbs lo, false)

def floatNeg : Fv → Fv
  | .nan sg => .nan sg
  | .inf x => .inf (!x)
  | .fin x m e => .fin (!x) m e

/-- Product, exact. -/
def floatMul (a b : Fv) : Fv × Bool :=
  match a, b with
  | .nan _, _ | _, .nan _ => (.nan false, isSig a || isSig b)
  | .inf x, .inf y => (.inf (x != y), false)
  | .inf x, .fin y n _ => if n = 0 then (.nan false, true) else (.inf (x != y), false)
  | .fin x m _, .inf y => if m = 0 then (.nan false, true) else (.inf (x != y), false)
  | .fin x m e, .fin y n g => (.fin (x != y) (m * n) (e + g), false)

/-- `a` is below `b`, neither a NaN; a negative zero is below a positive one. -/
def floatLt (a b : Fv) : Bool :=
  match a, b with
  | .inf x, .inf y => x && !y
  | .inf x, .fin .. => x
  | .fin .., .inf y => !y
  | .fin x m e, .fin y n g =>
    let lo := min e g
    let v := signed x m * 2 ^ (e - lo).toNat
    let w := signed y n * 2 ^ (g - lo).toNat
    decide (v < w) || (decide (v = w) && x && !y)
  | _, _ => false

/-- The lesser, or the greater; a NaN operand gives a NaN (R359). -/
def floatMin (a b : Fv) : Fv × Bool :=
  if isNan a || isNan b then (.nan false, isSig a || isSig b) else (if floatLt b a then b else a, false)
def floatMax (a b : Fv) : Fv × Bool :=
  if isNan a || isNan b then (.nan false, isSig a || isSig b) else (if floatLt a b then b else a, false)

/-- An integer as a value. -/
def floatOfInt (v : Int) : Fv := .fin (decide (v < 0)) v.natAbs 0

/-- A value rounded to the nearest even integer; infinities stand beyond every format (R355). -/
def intOfFloat : Fv → Option Int
  | .nan _ => none
  | .inf neg => some (if neg then -(2 ^ 64) else 2 ^ 64)
  | .fin neg m e =>
    let v := if 0 ≤ e then m <<< e.toNat else shiftRne m (-e).toNat
    some (signed neg v)

end Sys2Proof.Machine
end

