-- ==== Sys2Proof/Machine/Tiles.lean ====
section
/-! DEFINITION. The tile engine: formats, conversions, loads, stores, matrix and element operations (16, 15). -/

namespace Sys2Proof.Machine

/-! ### Tiles (R347 to R349) -/

def tile (s : State) (t : Tile) : TileReg := vget s.tile.tiles t
def setTile (t : Tile) (x : TileReg) (s : State) : State := { s with tile := { s.tile with tiles := vset s.tile.tiles t x } }

def fmtSize (f : Nat) : Nat := if f ≤ 1 then 1 else if f ≤ 4 then 2 else 4
def fmtFloat (f : Nat) : Option FloatFmt :=
  if f = 3 then some binary16 else if f = 4 then some bfloat16 else if f = 6 then some binary32 else none
def fmtSigned (f : Nat) : Bool := decide (f ≠ 1)

def Geom.size (g : Geom) : Nat := fmtSize g.fmt.toNat
/-- Elements in a row. -/
def Geom.elems (g : Geom) : Nat := g.rbytes.toNat / g.size

/-- An element of a tile: an integer, or a floating-point pattern. -/
inductive Elem where
  | int (v : Int)
  | flt (bits : Nat)
  deriving DecidableEq, Repr

/-- Little-endian bytes as an element of a format. -/
def elemOf (f : Nat) (bs : List Byte) : Elem :=
  let x := leNat bs
  if (fmtFloat f).isSome then .flt x
  else if fmtSigned f && x.testBit (8 * fmtSize f - 1) then .int ((x : Int) - 2 ^ (8 * fmtSize f))
  else .int x

/-- An element's stored bytes. -/
def elemBytes (f : Nat) : Elem → List Byte
  | .int v => leBytes (fmtSize f) (v % 2 ^ 64).toNat
  | .flt x => leBytes (fmtSize f) x

/-- Element [i][j]: of an int32 tile all 40 bits (R349). -/
def tileElem (x : TileReg) (i j : Nat) : Elem :=
  let f := x.geom.fmt.toNat
  let sz := x.geom.size
  let bs := memBytes 0 x.bytes (64 * i + j * sz) sz
  if f = 5 then
    let g := (tabGet 0 x.guards (16 * i + j)).toInt
    .int (g * 2 ^ 32 + leNat bs)
  else elemOf f bs

def putTileElem (x : TileReg) (i j : Nat) (e : Elem) : TileReg :=
  let f := x.geom.fmt.toNat
  let y := { x with bytes := memStore 0 x.bytes (64 * i + j * x.geom.size) (elemBytes f e) }
  match f, e with
  | 5, .int v => { y with guards := tabPut 0 y.guards (16 * i + j) (BitVec.ofInt 8 (v / 2 ^ 32)) }
  | _, _ => y

/-! ### Saturation and conversion (R349, R355) -/

/-- The least and greatest value of an integer format in memory. -/
def intRange (f : Nat) : Int × Int :=
  match f with
  | 0 => (-128, 127)
  | 1 => (0, 255)
  | 2 => (-32768, 32767)
  | _ => (-(2 ^ 31), 2 ^ 31 - 1)

/-- An accumulator's range. -/
def accMax : Int := 2 ^ 39 - 1

def clampTo (lo hi v : Int) : Int := if v < lo then lo else if hi < v then hi else v

/-- What an operation on elements raises: OVF 0, SAT 1, FPX 2, BAD 3, as in TileReg.flags. -/
structure Raised where
  ovf : Bool := false
  sat : Bool := false
  fpx : Bool := false
  bad : Bool := false
  deriving DecidableEq, Repr

def Raised.or (a b : Raised) : Raised :=
  { ovf := a.ovf || b.ovf, sat := a.sat || b.sat, fpx := a.fpx || b.fpx, bad := a.bad || b.bad }

def Raised.bits (r : Raised) : BitVec 4 := BitVec.ofNat 4 (bit r.ovf + 2 * bit r.sat + 4 * bit r.fpx + 8 * bit r.bad)

/-- An integer into an integer format, `acc` when the target is an accumulator. -/
def toInt (f : Nat) (acc : Bool) (v : Int) : Elem × Raised :=
  let (lo, hi) := if acc then (-accMax, accMax) else intRange f
  (.int (clampTo lo hi v), { sat := decide (v < lo ∨ hi < v) })

/-- A floating-point value into a float format. -/
def toFloat (fmt : FloatFmt) (v : Fv × Bool) : Elem × Raised :=
  let (b, exceeds) := floatBits fmt v.1
  (.flt b, { fpx := exceeds || v.2 })

/-- The conversion of R355 from format `src` to `dst`; `dstAcc` says that the target is an accumulator element. -/
def convert (src dst : Nat) (dstAcc : Bool) (e : Elem) : Elem × Raised :=
  match e, fmtFloat src, fmtFloat dst with
  | .int v, _, none => toInt dst dstAcc v
  | .int v, _, some g => toFloat g (floatOfInt v, false)
  | .flt b, some f, none =>
    match intOfFloat (floatOf f b) with
    | none => (.int 0, { fpx := true })
    | some v => toInt dst dstAcc v
  | .flt b, some f, some g => if src = dst then (.flt b, {}) else toFloat g (floatOf f b, isSig (floatOf f b))
  | .flt b, none, _ => (.flt b, {})

/-! ### Worlds (R341) -/

/-- The tile is the issuing world's own, or free to it. -/
def tileOpen (s : State) (encl : Bool) (t : Tile) : Bool :=
  if s.tile.policy then encl || !(tile s t).marked else s.tile.enclTiles.getLsbD t.val == encl

/-- The tile as the issuing world reads it: zeros where it is the other's. -/
def readTile (s : State) (encl : Bool) (t : Tile) : TileReg :=
  if tileOpen s encl t then tile s t else { tile s t with bytes := [], guards := [] }

/-- A tile written: dropped where it is the other world's; marked when the Enclosure writes it under POLICY 1. -/
def writeTile (encl : Bool) (t : Tile) (x : TileReg) (s : State) : State :=
  if tileOpen s encl t then setTile t { x with marked := x.marked || (s.tile.policy && encl) } s else s

/-- Flags raised on a tile and for its thread's next TNOTE (R361, R364). -/
def raiseFlags (encl : Bool) (th : Thread) (t : Tile) (r : Raised) (rows : Nat) (s : State) : State :=
  if !tileOpen s encl t then s
  else
    let x := tile s t
    let s := setTile t { x with flags := x.flags ||| r.bits, ovrow := x.ovrow ||| BitVec.ofNat 64 rows } s
    { s with tile := { s.tile with since := vset s.tile.since th (vget s.tile.since th ||| r.bits) } }

/-! ### Memory rows (R354, R356) -/

/-- The control word of TLD and TST. -/
def ctlTrans (c : Word) : Bool := c.getLsbD 19
def ctlFmt (c : Word) : Nat := bitsAt c 16 3
def ctlStride (c : Word) : Nat := bitsAt c 0 16
def memCtlOk (c : Word) : Bool := decide (bitsAt c 20 12 = 0 ∧ ctlFmt c ≠ 7)

/-- The address of memory row `r`. -/
def rowAddr (addr c : Word) (r : Nat) : Nat :=
  let sz := fmtSize (ctlFmt c)
  let a := (addr.toNat + r * ctlStride c) % 2 ^ 32
  a - a % sz

/-- How many memory rows, and elements in each. -/
def memShape (g : Geom) (c : Word) : Nat × Nat := if ctlTrans c then (g.elems, g.rows.toNat) else (g.rows.toNat, g.elems)

/-- The issuing thread's right to a row, decided once for the whole row. -/
def rowAllowed (s : State) (encl : Bool) (owner : Byte) (write : Bool) (a len : Nat) : Bool :=
  (inSram a len || (!write && inFlash a len)) &&
    (encl || guardPasses s { bay := none, owner := owner } (if write then permW else permR) a len)

/-- What a refused row records. -/
def refuseRow (th : Thread) (encl : Bool) (write : Bool) (a len : Nat) (s : State) : State :=
  let kind : Vio := if (inSram a len || (!write && inFlash a len)) && !encl then .guard else .block
  violateSrc th.val kind (BitVec.ofNat 32 a) write false s

/-- Bytes of SRAM or flash. -/
def rowBytes (s : State) (a len : Nat) : List Byte := if inFlash a len then flashRead s a len else sramRead s a len

/-- The tile element that element `k` of memory row `r` is. -/
def rowElem (c : Word) (r k : Nat) : Nat × Nat := if ctlTrans c then (k, r) else (r, k)

/-- One memory row loaded into a tile: conversion of each element, what it raises, the elements placed. -/
def loadElems (c : Word) (r : Nat) (bs : List Byte) : Nat → Nat → TileReg × Raised → TileReg × Raised
  | 0, _, x => x
  | n + 1, k, (x, fl) =>
    let f := ctlFmt c
    let sz := fmtSize f
    let dst := x.geom.fmt.toNat
    let (e, fl') := convert f dst (decide (dst = 5)) (elemOf f (bytesAt' bs (k * sz) sz))
    let (i, j) := rowElem c r k
    loadElems c r bs n (k + 1) (putTileElem x i j e, fl.or fl')
where bytesAt' (bs : List Byte) (off n : Nat) : List Byte := (bs.drop off).take n

def loadRows (th : Thread) (encl : Bool) (owner : Byte) (addr c : Word) (n : Nat) : Nat → Nat → TileReg × Raised → State →
    (TileReg × Raised) × State
  | 0, _, x, s => (x, s)
  | m + 1, r, x, s =>
    let a := rowAddr addr c r
    let len := n * fmtSize (ctlFmt c)
    let ok := rowAllowed s encl owner false a len
    let bs := if ok then rowBytes s a len else List.replicate len 0
    loadRows th encl owner addr c n m (r + 1) (loadElems c r bs n 0 x) (if ok then s else refuseRow th encl false a len s)

/-- BAD: the instruction has no effect but the flag (R361). -/
def tileBad (encl : Bool) (th : Thread) (t : Tile) (s : State) : State := raiseFlags encl th t { bad := true } 0 s

/-- TLD (R354 to R356). -/
def tldOp (th : Thread) (encl : Bool) (owner : Byte) (td : Tile) (addr c : Word) (s : State) : State :=
  if !memCtlOk c then tileBad encl th td s
  else
    let x := tile s td
    let (m, n) := memShape x.geom c
    let ((x, fl), s) := loadRows th encl owner addr c n m 0 (x, {}) s
    raiseFlags encl th td fl 0 (writeTile encl td x s)

/-- One memory row of a store: its bytes and what the conversions raise. -/
def storeElems (x : TileReg) (c : Word) (r : Nat) : Nat → Nat → List Byte × Raised
  | 0, _ => ([], {})
  | n + 1, k =>
    let (i, j) := rowElem c r k
    let (e, fl) := convert x.geom.fmt.toNat (ctlFmt c) false (tileElem x i j)
    let (bs, fl') := storeElems x c r n (k + 1)
    (elemBytes (ctlFmt c) e ++ bs, fl.or fl')

def storeRows (th : Thread) (encl : Bool) (owner : Byte) (x : TileReg) (addr c : Word) (n : Nat) : Nat → Nat → Raised → State →
    Raised × State
  | 0, _, fl, s => (fl, s)
  | m + 1, r, fl, s =>
    let a := rowAddr addr c r
    let len := n * fmtSize (ctlFmt c)
    let (bs, fl') := storeElems x c r n 0
    let s := if rowAllowed s encl owner true a len then sramWrite a bs s else refuseRow th encl true a len s
    storeRows th encl owner x addr c n m (r + 1) (fl.or fl') s

/-- TST (R354 to R356). -/
def tstOp (th : Thread) (encl : Bool) (owner : Byte) (ta : Tile) (addr c : Word) (s : State) : State :=
  if !memCtlOk c then tileBad encl th ta s
  else
    let x := readTile s encl ta
    let (m, n) := memShape x.geom c
    let (fl, s) := storeRows th encl owner x addr c n m 0 {} s
    raiseFlags encl th ta fl 0 s

/-! ### TMMA (R357, R358) -/

/-- The formats' combination is accepted, and its rate R. -/
def mmaRate (fa fb fd : Nat) : Option Nat :=
  if fa ≤ 1 ∧ fb ≤ 1 ∧ fd = 5 then some 512
  else if fa = 2 ∧ fb = 2 ∧ fd = 5 then some 128
  else if (fa = 3 ∨ fa = 4) ∧ fb = fa ∧ fd = 6 then some 128
  else none

def intOf : Elem → Int
  | .int v => v
  | .flt _ => 0
def bitsOf : Elem → Nat
  | .int _ => 0
  | .flt b => b

/-- The exact sum of the products of a row of TA and a row of TB. -/
def dotInt (a b : TileReg) (i j : Nat) : Nat → Int
  | 0 => 0
  | k + 1 => dotInt a b i j k + intOf (tileElem a i k) * intOf (tileElem b j k)

/-- The products added one at a time in ascending k, each sum rounded. -/
def dotFloat (f : FloatFmt) (a b : TileReg) (i j : Nat) (start : Nat) : Nat → Nat × Bool
  | 0 => (start, false)
  | k + 1 =>
    let (acc, x) := dotFloat f a b i j start k
    let (p, bad) := floatMul (floatOf f (bitsOf (tileElem a i k))) (floatOf f (bitsOf (tileElem b j k)))
    let (sum, bad') := floatAdd (floatOf binary32 acc) p
    let (r, exceeds) := floatBits binary32 sum
    (r, x || bad || bad' || exceeds)

/-- Every element of an M by N result computed by `f`, which answers the element and what it raises. -/
def fillTile (x : TileReg) (m n : Nat) (f : Nat → Nat → Elem × Raised) : TileReg × Raised × Nat :=
  (List.range m).foldl (fun acc i =>
    (List.range n).foldl (fun (acc : TileReg × Raised × Nat) j =>
      let (e, r) := f i j
      (putTileElem acc.1 i j e, acc.2.1.or r, if r.ovf then acc.2.2 ||| (1 <<< i) else acc.2.2)) acc) (x, {}, 0)

/-- An integer total into an accumulator: OVF where it saturates (R349, R361). -/
def accElem (v : Int) : Elem × Raised := (.int (clampTo (-accMax) accMax v), { ovf := decide (v < -accMax ∨ accMax < v) })

def mmaElem (a b d : TileReg) (zeroed : Bool) (k i j : Nat) : Elem × Raised :=
  let fa := a.geom.fmt.toNat
  match fmtFloat fa with
  | none => accElem ((if zeroed then 0 else intOf (tileElem d i j)) + dotInt a b i j k)
  | some f =>
    let (r, x) := dotFloat f a b i j (if zeroed then 0 else bitsOf (tileElem d i j)) k
    (.flt r, { fpx := x })

def tmmaShapeOk (a b d : TileReg) (c : Word) : Bool :=
  decide (bitsAt c 1 31 = 0) && decide (a.geom.rows = d.geom.rows ∧ b.geom.rows.toNat = d.geom.elems ∧ b.geom.elems = a.geom.elems) &&
    (mmaRate a.geom.fmt.toNat b.geom.fmt.toNat d.geom.fmt.toNat).isSome

/-- TMMA (R357, R358). -/
def tmmaOp (th : Thread) (encl : Bool) (td ta tb : Tile) (c : Word) (s : State) : State :=
  let a := readTile s encl ta
  let b := readTile s encl tb
  let d := readTile s encl td
  if !tmmaShapeOk a b d c then tileBad encl th td s
  else
    let (x, fl, rows) := fillTile d d.geom.rows.toNat d.geom.elems (mmaElem a b d (c.getLsbD 0) a.geom.elems)
    raiseFlags encl th td fl rows (writeTile encl td x s)

/-! ### TEL (R359) -/

def telScalar (c : Word) : Bool := c.getLsbD 5
def telRow (c : Word) : Bool := c.getLsbD 4
def telCode (c : Word) : Nat := bitsAt c 0 4

def telShapeOk (a b d : TileReg) (c : Word) : Bool :=
  let op := telCode c
  decide (bitsAt c 6 26 = 0 ∧ op ≤ 6) && !(telScalar c && telRow c) &&
    decide (a.geom = d.geom) &&
    (decide (op = 5 ∨ op = 6) ||
      (decide (b.geom.fmt = a.geom.fmt) &&
        (telScalar c || (decide (b.geom.elems = a.geom.elems) && (telRow c || decide (b.geom.rows = a.geom.rows))))))

/-- An integer result in the tile's format. -/
def telInt (f : Nat) (v : Int) : Elem × Raised := if f = 5 then accElem v else toInt f false v

/-- One operation on two elements. -/
def telPair (f op : Nat) (a b : Elem) : Elem × Raised :=
  match fmtFloat f with
  | none =>
    let x := intOf a
    let y := intOf b
    telInt f (if op = 0 then x + y else if op = 1 then x - y else if op = 2 then x * y else if op = 3 then min x y else max x y)
  | some g =>
    let x := floatOf g (bitsOf a)
    let y := floatOf g (bitsOf b)
    toFloat g (if op = 0 then floatAdd x y else if op = 1 then floatAdd x (floatNeg y)
      else if op = 2 then floatMul x y else if op = 3 then floatMin x y else floatMax x y)

/-- The exact sum of a row. -/
def rowInt (a : TileReg) (i : Nat) : Nat → Int
  | 0 => 0
  | k + 1 => rowInt a i k + intOf (tileElem a i k)

/-- A row summed one element at a time from the first, each sum rounded (log entry 24). -/
def rowFloat (g : FloatFmt) (a : TileReg) (i : Nat) : Nat → Nat × Bool
  | 0 =>
    let x := floatOf g (bitsOf (tileElem a i 0))
    let (r, exceeds) := floatBits g x
    (r, isSig x || exceeds)
  | k + 1 =>
    let (acc, x) := rowFloat g a i k
    let (sum, bad) := floatAdd (floatOf g acc) (floatOf g (bitsOf (tileElem a i (k + 1))))
    let (r, exceeds) := floatBits g sum
    (r, x || bad || exceeds)

def telElem (a b : TileReg) (c : Word) (i j : Nat) : Elem × Raised :=
  let f := a.geom.fmt.toNat
  let op := telCode c
  if op = 5 then (tileElem a i j, {})
  else if op = 6 then
    if j ≠ 0 then (match fmtFloat f with
      | none => (.int 0, {})
      | some _ => (.flt 0, {}))
    else match fmtFloat f with
      | none => telInt f (rowInt a i a.geom.elems)
      | some g =>
        let (r, x) := rowFloat g a i (a.geom.elems - 1)
        (.flt r, { fpx := x })
  else
    let y := if telScalar c then tileElem b 0 0 else if telRow c then tileElem b 0 j else tileElem b i j
    telPair f op (tileElem a i j) y

/-- TEL (R359). -/
def telOp (th : Thread) (encl : Bool) (td ta tb : Tile) (c : Word) (s : State) : State :=
  let a := readTile s encl ta
  let b := readTile s encl tb
  let d := readTile s encl td
  if !telShapeOk a b d c then tileBad encl th td s
  else
    let (x, fl, rows) := fillTile d d.geom.rows.toNat d.geom.elems (telElem a b c)
    raiseFlags encl th td fl rows (writeTile encl td x s)

/-! ### The rest of the entries -/

/-- TZERO (R360). -/
def tzeroOp (encl : Bool) (td : Tile) (s : State) : State :=
  writeTile encl td { tile s td with bytes := [], guards := [] } s

/-- A GEOM write takes effect: each field that is no reserved code; guard bits are kept only while the tile stays int32
(R347, R350 › Edges, R351). -/
def geomAfter (g : Geom) (v : Word) : Geom :=
  let rows := bitsAt v 16 7
  let rb := bitsAt v 8 7
  let f := bitsAt v 0 3
  { rows := if 1 ≤ rows ∧ rows ≤ 64 then BitVec.ofNat 7 rows else g.rows
    rbytes := if 4 ≤ rb ∧ rb ≤ 64 ∧ rb % 4 = 0 then BitVec.ofNat 7 rb else g.rbytes
    fmt := if f ≤ 6 then BitVec.ofNat 3 f else g.fmt }

def geomOp (t : Tile) (v : Word) (s : State) : State :=
  let x := tile s t
  let g := geomAfter x.geom v
  let keep := decide (x.geom.fmt = 5 ∧ g.fmt = 5) || decide (g = x.geom)
  setTile t { x with geom := g, guards := if keep then x.guards else [] } s

/-- Tiles zeroed and marks cleared (R365, R344, R88). -/
def zeroTiles (p : Nat → Bool) (s : State) : State :=
  (fins 16).foldl (fun s t => if p t.val then setTile t { tile s t with bytes := [], guards := [], marked := false } s else s) s

/-- TLQ's zeroing command: every marked tile is zeroed and its mark cleared (R341); under POLICY 0 the Enclosure's tiles
(R344 step 4). -/
def zeroMarked (s : State) : State :=
  if s.tile.policy then zeroTiles (fun i => (tile s (Fin.ofNat 16 i)).marked) s
  else zeroTiles (fun i => s.tile.enclTiles.getLsbD i) s

/-! ### Times (R352) -/

/-- 32-byte blocks that a row touches. -/
def rowBlocks (a len : Nat) : Nat := if len = 0 then 0 else (a + len - 1) / 32 - a / 32 + 1

/-- D7 cycles of an entry; D3 cycles count 8/5 each (log entry 25). -/
def opCycles (s : State) : TileOp → Nat
  | .tld t addr c | .tst t addr c =>
    let (m, n) := memShape (tile s t).geom c
    let blocks := (List.range m).foldl (fun k r => k + rowBlocks (rowAddr addr c r) (n * fmtSize (ctlFmt c))) 0
    (17 + blocks) * 8 / 5 + 3
  | .tmma td ta _ _ =>
    let d := (tile s td).geom
    let a := (tile s ta).geom
    let r := (mmaRate a.fmt.toNat a.fmt.toNat d.fmt.toNat).getD 512
    12 + (d.rows.toNat * d.elems * a.elems + r - 1) / r
  | .tel td _ _ _ => 6 + (tile s td).geom.rows.toNat
  | .tzero _ => 4
  | .tnote _ _ => 1

/-- One operation (R351). -/
def runTileOp (th : Thread) (encl : Bool) (owner : Byte) (o : TileOp) (s : State) : State :=
  match o with
  | .tld td a c => tldOp th encl owner td a c s
  | .tst ta a c => tstOp th encl owner ta a c s
  | .tmma td ta tb c => tmmaOp th encl td ta tb c s
  | .tel td ta tb c => telOp th encl td ta tb c s
  | .tzero td => tzeroOp encl td s
  | .tnote _ _ => s

/-- The tile whose OVF an operation may set. -/
def opTarget : TileOp → Option Tile
  | .tmma td _ _ _ | .tel td _ _ _ => some td
  | _ => none

/-- The operation set OVF anew: in the target's flags, had they been clear before it (R362). -/
def setsOvf (th : Thread) (encl : Bool) (owner : Byte) (o : TileOp) (s : State) : Bool :=
  match opTarget o with
  | none => false
  | some t =>
    let x := tile s t
    (tile (runTileOp th encl owner o (setTile t { x with flags := 0 } s)) t).flags.getLsbD 0

/-- A TNOTE on its way: the flags raised since the thread's last (R364). -/
def noteOf (s : State) (th : Thread) (encl : Bool) (f : Option (BitVec 12)) : TileOp → Option TileNote
  | .tnote target word => some { target := target, word := word, flags := vget s.tile.since th, encl := encl, flow := f }
  | _ => none

/-- ENCL_TILES and POLICY written take effect once TLQ is empty (R365): every tile is zeroed, every mark cleared. -/
def applyPolicy (s : State) : State :=
  match s.tile.change with
  | none => s
  | some (e, p) =>
    if s.tile.tlq ≠ [] then s
    else zeroTiles (fun _ => true) { s with tile := { s.tile with enclTiles := e, policy := p, change := none } }

/-- The head of TLQ executes to completion (R351, R362). -/
def tileExecuteOp (s : State) : State :=
  match s.tile.tlq with
  | [] => s
  | e :: rest =>
    if !mainOn s || 16 ≤ s.tile.tlc.length then s
    else
      let s := qLeave 94 32 s.tile.tlq.length { s with tile := { s.tile with tlq := rest } }
      match e with
      | .geom t v => geomOp t v { s with tile := { s.tile with perfBusy := satInc s.tile.perfBusy } }
      | .zeroMarked => zeroMarked s
      | .op th encl owner f task o =>
        let cycles := opCycles s o
        let ovf := s.tile.trap && setsOvf th encl owner o s
        let note := noteOf s th encl f o
        let s := runTileOp th encl owner o s
        let s := { s with tile := { s.tile with perfBusy := satAdd s.tile.perfBusy cycles
                                                since := if note.isSome then vset s.tile.since th 0 else s.tile.since } }
        qWrite 95 1 { s with tile := { s.tile with tlc := s.tile.tlc ++ [{ thread := th, task := task, ovf := ovf, note := note }] } }

/-- TILE_EXECUTE (R351 to R362). -/
def execTileExecute (s : State) : Host.Outcome State Fault Refusal := .next (tileExecuteOp s)

/-- TILE_POLICY_CHANGE (R365). -/
def execTilePolicyChange (s : State) : Host.Outcome State Fault Refusal := .next (applyPolicy s)

/-- A GEOM, STS or OVROW register is open to the requester (R365): its world's tile; under POLICY 1 either world, the
Commons not while the tile is marked. -/
def tileRegOpen (s : State) (r : Req) (t : Tile) : Bool :=
  match r with
  | .bay _ => false
  | r => tileOpen s (isEncl s r) t

/-- GEOM_WRITE (R347, R351, R365); with TLQ full the write waits at its source. -/
def geomWriteOp (r : Req) (t : Tile) (v : Word) (s : State) : State :=
  tryWrite r (BitVec.ofNat 32 (0x57008100 + 16 * t.val)) (tileRegOpen s r t) (pushTlq (.geom t v)) s

def execGeomWrite (r : Req) (tile : Tile) (value : Word) (s : State) : Host.Outcome State Fault Refusal :=
  .next (geomWriteOp r tile value s)

end Sys2Proof.Machine
end

