-- ==== Sys2Proof/Machine/Threads.lean ====
section
/-! DEFINITION. Threads: registers and banks, control fields, starts, interrupts and handlers, the end of a task
(13, 14, 15). -/

namespace Sys2Proof.Machine

/-! ### Registers (R297, R327) -/

/-- The thread uses its Enclosure bank: an Enclosure thread, or a Commons thread inside STILE. -/
def onEnclBank (s : State) (t : Thread) : Bool := homeEncl s t || (thr s t).stile.isSome

/-- A general register; g0 reads zero. -/
def gpr (s : State) (t : Thread) (r : Gpr) : Word :=
  if r = 0 then 0
  else if onEnclBank s t then vget (thr s t).encl r.toFin else vget (thr s t).commons r.toFin

/-- A general register written; a write to g0 is dropped (R299 › Edges). -/
def setGpr (t : Thread) (r : Gpr) (w : Word) (s : State) : State :=
  if r = 0 then s
  else
    let x := thr s t
    if onEnclBank s t then setThr s t { x with encl := vset x.encl r.toFin w }
    else setThr s t { x with commons := vset x.commons r.toFin w }

def setPc (t : Thread) (pc : Word) (s : State) : State := setThr s t { thr s t with pc := pc &&& ~~~3#32 }
/-- The PC; its bits 1:0 are always 0 (R297). -/
def pcOf (s : State) (t : Thread) : Word := (thr s t).pc &&& ~~~3#32
/-- The next instruction. -/
def advance (t : Thread) (s : State) : State := setPc t (pcOf s t + 4) s
def setFlags (t : Thread) (f : BitVec 4) (s : State) : State := setThr s t { thr s t with flags := f }

/-- A return address pushed; overflow drops the oldest (R281). -/
def pushRet (t : Thread) (a : Word) (s : State) : State :=
  setThr s t { thr s t with ret := (a :: (thr s t).ret).take 8 }
def popRet (t : Thread) (s : State) : State := setThr s t { thr s t with ret := (thr s t).ret.drop 1 }

/-! ### Which instructions a thread may execute -/

/-- The core's mode lets the thread run: in single mode t0 alone (R279, R280). -/
def modeLets (s : State) (t : Thread) : Bool := !(core s (coreOf t)).single || decide (t.val % 4 = 0)

/-- The Enclosure's code is not held: no restart is running and no Limp reason halts it (R93, R344). -/
def enclFree (s : State) : Bool := !s.wld.restart && !limpReason s 2 && !limpReason s 4 && !s.boot.remBusy

/-- The thread can execute an instruction now: it runs, it is not waiting, and its world is not halted. -/
def canRun (s : State) (t : Thread) : Bool :=
  let x := thr s t
  decide (x.run = .running) && mainOn s && modeLets s t && !x.waiting && !x.syncing && (enclFree s || !inEncl s t) &&
    decide (s.sys.mode ≠ Mode.store) && (decide (s.sys.mode ≠ Mode.lockdown) || inEncl s t)

/-! ### Control fields (R295, R296) -/

/-- A field that another thread wrote takes effect now. -/
def settleForeign (t : Thread) (s : State) : State :=
  let x := thr s t
  let k := x.ext.foreign
  let n := x.ext.now
  let c := x.ext.ctl
  let now : Ctl := { imask := if k.getLsbD 0 then c.imask else n.imask, epc := if k.getLsbD 1 then c.epc else n.epc
                     ests := if k.getLsbD 2 then c.ests else n.ests, stack := if k.getLsbD 3 then c.stack else n.stack }
  setThr s t { x with ext := { x.ext with now := now, foreign := 0 } }

/-- CSYNC: every field as written takes effect. -/
def settleCtl (t : Thread) (s : State) : State :=
  let x := thr s t
  setThr s t { x with ext := { x.ext with now := x.ext.ctl, foreign := 0 } }

/-- The line of a load's data is filled (R292). -/
def fillLoad (t : Thread) (s : State) : State := match (thr s t).outstanding.bind (·.fill) with
  | none => s
  | some x => fillData (coreOf t) x s

/-- An instruction that could still be abandoned has completed (R286), and its line is filled. -/
def settleDone (t : Thread) (s : State) : State :=
  let s := fillLoad t s
  setThr s t { thr s t with outstanding := none }

/-- The first instruction of a task has issued: its start is over (R288). -/
def settleStart (t : Thread) (s : State) : State := setThr s t { thr s t with starting := false }

/-! ### Interrupts (R289, R290) -/

def setIpend (t : Thread) (k : Nat) (s : State) : State :=
  let x := thr s t
  setThr s t { x with ext := { x.ext with ipend := setBits x.ext.ipend k 1 1 } }

/-- The interrupt's world is the Enclosure: DEBUG, WDOG, or any of an Enclosure thread. -/
def intEncl (s : State) (t : Thread) (k : Nat) : Bool := decide (3 ≤ k) || homeEncl s t

/-- The source is enabled: DEBUG is not maskable on a Commons thread (log entry 26). -/
def intEnabled (s : State) (t : Thread) (k : Nat) : Bool :=
  (thr s t).ext.now.imask.getLsbD k || (decide (k = 4) && !homeEncl s t)

/-- The thread runs in the interrupt's world, or is idle; DEBUG comes in either world. -/
def intWorld (s : State) (t : Thread) (k : Nat) : Bool :=
  decide (k = 4) || decide ((thr s t).run = .idle) || (inEncl s t == intEncl s t k)

/-- The highest deliverable interrupt (R290). -/
def deliverable (s : State) (t : Thread) : Option Nat :=
  let x := thr s t
  if x.inInt || decide (x.run = .held) || !modeLets s t || !mainOn s then none
  else [4, 3, 2, 1, 0].find? fun k => x.ext.ipend.getLsbD k && intEnabled s t k && intWorld s t k

/-! ### Handlers (R285, R322) -/

/-- The address of entry `k` of a world's vector table (R283). -/
def entryAddr (s : State) (encl : Bool) (k : Nat) : Word :=
  (if encl then s.cores.vbaseE else s.cores.vbaseC) + BitVec.ofNat 32 (32 * k)

/-- EPC and ESTS as a start writes them (R287, R298). -/
def saveStatus (t : Thread) (epc : Word) (s : State) : State :=
  let x := thr s t
  let ests := flag (decide (x.run = .idle)) 31 ||| flag (inEncl s t) 30 ||| fld x.flags 0
  let put := fun (c : Ctl) => { c with epc := epc, ests := ests }
  setThr s t { x with ext := { x.ext with ctl := put x.ext.ctl, now := put x.ext.now
                                          foreign := setBits x.ext.foreign 1 2 0 } }

/-- A reader's shadow set that its context begins with reads zero (R67): set `c` of a thread, 0 its plain execution,
1 its handler, 2 its Enclosure bank inside STILE. -/
def clearShadow (t : Thread) (c : Nat) (s : State) : State :=
  { s with bkp := { s.bkp with shadows := tabPut {} s.bkp.shadows (3 * t.val + c) {} } }

/-- The thread is in a handler at entry `k` of a world's table. -/
def enterHandler (t : Thread) (encl : Bool) (k : Nat) (s : State) : State :=
  let s := clearShadow t 1 s
  let x := thr s t
  setThr s t { x with inInt := true, run := .running, waiting := false, syncing := false, outstanding := none, starting := false
                      pc := entryAddr s encl k }

/-! ### The end of a task (R267, R316, R337) -/

/-- The thread is idle and holds nothing; the latch and the owner tag go with the task (R323, R337). -/
def idleThread (t : Thread) (s : State) : State :=
  let x := thr s t
  let s := setThr s t { x with run := .idle, task := none, inInt := false, stile := none, debug := false, dfault := false
                               waiting := false, syncing := false, latch := none, outstanding := none }
  { s with guard := { s.guard with towner := vset s.guard.towner t 0xFF } }

/-- A task's end travels in RET[c]; without a task the drill ignores it (R267). -/
def sendEnd (t : Thread) (status : Byte) (s : State) : State :=
  let c := coreOf t
  match (thr s t).task with
  | none => qPass (84 + c.val) s
  | some d =>
    let s := setDesc s d { desc s d with st := .transit }
    qWrite (84 + c.val) 1 { s with drill := { s.drill with
      ret := vset s.drill.ret c (vget s.drill.ret c ++ [{ thread := t, desc := d, status := status }]) } }

/-- TDONE's status: any code but OK, CANCELLED, RETIRED and DEADLINE_MISSED is taken as OK (R267). -/
def doneStatus (b : Byte) : Byte := if b = 2 ∨ b = 3 ∨ b = 4 then b else 0

/-- The running task ends with a status and the thread is idle. -/
def endTask (t : Thread) (status : Byte) (s : State) : State := idleThread t (sendEnd t status s)

/-! ### STILE and LEAVE (R327 to R329) -/

def zeroBank : Vector Word 32 := .replicate 32 0

/-- g4 to g11 of one bank copied into another. -/
def copyArgs (src dst : Vector Word 32) : Vector Word 32 :=
  ([4, 5, 6, 7, 8, 9, 10, 11] : List (Fin 32)).foldl (fun v k => vset v k (vget src k)) dst

/-- The commit of STILE (R315, R327, R328). -/
def stileCommit (t : Thread) (service : Half) (s : State) : State :=
  let s := crossWorlds t (clearShadow t 2 s)
  let x := thr s t
  let g2 := BitVec.ofNat 32 t.val ||| (match x.task with
    | some d => fld (desc s d).flow 16
    | none => 0x0FFF0000#32)
  let e := copyArgs x.commons zeroBank
  let e := vset (vset (vset e 1 (service.setWidth 32)) 2 g2) 3 (pcOf s t)
  let e := vset (vset e 12 ((vget s.guard.towner t).setWidth 32)) 30 (vget s.wld.stileStack t)
  setThr s t { x with encl := e, savedFlags := x.flags, savedRet := x.ret, flags := 0, ret := []
                      stile := some (pcOf s t), pc := entryAddr s true 7, latch := none, outstanding := none }

/-- The thread is back in the Commons after its STILE, with results in g4 to g11 (R329). -/
def stileReturn (t : Thread) (results : Vector Word 32) (s : State) : State :=
  let x := thr s t
  match x.stile with
  | none => s
  | some a =>
    let c := copyArgs results x.commons
    let c := vset c 4 (vget c 4 &&& 0xFF#32)
    setThr s t { x with commons := c, encl := zeroBank, flags := x.savedFlags, ret := x.savedRet, stile := none
                        pc := a + 4, savedFlags := 0, savedRet := [], latch := none, outstanding := none }

/-- The results of a call that an Enclosure restart or halt ends: g4 = 0x06 (R332, R344). -/
def restartResults : Vector Word 32 := vset zeroBank 4 6

/-! ### Starts (R285 to R288) -/

/-- The world's lines are loading, so its starts wait (R284). -/
def linesLoading (s : State) (encl : Bool) : Bool := if encl then s.cores.loadingE else s.cores.loadingC

/-- What an interrupt does to the instruction it meets (R286, R323): an abandoned access keeps its result in the latch,
any other abandonable instruction is undone; the address of the first instruction not completed. An abandoned load's line
is filled all the same (R294 › Edges). -/
def abandon (t : Thread) (s : State) : Word × State :=
  let s := fillLoad t s
  let x := thr s t
  match x.outstanding with
  | none => (pcOf s t, s)
  | some o =>
    let s := setGpr t o.rd o.old s
    let x := thr s t
    (o.pc, setThr s t { x with latch := if o.latched then some (o.pc, o.result) else x.latch, outstanding := none })

/-- The thread is within the 12 cycles of a task's start: an interrupt waits for its first instruction (R288). -/
def starting (s : State) (t : Thread) : Bool := (thr s t).starting && decide ((thr s t).run = .running)

/-- An interrupt start (R285 to R290). -/
def interruptOp (t : Thread) (s : State) : State :=
  match deliverable s t with
  | none => s
  | some k =>
    let encl := intEncl s t k
    if linesLoading s encl || (encl && !enclFree s) || starting s t then s
    else
      let before := inEncl s t
      let (epc, s) := abandon t s
      let c := core s (coreOf t)
      let s := if c.divider = some t then setCore s (coreOf t) { c with divider := none } else s
      let s := saveStatus t epc (settleForeign t s)
      let x := thr s t
      let s := setThr s t { x with ext := { x.ext with ipend := setBits x.ext.ipend k 1 0 }, debug := decide (k = 4) }
      crossDebug t before (enterHandler t encl (8 + k) s)

/-- The registers of a task's start (R287). -/
def startBank (s : State) (t : Thread) (d : Fin 1024) : Vector Word 32 :=
  let x := desc s d
  let v := vset (vset zeroBank 1 0x50040000#32) 2 (BitVec.ofNat 32 (d.val * 65536 + x.flow.toNat))
  let v := vset (vset v 3 x.deadline) 4 (BitVec.ofNat 32 (bitsAt x.payload 0 32))
  vset v 30 (thr s t).ext.now.stack

/-- A task starts on its thread (R266, R285, R287, R337). -/
def startTask (t : Thread) (d : Fin 1024) (s : State) : State :=
  let s := settleForeign t s
  let x := thr s t
  let dd := desc s d
  let home := homeEncl s t
  let v := startBank s t d
  let pc := entryAddr s home (16 + (flow s dd.flow.toNat).vec.toNat)
  let x := { x with run := .running, task := some d, pc := pc, flags := 0, ret := [], latch := none, outstanding := none, starting := true
                    dlineDone := false, result := 0, waiting := false, syncing := false, stile := none, debug := false, dfault := false }
  let s := setThr s t (if home then { x with encl := v } else { x with commons := v })
  let s := { s with guard := { s.guard with towner := vset s.guard.towner t 0xFF } }
  setDesc s d { dd with st := .dispatched }

/-- TASK_START's conditions: a descriptor for the thread in DISP[c], the thread idle, its lines loaded (R285, R288). -/
def taskStartOp (t : Thread) (s : State) : State :=
  let c := coreOf t
  let x := thr s t
  match (vget s.drill.disp c).find? fun p => decide (p.1 = t) with
  | none => s
  | some (_, d) =>
    let home := homeEncl s t
    if x.run ≠ .idle ∨ x.inInt ∨ (deliverable s t).isSome ∨ linesLoading s home ∨ (home ∧ ¬ enclFree s) ∨ ¬ modeLets s t ∨ ¬ mainOn s then s
    else
      let rest := (vget s.drill.disp c).filter fun p => decide (p ≠ (t, d))
      let s := qRead (80 + c.val) 1 { s with drill := { s.drill with disp := vset s.drill.disp c rest } }
      startTask t d s

/-! ### The Commons (R119, R120, R90) -/

def commonsBase (slotB : Bool) : Nat := if slotB then 0x08480000 else 0x08200000

/-- The Commons starts at a header entry: on the lowest idle Commons thread that its core's mode lets run. -/
def startCommons (entryOff : Nat) (s : State) : State :=
  let base := commonsBase s.boot.commonsSlot
  let pc := BitVec.ofNat 32 (base + 0x40 + numAt (flashRead s base 0x40) entryOff 4)
  match (fins 16).find? fun t => !homeEncl s t && modeLets s t && decide ((thr s t).run = .idle) && (thr s t).task.isNone with
  | none => s
  | some t => setThr s t { thr s t with run := .running, pc := pc }

/-- After the wake task the Commons starts at the wake entry that the IMAGE record names (R90). -/
def wakeCommons (s : State) : State :=
  let main := match seedOne s 0x16 with
    | none => false
    | some e => decide (e.num 1 1 = 1)
  if s.boot.commons = 1 then startCommons (if main then 0x0C else 0x10) s else s

end Sys2Proof.Machine
end

