-- ==== Sys2Proof/Machine/Drill.lean ====
section
/-! DEFINITION. The drill's rows: admission of channel and housekeeping events, dispatch, release, ageing, timeouts,
timers, load and overload windows; and a flow's seed values (12, 20). -/

namespace Sys2Proof.Machine

/-! ### A flow's seed values (R133, R245, R246) -/

/-- The settings that the seed gives a flow; flow 4095 is fixed, an unnamed flow is not configured (R134, R245). -/
def flowOfSeed (s : State) (f : Nat) : Flow :=
  if f = 4095 then flow4095
  else
    match seedFind s 0x05 2 f with
    | none => {}
    | some e =>
      let m := seedFind s 0x06 2 f
      { en := true, kind := BitVec.ofNat 2 (e.num 2 1), prio := BitVec.ofNat 3 (e.num 3 1)
        credits := BitVec.ofNat 11 (e.num 4 2), ready := decide (e.num 6 1 = 1), cores := BitVec.ofNat 4 (e.num 7 1)
        world := decide (e.num 8 1 = 1), bay := BitVec.ofNat 8 (e.num 9 1), overloadMs := BitVec.ofNat 16 (e.num 10 2)
        weight := BitVec.ofNat 8 (e.num 12 1)
        operands := BitVec.ofNat 3 ((m.map fun x => x.num 2 1).getD 0)
        timeoutUs := BitVec.ofNat 32 ((m.map fun x => x.num 4 4).getD 0) }

/-- A flow's settings return to the seed's; what it holds stays (R139, R398). -/
def restoreFlow (f : Nat) (s : State) : State :=
  let x := flow s f
  let y := flowOfSeed s f
  setFlow s f { y with taken := x.taken, locked := x.locked, freedAt := x.freedAt, nextOrder := x.nextOrder, nextRelease := x.nextRelease
                       skipped := x.skipped }

/-! ### Events admitted (R173, R250, R251, R261, R264) -/

/-- DEADLINE of a COMPUTED event as it is read (R173, R177): the time left to the post deadline, less the crossing of
CHWR[f], 1 cycle of D3 and 3 of the furrow; never 0. -/
def eventDeadline (s : State) (e : ChEvent) : Word :=
  if e.kind = 2 ∧ ¬ e.noans then
    let f := freqOf s e.ch
    let k : Int := (e.postCycles : Int) - 3
    let left : Int := (if f = 0 then 0 else k * 250000000 / (f : Int)) - 1 - ((s.now : Int) - (e.since : Int))
    stampDeadline (BitVec.ofInt 32 ((s.drill.time.toNat : Int) + left))
  else 0

/-- The 20-byte event record and 20 zero bytes (R172, R250). -/
def eventPayload (e : ChEvent) (deadline : Word) : BitVec 320 :=
  let mask := (e.cells.foldl (fun m k => m ||| (1 <<< k.toNat)) 0)
  ofBytes 320 ([BitVec.ofNat 8 e.ch.val, e.kind, e.rule, e.seq, ((e.cells.headD 0).setWidth 8), e.info] ++
    leBytes 2 e.len.toNat ++ leBytes 4 mask ++ leBytes 4 deadline.toNat ++
    [BitVec.ofNat 8 (bit e.noans + 2 * bit e.late), 0] ++ leBytes 2 e.drops.toNat)

/-- A channel's operand index on its flow (R261). -/
def channelIndex (s : State) (f : Nat) (n : Chan) : Nat := position n (untaggedChannels s f)
/-- A timer's operand index. -/
def timerIndex (s : State) (f : Nat) (i : Fin 64) : Nat :=
  (untaggedChannels s f).length + position i (untaggedTimers s f)

/-- The descriptor that an event fills. -/
def eventDesc (s : State) (e : ChEvent) : Desc :=
  let dl := eventDeadline s e
  { src := 1, deadline := dl, payload := eventPayload e dl
    life := { chans := [e.ch], cells := e.cells.map fun k => (e.ch, k)
              awaits := if e.kind = 2 ∧ ¬ e.noans then [(e.ch, e.seq)] else [] } }

/-- An event of CHEV[f] enters its flow (R251, R261, R264); none while no descriptor or entry is free (R451). -/
def admitEvent (e : ChEvent) (s : State) : Option State :=
  let f := e.flow.toNat
  let x := eventDesc s e
  let operand := decide (e.kind = 1 ∨ e.kind = 2)
  if (flow s f).ready && operand then
    match admitUntagged f (channelIndex s f e.ch) true x s with
    | (.refused, _) => none
    | (_, s) => some s
  else
    (freeDesc s f).map fun d =>
      let solo := (flow s f).ready
      admitTask f d { x with solo := solo, opmask := if solo then 1#4 <<< channelIndex s f e.ch else 0 } s

/-- The head of CHEV[f] is read (R251, R167): its cells are Tasked. -/
def admitChev (f : Furrow) (s : State) : State :=
  match chevOf s f with
  | [] => s
  | e :: rest =>
    match admitEvent e s with
    | none => s
    | some s' =>
      let s := moveRx e.ch .tasked e.cells (qRead f.val 1 (setChev s' f rest))
      pump e.flow.toNat (refillChev f s)

/-- The model's number of a housekeeping cause. -/
def HkCause.code : HkCause → Nat
  | .rail => 0
  | .vsup => 1
  | .therm => 2
  | .bayShed => 3
  | .ign => 4
  | .alarm => 5
  | .wake => 6
  | .retired => 7
  | .overload => 8
  | .bay => 9
  | .seed => 10
  | .ledger => 11
  | .tamper => 12
  | .granary => 13

/-- The head of HKQ becomes a task of flow 4095, or waits (R245, R250, R452). -/
def admitHk (s : State) : State :=
  match s.drill.hkq with
  | [] => s
  | e :: rest =>
    match freeDesc s 4095, decide (0 < freeCredits (flow s 4095)) with
    | some d, true =>
      let s := qLeave 106 8 s.drill.hkq.length { s with drill := { s.drill with hkq := rest } }
      admitTask 4095 d { src := 8, payload := BitVec.ofNat 320 (Config.hkPayload e.cause.code e.data), life := { hk := some e } } (takeCredit 4095 s)
    | _, _ => s

/-- CHANNEL_EVENT_ADMIT (R173, R249 to R251, R261 to R265, R451). -/
def execChannelEventAdmit (q : EventQueue) (s : State) : Host.Outcome State Fault Refusal :=
  .next (if !mainOn s then s else match q with
    | .chev f => admitChev f s
    | .hkq => admitHk s)

/-- TASK_DISPATCH (R252, R256 to R260). -/
def execTaskDispatch (s : State) : Host.Outcome State Fault Refusal :=
  .next (if mainOn s then selectOne (readRet s) else s)

/-- A queued task is ready: of an atomic flow the oldest alone, while the lock is free (R253). -/
def isReady (s : State) (d : Fin 1024) : Bool :=
  let x := desc s d
  decide (x.st = .queued) && (decide ((flow s x.flow.toNat).kind ≠ 0) || decide (oldestReady s x.flow.toNat = some d))

/-- The task has waited longer than one more AGE_US than it has been promoted for (R259). -/
def waitedAge (s : State) (x : Desc) : Bool :=
  decide (s.drill.ageUs ≠ 0 ∧ (x.life.boost + 1) * (250 * s.drill.ageUs.toNat) < s.drill.time.toNat - readySince s x)

/-- AGE_PROMOTION (R259): one level higher, never above 6. -/
def execAgePromotion (d : Fin 1024) (s : State) : Host.Outcome State Fault Refusal :=
  let x := desc s d
  .next (if isReady s d ∧ waitedAge s x ∧ (effLevel s x).toNat < 6 then
    notePeak (effLevel s x + 1) (setDesc s d { x with life := { x.life with boost := x.life.boost + 1 } })
  else s)

/-- MATCH_TIMEOUT (R263). -/
def execMatchTimeout (e : Fin 512) (s : State) : Host.Outcome State Fault Refusal :=
  let x := entry s e.val
  let us := (flow s x.flow.toNat).timeoutUs.toNat
  .next (if x.st = .waiting ∧ us ≠ 0 ∧ x.opened + 250 * us ≤ s.drill.time.toNat then
    partialEntry e { s with drill := { s.drill with timeouts := satInc s.drill.timeouts } }
  else s)

/-- The task is the wake task (R90). -/
def isWakeTask (x : Desc) : Bool := match x.life.hk with
  | some e => decide (e.cause = .wake)
  | none => false

/-- TASK_RELEASE (R252, R254, R255, R267, R381); the wake task's release lets the Commons start (R90). -/
def execTaskRelease (d : Fin 1024) (s : State) : Host.Outcome State Fault Refusal :=
  let s := readRet s
  .next (if !releasable s d then s
    else if isWakeTask (desc s d) then wakeCommons (releaseDesc d s)
    else releaseDesc d s)

/-! ### Timers (R273) -/

/-- The timer's world is the requester's (R273, R275). -/
def ownsTimer (s : State) (r : Req) (i : Fin 64) : Bool := if i.val < 32 then isCommons s r else isEncl s r

def setTimer (i : Fin 64) (x : DrillTimer) (s : State) : State :=
  { s with drill := { s.drill with timers := vset s.drill.timers i x } }

def timerBase (i : Fin 64) : Word := BitVec.ofNat 32 (0x50000800 + 16 * i.val)

/-- EN written to 1 (R273); a timer whose PERIOD_US still holds the reserved 0 does not start (log entry 27). -/
def startTimer (i : Fin 64) (s : State) : State :=
  let x := vget s.drill.timers i
  if x.en ∨ x.period = 0 then s
  else setTimer i { x with en := true, next := timeLo s + BitVec.ofNat 32 (250 * x.period.toNat) } s

/-- DRILL_TIMER_START (R273). -/
def execDrillTimerStart (r : Req) (i : Fin 64) (s : State) : Host.Outcome State Fault Refusal :=
  .next (tryWrite r (timerBase i) (ownsTimer s r i) (startTimer i) s)

/-- The task that a timer raises (R250). -/
def timerDesc (i : Fin 64) (fires : Word) : Desc := { src := 3, payload := BitVec.ofNat 320 (i.val + fires.toNat * 2 ^ 32) }

/-- A firing that found no room (R273, R452). -/
def missTimer (i : Fin 64) (f : Nat) (s : State) : State :=
  let y := vget s.drill.timers i
  countRefusal f (setTimer i { y with missed := satInc y.missed } s)

/-- The task of a firing enters its flow, or the firing is missed (R261, R273). -/
def raiseTimer (i : Fin 64) (f idx : Nat) (fires : Word) (s : State) : State :=
  if !(flow s f).en then missTimer i f s
  else if (flow s f).ready then
    match admitUntagged f idx false (timerDesc i fires) s with
    | (.refused, s) => missTimer i f s
    | (_, s) => s
  else
    match freeDesc s f, decide (0 < freeCredits (flow s f)) with
    | some d, true => admitTask f d (timerDesc i fires) (takeCredit f s)
    | _, _ => missTimer i f s

/-- A timer after a firing (R273). -/
def DrillTimer.fired (x : DrillTimer) : DrillTimer :=
  if x.periodic then { x with fires := x.fires + 1, next := x.next + BitVec.ofNat 32 (250 * x.period.toNat) }
  else { x with fires := x.fires + 1, en := false }

/-- DRILL_TIMER_FIRE (R261, R273, R452). -/
def fireTimer (i : Fin 64) (s : State) : State :=
  let x := vget s.drill.timers i
  if !x.en || !mainOn s || decide (2 ^ 31 ≤ (timeLo s - x.next).toNat) then s
  else raiseTimer i x.flow.toNat (timerIndex s x.flow.toNat i) (x.fires + 1) (setTimer i x.fired s)

def execDrillTimerFire (i : Fin 64) (s : State) : Host.Outcome State Fault Refusal := .next (fireTimer i s)

/-- DEADLINE_PASS (R289): DLINE, once per task. -/
def execDeadlinePass (t : Thread) (s : State) : Host.Outcome State Fault Refusal :=
  let x := thr s t
  .next (match x.task with
    | none => s
    | some d =>
      if deadlinePassed s (desc s d).deadline ∧ ¬ x.dlineDone then setIpend t 2 (setThr s t { x with dlineDone := true }) else s)

/-! ### Observation (R274) -/

def clearHist (s : State) : State := { s with drill := { s.drill with hist := [] } }

/-- HIST_CLEAR (R274, R275). -/
def execHistClear (r : Req) (s : State) : Host.Outcome State Fault Refusal :=
  .next (tryWrite r 0x50000098 (isEncl s r) clearHist s)

/-- The length so far of a core's window in D3 cycles. -/
def loadSpan (s : State) (c : Fin 4) : Nat := s.drill.time.toNat - vget s.drill.loadAt c

/-- The share of the window in which a thread held a task, per mille. -/
def threadShare (s : State) (t : Thread) : Nat := min 1000 (1000 * vget s.drill.busy t / loadSpan s (coreOf t))

/-- The mean share of a core's four threads. -/
def coreShare (s : State) (c : Fin 4) : Nat := ((((fins 16).filter fun t => decide (coreOf t = c)).map (threadShare s)).foldl (· + ·) 0) / 4

/-- A vector by thread, with the threads of one core anew. -/
def putThreads {α : Type} (c : Fin 4) (new : Thread → α) (old : Vector α 16) : Vector α 16 :=
  Vector.ofFn fun t : Fin 16 => if coreOf t = c then new t else vget old t

/-- LOAD_WINDOW_END (R274): a core's window of WIN_MS is complete, the share of each of its threads and their mean stand,
and its next begins. -/
def execLoadWindowEnd (c : Fin 4) (s : State) : Host.Outcome State Fault Refusal :=
  .next (if mainOn s ∧ 250000 * s.drill.winMs.toNat ≤ loadSpan s c then
    let d := s.drill
    { s with drill := { d with tload := putThreads c (fun t => BitVec.ofNat 10 (threadShare s t)) d.tload
                               load := vset d.load c (BitVec.ofNat 10 (coreShare s c))
                               loadAt := vset d.loadAt c d.time.toNat, busy := putThreads c (fun _ => 0) d.busy } }
  else s)

/-! ### Overload (R454) -/

/-- The end of a sub-window: RUN counts toward a change, and eight change OVERLOAD. -/
def endSubwindow (x : Shed) : Shed :=
  if x.shedding == x.overload then { x with run := 0, shedding := false }
  else if x.run.toNat + 1 = 8 then { x with run := 0, overload := !x.overload, shedding := false }
  else { x with run := x.run + 1, shedding := false }

/-- OVERLOAD_SUBWINDOW (R454). -/
def overloadSubwindow (f : Nat) (s : State) : State :=
  if f = 4095 ∨ ¬ (flow s f).en ∨ ¬ mainOn s then s
  else
    let x := tabGet {} s.drill.shed f
    let y := endSubwindow x
    let s := { s with drill := { s.drill with shed := tabPut {} s.drill.shed f y } }
    if y.overload ∧ ¬ x.overload then
      let s := hk .overload f s
      if h : (flow s f).bay.toNat < 4 then bayEvent ⟨(flow s f).bay.toNat, h⟩ s else s
    else s

def execOverloadSubwindow (f : BitVec 12) (s : State) : Host.Outcome State Fault Refusal := .next (overloadSubwindow f.toNat s)

end Sys2Proof.Machine
end

