-- ==== Sys2Proof/Machine/Books.lean ====
section
/-! DEFINITION. The books: the terms of every conserved quantity, and the two-phase snapshot (20). -/

namespace Sys2Proof.Machine

/-! ### Terms (R446, R450) -/

/-- Task descriptors: Free, Queued, Matching, Transit, Dispatched, Releasing. -/
def descTerms (s : State) : List Nat :=
  let k := fun st => countDesc s st
  [1024 - (k .queued + k .matching + k .transit + k .dispatched + k .releasing), k .queued, k .matching, k .transit,
    k .dispatched, k .releasing]

/-- Matching entries in a state. -/
def countEntry (s : State) (st : EntryState) : Nat := (s.drill.entries.filter fun p => decide (p.2.st = st)).length

/-- Matching entries: Free, Waiting, Attached, Transit (always 0). -/
def entryTerms (s : State) : List Nat :=
  [512 - (countEntry s .waiting + countEntry s .attached), countEntry s .waiting, countEntry s .attached, 0]

def countSlot (s : State) (st : SlotState) : Nat := (s.grn.slots.toList.filter fun k => decide (k.st = st)).length

/-- Key slots: Free, Cached, Busy, Transit. -/
def slotTerms (s : State) : List Nat := [countSlot s .free, countSlot s .cached, countSlot s .busy, countSlot s .transit]

/-- A caller holds a credit of its completion flow `f`. -/
def holdsDone (f : Nat) : Caller → Bool
  | .flow _ g _ => decide (g.toNat = f)
  | _ => false

/-- Service requests awaiting their completion on flow `f` (R452). -/
def serviceGrants (s : State) (f : Nat) : Nat :=
  (s.grn.grq.filter fun r => holdsDone f r.caller).length + (s.grn.grc.filter fun r => holdsDone f r.caller).length +
    (s.ldg.lgq.filter fun r => holdsDone f r.caller).length + (s.ldg.lgc.filter fun r => holdsDone f r.caller).length

/-- Credits that channels hold. -/
def channelGrants (s : State) (f : Nat) : Nat :=
  (fins 128).foldl (fun k n => if (chan s n).flow.toNat = f then k + (chan s n).rx.grants else k) 0

/-- Grants in CHWR and events in CHEV that carry a credit of flow `f`. -/
def creditTransit (s : State) (f : Nat) : Nat :=
  (fins 32).foldl (fun k u =>
    k + ((chevOf s u).filter fun e => decide (e.flow.toNat = f)).length +
      ((chwrOf s u).filter fun i => match i with
        | .grant n => decide ((chan s n).flow.toNat = f)
        | _ => false).length) 0

/-- Credits that descriptors hold. -/
def creditsUsed (s : State) (f : Nat) : Nat :=
  (s.drill.descs.filter fun p => decide (p.2.st ≠ .free ∧ p.2.flow.toNat = f)).length

/-- A flow's credits: FREE, GRANTED, TRANSIT, USED. -/
def flowTerms (s : State) (f : Nat) : List Nat :=
  [freeCredits (flow s f), channelGrants s f + serviceGrants s f, creditTransit s f, creditsUsed s f]

/-- The deficit of a flow whose CREDITS was tuned below its use (R447 › Edges). -/
def flowExcess (s : State) (f : Nat) : Nat := (flow s f).taken - (flow s f).credits.toNat

def countRx (c : Channel) (st : RxCell) : Nat := (c.rx.cells.toList.filter fun x => decide (x = st)).length
def countTx (c : Channel) (st : TxCell) : Nat := (c.tx.cells.toList.filter fun x => decide (x = st)).length

/-- Receive cells: Free, Filling, Held, Transit, Tasked. -/
def rxTerms (c : Channel) : List Nat :=
  [countRx c .free, countRx c .filling, countRx c .held, countRx c .transit, countRx c .tasked]
/-- Transmit cells: Free, Written, Transit, Queued, Sending. -/
def txTerms (c : Channel) : List Nat :=
  [countTx c .free, countTx c .written, countTx c .transit, countTx c .queued, countTx c .sending]

/-- Completion writes of a CQ still in BAYOUT[b]. -/
def cqTransit (x : BayState) (q : Fin 16) : Nat :=
  (x.out.filter fun o => !o.sent && (match o.item with
    | .completion k _ _ => decide (k = q)
    | _ => false)).length

/-- CQ slots: Free, Reserved, Transit, Written. -/
def cqTerms (x : BayState) (q : Fin 16) : List Nat :=
  let c := vget x.cq q
  [cqFree c, c.reserved, min (cqTransit x q) (cqWritten c), cqWritten c - min (cqTransit x q) (cqWritten c)]

/-- Command slots: Free, Fetching, Admitted, Completing, Transit: a command completes within its step, and its slot
is in transit until the completion has left. -/
def cmdTerms (x : BayState) : List Nat :=
  [256 - slotsUsed x, slotsUsed x - slotsLeaving x - x.cmds.length, x.cmds.length, 0, slotsLeaving x]

/-- Receive credits of PH, PD, NPH, NPD (R366): every TLP is processed within its own step, so all are Host-held. -/
def rxCredits : List Nat := [32, 128, 16, 16]

/-- Transmit credits of a finite type: Available, Transit, Outstanding; an infinite type takes no part. -/
def txCredits (x : BayState) (ty : Fin 6) : List Nat :=
  let lim := vget x.txLimit ty
  if lim = 0 then [0, 0, 0]
  else
    let out := creditsOf (x.out.filter fun o => o.sent) ty
    let tr := min (creditsOf (x.out.filter fun o => !o.sent) ty) (lim - out)
    [lim - out - tr, tr, out]

/-! ### The results (R457) -/

/-- Words placed at successive word addresses of the drill's block. -/
def putWords : Nat → List Nat → Tab Word → Tab Word
  | _, [], t => t
  | k, w :: ws, t => putWords (k + 1) ws (tabPut 0 t k (BitVec.ofNat 32 w))

/-- Terms as bytes of two words. -/
def termBytes (l : List Nat) : List Nat := [leNat ((l.take 4).map fun x => BitVec.ofNat 8 x), l.getD 4 0]

def bookChannels (s : State) (t : Tab Word) : Tab Word :=
  (fins 128).foldl (fun t n =>
    putWords ((0x90000 + 16 * n.val) / 4) (termBytes (rxTerms (chan s n)) ++ termBytes (txTerms (chan s n))) t) t

def bookBay (s : State) (b : Bay) (t : Tab Word) : Tab Word :=
  let x := bay s b
  let base := 0x91000 + 0x400 * b.val
  let t := putWords (base / 4) (cmdTerms x) t
  let t := (List.range 4).foldl (fun t k => putWords ((base + 0x20 + 16 * k) / 4) [rxCredits.getD k 0, 0, 0, 0] t) t
  let t := (fins 6).foldl (fun t k => putWords ((base + 0x60 + 16 * k.val) / 4) (txCredits x k) t) t
  (fins 16).foldl (fun t q => putWords ((base + 0x100 + 16 * q.val) / 4) (cqTerms x q) t) t

def bookFlows (s : State) (t : Tab Word) : Tab Word :=
  s.drill.flows.foldl (fun t p =>
    putWords ((0x92000 + 4 * p.1) / 4) [flowExcess s p.1] (putWords ((0x80000 + 16 * p.1) / 4) (flowTerms s p.1) t)) t

/-- Every count of every domain, latched (R448). -/
def latchBooks (s : State) : Tab Word :=
  let t := putWords (0x60008 / 4) [(timeLo s).toNat] []
  let t := putWords (0x60040 / 4) (slotTerms s) (putWords (0x60030 / 4) (entryTerms s) (putWords (0x60010 / 4) (descTerms s) t))
  (fins 4).foldl (fun t b => bookBay s b t) (bookChannels s (bookFlows s t))

def sumOf (l : List Nat) : Nat := l.foldl (· + ·) 0
/-- `n` latched words from a word address. -/
def latchedSum (t : Tab Word) (off n : Nat) : Nat := sumOf ((List.range n).map fun i => (tabGet 0 t (off / 4 + i)).toNat)
/-- The bytes of a latched CELLS half. -/
def latchedCells (t : Tab Word) (off : Nat) : Nat :=
  let w := tabGet 0 t (off / 4)
  sumOf (((List.range 4).map fun k => (byteAt w k).toNat) ++ [(tabGet 0 t (off / 4 + 1)).toNat])

/-- The rows of R446 whose equation fails on the latched counts. -/
def imbalance (s : State) (t : Tab Word) : BitVec 10 :=
  let cells := fun (half : Nat) => (List.range 128).all fun n => decide (latchedCells t (0x90000 + 16 * n + half) = 32)
  let flows := s.drill.flows.all fun p =>
    decide (latchedSum t (0x80000 + 16 * p.1) 4 = (flow s p.1).credits.toNat + latchedSum t (0x92000 + 4 * p.1) 1)
  let cqs := (fins 4).all fun b => (fins 16).all fun q =>
    decide (latchedSum t (0x91000 + 0x400 * b.val + 0x100 + 16 * q.val) 4 + 1 = (cqOf s b q).size.toNat)
  let cmds := (fins 4).all fun b => decide (latchedSum t (0x91000 + 0x400 * b.val) 5 = 256)
  let bad := [decide (latchedSum t 0x60010 6 = 1024), decide (latchedSum t 0x60030 4 = 512), flows, cells 0, cells 8,
    decide (latchedSum t 0x60040 4 = 48), cqs, cmds]
  (List.range 8).foldl (fun v k => if bad.getD k true then v else setBits v k 1 1) 0

/-- A snapshot starts: the epoch flips and the counts are latched (R448); a second GO is ignored. -/
def startSnapshot (s : State) : State :=
  if s.books.busy then s
  else { s with books := { s.books with epoch := !s.books.epoch, busy := true, done := false, aborted := false
                                        imbal := imbalance s (latchBooks s), latched := latchBooks s } }

/-- SNAPSHOT_START (R448, R457). -/
def execSnapshotStart (r : Req) (s : State) : Host.Outcome State Fault Refusal :=
  .next (tryWrite r 0x50060000 (isEncl s r) startSnapshot s)

/-- BOOKS.STS (R457). -/
def booksSts (x : Books) : Word :=
  flag x.busy 31 ||| flag x.done 30 ||| flag x.aborted 29 ||| flag x.epoch 28 ||| fld x.imbal 0

/-- SNAPSHOT_DONE (R448, R449): the results are shown; an imbalance is logged by the Enclosure. -/
def finishSnapshot (s : State) : State :=
  if !s.books.busy then s
  else
    let b := { s.books with busy := false, done := true, shown := s.books.latched, latched := []
                            time := tabGet 0 s.books.latched (0x60008 / 4) }
    let s := { s with books := b }
    if b.imbal ≠ 0 ∧ enclRuns s then
      fwLog 4 (leBytes 4 (booksSts b).toNat ++ leBytes 4 b.time.toNat) s
    else s

def execSnapshotDone (s : State) : Host.Outcome State Fault Refusal := .next (finishSnapshot s)

/-- A reset, a restart, Sleep or Lockdown during a snapshot ends it with ABORTED and DONE (R448 › Edges). -/
def abortSnapshot (s : State) : State :=
  if s.books.busy then { s with books := { s.books with busy := false, done := true, aborted := true, latched := [] } } else s

end Sys2Proof.Machine
end

