-- ==== Sys2Proof/Machine/BayOps.lean ====
section
/-! DEFINITION. What a bay does inside a step: its 12 V output, its link, its staging session, a bay reset and the
admission of its commands (02, 06, 17). -/

namespace Sys2Proof.Machine

/-! ### Bay outputs (R47 to R50, R393) -/

/-- Field power is present: VSUP supplies the module (R46). -/
def fieldPower (s : State) : Bool := fieldSupply s && mainOn s

/-- A switch-on request is served: at once, or 100 ms after a fault trip (R48); it clears SHED (R50). -/
def serveRequest (b : Bay) (s : State) : State :=
  let o := bayOut s b
  if !o.request || o.on || !fieldPower s || (o.fault && decide (s.now - o.tripAt < 25000000)) then s
  else
    let s := setBayOut s b { o with on := true, fault := false, shed := false }
    if o.shed then hk .bayShed b.val s else s

/-- SLOT_CTL.PWR takes a value (R393). -/
def setPwr (b : Bay) (on : Bool) (s : State) : State :=
  let x := bay s b
  let o := bayOut s b
  let s := setBay s b { x with pwr := on }
  if on then (if x.pwr then s else serveRequest b (setBayOut s b { o with request := true }))
  else setBayOut s b { o with request := false, on := false }

/-- A flag of SLOT_STS sets; its rise raises a housekeeping task (log entry 28). -/
def raiseSlot (b : Bay) (was : Bool) (f : BayState → BayState) (s : State) : State :=
  let s := setBay s b (f (bay s b))
  if was then s else hk .bay b.val s

/-- An output's own fault trip (R48, R393). -/
def tripOut (b : Bay) (s : State) : State :=
  let o := bayOut s b
  let x := bay s b
  let s := setBayOut s b { o with on := false, request := false, fault := true, tripAt := s.now }
  raiseSlot b x.pfault (fun x => { x with pwr := false, pfault := true }) s

/-- An output shed under R49 or R55 (R50, R393). -/
def shedOut (b : Bay) (s : State) : State :=
  let o := bayOut s b
  let s := setBayOut s b { o with on := false, request := false, shed := true }
  let s := setBay s b { bay s b with pwr := false }
  if o.shed then s else hk .bayShed b.val s

/-- The bays in SYS.BAYPWR.ORDER, the first to be shed first (R49). -/
def shedOrder (s : State) : List Bay := ([6, 4, 2, 0] : List Nat).map fun lo => Fin.ofNat 4 (bitsAt s.pow.order lo 2)

/-- Every output off; the controllers' settings stay (R46, R87). -/
def outputsOff (s : State) : State := (fins 4).foldl (fun s b => setBayOut s b { bayOut s b with on := false }) s

/-- Every requested output on (R58, R90). -/
def outputsOn (s : State) : State :=
  (fins 4).foldl (fun s b => serveRequest b (setBayOut s b { bayOut s b with request := (bay s b).pwr })) s

/-! ### The link (R396, R397, R399) -/

/-- The light of a bay's indicator, in IND's codes: amber in Lockdown (R394). -/
def indicatorLight (s : State) (b : Bay) : BitVec 3 := if s.sys.mode = Mode.lockdown then 2 else (bay s b).ind

/-- The link in L0 or L1. -/
def linkUpNow (x : BayState) : Bool := decide (x.link = 2 ∨ x.link = 3)

/-- LINK_STS.STATE changes; DLLSC follows a change of LINK_UP. -/
def setLink (b : Bay) (st : BitVec 3) (s : State) : State :=
  let x := bay s b
  let y := { x with link := st, speed := if st = 2 ∨ st = 3 then x.speed else 0 }
  let s := setBay s b y
  if linkUpNow x == linkUpNow y then s else raiseSlot b x.dllsc (fun x => { x with dllsc := true }) s

/-- WAKE# is driven (R397). -/
def wakeOutB (s : State) (b : Bay) : Bool :=
  let x := bay s b
  x.wakeEn && x.perst && x.present && x.out.any fun o => !o.sent && o.completes

/-! ### Staging sessions (R143, R145) -/

def eraseStaging (s : State) : State := storeErase stagingBase seedAreaLen s

/-- SEED.STAGE.SOURCE of a bay. -/
def bayStageSource (b : Bay) : BitVec 3 := BitVec.ofNat 3 (2 + b.val)

/-! ### Bay reset (R272, R398) -/

/-- The command slots of a bay in a task. -/
def slotsOf (b : Bay) (x : Desc) : List (Bay × Fin 256) := x.life.slots.filter fun p => decide (p.1 = b)

/-- A bay's tasks after a reset or removal (R272): Queued and Matching ones are released; a running one runs on and
reaches no host; one that the firmware holds for a command ends. -/
def releaseBayTask (b : Bay) (d : Fin 1024) (s : State) : State :=
  let x := desc s d
  if x.st = .free ∨ (x.bay.toNat ≠ b.val ∧ slotsOf b x = []) then s
  else if cancellable x then cancelDesc d 5 s
  else
    let y := { x with life := { x.life with status := worstStatus x.life.status 5, slots := x.life.slots.filter fun p => decide (p.1 ≠ b) } }
    let held := (fins 16).any fun t => decide ((thr s t).task = some d) || (vget s.drill.disp (coreOf t)).any fun p => decide (p = (t, d))
    if x.flow.toNat = flowBase s b ∧ slotsOf b x ≠ [] ∧ ¬ held then releaseDesc d (setDesc s d y) else setDesc s d y

def releaseBayTasks (b : Bay) (s : State) : State := (fins 1024).foldl (fun s d => releaseBayTask b d s) s

/-- A caller that is a command of the bay is gone. -/
def orphanCaller (b : Bay) (c : Caller) : Caller := match c with
  | .cmd k _ => if k = b then .fold else c
  | _ => c

/-- Granary requests of the bay's commands run on and complete to nobody. -/
def orphanRequests (b : Bay) (s : State) : State :=
  { s with grn := { s.grn with grq := s.grn.grq.map fun r => { r with caller := orphanCaller b r.caller }
                               grc := s.grn.grc.map fun r => { r with caller := orphanCaller b r.caller } } }

/-- What stays of a bay's registers through its reset: slot control, sticky flags, the pins, NOTIFY and CMD_STS. -/
def bayAfterReset (x : BayState) : BayState :=
  { wakeEn := x.wakeEn, btnAct := x.btnAct, autoOff := x.autoOff, autoOn := x.autoOn, pwr := x.pwr, ind := x.ind
    indSaved := x.indSaved, btnPend := x.btnPend, present := x.present, dllsc := x.dllsc, pdc := x.pdc, abp := x.abp
    pfault := x.pfault, cause := x.cause, resets := satInc x.resets, perst := x.perst, speed := x.speed, link := x.link
    txLimit := x.txLimit, dmaErr := x.dmaErr, busys := x.busys, notifyLo := x.notifyLo, notifyHi := x.notifyHi
    notifyCq := x.notifyCq, notifyTag := x.notifyTag }

/-- The bay's flows take their seed values, and their SHED and OVERLOAD read 0 (R398, 20 › At start). -/
def restoreBayFlows (b : Bay) (s : State) : State :=
  (List.range (flowCount s b)).foldl (fun s i =>
    let f := flowBase s b + i
    let s := restoreFlow f s
    { s with drill := { s.drill with shed := tabPut {} s.drill.shed f {} } }) s

/-- What a bay reset does (R398): an orderly removal ends, the bay's tasks, commands and registers go. -/
def bayResetParts (b : Bay) (cause : Option (BitVec 4)) (link : Option (BitVec 3)) (s : State) : State :=
  let s := if s.seed.open_ ∧ s.seed.source = bayStageSource b then endStaging s else s
  let s := setBay s b { bay s b with quiescing := false }
  let s := orphanRequests b (releaseBayTasks b s)
  let x := bay s b
  let s := qRead (102 + b.val) (min 32 (unsent x)) s
  let y := bayAfterReset x
  let s := setBay s b { y with cause := cause.getD y.cause }
  let s := match link with
    | none => s
    | some st => setLink b st s
  restoreBayFlows b s

/-- A bay reset (R398) with its CAUSE, none for a warm reset, and the state its link takes, none to leave it; the power
stage is no part of it (R58). -/
def bayReset (b : Bay) (cause : Option (BitVec 4)) (link : Option (BitVec 3)) (s : State) : State :=
  { bayResetParts b cause link s with pow := s.pow }

/-! ### Commands (R378 to R380, R385) -/

/-- The command's opcode and direction are known, and every field that must be 0 is (R377 to R379). -/
def cmdFormOk (s : State) (b : Bay) (c : BayCmd) : Bool :=
  let opc := cmdOpc c
  let len := cmdNum c 20 4
  let stage := decide (0x10 ≤ opc ∧ opc ≤ 0x14)
  let f := cmdNum c 4 2
  (decide (opc = 1 ∨ opc = 2 ∨ opc = 0x20 ∨ opc = 0x21) || (stage && bayStages s b)) &&
    decide (cmdDir c ≠ 3 ∧ bitsAt c.body 12 4 = 0 ∧ cmdNum c 24 8 = 0) &&
    decide (cmdNum c 8 8 % 4 = 0 ∧ cmdNum c 16 4 % 4 = 0 ∧ len % 4 = 0) &&
    decide (cmdNum c 16 4 + len ≤ winSize s b) &&
    (decide (opc ≠ 1) || (bayHasFlow s b f && decide (f ≠ flowBase s b) &&
      (!(flow s f).ready || decide (cmdIndex c < (flow s f).operands.toNat)))) &&
    (decide (opc ≠ 2) || decide (cmdNum c 32 1 ≤ 1) && (decide (cmdNum c 32 1 = 0) || bayHasFlow s b f))

/-- A command that is silent under R8 (R379): OK, RESULT 0, and a violation of the bay; its kind is 5 where it names
another's flow, else 2, and its address a free value. -/
def silentCmd (b : Bay) (c : BayCmd) (s : State) : State :=
  let opc := cmdOpc c
  let kind : Vio := if (opc = 1 ∨ opc = 2) ∧ ¬ bayHasFlow s b (cmdNum c 4 2) then .bay else .block
  let s := violateSrc (16 + b.val) kind (BitVec.ofNat 32 (Config.free 2 s.draws)) true false { s with draws := s.draws + 1 }
  completeCmd b c 0 0 s

/-- The descriptor of a bay command's task (R380). -/
def cmdTask (b : Bay) (c : BayCmd) : Desc :=
  { src := 2, bay := BitVec.ofNat 8 b.val, tag := BitVec.ofNat 16 (cmdNum c 6 2)
    payload := BitVec.ofNat 320 (cmdNum c 16 4 + cmdNum c 20 4 * 2 ^ 32 + cmdNum c 32 32 * 2 ^ 64)
    life := { slots := [(b, c.slot)] } }

/-- During the drain of Sleep entry the drill admits nothing from a host (R87). -/
def drainRefuses (s : State) : Bool := decide (s.sys.sleep = .draining)

/-- SUBMIT: the task is raised, or the command completes BUSY (R380). -/
def submitCmd (b : Bay) (c : BayCmd) (s : State) : State :=
  if drainRefuses s then completeCmd b c 1 0 s
  else
    let f := cmdNum c 4 2
    let x := cmdTask b c
    let x := if (flow s f).ready then x else { x with tag := 0 }
    match admitTagged f false (BitVec.ofNat 16 (cmdNum c 6 2)) (BitVec.ofNat 2 (cmdIndex c)) x s with
    | (.refused, s) => completeCmd b c 1 0 s
    | (_, s) => setCmd b { c with st := .admitted } s

/-- A service-flow command becomes a task, Queued until the firmware takes it up (R248, R378, log entry 29). -/
def admitService (b : Bay) (c : BayCmd) (s : State) : State :=
  let f := flowBase s b
  if drainRefuses s then completeCmd b c 1 0 s
  else
    match freeDesc s f, decide (0 < freeCredits (flow s f)) with
    | some d, true =>
      let x := cmdTask b c
      let s := admitTask f d { x with tag := 0, life := { x.life with firm := true } } (takeCredit f s)
      setCmd b { c with st := .admitted } s
    | _, _ => completeCmd b c 1 0 (countRefusal f s)

/-- The firmware starts on the command, which is Dispatched from now on; of an atomic flow only its oldest task may start,
while the lock is free (R253). -/
def beginService (b : Bay) (c : BayCmd) (s : State) : Option State :=
  match cmdDesc s b c.slot with
  | none => none
  | some d =>
    let x := desc s d
    if (flow s x.flow.toNat).kind = 0 ∧ oldestReady s x.flow.toNat ≠ some d then none
    else some (setCmd b { c with st := .served } (noteSelection d (firmwareThread s) .dispatched s))

/-- The oldest command of an opcode that its row may carry out. -/
def nextCmd (s : State) (b : Bay) (opc : Nat) : Option BayCmd :=
  (bay s b).cmds.find? fun c => decide (cmdOpc c = opc) && decide (c.st = .ready ∨ (c.st = .admitted ∧ opc ≠ 1))

/-- A service-flow row: the command is admitted unless it was, the firmware carries it out, or it completes
ENCLOSURE_RESTARTING while no Enclosure runs (R378), which comes before BUSY (R15). -/
def serviceRow (b : Bay) (opc : Nat) (act : BayCmd → State → State) (s : State) : State :=
  if !mainOn s || decide (s.sys.mode = Mode.lockdown) then s
  else
    match nextCmd s b opc with
    | none => s
    | some c =>
      if c.st = .ready ∧ enclRuns s = false then completeCmd b c 6 0 s
      else
      let s := if c.st = .ready then admitService b c s else s
      match cmdOf s b c.slot with
      | none => s
      | some c =>
        if c.st ≠ .admitted then s
        else if !enclRuns s then endCmd b c.slot 6 0 s
        else match beginService b c s with
          | none => s
          | some s => act c s

end Sys2Proof.Machine
end

