-- ==== Sys2Proof/Machine/Resets.lean ====
section
/-! DEFINITION. The reset kinds, Backup, Lockdown, Service's end, and Sleep and the wake from it (02, 04, 15, 22). -/

namespace Sys2Proof.Machine

/-! ### Cold reset (R58, R102, R103) -/

/-- A blow cut off leaves its bit uncertain (R106, R108 › Edges). -/
def cutBlow (f : Fuses) : Fuses :=
  match f.blowing with
  | none => { f with queue := [] }
  | some k => { f with blowing := none, queue := [], uncertain := if k ∈ f.uncertain then f.uncertain else k :: f.uncertain }

/-- What a cold reset keeps of the power stage: the supplies and the junction temperature. EXT_NOW takes its reset
value until VSUP_LOW_RANGE tells of the range again (R59). -/
def coldPower (p : Power) : Power :=
  { vsup := p.vsup, svc5v := p.svc5v, batt := p.batt, vsupMv := p.vsupMv, tj := p.tj, thermalOff := p.thermalOff }

/-- Every reader's context ends, so that a set not latched again reads zero (R67; log entry 101). -/
def freshShadows (b : Backup) : Backup := { b with shadows := [] }

/-- Firings assert WAKE_OUT no longer (R100). -/
def releaseFirings (b : Backup) : Backup := { b with alarms := b.alarms.map fun a => { a with drives := false } }

/-- What the monitor has printed stays printed. -/
def printed (h : HeadlandState) : HeadlandState := { answer := h.answer, answers := h.answers }

/-- A cold reset with its RESET_CAUSE: everything starts anew but the backup domain, the pins, the fuse array and the
memories that keep their contents without power. -/
def coldReset (cause : BitVec 4) (s : State) : State :=
  { now := s.now, draws := s.draws, pending := s.pending, pins := s.pins, bkp := freshShadows (releaseFirings s.bkp)
    pow := coldPower s.pow, fuse := { cutBlow s.fuse with done := false, fail := false }
    sys := { mode := Mode.boot, prev := s.sys.mode, cause := cause, romPending := true }
    drill := { flows := [(4095, flow4095)] }, cores := bootCores
    ldg := { bad := s.ldg.bad, logged := s.ldg.logged }, hld := printed s.hld
    mem := { s.mem with sram := [] } }

/-! ### Warm reset (R58, R103, R123) -/

/-- The three regions that the ROM set (R336). -/
def fixedRegion (base limit : Word) : Region :=
  { en := true, fixed := true, world := true, owner := 0xFF, bay := 0xFF, base := base, limit := limit }

def fixedRegions : Tab Region :=
  [(14, fixedRegion 0x08000000 0x081FFFFF), (15, fixedRegion 0x08700000 0x087FFFFF), (31, fixedRegion 0x20000000 0x2003FFFF)]

/-- Flow and task state as any reset leaves it. -/
def freshDrill : Drill := { flows := [(4095, flow4095)] }

/-- The cores held for re-measurement. -/
def heldCores : Cores := { bootCores with thr := .replicate 16 { run := .held } }

/-- What a warm reset leaves of the Granary: its roots and its share's state, no slots, nonces or requests. -/
def warmGranary (g : Granary) : Granary :=
  { ready := g.ready, pufFail := g.pufFail, shareNew := g.shareNew, escrow := g.escrow, escPending := g.escPending
    roots := g.roots, ostate := g.ostate, kek := g.kek, polarity := g.polarity, passes := g.passes, periodAt := g.periodAt
    periods := g.periods }

/-- What a warm reset leaves of the power stage: no sticky flag stays. -/
def warmPower (p : Power) : Power :=
  { p with rails := p.rails.map (fun r => { r with overload := false }), ov := false, ext := false, warn := false }

/-- What a warm reset clears and keeps, once its bay resets and its mode change are done (R123). SLEEP_FAIL stays:
04 › At start names only the cold reset for SYS.MODE (log entry 102). -/
def warmClear (s : State) : State :=
  let y := s.sys
  let meas := s.boot.measValid
  let c : Channels := { retired := s.chs.retired, retirePending := s.chs.retirePending, toFold := s.chs.toFold
                        lastCause := s.chs.lastCause, lastCh := s.chs.lastCh }
  { s with
    pow := warmPower s.pow, bkp := freshShadows s.bkp
    sys := { mode := y.mode, prev := y.prev, lock := y.lock, cause := 4, sleepFail := y.sleepFail, romPending := !meas }
    boot := if meas then { s.boot with commons := 0, remBusy := true, trigger := 1, remMatch := false }
            else { runs := s.boot.runs }
    seed := {}, clk := {}, chs := c, drill := freshDrill, books := {}
    cores := if meas then heldCores else bootCores, cache := .replicate 4 {}
    guard := if meas then { region := fixedRegions } else {}
    wld := { times := s.wld.times }, tile := {}, grn := warmGranary s.grn
    ldg := { bad := s.ldg.bad, logged := s.ldg.logged }
    hld := printed s.hld, mem := { s.mem with sram := [] } }

/-- A warm reset. While a measurement is latched the Enclosure is measured again; without one the ROM runs its whole
sequence (R123, 05 › Edges). In Limp it is carried out only once a new image has been activated, and under reason 2
never (R84, R94; log entry 38). -/
def warmReset (s : State) : State :=
  if limpReason s 2 ∨ (s.sys.mode = Mode.limp ∧ ¬ s.seed.activated) then s
  else
    let s := (fins 4).foldl (fun s b => bayReset b none (some 0) s) s
    warmClear (enterMode Mode.boot { s with sys := { s.sys with limpSet := 0 } })

/-! ### Service's end (R488) -/

/-- Service ends: the module returns to the mode it came from. -/
def endService (s : State) : State :=
  if s.sys.mode ≠ Mode.service then s
  else enterMode s.sys.serviceFrom (closeScope s)

/-! ### Backup (R84, R89 › Edges, R100) -/

def hiZAll (s : State) : State := (fins 128).foldl (fun s n => setChan s n { chan s n with drive := .hiZ }) s

def railsOff (s : State) : State :=
  { s with pow := { s.pow with rails := s.pow.rails.map fun r => { r with en := false, limit := false, hiccupAct := false, current := 0 } } }

/-- Field power is gone (R46): pins hi-Z, rails and bay outputs off, links down. -/
def fieldPowerOff (s : State) : State :=
  let s := outputsOff (railsOff (hiZAll s))
  (fins 4).foldl (fun s b => setLink b 0 s) s

/-- Main power is lost (R84): what it supplied stops, and what was running is lost with it. -/
def enterBackup (s : State) : State :=
  let s := enterMode Mode.backup (fieldPowerOff s)
  { s with sys := { s.sys with wake := 0, waking := false, sleep := .awake, wakeoutSw := false, pulse := false, limpSet := 0, lock := 0 }
           boot := { s.boot with headland := .absent }, fuse := cutBlow s.fuse, bkp := { freshShadows s.bkp with invertAt := s.now }
           pow := { s.pow with extNow := false }, hld := {} }

/-! ### Lockdown (R83, R95 to R97) -/

/-- The reason shown when two hold (R97). -/
def lockMerge (a b : BitVec 4) : BitVec 4 :=
  if a = 1 ∨ b = 1 then 1 else if a = 3 ∨ b = 3 then 3 else if a = 2 ∨ b = 2 then 2 else 0

/-- A task's cells are Free again. -/
def freeTaskCells (x : Desc) (s : State) : State :=
  x.life.cells.foldl (fun s p => moveRx p.1 .free [p.2] s) s

/-- The credits of a flow that no task holds (R450). -/
def creditsAbroad (s : State) (f : Nat) : Nat := channelGrants s f + creditTransit s f

/-- Every dispatched and queued task is discarded without completion (R95). -/
def discardTasks (s : State) : State :=
  let s := (s.drill.descs.map fun p => p.2).foldl (fun s x => freeTaskCells x s) s
  let flows := s.drill.flows.map fun p =>
    (p.1, { p.2 with taken := creditsAbroad s p.1, locked := false, nextRelease := p.2.nextOrder, skipped := [] })
  let s := (fins 4).foldl (fun s c =>
    qRead (84 + c.val) (vget s.drill.ret c).length (qRead (80 + c.val) (vget s.drill.disp c).length s)) s
  { s with drill := { s.drill with descs := [], entries := [], flows := flows, disp := .replicate 4 [], ret := .replicate 4 [] } }

/-- The Commons halts; only an Enclosure thread without a task goes on. -/
def haltThreads (s : State) : State :=
  (fins 16).foldl (fun s t => if (thr s t).task.isSome ∨ homeEncl s t = false then idleThread t s else s) s

/-- A bay in Lockdown: its commands are gone, and HB.STS.LOCKDOWN shows (R96, R388). -/
def lockBay (b : Bay) (s : State) : State :=
  let x := bay s b
  let y := { x with cmds := [], sq := x.sq.map (fun q => { q with fetching := 0 }), cq := x.cq.map (fun q => { q with reserved := 0 }) }
  bayEvent b (setBay s b y)

/-- Vault, slots and requests cleared, and every owner judged again (R400, R442). -/
def clearForLockdown (tamper : Bool) (s : State) : State :=
  let s := qRead 93 (min 16 s.grn.grc.length) (qRead 92 (min 16 s.grn.grq.length) s)
  judgeOwners (if tamper then clearGranary s else { flushSlots s with grn := { (flushSlots s).grn with grq := [], grc := [] } })

/-- The entry to Lockdown with its reason. SAFE_PEND clears at the entry (R76); SAFE_IN that asserts in Lockdown clears
it at once, as the module is in Lockdown already (log entry 103). A staging session ends and its area is erased, whoever
opened it (06 › Edges). -/
def enterLockdown (lock : BitVec 4) (s : State) : State :=
  let s := setTamp s { s.bkp.tamp with safePend := false }
  let s := { s with sys := { s.sys with lock := lockMerge s.sys.lock lock, limpSet := 0 } }
  if s.sys.mode = Mode.lockdown then s
  else
    let staging := s.seed.open_
    let s := closeScope s
    let s := enterMode Mode.lockdown s
    let s := clearForLockdown (decide (lock ≠ 3)) s
    let s := haltThreads (discardTasks s)
    let s := (fins 128).foldl (fun s n => stopChannel n (driveOf s n) s) s
    let s := if staging then eraseStaging (endStaging s) else s
    let s := (fins 4).foldl (fun s b => lockBay b s) (abortSnapshot s)
    let s := qPurge 96 8 (fun (r : LdgReq) => decide (r.caller = .fold)) s.ldg.lgq s
    let s := qPurge 97 8 (fun (r : LdgDone) => decide (r.caller = .fold)) s.ldg.lgc s
    { s with bkp := releaseFirings s.bkp
             sys := { s.sys with wakeoutSw := false, pulse := false, sleep := .awake, waking := false }
             ldg := { s.ldg with lgq := s.ldg.lgq.filter (fun r => decide (r.caller = .fold))
                                 lgc := s.ldg.lgc.filter (fun r => decide (r.caller = .fold)) } }

/-- An intrusion or SAFE_IN leads to Lockdown at once where the main die is powered; before handover the ROM decides,
in Backup the next start, and in Sleep the wake path (R95, R83). -/
def lockdownEvent (lock : BitVec 4) (s : State) : State :=
  if s.sys.romPending ∨ s.sys.mode = Mode.backup then s
  else if s.sys.mode = Mode.sleep then latchWake (if lock = 1 then 5 else 4) s
  else enterLockdown lock s

/-! ### Sleep (R86 to R88) -/

/-- Sleep's state of a channel (R53, R87, R88): settings and counters stay, what moves through it does not; settings that
waited for an idle channel are in force (R206, R226). -/
def sleepChannel (s : State) (n : Chan) (c : Channel) : Channel :=
  let watch := fieldSupply s && (seedFind s 0x13 1 n.val).isSome && c.en && !isRetired s n
  let cs := c.cs
  { c with reply := none, outcomes := []
           rx := { drops := c.rx.drops }, tx := {}
           cs := { cs with now := cs.regs, selActive := false, sel := none, sdo := [], xfer := none, strbWait := [], prevWord := 0, words := 0, repeats := 0 }
           async := { c.async with now := c.async.regs, ovlHold := false, driver := none, wire := [], ack := none, onSleep := watch
                                   watchHit := false, breakWait := false, ignoring := false }
           health := { c.health with retrying := false, attempt := 0, pins := .replicate 8 {} }
           drive := if !fieldSupply s then .hiZ else if watch then .watch else .sleep }

/-- A furrow in Sleep: a relock that runs ends first, a pending change is abandoned, its frequency stays (R88, R152). -/
def sleepFurrow (x : FurrowReg) : FurrowReg :=
  { x with fail := x.fail || (x.pending && (!x.relocking || decide (x.next ≠ x.freq))), pending := false, relocking := false, locked := false, lockedAt := none }

/-- A thread in Sleep: its context is gone (R88). -/
def sleepThread (_ : Thr) : Thr := {}

/-- Every credit is Free and every lock open (20 › At start). -/
def sleepFlow (x : Flow) : Flow := { x with taken := 0, locked := false, freedAt := 0, nextOrder := 0, nextRelease := 0, skipped := [] }

def sleepDrill (d : Drill) : Drill :=
  { d with flows := d.flows.map (fun p => (p.1, sleepFlow p.2)), descs := [], entries := [], shed := [], hkq := [], time := 0, loadAt := .replicate 4 0, busy := .replicate 16 0
           timers := d.timers.map (fun t => { t with en := false }), disp := .replicate 4 [], ret := .replicate 4 [] }

def sleepTiles (e : TileEngine) : TileEngine :=
  { enclTiles := e.enclTiles, policy := e.policy, trap := e.trap, change := e.change }

/-- Every task that waits completes CANCELLED (R87 step 2). -/
def cancelWaiting (s : State) : State :=
  (fins 1024).foldl (fun s d => if cancellable (desc s d) then cancelDesc d 2 s else s) s

/-- What Sleep turns off and clears once the outputs, the bays and the mode are done (R53, R88). -/
def sleepClear (s : State) : State :=
  let chs := { s.chs with ch := Vector.ofFn (fun n => sleepChannel s n (chan s n)), chev := [], chwr := [] }
  let g := s.grn
  { railsOff s with
    chs := chs, bkp := freshShadows s.bkp, drill := sleepDrill s.drill, books := {}, tile := sleepTiles s.tile
    clk := { s.clk with furrow := s.clk.furrow.map sleepFurrow, q := [], measuring := none }
    cores := { s.cores with thr := s.cores.thr.map sleepThread, loadingE := false, loadingC := false, eValid := false, cValid := false
                            vlsE := [], vlsC := [] }
    cache := .replicate 4 {}
    guard := { s.guard with towner := .replicate 16 0xFF }
    grn := { g with ready := false, roots := [], slots := .replicate 48 {}, nonces := [], kek := 0, grq := [], grc := [] }
    sys := { s.sys with sleep := .asleep, waking := false } }

/-- Steps 3 to 5 of R87. -/
def sleepEntry (s : State) : State :=
  let s := outputsOff (cancelWaiting s)
  let s := (fins 4).foldl (fun s b => bayReset b (some 6) (some 0) s) s
  sleepClear (enterMode Mode.sleep (abortSnapshot s))

/-- Nothing holds Sleep's entry back (R87 step 2, R477): no task is dispatched, the ledger and the tile engine rest. -/
def drained (s : State) : Bool :=
  !(s.drill.descs.any fun p => decide (p.2.st = .transit ∨ p.2.st = .dispatched ∨ p.2.st = .releasing)) &&
    decide (s.ldg.lgq = [] ∧ s.tile.tlq = [])

/-- The clocks restart; each furrow that was on relocks at its frequency. -/
def wakeFurrow (x : FurrowReg) : FurrowReg := if x.freq = 0 then x else { x with relocking := true, next := x.freq }

/-- The rails that the seed enables, at its levels (R35, R58). -/
def railsOn (s : State) : State :=
  match seedOne s 0x01 with
  | none => s
  | some e => (fins 8).foldl (fun s j =>
      setRail s j { rail s j with en := (e.num 1 1).testBit j.val && fieldSupply s, level5 := (e.num 2 1).testBit j.val }) s

end Sys2Proof.Machine
end

