-- ==== Sys2Proof/Machine/Restart.lean ====
section
/-! DEFINITION. The Enclosure restart, the re-measurement, the watchdog and Commons double faults (05, 15). -/

namespace Sys2Proof.Machine

/-! ### Commons double faults (R343) -/

/-- What the Enclosure monitor does with a double fault of a Commons thread. -/
def commonsDouble (t : Thread) (s : State) : State :=
  let x := thr s t
  let f : Nat := match x.task with
    | some d => (desc s d).flow.toNat
    | none => 0x0FFF
  let data := [BitVec.ofNat 8 t.val, 0, 0, 0] ++ leBytes 4 x.ext.now.epc.toNat ++ leBytes 4 x.ext.now.ests.toNat ++ leBytes 2 f
  let s := fwLog 3 data s
  let s := { s with wld := { s.wld with cfLast := BitVec.ofNat 8 t.val, cfCount := satInc s.wld.cfCount } }
  let s := setThr s t { thr s t with commons := zeroBank }
  if (thr s t).task.isSome then endTask t 0 s else idleThread t s

/-! ### The restart window (R345) -/

/-- 600 s of model time. -/
def restartWindow : Nat := 150000000000

/-- The restarts within the last 600 s. -/
def recentRestarts (s : State) : List Nat := s.wld.times.filter fun t => decide (s.now - t < restartWindow)

/-! ### Step 1 of R344 -/

/-- A Commons thread at the trigger: out of STILE with g4 = 6, out of the DEBUG handler, out of entry 5. -/
def restartCommons (t : Thread) (s : State) : State :=
  let x := thr s t
  if x.stile.isSome then
    let handler := x.debug || x.dfault || (x.inInt && x.ext.now.ests.getLsbD 30)
    let s := if x.debug then clearHalt t s else s
    let s := setThr s t { x with inInt := x.inInt && !handler, debug := false, dfault := false, waiting := false, syncing := false }
    stileReturn t restartResults s
  else if x.debug then resumeThread t s
  else if x.dfault then endTask t 6 s
  else s

/-- A task of an Enclosure thread is released with ENCLOSURE_RESTARTING and its lock freed (R272). -/
def abandonTask (d : Fin 1024) (s : State) : State :=
  let x := desc s d
  let fl := flow s x.flow.toNat
  let s := if fl.kind = 0 then setFlow s x.flow.toNat { fl with locked := false, freedAt := s.drill.time.toNat } else s
  releaseDesc d (setDesc s d { x with life := { x.life with status := worstStatus x.life.status 6, awaits := [] } })

/-- An Enclosure thread at the trigger: held, its task and owner tag gone, its bank zero (R337, R344). -/
def restartEncl (t : Thread) (s : State) : State :=
  let x := thr s t
  let s := match x.task with
    | none => s
    | some d => abandonTask d s
  let s := { s with guard := { s.guard with towner := vset s.guard.towner t 0xFF } }
  setThr s t { run := .held, commons := x.commons, ext := x.ext }

/-- A request that waits on the Enclosure completes ENCLOSURE_RESTARTING; what the Enclosure itself awaited is gone. -/
def answersCaller (c : Caller) : Bool := match c with
  | .flow _ _ _ => true
  | .cmd _ _ => true
  | _ => false

def restartGranary (s : State) : State :=
  let g := s.grn
  let gone := g.grq.filter fun r => answersCaller r.caller
  let back := gone.map fun r => ({ caller := r.caller, status := 6 } : GrnDone)
  let kept := (g.grc.filter fun r => answersCaller r.caller).map fun r => { r with slots := [] }
  let s := qRead 92 (min 16 g.grq.length) s
  let s := qPurge 93 16 (fun r => answersCaller r.caller) g.grc s
  let s := qWrite 93 (min 16 (kept.length + back.length) - min 16 kept.length) s
  flushSlots { s with grn := { s.grn with nonces := [], grq := [], grc := kept ++ back } }

def restartLedger (s : State) : State :=
  let g := s.ldg
  let gone := g.lgq.filter fun r => answersCaller r.caller
  let back := gone.map fun r => ({ caller := r.caller, status := 6 } : LdgDone)
  let keep := fun (r : LdgDone) => answersCaller r.caller || decide (r.caller = .fold)
  let kept := g.lgc.filter keep
  let s := qRead 96 (min 8 g.lgq.length) s
  let s := qPurge 97 8 keep g.lgc s
  let s := qWrite 97 (min 8 (kept.length + back.length) - min 8 kept.length) s
  { s with ldg := { s.ldg with lgq := [], lgc := kept ++ back } }

/-- A command that the firmware had taken up, and that no Granary completion will end, completes (06 › Edges). -/
def restartCommand (b : Bay) (c : BayCmd) (s : State) : State :=
  if c.st = .served ∧ ¬ (s.grn.grc.any fun r => decide (r.caller = .cmd b c.slot)) then endCmd b c.slot 6 0 s else s

/-- A divider that an Enclosure thread held is freed (14 › At start). -/
def freeEnclDivider (c : Fin 4) (s : State) : State :=
  let x := core s c
  match x.divider with
  | none => s
  | some t => if homeEncl s t then setCore s c { x with divider := none } else s

/-- The contexts of the Enclosure's threads and of the resident Headland begin anew, and with them their shadow sets
(R67; log entry 101). -/
def restartShadows (s : State) : State :=
  let begins (key : Nat) : Bool := decide (key = 48) || (decide (key < 48) && s.drill.enclThreads.getLsbD (key / 3))
  let kept := s.bkp.shadows.filter fun p => ! begins p.1
  { s with bkp := { s.bkp with shadows := kept } }

/-- Step 1 within the trigger's cycle. -/
def restartStep1 (s : State) : State :=
  let s := dropEncl (restartShadows s)
  let s := (fins 16).foldl (fun s t => if homeEncl s t then restartEncl t s else restartCommons t s) s
  let s := (fins 4).foldl (fun s c => freeEnclDivider c s) s
  let s := restartLedger (restartGranary s)
  let s := (fins 4).foldl (fun s b => (bay s b).cmds.foldl (fun s c => restartCommand b c s) s) s
  if s.seed.open_ then endStaging s else s

/-! ### Steps 2 to 4 -/

/-- The Enclosure's SRAM (R325): the fixed range and every SRAM range that a WORLD 1 region covers. -/
def enclSram (s : State) : List (Nat × Nat) :=
  (0x20000000, 0x40000) :: ([1, 2, 3, 4] : List Nat).flatMap fun g =>
    ((regionsOf s g).filter fun x => x.world).map fun x => (x.base.toNat, x.limit.toNat + 1 - x.base.toNat)

def scrub (s : State) : State :=
  (enclSram s).foldl (fun s p => dropData (fun _ _ => false) p.1 p.2 { s with mem := { s.mem with sram := memErase s.mem.sram p.1 p.2 } }) s

/-- Books results are invalid after a restart (20 › At start); a running snapshot ends aborted. -/
def spoilBooks (s : State) : State :=
  if s.books.busy then abortSnapshot s else { s with books := { s.books with done := false, shown := [], imbal := 0 } }

/-- An Enclosure restart with its cause, 1 WATCHDOG or 2 DOUBLE_FAULT (R344); absorbed while one runs; the third within
600 s ends in Limp reason 2 (R345). BOOT.REMEAS.MATCH clears when a run begins, and RUNS counts it at its end
(log entry 109). -/
def enclRestart (cause : BitVec 2) (t : Thread) (s : State) : State :=
  if s.wld.restart ∨ s.boot.remBusy ∨ limpReason s 2 ∨ ¬ mainOn s ∨ ¬ s.boot.romLocked ∨ s.sys.mode = Mode.lockdown then s
  else
    let s := { s with wld := { s.wld with times := recentRestarts s ++ [s.now], cause := cause
                                          thread := if cause = 2 then BitVec.ofNat 8 t.val else s.wld.thread } }
    let s := restartStep1 { s with wld := { s.wld with restart := true, restartAt := s.now } }
    if 3 ≤ s.wld.times.length then enterLimp 2 { s with wld := { s.wld with restart := false } }
    else
      let s := scrub (incrementCounter 1 s).2
      let s := spoilBooks (pushTlq .zeroMarked s)
      { s with hld := { s.hld with buf := 0 }
               boot := { s.boot with remBusy := true, trigger := 2, remMatch := false } }

/-! ### Re-measurement (R123) -/

def enclSlotBase (slotB : Bool) : Nat := if slotB then 0x08100000 else 0x08000000

/-- SHA-256 over bytes 0x00–0xBF of the latched slot and the latched length of its body. -/
def remeasured (s : State) : W256 :=
  let a := enclSlotBase s.boot.enclSlot
  ofBytes 256 (sha256 (flashRead s a 0xC0 ++ flashRead s (a + 0x100) s.boot.mlen.toNat))

/-- The vector lines of a world, as flash holds them (R283). -/
def vectorLines (s : State) (base : Word) : List Byte := flashRead s base.toNat 2560

/-- LOAD of the Enclosure's lines; a table at 0 is not loaded (R284). -/
def reloadE (s : State) : State :=
  if s.cores.vbaseE = 0 then s
  else { s with cores := { s.cores with vlsE := vectorLines s s.cores.vbaseE, eValid := true, loadingE := false } }

def reloadC (s : State) : State :=
  if s.cores.vbaseC = 0 then s
  else { s with cores := { s.cores with vlsC := vectorLines s s.cores.vbaseC, cValid := true, loadingC := false } }

/-- C0.t0 starts in the Enclosure at BOOT.ENTRY[e]; the other held threads are idle. -/
def startEncl (e : Fin 4) (s : State) : State :=
  let s := (fins 16).foldl (fun s t => if (thr s t).run = .held then setThr s t { thr s t with run := .idle } else s) s
  let pc := vget s.boot.entry e &&& ~~~3#32
  if homeEncl s 0 then setThr s 0 { run := .running, commons := (thr s 0).commons, pc := pc, ext := (thr s 0).ext } else s

/-- The watchdog starts anew with PERIOD_MS 250. -/
def startWatchdog (s : State) : State :=
  { s with wld := { s.wld with started := true, warned := false, elapsed := 0, period := 250, periodNext := 250 } }

/-- What waited for the restart's end: double faults, records to fold. -/
def afterRestart (s : State) : State :=
  let held := s.wld.cfHeld
  let s := held.foldl (fun s t => commonsDouble t s) { s with wld := { s.wld with cfHeld := [] } }
  let s := foldRetirements s
  if s.chs.retirePending then requestFold s else s

/-- The end of the run: BOOT.REMEAS, then the Enclosure's resumption or Limp reason 2 (R123 steps 5 and 6). -/
def remeasureOp (uncorrectable : Bool) (timeUs : Half) (s : State) : State :=
  if !s.boot.remBusy || !mainOn s || decide (s.sys.mode = Mode.lockdown) then s
  else
    let ok := !uncorrectable && decide (remeasured s = s.boot.meas)
    let b := { s.boot with remBusy := false, remMatch := ok, runs := satInc s.boot.runs, timeUs := timeUs }
    let restart := s.wld.restart
    let s := { s with boot := b, wld := { s.wld with restart := false } }
    if !ok then enterLimp 2 s
    else if restart then
      let us := BitVec.ofNat 16 (min 0xFFFF ((s.now - s.wld.restartAt) / 250))
      let s := startWatchdog (startEncl 2 (reloadE { s with wld := { s.wld with lastUs := us } }))
      afterRestart (fwLog 5 ([s.wld.cause.setWidth 8, s.wld.thread] ++ leBytes 2 us.toNat) s)
    else
      let s := startWatchdog (startEncl 1 s)
      loadPatrol { s with boot := { s.boot with headland := .resident }, ldg := { s.ldg with passDue := startPassDue s } }

/-- REMEASURE_DONE (R123, R344). -/
def execRemeasureDone (uncorrectable : Bool) (timeUs : Half) (s : State) : Host.Outcome State Fault Refusal :=
  .next (remeasureOp uncorrectable timeUs s)

/-! ### The watchdog (R342) -/

/-- Some Enclosure thread is halted, or a Commons thread is halted while executing in the Enclosure (R342, R490). -/
def enclHalted (s : State) : Bool := (fins 16).any fun t => (thr s t).debug && (homeEncl s t || (thr s t).stile.isSome)

/-- The watchdog counts now. -/
def watchdogRuns (s : State) : Bool :=
  s.wld.started && mainOn s && !limpReason s 2 && !s.wld.restart && !enclHalted s

/-- WDOG_KICK: KEY 0x6B reloads. -/
def kickWatchdog (s : State) : State :=
  { s with wld := { s.wld with elapsed := 0, warned := false, period := s.wld.periodNext } }

/-- WDOG_KICK (R342): KEY 0x6B written by the Enclosure. -/
def execWdogKick (r : Req) (s : State) : Host.Outcome State Fault Refusal :=
  .next (tryWrite r 0x56003004 (isEncl s r) kickWatchdog s)

/-- The watchdog's period in D3 cycles. -/
def watchdogSpan (s : State) : Nat := 250000 * s.wld.period.toNat

/-- WATCHDOG_WARN (R342): IPEND.WDOG on every Enclosure thread at 7/8 of the period since the last reload. -/
def execWatchdogWarn (s : State) : Host.Outcome State Fault Refusal :=
  .next (if !watchdogRuns s || s.wld.warned || decide (8 * s.wld.elapsed < 7 * watchdogSpan s) then s
  else
    let s := { s with wld := { s.wld with warned := true } }
    (fins 16).foldl (fun s t => if homeEncl s t then setIpend t 3 s else s) s)

/-- WATCHDOG_EXPIRE (R342, R344): at the period's end. -/
def execWatchdogExpire (s : State) : Host.Outcome State Fault Refusal :=
  .next (if watchdogRuns s && decide (watchdogSpan s ≤ s.wld.elapsed) then enclRestart 1 0 s else s)

end Sys2Proof.Machine
end

