-- ==== Sys2Proof/Machine/Except.lean ====
section
/-! DEFINITION. Taking an exception, emissions, and the completions of the tile engine (12, 14, 16). -/

namespace Sys2Proof.Machine

/-! ### Exceptions (R321, R322) -/

/-- The exceptions an instruction or a completion raises, by their entries (R321). -/
inductive Exc where
  | illegal | align | trap | brk | tile
  deriving DecidableEq, Repr

def Exc.entry : Exc → Nat
  | .illegal => 0
  | .align => 1
  | .trap => 2
  | .brk => 3
  | .tile => 4

/-- A double fault (R322): in the Enclosure's world a restart, on a Commons thread entry 5 and the monitor's work, held
while a restart runs (R343). -/
def doubleFault (t : Thread) (s : State) : State :=
  if inEncl s t then enclRestart 2 t s
  else if enclFree s then commonsDouble t s
  else
    let s := setThr s t { thr s t with run := .held }
    { s with wld := { s.wld with cfHeld := s.wld.cfHeld ++ [t] } }

/-- An exception is taken: EPC and ESTS written, the thread in the handler of its world's table until RETI; inside a
handler it is a double fault, and EPC and ESTS keep their values. -/
def raiseExc (t : Thread) (k : Exc) (epc : Word) (s : State) : State :=
  if (thr s t).inInt then doubleFault t s
  else
    let encl := inEncl s t
    enterHandler t encl k.entry (saveStatus t epc (settleForeign t s))

/-- An exception whose EPC is the instruction itself. -/
def raiseHere (t : Thread) (k : Exc) (s : State) : State := raiseExc t k (pcOf s t) s
/-- An exception whose EPC is the next instruction. -/
def raiseNext (t : Thread) (k : Exc) (s : State) : State := raiseExc t k (pcOf s t + 4) s

/-! ### Emissions (R268) -/

/-- The bay that a task of a flow acts for. -/
def flowBay (s : State) (f : Option (BitVec 12)) : Byte := match f with
  | none => 0xFF
  | some f => (flow s f.toNat).bay

/-- The target rules of R268: a flow of the emitter's world, and no other bay's. -/
def targetOk (s : State) (encl : Bool) (bay : Byte) (f : Nat) : Bool :=
  let fl := flow s f
  (fl.world == encl) && (decide (bay = 0xFF ∨ fl.bay = 0xFF) || decide (fl.bay = bay))

/-- An emission that R268 ignores: a violation of its thread, of another bay's object or else of the world rule, with no
address. -/
def ignoreEmission (src : Nat) (encl : Bool) (f : Nat) (s : State) : State :=
  violateNowhere src (if (flow s f).world == encl then .bay else .block) s

/-! ### Tile completions (R320, R353, R362 to R364) -/

/-- The task that a note raises. -/
def noteDesc (t : Thread) (n : TileNote) (ready : Bool) : Desc :=
  let tag := targetTag n.target
  { src := 5, tag := if ready then tag else 0
    payload := BitVec.ofNat 320 (n.word.toNat + t.val * 2 ^ 32 + n.flags.toNat * 2 ^ 40 + tag.toNat * 2 ^ 48) }

/-- A note enters its flow, or is ignored, or is refused and counted. -/
def raiseNote (t : Thread) (n : TileNote) (s : State) : State :=
  let f := targetFlow n.target
  if !targetOk s n.encl (flowBay s n.flow) f then ignoreEmission t.val n.encl f s
  else if !indexOk s f (targetIndex n.target) then s
  else
    match admitTagged f false (targetTag n.target) (targetIndex n.target) (noteDesc t n (flow s f).ready) s with
    | (.refused, s) => { s with tile := { s.tile with noteDrops := satInc s.tile.noteDrops } }
    | (_, s) => s

/-- Tile instructions of a thread that are not yet complete. -/
def tilePending (s : State) (t : Thread) : Bool :=
  (s.tile.tlq.any fun e => match e with
    | .op u _ _ _ _ _ => decide (u = t)
    | _ => false) || s.tile.tlc.any fun d => decide (d.thread = t)

/-- The task that the thread holds, as a tile instruction records it. -/
def heldTask (s : State) (t : Thread) : Option (Fin 1024 × Half) := (thr s t).task.map fun d => (d, (desc s d).order)

/-- A TSYNC that waited completes. -/
def settleSync (t : Thread) (s : State) : State :=
  let x := thr s t
  if x.syncing ∧ ¬ tilePending s t then setThr s t { x with syncing := false, pc := pcOf s t + 4 } else s

/-- TILE (R320): taken when the thread still holds the instruction's task; EPC is its first instruction not completed. -/
def raiseTile (t : Thread) (s : State) : State :=
  let (epc, s) := abandon t s
  checkTiles s (raiseExc t .tile epc s)

/-- TILE_COMPLETION: the completion at the head of TLC is read (R320, R353, R363). -/
def tileCompletionOp (s : State) : State :=
  match s.tile.tlc with
  | [] => s
  | d :: rest =>
    if !mainOn s then s
    else
      let s := qRead 95 1 { s with tile := { s.tile with tlc := rest } }
      let s := match d.note with
        | none => s
        | some n => raiseNote d.thread n s
      let s := settleSync d.thread s
      if d.ovf ∧ d.task.isSome ∧ heldTask s d.thread = d.task ∧ (thr s d.thread).run = .running then raiseTile d.thread s else s

/-- TILE_COMPLETION (R320, R362 to R364). -/
def execTileCompletion (s : State) : Host.Outcome State Fault Refusal := .next (tileCompletionOp s)

end Sys2Proof.Machine
end

