-- ==== Sys2Proof/Machine/Staging.lean ====
section
/-! DEFINITION. The status words that services and bays report, the Headland's answers, and the staging of a new seed
image (04, 05, 06, 22). -/

namespace Sys2Proof.Machine

/-! ### Status words -/

/-- SYS.MODE (R105). -/
def sysModeWord (s : State) : Word :=
  let y := s.sys
  fld y.limpSet 28 ||| BitVec.ofNat 32 (limpShown y.limpSet * 2 ^ 24) ||| fld y.lock 20 ||| flag y.sleepFail 11 |||
    fld y.prev 8 ||| fld y.mode 0

/-- SEED.STS (R146). -/
def seedStsWord (s : State) : Word :=
  let y := s.seed
  flag y.applied 31 ||| flag y.slot 30 ||| flag y.fallback 29 ||| flag y.lockdownOnly 28 ||| fld y.svn 16 |||
    BitVec.ofNat 32 (seedVer s * 256) ||| fld y.failA 4 ||| fld y.failB 0

/-- BOOT.STS (R125). -/
def bootStsWord (s : State) : Word :=
  let y := s.boot
  flag y.measValid 31 ||| flag y.romLocked 30 ||| fld y.commons 28 ||| flag y.commonsSlot 27 ||| flag y.enclSlot 25 |||
    flag y.fallback 24 ||| fld y.svn 16 ||| BitVec.ofNat 32 (enclVer s * 256) ||| fld y.failA 4 ||| fld y.failB 0

/-! ### Answers of the Headland (R481) -/

/-- A line is answered. -/
def hldAnswer (a : Answer) (s : State) : State := { s with hld := { s.hld with answer := a, answers := s.hld.answers + 1 } }
def hldOk (s : State) : State := hldAnswer {} s
def hldErr (code : Byte) (s : State) : State := hldAnswer { code := code } s

/-! ### Staging (R143 to R145) -/

/-- What a staging operation comes to at once: refused because another session or an operation runs, answered, or
answered when the store has finished. -/
inductive StageAns where
  | busy | done | later
  deriving DecidableEq, Repr

/-- The requester holds the open session. -/
def holdsStage (s : State) (src : BitVec 3) : Bool := s.seed.open_ && decide (s.seed.source = src)

/-- OPEN: the staging area is erased and a session opened; a second requester finds it BUSY. -/
def stageOpenOp (src : BitVec 3) (slot : Option (Fin 256)) (s : State) : StageAns × State :=
  if s.seed.wait ≠ .idle ∨ (s.seed.open_ ∧ s.seed.source ≠ src) then (.busy, s)
  else
    let s := eraseStaging s
    (.later, { s with seed := { s.seed with open_ := true, source := src, result := 0, code := 0, written := [], checkedLast := false
                                            wait := .erasing slot }
                      hld := { s.hld with staged := decide (src = 1) } })

/-- The byte at a staging offset has been written in this session. -/
def stageWritten (s : State) (off : Nat) : Bool := s.seed.written.any fun p => decide (p.1 ≤ off ∧ off < p.1 + p.2)

/-- One more written byte among the ranges. -/
def noteByte (off : Nat) : List (Nat × Nat) → List (Nat × Nat)
  | [] => [(off, 1)]
  | (a, n) :: t => if a + n = off then (a, n + 1) :: t else (a, n) :: noteByte off t

/-- BYTES of SEED.STAGE. -/
def stageBytes (s : State) : Nat := s.seed.written.foldl (fun k p => k + p.2) 0

/-- A byte is written once per session: a second write of it leaves the first (log entry 114). -/
def stageByte (s : State) (off : Nat) (b : Byte) : State :=
  if stageWritten s off then s
  else
    let s := storeProgram (stagingBase + off) [b] s
    { s with seed := { s.seed with written := noteByte off s.seed.written } }

/-- The form of a WRITE. -/
def stageWriteFormOk (off len : Nat) : Bool :=
  decide (4 ≤ len ∧ len ≤ 4096 ∧ off % 4 = 0 ∧ off + len ≤ seedAreaLen)

/-- WRITE: its bytes, each once; the last CHECK no longer stands. -/
def stageWriteOp (off : Nat) (bs : List Byte) (s : State) : StageAns × State :=
  if s.seed.wait ≠ .idle then (.busy, s)
  else
    let s := ((List.range bs.length).zip bs).foldl (fun s p => stageByte s (off + p.1) p.2) s
    (.done, { s with seed := { s.seed with checkedLast := false } })

/-- CHECK: R140 on the staging area. -/
def stageCheckOp (uncorrectable : Bool) (s : State) : StageAns × State :=
  if s.seed.wait ≠ .idle then (.busy, s)
  else
    let k := seedCode s stagingBase uncorrectable
    (.done, { s with seed := { s.seed with result := if k = 0 then 1 else 2, code := BitVec.ofNat 4 k, checkedLast := true } })

/-- The slot that ACTIVATE writes: the one not in use, slot A in Limp reason 1. -/
def activateTarget (s : State) : Bool := if limpReason s 1 then false else !s.seed.slot

/-- ACTIVATE: BUSY unless the last CHECK passed and no WRITE followed; the copy begins. -/
def stageActivateOp (slot : Option (Fin 256)) (s : State) : StageAns × State :=
  if s.seed.wait ≠ .idle ∨ s.seed.result ≠ 1 ∨ s.seed.checkedLast = false then (.busy, s)
  else
    let t := activateTarget s
    let s := storeErase (seedSlotBase t) seedAreaLen s
    (.later, { s with seed := { s.seed with wait := .copying slot t } })

/-- ABORT: the session closes; the staging area stays erased. -/
def stageAbortOp (s : State) : StageAns × State := (.done, endStaging (eraseStaging s))

/-- The bay that opened the session. -/
def stageBay (src : BitVec 3) : Option Bay := if h : 2 ≤ src.toNat ∧ src.toNat < 6 then some ⟨src.toNat - 2, by omega⟩ else none

/-- The requester of a finished operation has its answer. -/
def stageAnswer (src : BitVec 3) (slot : Option (Fin 256)) (s : State) : State :=
  match slot, stageBay src with
  | some k, some b => endCmd b k 0 0 s
  | _, _ => if src = 1 then hldOk s else s

/-- STAGE_ERASE_DONE (R143). -/
def execStageEraseDone (s : State) : Host.Outcome State Fault Refusal :=
  .next (match s.seed.wait with
  | .erasing slot => if mainOn s then stageAnswer s.seed.source slot { s with seed := { s.seed with wait := .idle } } else s
  | _ => s)

/-- The staging area's contents laid into a slot. -/
def copyStaging (slotB : Bool) (s : State) : State :=
  let moved := (s.mem.store.filter fun p => decide (stagingBase ≤ p.1 ∧ p.1 < stagingBase + seedAreaLen)).map fun p =>
    (p.1 - stagingBase + seedSlotBase slotB, p.2)
  moved.foldl (fun s p => storeProgram p.1 [p.2] s) s

/-- The copy is checked; passing, the directory prefers it, the command completes and a warm reset follows (R145). -/
def stageCopyOp (uncorrectable : Bool) (s : State) : State :=
  match s.seed.wait with
  | .copying slot t =>
    if !mainOn s then s
    else
      let s := copyStaging t s
      let k := seedCode s (seedSlotBase t) uncorrectable
      let src := s.seed.source
      let s := { s with seed := { s.seed with wait := .idle } }
      if k ≠ 0 then
        stageAnswer src slot { s with seed := { s.seed with result := 2, code := BitVec.ofNat 4 k, checkedLast := false } }
      else
        let s := writeDirectory t s
        warmReset (stageAnswer src slot { s with seed := { s.seed with activated := true } })
  | _ => s

/-- STAGE_COPY_DONE (R145). -/
def execStageCopyDone (uncorrectable : Bool) (s : State) : Host.Outcome State Fault Refusal :=
  .next (stageCopyOp uncorrectable s)

end Sys2Proof.Machine
end

