-- ==== Sys2Proof/Machine/Bays.lean ====
section
/-! DEFINITION. The bays' commands: doorbells, fetches, opcodes, notices, DMA, windows, LTR, the slot and the link (17). -/

namespace Sys2Proof.Machine

/-! ### Doorbells (R375, R386) -/

/-- Host requests are answered: the link carries them and the module is not in Lockdown (R96, R397). -/
def hostReaches (s : State) (b : Bay) : Bool := linkCarries s b && mainOn s && decide (s.sys.mode ≠ Mode.lockdown)

/-- A request that Lockdown refuses is silent and counts (R96, R373 › Edges). -/
def lockRefuses (b : Bay) (addr : Word) (write : Bool) (s : State) : State :=
  if linkCarries s b ∧ s.sys.mode = Mode.lockdown then violate (.bay b) .block addr write s else s

/-- The SQ tail doorbell: a value below SIZE on an enabled queue (R375). -/
def sqDoorbellOp (b : Bay) (q : Fin 16) (value : BitVec 10) (s : State) : State :=
  let x := sqOf s b q
  if x.en ∧ value.toNat < x.size.toNat then pumpFetch b (qPass (98 + b.val) (setSq b q { x with tail := value } s)) else s

/-- SQ_DOORBELL (R375, R376). -/
def execSqDoorbell (b : Bay) (q : Fin 16) (value : BitVec 10) (s : State) : Host.Outcome State Fault Refusal :=
  .next (if hostReaches s b then sqDoorbellOp b q value s
         else lockRefuses b (BitVec.ofNat 32 (0x1000 + 8 * q.val)) true s)

/-- The CQ head doorbell. -/
def cqDoorbellOp (b : Bay) (q : Fin 16) (value : BitVec 10) (s : State) : State :=
  let x := cqOf s b q
  if x.en ∧ value.toNat < x.size.toNat then pumpFetch b (qPass (98 + b.val) (setCq b q { x with head := value } s)) else s

/-- CQ_DOORBELL (R375, R376, R386). -/
def execCqDoorbell (b : Bay) (q : Fin 16) (value : BitVec 10) (s : State) : Host.Outcome State Fault Refusal :=
  .next (if hostReaches s b then cqDoorbellOp b q value s
         else lockRefuses b (BitVec.ofNat 32 (0x1004 + 8 * q.val)) true s)

/-! ### Fetched entries (R376, R379, R380) -/

/-- The lowest command slot not in use. -/
def freeSlot (x : BayState) : Option (Fin 256) := (fins 256).find? fun k => !(x.cmds.any fun c => decide (c.slot = k))

/-- One fetched entry: HEAD moves, a command slot takes it; a silent command completes at once, DIR IN reads its data. -/
def takeEntry (b : Bay) (q : Fin 16) (bs : List Byte) (s : State) : State :=
  let x := sqOf s b q
  let head := if x.head.toNat + 1 = x.size.toNat then 0 else x.head + 1
  match freeSlot (bay s b) with
  | none => s
  | some k =>
    let c : BayCmd := { slot := k, q := q, sqhd := head, body := ofBytes 512 bs, st := .ready }
    let dma := decide (cmdDir c = 1 ∧ 0 < cmdNum c 20 4)
    let c := if dma then { c with st := .dataIn } else c
    let s := setSq b q { x with head := head } s
    let s := setBay s b { bay s b with cmds := (bay s b).cmds ++ [c] }
    if !cmdFormOk s b c then silentCmd b c s
    else if dma then
      sendReads b (maxRead s b) (cmdNum c 20 4 / 128 + 1) (BitVec.ofNat 64 (cmdNum c 8 8)) (cmdNum c 20 4) s
    else s

/-- SQ_FETCH_DONE (R376 to R380): the entries of the read in flight. -/
def sqFetchOp (b : Bay) (q : Fin 16) (entries : List (List Byte)) (s : State) : State :=
  let x := sqOf s b q
  let n := x.fetching
  if n = 0 then s
  else
    let s := setSq b q { x with fetching := 0 } s
    let s := ((List.range n).map fun i => entries.getD i []).foldl (fun s e => takeEntry b q e s) (qPass (98 + b.val) s)
    pumpFetch b s

def execSqFetchDone (b : Bay) (q : Fin 16) (entries : List (List Byte)) (s : State) : Host.Outcome State Fault Refusal :=
  .next (sqFetchOp b q entries s)

/-- DATA_IN_DONE (R380): the bytes go to the window under the queue's owner tag; the command awaits admission. -/
def dataInOp (b : Bay) (slot : Fin 256) (data : List Byte) (s : State) : State :=
  match cmdOf s b slot with
  | none => s
  | some c =>
    if c.st ≠ .dataIn then s
    else
      let bs := (List.range (cmdNum c 20 4)).map fun i => data.getD i 0
      setCmd b { c with st := .ready } (winWrite b (sqOf s b c.q).owner (cmdNum c 16 4) bs s)

def execDataInDone (b : Bay) (slot : Fin 256) (data : List Byte) (s : State) : Host.Outcome State Fault Refusal :=
  .next (dataInOp b slot data s)

/-! ### Opcodes (R378 to R380, R385) -/

/-- SUBMIT (R380, R386). -/
def execSubmit (b : Bay) (s : State) : Host.Outcome State Fault Refusal :=
  .next (match nextCmd s b 1 with
  | none => s
  | some c => if mainOn s then submitCmd b c s else s)

/-- The task that a CANCEL names by SQ and CID, or the waiting entry of a flow with a tag (R385). -/
def cancelTarget (s : State) (b : Bay) (c : BayCmd) : Option (Fin 1024) :=
  if cmdNum c 32 1 = 0 then
    match (bay s b).cmds.find? fun x => decide (x.slot ≠ c.slot ∧ x.q.val = cmdNum c 33 1 ∧ cmdNum x 2 2 = cmdNum c 34 2) with
    | none => none
    | some x => cmdDesc s b x.slot
  else
    (oldestEntry s (cmdNum c 4 2) fun m => decide (m.tag = some (BitVec.ofNat 16 (cmdNum c 6 2)))).map fun e =>
      (entry s e.val).desc.toFin

/-- CANCEL (R269, R385): the target completes CANCELLED, and RESULT says whether it did. -/
def cancelOp (b : Bay) (c : BayCmd) (s : State) : State :=
  match cancelTarget s b c with
  | none => completeCmd b c 0 1 s
  | some d => if cancellable (desc s d) then completeCmd b c 0 0 (cancelDesc d 2 s) else completeCmd b c 0 1 s

def execCancel (b : Bay) (s : State) : Host.Outcome State Fault Refusal :=
  .next (match nextCmd s b 2 with
  | none => s
  | some c => if mainOn s then cancelOp b c s else s)

/-- A service-flow command whose operation was silent: OK, nothing moved, a violation (R144, R339). STAGE_WRITE, CHECK,
ACTIVATE and ABORT without an open session of the bay end here (log entry 132). -/
def silentService (b : Bay) (c : BayCmd) (s : State) : State :=
  endCmd b c.slot 0 0 (violateSrc (16 + b.val) .block (BitVec.ofNat 32 (Config.free 2 s.draws)) true false { s with draws := s.draws + 1 })

/-- What a staging operation answers a bay's command. -/
def stageEnd (b : Bay) (c : BayCmd) (r : StageAns × State) : State := match r with
  | (.busy, s) => endCmd b c.slot 1 0 s
  | (.done, s) => endCmd b c.slot 0 0 s
  | (.later, s) => s

/-- A staging operation of the session's holder. -/
def inSession (b : Bay) (act : BayCmd → State → StageAns × State) (c : BayCmd) (s : State) : State :=
  if holdsStage s (bayStageSource b) then stageEnd b c (act c s) else silentService b c s

def stageWriteCmd (b : Bay) (c : BayCmd) (s : State) : State :=
  let off := cmdNum c 32 4
  let len := cmdNum c 20 4
  if !stageWriteFormOk off len then silentService b c s
  else
    let (bs, s) := winRead b (sqOf s b c.q).owner (cmdNum c 16 4) len s
    stageEnd b c (stageWriteOp off bs s)

/-- STAGE_OPEN (R143, R144, R378). -/
def execStageOpen (b : Bay) (s : State) : Host.Outcome State Fault Refusal :=
  .next (serviceRow b 0x10 (fun c s => stageEnd b c (stageOpenOp (bayStageSource b) (some c.slot) s)) s)
/-- STAGE_WRITE (R143, R378). -/
def execStageWrite (b : Bay) (s : State) : Host.Outcome State Fault Refusal :=
  .next (serviceRow b 0x11 (fun c s => if holdsStage s (bayStageSource b) then stageWriteCmd b c s else silentService b c s) s)
/-- STAGE_CHECK (R143, R378). -/
def execStageCheck (b : Bay) (uncorrectable : Bool) (s : State) : Host.Outcome State Fault Refusal :=
  .next (serviceRow b 0x12 (inSession b fun _ s => stageCheckOp uncorrectable s) s)
/-- STAGE_ACTIVATE (R143, R145, R378). -/
def execStageActivate (b : Bay) (s : State) : Host.Outcome State Fault Refusal :=
  .next (serviceRow b 0x13 (inSession b fun c s => stageActivateOp (some c.slot) s) s)
/-- STAGE_ABORT (R143, R378). -/
def execStageAbort (b : Bay) (s : State) : Host.Outcome State Fault Refusal :=
  .next (serviceRow b 0x14 (inSession b fun _ s => stageAbortOp s) s)

/-- The Granary command of a bay: its descriptor lies in the window at ARGS (R378, R425). -/
def granaryCmd (b : Bay) (c : BayCmd) (s : State) : State :=
  match grnTake s (bayAsker s b c.slot (sqOf s b c.q).owner) (cmdNum c 32 4) with
  | .silent => endCmd b c.slot 0 0 s
  | .busy => endCmd b c.slot 1 0 s
  | .queued r => pushGrq r s

/-- GRANARY (R378, R424, R425, R427). -/
def execGranary (b : Bay) (s : State) : Host.Outcome State Fault Refusal := .next (serviceRow b 0x20 (granaryCmd b) s)

/-- STATUS (R378). -/
def execStatus (b : Bay) (s : State) : Host.Outcome State Fault Refusal :=
  .next (serviceRow b 0x21 (fun c s =>
    endCmd b c.slot 0 (BitVec.ofNat 64 ((sysModeWord s).toNat + (seedStsWord s).toNat * 2 ^ 32)) s) s)

/-! ### Notices (R383) -/

/-- The thread acts for the bay, or is the Enclosure's on the bay's registers. -/
def actsFor (s : State) (t : Thread) (b : Bay) : Bool := decide (actingBay s t = some b)

def notifyAddr (b : Bay) : Word := BitVec.ofNat 32 (0x5300002C + 0x10000 * b.val)

/-- A read of NOTIFY_GO: what it returns, and the notice queued; a thread that does not act for the bay reads 0 and
counts a violation (R8, R383). -/
def notifyRead (t : Thread) (b : Bay) (s : State) : Word × State :=
  if !actsFor s t b then (0, violateSrc t.val (if (actingBay s t).isSome then .bay else .block) (notifyAddr b) false false s)
  else
    let x := bay s b
    let q := x.notifyCq.toFin
    let c := cqOf s b q
    if !c.en || decide (cqFree c = 0) then (1, s)
    else
      let s := setCq b q { c with reserved := c.reserved + 1 } s
      (0, writeEntry b q (BitVec.ofNat 64 (x.notifyLo.toNat + x.notifyHi.toNat * 2 ^ 32)) 0xFF 0 x.notifyTag.toNat 0 true s)

/-- NOTIFY_GO (R373, R383): the read by a thread. -/
def execNotifyGo (t : Thread) (b : Bay) (s : State) : Host.Outcome State Fault Refusal :=
  .next (tryRead (.thread t) (notifyAddr b) true (fun s => (notifyRead t b s).2) s)

/-! ### MSI-X (R387) -/

/-- A vector's mask bit clears, and a pending message goes out. -/
def unmaskVec (b : Bay) (v : Fin 32) (s : State) : State :=
  let x := bay s b
  releaseVec b v (setBay s b { x with vecs := vset x.vecs v { vget x.vecs v with mask := false } })

/-- MSIX_UNMASK (R387). -/
def execMsixUnmask (b : Bay) (vec : Fin 32) (s : State) : Host.Outcome State Fault Refusal :=
  .next (if hostReaches s b then unmaskVec b vec s
         else lockRefuses b (BitVec.ofNat 32 (0x200C + 16 * vec.val)) true s)

/-! ### DMA errors (R384) -/

/-- A failure is reported: DMA_ERR, and its bit of AER's Uncorrectable Error Status (log entry 16). -/
def noteDmaError (b : Bay) (fault : DmaFault) (s : State) : State :=
  let bit : Word := match fault with
    | .poisoned => 0x1000
    | .timeout => 0x4000
    | .aborted => 0x8000
    | .unsupported => 0x100000
  let x := bay s b
  setBay s b { x with dmaErr := true, cfg := tabPut 0 x.cfg 0x104 (tabGet 0 x.cfg 0x104 ||| bit) }

/-- DMA_ERROR (R384): a failed fetch stops its queue, a failed data phase ends its command. -/
def dmaErrorOp (b : Bay) (read : DmaRead) (fault : DmaFault) (s : State) : State :=
  match read with
  | .fetch q =>
    let x := sqOf s b q
    let c := cqOf s b x.cqid.toFin
    if x.fetching = 0 then s
    else
      let s := setCq b x.cqid.toFin { c with reserved := c.reserved - x.fetching } s
      let s := setSq b q { x with en := false, err := true, fetching := 0 } s
      pumpFetch b (noteDmaError b fault s)
  | .data k =>
    match cmdOf s b k with
    | none => s
    | some c => if c.st = .dataIn then completeCmd b c 5 0 (noteDmaError b fault s) else s

def execDmaError (b : Bay) (failure : DmaFailure) (s : State) : Host.Outcome State Fault Refusal :=
  .next (dmaErrorOp b failure.read failure.fault s)

/-! ### The window (R371) -/

/-- Bytes of a reply in completions of the payload size, with the request's attributes (R389). -/
def sendReply (b : Bay) (attr : TlpAttr) (size : Nat) : Nat → List Byte → State → State
  | 0, _, s => s
  | k + 1, bs, s => if bs = [] then s else sendReply b attr size k (bs.drop size) (hostSend b (.reply (bs.take size) attr) s)

/-- BAR2_ACCESS: bytes at or above WIN_SIZE read zero and ignore writes; an access across WIN_SIZE is refused whole
(R12); the rest passes the SRAM guards under bay b and owner tag 0xFF. -/
def bar2Op (b : Bay) (write : Bool) (attr : TlpAttr) (off len : Nat) (data : List Byte) (s : State) : State :=
  let s := qPass (98 + b.val) s
  let inside := decide (off + len ≤ winSize s b)
  let s := if decide (off < winSize s b) && !inside then violate (.bay b) .bay (BitVec.ofNat 32 (winBase s b + off)) write s else s
  if write then (if inside then winWrite b 0xFF off ((List.range len).map fun i => data.getD i 0) s else s)
  else
    let (bs, s) := if inside then winRead b 0xFF off len s else (List.replicate len 0, s)
    sendReply b attr (maxPayload s b) (len / 128 + 1) bs s

/-! ### LTR (R390, R391) -/

/-- What remains of a deadline in ns, less the margin, never below 0. -/
def deadlineSlack (s : State) (d : Word) (marginNs : Nat) : Nat :=
  if deadlinePassed s d then 0 else 4 * (d - timeLo s).toNat - marginNs

/-- The credits of a flow that its tasks hold. -/
def usedCredits (s : State) (f : Nat) : Nat := (flowTerms s f).getD 3 0

/-- The candidates for L in ns. -/
def ltrTerms (s : State) (b : Bay) (marginNs capNs : Nat) : List Nat :=
  let flows := (List.range (flowCount s b)).map fun i => flowBase s b + i
  let tasks := (s.drill.descs.map fun p => p.2).filter fun x => decide (x.st ≠ .free ∧ x.deadline ≠ 0 ∧ x.flow.toNat ∈ flows)
  (tasks.map fun x => deadlineSlack s x.deadline marginNs) ++
    (flows.filter fun f => decide (0 < (flow s f).credits.toNat)).map fun f =>
      capNs * ((flow s f).credits.toNat - usedCredits s f) / (flow s f).credits.toNat

/-- The smallest scale whose value fits 10 bits: scale and value. -/
def ltrEncode (ns : Nat) : Nat × Nat :=
  match (List.range 6).find? fun k => decide (ns / 32 ^ k ≤ 1023) with
  | none => (5, 1023)
  | some k => (k, ns / 32 ^ k)

/-- LTR_UPDATE: the tolerance computed, and a message sent when it is due. -/
def ltrOp (b : Bay) (s : State) : State :=
  match seedFind s 0x0C 1 b.val with
  | none => s
  | some e =>
    if e.num 1 1 = 0 ∨ ¬ ltrOn s b ∨ ¬ linkCarries s b ∨ ¬ mainOn s then s
    else
      let cap := e.num 4 2 * 1000
      let terms := ltrTerms s b (e.num 2 2 * 1000) cap
      let (k, v) := ltrEncode (terms.foldl min cap)
      let tasks := (s.drill.descs.map fun p => p.2).any fun x =>
        decide (x.st ≠ .free ∧ x.deadline ≠ 0) && bayHasFlow s b x.flow.toNat
      let shown := v * 32 ^ k
      let x := bay s b
      let due := match x.ltrNs with
        | none => true
        | some old => decide (shown < old) || (decide (old < shown) && decide (e.num 6 2 * 250000 ≤ s.now - x.ltrAt))
      if !due then s
      else
        let code := BitVec.ofNat 13 (k * 1024 + v)
        let s := setBay s b { x with ltrSent := satInc x.ltrSent, ltrLast := code, ltrNs := some shown, ltrAt := s.now }
        hostSend b (.ltr code (decide (cap ≠ 0) || tasks)) s

def execLtrUpdate (b : Bay) (s : State) : Host.Outcome State Fault Refusal := .next (ltrOp b s)

/-- L1_EXIT (R391): the link is in L0 again and the first value goes at once. -/
def execL1Exit (b : Bay) (s : State) : Host.Outcome State Fault Refusal :=
  .next (if (bay s b).link = 3 then
    flushOut b 4096 (setLink b 2 (setBay s b { bay s b with ltrNs := none })) else s)

/-- UPDATEFC_RECEIVED (R456): the host returns the credits of the oldest items sent. -/
def execUpdatefcReceived (b : Bay) (items : Nat) (s : State) : Host.Outcome State Fault Refusal :=
  .next (if !linkCarries s b then s
  else
    let x := bay s b
    let k := min items (x.out.filter fun o => o.sent).length
    let rec drop : Nat → List HostOut → List HostOut
      | 0, l => l
      | _, [] => []
      | k + 1, o :: t => if o.sent then drop k t else o :: drop (k + 1) t
    flushOut b 4096 (setBay s b { x with out := drop k x.out }))

/-! ### The slot (R392 to R396) -/

/-- PRESENCE_CHANGE (R392, R393). -/
def presenceOp (b : Bay) (present : Bool) (s : State) : State :=
  let x := bay s b
  if x.present == present || !mainOn s then s
  else
    let s := raiseSlot b x.pdc (fun x => { x with present := present, pdc := true, quiesced := x.quiesced && !present }) s
    if present then (if x.autoOn then setPwr b true s else s)
    else if x.autoOff then setPwr b false s else s

def execPresenceChange (b : Bay) (present : Bool) (s : State) : Host.Outcome State Fault Refusal := .next (presenceOp b present s)

/-- ATTENTION_BUTTON (R395): a press sets ABP; with BTN_ACT 1 it starts an orderly removal, and a second press ends it. -/
def buttonOp (b : Bay) (s : State) : State :=
  if !mainOn s then s
  else
    let x := bay s b
    let s := raiseSlot b x.abp (fun x => { x with abp := true }) s
    let x := bay s b
    if !x.btnAct then s
    else if x.btnPend then setBay s b { x with btnPend := false, ind := x.indSaved }
    else if x.quiescing || x.quiesced then s
    else setBay s b { x with btnPend := true, indSaved := x.ind, ind := 3 }

def execAttentionButton (b : Bay) (s : State) : Host.Outcome State Fault Refusal := .next (buttonOp b s)

/-- BUTTON_WINDOW_END (R395 step 2): fetching stops and HB.STS.QUIESCING is set. -/
def execButtonWindowEnd (b : Bay) (s : State) : Host.Outcome State Fault Refusal :=
  .next (if !(bay s b).btnPend || !mainOn s then s
  else settleQuiesce b (bayEvent b (setBay s b { bay s b with btnPend := false, quiescing := true })))

/-- QUIESCE_TIMEOUT (R395 step 3): what is still admitted is released as in a removal. -/
def execQuiesceTimeout (b : Bay) (s : State) : Host.Outcome State Fault Refusal :=
  .next (if !(bay s b).quiescing then s
  else
    let s := orphanRequests b (releaseBayTasks b s)
    let x := bay s b
    settleQuiesce b (setBay s b { x with cmds := [], sq := x.sq.map (fun q => { q with fetching := 0 })
                                         cq := x.cq.map (fun q => { q with reserved := 0 }) }))

/-- SURPRISE_REMOVAL (R396): PRESENT has become 0 with QUIESCED 0, or the link went down while PERST# is deasserted; one
removal causes one reset. -/
def surpriseOp (b : Bay) (linkDown : Bool) (s : State) : State :=
  let x := bay s b
  let fits := if linkDown then x.present && !x.perst && linkUpNow x
    else !x.present && !x.quiesced && !(decide (x.cause = 5) && decide (x.link = 0))
  if !fits || !mainOn s then s
  else
    let s := bayReset b (some (if linkDown then 5 else 4)) (some 0) s
    setBay s b { bay s b with btnPend := false }

def execSurpriseRemoval (b : Bay) (linkDown : Bool) (s : State) : Host.Outcome State Fault Refusal := .next (surpriseOp b linkDown s)

/-! ### Resets and the link (R397, R398) -/

/-- PERST_ASSERT (R397, R398): the bay is held in reset and its link in Detect. -/
def execPerstAssert (b : Bay) (s : State) : Host.Outcome State Fault Refusal :=
  .next (if (bay s b).perst || !mainOn s then s
  else bayReset b (some 1) (some 0) (setBay s b { bay s b with perst := true }))

/-- PERST_DEASSERT (R397): the link trains once the BAY record is applied. -/
def execPerstDeassert (b : Bay) (s : State) : Host.Outcome State Fault Refusal :=
  .next (if !(bay s b).perst || !mainOn s then s
  else
    let s := setBay s b { bay s b with perst := false }
    if bayEnabled s b ∧ s.seed.applied ∧ ¬ s.seed.lockdownOnly ∧ fieldSupply s then setLink b 1 s else s)

/-- HOT_RESET (R398): over a link that is up; the link goes through reset. -/
def execHotReset (b : Bay) (s : State) : Host.Outcome State Fault Refusal :=
  .next (if linkCarries s b && mainOn s then bayReset b (some 2) (some 4) s else s)

/-- FUNCTION_LEVEL_RESET (R398): the link stays. -/
def execFunctionLevelReset (b : Bay) (s : State) : Host.Outcome State Fault Refusal :=
  .next (if linkCarries s b && mainOn s then bayReset b (some 3) none s else s)

/-- LINK_UP (R366, R397): L0 at a rate up to MAX_RATE, with the host's transmit credits; what waits is sent. -/
def linkUpOp (b : Bay) (speed : BitVec 2) (credits : List Nat) (s : State) : State :=
  let x := bay s b
  if x.perst ∨ ¬ bayEnabled s b ∨ ¬ fieldSupply s ∨ ¬ mainOn s ∨ speed = 0 ∨ bayMaxRate s b < speed.toNat ∨ linkUpNow x then s
  else
    let lim : Vector Nat 6 := Vector.ofFn fun i => credits.getD i.val 0
    flushOut b 4096 (setLink b 2 (setBay s b { x with speed := speed, txLimit := lim }))

def execLinkUp (b : Bay) (speed : BitVec 2) (credits : List Nat) (s : State) : Host.Outcome State Fault Refusal :=
  .next (linkUpOp b speed credits s)

end Sys2Proof.Machine
end

