-- ==== Sys2Proof/Machine/PowerRows.lean ====
section
/-! DEFINITION. The power stage, the bay outputs, the junction temperature and the pins of J1 and J14 (02, 04). -/

namespace Sys2Proof.Machine

/-! ### Supplies (R44 to R46, R84, R85, R102) -/

/-- RESET_CAUSE of a start on VSUP: power-on when the backup domain had lost its supply too, else return from Backup. -/
def startCause (s : State) : BitVec 4 := if s.bkp.held ∨ s.bkp.por then 0 else 1

/-- Main power is present again: the POR mark has served. -/
def powered (s : State) : State := { s with bkp := { s.bkp with por := false } }

/-- POWER_ON (R84, R102): out of Backup through a cold reset; after the 135 °C shutdown the supplies are noted and
THERMAL_RECOVERY starts the module (R55). -/
def powerOnOp (mv : Half) (svc5v : Bool) (s : State) : State :=
  let vsup := decide (6500 < mv.toNat)
  if s.sys.mode ≠ Mode.backup ∨ ¬ (vsup ∨ svc5v) then s
  else
    let cause := if vsup then startCause s else 5
    let s := { s with pow := { s.pow with vsup := vsup, vsupMv := mv, svc5v := svc5v } }
    if s.pow.thermalOff then s else powered (coldReset cause s)

def execPowerOn (vsupMv : Half) (svc5v : Bool) (s : State) : Host.Outcome State Fault Refusal := .next (powerOnOp vsupMv svc5v s)

/-- SVC_5V_APPLIED (R46, R84, R85). -/
def execSvc5vApplied (s : State) : Host.Outcome State Fault Refusal :=
  .next (
    let t := { s with pow := { s.pow with svc5v := true } }
    if s.sys.mode = Mode.backup ∧ ¬ s.pow.thermalOff then
      powered (coldReset 5 { t with pow := { t.pow with vsup := false } })
    else t)

/-- What the loss of VSUP does: Backup, or with SVC_5V the mode stays without field power (R46, R84, R85). -/
def losePower (s : State) : State := if s.pow.svc5v then fieldPowerOff s else enterBackup s

/-- MAIN_POWER_LOST (R44). -/
def execMainPowerLost (s : State) : Host.Outcome State Fault Refusal :=
  .next (
    let t := { s with pow := { s.pow with vsup := false, extNow := false } }
    if s.sys.mode = Mode.backup then t else losePower t)

/-- SVC_5V_REMOVED (R84). -/
def execSvc5vRemoved (s : State) : Host.Outcome State Fault Refusal :=
  .next (
    let t := { s with pow := { s.pow with svc5v := false } }
    if s.sys.mode = Mode.backup ∨ fieldSupply s then t else enterBackup t)

/-- PLL_LOCK_LOSS (R44): as main power lost, and with the supply still there the module starts anew. -/
def execPllLockLoss (_pll : Fin 3) (s : State) : Host.Outcome State Fault Refusal :=
  .next (if !mainOn s then s else coldReset 1 (enterBackup s))

/-- Every channel's pins take what its state and the mode give them. -/
def restoreDrives (s : State) : State := (fins 128).foldl (fun s n => takeDrive n s) s

/-- Links train where PERST# is deasserted and the BAY record applied (R397). -/
def trainLinks (s : State) : State :=
  (fins 4).foldl (fun s b => if bayEnabled s b ∧ ¬ (bay s b).perst ∧ ¬ linkUpNow (bay s b) then setLink b 1 s else s) s

/-- In Sleep the watch channels' sleep transceivers start and every other pin takes its Sleep state (R53). -/
def sleepPins (s : State) : State :=
  { s with chs := { s.chs with ch := Vector.ofFn fun n => sleepChannel s n (chan s n) } }

/-- VSUP_ON_SERVICE_SUPPLY (R85): as after seed application, and in Sleep as Sleep has the pins. After the 135 °C
shutdown the field side waits for the recovery (R55). -/
def execVsupOnServiceSupply (mv : Half) (s : State) : Host.Outcome State Fault Refusal :=
  .next (if s.pow.vsup ∨ ¬ s.pow.svc5v ∨ s.sys.mode = Mode.backup ∨ mv.toNat ≤ 6500 then s
  else
    let s := { s with pow := { s.pow with vsup := true, vsupMv := mv } }
    if s.sys.mode = Mode.sleep then sleepPins s
    else if s.seed.applied ∧ fieldSupply s then trainLinks (outputsOn (restoreDrives (railsOn s))) else s)

/-- A flag of the power stage sets; its rise raises a housekeeping task (R59). -/
def raisePow (cause : HkCause) (data : Nat) (was : Bool) (f : Power → Power) (s : State) : State :=
  let s := { s with pow := f s.pow }
  if was then s else hk cause data s

/-- VSUP_OVERVOLTAGE (R45, R59). -/
def execVsupOvervoltage (mv : Half) (s : State) : Host.Outcome State Fault Refusal :=
  .next (if !mainOn s || !s.pow.vsup || decide (mv.toNat ≤ 32000) then s
  else raisePow .vsup 0 s.pow.ov (fun p => { p with ov := true, vsupMv := mv }) s)

/-- VSUP_LOW_RANGE (R44, R59). -/
def execVsupLowRange (mv : Half) (s : State) : Host.Outcome State Fault Refusal :=
  .next (if !mainOn s || !s.pow.vsup || decide (mv.toNat < 6000 ∨ 9000 ≤ mv.toNat) then s
  else raisePow .vsup 1 s.pow.ext (fun p => { p with ext := true, extNow := true, vsupMv := mv }) s)

/-- VSUP_RETURN_TO_RANGE (R44). -/
def execVsupReturnToRange (mv : Half) (s : State) : Host.Outcome State Fault Refusal :=
  .next (if !s.pow.vsup || decide (mv.toNat < 9000) then s
  else { s with pow := { s.pow with extNow := false, vsupMv := mv } })

/-! ### Pin rails (R40, R59) -/

/-- RAIL_OVERLOAD (R40, R234): the rail enters current limit, or with `inLimit` false the limit has ended, which no row
of its own tells (log entry 104). OVERLOAD stays set until it is cleared. -/
def execRailOverload (j : Fin 8) (load : RailLoad) (s : State) : Host.Outcome State Fault Refusal :=
  .next (
    let x := rail s j
    if !mainOn s || !x.en || x.hiccupAct then s
    else
      let s := setRail s j { x with overload := x.overload || load.inLimit, limit := load.inLimit, current := load.ma }
      if x.overload || !load.inLimit then s else hk .rail j.val s)

/-- RAIL_HICCUP (R40). -/
def execRailHiccup (j : Fin 8) (s : State) : Host.Outcome State Fault Refusal :=
  .next (
    let x := rail s j
    if !x.en || x.hiccupAct then s
    else setRail s j { x with limit := false, hiccupAct := true, hiccups := satInc x.hiccups, current := 0 })

/-- RAIL_RESTART (R40). -/
def execRailRestart (j : Fin 8) (s : State) : Host.Outcome State Fault Refusal :=
  .next (setRail s j { rail s j with hiccupAct := false })

/-! ### Bay outputs (R47 to R50, R55, R57, R393) -/

def slotAddr (b : Bay) : Word := BitVec.ofNat 32 (0x53000000 + 0x10000 * b.val)

/-- BAY_POWER_REQUEST (R48, R393): SLOT_CTL.PWR written. -/
def execBayPowerRequest (r : Req) (b : Bay) (on : Bool) (s : State) : Host.Outcome State Fault Refusal :=
  .next (tryWrite r (slotAddr b) (match r with
    | .bay _ => false
    | _ => true) (setPwr b on) s)

/-- BAY_OUTPUT_FAULT (R48). -/
def execBayOutputFault (b : Bay) (s : State) : Host.Outcome State Fault Refusal :=
  .next (if (bayOut s b).on then tripOut b s else s)

/-- BAY_REENABLE (R48): a request that waited, once 100 ms have passed since the trip. -/
def execBayReenable (b : Bay) (s : State) : Host.Outcome State Fault Refusal :=
  .next (
    let o := bayOut s b
    if !o.request || o.on || !o.fault || !fieldPower s || decide (s.now - o.tripAt < 25000000) then s
    else
      let s := setBayOut s b { o with on := true, fault := false, shed := false }
      if o.shed then hk .bayShed b.val s else s)

/-- One bay shed for the budget; one that trips in the same window latches its fault as well (R50). -/
def budgetShed (tripped : Bool) (b : Bay) (s : State) : State := if tripped then shedOut b (tripOut b s) else shedOut b s

/-- The combined current is within the budget at a mounting base temperature in thousandths of a degree (R49): 8 A up
to 70 °C, falling linearly to 4 A at 85 °C, and 4 A above it, where R54 leaves no limit (log entry 105). -/
def withinBudget (baseMc : Int) (ma : Nat) : Bool :=
  if baseMc ≤ 70000 then decide (ma ≤ 8000)
  else if 85000 ≤ baseMc then decide (ma ≤ 4000)
  else decide (15 * (ma : Int) ≤ 120000 - 4 * (baseMc - 70000))

/-- Bays in order until the total is within the limit (R49): what is left, and the state. -/
def shedUntil (baseMc : Int) (ma : Bay → Nat) (tripped : BitVec 4) : List Bay → Nat → State → Nat × State
  | [], total, s => (total, s)
  | b :: t, total, s =>
    if withinBudget baseMc total then (total, s)
    else if !(bayOut s b).on then shedUntil baseMc ma tripped t total s
    else shedUntil baseMc ma tripped t (total - ma b) (budgetShed (tripped.getLsbD b.val) b s)

/-- The combined current of the outputs that are on. -/
def totalMa (s : State) (ma : Bay → Nat) : Nat :=
  (fins 4).foldl (fun k b => if (bayOut s b).on then k + ma b else k) 0

/-- BAY_BUDGET_SHED (R49, R50). -/
def execBayBudgetShed (baseMc : Int) (m0 m1 m2 m3 : Half) (tripped : BitVec 4) (s : State) : Host.Outcome State Fault Refusal :=
  .next (
    let ma : Bay → Nat := fun b => ([m0.toNat, m1.toNat, m2.toNat, m3.toNat] : List Nat).getD b.val 0
    let total := totalMa s ma
    if !mainOn s || withinBudget baseMc total then s
    else
      let (left, s) := shedUntil baseMc ma tripped (shedOrder s) total s
      { s with pow := { s.pow with totalMa := BitVec.ofNat 16 (min 0xFFFF left) } })

/-! ### The junction (R55) -/

/-- THERMAL_WARN (R55): 120 °C, shown as 184. -/
def execThermalWarn (tj : Byte) (s : State) : Host.Outcome State Fault Refusal :=
  .next (if !mainOn s || decide (tj.toNat < 184) then s
  else raisePow .therm 0 s.pow.warn (fun p => { p with warn := true, tj := tj }) s)

/-- THERMAL_SHED (R55, R57): from 125 °C one bay each time, until the junction is below 122 °C. -/
def execThermalShed (tj : Byte) (s : State) : Host.Outcome State Fault Refusal :=
  .next (if !mainOn s then s
  else
    let active := decide (189 ≤ tj.toNat) || (s.pow.thermShed && decide (186 ≤ tj.toNat))
    let was := s.pow.thermShed
    let s := { s with pow := { s.pow with tj := tj, thermShed := active } }
    let s := if active = was then s else hk .therm 1 s
    if !active then s
    else match (shedOrder s).find? fun b => (bayOut s b).on with
      | none => s
      | some b => shedOut b s)

/-- THERMAL_SHUTDOWN (R55, R84): 135 °C. -/
def execThermalShutdown (tj : Byte) (s : State) : Host.Outcome State Fault Refusal :=
  .next (if !mainOn s || decide (tj.toNat < 199) then s
  else losePower { s with pow := { s.pow with tj := tj, thermalOff := true } })

/-- THERMAL_RECOVERY (R55, R102): below 110 °C. -/
def execThermalRecovery (tj : Byte) (s : State) : Host.Outcome State Fault Refusal :=
  .next (if !s.pow.thermalOff || decide (174 ≤ tj.toNat) then s
  else
    let s := { s with pow := { s.pow with tj := tj, thermalOff := false } }
    if s.pow.vsup ∨ s.pow.svc5v then powered (coldReset 2 s) else s)

/-! ### Pins (R29, R31, R34, R75, R89, R99, R101, R470, R488) -/

/-- IGN_CHANGE (R89, R99). In Sleep a change raises no task of its own, as the drill is off: a rise brings the wake
task (log entry 106). -/
def execIgnChange (level : Bool) (s : State) : Host.Outcome State Fault Refusal :=
  .next (if s.pins.ign == level then s
  else
    let s := { s with pins := { s.pins with ign := level } }
    let s := if mainOn s then hk .ign (bit level) s else s
    if level then latchWake 0 s else s)

/-- The share and its mask are zero (R74, R75). -/
def zeroShare (s : State) : State := { s with bkp := { s.bkp with share := 0, mask := 0 } }

/-- SAFE_IN_ASSERT (R31, R75, R76, R95, R442). -/
def execSafeInAssert (asserted : Bool) (s : State) : Host.Outcome State Fault Refusal :=
  .next (if s.pins.safeIn == asserted then s
  else
    let s := { s with pins := { s.pins with safeIn := asserted } }
    if !asserted then s
    else
      let s := setTamp s { s.bkp.tamp with safe := true, safePend := true }
      lockdownEvent 2 (clearGranary (zeroShare s)))

/-- SVC_PRESENT_CHANGE (R89, R488): falling wakes from Sleep, rising ends Service. -/
def execSvcPresentChange (high : Bool) (s : State) : Host.Outcome State Fault Refusal :=
  .next (if s.pins.svcPresentHigh == high then s
  else
    let s := { s with pins := { s.pins with svcPresentHigh := high } }
    if high then endService s else latchWake 3 s)

/-- NV_PROT_DEASSERT (R238, R470): a task, and the fold that the pin held back. -/
def execNvProtDeassert (asserted : Bool) (s : State) : Host.Outcome State Fault Refusal :=
  .next (if s.pins.nvProt == asserted then s
  else
    let s := { s with pins := { s.pins with nvProt := asserted } }
    if asserted ∨ ¬ mainOn s then s
    else
      let s := foldRetirements (hk .ledger 0 s)
      if s.chs.retirePending ∧ enclRuns s then requestFold s else s)

end Sys2Proof.Machine
end

