-- ==== Sys2Proof/Machine/BackupRows.lean ====
section
/-! DEFINITION. The backup domain: supplies, the calendar clock, alarms, WAKE_OUT, tamper sense and the fuses
(03, 04, 05). -/

namespace Sys2Proof.Machine

/-! ### Shadow sets (R66, R67) -/

/-- The shadow set of a requester in its present context. -/
def shadowKey (s : State) : Req → Nat
  | .thread t =>
    let x := thr s t
    let stileHandler := x.stile.isSome && x.inInt && x.ext.now.ests.getLsbD 30
    let plainHandler := x.stile.isNone && x.inInt
    3 * t.val + (if stileHandler ∨ plainHandler then 1 else if x.stile.isSome then 2 else 0)
  | .encl => 3 * firmwareThread s
  | .headland => 48
  | .tap => 49
  | .bay _ => 48

def shadowOf (s : State) (r : Req) : Shadow := tabGet {} s.bkp.shadows (shadowKey s r)
def setShadow (r : Req) (x : Shadow) (s : State) : State :=
  { s with bkp := { s.bkp with shadows := tabPut {} s.bkp.shadows (shadowKey s r) x } }

/-! ### The calendar's UTC form (R66) -/

/-- Year, month and day of a day counted from 2000-01-01 in the Gregorian calendar. -/
def civilDate (days : Nat) : Nat × Nat × Nat :=
  let z := days + 730425
  let era := z / 146097
  let doe := z % 146097
  let yoe := (doe - doe / 1460 + doe / 36524 - doe / 146096) / 365
  let doy := doe - (365 * yoe + yoe / 4 - yoe / 100)
  let mp := (5 * doy + 2) / 153
  let day := doy - (153 * mp + 2) / 5 + 1
  let month := if mp < 10 then mp + 3 else mp - 9
  (yoe + 400 * era + (if month ≤ 2 then 1 else 0), month, day)

/-- CAL.FIELDS0: YEAR, MONTH, DAY, WDAY with 0 = Monday; 2000-01-01 was a Saturday. -/
def calFields0 (sec : W48) : Word :=
  let days := sec.toNat / 86400
  let (y, m, d) := civilDate days
  BitVec.ofNat 32 ((y % 65536) * 65536 + m * 256 + d * 8 + (days + 5) % 7)

/-- CAL.FIELDS1: HOUR, MIN, SEC. -/
def calFields1 (sec : W48) : Word :=
  let r := sec.toNat % 86400
  BitVec.ofNat 32 ((r / 3600) * 65536 + (r / 60 % 60) * 256 + r % 60)

/-- What a read of CAL.SEC_LO latches. -/
def latchCal (r : Req) (s : State) : State :=
  let c := s.bkp.cal
  setShadow r { shadowOf s r with secHi := c.sec.extractLsb' 32 16, subsec := c.subsec
                                  fields0 := calFields0 c.sec, fields1 := calFields1 c.sec } s

/-- What a read of DRILL.TIME_LO latches (R252). -/
def latchTime (r : Req) (s : State) : State :=
  setShadow r { shadowOf s r with timeHi := s.drill.time.extractLsb' 32 32 } s

/-- CAL_SEC_LO_READ (R66, R67): the Enclosure and the Commons may read it (R80). -/
def execCalSecLoRead (r : Req) (s : State) : Host.Outcome State Fault Refusal :=
  .next (tryRead r 0x55000010 (isEncl s r || isCommons s r) (latchCal r) s)

/-- TIME_LO_READ (R252): the Enclosure and the Commons may read it. -/
def execTimeLoRead (r : Req) (s : State) : Host.Outcome State Fault Refusal :=
  .next (tryRead r 0x50000010 (isEncl s r || isCommons s r) (latchTime r) s)

/-! ### Resets of the domain (R64, R79) -/

/-- A backup-domain reset with its cause; SAFE_IN's sampling starts again, and VALID falls, which ends Service. -/
def bkpReset (cause : BitVec 2) (s : State) : State :=
  let b := s.bkp
  let t := b.tamp
  let b' : Backup := { b with
    cause := cause, vbkLow := false, share := 0, mask := 0, held := false, armed := none, cal := {}
    alarms := .replicate 4 {}
    tamp := { witness := t.witness, safePend := t.safePend, time := t.time, temp := t.temp } }
  endService { s with bkp := b', pins := { s.pins with safeIn := false } }

/-- A power-loss clear (R64): the share and its mask are zero and the clock stops. -/
def powerLossClear (s : State) : State := { s with bkp := { s.bkp with share := 0, mask := 0, held := true } }

/-! ### Supplies (R60, R63, R64, R79) -/

/-- SUPPLY_SWITCHOVER (R60): the source is the internal rail while main power is present, else BATT_AON above 4.0 V,
else the supercapacitor; a supercapacitor below the former level may set VBK_LOW or clear the share. -/
def execSupplySwitchover (src : Fin 3) (battMv vcapMv vbkMv : Half) (s : State) : Host.Outcome State Fault Refusal :=
  .next (
    let right : Nat := if s.sys.mode ≠ Mode.backup then 0 else if 4000 < battMv.toNat then 1 else 2
    if src.val ≠ right then s
    else
      let b := s.bkp
      let s := { s with
        bkp := { b with src := BitVec.ofNat 2 src.val, battMv := battMv, vcapMv := vcapMv
                        vbkLow := b.vbkLow || decide (vbkMv.toNat < 2400) }
        pow := { s.pow with batt := decide (4000 < battMv.toNat) } }
      if vbkMv.toNat < 2000 then powerLossClear s else s)

/-- VBK_LOW (R63). -/
def execVbkLow (vbkMv : Half) (s : State) : Host.Outcome State Fault Refusal :=
  .next (if vbkMv.toNat < 2400 then { s with bkp := { s.bkp with vbkLow := true } } else s)

/-- POWER_DECAY (R64). -/
def execPowerDecay (s : State) : Host.Outcome State Fault Refusal :=
  .next (if s.sys.mode = Mode.backup then powerLossClear s else s)

/-- DECAY_RECOVERY (R64). -/
def execDecayRecovery (s : State) : Host.Outcome State Fault Refusal :=
  .next (if s.bkp.held then bkpReset 2 s else s)

/-- BACKUP_POR (R64, R79): VBK has fallen below 1.6 V and risen above 2.2 V, after a decay or after a fall that the
monitor classed as a glitch. -/
def execBackupPor (s : State) : Host.Outcome State Fault Refusal :=
  .next (bkpReset 1 { s with bkp := { s.bkp with por := s.bkp.por || decide (s.sys.mode = Mode.backup) } })

/-- A sequence byte written to BKP.RESET (R79): 0x5A, then within 16 D8 cycles 0xA5 in Service. -/
def bkpResetByte (key : Byte) (s : State) : State :=
  let fresh := match s.bkp.armed with
    | none => false
    | some t => decide (s.now - t ≤ 83)
  let disarmed := { s with bkp := { s.bkp with armed := none } }
  if fresh then (if key = 0xA5 ∧ s.sys.mode = Mode.service then bkpReset 3 s else disarmed)
  else if key = 0x5A then { s with bkp := { s.bkp with armed := some s.now } }
  else disarmed

/-- BKP_RESET_WRITE (R79, R80, R485). -/
def execBkpResetWrite (r : Req) (key : Byte) (s : State) : Host.Outcome State Fault Refusal :=
  .next (tryWrite r 0x55000008 (isEncl s r && !debugPort r) (bkpResetByte key) s)

/-! ### The clock (R65, R68, R69) -/

/-- The cavity's temperature as last read (R80), which a power-loss clear does not stop (R64). -/
def noteTemp (temp : Byte) (s : State) : State := setTamp s { s.bkp.tamp with temp := temp }

/-- CAL_SECOND (R65); TAMP.TEMP takes the cavity's temperature at that second (R80, log entry 99). -/
def execCalSecond (s : State) : Host.Outcome State Fault Refusal :=
  .next (
    let s := noteTemp (Config.cavity s.now) s
    if s.bkp.held then s else setCal s { s.bkp.cal with sec := s.bkp.cal.sec + 1, subsec := 0 })

/-- A write of 1 to CAL.CTL.APPLY (R68). -/
def applyWrite (s : State) : State :=
  let c := s.bkp.cal
  if c.valid ∧ (s.sys.mode = Mode.limp ∨ s.sys.mode = Mode.lockdown) then s else setCal s { c with applyPending := true }

/-- CAL_APPLY (R68). -/
def execCalApply (r : Req) (s : State) : Host.Outcome State Fault Refusal :=
  .next (tryWrite r 0x5500002C (isEncl s r) applyWrite s)

/-- CAL_APPLY_EDGE (R68). -/
def execCalApplyEdge (s : State) : Host.Outcome State Fault Refusal :=
  .next (
    let c := s.bkp.cal
    if !c.applyPending || s.bkp.held then s
    else setCal s { c with sec := c.set, subsec := 0, valid := true, sets := satInc c.sets, applyPending := false
                           steppedBack := c.steppedBack || decide (c.set < c.sec) })

/-! ### Alarms and WAKE_OUT (R71, R72, R100) -/

def alarmLo (a : Alarm) : Word := a.sec.extractLsb' 0 32
def alarmHi (a : Alarm) : Word :=
  flag a.en 31 ||| flag a.task 30 ||| flag a.wake 29 ||| flag a.wakeout 28 ||| flag a.fired 27 ||| fld (a.sec.extractLsb' 32 16) 0

/-- ALARM[a].LO or HI written: FIRED clears, and with it the firing that drove WAKE_OUT. -/
def alarmWriteOp (a : Fin 4) (hi : Bool) (v : Word) (s : State) : State :=
  let x := alarm s a
  let x := { x with fired := false, drives := false }
  setAlarm s a (if hi then { x with en := v.getLsbD 31, task := v.getLsbD 30, wake := v.getLsbD 29, wakeout := v.getLsbD 28
                                    sec := setBits x.sec 32 16 (bitsAt v 0 16) }
                else { x with sec := setBits x.sec 0 32 v.toNat })

/-- ALARM_WRITE (R72, R80). -/
def execAlarmWrite (r : Req) (a : Fin 4) (hi : Bool) (value : Word) (s : State) : Host.Outcome State Fault Refusal :=
  .next (tryWrite r (BitVec.ofNat 32 (0x55000040 + 8 * a.val + (if hi then 4 else 0))) (isEncl s r) (alarmWriteOp a hi value) s)

/-- ALARM_FIRE (R70 to R72, R100). -/
def execAlarmFire (a : Fin 4) (s : State) : Host.Outcome State Fault Refusal :=
  .next (
    let x := alarm s a
    if !x.en || x.fired || !s.bkp.cal.valid || s.bkp.held || decide (s.bkp.cal.sec < x.sec) then s
    else
      let s := setAlarm s a { x with fired := true, drives := x.wakeout && decide (s.sys.mode ≠ Mode.lockdown) }
      let s := if x.task ∧ mainOn s ∧ s.sys.mode ≠ Mode.store then hk .alarm a.val s else s
      if x.wake then latchWake 1 s else s)

/-- WAKEOUT_RELEASE (R100): 2 s of Backup. -/
def execWakeoutRelease (a : Fin 4) (s : State) : Host.Outcome State Fault Refusal :=
  .next (if s.sys.mode = Mode.backup then setAlarm s a { alarm s a with drives := false } else s)

/-- WAKE_PULSE_END (R100). -/
def execWakePulseEnd (s : State) : Host.Outcome State Fault Refusal :=
  .next { s with sys := { s.sys with pulse := false } }

/-- WAKE_OUT is asserted (R100); in Lockdown it stays released, whatever is written to SYS.WAKEOUT (R96). -/
def wakeOut (s : State) : Bool :=
  decide (s.sys.mode ≠ Mode.lockdown) && (s.sys.wakeoutSw || s.sys.pulse || (fins 4).any fun a => (alarm s a).drives)

/-! ### Fuses (R74, R106, R108) -/

def setFuseBits (bs : List Nat) (v : BitVec 4096) : BitVec 4096 := bs.foldl (fun v k => setBits v k 1 1) v

/-- Bits of the array that the ROM blows within its step: it waits for each blow, and each verifies (log entry 100). -/
def romBlow (bits : List Nat) (s : State) : State :=
  { s with fuse := { s.fuse with array := setFuseBits bits s.fuse.array, view := setFuseBits bits s.fuse.view, done := true, fail := false
                                 uncertain := s.fuse.uncertain.filter fun b => decide (b.toNat ∉ bits) } }

/-- The next waiting bit is given to FUSE.PROG once no blow runs (R108). -/
def nextBlow (f : Fuses) : Fuses :=
  match f.blowing, f.queue with
  | none, k :: rest => { f with blowing := some k, queue := rest }
  | _, _ => f

/-- The fuse controller or the Enclosure has bits to blow, one at a time (R74, R108, R116). -/
def queueBlows (bits : List (BitVec 12)) (s : State) : State :=
  { s with fuse := nextBlow { s.fuse with queue := s.fuse.queue ++ bits } }

/-- INTRUSION_TRIP (R74, R77): every sensor that tripped together; FIRST takes the lowest code. -/
def execIntrusionTrip (sensors : BitVec 6) (s : State) : Host.Outcome State Fault Refusal :=
  .next (if sensors = 0 then s
  else
    let t := s.bkp.tamp
    let lowest := ((List.range 6).find? fun i => sensors.getLsbD i).getD 0
    let s := setTamp s { t with intrusion := true, sensors := t.sensors ||| sensors, time := s.bkp.cal.sec, witness := true
                                first := if t.first = 0 then BitVec.ofNat 3 (lowest + 1) else t.first }
    let s := clearGranary (zeroShare s)
    let s := if s.sys.mode ≠ Mode.backup then queueBlows [1094, 1095, 1096, 1097] s else s
    lockdownEvent 1 s)

/-- Whether a requester may blow an array bit in this mode (R106, R108): the ROM's rows hold before handover, the
Enclosure's after it. -/
def mayBlow (s : State) (r : Req) (b : Nat) : Bool :=
  let rom := decide (r = .thread 0) && !s.boot.romLocked
  let inStore := decide (s.sys.mode = Mode.store)
  let encl := isEncl s r && s.boot.romLocked && decide (r ≠ .headland ∧ r ≠ .tap)
  (rom && ((inStore && (decide (256 ≤ b ∧ b ≤ 511) || decide (1088 ≤ b ∧ b ≤ 1090))) || decide (1094 ≤ b ∧ b ≤ 1097))) ||
    (encl && (decide (832 ≤ b ∧ b ≤ 1087) || decide (1091 ≤ b ∧ b ≤ 1093) || decide (1098 ≤ b ∧ b ≤ 1101)))

/-- FUSE.PROG.GO (R108): ignored while a blow runs. -/
def fuseGo (bitNo : BitVec 12) (s : State) : State :=
  if s.fuse.blowing.isSome then s else { s with fuse := { s.fuse with blowing := some bitNo } }

/-- FUSE_BLOW (R108). -/
def execFuseBlow (r : Req) (bitNo : BitVec 12) (s : State) : Host.Outcome State Fault Refusal :=
  .next (tryWrite r 0x5F000200 (mayBlow s r bitNo.toNat) (fuseGo bitNo) s)

/-- FUSE_BLOW_DONE (R106, R108): a blow that verifies appears in the view; the next bit that waits is given. -/
def execFuseBlowDone (verified : Bool) (s : State) : Host.Outcome State Fault Refusal :=
  .next (match s.fuse.blowing with
  | none => s
  | some k =>
    let f := { s.fuse with blowing := none, done := true, fail := !verified }
    let f := if verified then { f with array := setFuseBits [k.toNat] f.array, view := setFuseBits [k.toNat] f.view
                                       uncertain := f.uncertain.filter (· ≠ k) } else f
    { s with fuse := nextBlow f })

end Sys2Proof.Machine
end

