-- ==== Sys2Proof/Machine/Boot.lean ====
section
/-! DEFINITION. The start: the ROM sequence, handover, seed application, the Commons' binding, the reset requests
(04, 05, 06). -/

namespace Sys2Proof.Machine

/-! ### The Enclosure image (R111, R112) -/

/-- ASCII "ENCL". -/
def magicEncl : List Byte := [0x45, 0x4E, 0x43, 0x4C]
/-- ASCII "CMNS". -/
def magicCmns : List Byte := [0x43, 0x4D, 0x4E, 0x53]

/-- A body offset: a multiple of 32 below the body's length. -/
def entryOk (h : List Byte) (off len : Nat) : Bool := decide (numAt h off 4 % 32 = 0 ∧ numAt h off 4 < len)

/-- A vector table of 80 entries lies within the body. -/
def vectorsOk (h : List Byte) (off len : Nat) : Bool := decide (numAt h off 4 % 32 = 0 ∧ numAt h off 4 + 0xA00 ≤ len)

/-- Check 1: form and reserved bytes of the header. -/
def enclFormOk (h : List Byte) : Bool :=
  asciiAt h 0 magicEncl && decide (numAt h 4 2 = 1 ∧ numAt h 6 2 ≤ 1 ∧ numAt h 8 1 ≤ 128) && zeroAt h 9 3 && zeroAt h 0x28 88

/-- Check 2: lengths and offsets. -/
def enclLayoutOk (h : List Byte) : Bool :=
  let len := numAt h 0x10 4
  decide (len % 32 = 0 ∧ 32 ≤ len ∧ len ≤ 0xFFF00) && entryOk h 0x14 len && entryOk h 0x18 len && entryOk h 0x1C len &&
    entryOk h 0x20 len && vectorsOk h 0x24 len

/-- SHA-256 over header bytes 0x00–0xBF and the body. -/
def enclDigest (s : State) (base : Nat) : List Byte :=
  sha256 (flashRead s base 0xC0 ++ flashRead s (base + 0x100) (numAt (flashRead s base 0x100) 0x10 4))

/-- The code of R112 for a slot, 0 when it passes; `err`: flash returned an uncorrectable error while it was read. -/
def enclCode (s : State) (slotB err : Bool) : Nat :=
  let base := enclSlotBase slotB
  let h := flashRead s base 0x100
  if !enclFormOk h then 1
  else if !enclLayoutOk h then 2
  else if sha256 (bytesAt h 0x80 64) ≠ leBytes 32 (fuseField s.fuse.view 0 256) then 3
  else if err then 6
  else if numAt h 8 1 < enclVer s then 4
  else if !ecdsaVerify (bytesAt h 0x80 64) (enclDigest s base) (bytesAt h 0xC0 64) then 5
  else 0

/-- The boot record in force: its place, SEQ and PREF (R113). -/
def bootRecord (s : State) (err0 err1 : Bool) : Option (Bool × Nat × Nat) :=
  prefInForce magicBrec (flashRead s 0x087FF000 32) (flashRead s 0x087FF800 32) err0 err1

/-- The Enclosure writes the boot record that prefers a slot (R113). -/
def writeBootRecord (slotB : Bool) (s : State) : State :=
  let (a, seq) := nextRecord (bootRecord s false false) 0x087FF000 0x087FF800
  flashProgram a (prefRecord magicBrec seq slotB) (flashErase a 32 s)

/-- A range that touches the boot records, which only `writeBootRecord` writes (R113). -/
def touchesBootRecord (a n : Nat) : Bool := decide (0x087FF000 < a + n)

/-- The slot that the boot records prefer (R113). -/
def bootPref (s : State) (err0 err1 : Bool) : Bool :=
  match bootRecord s err0 err1 with
  | none => false
  | some (_, _, pref) => decide (pref = 1)

/-! ### The ROM sequence (R114) -/

/-- Each uncertain bit reads as a free value (R108). -/
def sampleBits : List (BitVec 12) → BitVec 4096 → State → BitVec 4096 × State
  | [], v, s => (v, s)
  | k :: t, v, s =>
    let (x, s) := draw 1 s
    sampleBits t (if x = 1 then setFuseBits [k.toNat] v else v) s

/-- The fuse view sampled at a start: an uncertain bit reads as this start's sensing has it (R108 › Edges); a view whose
samples never agree is a free value. -/
def sampleFuses (agree : Bool) (s : State) : State :=
  if agree then
    let (v, s) := sampleBits s.fuse.uncertain s.fuse.array s
    { s with fuse := { s.fuse with view := v, torn := false } }
  else
    let (v, s) := draw 4096 s
    { s with fuse := { s.fuse with view := v, torn := true } }

/-- The first mode after a reset: PREV keeps the mode before it (R82, R84); logged (log entry 15). -/
def arrive (m : BitVec 3) (s : State) : State :=
  let s := { s with sys := { s.sys with mode := m } }
  logEntry 6 0xFF [m.setWidth 8, BitVec.ofNat 8 (limpShown s.sys.limpSet), s.sys.lock.setWidth 8] s

/-- The Lockdown reason that holds at a start, 0 for none (R84, R97). -/
def startLock (intrusion : Bool) (s : State) : BitVec 4 :=
  let t := s.bkp.tamp
  if intrusion ∨ t.intrusion then 1
  else if scrapped s.fuse.view then 3
  else if s.pins.safeIn ∨ t.safePend then 2
  else 0

/-- Lockdown at a start: PREV keeps the mode before the reset. -/
def startLockdown (lock : BitVec 4) (s : State) : State :=
  let prev := s.sys.prev
  let s := enterLockdown lock s
  { s with sys := { s.sys with prev := prev } }

/-- Step 6: BOOT registers and the fixed guards, for the slot that passed. -/
def latchSlot (slotB fallback : Bool) (codeA codeB : Nat) (us : Half) (s : State) : State :=
  let base := enclSlotBase slotB
  let h := flashRead s base 0x100
  let b := { s.boot with
    enclSlot := slotB, fallback := fallback, svn := BitVec.ofNat 8 (numAt h 8 1), failA := BitVec.ofNat 4 codeA
    failB := BitVec.ofNat 4 codeB, mlen := BitVec.ofNat 20 (numAt h 0x10 4), meas := ofBytes 256 (enclDigest s base)
    entry := Vector.ofFn fun e : Fin 4 => BitVec.ofNat 32 (base + 0x100 + numAt h (0x14 + 4 * e.val) 4), handoverUs := us }
  { s with boot := b, guard := { s.guard with region := fixedRegions } }

/-- Steps 4 to 6, with the lifecycle Fielded or a reason for Lockdown. -/
def checkSlots (sense : RomSense) (lock : BitVec 4) (s : State) : State :=
  let code := fun (b : Bool) => if sense.fusesAgree then enclCode s b (if b then sense.errSlotB else sense.errSlotA) else 7
  let first := bootPref s sense.errRec0 sense.errRec1
  let c1 := code first
  let c2 := if c1 = 0 then 0 else code (!first)
  let codeA := if first then c2 else c1
  let codeB := if first then c1 else c2
  let s := if s.sys.cause = 4 ∨ lock ≠ 0 then s else arrive Mode.boot s
  if c1 = 0 ∨ c2 = 0 then
    let s := latchSlot (if c1 = 0 then first else !first) (decide (c1 ≠ 0)) codeA codeB sense.handoverUs s
    if lock = 0 then s else startLockdown lock s
  else
    let s := { s with boot := { s.boot with failA := BitVec.ofNat 4 codeA, failB := BitVec.ofNat 4 codeB, fallback := true } }
    let s := if lock = 0 then enterLimp 4 s else startLockdown lock s
    { s with boot := { s.boot with headland := if lock = 0 then .rom else .romStatusOnly } }

/-- ROM_SEQUENCE (R106, R108, R114). -/
def romOp (sense : RomSense) (s : State) : State :=
  if !s.sys.romPending || !mainOn s then s
  else
    let s := sampleFuses sense.fusesAgree { s with sys := { s.sys with romPending := false } }
    let seen := !sense.fusesAgree && sense.intrusionSeen
    let s := if s.bkp.tamp.witness ∧ ¬ intrusionFuse s.fuse.view ∧ ¬ seen then romBlow [1094, 1095, 1096, 1097] s else s
    if lifecycle s.fuse.view = .store then
      let s := setTamp s { s.bkp.tamp with safePend := false }
      let s := arrive Mode.store s
      { s with boot := { s.boot with headland := .rom } }
    else checkSlots sense (startLock (seen || intrusionFuse s.fuse.view) s) s

def execRomSequence (sense : RomSense) (s : State) : Host.Outcome State Fault Refusal := .next (romOp sense s)

/-! ### Handover (R115, R125, R342) -/

/-- The write of KEY by the ROM, once a slot has passed. -/
def handover (key : Byte) (s : State) : State :=
  if key ≠ 0x3C ∨ s.sys.romPending ∨ s.boot.mlen = 0 then s
  else
    let b := { s.boot with romLocked := true, measValid := true, headland := .resident }
    let s := setCache { s with boot := b } 0 { cache s 0 with lines := [] }
    let s := startWatchdog (startEncl 0 s)
    loadPatrol { s with ldg := { s.ldg with passDue := startPassDue s } }

/-- A write by an instruction fetched from the ROM, which runs on C0.t0 before handover; a store's PC has already moved
on, so that it may stand just above the ROM's last word. -/
def romWrites (s : State) (r : Req) : Bool := decide (r = .thread 0) && !s.boot.romLocked && decide ((pcOf s 0).toNat ≤ 0x8000)

/-- BOOT_HANDOVER (R115). -/
def execBootHandover (r : Req) (key : Byte) (s : State) : Host.Outcome State Fault Refusal :=
  .next (tryWrite r 0x54000304 (romWrites s r) (handover key) s)

/-! ### Seed application (R136 to R141) -/

/-- The slot to apply: the preferred one, else the other (R141); its code, whether it is B, and the two codes. -/
def chooseSeed (sense : SeedSense) (s : State) : Bool × Bool × Nat × Nat × Bool :=
  let first := match seedDirectory s sense.errDir0 sense.errDir1 with
    | none => false
    | some (_, _, pref) => decide (pref = 1)
  let code := fun (b : Bool) => seedCode s (seedSlotBase b) (if b then sense.errSlotB else sense.errSlotA)
  let c1 := code first
  let c2 := if c1 = 0 then 0 else code (!first)
  (decide (c1 = 0 ∨ c2 = 0), if c1 = 0 then first else !first, if first then c2 else c1, if first then c1 else c2,
    decide (c1 ≠ 0))

/-- The rails take their levels, which hold without VSUP too (R35). -/
def railLevels (e : SeedEntry) (s : State) : State :=
  (fins 8).foldl (fun s j => setRail s j { rail s j with level5 := (e.num 2 1).testBit j.val }) s

/-- CLOCKS: trim, the rails' levels and the shedding order, B3 to B0 where the image gives none (R59); a rail comes up
at END. -/
def applyClocks (s : State) : State :=
  match seedOne s 0x01 with
  | none => { s with pow := { s.pow with order := 0xE4 } }
  | some e =>
    let o := e.num 3 1
    let s := setCal s { s.bkp.cal with trim := BitVec.ofNat 8 (e.num 0 1) }
    railLevels e { s with pow := { s.pow with order := if o = 0 then 0xE4 else BitVec.ofNat 8 o } }

/-- FURROW: each named furrow starts and locks; LOCKED follows by FURROW_LOCKED (R150). -/
def applyFurrows (s : State) : State :=
  (fins 32).foldl (fun s f => match seedFind s 0x02 1 f.val with
    | none => s
    | some e =>
      let hz := BitVec.ofNat 27 (e.num 4 4)
      setFurrow s f { furrow s f with freq := hz, next := hz, relocking := true }) s

def applyFlows (s : State) : State :=
  (seedOf s 0x05).foldl (fun s e => restoreFlow (e.num 0 2) s) s

/-- THREADS, or its defaults (R134, R280). -/
def applyThreads (s : State) : State :=
  let e := seedOne s 0x07
  let modes : Fin 4 → Bool := fun c => match e with
    | none => false
    | some e => decide (e.num c.val 1 = 1)
  let res : Vector Half 16 := Vector.ofFn fun t : Fin 16 => match e with
    | none => 0xFFFF
    | some e => BitVec.ofNat 16 (e.num (4 + 2 * t.val) 2)
  let encl : BitVec 16 := match e with
    | none => 1
    | some e => BitVec.ofNat 16 (e.num 36 2)
  let s := (fins 4).foldl (fun s c => setCore s c { core s c with single := modes c, modeNext := none }) s
  { s with drill := { s.drill with reserve := res, enclThreads := encl } }

def regionOfSeed (e : SeedEntry) : Region :=
  { en := true, base := BitVec.ofNat 32 (e.num 8 4), limit := BitVec.ofNat 32 (e.num 12 4), perm := BitVec.ofNat 3 (e.num 2 1)
    world := decide (e.num 3 1 = 1), owner := BitVec.ofNat 8 (e.num 4 1), bay := BitVec.ofNat 8 (e.num 5 1) }

/-- GUARD, after which only LOCK's clearing by the next reset opens the regions again (R336). -/
def applyGuards (s : State) : State :=
  let s := (seedOf s 0x08).foldl (fun s e => setRegion s (e.num 0 1) (e.num 1 1) (regionOfSeed e)) s
  { s with guard := { s.guard with lock := true } }

def applyTiles (s : State) : State :=
  match seedOne s 0x0A with
  | none => s
  | some e => { s with tile := { s.tile with enclTiles := BitVec.ofNat 16 (e.num 0 2), policy := decide (e.num 2 1 = 1)
                                             trap := decide (e.num 3 1 = 1) } }

/-- LEDGER, PINPROT 0x01 without it (R134). -/
def applyLedger (s : State) : State :=
  let p : BitVec 4 := match seedOne s 0x0F with
    | none => 1
    | some e => BitVec.ofNat 4 (e.num 0 1)
  { s with ldg := { s.ldg with pinProt := p } }

/-- POWER_AT_START (R393). -/
def applyBays (s : State) : State :=
  (fins 4).foldl (fun s b => match bayRec s b with
    | none => s
    | some e => if (e.num 1 1).testBit 0 ∧ (e.num 1 1).testBit 1 then setPwr b true s else s) s

/-! ### The retired set (R241, R242) -/

/-- An entry with UNRETIRE lifts a retirement that another image's digest prefix names; a pair's entry is its even
channel's (R242, R243). -/
def seedLifts (s : State) (n : Chan) : Bool :=
  match retireEntry s (headOf s n), latestRetire s n.val with
  | some e, some k => (e.num 1 1).testBit 0 && decide (((slotBytesAt s 3 k).drop 20).take 8 ≠ bytesOf s.seed.digest 0 8)
  | _, _ => false

/-- The retired set is rebuilt, and what is not folded is folded. -/
def applyRetired (s : State) : State :=
  let s := foldRetirements s
  let stale := decide (unfolded s ≠ [])
  let s := { s with chs := { s.chs with retired := retiredSet s ||| s.chs.retired } }
  let lifted := (fins 128).filter fun n => isRetired s n && seedLifts s n
  let s := lifted.foldl (fun s n =>
    let s := { s with chs := { s.chs with retired := setBits s.chs.retired n.val 1 0 } }
    fwLog 2 ([BitVec.ofNat 8 n.val, 0, 0, 0] ++ bytesOf s.seed.digest 0 8) s) s
  if stale ∨ lifted ≠ [] then
    requestFold { s with chs := { s.chs with retirePending := s.chs.retirePending || stale } }
  else s

/-- Every channel's seed values; an odd channel of a pair reads the pair's FUNC already from its own entry (R135). -/
def applyChannels (s : State) : State :=
  (fins 128).foldl (fun s n => setChan s n (seedChannel s n)) s

/-- The strobe domains of the pairs that the seed configures for returned strobe (R149). -/
def applyStrobes (s : State) : State := (fins 16).foldl (fun s k => settleStrobe ⟨8 * k.val, by omega⟩ s) s

/-- END: the rails first, then every pin as its channel has it (R58, R136). -/
def releasePins (s : State) : State :=
  if fieldSupply s then trainLinks (outputsOn (restoreDrives (railsOn s))) else s

/-- What SEED.STS and its companions show of the image. -/
def noteSeed (slotB fallback : Bool) (codeA codeB : Nat) (lockdown : Bool) (s : State) : State :=
  let base := seedSlotBase slotB
  let h := storeRead s base 0x80
  let es := seedEntries s base
  { s with seed := { s.seed with
      applied := true, slot := slotB, fallback := fallback, lockdownOnly := lockdown, svn := BitVec.ofNat 8 (numAt h 8 1)
      failA := BitVec.ofNat 4 codeA, failB := BitVec.ofNat 4 codeB, issue := BitVec.ofNat 32 (numAt h 0x18 4)
      digest := seedDigest s base, commit := decide (numAt h 6 2 = 1)
      recs := if lockdown then es.filter (fun e => decide (e.type = 0x12)) else es } }

/-- The baud and the frame of the resident Headland: the HEADLAND record's, BAUD 0 being 115200 (R134, R479). -/
def applyUart (s : State) : State := match seedOne s 0x14 with
  | none => { s with hld := { s.hld with baud := 115200, frame := 0 } }
  | some e =>
    let b := e.num 0 4
    { s with hld := { s.hld with baud := BitVec.ofNat 32 (if b = 0 then 115200 else b), frame := BitVec.ofNat 8 (e.num 4 1) } }

/-- The whole image applied in Boot. -/
def applySeed (liveUs : Half) (s : State) : State :=
  let s := applyChannels (applyFurrows (applyClocks s))
  let s := applyTiles (applyGuards (applyThreads (applyFlows s)))
  let s := applyUart (judgeOwners (applyLedger (applyBays s)))
  let s := applyStrobes (releasePins (applyRetired s))
  let commons : BitVec 2 := if (seedOne s 0x16).isSome then 3 else 0
  let s := { s with boot := { s.boot with liveUs := liveUs, commons := commons } }
  fwLog 7 ([BitVec.ofNat 8 (bit s.seed.slot), s.seed.svn, 0, 0] ++ leBytes 4 s.seed.issue.toNat) s

/-- SEED_APPLY (R136 to R141). -/
def seedApplyOp (sense : SeedSense) (s : State) : State :=
  let lockdown := decide (s.sys.mode = Mode.lockdown)
  if !s.boot.romLocked || s.boot.remBusy || s.wld.restart || s.seed.applied || !(lockdown || decide (s.sys.mode = Mode.boot)) then s
  else
    let (ok, slotB, codeA, codeB, fb) := chooseSeed sense s
    if ok then
      let s := noteSeed slotB fb codeA codeB lockdown s
      if lockdown then (if fieldSupply s then restoreDrives s else s) else applySeed sense.liveUs s
    else
      let s := { s with seed := { s.seed with failA := BitVec.ofNat 4 codeA, failB := BitVec.ofNat 4 codeB, fallback := fb } }
      if lockdown then s else enterLimp 1 s

def execSeedApply (sense : SeedSense) (s : State) : Host.Outcome State Fault Refusal := .next (seedApplyOp sense s)

/-! ### The Commons (R119 to R121) and the rollback fuses (R116, R142) -/

/-- The header's form (R119). -/
def commonsHeaderOk (h : List Byte) : Bool :=
  let len := numAt h 8 4
  asciiAt h 0 magicCmns && decide (numAt h 4 2 = 1) && zeroAt h 6 2 && decide (len % 32 = 0 ∧ 32 ≤ len ∧ len ≤ 0x27FFC0) &&
    entryOk h 0x0C len && entryOk h 0x10 len && vectorsOk h 0x14 len && zeroAt h 0x18 40

/-- A slot matches what the IMAGE record binds: a used digest, a right header, the same digest. -/
def commonsMatches (s : State) (e : SeedEntry) (slotB err : Bool) : Bool :=
  let base := commonsBase slotB
  let h := flashRead s base 0x40
  let bound := bytesAt e.data (if slotB then 40 else 8) 32
  !err && !(bound.all fun b => decide (b = 0)) && commonsHeaderOk h && decide (sha256 (flashRead s base (0x40 + numAt h 8 4)) = bound)

/-- Thermometer bits to be blown up to a value, in ascending order (R108). -/
def raiseThermometer (lo now target : Nat) (s : State) : State :=
  queueBlows ((List.range (target - now)).map fun i => BitVec.ofNat 12 (lo + now + i)) s

/-- After Run is reached, ENCL_VER and SEED_VER follow images with COMMIT. -/
def commitVersions (s : State) : State :=
  let h := flashRead s (enclSlotBase s.boot.enclSlot) 8
  let s := if numAt h 6 1 % 2 = 1 then raiseThermometer 832 (enclVer s) s.boot.svn.toNat s else s
  if s.seed.commit then raiseThermometer 960 (seedVer s) s.seed.svn.toNat s else s

/-- The Commons slot that matches the IMAGE record, the preferred one first (R119). -/
def latchCommons (errA errB : Bool) (s : State) : State :=
  match seedOne s 0x16 with
  | none => s
  | some e =>
    let first := decide (e.num 0 1 = 1)
    let try' := fun (b : Bool) => commonsMatches s e b (if b then errB else errA)
    if try' first then { s with boot := { s.boot with commons := 1, commonsSlot := first } }
    else if try' (!first) then { s with boot := { s.boot with commons := 1, commonsSlot := !first } }
    else { s with boot := { s.boot with commons := 2 } }

/-- The Commons is bound and starts. -/
def bindCommons (errA errB : Bool) (s : State) : State :=
  let s := latchCommons errA errB s
  if s.boot.commons = 1 then startCommons 0x0C s else s

/-- COMMONS_BIND (R84, R93, R116, R119, R120, R142, R240, R422): the end of Boot; in Limp that reason 3 alone brought on
during Boot the Commons starts too. -/
def commonsBindOp (errA errB : Bool) (s : State) : State :=
  if ¬ s.seed.applied ∨ ¬ enclRuns s then s
  else if s.sys.mode = Mode.boot then
    checkRetiredLimit (settleEscrow (commitVersions (enterMode Mode.run (bindCommons errA errB s))))
  else if s.sys.mode = Mode.limp ∧ s.sys.limpSet = 4 ∧ s.boot.commons = 3 then bindCommons errA errB s
  else s

def execCommonsBind (errA errB : Bool) (s : State) : Host.Outcome State Fault Refusal := .next (commonsBindOp errA errB s)

/-! ### Reset requests (R102 to R105) -/

/-- The Enclosure itself writes SYS.RESET; the Headland never does (R485). -/
def mayReset (s : State) (r : Req) : Bool := isEncl s r && !debugPort r

/-- SYS.RESET with KEY 0xC3: KIND 2 cold, KIND 1 warm. -/
def resetWrite (kind : Nat) (s : State) : State :=
  if kind = 2 then coldReset 3 s
  else if kind = 1 ∧ s.sys.mode ≠ Mode.lockdown then warmReset s
  else s

/-- A new Enclosure image is activated from the slot not in use, once it passes R112: the boot record prefers it and the
Enclosure requests a cold reset (R116). -/
def activateEncl (slotB : Bool) (s : State) : State :=
  if ¬ enclRuns s ∨ slotB = s.boot.enclSlot ∨ enclCode s slotB false ≠ 0 then s
  else coldReset 3 (writeBootRecord slotB s)

/-- COLD_RESET_REQUEST (R102). -/
def execColdResetRequest (r : Req) (s : State) : Host.Outcome State Fault Refusal :=
  .next (tryWrite r 0x5400020C (mayReset s r) (resetWrite 2) s)

/-- WARM_RESET_REQUEST (R102, R103). -/
def execWarmResetRequest (r : Req) (s : State) : Host.Outcome State Fault Refusal :=
  .next (tryWrite r 0x5400020C (mayReset s r) (resetWrite 1) s)

end Sys2Proof.Machine
end

