-- ==== Sys2Proof/Machine/ModeRows.lean ====
section
/-! DEFINITION. Sleep, the wake path and the end of Service (04, 22). -/

namespace Sys2Proof.Machine

/-! ### Sleep (R86, R87) -/

/-- A watch channel is receiving a frame. -/
def watchBusy (s : State) : Bool := (fins 128).any fun n => (seedFind s 0x13 1 n.val).isSome && (chan s n).rx.cur.isSome

/-- A request for Sleep: the drain begins, or SLEEP_FAIL is set. While a drain runs a request is judged alike, and one
that passes changes nothing. -/
def sleepWrite (s : State) : State :=
  if s.sys.mode = Mode.run ∧ ¬ s.pins.ign ∧ s.pins.svcPresentHigh ∧ ¬ watchBusy s then
    { s with sys := { s.sys with sleep := .draining } }
  else { s with sys := { s.sys with sleepFail := true } }

/-- SYS.MODE_REQ (R105): 2 requests Sleep, 4 ends Service, every other value is ignored. -/
def modeReq (v : Nat) (s : State) : State := if v = 2 then sleepWrite s else if v = 4 then endService s else s

/-- SLEEP_REQUEST (R86). -/
def execSleepRequest (r : Req) (s : State) : Host.Outcome State Fault Refusal :=
  .next (tryWrite r 0x54000204 (isEncl s r) (modeReq 2) s)

/-- SLEEP_DRAIN_END (R87, R477): nothing is dispatched any more. A drain that a higher mode overtook has no end. -/
def execSleepDrainEnd (s : State) : Host.Outcome State Fault Refusal :=
  .next (if s.sys.sleep = .draining ∧ s.sys.mode = Mode.run ∧ drained s then sleepEntry s else s)

/-- SLEEP_DRAIN_TIMEOUT (R87). -/
def execSleepDrainTimeout (s : State) : Host.Outcome State Fault Refusal :=
  .next (if s.sys.sleep = .draining ∧ ¬ drained s then
    { s with sys := { s.sys with sleep := .awake, sleepFail := true } }
  else s)

/-! ### The wake path (R89, R90) -/

/-- What every end of the wake path restores: rails, clocks, pins and bay outputs. -/
def wakeParts (s : State) : State :=
  let s := { s with clk := { s.clk with furrow := s.clk.furrow.map wakeFurrow } }
  loadPatrol (railsOn s)

/-- The wake ends in Lockdown after SAFE_IN or an intrusion (R89, R92). -/
def wakeLocked (s : State) : State := startEncl 3 (enterLockdown (if s.sys.wake.getLsbD 5 then 1 else 2) s)

/-- The wake ends in Run: channels, bays, the Enclosure at its wake entry and the wake task, after whose release the
Commons starts (R90, R100); on SVC_5V alone pins stay hi-Z and links down (R46). -/
def wakeRun (s : State) : State :=
  let s := enterMode Mode.run s
  let s := restoreDrives s
  let s := if fieldSupply s then trainLinks (outputsOn s) else s
  let pulse := match seedOne s 0x12 with
    | none => false
    | some e => decide (e.num 1 1 ≠ 0)
  let s := { s with sys := { s.sys with pulse := pulse }, wld := { s.wld with elapsed := 0, warned := false } }
  hk .wake s.sys.wake.toNat (reloadC (reloadE (startEncl 3 s)))

/-- WAKE_PATH_COMPLETE (R89 to R92, R284). -/
def wakeOp (latUs : BitVec 12) (s : State) : State :=
  if s.sys.mode ≠ Mode.sleep ∨ ¬ s.sys.waking then s
  else
    let s := wakeParts { s with sys := { s.sys with waking := false, latUs := latUs, sleep := .awake } }
    if s.sys.wake.getLsbD 4 ∨ s.sys.wake.getLsbD 5 then wakeLocked s else wakeRun s

def execWakePathComplete (latUs : BitVec 12) (s : State) : Host.Outcome State Fault Refusal := .next (wakeOp latUs s)

/-! ### Service's end (R84, R98, R488) -/

/-- SERVICE_EXIT_REQUEST (R98). -/
def execServiceExitRequest (r : Req) (s : State) : Host.Outcome State Fault Refusal :=
  .next (tryWrite r 0x54000204 (isEncl s r) (modeReq 4) s)

/-- SERVICE_WINDOW_END (R488): CAL.SEC has reached HLD.END, or the time is not valid. -/
def execServiceWindowEnd (s : State) : Host.Outcome State Fault Refusal :=
  .next (if ¬ s.bkp.cal.valid ∨ s.hld.endSec ≤ s.bkp.cal.sec then endService s else s)

end Sys2Proof.Machine
end

