-- ==== Sys2Proof/Machine/ClockRows.lean ====
section
/-! DEFINITION. Furrow synthesizers, the clock counter and the Granary oscillator's hops (07). -/

namespace Sys2Proof.Machine

/-! ### Furrows (R150 to R152) -/

/-- A frequency at which an enabled channel keeps its rate (R152). -/
def keepsRate (s : State) (hz : Nat) (n : Chan) : Bool :=
  let c := chan s n
  !c.en || decide (c.cfg.func = 0 ∨ c.cfg.func = 5) || (decide (n.val % 2 = 1) && isPairFunc c.cfg.func) ||
    rateOk (level5 s n) hz c.cfg (aSync c.async.now)

/-- FREQ_HZ may take the value. -/
def freqOk (s : State) (f : Furrow) (hz : Nat) : Bool :=
  decide (1000000 ≤ hz ∧ hz ≤ 100000000) && (furrowChans f).all (keepsRate s hz)

/-- The FURROW record of a furrow is locked (R138). -/
def furrowLocked (s : State) (f : Furrow) : Bool := recLocked s 0x02 f.val

/-- A write of FREQ_HZ (R151): a furrow that is off starts at once; the frequency in force withdraws what is pending;
any other value waits for the furrow to be idle. While the synthesizer relocks, the value being locked to is in force
and writing it changes nothing. -/
def freqWrite (f : Furrow) (hz : BitVec 27) (s : State) : State :=
  let x := furrow s f
  if !freqOk s f hz.toNat then s
  else if x.freq = 0 then
    setFurrow s f { x with freq := hz, next := hz, pending := true, relocking := true, writtenAt := s.now }
  else if hz = x.freq then
    if x.pending ∧ ¬ x.relocking then setFurrow s f { x with pending := false, next := x.freq } else s
  else setFurrow s f { x with pending := true, next := hz, writtenAt := s.now }

def furrowAddr (f : Furrow) : Word := BitVec.ofNat 32 (0x54000600 + 4 * f.val)

/-- CLK.FURROW[f] written: a locked record's value is kept (R139, R150). -/
def furrowWrite (r : Req) (f : Furrow) (hz : BitVec 27) (s : State) : State :=
  if furrowLocked s f ∧ freqWrite f hz s ≠ s then violate r .locked (furrowAddr f) true s else freqWrite f hz s

/-- FURROW_FREQ_WRITE (R151, R159). -/
def execFurrowFreqWrite (r : Req) (f : Furrow) (hz : BitVec 27) (s : State) : Host.Outcome State Fault Refusal :=
  .next (tryWrite r (furrowAddr f) (isEncl s r) (furrowWrite r f hz) s)

/-- A channel has no frame in progress and no reply armed. -/
def chanIdle (c : Channel) : Bool :=
  c.rx.cur.isNone && !c.tx.busy && c.reply.isNone && !c.cs.selActive && c.cs.xfer.isNone && decide (c.cs.strbWait = [])

/-- FURROW_RELOCK_START (R151 step 2). -/
def execFurrowRelockStart (f : Furrow) (s : State) : Host.Outcome State Fault Refusal :=
  let x := furrow s f
  .next (if x.pending ∧ ¬ x.relocking ∧ mainOn s ∧ (furrowChans f).all (fun n => chanIdle (chan s n)) then
    setFurrow s f { x with freq := x.next, relocking := true, locked := false }
  else s)

/-- FURROW_LOCKED (R151 step 4, R229): a value written during the relock stays pending; entries of CHWR[f] that waited for
the clock go on (R157 › Edges). -/
def execFurrowLocked (f : Furrow) (s : State) : Host.Outcome State Fault Refusal :=
  let x := furrow s f
  .next (if x.relocking ∧ mainOn s then
    settleChwr f (chwrOf s f).length
      (setFurrow s f { x with relocking := false, locked := true, pending := x.pending && decide (x.next ≠ x.freq)
                              lockedAt := if x.pending then some s.now else x.lockedAt })
  else s)

/-- FURROW_WRITE_ABANDON (R151): 10 ms of model time since the write without an idle cycle. -/
def execFurrowWriteAbandon (f : Furrow) (s : State) : Host.Outcome State Fault Refusal :=
  let x := furrow s f
  .next (if x.pending ∧ ¬ x.relocking ∧ 2500000 ≤ s.now - x.writtenAt then setFurrow s f { x with pending := false, fail := true, next := x.freq } else s)

/-- CLK.FURROW[f] (R159). -/
def furrowWord (x : FurrowReg) : Word :=
  flag x.pending 31 ||| flag x.fail 30 ||| flag x.locked 29 ||| fld (if x.pending then x.next else x.freq) 0

/-! ### The counter and the hops (R148, R159) -/

/-- CLK.MEAS_CTL written: a count begins. -/
def measStart (dom : BitVec 6) (s : State) : State :=
  { s with clk := { s.clk with measuring := some dom, measDone := false } }

/-- CLOCK_MEASURE_START (R159). -/
def execClockMeasureStart (r : Req) (dom : BitVec 6) (s : State) : Host.Outcome State Fault Refusal :=
  .next (tryWrite r 0x54000508 (isEncl s r) (measStart dom) s)

/-- The domain's clock runs (R147, R149, R150). -/
def domainRuns (s : State) (d : BitVec 6) : Bool :=
  let k := d.toNat
  if 9 ≤ k ∧ k ≤ 12 then s.clk.bayLock.getLsbD (k - 9)
  else if h : 13 ≤ k ∧ k < 45 then furrowRuns s ⟨k - 13, by omega⟩
  else if 45 ≤ k ∧ k ≤ 60 then s.clk.strbRun.getLsbD (k - 45)
  else true

/-- CLOCK_MEASURE_DONE (R159): a stopped domain counts 0. -/
def execClockMeasureDone (count : BitVec 24) (s : State) : Host.Outcome State Fault Refusal :=
  .next (match s.clk.measuring with
    | none => s
    | some d =>
      if mainOn s then
        { s with clk := { s.clk with measuring := none, measDone := true, measCount := if domainRuns s d then count else 0 } }
      else s)

/-- D5_HOP (R148): one of 65 steps, drawn from the entropy source. -/
def execD5Hop (s : State) : Host.Outcome State Fault Refusal :=
  .next (if mainOn s then
    let (x, s) := draw 32 s
    { s with clk := { s.clk with hops := satInc s.clk.hops, step := BitVec.ofNat 8 (x.toNat % 65) } }
  else s)

end Sys2Proof.Machine
end

