-- ==== Sys2Proof/Machine/RegsSys.lean ====
section
/-! DEFINITION. A register as an access meets it, and the tables of system control, the backup domain, the fuse view,
the Granary, the ledger and the Headland (01 to 07, 11, 18, 19, 21, 22). -/

namespace Sys2Proof.Machine

/-- One register of the map (R6, R8, R498): what it reads, who may read or write it, what a read or a write does. -/
structure Reg where
  value : Word := 0
  /-- the block's own rule lets this requester read it, and write it -/
  reads : Bool := true
  writes : Bool := true
  /-- it holds a WO, W1C, W1S or RC field, so that it acts only on a 32-bit access -/
  special : Bool := false
  /-- what a read of any width latches -/
  latch : State → State := id
  /-- what a 32-bit read clears -/
  clear : State → State := id
  /-- what a write of the whole word does -/
  store : Word → State → State := fun _ s => s

/-- A write that would change a field of a locked seed record is refused whole (R139). -/
def keepLocked (r : Req) (a : Word) (locked changed : Bool) (s s' : State) : State :=
  if locked && changed then violate r .locked a true s else s'

/-- The LOCK flag of a record that appears at most once. -/
def onceLocked (s : State) (type : Nat) : Bool := match seedOne s type with
  | some e => e.lock
  | none => false

/-- A thread request or the Headland's: not a bay. -/
def isCore (s : State) (r : Req) : Bool := isEncl s r || isCommons s r

/-! ### Power (R59) -/

def railWord (x : Rail) : Word :=
  flag x.en 31 ||| flag x.level5 30 ||| flag x.hiccupAct 17 ||| flag x.overload 16 ||| fld x.hiccups 8 ||| fld x.current 0

def vsupWord (p : Power) : Word :=
  flag p.ov 23 ||| flag p.ext 22 ||| flag p.extNow 21 ||| flag p.svc5v 20 ||| flag p.batt 19 ||| fld p.vsupMv 0

def thermWord (p : Power) : Word := flag p.thermShed 17 ||| flag p.warn 16 ||| fld p.tj 0

def baypwrWord (p : Power) : Word :=
  fld p.order 24 ||| (fins 4).foldl (fun w b => w ||| flag (vget p.bayOut b).shed (20 + b.val)) 0 ||| fld p.totalMa 0

def powerReg (r : Req) (s : State) (off : Nat) : Option Reg :=
  let e := isEncl s r
  let both := isCore s r
  if h : 0x100 ≤ off ∧ off < 0x120 then
    let j : Fin 8 := ⟨(off - 0x100) / 4, by omega⟩
    some { value := railWord (rail s j), reads := both, writes := e, special := true
           clear := fun s => setRail s j { rail s j with hiccups := 0 }
           store := fun v s => setRail s j { rail s j with overload := (rail s j).overload && !v.getLsbD 16 } }
  else if off = 0x120 then
    some { value := vsupWord s.pow, reads := both, writes := e, special := true
           store := fun v s => { s with pow := { s.pow with ov := s.pow.ov && !v.getLsbD 23, ext := s.pow.ext && !v.getLsbD 22 } } }
  else if off = 0x124 then
    some { value := thermWord s.pow, reads := both, writes := e, special := true
           store := fun v s => { s with pow := { s.pow with warn := s.pow.warn && !v.getLsbD 16 } } }
  else if off = 0x128 then some { value := baypwrWord s.pow, reads := both, writes := e }
  else none

/-! ### Modes and resets (R105) -/

def wakeWord (y : Sys) : Word := fld y.latUs 20 ||| fld y.watchCh 8 ||| fld y.wake 0

def resetCauseWord (s : State) : Word :=
  BitVec.ofNat 32 (min 15 (recentRestarts s).length * 256) ||| fld s.sys.cause 0

def wakeoutWord (s : State) : Word :=
  flag (wakeOut s) 31 ||| flag s.sys.pulse 2 ||| flag ((fins 4).any fun a => (alarm s a).drives) 1 ||| flag s.sys.wakeoutSw 0

def modeReg (r : Req) (s : State) (off : Nat) : Option Reg :=
  let e := isEncl s r
  let both := isCore s r
  if off = 0x200 then
    some { value := sysModeWord s, reads := both, writes := e, special := true
           store := fun v s => { s with sys := { s.sys with sleepFail := s.sys.sleepFail && !v.getLsbD 11 } } }
  else if off = 0x204 then some { reads := e, writes := e, special := true, store := fun v => modeReq (bitsAt v 0 3) }
  else if off = 0x208 then
    some { value := wakeWord s.sys, reads := both, writes := e, special := true
           clear := fun s => { s with sys := { s.sys with wake := 0 } } }
  else if off = 0x20C then
    some { reads := e, writes := mayReset s r, special := true
           store := fun v s => if bitsAt v 0 8 = 0xC3 then resetWrite (bitsAt v 8 2) s else s }
  else if off = 0x210 then some { value := resetCauseWord s, reads := e, writes := e }
  else if off = 0x214 then
    some { value := wakeoutWord s, reads := e, writes := e
           store := fun v s => { s with sys := { s.sys with wakeoutSw := v.getLsbD 0 } } }
  else none

/-! ### Start and seed (R125, R146) -/

/-- BOOT.REMEAS; the engine does not run in Lockdown (R123 › Edges). -/
def remeasWord (s : State) : Word :=
  let b := s.boot
  flag (b.remBusy && decide (s.sys.mode ≠ Mode.lockdown)) 31 ||| flag b.remMatch 30 ||| fld b.trigger 28 ||| fld b.runs 24 ||| fld b.timeUs 0

/-- The ROM stores MLEN, ENTRY and MEAS before handover; afterwards they are read-only (R115). -/
def bootReg (r : Req) (s : State) (off : Nat) : Option Reg :=
  let e := isEncl s r
  let w := romWrites s r
  let b := s.boot
  if off = 0x300 then some { value := bootStsWord s, reads := isCore s r, writes := w }
  else if off = 0x304 then
    some { reads := e, writes := w, special := true, store := fun v => handover (BitVec.ofNat 8 (bitsAt v 0 8)) }
  else if off = 0x308 then
    some { value := fld b.mlen 0, reads := e, writes := w
           store := fun v s => { s with boot := { s.boot with mlen := BitVec.ofNat 20 (bitsAt v 0 20) } } }
  else if off = 0x30C then some { value := fld b.handoverUs 16 ||| fld b.liveUs 0, reads := e, writes := w }
  else if h : 0x310 ≤ off ∧ off < 0x320 then
    let k : Fin 4 := ⟨(off - 0x310) / 4, by omega⟩
    some { value := vget b.entry k, reads := e, writes := w
           store := fun v s => { s with boot := { s.boot with entry := vset s.boot.entry k v } } }
  else if 0x320 ≤ off ∧ off < 0x340 then
    let k := (off - 0x320) / 4
    some { value := BitVec.ofNat 32 (bitsAt b.meas (32 * k) 32), reads := isCore s r, writes := w
           store := fun v s => { s with boot := { s.boot with meas := setBits s.boot.meas (32 * k) 32 v.toNat } } }
  else if off = 0x340 then some { value := remeasWord s, reads := e, writes := w }
  else none

def stageWord (s : State) : Word :=
  let y := s.seed
  flag y.open_ 31 ||| fld y.source 28 ||| fld y.result 26 ||| fld y.code 22 ||| fld (BitVec.ofNat 19 (stageBytes s)) 0

def seedReg (r : Req) (s : State) (off : Nat) : Option Reg :=
  let e := isEncl s r
  let both := isCore s r
  if off = 0x400 then some { value := seedStsWord s, reads := both, writes := e }
  else if off = 0x404 then some { value := stageWord s, reads := e, writes := e }
  else if off = 0x408 then some { value := s.seed.issue, reads := both, writes := e }
  else if 0x420 ≤ off ∧ off < 0x440 then
    some { value := BitVec.ofNat 32 (bitsAt s.seed.digest (32 * ((off - 0x420) / 4)) 32), reads := both, writes := e }
  else none

/-! ### Clocks (R159) -/

def qWord (s : State) (n : Nat) : Word :=
  let q := qstat s n
  fld q.peak 24 ||| BitVec.ofNat 32 (min 255 (qOcc s n).toNat * 65536) ||| fld q.stalls 0

def clkReg (r : Req) (s : State) (off : Nat) : Option Reg :=
  let e := isEncl s r
  let both := isCore s r
  let c := s.clk
  if off = 0x500 then some { value := fld c.strbRun 16 ||| fld c.bayLock 4 ||| 7, reads := both, writes := e }
  else if off = 0x504 then
    some { value := fld c.hops 16 ||| fld c.step 0, reads := e, writes := e, special := true
           clear := fun s => { s with clk := { s.clk with hops := 0 } } }
  else if off = 0x508 then
    some { reads := e, writes := e, special := true, store := fun v => measStart (BitVec.ofNat 6 (bitsAt v 0 6)) }
  else if off = 0x50C then some { value := flag c.measDone 31 ||| fld c.measCount 0, reads := e, writes := e }
  else if h : 0x600 ≤ off ∧ off < 0x680 then
    let f : Furrow := ⟨(off - 0x600) / 4, by omega⟩
    some { value := furrowWord (furrow s f), reads := both, writes := e, special := true
           store := fun v s =>
             let hz := BitVec.ofNat 27 (bitsAt v 0 27)
             if furrowLocked s f ∧ freqWrite f hz s ≠ s then furrowWrite r f hz s
             else
               let s := freqWrite f hz s
               setFurrow s f { furrow s f with fail := (furrow s f).fail && !v.getLsbD 30 } }
  else if 0x900 ≤ off ∧ off < 0xAB0 then
    let n := (off - 0x900) / 4
    some { value := qWord s n, reads := e, writes := e, special := true
           clear := fun s => setQstat s n { qstat s n with peak := 0, stalls := 0 } }
  else none

/-! ### Retirement (R244) -/

def retireStsWord (s : State) : Word :=
  flag s.chs.retirePending 31 ||| fld s.chs.lastCause 24 ||| fld s.chs.lastCh 16 ||| BitVec.ofNat 32 (min 255 (retiredCount s))

def retireReg (r : Req) (s : State) (off : Nat) : Option Reg :=
  let both := isCore s r
  let e := isEncl s r
  if 0x800 ≤ off ∧ off < 0x810 then
    some { value := BitVec.ofNat 32 (bitsAt s.chs.retired (8 * (off - 0x800)) 32), reads := both, writes := e }
  else if off = 0x810 then some { value := retireStsWord s, reads := both, writes := e }
  else if off = 0x814 then
    some { reads := both, writes := e, special := true
           store := fun v s => if bitsAt v 8 8 = 0x9E then unretireWrite r (Fin.ofNat 128 (bitsAt v 0 7)) s else s }
  else none

/-- System control, from 0x5400_0000: SYS.IDENT and SYS.CAPS ignore every write (R28), the rest by chapter. -/
def sysReg (r : Req) (s : State) (off : Nat) : Option Reg :=
  if off = 0 then some { value := 0x01280200 }
  else if off = 8 then some { value := 0x447F4FF0 }
  else if off < 0x200 then powerReg r s off
  else if off < 0x300 then modeReg r s off
  else if off < 0x400 then bootReg r s off
  else if off < 0x500 then seedReg r s off
  else if 0x800 ≤ off ∧ off < 0x900 then retireReg r s off
  else clkReg r s off

/-! ### The backup domain (R80) -/

def tampWord (t : Tamper) : Word :=
  flag t.witness 31 ||| flag t.intrusion 30 ||| fld t.first 27 ||| flag t.safePend 7 ||| flag t.safe 6 ||| fld t.sensors 0

/-- CAL.CTL written: TRIM, locked with the CLOCKS record (R138), then APPLY. -/
def calCtlWrite (r : Req) (v : Word) (s : State) : State :=
  let t := BitVec.ofNat 8 (bitsAt v 8 8)
  let s' := setCal s { s.bkp.cal with trim := t }
  keepLocked r 0x5500002C (onceLocked s 0x01) (decide (t ≠ s.bkp.cal.trim)) s (if v.getLsbD 0 then applyWrite s' else s')

/-- The calendar's registers from 0x5500_0010. -/
def calReg (r : Req) (s : State) (off : Nat) : Option Reg :=
  let e := isEncl s r
  let both := isCore s r
  let c := s.bkp.cal
  let x := shadowOf s r
  if off = 0x10 then some { value := c.sec.extractLsb' 0 32, reads := both, writes := e, latch := latchCal r }
  else if off = 0x14 then some { value := fld x.secHi 0, reads := both, writes := e }
  else if off = 0x18 then some { value := fld x.subsec 0, reads := both, writes := e }
  else if off = 0x1C then some { value := x.fields0, reads := both, writes := e }
  else if off = 0x20 then some { value := x.fields1, reads := both, writes := e }
  else if off = 0x24 then
    some { value := c.set.extractLsb' 0 32, reads := e, writes := e
           store := fun v s => setCal s { s.bkp.cal with set := setBits s.bkp.cal.set 0 32 v.toNat } }
  else if off = 0x28 then
    some { value := fld (c.set.extractLsb' 32 16) 0, reads := e, writes := e
           store := fun v s => setCal s { s.bkp.cal with set := setBits s.bkp.cal.set 32 16 v.toNat } }
  else if off = 0x2C then
    some { value := fld c.trim 8, reads := e, writes := e, special := true, store := calCtlWrite r }
  else if off = 0x30 then
    some { value := fld c.sets 8 ||| flag c.steppedBack 1 ||| flag c.valid 0, reads := both, writes := e, special := true
           store := fun v s => setCal s { s.bkp.cal with steppedBack := s.bkp.cal.steppedBack && !v.getLsbD 1 } }
  else none

/-- The backup domain, from 0x5500_0000. ALARM[a].LO holds RW fields alone. -/
def bkpReg (r : Req) (s : State) (off : Nat) : Option Reg :=
  let e := isEncl s r
  let b := s.bkp
  if off = 0 then
    some { value := fld b.cause 8 ||| flag b.vbkLow 2 ||| fld b.src 0, reads := e, writes := e, special := true
           store := fun v s => { s with bkp := { s.bkp with vbkLow := s.bkp.vbkLow && !v.getLsbD 2 } } }
  else if off = 4 then some { value := fld b.battMv 16 ||| fld b.vcapMv 0, reads := e, writes := e }
  else if off = 8 then
    some { reads := e, writes := e && !debugPort r, special := true, store := fun v => bkpResetByte (BitVec.ofNat 8 (bitsAt v 0 8)) }
  else if h : 0x40 ≤ off ∧ off < 0x60 then
    let a : Fin 4 := ⟨(off - 0x40) / 8, by omega⟩
    if off % 8 = 0 then
      some { value := alarmLo (alarm s a), reads := e, writes := e, store := alarmWriteOp a false }
    else some { value := alarmHi (alarm s a), reads := e, writes := e, special := true, store := alarmWriteOp a true }
  else if off = 0x80 then some { value := tampWord b.tamp, reads := e, writes := e }
  else if off = 0x84 then some { value := b.tamp.time.extractLsb' 0 32, reads := e, writes := e }
  else if off = 0x88 then some { value := fld (b.tamp.time.extractLsb' 32 16) 0, reads := e, writes := e }
  else if off = 0x8C then some { value := fld b.tamp.temp 0, reads := e, writes := e }
  else calReg r s off

/-! ### Fuses (R125) -/

def fuseReg (r : Req) (s : State) (off : Nat) : Option Reg :=
  let e := isEncl s r
  if off < 0x200 then
    some { value := BitVec.ofNat 32 (bitsAt s.fuse.view (8 * (off - off % 4)) 32), reads := e, writes := e }
  else if off = 0x200 then
    some { reads := e, writes := e && !debugPort r, special := true
           store := fun v s =>
             if !v.getLsbD 31 then s
             else if mayBlow s r (bitsAt v 0 12) then fuseGo (BitVec.ofNat 12 (bitsAt v 0 12)) s
             else violate r .block 0x5F000200 true s }
  else if off = 0x204 then
    some { value := flag s.fuse.fail 2 ||| flag s.fuse.done 1 ||| flag s.fuse.blowing.isSome 0, reads := e, writes := e, special := true
           store := fun v s => { s with fuse := { s.fuse with fail := s.fuse.fail && !v.getLsbD 2, done := s.fuse.done && !v.getLsbD 1 } } }
  else none

/-! ### The Granary (R423, R445) -/

def countOwners (s : State) (st : BitVec 4) : Nat := (s.grn.ostate.toList.filter fun x => decide (x = st)).length

def grnStsWord (s : State) : Word :=
  let g := s.grn
  flag g.ready 31 ||| flag g.pufFail 30 ||| flag g.shareNew 29 ||| flag (escInForce s).isSome 28 ||| flag (escBarred s) 27 |||
    BitVec.ofNat 32 (countOwners s Owner.active * 256 + countOwners s Owner.escrowWait)

def grnSlotsWord (s : State) : Word :=
  BitVec.ofNat 32 (countSlot s .free * 2 ^ 24 + countSlot s .cached * 2 ^ 16 + countSlot s .busy * 256 + countSlot s .transit)

def grnEscWord (s : State) : Word := match escInForce s with
  | none => 0
  | some c => flag s.grn.escPending 31 ||| flag c 30 ||| BitVec.ofNat 32 (escCount s c % 128 * 65536 + escSeq s c % 65536)

/-- The state word of owners 8i to 8i + 7. -/
def ostateWord (s : State) (i : Nat) : Word :=
  BitVec.ofNat 32 ((List.range 8).foldl (fun w k => w + (s.grn.ostate.toList.getD (8 * i + k) 0).toNat * 2 ^ (4 * k)) 0)

def dcstsWord (s : State) : Word :=
  let g := s.grn
  BitVec.ofNat 32 (min 7 (g.nonces.filter (nonceLives s)).length * 2 ^ 29) ||| fld g.reason 24 ||| fld g.accepted 16 ||| fld g.refused 8 ||| flag g.entFail 0

/-- The Granary's registers from 0x5100_0000; every write is refused: all are read-only and other accesses silent. -/
def grnReg (r : Req) (s : State) (off : Nat) : Option Reg :=
  let e := isEncl s r
  let g := s.grn
  if off = 0 then some { value := grnStsWord s, reads := isCore s r, writes := false }
  else if off = 4 then some { value := grnSlotsWord s, reads := e, writes := false }
  else if off = 8 then
    some { value := flag g.polarity 31 ||| BitVec.ofNat 32 (remaskSeconds s * 65536) ||| fld g.passes 0, reads := e, writes := false
           special := true, clear := fun s => { s with grn := { s.grn with passes := 0 } } }
  else if off = 0xC then some { value := grnEscWord s, reads := e, writes := false }
  else if off = 0x10 then
    some { value := g.evicts, reads := e, writes := false, special := true
           clear := fun s => { s with grn := { s.grn with evicts := 0 } } }
  else if 0x20 ≤ off ∧ off < 0x40 then some { value := ostateWord s ((off - 0x20) / 4), reads := isCore s r, writes := false }
  else if off = 0x40 then
    some { value := g.cmds, reads := e, writes := false, special := true
           clear := fun s => { s with grn := { s.grn with cmds := 0 } } }
  else if off = 0x44 then
    some { value := dcstsWord s, reads := e, writes := false, special := true
           clear := fun s => { s with grn := { s.grn with accepted := 0, refused := 0 } } }
  else if off = 0x48 then
    some { value := fld g.lastOpc 24 ||| fld g.lastOwner 16 ||| fld g.lastVerdict 8 ||| fld g.lastStatus 0, reads := e, writes := false }
  else none

/-! ### The ledger (R478) -/

def ldgStsWord (s : State) : Word :=
  flag s.pins.nvProt 30 ||| flag s.ldg.passDue 29 ||| flag (limpReason s 2) 28 ||| fld s.ldg.pinProt 0

def ldgReg (r : Req) (s : State) (off : Nat) : Option Reg :=
  let e := isEncl s r
  let g := s.ldg
  if off = 0 then some { value := ldgStsWord s, reads := isCore s r, writes := false }
  else if off = 4 then
    some { value := fld g.corr 16 ||| fld g.uncorr 0, reads := e, writes := false, special := true
           clear := fun s => { s with ldg := { s.ldg with corr := 0, uncorr := 0 } } }
  else if off = 8 then
    some { value := fld g.row 16 ||| fld g.rewrites 0, reads := e, writes := false, special := true
           clear := fun s => { s with ldg := { s.ldg with rewrites := 0 } } }
  else if off = 0xC then
    some { value := g.protDrops, reads := e, writes := false, special := true
           clear := fun s => { s with ldg := { s.ldg with protDrops := 0 } } }
  else if off = 0x10 then
    let held := ((List.range 512).filter fun k => logHeld s k).length
    some { value := BitVec.ofNat 32 (logHead s * 65536 + min 511 held), reads := e, writes := false }
  else none

/-! ### The Headland (R493) -/

/-- HALT of a thread: DEBUG is raised on it, once (R490). -/
def haltThread (t : Thread) (s : State) : State :=
  if s.hld.halt.getLsbD t.val then s
  else setIpend t 4 { s with hld := { s.hld with halt := setBits s.hld.halt t.val 1 1 } }

def hldStsWord (s : State) : Word :=
  let h := s.hld
  let open_ := decide (s.sys.mode = Mode.service)
  flag open_ 31 ||| flag (open_ && scopeHas s 4) 30 ||| fld h.keyIdx 24 ||| fld h.lastRefusal 16 ||| fld h.accepted 0

/-- SCOPE and END change at acceptance alone, HALT at the halting commands alone: of every write, only one to HALT by
the Enclosure under scope HALT has an effect. -/
def hldReg (r : Req) (s : State) (off : Nat) : Option Reg :=
  let e := isEncl s r
  let h := s.hld
  if off = 0 then
    some { value := hldStsWord s, reads := isCore s r, writes := e, special := true
           clear := fun s => { s with hld := { s.hld with accepted := 0 } } }
  else if off = 4 then some { value := fld h.scope 0, reads := e, writes := false }
  else if off = 8 then some { value := h.endSec.extractLsb' 0 32, reads := e, writes := false }
  else if off = 0xC then some { value := fld (h.endSec.extractLsb' 32 16) 0, reads := e, writes := false }
  else if off = 0x10 then
    some { value := fld h.halt 0, reads := e, writes := e && scopeHas s 3, special := true
           store := fun v s => (fins 16).foldl (fun s t => if v.getLsbD t.val then haltThread t s else s) s }
  else none

end Sys2Proof.Machine
end

