-- ==== Sys2Proof/Machine/RegsCore.lean ====
section
/-! DEFINITION. The tables of the region guards and worlds, the cores and the tile engine, and what writing them does
(13, 15, 16). -/

namespace Sys2Proof.Machine

/-! ### Guards (R335 to R340, R346) -/

def attrWord (x : Region) : Word :=
  flag x.en 31 ||| flag x.fixed 30 ||| fld x.perm 24 ||| flag x.world 16 ||| fld x.owner 8 ||| fld x.bay 0

/-- A region's word `k` written: reserved owner and bay codes leave their fields (R10). -/
def regionAfter (x : Region) (k : Nat) (v : Word) : Region :=
  match k with
  | 0 => { x with base := v }
  | 1 => { x with limit := v }
  | 2 =>
    let o := bitsAt v 8 8
    let b := bitsAt v 0 8
    { x with en := v.getLsbD 31, perm := BitVec.ofNat 3 (bitsAt v 24 3), world := v.getLsbD 16
             owner := orKeep (decide (o < 64 ∨ o = 0xFF)) (BitVec.ofNat 8 o) x.owner
             bay := orKeep (decide (b < 4 ∨ b = 0xFF)) (BitVec.ofNat 8 b) x.bay }
  | _ => x

/-- A region register written: ignored once the guards are locked, and always for a region the ROM fixed (R110, R336). -/
def regionWrite (r : Req) (g n k : Nat) (v : Word) (s : State) : State :=
  let x := region s g n
  if s.guard.lock ∨ x.fixed then violate r .locked (BitVec.ofNat 32 (0x56000000 + 0x100 * g + 0x10 * n + 4 * k)) true s
  else setRegion s g n (regionAfter x k v)

/-- GUARD.CTL written with LOCK 1 (R336). -/
def lockGuards (r : Req) (lock : Bool) (s : State) : State :=
  if s.guard.lock then violate r .locked 0x56002000 true s
  else { s with guard := { s.guard with lock := lock } }

/-- GUARD_LOCK (R336, R346). -/
def execGuardLock (r : Req) (s : State) : Host.Outcome State Fault Refusal :=
  .next (tryWrite r 0x56002000 (isEncl s r) (lockGuards r true) s)

/-- GUARD.PROBE_REQ written with GO: the range of PROBE_ADDR and PROBE_LEN against the guards (R331). -/
def probeOp (v : Word) (s : State) : State :=
  let src := if 20 ≤ bitsAt v 16 5 then s.guard.probeSrc.toNat else bitsAt v 16 5
  let owner := BitVec.ofNat 8 (bitsAt v 8 8)
  let at' : Attr := { bay := if 16 ≤ src then some (Fin.ofNat 4 (src - 16)) else none, owner := owner }
  let ok := probeAllows s at' (BitVec.ofNat 3 (bitsAt v 24 3)) s.guard.probeAddr.toNat s.guard.probeLen.toNat
  let s := { s with guard := { s.guard with probeSrc := BitVec.ofNat 5 src } }
  if !v.getLsbD 31 then s
  else { s with guard := { s.guard with probeDone := true, probeAllow := ok } }

/-- GUARD_PROBE (R331, R346). -/
def execGuardProbe (r : Req) (value : Word) (s : State) : Host.Outcome State Fault Refusal :=
  .next (tryWrite r 0x56002408 (isEncl s r) (probeOp (value ||| 0x80000000)) s)

def vlastWord (g : Guards) : Word :=
  fld g.vlastSrc 27 ||| fld g.vlastKind 24 ||| flag g.vlastWrite 23 ||| flag g.vlastFetch 22

def guardReg (r : Req) (s : State) (off : Nat) : Option Reg :=
  let e := isEncl s r
  let g := s.guard
  if off < 0x1100 then
    let k := off % 16 / 4
    let x := region s (off / 0x100) (off % 0x100 / 16)
    if k = 3 then none
    else some { value := if k = 0 then x.base else if k = 1 then x.limit else attrWord x, reads := e, writes := e
                store := regionWrite r (off / 0x100) (off % 0x100 / 16) k }
  else if off = 0x2000 then
    some { value := flag g.lock 0, reads := e, writes := e, special := true, store := fun v => lockGuards r (v.getLsbD 0) }
  else if h : 0x2100 ≤ off ∧ off < 0x2158 then
    let k : Fin 22 := ⟨(off - 0x2100) / 4, by omega⟩
    some { value := fld (vget g.vcnt k) 0, reads := e, writes := e, special := true
           clear := fun s => { s with guard := { s.guard with vcnt := vset s.guard.vcnt k 0 } } }
  else if off = 0x2200 then some { value := g.vlastAddr, reads := e, writes := e }
  else if off = 0x2204 then some { value := vlastWord g, reads := e, writes := e }
  else if h : 0x2300 ≤ off ∧ off < 0x2340 then
    let t : Thread := ⟨(off - 0x2300) / 4, by omega⟩
    some { value := fld (vget g.towner t) 0, reads := e, writes := e
           store := fun v s =>
             let o := bitsAt v 0 8
             if o < 64 ∨ o = 0xFF then
               { s with guard := { s.guard with towner := vset s.guard.towner t (BitVec.ofNat 8 o) } }
             else s }
  else if off = 0x2400 then
    some { value := g.probeAddr, reads := e, writes := e, store := fun v s => { s with guard := { s.guard with probeAddr := v } } }
  else if off = 0x2404 then
    some { value := g.probeLen, reads := e, writes := e, store := fun v s => { s with guard := { s.guard with probeLen := v } } }
  else if off = 0x2408 then some { reads := e, writes := e, special := true, store := probeOp }
  else if off = 0x240C then some { value := flag g.probeDone 31 ||| flag g.probeAllow 0, reads := e, writes := e }
  else none

/-! ### Worlds (R342 to R345) -/

/-- Milliseconds to the watchdog's expiry, rounded up. -/
def remainMs (w : World) : Nat := (w.period.toNat * 250000 - w.elapsed + 249999) / 250000

def worldReg (r : Req) (s : State) (off : Nat) : Option Reg :=
  let e := isEncl s r
  let w := s.wld
  if off = 0x3000 then
    some { value := flag true 31 ||| fld w.periodNext 0, reads := e, writes := e
           store := fun v s =>
             let p := bitsAt v 0 12
             if 10 ≤ p ∧ p ≤ 4000 then { s with wld := { s.wld with periodNext := BitVec.ofNat 12 p } } else s }
  else if off = 0x3004 then
    some { reads := e, writes := e, special := true
           store := fun v s => if bitsAt v 0 8 = 0x6B then kickWatchdog s else s }
  else if off = 0x3008 then
    some { value := flag w.warned 31 ||| BitVec.ofNat 32 (remainMs w % 4096), reads := e, writes := e }
  else if off = 0x300C then
    some { value := flag w.restart 31 ||| fld w.cause 28 ||| fld w.thread 16 ||| fld w.lastUs 0, reads := e, writes := e }
  else if off = 0x3010 then
    some { value := fld w.cfLast 16 ||| fld w.cfCount 0, reads := e, writes := e, special := true
           clear := fun s => { s with wld := { s.wld with cfCount := 0 } } }
  else if h : 0x3100 ≤ off ∧ off < 0x3140 then
    let t : Thread := ⟨(off - 0x3100) / 4, by omega⟩
    some { value := vget w.stileStack t, reads := e, writes := e
           store := fun v s => { s with wld := { s.wld with stileStack := vset s.wld.stileStack t v } } }
  else none

/-! ### Vector lines (R283, R284) -/

/-- A table base written: 32-byte aligned and inside the world's slot of BOOT.STS, else reserved. -/
def baseOk (s : State) (encl : Bool) (v : Nat) : Bool :=
  let (base, size) := if encl then (enclSlotBase s.boot.enclSlot, 0x100000) else (commonsBase s.boot.commonsSlot, 0x280000)
  decide (v % 32 = 0 ∧ base ≤ v ∧ v < base + size)

/-- VCTL written: a load of a world starts unless its base is 0. -/
def loadWrite (e c : Bool) (s : State) : State :=
  let k := s.cores
  { s with cores := { k with loadingE := k.loadingE || (e && decide (k.vbaseE ≠ 0)), loadingC := k.loadingC || (c && decide (k.vbaseC ≠ 0)) } }

/-- LOAD_E (R283, R284, R296). -/
def execLoadE (r : Req) (s : State) : Host.Outcome State Fault Refusal :=
  .next (tryWrite r 0x57000008 (isEncl s r) (loadWrite true false) s)

/-- LOAD_C (R283, R284, R296). -/
def execLoadC (r : Req) (s : State) : Host.Outcome State Fault Refusal :=
  .next (tryWrite r 0x57000008 (isEncl s r) (loadWrite false true) s)

/-- VECTOR_LOAD_DONE (R283): the lines of every world being loaded are copied and locked. -/
def execVectorLoadDone (s : State) : Host.Outcome State Fault Refusal :=
  let s1 := if s.cores.loadingE then reloadE s else s
  .next (if s.cores.loadingC then reloadC s1 else s1)

/-! ### KICK and single mode (R280, R291) -/

/-- KICK is set on a thread whose home world is the writer's; any other write is silent. -/
def kickOp (r : Req) (t : Thread) (s : State) : State :=
  if homeEncl s t == isEncl s r then setIpend t 1 s else violate r .block 0x57000010 true s

def threadAt (c m : Nat) : Thread := Fin.ofNat 16 (4 * (c % 4) + m % 4)

/-- KICK (R291, R296). -/
def execKick (r : Req) (core th : Fin 4) (s : State) : Host.Outcome State Fault Refusal :=
  .next (tryWrite r 0x57000010 (isCore s r) (kickOp r (threadAt core.val th.val)) s)

/-- Threads t1 to t3 of a core. -/
def others (c : Fin 4) : List Thread := [1, 2, 3].map fun m => threadAt c.val m

/-- CORE[c].MODE written (R280): a set of SINGLE is ignored while t1, t2 or t3 is reserved; THREADS may lock the field. -/
def modeWrite (r : Req) (c : Fin 4) (v : Word) (s : State) : State :=
  let x := core s c
  let b := v.getLsbD 0
  let s' := setCore s c { x with modeNext := if b = x.single then none else some b }
  if b && (others c).any (fun t => decide (vget s.drill.reserve t ≠ 0xFFFF)) then s
  else keepLocked r (BitVec.ofNat 32 (0x57001000 + 0x1000 * c.val)) (onceLocked s 0x07) (decide (b ≠ x.single)) s s'

/-- CORE_MODE_CHANGE (R280): t1 to t3 are idle and not in an interrupt. -/
def execCoreModeChange (c : Fin 4) (s : State) : Host.Outcome State Fault Refusal :=
  let x := core s c
  .next (match x.modeNext with
  | none => s
  | some b =>
    if (others c).all fun t => decide ((thr s t).run = .idle) && !(thr s t).inInt
    then setCore s c { x with single := b, modeNext := none } else s)

/-! ### The cores' registers (R296) -/

def coreBits (s : State) (c : Fin 4) (p : Thr → Bool) : Nat :=
  (List.range 4).foldl (fun w m => w + bit (p (thr s (threadAt c.val m))) * 2 ^ m) 0

def coreStsWord (s : State) (c : Fin 4) : Word :=
  BitVec.ofNat 32 (s.drill.enclThreads.toNat / 2 ^ (4 * c.val) % 16 * 4096 + coreBits s c (fun x => x.inInt) * 256 +
    coreBits s c (fun x => x.task.isSome))

/-- TSTS.STATE: 0 idle, 1 task, 2 interrupt, 3 stopped in single mode, 4 held. -/
def thrState (s : State) (t : Thread) : Nat :=
  let x := thr s t
  if x.run = .held then 4 else if x.inInt then 2 else if !modeLets s t then 3 else if x.run = .running then 1 else 0

def tstsWord (s : State) (t : Thread) : Word :=
  let x := thr s t
  BitVec.ofNat 32 (thrState s t * 2 ^ 28) ||| flag (inEncl s t) 27 ||| flag x.stile.isSome 26 ||| (match x.task with
    | none => 0
    | some d => BitVec.ofNat 32 d.val)

/-- A control field written (R295): by the thread itself it awaits CSYNC, by another requester the thread's next start
or CSYNC. Field 0 IMASK, 1 EPC, 2 ESTS, 3 STACK; IMASK bits 3 and 4 read 0 on a Commons thread. -/
def ctlWrite (r : Req) (t : Thread) (k : Nat) (v : Word) (s : State) : State :=
  let x := thr s t
  let c := x.ext.ctl
  let c' : Ctl := match k with
    | 0 => { c with imask := BitVec.ofNat 5 (bitsAt v 0 5) &&& (if homeEncl s t then 0x1F else 0x07) }
    | 1 => { c with epc := v }
    | 2 => { c with ests := v &&& 0xC00000FF }
    | _ => { c with stack := v }
  let own := decide (r = .thread t)
  setThr s t { x with ext := { x.ext with ctl := c', foreign := setBits x.ext.foreign k 1 (bit (!own)) } }

def setTick (t : Thread) (v : Word) (s : State) : State :=
  let x := thr s t
  setThr s t { x with ext := { x.ext with tick := v } }

/-- CORE[c].TSTS[m] and the six registers behind it. -/
def threadReg (r : Req) (s : State) (t : Thread) (k : Nat) : Option Reg :=
  let e := isEncl s r
  let open_ := e || (isCommons s r && !homeEncl s t)
  let x := (thr s t).ext
  match k with
  | 0 => some { value := tstsWord s t, reads := e, writes := e }
  | 1 =>
    some { value := fld x.ipend 0, reads := open_, writes := open_, special := true
           store := fun v s =>
             let y := thr s t
             setThr s t { y with ext := { y.ext with ipend := y.ext.ipend &&& ~~~(v.setWidth 5) } } }
  | 2 => some { value := fld x.ctl.imask 0, reads := open_, writes := open_, store := ctlWrite r t 0 }
  | 3 => some { value := x.tick, reads := open_, writes := open_, store := setTick t }
  | 4 => some { value := x.ctl.stack, reads := open_, writes := open_, store := ctlWrite r t 3 }
  | 5 => some { value := x.ctl.epc, reads := open_, writes := open_, store := ctlWrite r t 1 }
  | 6 => some { value := x.ctl.ests, reads := open_, writes := open_, store := ctlWrite r t 2 }
  | _ => none

/-- TICK_EXPIRE (R291): a count that runs reaches 0. -/
def execTickExpire (t : Thread) (s : State) : Host.Outcome State Fault Refusal :=
  .next (if (thr s t).ext.tick = 0 then s else setIpend t 0 (setTick t 0 s))

/-- The performance counters of a core. -/
def perfValue (x : Core) (k : Nat) : Word :=
  if k = 0 then x.perfIssue else if k = 1 then x.perfImiss else if k = 2 then x.perfDmiss else x.perfMispred

def perfClear (c : Fin 4) (k : Nat) (s : State) : State :=
  let x := core s c
  setCore s c (if k = 0 then { x with perfIssue := 0 } else if k = 1 then { x with perfImiss := 0 }
    else if k = 2 then { x with perfDmiss := 0 } else { x with perfMispred := 0 })

/-- One core's block, 0x1000 bytes. -/
def coreReg (r : Req) (s : State) (c : Fin 4) (off : Nat) : Option Reg :=
  let e := isEncl s r
  let both := isCore s r
  let x := core s c
  if off = 0 then
    some { value := flag x.modeNext.isSome 31 ||| flag (x.modeNext.getD x.single) 0, reads := e, writes := e, store := modeWrite r c }
  else if off = 4 then some { value := coreStsWord s c, reads := both, writes := e }
  else if 0x10 ≤ off ∧ off < 0x20 then
    let k := (off - 0x10) / 4
    some { value := perfValue x k, reads := both, writes := e, special := true, clear := perfClear c k }
  else if 0x100 ≤ off ∧ off < 0x200 then threadReg r s (threadAt c.val ((off - 0x100) / 0x40)) (off % 0x40 / 4)
  else none

/-! ### The tile engine's registers (R365) -/

def tileCtlWord (e : TileEngine) : Word :=
  let (t, p) := e.change.getD (e.enclTiles, e.policy)
  fld t 16 ||| flag p 8 ||| flag e.trap 0

/-- TILE.CTL written: ENCL_TILES must be 0 under POLICY 1 (R341); a change of either waits for an idle engine (R365);
the TILES record may lock the fields (R138). -/
def tileCtlWrite (r : Req) (v : Word) (s : State) : State :=
  let e := s.tile
  let (t0, p0) := e.change.getD (e.enclTiles, e.policy)
  let p := v.getLsbD 8
  let t : Half := BitVec.ofNat 16 (bitsAt v 16 16)
  let t := if p ∧ t ≠ 0 then t0 else t
  let p := if p ∧ t ≠ 0 then p0 else p
  let y := { e with trap := v.getLsbD 0, change := if t = e.enclTiles ∧ p = e.policy then none else some (t, p) }
  keepLocked r 0x57008000 (onceLocked s 0x0A) (decide (t ≠ e.enclTiles ∨ p ≠ e.policy ∨ v.getLsbD 0 ≠ e.trap)) s { s with tile := y }

def geomWord (g : Geom) : Word := fld g.rows 16 ||| fld g.rbytes 8 ||| fld g.fmt 0

def markedWord (e : TileEngine) : Word :=
  BitVec.ofNat 32 ((fins 16).foldl (fun w t => w + bit (vget e.tiles t).marked * 2 ^ t.val) 0)

/-- ENG.BUSY shows an entry in execution: an instruction of TLQ runs whole within its own step, so it reads 0 between
steps; ENG, NOTE_DROPS and PERF_BUSY are among R365's other accesses, silent for every requester. GEOM, STS and OVROW of the other world's tile read zero and count as violations. -/
def tileReg (r : Req) (s : State) (off : Nat) : Option Reg :=
  let e := isEncl s r
  let both := isCore s r
  if off = 0 then some { value := tileCtlWord s.tile, reads := both, writes := e, store := tileCtlWrite r }
  else if off = 4 then some { value := markedWord s.tile, reads := false, writes := false }
  else if off = 8 then
    some { value := fld s.tile.noteDrops 0, reads := false, writes := false, special := true
           clear := fun s => { s with tile := { s.tile with noteDrops := 0 } } }
  else if off = 0xC then
    some { value := s.tile.perfBusy, reads := false, writes := false, special := true
           clear := fun s => { s with tile := { s.tile with perfBusy := 0 } } }
  else if h : 0x100 ≤ off ∧ off < 0x200 then
    let t : Tile := ⟨(off - 0x100) / 16, by omega⟩
    let open_ := tileRegOpen s r t
    let x := tile s t
    let k := off % 16 / 4
    if k = 0 then some { value := geomWord x.geom, reads := open_, writes := open_, store := fun v => pushTlq (.geom t v) }
    else if k = 1 then
      some { value := fld x.flags 1, reads := open_, writes := open_, special := true
             store := fun v s => setTile t { tile s t with flags := (tile s t).flags &&& ~~~(BitVec.ofNat 4 (bitsAt v 1 4)) } s }
    else if k = 2 then
      some { value := x.ovrow.extractLsb' 0 32, reads := open_, writes := open_, special := true
             store := fun v s => setTile t { tile s t with ovrow := (tile s t).ovrow &&& ~~~(v.setWidth 64) } s }
    else
      some { value := x.ovrow.extractLsb' 32 32, reads := open_, writes := open_, special := true
             store := fun v s => setTile t { tile s t with ovrow := (tile s t).ovrow &&& ~~~((v.setWidth 64) <<< 32) } s }
  else none

/-- Core control from 0x5700_0000. -/
def coreBlockReg (r : Req) (s : State) (off : Nat) : Option Reg :=
  let e := isEncl s r
  let k := s.cores
  if off = 0 then
    some { value := k.vbaseE, reads := e, writes := e
           store := fun v s => if baseOk s true v.toNat then { s with cores := { s.cores with vbaseE := v } } else s }
  else if off = 4 then
    some { value := k.vbaseC, reads := e, writes := e
           store := fun v s => if baseOk s false v.toNat then { s with cores := { s.cores with vbaseC := v } } else s }
  else if off = 8 then
    some { reads := e, writes := e, special := true, store := fun v => loadWrite (v.getLsbD 0) (v.getLsbD 1) }
  else if off = 0xC then
    some { value := flag (k.loadingE || k.loadingC) 2 ||| flag k.cValid 1 ||| flag k.eValid 0, reads := e, writes := e }
  else if off = 0x10 then
    some { reads := e, writes := isCore s r, special := true
           store := fun v => kickOp r (threadAt (bitsAt v 2 2) (bitsAt v 0 2)) }
  else if 0x1000 ≤ off ∧ off < 0x5000 then coreReg r s (Fin.ofNat 4 (off / 0x1000 - 1)) (off % 0x1000)
  else if 0x8000 ≤ off ∧ off < 0x8200 then tileReg r s (off - 0x8000)
  else none

end Sys2Proof.Machine
end

