-- ==== Sys2Proof/Machine/RegsDrill.lean ====
section
/-! DEFINITION. The tables of the drill, the books and the bays, and a bay's BAR0 (12, 17, 20). -/

namespace Sys2Proof.Machine

/-! ### Flows (R246, R275) -/

/-- The requester owns a flow: the bay it names, for which a thread may act (R373), or else the flow's world. -/
def ownsFlow (s : State) (r : Req) (f : Nat) : Bool :=
  let fl := flow s f
  if fl.bay = 0xFF then (if fl.world then isEncl s r else isCommons s r)
  else match r with
    | .bay b => decide (fl.bay.toNat = b.val)
    | .thread t => match actingBay s t with
      | none => false
      | some b => decide (fl.bay.toNat = b.val)
    | _ => false

def flowCfgWord (x : Flow) : Word :=
  flag x.en 31 ||| flag x.world 30 ||| flag x.ready 29 ||| fld x.kind 26 ||| fld x.prio 23 ||| fld x.cores 18 ||| fld x.weight 8 |||
    fld x.vec 0

/-- Tasks of a flow in some of the descriptor states. -/
def flowTasks (s : State) (f : Nat) (p : DescState → Bool) : Nat :=
  (s.drill.descs.filter fun q => decide (q.2.flow.toNat = f) && p q.2.st).length

def flowOccWord (s : State) (f : Nat) : Word :=
  BitVec.ofNat 32 (flowTasks s f (fun st => decide (st = .queued)) * 65536 +
    flowTasks s f fun st => decide (st = .transit ∨ st = .dispatched ∨ st = .releasing))

/-- The FLOW record of a flow is locked (R138). -/
def flowRecLocked (s : State) (f : Nat) : Bool := match seedFind s 0x05 2 f with
  | some e => e.lock
  | none => false

/-- A flow that can be tuned: configured, and not the fixed flow 4095 (R245). -/
def tunable (s : State) (f : Nat) : Bool := (flow s f).en && decide (f ≠ 4095)

/-- FLOW[f].CFG written (R246): KIND only while the flow holds no task; a level applies to the tasks that wait from the next
selection on. -/
def flowCfgWrite (r : Req) (a : Word) (f : Nat) (v : Word) (s : State) : State :=
  let x := flow s f
  let k := bitsAt v 26 2
  let y := { x with kind := orKeep (decide (k ≠ 3 ∧ creditsUsed s f = 0)) (BitVec.ofNat 2 k) x.kind
                    prio := BitVec.ofNat 3 (bitsAt v 23 3), cores := BitVec.ofNat 4 (bitsAt v 18 4)
                    weight := orKeep (decide (bitsAt v 8 8 ≠ 0)) (BitVec.ofNat 8 (bitsAt v 8 8)) x.weight
                    vec := BitVec.ofNat 6 (bitsAt v 0 6) }
  if !tunable s f then s
  else keepLocked r a (flowRecLocked s f) (decide ({ y with vec := x.vec } ≠ x)) s (notePeaks (setFlow s f y))

/-- FLOW[f].CREDIT written: a value below the flow's use takes effect as its tasks release. -/
def flowCreditWrite (r : Req) (a : Word) (f : Nat) (v : Word) (s : State) : State :=
  let x := flow s f
  let c := bitsAt v 16 11
  if !tunable s f || decide (c = 0 ∨ 1024 < c) then s
  else keepLocked r a (flowRecLocked s f) (decide (c ≠ x.credits.toNat)) s (pump f (setFlow s f { x with credits := BitVec.ofNat 11 c }))

/-- DRILL.FLOW[f], word `k`, met at address `a`. -/
def flowReg (r : Req) (a : Word) (s : State) (f k : Nat) : Reg :=
  let own := ownsFlow s r f
  let sees := own || isEncl s r
  let x := flow s f
  match k with
  | 0 => { value := flowCfgWord x, reads := sees, writes := own, store := flowCfgWrite r a f }
  | 1 => { value := fld x.credits 16 ||| BitVec.ofNat 32 (creditsUsed s f), reads := sees, writes := own, store := flowCreditWrite r a f }
  | 2 => { value := fld (if s.seed.applied then x.bay else 0) 24 ||| flag x.locked 21 ||| fld x.nextOrder 0, reads := sees, writes := own }
  | _ => { value := flowOccWord s f, reads := sees, writes := own }

/-! ### Timers (R273) -/

/-- A timer may name the flow: of its own world, no bay's, and with an operand index for it (R261, R273). -/
def timerFlowOk (s : State) (i : Fin 64) (f : Nat) : Bool :=
  let x := vget s.drill.timers i
  decide ((flow s f).bay = 0xFF) && ((flow s f).world == decide (32 ≤ i.val)) &&
    (decide (x.flow.toNat = f) || sourcesFit s f (if x.period = 0 then 0 else 1))

def timerCfgWrite (i : Fin 64) (v : Word) (s : State) : State :=
  let x := vget s.drill.timers i
  let f := bitsAt v 0 12
  let y := { x with periodic := v.getLsbD 30
                    flow := orKeep (!x.en && timerFlowOk s i f) (BitVec.ofNat 12 f) x.flow }
  let s := setTimer i y s
  if v.getLsbD 31 then startTimer i s else setTimer i { y with en := false } s

def timerReg (r : Req) (s : State) (i : Fin 64) (k : Nat) : Reg :=
  let own := ownsTimer s r i
  let x := vget s.drill.timers i
  match k with
  | 0 => { value := flag x.en 31 ||| flag x.periodic 30 ||| fld x.flow 0, reads := own, writes := own, store := timerCfgWrite i }
  | 1 =>
    { value := x.period, reads := own, writes := own
      store := fun v s =>
        let x := vget s.drill.timers i
        if x.en ∨ v = 0 ∨ (x.period = 0 ∧ ¬ sourcesFit s x.flow.toNat 1) then s else setTimer i { x with period := v } s }
  | 2 => { value := x.next, reads := own, writes := own }
  | _ =>
    { value := fld x.missed 0, reads := own, writes := own, special := true
      clear := fun s => setTimer i { vget s.drill.timers i with missed := 0 } s }

/-! ### The drill's own registers (R275) -/

def stsPair (hi lo : Nat) : Word := BitVec.ofNat 32 (hi * 65536 + lo)

def drillStsWord (s : State) (k : Nat) : Word :=
  let c := countDesc s
  if k = 0 then stsPair ((descTerms s).getD 0 0) (c .queued)
  else if k = 1 then stsPair (c .matching) (c .dispatched)
  else stsPair (c .releasing) (c .transit)

def mstsWord (s : State) : Word :=
  let t := entryTerms s
  BitVec.ofNat 32 (t.getD 0 0 * 2 ^ 20 + t.getD 1 0 * 2 ^ 10 + t.getD 2 0)

/-- The registers below offset 0x800. -/
def drillTopReg (r : Req) (s : State) (off : Nat) : Option Reg :=
  let e := isEncl s r
  let both := isCore s r
  let d := s.drill
  if off ≤ 8 then some { value := drillStsWord s (off / 4), reads := both, writes := false }
  else if off = 0x10 then some { value := timeLo s, reads := both, writes := false, latch := latchTime r }
  else if off = 0x14 then some { value := (shadowOf s r).timeHi, reads := both, writes := false }
  else if off = 0x18 then
    some { value := fld d.ageUs 0, reads := e, writes := e
           store := fun v s => { s with drill := { s.drill with ageUs := v.setWidth 16 } } }
  else if off = 0x1C then
    some { value := fld d.winMs 0, reads := e, writes := e
           store := fun v s => if bitsAt v 0 8 = 0 then s else { s with drill := { s.drill with winMs := v.setWidth 8 } } }
  else if h : 0x20 ≤ off ∧ off < 0x40 then
    let p : Fin 8 := ⟨(off - 0x20) / 4, by omega⟩
    some { value := stsPair (vget d.peak p).toNat (depthAt s (BitVec.ofNat 3 p.val)), reads := both, writes := false, special := true
           clear := fun s => { s with drill := { s.drill with peak := vset s.drill.peak p 0 } } }
  else if h : 0x40 ≤ off ∧ off < 0x50 then
    some { value := fld (vget d.load (⟨(off - 0x40) / 4, by omega⟩ : Fin 4)) 0, reads := both, writes := false }
  else if h : 0x50 ≤ off ∧ off < 0x90 then
    some { value := fld (vget d.tload (⟨(off - 0x50) / 4, by omega⟩ : Fin 16)) 0, reads := both, writes := false }
  else if off = 0x90 then some { value := mstsWord s, reads := both, writes := false }
  else if off = 0x94 then
    some { value := fld d.timeouts 16 ||| fld d.duplicates 0, reads := both, writes := false, special := true
           clear := fun s => { s with drill := { s.drill with timeouts := 0, duplicates := 0 } } }
  else if off = 0x98 then
    some { reads := e, writes := e, special := true, store := fun v s => if v.getLsbD 0 then clearHist s else s }
  else if 0x100 ≤ off ∧ off < 0x300 then some { value := tabGet 0 d.hist ((off - 0x100) / 4), reads := both, writes := false }
  else none

/-! ### The books and SHED (R457) -/

def shedReg (r : Req) (s : State) (f k : Nat) : Reg :=
  let sees := (isCore s r && ownsFlow s r f) || isEncl s r
  let x := tabGet {} s.drill.shed f
  if k = 0 then
    { value := x.refused, reads := sees, writes := false, special := true
      clear := fun s => { s with drill := { s.drill with shed := tabPut {} s.drill.shed f { tabGet {} s.drill.shed f with refused := 0 } } } }
  else { value := flag x.overload 31 ||| flag x.shedding 30 ||| fld x.run 0, reads := sees, writes := false }

/-- A word of the results: DESC, MENT, KSLOT, FLOW, CELLS, BAY and EXCESS. -/
def isBookResult (off : Nat) : Bool :=
  decide ((0x60010 ≤ off ∧ off < 0x60028) ∨ (0x60030 ≤ off ∧ off < 0x60050) ∨ (0x80000 ≤ off ∧ off < 0x90800) ∨
    (0x91000 ≤ off ∧ off < 0x96000))

def booksReg (r : Req) (s : State) (off : Nat) : Option Reg :=
  let e := isEncl s r
  let both := isCore s r
  if off = 0x60000 then
    some { reads := e, writes := e, special := true, store := fun v s => if v.getLsbD 0 then startSnapshot s else s }
  else if off = 0x60004 then some { value := booksSts s.books, reads := both, writes := false }
  else if off = 0x60008 then some { value := s.books.time, reads := both, writes := false }
  else if isBookResult off then some { value := tabGet 0 s.books.shown (off / 4), reads := both, writes := false }
  else none

/-- The drill's registers from 0x5000_0000, the data areas apart. -/
def drillReg (r : Req) (s : State) (off : Nat) : Option Reg :=
  if off < 0x800 then drillTopReg r s off
  else if h : 0x800 ≤ off ∧ off < 0xC00 then some (timerReg r s ⟨(off - 0x800) / 16, by omega⟩ (off % 16 / 4))
  else if 0x10000 ≤ off ∧ off < 0x20000 then
    some (flowReg r (BitVec.ofNat 32 (0x50000000 + off)) s ((off - 0x10000) / 16) (off % 16 / 4))
  else if 0x50000 ≤ off ∧ off < 0x58000 then some (shedReg r s ((off - 0x50000) / 8) (off % 8 / 4))
  else booksReg r s off

/-! ### Task records (R249, R262, R497) -/

/-- A descriptor's 64 bytes. -/
def descBytes (s : State) (d : Fin 1024) : List Byte :=
  let x := desc s d
  let flags := bit x.expired + 2 * bit x.partial_ + 4 * bit x.solo + 8 * bit x.aged + 16 * bit x.missed
  leBytes 2 x.flow.toNat ++ [x.src, BitVec.ofNat 8 flags] ++ leBytes 2 d.val ++ leBytes 2 x.order.toNat ++
    leBytes 4 x.arrival.toNat ++ leBytes 4 x.deadline.toNat ++ [x.opmask.setWidth 8, x.level.setWidth 8] ++
    leBytes 2 x.entry.toNat ++ leBytes 2 x.tag.toNat ++ [x.thread.setWidth 8, x.bay] ++ bytesOf x.payload 0 40

/-- An entry's four operand cells. -/
def entryBytes (s : State) (e : Nat) : List Byte := (entry s e).cells.toList.flatMap fun c => bytesOf c 0 32

/-- The task that a requester sees at DRILL.SELF. -/
def selfTask (s : State) (r : Req) : Option (Fin 1024) := match r with
  | .thread t => (thr s t).task
  | _ => none

def isThread (r : Req) : Bool := match r with
  | .thread _ => true
  | _ => false

/-- The drill's data areas: the record met at an offset, the offset in it, and whether the requester may read it. -/
def drillData (r : Req) (s : State) (off : Nat) : Option (List Byte × Nat × Bool) :=
  if 0x20000 ≤ off ∧ off < 0x30000 then some (descBytes s (Fin.ofNat 1024 ((off - 0x20000) / 64)), off % 64, isEncl s r)
  else if 0x30000 ≤ off ∧ off < 0x40000 then some (entryBytes s ((off - 0x30000) / 128), off % 128, isEncl s r)
  else if 0x40000 ≤ off ∧ off < 0x40040 then
    some ((match selfTask s r with
      | none => []
      | some d => descBytes s d), off - 0x40000, isThread r)
  else if 0x40040 ≤ off ∧ off < 0x400C0 then
    some ((match selfTask s r with
      | none => []
      | some d => if (desc s d).entry = 0xFFFF then [] else entryBytes s (desc s d).entry.toNat), off - 0x40040, isThread r)
  else none

/-! ### The bays' registers in the module (R393 to R399) -/

def slotCtlWord (x : BayState) : Word :=
  flag x.wakeEn 7 ||| flag x.btnAct 6 ||| flag x.autoOff 5 ||| flag x.autoOn 4 ||| flag x.pwr 3 ||| fld x.ind 0

def slotCtlWrite (b : Bay) (v : Word) (s : State) : State :=
  let x := bay s b
  let i := bitsAt v 0 3
  let s := setBay s b { x with wakeEn := v.getLsbD 7, btnAct := v.getLsbD 6, autoOff := v.getLsbD 5, autoOn := v.getLsbD 4
                               ind := orKeep (decide (i < 5)) (BitVec.ofNat 3 i) x.ind }
  if v.getLsbD 3 = x.pwr then s else setPwr b (v.getLsbD 3) s

def slotStsWord (s : State) (b : Bay) : Word :=
  let x := bay s b
  flag (linkUpNow x) 9 ||| flag x.quiesced 8 ||| flag x.btnPend 7 ||| flag x.present 6 ||| flag (bayOut s b).on 5 |||
    flag x.dllsc 4 ||| flag x.pdc 3 ||| flag x.abp 2 ||| flag x.pfault 1 ||| flag (bayOut s b).shed 0

def slotStsWrite (b : Bay) (v : Word) (s : State) : State :=
  let x := bay s b
  setBay s b { x with dllsc := x.dllsc && !v.getLsbD 4, pdc := x.pdc && !v.getLsbD 3, abp := x.abp && !v.getLsbD 2
                      pfault := x.pfault && !v.getLsbD 1 }

/-- A read of NOTIFY_GO by a thread queues its notice (R383). -/
def notifyReg (r : Req) (s : State) (b : Bay) (both : Bool) : Reg := match r with
  | .thread t => { value := (notifyRead t b s).1, reads := both, writes := both, latch := fun s => (notifyRead t b s).2 }
  | _ => { reads := both, writes := both }

/-- BAY[b]'s registers. -/
def bayReg (r : Req) (s : State) (b : Bay) (off : Nat) : Option Reg :=
  let both := isCore s r
  let x := bay s b
  if off = 0 then some { value := slotCtlWord x, reads := both, writes := both, store := slotCtlWrite b }
  else if off = 4 then some { value := slotStsWord s b, reads := both, writes := both, special := true, store := slotStsWrite b }
  else if off = 8 then
    some { value := fld x.cause 28 ||| fld x.resets 16 ||| flag x.perst 8 ||| fld x.speed 4 ||| fld x.link 0, reads := both, writes := both
           special := true, clear := fun s => setBay s b { bay s b with resets := 0 } }
  else if off = 0xC then
    some { value := flag x.dmaErr 31 ||| fld x.busys 16 ||| BitVec.ofNat 32 (slotsUsed x), reads := both, writes := both, special := true
           clear := fun s => setBay s b { bay s b with busys := 0 }
           store := fun v s => setBay s b { bay s b with dmaErr := (bay s b).dmaErr && !v.getLsbD 31 } }
  else if off = 0x10 then
    some { value := fld x.ltrSent 16 ||| fld x.ltrLast 0, reads := both, writes := both, special := true
           clear := fun s => setBay s b { bay s b with ltrSent := 0 } }
  else if off = 0x20 then
    some { value := x.notifyLo, reads := both, writes := both, store := fun v s => setBay s b { bay s b with notifyLo := v } }
  else if off = 0x24 then
    some { value := x.notifyHi, reads := both, writes := both, store := fun v s => setBay s b { bay s b with notifyHi := v } }
  else if off = 0x28 then
    some { value := fld x.notifyCq 16 ||| fld x.notifyTag 0, reads := both, writes := both
           store := fun v s => setBay s b { bay s b with notifyCq := BitVec.ofNat 4 (bitsAt v 16 4), notifyTag := v.setWidth 16 } }
  else if off = 0x2C then some (notifyReg r s b both)
  else none

/-- The bays' block from 0x5300_0000, BAY.TRESULT apart. -/
def bayBlockReg (r : Req) (s : State) (off : Nat) : Option Reg :=
  if h : off < 0x40000 then bayReg r s ⟨off / 0x10000, by omega⟩ (off % 0x10000) else none

/-- BAY.TRESULT[t] at an offset of the bays' block: the thread, and the byte in its register. -/
def tresultAt (off : Nat) : Option (Thread × Nat) :=
  if h : 0x40000 ≤ off ∧ off < 0x40080 then some (⟨(off - 0x40000) / 8, by omega⟩, off % 8) else none

/-! ### A bay's BAR0 (R370, R374, R375, R387, R399) -/

def hbStsWord (s : State) (b : Bay) : Word :=
  flag (bay s b).quiescing 1 ||| flag (decide (s.sys.mode = Mode.lockdown)) 0

/-- SQ CTL written: the settings only while EN is 0; EN sets only beside an enabled CQ. -/
def sqCtlWrite (b : Bay) (q : Fin 16) (v : Word) (s : State) : State :=
  let x := sqOf s b q
  let en := v.getLsbD 31
  if x.en then setSq b q { x with en := en } s
  else
    let o := bitsAt v 16 8
    let z := bitsAt v 0 11
    let y := { x with cqid := BitVec.ofNat 4 (bitsAt v 24 4)
                      owner := orKeep (decide (o = 0xFF) || bayHasOwner s b o) (BitVec.ofNat 8 o) x.owner
                      size := orKeep (decide (2 ≤ z ∧ z ≤ 1024)) (BitVec.ofNat 11 z) x.size }
    let y := { y with en := en && (cqOf s b y.cqid.toFin).en }
    pumpFetch b (setSq b q y s)

/-- CQ CTL written: EN does not clear while an enabled SQ names the CQ; EN sets for a first pass from entry 0, with PHASE 1
(R382; log entry 130). -/
def cqCtlWrite (b : Bay) (q : Fin 16) (v : Word) (s : State) : State :=
  let x := cqOf s b q
  let en := v.getLsbD 31
  if x.en then
    let named := (bay s b).sq.toList.any fun y => y.en && decide (y.cqid.toNat = q.val)
    setCq b q { x with en := en || named } s
  else
    let z := bitsAt v 0 11
    let y := { x with en := en, ien := v.getLsbD 30, vec := BitVec.ofNat 5 (bitsAt v 16 5)
                      size := orKeep (decide (2 ≤ z ∧ z ≤ 1024)) (BitVec.ofNat 11 z) x.size }
    pumpFetch b (setCq b q (if en then { y with phase := true, tail := 0, head := 0 } else y) s)

def sqReg (b : Bay) (s : State) (q : Fin 16) (k : Nat) : Option Reg :=
  let x := sqOf s b q
  match k with
  | 0 => some { value := x.base.extractLsb' 0 32
                store := fun v s =>
                  let x := sqOf s b q
                  if x.en ∨ v.toNat % 64 ≠ 0 then s else setSq b q { x with base := setBits x.base 0 32 v.toNat } s }
  | 1 => some { value := x.base.extractLsb' 32 32
                store := fun v s =>
                  let x := sqOf s b q
                  if x.en then s else setSq b q { x with base := setBits x.base 32 32 v.toNat } s }
  | 2 => some { value := flag x.en 31 ||| fld x.cqid 24 ||| fld x.owner 16 ||| fld x.size 0, store := sqCtlWrite b q }
  | 3 => some { value := flag x.err 31 ||| fld x.head 0, special := true
                store := fun v s => setSq b q { sqOf s b q with err := (sqOf s b q).err && !v.getLsbD 31 } s }
  | _ => none

def cqReg (b : Bay) (s : State) (q : Fin 16) (k : Nat) : Option Reg :=
  let x := cqOf s b q
  match k with
  | 0 => some { value := x.base.extractLsb' 0 32
                store := fun v s =>
                  let x := cqOf s b q
                  if x.en ∨ v.toNat % 16 ≠ 0 then s else setCq b q { x with base := setBits x.base 0 32 v.toNat } s }
  | 1 => some { value := x.base.extractLsb' 32 32
                store := fun v s =>
                  let x := cqOf s b q
                  if x.en then s else setCq b q { x with base := setBits x.base 32 32 v.toNat } s }
  | 2 => some { value := flag x.en 31 ||| flag x.ien 30 ||| fld x.vec 16 ||| fld x.size 0, store := cqCtlWrite b q }
  | 3 => some { value := flag x.phase 16 ||| fld x.tail 0 }
  | _ => none

def setVec (b : Bay) (v : Fin 32) (x : Vec) (s : State) : State :=
  let y := bay s b
  setBay s b { y with vecs := vset y.vecs v x }

/-- An MSI-X table entry's dword. -/
def vecReg (b : Bay) (s : State) (v : Fin 32) (k : Nat) : Reg :=
  let x := vget (bay s b).vecs v
  match k with
  | 0 => { value := x.addr.extractLsb' 0 32
           store := fun w s =>
             let x := vget (bay s b).vecs v
             setVec b v { x with addr := setBits x.addr 0 32 w.toNat } s }
  | 1 => { value := x.addr.extractLsb' 32 32
           store := fun w s =>
             let x := vget (bay s b).vecs v
             setVec b v { x with addr := setBits x.addr 32 32 w.toNat } s }
  | 2 => { value := x.data, store := fun w s => setVec b v { vget (bay s b).vecs v with data := w } s }
  | _ => { value := flag x.mask 0
           store := fun w s => if w.getLsbD 0 then setVec b v { vget (bay s b).vecs v with mask := true } s else unmaskVec b v s }

def pendingWord (s : State) (b : Bay) : Word :=
  BitVec.ofNat 32 ((fins 32).foldl (fun w v => w + bit (vget (bay s b).vecs v).pending * 2 ^ v.val) 0)

/-- BAR0 below 0x8000; the channel of HB.CHSEL lies above. -/
def hbReg (b : Bay) (s : State) (off : Nat) : Option Reg :=
  let x := bay s b
  if off = 0 then some { value := BitVec.ofNat 32 (flowBase s b * 65536 + flowCount s b) }
  else if off = 4 then some { value := sysModeWord s }
  else if off = 8 then
    some { value := flag x.evtIen 8 ||| fld x.evtVec 0
           store := fun v s => setBay s b { bay s b with evtIen := v.getLsbD 8, evtVec := BitVec.ofNat 5 (bitsAt v 0 5) } }
  else if off = 0xC then some { value := hbStsWord s b }
  else if off = 0x10 then
    some { value := fld x.chsel 0, store := fun v s => setBay s b { bay s b with chsel := BitVec.ofNat 7 (bitsAt v 0 7) } }
  else if h : 0x100 ≤ off ∧ off < 0x300 then sqReg b s ⟨(off - 0x100) / 0x20, by omega⟩ (off % 0x20 / 4)
  else if h : 0x400 ≤ off ∧ off < 0x600 then cqReg b s ⟨(off - 0x400) / 0x20, by omega⟩ (off % 0x20 / 4)
  else if h : 0x1000 ≤ off ∧ off < 0x1080 then
    let q : Fin 16 := ⟨(off - 0x1000) / 8, by omega⟩
    some { special := true
           store := fun v => if off % 8 = 0 then sqDoorbellOp b q (BitVec.ofNat 10 (bitsAt v 0 10))
                             else cqDoorbellOp b q (BitVec.ofNat 10 (bitsAt v 0 10)) }
  else if h : 0x2000 ≤ off ∧ off < 0x2200 then some (vecReg b s ⟨(off - 0x2000) / 16, by omega⟩ (off % 16 / 4))
  else if off = 0x2800 then some { value := pendingWord s b }
  else if 0x4000 ≤ off ∧ off < 0x4000 + 16 * flowCount s b then
    some (flowReg (.bay b) (BitVec.ofNat 32 off) s (flowBase s b + (off - 0x4000) / 16) (off % 16 / 4))
  else none

/-- A configuration dword written by the host (R368, R369): its writable bits; a change of MSI-X control lets pending
messages go (R387). -/
def cfgWrite (b : Bay) (off : Nat) (v : Word) (s : State) : State :=
  let m := cfgMask off
  let x := bay s b
  let w := (cfgHeld s b off &&& ~~~m &&& ~~~(v &&& cfgSticky off)) ||| (v &&& m)
  let s := setBay s b { x with cfg := tabPut (cfgReset off) x.cfg off w }
  if off = 0x90 then (fins 32).foldl (fun s k => releaseVec b k s) s else s

end Sys2Proof.Machine
end

