-- ==== Sys2Proof/Machine/Access.lean ====
section
/-! DEFINITION. A read and a write of the address map by any requester: the map, the guard, the block's own rule, the
widths and the effects (01, 15, 23); and the row of a register write without a row of its own. -/

namespace Sys2Proof.Machine

/-- Bytes `lo` upward of a word, `n` of them. -/
def narrow (w : Word) (lo n : Nat) : Word := BitVec.ofNat 32 (w.toNat / 2 ^ (8 * lo) % 2 ^ (8 * n))

/-- The word with `n` bytes at `lo` replaced. -/
def widen (old : Word) (lo n : Nat) (v : Word) : Word := setBits old (8 * lo) (8 * n) v.toNat

/-- `n` bytes of a record from an offset, zero beyond its end. -/
def recordWord (bs : List Byte) (off n : Nat) : Word := ofBytes 32 ((bs.drop off).take n)

/-! ### Registers (R497, R498) -/

/-- A read of a listed register. -/
def readReg (r : Req) (a : Word) (w : Width) (x : Reg) (s : State) : Word × State :=
  if !x.reads then (0, violate r .block a false s)
  else
    match w with
    | .word => (x.value, x.clear (x.latch s))
    | _ => (narrow x.value (a.toNat % 4) w.bytes, x.latch s)

/-- A write of a listed register. -/
def writeReg (r : Req) (a : Word) (w : Width) (v : Word) (x : Reg) (s : State) : State :=
  if !x.writes then violate r .block a true s
  else
    match w with
    | .word => x.store v s
    | _ => if x.special then s else x.store (widen x.value (a.toNat % 4) w.bytes v) s

/-- The register at an address above 0x5000_0000, if a chapter lists one (R496, R501). -/
def regAt (r : Req) (s : State) (a : Nat) : Option Reg :=
  let off := a % 0x1000000 / 4 * 4
  match a / 0x1000000 with
  | 0x50 => drillReg r s off
  | 0x51 => grnReg r s off
  | 0x52 => ldgReg r s off
  | 0x53 => bayBlockReg r s off
  | 0x54 => sysReg r s off
  | 0x55 => bkpReg r s off
  | 0x56 => if off < 0x3000 then guardReg r s off else worldReg r s off
  | 0x57 => coreBlockReg r s off
  | 0x58 => hldReg r s off
  | 0x5F => fuseReg r s off
  | _ => none

/-! ### Channels and their buffers (R168, R169, R181, R182) -/

def chanOf (a : Nat) : Chan := Fin.ofNat 128 (a / 0x1000)

/-- A read in a channel's register block: its owner, a bay's share included, and the Enclosure. -/
def readChan (r : Req) (n : Chan) (off : Nat) (a : Word) (w : Width) (s : State) : Word × State :=
  if !(ownsChannel s r (headOf s n) || isEncl s r) then (0, violate r .block a false s)
  else if isRetired s n then (0, violate r .retired a false s)
  else
    let v := chanValue s n (off / 4 * 4)
    match w with
    | .word => (v, chanReadEffect n off s)
    | _ => (narrow v (off % 4) w.bytes, s)

/-- A write in a channel's register block: its owner alone. -/
def writeChan (r : Req) (n : Chan) (off : Nat) (a : Word) (w : Width) (v : Word) (s : State) : State :=
  let at4 := off / 4 * 4
  if !ownsChannel s r (headOf s n) then violate r .block a true s
  else if isRetired s n then violate r .retired a true s
  else if isChanData off then
    let s' := chanData n off (bytesOf v 0 w.bytes) s
    if chanLocked s s' n then violate r .locked a true s else s'
  else
    match w with
    | .word => chanWriteOp r n off v s
    | _ => if chanSpecial s n at4 then s else chanWriteOp r n at4 (widen (chanValue s n at4) (off % 4) w.bytes v) s

/-- A read of a channel's cells: receive cells, then transmit cells; the owner alone. -/
def readCells (r : Req) (n : Chan) (off : Nat) (a : Word) (w : Width) (s : State) : Word × State :=
  let c := chan s n
  if !ownsChannel s r n then (0, violate r .block a false s)
  else if isRetired s n then (0, violate r .retired a false s)
  else
    let d := if off < 0x800 then tabGet 0 c.rx.data (off / 64) else tabGet 0 c.tx.data ((off - 0x800) / 64)
    (recordWord (bytesOf d (off % 64) w.bytes) 0 w.bytes, s)

/-- A write of a channel's transmit cells by its owner; software does not write receive cells. -/
def writeCells (r : Req) (n : Chan) (off : Nat) (a : Word) (w : Width) (v : Word) (s : State) : State :=
  let c := chan s n
  if !ownsChannel s r n then violate r .block a true s
  else if isRetired s n then violate r .retired a true s
  else if off < 0x800 then s
  else
    let k := (off - 0x800) / 64
    setChan s n { c with tx := { c.tx with data := tabPut 0 c.tx.data k (setBytes (tabGet 0 c.tx.data k) (off % 64) (bytesOf v 0 w.bytes)) } }

/-! ### Blocks above 0x5000_0000 -/

/-- A read of a register block: a data area, BAY.TRESULT, a listed register, or zero. -/
def readBlock (r : Req) (a : Word) (w : Width) (s : State) : Word × State :=
  let off := a.toNat % 0x1000000
  let data := if a.toNat / 0x1000000 = 0x50 then drillData r s off else none
  let res := if a.toNat / 0x1000000 = 0x53 then tresultAt off else none
  match data, res with
  | some (bs, k, ok), _ => if ok then (recordWord bs k w.bytes, s) else (0, violate r .block a false s)
  | none, some (t, k) =>
    if r = .thread t then (recordWord (bytesOf (thr s t).result k w.bytes) 0 w.bytes, s) else (0, violate r .block a false s)
  | none, none =>
    match regAt r s a.toNat with
    | none => (0, s)
    | some x => readReg r a w x s

/-- A write of a register block. -/
def writeBlock (r : Req) (a : Word) (w : Width) (v : Word) (s : State) : State :=
  let off := a.toNat % 0x1000000
  let data := if a.toNat / 0x1000000 = 0x50 then drillData r s off else none
  let res := if a.toNat / 0x1000000 = 0x53 then tresultAt off else none
  match data, res with
  | some _, _ => violate r .block a true s
  | none, some (t, k) =>
    if r = .thread t then setThr s t { thr s t with result := setBytes (thr s t).result k (bytesOf v 0 w.bytes) }
    else violate r .block a true s
  | none, none =>
    match regAt r s a.toNat with
    | none => s
    | some x => writeReg r a w v x s

/-! ### The address map (R333, R335, R494, R495) -/

/-- What the mask ROM reads: its content, which the manual does not give, until handover, and zero after it (R115). -/
def romWord (s : State) (a : Nat) : Word := if s.boot.romLocked then 0 else BitVec.ofNat 32 (Config.free 3 (a / 4))

/-- A read of `w` bytes at an aligned address. -/
def accessRead (r : Req) (a : Word) (w : Width) (s : State) : Word × State :=
  let n := a.toNat
  if !mapped n then (0, violate r .block a false s)
  else if n ≤ 0x7FFF then (narrow (romWord s n) (n % 4) w.bytes, s)
  else if !guardLets s r permR n w.bytes then (0, violate r .guard a false s)
  else if inFlash n w.bytes then (ofBytes 32 (flashRead s n w.bytes), s)
  else if inSram n w.bytes then (ofBytes 32 (sramRead s n w.bytes), s)
  else if n < 0x40080000 then readChan r (chanOf (n - 0x40000000)) (n % 0x1000) a w s
  else if n < 0x50000000 then readCells r (chanOf (n - 0x40100000)) (n % 0x1000) a w s
  else readBlock r a w s

/-- A write of `w` bytes at an aligned address; a store to flash that the guard passes changes nothing (R502). -/
def accessWrite (r : Req) (a : Word) (w : Width) (v : Word) (s : State) : State :=
  let n := a.toNat
  if !mapped n then violate r .block a true s
  else if n ≤ 0x7FFF then s
  else if !guardLets s r permW n w.bytes then violate r .guard a true s
  else if inFlash n w.bytes then s
  else if inSram n w.bytes then
    match r with
    | .thread t => coreWrite t n (bytesOf v 0 w.bytes) s
    | _ => sramWrite n (bytesOf v 0 w.bytes) s
  else if n < 0x40080000 then writeChan r (chanOf (n - 0x40000000)) (n % 0x1000) a w v s
  else if n < 0x50000000 then writeCells r (chanOf (n - 0x40100000)) (n % 0x1000) a w v s
  else writeBlock r a w v s

/-! ### A host's registers (R370, R373) -/

/-- The window at 0x8000 on the channel of HB.CHSEL: another's channel is silent. -/
def hbChanWrite (b : Bay) (off : Nat) (a v : Word) (s : State) : State :=
  let n : Chan := (bay s b).chsel.toFin
  if bayHasChannel s b n.val then writeChan (.bay b) n (off - 0x8000) a .word v s else violate (.bay b) .bay a true s

/-- A host's read of one DW of BAR0, with the effects of its fields (R6). -/
def hbRead (b : Bay) (off : Nat) (s : State) : Word × State :=
  let a := BitVec.ofNat 32 off
  if 0x8000 ≤ off ∧ off < 0x9000 then
    let n : Chan := (bay s b).chsel.toFin
    if bayHasChannel s b n.val then readChan (.bay b) n (off - 0x8000) a .word s else (0, violate (.bay b) .bay a false s)
  else match hbReg b s off with
    | none => (0, s)
    | some x => readReg (.bay b) a .word x s

/-- What a host's read of BAR0 returns: one or two aligned DW; any other request, and in Lockdown any but HB.MODE's,
is silent. -/
def hbReadOp (b : Bay) (off len : Nat) (s : State) : List Byte × State :=
  let a := BitVec.ofNat 32 off
  let zeros := List.replicate len 0
  if s.sys.mode = Mode.lockdown ∧ ¬ (off = 4 ∧ len = 4) then (zeros, violate (.bay b) .block a false s)
  else if ¬ (len = 4 ∨ len = 8) ∨ off % len ≠ 0 then (zeros, violate (.bay b) .block a false s)
  else
    let (v, s) := hbRead b off s
    if len = 4 then (bytesOf v 0 4, s)
    else
      let (w, s) := hbRead b (off + 4) s
      (bytesOf v 0 4 ++ bytesOf w 0 4, s)

/-- A configuration dword as the host reads it (R368, R369). -/
def hostCfgWord (s : State) (b : Bay) (off : Nat) : Word := cfgHeld s b off ||| cfgFixed s b off

/-- A host's read of BAR0 or of configuration space, and its completion (R370, R373 › Edges; log entry 98). -/
def hostRead (b : Bay) (config : Bool) (attr : TlpAttr) (off len : Nat) (s : State) : State :=
  if !linkCarries s b || !mainOn s then s
  else
    let s := qPass (98 + b.val) s
    let (bs, s) := if config then ((bytesOf (hostCfgWord s b (off / 4 * 4)) (off % 4) 4).take len, s) else hbReadOp b off len s
    sendReply b attr (maxPayload s b) (len / 128 + 1) bs s

/-- BAR2_ACCESS (R371), and a host's reads of BAR0 and of configuration space; in Lockdown a read of the window
returns zero. -/
def execBar2Access (b : Bay) (req : HostReq) (off : BitVec 20) (len : Nat) (data : List Byte) (s : State) :
    Host.Outcome State Fault Refusal :=
  let attr := req.attr
  .next (match req.space with
  | .window =>
    if hostReaches s b then bar2Op b req.write attr off.toNat len data s
    else
      let s' := lockRefuses b (BitVec.ofNat 32 (winBase s b + off.toNat)) req.write s
      if req.write || !linkCarries s b || decide (s.sys.mode ≠ Mode.lockdown) then s'
      else sendReply b attr (maxPayload s b) (len / 128 + 1) (List.replicate len 0) s'
  | .registers => hostRead b false attr off.toNat len s
  | .config => hostRead b true attr off.toNat len s)

/-- A host's write of one DW: configuration space from 0x1_0000 up, BAR0 below. -/
def hostWrite (b : Bay) (a : Word) (w : Width) (v : Word) (s : State) : State :=
  let off := a.toNat
  if !linkCarries s b || !mainOn s then s
  else if 0x10000 ≤ off then
    if 0x11000 ≤ off then s
    else
      let k := (off - 0x10000) / 4 * 4
      cfgWrite b k (widen (cfgHeld s b k) (off % 4) w.bytes v) s
  else if s.sys.mode = Mode.lockdown then lockRefuses b a true s
  else if w ≠ .word then violate (.bay b) .block a true s
  else
    let s := if 0x1000 ≤ off ∧ off < 0x1080 then s else qPass (98 + b.val) s
    if 0x8000 ≤ off ∧ off < 0x9000 then hbChanWrite b off a v s
    else match hbReg b s off with
      | none => s
      | some x => writeReg (.bay b) a .word v x s

/-- The Headland and the TAP write under POKE of the granted set (R486, R492). -/
def writerOpen (s : State) (r : Req) : Bool := !debugPort r || scopeHas s 1

/-- A write by any requester at an aligned address. -/
def registerWriteOp (r : Req) (a : Word) (w : Width) (v : Word) (s : State) : State :=
  if a.toNat % w.bytes ≠ 0 then s
  else match r with
    | .bay b => hostWrite b a w v s
    | r => if mainOn s && writerOpen s r then accessWrite r a w v s else s

/-- REGISTER_WRITE (R6, R8, R139, R333 to R335, R494 to R498). -/
def execRegisterWrite (r : Req) (addr : Word) (width : Width) (value : Word) (s : State) : Host.Outcome State Fault Refusal :=
  .next (registerWriteOp r addr width value s)

end Sys2Proof.Machine
end

