-- ==== Sys2Proof/Machine/Flags.lean ====
section
/-! DEFINITION. The condition flags (R298) and the conditions of Bcc (R309). -/

namespace Sys2Proof.Machine

/-- The signed subtraction overflows. -/
def subOverflows (a b : Word) : Bool := decide (a.toInt - b.toInt ≠ (a - b).toInt)

/-- FLAGS from a − b (R298): Z in bit 0, N in bit 1, C in bit 2, V in bit 3. -/
def cmpFlags (a b : Word) : BitVec 4 :=
  BitVec.ofNat 4 (bit (decide (a = b)) + 2 * bit ((a - b).msb) + 4 * bit (decide (b.toNat ≤ a.toNat)) + 8 * bit (subOverflows a b))

/-- The condition of a COND code holds on FLAGS (R309); 15 is no condition. -/
def condHolds (f : BitVec 4) (cond : BitVec 4) : Bool :=
  let z := f.getLsbD 0
  let n := f.getLsbD 1
  let c := f.getLsbD 2
  let v := f.getLsbD 3
  match cond.toNat with
  | 0 => z
  | 1 => !z
  | 2 => n != v
  | 3 => n == v
  | 4 => !c
  | 5 => c
  | 6 => !z && (n == v)
  | 7 => z || (n != v)
  | 8 => c && !z
  | 9 => !c || z
  | 10 => n
  | 11 => !n
  | 12 => v
  | 13 => !v
  | 14 => true
  | _ => false

end Sys2Proof.Machine
end

