-- ==== Sys2Proof/Machine/Operands.lean ====
section
/-! DEFINITION. Operand forms of the core instructions: immediates, addresses and targets (R299, R302, R306, R309, R310);
the arithmetic of the ALU, multiply and divide groups (R303 to R305). -/

namespace Sys2Proof.Machine

/-! ### Immediates and addresses -/

/-- imm16 as a signed number (R302). -/
def simm (i : Half) : Word := i.signExtend 32
/-- imm16 as an unsigned number (R302). -/
def zimm (i : Half) : Word := i.setWidth 32
/-- The effective address of a load or store (R306). -/
def effAddr (s : State) (t : Thread) (rs1 : Gpr) (imm : Half) : Word := gpr s t rs1 + simm imm
/-- The target of an offset that counts instructions from the branch itself (R300). -/
def branchTarget {n : Nat} (pc : Word) (off : BitVec n) : Word := pc + off.signExtend 32 * 4
/-- The address is a multiple of the access's width (R306). -/
def aligned (a : Word) (w : Width) : Bool := decide (a.toNat % w.bytes = 0)

/-! ### Loaded values (R306) -/

/-- A byte or halfword read, sign-extended. -/
def signExt (w : Width) (v : Word) : Word := match w with
  | .byte => (v.setWidth 8).signExtend 32
  | .half => (v.setWidth 16).signExtend 32
  | .word => v

/-! ### Arithmetic -/

def b2w (b : Bool) : Word := BitVec.ofNat 32 (bit b)
def slt (a b : Word) : Bool := decide (a.toInt < b.toInt)
def ult (a b : Word) : Bool := decide (a.toNat < b.toNat)
/-- A shift amount: bits 4:0 (R303). -/
def shamt (b : Word) : Nat := b.toNat % 32

/-- Leading zeros among the lowest `k` bits. -/
def leadingZeros (a : Word) : Nat → Nat
  | 0 => 0
  | k + 1 => if a.getLsbD k then 0 else leadingZeros a k + 1

/-- Set bits among the lowest `k`. -/
def setBitsOf (a : Word) : Nat → Nat
  | 0 => 0
  | k + 1 => bit (a.getLsbD k) + setBitsOf a k

def byteSwap (a : Word) : Word :=
  (a.extractLsb' 0 8) ++ (a.extractLsb' 8 8) ++ (a.extractLsb' 16 8) ++ (a.extractLsb' 24 8)

/-- The high 32 bits of the signed product (R304). -/
def mulHigh (a b : Word) : Word := BitVec.ofInt 32 ((a.toInt * b.toInt) / (2 ^ 32 : Int))
/-- The high 32 bits of the unsigned product (R304). -/
def mulHighU (a b : Word) : Word := BitVec.ofNat 32 (a.toNat * b.toNat / 2 ^ 32)

/-- Quotients and remainders rounded toward zero; a divisor of zero gives 0 and the dividend (R304, R305). -/
def divS (a b : Word) : Word := BitVec.ofInt 32 (a.toInt.tdiv b.toInt)
def divU (a b : Word) : Word := BitVec.ofNat 32 (a.toNat / b.toNat)
def remS (a b : Word) : Word := BitVec.ofInt 32 (a.toInt.tmod b.toInt)
def remU (a b : Word) : Word := BitVec.ofNat 32 (a.toNat % b.toNat)

end Sys2Proof.Machine
end

