-- ==== Sys2Proof/Machine/Issue.lean ====
section
/-! DEFINITION. What every instruction shares: when it may issue, what its issue settles, and the forms that write one
register, hold the divider, or await an answer (13, 14). -/

namespace Sys2Proof.Machine

/-- An issue: the thread's instruction before it has completed, its task's start is over, its hold of the divider ends,
and PERF_ISSUE counts (R286, R288, R304, R296). -/
def issue (t : Thread) (s : State) : State :=
  let s := settleStart t (settleDone t s)
  let k := core s (coreOf t)
  setCore s (coreOf t) { k with divider := if k.divider = some t then none else k.divider, perfIssue := satInc k.perfIssue }

/-- An instruction acts when its thread can execute one. -/
def onThread (t : Thread) (act : State → State) (s : State) : Host.Outcome State Fault Refusal :=
  .next (if canRun s t then act (issue t s) else s)

/-- A result in rd, and the next instruction. -/
def writeNext (t : Thread) (rd : Gpr) (w : Word) (s : State) : State := advance t (setGpr t rd w s)

/-- The two-operand forms of the register groups. -/
def aluRR (t : Thread) (rd rs1 rs2 : Gpr) (op : Word → Word → Word) (s : State) : State :=
  writeNext t rd (op (gpr s t rs1) (gpr s t rs2)) s

/-- The forms with one register and an immediate. -/
def aluRI (t : Thread) (rd rs1 : Gpr) (imm : Word) (op : Word → Word → Word) (s : State) : State :=
  writeNext t rd (op (gpr s t rs1) imm) s

/-! ### The divider (R304, R286) -/

/-- Another thread of the core holds the divider. -/
def dividerHeld (s : State) (t : Thread) : Bool := match (core s (coreOf t)).divider with
  | none => false
  | some u => decide (u ≠ t)

/-- A DIV-group instruction: its result, undone if an interrupt abandons it, and the core's divider. -/
def divideOp (t : Thread) (rd rs1 rs2 : Gpr) (op : Word → Word → Word) (s : State) : State :=
  let o : Outstanding := { pc := pcOf s t, rd := rd, old := gpr s t rd, result := op (gpr s t rs1) (gpr s t rs2), latched := false }
  let s := aluRR t rd rs1 rs2 op s
  let s := setThr s t { thr s t with outstanding := some o }
  setCore s (coreOf t) { core s (coreOf t) with divider := some t }

/-- It waits, not ready, while another thread of its core holds the divider. -/
def onDivider (t : Thread) (act : State → State) (s : State) : Host.Outcome State Fault Refusal :=
  .next (if canRun s t && !dividerHeld s t then act (issue t s) else s)

/-! ### Instructions whose answer a latch may hold (R318, R323) -/

/-- The latch holds a result for the instruction at the thread's PC. -/
def latched (s : State) (t : Thread) : Option Word :=
  match (thr s t).latch with
  | some (a, v) => if a = pcOf s t then some v else none
  | none => none

/-- The answer comes from the latch, which empties, or from the act; then rd takes it, and an interrupt that comes
before the next instruction puts it into the latch. -/
def awaited (t : Thread) (rd : Gpr) (act : State → Word × State) (s : State) : State :=
  match latched s t with
  | some v => writeNext t rd v (setThr s t { thr s t with latch := none })
  | none =>
    let pc := pcOf s t
    let old := gpr s t rd
    let (v, s) := act (advance t s)
    let s := setGpr t rd v s
    setThr s t { thr s t with outstanding := some { pc := pc, rd := rd, old := old, result := v, latched := true } }

end Sys2Proof.Machine
end

