-- ==== Sys2Proof/Machine/Alu.lean ====
section
/-! DEFINITION. The integer, multiply and divide instructions (R298, R302 to R305). -/

namespace Sys2Proof.Machine

/-- ADD (R303). -/
def execAdd (t : Thread) (rd rs1 rs2 : Gpr) (s : State) : Host.Outcome State Fault Refusal :=
  onThread t (aluRR t rd rs1 rs2 (· + ·)) s

/-- SUB (R303). -/
def execSub (t : Thread) (rd rs1 rs2 : Gpr) (s : State) : Host.Outcome State Fault Refusal :=
  onThread t (aluRR t rd rs1 rs2 (· - ·)) s

/-- AND (R303). -/
def execAnd (t : Thread) (rd rs1 rs2 : Gpr) (s : State) : Host.Outcome State Fault Refusal :=
  onThread t (aluRR t rd rs1 rs2 (· &&& ·)) s

/-- OR (R303). -/
def execOr (t : Thread) (rd rs1 rs2 : Gpr) (s : State) : Host.Outcome State Fault Refusal :=
  onThread t (aluRR t rd rs1 rs2 (· ||| ·)) s

/-- XOR (R303). -/
def execXor (t : Thread) (rd rs1 rs2 : Gpr) (s : State) : Host.Outcome State Fault Refusal :=
  onThread t (aluRR t rd rs1 rs2 (· ^^^ ·)) s

/-- SLL (R303). -/
def execSll (t : Thread) (rd rs1 rs2 : Gpr) (s : State) : Host.Outcome State Fault Refusal :=
  onThread t (aluRR t rd rs1 rs2 (fun a b => a <<< shamt b)) s

/-- SRL (R303). -/
def execSrl (t : Thread) (rd rs1 rs2 : Gpr) (s : State) : Host.Outcome State Fault Refusal :=
  onThread t (aluRR t rd rs1 rs2 (fun a b => a >>> shamt b)) s

/-- SRA (R303). -/
def execSra (t : Thread) (rd rs1 rs2 : Gpr) (s : State) : Host.Outcome State Fault Refusal :=
  onThread t (aluRR t rd rs1 rs2 (fun a b => a.sshiftRight (shamt b))) s

/-- SLT (R303). -/
def execSlt (t : Thread) (rd rs1 rs2 : Gpr) (s : State) : Host.Outcome State Fault Refusal :=
  onThread t (aluRR t rd rs1 rs2 (fun a b => b2w (slt a b))) s

/-- SLTU (R303). -/
def execSltu (t : Thread) (rd rs1 rs2 : Gpr) (s : State) : Host.Outcome State Fault Refusal :=
  onThread t (aluRR t rd rs1 rs2 (fun a b => b2w (ult a b))) s

/-- MIN (R303). -/
def execMin (t : Thread) (rd rs1 rs2 : Gpr) (s : State) : Host.Outcome State Fault Refusal :=
  onThread t (aluRR t rd rs1 rs2 (fun a b => if slt b a then b else a)) s

/-- MAX (R303). -/
def execMax (t : Thread) (rd rs1 rs2 : Gpr) (s : State) : Host.Outcome State Fault Refusal :=
  onThread t (aluRR t rd rs1 rs2 (fun a b => if slt a b then b else a)) s

/-- MINU (R303). -/
def execMinu (t : Thread) (rd rs1 rs2 : Gpr) (s : State) : Host.Outcome State Fault Refusal :=
  onThread t (aluRR t rd rs1 rs2 (fun a b => if ult b a then b else a)) s

/-- MAXU (R303). -/
def execMaxu (t : Thread) (rd rs1 rs2 : Gpr) (s : State) : Host.Outcome State Fault Refusal :=
  onThread t (aluRR t rd rs1 rs2 (fun a b => if ult a b then b else a)) s

/-- CLZ (R303). -/
def execClz (t : Thread) (rd rs1 : Gpr) (s : State) : Host.Outcome State Fault Refusal :=
  onThread t (aluRI t rd rs1 0 (fun a _ => BitVec.ofNat 32 (leadingZeros a 32))) s

/-- POPC (R303). -/
def execPopc (t : Thread) (rd rs1 : Gpr) (s : State) : Host.Outcome State Fault Refusal :=
  onThread t (aluRI t rd rs1 0 (fun a _ => BitVec.ofNat 32 (setBitsOf a 32))) s

/-- BSWAP (R303). -/
def execBswap (t : Thread) (rd rs1 : Gpr) (s : State) : Host.Outcome State Fault Refusal :=
  onThread t (aluRI t rd rs1 0 (fun a _ => byteSwap a)) s

/-- CMP (R298). -/
def execCmp (t : Thread) (rs1 rs2 : Gpr) (s : State) : Host.Outcome State Fault Refusal :=
  onThread t (fun s => advance t (setFlags t (cmpFlags (gpr s t rs1) (gpr s t rs2)) s)) s

/-- MUL (R304). -/
def execMul (t : Thread) (rd rs1 rs2 : Gpr) (s : State) : Host.Outcome State Fault Refusal :=
  onThread t (aluRR t rd rs1 rs2 (· * ·)) s

/-- MULH (R304). -/
def execMulh (t : Thread) (rd rs1 rs2 : Gpr) (s : State) : Host.Outcome State Fault Refusal :=
  onThread t (aluRR t rd rs1 rs2 mulHigh) s

/-- MULHU (R304). -/
def execMulhu (t : Thread) (rd rs1 rs2 : Gpr) (s : State) : Host.Outcome State Fault Refusal :=
  onThread t (aluRR t rd rs1 rs2 mulHighU) s

/-- DIV (R304, R305). -/
def execDiv (t : Thread) (rd rs1 rs2 : Gpr) (s : State) : Host.Outcome State Fault Refusal :=
  onDivider t (divideOp t rd rs1 rs2 divS) s

/-- DIVU (R304, R305). -/
def execDivu (t : Thread) (rd rs1 rs2 : Gpr) (s : State) : Host.Outcome State Fault Refusal :=
  onDivider t (divideOp t rd rs1 rs2 divU) s

/-- REM (R304, R305). -/
def execRem (t : Thread) (rd rs1 rs2 : Gpr) (s : State) : Host.Outcome State Fault Refusal :=
  onDivider t (divideOp t rd rs1 rs2 remS) s

/-- REMU (R304, R305). -/
def execRemu (t : Thread) (rd rs1 rs2 : Gpr) (s : State) : Host.Outcome State Fault Refusal :=
  onDivider t (divideOp t rd rs1 rs2 remU) s

/-- ADDI (R302). -/
def execAddi (t : Thread) (rd rs1 : Gpr) (imm : Half) (s : State) : Host.Outcome State Fault Refusal :=
  onThread t (aluRI t rd rs1 (simm imm) (· + ·)) s

/-- ANDI (R302). -/
def execAndi (t : Thread) (rd rs1 : Gpr) (imm : Half) (s : State) : Host.Outcome State Fault Refusal :=
  onThread t (aluRI t rd rs1 (zimm imm) (· &&& ·)) s

/-- ORI (R302). -/
def execOri (t : Thread) (rd rs1 : Gpr) (imm : Half) (s : State) : Host.Outcome State Fault Refusal :=
  onThread t (aluRI t rd rs1 (zimm imm) (· ||| ·)) s

/-- XORI (R302). -/
def execXori (t : Thread) (rd rs1 : Gpr) (imm : Half) (s : State) : Host.Outcome State Fault Refusal :=
  onThread t (aluRI t rd rs1 (zimm imm) (· ^^^ ·)) s

/-- SLTI (R302). -/
def execSlti (t : Thread) (rd rs1 : Gpr) (imm : Half) (s : State) : Host.Outcome State Fault Refusal :=
  onThread t (aluRI t rd rs1 (simm imm) (fun a b => b2w (slt a b))) s

/-- SLTUI (R302). -/
def execSltui (t : Thread) (rd rs1 : Gpr) (imm : Half) (s : State) : Host.Outcome State Fault Refusal :=
  onThread t (aluRI t rd rs1 (simm imm) (fun a b => b2w (ult a b))) s

/-- SHI_SLL (R301). -/
def execShiSll (t : Thread) (rd rs1 : Gpr) (sh : BitVec 5) (s : State) : Host.Outcome State Fault Refusal :=
  onThread t (aluRI t rd rs1 (sh.setWidth 32) (fun a b => a <<< shamt b)) s

/-- SHI_SRL (R301). -/
def execShiSrl (t : Thread) (rd rs1 : Gpr) (sh : BitVec 5) (s : State) : Host.Outcome State Fault Refusal :=
  onThread t (aluRI t rd rs1 (sh.setWidth 32) (fun a b => a >>> shamt b)) s

/-- SHI_SRA (R301). -/
def execShiSra (t : Thread) (rd rs1 : Gpr) (sh : BitVec 5) (s : State) : Host.Outcome State Fault Refusal :=
  onThread t (aluRI t rd rs1 (sh.setWidth 32) (fun a b => a.sshiftRight (shamt b))) s

/-- LUI (R302). -/
def execLui (t : Thread) (rd : Gpr) (imm : Half) (s : State) : Host.Outcome State Fault Refusal :=
  onThread t (writeNext t rd (zimm imm * 65536)) s

/-- CMPI (R298, R302). -/
def execCmpi (t : Thread) (rs1 : Gpr) (imm : Half) (s : State) : Host.Outcome State Fault Refusal :=
  onThread t (fun s => advance t (setFlags t (cmpFlags (gpr s t rs1) (simm imm)) s)) s

end Sys2Proof.Machine
end

