-- ==== Sys2Proof/Machine/Channels.lean ====
section
/-! DEFINITION. The commands of the channels and of their asynchronous functions (08, 09, 11). -/

namespace Sys2Proof.Machine

/-- The channel runs as an asynchronous receiver and transmitter with a running clock. -/
def asyncLive (s : State) (n : Chan) : Bool :=
  let c := chan s n
  chanLive s n && decide (c.cfg.func = 1 ∨ c.cfg.func = 2) && clockRuns s n && !c.async.onSleep

/-- The module's own driver holds a half-duplex line (R197). -/
def ownDriver (c : Channel) : Bool :=
  decide (c.cfg.func = 2) && (c.tx.busy || (c.reply.any fun r => r.sending))

/-! ### Characters (R186 to R189) -/

/-- How many bits from the start bit up to the first stop bit (R188). -/
def charBits (c : Channel) : Nat :=
  let f := c.cfg.fmt
  2 + fmtData f + (if fmtMultidrop f then 1 else 0) + (if fmtParity f = 0 then 0 else 1)

/-- One sample a bit: at 3× and in synchronous mode (R187, R195). -/
def singleSample (c : Channel) : Bool := decide (c.cfg.oversample = 3) || aSync c.async.now

def bitSample (l : List Samples) (k : Nat) : Samples := l.getD k { a := true, b := true, c := true }

/-- The value taken for a bit; true is mark. -/
def bitValue (single : Bool) (x : Samples) : Bool :=
  if single then x.a else (x.a && x.b) || (x.a && x.c) || (x.b && x.c)

/-- The three samples disagree. -/
def bitNoise (single : Bool) (x : Samples) : Bool := !single && !(x.a == x.b && x.b == x.c)

/-- Every sample of the bit reads space. -/
def bitSpace (single : Bool) (x : Samples) : Bool := if single then !x.a else !x.a && !x.b && !x.c

/-- A received character: its value with its address bit, and what R189 found in it. -/
structure RxChar where
  value : BitVec 9
  addr : Bool
  parityBad : Bool
  framing : Bool
  brk : Bool
  noise : Bool
  deriving DecidableEq, Repr

def readChar (c : Channel) (l : List Samples) : RxChar :=
  let one := singleSample c
  let f := c.cfg.fmt
  let v := fun k => bitValue one (bitSample l k)
  let d := fmtData f
  let bits := (List.range d).map fun i => v (1 + i)
  let value := bits.reverse.foldl (fun x b => 2 * x + bit b) 0
  let multi := fmtMultidrop f
  let par := fmtParity f
  let ones := bits.foldl (fun k b => k + bit b) 0
  let pbit := v (1 + d + (if multi then 1 else 0))
  let n := charBits c
  let space := (List.range n).all fun k => bitSpace one (bitSample l k)
  { value := BitVec.ofNat 9 value, addr := multi && v (1 + d)
    parityBad := decide (par ≠ 0) && decide ((ones + bit pbit) % 2 ≠ (if par = 1 then 0 else 1))
    framing := !v (n - 1) && !space, brk := space, noise := (List.range n).any fun k => bitNoise one (bitSample l k) }

/-- The bytes a character stores (R186). -/
def charBytes (c : Channel) (x : RxChar) : List Byte :=
  if fmtData c.cfg.fmt = 9 then [x.value.setWidth 8, BitVec.ofNat 8 (bitsAt x.value 8 1)] else [x.value.setWidth 8]

/-- An address character is accepted (R200). -/
def addrAccepted (c : Channel) (x : RxChar) : Bool :=
  let a := c.async.now.addr
  let mask := bitsAt a 8 8
  let v := x.value.toNat % 256
  decide (v &&& mask = bitsAt a 0 8 &&& mask) || (a.getLsbD 24 && decide (v = bitsAt a 16 8))

/-- A sample amplitude exceeds a reference by more than OVERLAP_PCT (R201, R202). -/
def surge (c : Channel) (ref amp : Byte) : Bool :=
  decide (ref.toNat * (100 + c.cfg.overlapPct.toNat) < amp.toNat * 100)

/-- OVERLAP: the flag, the hold and the discard (R201, R202). Settings that wait do so until the hold ends. -/
def declareOverlap (n : Chan) (s : State) : State :=
  let s := setAsyncFlag n 6 s
  let c := chan s n
  discardFrame n .overlap (setChan s n { c with async := { c.async with ovlHold := true } })

/-- The line is seen at a level (ASYNC_STS.LINE); mark ends the wait after a break (R189). -/
def seeLine (n : Chan) (mark : Bool) (s : State) : State :=
  let c := chan s n
  setChan s n { c with async := { c.async with line := mark, breakWait := c.async.breakWait && !mark } }

/-- The total length a length byte gives once byte LPOS has come (R190). -/
def noteTotal (n : Chan) (at' : Nat) (bs : List Byte) (s : State) : State :=
  let c := chan s n
  let r := c.async.now
  match c.rx.cur with
  | none => s
  | some fr =>
    let p := aLpos r
    if aDelim r = 2 ∧ at' ≤ p ∧ p < at' + bs.length then
      let v := (bs.getD (p - at') 0).toNat
      setChan s n { c with rx := { c.rx with cur := some { fr with total := some (p + 1 + v + aLadd r) } } }
    else s

/-- The frame is over at this stop bit in modes 1 and 2 (R190). -/
def frameEnds (c : Channel) (fr : RxFrame) : Bool :=
  match aDelim c.async.now with
  | 1 => decide (aFixed c.async.now ≤ fr.chars)
  | 2 => (fr.total.map fun t => decide (t ≤ fr.len)).getD false
  | _ => false

/-- The character joins the frame in progress: its bytes are stored unless the frame is in error. One whose length would
exceed 2048 bytes is in error (R190). -/
def takeChar (n : Chan) (x : RxChar) (s : State) : State :=
  let c := chan s n
  let bs := charBytes c x
  let len := (c.rx.cur.map fun fr => fr.len).getD 0
  let s := if 2048 < len + bs.length then failFrame n .framing (setAsyncFlag n 1 s) else s
  let s := noteTotal n len bs (storeBytes n bs s)
  let c := chan s n
  match c.rx.cur with
  | none => s
  | some fr =>
    let fr := { fr with chars := fr.chars + 1, noise := fr.noise || x.noise, endedAt := s.now }
    setChan s n { c with rx := { c.rx with cur := some { fr with declared := frameEnds c fr } } }

/-- A character's errors in the order of R193: the first fails the frame. -/
def noteErrors (n : Chan) (x : RxChar) (s : State) : State :=
  let c := chan s n
  if x.brk then
    let s := setAsyncFlag n 4 s
    let c := chan s n
    failFrame n .brk (setChan s n { c with async := { c.async with breakWait := true } })
  else if x.framing then failFrame n .framing (setAsyncFlag n 1 s)
  else if x.parityBad then failFrame n .parity (setAsyncFlag n 0 s)
  else if x.noise ∧ aNoise c.async.now then failFrame n .noise s
  else s

/-- OVERLAP governs a character with other errors (R202 › Edges); else its errors, and the character counts for its
frame. -/
def judgeChar (n : Chan) (x : RxChar) (exceeds : Bool) (s : State) : State :=
  if exceeds then declareOverlap n s else takeChar n x (noteErrors n x s)

/-- The character begins or continues a frame: the amplitudes latched, then its errors or its storage. -/
def acceptChar (n : Chan) (x : RxChar) (startAmp peakAmp : Byte) (edge : Bool) (s : State) : State :=
  let c := chan s n
  let fresh := c.rx.cur.isNone
  let a := c.async
  let a := if fresh then { a with ref := startAmp, peak := peakAmp, ovlHold := false }
    else { a with peak := if a.peak < peakAmp then peakAmp else a.peak }
  let fr := (c.rx.cur.getD {})
  let s := setChan s n { c with async := a, rx := { c.rx with cur := some { fr with falseStart := false } } }
  let exceeds := decide (c.cfg.func = 2) &&
    ((decide (8 ≤ a.ref.toNat) && surge c a.ref peakAmp) || (edge && decide (c.cfg.oversample = 8)))
  let s := if x.noise then setAsyncFlag n 5 s else s
  judgeChar n x exceeds s

/-- An address character ends the frame in progress: complete in mode 0, in error otherwise (R193 › Edges). -/
def breakFrame (n : Chan) (s : State) : State :=
  let c := chan s n
  match c.rx.cur with
  | none => s
  | some _ => if aDelim c.async.now = 0 then finishFrame n s else discardFrame n .framing (setAsyncFlag n 1 s)

/-- The address filter and the frame boundaries around a character (R190, R193, R200). -/
def filterChar (n : Chan) (x : RxChar) (startAmp peakAmp : Byte) (edge : Bool) (s : State) : State :=
  let c := chan s n
  let multi := fmtMultidrop c.cfg.fmt
  let filter := multi && aFilter c.async.now
  let s := if multi ∧ x.addr then breakFrame n s else s
  let c := chan s n
  if filter ∧ x.addr then
    if addrAccepted c x then
      acceptChar n x startAmp peakAmp edge (setChan s n { c with async := { c.async with ignoring := false } })
    else setChan s n { c with async := { c.async with ignoring := true } }
  else if filter ∧ (c.async.ignoring ∨ c.rx.cur.isNone) then s
  else acceptChar n x startAmp peakAmp edge s

/-- A false start (R189). -/
def falseStart (n : Chan) (s : State) : State :=
  let s := setAsyncFlag n 5 s
  let c := chan s n
  match c.rx.cur with
  | none => s
  | some fr => setChan s n { c with rx := { c.rx with cur := some { fr with falseStart := true, declared := false } } }

/-- A character's start edge while OVL_HOLD stands: waiting, or too small to be captured (R202). -/
def heldBack (c : Channel) (startAmp : Byte) : Bool :=
  c.async.ovlHold && !(c.cfg.overlapCapture && surge c c.async.ref startAmp)

/-- CHARACTER_RECEIVE (R187, R189, R190, R200, R201). `edge`: at 8×, an unframed start edge was seen within it. -/
def characterReceiveOp (n : Chan) (samples : List Samples) (startAmp peakAmp : Byte) (edge : Bool) (s : State) : State :=
  let c := chan s n
  if ¬ asyncLive s n ∨ ownDriver c ∨ heldBack c startAmp then s
  else
    let start := bitSample samples 0
    let one := singleSample c
    -- a frame over in mode 1 or 2 was complete before this character; in mode 0 the gap has not passed
    let s := match c.rx.cur with
      | some fr =>
        if fr.declared ∧ aDelim c.async.now ≠ 0 then finishFrame n s
        else setChan s n { c with rx := { c.rx with cur := some { fr with declared := false } } }
      | none => s
    if bitValue one start then falseStart n s
    else
      let c := chan s n
      let x := readChar c samples
      filterChar n x startAmp peakAmp edge (seeLine n (!x.framing && !x.brk) (seeLine n true s))

def execCharacterReceive (n : Chan) (samples : List Samples) (startAmp : Byte) (peak : PeakSeen) (s : State) :
    Host.Outcome State Fault Refusal :=
  .next (characterReceiveOp n samples startAmp peak.amp peak.edge s)

/-- FRAME_COMPLETE (R174, R190, R191): at the last stop bit of modes 1 and 2 the frame is matched and raised; in mode 0
it is declared complete and awaits its confirmation. -/
def execFrameComplete (n : Chan) (s : State) : Host.Outcome State Fault Refusal :=
  let c := chan s n
  .next (match c.rx.cur with
    | none => s
    | some fr =>
      if ¬ asyncLive s n ∨ fr.chars = 0 then s
      else if aDelim c.async.now = 0 then
        setChan s n { c with rx := { c.rx with cur := some { fr with declared := true, endedAt := s.now } } }
      else if fr.declared then finishFrame n s else s)

/-- FRAME_CONFIRM (R190, R191): in mode 0 the idle gap after the last stop bit confirms the frame. -/
def execFrameConfirm (n : Chan) (s : State) : Host.Outcome State Fault Refusal :=
  let c := chan s n
  .next (match c.rx.cur with
    | none => s
    | some fr =>
      if asyncLive s n ∧ aDelim c.async.now = 0 ∧ fr.declared ∧ ¬ fr.falseStart then finishFrame n (seeLine n true s) else s)

/-- FRAME_GAP_TIMEOUT (R189, R190, R151 › Edges): a frame cut short by a gap, by a false start that no valid start
followed, or by its furrow's relock. -/
def execFrameGapTimeout (n : Chan) (s : State) : Host.Outcome State Fault Refusal :=
  let c := chan s n
  .next (match c.rx.cur with
    | none =>
      if chanLive s n ∧ (c.cfg.func = 1 ∨ c.cfg.func = 2) ∧ (furrow s (furrowOf n)).relocking then
        upset n .timeout (setAsyncFlag n 2 s) else s
    | some fr =>
      if chanLive s n ∧ ¬ fr.declared ∧ (aDelim c.async.now ≠ 0 ∨ fr.falseStart ∨ (furrow s (furrowOf n)).relocking) then
        discardFrame n .timeout (if fr.failed then s else setAsyncFlag n 2 s) else s)

/-- OVERLAP (R201): a surge above the latched reference, or at 8× an unframed start edge, inside a frame. -/
def execOverlap (n : Chan) (amp : Byte) (edge : Bool) (s : State) : Host.Outcome State Fault Refusal :=
  let c := chan s n
  let a := c.async
  let bySurge := decide (8 ≤ a.ref.toNat) && surge c a.ref amp
  let byEdge := edge && decide (c.cfg.oversample = 8)
  .next (if asyncLive s n ∧ c.cfg.func = 2 ∧ c.rx.cur.isSome ∧ ¬ ownDriver c ∧ (bySurge ∨ byEdge) then
    let s := setChan s n { c with async := { a with peak := if a.peak < amp then amp else a.peak } }
    declareOverlap n s
  else s)

/-- OVL_HOLD_END (R202): IDLE_BITS bit times of mark end the wait or the capture. -/
def execOvlHoldEnd (n : Chan) (s : State) : Host.Outcome State Fault Refusal :=
  let c := chan s n
  .next (if asyncLive s n then settle n (seeLine n true (setChan s n { c with async := { c.async with ovlHold := false } })) else s)

/-! ### Pins (R162, R171) -/

/-- The received line's level among a channel's pins: RXD, or A above B (R162). -/
def lineLevel (c : Channel) (levels : BitVec 4) : Bool :=
  if c.cfg.func = 1 then levels.getLsbD 1 else if c.cfg.func = 2 then levels.getLsbD 0 else c.async.line

/-- PIN_CHANGE: the filtered levels change; selected edges of spare pins raise one PIN event with the new levels. The
odd channel of a pair shows SEL3 to SEL0 in the pair's CS_STS. A furrow that is off or relocks has no cycles in which
FILTER could count, so that its inputs keep their levels (R151). -/
def execPinChange (n : Chan) (levels : BitVec 4) (s : State) : Host.Outcome State Fault Refusal :=
  let c := chan s n
  if isRetired s n ∨ ¬ clockRuns s n then .next s
  else
    let old := c.pins.inp
    let s := seeLine n (lineLevel c levels) (setChan s n { c with pins := { c.pins with inp := levels } })
    let s := if paired s n ∧ n.val % 2 = 1 then
        let e := chan s (evenOf n)
        setChan s (evenOf n) { e with cs := { e.cs with selIn := levels } }
      else s
    let up := levels &&& ~~~old &&& c.pins.rise
    let down := old &&& ~~~levels &&& c.pins.fall
    .next (if raisesEvents s n ∧ (up ||| down) &&& spareMask c ≠ 0 then raiseKind n 7 (levels.setWidth 8) s else s)

/-! ### The words a slave sends (R210, R221, R222) -/

def setCs (n : Chan) (x : CsState) (s : State) : State :=
  let c := chan s n
  setChan s n { c with cs := x }

/-- The oldest posted frame with a word left, and the posted list after sending one. -/
def postedWord (c : Channel) : List TxFrame → Option (Word × List TxFrame)
  | [] => none
  | fr :: rest =>
    if fr.sent < fr.len then
      some (wordFrom c (txBytes c fr) fr.sent, { fr with sent := fr.sent + wordBytes (fmtWord c.cfg.fmt) } :: rest)
    else (postedWord c rest).map fun p => (p.1, fr :: p.2)

/-- Some posted frame has been begun and not finished. -/
def postedBegun (c : Channel) : Bool := c.tx.posted.any fun fr => decide (0 < fr.sent ∧ fr.sent < fr.len)

/-- The word goes out: it is the previous word from now on, and its bits stand on SDO (R210, R221). -/
def sendWord (c : Channel) (w : Word) : CsState := { c.cs with prevWord := w, sdo := wordBits c w }

/-- The previous word goes out again (R221). -/
def repeatWord (n : Chan) (s : State) : State :=
  let s := setCsFlag n 2 s
  let c := chan s n
  setCs n { sendWord c c.cs.prevWord with underruns := satInc c.cs.underruns, repeats := c.cs.repeats + 1 } s

/-- Cells of the posted frames that have been begun are Sending (R167). -/
def begunCells (l : List TxFrame) (v : Vector TxCell 32) : Vector TxCell 32 :=
  l.foldl (fun v fr => if 0 < fr.sent then setTxCells .sending fr.cells v else v) v

/-- A posted word, or the previous word again (R180, R221). -/
def postedOrRepeat (n : Chan) (s : State) : State :=
  let c := chan s n
  match if c.reply.isNone || postedBegun c then postedWord c c.tx.posted else none with
  | some (w, l) => setChan s n { c with tx := { c.tx with posted := l, cells := begunCells l c.tx.cells }, cs := sendWord c w }
  | none => repeatWord n s

/-- The slave chooses the word it sends: an armed reply whose turnaround has ended, else a posted frame, else the
previous word (R221, R222). A posted frame being sent when the turnaround ends comes to its end first, and the reply is
late (R180). -/
def chooseWord (n : Chan) (s : State) : State :=
  let c := chan s n
  let sb := wordBytes (fmtWord c.cfg.fmt)
  match c.reply with
  | some r =>
    if r.turnEnded ∧ r.sent < r.len.toNat then
      if r.sent = 0 ∧ postedBegun c then postedOrRepeat n (setChan s n { c with reply := some { r with late := true } })
      else
        let w := wordFrom c (bytesOf r.buf 0 64) r.sent
        let s := setChan s n { c with reply := some { r with sending := true, sent := r.sent + sb }, cs := sendWord c w }
        if r.sent = 0 ∧ r.fallback then reportOutcome n r.seq .fallback s else s
    else postedOrRepeat n s
  | none => postedOrRepeat n s

/-! ### Replies (R176 to R180) -/

/-- POST (R177): the post at the front of CHWR[f] reaches its channel, and what stood behind it follows. -/
def execPost (n : Chan) (s : State) : Host.Outcome State Fault Refusal :=
  let f := furrowOf n
  .next (match chwrOf s f with
    | .post m seq off len data :: rest =>
      if m = n ∧ furrowRuns s f then
        let s := popChwr f rest s
        settleChwr f rest.length (if isRetired s n then s else applyPost n seq off len data s)
      else s
    | _ => s)

/-- POST_DEADLINE (R178): with no post accepted the fallback template takes the reply's place. -/
def execPostDeadline (n : Chan) (s : State) : Host.Outcome State Fault Refusal :=
  let c := chan s n
  .next (match c.reply with
    | none => s
    | some r => if r.computed ∧ chanLive s n then setChan s n { c with reply := some (passDeadline r) } else s)

/-- The WATCH entry of a channel. -/
def watchEntry (s : State) (n : Chan) : Option SeedEntry := seedFind s 0x13 1 n.val

/-- The template of a WATCH entry. -/
def watchText (e : SeedEntry) : List Byte := (e.data.drop 16).take (e.num 8 1)

/-- A watch channel's acknowledgement starts at the end of its turnaround (R204). -/
def startAck (n : Chan) (s : State) : State :=
  let c := chan s n
  match c.async.ack, watchEntry s n with
  | some .turning, some e =>
    setChan s n { c with async := { c.async with ack := some .sending, wire := ackLine (watchText e)
                                                 driver := some ((c.async.driver.map fun d => min d.1 s.now).getD s.now, none) } }
  | _, _ => s

/-- Its last stop bit is out, and the driver is disabled (R204). -/
def endAck (n : Chan) (s : State) : State :=
  let c := chan s n
  if c.async.ack = some .sending then
    setChan s n { c with async := { c.async with ack := none, wire := [], driver := c.async.driver.map fun d => (d.1, some s.now) } }
  else s

/-- The turnaround of an armed reply ends: the reply starts, or waits for the frame being sent (R176, R178, R180), or
on a slave for its next word boundary; `boundary`: the slave is at one now with SEL0 asserted (R222). -/
def replyStartOp (n : Chan) (boundary : Bool) (s : State) : State :=
  let c := chan s n
  match c.reply with
  | none => s
  | some r =>
    if r.turnEnded ∨ r.sending ∨ ¬ chanLive s n ∨ ¬ clockRuns s n then s
    else
      let r := if r.computed then passDeadline r else r
      if c.cfg.func = 4 then
        let s := setChan s n { c with reply := some { r with turnEnded := true } }
        if boundary && c.cs.selActive then chooseWord n s else s
      else if c.tx.busy then setChan s n { c with reply := some { r with turnEnded := true, late := true } }
      else beginReply n r (setChan s n { c with reply := some r })

/-- REPLY_START (R176, R180, R204, R222). -/
def execReplyStart (due : ReplyDue) (s : State) : Host.Outcome State Fault Refusal :=
  .next (if (chan s due.chan).async.onSleep then startAck due.chan s else replyStartOp due.chan due.boundary s)

/-- REPLY_DONE (R171, R204, R222): the last bit of the reply is out; of a slave's reply, its last word. -/
def execReplyDone (n : Chan) (s : State) : Host.Outcome State Fault Refusal :=
  let c := chan s n
  .next (if c.async.onSleep then endAck n s else match c.reply with
    | none => s
    | some r =>
      if ¬ r.sending ∨ ¬ chanLive s n then s
      else if c.cfg.func = 4 then
        if r.sent < r.len.toNat then s
        else
          let s := endReply n r s
          if r.fallback then raiseEvent n { ch := n, kind := 6, seq := r.seq, late := r.late } s else s
      else endReply n r s)

/-- REPLY_ABANDON (R180, R199, R204): a start bit before the turnaround ends; in Sleep it abandons a watch channel's
acknowledgement. -/
def execReplyAbandon (n : Chan) (s : State) : Host.Outcome State Fault Refusal :=
  let c := chan s n
  .next (if c.async.onSleep then
      if c.async.ack = some .turning then
        setChan s n { c with async := { c.async with ackAbandoned := satInc c.async.ackAbandoned, ack := none, driver := none } }
      else s
    else match c.reply with
      | none => s
      | some r =>
        if c.cfg.func = 2 ∧ ¬ r.turnEnded ∧ ¬ r.sending ∧ chanLive s n then
          let s := dropReply n s
          let c := chan s n
          settle n (setChan s n { c with cnt := { c.cnt with abandoned := satInc c.cnt.abandoned }
                                         async := { c.async with driver := none, line := false } })
        else s)

/-- The task that awaits the outcome of a channel's reply (R252). -/
def awaitingTask (s : State) (n : Chan) (seq : Byte) : Option (Fin 1024) :=
  (fins 1024).find? fun d => decide ((n, seq) ∈ (desc s d).life.awaits)

/-- The computed reply's event has not been read by the drill yet. -/
def eventWaits (s : State) (n : Chan) (seq : Byte) : Bool :=
  let p := fun (e : ChEvent) => decide (e.ch = n ∧ e.kind = 2 ∧ e.seq = seq) && !e.noans
  (chan s n).rx.held.any p || (chevOf s (furrowOf n)).any p

/-- REPLY_OUTCOME (R252): the channel's first report reaches the drill and marks the task that awaits it. -/
def execReplyOutcome (n : Chan) (s : State) : Host.Outcome State Fault Refusal :=
  let c := chan s n
  .next (match c.outcomes with
    | [] => s
    | (seq, o) :: rest =>
      if eventWaits s n seq then s
      else
        let s := setChan s n { c with outcomes := rest }
        match awaitingTask s n seq with
        | none => s
        | some d =>
          let x := desc s d
          if o = .fallback then
            let early := decide (x.st = .queued ∨ x.st = .matching)
            setDesc s d { x with missed := true, expired := x.expired || early
                                 life := { x.life with awaits := left x, status := worstStatus x.life.status 4 } }
          else setDesc s d { x with life := { x.life with awaits := left x } })
where left (x : Desc) : List (Chan × Byte) := x.life.awaits.filter fun p => decide (p ≠ (n, ((chan s n).outcomes.headD (0, .sent)).1))

/-! ### Posted frames (R169, R180, R194, R197, R198, R231) -/

/-- TX_POST (R169): a write of CH[n].TX_POST by the channel's owner. -/
def execTxPost (r : Req) (n : Chan) (cells : BitVec 6) (len : BitVec 12) (s : State) : Host.Outcome State Fault Refusal :=
  .next (chanWrite r n 0x24 (fld cells 16 ||| fld len 0) s)

/-- What the state shows of the idle condition of R198: the line is at mark, no frame is being received, and no wait for
mark is running. -/
def lineIdle (c : Channel) : Bool := c.rx.cur.isNone && c.async.line && !c.async.ovlHold && !c.async.breakWait

/-- TX_FRAME_START (R180, R194, R198): the oldest posted frame starts when no reply is armed and, on a half-duplex
line, the line is idle. -/
def execTxFrameStart (n : Chan) (s : State) : Host.Outcome State Fault Refusal :=
  let c := chan s n
  .next (match c.tx.posted with
    | [] => s
    | fr :: _ =>
      if asyncLive s n ∧ ¬ c.tx.busy ∧ ¬ c.tx.backoff ∧ c.reply.isNone ∧ (c.cfg.func = 1 ∨ lineIdle c) then
        setChan s n { c with tx := { c.tx with busy := true, cells := setTxCells .sending fr.cells c.tx.cells }
                             async := beginWire c s.now (txBytes c fr) }
      else s)

/-- A reply whose turnaround ended while the frame was sent starts at once (R180). -/
def startWaiting (n : Chan) (s : State) : State :=
  match (chan s n).reply with
  | none => s
  | some r => if r.turnEnded ∧ ¬ r.sending then beginReply n r s else s

/-- TX_FRAME_DONE (R167, R171): the frame has been sent in full. -/
def execTxFrameDone (n : Chan) (s : State) : Host.Outcome State Fault Refusal :=
  let c := chan s n
  let slaveDone := chanLive s n && decide (c.cfg.func = 4) && (c.tx.posted.head?.any fun fr => decide (fr.len ≤ fr.sent))
  .next (if asyncLive s n ∧ c.tx.busy then
    let s := popPosted n s
    let c := chan s n
    let s := setChan s n { c with async := endWire c (freqOf s n) s.now }
    settle n (startWaiting n (raiseKind n 4 0 s))
  else if slaveDone then settle n (raiseKind n 4 0 (popPosted n s))
  else s)

/-- TX_COLLISION (R197, R231): a reply is abandoned; a posted frame's attempt has failed. -/
def execTxCollision (n : Chan) (s : State) : Host.Outcome State Fault Refusal :=
  let c := chan s n
  if ¬ asyncLive s n ∨ c.cfg.func ≠ 2 then .next s
  else
    let s' := setAsyncFlag n 7 s
    let off := fun (s : State) => let c := chan s n; setChan s n { c with async := endWire c (freqOf s n) s.now }
    match c.reply.any (fun r => r.sending), c.tx.busy, c.tx.posted with
    | true, _, _ =>
      let s := dropReply n (off s')
      let c := chan s n
      .next (settle n (setChan s n { c with cnt := { c.cnt with abandoned := satInc c.cnt.abandoned } }))
    | false, true, fr :: rest =>
      let s := upset n .txcoll (off s')
      let c := chan s n
      if isRetired s n then .next s
      else if fr.attempt.toNat = c.cfg.retries.toNat then .next (settle n (upset n .txFailed (popPosted n s)))
      else
        let a := fr.attempt + 1
        .next (settle n (setChan s n { c with
          tx := { c.tx with busy := false, backoff := true, cells := setTxCells .queued fr.cells c.tx.cells
                            posted := { fr with attempt := a } :: rest }
          health := { c.health with attempt := a, retrying := true } }))
    | _, _, _ => .next s

/-- RETRY_BACKOFF_END (R231): the frame may be sent again once the line is idle. -/
def execRetryBackoffEnd (n : Chan) (s : State) : Host.Outcome State Fault Refusal :=
  let c := chan s n
  .next (if asyncLive s n then setChan s n { c with tx := { c.tx with backoff := false } } else s)

/-! ### Watch channels (R203 to R205) -/

/-- The acknowledgement's turnaround begins at the end of the matching character's stop bit; the driver is enabled one
tick of the Sleep-rate baud before its end (R203, R204). -/
def armAck (e : SeedEntry) (now : Nat) (a : AsyncState) : AsyncState :=
  let turn := cyclesTime 1843200 (nsCycles 1843200 (e.num 4 4))
  let lead := cyclesTime 1843200 (e.num 3 1)
  { a with ack := some .turning, driver := some (now + (turn - lead), none) }

/-- WATCH_MATCH (R204, R89, R92): in Sleep an address character of a watch channel equals the entry's ADDR. While the
acknowledgement is being sent the sleep receiver takes no character. -/
def execWatchMatch (n : Chan) (address : Byte) (s : State) : Host.Outcome State Fault Refusal :=
  let c := chan s n
  .next (match watchEntry s n with
    | none => s
    | some e =>
      if c.async.onSleep ∧ ¬ isRetired s n ∧ e.num 1 1 = address.toNat ∧ c.async.ack ≠ some .sending then
        let first := !((fins 128).any fun k => (chan s k).async.watchHit)
        let a := { c.async with matches_ := satInc c.async.matches_, watchHit := true }
        let s := latchWake 2 (setChan s n { c with async := armAck e s.now a })
        let k := BitVec.ofNat 8 n.val
        if first ∨ k < s.sys.watchCh then { s with sys := { s.sys with watchCh := k } } else s
      else s)

/-- WATCH_HANDBACK (R205): the channel logic has the channel again; one that matched raises WAKE. -/
def execWatchHandback (n : Chan) (s : State) : Host.Outcome State Fault Refusal :=
  let c := chan s n
  .next (if c.async.onSleep ∧ c.async.ack.isNone ∧ (s.sys.mode ≠ Mode.sleep ∨ s.sys.waking) then
    let hit := c.async.watchHit
    let s := setChan s n { c with async := { c.async with onSleep := false, watchHit := false, driver := none } }
    if hit ∧ ¬ isRetired s n then raiseKind n 0x0A 0 s else s
  else s)

/-! ### Enable and reset -/

/-- CHANNEL_ENABLE (R166): a write of 1 to CTL.EN. -/
def execChannelEnable (r : Req) (n : Chan) (s : State) : Host.Outcome State Fault Refusal :=
  .next (chanWrite r n 0x4 0x80000000 s)

/-- CHANNEL_RESET (R183): a write of 0x5C to CTL.RESET, EN as it stands. -/
def execChannelReset (r : Req) (n : Chan) (s : State) : Host.Outcome State Fault Refusal :=
  .next (chanWrite r n 0x4 (flag (chan s n).en 31 ||| 0x5C) s)

/-! ### Health (R232, R234 to R236) -/

/-- ERR_SUBWINDOW (R232, R233): the window moves on by one sub-window; not in Sleep. -/
def execErrSubwindow (n : Chan) (s : State) : Host.Outcome State Fault Refusal :=
  let c := chan s n
  let w := c.health.win
  .next (if mainOn s ∧ ¬ isRetired s n then
    let moved : Vector Nat 8 := Vector.ofFn fun i => if h : i.val = 0 then 0 else vget w ⟨i.val - 1, by omega⟩
    setChan s n { c with health := { c.health with win := moved } }
  else s)

/-- The rail's nominal voltage in mV (R35). -/
def railMv (s : State) (n : Chan) : Int := if level5 s n then 5000 else 3300

/-- The pin mode of pin `k`. -/
def pinMode (c : Channel) (k : Fin 4) : BitVec 4 :=
  match k.val with
  | 0 => c.cfg.pm0
  | 1 => c.cfg.pm1
  | 2 => c.cfg.pm2
  | _ => c.cfg.pm3

/-- A checkable sample (R234). -/
def checkable (s : State) (n : Chan) (x : PinReading) : Bool :=
  let r := rail s (railOf n)
  x.held1us && !r.limit && !r.hiccupAct

/-- The condition a checkable sample shows: 0 clean, 1 SHORT_LOW, 2 SHORT_HIGH, 3 OPEN (R234, R244); none where the pin
state is not tested. -/
def pinCond (s : State) (n : Chan) (k : Fin 4) (x : PinReading) : Option (BitVec 2) :=
  let c := chan s n
  let driver := driverOn c.async s.now
  if !pinDriven s n k.val driver then none
  else match (pinMode c k).toNat with
  | 1 =>
    if x.level then
      some (if x.mv < railMv s n - 1000 ∨ x.highLimit then 1 else if railMv s n + 1000 < x.mv then 2 else 0)
    else some (if 1000 < x.mv ∨ x.lowLimit then 2 else 0)
  | 2 => if x.level then none else some (if 1000 < x.mv ∨ x.lowLimit then 2 else 0)
  | 5 =>
    if k.val ≠ 0 ∨ ¬ driver then none
    else some (if x.diffMv < 1000 ∨ x.highLimit ∨ x.lowLimit then 1
      else if (if c.cfg.term then 90 else 500) < x.diffOhms then 3 else 0)
  | _ => none

/-- A pin's place in PIN_STS: the odd channel's pins follow the even channel's four (R244). -/
def pinIndex (n : Chan) (k : Fin 4) : Fin 8 := Fin.ofNat 8 (k.val + 4 * (n.val % 2))

/-- The model time that the pin's samples have covered since the first faulty one (R235). -/
def pinTime (now : Nat) (p : PinTimer) : Nat := p.acc + (p.seen.map fun t => now - t).getD 0

/-- A pin fault has persisted (R235). -/
def pinPersists (s : State) (h : Health) (p : PinTimer) : Bool :=
  decide (h.pinFaultMs ≠ 0 ∧ p.cond ≠ 0 ∧ 4 ≤ p.count ∧ h.pinFaultMs.toNat * 250000 < pinTime s.now p)

/-- A pin's timer after a sample (R235): a clean one restarts it, another condition starts it anew, and one that cannot
be checked stops it until the next that can (log entry 123). -/
def pinAfter (now : Nat) (q : Option (BitVec 2)) (p : PinTimer) : PinTimer :=
  match q with
  | none => { p with acc := pinTime now p, seen := none }
  | some q =>
    if q = 0 then {}
    else if p.cond = q then { p with acc := pinTime now p, seen := some now, count := p.count + 1 }
    else { cond := q, seen := some now, count := 1 }

/-- PIN_MONITOR_SAMPLE (R234, R235): a sample updates the pin's condition and timer. -/
def execPinMonitorSample (n : Chan) (pin : Fin 4) (x : PinReading) (s : State) : Host.Outcome State Fault Refusal :=
  let h := headOf s n
  let c := chan s h
  .next (if ¬ chanLive s n ∨ ¬ mainOn s then s
  else
    let q := if checkable s n x then pinCond s n pin x else none
    let i := pinIndex n pin
    setChan s h { c with health := { c.health with pins := vset c.health.pins i (pinAfter s.now q (vget c.health.pins i)) } })

/-- PIN_FAULT_PERSIST (R235, R237): a persistent fault of any pin of the channel or pair retires it. -/
def execPinFaultPersist (n : Chan) (s : State) : Host.Outcome State Fault Refusal :=
  let h := headOf s n
  let hl := (chan s h).health
  .next (if ¬ chanLive s h then s
  else match (List.range 8).find? fun i => pinPersists s hl (hl.pins.toList.getD i {}) with
    | none => s
    | some i =>
      let q := (hl.pins.toList.getD i {}).cond
      retireChannel h 2 (BitVec.ofNat 8 (i + 8 * q.toNat)) s)

/-- DRIVER_LINK_LOSS (R236): every enabled channel of the connector retires with cause LINK, and R240 is evaluated once,
with all of them counted (R240 › Edges). -/
def execDriverLinkLoss (j : Fin 8) (s : State) : Host.Outcome State Fault Refusal :=
  let lost := (fins 128).filter fun n => decide (railOf n = j ∧ (chan s n).cfg.func ≠ 0) && (chan s n).en && !isRetired s n
  .next (if mainOn s ∧ lost ≠ [] then checkRetiredLimit (lost.foldl (fun s n => retireQuietly n 3 0 s) s) else s)

end Sys2Proof.Machine
end

