-- ==== Sys2Proof/Machine/Clocked.lean ====
section
/-! DEFINITION. The commands of the clocked serial ports: master transfers, returned strobe, slaves and mode fault (10). -/

namespace Sys2Proof.Machine

/-- The pair runs with this function and a running clock; its even channel is `n`. -/
def pairLive (s : State) (n : Chan) (func : BitVec 3) : Bool :=
  chanLive s n && decide (n.val % 2 = 0) && decide ((chan s n).cfg.func = func) && clockRuns s n

/-- A word as stored: little-endian, right-aligned, upper bits 0 (R210). -/
def storedWord (c : Channel) (w : Word) : List Byte :=
  let b := fmtWord c.cfg.fmt
  leBytes (wordBytes b) (w.toNat % 2 ^ b)

/-! ### Masters (R211 to R217, R224) -/

/-- The control byte of the oldest posted frame. -/
def controlByte (c : Channel) : Byte := match c.tx.posted with
  | [] => 0
  | fr :: _ => (txBytes c fr).headD 0

/-- Words of a posted frame (R211). -/
def frameWords (c : Channel) (fr : TxFrame) : Nat := (fr.len - 1) / wordBytes (fmtWord c.cfg.fmt)

/-- Another master claims the bus: with MF_EN, SEL3 is asserted (R224). -/
def busClaimed (c : Channel) : Bool := csMfEn c.cs.now && sel3Asserted c.cs

/-- A held select of another value than the next frame's is released first (R215), and settings that waited for it take
effect (R226). -/
def releaseHeld (n : Chan) (s : State) : State :=
  let c := chan s n
  if c.cs.sel.isSome ∧ c.cs.sel ≠ some ((controlByte c).setWidth 4) then
    settle n (setCs n { c.cs with sel := none, selActive := false, sdo := [] } s)
  else s

/-- Cycle 0 of a transfer (R212, R215 to R218): the selects take its value, its bits go to SDO, and with returned strobe
its capture window opens. -/
def startTransfer (n : Chan) (fr : TxFrame) (s : State) : State :=
  let c := chan s n
  if busClaimed c then s
  else
    let v : BitVec 4 := (controlByte c).setWidth 4
    let k := frameWords c fr
    setChan s n { c with
      tx := { c.tx with busy := true, cells := setTxCells .sending fr.cells c.tx.cells }
      cs := { c.cs with xfer := some k, sel := some v, sdo := transferBits c (txBytes c fr)
                        selActive := csDecode c.cs.now || decide (v ≠ 0)
                        strbWait := if fmtDdr c.cfg.fmt ∧ csRxEn c.cs.now then c.cs.strbWait ++ [k] else c.cs.strbWait } }

/-- CS_TRANSFER_START (R212, R215 to R217, R224). -/
def execCsTransferStart (n : Chan) (s : State) : Host.Outcome State Fault Refusal :=
  let c := chan s n
  .next (match c.tx.posted with
    | [] => s
    | fr :: _ =>
      if pairLive s n 3 ∧ c.cs.xfer.isNone ∧ ¬ c.cs.flags.getLsbD 3 then startTransfer n fr (releaseHeld n s) else s)

/-- A received frame of words, complete now (R214, R218). -/
def receiveWords (n : Chan) (words : List Word) (s : State) : State :=
  let c := chan s n
  let s := setChan s n { c with rx := { c.rx with cur := some { endedAt := s.now } } }
  finishFrame n (storeBytes n (words.flatMap fun w => storedWord c w) s)

/-- The words of a transfer of `k` words. -/
def exactWords (k : Nat) (words : List Word) : List Word := (List.range k).map fun i => words.getD i 0

/-- CS_TRANSFER_END (R212 to R215, R218): at E + LAG. TX_DONE and, at SDR with RX_EN, FRAME, whichever of E + LAG and
E + CAP_DLY + 3 comes first first. -/
def execCsTransferEnd (n : Chan) (words : List Word) (s : State) : Host.Outcome State Fault Refusal :=
  let c := chan s n
  .next (match c.cs.xfer with
    | none => s
    | some k =>
      if ¬ pairLive s n 3 then s
      else
        let ctl := controlByte c
        let hold := ctl.getLsbD 4
        let ddr := fmtDdr c.cfg.fmt
        let sdrFrame := !ddr && csRxEn c.cs.now
        let early := decide (csCapDly c.cs.now + 3 ≤ csLag c.cs.now)
        let cs := { c.cs with xfer := none, sel := if hold then c.cs.sel else none, selActive := hold && c.cs.selActive
                              sdo := if hold then c.cs.sdo.getLast?.toList else [] }
        let s := popPosted n (setChan s n { c with cs := cs })
        let ws := exactWords k words
        let s := if sdrFrame ∧ early then receiveWords n ws s else s
        let s := raiseKind n 4 0 s
        let s := if sdrFrame ∧ ¬ early then receiveWords n ws s else s
        settle n s)

/-- The captured bits cross STRB[j] in chunks of 32, one after the other (R218). -/
def passChunks (n : Chan) (bits : Nat) (s : State) : State :=
  (List.range ((bits + 31) / 32)).foldl (fun s _ => qPass (64 + n.val / 8) s) s

/-- STRB_WAIT_END (R218): the captured bits of the oldest capture window are counted. -/
def execStrbWaitEnd (n : Chan) (bits : Nat) (words : List Word) (s : State) : Host.Outcome State Fault Refusal :=
  let c := chan s n
  .next (match c.cs.strbWait with
    | [] => s
    | k :: rest =>
      if ¬ pairLive s n 3 then s
      else
        let s := setCs n { c.cs with strbWait := rest } (passChunks n bits s)
        if bits = k * fmtWord c.cfg.fmt then receiveWords n (exactWords k words) s
        else
          let s := setCsFlag n 4 s
          let c := chan s n
          upset n .strobe (setCs n { c.cs with strobes := satInc c.cs.strobes } s))

/-- RSTB_EDGE_OUTSIDE_TRANSFER (R218 › Edges). -/
def execRstbEdgeOutsideTransfer (n : Chan) (s : State) : Host.Outcome State Fault Refusal :=
  let c := chan s n
  let inside := decide (c.cs.strbWait ≠ []) || (c.cs.xfer.isSome && !csRxEn c.cs.now)
  .next (if pairLive s n 3 ∧ fmtDdr c.cfg.fmt ∧ ¬ inside then setCsFlag n 4 s else s)

/-- MODE_FAULT (R225): SEL3 is asserted during a transfer; SCK, SDO and the selects are let go. -/
def execModeFault (n : Chan) (s : State) : Host.Outcome State Fault Refusal :=
  let c := chan s n
  .next (if pairLive s n 3 ∧ csMfEn c.cs.now ∧ ¬ csDecode c.cs.now ∧ c.cs.xfer.isSome then
    let pol := (BitVec.ofNat 4 (csSelPol c.cs.now)).getLsbD 3
    let cs := { c.cs with xfer := none, sel := none, selActive := false, sdo := [], modeFaults := satInc c.cs.modeFaults
                          strbWait := if fmtDdr c.cfg.fmt ∧ csRxEn c.cs.now then c.cs.strbWait.dropLast else c.cs.strbWait
                          selIn := setBits c.cs.selIn 3 1 (bit pol) }
    let s := setCsFlag n 3 (popPosted n (setCs n cs s))
    upset n .modeFault (settle n (abandonRx n s))
  else s)

/-- MODE_FAULT_CLEAR (R225): a write of 1 to CS_STS.MODE_FAULT. -/
def execModeFaultClear (r : Req) (n : Chan) (s : State) : Host.Outcome State Fault Refusal :=
  .next (chanWrite r n 0x110 8 s)

/-! ### Slaves (R219 to R223) -/

/-- SLAVE_SELECT (R219, R221): SEL0 is detected asserted and word 0 chosen. -/
def execSlaveSelect (n : Chan) (s : State) : Host.Outcome State Fault Refusal :=
  let c := chan s n
  .next (if pairLive s n 4 ∧ ¬ c.cs.selActive then
    chooseWord n (setChan s n { c with rx := { c.rx with cur := some {} }
                                       cs := { c.cs with selActive := true, words := 0, repeats := 0, frameDone := false
                                                         longSeen := false } })
  else s)

/-- LONG_FRAME, once a select (R223). -/
def noteLong (n : Chan) (s : State) : State :=
  let c := chan s n
  if c.cs.longSeen then s
  else
    let s := setCsFlag n 1 s
    let c := chan s n
    setCs n { c.cs with longSeen := true, longs := satInc c.cs.longs } s

/-- The frame of the words received is complete now (R220). -/
def slaveFrame (n : Chan) (s : State) : State :=
  let c := chan s n
  match c.rx.cur with
  | none => s
  | some fr =>
    let s := setChan s n { c with rx := { c.rx with cur := some { fr with endedAt := s.now } }
                                  cs := { c.cs with frameDone := true } }
    finishFrame n s

/-- SLAVE_WORD (R220, R221, R223): a word's last capture edge. -/
def execSlaveWord (n : Chan) (word : Word) (s : State) : Host.Outcome State Fault Refusal :=
  let c := chan s n
  .next (if ¬ pairLive s n 4 ∨ ¬ c.cs.selActive then s
  else
    let framed := csFramed c.cs.now
    if framed ∧ c.cs.frameDone then noteLong n s
    else
      let s := storeBytes n (storedWord c word) s
      let c := chan s n
      let k := c.cs.words + 1
      let s := setCs n { c.cs with words := k } s
      if framed ∧ csFrameWords c.cs.now ≤ k then slaveFrame n s
      else
        let exceeds := decide (2048 < ((chan s n).rx.cur.map fun fr => fr.len).getD 0)
        let s := if exceeds then
            let c := chan s n
            discardFrame n .framing (setCs n { c.cs with frameDone := true } s)
          else s
        chooseWord n s)

/-- A short frame: flag, count and the ERROR event (R223). -/
def shortWord (n : Chan) (s : State) : State :=
  let s := setCsFlag n 0 s
  let c := chan s n
  setCs n { c.cs with shorts := satInc c.cs.shorts } s

/-- What the release of SEL0 makes of the words received (R220, R223). -/
def releaseFrame (n : Chan) (partialBits : Nat) (s : State) : State :=
  let c := chan s n
  if csFramed c.cs.now then
    if c.cs.frameDone then (if 0 < partialBits then noteLong n s else s)
    else discardFrame n .shortWord (shortWord n s)
  else
    let s := if 0 < partialBits then shortWord n s else s
    if c.cs.frameDone then s
    else if 0 < c.cs.words then slaveFrame n s
    else if 0 < partialBits then discardFrame n .shortWord s
    else abandonRx n s

/-- SLAVE_RELEASE (R221, R223): the frame first, then any UNDERRUN event. -/
def execSlaveRelease (n : Chan) (partialBits : Nat) (s : State) : Host.Outcome State Fault Refusal :=
  let c := chan s n
  .next (if ¬ pairLive s n 4 ∨ ¬ c.cs.selActive then s
  else
    let reps := c.cs.repeats
    let s := releaseFrame n partialBits s
    let c := chan s n
    let s := setCs n { c.cs with selActive := false, sdo := [], words := 0, repeats := 0, frameDone := false, longSeen := false } s
    settle n (if 0 < reps then raiseKind n 9 (BitVec.ofNat 8 (min 255 reps)) s else s))

end Sys2Proof.Machine
end

