-- ==== Sys2Proof/Machine/Control.lean ====
section
/-! DEFINITION. Branches, jumps and the system instructions (R309, R310, R313 to R316, R321 to R323). -/

namespace Sys2Proof.Machine

/-! ### Control flow (R309, R310) -/

/-- The target where the condition holds, else the next instruction. -/
def branchTo (t : Thread) (take : Bool) (target : Word) (s : State) : State :=
  let s := resolveBranch t (pcOf s t) target take s
  if take then setPc t target s else advance t s

/-- BCC (R309). -/
def execBcc (t : Thread) (cond : BitVec 4) (off : BitVec 22) (s : State) : Host.Outcome State Fault Refusal :=
  onThread t (fun s =>
    if cond = 15 then raiseHere t .illegal s
    else branchTo t (condHolds (thr s t).flags cond) (branchTarget (pcOf s t) off) s) s

/-- CBZ (R309). -/
def execCbz (t : Thread) (rs1 : Gpr) (imm : Half) (s : State) : Host.Outcome State Fault Refusal :=
  onThread t (fun s => branchTo t (decide (gpr s t rs1 = 0)) (branchTarget (pcOf s t) imm) s) s

/-- CBNZ (R309). -/
def execCbnz (t : Thread) (rs1 : Gpr) (imm : Half) (s : State) : Host.Outcome State Fault Refusal :=
  onThread t (fun s => branchTo t (decide (gpr s t rs1 ≠ 0)) (branchTarget (pcOf s t) imm) s) s

/-- J (R310). -/
def execJ (t : Thread) (off : BitVec 26) (s : State) : Host.Outcome State Fault Refusal :=
  onThread t (fun s => branchTo t true (branchTarget (pcOf s t) off) s) s

/-- JAL (R310): the next address to g31 and onto the return stack. -/
def execJal (t : Thread) (off : BitVec 26) (s : State) : Host.Outcome State Fault Refusal :=
  onThread t (fun s =>
    let pc := pcOf s t
    branchTo t true (branchTarget pc off) (pushRet t (pc + 4) (setGpr t 31 (pc + 4) s))) s

/-- JALR's return stack: a link in g31 pushes, a return pops (R310). -/
def jalrStack (t : Thread) (rd rs1 : Gpr) (imm : Half) (next : Word) (s : State) : State :=
  if rd = 31 then pushRet t next s
  else if rd = 0 ∧ rs1 = 31 ∧ imm = 0 then popRet t s
  else s

/-- JALR's prediction (R281 › Edges, R310): a return's is the entry it pops; with the stack empty, and for every other
JALR, the buffer's. -/
def resolveJalr (t : Thread) (rd rs1 : Gpr) (imm : Half) (target : Word) (s : State) : State :=
  match decide (rd = 0 ∧ rs1 = 31 ∧ imm = 0), (thr s t).ret with
  | true, a :: _ => countMispred t (decide (a ≠ target)) s
  | _, _ => resolveBranch t (pcOf s t) target true s

/-- JALR (R310): the target is computed before rd is written. -/
def execJalr (t : Thread) (rd rs1 : Gpr) (imm : Half) (s : State) : Host.Outcome State Fault Refusal :=
  onThread t (fun s =>
    let next := pcOf s t + 4
    let target := effAddr s t rs1 imm
    let s := resolveJalr t rd rs1 imm (target &&& ~~~3#32) s
    setPc t target (jalrStack t rd rs1 imm next (setGpr t rd next s))) s

/-! ### Ordering (R295, R313) -/

/-- NOP (R314). -/
def execNop (t : Thread) (s : State) : Host.Outcome State Fault Refusal := onThread t (fun s => advance t s) s

/-- A GEOM write that the engine has not reached: CSYNC waits for it (R295, R351). -/
def geomWaits (s : State) : Bool := s.tile.tlq.any fun e => match e with
  | .geom _ _ => true
  | _ => false

/-- CSYNC (R295). -/
def execCsync (t : Thread) (s : State) : Host.Outcome State Fault Refusal :=
  onThread t (fun s => if geomWaits s then s else advance t (settleCtl t s)) s

/-- FENCE (R313): every access of this model is accepted in its own step. -/
def execFence (t : Thread) (s : State) : Host.Outcome State Fault Refusal := onThread t (fun s => advance t s) s

/-! ### Interrupts and handlers -/

/-- WAITI (R314): a NOP with IMASK zero or an interrupt deliverable; otherwise the thread waits, and the interrupt finds
EPC at the next instruction. -/
def execWaiti (t : Thread) (s : State) : Host.Outcome State Fault Refusal :=
  onThread t (fun s =>
    let s := advance t s
    if (thr s t).ext.now.imask = 0 ∨ (deliverable s t).isSome then s
    else setThr s t { thr s t with waiting := true }) s

/-- RETI (R314, R323); outside a handler it is ILLEGAL (R321). A return from the DEBUG handler ends the halt (R490). -/
def retiOp (t : Thread) (s : State) : State :=
  if !(thr s t).inInt then raiseHere t .illegal s
  else
    let wasDebug := (thr s t).debug
    let before := inEncl s t
    let s := checkTiles s (returnFrom t s)
    if wasDebug then crossDebug t before (clearHalt t s) else s

/-- RETI (R314). -/
def execReti (t : Thread) (s : State) : Host.Outcome State Fault Refusal := onThread t (retiOp t) s

/-- TRAP (R314, R321). -/
def execTrap (t : Thread) (_imm : Half) (s : State) : Host.Outcome State Fault Refusal := onThread t (raiseNext t .trap) s

/-- BRK (R314, R490): a halt where an accepted certificate grants it, else BREAK. -/
def brkOp (t : Thread) (s : State) : State :=
  if scopeHas s 3 then interruptOp t (haltThread t (advance t s)) else raiseNext t .brk s

/-- BRK (R314, R490). -/
def execBrk (t : Thread) (_imm : Half) (s : State) : Host.Outcome State Fault Refusal := onThread t (brkOp t) s

/-! ### The crossing between the worlds (R315, R327 to R329, R332, R344) -/

/-- STILE: legal in the Commons alone; while the Enclosure restarts or is halted it returns ENCLOSURE_RESTARTING. -/
def stileOp (t : Thread) (service : Half) (s : State) : State :=
  if inEncl s t then raiseHere t .illegal s
  else if !enclFree s then
    advance t (setThr s t { thr s t with commons := copyArgs restartResults (thr s t).commons })
  else stileCommit t service s

/-- STILE (R315). -/
def execStile (t : Thread) (service : Half) (s : State) : Host.Outcome State Fault Refusal := onThread t (stileOp t service) s

/-- LEAVE: legal in the Enclosure on a thread that entered by STILE. -/
def leaveOp (t : Thread) (s : State) : State :=
  if (thr s t).stile.isNone ∨ ¬ inEncl s t then raiseHere t .illegal s
  else checkTiles s (crossWorlds t (stileReturn t (thr s t).encl s))

/-- LEAVE (R315, R329). -/
def execLeave (t : Thread) (s : State) : Host.Outcome State Fault Refusal := onThread t (leaveOp t) s

/-! ### The end of a task, and the flags -/

/-- TDONE (R316, R267): ILLEGAL in a handler and inside STILE. -/
def tdoneOp (t : Thread) (status : Byte) (s : State) : State :=
  if (thr s t).inInt ∨ (thr s t).stile.isSome then raiseHere t .illegal s
  else checkTiles s (endTask t (doneStatus status) s)

/-- TDONE (R316). -/
def execTdone (t : Thread) (status : Byte) (s : State) : Host.Outcome State Fault Refusal := onThread t (tdoneOp t status) s

/-- GETF (R314). -/
def execGetf (t : Thread) (rd : Gpr) (s : State) : Host.Outcome State Fault Refusal :=
  onThread t (fun s => writeNext t rd ((thr s t).flags.setWidth 32) s) s

/-- SETF (R314). -/
def execSetf (t : Thread) (rs1 : Gpr) (s : State) : Host.Outcome State Fault Refusal :=
  onThread t (fun s => advance t (setFlags t ((gpr s t rs1).setWidth 4) s)) s

/-- TSYNC (R314, R353): it holds while a tile instruction of the thread is not complete. -/
def execTsync (t : Thread) (s : State) : Host.Outcome State Fault Refusal :=
  onThread t (fun s => if tilePending s t then setThr s t { thr s t with syncing := true } else advance t s) s

end Sys2Proof.Machine
end

