-- ==== Sys2Proof/Machine/CoreWord.lean ====
section
/-! DEFINITION. The cores' instruction words: decoding and encoding by the formats of R300 and the opcodes of R301 (14). -/

namespace Sys2Proof.Machine

/-! ### Fields of a word (R300) -/

def opOf (w : Word) : Nat := (w.extractLsb' 26 6).toNat
/-- Bits 25:21: rd of formats R and I, rs2 of format S, FN of format Y. -/
def fieldA (w : Word) : Gpr := w.extractLsb' 21 5
/-- Bits 20:16: rs1 of formats R, I and S, rd or rs1 of format Y. -/
def fieldB (w : Word) : Gpr := w.extractLsb' 16 5
/-- Bits 15:11: rs2 of format R. -/
def fieldC (w : Word) : Gpr := w.extractLsb' 11 5
def fnOf (w : Word) : Nat := (w.extractLsb' 0 11).toNat
def immOf (w : Word) : Half := w.extractLsb' 0 16
def condOf (w : Word) : BitVec 4 := w.extractLsb' 22 4
def off22Of (w : Word) : BitVec 22 := w.extractLsb' 0 22
def off26Of (w : Word) : BitVec 26 := w.extractLsb' 0 26
def tfnOf (w : Word) : Nat := (w.extractLsb' 22 4).toNat
def tdOf (w : Word) : BitVec 4 := w.extractLsb' 18 4
def taOf (w : Word) : BitVec 4 := w.extractLsb' 14 4
def tbOf (w : Word) : BitVec 4 := w.extractLsb' 10 4
def trs1Of (w : Word) : Gpr := w.extractLsb' 5 5
def trs2Of (w : Word) : Gpr := w.extractLsb' 0 5

/-- An instruction where its must-be-zero fields are zero. -/
def when (ok : Bool) (i : Instr) : Option Instr := if ok then some i else none

/-! ### Decoding (R301 to R319) -/

/-- OP 0x01 (R303). -/
def decodeAlu (t : Thread) (w : Word) : Option Instr :=
  let rd := fieldA w
  let a := fieldB w
  let b := fieldC w
  match fnOf w with
  | 0 => some (.add t rd a b)
  | 1 => some (.sub t rd a b)
  | 2 => some (.and t rd a b)
  | 3 => some (.or t rd a b)
  | 4 => some (.xor t rd a b)
  | 5 => some (.sll t rd a b)
  | 6 => some (.srl t rd a b)
  | 7 => some (.sra t rd a b)
  | 8 => some (.slt t rd a b)
  | 9 => some (.sltu t rd a b)
  | 10 => some (.min t rd a b)
  | 11 => some (.max t rd a b)
  | 12 => some (.minu t rd a b)
  | 13 => some (.maxu t rd a b)
  | 14 => when (decide (b = 0)) (.clz t rd a)
  | 15 => when (decide (b = 0)) (.popc t rd a)
  | 16 => when (decide (b = 0)) (.bswap t rd a)
  | 17 => when (decide (rd = 0)) (.cmp t a b)
  | _ => none

/-- OP 0x02 (R304). -/
def decodeMul (t : Thread) (w : Word) : Option Instr :=
  let rd := fieldA w
  let a := fieldB w
  let b := fieldC w
  match fnOf w with
  | 0 => some (.mul t rd a b)
  | 1 => some (.mulh t rd a b)
  | 2 => some (.mulhu t rd a b)
  | 4 => some (.div t rd a b)
  | 5 => some (.divu t rd a b)
  | 6 => some (.rem t rd a b)
  | 7 => some (.remu t rd a b)
  | _ => none

/-- OP 0x0A (R301): the kind in imm16 bits 15:14, the shift in bits 4:0. -/
def decodeShi (t : Thread) (w : Word) : Option Instr :=
  let sh : BitVec 5 := w.extractLsb' 0 5
  if (w.extractLsb' 5 9) ≠ 0 then none
  else match ((w.extractLsb' 14 2 : BitVec 2)).toNat with
    | 0 => some (.shiSll t (fieldA w) (fieldB w) sh)
    | 1 => some (.shiSrl t (fieldA w) (fieldB w) sh)
    | 2 => some (.shiSra t (fieldA w) (fieldB w) sh)
    | _ => none

/-- OP 0x1C (R307). -/
def decodeAmo (t : Thread) (w : Word) : Option Instr :=
  let rd := fieldA w
  let a := fieldB w
  let b := fieldC w
  match fnOf w with
  | 0 => some (.amoswap t rd a b)
  | 1 => some (.amoadd t rd a b)
  | 2 => some (.amoand t rd a b)
  | 3 => some (.amoor t rd a b)
  | 4 => some (.cas t rd a b)
  | _ => none

/-- The registers of a BMOV are distinct and none is g0 (R308). -/
def bmovOk (rd a b : Gpr) : Bool := decide (rd ≠ 0 ∧ a ≠ 0 ∧ b ≠ 0 ∧ rd ≠ a ∧ rd ≠ b ∧ a ≠ b)

/-- OP 0x3E (R317). -/
def decodeTask (t : Thread) (w : Word) : Option Instr :=
  match fnOf w with
  | 0 => when (decide (fieldC w = 0)) (.temit t (fieldA w) (fieldB w))
  | 1 => when (decide (fieldC w = 0)) (.tcancel t (fieldA w) (fieldB w))
  | 2 => some (.tcancelEntry t (fieldA w) (fieldB w) (fieldC w))
  | _ => none

/-- OP 0x38 (R319). -/
def decodeTile (t : Thread) (w : Word) : Option Instr :=
  let td := tdOf w
  let ta := taOf w
  let tb := tbOf w
  let a := trs1Of w
  let b := trs2Of w
  match tfnOf w with
  | 0 => when (decide (ta = 0 ∧ tb = 0)) (.tld t td.toFin a b)
  | 1 => when (decide (td = 0 ∧ tb = 0)) (.tst t ta.toFin a b)
  | 2 => when (decide (b = 0)) (.tmma t td.toFin ta.toFin tb.toFin a)
  | 3 => when (decide (b = 0)) (.tel t td.toFin ta.toFin tb.toFin a)
  | 4 => when (decide (ta = 0 ∧ tb = 0 ∧ a = 0 ∧ b = 0)) (.tzero t td.toFin)
  | 5 => when (decide (td = 0 ∧ ta = 0 ∧ tb = 0)) (.tnote t a b)
  | _ => none

/-- OP 0x3F (R314). -/
def decodeSystem (t : Thread) (w : Word) : Option Instr :=
  let r := fieldB w
  let imm := immOf w
  let bare := decide (r = 0 ∧ imm = 0)
  match (fieldA w).toNat with
  | 0 => when bare (.nop t)
  | 1 => when bare (.csync t)
  | 2 => when bare (.fence t)
  | 3 => when bare (.waiti t)
  | 4 => when bare (.reti t)
  | 5 => when (decide (r = 0)) (.trap t imm)
  | 6 => when (decide (r = 0)) (.brk t imm)
  | 7 => when (decide (r = 0)) (.stile t imm)
  | 8 => when bare (.leave t)
  | 9 => when (decide (r = 0 ∧ imm.toNat < 256)) (.tdone t (imm.setWidth 8))
  | 10 => when (decide (imm = 0)) (.getf t r)
  | 11 => when (decide (imm = 0)) (.setf t r)
  | 12 => when bare (.tsync t)
  | _ => none

/-- The instruction that a word spells on thread `t`; none where the encoding is illegal (R301). -/
def decodeCore (t : Thread) (w : Word) : Option Instr :=
  let a := fieldA w
  let b := fieldB w
  let imm := immOf w
  match opOf w with
  | 0x01 => decodeAlu t w
  | 0x02 => decodeMul t w
  | 0x04 => some (.addi t a b imm)
  | 0x05 => some (.andi t a b imm)
  | 0x06 => some (.ori t a b imm)
  | 0x07 => some (.xori t a b imm)
  | 0x08 => some (.slti t a b imm)
  | 0x09 => some (.sltui t a b imm)
  | 0x0A => decodeShi t w
  | 0x0B => when (decide (b = 0)) (.lui t a imm)
  | 0x0C => when (decide (a = 0)) (.cmpi t b imm)
  | 0x10 => some (.lb t a b imm)
  | 0x11 => some (.lbu t a b imm)
  | 0x12 => some (.lh t a b imm)
  | 0x13 => some (.lhu t a b imm)
  | 0x14 => some (.lw t a b imm)
  | 0x18 => some (.sb t a b imm)
  | 0x19 => some (.sh t a b imm)
  | 0x1A => some (.sw t a b imm)
  | 0x1C => decodeAmo t w
  | 0x20 => when (decide (condOf w ≠ 15)) (.bcc t (condOf w) (off22Of w))
  | 0x21 => when (decide (a = 0)) (.cbz t b imm)
  | 0x22 => when (decide (a = 0)) (.cbnz t b imm)
  | 0x24 => some (.j t (off26Of w))
  | 0x25 => some (.jal t (off26Of w))
  | 0x26 => some (.jalr t a b imm)
  | 0x30 => when (decide (fnOf w = 0) && bmovOk a b (fieldC w)) (.bmov t a b (fieldC w))
  | 0x38 => decodeTile t w
  | 0x3E => decodeTask t w
  | 0x3F => decodeSystem t w
  | _ => none

/-! ### Encoding (R300) -/

def encR (op : BitVec 6) (rd a b : Gpr) (fn : BitVec 11) : Word := op ++ rd ++ a ++ b ++ fn
/-- Formats I, S and Y: two 5-bit fields and imm16. -/
def encI (op : BitVec 6) (x y : Gpr) (imm : Half) : Word := op ++ x ++ y ++ imm
def encB (op : BitVec 6) (cond : BitVec 4) (off : BitVec 22) : Word := op ++ cond ++ off
def encJ (op : BitVec 6) (off : BitVec 26) : Word := op ++ off
def encT (tfn td ta tb : BitVec 4) (a b : Gpr) : Word := 0x38#6 ++ tfn ++ td ++ ta ++ tb ++ a ++ b
def encY (fn : Gpr) (r : Gpr) (imm : Half) : Word := encI 0x3F fn r imm
def tileBits (t : Tile) : BitVec 4 := BitVec.ofNat 4 t.val

/-- The word of a core instruction; none for every other command. -/
def encodeCore : Instr → Option Word
  | .add _ d a b => some (encR 0x01 d a b 0)
  | .sub _ d a b => some (encR 0x01 d a b 1)
  | .and _ d a b => some (encR 0x01 d a b 2)
  | .or _ d a b => some (encR 0x01 d a b 3)
  | .xor _ d a b => some (encR 0x01 d a b 4)
  | .sll _ d a b => some (encR 0x01 d a b 5)
  | .srl _ d a b => some (encR 0x01 d a b 6)
  | .sra _ d a b => some (encR 0x01 d a b 7)
  | .slt _ d a b => some (encR 0x01 d a b 8)
  | .sltu _ d a b => some (encR 0x01 d a b 9)
  | .min _ d a b => some (encR 0x01 d a b 10)
  | .max _ d a b => some (encR 0x01 d a b 11)
  | .minu _ d a b => some (encR 0x01 d a b 12)
  | .maxu _ d a b => some (encR 0x01 d a b 13)
  | .clz _ d a => some (encR 0x01 d a 0 14)
  | .popc _ d a => some (encR 0x01 d a 0 15)
  | .bswap _ d a => some (encR 0x01 d a 0 16)
  | .cmp _ a b => some (encR 0x01 0 a b 17)
  | .mul _ d a b => some (encR 0x02 d a b 0)
  | .mulh _ d a b => some (encR 0x02 d a b 1)
  | .mulhu _ d a b => some (encR 0x02 d a b 2)
  | .div _ d a b => some (encR 0x02 d a b 4)
  | .divu _ d a b => some (encR 0x02 d a b 5)
  | .rem _ d a b => some (encR 0x02 d a b 6)
  | .remu _ d a b => some (encR 0x02 d a b 7)
  | .addi _ d a i => some (encI 0x04 d a i)
  | .andi _ d a i => some (encI 0x05 d a i)
  | .ori _ d a i => some (encI 0x06 d a i)
  | .xori _ d a i => some (encI 0x07 d a i)
  | .slti _ d a i => some (encI 0x08 d a i)
  | .sltui _ d a i => some (encI 0x09 d a i)
  | .shiSll _ d a h => some (encI 0x0A d a (0#2 ++ 0#9 ++ h))
  | .shiSrl _ d a h => some (encI 0x0A d a (1#2 ++ 0#9 ++ h))
  | .shiSra _ d a h => some (encI 0x0A d a (2#2 ++ 0#9 ++ h))
  | .lui _ d i => some (encI 0x0B d 0 i)
  | .cmpi _ a i => some (encI 0x0C 0 a i)
  | .lb _ d a i => some (encI 0x10 d a i)
  | .lbu _ d a i => some (encI 0x11 d a i)
  | .lh _ d a i => some (encI 0x12 d a i)
  | .lhu _ d a i => some (encI 0x13 d a i)
  | .lw _ d a i => some (encI 0x14 d a i)
  | .sb _ x a i => some (encI 0x18 x a i)
  | .sh _ x a i => some (encI 0x19 x a i)
  | .sw _ x a i => some (encI 0x1A x a i)
  | .amoswap _ d a b => some (encR 0x1C d a b 0)
  | .amoadd _ d a b => some (encR 0x1C d a b 1)
  | .amoand _ d a b => some (encR 0x1C d a b 2)
  | .amoor _ d a b => some (encR 0x1C d a b 3)
  | .cas _ d a b => some (encR 0x1C d a b 4)
  | .bcc _ c o => some (encB 0x20 c o)
  | .cbz _ a i => some (encI 0x21 0 a i)
  | .cbnz _ a i => some (encI 0x22 0 a i)
  | .j _ o => some (encJ 0x24 o)
  | .jal _ o => some (encJ 0x25 o)
  | .jalr _ d a i => some (encI 0x26 d a i)
  | .bmov _ d a b => some (encR 0x30 d a b 0)
  | .nop _ => some (encY 0 0 0)
  | .csync _ => some (encY 1 0 0)
  | .fence _ => some (encY 2 0 0)
  | .waiti _ => some (encY 3 0 0)
  | .reti _ => some (encY 4 0 0)
  | .trap _ i => some (encY 5 0 i)
  | .brk _ i => some (encY 6 0 i)
  | .stile _ i => some (encY 7 0 i)
  | .leave _ => some (encY 8 0 0)
  | .tdone _ st => some (encY 9 0 (0#8 ++ st))
  | .getf _ d => some (encY 10 d 0)
  | .setf _ a => some (encY 11 a 0)
  | .tsync _ => some (encY 12 0 0)
  | .temit _ d a => some (encR 0x3E d a 0 0)
  | .tcancel _ d a => some (encR 0x3E d a 0 1)
  | .tcancelEntry _ d a b => some (encR 0x3E d a b 2)
  | .tld _ td a b => some (encT 0 (tileBits td) 0 0 a b)
  | .tst _ ta a b => some (encT 1 0 (tileBits ta) 0 a b)
  | .tmma _ td ta tb a => some (encT 2 (tileBits td) (tileBits ta) (tileBits tb) a 0)
  | .tel _ td ta tb a => some (encT 3 (tileBits td) (tileBits ta) (tileBits tb) a 0)
  | .tzero _ td => some (encT 4 (tileBits td) 0 0 0 0)
  | .tnote _ a b => some (encT 5 0 0 0 a b)
  | _ => none

end Sys2Proof.Machine
end

