-- ==== Sys2Proof/Machine/Memory.lean ====
section
/-! DEFINITION. Loads, stores, atomic operations and BMOV (R306 to R308, R311, R323). -/

namespace Sys2Proof.Machine

/-! ### Loads and stores (R306) -/

/-- Some byte of the range lies in a region with an owner, whose accesses are uncached (R338). -/
def ownedRange (s : State) (a n : Nat) : Bool := match guardOf a with
  | none => false
  | some g => (regionsOf s g).any fun x => decide (x.owner ≠ 0xFF ∧ x.base.toNat ≤ a + n - 1 ∧ a ≤ x.limit.toNat)

/-- The data cache serves this load's address: SRAM or program flash that the guard lets the thread read, and no owner's
(R292, R338). -/
def cacheable (s : State) (t : Thread) (a n : Nat) : Bool :=
  (inSram a n || inFlash a n) && guardLets s (.thread t) permR a n && !ownedRange s a n

/-- The line that serves an address to the thread's world. -/
def dataLine (s : State) (t : Thread) (a : Nat) : CacheLine := { encl := inEncl s t, line := a / 32 }

/-- The load hits (R292). -/
def loadHits (s : State) (t : Thread) (a n : Nat) : Bool :=
  cacheable s t a n && holdsLine s (inEncl s t) (a / 32) (cache s (coreOf t)).dlines

/-- A load whose data must cross from D3: a data cache miss counts, and its line is filled once the data are back. -/
def loadMiss (t : Thread) (rd : Gpr) (a : Word) (w : Width) (ext : Word → Word) (s : State) : State :=
  let n := a.toNat
  let line := if cacheable s t n w.bytes then some (dataLine s t n) else none
  let s := awaited t rd (fun s => let (v, s) := accessRead (.thread t) a w (qPass (88 + (coreOf t).val) s); (ext v, s)) s
  let s := setThr s t { thr s t with outstanding := (thr s t).outstanding.map fun o => { o with fill := line, flash := inFlash n w.bytes } }
  let k := core s (coreOf t)
  if line.isSome then setCore s (coreOf t) { k with perfDmiss := satInc k.perfDmiss } else s

/-- A load: ALIGN before any access; a result in the latch serves it without an access (R323), and so does a line of the
data cache, in MEM (R292). -/
def loadOp (t : Thread) (rd rs1 : Gpr) (imm : Half) (w : Width) (ext : Word → Word) (s : State) : State :=
  let a := effAddr s t rs1 imm
  match latched s t with
  | some v => writeNext t rd v (setThr s t { thr s t with latch := none })
  | none =>
    if ¬ aligned a w then raiseHere t .align s
    else if loadHits s t a.toNat w.bytes then
      let (v, s) := accessRead (.thread t) a w s
      writeNext t rd (ext v) s
    else loadMiss t rd a w ext s

/-- A store: ALIGN before any access. -/
def storeOp (t : Thread) (rs2 rs1 : Gpr) (imm : Half) (w : Width) (s : State) : State :=
  let a := effAddr s t rs1 imm
  let v := gpr s t rs2
  if ¬ aligned a w then raiseHere t .align s
  else accessWrite (.thread t) a w (v &&& BitVec.ofNat 32 (2 ^ (8 * w.bytes) - 1)) (qPass (88 + (coreOf t).val) (advance t s))

/-- LB (R306). -/
def execLb (t : Thread) (rd rs1 : Gpr) (imm : Half) (s : State) : Host.Outcome State Fault Refusal :=
  onThread t (loadOp t rd rs1 imm .byte (signExt .byte)) s

/-- LBU (R306). -/
def execLbu (t : Thread) (rd rs1 : Gpr) (imm : Half) (s : State) : Host.Outcome State Fault Refusal :=
  onThread t (loadOp t rd rs1 imm .byte id) s

/-- LH (R306). -/
def execLh (t : Thread) (rd rs1 : Gpr) (imm : Half) (s : State) : Host.Outcome State Fault Refusal :=
  onThread t (loadOp t rd rs1 imm .half (signExt .half)) s

/-- LHU (R306). -/
def execLhu (t : Thread) (rd rs1 : Gpr) (imm : Half) (s : State) : Host.Outcome State Fault Refusal :=
  onThread t (loadOp t rd rs1 imm .half id) s

/-- LW (R306). -/
def execLw (t : Thread) (rd rs1 : Gpr) (imm : Half) (s : State) : Host.Outcome State Fault Refusal :=
  onThread t (loadOp t rd rs1 imm .word id) s

/-- SB (R306). -/
def execSb (t : Thread) (rs2 rs1 : Gpr) (imm : Half) (s : State) : Host.Outcome State Fault Refusal :=
  onThread t (storeOp t rs2 rs1 imm .byte) s

/-- SH (R306). -/
def execSh (t : Thread) (rs2 rs1 : Gpr) (imm : Half) (s : State) : Host.Outcome State Fault Refusal :=
  onThread t (storeOp t rs2 rs1 imm .half) s

/-- SW (R306). -/
def execSw (t : Thread) (rs2 rs1 : Gpr) (imm : Half) (s : State) : Host.Outcome State Fault Refusal :=
  onThread t (storeOp t rs2 rs1 imm .word) s

/-! ### Atomic operations (R307) -/

/-- The read-modify-write at an aligned word: SRAM alone; elsewhere it reads zero and writes nothing. The guard must
grant read and write (R335), and a refusal is recorded as a write (R346 VLAST.WRITE). Every data cache's line is invalid,
its own core's included. -/
def amoAccess (t : Thread) (a : Word) (new : Word → Word) (s : State) : Word × State :=
  let n := a.toNat
  let r : Req := .thread t
  if !mapped n then (0, violate r .block a true s)
  else if !guardLets s r (permR ||| permW) n 4 then (0, violate r .guard a true s)
  else if inSram n 4 then
    let old : Word := ofBytes 32 (sramRead s n 4)
    (old, sramWrite n (bytesOf (new old) 0 4) s)
  else (0, s)

def amoOp (t : Thread) (rd rs1 : Gpr) (new : Word → Word) (s : State) : State :=
  let a := gpr s t rs1
  if (latched s t).isNone ∧ ¬ aligned a .word then raiseHere t .align s
  else awaited t rd (fun s => amoAccess t a new (qPass (88 + (coreOf t).val) s)) s

/-- AMOSWAP (R307). -/
def execAmoswap (t : Thread) (rd rs1 rs2 : Gpr) (s : State) : Host.Outcome State Fault Refusal :=
  onThread t (fun s => let b := gpr s t rs2; amoOp t rd rs1 (fun _ => b) s) s

/-- AMOADD (R307). -/
def execAmoadd (t : Thread) (rd rs1 rs2 : Gpr) (s : State) : Host.Outcome State Fault Refusal :=
  onThread t (fun s => let b := gpr s t rs2; amoOp t rd rs1 (fun o => o + b) s) s

/-- AMOAND (R307). -/
def execAmoand (t : Thread) (rd rs1 rs2 : Gpr) (s : State) : Host.Outcome State Fault Refusal :=
  onThread t (fun s => let b := gpr s t rs2; amoOp t rd rs1 (fun o => o &&& b) s) s

/-- AMOOR (R307). -/
def execAmoor (t : Thread) (rd rs1 rs2 : Gpr) (s : State) : Host.Outcome State Fault Refusal :=
  onThread t (fun s => let b := gpr s t rs2; amoOp t rd rs1 (fun o => o ||| b) s) s

/-- CAS (R307): the old value is compared with rd's value before the instruction. -/
def execCas (t : Thread) (rd rs1 rs2 : Gpr) (s : State) : Host.Outcome State Fault Refusal :=
  onThread t (fun s => let b := gpr s t rs2; let c := gpr s t rd; amoOp t rd rs1 (fun o => if o = c then b else o) s) s

/-! ### BMOV (R308) -/

/-- The widest aligned access at `a` within `n` bytes. -/
def chunkWidth (a n : Nat) : Width :=
  if a % 4 = 0 ∧ 4 ≤ n then .word else if a % 2 = 0 ∧ 2 ≤ n then .half else .byte

/-- `n` bytes read in ascending order by aligned accesses. -/
def readChunks (t : Thread) : Nat → Word → Nat → State → List Byte × State
  | 0, _, _, s => ([], s)
  | k + 1, a, n, s =>
    if n = 0 then ([], s)
    else
      let w := chunkWidth a.toNat n
      let (v, s) := accessRead (.thread t) a w s
      let (rest, s) := readChunks t k (a + BitVec.ofNat 32 w.bytes) (n - w.bytes) s
      (bytesOf v 0 w.bytes ++ rest, s)

/-- Bytes written in ascending order by aligned accesses. -/
def writeChunks (t : Thread) : Nat → Word → List Byte → State → State
  | 0, _, _, s => s
  | k + 1, a, bs, s =>
    if bs = [] then s
    else
      let w := chunkWidth a.toNat bs.length
      let s := accessWrite (.thread t) a w (ofBytes 32 (bs.take w.bytes)) s
      writeChunks t k (a + BitVec.ofNat 32 w.bytes) (bs.drop w.bytes) s

/-- The guard refuses an element as a whole (R8, R12). -/
def elementRefused (s : State) (t : Thread) (perm : BitVec 3) (a n : Nat) : Bool :=
  mapped a && !guardLets s (.thread t) perm a n

/-- An element read completely. -/
def readElement (t : Thread) (a : Word) (n : Nat) (s : State) : List Byte × State :=
  if elementRefused s t permR a.toNat n then (List.replicate n 0, violate (.thread t) .guard a false s)
  else readChunks t n a n s

/-- An element written. -/
def writeElement (t : Thread) (a : Word) (bs : List Byte) (s : State) : State :=
  if elementRefused s t permW a.toNat bs.length then violate (.thread t) .guard a true s
  else writeChunks t bs.length a bs s

/-- The length of the next element. -/
def elementLength (dst n : Nat) : Nat := min (min 32 n) (32 - dst % 32)

/-- One element of a copy, without its registers. -/
def copyElement (t : Thread) (dst src : Word) (n : Nat) (s : State) : State :=
  let cross := qPass (88 + (coreOf t).val)
  let (bs, s) := readElement t src n (cross s)
  writeElement t dst bs (cross s)

/-- The elements in order, the registers following each; an interrupt deliverable between two of them finds the copy's
progress in its registers and the PC still at the BMOV (R286). -/
def bmovRun (t : Thread) (rd rs1 rs2 : Gpr) : Nat → State → State
  | 0, s => s
  | k + 1, s =>
    let dst := gpr s t rd
    let src := gpr s t rs1
    let left := gpr s t rs2
    if left = 0 then advance t s
    else
      let pc := pcOf s t
      let n := elementLength dst.toNat left.toNat
      let s := copyElement t dst src n s
      if !canRun s t || decide (pcOf s t ≠ pc) then s
      else
        let m := BitVec.ofNat 32 n
        let s := setGpr t rs2 (left - m) (setGpr t rs1 (src + m) (setGpr t rd (dst + m) s))
        if left - m ≠ 0 ∧ (deliverable s t).isSome then s else bmovRun t rd rs1 rs2 k s

/-- BMOV (R308). -/
def execBmov (t : Thread) (rd rs1 rs2 : Gpr) (s : State) : Host.Outcome State Fault Refusal :=
  onThread t (fun s =>
    if !bmovOk rd rs1 rs2 then raiseHere t .illegal s
    else bmovRun t rd rs1 rs2 ((gpr s t rs2).toNat / 32 + 3) s) s

end Sys2Proof.Machine
end

