-- ==== Sys2Proof/Machine/TaskIns.lean ====
section
/-! DEFINITION. TEMIT and TCANCEL (R268, R269, R312, R317, R318) and the tile instructions' issue (R319, R351). -/

namespace Sys2Proof.Machine

/-! ### TEMIT (R268, R317) -/

/-- The 40-byte payload: g20 to g29, g20 lowest. -/
def emitPayload (s : State) (t : Thread) : BitVec 320 :=
  BitVec.ofNat 320 (([29, 28, 27, 26, 25, 24, 23, 22, 21, 20] : List Gpr).foldl (fun acc r => acc * 2 ^ 32 + (gpr s t r).toNat) 0)

/-- The flow of the task that a thread holds. -/
def taskFlow (s : State) (t : Thread) : Option (BitVec 12) := (thr s t).task.map fun d => (desc s d).flow

/-- The task of an ordered flow that the emission belongs to (R254). -/
def orderedParent (s : State) (t : Thread) : Option (Fin 1024) :=
  match (thr s t).task with
  | none => none
  | some d => if (flow s (desc s d).flow.toNat).kind = 1 then some d else none

/-- An emission of an ordered task: its credit and descriptor are taken now, and it waits in Releasing with its parent. -/
def emitHeld (d : Fin 1024) (f : Nat) (w : Word) (x : Desc) (s : State) : Word × State :=
  match freeDesc s f, decide (0 < freeCredits (flow s f)) with
  | some c, true =>
    let ready := (flow s f).ready
    let y := { x with st := .releasing, flow := BitVec.ofNat 12 f, tag := if ready then targetTag w else 0
                      opmask := if ready then 1#4 <<< (targetIndex w).toNat else 0
                      life := { x.life with parent := some d, index := targetIndex w } }
    (0, setDesc (takeCredit f s) c y)
  | _, _ => (1, countRefusal f s)

/-- TEMIT's answer: 0 admitted or ignored, 1 BUSY. -/
def emitAnswer (t : Thread) (w : Word) (payload : BitVec 320) (s : State) : Word × State :=
  let f := targetFlow w
  let s := qPass (84 + (coreOf t).val) s
  if !targetOk s (inEncl s t) (flowBay s (taskFlow s t)) f then (0, ignoreEmission t.val (inEncl s t) f s)
  else if !indexOk s f (targetIndex w) then (0, s)
  else if drainRefuses s then (1, s)
  else
    let x : Desc := { src := 6, tag := if (flow s f).ready then targetTag w else 0, payload := payload }
    match orderedParent s t with
    | some d => emitHeld d f w x s
    | none =>
      match admitTagged f false (targetTag w) (targetIndex w) x s with
      | (.refused, s) => (1, s)
      | (_, s) => (0, s)

/-- TEMIT (R268, R317, R318). -/
def execTemit (t : Thread) (rd rs1 : Gpr) (s : State) : Host.Outcome State Fault Refusal :=
  onThread t (fun s => awaited t rd (emitAnswer t (gpr s t rs1) (emitPayload s t)) s) s

/-! ### TCANCEL (R269) -/

/-- A cancel of another world's flow: ignored, a violation with no address, and 0. -/
def foreignCancel (t : Thread) (s : State) : Word × State := (0, violateNowhere t.val .block s)

/-- TCANCEL of a descriptor. -/
def cancelAnswer (t : Thread) (w : Word) (s : State) : Word × State :=
  let s := qPass (84 + (coreOf t).val) s
  let d : Fin 1024 := Fin.ofNat 1024 (bitsAt w 0 10)
  let x := desc s d
  if x.st = .free then (1, s)
  else if (flow s x.flow.toNat).world != inEncl s t then foreignCancel t s
  else if cancellable x then (0, cancelDesc d 2 s)
  else (1, s)

/-- TCANCEL of a waiting entry by flow and tag. -/
def cancelEntryAnswer (t : Thread) (a b : Word) (s : State) : Word × State :=
  let s := qPass (84 + (coreOf t).val) s
  let f := bitsAt a 0 12
  let tag : Half := b.setWidth 16
  if (flow s f).world != inEncl s t then foreignCancel t s
  else match oldestEntry s f (fun m => decide (m.tag = some tag)) with
    | some e => (0, cancelDesc (entry s e.val).desc.toFin 2 s)
    | none => (1, s)

/-- TCANCEL (R269, R317). -/
def execTcancel (t : Thread) (rd rs1 : Gpr) (s : State) : Host.Outcome State Fault Refusal :=
  onThread t (fun s => awaited t rd (cancelAnswer t (gpr s t rs1)) s) s

/-- TCANCEL_ENTRY (R269, R317). -/
def execTcancelEntry (t : Thread) (rd rs1 rs2 : Gpr) (s : State) : Host.Outcome State Fault Refusal :=
  onThread t (fun s => awaited t rd (cancelEntryAnswer t (gpr s t rs1) (gpr s t rs2)) s) s

/-! ### Tile instructions (R319, R351) -/

/-- TLQ holds 32 entries (R155). -/
def tlqFull (s : State) : Bool := decide (32 ≤ s.tile.tlq.length)

/-- The instruction as TLQ takes it, with its thread's attributes (R334, R341). -/
def issueTile (t : Thread) (op : State → TileOp) (s : State) : State :=
  advance t (pushTlq (.op t (inEncl s t) (ownerTag s (.thread t)) (taskFlow s t) (heldTask s t) (op s)) s)

/-- A tile instruction issues into TLQ; while TLQ is full the thread is not ready, and each attempt counts a stall. -/
def onTile (t : Thread) (op : State → TileOp) (s : State) : Host.Outcome State Fault Refusal :=
  .next (if !canRun s t then s else if tlqFull s then countStall 94 s else issueTile t op (issue t s))

/-- TLD (R354). -/
def execTld (t : Thread) (td : Tile) (rs1 rs2 : Gpr) (s : State) : Host.Outcome State Fault Refusal :=
  onTile t (fun s => .tld td (gpr s t rs1) (gpr s t rs2)) s

/-- TST (R354). -/
def execTst (t : Thread) (ta : Tile) (rs1 rs2 : Gpr) (s : State) : Host.Outcome State Fault Refusal :=
  onTile t (fun s => .tst ta (gpr s t rs1) (gpr s t rs2)) s

/-- TMMA (R357). -/
def execTmma (t : Thread) (td ta tb : Tile) (rs1 : Gpr) (s : State) : Host.Outcome State Fault Refusal :=
  onTile t (fun s => .tmma td ta tb (gpr s t rs1)) s

/-- TEL (R359). -/
def execTel (t : Thread) (td ta tb : Tile) (rs1 : Gpr) (s : State) : Host.Outcome State Fault Refusal :=
  onTile t (fun s => .tel td ta tb (gpr s t rs1)) s

/-- TZERO (R360). -/
def execTzero (t : Thread) (td : Tile) (s : State) : Host.Outcome State Fault Refusal :=
  onTile t (fun _ => .tzero td) s

/-- TNOTE (R363). -/
def execTnote (t : Thread) (rs1 rs2 : Gpr) (s : State) : Host.Outcome State Fault Refusal :=
  onTile t (fun s => .tnote (gpr s t rs1) (gpr s t rs2)) s

end Sys2Proof.Machine
end

