-- ==== Sys2Proof/Machine/CoreRows.lean ====
section
/-! DEFINITION. The rows of starts, line fills, data returns, the divider and illegal encodings (R281, R285, R286, R292,
R301, R304, R321). -/

namespace Sys2Proof.Machine

/-- TASK_START (R285, R287). -/
def execTaskStart (t : Thread) (s : State) : Host.Outcome State Fault Refusal := .next (taskStartOp t s)

/-- INTERRUPT_START (R285, R286, R290). -/
def execInterruptStart (t : Thread) (s : State) : Host.Outcome State Fault Refusal := .next (interruptOp t s)

/-- The answer an instruction awaits has returned: it has completed and can no longer be abandoned, and a load's line is
filled. A load from a flash line with an uncorrectable error reads zero, and its line is kept out (R502). -/
def dataReturnOp (t : Thread) (uncorrectable : Bool) (s : State) : State :=
  match (thr s t).outstanding with
  | none => s
  | some o =>
    if !o.latched then s
    else if uncorrectable && o.flash then
      let s := setGpr t o.rd 0 s
      setThr s t { thr s t with outstanding := none }
    else settleDone t s

/-- DATA_RETURN (R292, R318, R502). -/
def execDataReturn (back : DataBack) (s : State) : Host.Outcome State Fault Refusal :=
  .next (dataReturnOp back.thread back.uncorrectable s)

/-- The divider's 34 cycles end: the instruction that held it has completed (R304). -/
def dividerFreeOp (c : Fin 4) (s : State) : State :=
  match (core s c).divider with
  | none => s
  | some t => setCore (settleDone t s) c { core s c with divider := none }

/-- DIVIDER_FREE (R304). -/
def execDividerFree (c : Fin 4) (s : State) : Host.Outcome State Fault Refusal := .next (dividerFreeOp c s)

/-! ### Fetch (R281, R282, R293, R301, R502) -/

/-- The address range lies in one flash bank of 2 MiB (R282). -/
def inBank (bank : Fin 4) (a n : Nat) : Bool :=
  decide (0 < n) && decide (0x08000000 + 0x200000 * bank.val ≤ a ∧ a + n ≤ 0x08000000 + 0x200000 * (bank.val + 1))

/-- LINE_FILL_DONE (R281, R294, R502): the fill of a core's line from program flash is counted, and the line stands in the
ways of the world that fetches; with an uncorrectable error it is kept out. -/
def execLineFillDone (c : Fin 4) (encl : Bool) (addr : Word) (uncorrectable : Bool) (s : State) : Host.Outcome State Fault Refusal :=
  .next (if mainOn s && inFlash (addr.toNat / 32 * 32) 32 then
      let s := setCore s c { core s c with perfImiss := satInc (core s c).perfImiss }
      if uncorrectable then s else fillCode c { encl := encl, line := addr.toNat / 32 } s
    else s)

/-- FLASH_OPERATION_END (R113, R116, R282, R293, R502): what the bank holds after the program or erase; a range outside
the bank is none of its operations, and the boot records change by an activation alone, in bank 3 (log entry 108). -/
def execFlashOperationEnd (bank : Fin 4) (op : FlashOp) (s : State) : Host.Outcome State Fault Refusal :=
  .next (if !mainOn s then s else match op with
    | .program a bs => if inBank bank a.toNat bs.length && !touchesBootRecord a.toNat bs.length then flashProgram a.toNat bs s else s
    | .erase a n => if inBank bank a.toNat n && !touchesBootRecord a.toNat n then flashErase a.toNat n s else s
    | .activate slotB => if bank = 3 then activateEncl slotB s else s)

/-- A refused fetch is a violation of its thread (R8, R299, R335, R495); it returns zero. -/
def fetchCheck (t : Thread) (s : State) : State :=
  let a := pcOf s t
  if !mapped a.toNat then violateSrc t.val .block a false true s
  else if !guardLets s (.thread t) permX a.toNat 4 then violateSrc t.val .guard a false true s
  else s

/-- An illegal encoding takes ILLEGAL; the all-zero word is also what a refused fetch returns. -/
def illegalOp (t : Thread) (word : Word) (s : State) : State :=
  raiseHere t .illegal (if word = 0 then fetchCheck t s else s)

/-- ILLEGAL_INSTRUCTION (R301, R321): for an encoding that some row has, nothing. -/
def execIllegalInstruction (t : Thread) (word : Word) (s : State) : Host.Outcome State Fault Refusal :=
  if (decodeCore t word).isSome then .next s else onThread t (illegalOp t word) s

end Sys2Proof.Machine
end

