-- ==== Sys2Proof/Machine/Headland.lean ====
section
/-! DEFINITION. The ROM Headland, the resident Headland, debug certificates and the TAP (05, 22). -/

namespace Sys2Proof.Machine

/-! ### Which Headland answers (R81, R483, R484, R489) -/

/-- The ROM Headland runs. -/
def romRuns (s : State) : Bool := mainOn s && decide (s.boot.headland = .rom ∨ s.boot.headland = .romStatusOnly)

/-- The ROM Headland's commands other than INFO are open: in Store. -/
def romOpen (s : State) : Bool := decide (s.boot.headland = .rom ∧ s.sys.mode = Mode.store)

/-- The resident Headland runs with the Enclosure. -/
def residentRuns (s : State) : Bool := decide (s.boot.headland = .resident) && enclRuns s

/-- The resident Headland's commands beside INFO and TIME are not closed by Lockdown. -/
def residentOpen (s : State) : Bool := decide (s.sys.mode ≠ Mode.lockdown)

/-- A scope is granted and Service is open. -/
def granted (s : State) (k : Nat) : Bool := decide (s.sys.mode = Mode.service) && scopeHas s k

/-- A line of the ROM Headland. -/
def onRom (act : State → State) (s : State) : Host.Outcome State Fault Refusal :=
  .next (if !romRuns s then s else if !romOpen s then hldErr 3 s else act s)

/-- A line of the resident Headland, open under a condition. -/
def onResident (open_ : State → Bool) (act : State → State) (s : State) : Host.Outcome State Fault Refusal :=
  .next (if !residentRuns s then s else if !(residentOpen s && open_ s) then hldErr 3 s else act s)

/-! ### The buffer (R482) -/

def hldBuf (s : State) (off n : Nat) : List Byte := bytesOf s.hld.buf off n
def zeroBuf (s : State) : State := { s with hld := { s.hld with buf := 0 } }

/-- BUF's form: the offset, one to 64 bytes, none beyond offset 511. -/
def bufFormOk (off : Nat) (data : List Byte) : Bool :=
  decide (off % 4 = 0 ∧ off < 512 ∧ 1 ≤ data.length ∧ data.length ≤ 64 ∧ off + data.length ≤ 512)

def bufOp (off : Nat) (data : List Byte) (s : State) : State :=
  if !bufFormOk off data then hldErr 1 s
  else hldOk { s with hld := { s.hld with buf := setBytes s.hld.buf off data } }

/-- ROM_BUF (R482, R483). -/
def execRomBuf (off : Nat) (data : List Byte) (s : State) : Host.Outcome State Fault Refusal := onRom (bufOp off data) s

/-- BUF (R482, R484). -/
def execBuf (off : Nat) (data : List Byte) (s : State) : Host.Outcome State Fault Refusal :=
  onResident (fun _ => true) (bufOp off data) s

/-! ### INFO and TIME -/

def lifecycleCode : Lifecycle → Nat
  | .store => 0
  | .fielded => 1
  | .scrapped => 2

/-- What the ROM's INFO prints. -/
def infoValues (s : State) : List Nat :=
  [serialFuses s, lifecycleCode (lifecycle s.fuse.view), (sysModeWord s).toNat, (bootStsWord s).toNat, (tampWord s.bkp.tamp).toNat]

/-- ROM_INFO (R483). -/
def execRomInfo (s : State) : Host.Outcome State Fault Refusal :=
  .next (if romRuns s then hldAnswer { values := infoValues s } s else s)

/-- INFO (R484). -/
def execInfo (s : State) : Host.Outcome State Fault Refusal :=
  .next (if residentRuns s then
      hldAnswer { values := infoValues s ++ [(seedStsWord s).toNat, (hldStsWord s).toNat] } s
    else s)

/-- CAL.STS as TIME prints it (R80). -/
def calStsWord (c : Calendar) : Word := fld c.sets 8 ||| flag c.steppedBack 1 ||| flag c.valid 0

/-- TIME (R484). -/
def execTime (s : State) : Host.Outcome State Fault Refusal :=
  .next (if residentRuns s then
      hldAnswer { values := [s.bkp.cal.sec.toNat, (calStsWord s.bkp.cal).toNat] } s
    else s)

/-! ### Provisioning (R117, R483) -/

/-- A refusal under R117: ER 03 and its word. -/
def refuse117 (w : Refused117) (s : State) : State := hldErr 3 { s with hld := { s.hld with refused := some w } }

/-- ROM_NONCE (R117 step 1). -/
def romNonceOp (s : State) : State :=
  let (n, s) := draw 128 s
  hldAnswer { bytes := bytesOf n 0 16 } { s with hld := { s.hld with romNonce := some (n, s.now) } }

/-- ROM_NONCE (R117). -/
def execRomNonce (s : State) : Host.Outcome State Fault Refusal := onRom romNonceOp s

/-- The nonce that an attempt may use: not yet 60 s old. -/
def liveRomNonce (s : State) : Option (BitVec 128) := match s.hld.romNonce with
  | none => none
  | some (n, t) => if s.now - t ≤ 15000000000 then some n else none

/-- PROV_NONCE_EXPIRE (R117). -/
def execProvNonceExpire (s : State) : Host.Outcome State Fault Refusal :=
  .next (if (liveRomNonce s).isSome then s else { s with hld := { s.hld with romNonce := none } })

/-- BUILDER_KH of the fuse view (R106). -/
def builderKh (s : State) : Nat := fuseField s.fuse.view 256 256

/-- The message a builder key signs: "PROV", SERIAL and the nonce (R117 step 2). -/
def provMessage (s : State) (n : BitVec 128) : List Byte := [0x50, 0x52, 0x4F, 0x56] ++ serialBytes s ++ bytesOf n 0 16

/-- The bits of BUILDER_KH that a hash sets. -/
def khBits (h : List Byte) : List Nat := ((List.range 256).filter fun k => (leNat h).testBit k).map fun k => 256 + k

/-- PROV (R117 steps 2 and 3); the nonce serves one attempt. -/
def provOp (s : State) : State :=
  let key := hldBuf s 0 64
  let sig := hldBuf s 64 64
  let nonce := liveRomNonce s
  let s := zeroBuf { s with hld := { s.hld with romNonce := none } }
  match nonce with
  | none => refuse117 .nonce s
  | some n =>
    if !ecdsaVerify key (sha256 (provMessage s n)) sig then refuse117 .signature s
    else if builderKh s ≠ 0 then refuse117 .provisioned s
    else hldOk (romBlow (khBits (sha256 key)) s)

/-- PROV (R117). -/
def execProv (s : State) : Host.Outcome State Fault Refusal := onRom provOp s

/-- FIELD (R117 step 5). -/
def fieldOp (errA errB : Bool) (s : State) : State :=
  let passes := fun (slotB err : Bool) => !s.fuse.torn && decide (enclCode s slotB err = 0)
  if builderKh s = 0 then refuse117 .noKey s
  else if !passes false errA && !passes true errB then refuse117 .noImage s
  else coldReset 3 (hldOk (romBlow [1088, 1089, 1090] s))

/-- FIELD (R112, R117): an inconsistent fuse view fails every slot with code 7, an uncorrectable flash error its slot
with code 6. -/
def execFieldCmd (s : State) : Host.Outcome State Fault Refusal :=
  onRom (fieldOp (Config.slotError s.now false) (Config.slotError s.now true)) s

/-- SLOTA ERASE (R483). -/
def execSlotaErase (s : State) : Host.Outcome State Fault Refusal :=
  onRom (fun s => hldOk (storeErase (seedSlotBase false) seedAreaLen { s with hld := { s.hld with slotA := [] } })) s

/-- A byte of slot A is written once between erases. -/
def slotByte (s : State) (off : Nat) (b : Byte) : State :=
  if s.hld.slotA.any fun p => decide (p.1 ≤ off ∧ off < p.1 + p.2) then s
  else
    let s := storeProgram (seedSlotBase false + off) [b] s
    { s with hld := { s.hld with slotA := noteByte off s.hld.slotA } }

/-- SLOTA off len (R483). -/
def slotaOp (off len : Nat) (s : State) : State :=
  if ¬ (4 ≤ len ∧ len ≤ 512 ∧ len % 4 = 0 ∧ off + len ≤ seedAreaLen) then hldErr 1 s
  else
    let bs := hldBuf s 0 len
    hldOk (((List.range len).zip bs).foldl (fun s p => slotByte s (off + p.1) p.2) (zeroBuf s))

/-- SLOTA_WRITE (R483). -/
def execSlotaWrite (off len : Nat) (s : State) : Host.Outcome State Fault Refusal := onRom (slotaOp off len) s

/-! ### Granary commands of the Headland (R434, R444, R484) -/

/-- A request of the Headland: no buffers in memory, no bay, source 20. -/
def headlandJob (opc flags owner : Nat) (auth inp aux : List Byte) : GrnJob :=
  let f : GrnForm := { opc := opc, flags := flags, depth := 0, owner := owner, trunc := 0, inLen := inp.length, aadLen := 0
                       auxLen := aux.length, outLen := 0 }
  let n := outSize f
  { r := { caller := .fold, src := 20, tag := 0xFF, bay := none, byBay := false
           malformed := !grnFormOk { f with outLen := n } true
           opc := BitVec.ofNat 8 opc, flags := BitVec.ofNat 8 flags, depth := 0, owner := BitVec.ofNat 8 owner, trunc := 0
           path := [], blob := [], auth := auth, inAddr := 0, inLen := BitVec.ofNat 32 inp.length, aadAddr := 0, aadLen := 0
           auxAddr := 0, auxLen := BitVec.ofNat 32 aux.length, outAddr := 0, outLen := BitVec.ofNat 32 n }
    inp := inp, aad := [], aux := aux, headland := true }

/-- The Granary serves the Headland now: READY, and GRQ not full; otherwise the line is answered BUSY. -/
def hldGranary (j : GrnJob) (entropyOk : Bool) (values : State → GrnResult → List Nat) (s : State) : State :=
  if !s.grn.ready || !granaryServes s || decide (32 ≤ s.grn.grq.length) then hldErr 4 s
  else
    let (r, s) := runJob j entropyOk s
    let s := noteCommand j r s
    if r.status ≠ 0 then hldErr 4 s else hldAnswer { values := values s r, bytes := r.out } s

/-- HL_NONCE (R434, R484). -/
def execHlNonce (entropyOk : Bool) (s : State) : Host.Outcome State Fault Refusal :=
  onResident (fun _ => true) (hldGranary (headlandJob 0x30 0 0 [] [] []) entropyOk fun _ _ => []) s

/-- VAULT's form: an owner operation, its operands within the buffer (R484). -/
def vaultFormOk (op inlen auxlen : Nat) : Bool := opOwner op && decide (320 + inlen + auxlen ≤ 512)

def vaultOp (op : Byte) (owner : BitVec 6) (inlen auxlen : Nat) (entropyOk : Bool) (s : State) : State :=
  if !vaultFormOk op.toNat inlen auxlen then hldErr 1 s
  else
    let flags := if op = 0x31 ∧ inlen ≠ 0 then 6 else 2
    let j := headlandJob op.toNat flags owner.toNat (hldBuf s 0 320) (hldBuf s 320 inlen) (hldBuf s (320 + inlen) auxlen)
    hldGranary j entropyOk (fun s r => [r.verdict.toNat, s.grn.reason.toNat]) (zeroBuf s)

/-- VAULT (R444, R484). -/
def execVault (op : Byte) (owner : BitVec 6) (inlen auxlen : Nat) (entropyOk : Bool) (s : State) : Host.Outcome State Fault Refusal :=
  onResident (fun s => granted s 7) (vaultOp op owner inlen auxlen entropyOk) s

/-! ### The debug certificate (R486, R487) -/

/-- The DEBUGKEYS entry of an index. -/
def debugKey (s : State) (k : Nat) : Option SeedEntry := seedFind s 0x15 1 k

/-- The granted set (R486). -/
def grantedSet (s : State) (c : List Byte) : Byte :=
  let k := match debugKey s (numAt c 6 1) with
    | none => 0#8
    | some e => BitVec.ofNat 8 (e.num 1 1)
  let g := BitVec.ofNat 8 (numAt c 5 1) &&& k
  if debugDis s.fuse.view then g &&& 0xEF else g

/-- Check 1: ASCII "OLDB", VER, and every zero field. -/
def certFormat (c : List Byte) : Bool :=
  asciiAt c 0 [0x4F, 0x4C, 0x44, 0x42] && decide (numAt c 4 1 = 1) && zeroAt c 7 1 && zeroAt c 22 2 && zeroAt c 30 2 && zeroAt c 36 28

/-- Check 3: the key is listed. -/
def certKey (s : State) (c : List Byte) : Bool := match debugKey s (numAt c 6 1) with
  | none => false
  | some e => decide ((e.data.drop 4).take 32 = sha256 (bytesAt c 64 64))

/-- Check 5: the calendar lies in the window. -/
def certTime (s : State) (c : List Byte) : Bool :=
  let a := numAt c 16 8
  let b := numAt c 24 8
  let t := s.bkp.cal.sec.toNat
  s.bkp.cal.valid && decide (a < b ∧ a ≤ t ∧ t < b)

/-- Check 6: the new value of counter 0. -/
def certCounter (s : State) (c : List Byte) : Bool :=
  let v := counterValue s 0
  let t := numAt c 32 4
  decide (v < t ∧ t ≤ v + 64)

/-- The modes CERT is open in; a halted Enclosure has no Headland. -/
def certMode (s : State) : Bool := decide (s.sys.mode = Mode.run ∨ s.sys.mode = Mode.service ∨ s.sys.mode = Mode.limp)

/-- Check 7: the state at acceptance. -/
def certState (s : State) (c : List Byte) : Bool := decide (grantedSet s c ≠ 0) && !s.pins.svcPresentHigh && certMode s

/-- The first check that fails, 0 for none. NV_PROT stands for the refused advance of check 6. -/
def certCode (s : State) (c : List Byte) : Nat :=
  if !certFormat c then 1
  else if bytesAt c 8 8 ≠ serialBytes s then 2
  else if !certKey s c then 3
  else if !ecdsaVerify (bytesAt c 64 64) (sha256 (c.take 128)) (bytesAt c 128 64) then 4
  else if !certTime s c then 5
  else if !certCounter s c || ldgProtected s 2 then 6
  else if !certState s c then 7
  else 0

/-- A refusal; the advance that NV_PROT refused is counted. -/
def certRefuse (k : Nat) (tried : Bool) (s : State) : State :=
  let s := if tried then countProt s else s
  hldErr (BitVec.ofNat 8 (0x10 + k)) { s with hld := { s.hld with lastRefusal := BitVec.ofNat 4 k } }

/-- Acceptance: counter 0, HLD.SCOPE and HLD.END, and Service. -/
def certAccept (c : List Byte) (s : State) : State :=
  let set := grantedSet s c
  let s := stepCounterN 0 (numAt c 32 4 - counterValue s 0) s
  let s := { s with hld := { s.hld with scope := set, endSec := BitVec.ofNat 48 (numAt c 24 6), keyIdx := BitVec.ofNat 3 (numAt c 6 1)
                                        accepted := satInc s.hld.accepted } }
  let s := if s.sys.mode = Mode.service then s
    else enterMode Mode.service { s with sys := { s.sys with serviceFrom := s.sys.mode } }
  hldAnswer { values := [set.toNat, numAt c 24 8] } s

def certOp (s : State) : State :=
  let c := hldBuf s 0 192
  let s := zeroBuf s
  let k := certCode s c
  if k = 0 then certAccept c s else certRefuse k (decide (k = 6) && certCounter s c) s

/-- CERT (R487). -/
def execCert (s : State) : Host.Outcome State Fault Refusal := onResident certMode certOp s

/-- EXIT (R484, R488). -/
def execExit (s : State) : Host.Outcome State Fault Refusal :=
  onResident (fun s => decide (s.sys.mode = Mode.service)) (fun s => hldOk (modeReq 4 s)) s

/-! ### RD and WR (R484, R485) -/

/-- `n` words read from an aligned address upward. -/
def readWords (r : Req) : Nat → Word → State → List Nat × State
  | 0, _, s => ([], s)
  | k + 1, a, s =>
    let (v, s) := accessRead r a .word s
    let (rest, s) := readWords r k (a + 4) s
    (v.toNat :: rest, s)

def rdOp (addr : Word) (n : Nat) (s : State) : State :=
  if addr.toNat % 4 ≠ 0 ∨ n = 0 ∨ 16 < n then hldErr 1 s
  else
    let (vs, s) := readWords .headland n addr s
    hldAnswer { values := vs } s

/-- RD (R484, R485). -/
def execRd (addr : Word) (n : Nat) (s : State) : Host.Outcome State Fault Refusal := onResident (fun s => granted s 0) (rdOp addr n) s

def wrOp (addr value : Word) (s : State) : State :=
  if addr.toNat % 4 ≠ 0 then hldErr 1 s else hldOk (accessWrite .headland addr .word value s)

/-- WR (R484, R485). -/
def execWr (addr value : Word) (s : State) : Host.Outcome State Fault Refusal := onResident (fun s => granted s 1) (wrOp addr value) s

/-! ### Halting threads (R490) -/

/-- HALT (R490). -/
def execHalt (t : Thread) (s : State) : Host.Outcome State Fault Refusal :=
  onResident (fun s => granted s 3) (fun s => hldOk (haltThread t s)) s

/-- GO (R490). -/
def execGo (t : Thread) (s : State) : Host.Outcome State Fault Refusal :=
  onResident (fun s => granted s 3) (fun s => hldOk (resumeThread t s)) s

/-- What the DEBUG handler saved of a thread: the registers, FLAGS, EPC and ESTS; nothing of a thread not halted. -/
def savedRegs (s : State) (t : Thread) : List Nat :=
  let x := thr s t
  if !x.debug then []
  else (fins 32).map (fun k => (gpr s t (BitVec.ofNat 5 k.val)).toNat) ++
    [bitsAt x.ext.now.ests 0 8, x.ext.now.epc.toNat, x.ext.now.ests.toNat]

/-- REGS (R490). -/
def execRegs (t : Thread) (s : State) : Host.Outcome State Fault Refusal :=
  onResident (fun s => granted s 3) (fun s => hldAnswer { values := savedRegs s t } s) s

/-! ### Staging (R143 to R145, R484) -/

/-- STAGE is open: under its scope, or in Limp reason 1. -/
def stageOpenTo (s : State) : Bool := granted s 5 || limpReason s 1

/-- A staging operation's answer on the line; one that the store must finish is answered then. -/
def stageLine (p : StageAns × State) : State := match p with
  | (.busy, s) => hldErr 4 s
  | (.done, s) => hldOk s
  | (.later, s) => s

/-- An operation of the Headland's own session; without one it is carried out silently (R8). -/
def inHldSession (act : State → State) (s : State) : State := if holdsStage s 1 then act s else hldOk s

/-- HL_STAGE_OPEN (R143, R484). -/
def execHlStageOpen (s : State) : Host.Outcome State Fault Refusal := onResident stageOpenTo (fun s => stageLine (stageOpenOp 1 none s)) s

def hlWriteOp (off len : Nat) (s : State) : State :=
  if !stageWriteFormOk off len || decide (512 < len) then hldErr 1 s
  else
    let bs := hldBuf s 0 len
    inHldSession (fun s => stageLine (stageWriteOp off bs s)) (zeroBuf s)

/-- HL_STAGE_WRITE (R143, R484). -/
def execHlStageWrite (off len : Nat) (s : State) : Host.Outcome State Fault Refusal := onResident stageOpenTo (hlWriteOp off len) s

/-- HL_STAGE_CHECK (R143, R484). -/
def execHlStageCheck (uncorrectable : Bool) (s : State) : Host.Outcome State Fault Refusal :=
  onResident stageOpenTo (inHldSession fun s => stageLine (stageCheckOp uncorrectable s)) s

/-- HL_STAGE_ACTIVATE (R143, R145, R484). -/
def execHlStageActivate (s : State) : Host.Outcome State Fault Refusal :=
  onResident stageOpenTo (inHldSession fun s => stageLine (stageActivateOp none s)) s

/-- HL_STAGE_ABORT (R143, R484). -/
def execHlStageAbort (s : State) : Host.Outcome State Fault Refusal :=
  onResident stageOpenTo (inHldSession fun s => stageLine (stageAbortOp s)) s

/-! ### Repair (R79, R242, R484) -/

/-- UNRETIRE (R242, R484): the resident firmware writes SYS.UNRETIRE. -/
def execUnretire (n : Chan) (s : State) : Host.Outcome State Fault Refusal :=
  onResident (fun s => granted s 6) (fun s => hldOk (unretireWrite .encl n s)) s

/-- BKPRST (R79, R484): the REQUEST of a backup-domain reset. -/
def execBkprst (s : State) : Host.Outcome State Fault Refusal :=
  onResident (fun s => granted s 6) (fun s => hldOk (bkpReset 3 s)) s

/-! ### Lines and the TAP (R480, R481, R491, R492) -/

/-- LINE_TIMEOUT (R480): a partial line is discarded without an answer; the model holds no part of a line. -/
def execLineTimeout (s : State) : Host.Outcome State Fault Refusal := .next s

/-- HEADLAND_UNKNOWN_LINE (R481): ER 01 for an overflow, ER 02 for no command. -/
def execHeadlandUnknownLine (overflow : Bool) (s : State) : Host.Outcome State Fault Refusal :=
  .next (if romRuns s || residentRuns s then hldErr (if overflow then 1 else 2) s else s)

def setTap (data : Word) (status : BitVec 2) (s : State) : State := { s with hld := { s.hld with tapData := data, tapStatus := status } }

/-- A transaction of DBGACC at Update-DR: it enters TAPQ and is carried out. -/
def tapOp (op : BitVec 2) (data addr : Word) (s : State) : State :=
  let closed := setTap s.hld.tapData 2 s
  match op.toNat with
  | 1 =>
    if !scopeHas s 0 then closed
    else
      let s := qPass 107 s
      if addr.toNat % 4 ≠ 0 then setTap 0 0 s
      else
        let (v, s) := accessRead .tap addr .word s
        setTap v 0 s
  | 2 =>
    if !scopeHas s 1 then closed
    else
      let s := setTap s.hld.tapData 0 (qPass 107 s)
      if addr.toNat % 4 ≠ 0 then s else accessWrite .tap addr .word data s
  | _ => s

/-- DBGACC (R491, R492): without TAP granted the TAP has BYPASS in its place. -/
def execDbgacc (op : BitVec 2) (data addr : Word) (s : State) : Host.Outcome State Fault Refusal :=
  .next (if mainOn s && granted s 4 then tapOp op data addr s else s)

end Sys2Proof.Machine
end

