-- ==== Sys2Proof/Machine/SvcRows.lean ====
section
/-! DEFINITION. The services of the resident Enclosure firmware that STILE reaches (R330, R337). -/

namespace Sys2Proof.Machine

/-- A service row acts for a thread inside STILE whose Enclosure bank names the service, or for an Enclosure thread; to a
number that is not listed the firmware answers with zeros (R330). -/
def onService (t : Thread) (n : Nat) (act : State → State) (s : State) : Host.Outcome State Fault Refusal :=
  .next (if serving s t n then act s else if unlisted s t then svcSilent t s else s)

/-- SVC_STATUS (R330). -/
def execSvcStatus (t : Thread) (s : State) : Host.Outcome State Fault Refusal :=
  onService t 0 (fun s => svcResults t 0 (sysModeWord s) (seedStsWord s) (bootStsWord s) s) s

/-- SVC_GRANARY (R330, R427). -/
def execSvcGranary (t : Thread) (s : State) : Host.Outcome State Fault Refusal := onService t 1 (svcGranaryOp t) s

/-- SVC_LEDGER (R330, R475). -/
def execSvcLedger (t : Thread) (s : State) : Host.Outcome State Fault Refusal := onService t 2 (svcLedgerOp t) s

/-- The thread may take the owner's tag: the seed names the owner, and a task of a bay's flow finds it in that bay's
OWNERS (R134, R337). -/
def ownerPermitted (s : State) (t : Thread) (o : Nat) : Bool :=
  (ownerEntry s o).isSome && (match actingBay s t with
    | none => true
    | some b => match bayRec s b with
      | none => false
      | some e => (e.num 32 8).testBit o)

/-- The thread's owner tag (R337). -/
def setOwnerTag (t : Thread) (tag : Byte) (s : State) : State := { s with guard := { s.guard with towner := vset s.guard.towner t tag } }

/-- OWNER_ENTER (R330, R337). -/
def execOwnerEnter (t : Thread) (s : State) : Host.Outcome State Fault Refusal :=
  onService t 3 (fun s =>
    let o := (stileReg s t 5).toNat
    svcSilent t (if ownerPermitted s t o then setOwnerTag t (BitVec.ofNat 8 o) s else s)) s

/-- OWNER_LEAVE (R330). -/
def execOwnerLeave (t : Thread) (s : State) : Host.Outcome State Fault Refusal :=
  onService t 4 (fun s => svcSilent t (setOwnerTag t 0xFF s)) s

/-- SVC_MODE (R330, R86, R98). -/
def execSvcMode (t : Thread) (s : State) : Host.Outcome State Fault Refusal :=
  onService t 5 (fun s => modeReq (stileReg s t 5).toNat (svcSilent t s)) s

/-- CAL.SET and its application (R68). -/
def setTime (lo hi : Word) (s : State) : State :=
  applyWrite (setCal s { s.bkp.cal with set := (hi.setWidth 16 : Half) ++ lo })

/-- SVC_TIME (R330, R68). -/
def execSvcTime (t : Thread) (s : State) : Host.Outcome State Fault Refusal :=
  onService t 6 (fun s =>
    let lo := stileReg s t 5
    let hi := stileReg s t 6
    svcSilent t (setTime lo hi s)) s

/-- SVC_RESET (R330, R102): 1 warm, 2 cold, any other kind refused. -/
def execSvcReset (t : Thread) (s : State) : Host.Outcome State Fault Refusal :=
  onService t 7 (fun s => resetWrite (stileReg s t 5).toNat (svcSilent t s)) s

end Sys2Proof.Machine
end

