-- ==== Sys2Proof/Machine/Dispatch.lean ====
section
/-! DEFINITION. Dispatch: one arm per command, each one direct call of its meaning. -/

namespace Sys2Proof.Machine

def exec (i : Instr) (s : State) : Host.Outcome State Fault Refusal :=
  match i with
  | .powerOn vsupMv svc5v => Sys2Proof.Machine.execPowerOn vsupMv svc5v s
  | .romSequence sense => Sys2Proof.Machine.execRomSequence sense s
  | .bootHandover r key => Sys2Proof.Machine.execBootHandover r key s
  | .seedApply sense => Sys2Proof.Machine.execSeedApply sense s
  | .commonsBind errA errB => Sys2Proof.Machine.execCommonsBind errA errB s
  | .coldResetRequest r => Sys2Proof.Machine.execColdResetRequest r s
  | .warmResetRequest r => Sys2Proof.Machine.execWarmResetRequest r s
  | .mainPowerLost => Sys2Proof.Machine.execMainPowerLost s
  | .pllLockLoss pll => Sys2Proof.Machine.execPllLockLoss pll s
  | .svc5vApplied => Sys2Proof.Machine.execSvc5vApplied s
  | .vsupOnServiceSupply mv => Sys2Proof.Machine.execVsupOnServiceSupply mv s
  | .vsupOvervoltage mv => Sys2Proof.Machine.execVsupOvervoltage mv s
  | .vsupLowRange mv => Sys2Proof.Machine.execVsupLowRange mv s
  | .railOverload j load => Sys2Proof.Machine.execRailOverload j load s
  | .railHiccup j => Sys2Proof.Machine.execRailHiccup j s
  | .railRestart j => Sys2Proof.Machine.execRailRestart j s
  | .bayPowerRequest r b on => Sys2Proof.Machine.execBayPowerRequest r b on s
  | .bayOutputFault b => Sys2Proof.Machine.execBayOutputFault b s
  | .bayReenable b => Sys2Proof.Machine.execBayReenable b s
  | .bayBudgetShed baseMc m0 m1 m2 m3 tripped => Sys2Proof.Machine.execBayBudgetShed baseMc m0 m1 m2 m3 tripped s
  | .thermalWarn tj => Sys2Proof.Machine.execThermalWarn tj s
  | .thermalShed tj => Sys2Proof.Machine.execThermalShed tj s
  | .thermalShutdown tj => Sys2Proof.Machine.execThermalShutdown tj s
  | .thermalRecovery tj => Sys2Proof.Machine.execThermalRecovery tj s
  | .ignChange level => Sys2Proof.Machine.execIgnChange level s
  | .safeInAssert asserted => Sys2Proof.Machine.execSafeInAssert asserted s
  | .svcPresentChange high => Sys2Proof.Machine.execSvcPresentChange high s
  | .nvProtDeassert asserted => Sys2Proof.Machine.execNvProtDeassert asserted s
  | .supplySwitchover src battMv vcapMv vbkMv => Sys2Proof.Machine.execSupplySwitchover src battMv vcapMv vbkMv s
  | .vbkLow vbkMv => Sys2Proof.Machine.execVbkLow vbkMv s
  | .powerDecay => Sys2Proof.Machine.execPowerDecay s
  | .decayRecovery => Sys2Proof.Machine.execDecayRecovery s
  | .backupPor => Sys2Proof.Machine.execBackupPor s
  | .bkpResetWrite r key => Sys2Proof.Machine.execBkpResetWrite r key s
  | .calSecond => Sys2Proof.Machine.execCalSecond s
  | .calSecLoRead r => Sys2Proof.Machine.execCalSecLoRead r s
  | .timeLoRead r => Sys2Proof.Machine.execTimeLoRead r s
  | .calApply r => Sys2Proof.Machine.execCalApply r s
  | .calApplyEdge => Sys2Proof.Machine.execCalApplyEdge s
  | .alarmWrite r a hi value => Sys2Proof.Machine.execAlarmWrite r a hi value s
  | .alarmFire a => Sys2Proof.Machine.execAlarmFire a s
  | .wakeoutRelease a => Sys2Proof.Machine.execWakeoutRelease a s
  | .wakePulseEnd => Sys2Proof.Machine.execWakePulseEnd s
  | .intrusionTrip sensors => Sys2Proof.Machine.execIntrusionTrip sensors s
  | .fuseBlow r bitNo => Sys2Proof.Machine.execFuseBlow r bitNo s
  | .fuseBlowDone verified => Sys2Proof.Machine.execFuseBlowDone verified s
  | .remeasureDone uncorrectable timeUs => Sys2Proof.Machine.execRemeasureDone uncorrectable timeUs s
  | .sleepRequest r => Sys2Proof.Machine.execSleepRequest r s
  | .sleepDrainEnd => Sys2Proof.Machine.execSleepDrainEnd s
  | .sleepDrainTimeout => Sys2Proof.Machine.execSleepDrainTimeout s
  | .wakePathComplete latUs => Sys2Proof.Machine.execWakePathComplete latUs s
  | .serviceExitRequest r => Sys2Proof.Machine.execServiceExitRequest r s
  | .serviceWindowEnd => Sys2Proof.Machine.execServiceWindowEnd s
  | .furrowFreqWrite r f hz => Sys2Proof.Machine.execFurrowFreqWrite r f hz s
  | .furrowRelockStart f => Sys2Proof.Machine.execFurrowRelockStart f s
  | .furrowLocked f => Sys2Proof.Machine.execFurrowLocked f s
  | .furrowWriteAbandon f => Sys2Proof.Machine.execFurrowWriteAbandon f s
  | .clockMeasureStart r dom => Sys2Proof.Machine.execClockMeasureStart r dom s
  | .clockMeasureDone count => Sys2Proof.Machine.execClockMeasureDone count s
  | .d5Hop => Sys2Proof.Machine.execD5Hop s
  | .channelEnable r n => Sys2Proof.Machine.execChannelEnable r n s
  | .channelReset r n => Sys2Proof.Machine.execChannelReset r n s
  | .characterReceive n samples startAmp peak => Sys2Proof.Machine.execCharacterReceive n samples startAmp peak s
  | .frameComplete n => Sys2Proof.Machine.execFrameComplete n s
  | .frameConfirm n => Sys2Proof.Machine.execFrameConfirm n s
  | .frameGapTimeout n => Sys2Proof.Machine.execFrameGapTimeout n s
  | .overlap n amp edge => Sys2Proof.Machine.execOverlap n amp edge s
  | .ovlHoldEnd n => Sys2Proof.Machine.execOvlHoldEnd n s
  | .pinChange n levels => Sys2Proof.Machine.execPinChange n levels s
  | .post n => Sys2Proof.Machine.execPost n s
  | .postDeadline n => Sys2Proof.Machine.execPostDeadline n s
  | .replyStart due => Sys2Proof.Machine.execReplyStart due s
  | .replyDone n => Sys2Proof.Machine.execReplyDone n s
  | .replyAbandon n => Sys2Proof.Machine.execReplyAbandon n s
  | .replyOutcome n => Sys2Proof.Machine.execReplyOutcome n s
  | .txPost r n cells len => Sys2Proof.Machine.execTxPost r n cells len s
  | .txFrameStart n => Sys2Proof.Machine.execTxFrameStart n s
  | .txFrameDone n => Sys2Proof.Machine.execTxFrameDone n s
  | .txCollision n => Sys2Proof.Machine.execTxCollision n s
  | .retryBackoffEnd n => Sys2Proof.Machine.execRetryBackoffEnd n s
  | .watchMatch n address => Sys2Proof.Machine.execWatchMatch n address s
  | .watchHandback n => Sys2Proof.Machine.execWatchHandback n s
  | .csTransferStart n => Sys2Proof.Machine.execCsTransferStart n s
  | .csTransferEnd n words => Sys2Proof.Machine.execCsTransferEnd n words s
  | .strbWaitEnd n bits words => Sys2Proof.Machine.execStrbWaitEnd n bits words s
  | .modeFault n => Sys2Proof.Machine.execModeFault n s
  | .modeFaultClear r n => Sys2Proof.Machine.execModeFaultClear r n s
  | .slaveSelect n => Sys2Proof.Machine.execSlaveSelect n s
  | .slaveWord n word => Sys2Proof.Machine.execSlaveWord n word s
  | .slaveRelease n partialBits => Sys2Proof.Machine.execSlaveRelease n partialBits s
  | .errSubwindow n => Sys2Proof.Machine.execErrSubwindow n s
  | .pinMonitorSample n pin reading => Sys2Proof.Machine.execPinMonitorSample n pin reading s
  | .pinFaultPersist n => Sys2Proof.Machine.execPinFaultPersist n s
  | .driverLinkLoss j => Sys2Proof.Machine.execDriverLinkLoss j s
  | .retireFoldDone => Sys2Proof.Machine.execRetireFoldDone s
  | .sysUnretireWrite r n => Sys2Proof.Machine.execSysUnretireWrite r n s
  | .channelEventAdmit q => Sys2Proof.Machine.execChannelEventAdmit q s
  | .taskDispatch => Sys2Proof.Machine.execTaskDispatch s
  | .agePromotion d => Sys2Proof.Machine.execAgePromotion d s
  | .matchTimeout e => Sys2Proof.Machine.execMatchTimeout e s
  | .taskRelease d => Sys2Proof.Machine.execTaskRelease d s
  | .drillTimerStart r k => Sys2Proof.Machine.execDrillTimerStart r k s
  | .drillTimerFire k => Sys2Proof.Machine.execDrillTimerFire k s
  | .deadlinePass t => Sys2Proof.Machine.execDeadlinePass t s
  | .histClear r => Sys2Proof.Machine.execHistClear r s
  | .loadWindowEnd c => Sys2Proof.Machine.execLoadWindowEnd c s
  | .overloadSubwindow f => Sys2Proof.Machine.execOverloadSubwindow f s
  | .snapshotStart r => Sys2Proof.Machine.execSnapshotStart r s
  | .snapshotDone => Sys2Proof.Machine.execSnapshotDone s
  | .taskStart t => Sys2Proof.Machine.execTaskStart t s
  | .interruptStart t => Sys2Proof.Machine.execInterruptStart t s
  | .tickExpire t => Sys2Proof.Machine.execTickExpire t s
  | .kick r core th => Sys2Proof.Machine.execKick r core th s
  | .coreModeChange c => Sys2Proof.Machine.execCoreModeChange c s
  | .loadE r => Sys2Proof.Machine.execLoadE r s
  | .loadC r => Sys2Proof.Machine.execLoadC r s
  | .vectorLoadDone => Sys2Proof.Machine.execVectorLoadDone s
  | .lineFillDone c encl addr uncorrectable => Sys2Proof.Machine.execLineFillDone c encl addr uncorrectable s
  | .dataReturn back => Sys2Proof.Machine.execDataReturn back s
  | .add t rd rs1 rs2 => Sys2Proof.Machine.execAdd t rd rs1 rs2 s
  | .sub t rd rs1 rs2 => Sys2Proof.Machine.execSub t rd rs1 rs2 s
  | .and t rd rs1 rs2 => Sys2Proof.Machine.execAnd t rd rs1 rs2 s
  | .or t rd rs1 rs2 => Sys2Proof.Machine.execOr t rd rs1 rs2 s
  | .xor t rd rs1 rs2 => Sys2Proof.Machine.execXor t rd rs1 rs2 s
  | .sll t rd rs1 rs2 => Sys2Proof.Machine.execSll t rd rs1 rs2 s
  | .srl t rd rs1 rs2 => Sys2Proof.Machine.execSrl t rd rs1 rs2 s
  | .sra t rd rs1 rs2 => Sys2Proof.Machine.execSra t rd rs1 rs2 s
  | .slt t rd rs1 rs2 => Sys2Proof.Machine.execSlt t rd rs1 rs2 s
  | .sltu t rd rs1 rs2 => Sys2Proof.Machine.execSltu t rd rs1 rs2 s
  | .min t rd rs1 rs2 => Sys2Proof.Machine.execMin t rd rs1 rs2 s
  | .max t rd rs1 rs2 => Sys2Proof.Machine.execMax t rd rs1 rs2 s
  | .minu t rd rs1 rs2 => Sys2Proof.Machine.execMinu t rd rs1 rs2 s
  | .maxu t rd rs1 rs2 => Sys2Proof.Machine.execMaxu t rd rs1 rs2 s
  | .clz t rd rs1 => Sys2Proof.Machine.execClz t rd rs1 s
  | .popc t rd rs1 => Sys2Proof.Machine.execPopc t rd rs1 s
  | .bswap t rd rs1 => Sys2Proof.Machine.execBswap t rd rs1 s
  | .cmp t rs1 rs2 => Sys2Proof.Machine.execCmp t rs1 rs2 s
  | .mul t rd rs1 rs2 => Sys2Proof.Machine.execMul t rd rs1 rs2 s
  | .mulh t rd rs1 rs2 => Sys2Proof.Machine.execMulh t rd rs1 rs2 s
  | .mulhu t rd rs1 rs2 => Sys2Proof.Machine.execMulhu t rd rs1 rs2 s
  | .div t rd rs1 rs2 => Sys2Proof.Machine.execDiv t rd rs1 rs2 s
  | .divu t rd rs1 rs2 => Sys2Proof.Machine.execDivu t rd rs1 rs2 s
  | .rem t rd rs1 rs2 => Sys2Proof.Machine.execRem t rd rs1 rs2 s
  | .remu t rd rs1 rs2 => Sys2Proof.Machine.execRemu t rd rs1 rs2 s
  | .addi t rd rs1 imm => Sys2Proof.Machine.execAddi t rd rs1 imm s
  | .andi t rd rs1 imm => Sys2Proof.Machine.execAndi t rd rs1 imm s
  | .ori t rd rs1 imm => Sys2Proof.Machine.execOri t rd rs1 imm s
  | .xori t rd rs1 imm => Sys2Proof.Machine.execXori t rd rs1 imm s
  | .slti t rd rs1 imm => Sys2Proof.Machine.execSlti t rd rs1 imm s
  | .sltui t rd rs1 imm => Sys2Proof.Machine.execSltui t rd rs1 imm s
  | .shiSll t rd rs1 sh => Sys2Proof.Machine.execShiSll t rd rs1 sh s
  | .shiSrl t rd rs1 sh => Sys2Proof.Machine.execShiSrl t rd rs1 sh s
  | .shiSra t rd rs1 sh => Sys2Proof.Machine.execShiSra t rd rs1 sh s
  | .lui t rd imm => Sys2Proof.Machine.execLui t rd imm s
  | .cmpi t rs1 imm => Sys2Proof.Machine.execCmpi t rs1 imm s
  | .lb t rd rs1 imm => Sys2Proof.Machine.execLb t rd rs1 imm s
  | .lbu t rd rs1 imm => Sys2Proof.Machine.execLbu t rd rs1 imm s
  | .lh t rd rs1 imm => Sys2Proof.Machine.execLh t rd rs1 imm s
  | .lhu t rd rs1 imm => Sys2Proof.Machine.execLhu t rd rs1 imm s
  | .lw t rd rs1 imm => Sys2Proof.Machine.execLw t rd rs1 imm s
  | .sb t rs2 rs1 imm => Sys2Proof.Machine.execSb t rs2 rs1 imm s
  | .sh t rs2 rs1 imm => Sys2Proof.Machine.execSh t rs2 rs1 imm s
  | .sw t rs2 rs1 imm => Sys2Proof.Machine.execSw t rs2 rs1 imm s
  | .amoswap t rd rs1 rs2 => Sys2Proof.Machine.execAmoswap t rd rs1 rs2 s
  | .amoadd t rd rs1 rs2 => Sys2Proof.Machine.execAmoadd t rd rs1 rs2 s
  | .amoand t rd rs1 rs2 => Sys2Proof.Machine.execAmoand t rd rs1 rs2 s
  | .amoor t rd rs1 rs2 => Sys2Proof.Machine.execAmoor t rd rs1 rs2 s
  | .cas t rd rs1 rs2 => Sys2Proof.Machine.execCas t rd rs1 rs2 s
  | .bcc t cond off => Sys2Proof.Machine.execBcc t cond off s
  | .cbz t rs1 imm => Sys2Proof.Machine.execCbz t rs1 imm s
  | .cbnz t rs1 imm => Sys2Proof.Machine.execCbnz t rs1 imm s
  | .j t off => Sys2Proof.Machine.execJ t off s
  | .jal t off => Sys2Proof.Machine.execJal t off s
  | .jalr t rd rs1 imm => Sys2Proof.Machine.execJalr t rd rs1 imm s
  | .bmov t rd rs1 rs2 => Sys2Proof.Machine.execBmov t rd rs1 rs2 s
  | .nop t => Sys2Proof.Machine.execNop t s
  | .csync t => Sys2Proof.Machine.execCsync t s
  | .fence t => Sys2Proof.Machine.execFence t s
  | .waiti t => Sys2Proof.Machine.execWaiti t s
  | .reti t => Sys2Proof.Machine.execReti t s
  | .trap t imm => Sys2Proof.Machine.execTrap t imm s
  | .brk t imm => Sys2Proof.Machine.execBrk t imm s
  | .stile t service => Sys2Proof.Machine.execStile t service s
  | .leave t => Sys2Proof.Machine.execLeave t s
  | .tdone t status => Sys2Proof.Machine.execTdone t status s
  | .getf t rd => Sys2Proof.Machine.execGetf t rd s
  | .setf t rs1 => Sys2Proof.Machine.execSetf t rs1 s
  | .tsync t => Sys2Proof.Machine.execTsync t s
  | .temit t rd rs1 => Sys2Proof.Machine.execTemit t rd rs1 s
  | .tcancel t rd rs1 => Sys2Proof.Machine.execTcancel t rd rs1 s
  | .tcancelEntry t rd rs1 rs2 => Sys2Proof.Machine.execTcancelEntry t rd rs1 rs2 s
  | .tld t td rs1 rs2 => Sys2Proof.Machine.execTld t td rs1 rs2 s
  | .tst t ta rs1 rs2 => Sys2Proof.Machine.execTst t ta rs1 rs2 s
  | .tmma t td ta tb rs1 => Sys2Proof.Machine.execTmma t td ta tb rs1 s
  | .tel t td ta tb rs1 => Sys2Proof.Machine.execTel t td ta tb rs1 s
  | .tzero t td => Sys2Proof.Machine.execTzero t td s
  | .tnote t rs1 rs2 => Sys2Proof.Machine.execTnote t rs1 rs2 s
  | .geomWrite r tile value => Sys2Proof.Machine.execGeomWrite r tile value s
  | .tileExecute => Sys2Proof.Machine.execTileExecute s
  | .tileCompletion => Sys2Proof.Machine.execTileCompletion s
  | .tilePolicyChange => Sys2Proof.Machine.execTilePolicyChange s
  | .svcStatus t => Sys2Proof.Machine.execSvcStatus t s
  | .svcGranary t => Sys2Proof.Machine.execSvcGranary t s
  | .svcLedger t => Sys2Proof.Machine.execSvcLedger t s
  | .ownerEnter t => Sys2Proof.Machine.execOwnerEnter t s
  | .ownerLeave t => Sys2Proof.Machine.execOwnerLeave t s
  | .svcMode t => Sys2Proof.Machine.execSvcMode t s
  | .svcTime t => Sys2Proof.Machine.execSvcTime t s
  | .svcReset t => Sys2Proof.Machine.execSvcReset t s
  | .guardProbe r value => Sys2Proof.Machine.execGuardProbe r value s
  | .guardLock r => Sys2Proof.Machine.execGuardLock r s
  | .wdogKick r => Sys2Proof.Machine.execWdogKick r s
  | .watchdogWarn => Sys2Proof.Machine.execWatchdogWarn s
  | .watchdogExpire => Sys2Proof.Machine.execWatchdogExpire s
  | .sqDoorbell b q value => Sys2Proof.Machine.execSqDoorbell b q value s
  | .cqDoorbell b q value => Sys2Proof.Machine.execCqDoorbell b q value s
  | .sqFetchDone b q entries => Sys2Proof.Machine.execSqFetchDone b q entries s
  | .dataInDone b slot data => Sys2Proof.Machine.execDataInDone b slot data s
  | .submit b => Sys2Proof.Machine.execSubmit b s
  | .cancel b => Sys2Proof.Machine.execCancel b s
  | .stageOpen b => Sys2Proof.Machine.execStageOpen b s
  | .stageWrite b => Sys2Proof.Machine.execStageWrite b s
  | .stageCheck b uncorrectable => Sys2Proof.Machine.execStageCheck b uncorrectable s
  | .stageActivate b => Sys2Proof.Machine.execStageActivate b s
  | .stageAbort b => Sys2Proof.Machine.execStageAbort b s
  | .stageEraseDone => Sys2Proof.Machine.execStageEraseDone s
  | .stageCopyDone uncorrectable => Sys2Proof.Machine.execStageCopyDone uncorrectable s
  | .granary b => Sys2Proof.Machine.execGranary b s
  | .status b => Sys2Proof.Machine.execStatus b s
  | .notifyGo t b => Sys2Proof.Machine.execNotifyGo t b s
  | .msixUnmask b vec => Sys2Proof.Machine.execMsixUnmask b vec s
  | .dmaError b failure => Sys2Proof.Machine.execDmaError b failure s
  | .bar2Access b req off len data => Sys2Proof.Machine.execBar2Access b req off len data s
  | .ltrUpdate b => Sys2Proof.Machine.execLtrUpdate b s
  | .presenceChange b present => Sys2Proof.Machine.execPresenceChange b present s
  | .attentionButton b => Sys2Proof.Machine.execAttentionButton b s
  | .buttonWindowEnd b => Sys2Proof.Machine.execButtonWindowEnd b s
  | .quiesceTimeout b => Sys2Proof.Machine.execQuiesceTimeout b s
  | .surpriseRemoval b linkDown => Sys2Proof.Machine.execSurpriseRemoval b linkDown s
  | .perstAssert b => Sys2Proof.Machine.execPerstAssert b s
  | .perstDeassert b => Sys2Proof.Machine.execPerstDeassert b s
  | .hotReset b => Sys2Proof.Machine.execHotReset b s
  | .functionLevelReset b => Sys2Proof.Machine.execFunctionLevelReset b s
  | .linkUp b speed credits => Sys2Proof.Machine.execLinkUp b speed credits s
  | .granaryStart pufOk => Sys2Proof.Machine.execGranaryStart pufOk s
  | .seal entropyOk => Sys2Proof.Machine.execSeal entropyOk s
  | .grnOpen => Sys2Proof.Machine.execGrnOpen s
  | .wrap => Sys2Proof.Machine.execWrap s
  | .unwrap => Sys2Proof.Machine.execUnwrap s
  | .mkleaf => Sys2Proof.Machine.execMkleaf s
  | .grnExport => Sys2Proof.Machine.execGrnExport s
  | .respond => Sys2Proof.Machine.execRespond s
  | .check => Sys2Proof.Machine.execCheck s
  | .sign entropyOk => Sys2Proof.Machine.execSign entropyOk s
  | .pubkey => Sys2Proof.Machine.execPubkey s
  | .ecdh => Sys2Proof.Machine.execEcdh s
  | .hash => Sys2Proof.Machine.execHash s
  | .random entropyOk => Sys2Proof.Machine.execRandom entropyOk s
  | .nonce entropyOk => Sys2Proof.Machine.execNonce entropyOk s
  | .create entropyOk => Sys2Proof.Machine.execCreate entropyOk s
  | .delete => Sys2Proof.Machine.execDelete s
  | .rebind => Sys2Proof.Machine.execRebind s
  | .restore => Sys2Proof.Machine.execRestore s
  | .nonceExpire => Sys2Proof.Machine.execNonceExpire s
  | .remaskPass => Sys2Proof.Machine.execRemaskPass s
  | .backupShareInvert => Sys2Proof.Machine.execBackupShareInvert s
  | .granaryCompletion => Sys2Proof.Machine.execGranaryCompletion s
  | .ledgerRead ecc => Sys2Proof.Machine.execLedgerRead ecc s
  | .ledgerWrite => Sys2Proof.Machine.execLedgerWrite s
  | .ledgerErase => Sys2Proof.Machine.execLedgerErase s
  | .cread => Sys2Proof.Machine.execCread s
  | .cadvance => Sys2Proof.Machine.execCadvance s
  | .log => Sys2Proof.Machine.execLog s
  | .lread ecc => Sys2Proof.Machine.execLread ecc s
  | .counterIncrement c => Sys2Proof.Machine.execCounterIncrement c s
  | .ledgerCompletion => Sys2Proof.Machine.execLedgerCompletion s
  | .patrolVisit weak => Sys2Proof.Machine.execPatrolVisit weak s
  | .startPass weakRows => Sys2Proof.Machine.execStartPass weakRows s
  | .romInfo => Sys2Proof.Machine.execRomInfo s
  | .romBuf off data => Sys2Proof.Machine.execRomBuf off data s
  | .romNonce => Sys2Proof.Machine.execRomNonce s
  | .prov => Sys2Proof.Machine.execProv s
  | .provNonceExpire => Sys2Proof.Machine.execProvNonceExpire s
  | .slotaErase => Sys2Proof.Machine.execSlotaErase s
  | .slotaWrite off len => Sys2Proof.Machine.execSlotaWrite off len s
  | .fieldCmd => Sys2Proof.Machine.execFieldCmd s
  | .info => Sys2Proof.Machine.execInfo s
  | .time => Sys2Proof.Machine.execTime s
  | .buf off data => Sys2Proof.Machine.execBuf off data s
  | .hlNonce entropyOk => Sys2Proof.Machine.execHlNonce entropyOk s
  | .cert => Sys2Proof.Machine.execCert s
  | .exit => Sys2Proof.Machine.execExit s
  | .rd addr n => Sys2Proof.Machine.execRd addr n s
  | .wr addr value => Sys2Proof.Machine.execWr addr value s
  | .halt t => Sys2Proof.Machine.execHalt t s
  | .go t => Sys2Proof.Machine.execGo t s
  | .regs t => Sys2Proof.Machine.execRegs t s
  | .hlStageOpen => Sys2Proof.Machine.execHlStageOpen s
  | .hlStageWrite off len => Sys2Proof.Machine.execHlStageWrite off len s
  | .hlStageCheck uncorrectable => Sys2Proof.Machine.execHlStageCheck uncorrectable s
  | .hlStageActivate => Sys2Proof.Machine.execHlStageActivate s
  | .hlStageAbort => Sys2Proof.Machine.execHlStageAbort s
  | .unretire n => Sys2Proof.Machine.execUnretire n s
  | .bkprst => Sys2Proof.Machine.execBkprst s
  | .vault op owner inlen auxlen entropyOk => Sys2Proof.Machine.execVault op owner inlen auxlen entropyOk s
  | .lineTimeout => Sys2Proof.Machine.execLineTimeout s
  | .dbgacc op data addr => Sys2Proof.Machine.execDbgacc op data addr s
  | .registerWrite r addr width value => Sys2Proof.Machine.execRegisterWrite r addr width value s
  | .svc5vRemoved => Sys2Proof.Machine.execSvc5vRemoved s
  | .vsupReturnToRange mv => Sys2Proof.Machine.execVsupReturnToRange mv s
  | .flashOperationEnd bank op => Sys2Proof.Machine.execFlashOperationEnd bank op s
  | .updatefcReceived b items => Sys2Proof.Machine.execUpdatefcReceived b items s
  | .l1Exit b => Sys2Proof.Machine.execL1Exit b s
  | .illegalInstruction t word => Sys2Proof.Machine.execIllegalInstruction t word s
  | .dividerFree c => Sys2Proof.Machine.execDividerFree c s
  | .rstbEdgeOutsideTransfer n => Sys2Proof.Machine.execRstbEdgeOutsideTransfer n s
  | .headlandUnknownLine overflow => Sys2Proof.Machine.execHeadlandUnknownLine overflow s

end Sys2Proof.Machine
end

