-- ==== Sys2Proof/Machine/Tick.lean ====
section
/-! DEFINITION. A cycle of D3 in which no command comes: what counts by itself (R65, R69, R147, R252, R291, R342). -/

namespace Sys2Proof.Machine

/-- Edges of a clock of `f` Hz in the D3 cycle that begins at `now` (R147: D3 is 250 MHz). -/
def edgesIn (f now : Nat) : Nat := (now + 1) * f / 250000000 - now * f / 250000000

/-- Counts of SUBSEC at one D0 edge: one, and the trim spread over 2^20 edges (R69). -/
def trimmedCounts (trim : Byte) (phase : BitVec 20) : Nat :=
  let k := trim.toInt.natAbs
  let extra := (phase.toNat + 1) * k / 2 ^ 20 - phase.toNat * k / 2 ^ 20
  if trim.msb then 1 - extra else 1 + extra

/-- A D0 edge: SUBSEC counts up to its last value, and CAL_SECOND takes the wrap (R65). -/
def calEdge (c : Calendar) : Calendar :=
  { c with subsec := BitVec.ofNat 15 (min 32767 (c.subsec.toNat + trimmedCounts c.trim c.phase)), phase := c.phase + 1 }

/-- The calendar in one cycle. -/
def tickCal (s : State) : State :=
  if s.bkp.held ∨ edgesIn 32768 s.now = 0 then s else setCal s (calEdge s.bkp.cal)

/-- A thread's TICK counts D2 cycles down; at 0 it stops and sets IPEND.TICK (R291). -/
def tickThread (k : Nat) (t : Thread) (s : State) : State :=
  let x := thr s t
  let v := x.ext.tick.toNat
  if v = 0 ∨ k = 0 then s
  else
    let s := setThr s t { x with ext := { x.ext with tick := BitVec.ofNat 32 (v - k) } }
    if v ≤ k then setIpend t 0 s else s

/-- The threads that hold a task, for LOAD and TLOAD (R274). -/
def tickBusy (s : State) : Vector Nat 16 := Vector.ofFn fun t => vget s.drill.busy t + (if (thr s t).task.isSome then 1 else 0)

/-- DRILL.TIME, the load counts and the threads' TICKs, while the main die runs. -/
def tickMain (s : State) : State :=
  if !mainOn s then s
  else
    let k := edgesIn 320000000 s.now
    let s := { s with drill := { s.drill with time := s.drill.time + 1, busy := tickBusy s } }
    (fins 16).foldl (fun s t => tickThread k t s) s

/-- The watchdog's count (R342). -/
def tickWatchdog (s : State) : State :=
  if watchdogRuns s then { s with wld := { s.wld with elapsed := s.wld.elapsed + 1 } } else s

/-- One idle cycle (log entry 2). -/
def tick (s : State) : State :=
  let s := tickWatchdog (tickMain (tickCal s))
  { s with now := s.now + 1 }

end Sys2Proof.Machine
end

