-- ==== Sys2Proof/Safety.lean ====
section
/-! DEFINITION. The terms in which claims are stated: what every step keeps, and what an instruction leaves. -/

namespace Sys2Proof

open Machine

/-- The four memories are in canonical form. -/
def memoriesWf (m : Memories) : Bool :=
  Memory.wf sramBlank m.sram && Memory.wf norBlank m.flash && Memory.wf norBlank m.store && Memory.wf ledgerBlank m.ledger

/-- Every bit of one fuse array is set in another: fuses are blown once (R106). -/
def fusesWithin (a b : BitVec 4096) : Prop := a &&& b = a

/-- The PUF helper data of program flash (R110). -/
def pufHelper (s : State) : List Byte := flashRead s 0x087F8000 0x1000

/-- No step of the machine stops it. -/
def goesOn (s : State) : Prop := ∃ t, step s = .next t

/-! ### Instructions -/

/-- Only the thread, its core's divider and issue count, and the core's data cache, which the thread's last load fills,
may differ; and the model's own count of free values. -/
def OnlyThread (t : Thread) (s s' : State) : Prop :=
  s' = { s with cores := s'.cores, cache := s'.cache, draws := s'.draws } ∧
  s'.cores = { s.cores with thr := s'.cores.thr, core := s'.cores.core } ∧
  (∀ u, u ≠ t → thr s' u = thr s u) ∧ (∀ c, c ≠ coreOf t → Machine.core s' c = Machine.core s c) ∧
  Machine.core s' (coreOf t) = { Machine.core s (coreOf t) with
    divider := (Machine.core s' (coreOf t)).divider, perfIssue := (Machine.core s' (coreOf t)).perfIssue } ∧
  (∀ c, c ≠ coreOf t → cache s' c = cache s c) ∧
  cache s' (coreOf t) = { cache s (coreOf t) with dlines := (cache s' (coreOf t)).dlines }

/-- `s'` with what branch prediction did taken back: the core's PERF_MISPRED and its branch-target buffer (R281). -/
def unbranched (t : Thread) (s s' : State) : State :=
  let c := coreOf t
  setCache (setCore s' c { Machine.core s' c with perfMispred := (Machine.core s c).perfMispred }) c
    { cache s' c with btb := (cache s c).btb }

/-- `s'` with what a data access did beside its result taken back: the counters of CREG[c] and PERF_DMISS. -/
def unaccessed (t : Thread) (s s' : State) : State :=
  let c := coreOf t
  { setCore s' c { Machine.core s' c with perfDmiss := (Machine.core s c).perfDmiss } with clk := s.clk }

/-- Of the clocks and queues, only the counters of CREG[c] of the thread's core may differ (R155, R158). -/
def OnlyCreg (t : Thread) (s s' : State) : Prop :=
  s'.clk = { s.clk with q := s'.clk.q } ∧ ∀ k, k ≠ 88 + (coreOf t).val → qstat s' k = qstat s k

/-- Of the thread itself, only its registers, its PC, its FLAGS, its return stack and latch, the instruction that
may still be abandoned, and the mark of a task that has just started may differ. -/
def OnlyProgress (t : Thread) (s s' : State) : Prop :=
  thr s' t = { thr s t with commons := (thr s' t).commons, encl := (thr s' t).encl, pc := (thr s' t).pc
                            flags := (thr s' t).flags, ret := (thr s' t).ret, latch := (thr s' t).latch
                            outstanding := (thr s' t).outstanding, starting := (thr s' t).starting }

/-- Every general register of both banks is unchanged. -/
def SameRegs (t : Thread) (s s' : State) : Prop :=
  (thr s' t).commons = (thr s t).commons ∧ (thr s' t).encl = (thr s t).encl

/-- Every general register but `rd` of the bank in use is unchanged. -/
def SameRegsBut (t : Thread) (rd : Gpr) (s s' : State) : Prop :=
  (∀ r, r ≠ rd → gpr s' t r = gpr s t r) ∧
  (if onEnclBank s t then (thr s' t).commons = (thr s t).commons else (thr s' t).encl = (thr s t).encl)

/-- FLAGS, the return stack and the return latch are unchanged. -/
def SameStatus (t : Thread) (s s' : State) : Prop :=
  (thr s' t).flags = (thr s t).flags ∧ (thr s' t).ret = (thr s t).ret ∧ (thr s' t).latch = (thr s t).latch

/-- The frame of an instruction that writes one register. -/
def RegisterFrame (t : Thread) (rd : Gpr) (s s' : State) : Prop :=
  OnlyThread t s s' ∧ OnlyProgress t s s' ∧ SameRegsBut t rd s s' ∧ SameStatus t s s'

/-- The instruction completes: rd holds the value (g0 reads zero), the PC is at the next instruction, and the frame. -/
def WritesRegister (c : Instr) (t : Thread) (rd : Gpr) (v : Word) (s : State) : Prop :=
  ∃ s', exec c s = .next s' ∧ gpr s' t rd = (if rd = 0 then 0 else v) ∧ pcOf s' t = pcOf s t + 4 ∧ RegisterFrame t rd s s'

/-- The instruction completes with FLAGS as given and no register written. -/
def WritesFlags (c : Instr) (t : Thread) (f : BitVec 4) (s : State) : Prop :=
  ∃ s', exec c s = .next s' ∧ (thr s' t).flags = f ∧ pcOf s' t = pcOf s t + 4 ∧ OnlyThread t s s' ∧ OnlyProgress t s s' ∧
    SameRegs t s s' ∧ (thr s' t).ret = (thr s t).ret ∧ (thr s' t).latch = (thr s t).latch

/-- The instruction completes at an address with no register, flag or return entry changed. -/
def GoesTo (c : Instr) (t : Thread) (pc : Word) (s : State) : Prop :=
  ∃ s', exec c s = .next s' ∧ pcOf s' t = pc ∧ OnlyThread t s s' ∧ OnlyProgress t s s' ∧ SameRegs t s s' ∧ SameStatus t s s'

/-- A branch or jump completes at an address with no register, flag or return entry changed. -/
def Branches (c : Instr) (t : Thread) (pc : Word) (s : State) : Prop :=
  ∃ s', exec c s = .next s' ∧ pcOf s' t = pc ∧ OnlyThread t s (unbranched t s s') ∧ OnlyProgress t s s' ∧ SameRegs t s s' ∧
    SameStatus t s s'

/-- A load completes: rd holds the value (g0 reads zero), the PC is at the next instruction, and nothing but the access's
traces changes. -/
def LoadsRegister (c : Instr) (t : Thread) (rd : Gpr) (v : Word) (s : State) : Prop :=
  ∃ s', exec c s = .next s' ∧ gpr s' t rd = (if rd = 0 then 0 else v) ∧ pcOf s' t = pcOf s t + 4 ∧
    OnlyThread t s (unaccessed t s s') ∧ OnlyCreg t s s' ∧ OnlyProgress t s s' ∧ SameRegsBut t rd s s' ∧ SameStatus t s s'

/-- A store that no memory takes completes at the next instruction. -/
def StoresNothing (c : Instr) (t : Thread) (s : State) : Prop :=
  ∃ s', exec c s = .next s' ∧ pcOf s' t = pcOf s t + 4 ∧ OnlyThread t s { s' with clk := s.clk } ∧ OnlyCreg t s s' ∧
    OnlyProgress t s s' ∧ SameRegs t s s' ∧ SameStatus t s s'

/-- The address of an instruction `k` instructions away (R300). -/
def instrAt (pc : Word) (k : Int) : Word := BitVec.ofInt 32 (pc.toNat + 4 * k)

/-- A byte of SRAM as it reads. -/
def sramByte (s : State) (k : Nat) : Byte := tabGet sramBlank s.mem.sram k

/-- SRAM reads as before at every address outside `n` bytes from `a`, and the other memories are unchanged. -/
def SramBut (a n : Nat) (s s' : State) : Prop :=
  s'.mem = { s.mem with sram := s'.mem.sram } ∧ ∀ k, k < a ∨ a + n ≤ k → sramByte s' k = sramByte s k

/-- The other cores' data caches hold no line of `n` bytes from `a`, and are otherwise as before (R293). -/
def OthersDrop (t : Thread) (a n : Nat) (s s' : State) : Prop :=
  ∀ c, c ≠ coreOf t → cache s' c = { cache s c with dlines := (cache s c).dlines.filter fun x => !onLine a n x }

/-- The store completes: the bytes of `v` at `a` and nothing else in memory, the PC at the next instruction, no register,
flag, return entry or latch changed. -/
def StoresAt (c : Instr) (t : Thread) (a n : Nat) (v : Word) (s : State) : Prop :=
  ∃ s', exec c s = .next s' ∧ (∀ k, k < n → sramByte s' (a + k) = byteAt v k) ∧ SramBut a n s s' ∧
    pcOf s' t = pcOf s t + 4 ∧ OnlyThread t s { s' with mem := s.mem, cache := s.cache, clk := s.clk } ∧ OnlyCreg t s s' ∧
    OthersDrop t a n s s' ∧ OnlyProgress t s s' ∧ SameRegs t s s' ∧ SameStatus t s s'

/-- The atomic operation completes: rd takes the old word at `a`, the word becomes `v`, and nothing else changes. -/
def Exchanges (c : Instr) (t : Thread) (rd : Gpr) (a : Nat) (v : Word) (s : State) : Prop :=
  ∃ s', exec c s = .next s' ∧ gpr s' t rd = (if rd = 0 then 0 else ofBytes 32 (sramRead s a 4)) ∧
    (∀ k, k < 4 → sramByte s' (a + k) = byteAt v k) ∧ SramBut a 4 s s' ∧ pcOf s' t = pcOf s t + 4 ∧
    OnlyThread t s { s' with mem := s.mem, cache := s.cache, clk := s.clk } ∧ OnlyCreg t s s' ∧ OthersDrop t a 4 s s' ∧
    OnlyProgress t s s' ∧ SameRegsBut t rd s s' ∧ SameStatus t s s'

/-- The ESTS value that a start on a running thread writes (R287, R296). -/
def startStatus (s : State) (t : Thread) : Word :=
  BitVec.ofNat 32 ((if inEncl s t then 2 ^ 30 else 0) + (thr s t).flags.toNat)

/-- The thread takes exception entry `k` with `epc` saved (R321, R322, R287): in the handler until RETI, at the entry of
its world's table; its registers, FLAGS and task, and every other thread, the memories and the drill as before. -/
def TakesException (c : Instr) (t : Thread) (k : Nat) (epc : Word) (s : State) : Prop :=
  ∃ s', exec c s = .next s' ∧ (thr s' t).inInt = true ∧ (thr s' t).run = .running ∧
    (thr s' t).pc = (if inEncl s t then s.cores.vbaseE else s.cores.vbaseC) + BitVec.ofNat 32 (32 * k) ∧
    (thr s' t).ext.now.epc = epc ∧ (thr s' t).ext.now.ests = startStatus s t ∧
    (thr s' t).ext.ctl.epc = epc ∧ (thr s' t).ext.ctl.ests = startStatus s t ∧
    SameRegs t s s' ∧ SameStatus t s s' ∧ (thr s' t).task = (thr s t).task ∧ (thr s' t).stile = (thr s t).stile ∧
    OnlyThread t s { s' with bkp := s.bkp } ∧ s'.bkp = { s.bkp with shadows := s'.bkp.shadows }
/-! ### Power, pins and modes -/

/-- What a cold reset leaves (R58, R82, R102, R103): Boot with its cause and the mode left in PREV, the ROM to run, SRAM
empty, every rail and bay output off, every pin hi-Z, the power flags clear and WAKE_OUT released; the flash, the seed
store, the ledger array, the calendar, TAMP, the backup share, the fuses and the pins of J1 and J14 as they were. -/
def ColdStart (cause : Nat) (prev : BitVec 3) (s s' : State) : Prop :=
  s'.sys.mode = Mode.boot ∧ s'.sys.prev = prev ∧ s'.sys.cause.toNat = cause ∧ s'.sys.romPending = true ∧ s'.sys.limpSet = 0 ∧
  s'.sys.lock = 0 ∧ s'.mem = { s.mem with sram := [] } ∧ (∀ j, (rail s' j).en = false) ∧
  (∀ b, (bayOut s' b).on = false) ∧ (∀ n, (chan s' n).drive = .hiZ ∧ (chan s' n).en = false) ∧ s'.pow.ov = false ∧
  s'.pow.ext = false ∧ s'.pow.warn = false ∧ wakeOut s' = false ∧ s'.bkp.cal = s.bkp.cal ∧ s'.bkp.tamp = s.bkp.tamp ∧
  s'.bkp.share = s.bkp.share ∧ s'.bkp.mask = s.bkp.mask ∧ s'.fuse.array = s.fuse.array ∧ s'.pins = s.pins

/-- Field power is gone (R46): every channel pin hi-Z, every rail and bay output off, every bay link down. -/
def FieldOff (s' : State) : Prop :=
  (∀ n, (chan s' n).drive = .hiZ) ∧ (∀ j, (rail s' j).en = false) ∧ (∀ b, (bayOut s' b).on = false) ∧ ∀ b, (bay s' b).link = 0

/-- A housekeeping event is in HKQ and nothing of the drill but HKQ has changed. -/
def Housekeeping (cause : HkCause) (data : Nat) (s s' : State) : Prop :=
  ({ cause := cause, data := data } : HkEvent) ∈ s'.drill.hkq ∧ s'.drill = { s.drill with hkq := s'.drill.hkq }

/-- The bay output is off and its controller asks for nothing. -/
def OutputOff (s' : State) (b : Bay) : Prop :=
  (bayOut s' b).on = false ∧ (bayOut s' b).request = false ∧ (bay s' b).pwr = false

/-- A backup-domain reset (R79): the calendar, the alarms, TRIM, the share, its mask and VBK_LOW clear, TAMP.STS but
WITNESS and SAFE_PEND clears, TAMP.TIME stays, CAUSE takes its code. -/
def BackupReset (cause : Nat) (s s' : State) : Prop :=
  s'.bkp.cause.toNat = cause ∧ s'.bkp.cal = {} ∧ (∀ a, alarm s' a = {}) ∧ s'.bkp.share = 0 ∧ s'.bkp.mask = 0 ∧
  s'.bkp.vbkLow = false ∧ s'.bkp.held = false ∧ s'.bkp.tamp.intrusion = false ∧ s'.bkp.tamp.first = 0 ∧
  s'.bkp.tamp.sensors = 0 ∧ s'.bkp.tamp.safe = false ∧ s'.bkp.tamp.witness = s.bkp.tamp.witness ∧
  s'.bkp.tamp.safePend = s.bkp.tamp.safePend ∧ s'.bkp.tamp.time = s.bkp.tamp.time ∧
  (s.sys.mode ≠ Mode.service → s' = { s with bkp := s'.bkp, pins := { s.pins with safeIn := false } })

/-- What the shadow set of a requester shows (R66, R67). -/
def shadowShows (s : State) (r : Req) : Shadow := tabGet {} s.bkp.shadows (shadowKey s r)

/-- The time of day and the weekday of a number of seconds since 2000-01-01 00:00:00 UTC, a Saturday (R65, R66, R80). -/
def TimeOfDay (sec : Nat) (f0 f1 : Word) : Prop :=
  f1.toNat = sec % 86400 / 3600 * 65536 + sec % 86400 / 60 % 60 * 256 + sec % 60 ∧
  f0.toNat % 8 = (sec / 86400 + 5) % 7

/-- The fuse view as the ROM samples it where the reads agree and no blow was cut off. -/
def sampledFuses (s : State) : State := { s with fuse := { s.fuse with view := s.fuse.array } }
/-! ### Commands that a requester makes -/

/-- The guard in front of a register lets a write of the requester through; a bay's BAR0 has none (R334, R335). -/
def passesGuard (s : State) (r : Req) (a : Word) : Bool := match r with
  | .bay _ => true
  | _ => guardLets s r permW a.toNat 4

/-- A silent refusal (R8, R339, R340): nothing changes but the violation counter of the requester and VLAST. -/
def RefusedSilently (c : Instr) (r : Req) (s : State) : Prop :=
  ∃ s', exec c s = .next s' ∧ s' = { s with guard := s'.guard } ∧
    s'.guard = { s.guard with vcnt := s'.guard.vcnt, vlastSrc := s'.guard.vlastSrc, vlastKind := s'.guard.vlastKind
                              vlastWrite := s'.guard.vlastWrite, vlastFetch := s'.guard.vlastFetch
                              vlastAddr := s'.guard.vlastAddr } ∧
    s'.guard.vlastSrc.toNat = srcCode s r ∧ s'.guard.vlastWrite = true ∧
    ∀ k : Fin 22, vget s'.guard.vcnt k =
      if k.val = srcCode s r then satInc (vget s.guard.vcnt k) else vget s.guard.vcnt k

/-- Everything but the drill and its queues' counters is unchanged. -/
def OnlyDrill (s s' : State) : Prop := s' = { s with drill := s'.drill, clk := s'.clk }

/-- Every descriptor but one is unchanged. -/
def OtherDescs (d : Fin 1024) (s s' : State) : Prop := ∀ e, e ≠ d → desc s' e = desc s e
/-! ### Tiles -/

/-- The instruction enters TLQ with its thread's attributes and the thread goes on (R319, R334, R341, R351). -/
def EntersTlq (c : Instr) (t : Thread) (op : TileOp) (s : State) : Prop :=
  ∃ s', exec c s = .next s' ∧
    s'.tile = { s.tile with tlq := s.tile.tlq ++ [.op t (inEncl s t) (ownerTag s (.thread t)) (taskFlow s t) (heldTask s t) op] } ∧
    pcOf s' t = pcOf s t + 4 ∧ SameRegs t s s' ∧ SameStatus t s s' ∧ OnlyThread t s { s' with tile := s.tile, clk := s.clk }

/-- The instruction waits at a full TLQ: nothing but the queue's count of stalls changes (R156, R319). -/
def WaitsAtTlq (c : Instr) (s : State) : Prop :=
  ∃ s', exec c s = .next s' ∧ s' = { s with clk := s'.clk } ∧ ∀ k, k ≠ 94 → qstat s' k = qstat s k

/-- The head of TLQ has been executed: its tile `t` alone may differ, and its completion is in TLC (R351, R352). -/
def TileFinishes (th : Thread) (t : Tile) (rest : List TileEntry) (s s' : State) : Prop :=
  s' = { s with tile := s'.tile, clk := s'.clk } ∧ s'.tile.tlq = rest ∧ (∀ u, u ≠ t → tile s' u = tile s u) ∧
  (tile s' t).geom = (tile s t).geom ∧
  ∃ d : Machine.TileDone, s'.tile.tlc = s.tile.tlc ++ [d] ∧ d.thread = th ∧ d.note = none

/-- The least and greatest value that an instruction leaves in an integer tile (R349, R355, R359). -/
def tileRange (f : Nat) : Int × Int :=
  if f = 5 then (-(2 ^ 39 - 1), 2 ^ 39 - 1) else if f = 0 then (-128, 127) else if f = 1 then (0, 255) else (-32768, 32767)

/-- An integer held to a range. -/
def saturated (r : Int × Int) (v : Int) : Int := if v < r.1 then r.1 else if r.2 < v then r.2 else v

/-- The format is one of the integers (R348). -/
def intFormat (f : Nat) : Bool := decide (f = 0 ∨ f = 1 ∨ f = 2 ∨ f = 5)

/-! ### Bays -/

/-- Only one bay, and the queues' counters, may differ. -/
def OnlyBay (b : Bay) (s s' : State) : Prop :=
  s' = { s with bays := s'.bays, clk := s'.clk } ∧ ∀ k, k ≠ b → bay s' k = bay s k

/-- An item is on its way to the bay's host, or sent. -/
def SentToHost (b : Bay) (i : HostItem) (s' : State) : Prop := ∃ o ∈ (bay s' b).out, o.item = i

/-- The command's completion is written to the next entry of its CQ (R381, R382), its slot is free, and no other command
has been added. -/
def CmdCompletes (b : Bay) (c : BayCmd) (status : Byte) (result : DWord) (s s' : State) : Prop :=
  let q := (sqOf s b c.q).cqid.toFin
  let y := cqOf s b q
  SentToHost b (.completion q (y.base + BitVec.ofNat 64 (16 * y.tail.toNat))
    (entryBits result c.q.val c.sqhd.toNat (cmdNum c 2 2) status false y.phase)) s' ∧
  (cqOf s' b q).tail = (if y.tail.toNat + 1 = y.size.toNat then 0 else y.tail + 1) ∧
  (cqOf s' b q).phase = (if y.tail.toNat + 1 = y.size.toNat then !y.phase else y.phase) ∧
  ∀ x ∈ (bay s' b).cmds, x ∈ (bay s b).cmds ∧ x.slot ≠ c.slot

/-- A service-flow command is the next of its opcode, and its flow takes it at once: a descriptor and a credit are free,
no lock is held and no older task waits, no ORDER is awaited, and no descriptor names its slot yet (R251, R253, R378,
R380). -/
def serviceTakes (s : State) (b : Bay) (opc : Nat) (c : BayCmd) (d : Fin 1024) : Prop :=
  mainOn s = true ∧ s.sys.mode ≠ Mode.lockdown ∧ nextCmd s b opc = some c ∧ c.st = .ready ∧ cmdOf s b c.slot = some c ∧
  drainRefuses s = false ∧ freeDesc s (flowBase s b) = some d ∧ 0 < freeCredits (flow s (flowBase s b)) ∧
  flowBase s b < 4096 ∧ (flow s (flowBase s b)).kind ≠ 1 ∧
  ((flow s (flowBase s b)).kind = 0 → (flow s (flowBase s b)).locked = false ∧
    ∀ e, (desc s e).st = .queued → (desc s e).flow.toNat ≠ flowBase s b) ∧
  cmdDesc s b c.slot = none ∧ ∀ e, (desc s e).life.parent ≠ some d

/-- A bay reset has been taken (R398, R58): configuration, BAR0 registers, queues, vectors, commands and what was to be sent
are at their reset values; PWR, IND, PRESENT and the sticky SLOT_STS bits stay; the power stages are as they were. -/
def BayResetDone (b : Bay) (cause : Nat) (s s' : State) : Prop :=
  let x := bay s b
  let y := bay s' b
  y.cause.toNat = cause ∧ y.resets = satInc x.resets ∧ y.cfg = [] ∧ y.cmds = [] ∧ y.out = [] ∧ y.ltrNs = none ∧
  (∀ q, vget y.sq q = {} ∧ vget y.cq q = {}) ∧ (∀ v, vget y.vecs v = {}) ∧ y.evtIen = false ∧ y.chsel = 0 ∧
  y.quiesced = false ∧ y.quiescing = false ∧ y.pwr = x.pwr ∧ y.ind = x.ind ∧ y.present = x.present ∧ y.pdc = x.pdc ∧
  y.abp = x.abp ∧ y.pfault = x.pfault ∧ s'.pow = s.pow ∧ s'.mem.sram = s.mem.sram ∧ s'.chs.retired = s.chs.retired ∧
  (s.seed.open_ = true → s.seed.source = bayStageSource b → s'.seed.open_ = false)


/-! ### Channels -/

/-- Nothing but the channels, the drill and the queues' counters has changed. -/
def OnlyChannels (s s' : State) : Prop := s' = { s with chs := s'.chs, drill := s'.drill, clk := s'.clk }

/-- Nothing but one channel has changed. -/
def OnlyChannel (n : Chan) (s s' : State) : Prop :=
  s' = { s with chs := { s.chs with ch := s'.chs.ch } } ∧ ∀ m, m ≠ n → chan s' m = chan s m

/-- The majority of a bit's three samples; true is mark (R187). -/
def majority (x : Samples) : Bool := (x.a && x.b) || (x.a && x.c) || (x.b && x.c)

/-- One more counted error does not retire the channel (R229, R232). -/
def toleratesError (s : State) (n : Chan) : Bool :=
  freshLock s n || !rateExceeded (countError (chan s n).health)

/-- The channel owner's write at an offset of its block is carried out: guard, ownership, not retired (R181, R182). -/
def ownerWrites (s : State) (r : Req) (n : Chan) (off : Nat) : Bool :=
  passesGuard s r (chanBase n + BitVec.ofNat 32 off) && ownsChannel s r (headOf s n) && !isRetired s n
/-! ### The Granary -/

/-- The state in which the request at the head of GRQ runs (R427, R430): it has left GRQ, and a command that draws has found
the entropy source as `ok` says. -/
def grnRuns (s : State) (r : GrnReq) (ok : Bool) : State :=
  let s := qLeave 92 16 s.grn.grq.length { s with grn := { s.grn with grq := s.grn.grq.drop 1 } }
  if opDraws r.opc.toNat then { s with grn := { s.grn with entFail := !ok } } else s

/-- The request with its inputs, read at its start (R428). -/
def grnJob (s : State) (r : GrnReq) : GrnJob :=
  { r := r, inp := sramRead s r.inAddr.toNat r.inLen.toNat, aad := sramRead s r.aadAddr.toNat r.aadLen.toNat
    aux := sramRead s r.auxAddr.toNat r.auxLen.toNat, headland := false }

/-- The Granary serves the request of this opcode at the head of GRQ (R405, R427, R444). -/
def grnServes (s : State) (r : GrnReq) (opc : Nat) : Prop :=
  s.grn.grq.head? = some r ∧ s.grn.ready = true ∧ granaryServes s = true ∧ r.opc.toNat = opc ∧ r.malformed = false ∧
  limpReason s 1 = false

/-- The request's key, found by the walk, with no dual control on it (R411, R412, R437). -/
def grnKey (s : State) (r : GrnReq) (k : KeyInfo) (s1 : State) : Prop :=
  ownerServed (grnRuns s r true) r = true ∧ attrDual k.attr = false ∧
  ∃ ks, keyOf r.owner.toNat r.depth.toNat r.path (if leafFlag r.flags.toNat then some r.blob else none)
    (fun k => keyServes r.opc.toNat k && admits (grnJob s r) k) (grnRuns s r true) = (some (k, ks), s1)

/-- The command completes: its completion is the last in GRC, its output is at OUT, no other byte of memory has changed,
and LAST shows it (R426, R445). -/
def GrnCompletes (c : Instr) (r : GrnReq) (status verdict : Byte) (out : List Byte) (written : Nat) (s s' : State) : Prop :=
  exec c s = .next s' ∧ s'.grn.grq = s.grn.grq.drop 1 ∧
  (∃ d, s'.grn.grc = s.grn.grc ++ [d] ∧ d.caller = r.caller ∧ d.status = status ∧ d.verdict = verdict ∧
    d.written = BitVec.ofNat 32 written) ∧
  sramRead s' r.outAddr.toNat out.length = out ∧ SramBut r.outAddr.toNat out.length s s' ∧
  s'.grn.cmds = satInc s.grn.cmds ∧ s'.grn.lastOpc = r.opc ∧ s'.grn.lastOwner = r.owner ∧ s'.grn.lastVerdict = verdict ∧
  s'.grn.lastStatus = status

/-- An owner operation has been carried out: DONE, its output at OUT, and the authorisation counted (R436 to R441). -/
def OwnerOpDone (c : Instr) (r : GrnReq) (out : List Byte) (s s' : State) : Prop :=
  exec c s = .next s' ∧ s'.grn.grq = s.grn.grq.drop 1 ∧ s'.grn.accepted = satInc s.grn.accepted ∧
  (∃ d, s'.grn.grc = s.grn.grc ++ [d] ∧ d.caller = r.caller ∧ d.status = 0 ∧ d.verdict = 0 ∧ d.written = BitVec.ofNat 32 out.length) ∧
  sramRead s' r.outAddr.toNat out.length = out ∧ findNonce s' (authNonce r.auth) = none

/-- An owner operation's authorisation passes checks 1 to 3 (R437). -/
def authorised (s : State) (r : GrnReq) (opc : Nat) : Prop :=
  dcFlag r.flags.toNat = true ∧ mayOwner (grnRuns s r true) (grnJob s r) opc r.owner.toNat = true ∧
  authBasics (grnRuns s r true) r.auth opc r.owner.toNat (opSet (grnRuns s r true) (grnJob s r) opc r.owner.toNat) = 0

/-! ### The Headland -/

/-- The line is answered so (R481). -/
def Answers (c : Instr) (a : Answer) (s s' : State) : Prop :=
  exec c s = .next s' ∧ s'.hld.answer = a ∧ s'.hld.answers = s.hld.answers + 1

/-- The line is answered so, and nothing outside the Headland has changed. -/
def OnlyAnswers (c : Instr) (a : Answer) (s : State) : Prop := ∃ s', Answers c a s s' ∧ s' = { s with hld := s'.hld }

/-- The Headland has its buffer empty again (R482). -/
def bufTaken (s : State) : State := { s with hld := { s.hld with buf := 0 } }

/-- The word read by a monitor from SRAM. -/
def sramWordAt (s : State) (a : Nat) : Nat := (ofBytes 32 (sramRead s a 4) : Word).toNat

/-! ### The ledger -/

/-- The request at the head of LGQ is answered: its completion is the last in LGC (R474). -/
def LedgerAnswers (c : Instr) (r : LdgReq) (verdict : Byte) (value : Nat) (prot : Bool) (image : List Byte) (s s' : State) : Prop :=
  exec c s = .next s' ∧ s'.ldg.lgq = s.ldg.lgq.drop 1 ∧
  s'.ldg.lgc = s.ldg.lgc ++ [{ caller := r.caller, status := 0, verdict := verdict, value := BitVec.ofNat 32 value, prot := prot
                               image := image, buf := r.buf }]

/-- The ledger array holds as before outside `n` bytes from `a`; the other memories are unchanged. -/
def LedgerBut (a n : Nat) (s s' : State) : Prop :=
  s'.mem = { s.mem with ledger := s'.mem.ledger } ∧
  ∀ k, k < a ∨ a + n ≤ k → tabGet ledgerBlank s'.mem.ledger k = tabGet ledgerBlank s.mem.ledger k

/-- Every thermometer bit of a half from its count up is erased (R463). -/
def halfClean (s : State) (c : Nat) (b : Bool) : Prop :=
  ∀ k, halfCount s c b ≤ k → k < 960 → (tabGet ledgerBlank s.mem.ledger (halfBase c b + 8 + k / 8)).getLsbD (k % 8) = true

/-- What g4 to g11 of a thread's Enclosure bank hold after a service (R13, R330). -/
def ServiceResults (t : Thread) (r4 r5 r6 : Word) (s' : State) : Prop :=
  vget (thr s' t).encl 4 = r4 ∧ vget (thr s' t).encl 5 = r5 ∧ vget (thr s' t).encl 6 = r6 ∧
  ∀ k : Fin 32, 7 ≤ k.val → k.val ≤ 11 → vget (thr s' t).encl k = 0


end Sys2Proof
end

