-- ==== Sys2Proof/WellFormed.lean ====
section
/-! DEFINITION. Which commands are well formed: operands whose types admit more than the manual's events and encodings. -/

namespace Sys2Proof

/-- A chosen register triple that BMOV encodes (R308). -/
def bmovWf (d a b : Gpr) : Bool := Machine.bmovOk d a b

/-- One character's samples: the start bit, 5 to 9 data bits, an address or parity bit, the first stop bit (R186, R187). -/
def samplesWf (l : List Samples) : Bool := decide (7 ≤ l.length ∧ l.length ≤ 12)

/-- A flash operation: a range of one bank (R282, R502). -/
def flashWf (bank : Fin 4) (a n : Nat) : Bool :=
  decide (0 < n) && decide (0x08000000 + 0x200000 * bank.val ≤ a ∧ a + n ≤ 0x08000000 + 0x200000 * (bank.val + 1))

/-- Well-formedness of a command. Every command not named has no operand outside its types. -/
def Instr.wf : Instr → Bool
  | .bcc _ cond _ => decide (cond ≠ 15)
  | .bmov _ d a b => bmovWf d a b
  | .characterReceive _ samples _ _ => samplesWf samples
  | .intrusionTrip sensors => decide (sensors ≠ 0)
  | .sqFetchDone _ _ entries => decide (entries.length ≤ 8) && entries.all fun e => decide (e.length = 64)
  | .bar2Access _ req _ len data =>
    decide (0 < len) && decide (data.length = if req.write then len else 0) && (!req.write || decide (req.space = .window))
  | .linkUp _ speed credits => decide (speed ≠ 0 ∧ credits.length = 6)
  | .startPass rows => rows.all fun r => decide (r < 1536)
  | .registerWrite _ addr width _ => decide (addr.toNat % width.bytes = 0)
  | .flashOperationEnd bank (.program a bs) => flashWf bank a.toNat bs.length
  | .flashOperationEnd bank (.erase a n) => flashWf bank a.toNat n
  | .flashOperationEnd bank (.activate _) => decide (bank = 3)
  | .updatefcReceived _ items => decide (0 < items)
  | .illegalInstruction t word => (Machine.decodeCore t word).isNone
  | _ => true

end Sys2Proof
end

