-- ==== Sys2Proof/Certificates/Slice0/Obligations.lean ====
section
/-! DEFINITION. The statements for the provers, family by family. -/

open Sys2Proof Sys2Proof.Machine

/-! ### The block as a whole -/

/-- 00_scope (the commands): a step carries out the command at the front of the queue, with the queue's rest. On an
empty queue it is one idle cycle of D3, which is the model's choice (log entry 2). -/
def Obligations.StepRunsFront : Prop :=
  (∀ (c : Instr) (rest : List Instr) (s : State), step { s with pending := c :: rest } = exec c { s with pending := rest }) ∧
  ∀ s : State, s.pending = [] → step s = .next (tick s)

/-- Every step answers a next state, whatever the command and the state, and takes the front command alone from the
queue: no command of this block faults, is refused or queues another (log entry 1). -/
def Obligations.StepGoesOn : Prop :=
  ∀ s : State, ∃ t, step s = .next t ∧ t.pending = s.pending.tail

/-- R58, R245, R337, R340: what a cold reset leaves before the ROM runs: every rail and output off, every pin hi-Z and
WAKE_OUT released, flow 4095 as it is fixed and no other flow configured, C0.t0 running the ROM in single mode and
every other thread held, every owner tag 0xFF, no violation counted, no seed applied, the memories in canonical form.
-/
def Obligations.ResetState : Prop :=
  let s := State.reset
  (∀ j, (vget s.pow.rails j).en = false) ∧ (∀ b, (vget s.pow.bayOut b).on = false) ∧ (∀ n, (chan s n).drive = .hiZ) ∧
  s.sys.wakeoutSw = false ∧ s.sys.pulse = false ∧
  (flow s 4095 = { en := true, world := true, kind := 0, prio := 6, weight := 16, credits := 32 }) ∧
  (∀ f, f ≠ 4095 → (flow s f).en = false) ∧
  (thr s 0).run = .running ∧ (∀ t, t ≠ 0 → (thr s t).run = .held) ∧
  (Machine.core s 0).single = true ∧ (∀ c, c ≠ 0 → (Machine.core s c).single = false) ∧
  s.cores.vbaseE = 0 ∧ s.cores.vbaseC = 0 ∧ (∀ t, vget s.guard.towner t = 0xFF) ∧ (∀ k, vget s.guard.vcnt k = 0) ∧
  s.seed.applied = false ∧ memoriesWf s.mem = true ∧ s.pending = []

/-- The four memories stay in canonical form through every step, so that equal contents are equal data (log entry 4).
-/
def Obligations.StepKeepsMemoryForm : Prop :=
  ∀ s t : State, memoriesWf s.mem = true → step s = .next t → memoriesWf t.mem = true

/-- R106, R110: no step of the machine unblows a fuse, and none changes the PUF helper data of program flash. -/
def Obligations.FusesAndHelperDataStand : Prop :=
  ∀ s t : State, memoriesWf s.mem = true → step s = .next t →
    fusesWithin s.fuse.array t.fuse.array ∧ pufHelper t = pufHelper s

/-- R107: the lifecycle that the fuse view shows, with a copied field blown when at least two of its three copies are,
and a thermometer field: its highest blown bit plus one, whatever the bits below it, or 0 with no bit blown. -/
def Obligations.LifecycleAndThermometers : Prop :=
  (∀ v : BitVec 4096, (scrapped v = true → lifecycle v = .scrapped) ∧
    (scrapped v = false → fielded v = true → lifecycle v = .fielded) ∧
    (scrapped v = false → fielded v = false → lifecycle v = .store)) ∧
  ∀ (v : BitVec 4096) (lo n : Nat),
    ((∀ k, k < n → fuseBit v (lo + k) = false) → thermometer v lo n = 0) ∧
    ∀ k, k < n → fuseBit v (lo + k) = true → (∀ j, k < j → j < n → fuseBit v (lo + j) = false) → thermometer v lo n = k + 1

/-! ### Encodings (14) -/

/-- R300 to R319: no bit of an instruction's encoding is dropped: the word of every well-formed instruction decodes to
it, with every operand as it was. -/
def Obligations.CoreWordRoundTrip : Prop :=
  ∀ (i : Instr) (w : Word), i.wf = true → encodeCore i = some w → ∃ t : Thread, decodeCore t w = some i

/-- R300, R301, R303, R308, R319: words written out from the tables decode to the instructions they stand for, and the
all-zero word, an unlisted FN, a field that must be zero and is not, and a BMOV of one register to itself to none. -/
def Obligations.CoreWordExamples : Prop :=
  decodeCore 0 0x2CA04000 = some (.lui 0 5 0x4000) ∧ decodeCore 0 0x18A52C00 = some (.ori 0 5 5 0x2C00) ∧
  decodeCore 3 0x04E43002 = some (.and 3 7 4 6) ∧ decodeCore 0 0x68E50040 = some (.sw 0 7 5 0x40) ∧
  decodeCore 5 0xFD200000 = some (.tdone 5 0) ∧ decodeCore 0 0xE0880520 = some (.tmma 0 2 0 1 9) ∧
  decodeCore 0 0 = none ∧ decodeCore 0 0x04E43012 = none ∧ decodeCore 0 0x2CA14000 = none ∧ decodeCore 0 0xC0421800 = none

/-! ### Instructions (13, 14) -/

/-- R302: ADDI, SLTI, SLTUI, CMPI, loads, stores, CBZ, CBNZ and JALR sign-extend imm16; ANDI, ORI and XORI zero-extend
it; LUI writes it times 65,536. A load with its result in the return latch makes no access, so the address it would
have had does not show. -/
def Obligations.Immediates : Prop :=
  ∀ (s : State) (t : Thread) (rd a : Gpr) (imm : Half), canRun s t = true →
    let x := gpr s t a
    let sx : Word := if imm.toNat < 2 ^ 15 then BitVec.ofNat 32 imm.toNat else BitVec.ofNat 32 (imm.toNat + 0xFFFF0000)
    let zx : Word := BitVec.ofNat 32 imm.toNat
    let ad := (x + sx).toNat
    WritesRegister (.addi t rd a imm) t rd (x + sx) s ∧
    WritesRegister (.slti t rd a imm) t rd (if x.toInt < sx.toInt then 1 else 0) s ∧
    WritesRegister (.sltui t rd a imm) t rd (if x.toNat < sx.toNat then 1 else 0) s ∧
    WritesFlags (.cmpi t a imm) t (cmpFlags x sx) s ∧
    WritesRegister (.andi t rd a imm) t rd (x &&& zx) s ∧
    WritesRegister (.ori t rd a imm) t rd (x ||| zx) s ∧
    WritesRegister (.xori t rd a imm) t rd (x ^^^ zx) s ∧
    WritesRegister (.lui t rd imm) t rd (BitVec.ofNat 32 (imm.toNat * 65536)) s ∧
    Branches (.cbz t a imm) t (if x = 0 then pcOf s t + sx * 4 else pcOf s t + 4) s ∧
    Branches (.cbnz t a imm) t (if x ≠ 0 then pcOf s t + sx * 4 else pcOf s t + 4) s ∧
    (∃ s', exec (.jalr t rd a imm) s = .next s' ∧ pcOf s' t = (x + sx) &&& 0xFFFFFFFC) ∧
    (latched s t = none → inSram ad 1 = true → guardLets s (.thread t) permR ad 1 = true →
      LoadsRegister (.lb t rd a imm) t rd (BitVec.ofInt 32 (ofBytes 8 (sramRead s ad 1)).toInt) s ∧
      LoadsRegister (.lbu t rd a imm) t rd (BitVec.ofNat 32 (leNat (sramRead s ad 1))) s) ∧
    (latched s t = none → inSram ad 2 = true → ad % 2 = 0 → guardLets s (.thread t) permR ad 2 = true →
      LoadsRegister (.lh t rd a imm) t rd (BitVec.ofInt 32 (ofBytes 16 (sramRead s ad 2)).toInt) s ∧
      LoadsRegister (.lhu t rd a imm) t rd (BitVec.ofNat 32 (leNat (sramRead s ad 2))) s) ∧
    (latched s t = none → inSram ad 4 = true → ad % 4 = 0 → guardLets s (.thread t) permR ad 4 = true →
      LoadsRegister (.lw t rd a imm) t rd (BitVec.ofNat 32 (leNat (sramRead s ad 4))) s) ∧
    (inSram ad 1 = true → guardLets s (.thread t) permW ad 1 = true → StoresAt (.sb t rd a imm) t ad 1 (gpr s t rd) s) ∧
    (inSram ad 2 = true → ad % 2 = 0 → guardLets s (.thread t) permW ad 2 = true →
      StoresAt (.sh t rd a imm) t ad 2 (gpr s t rd) s) ∧
    (inSram ad 4 = true → ad % 4 = 0 → guardLets s (.thread t) permW ad 4 = true →
      StoresAt (.sw t rd a imm) t ad 4 (gpr s t rd) s)

/-- R301, R302, R303: the ALU group's register and immediate forms and LUI write rd, and nothing else but the PC. CLZ
counts the leading zeros, POPC the set bits, BSWAP reverses the bytes. -/
def Obligations.RegisterForms : Prop :=
  (∀ (s : State) (t : Thread) (rd a b : Gpr) (imm : Half) (sh : BitVec 5), canRun s t = true →
     let x := gpr s t a
     let y := gpr s t b
     let sx : Word := imm.signExtend 32
     let zx : Word := imm.setWidth 32
     WritesRegister (.add t rd a b) t rd (BitVec.ofNat 32 (x.toNat + y.toNat)) s ∧
     WritesRegister (.sub t rd a b) t rd (BitVec.ofInt 32 (x.toNat - y.toNat)) s ∧
     WritesRegister (.and t rd a b) t rd (x &&& y) s ∧
     WritesRegister (.or t rd a b) t rd (x ||| y) s ∧
     WritesRegister (.xor t rd a b) t rd (x ^^^ y) s ∧
     WritesRegister (.sll t rd a b) t rd (BitVec.ofNat 32 (x.toNat * 2 ^ (y.toNat % 32))) s ∧
     WritesRegister (.srl t rd a b) t rd (BitVec.ofNat 32 (x.toNat / 2 ^ (y.toNat % 32))) s ∧
     WritesRegister (.sra t rd a b) t rd (BitVec.ofInt 32 (x.toInt / 2 ^ (y.toNat % 32))) s ∧
     WritesRegister (.slt t rd a b) t rd (if x.toInt < y.toInt then 1 else 0) s ∧
     WritesRegister (.sltu t rd a b) t rd (if x.toNat < y.toNat then 1 else 0) s ∧
     WritesRegister (.min t rd a b) t rd (BitVec.ofInt 32 (Min.min x.toInt y.toInt)) s ∧
     WritesRegister (.max t rd a b) t rd (BitVec.ofInt 32 (Max.max x.toInt y.toInt)) s ∧
     WritesRegister (.minu t rd a b) t rd (BitVec.ofNat 32 (Min.min x.toNat y.toNat)) s ∧
     WritesRegister (.maxu t rd a b) t rd (BitVec.ofNat 32 (Max.max x.toNat y.toNat)) s ∧
     WritesRegister (.addi t rd a imm) t rd (BitVec.ofInt 32 (x.toNat + imm.toInt)) s ∧
     WritesRegister (.andi t rd a imm) t rd (x &&& zx) s ∧
     WritesRegister (.ori t rd a imm) t rd (x ||| zx) s ∧
     WritesRegister (.xori t rd a imm) t rd (x ^^^ zx) s ∧
     WritesRegister (.slti t rd a imm) t rd (if x.toInt < imm.toInt then 1 else 0) s ∧
     WritesRegister (.sltui t rd a imm) t rd (if x.toNat < sx.toNat then 1 else 0) s ∧
     WritesRegister (.shiSll t rd a sh) t rd (BitVec.ofNat 32 (x.toNat * 2 ^ sh.toNat)) s ∧
     WritesRegister (.shiSrl t rd a sh) t rd (BitVec.ofNat 32 (x.toNat / 2 ^ sh.toNat)) s ∧
     WritesRegister (.shiSra t rd a sh) t rd (BitVec.ofInt 32 (x.toInt / 2 ^ sh.toNat)) s ∧
     WritesRegister (.lui t rd imm) t rd (BitVec.ofNat 32 (imm.toNat * 65536)) s) ∧
  (∀ (s : State) (t : Thread) (rd a : Gpr), canRun s t = true →
     let x := gpr s t a
     (∃ n, n ≤ 32 ∧ x.toNat < 2 ^ (32 - n) ∧ (n < 32 → 2 ^ (31 - n) ≤ x.toNat) ∧
       WritesRegister (.clz t rd a) t rd (BitVec.ofNat 32 n) s) ∧
     WritesRegister (.popc t rd a) t rd (BitVec.ofNat 32 (((List.range 32).filter fun k => x.getLsbD k).length)) s ∧
     (∃ v : Word, (∀ k, k < 4 → byteAt v k = byteAt x (3 - k)) ∧ WritesRegister (.bswap t rd a) t rd v s))

/-- R298, R304, R305, R314: products, quotients rounded toward zero and remainders with the dividend's sign; a divisor
of zero gives quotient 0 and the dividend as remainder, and −2^31 by −1 gives −2^31 and 0. A DIV-group instruction
takes its core's divider, and while another thread of the core holds it, the thread waits. CMP and CMPI set Z, N, C
and V from rs1 − operand, GETF reads FLAGS and SETF writes them from rs1. -/
def Obligations.MultiplyDivideAndFlags : Prop :=
  (∀ (s : State) (t : Thread) (rd a b : Gpr), canRun s t = true →
     let x := gpr s t a
     let y := gpr s t b
     WritesRegister (.mul t rd a b) t rd (BitVec.ofNat 32 (x.toNat * y.toNat)) s ∧
     WritesRegister (.mulh t rd a b) t rd (BitVec.ofInt 32 (x.toInt * y.toInt / 2 ^ 32)) s ∧
     WritesRegister (.mulhu t rd a b) t rd (BitVec.ofNat 32 (x.toNat * y.toNat / 2 ^ 32)) s ∧
     ((Machine.core s (coreOf t)).divider = none ∨ (Machine.core s (coreOf t)).divider = some t →
       (y = 0 →
         WritesRegister (.div t rd a b) t rd 0 s ∧ WritesRegister (.divu t rd a b) t rd 0 s ∧
         WritesRegister (.rem t rd a b) t rd x s ∧ WritesRegister (.remu t rd a b) t rd x s) ∧
       (y ≠ 0 →
         (x ≠ 0x80000000 ∨ y ≠ 0xFFFFFFFF →
           WritesRegister (.div t rd a b) t rd (BitVec.ofInt 32 (x.toInt.tdiv y.toInt)) s ∧
           WritesRegister (.rem t rd a b) t rd (BitVec.ofInt 32 (x.toInt - x.toInt.tdiv y.toInt * y.toInt)) s) ∧
         WritesRegister (.divu t rd a b) t rd (BitVec.ofNat 32 (x.toNat / y.toNat)) s ∧
         WritesRegister (.remu t rd a b) t rd (BitVec.ofNat 32 (x.toNat % y.toNat)) s) ∧
       (x = 0x80000000 ∧ y = 0xFFFFFFFF →
         WritesRegister (.div t rd a b) t rd 0x80000000 s ∧ WritesRegister (.rem t rd a b) t rd 0 s) ∧
       ∀ c : Instr, c = .div t rd a b ∨ c = .divu t rd a b ∨ c = .rem t rd a b ∨ c = .remu t rd a b →
         ∃ s', exec c s = .next s' ∧ (Machine.core s' (coreOf t)).divider = some t) ∧
     (∀ (u : Thread), u ≠ t → (Machine.core s (coreOf t)).divider = some u →
       exec (.div t rd a b) s = .next s ∧ exec (.divu t rd a b) s = .next s ∧
       exec (.rem t rd a b) s = .next s ∧ exec (.remu t rd a b) s = .next s)) ∧
  (∀ (s : State) (t : Thread) (rd a b : Gpr) (imm : Half), canRun s t = true →
     let flagsOf : Word → Word → BitVec 4 := fun x y =>
       (if x.toInt - y.toInt < -2 ^ 31 ∨ 2 ^ 31 ≤ x.toInt - y.toInt then 8#4 else 0#4) |||
       (if y.toNat ≤ x.toNat then 4#4 else 0#4) ||| (if (x - y).getLsbD 31 then 2#4 else 0#4) ||| (if x = y then 1#4 else 0#4)
     WritesFlags (.cmp t a b) t (flagsOf (gpr s t a) (gpr s t b)) s ∧
     WritesFlags (.cmpi t a imm) t (flagsOf (gpr s t a) (imm.signExtend 32)) s ∧
     WritesFlags (.setf t a) t ((gpr s t a).setWidth 4) s ∧
     WritesRegister (.getf t rd) t rd (BitVec.ofNat 32 (thr s t).flags.toNat) s)

/-- R309, R310: which condition each COND tests, the targets of branches and jumps, the link register, and the return
stack that JAL and JALR to g31 fill and a return empties. -/
def Obligations.ControlFlow : Prop :=
  ∀ (s : State) (t : Thread) (rd a : Gpr) (imm : Half) (off22 : BitVec 22) (off26 : BitVec 26), canRun s t = true →
    let pc := pcOf s t
    let z := (thr s t).flags.getLsbD 0
    let n := (thr s t).flags.getLsbD 1
    let c := (thr s t).flags.getLsbD 2
    let v := (thr s t).flags.getLsbD 3
    let bcc := fun (cond : BitVec 4) (holds : Bool) =>
      Branches (.bcc t cond off22) t (if holds then instrAt pc off22.toInt else pc + 4) s
    bcc 0 z ∧ bcc 1 (!z) ∧ bcc 2 (n != v) ∧ bcc 3 (n == v) ∧ bcc 4 (!c) ∧ bcc 5 c ∧ bcc 6 (!z && n == v) ∧
    bcc 7 (z || n != v) ∧ bcc 8 (c && !z) ∧ bcc 9 (!c || z) ∧ bcc 10 n ∧ bcc 11 (!n) ∧ bcc 12 v ∧ bcc 13 (!v) ∧ bcc 14 true ∧
    Branches (.cbz t a imm) t (if gpr s t a = 0 then instrAt pc imm.toInt else pc + 4) s ∧
    Branches (.cbnz t a imm) t (if gpr s t a ≠ 0 then instrAt pc imm.toInt else pc + 4) s ∧
    Branches (.j t off26) t (instrAt pc off26.toInt) s ∧
    (∃ s', exec (.jal t off26) s = .next s' ∧ pcOf s' t = instrAt pc off26.toInt ∧ gpr s' t 31 = pc + 4 ∧
      (thr s' t).ret = ((pc + 4) :: (thr s t).ret).take 8 ∧ (thr s' t).flags = (thr s t).flags ∧
      (thr s' t).latch = (thr s t).latch ∧ OnlyThread t s (unbranched t s s') ∧ OnlyProgress t s s' ∧ SameRegsBut t 31 s s') ∧
    (∃ s', exec (.jalr t rd a imm) s = .next s' ∧
      pcOf s' t = BitVec.ofNat 32 ((BitVec.ofInt 32 ((gpr s t a).toNat + imm.toInt)).toNat / 4 * 4) ∧
      gpr s' t rd = (if rd = 0 then 0 else pc + 4) ∧
      (thr s' t).ret = (if rd = 31 then ((pc + 4) :: (thr s t).ret).take 8
        else if rd = 0 ∧ a = 31 ∧ imm = 0 then (thr s t).ret.drop 1 else (thr s t).ret) ∧
      (thr s' t).flags = (thr s t).flags ∧ (thr s' t).latch = (thr s t).latch ∧
      OnlyThread t s (unbranched t s s') ∧ OnlyProgress t s s' ∧ SameRegsBut t rd s s')

/-- R302, R306, R323, R502: an aligned load that the guard passes returns the bytes at rs1 + imm16, lowest address
first, sign- or zero-extended, from SRAM or program flash; one whose result is in the return latch takes it from
there, makes no access and empties the latch. An aligned store that the guard passes writes the low bytes of rs2 at
rs1 + imm16 to SRAM, and changes nothing but the PC where the address is program flash. -/
def Obligations.LoadsAndStores : Prop :=
  (∀ (s : State) (t : Thread) (rd b : Gpr) (imm : Half), canRun s t = true →
     let a := (effAddr s t b imm).toNat
     (latched s t = none →
       (∀ n, n = 1 ∨ n = 2 ∨ n = 4 → a % n = 0 → guardLets s (.thread t) permR a n = true →
         ∀ m : List Byte, (inSram a n = true ∧ m = sramRead s a n) ∨ (inFlash a n = true ∧ m = flashRead s a n) →
           (n = 1 → LoadsRegister (.lb t rd b imm) t rd (BitVec.ofInt 32 (ofBytes 8 m).toInt) s ∧
             LoadsRegister (.lbu t rd b imm) t rd (BitVec.ofNat 32 (leNat m)) s) ∧
           (n = 2 → LoadsRegister (.lh t rd b imm) t rd (BitVec.ofInt 32 (ofBytes 16 m).toInt) s ∧
             LoadsRegister (.lhu t rd b imm) t rd (BitVec.ofNat 32 (leNat m)) s) ∧
           (n = 4 → LoadsRegister (.lw t rd b imm) t rd (BitVec.ofNat 32 (leNat m)) s))) ∧
     (∀ v : Word, (thr s t).latch = some (pcOf s t, v) →
       ∀ c : Instr, c = .lb t rd b imm ∨ c = .lbu t rd b imm ∨ c = .lh t rd b imm ∨ c = .lhu t rd b imm ∨ c = .lw t rd b imm →
         ∃ s', exec c s = .next s' ∧ gpr s' t rd = (if rd = 0 then 0 else v) ∧ pcOf s' t = pcOf s t + 4 ∧
           (thr s' t).latch = none ∧ OnlyThread t s s' ∧ OnlyProgress t s s' ∧ SameRegsBut t rd s s' ∧
           (thr s' t).flags = (thr s t).flags ∧ (thr s' t).ret = (thr s t).ret)) ∧
  (∀ (s : State) (t : Thread) (d b : Gpr) (imm : Half), canRun s t = true →
     let a := (effAddr s t b imm).toNat
     let v := gpr s t d
     (guardLets s (.thread t) permW a 1 = true →
       (inSram a 1 = true → StoresAt (.sb t d b imm) t a 1 v s) ∧
       (inFlash a 1 = true → StoresNothing (.sb t d b imm) t s)) ∧
     (a % 2 = 0 → guardLets s (.thread t) permW a 2 = true →
       (inSram a 2 = true → StoresAt (.sh t d b imm) t a 2 v s) ∧
       (inFlash a 2 = true → StoresNothing (.sh t d b imm) t s)) ∧
     (a % 4 = 0 → guardLets s (.thread t) permW a 4 = true →
       (inSram a 4 = true → StoresAt (.sw t d b imm) t a 4 v s) ∧
       (inFlash a 4 = true → StoresNothing (.sw t d b imm) t s)))

/-- R307, R308: An AMO reads the aligned word at rs1 into rd and writes its new value, in one step, on SRAM; on any
other address that the guard passes it reads zero and writes nothing. BMOV with rs2 = 0 does nothing but go on; a copy
of one element reads it completely before it is written, whatever the overlap; a longer copy between ranges that do
not overlap copies every byte in turn. After it, rd and rs1 have grown by the count and rs2 is 0. -/
def Obligations.AtomicsAndBlockMove : Prop :=
  (∀ (s : State) (t : Thread) (rd a b : Gpr), canRun s t = true → latched s t = none →
     let ad := (gpr s t a).toNat
     let x := gpr s t b
     let old : Word := ofBytes 32 (sramRead s ad 4)
     ad % 4 = 0 → mapped ad = true → guardLets s (.thread t) (permR ||| permW) ad 4 = true →
       (inSram ad 4 = true →
         Exchanges (.amoswap t rd a b) t rd ad x s ∧
         Exchanges (.amoadd t rd a b) t rd ad (BitVec.ofNat 32 (old.toNat + x.toNat)) s ∧
         Exchanges (.amoand t rd a b) t rd ad (old &&& x) s ∧
         Exchanges (.amoor t rd a b) t rd ad (old ||| x) s ∧
         Exchanges (.cas t rd a b) t rd ad (if old = gpr s t rd then x else old) s) ∧
       (inSram ad 4 = false →
         ∀ c : Instr, c = .amoswap t rd a b ∨ c = .amoadd t rd a b ∨ c = .amoand t rd a b ∨ c = .amoor t rd a b ∨
           c = .cas t rd a b → LoadsRegister c t rd 0 s)) ∧
  (∀ (s : State) (t : Thread) (d a n : Gpr), canRun s t = true → bmovOk d a n = true →
     let dst := (gpr s t d).toNat
     let src := (gpr s t a).toNat
     let len := (gpr s t n).toNat
     (len = 0 → GoesTo (.bmov t d a n) t (pcOf s t + 4) s) ∧
     (0 < len → inSram dst len = true → inSram src len = true →
       (∀ k m, 0 < m → k + m ≤ len → guardLets s (.thread t) permR (src + k) m = true ∧
         guardLets s (.thread t) permW (dst + k) m = true) →
       len ≤ 32 - dst % 32 ∨ (deliverable s t = none ∧ (dst + len ≤ src ∨ src + len ≤ dst)) →
       ∃ s', exec (.bmov t d a n) s = .next s' ∧ (∀ k, k < len → sramByte s' (dst + k) = sramByte s (src + k)) ∧
         SramBut dst len s s' ∧ pcOf s' t = pcOf s t + 4 ∧ gpr s' t d = BitVec.ofNat 32 (dst + len) ∧
         gpr s' t a = BitVec.ofNat 32 (src + len) ∧ gpr s' t n = 0 ∧
         (∀ r, r ≠ d → r ≠ a → r ≠ n → gpr s' t r = gpr s t r) ∧
         OnlyThread t s { s' with mem := s.mem, cache := s.cache, clk := s.clk } ∧ OnlyCreg t s s' ∧ OnlyProgress t s s' ∧
         SameStatus t s s'))

/-- R301, R306, R307, R314, R315, R316, R321, R322: a misaligned load, store or AMO outside a handler makes no access
and raises ALIGN, entry 1, with EPC at the instruction. Outside a handler, an illegal encoding, RETI, STILE in the
Enclosure, LEAVE with no STILE and TDONE inside STILE raise ILLEGAL with EPC at the instruction; TRAP raises TRAP, and
BRK with no halt granted BREAK, with EPC at the next instruction. -/
def Obligations.ExceptionsTaken : Prop :=
  (∀ (s : State) (t : Thread) (r b x : Gpr) (imm : Half), canRun s t = true → (thr s t).inInt = false →
     let a := (effAddr s t b imm).toNat
     (a % 2 ≠ 0 → TakesException (.sh t r b imm) t 1 (pcOf s t) s) ∧
     (a % 4 ≠ 0 → TakesException (.sw t r b imm) t 1 (pcOf s t) s) ∧
     (latched s t = none →
       (a % 2 ≠ 0 → TakesException (.lh t r b imm) t 1 (pcOf s t) s ∧ TakesException (.lhu t r b imm) t 1 (pcOf s t) s) ∧
       (a % 4 ≠ 0 → TakesException (.lw t r b imm) t 1 (pcOf s t) s) ∧
       ((gpr s t b).toNat % 4 ≠ 0 →
         TakesException (.amoswap t r b x) t 1 (pcOf s t) s ∧ TakesException (.amoadd t r b x) t 1 (pcOf s t) s ∧
         TakesException (.amoand t r b x) t 1 (pcOf s t) s ∧ TakesException (.amoor t r b x) t 1 (pcOf s t) s ∧
         TakesException (.cas t r b x) t 1 (pcOf s t) s))) ∧
  (∀ (s : State) (t : Thread) (imm : Half) (status : Byte) (word : Word), canRun s t = true → (thr s t).inInt = false →
     TakesException (.trap t imm) t 2 (pcOf s t + 4) s ∧
     (s.hld.scope.getLsbD 3 = false → TakesException (.brk t imm) t 3 (pcOf s t + 4) s) ∧
     (decodeCore t word = none →
       (word = 0 → mapped (pcOf s t).toNat = true ∧ guardLets s (.thread t) permX (pcOf s t).toNat 4 = true) →
       TakesException (.illegalInstruction t word) t 0 (pcOf s t) s) ∧
     TakesException (.reti t) t 0 (pcOf s t) s ∧
     (inEncl s t = true → TakesException (.stile t imm) t 0 (pcOf s t) s) ∧
     ((thr s t).stile = none → TakesException (.leave t) t 0 (pcOf s t) s) ∧
     ((thr s t).stile.isSome = true → TakesException (.tdone t status) t 0 (pcOf s t) s))

/-- R295, R313, R314: NOP and FENCE go on; CSYNC makes every control field as written take effect; WAITI goes on with
IMASK zero or an interrupt deliverable, and otherwise leaves the thread waiting with the PC at the next instruction;
TSYNC goes on when every tile instruction of the thread is complete, and otherwise holds the thread at itself. -/
def Obligations.OrderingForms : Prop :=
  ∀ (s : State) (t : Thread), canRun s t = true →
    GoesTo (.nop t) t (pcOf s t + 4) s ∧ GoesTo (.fence t) t (pcOf s t + 4) s ∧
    (geomWaits s = false → ∃ s', exec (.csync t) s = .next s' ∧ pcOf s' t = pcOf s t + 4 ∧
      (thr s' t).ext.now = (thr s t).ext.ctl ∧ (thr s' t).ext.ctl = (thr s t).ext.ctl ∧ (thr s' t).ext.ipend = (thr s t).ext.ipend ∧
      (thr s' t).ext.tick = (thr s t).ext.tick ∧ SameRegs t s s' ∧ SameStatus t s s' ∧ OnlyThread t s s') ∧
    ((thr s t).ext.now.imask = 0 → GoesTo (.waiti t) t (pcOf s t + 4) s) ∧
    (deliverable s t = none → (thr s t).ext.now.imask ≠ 0 →
      ∃ s', exec (.waiti t) s = .next s' ∧ pcOf s' t = pcOf s t + 4 ∧ (thr s' t).waiting = true ∧ canRun s' t = false ∧
        SameRegs t s s' ∧ SameStatus t s s' ∧ OnlyThread t s s') ∧
    (tilePending s t = false → GoesTo (.tsync t) t (pcOf s t + 4) s) ∧
    (tilePending s t = true → ∃ s', exec (.tsync t) s = .next s' ∧ pcOf s' t = pcOf s t ∧ (thr s' t).syncing = true ∧
      SameRegs t s s' ∧ SameStatus t s s' ∧ OnlyThread t s s')

/-- R267, R298, R314, R316, R323: RETI in a handler returns to EPC with FLAGS from ESTS, idle when ESTS.IDLE is set;
the return latch stays only for an instruction at EPC. TDONE outside a handler and STILE ends the thread's task with
its status, any code but CANCELLED, RETIRED and DEADLINE_MISSED taken as OK: the entry in RET[c], the descriptor in
transit, the thread idle and its owner tag 0xFF. Without a task the thread is idle, and the drill ignores the entry.
-/
def Obligations.ReturnAndTaskEnd : Prop :=
  (∀ (s : State) (t : Thread), canRun s t = true → (thr s t).inInt = true →
     let n := (thr s t).ext.now
     ∃ s', exec (.reti t) s = .next s' ∧ (thr s' t).inInt = false ∧ pcOf s' t = n.epc &&& 0xFFFFFFFC ∧
       (thr s' t).flags = BitVec.ofNat 4 n.ests.toNat ∧ (thr s' t).run = (if n.ests.getLsbD 31 then .idle else .running) ∧
       (thr s' t).latch = (match (thr s t).latch with
         | some (a, v) => if a = n.epc then some (a, v) else none
         | none => none) ∧
       SameRegs t s s' ∧ (thr s' t).ret = (thr s t).ret ∧ (thr s' t).task = (thr s t).task ∧
       (∀ u, u ≠ t → thr s' u = thr s u) ∧ s'.mem = s.mem ∧ s'.drill = s.drill) ∧
  (∀ (s : State) (t : Thread) (status : Byte), canRun s t = true → (thr s t).inInt = false → (thr s t).stile = none →
     ∃ s', exec (.tdone t status) s = .next s' ∧ (thr s' t).run = .idle ∧ (thr s' t).task = none ∧
       vget s'.guard.towner t = 0xFF ∧ (∀ u, u ≠ t → thr s' u = thr s u ∧ vget s'.guard.towner u = vget s.guard.towner u) ∧
       s'.mem = s.mem ∧
       (∀ d, (thr s t).task = some d → (desc s' d).st = .transit ∧ (∀ e, e ≠ d → desc s' e = desc s e) ∧
         vget s'.drill.ret (coreOf t) = vget s.drill.ret (coreOf t) ++
           [{ thread := t, desc := d, status := if status = 2 ∨ status = 3 ∨ status = 4 then status else 0 }]) ∧
       ((thr s t).task = none → s'.drill = s.drill))

/-- R315, R327, R328, R329, R332: STILE from the Commons enters entry 7 of the Enclosure's table on the Enclosure
bank, with the service number, the caller, the STILE's address, g4 to g11, the owner tag and the STILE stack in their
registers and every other register zero; the Commons bank stays and FLAGS and the return stack are saved. LEAVE copies
g4 to g11 back, g4 with its status byte alone, restores FLAGS and the return stack, zeroes the Enclosure bank and
resumes after the STILE; every other Commons register keeps its value. A STILE while the Enclosure restarts or is
halted runs no Enclosure code and returns 0x06 and zeros. -/
def Obligations.StileAndLeave : Prop :=
  (∀ (s : State) (t : Thread) (service : Half), canRun s t = true → inEncl s t = false → enclFree s = true →
     ∃ s', exec (.stile t service) s = .next s' ∧
       (thr s' t).pc = s.cores.vbaseE + 224 ∧ inEncl s' t = true ∧ (thr s' t).stile = some (pcOf s t) ∧
       gpr s' t 1 = service.setWidth 32 ∧
       gpr s' t 2 = BitVec.ofNat 32 (t.val + 65536 * (match (thr s t).task with
         | some d => (desc s d).flow.toNat
         | none => 0x0FFF)) ∧
       gpr s' t 3 = pcOf s t ∧ (∀ r : Gpr, 4 ≤ r.toNat ∧ r.toNat ≤ 11 → gpr s' t r = gpr s t r) ∧
       gpr s' t 12 = (vget s.guard.towner t).setWidth 32 ∧ gpr s' t 30 = vget s.wld.stileStack t ∧
       (∀ r : Gpr, 13 ≤ r.toNat → r ≠ 30 → gpr s' t r = 0) ∧
       (thr s' t).commons = (thr s t).commons ∧ (thr s' t).flags = 0 ∧ (thr s' t).ret = [] ∧
       (thr s' t).savedFlags = (thr s t).flags ∧ (thr s' t).savedRet = (thr s t).ret ∧ (thr s' t).task = (thr s t).task ∧
       (∀ u, u ≠ t → thr s' u = thr s u) ∧ s'.mem = s.mem ∧ s'.guard = s.guard) ∧
  (∀ (s : State) (t : Thread), canRun s t = true →
     (∀ a : Word, (thr s t).stile = some a → homeEncl s t = false → (thr s t).debug = false → (thr s t).dfault = false →
       ∃ s', exec (.leave t) s = .next s' ∧ (thr s' t).stile = none ∧ inEncl s' t = false ∧ (thr s' t).pc = a + 4 ∧
         gpr s' t 4 = gpr s t 4 &&& 0xFF ∧ (∀ r : Gpr, 5 ≤ r.toNat ∧ r.toNat ≤ 11 → gpr s' t r = gpr s t r) ∧
         (∀ k : Fin 32, k.val < 4 ∨ 11 < k.val → vget (thr s' t).commons k = vget (thr s t).commons k) ∧
         (∀ k : Fin 32, vget (thr s' t).encl k = 0) ∧ (thr s' t).flags = (thr s t).savedFlags ∧
         (thr s' t).ret = (thr s t).savedRet ∧ (thr s' t).task = (thr s t).task ∧
         (∀ u, u ≠ t → thr s' u = thr s u) ∧ s'.mem = s.mem) ∧
     (∀ service : Half, inEncl s t = false → enclFree s = false →
       ∃ s', exec (.stile t service) s = .next s' ∧ pcOf s' t = pcOf s t + 4 ∧ gpr s' t 4 = 6 ∧
         (∀ r : Gpr, 5 ≤ r.toNat ∧ r.toNat ≤ 11 → gpr s' t r = 0) ∧
         (∀ r : Gpr, r.toNat < 4 ∨ 11 < r.toNat → gpr s' t r = gpr s t r) ∧ OnlyThread t s s' ∧ SameStatus t s s'))

/-! ### The tile engine (16) -/

/-- R155, R268, R319, R320, R335, R341, R347, R351, R353, R362, R363, R364, R365: each tile instruction enters TLQ
behind what is there, with its thread's world, owner tag, flow and task, and the thread goes on; with 32 entries there
it waits. A GEOM write by a world that the tile is open to enters TLQ; another is silent. The completion at the head
of TLC is read. It ends a TSYNC whose thread has no other outstanding; a note raises a task of SRC 5 with WORD,
THREAD, FLAGS and TAG; an overflow raises TILE on the thread that still holds the instruction's task. ENCL_TILES and
POLICY take effect on an empty TLQ, with every tile zeroed and unmarked. -/
def Obligations.TileIssueAndCompletion : Prop :=
  ((∀ (s : State) (t : Thread) (td ta tb : Tile) (a b : Gpr), canRun s t = true →
     (s.tile.tlq.length < 32 →
       EntersTlq (.tld t td a b) t (.tld td (gpr s t a) (gpr s t b)) s ∧
       EntersTlq (.tst t td a b) t (.tst td (gpr s t a) (gpr s t b)) s ∧
       EntersTlq (.tmma t td ta tb a) t (.tmma td ta tb (gpr s t a)) s ∧
       EntersTlq (.tel t td ta tb a) t (.tel td ta tb (gpr s t a)) s ∧
       EntersTlq (.tzero t td) t (.tzero td) s ∧ EntersTlq (.tnote t a b) t (.tnote (gpr s t a) (gpr s t b)) s) ∧
     (32 ≤ s.tile.tlq.length →
       WaitsAtTlq (.tld t td a b) s ∧ WaitsAtTlq (.tst t td a b) s ∧ WaitsAtTlq (.tmma t td ta tb a) s ∧
       WaitsAtTlq (.tel t td ta tb a) s ∧ WaitsAtTlq (.tzero t td) s ∧ WaitsAtTlq (.tnote t a b) s)) ∧
   ∀ (s : State) (r : Req) (t : Tile) (v : Word),
     passesGuard s r (BitVec.ofNat 32 (0x57008100 + 16 * t.val)) = true →
     (tileRegOpen s r t = true →
       ∃ s', exec (.geomWrite r t v) s = .next s' ∧ s'.tile = { s.tile with tlq := s.tile.tlq ++ [.geom t v] } ∧
         s' = { s with tile := s'.tile, clk := s'.clk }) ∧
     (tileRegOpen s r t = false → RefusedSilently (.geomWrite r t v) r s)) ∧
  ((∀ (s : State) (d : Machine.TileDone) (rest : List Machine.TileDone), mainOn s = true → s.tile.tlc = d :: rest →
     (d.note = none → d.ovf = false → (thr s d.thread).syncing = false →
       ∃ s', exec .tileCompletion s = .next s' ∧ s'.tile = { s.tile with tlc := rest } ∧
         s' = { s with tile := s'.tile, clk := s'.clk }) ∧
     (d.note = none → d.ovf = false → (thr s d.thread).syncing = true →
       (∀ e ∈ rest, e.thread ≠ d.thread) →
       (∀ e ∈ s.tile.tlq, ∀ en ow f k o, e ≠ .op d.thread en ow f k o) →
       ∃ s', exec .tileCompletion s = .next s' ∧ s'.tile = { s.tile with tlc := rest } ∧
         pcOf s' d.thread = pcOf s d.thread + 4 ∧ (thr s' d.thread).syncing = false ∧ OnlyThread d.thread s { s' with tile := s.tile, clk := s.clk }) ∧
     (∀ (n : TileNote) (x : Fin 1024), d.note = some n → d.ovf = false → (thr s d.thread).syncing = false →
       let f := n.target.toNat % 4096
       targetOk s n.encl (flowBay s n.flow) f = true → (flow s f).ready = false → freeDesc s f = some x → 0 < freeCredits (flow s f) →
       ∃ s', exec .tileCompletion s = .next s' ∧ s'.tile = { s.tile with tlc := rest } ∧
         (desc s' x).st = .queued ∧ (desc s' x).flow.toNat = f ∧ (desc s' x).src = 5 ∧ (desc s' x).deadline = 0 ∧
         (desc s' x).payload.toNat = n.word.toNat + d.thread.val * 2 ^ 32 + n.flags.toNat * 2 ^ 40 + n.target.toNat / 65536 * 2 ^ 48 ∧
         (flow s' f).taken = (flow s f).taken + 1 ∧ OtherDescs x s s' ∧ s'.mem = s.mem ∧ s'.cores = s.cores) ∧
     (∀ n : TileNote, d.note = some n → d.ovf = false → (thr s d.thread).syncing = false →
       targetOk s n.encl (flowBay s n.flow) (n.target.toNat % 4096) = true → (flow s (n.target.toNat % 4096)).ready = false →
       freeDesc s (n.target.toNat % 4096) = none ∨ freeCredits (flow s (n.target.toNat % 4096)) = 0 →
       ∃ s', exec .tileCompletion s = .next s' ∧ s'.tile = { s.tile with tlc := rest, noteDrops := satInc s.tile.noteDrops } ∧
         s'.drill.descs = s.drill.descs ∧ s'.drill.flows = s.drill.flows ∧ s'.cores = s.cores) ∧
     (∀ k : Fin 1024 × Half, d.note = none → d.ovf = true → d.task = some k → heldTask s d.thread = some k →
       (thr s d.thread).run = .running → (thr s d.thread).inInt = false → (thr s d.thread).syncing = false →
       ∃ s', exec .tileCompletion s = .next s' ∧ (thr s' d.thread).inInt = true ∧ (thr s' d.thread).run = .running ∧
         (thr s' d.thread).pc = (if inEncl s d.thread then s.cores.vbaseE else s.cores.vbaseC) + 128 ∧
         (thr s' d.thread).ext.now.epc =
           (match (thr s d.thread).outstanding with
             | some o => o.pc
             | none => pcOf s d.thread) ∧
         (thr s' d.thread).task = (thr s d.thread).task ∧ ∀ u, u ≠ d.thread → thr s' u = thr s u)) ∧
   ∀ (s : State) (e : Half) (p : Bool), s.tile.change = some (e, p) →
     (s.tile.tlq = [] →
       ∃ s', exec .tilePolicyChange s = .next s' ∧ s'.tile.enclTiles = e ∧ s'.tile.policy = p ∧ s'.tile.change = none ∧
         (∀ t, tile s' t = { tile s t with bytes := [], guards := [], marked := false }) ∧ s' = { s with tile := s'.tile }) ∧
     (s.tile.tlq ≠ [] → ∃ s', exec .tilePolicyChange s = .next s' ∧ s' = s))

/-- R360: TZERO at the head of TLQ sets every byte and every guard bit of TD to zero and changes no geometry and no
flag; a TD that belongs to the other world stays as it is. -/
def Obligations.TzeroClears : Prop :=
  ∀ (s : State) (th : Thread) (encl : Bool) (ow : Byte) (fl : Option (BitVec 12)) (task : Option (Fin 1024 × Half))
    (td : Tile) (rest : List TileEntry), mainOn s = true → s.tile.tlc.length < 16 →
    s.tile.tlq = .op th encl ow fl task (.tzero td) :: rest →
    ∃ s', exec .tileExecute s = .next s' ∧ TileFinishes th td rest s s' ∧
      (tileOpen s encl td = true → (∀ k, tabGet 0 (tile s' td).bytes k = 0) ∧ (∀ k, tabGet 0 (tile s' td).guards k = 0) ∧
        (tile s' td).geom = (tile s td).geom ∧ (tile s' td).flags = (tile s td).flags) ∧
      (tileOpen s encl td = false → tile s' td = tile s td)

/-- R341, R347, R349, R351, R357, R358, R359, R360, R361: the head of TLQ is executed. TZERO clears every byte and
guard bit; TMMA on integers adds the exact sum of K products to the 40-bit value and saturates once at ±(2^39 − 1),
with OVF and OVROW; TEL on integers saturates to its format; a shape or a combination that is not accepted sets BAD
and nothing else; a GEOM write keeps the bytes, and the guard bits while the tile stays int32. -/
def Obligations.TileExecution : Prop :=
  ∀ (s : State) (th : Thread) (encl : Bool) (ow : Byte) (fl : Option (BitVec 12)) (task : Option (Fin 1024 × Half))
    (td ta tb : Tile) (c v : Word) (rest : List TileEntry), mainOn s = true → s.tile.tlc.length < 16 →
    tileOpen s encl td = true →
    (s.tile.tlq = .op th encl ow fl task (.tzero td) :: rest →
      ∃ s', exec .tileExecute s = .next s' ∧ TileFinishes th td rest s s' ∧ (tile s' td).bytes = [] ∧ (tile s' td).guards = [] ∧
        (tile s' td).flags = (tile s td).flags) ∧
    (s.tile.tlq = .op th encl ow fl task (.tmma td ta tb c) :: rest →
      let a := readTile s encl ta
      let b := readTile s encl tb
      let d := tile s td
      (tmmaShapeOk a b d c = false →
        ∃ s', exec .tileExecute s = .next s' ∧ TileFinishes th td rest s s' ∧
          tile s' td = { tile s td with flags := (tile s td).flags ||| 8 }) ∧
      (tmmaShapeOk a b d c = true → d.geom.fmt = 5 → d.geom.rbytes.toNat ≤ 64 →
        let total := fun (i j : Nat) => (if c.getLsbD 0 then 0 else intOf (tileElem d i j)) +
          ((List.range a.geom.elems).map fun k => intOf (tileElem a i k) * intOf (tileElem b j k)).sum
        ∃ s', exec .tileExecute s = .next s' ∧ TileFinishes th td rest s s' ∧
          (∀ i j, i < d.geom.rows.toNat → j < d.geom.elems →
            intOf (tileElem (tile s' td) i j) = saturated (tileRange 5) (total i j)) ∧
          ((tile s' td).flags.getLsbD 0 = true ↔ (tile s td).flags.getLsbD 0 = true ∨
            ∃ i j, i < d.geom.rows.toNat ∧ j < d.geom.elems ∧ saturated (tileRange 5) (total i j) ≠ total i j) ∧
          (∀ i, i < 64 → ((tile s' td).ovrow.getLsbD i = true ↔ (tile s td).ovrow.getLsbD i = true ∨
            ∃ j, i < d.geom.rows.toNat ∧ j < d.geom.elems ∧ saturated (tileRange 5) (total i j) ≠ total i j)))) ∧
    (s.tile.tlq = .op th encl ow fl task (.tel td ta tb c) :: rest →
      let a := readTile s encl ta
      let b := readTile s encl tb
      let d := tile s td
      let f := d.geom.fmt.toNat
      (telShapeOk a b d c = false →
        ∃ s', exec .tileExecute s = .next s' ∧ TileFinishes th td rest s s' ∧
          tile s' td = { tile s td with flags := (tile s td).flags ||| 8 }) ∧
      (telShapeOk a b d c = true → intFormat f = true → telCode c ≤ 4 → d.geom.rbytes.toNat ≤ 64 →
        ∃ s', exec .tileExecute s = .next s' ∧ TileFinishes th td rest s s' ∧
          ∀ i j, i < d.geom.rows.toNat → j < d.geom.elems →
            let x := intOf (tileElem a i j)
            let y := intOf (if telScalar c then tileElem b 0 0 else if telRow c then tileElem b 0 j else tileElem b i j)
            intOf (tileElem (tile s' td) i j) = saturated (tileRange f) (if telCode c = 0 then x + y else
              if telCode c = 1 then x - y else if telCode c = 2 then x * y else if telCode c = 3 then min x y else max x y))) ∧
    (s.tile.tlq = .geom td v :: rest →
      let g := (tile s td).geom
      let rows := v.toNat / 65536 % 128
      let rb := v.toNat / 256 % 128
      ∃ s', exec .tileExecute s = .next s' ∧ s'.tile.tlq = rest ∧ s'.tile.tlc = s.tile.tlc ∧
        (∀ u, u ≠ td → tile s' u = tile s u) ∧ s' = { s with tile := s'.tile, clk := s'.clk } ∧
        (tile s' td).bytes = (tile s td).bytes ∧ (tile s' td).flags = (tile s td).flags ∧
        (tile s' td).geom.rows.toNat = (if 1 ≤ rows ∧ rows ≤ 64 then rows else g.rows.toNat) ∧
        (tile s' td).geom.rbytes.toNat = (if 4 ≤ rb ∧ rb ≤ 64 ∧ rb % 4 = 0 then rb else g.rbytes.toNat) ∧
        (tile s' td).geom.fmt.toNat = (if v.toNat % 8 ≤ 6 then v.toNat % 8 else g.fmt.toNat) ∧
        (g.fmt = 5 → (tile s' td).geom.fmt = 5 → (tile s' td).guards = (tile s td).guards) ∧
        ((tile s' td).geom.fmt ≠ g.fmt → (tile s' td).guards = []))

/-- R341, R354, R355, R356: TLD with every row allowed puts the converted elements of memory into the tile, row i of
memory being row i of the tile, or its column under TRANS; TST stores the converted elements, its last memory row
prevailing, and changes no byte outside the rows. Both record their completion. -/
def Obligations.TileLoadsAndStores : Prop :=
  ∀ (s : State) (th : Thread) (encl : Bool) (ow : Byte) (fl : Option (BitVec 12)) (task : Option (Fin 1024 × Half))
    (td : Tile) (addr c : Word) (rest : List TileEntry), mainOn s = true → s.tile.tlc.length < 16 → tileOpen s encl td = true →
    memCtlOk c = true → (tile s td).geom.rbytes.toNat ≤ 64 → intFormat (ctlFmt c) = true →
    intFormat (tile s td).geom.fmt.toNat = true →
    let x := tile s td
    let f := x.geom.fmt.toNat
    let mf := ctlFmt c
    let rows := (memShape x.geom c).1
    let len := (memShape x.geom c).2 * fmtSize mf
    (s.tile.tlq = .op th encl ow fl task (.tld td addr c) :: rest →
      (∀ r, r < rows → rowAllowed s encl ow false (rowAddr addr c r) len = true) →
      ∃ s', exec .tileExecute s = .next s' ∧ TileFinishes th td rest s s' ∧
        ∀ i j, i < x.geom.rows.toNat → j < x.geom.elems →
          let r := if ctlTrans c then j else i
          let k := if ctlTrans c then i else j
          tileElem (tile s' td) i j =
            (convert mf f (decide (f = 5)) (elemOf mf (((rowBytes s (rowAddr addr c r) len).drop (k * fmtSize mf)).take (fmtSize mf)))).1) ∧
    (s.tile.tlq = .op th encl ow fl task (.tst td addr c) :: rest →
      (∀ r, r < rows → rowAllowed s encl ow true (rowAddr addr c r) len = true) →
      ∃ s', exec .tileExecute s = .next s' ∧ TileFinishes th td rest s { s' with mem := s.mem, cache := s.cache } ∧
        s'.mem = { s.mem with sram := s'.mem.sram } ∧ (tile s' td).bytes = x.bytes ∧ (tile s' td).guards = x.guards ∧
        (∀ a, (∀ r, r < rows → a < rowAddr addr c r ∨ rowAddr addr c r + len ≤ a) → sramByte s' a = sramByte s a) ∧
        (0 < rows → sramRead s' (rowAddr addr c (rows - 1)) len =
          (List.range (memShape x.geom c).2).flatMap fun k => elemBytes mf (convert f mf false
            (if ctlTrans c then tileElem x k (rows - 1) else tileElem x (rows - 1) k)).1))

/-! ### The drill (12) -/

/-- R248, R249, R250, R268, R269, R317, R452: TEMIT to a priority-queue flow of the emitter's world, by a thread whose
own flow is not ordered, fills a free descriptor with SRC 6, the flow's next ORDER and g20 to g29, takes one credit
and returns 0; with no credit or no free descriptor it returns 1 and only SHED counts. A thread's TCANCEL of a Queued
task of its own world returns 0 and frees the descriptor; of a Dispatched, Transit, Releasing or Free one it returns 1
with no effect on the drill. A cancel by flow and tag with no such entry waiting returns 1; with one it returns 0 and
its descriptor is free. -/
def Obligations.EmissionAndCancel : Prop :=
  (∀ (s : State) (t : Thread) (rd a : Gpr), canRun s t = true → latched s t = none →
     let w := gpr s t a
     let f := w.toNat % 4096
     targetOk s (inEncl s t) (flowBay s (taskFlow s t)) f = true → (flow s f).ready = false → drainRefuses s = false →
     orderedParent s t = none →
     (∀ d, freeDesc s f = some d → 0 < freeCredits (flow s f) →
       ∃ s', exec (.temit t rd a) s = .next s' ∧ gpr s' t rd = 0 ∧ pcOf s' t = pcOf s t + 4 ∧
         (desc s' d).st = .queued ∧ (desc s' d).flow.toNat = f ∧ (desc s' d).src = 6 ∧
         (desc s' d).order = (flow s f).nextOrder ∧
         (∀ k : Fin 10, (desc s' d).payload.extractLsb' (32 * k.val) 32 = gpr s t (BitVec.ofNat 5 (20 + k.val))) ∧
         (flow s' f).taken = (flow s f).taken + 1 ∧ OtherDescs d s s' ∧
         (∀ u, u ≠ t → thr s' u = thr s u) ∧ s'.mem = s.mem ∧ SameRegsBut t rd s s' ∧ SameStatus t s s') ∧
     (freeDesc s f = none ∨ freeCredits (flow s f) = 0 →
       ∃ s', exec (.temit t rd a) s = .next s' ∧ gpr s' t rd = (if rd = 0 then 0 else 1) ∧ pcOf s' t = pcOf s t + 4 ∧
         s'.drill.descs = s.drill.descs ∧ s'.drill.flows = s.drill.flows ∧ s'.drill.entries = s.drill.entries ∧
         (∀ u, u ≠ t → thr s' u = thr s u) ∧ s'.mem = s.mem ∧ SameRegsBut t rd s s' ∧ SameStatus t s s')) ∧
  (∀ (s : State) (t : Thread) (rd a b : Gpr), canRun s t = true → latched s t = none →
     (∀ d : Fin 1024, d.val = (gpr s t a).toNat % 1024 → (flow s (desc s d).flow.toNat).world = inEncl s t →
       ((desc s d).st = .queued → (∀ c, (desc s c).life.parent ≠ some d) →
         ∃ s', exec (.tcancel t rd a) s = .next s' ∧ gpr s' t rd = 0 ∧ pcOf s' t = pcOf s t + 4 ∧ (desc s' d).st = .free ∧
           OtherDescs d s s' ∧ (∀ u, u ≠ t → thr s' u = thr s u) ∧ s'.mem = s.mem) ∧
       ((desc s d).st = .dispatched ∨ (desc s d).st = .transit ∨ (desc s d).st = .releasing ∨ (desc s d).st = .free →
         ∃ s', exec (.tcancel t rd a) s = .next s' ∧ gpr s' t rd = (if rd = 0 then 0 else 1) ∧ pcOf s' t = pcOf s t + 4 ∧
           s'.drill = s.drill ∧ (∀ u, u ≠ t → thr s' u = thr s u) ∧ s'.mem = s.mem)) ∧
     (let f := (gpr s t a).toNat % 4096
      let tag : Half := (gpr s t b).setWidth 16
      (flow s f).world = inEncl s t →
       (oldestEntry s f (fun m => decide (m.tag = some tag)) = none →
         ∃ s', exec (.tcancelEntry t rd a b) s = .next s' ∧ gpr s' t rd = (if rd = 0 then 0 else 1) ∧
           pcOf s' t = pcOf s t + 4 ∧ s'.drill = s.drill) ∧
       (∀ e, oldestEntry s f (fun m => decide (m.tag = some tag)) = some e →
         ∀ d : Fin 1024, d = (entry s e.val).desc.toFin → (desc s d).entry.toNat = e.val → (∀ c, (desc s c).life.parent ≠ some d) →
         ∃ s', exec (.tcancelEntry t rd a b) s = .next s' ∧ gpr s' t rd = 0 ∧ pcOf s' t = pcOf s t + 4 ∧
           (desc s' d).st = .free ∧ (entry s' e.val).st = .free ∧ OtherDescs d s s')))

/-- R245, R250, R251: the oldest event of CHEV[f] on a priority-queue flow becomes a Queued task of SRC 1 with its
20-byte record, and what its channels hold follows into CHEV[f]; a housekeeping event becomes a Queued task of flow
4095 with SRC 8 and takes a credit of it. -/
def Obligations.EventsAdmitted : Prop :=
  ∀ (s : State), mainOn s = true →
    (∀ (f : Furrow) (e : ChEvent) (rest : List ChEvent) (d : Fin 1024), chevOf s f = e :: rest →
      (flow s e.flow.toNat).ready = false → freeDesc s e.flow.toNat = some d →
      ∃ s', exec (.channelEventAdmit (.chev f)) s = .next s' ∧ (∃ more, chevOf s' f = rest ++ more ∧
          ((∀ k : Fin 4, (chan s (furrowChan f k)).rx.held = []) → more = [])) ∧
        (desc s' d).st = .queued ∧ (desc s' d).flow = e.flow ∧ (desc s' d).src = 1 ∧
        (desc s' d).order = (flow s e.flow.toNat).nextOrder ∧
        (desc s' d).payload = eventPayload e (eventDeadline s e) ∧ (desc s' d).deadline = eventDeadline s e ∧
        OtherDescs d s s' ∧ s'.mem = s.mem ∧ s'.cores = s.cores) ∧
    (∀ (e : HkEvent) (rest : List HkEvent) (d : Fin 1024), s.drill.hkq = e :: rest → freeDesc s 4095 = some d →
      0 < freeCredits (flow s 4095) →
      ∃ s', exec (.channelEventAdmit .hkq) s = .next s' ∧ s'.drill.hkq = rest ∧ (desc s' d).st = .queued ∧
        (desc s' d).flow = 4095 ∧ (desc s' d).src = 8 ∧ (flow s' 4095).taken = (flow s 4095).taken + 1 ∧
        OtherDescs d s s' ∧ OnlyDrill s s')

/-- R90, R252, R253, R254, R255, R256, R257, R258, R266, R267, R287: a dispatch with no TDONE waiting takes the oldest
task, ready for 8 cycles, of the flow that the rules select to an idle eligible thread, and takes an atomic flow's
lock; a flow with no ready task loses its turn; the task then starts on that thread with its registers as R287 gives
them. A task that has ended, awaits no outcome and has its turn is released: its descriptor and its entry are free,
the turn of the next ORDER comes, and on a flow that no channel draws credits from the credit is free again; nothing
of the cores changes but by the wake task, whose release starts the Commons. -/
def Obligations.DispatchAndRelease : Prop :=
  (∀ (s : State), mainOn s = true →
     ((∀ c, vget s.drill.ret c = []) →
       (∀ d t, reservedPick s = some (d, t) →
         ∃ s', exec .taskDispatch s = .next s' ∧ (desc s' d).st = .transit ∧ (desc s' d).thread.toNat = t.val ∧
           vget s'.drill.disp (coreOf t) = vget s.drill.disp (coreOf t) ++ [(t, d)] ∧
           ((flow s (desc s d).flow.toNat).kind = 0 → (flow s' (desc s d).flow.toNat).locked = true) ∧
           OtherDescs d s s' ∧ OnlyDrill s s') ∧
       ∃ s', exec .taskDispatch s = .next s' ∧ OnlyDrill s s' ∧
         (∀ p : Fin 8, readyAt s' (vget s'.drill.turns p).flow.toNat (BitVec.ofNat 3 p) = false →
           (vget s'.drill.turns p).used = 256) ∧
         (s' = { s with drill := { s.drill with turns := s'.drill.turns } } ∨ ∃ d t, (desc s d).st = .queued ∧ eligible s (desc s d).flow.toNat t = true ∧
           oldestVisible s (desc s d).flow.toNat = some d ∧ readySince s (desc s d) + 8 ≤ s.drill.time.toNat ∧
           vget s'.drill.disp (coreOf t) = vget s.drill.disp (coreOf t) ++ [(t, d)] ∧ OtherDescs d s s')) ∧
     (∀ (t : Thread) (d : Fin 1024), (vget s.drill.disp (coreOf t)).find? (fun p => decide (p.1 = t)) = some (t, d) →
       (thr s t).run = .idle → (thr s t).inInt = false → deliverable s t = none → linesLoading s (homeEncl s t) = false →
       (homeEncl s t = true → enclFree s = true) → modeLets s t = true →
       ∃ s', exec (.taskStart t) s = .next s' ∧ (thr s' t).run = .running ∧ (thr s' t).task = some d ∧
         (desc s' d).st = .dispatched ∧
         (thr s' t).pc = (if homeEncl s t then s.cores.vbaseE else s.cores.vbaseC) +
           BitVec.ofNat 32 (32 * (16 + (flow s (desc s d).flow.toNat).vec.toNat)) ∧
         (thr s' t).flags = 0 ∧ (thr s' t).ret = [] ∧ (thr s' t).latch = none ∧
         gpr s' t 1 = 0x50040000 ∧ gpr s' t 2 = BitVec.ofNat 32 (d.val * 65536 + (desc s d).flow.toNat) ∧
         gpr s' t 3 = (desc s d).deadline ∧ gpr s' t 4 = (desc s d).payload.extractLsb' 0 32 ∧
         (∀ r : Gpr, 5 ≤ r.toNat → r ≠ 30 → gpr s' t r = 0) ∧
         (∀ u, u ≠ t → thr s' u = thr s u) ∧ OtherDescs d s s' ∧ s'.mem = s.mem)) ∧
  (∀ (s : State) (d : Fin 1024), (∀ c, vget s.drill.ret c = []) → releasable s d = true →
     (∀ c, (desc s c).life.parent ≠ some d) →
     let x := desc s d
     let f := x.flow.toNat
     ∃ s', exec (.taskRelease d) s = .next s' ∧ (desc s' d).st = .free ∧ OtherDescs d s s' ∧
       (x.entry ≠ 0xFFFF → (entry s' x.entry.toNat).st = .free) ∧
       ((flow s f).nextRelease = x.order → (flow s f).skipped = [] → (flow s' f).nextRelease = (flow s f).nextRelease + 1) ∧
       ((∀ n, (chan s n).flow ≠ x.flow) → (flow s' f).taken = (flow s f).taken - 1) ∧
       ((∀ u, chwrOf s u = []) → ∀ g, g ≠ f → flow s' g = flow s g) ∧ s'.mem = s.mem ∧
       (isWakeTask x = false → s'.cores = s.cores))

/-- R250, R252, R253, R259, R263, R273, R289, R291: a task that is ready and has waited longer than one more AGE_US is
promoted one level, never above 6, and no other is; an entry whose time has run out becomes Queued with PARTIAL and
counts in TIMEOUTS. A timer of the requester's world starts with its first fire PERIOD_US ahead; a fire that is due
raises a task of SRC 3 and a periodic timer runs on; a deadline that has passed sets DLINE once. -/
def Obligations.AgeingTimersAndDeadlines : Prop :=
  (∀ (s : State),
     (∀ d : Fin 1024, isReady s d = true → s.drill.ageUs ≠ 0 → (effLevel s (desc s d)).toNat < 6 →
       (readySince s (desc s d) + ((desc s d).life.boost + 1) * (250 * s.drill.ageUs.toNat) < s.drill.time.toNat →
         ∃ s', exec (.agePromotion d) s = .next s' ∧ (effLevel s' (desc s' d)).toNat = (effLevel s (desc s d)).toNat + 1 ∧
           (desc s' d).st = .queued ∧ OtherDescs d s s' ∧ s' = { s with drill := s'.drill } ∧ s'.drill.flows = s.drill.flows) ∧
       (s.drill.time.toNat ≤ readySince s (desc s d) + ((desc s d).life.boost + 1) * (250 * s.drill.ageUs.toNat) →
         exec (.agePromotion d) s = .next s)) ∧
     (∀ d : Fin 1024, isReady s d = false ∨ 6 ≤ (effLevel s (desc s d)).toNat → exec (.agePromotion d) s = .next s) ∧
     (∀ e : Fin 512, (entry s e.val).st = .waiting →
       let us := (flow s (entry s e.val).flow.toNat).timeoutUs.toNat
       (us ≠ 0 → (entry s e.val).opened + 250 * us ≤ s.drill.time.toNat →
         ∃ s', exec (.matchTimeout e) s = .next s' ∧ (entry s' e.val).st = .attached ∧
           (desc s' (entry s e.val).desc.toFin).st = .queued ∧ (desc s' (entry s e.val).desc.toFin).partial_ = true ∧
           (desc s' (entry s e.val).desc.toFin).opmask = (desc s (entry s e.val).desc.toFin).opmask ∧
           s'.drill.timeouts = satInc s.drill.timeouts ∧ OtherDescs (entry s e.val).desc.toFin s s' ∧
           s' = { s with drill := s'.drill }) ∧
       (us = 0 ∨ s.drill.time.toNat < (entry s e.val).opened + 250 * us → exec (.matchTimeout e) s = .next s))) ∧
  (∀ (s : State),
     (∀ (r : Req) (i : Fin 64), passesGuard s r (timerBase i) = true → ownsTimer s r i = true →
       (vget s.drill.timers i).en = false → (vget s.drill.timers i).period ≠ 0 →
       ∃ s', exec (.drillTimerStart r i) s = .next s' ∧ (vget s'.drill.timers i).en = true ∧
         (vget s'.drill.timers i).next = timeLo s + BitVec.ofNat 32 (250 * (vget s.drill.timers i).period.toNat) ∧
         (∀ j, j ≠ i → vget s'.drill.timers j = vget s.drill.timers j) ∧ s' = { s with drill := s'.drill } ∧
         s'.drill = { s.drill with timers := s'.drill.timers }) ∧
     (∀ i : Fin 64, 2 ^ 31 ≤ (timeLo s - (vget s.drill.timers i).next).toNat → exec (.drillTimerFire i) s = .next s) ∧
     (∀ (i : Fin 64) (d : Fin 1024), mainOn s = true → (vget s.drill.timers i).en = true →
       (timeLo s - (vget s.drill.timers i).next).toNat < 2 ^ 31 →
       (flow s (vget s.drill.timers i).flow.toNat).en = true → (flow s (vget s.drill.timers i).flow.toNat).ready = false →
       freeDesc s (vget s.drill.timers i).flow.toNat = some d → 0 < freeCredits (flow s (vget s.drill.timers i).flow.toNat) →
       ∃ s', exec (.drillTimerFire i) s = .next s' ∧ (desc s' d).st = .queued ∧ (desc s' d).src = 3 ∧
         (desc s' d).flow = (vget s.drill.timers i).flow ∧
         (desc s' d).payload.toNat % 256 = i.val ∧ (vget s'.drill.timers i).en = (vget s.drill.timers i).periodic ∧
         OtherDescs d s s' ∧ s' = { s with drill := s'.drill }) ∧
     (∀ (t : Thread) (d : Fin 1024), (thr s t).task = some d → (desc s d).deadline ≠ 0 →
       (timeLo s - (desc s d).deadline).toNat < 2 ^ 31 → (thr s t).dlineDone = false →
       ∃ s', exec (.deadlinePass t) s = .next s' ∧ (thr s' t).ext.ipend.getLsbD 2 = true ∧ (thr s' t).dlineDone = true ∧
         (∀ k, k ≠ 2 → (thr s' t).ext.ipend.getLsbD k = (thr s t).ext.ipend.getLsbD k) ∧
         (∀ u, u ≠ t → thr s' u = thr s u) ∧ s' = { s with cores := s'.cores }) ∧
     (∀ t : Thread, (thr s t).dlineDone = true → exec (.deadlinePass t) s = .next s) ∧
     (∀ (t : Thread) (d : Fin 1024), (thr s t).task = some d →
       (desc s d).deadline = 0 ∨ 2 ^ 31 ≤ (timeLo s - (desc s d).deadline).toNat → exec (.deadlinePass t) s = .next s))

/-- R274, R448, R454: CLEAR zeroes every HIST counter; the end of a core's window of WIN_MS sets its threads' TLOAD
and their mean from the shares counted in it; eight sub-windows in a row change OVERLOAD; a snapshot flips the epoch
and latches, and its end shows the results and sets DONE. -/
def Obligations.ObservationAndBooks : Prop :=
  ∀ (s : State),
    (∀ r : Req, passesGuard s r 0x50000098 = true → isEncl s r = true →
      exec (.histClear r) s = .next { s with drill := { s.drill with hist := [] } }) ∧
    (mainOn s = true →
      ∀ c : Fin 4,
      let span := s.drill.time.toNat - vget s.drill.loadAt c
      let share := fun (t : Thread) => min 1000 (1000 * vget s.drill.busy t / span)
      (250000 * s.drill.winMs.toNat ≤ span →
        ∃ s', exec (.loadWindowEnd c) s = .next s' ∧
          (∀ t : Thread, (vget s'.drill.tload t).toNat = if coreOf t = c then share t else (vget s.drill.tload t).toNat) ∧
          (∀ t : Thread, vget s'.drill.busy t = if coreOf t = c then 0 else vget s.drill.busy t) ∧
          (∀ k : Fin 4, vget s'.drill.load k = if k = c then
            BitVec.ofNat 10 ((share (threadAt c.val 0) + share (threadAt c.val 1) + share (threadAt c.val 2) +
              share (threadAt c.val 3)) / 4) else vget s.drill.load k) ∧
          s' = { s with drill := { s.drill with tload := s'.drill.tload, load := s'.drill.load, busy := s'.drill.busy,
                                                loadAt := vset s.drill.loadAt c s.drill.time.toNat } }) ∧
      (span < 250000 * s.drill.winMs.toNat → exec (.loadWindowEnd c) s = .next s)) ∧
    (∀ f : BitVec 12, mainOn s = true → f ≠ 4095 → (flow s f.toNat).en = true →
      let x := tabGet {} s.drill.shed f.toNat
      ∃ s', exec (.overloadSubwindow f) s = .next s' ∧
        (let y := tabGet {} s'.drill.shed f.toNat
         y.shedding = false ∧ y.refused = x.refused ∧
         (x.shedding = x.overload → y.overload = x.overload ∧ y.run = 0) ∧
         (x.shedding ≠ x.overload → (x.run.toNat + 1 = 8 → y.overload = !x.overload ∧ y.run = 0) ∧
           (x.run.toNat + 1 < 8 → y.overload = x.overload ∧ y.run = x.run + 1))) ∧
        s'.mem = s.mem ∧ s'.cores = s.cores ∧ s'.drill.descs = s.drill.descs) ∧
    (∀ r : Req, passesGuard s r 0x50060000 = true → isEncl s r = true → s.books.busy = false →
      ∃ s', exec (.snapshotStart r) s = .next s' ∧ s'.books.busy = true ∧ s'.books.epoch = !s.books.epoch ∧
        s'.books.latched = latchBooks s ∧ s' = { s with books := s'.books }) ∧
    (s.books.busy = true → s.books.imbal = 0 →
      ∃ s', exec .snapshotDone s = .next s' ∧ s'.books.busy = false ∧ s'.books.done = true ∧
        s'.books.shown = s.books.latched ∧ s' = { s with books := s'.books })

/-! ### Cores, worlds and guards (13, 15) -/

/-- R280, R285, R286, R287, R288, R289, R290, R291, R292, R304, R323, R502: a deliverable interrupt starts at entry 8
+ k of its world's table with its IPEND bit taken, ESTS the thread's status and EPC the first instruction not
completed; an access that was still abandonable leaves its result in the return latch and its register as it was. An
awaited answer that returns and a divider that ends leave nothing to abandon; a load's line then stands in the data
cache, and a load that met an uncorrectable error reads zero and is kept out; a TICK that runs out sets IPEND.TICK and
stops; KICK reaches a thread whose home world is the writer's. -/
def Obligations.InterruptsAndCoreEvents : Prop :=
  (∀ (s : State) (t : Thread) (k : Nat), deliverable s t = some k → linesLoading s (intEncl s t k) = false →
     (intEncl s t k = true → enclFree s = true) →
     ((thr s t).run = .running → (thr s t).starting = false) →
     k ≤ 4 ∧ (thr s t).ext.ipend.getLsbD k = true ∧ (thr s t).inInt = false ∧
     ∃ s', exec (.interruptStart t) s = .next s' ∧ (thr s' t).inInt = true ∧ (thr s' t).run = .running ∧
       (thr s' t).pc = (if intEncl s t k then s.cores.vbaseE else s.cores.vbaseC) + BitVec.ofNat 32 (32 * (8 + k)) ∧
       (∀ j, (thr s' t).ext.ipend.getLsbD j = (decide (j ≠ k) && (thr s t).ext.ipend.getLsbD j)) ∧
       (thr s' t).ext.now.ests = BitVec.ofNat 32 ((if (thr s t).run = .idle then 2 ^ 31 else 0) +
         (if inEncl s t then 2 ^ 30 else 0) + (thr s t).flags.toNat) ∧
       (thr s' t).flags = (thr s t).flags ∧ (thr s' t).task = (thr s t).task ∧ (thr s' t).stile = (thr s t).stile ∧
       ((thr s t).outstanding = none → (thr s' t).ext.now.epc = pcOf s t ∧ SameRegs t s s' ∧
         (thr s' t).latch = (thr s t).latch) ∧
       (∀ o, (thr s t).outstanding = some o → (thr s' t).ext.now.epc = o.pc ∧
         gpr s' t o.rd = (if o.rd = 0 then 0 else o.old) ∧ (∀ r, r ≠ o.rd → gpr s' t r = gpr s t r) ∧
         (thr s' t).latch = (if o.latched then some (o.pc, o.result) else (thr s t).latch)) ∧
       (∀ u, u ≠ t → thr s' u = thr s u) ∧ s'.mem = s.mem ∧ s'.drill = s.drill) ∧
  (∀ (s : State),
     (∀ (t : Thread) (o : Outstanding) (e : Bool), (thr s t).outstanding = some o → o.latched = true →
       ∃ s', exec (.dataReturn { thread := t, uncorrectable := e }) s = .next s' ∧ (thr s' t).outstanding = none ∧
         ((e && o.flash) = false → thr s' t = { thr s t with outstanding := none } ∧
           ∀ x, o.fill = some x → holdsLine s' x.encl x.line (cache s' (coreOf t)).dlines = true) ∧
         ((e && o.flash) = true → gpr s' t o.rd = 0 ∧ (∀ r, r ≠ o.rd → gpr s' t r = gpr s t r) ∧
           s' = { s with cores := s'.cores }) ∧
         (∀ u, u ≠ t → thr s' u = thr s u) ∧ (∀ c, Machine.core s' c = Machine.core s c) ∧
         s' = { s with cores := s'.cores, cache := s'.cache, draws := s'.draws }) ∧
     (∀ (c : Fin 4) (t : Thread), (Machine.core s c).divider = some t →
       ∃ s', exec (.dividerFree c) s = .next s' ∧ Machine.core s' c = { Machine.core s c with divider := none } ∧
         thr s' t = { thr s t with outstanding := none } ∧ (∀ u, u ≠ t → thr s' u = thr s u) ∧
         s' = { s with cores := s'.cores, cache := s'.cache, draws := s'.draws }) ∧
     (∀ t : Thread, (thr s t).ext.tick ≠ 0 →
       ∃ s', exec (.tickExpire t) s = .next s' ∧ (thr s' t).ext.tick = 0 ∧
         (∀ j, (thr s' t).ext.ipend.getLsbD j = (decide (j = 0) || (thr s t).ext.ipend.getLsbD j)) ∧
         (∀ u, u ≠ t → thr s' u = thr s u) ∧ s' = { s with cores := s'.cores }) ∧
     (∀ t : Thread, (thr s t).ext.tick = 0 → exec (.tickExpire t) s = .next s) ∧
     (∀ (r : Req) (c m : Fin 4), passesGuard s r 0x57000010 = true → isCore s r = true →
       let t : Thread := threadAt c.val m.val
       (homeEncl s t = isEncl s r →
         ∃ s', exec (.kick r c m) s = .next s' ∧
           (∀ j, (thr s' t).ext.ipend.getLsbD j = (decide (j = 1) || (thr s t).ext.ipend.getLsbD j)) ∧
           (∀ u, u ≠ t → thr s' u = thr s u) ∧ s' = { s with cores := s'.cores }) ∧
       (homeEncl s t ≠ isEncl s r → RefusedSilently (.kick r c m) r s)) ∧
     (∀ (c : Fin 4) (b : Bool), (Machine.core s c).modeNext = some b →
       (∀ t ∈ others c, (thr s t).run = .idle ∧ (thr s t).inInt = false) →
       ∃ s', exec (.coreModeChange c) s = .next s' ∧ Machine.core s' c = { Machine.core s c with single := b, modeNext := none } ∧
         (∀ u, thr s' u = thr s u) ∧ s' = { s with cores := s'.cores }))

/-- R116, R281, R282, R283, R284, R502: LOAD_E and LOAD_C by the Enclosure start a load unless the world's base is 0;
its end locks the 80 lines that flash holds at the base; a line fill counts, and its line is in the line store unless
its data had an uncorrectable error; a flash operation leaves the bank's range programmed or erased, every other byte
as it was, the PUF helper data always, and no line of the bank cached; and the activation of an Enclosure image in the
slot not in use, which must pass R112, is a cold reset. -/
def Obligations.VectorLinesAndFlash : Prop :=
  ∀ (s : State),
    (∀ r : Req, passesGuard s r 0x57000008 = true → isEncl s r = true →
      exec (.loadE r) s = .next { s with cores := { s.cores with loadingE := s.cores.loadingE || decide (s.cores.vbaseE ≠ 0) } } ∧
      exec (.loadC r) s = .next { s with cores := { s.cores with loadingC := s.cores.loadingC || decide (s.cores.vbaseC ≠ 0) } }) ∧
    (s.cores.loadingE = true → s.cores.vbaseE ≠ 0 → s.cores.loadingC = true → s.cores.vbaseC ≠ 0 →
      exec .vectorLoadDone s = .next { s with cores := { s.cores with
        vlsE := flashRead s s.cores.vbaseE.toNat 2560, eValid := true, loadingE := false
        vlsC := flashRead s s.cores.vbaseC.toNat 2560, cValid := true, loadingC := false } }) ∧
    (∀ (c : Fin 4) (encl err : Bool) (a : Word), mainOn s = true → inFlash (a.toNat / 32 * 32) 32 = true →
      ∃ s', exec (.lineFillDone c encl a err) s = .next s' ∧
        Machine.core s' c = { Machine.core s c with perfImiss := satInc (Machine.core s c).perfImiss } ∧
        (∀ d, d ≠ c → Machine.core s' d = Machine.core s d ∧ cache s' d = cache s d) ∧ (∀ u, thr s' u = thr s u) ∧
        (err = false → holdsLine s' encl (a.toNat / 32) (cache s' c).lines = true) ∧
        (err = true → s'.cache = s.cache) ∧ s' = { s with cores := s'.cores, cache := s'.cache, draws := s'.draws }) ∧
    (∀ (bank : Fin 4) (a : Word) (bs : List Byte) (n : Nat), mainOn s = true →
      let ofBank : CacheLine → Prop := fun x =>
        0x08000000 + 0x200000 * bank.val ≤ 32 * x.line ∧ 32 * x.line < 0x08000000 + 0x200000 * (bank.val + 1)
      let uncached : State → Prop := fun s' => ∀ c, cache s' c = { cache s c with
        lines := (cache s' c).lines, dlines := (cache s' c).dlines } ∧
        ∀ x, x ∈ (cache s' c).lines ∨ x ∈ (cache s' c).dlines → ¬ ofBank x
      (inBank bank a.toNat bs.length = true → touchesPuf a.toNat bs.length = false → touchesBootRecord a.toNat bs.length = false →
        ∃ s', exec (.flashOperationEnd bank (.program a bs)) s = .next s' ∧ flashRead s' a.toNat bs.length = bs ∧
          (∀ k, k < a.toNat ∨ a.toNat + bs.length ≤ k → tabGet norBlank s'.mem.flash k = tabGet norBlank s.mem.flash k) ∧
          uncached s' ∧ s' = { s with mem := { s.mem with flash := s'.mem.flash }, cache := s'.cache }) ∧
      (inBank bank a.toNat n = true → touchesPuf a.toNat n = false → touchesBootRecord a.toNat n = false →
        ∃ s', exec (.flashOperationEnd bank (.erase a n)) s = .next s' ∧
          (∀ k, tabGet norBlank s'.mem.flash k =
            if a.toNat ≤ k ∧ k < a.toNat + n then 0xFF else tabGet norBlank s.mem.flash k) ∧
          uncached s' ∧ s' = { s with mem := { s.mem with flash := s'.mem.flash }, cache := s'.cache })) ∧
    (∀ slotB : Bool, mainOn s = true →
      (enclRuns s = true → slotB ≠ s.boot.enclSlot → enclCode s slotB false = 0 →
        ∃ s', exec (.flashOperationEnd 3 (.activate slotB)) s = .next s' ∧ s'.sys.mode = Mode.boot ∧ s'.sys.cause = 3 ∧
          s'.sys.romPending = true ∧ (∀ k, k < 0x087FF000 → tabGet norBlank s'.mem.flash k = tabGet norBlank s.mem.flash k)) ∧
      (slotB = s.boot.enclSlot ∨ enclCode s slotB false ≠ 0 → exec (.flashOperationEnd 3 (.activate slotB)) s = .next s)) ∧
    (∀ (bank : Fin 4) (op : FlashOp), ∃ s', exec (.flashOperationEnd bank op) s = .next s' ∧ pufHelper s' = pufHelper s)

/-- R10, R331, R334, R335, R336, R339, R340, R342: the Enclosure's lock of the guards; a probe answers by the guards'
regions, a reserved SRC leaving SRC as it was; after the lock, a second lock is refused silently; and a load that the
guard refuses reads zero, a store that it refuses changes nothing, with one violation counted against the thread. KEY
0x6B written by the Enclosure reloads the watchdog; once 7/8 of the period have elapsed every Enclosure thread has
IPEND.WDOG, and earlier none; a kick of any other requester is refused silently. -/
def Obligations.GuardsAndWatchdog : Prop :=
  (∀ (s : State),
     (∀ r : Req, passesGuard s r 0x56002000 = true → isEncl s r = true →
       (s.guard.lock = false → exec (.guardLock r) s = .next { s with guard := { s.guard with lock := true } }) ∧
       (s.guard.lock = true → RefusedSilently (.guardLock r) r s)) ∧
     (∀ (r : Req) (v : Word), passesGuard s r 0x56002408 = true → isEncl s r = true →
       let src := if v.toNat / 65536 % 32 < 20 then v.toNat / 65536 % 32 else s.guard.probeSrc.toNat
       ∃ s', exec (.guardProbe r v) s = .next s' ∧ s'.guard.probeDone = true ∧ s'.guard.probeSrc.toNat = src ∧
         s'.guard.probeAllow = probeAllows s
           { bay := if 16 ≤ src then some (Fin.ofNat 4 (src - 16)) else none
             owner := BitVec.ofNat 8 (v.toNat / 256 % 256) }
           (BitVec.ofNat 3 (v.toNat / 16777216 % 8)) s.guard.probeAddr.toNat s.guard.probeLen.toNat ∧
         s' = { s with guard := { s.guard with
           probeSrc := s'.guard.probeSrc, probeDone := true, probeAllow := s'.guard.probeAllow } }) ∧
     (∀ (t : Thread) (rd b : Gpr) (imm : Half), canRun s t = true → latched s t = none →
       let a := (effAddr s t b imm).toNat
       a % 4 = 0 → mapped a = true → 0x8000 ≤ a → guardLets s (.thread t) permR a 4 = false →
       ∃ s', exec (.lw t rd b imm) s = .next s' ∧ gpr s' t rd = 0 ∧ pcOf s' t = pcOf s t + 4 ∧ s'.mem = s.mem ∧
         vget s'.guard.vcnt ⟨t.val, by omega⟩ = satInc (vget s.guard.vcnt ⟨t.val, by omega⟩) ∧ s'.guard.vlastKind = 1 ∧
         s'.guard.vlastAddr.toNat = a ∧ s'.guard.vlastWrite = false) ∧
     (∀ (t : Thread) (d b : Gpr) (imm : Half), canRun s t = true →
       let a := (effAddr s t b imm).toNat
       a % 4 = 0 → mapped a = true → 0x8000 ≤ a → guardLets s (.thread t) permW a 4 = false →
       ∃ s', exec (.sw t d b imm) s = .next s' ∧ pcOf s' t = pcOf s t + 4 ∧ s'.mem = s.mem ∧ s'.chs = s.chs ∧
         vget s'.guard.vcnt ⟨t.val, by omega⟩ = satInc (vget s.guard.vcnt ⟨t.val, by omega⟩) ∧ s'.guard.vlastKind = 1 ∧
         s'.guard.vlastAddr.toNat = a ∧ s'.guard.vlastWrite = true)) ∧
  (∀ (s : State),
     (∀ r : Req, passesGuard s r 0x56003004 = true →
       (isEncl s r = true →
         exec (.wdogKick r) s = .next { s with wld := { s.wld with elapsed := 0, warned := false, period := s.wld.periodNext } }) ∧
       (isEncl s r = false → RefusedSilently (.wdogKick r) r s)) ∧
     (watchdogRuns s = true → s.wld.warned = false → 7 * watchdogSpan s ≤ 8 * s.wld.elapsed →
       ∃ s', exec .watchdogWarn s = .next s' ∧ s'.wld = { s.wld with warned := true } ∧
         (∀ t, homeEncl s t = true → (thr s' t).ext.ipend.getLsbD 3 = true) ∧
         (∀ t, homeEncl s t = false → thr s' t = thr s t) ∧ s' = { s with wld := s'.wld, cores := s'.cores }) ∧
     (8 * s.wld.elapsed < 7 * watchdogSpan s → exec .watchdogWarn s = .next s))

/-- R123, R322, R343, R344, R345: an expiry restarts the Enclosure: its threads held with no task and zero banks,
Commons threads in STILE resumed with g4 = 6, the fixed Enclosure SRAM zero and a re-measurement running; the third
restart in 600 s enters Limp reason 2 instead. Neither comes before the period has elapsed. A re-measurement that
matches resumes C0.t0 at BOOT.ENTRY[2], after a warm reset at BOOT.ENTRY[1], with the watchdog anew; one that does not
match, or met an uncorrectable error, enters Limp reason 2. Its end clears BUSY and counts in RUNS. A double fault of
a Commons thread outside STILE zeroes its Commons bank, counts in CFAULTS and ends its task; in the Enclosure it
restarts the Enclosure. -/
def Obligations.RestartAndDoubleFaults : Prop :=
  (∀ (s : State),
     (watchdogRuns s = true → watchdogSpan s ≤ s.wld.elapsed → s.boot.remBusy = false → s.boot.romLocked = true → s.sys.mode ≠ Mode.lockdown →
       (recentRestarts s).length < 2 →
       ∃ s', exec .watchdogExpire s = .next s' ∧ s'.wld.restart = true ∧ s'.wld.cause = 1 ∧
         s'.wld.times = recentRestarts s ++ [s.now] ∧ s'.boot.remBusy = true ∧ s'.boot.trigger = 2 ∧
         (∀ t, homeEncl s t = true → (thr s' t).run = .held ∧ (thr s' t).task = none ∧ (thr s' t).encl = zeroBank) ∧
         (∀ k, 0x20000000 ≤ k → k < 0x20040000 → sramByte s' k = 0)) ∧
     (watchdogRuns s = true → watchdogSpan s ≤ s.wld.elapsed → s.boot.remBusy = false → s.boot.romLocked = true → s.sys.mode ≠ Mode.lockdown →
       2 ≤ (recentRestarts s).length →
       ∃ s', exec .watchdogExpire s = .next s' ∧ limpReason s' 2 = true ∧ s'.wld.restart = false) ∧
     (s.wld.elapsed < watchdogSpan s → exec .watchdogExpire s = .next s) ∧
     (∀ (e : Bool) (us : Half), s.boot.remBusy = true → mainOn s = true → s.sys.mode ≠ Mode.lockdown →
       let ok := !e && decide (remeasured s = s.boot.meas)
       ∃ s', exec (.remeasureDone e us) s = .next s' ∧ s'.boot.remBusy = false ∧ s'.boot.remMatch = ok ∧
         s'.boot.runs = satInc s.boot.runs ∧ s'.boot.timeUs = us ∧ s'.wld.restart = false ∧
         (ok = false → limpReason s' 2 = true ∧ s'.wld.started = s.wld.started) ∧
         (ok = true → s'.wld.started = true ∧ s'.wld.elapsed = 0 ∧ s'.wld.period = 250 ∧
           (s.wld.restart = false → s'.boot.headland = .resident) ∧
           (homeEncl s 0 = true → (∀ t ∈ s.wld.cfHeld, homeEncl s t = false) →
             (thr s' 0).run = .running ∧
             (thr s' 0).pc = vget s.boot.entry (if s.wld.restart = true then 2 else 1) &&& 0xFFFFFFFC)))) ∧
  (∀ (s : State) (t : Thread) (imm : Half), canRun s t = true → (thr s t).inInt = true →
     (inEncl s t = false → enclFree s = true →
       ∃ s', exec (.trap t imm) s = .next s' ∧ (thr s' t).run = .idle ∧ (thr s' t).commons = zeroBank ∧
         (thr s' t).task = none ∧ (thr s' t).inInt = false ∧ s'.wld.cfCount = satInc s.wld.cfCount ∧
         s'.wld.cfLast.toNat = t.val ∧ (∀ d, (thr s t).task = some d → (desc s' d).st = .transit) ∧
         (∀ u, u ≠ t → thr s' u = thr s u)) ∧
     (inEncl s t = true → s.wld.restart = false → s.boot.remBusy = false → limpReason s 2 = false → s.boot.romLocked = true →
       s.sys.mode ≠ Mode.lockdown → (recentRestarts s).length < 2 →
       ∃ s', exec (.trap t imm) s = .next s' ∧ s'.wld.restart = true ∧ s'.wld.cause = 2 ∧ s'.wld.thread.toNat = t.val ∧
         s'.boot.remBusy = true))

/-- R68, R102, R330, R337: what the services of the Enclosure answer in g4 to g11 of a caller inside STILE: STATUS the
three registers, OWNER_ENTER the owner tag of an owner that is present and permitted, OWNER_LEAVE 0xFF, TIME the
calendar's new setting, and MODE and RESET the same as their registers. -/
def Obligations.Services : Prop :=
  ∀ (s : State) (t : Thread),
    let zeros := fun (s' : State) => ∀ k : Fin 32, 5 ≤ k.val → k.val ≤ 11 → vget (thr s' t).encl k = 0
    (serving s t 0 = true →
      ∃ s', exec (.svcStatus t) s = .next s' ∧ vget (thr s' t).encl 4 = 0 ∧ vget (thr s' t).encl 5 = sysModeWord s ∧
        vget (thr s' t).encl 6 = seedStsWord s ∧ vget (thr s' t).encl 7 = bootStsWord s ∧
        (∀ k : Fin 32, 8 ≤ k.val → k.val ≤ 11 → vget (thr s' t).encl k = 0) ∧ s' = { s with cores := s'.cores } ∧
        (∀ u, u ≠ t → thr s' u = thr s u)) ∧
    (serving s t 3 = true →
      let o := (stileReg s t 5).toNat
      ∃ s', exec (.ownerEnter t) s = .next s' ∧ vget (thr s' t).encl 4 = 0 ∧ zeros s' ∧
        vget s'.guard.towner t = (if ownerPermitted s t o then BitVec.ofNat 8 o else vget s.guard.towner t) ∧
        (∀ u, u ≠ t → vget s'.guard.towner u = vget s.guard.towner u) ∧
        s' = { s with cores := s'.cores, guard := { s.guard with towner := s'.guard.towner } }) ∧
    (serving s t 4 = true →
      ∃ s', exec (.ownerLeave t) s = .next s' ∧ vget (thr s' t).encl 4 = 0 ∧ zeros s' ∧ vget s'.guard.towner t = 0xFF ∧
        (∀ u, u ≠ t → vget s'.guard.towner u = vget s.guard.towner u) ∧
        s' = { s with cores := s'.cores, guard := { s.guard with towner := s'.guard.towner } }) ∧
    (serving s t 6 = true →
      ∃ s', exec (.svcTime t) s = .next s' ∧ vget (thr s' t).encl 4 = 0 ∧ zeros s' ∧
        s'.bkp.cal.set.toNat = (stileReg s t 5).toNat + (stileReg s t 6).toNat % 65536 * 2 ^ 32 ∧
        (s.sys.mode ≠ Mode.limp → s.sys.mode ≠ Mode.lockdown → s'.bkp.cal.applyPending = true)) ∧
    (serving s t 5 = true → stileReg s t 5 = 2 →
      ∃ s', exec (.svcMode t) s = .next s' ∧ vget (thr s' t).encl 4 = 0 ∧ zeros s' ∧ s'.sys.mode = s.sys.mode ∧
        (if s.sys.mode = Mode.run ∧ s.pins.ign = false ∧ s.pins.svcPresentHigh = true ∧ watchBusy s = false
         then s'.sys.sleep = .draining ∧ s'.sys.sleepFail = s.sys.sleepFail
         else s'.sys.sleep = s.sys.sleep ∧ s'.sys.sleepFail = true)) ∧
    (serving s t 7 = true → stileReg s t 5 = 2 →
      ∃ s', exec (.svcReset t) s = .next s' ∧ s'.sys.mode = Mode.boot ∧ s'.sys.prev = s.sys.mode ∧ s'.sys.cause = 3 ∧
        s'.mem.sram = [] ∧ s'.sys.romPending = true) ∧
    (serving s t 7 = true → stileReg s t 5 = 1 → s.sys.mode ≠ Mode.lockdown → s.sys.mode ≠ Mode.limp →
      ∃ s', exec (.svcReset t) s = .next s' ∧ s'.sys.mode = Mode.boot ∧ s'.sys.cause = 4 ∧ s'.mem.sram = []) ∧
    (serving s t 7 = true → stileReg s t 5 ≠ 1 → stileReg s t 5 ≠ 2 →
      ∃ s', exec (.svcReset t) s = .next s' ∧ vget (thr s' t).encl 4 = 0 ∧ zeros s' ∧ s' = { s with cores := s'.cores })

/-! ### Power, backup domain and modes (02 to 05) -/

/-- R44, R46, R48, R49, R50, R55, R59, R84, R85, R102, R393: out of Backup the module starts through a cold reset with
the cause of its supply; a lost VSUP leads to Backup, or, with SVC_5V, leaves the mode without field power; at 135 °C
main power counts as lost, the supplies that come meanwhile are noted, and below 110 °C a cold start follows. The
shadow sets go with the supply. A controller switches its output on at once, or 100 ms after its own fault trip, and a
successful switch-on clears the fault and SHED; a trip latches the fault; the budget sheds outputs in SYS.BAYPWR.ORDER
until the total is within 8 A, falling linearly from 70 °C to 4 A at 85 °C (log entry 105), and the junction sheds the
first output that is on. -/
def Obligations.SuppliesAndBayOutputs : Prop :=
  (∀ (s : State),
     (∀ (mv : Half) (svc : Bool), s.sys.mode = Mode.backup → s.pow.thermalOff = false → 6500 < mv.toNat ∨ svc = true →
       ∃ s', exec (.powerOn mv svc) s = .next s' ∧
         ColdStart (if 6500 < mv.toNat then (if s.bkp.held = true ∨ s.bkp.por = true then 0 else 1) else 5) Mode.backup s s' ∧
         s'.pow.vsup = decide (6500 < mv.toNat) ∧ s'.pow.svc5v = svc ∧ s'.pow.vsupMv = mv) ∧
     (s.sys.mode = Mode.backup → s.pow.thermalOff = false →
       ∃ s', exec .svc5vApplied s = .next s' ∧ ColdStart 5 Mode.backup s s' ∧ s'.pow.svc5v = true ∧ s'.pow.vsup = false) ∧
     (s.sys.mode ≠ Mode.backup → exec .svc5vApplied s = .next { s with pow := { s.pow with svc5v := true } }) ∧
     (s.sys.mode ≠ Mode.backup → s.pow.svc5v = false →
       ∃ s', exec .mainPowerLost s = .next s' ∧ s'.sys.mode = Mode.backup ∧ s'.sys.prev = s.sys.mode ∧ s'.sys.wake = 0 ∧
         FieldOff s' ∧ s'.pow.vsup = false ∧ s'.bkp = { s.bkp with shadows := [] } ∧ s'.mem = s.mem ∧
         s'.fuse.array = s.fuse.array) ∧
     (s.sys.mode ≠ Mode.backup → s.pow.svc5v = true →
       ∃ s', exec .mainPowerLost s = .next s' ∧ s'.sys = s.sys ∧ FieldOff s' ∧ s'.pow.vsup = false ∧ s'.bkp = s.bkp ∧
         s'.mem = s.mem ∧ s'.cores = s.cores) ∧
     (∀ (mv : Half) (svc : Bool), s.sys.mode = Mode.backup → s.pow.thermalOff = true → 6500 < mv.toNat ∨ svc = true →
       exec (.powerOn mv svc) s = .next { s with pow := { s.pow with vsup := decide (6500 < mv.toNat), vsupMv := mv, svc5v := svc } }) ∧
     (s.sys.mode ≠ Mode.backup → s.pow.vsup = false ∨ s.pow.thermalOff = true →
       ∃ s', exec .svc5vRemoved s = .next s' ∧ s'.sys.mode = Mode.backup ∧ s'.sys.prev = s.sys.mode ∧ FieldOff s' ∧
         s'.bkp = { s.bkp with shadows := [] } ∧ s'.mem = s.mem) ∧
     (s.pow.vsup = true → s.pow.thermalOff = false → exec .svc5vRemoved s = .next { s with pow := { s.pow with svc5v := false } }) ∧
     (∀ pll : Fin 3, mainOn s = true →
       ∃ s', exec (.pllLockLoss pll) s = .next s' ∧ ColdStart 1 Mode.backup s s') ∧
     (∀ mv : Half, s.pow.vsup = false → s.pow.svc5v = true → mainOn s = true → 6500 < mv.toNat →
       ∃ s', exec (.vsupOnServiceSupply mv) s = .next s' ∧ s'.sys = s.sys ∧ s'.pow.vsup = true ∧ s'.pow.vsupMv = mv ∧
         s'.mem = s.mem ∧ s'.cores = s.cores ∧
         (s.seed.applied = true → s.pow.thermalOff = false → s.sys.mode = Mode.run → s.sys.limpSet = 0 → ∀ n, isRetired s n = false →
           (chan s' n).drive = if (chan s n).en then .func else .hiZ)) ∧
     (∀ mv : Half, s.pow.vsup = false → s.pow.svc5v = true → s.pow.thermalOff = false → s.sys.mode = Mode.sleep →
       6500 < mv.toNat →
       ∃ s', exec (.vsupOnServiceSupply mv) s = .next s' ∧ s'.sys = s.sys ∧ s'.pow = { s.pow with vsup := true, vsupMv := mv } ∧
         ∀ n, (chan s' n).drive = (if (chan s' n).async.onSleep then .watch else .sleep) ∧
           (chan s' n).async.onSleep = ((seedFind s 0x13 1 n.val).isSome && (chan s n).en && !isRetired s n)) ∧
     (∀ tj : Byte, mainOn s = true → 199 ≤ tj.toNat → s.pow.svc5v = false →
       ∃ s', exec (.thermalShutdown tj) s = .next s' ∧ s'.sys.mode = Mode.backup ∧ FieldOff s' ∧ s'.pow.thermalOff = true ∧
         s'.pow.tj = tj ∧ s'.bkp = { s.bkp with shadows := [] }) ∧
     (∀ tj : Byte, mainOn s = true → 199 ≤ tj.toNat → s.pow.svc5v = true →
       ∃ s', exec (.thermalShutdown tj) s = .next s' ∧ s'.sys = s.sys ∧ FieldOff s' ∧ s'.pow.thermalOff = true ∧
         s'.pow.vsup = s.pow.vsup ∧ s'.bkp = s.bkp ∧ s'.mem = s.mem) ∧
     (∀ tj : Byte, s.pow.thermalOff = true → tj.toNat < 174 → s.pow.vsup = true ∨ s.pow.svc5v = true →
       ∃ s', exec (.thermalRecovery tj) s = .next s' ∧ ColdStart 2 s.sys.mode s s' ∧ s'.pow.thermalOff = false)) ∧
  (∀ (s : State) (b : Bay),
     (∀ r : Req, passesGuard s r (slotAddr b) = true → (∀ k, r ≠ .bay k) →
       (∃ s', exec (.bayPowerRequest r b false) s = .next s' ∧ OutputOff s' b ∧ (bayOut s' b).fault = (bayOut s b).fault ∧
         (bayOut s' b).shed = (bayOut s b).shed ∧ (∀ k, k ≠ b → bayOut s' k = bayOut s k ∧ bay s' k = bay s k) ∧
         s' = { s with pow := s'.pow, bays := s'.bays }) ∧
       ((bay s b).pwr = false → (bayOut s b).on = false → fieldPower s = true →
         ∃ s', exec (.bayPowerRequest r b true) s = .next s' ∧ (bay s' b).pwr = true ∧ (bayOut s' b).request = true ∧
           ((bayOut s b).fault = false ∨ 25000000 ≤ s.now - (bayOut s b).tripAt →
             (bayOut s' b).on = true ∧ (bayOut s' b).fault = false ∧ (bayOut s' b).shed = false) ∧
           ((bayOut s b).fault = true → s.now - (bayOut s b).tripAt < 25000000 →
             (bayOut s' b).on = false ∧ (bayOut s' b).fault = true ∧ (bayOut s' b).shed = (bayOut s b).shed) ∧
           (∀ k, k ≠ b → bayOut s' k = bayOut s k ∧ bay s' k = bay s k) ∧
           s' = { s with pow := s'.pow, bays := s'.bays, drill := s'.drill, clk := s'.clk })) ∧
     ((bayOut s b).request = true → (bayOut s b).on = false → (bayOut s b).fault = true → fieldPower s = true →
       25000000 ≤ s.now - (bayOut s b).tripAt →
       ∃ s', exec (.bayReenable b) s = .next s' ∧ (bayOut s' b).on = true ∧ (bayOut s' b).fault = false ∧
         (bayOut s' b).shed = false ∧ (∀ k, k ≠ b → bayOut s' k = bayOut s k) ∧ s'.bays = s.bays) ∧
     (s.now - (bayOut s b).tripAt < 25000000 → exec (.bayReenable b) s = .next s) ∧
     ((bayOut s b).on = true →
       ∃ s', exec (.bayOutputFault b) s = .next s' ∧ OutputOff s' b ∧ (bayOut s' b).fault = true ∧
         (bayOut s' b).tripAt = s.now ∧ (bay s' b).pfault = true ∧ (bayOut s' b).shed = (bayOut s b).shed ∧
         (∀ k, k ≠ b → bayOut s' k = bayOut s k ∧ bay s' k = bay s k) ∧
         s' = { s with pow := s'.pow, bays := s'.bays, drill := s'.drill, clk := s'.clk }) ∧
     (∀ (mc : Int) (m0 m1 m2 m3 : Half) (tripped : BitVec 4), mainOn s = true →
       let ma : Bay → Nat := fun b => ([m0.toNat, m1.toNat, m2.toNat, m3.toNat] : List Nat).getD b.val 0
       -- 8 A up to 70 °C, falling linearly to 4 A at 85 °C, 4 A above; currents in mA, `mc` in thousandths of a degree
       let within : Nat → Prop := fun total =>
         (mc ≤ 70000 → total ≤ 8000) ∧ (85000 ≤ mc → total ≤ 4000) ∧
         (70000 < mc → mc < 85000 → (total : Int) * 15000 ≤ 8000 * 15000 - 4000 * (mc - 70000))
       ¬ within (totalMa s ma) → (shedOrder s).Nodup →
       ∃ s', exec (.bayBudgetShed mc m0 m1 m2 m3 tripped) s = .next s' ∧
         (within (totalMa s' ma) ∨ ∀ k, (bayOut s' k).on = false) ∧
         (∀ k, (bayOut s' k).on = false → (bayOut s k).on = true → OutputOff s' k ∧ (bayOut s' k).shed = true ∧
           (tripped.getLsbD k.val = true → (bayOut s' k).fault = true)) ∧
         (∀ k, (bayOut s' k).on = (bayOut s k).on → bayOut s' k = bayOut s k ∧ bay s' k = bay s k) ∧
         (∀ k j pre mid post, shedOrder s = pre ++ k :: mid ++ j :: post → (bayOut s k).on = true →
           (bayOut s j).on = true → (bayOut s' j).on = false → (bayOut s' k).on = false) ∧
         s' = { s with pow := s'.pow, bays := s'.bays, drill := s'.drill, clk := s'.clk }) ∧
     (∀ tj : Byte, mainOn s = true → 189 ≤ tj.toNat →
       (shedOrder s).find? (fun k => (bayOut s k).on) = some b →
       ∃ s', exec (.thermalShed tj) s = .next s' ∧ OutputOff s' b ∧ (bayOut s' b).shed = true ∧ s'.pow.thermShed = true ∧
         s'.pow.tj = tj ∧ (s.pow.thermShed = false → ({ cause := .therm, data := 1 } : HkEvent) ∈ s'.drill.hkq) ∧
         (∀ k, k ≠ b → bayOut s' k = bayOut s k ∧ bay s' k = bay s k) ∧
         s' = { s with pow := s'.pow, bays := s'.bays, drill := s'.drill, clk := s'.clk }) ∧
     (∀ tj : Byte, mainOn s = true → tj.toNat < 186 →
       ∃ s', exec (.thermalShed tj) s = .next s' ∧ s'.pow = { s.pow with tj := tj, thermShed := false } ∧
         (s.pow.thermShed = false → s'.drill = s.drill) ∧ (s.pow.thermShed = true → Housekeeping .therm 1 s s') ∧
         s' = { s with pow := s'.pow, drill := s'.drill, clk := s'.clk }))

/-- R31, R40, R44, R45, R55, R59, R75, R76, R89, R95, R99, R470, R488: the flags of the power stage set once, each
rise with its housekeeping event; VSUP's return to its range clears only EXT_NOW; OVERLOAD stays set when the limit
has ended; a rail in hiccup counts and carries no current until it restarts. IGN's change raises its task or, in
Sleep, wakes the module; SAFE_IN zeroes the share and its mask, leaves SAFE_PEND for the next start in Backup, wakes
the module in Sleep, and elsewhere leads to Lockdown with every channel at its safe levels; SVC_PRESENT ends Service
or wakes; and NV_PROT's release raises its task. -/
def Obligations.PowerFlagsAndPins : Prop :=
  (∀ (s : State),
     (∀ mv : Half, mainOn s = true → s.pow.vsup = true → 32000 < mv.toNat →
       ∃ s', exec (.vsupOvervoltage mv) s = .next s' ∧ s'.pow = { s.pow with ov := true, vsupMv := mv } ∧
         (s.pow.ov = true → s'.drill = s.drill) ∧ (s.pow.ov = false → Housekeeping .vsup 0 s s') ∧
         s' = { s with pow := s'.pow, drill := s'.drill, clk := s'.clk }) ∧
     (∀ mv : Half, mainOn s = true → s.pow.vsup = true → 6000 ≤ mv.toNat → mv.toNat < 9000 →
       ∃ s', exec (.vsupLowRange mv) s = .next s' ∧ s'.pow = { s.pow with ext := true, extNow := true, vsupMv := mv } ∧
         (s.pow.ext = true → s'.drill = s.drill) ∧ (s.pow.ext = false → Housekeeping .vsup 1 s s') ∧
         s' = { s with pow := s'.pow, drill := s'.drill, clk := s'.clk }) ∧
     (∀ mv : Half, s.pow.vsup = true → 9000 ≤ mv.toNat →
       exec (.vsupReturnToRange mv) s = .next { s with pow := { s.pow with extNow := false, vsupMv := mv } }) ∧
     (∀ tj : Byte, mainOn s = true → 184 ≤ tj.toNat →
       ∃ s', exec (.thermalWarn tj) s = .next s' ∧ s'.pow = { s.pow with warn := true, tj := tj } ∧
         (s.pow.warn = true → s'.drill = s.drill) ∧ (s.pow.warn = false → Housekeeping .therm 0 s s') ∧
         s' = { s with pow := s'.pow, drill := s'.drill, clk := s'.clk }) ∧
     (∀ (j : Fin 8) (load : RailLoad), mainOn s = true → (rail s j).en = true → (rail s j).hiccupAct = false →
       ∃ s', exec (.railOverload j load) s = .next s' ∧
         rail s' j = { rail s j with overload := (rail s j).overload || load.inLimit, limit := load.inLimit, current := load.ma } ∧
         (∀ k, k ≠ j → rail s' k = rail s k) ∧
         ((rail s j).overload = true ∨ load.inLimit = false → s'.drill = s.drill) ∧
         ((rail s j).overload = false → load.inLimit = true → Housekeeping .rail j.val s s') ∧
         s' = { s with pow := { s.pow with rails := s'.pow.rails }, drill := s'.drill, clk := s'.clk }) ∧
     (∀ j : Fin 8, (rail s j).en = true → (rail s j).hiccupAct = false →
       ∃ s', exec (.railHiccup j) s = .next s' ∧ rail s' j = { rail s j with
           limit := false, hiccupAct := true, hiccups := satInc (rail s j).hiccups, current := 0 } ∧
         (∀ k, k ≠ j → rail s' k = rail s k) ∧ s' = { s with pow := { s.pow with rails := s'.pow.rails } }) ∧
     (∀ j : Fin 8,
       ∃ s', exec (.railRestart j) s = .next s' ∧ rail s' j = { rail s j with hiccupAct := false } ∧
         (∀ k, k ≠ j → rail s' k = rail s k) ∧ s' = { s with pow := { s.pow with rails := s'.pow.rails } })) ∧
  (∀ (s : State),
     (∀ v : Bool, s.pins.ign ≠ v →
       ∃ s', exec (.ignChange v) s = .next s' ∧ s'.pins = { s.pins with ign := v } ∧
         (mainOn s = true → Housekeeping .ign (bit v) s s') ∧
         (s.sys.mode = Mode.sleep → v = true → s'.sys.wake.getLsbD 0 = true ∧ s'.sys.waking = true ∧ s'.drill = s.drill) ∧
         s' = { s with pins := s'.pins, sys := s'.sys, drill := s'.drill, clk := s'.clk }) ∧
     (s.pins.safeIn = false →
       ∃ s', exec (.safeInAssert true) s = .next s' ∧ s'.pins = { s.pins with safeIn := true } ∧ s'.bkp.share = 0 ∧
         s'.bkp.mask = 0 ∧ s'.bkp.tamp.safe = true ∧ s'.bkp.tamp.intrusion = s.bkp.tamp.intrusion ∧
         s'.bkp.tamp.witness = s.bkp.tamp.witness ∧ s'.fuse = s.fuse ∧
         (s.sys.mode = Mode.backup → s'.bkp.tamp.safePend = true ∧ s'.sys = s.sys) ∧
         (s.sys.mode = Mode.sleep → s.sys.romPending = false →
           s'.bkp.tamp.safePend = true ∧ s'.sys.wake.getLsbD 4 = true ∧ s'.sys.waking = true) ∧
         (mainOn s = true → s.sys.romPending = false →
           s'.sys.mode = Mode.lockdown ∧ s'.bkp.tamp.safePend = false ∧ (s.sys.lock = 0 → s'.sys.lock = 2) ∧
           (s.sys.mode ≠ Mode.lockdown → s'.sys.prev = s.sys.mode ∧ s'.drill.descs = [] ∧
             ∀ n, (chan s' n).drive = if s.pow.vsup = true ∧ s.pow.thermalOff = false ∧ s.seed.applied = true then .safe else .hiZ))) ∧
     (s.pins.safeIn = true →
       exec (.safeInAssert false) s = .next { s with pins := { s.pins with safeIn := false } }) ∧
     (s.pins.svcPresentHigh = false → s.sys.mode = Mode.service →
       ∃ s', exec (.svcPresentChange true) s = .next s' ∧ s'.pins = { s.pins with svcPresentHigh := true } ∧
         s'.sys.mode = s.sys.serviceFrom ∧ s'.hld.scope = 0) ∧
     (s.pins.svcPresentHigh = true → s.sys.mode = Mode.sleep →
       ∃ s', exec (.svcPresentChange false) s = .next s' ∧ s'.pins = { s.pins with svcPresentHigh := false } ∧
         s'.sys.wake.getLsbD 3 = true ∧ s'.sys.waking = true ∧ s' = { s with pins := s'.pins, sys := s'.sys }) ∧
     (s.pins.nvProt = true → mainOn s = true → s.chs.retirePending = false → s.chs.toFold = [] →
       ∃ s', exec (.nvProtDeassert false) s = .next s' ∧ s'.pins = { s.pins with nvProt := false } ∧
         Housekeeping .ledger 0 s s' ∧ s' = { s with pins := s'.pins, drill := s'.drill, clk := s'.clk }))

/-- R60, R63, R64, R79, R80: the source follows main power and BATT_AON; VBK below 2.4 V sets VBK_LOW; a decay zeroes
the share and its mask and holds the logic, and its recovery is a backup-domain reset with its cause, as are the
domain's POR, after a decay or a glitch, and 0x5A and then 0xA5 at BKP.RESET within 16 D8 cycles in Service; any other
requester's byte is refused silently. -/
def Obligations.BackupSupply : Prop :=
  ∀ (s : State),
    (∀ (src : Fin 3) (batt vcap vbk : Half),
      src.val = (if s.sys.mode ≠ Mode.backup then 0 else if 4000 < batt.toNat then 1 else 2) →
      ∃ s', exec (.supplySwitchover src batt vcap vbk) s = .next s' ∧ s'.bkp.src.toNat = src.val ∧ s'.bkp.battMv = batt ∧
        s'.bkp.vcapMv = vcap ∧ s'.bkp.vbkLow = (s.bkp.vbkLow || decide (vbk.toNat < 2400)) ∧
        s'.bkp.share = (if vbk.toNat < 2000 then 0 else s.bkp.share) ∧
        s'.bkp.mask = (if vbk.toNat < 2000 then 0 else s.bkp.mask) ∧
        s'.bkp.held = (s.bkp.held || decide (vbk.toNat < 2000)) ∧ s'.bkp.tamp = s.bkp.tamp ∧ s'.bkp.cal = s.bkp.cal ∧
        s'.pow = { s.pow with batt := decide (4000 < batt.toNat) } ∧ s' = { s with bkp := s'.bkp, pow := s'.pow }) ∧
    (∀ vbk : Half, vbk.toNat < 2400 →
      exec (.vbkLow vbk) s = .next { s with bkp := { s.bkp with vbkLow := true } }) ∧
    (s.sys.mode = Mode.backup →
      exec .powerDecay s = .next { s with bkp := { s.bkp with share := 0, mask := 0, held := true } }) ∧
    (s.bkp.held = true → ∃ s', exec .decayRecovery s = .next s' ∧ BackupReset 2 s s') ∧
    (∃ s', exec .backupPor s = .next s' ∧ BackupReset 1 s s') ∧
    (∀ (r : Req) (key : Byte), passesGuard s r 0x55000008 = true →
      (isEncl s r = true → debugPort r = false →
        (s.bkp.armed = none ∨ (∃ t, s.bkp.armed = some t ∧ 83 < s.now - t) →
          exec (.bkpResetWrite r key) s =
            .next { s with bkp := { s.bkp with armed := if key = 0x5A then some s.now else none } }) ∧
        (∀ t, s.bkp.armed = some t → s.now - t ≤ 83 →
          (key = 0xA5 → s.sys.mode = Mode.service →
            ∃ s', exec (.bkpResetWrite r key) s = .next s' ∧ BackupReset 3 s s' ∧ s'.sys.mode = s.sys.serviceFrom) ∧
          (key ≠ 0xA5 ∨ s.sys.mode ≠ Mode.service →
            exec (.bkpResetWrite r key) s = .next { s with bkp := { s.bkp with armed := none } }))) ∧
      (isEncl s r = false → RefusedSilently (.bkpResetWrite r key) r s))

/-- R65, R66, R67, R68, R70, R71, R72, R80, R100, R252: a second passes, unless the domain is held, with the cavity's
temperature at its end (log entry 99); a read of CAL.SEC_LO or DRILL.TIME_LO latches the reader's own shadow set and
no other; an APPLY waits for the next D0 edge, at which SEC takes SET and VALID becomes 1, and is ignored in Limp and
Lockdown while the time is valid. A write of an alarm by the Enclosure takes its fields and clears FIRED and with it
the firing that holds WAKE_OUT; an enabled alarm that is due fires once with the actions it has, and none while the
time is not valid; two seconds of Backup and the end of the wake pulse release WAKE_OUT. -/
def Obligations.CalendarAndAlarms : Prop :=
  (∀ (s : State),
     (∃ s', exec .calSecond s = .next s' ∧ s'.bkp.tamp = { s.bkp.tamp with temp := Config.cavity s.now } ∧
       s'.bkp.cal = (if s.bkp.held = true then s.bkp.cal else { s.bkp.cal with sec := s.bkp.cal.sec + 1, subsec := 0 }) ∧
       s' = { s with bkp := { s.bkp with tamp := s'.bkp.tamp, cal := s'.bkp.cal } }) ∧
     (∀ r : Req, guardLets s r permR 0x55000010 4 = true → isEncl s r = true ∨ isCommons s r = true →
       ∃ s', exec (.calSecLoRead r) s = .next s' ∧
         (let x := shadowShows s' r
          x.secHi = s.bkp.cal.sec.extractLsb' 32 16 ∧ x.subsec = s.bkp.cal.subsec ∧
          TimeOfDay s.bkp.cal.sec.toNat x.fields0 x.fields1 ∧ x.timeHi = (shadowShows s r).timeHi) ∧
         (∀ q : Req, shadowKey s q ≠ shadowKey s r → shadowShows s' q = shadowShows s q) ∧
         s' = { s with bkp := { s.bkp with shadows := s'.bkp.shadows } }) ∧
     (∀ r : Req, guardLets s r permR 0x50000010 4 = true → isEncl s r = true ∨ isCommons s r = true →
       ∃ s', exec (.timeLoRead r) s = .next s' ∧
         shadowShows s' r = { shadowShows s r with timeHi := s.drill.time.extractLsb' 32 32 } ∧
         (∀ q : Req, shadowKey s q ≠ shadowKey s r → shadowShows s' q = shadowShows s q) ∧
         s' = { s with bkp := { s.bkp with shadows := s'.bkp.shadows } }) ∧
     (∀ r : Req, passesGuard s r 0x5500002C = true → isEncl s r = true →
       (s.bkp.cal.valid = false ∨ (s.sys.mode ≠ Mode.limp ∧ s.sys.mode ≠ Mode.lockdown) →
         exec (.calApply r) s = .next { s with bkp := { s.bkp with cal := { s.bkp.cal with applyPending := true } } }) ∧
       (s.bkp.cal.valid = true → s.sys.mode = Mode.limp ∨ s.sys.mode = Mode.lockdown → exec (.calApply r) s = .next s)) ∧
     (s.bkp.cal.applyPending = true → s.bkp.held = false →
       ∃ s', exec .calApplyEdge s = .next s' ∧ s'.bkp.cal.sec = s.bkp.cal.set ∧ s'.bkp.cal.subsec = 0 ∧
         s'.bkp.cal.valid = true ∧ s'.bkp.cal.sets.toNat = min 255 (s.bkp.cal.sets.toNat + 1) ∧
         s'.bkp.cal.applyPending = false ∧
         s'.bkp.cal.steppedBack = (s.bkp.cal.steppedBack || decide (s.bkp.cal.set.toNat < s.bkp.cal.sec.toNat)) ∧
         s'.bkp.cal.trim = s.bkp.cal.trim ∧ s' = { s with bkp := { s.bkp with cal := s'.bkp.cal } })) ∧
  (∀ (s : State) (a : Fin 4),
     (∀ (r : Req) (v : Word),
       (passesGuard s r (BitVec.ofNat 32 (0x55000040 + 8 * a.val)) = true → isEncl s r = true →
         ∃ s', exec (.alarmWrite r a false v) s = .next s' ∧
           (alarm s' a).sec.toNat = (alarm s a).sec.toNat / 2 ^ 32 * 2 ^ 32 + v.toNat ∧
           alarm s' a = { alarm s a with sec := (alarm s' a).sec, fired := false, drives := false } ∧
           (∀ k, k ≠ a → alarm s' k = alarm s k) ∧ s' = { s with bkp := { s.bkp with alarms := s'.bkp.alarms } }) ∧
       (passesGuard s r (BitVec.ofNat 32 (0x55000044 + 8 * a.val)) = true → isEncl s r = true →
         ∃ s', exec (.alarmWrite r a true v) s = .next s' ∧ (alarm s' a).en = v.getLsbD 31 ∧
           (alarm s' a).task = v.getLsbD 30 ∧ (alarm s' a).wake = v.getLsbD 29 ∧ (alarm s' a).wakeout = v.getLsbD 28 ∧
           (alarm s' a).sec.toNat = v.toNat % 65536 * 2 ^ 32 + (alarm s a).sec.toNat % 2 ^ 32 ∧
           (alarm s' a).fired = false ∧ (alarm s' a).drives = false ∧
           (∀ k, k ≠ a → alarm s' k = alarm s k) ∧ s' = { s with bkp := { s.bkp with alarms := s'.bkp.alarms } })) ∧
     ((alarm s a).en = true → (alarm s a).fired = false → s.bkp.held = false → s.bkp.cal.valid = true →
       (alarm s a).sec.toNat ≤ s.bkp.cal.sec.toNat →
       ∃ s', exec (.alarmFire a) s = .next s' ∧ (alarm s' a).fired = true ∧
         (s.sys.mode ≠ Mode.lockdown → (alarm s' a).drives = (alarm s a).wakeout) ∧
         ((alarm s a).task = true → mainOn s = true → s.sys.mode ≠ Mode.store → Housekeeping .alarm a.val s s') ∧
         ((alarm s a).task = false ∨ mainOn s = false → s'.drill = s.drill) ∧
         (s.sys.mode = Mode.sleep → (alarm s a).wake = true → s'.sys.wake.getLsbD 1 = true ∧ s'.sys.waking = true) ∧
         ((alarm s a).wake = false → s'.sys = s.sys) ∧ (∀ k, k ≠ a → alarm s' k = alarm s k) ∧ s'.bkp.cal = s.bkp.cal ∧
         s' = { s with bkp := s'.bkp, drill := s'.drill, clk := s'.clk, sys := s'.sys }) ∧
     (s.bkp.cal.valid = false ∨ (alarm s a).fired = true → exec (.alarmFire a) s = .next s) ∧
     (s.sys.mode = Mode.backup →
       ∃ s', exec (.wakeoutRelease a) s = .next s' ∧ alarm s' a = { alarm s a with drives := false } ∧
         (∀ k, k ≠ a → alarm s' k = alarm s k) ∧ s' = { s with bkp := { s.bkp with alarms := s'.bkp.alarms } }) ∧
     exec .wakePulseEnd s = .next { s with sys := { s.sys with pulse := false } })

/-- R73, R74, R77, R78, R95, R106, R108: an intrusion sets INTRUSION, its sensors' bits and the witness, captures
TAMP.TIME, zeroes the share and its mask, has the four copies of the intrusion fuse blown in turn where main power is
present, and leads to Lockdown reason 1; FIRST takes the lowest code once. A blow that may be made starts unless one
runs, and its verified end sets the one bit and no other; then the next bit that waits is blown. -/
def Obligations.TamperAndFuses : Prop :=
  ∀ (s : State),
    (∀ x : BitVec 6, x ≠ 0 →
      ∃ s', exec (.intrusionTrip x) s = .next s' ∧ s'.bkp.tamp.intrusion = true ∧ s'.bkp.tamp.sensors = s.bkp.tamp.sensors ||| x ∧
        s'.bkp.tamp.witness = true ∧ s'.bkp.tamp.time = s.bkp.cal.sec ∧ s'.bkp.share = 0 ∧ s'.bkp.mask = 0 ∧
        (s.bkp.tamp.first ≠ 0 → s'.bkp.tamp.first = s.bkp.tamp.first) ∧
        (s.bkp.tamp.first = 0 → ∃ k, x.getLsbD k = true ∧ (∀ j, j < k → x.getLsbD j = false) ∧
          s'.bkp.tamp.first.toNat = k + 1) ∧
        (s.sys.mode ≠ Mode.backup → s'.fuse = { s.fuse with blowing := s'.fuse.blowing, queue := s'.fuse.queue } ∧
          s'.fuse.blowing.toList ++ s'.fuse.queue = s.fuse.blowing.toList ++ s.fuse.queue ++ [1094, 1095, 1096, 1097]) ∧
        (s.sys.mode = Mode.backup → s'.fuse = s.fuse ∧ s'.sys = s.sys) ∧
        (mainOn s = true → s.sys.romPending = false → s'.sys.mode = Mode.lockdown ∧ s'.sys.lock = 1 ∧
          s'.grn.roots = [] ∧ s'.grn.kek = 0)) ∧
    (∀ (r : Req) (n : BitVec 12), passesGuard s r 0x5F000200 = true → mayBlow s r n.toNat = true →
      (s.fuse.blowing = none → exec (.fuseBlow r n) s = .next { s with fuse := { s.fuse with blowing := some n } }) ∧
      (s.fuse.blowing ≠ none → exec (.fuseBlow r n) s = .next s)) ∧
    (∀ (r : Req) (n : BitVec 12), passesGuard s r 0x5F000200 = true → mayBlow s r n.toNat = false →
      RefusedSilently (.fuseBlow r n) r s) ∧
    (∀ n : BitVec 12, s.fuse.blowing = some n →
      (∃ s', exec (.fuseBlowDone true) s = .next s' ∧ s'.fuse.done = true ∧ s'.fuse.fail = false ∧
        s'.fuse.blowing = s.fuse.queue.head? ∧ s'.fuse.queue = s.fuse.queue.tail ∧
        (∀ k, s'.fuse.array.getLsbD k = (decide (k = n.toNat) || s.fuse.array.getLsbD k)) ∧
        (∀ k, s'.fuse.view.getLsbD k = (decide (k = n.toNat) || s.fuse.view.getLsbD k)) ∧ s' = { s with fuse := s'.fuse }) ∧
      ∃ s', exec (.fuseBlowDone false) s = .next s' ∧ s'.fuse.fail = true ∧ s'.fuse.array = s.fuse.array ∧
        s'.fuse.view = s.fuse.view ∧ s' = { s with fuse := s'.fuse })

/-- R86, R87, R88, R89, R90, R91, R92, R95, R98, R105, R488: the Enclosure's request for Sleep begins the drain or,
with a condition missing, sets SLEEP_FAIL; a drained module sleeps with its pins, bays and key slots put away and SRAM
kept; an expired drain sets SLEEP_FAIL; and another requester is refused silently. The wake path ends in Run with the
Enclosure at its wake entry and every enabled channel driven, or, after SAFE_IN or an intrusion, in Lockdown; Service
ends by the Enclosure's request or with its certificate's window, in the mode it came from. -/
def Obligations.SleepWakeAndService : Prop :=
  (∀ (s : State),
     (∀ r : Req, passesGuard s r 0x54000204 = true →
       (isEncl s r = true →
         (s.sys.mode = Mode.run ∧ s.pins.ign = false ∧ s.pins.svcPresentHigh = true ∧ watchBusy s = false →
           exec (.sleepRequest r) s = .next { s with sys := { s.sys with sleep := .draining } }) ∧
         (¬ (s.sys.mode = Mode.run ∧ s.pins.ign = false ∧ s.pins.svcPresentHigh = true ∧ watchBusy s = false) →
           exec (.sleepRequest r) s = .next { s with sys := { s.sys with sleepFail := true } })) ∧
       (isEncl s r = false → RefusedSilently (.sleepRequest r) r s)) ∧
     (s.sys.sleep = .draining → s.sys.mode = Mode.run → drained s = true →
       ∃ s', exec .sleepDrainEnd s = .next s' ∧ s'.sys.mode = Mode.sleep ∧ s'.sys.prev = Mode.run ∧ s'.sys.sleep = .asleep ∧
         s'.sys.wake = s.sys.wake ∧ (∀ j, (rail s' j).en = false) ∧ (∀ b, (bayOut s' b).on = false ∧ (bay s' b).link = 0) ∧
         (∀ k, vget s'.grn.slots k = {}) ∧ s'.grn.roots = [] ∧ s'.drill.descs = [] ∧ s'.mem.sram = s.mem.sram ∧
         s'.mem.flash = s.mem.flash ∧ s'.mem.store = s.mem.store ∧ s'.boot = s.boot ∧ s'.bkp = { s.bkp with shadows := [] } ∧ s'.fuse = s.fuse ∧
         ∀ n, (chan s' n).cfg = (chan s n).cfg ∧ (chan s' n).en = (chan s n).en ∧
           (chan s' n).drive = if s.pow.vsup = false ∨ s.pow.thermalOff = true then .hiZ
             else if (seedFind s 0x13 1 n.val).isSome ∧ (chan s n).en = true ∧ isRetired s n = false then .watch else .sleep) ∧
     (s.sys.sleep = .draining → drained s = false →
       exec .sleepDrainTimeout s = .next { s with sys := { s.sys with sleep := .awake, sleepFail := true } }) ∧
     (s.sys.sleep ≠ .draining → exec .sleepDrainEnd s = .next s ∧ exec .sleepDrainTimeout s = .next s)) ∧
  (∀ (s : State),
     (∀ us : BitVec 12, s.sys.mode = Mode.sleep → s.sys.waking = true → s.sys.wake.getLsbD 4 = false →
       s.sys.wake.getLsbD 5 = false → s.pow.vsup = true → s.pow.thermalOff = false →
       ∃ s', exec (.wakePathComplete us) s = .next s' ∧ s'.sys.mode = Mode.run ∧ s'.sys.prev = Mode.sleep ∧
         s'.sys.sleep = .awake ∧ s'.sys.waking = false ∧ s'.sys.latUs = us ∧ s'.sys.wake = s.sys.wake ∧
         ({ cause := .wake, data := s.sys.wake.toNat } : HkEvent) ∈ s'.drill.hkq ∧ s'.mem.sram = s.mem.sram ∧
         (homeEncl s 0 = true → (thr s' 0).run = .running ∧ (thr s' 0).pc = vget s.boot.entry 3 &&& 0xFFFFFFFC) ∧
         (s.sys.limpSet = 0 → ∀ n, isRetired s n = false → (chan s' n).drive = if (chan s n).en then .func else .hiZ)) ∧
     (∀ us : BitVec 12, s.sys.mode = Mode.sleep → s.sys.waking = true →
       s.sys.wake.getLsbD 4 = true ∨ s.sys.wake.getLsbD 5 = true →
       ∃ s', exec (.wakePathComplete us) s = .next s' ∧ s'.sys.mode = Mode.lockdown ∧ s'.sys.prev = Mode.sleep ∧
         (s.sys.wake.getLsbD 5 = true → s'.sys.lock = 1) ∧ s'.bkp.tamp.safePend = false) ∧
     (s.sys.mode ≠ Mode.sleep → ∀ us : BitVec 12, exec (.wakePathComplete us) s = .next s) ∧
     (∀ r : Req, passesGuard s r 0x54000204 = true → isEncl s r = true →
       (s.sys.mode = Mode.service →
         ∃ s', exec (.serviceExitRequest r) s = .next s' ∧ s'.sys.mode = s.sys.serviceFrom ∧ s'.hld.scope = 0 ∧
           (∀ t, (thr s' t).debug = false) ∧ s'.mem.sram = s.mem.sram ∧ s'.drill = s.drill ∧ s'.chs = s.chs) ∧
       (s.sys.mode ≠ Mode.service → exec (.serviceExitRequest r) s = .next s)) ∧
     (s.sys.mode = Mode.service → s.bkp.cal.valid = false ∨ s.hld.endSec.toNat ≤ s.bkp.cal.sec.toNat →
       ∃ s', exec .serviceWindowEnd s = .next s' ∧ s'.sys.mode = s.sys.serviceFrom ∧ s'.hld.scope = 0) ∧
     (s.bkp.cal.valid = true → s.bkp.cal.sec.toNat < s.hld.endSec.toNat → exec .serviceWindowEnd s = .next s))

/-- R58, R82, R102, R103, R104, R105, R123: the Enclosure's cold reset is a cold start with cause 3; its warm reset
leads to Boot with cause 4 and SRAM zero, rails and bay outputs kept, and measures a latched Enclosure again with its
threads held, or runs the ROM anew; in Lockdown, in Limp reason 2, and in Limp with no new image activated a warm
request changes nothing; another requester is refused silently. -/
def Obligations.ResetRequests : Prop :=
  ∀ (s : State) (r : Req), passesGuard s r 0x5400020C = true →
    (mayReset s r = true →
      (∃ s', exec (.coldResetRequest r) s = .next s' ∧ ColdStart 3 s.sys.mode s s') ∧
      (s.sys.mode ≠ Mode.lockdown → limpReason s 2 = false → s.sys.mode ≠ Mode.limp ∨ s.seed.activated = true →
        ∃ s', exec (.warmResetRequest r) s = .next s' ∧ s'.sys.mode = Mode.boot ∧ s'.sys.cause = 4 ∧
          (s.sys.mode ≠ Mode.boot → s'.sys.prev = s.sys.mode) ∧ s'.sys.limpSet = 0 ∧ s'.sys.wake = 0 ∧ s'.mem.sram = [] ∧
          s'.mem.flash = s.mem.flash ∧ s'.mem.store = s.mem.store ∧ s'.fuse = s.fuse ∧
          s'.bkp = { s.bkp with shadows := [] } ∧ (∀ j, rail s' j = { rail s j with overload := false }) ∧ s'.pow.bayOut = s.pow.bayOut ∧
          (∀ n, (chan s' n).drive = .hiZ ∧ (chan s' n).en = false) ∧ s'.seed.applied = false ∧
          (∀ k, vget s'.grn.slots k = {}) ∧ s'.grn.roots = s.grn.roots ∧ s'.pow.ov = false ∧ s'.pow.ext = false ∧
          s'.pow.warn = false ∧
          (s.boot.measValid = true → s'.sys.romPending = false ∧ s'.boot.remBusy = true ∧ s'.boot.trigger = 1 ∧
            s'.boot.meas = s.boot.meas ∧ s'.boot.mlen = s.boot.mlen ∧ s'.boot.entry = s.boot.entry ∧
            ∀ t, (thr s' t).run = .held) ∧
          (s.boot.measValid = false → s'.sys.romPending = true ∧ s'.boot.romLocked = false)) ∧
      (s.sys.mode = Mode.lockdown ∨ limpReason s 2 = true ∨ (s.sys.mode = Mode.limp ∧ s.seed.activated = false) →
        exec (.warmResetRequest r) s = .next s)) ∧
    (mayReset s r = false → RefusedSilently (.coldResetRequest r) r s ∧ RefusedSilently (.warmResetRequest r) r s)

/-- R106, R112, R114, R115: after a cold reset the ROM samples the fuses; lifecycle Store leads to Store with the ROM
Headland; a Fielded module without a reason for Lockdown latches its preferred slot when it passes, or ends in Limp
reason 4 when both fail; an intrusion leads to Lockdown reason 1; the ROM's handover locks it and starts C0.t0 at
BOOT.ENTRY[0]. -/
def Obligations.RomAndHandover : Prop :=
  ∀ (s : State),
    (∀ x : RomSense, s.sys.romPending = true → mainOn s = true → x.fusesAgree = true → s.fuse.uncertain = [] →
      s.bkp.tamp.witness = false →
      let u := sampledFuses s
      let first := bootPref s x.errRec0 x.errRec1
      let err : Bool → Bool := fun b => if b then x.errSlotB else x.errSlotA
      (lifecycle s.fuse.array = .store →
        ∃ s', exec (.romSequence x) s = .next s' ∧ s'.sys.mode = Mode.store ∧ s'.sys.romPending = false ∧
          s'.boot.headland = .rom ∧ s'.bkp.tamp.safePend = false ∧ s'.fuse.view = s.fuse.array ∧ s'.boot.romLocked = s.boot.romLocked) ∧
      (lifecycle s.fuse.array = .fielded → intrusionFuse s.fuse.array = false → s.bkp.tamp.intrusion = false →
        s.pins.safeIn = false → s.bkp.tamp.safePend = false → s.sys.cause ≠ 4 →
        (enclCode u first (err first) = 0 →
          let h := flashRead s (enclSlotBase first) 0x100
          ∃ s', exec (.romSequence x) s = .next s' ∧ s'.sys.mode = Mode.boot ∧ s'.sys.romPending = false ∧
            s'.boot.enclSlot = first ∧ s'.boot.fallback = false ∧ s'.boot.svn.toNat = (h.getD 8 0).toNat ∧
            s'.boot.mlen = BitVec.ofNat 20 (numAt h 0x10 4) ∧
            s'.boot.meas = ofBytes 256 (sha256 (flashRead s (enclSlotBase first) 0xC0 ++
              flashRead s (enclSlotBase first + 0x100) (numAt h 0x10 4))) ∧
            (∀ e : Fin 4, vget s'.boot.entry e =
              BitVec.ofNat 32 (enclSlotBase first + 0x100 + numAt h (0x14 + 4 * e.val) 4)) ∧
            s'.guard.region = fixedRegions ∧ s'.fuse.view = s.fuse.array) ∧
        (enclCode u false (err false) ≠ 0 → enclCode u true (err true) ≠ 0 →
          ∃ s', exec (.romSequence x) s = .next s' ∧ s'.sys.mode = Mode.limp ∧ limpReason s' 4 = true ∧
            s'.boot.headland = .rom ∧ s'.boot.failA = BitVec.ofNat 4 (enclCode u false (err false)) ∧
            s'.boot.failB = BitVec.ofNat 4 (enclCode u true (err true)) ∧ s'.boot.meas = s.boot.meas ∧
            ∀ n, (chan s' n).drive = .hiZ)) ∧
      (lifecycle s.fuse.array ≠ .store → s.bkp.tamp.intrusion = true →
        ∃ s', exec (.romSequence x) s = .next s' ∧ s'.sys.mode = Mode.lockdown ∧ s'.sys.lock = 1 ∧ s'.sys.romPending = false)) ∧
    (s.sys.romPending = false → ∀ x : RomSense, exec (.romSequence x) s = .next s) ∧
    (∀ key : Byte, passesGuard s (.thread 0) 0x54000304 = true → s.boot.romLocked = false → (pcOf s 0).toNat ≤ 0x8000 →
      s.sys.romPending = false → s.boot.mlen ≠ 0 →
      (key = 0x3C → homeEncl s 0 = true →
        ∃ s', exec (.bootHandover (.thread 0) key) s = .next s' ∧ s'.boot.romLocked = true ∧ s'.boot.measValid = true ∧
          s'.boot.headland = .resident ∧ (thr s' 0).run = .running ∧ (thr s' 0).pc = vget s.boot.entry 0 &&& 0xFFFFFFFC ∧
          s'.boot.meas = s.boot.meas ∧ s'.wld.started = true ∧ s'.wld.period = 250 ∧ s'.mem = s.mem ∧ s'.sys = s.sys) ∧
      (key ≠ 0x3C → exec (.bootHandover (.thread 0) key) s = .next s)) ∧
    (∀ (r : Req) (key : Byte), passesGuard s r 0x54000304 = true → romWrites s r = false →
      RefusedSilently (.bootHandover r key) r s)

/-- R93, R116, R120, R136, R141: after handover the image of the preferred seed slot that passes, else the other's, is
applied in Boot; with none the module runs Limp reason 1; in Lockdown only the MODES record is. Then the Commons that
matches the IMAGE record starts, or COMMONS says why not, and the module is in Run. -/
def Obligations.SeedAndCommons : Prop :=
  ∀ (s : State),
    (∀ x : SeedSense, s.boot.romLocked = true → s.boot.remBusy = false → s.wld.restart = false → s.seed.applied = false →
      let c := chooseSeed x s
      (c.1 = true → s.sys.mode = Mode.boot →
        ∃ s', exec (.seedApply x) s = .next s' ∧ s'.seed.applied = true ∧ s'.seed.slot = c.2.1 ∧ s'.sys.mode = Mode.boot ∧
          s'.seed.digest = seedDigest s (seedSlotBase c.2.1) ∧ s'.seed.recs = seedEntries s (seedSlotBase c.2.1) ∧
          s'.seed.lockdownOnly = false ∧ s'.guard.lock = true ∧ s'.boot.liveUs = x.liveUs ∧
          s'.boot.commons = (if ((seedEntries s (seedSlotBase c.2.1)).find? fun e => decide (e.type = 0x16)).isSome then 3 else 0) ∧
          s'.mem.flash = s.mem.flash ∧ s'.mem.sram = s.mem.sram ∧
          (s.pow.vsup = true → s.pow.thermalOff = false → s.sys.limpSet = 0 → ∀ n, isRetired s' n = false →
            (chan s' n).drive = if (chan s' n).en then .func else .hiZ)) ∧
      (c.1 = true → s.sys.mode = Mode.lockdown →
        ∃ s', exec (.seedApply x) s = .next s' ∧ s'.seed.applied = true ∧ s'.seed.lockdownOnly = true ∧ s'.sys = s.sys ∧
          (∀ e ∈ s'.seed.recs, e.type = 0x12) ∧ (∀ n, (chan s' n).en = (chan s n).en) ∧ s'.cores = s.cores ∧
          s'.drill = s.drill ∧ s'.mem = s.mem) ∧
      (c.1 = false → s.sys.mode = Mode.boot →
        ∃ s', exec (.seedApply x) s = .next s' ∧ s'.sys.mode = Mode.limp ∧ limpReason s' 1 = true ∧
          s'.seed.applied = false ∧ ∀ n, (chan s' n).drive = .hiZ)) ∧
    (∀ errA errB : Bool, s.sys.mode = Mode.boot → s.seed.applied = true → enclRuns s = true →
      retiredLimit s = 0 ∨ retiredCount s ≤ retiredLimit s →
      (seedOne s 0x16 = none → s.boot.commons ≠ 1 →
        ∃ s', exec (.commonsBind errA errB) s = .next s' ∧ s'.sys.mode = Mode.run ∧ s'.sys.prev = Mode.boot ∧
          s'.boot = s.boot ∧ s'.cores = s.cores) ∧
      ∀ e, seedOne s 0x16 = some e →
        let first := decide (e.num 0 1 = 1)
        let err : Bool → Bool := fun b => if b then errB else errA
        (commonsMatches s e first (err first) = false → commonsMatches s e (!first) (err (!first)) = false →
          ∃ s', exec (.commonsBind errA errB) s = .next s' ∧ s'.sys.mode = Mode.run ∧ s'.boot.commons = 2 ∧ s'.cores = s.cores) ∧
        (commonsMatches s e first (err first) = true →
          ∃ s', exec (.commonsBind errA errB) s = .next s' ∧ s'.sys.mode = Mode.run ∧ s'.boot.commons = 1 ∧
            s'.boot.commonsSlot = first ∧
            ∀ t, (fins 16).find? (fun t => !homeEncl s t && modeLets s t && decide ((thr s t).run = .idle) &&
                (thr s t).task.isNone) = some t →
              (thr s' t).run = .running ∧ (thr s' t).pc =
                BitVec.ofNat 32 (commonsBase first + 0x40 + numAt (flashRead s (commonsBase first) 0x40) 0x0C 4)))

/-! ### Clocks and channels (07 to 11) -/

/-- R148, R150, R151, R152, R159, R229: a frequency that a furrow may take waits until its channels are idle, replaces
a value that waits, starts a furrow that is off, and is withdrawn by the frequency in force; ten milliseconds without
an idle cycle abandon it with FAIL; the relock ends with LOCKED, and a value written during it stays pending; a count
of clock edges begins and ends, at 0 for a stopped domain; what waited in CHWR[f] goes on after the relock; and the
vault oscillator hops among its 65 steps. -/
def Obligations.ClockRules : Prop :=
  ∀ (s : State) (f : Furrow),
    let x := furrow s f
    let others : State → Prop := fun s' => (∀ g, g ≠ f → furrow s' g = furrow s g) ∧
      s' = { s with clk := { s.clk with furrow := s'.clk.furrow } }
    (∀ (r : Req) (hz : BitVec 27), passesGuard s r (furrowAddr f) = true → isEncl s r = true → furrowLocked s f = false →
      (freqOk s f hz.toNat = true →
        (x.freq = 0 → ∃ s', exec (.furrowFreqWrite r f hz) s = .next s' ∧ others s' ∧
          furrow s' f = { x with freq := hz, next := hz, pending := true, relocking := true, writtenAt := s.now }) ∧
        (x.freq ≠ 0 → hz ≠ x.freq → ∃ s', exec (.furrowFreqWrite r f hz) s = .next s' ∧ others s' ∧
          furrow s' f = { x with pending := true, next := hz, writtenAt := s.now }) ∧
        (x.freq ≠ 0 → hz = x.freq → x.pending = true → x.relocking = false →
          ∃ s', exec (.furrowFreqWrite r f hz) s = .next s' ∧ others s' ∧
            furrow s' f = { x with pending := false, next := x.freq }) ∧
        (x.freq ≠ 0 → hz = x.freq → x.pending = false ∨ x.relocking = true →
          exec (.furrowFreqWrite r f hz) s = .next s)) ∧
      (hz.toNat < 1000000 ∨ 100000000 < hz.toNat → exec (.furrowFreqWrite r f hz) s = .next s)) ∧
    (x.pending = true → x.relocking = false → mainOn s = true →
      (∀ k : Fin 4, chanIdle (chan s (furrowChan f k)) = true) →
      ∃ s', exec (.furrowRelockStart f) s = .next s' ∧ others s' ∧
        furrow s' f = { x with freq := x.next, relocking := true, locked := false }) ∧
    ((∃ k : Fin 4, chanIdle (chan s (furrowChan f k)) = false) → exec (.furrowRelockStart f) s = .next s) ∧
    (x.relocking = true → mainOn s = true →
      ∃ s', exec (.furrowLocked f) s = .next s' ∧ (chwrOf s f = [] → others s') ∧
        (∀ g, g ≠ f → furrow s' g = furrow s g) ∧ (furrow s' f).locked = true ∧
        (furrow s' f).relocking = false ∧ (furrow s' f).freq = x.freq ∧ (furrow s' f).next = x.next ∧
        (furrow s' f).fail = x.fail ∧ (x.next = x.freq → (furrow s' f).pending = false) ∧
        (x.next ≠ x.freq → (furrow s' f).pending = x.pending)) ∧
    (x.pending = true → x.relocking = false → 2500000 ≤ s.now - x.writtenAt →
      ∃ s', exec (.furrowWriteAbandon f) s = .next s' ∧ others s' ∧
        furrow s' f = { x with pending := false, fail := true, next := x.freq }) ∧
    (x.pending = false ∨ s.now - x.writtenAt < 2500000 → exec (.furrowWriteAbandon f) s = .next s) ∧
    (∀ (r : Req) (dom : BitVec 6), passesGuard s r 0x54000508 = true → isEncl s r = true →
      exec (.clockMeasureStart r dom) s = .next { s with clk := { s.clk with measuring := some dom, measDone := false } }) ∧
    (∀ (n : BitVec 24) (d : BitVec 6), s.clk.measuring = some d → mainOn s = true →
      exec (.clockMeasureDone n) s = .next { s with clk := { s.clk with
        measuring := none, measDone := true, measCount := if domainRuns s d = true then n else 0 } }) ∧
    (mainOn s = true → ∃ s', exec .d5Hop s = .next s' ∧ s'.clk.hops.toNat = min 0xFFFF (s.clk.hops.toNat + 1) ∧
      s'.clk.step.toNat < 65 ∧
      s' = { s with draws := s'.draws, clk := { s.clk with hops := s'.clk.hops, step := s'.clk.step } })

/-- R168, R170, R174, R175, R186, R187, R188, R189, R190, R191, R192, R193, R201, R202, R452: an 8N1 character of
majority values begins a frame in the lowest free cell after the last taken, and without a free cell the frame is lost
and counts in its flow's SHED; a character of space is a break, whose frame is in error to its end; a frame that is
over is counted, and a rule that matches arms one reply; a gap, a surge and the hold end or bar a frame; and filtered
levels show in PINS. -/
def Obligations.FrameReception : Prop :=
  ∀ (s : State) (n : Chan),
    let c := chan s n
    (∀ (x : List Samples) (a : Byte) (p : PeakSeen) (k : BitVec 5), asyncLive s n = true → c.cfg.func = 1 → c.rx.cur = none →
      c.async.ovlHold = false → fmtData c.cfg.fmt = 8 → fmtMultidrop c.cfg.fmt = false → fmtParity c.cfg.fmt = 0 →
      singleSample c = false → x.length = 10 → majority (bitSample x 0) = false →
      (majority (bitSample x 9) = true → aNoise c.async.now = false → nextFreeCell c.rx = some k →
        ∃ s', exec (.characterReceive n x a p) s = .next s' ∧ OnlyChannel n s s' ∧
          (∃ fr, (chan s' n).rx.cur = some fr ∧ fr.cells = [k] ∧ fr.len = 1 ∧ fr.chars = 1) ∧
          vget (chan s' n).rx.cells k.toFin = .filling ∧ (chan s' n).rx.last = k ∧
          ∀ i, i < 8 → (tabGet 0 (chan s' n).rx.data k.toNat).getLsbD i = majority (bitSample x (1 + i))) ∧
      (majority (bitSample x 9) = true → aNoise c.async.now = false → nextFreeCell c.rx = none → c.cfg.dropOldest = false →
        ∃ s', exec (.characterReceive n x a p) s = .next s' ∧ OnlyChannels s s' ∧ (∀ m, m ≠ n → chan s' m = chan s m) ∧
          (chan s' n).drop = true ∧ (chan s' n).cnt.drops = satInc c.cnt.drops ∧
          (tabGet {} s'.drill.shed c.flow.toNat).refused = satInc (tabGet {} s.drill.shed c.flow.toNat).refused) ∧
      ((∀ i, i < 10 → bitSpace false (bitSample x i) = true) → toleratesError s n = true →
        ∃ s', exec (.characterReceive n x a p) s = .next s' ∧ OnlyChannels s s' ∧
          (∃ fr, (chan s' n).rx.cur = some fr ∧ fr.failed = true ∧ fr.cells = [] ∧ fr.chars = 1) ∧
          (chan s' n).async.flags.getLsbD 4 = true ∧ (chan s' n).async.line = false ∧ (chan s' n).async.breakWait = true ∧
          (chan s' n).health.lastErr = 4 ∧ (chan s' n).cnt = c.cnt)) ∧
    (∀ fr, c.rx.cur = some fr → asyncLive s n = true → fr.chars ≠ 0 → fr.failed = false →
      (aDelim c.async.now = 0 →
        (∃ s', exec (.frameComplete n) s = .next s' ∧ OnlyChannel n s s' ∧
          chan s' n = { c with rx := { c.rx with cur := some { fr with declared := true, endedAt := s.now } } }) ∧
        (fr.declared = true → fr.falseStart = false → fr.dropping = false → aCrc c.async.now = 0 →
          ∃ s', exec (.frameConfirm n) s = .next s' ∧ OnlyChannels s s' ∧ (chan s' n).rx.cur = none ∧
            (chan s' n).cnt.frames = satInc c.cnt.frames ∧
            (matchRule c (frameBytes c fr.cells fr.len) = none → (chan s' n).reply = c.reply))) ∧
      (aDelim c.async.now ≠ 0 → fr.declared = true → fr.dropping = false → aCrc c.async.now = 0 →
        ∃ s', exec (.frameComplete n) s = .next s' ∧ OnlyChannels s s' ∧ (chan s' n).rx.cur = none ∧
          (chan s' n).cnt.frames = satInc c.cnt.frames ∧
          (matchRule c (frameBytes c fr.cells fr.len) = none → (chan s' n).reply = c.reply ∧ (chan s' n).seq = c.seq) ∧
          (∀ r, matchRule c (frameBytes c fr.cells fr.len) = some r →
            (c.reply = none → (chan s' n).seq = c.seq + 1 ∧ ∃ y, (chan s' n).reply = some y ∧ y.seq = c.seq + 1 ∧ y.rule = r ∧
              y.computed = (tabGet {} c.rules r.toNat).computed ∧
              y.buf = tabGet 0 c.tpls (tabGet {} c.rules r.toNat).send.toNat) ∧
            (c.reply ≠ none → (chan s' n).reply = c.reply ∧ (chan s' n).cnt.noans = satInc c.cnt.noans))) ∧
      (aDelim c.async.now ≠ 0 → fr.declared = false → toleratesError s n = true →
        ∃ s', exec (.frameGapTimeout n) s = .next s' ∧ OnlyChannels s s' ∧ (chan s' n).rx.cur = none ∧
          (chan s' n).async.flags.getLsbD 2 = true ∧ (chan s' n).health.lastErr = 6 ∧ (chan s' n).cnt = c.cnt) ∧
      (∀ amp : Byte, c.cfg.func = 2 → ownDriver c = false → 8 ≤ c.async.ref.toNat →
        c.async.ref.toNat * (100 + c.cfg.overlapPct.toNat) < amp.toNat * 100 → toleratesError s n = true →
        ∃ s', exec (.overlap n amp false) s = .next s' ∧ OnlyChannels s s' ∧ (chan s' n).rx.cur = none ∧
          (chan s' n).async.flags.getLsbD 6 = true ∧ (chan s' n).async.ovlHold = true ∧ (chan s' n).health.lastErr = 7)) ∧
    (asyncLive s n = true →
      ∃ s', exec (.ovlHoldEnd n) s = .next s' ∧ OnlyChannel n s s' ∧
        chan s' n = { c with async := { c.async with ovlHold := false, line := true, breakWait := false
                                                     now := (chan s' n).async.now }
                             cs := { c.cs with now := (chan s' n).cs.now } } ∧
        (c.rx.cur ≠ none → (chan s' n).async.now = c.async.now ∧ (chan s' n).cs.now = c.cs.now)) ∧
    (∀ v : BitVec 4, isRetired s n = false → clockRuns s n = true → paired s n = false →
      let line := if c.cfg.func = 1 then v.getLsbD 1 else if c.cfg.func = 2 then v.getLsbD 0 else c.async.line
      ∃ s', exec (.pinChange n v) s = .next s' ∧ (chan s' n).pins = { c.pins with inp := v } ∧ (chan s' n).async.line = line ∧
        OnlyChannels s s' ∧
        ((v &&& ~~~c.pins.inp &&& c.pins.rise) ||| (c.pins.inp &&& ~~~v &&& c.pins.fall) = 0 →
          OnlyChannel n s s' ∧ chan s' n = { c with
            pins := { c.pins with inp := v }, async := { c.async with line := line, breakWait := c.async.breakWait && !line } })) ∧
    (∀ v : BitVec 4, isRetired s n = true ∨ clockRuns s n = false → exec (.pinChange n v) s = .next s)

/-- R171, R176, R177, R178, R179, R180, R199, R204, R222, R252: a post that fits joins the armed computed reply and
any other is rejected; past its deadline the fallback template stands in; the reply starts when its turnaround ends,
after the frame being sent; its end counts it and reports its outcome; a start bit abandons it; in Sleep a watch
channel's acknowledgement starts, ends and is abandoned likewise; and the drill reads the outcomes in order. -/
def Obligations.ReplyLife : Prop :=
  ∀ (s : State) (n : Chan),
    let c := chan s n
    (∀ (q : Byte) (off : BitVec 6) (len : BitVec 7) (data : BitVec 512) (rest : List ChwrItem),
      chwrOf s (furrowOf n) = .post n q off len data :: rest → isRetired s n = false → clockRuns s n = true →
      (c.reply = none → ∃ s', exec (.post n) s = .next s' ∧ OnlyChannels s s' ∧ (chan s' n).reply = none ∧
        (chan s' n).postRej = (c.postRej || decide (c.lateSeq ≠ some q)) ∧
        (chan s' n).postLate = (c.postLate || decide (c.lateSeq = some q))) ∧
      (∀ y, c.reply = some y → y.computed = false ∨ y.seq ≠ q ∨ len = 0 ∨ 64 < len.toNat ∨
          y.sendLen.toNat < off.toNat + len.toNat →
        ∃ s', exec (.post n) s = .next s' ∧ OnlyChannels s s' ∧ (chan s' n).postRej = true ∧ (chan s' n).reply = c.reply) ∧
      (∀ y, c.reply = some y → y.computed = true → y.seq = q → 0 < len.toNat →
        off.toNat + len.toNat ≤ y.sendLen.toNat → len.toNat ≤ 64 →
        (y.deadlinePassed = true → ∃ s', exec (.post n) s = .next s' ∧ OnlyChannels s s' ∧ (chan s' n).postLate = true ∧
          (chan s' n).reply = c.reply) ∧
        (y.deadlinePassed = false → ∃ s', exec (.post n) s = .next s' ∧ OnlyChannels s s' ∧
          (chan s' n).postLate = c.postLate ∧ (chan s' n).postRej = c.postRej ∧
          (chan s' n).reply = some { y with posted := true, buf := setBytes y.buf off.toNat (bytesOf data 0 len.toNat) }))) ∧
    (∀ y, c.reply = some y → chanLive s n = true → c.async.onSleep = false →
      (y.computed = true → y.deadlinePassed = false →
        ∃ s', exec (.postDeadline n) s = .next s' ∧ OnlyChannel n s s' ∧
          (y.posted = true → chan s' n = { c with reply := some { y with deadlinePassed := true } }) ∧
          (y.posted = false → chan s' n = { c with reply := some { y with
            deadlinePassed := true, fallback := true, buf := y.fbBuf, len := y.fbLen } })) ∧
      (∀ edge : Bool, y.turnEnded = false → y.sending = false → clockRuns s n = true → y.computed = false ∨ y.posted = true →
        y.fallback = false →
        ∃ s', exec (.replyStart { chan := n, boundary := edge }) s = .next s' ∧ OnlyChannel n s s' ∧
          ∃ z, (chan s' n).reply = some z ∧ z.buf = y.buf ∧ z.turnEnded = true ∧
            (c.cfg.func ≠ 4 → c.tx.busy = true → z.late = true ∧ z.sending = false) ∧
            (c.cfg.func ≠ 4 → c.tx.busy = false → z.sending = true ∧
              (chan s' n).async.wire = frameLine c (bytesOf y.buf 0 y.len.toNat) ∧
              (c.cfg.func = 2 → driverOn (chan s' n).async s.now = true)) ∧
            (c.cfg.func = 4 → edge = false ∨ c.cs.selActive = false → z.sending = false) ∧
            (c.cfg.func = 4 → edge = true → c.cs.selActive = true → postedBegun c = false → y.sent = 0 → 0 < y.len.toNat →
              z.sending = true ∧ (chan s' n).cs.sdo = wordBits c (wordFrom c (bytesOf y.buf 0 64) 0))) ∧
      (y.sending = true → c.cfg.func ≠ 4 →
        ∃ s', exec (.replyDone n) s = .next s' ∧ OnlyChannels s s' ∧ (chan s' n).reply = none ∧ (chan s' n).async.wire = [] ∧
          (c.cfg.func = 2 → (chan s' n).async.driver = c.async.driver.map fun d =>
            (d.1, some (s.now + ticksTime c (freqOf s n) (c.async.now.de.toNat / 256 % 256)))) ∧
          (y.fallback = true → (chan s' n).cnt = { c.cnt with fallbacks := satInc c.cnt.fallbacks } ∧
            (chan s' n).outcomes = c.outcomes) ∧
          (y.fallback = false → (chan s' n).cnt = { c.cnt with replies := satInc c.cnt.replies } ∧
            (chan s' n).outcomes = if y.computed = true then c.outcomes ++ [(y.seq, .sent)] else c.outcomes)) ∧
      (c.cfg.func = 2 → y.turnEnded = false → y.sending = false →
        ∃ s', exec (.replyAbandon n) s = .next s' ∧ OnlyChannel n s s' ∧ (chan s' n).reply = none ∧
          (chan s' n).async.driver = none ∧ (chan s' n).cnt = { c.cnt with abandoned := satInc c.cnt.abandoned } ∧
          (chan s' n).outcomes = if y.computed = true
            then c.outcomes ++ [(y.seq, if y.fallback = true then .fallback else .abandoned)] else c.outcomes)) ∧
    (c.async.onSleep = true →
      (∀ e, c.async.ack = some .turning → watchEntry s n = some e → ∀ edge : Bool,
        ∃ s', exec (.replyStart { chan := n, boundary := edge }) s = .next s' ∧ OnlyChannel n s s' ∧ (chan s' n).async.ack = some .sending ∧
          (chan s' n).async.wire = ackLine ((e.data.drop 16).take (e.num 8 1)) ∧ driverOn (chan s' n).async s.now = true) ∧
      (c.async.ack = some .sending →
        ∃ s', exec (.replyDone n) s = .next s' ∧ OnlyChannel n s s' ∧ (chan s' n).async.ack = none ∧
          (chan s' n).async.wire = [] ∧ driverOn (chan s' n).async s.now = false) ∧
      (c.async.ack = some .turning →
        ∃ s', exec (.replyAbandon n) s = .next s' ∧ OnlyChannel n s s' ∧ (chan s' n).async.ack = none ∧
          (chan s' n).async.driver = none ∧ (chan s' n).async.ackAbandoned = satInc c.async.ackAbandoned) ∧
      (c.async.ack ≠ some .turning → exec (.replyAbandon n) s = .next s)) ∧
    (∀ (q : Byte) (o : ReplyEnd) (rest : List (Byte × ReplyEnd)), c.outcomes = (q, o) :: rest → eventWaits s n q = false →
      ∃ s', exec (.replyOutcome n) s = .next s' ∧ chan s' n = { c with outcomes := rest } ∧
        (∀ m, m ≠ n → chan s' m = chan s m) ∧
        (awaitingTask s n q = none → s'.drill = s.drill) ∧
        (∀ d, awaitingTask s n q = some d → (n, q) ∉ (desc s' d).life.awaits ∧ OtherDescs d s s' ∧
          (o ≠ .fallback → (desc s' d).life.status = (desc s d).life.status) ∧
          (o = .fallback → (desc s' d).missed = true ∧ (desc s' d).life.status = worstStatus (desc s d).life.status 4)) ∧
        s' = { s with chs := s'.chs, drill := s'.drill })

/-- R166, R169, R180, R183, R194, R197, R198, R231: a frame that the owner posts takes the next cells of its ring and
is sent in turn; a post of the wrong size sets TXREJ; a collision retries it after a backoff or gives it up at
RETRIES; EN starts the channel anew unless its settings hold a reserved code (log entry 115), and 0x5C resets it to
its seed values. -/
def Obligations.TransmitAndReset : Prop :=
  ∀ (s : State) (n : Chan),
    let c := chan s n
    (∀ (r : Req) (cells : BitVec 6) (len : BitVec 12), ownerWrites s r n 0x24 = true → c.cfg.func = 1 ∨ c.cfg.func = 2 →
      let ks := (List.range cells.toNat).map fun i => c.tx.tail + BitVec.ofNat 5 i
      (1 ≤ cells.toNat → cells.toNat ≤ txFree c → 1 ≤ len.toNat → len.toNat ≤ 64 * cells.toNat →
        chwrOf s (furrowOf n) = [] → clockRuns s n = true →
        ∃ s', exec (.txPost r n cells len) s = .next s' ∧ OnlyChannels s s' ∧
          (chan s' n).tx.posted = c.tx.posted ++ [{ cells := ks, len := len.toNat }] ∧
          (chan s' n).tx.tail = c.tx.tail + BitVec.ofNat 5 cells.toNat ∧ (chan s' n).txRej = c.txRej ∧
          (∀ k ∈ ks, vget (chan s' n).tx.cells k.toFin = .queued) ∧ ∀ m, m ≠ n → chan s' m = chan s m) ∧
      (¬ (1 ≤ cells.toNat ∧ cells.toNat ≤ txFree c ∧ 1 ≤ len.toNat ∧ len.toNat ≤ 64 * cells.toNat) →
        ∃ s', exec (.txPost r n cells len) s = .next s' ∧ OnlyChannel n s s' ∧ chan s' n = { c with txRej := true })) ∧
    (∀ (fr : TxFrame) (rest : List TxFrame), c.tx.posted = fr :: rest → asyncLive s n = true →
      (c.tx.busy = false → c.tx.backoff = false → c.reply = none →
        c.cfg.func = 1 ∨ (c.rx.cur = none ∧ c.async.line = true ∧ c.async.ovlHold = false ∧ c.async.breakWait = false) →
        ∃ s', exec (.txFrameStart n) s = .next s' ∧ OnlyChannel n s s' ∧ (chan s' n).tx.busy = true ∧
          (∀ k ∈ fr.cells, vget (chan s' n).tx.cells k.toFin = .sending) ∧
          (chan s' n).async.wire = frameLine c (txBytes c fr) ∧ (c.cfg.func = 2 → driverOn (chan s' n).async s.now = true)) ∧
      (c.tx.busy = true → c.reply = none → chwrOf s (furrowOf n) = [] →
        (∃ s', exec (.txFrameDone n) s = .next s' ∧ OnlyChannels s s' ∧ (chan s' n).tx.posted = rest ∧
          (chan s' n).tx.busy = false ∧ (∀ k ∈ fr.cells, vget (chan s' n).tx.cells k.toFin = .free) ∧
          (chan s' n).async.wire = []) ∧
        (c.cfg.func = 2 → toleratesError s n = true →
          (fr.attempt.toNat < c.cfg.retries.toNat →
            ∃ s', exec (.txCollision n) s = .next s' ∧ OnlyChannels s s' ∧ (chan s' n).tx.busy = false ∧
              (chan s' n).tx.backoff = true ∧ (chan s' n).tx.posted = { fr with attempt := fr.attempt + 1 } :: rest ∧
              (chan s' n).health.lastErr = 8 ∧ (chan s' n).async.flags.getLsbD 7 = true ∧ (chan s' n).async.wire = []) ∧
          (fr.attempt.toNat = c.cfg.retries.toNat →
            ∃ s', exec (.txCollision n) s = .next s' ∧ OnlyChannels s s' ∧ (chan s' n).tx.posted = rest ∧
              (chan s' n).tx.busy = false ∧ (chan s' n).health.lastErr = 9)))) ∧
    (asyncLive s n = true →
      ∃ s', exec (.retryBackoffEnd n) s = .next s' ∧ OnlyChannel n s s' ∧
        chan s' n = { c with tx := { c.tx with backoff := false } }) ∧
    (∀ r : Req, ownerWrites s r n 0x4 = true →
      (c.en = true → exec (.channelEnable r n) s = .next s) ∧
      (c.en = false → paired s n = false → settingsFit (level5 s n) n (freqOf s n) c = false →
        exec (.channelEnable r n) s = .next s) ∧
      (c.en = false → paired s n = false → settingsFit (level5 s n) n (freqOf s n) c = true → s.pow.vsup = true →
        s.pow.thermalOff = false → s.sys.mode = Mode.run → s.sys.limpSet = 0 →
        ∃ s', exec (.channelEnable r n) s = .next s' ∧ (chan s' n).en = true ∧ (chan s' n).drive = .func ∧
          (chan s' n).cfg = c.cfg ∧ (chan s' n).rules = c.rules ∧ (chan s' n).reply = none ∧ (chan s' n).tx = {} ∧
          (chan s' n).rx.cur = none ∧ (chan s' n).cnt = {} ∧ s'.mem = s.mem ∧ s'.cores = s.cores) ∧
      (paired s n = false →
        ∃ s', exec (.channelReset r n) s = .next s' ∧ (chan s' n).cfg = (seedChannel s n).cfg ∧
          (chan s' n).rules = (seedChannel s n).rules ∧ (chan s' n).tpls = (seedChannel s n).tpls ∧ (chan s' n).flow = (seedChannel s n).flow ∧
          (chan s' n).reply = none ∧ (chan s' n).tx = {} ∧ (chan s' n).rx.cur = none ∧ (chan s' n).rx.held = [] ∧
          (chan s' n).cnt = {} ∧ (chan s' n).rx.data = c.rx.data ∧ s'.mem = s.mem ∧ s'.cores = s.cores))

/-- R203, R204, R205, R211, R212, R213, R214, R215, R216, R217, R218, R219, R220, R221, R222, R223, R224, R225: a
watch channel's address wakes the module and is handed back with its notice; a master's transfer takes its selects
from the control byte and gives its frame back at its end; a returned strobe of the wrong count, an edge outside a
transfer and a mode fault set their flags; a slave's select, words and release carry a frame. -/
def Obligations.WatchAndClockedSerial : Prop :=
  ∀ (s : State) (n : Chan),
    let c := chan s n
    (∀ (e : SeedEntry) (a : Byte), watchEntry s n = some e → e.num 1 1 = a.toNat → c.async.onSleep = true →
      isRetired s n = false → s.sys.mode = Mode.sleep → c.async.ack ≠ some .sending →
      let turn := cyclesTime 1843200 (nsCycles 1843200 (e.num 4 4)) - cyclesTime 1843200 (e.num 3 1)
      ∃ s', exec (.watchMatch n a) s = .next s' ∧ (chan s' n).async = { c.async with
          matches_ := satInc c.async.matches_, watchHit := true, ack := some .turning, driver := some (s.now + turn, none) } ∧
        s'.sys = { s.sys with wake := setBits s.sys.wake 2 1 1, waking := true, watchCh := s'.sys.watchCh } ∧
        ((∀ m, (chan s m).async.watchHit = false) → s'.sys.watchCh.toNat = n.val) ∧
        ((∃ m, (chan s m).async.watchHit = true) → s'.sys.watchCh.toNat = min n.val s.sys.watchCh.toNat) ∧
        (∀ m, m ≠ n → chan s' m = chan s m) ∧ s' = { s with chs := s'.chs, sys := s'.sys }) ∧
    (c.async.onSleep = true → c.async.ack = none → s.sys.mode ≠ Mode.sleep ∨ s.sys.waking = true →
      ∃ s', exec (.watchHandback n) s = .next s' ∧ OnlyChannels s s' ∧
        (chan s' n).async = { c.async with onSleep := false, watchHit := false, driver := none } ∧
        (c.async.watchHit = false → OnlyChannel n s s')) ∧
    (∀ (fr : TxFrame) (rest : List TxFrame), c.tx.posted = fr :: rest → pairLive s n 3 = true →
      let v : BitVec 4 := (controlByte c).setWidth 4
      let ddr := fmtDdr c.cfg.fmt && csRxEn c.cs.now
      (c.cs.xfer = none → c.cs.flags.getLsbD 3 = false → c.cs.sel = none ∨ c.cs.sel = some v ∨ c.cs.now = c.cs.regs →
        (busClaimed c = false →
          ∃ s', exec (.csTransferStart n) s = .next s' ∧ OnlyChannel n s s' ∧ (chan s' n).tx.busy = true ∧
            (chan s' n).cs = { c.cs with
              xfer := some (frameWords c fr), sel := some v, sdo := transferBits c (txBytes c fr)
              selActive := csDecode c.cs.now || decide (v ≠ 0)
              strbWait := c.cs.strbWait ++ (if ddr = true then [frameWords c fr] else []) } ∧
            ∀ k ∈ fr.cells, vget (chan s' n).tx.cells k.toFin = .sending) ∧
        (busClaimed c = true →
          ∃ s', exec (.csTransferStart n) s = .next s' ∧ OnlyChannel n s s' ∧ (chan s' n).tx = c.tx ∧
            (chan s' n).cs.xfer = none ∧ (c.cs.sel ≠ some v → (chan s' n).cs.sel = none))) ∧
      (∀ (k : Nat) (ws : List Word), c.cs.xfer = some k → chwrOf s (furrowOf n) = [] →
        ddr = csRxEn c.cs.now ∨ aCrc c.async.now = 0 →
        ∃ s', exec (.csTransferEnd n ws) s = .next s' ∧ OnlyChannels s s' ∧ (chan s' n).cs.xfer = none ∧
          (chan s' n).tx.posted = rest ∧ (chan s' n).tx.busy = false ∧ (chan s' n).cs.strbWait = c.cs.strbWait ∧
          (chan s' n).cs.sel = (if (controlByte c).getLsbD 4 = true then c.cs.sel else none) ∧
          (chan s' n).cs.selActive = ((controlByte c).getLsbD 4 && c.cs.selActive) ∧
          (chan s' n).cs.sdo = (if (controlByte c).getLsbD 4 = true then c.cs.sdo.getLast?.toList else [])) ∧
      (csMfEn c.cs.now = true → csDecode c.cs.now = false → c.cs.xfer ≠ none → toleratesError s n = true →
        chwrOf s (furrowOf n) = [] →
        ∃ s', exec (.modeFault n) s = .next s' ∧ OnlyChannels s s' ∧ (chan s' n).cs.xfer = none ∧
          (chan s' n).cs.flags.getLsbD 3 = true ∧ (chan s' n).cs.modeFaults = satInc c.cs.modeFaults ∧
          (chan s' n).cs.selActive = false ∧ (chan s' n).cs.sel = none ∧ (chan s' n).cs.sdo = [] ∧
          (chan s' n).cs.strbWait = (if ddr = true then c.cs.strbWait.dropLast else c.cs.strbWait) ∧
          (chan s' n).tx.posted = rest ∧ (chan s' n).tx.busy = false ∧ (chan s' n).rx.cur = none ∧
          (chan s' n).health.lastErr = 12)) ∧
    (∀ (k bits : Nat) (wait : List Nat) (ws : List Word), pairLive s n 3 = true → c.cs.strbWait = k :: wait →
      (bits ≠ k * fmtWord c.cfg.fmt → toleratesError s n = true →
        ∃ s', exec (.strbWaitEnd n bits ws) s = .next s' ∧ OnlyChannels s s' ∧ (chan s' n).cs.strbWait = wait ∧
          (chan s' n).cs.flags.getLsbD 4 = true ∧ (chan s' n).cs.strobes = satInc c.cs.strobes ∧
          (chan s' n).health.lastErr = 10 ∧ (chan s' n).cnt = c.cnt) ∧
      (bits = k * fmtWord c.cfg.fmt → aCrc c.async.now = 0 →
        ∃ s', exec (.strbWaitEnd n bits ws) s = .next s' ∧ OnlyChannels s s' ∧ (chan s' n).cs.strbWait = wait ∧
          (chan s' n).cs.strobes = c.cs.strobes ∧ (chan s' n).health.lastErr = c.health.lastErr)) ∧
    (pairLive s n 3 = true → fmtDdr c.cfg.fmt = true →
      (c.cs.strbWait = [] → c.cs.xfer = none ∨ csRxEn c.cs.now = true →
        ∃ s', exec (.rstbEdgeOutsideTransfer n) s = .next s' ∧ OnlyChannel n s s' ∧
          chan s' n = { c with cs := { c.cs with flags := setBits c.cs.flags 4 1 1 } }) ∧
      (c.cs.strbWait ≠ [] → exec (.rstbEdgeOutsideTransfer n) s = .next s)) ∧
    (∀ r : Req, ownerWrites s r n 0x110 = true → paired s n = true → n.val % 2 = 0 →
      ∃ s', exec (.modeFaultClear r n) s = .next s' ∧ OnlyChannel n s s' ∧
        (sel3Asserted c.cs = false → (chan s' n).cs.flags.getLsbD 3 = false) ∧
        (sel3Asserted c.cs = true → (chan s' n).cs.flags = c.cs.flags) ∧
        ∀ k, k ≠ 3 → (chan s' n).cs.flags.getLsbD k = c.cs.flags.getLsbD k) ∧
    (pairLive s n 4 = true → c.cs.selActive = false →
      ∃ s', exec (.slaveSelect n) s = .next s' ∧ OnlyChannel n s s' ∧ (chan s' n).cs.selActive = true ∧
        (chan s' n).cs.words = 0 ∧ (chan s' n).rx.cur = some {}) ∧
    (∀ w : Word, pairLive s n 4 = true → c.cs.selActive = true → csFramed c.cs.now = true → c.cs.frameDone = true →
      ∃ s', exec (.slaveWord n w) s = .next s' ∧ OnlyChannel n s s' ∧
        (c.cs.longSeen = false → (chan s' n).cs.flags.getLsbD 1 = true ∧ (chan s' n).cs.longs = satInc c.cs.longs) ∧
        (c.cs.longSeen = true → s' = s)) ∧
    (∀ (w : Word) (fr : RxFrame), pairLive s n 4 = true → c.cs.selActive = true → c.rx.cur = some fr →
      csFramed c.cs.now = false ∨ (c.cs.frameDone = false ∧ c.cs.words + 1 < csFrameWords c.cs.now) →
      fr.len = 0 ∨ fr.cells ≠ [] ∨ fr.dropping = true → fr.len + 4 ≤ 2048 →
      ∃ s', exec (.slaveWord n w) s = .next s' ∧ (∀ m, m ≠ n → chan s' m = chan s m) ∧
        s' = { s with chs := { s.chs with ch := s'.chs.ch }, drill := { s.drill with shed := s'.drill.shed } } ∧
        (fr.dropping = true → s'.drill = s.drill) ∧ (chan s' n).cs.words = c.cs.words + 1 ∧
        ∃ fr', (chan s' n).rx.cur = some fr' ∧ fr'.len = fr.len + wordBytes (fmtWord c.cfg.fmt)) ∧
    (∀ k : Nat, pairLive s n 4 = true → c.cs.selActive = true → csFramed c.cs.now = true → c.cs.frameDone = false →
      toleratesError s n = true → (∀ fr, c.rx.cur = some fr → fr.failed = false) →
      ∃ s', exec (.slaveRelease n k) s = .next s' ∧ OnlyChannels s s' ∧ (chan s' n).cs.selActive = false ∧
        (chan s' n).rx.cur = none ∧ (chan s' n).cs.flags.getLsbD 0 = true ∧ (chan s' n).cs.shorts = satInc c.cs.shorts ∧
        (chan s' n).health.lastErr = 11)

/-- R232, R233, R234, R235, R236, R237, R238, R239, R240, R241, R242, R243, R244: the error window moves on by a
sub-window; a checkable sample of a push-pull pin updates its condition; a fault that persists, or a lost driver link,
retires the channel with its event, its bit and its record; the fold's completion clears PENDING; and SYS.UNRETIRE
returns a channel to service under the REPAIR scope alone. -/
def Obligations.HealthAndRetirement : Prop :=
  ∀ (s : State) (n : Chan),
    let c := chan s n
    (mainOn s = true → isRetired s n = false →
      ∃ s', exec (.errSubwindow n) s = .next s' ∧ OnlyChannel n s s' ∧ vget (chan s' n).health.win 0 = 0 ∧
        ∀ i : Fin 7, vget (chan s' n).health.win ⟨i.val + 1, by omega⟩ = vget c.health.win ⟨i.val, by omega⟩) ∧
    (∀ (k : Fin 4) (x : PinReading), chanLive s n = true → mainOn s = true → paired s n = false →
      let faulty := decide (1000 < x.mv) || x.lowLimit
      let i : Fin 8 := ⟨4 * (n.val % 2) + k.val, by omega⟩
      let p := vget c.health.pins i
      let covered := p.acc + (p.seen.map fun t => s.now - t).getD 0
      ∃ s', exec (.pinMonitorSample n k x) s = .next s' ∧ OnlyChannel n s s' ∧
        (checkable s n x = true → pinDriven s n k.val (driverOn c.async s.now) = true → pinMode c k = 1 → x.level = false →
          (faulty = false → vget (chan s' n).health.pins i = {}) ∧
          (faulty = true → p.cond = 2 → vget (chan s' n).health.pins i =
            { p with acc := covered, seen := some s.now, count := p.count + 1 }) ∧
          (faulty = true → p.cond ≠ 2 →
            vget (chan s' n).health.pins i = { cond := 2, seen := some s.now, count := 1 })) ∧
        (checkable s n x = false →
          vget (chan s' n).health.pins i = { p with acc := covered, seen := none }) ∧
        ∀ j : Fin 8, j ≠ i → vget (chan s' n).health.pins j = vget c.health.pins j) ∧
    (∀ i : Nat, chanLive s n = true → paired s n = false →
      (List.range 8).find? (fun i => pinPersists s c.health (c.health.pins.toList.getD i {})) = some i →
      ∃ s', exec (.pinFaultPersist n) s = .next s' ∧ isRetired s' n = true ∧ s'.chs.lastCause = 2 ∧
        s'.chs.lastCh.toNat = n.val ∧ s'.chs.retirePending = true ∧ (chan s' n).reply = none ∧ (chan s' n).cnt = {} ∧
        (∀ m, m ≠ n → isRetired s' m = isRetired s m)) ∧
    ((List.range 8).find? (fun i => pinPersists s c.health (c.health.pins.toList.getD i {})) = none → paired s n = false →
      exec (.pinFaultPersist n) s = .next s) ∧
    (∀ j : Fin 8, mainOn s = true →
      ∃ s', exec (.driverLinkLoss j) s = .next s' ∧
        (∀ m, railOf m = j → (chan s m).cfg.func ≠ 0 → (chan s m).en = true → isRetired s' m = true) ∧
        (railOf n = j → c.cfg.func ≠ 0 → c.en = true → isRetired s n = false → paired s n = false →
          (∀ m, m ≠ n → railOf m = j → (chan s m).cfg.func = 0 ∨ (chan s m).en = false ∨ isRetired s m = true) →
          s'.chs.lastCause = 3 ∧ s'.chs.lastCh.toNat = n.val ∧ s'.chs.retirePending = true ∧
          ∀ m, m ≠ n → isRetired s' m = isRetired s m)) ∧
    (∀ (d : LdgDone) (rest : List LdgDone), s.ldg.lgc = d :: rest →
      (d.caller = .fold → d.prot = false → d.status = 0 →
        ∃ s', exec .retireFoldDone s = .next s' ∧ s'.ldg = { s.ldg with lgc := rest } ∧
          s'.chs = { s.chs with retirePending := s'.chs.retirePending } ∧
          (s'.chs.retirePending = true ↔
            s.chs.toFold ≠ [] ∨ (∃ r ∈ s.ldg.lgq, r.caller = .fold) ∨ ∃ r ∈ rest, r.caller = .fold) ∧
          s' = { s with ldg := s'.ldg, chs := s'.chs, clk := s'.clk }) ∧
      (d.caller ≠ .fold ∨ d.prot = true ∨ d.status ≠ 0 → exec .retireFoldDone s = .next s)) ∧
    (∀ r : Req, passesGuard s r 0x54000814 = true →
      (isEncl s r = true → s.sys.mode = Mode.service → scopeHas s 6 = true → isRetired s n = true → paired s n = false →
        ∃ s', exec (.sysUnretireWrite r n) s = .next s' ∧ isRetired s' n = false ∧
          (∀ m, m ≠ n → isRetired s' m = isRetired s m) ∧ (chan s' n).cnt = {} ∧ (chan s' n).tx = {} ∧ s'.cores = s.cores) ∧
      (isEncl s r = true → s.sys.mode ≠ Mode.service ∨ scopeHas s 6 = false ∨ isRetired s n = false →
        exec (.sysUnretireWrite r n) s = .next s) ∧
      (isEncl s r = false → RefusedSilently (.sysUnretireWrite r n) r s))

/-! ### Host bays (17) -/

/-- R374, R375, R376, R379, R380, R382: a tail doorbell below SIZE on an enabled queue takes effect and lets a fetch
of up to 8 entries be issued, with its CQ slots reserved; any other changes nothing; a head doorbell likewise. A
fetched entry takes the lowest free slot; one that R379 silences completes OK with RESULT 0 and counts a violation of
the bay. DIR IN puts the host's bytes into the window. -/
def Obligations.BayFetches : Prop :=
  ∀ (s : State) (b : Bay) (q : Fin 16),
    (∀ v : BitVec 10, hostReaches s b = true →
      ((sqOf s b q).en = true ∧ v.toNat < (sqOf s b q).size.toNat →
        ∃ s', exec (.sqDoorbell b q v) s = .next s' ∧ OnlyBay b s s' ∧ (sqOf s' b q).tail = v ∧ (bay s' b).cmds = (bay s b).cmds ∧
          (let s1 := setSq b q { sqOf s b q with tail := v } s
           let n := fetchSize s1 b q
           (∀ k, k ≠ q → fetchSize s1 b k = 0) → (∀ o ∈ (bay s b).out, o.sent = true) →
            (n = 0 → s'.bays = s1.bays) ∧
            (0 < n → (sqOf s' b q).fetching = n ∧
              (cqOf s' b (sqOf s b q).cqid.toFin).reserved = (cqOf s b (sqOf s b q).cqid.toFin).reserved + n ∧
              SentToHost b (.read ((sqOf s b q).base + BitVec.ofNat 64 (64 * (sqOf s b q).head.toNat))
                (min (64 * n) (maxRead s b))) s'))) ∧
      ((sqOf s b q).en = false ∨ (sqOf s b q).size.toNat ≤ v.toNat → exec (.sqDoorbell b q v) s = .next s) ∧
      ((cqOf s b q).en = true ∧ v.toNat < (cqOf s b q).size.toNat →
        ∃ s', exec (.cqDoorbell b q v) s = .next s' ∧ OnlyBay b s s' ∧ (cqOf s' b q).head = v ∧
          (bay s' b).cmds = (bay s b).cmds) ∧
      ((cqOf s b q).en = false ∨ (cqOf s b q).size.toNat ≤ v.toNat → exec (.cqDoorbell b q v) s = .next s)) ∧
    (∀ (bs : List Byte) (k : Fin 256), (sqOf s b q).fetching = 1 → freeSlot (bay s b) = some k →
      let x := sqOf s b q
      let head := if x.head.toNat + 1 = x.size.toNat then 0 else x.head + 1
      let c : BayCmd := { slot := k, q := q, sqhd := head, body := ofBytes 512 bs, st := .ready }
      let dma := decide (cmdDir c = 1 ∧ 0 < cmdNum c 20 4)
      (cmdFormOk s b c = true →
        ∃ s', exec (.sqFetchDone b q [bs]) s = .next s' ∧ OnlyBay b s s' ∧ (sqOf s' b q).head = head ∧
          (bay s' b).cmds = (bay s b).cmds ++ [{ c with st := if dma then .dataIn else .ready }]) ∧
      (cmdFormOk s b c = false → (bay s b).quiescing = false →
        ∃ s', exec (.sqFetchDone b q [bs]) s = .next s' ∧ OnlyBay b s { s' with guard := s.guard, draws := s.draws } ∧
          (sqOf s' b q).head = head ∧ CmdCompletes b c 0 0 s s' ∧ (bay s' b).cmds = (bay s b).cmds ∧
          s'.guard.vlastSrc.toNat = 16 + b.val ∧
          vget s'.guard.vcnt ⟨16 + b.val, by omega⟩ = satInc (vget s.guard.vcnt ⟨16 + b.val, by omega⟩))) ∧
    (∀ (k : Fin 256) (c : BayCmd) (data : List Byte), cmdOf s b k = some c → c.st = .dataIn → data.length = cmdNum c 20 4 →
      0 < data.length → winPasses s b (sqOf s b c.q).owner permW (winBase s b + cmdNum c 16 4) data.length = true →
      ∃ s', exec (.dataInDone b k data) s = .next s' ∧ OnlyBay b s { s' with mem := s.mem, cache := s.cache } ∧
        sramRead s' (winBase s b + cmdNum c 16 4) data.length = data ∧
        SramBut (winBase s b + cmdNum c 16 4) data.length s s' ∧ cmdOf s' b k = some { c with st := .ready })

/-- R143, R144, R145, R378, R380, R381, R385, R386, R425: SUBMIT raises a task of SRC 2 on its flow, or completes
BUSY; CANCEL answers as TCANCEL does, its target completing CANCELLED; STATUS answers with SYS.MODE and SEED.STS; the
staging operations act on the session; a GRANARY command enters GRQ; each of these service commands completes
ENCLOSURE_RESTARTING while no Enclosure runs. -/
def Obligations.BayCommands : Prop :=
  ∀ (s : State) (b : Bay) (c : BayCmd) (d : Fin 1024),
    (nextCmd s b 1 = some c → cmdOf s b c.slot = some c → mainOn s = true →
      let f := cmdNum c 4 2
      (drainRefuses s = false → (flow s f).ready = false → freeDesc s f = some d → 0 < freeCredits (flow s f) →
        ∃ s', exec (.submit b) s = .next s' ∧ (desc s' d).st = .queued ∧ (desc s' d).src = 2 ∧ (desc s' d).flow.toNat = f % 4096 ∧
          (desc s' d).bay.toNat = b.val ∧ (desc s' d).deadline = 0 ∧
          (desc s' d).payload.toNat = cmdNum c 16 4 + cmdNum c 20 4 * 2 ^ 32 + cmdNum c 32 32 * 2 ^ 64 ∧
          (desc s' d).life.slots = [(b, c.slot)] ∧ cmdOf s' b c.slot = some { c with st := .admitted } ∧ OtherDescs d s s' ∧
          s'.mem = s.mem) ∧
      (drainRefuses s = true ∨ ((flow s f).ready = false ∧ (freeDesc s f = none ∨ freeCredits (flow s f) = 0)) →
        ∃ s', exec (.submit b) s = .next s' ∧ CmdCompletes b c 1 0 s s' ∧ (bay s' b).busys = satInc (bay s b).busys ∧
          s'.drill.descs = s.drill.descs ∧ s'.drill.flows = s.drill.flows ∧ s'.mem = s.mem)) ∧
    (nextCmd s b 2 = some c → mainOn s = true →
      (cancelTarget s b c = none ∨ (∃ e, cancelTarget s b c = some e ∧ cancellable (desc s e) = false) →
        ∃ s', exec (.cancel b) s = .next s' ∧ CmdCompletes b c 0 1 s s' ∧ s'.drill = s.drill ∧ s'.mem = s.mem) ∧
      (∀ e, cancelTarget s b c = some e → cancellable (desc s e) = true → (∀ k, (desc s k).life.parent ≠ some e) →
        ∃ s', exec (.cancel b) s = .next s' ∧ (desc s' e).st = .free ∧ OtherDescs e s s' ∧
          ∃ a ph, SentToHost b (.completion (sqOf s b c.q).cqid.toFin a
            (entryBits 0 c.q.val c.sqhd.toNat (cmdNum c 2 2) 0 false ph)) s')) ∧
    (serviceTakes s b 0x21 c d →
      (enclRuns s = true → cmdDir c = 0 →
        ∃ s', exec (.status b) s = .next s' ∧
          CmdCompletes b c 0 (BitVec.ofNat 64 ((sysModeWord s).toNat + (seedStsWord s).toNat * 2 ^ 32)) s s' ∧
          OtherDescs d s s' ∧ (desc s' d).st = .free ∧ s'.mem = s.mem) ∧
      (cmdDir c = 2 → enclRuns s = true → ∃ s', exec (.status b) s = .next s' ∧ (desc s' d).st = .free)) ∧
    (∀ err : Bool, enclRuns s = false → mainOn s = true → s.sys.mode ≠ Mode.lockdown →
      ∀ p ∈ ([(0x10, .stageOpen b), (0x11, .stageWrite b), (0x12, .stageCheck b err), (0x13, .stageActivate b),
        (0x14, .stageAbort b), (0x20, .granary b), (0x21, .status b)] : List (Nat × Instr)),
        nextCmd s b p.1 = some c → c.st = .ready →
        ∃ s', exec p.2 s = .next s' ∧ CmdCompletes b c 6 0 s s' ∧ s'.seed = s.seed ∧ s'.grn = s.grn ∧ s'.mem = s.mem) ∧
    (serviceTakes s b 0x10 c d → enclRuns s = true →
      (s.seed.wait = .idle → s.seed.open_ = false ∨ s.seed.source = bayStageSource b →
        ∃ s', exec (.stageOpen b) s = .next s' ∧ s'.seed.open_ = true ∧ s'.seed.source = bayStageSource b ∧ s'.seed.result = 0 ∧
          s'.seed.wait = .erasing (some c.slot) ∧ s'.seed.written = [] ∧
          (∀ k, k < seedAreaLen → tabGet norBlank s'.mem.store (stagingBase + k) = norBlank) ∧
          (∀ k, k < stagingBase ∨ stagingBase + seedAreaLen ≤ k → tabGet norBlank s'.mem.store k = tabGet norBlank s.mem.store k)) ∧
      (s.seed.wait ≠ .idle ∨ (s.seed.open_ = true ∧ s.seed.source ≠ bayStageSource b) → cmdDir c = 0 →
        ∃ s', exec (.stageOpen b) s = .next s' ∧ CmdCompletes b c 1 0 s s' ∧ s'.seed = s.seed ∧ s'.mem = s.mem)) ∧
    (∀ err : Bool, serviceTakes s b 0x12 c d → enclRuns s = true → cmdDir c = 0 → s.seed.wait = .idle →
      (holdsStage s (bayStageSource b) = true →
        ∃ s', exec (.stageCheck b err) s = .next s' ∧ CmdCompletes b c 0 0 s s' ∧ s'.mem = s.mem ∧
          s'.seed.result = (if seedCode s stagingBase err = 0 then 1 else 2) ∧ s'.seed.checkedLast = true) ∧
      (holdsStage s (bayStageSource b) = false →
        ∃ s', exec (.stageCheck b err) s = .next s' ∧ CmdCompletes b c 0 0 s s' ∧ s'.seed = s.seed ∧ s'.mem = s.mem)) ∧
    (serviceTakes s b 0x11 c d → enclRuns s = true → holdsStage s (bayStageSource b) = true → s.seed.wait = .idle →
      let off := cmdNum c 32 4
      let len := cmdNum c 20 4
      let a := winBase s b + cmdNum c 16 4
      cmdDir c ≠ 2 → 4 ≤ len → len ≤ 4096 → off % 4 = 0 → off + len ≤ seedAreaLen → s.seed.written = [] →
      winPasses s b (sqOf s b c.q).owner permR a len = true →
      (∀ k, k < len → tabGet norBlank s.mem.store (stagingBase + off + k) = norBlank) →
      ∃ s', exec (.stageWrite b) s = .next s' ∧ CmdCompletes b c 0 0 s s' ∧ s'.seed.checkedLast = false ∧
        (∀ k, k < len → tabGet norBlank s'.mem.store (stagingBase + off + k) = sramByte s (a + k)) ∧
        (∀ k, k < stagingBase + off ∨ stagingBase + off + len ≤ k →
          tabGet norBlank s'.mem.store k = tabGet norBlank s.mem.store k)) ∧
    (serviceTakes s b 0x13 c d → enclRuns s = true → holdsStage s (bayStageSource b) = true → s.seed.wait = .idle →
      (s.seed.result = 1 → s.seed.checkedLast = true →
        ∃ s', exec (.stageActivate b) s = .next s' ∧ s'.seed.wait = .copying (some c.slot) (if limpReason s 1 then false else !s.seed.slot) ∧
          s'.seed.open_ = true) ∧
      (s.seed.result ≠ 1 ∨ s.seed.checkedLast = false → cmdDir c = 0 →
        ∃ s', exec (.stageActivate b) s = .next s' ∧ CmdCompletes b c 1 0 s s' ∧ s'.seed = s.seed ∧ s'.mem = s.mem)) ∧
    (serviceTakes s b 0x14 c d → enclRuns s = true → holdsStage s (bayStageSource b) = true → cmdDir c = 0 →
      ∃ s', exec (.stageAbort b) s = .next s' ∧ CmdCompletes b c 0 0 s s' ∧ s'.seed.open_ = false ∧ s'.seed.source = 0 ∧
        ∀ k, k < seedAreaLen → tabGet norBlank s'.mem.store (stagingBase + k) = norBlank) ∧
    (serviceTakes s b 0x20 c d → enclRuns s = true →
      ∀ r : GrnReq, grnTake s (bayAsker s b c.slot (sqOf s b c.q).owner) (cmdNum c 32 4) = .queued r →
        ∃ s', exec (.granary b) s = .next s' ∧ s'.grn.grq = s.grn.grq ++ [r] ∧ (desc s' d).st = .dispatched ∧
          (desc s' d).life.slots = [(b, c.slot)] ∧ s'.mem = s.mem) ∧
    ∀ (slot : Option (Fin 256)), s.seed.wait = .erasing slot → mainOn s = true → stageBay s.seed.source = none →
      ∃ s', exec .stageEraseDone s = .next s' ∧ s'.seed = { s.seed with wait := .idle } ∧ s'.mem = s.mem ∧
        (s.seed.source = 1 → s'.hld.answer = {} ∧ s'.hld.answers = s.hld.answers + 1)

/-- R145, R371, R373, R383, R384, R387, R390, R391, R456: BAR2 reaches the window, and BAR0 and configuration space
are read; a notice is queued by a thread that acts for the bay, and counts a violation of any other; an unmasked
vector sends its pending message; a failed read stops its queue or ends its command; LTR sends the smallest tolerance
in its encoding; credits returned let items go; and a copied seed that fails its check is not activated. -/
def Obligations.BayTraffic : Prop :=
  ∀ (s : State) (b : Bay),
    (∀ (attr : TlpAttr) (off : BitVec 20) (data : List Byte), hostReaches s b = true → 0 < data.length →
      off.toNat + data.length ≤ winSize s b →
      let a := winBase s b + off.toNat
      (winPasses s b 0xFF permW a data.length = true →
        ∃ s', exec (.bar2Access b { write := true, attr := attr } off data.length data) s = .next s' ∧ sramRead s' a data.length = data ∧
          SramBut a data.length s s' ∧ OnlyBay b s { s' with mem := s.mem, cache := s.cache }) ∧
      (winPasses s b 0xFF permR a data.length = true → data.length ≤ maxPayload s b →
        ∃ s', exec (.bar2Access b { write := false, attr := attr } off data.length []) s = .next s' ∧
          SentToHost b (.reply (sramRead s a data.length) attr) s' ∧ OnlyBay b s s') ∧
      (winPasses s b 0xFF permR a data.length = false → data.length ≤ maxPayload s b →
        ∃ s', exec (.bar2Access b { write := false, attr := attr } off data.length []) s = .next s' ∧
          SentToHost b (.reply (List.replicate data.length 0) attr) s' ∧ OnlyBay b s { s' with guard := s.guard })) ∧
    (∀ (attr : TlpAttr) (off : BitVec 20) (data : List Byte), hostReaches s b = true →
      (winSize s b ≤ off.toNat →
        ∃ s', exec (.bar2Access b { write := true, attr := attr } off data.length data) s = .next s' ∧ s' = { s with clk := s'.clk }) ∧
      (winSize s b < off.toNat + data.length →
        ∃ s', exec (.bar2Access b { write := true, attr := attr } off data.length data) s = .next s' ∧ s'.mem = s.mem)) ∧
    (∀ (attr : TlpAttr) (off : BitVec 20), linkCarries s b = true → mainOn s = true →
      (off.toNat % 4 = 0 →
        ∃ s', exec (.bar2Access b { space := .config, write := false, attr := attr } off 4 []) s = .next s' ∧ OnlyBay b s s' ∧
          SentToHost b (.reply (bytesOf (cfgHeld s b off.toNat ||| cfgFixed s b off.toNat) 0 4) attr) s') ∧
      (off = 4 → ∃ s', exec (.bar2Access b { space := .registers, write := false, attr := attr } off 4 []) s = .next s' ∧ OnlyBay b s s' ∧
        SentToHost b (.reply (bytesOf (sysModeWord s) 0 4) attr) s') ∧
      (0x8000 ≤ off.toNat → off.toNat < 0x9000 → off.toNat % 4 = 0 → s.sys.mode ≠ Mode.lockdown →
        bayHasChannel s b (bay s b).chsel.toNat = false →
        ∃ s', exec (.bar2Access b { space := .registers, write := false, attr := attr } off 4 []) s = .next s' ∧ OnlyBay b s { s' with guard := s.guard } ∧
          SentToHost b (.reply [0, 0, 0, 0] attr) s' ∧
          vget s'.guard.vcnt ⟨16 + b.val, by omega⟩ = satInc (vget s.guard.vcnt ⟨16 + b.val, by omega⟩))) ∧
    (∀ t : Thread, guardLets s (.thread t) permR (notifyAddr b).toNat 4 = true →
      let q := (bay s b).notifyCq.toFin
      let y := cqOf s b q
      (actsFor s t b = true → y.en = true → 0 < cqFree y →
        ∃ s', exec (.notifyGo t b) s = .next s' ∧ OnlyBay b s s' ∧ (bay s' b).cmds = (bay s b).cmds ∧
          SentToHost b (.completion q (y.base + BitVec.ofNat 64 (16 * y.tail.toNat))
            (entryBits (BitVec.ofNat 64 ((bay s b).notifyLo.toNat + (bay s b).notifyHi.toNat * 2 ^ 32)) 0xFF 0
              (bay s b).notifyTag.toNat 0 true y.phase)) s' ∧
          (cqOf s' b q).tail = (if y.tail.toNat + 1 = y.size.toNat then 0 else y.tail + 1)) ∧
      (actsFor s t b = true → y.en = false ∨ cqFree y = 0 → exec (.notifyGo t b) s = .next s) ∧
      (actsFor s t b = false → ∃ s', exec (.notifyGo t b) s = .next s' ∧ s' = { s with guard := s'.guard } ∧
        vget s'.guard.vcnt ⟨t.val, by omega⟩ = satInc (vget s.guard.vcnt ⟨t.val, by omega⟩))) ∧
    (∀ v : Fin 32, hostReaches s b = true →
      let e := vget (bay s b).vecs v
      (e.pending = true ∧ msixOn s b = true ∧ msixMasked s b = false →
        e.addr.toNat % 4 = 0 → messageWaits s b (BitVec.ofNat 5 v.val) = false →
        ∃ s', exec (.msixUnmask b v) s = .next s' ∧ OnlyBay b s s' ∧
          vget (bay s' b).vecs v = { e with mask := false, pending := false } ∧
          SentToHost b (.message (BitVec.ofNat 5 v.val) e.addr e.data) s') ∧
      (e.pending = false ∨ msixOn s b = false ∨ msixMasked s b = true →
        ∃ s', exec (.msixUnmask b v) s = .next s' ∧ OnlyBay b s s' ∧ vget (bay s' b).vecs v = { e with mask := false } ∧
          (bay s' b).out = (bay s b).out)) ∧
    (∀ (f : DmaFault) (q : Fin 16), (sqOf s b q).fetching ≠ 0 →
      ∃ s', exec (.dmaError b { read := .fetch q, fault := f }) s = .next s' ∧ OnlyBay b s s' ∧ (sqOf s' b q).en = false ∧ (sqOf s' b q).err = true ∧
        (sqOf s' b q).fetching = 0 ∧ (bay s' b).dmaErr = true ∧ (bay s' b).cmds = (bay s b).cmds) ∧
    (∀ (f : DmaFault) (k : Fin 256) (c : BayCmd), cmdOf s b k = some c → c.st = .dataIn →
      ∃ s', exec (.dmaError b { read := .data k, fault := f }) s = .next s' ∧ (bay s' b).dmaErr = true ∧ CmdCompletes b c 5 0 s s' ∧
        s'.drill = s.drill ∧ s'.mem = s.mem) ∧
    (∀ e : SeedEntry, seedFind s 0x0C 1 b.val = some e → e.num 1 1 ≠ 0 → ltrOn s b = true → linkCarries s b = true →
      mainOn s = true →
      let cap := e.num 4 2 * 1000
      let l := (ltrTerms s b (e.num 2 2 * 1000) cap).foldl min cap
      ∃ k v, k ≤ 5 ∧ v ≤ 1023 ∧ v = l / 32 ^ k ∧ (∀ j, j < k → 1023 < l / 32 ^ j) ∧
        ((bay s b).ltrNs = none ∨ (∃ old, (bay s b).ltrNs = some old ∧ (v * 32 ^ k < old ∨
            (old < v * 32 ^ k ∧ e.num 6 2 * 250000 ≤ s.now - (bay s b).ltrAt))) →
          ∃ s', exec (.ltrUpdate b) s = .next s' ∧ OnlyBay b s s' ∧ (bay s' b).ltrSent = satInc (bay s b).ltrSent ∧
            (bay s' b).ltrLast.toNat = k * 1024 + v ∧ (bay s' b).ltrNs = some (v * 32 ^ k) ∧ (bay s' b).ltrAt = s.now) ∧
        (∀ old, (bay s b).ltrNs = some old → old = v * 32 ^ k ∨
            (old < v * 32 ^ k ∧ s.now - (bay s b).ltrAt < e.num 6 2 * 250000) → exec (.ltrUpdate b) s = .next s)) ∧
    (∀ items : Nat, linkCarries s b = true →
      ∃ s', exec (.updatefcReceived b items) s = .next s' ∧ OnlyBay b s s' ∧
        (bay s' b).out.length = (bay s b).out.length - min items ((bay s b).out.filter fun o => o.sent).length ∧
        (bay s' b).cmds = (bay s b).cmds) ∧
    ((bay s b).link = 3 →
      ∃ s', exec (.l1Exit b) s = .next s' ∧ OnlyBay b s s' ∧ (bay s' b).link = 2 ∧ (bay s' b).ltrNs = none ∧
        (bay s' b).speed = (bay s b).speed ∧ (bay s' b).dllsc = (bay s b).dllsc) ∧
    (∀ (slot : Option (Fin 256)) (t err : Bool), s.seed.wait = .copying slot t → mainOn s = true → s.seed.source = 1 →
      let s1 := copyStaging t s
      (seedCode s1 (seedSlotBase t) err ≠ 0 →
        ∃ s', exec (.stageCopyDone err) s = .next s' ∧ s'.seed.wait = .idle ∧ s'.seed.result = 2 ∧ s'.sys = s.sys ∧
          s'.seed.code.toNat = seedCode s1 (seedSlotBase t) err % 16 ∧ s'.mem = s1.mem ∧ s'.hld.answer = {}) ∧
      (seedCode s1 (seedSlotBase t) err = 0 → s.sys.mode ≠ Mode.lockdown → limpReason s 2 = false →
        ∃ s', exec (.stageCopyDone err) s = .next s' ∧ s'.sys.mode = Mode.boot ∧ s'.sys.cause = 4 ∧
          s'.mem.store = (writeDirectory t s1).mem.store))

/-- R58, R366, R392, R393, R394, R395, R396, R397, R398: presence, the button, an orderly removal, a surprise removal,
PERST#, hot reset, function level reset and the link coming up do what the slot's rules say; a bay reset leaves PWR,
IND, PRESENT and the sticky bits. -/
def Obligations.BaySlot : Prop :=
  ∀ (s : State) (b : Bay), mainOn s = true →
    let x := bay s b
    (x.present = false →
      ∃ s', exec (.presenceChange b true) s = .next s' ∧ (bay s' b).present = true ∧ (bay s' b).pdc = true ∧
        (bay s' b).quiesced = false ∧ (bay s' b).pwr = (x.pwr || x.autoOn) ∧ (x.pdc = false → ({ cause := .bay, data := b.val } : HkEvent) ∈ s'.drill.hkq) ∧
        s'.mem = s.mem ∧ ∀ k, k ≠ b → bay s' k = bay s k) ∧
    (x.present = true →
      ∃ s', exec (.presenceChange b false) s = .next s' ∧ (bay s' b).present = false ∧ (bay s' b).pdc = true ∧
        (bay s' b).quiesced = x.quiesced ∧ (bay s' b).pwr = (x.pwr && !x.autoOff) ∧
        (x.autoOff = true → (bayOut s' b).on = false) ∧ s'.mem = s.mem ∧ ∀ k, k ≠ b → bay s' k = bay s k) ∧
    (∃ s', exec (.attentionButton b) s = .next s' ∧ (bay s' b).abp = true ∧ (bay s' b).pwr = x.pwr ∧
      (x.btnAct = false → (bay s' b).btnPend = x.btnPend ∧ (bay s' b).ind = x.ind) ∧
      (x.btnAct = true → x.btnPend = true → (bay s' b).btnPend = false ∧ (bay s' b).ind = x.indSaved) ∧
      (x.btnAct = true → x.btnPend = false → x.quiescing = false → x.quiesced = false →
        (bay s' b).btnPend = true ∧ (bay s' b).ind = 3 ∧ (bay s' b).indSaved = x.ind) ∧
      s'.mem = s.mem ∧ ∀ k, k ≠ b → bay s' k = bay s k) ∧
    (x.btnPend = true →
      (x.cmds = [] → ∃ s', exec (.buttonWindowEnd b) s = .next s' ∧ (bay s' b).quiesced = true ∧ (bay s' b).quiescing = false ∧
        (bay s' b).ind = 0 ∧ (bay s' b).pwr = false ∧ (bayOut s' b).on = false ∧ (bay s' b).btnPend = false) ∧
      (x.cmds ≠ [] → ∃ s', exec (.buttonWindowEnd b) s = .next s' ∧ OnlyBay b s s' ∧ (bay s' b).quiescing = true ∧
        (bay s' b).quiesced = x.quiesced ∧ (bay s' b).btnPend = false ∧ (bay s' b).cmds = x.cmds ∧
        ∀ q, fetchSize s' b q = 0)) ∧
    (x.quiescing = true →
      ∃ s', exec (.quiesceTimeout b) s = .next s' ∧ (bay s' b).cmds = [] ∧ (bay s' b).quiesced = true ∧
        (bay s' b).quiescing = false ∧ (bay s' b).ind = 0 ∧ (bayOut s' b).on = false ∧ s'.mem = s.mem) ∧
    (x.present = false → x.quiesced = false → x.cause ≠ 5 →
      ∃ s', exec (.surpriseRemoval b false) s = .next s' ∧ BayResetDone b 4 s s' ∧ (bay s' b).link = 0 ∧ (bay s' b).btnPend = false) ∧
    (x.cause = 5 → x.link = 0 → exec (.surpriseRemoval b false) s = .next s) ∧
    (x.present = true → x.perst = false → x.link = 2 ∨ x.link = 3 →
      ∃ s', exec (.surpriseRemoval b true) s = .next s' ∧ BayResetDone b 5 s s' ∧ (bay s' b).link = 0 ∧ (bay s' b).dllsc = true) ∧
    (x.perst = false →
      ∃ s', exec (.perstAssert b) s = .next s' ∧ BayResetDone b 1 s s' ∧ (bay s' b).link = 0 ∧ (bay s' b).perst = true) ∧
    (x.perst = true →
      ∃ s', exec (.perstDeassert b) s = .next s' ∧ (bay s' b).perst = false ∧ (bay s' b).cfg = x.cfg ∧
        (bayEnabled s b = true → s.seed.applied = true → s.seed.lockdownOnly = false → fieldSupply s = true → (bay s' b).link = 1) ∧
        (bayEnabled s b = false ∨ s.seed.applied = false ∨ fieldSupply s = false → (bay s' b).link = x.link)) ∧
    (x.link = 2 ∨ x.link = 3 →
      (∃ s', exec (.hotReset b) s = .next s' ∧ BayResetDone b 2 s s' ∧ (bay s' b).link = 4) ∧
      (∃ s', exec (.functionLevelReset b) s = .next s' ∧ BayResetDone b 3 s s' ∧ (bay s' b).link = x.link)) ∧
    (∀ (sp : BitVec 2) (credits : List Nat), x.perst = false → bayEnabled s b = true → fieldSupply s = true → sp ≠ 0 →
      sp.toNat ≤ bayMaxRate s b → x.link ≠ 2 → x.link ≠ 3 →
      ∃ s', exec (.linkUp b sp credits) s = .next s' ∧ (bay s' b).link = 2 ∧ (bay s' b).speed = sp ∧ (bay s' b).dllsc = true ∧
        (∀ k : Fin 6, vget (bay s' b).txLimit k = credits.getD k.val 0) ∧ s'.mem = s.mem ∧ ∀ k, k ≠ b → bay s' k = bay s k)

/-! ### The Granary (18, 19) -/

/-- R411, R426, R428, R429, R430, R431, R433: what each key-use command answers with a key that the walk found, DONE
or AUTH_FAIL or NO_MATCH; HASH, RANDOM and NONCE; a command that needs a drawn value completes BUSY while the entropy
source fails; a malformed descriptor, an owner not served and a path that finds no key read zeros over OUT_LEN, with
status OK. -/
def Obligations.GranaryKeyUse : Prop :=
  ∀ (s : State) (r : GrnReq),
    let j := grnJob s r
    let key := fun (opc : Nat) (k : KeyInfo) (s1 : State) => grnServes s r opc ∧ grnKey s r k s1
    (∀ (k : KeyInfo) (s1 : State),
      (key 0x01 k s1 → ∃ s' iv, iv.length = 12 ∧
        GrnCompletes (.seal true) r 0 0 (iv ++ (gcmSeal k.key iv j.aad j.inp).1 ++ (gcmSeal k.key iv j.aad j.inp).2)
          (iv ++ (gcmSeal k.key iv j.aad j.inp).1 ++ (gcmSeal k.key iv j.aad j.inp).2).length s s') ∧
      (key 0x02 k s1 →
        let c := bytesAt j.inp 12 (j.inp.length - 28)
        (∀ p, gcmOpen k.key (j.inp.take 12) j.aad c (j.inp.drop (j.inp.length - 16)) = some p →
          ∃ s', GrnCompletes .grnOpen r 0 0 p p.length s s') ∧
        (gcmOpen k.key (j.inp.take 12) j.aad c (j.inp.drop (j.inp.length - 16)) = none →
          ∃ s', GrnCompletes .grnOpen r 0 1 (List.replicate c.length 0) c.length s s')) ∧
      (key 0x03 k s1 → ∃ s', GrnCompletes .wrap r 0 0 (keyWrap k.key j.inp) (keyWrap k.key j.inp).length s s') ∧
      (key 0x04 k s1 →
        (∀ p, keyUnwrap k.key j.inp = some p → ∃ s', GrnCompletes .unwrap r 0 0 p p.length s s') ∧
        (keyUnwrap k.key j.inp = none →
          ∃ s', GrnCompletes .unwrap r 0 1 (List.replicate (j.inp.length - 8) 0) (j.inp.length - 8) s s')) ∧
      (key 0x05 k s1 → keyDepth r ≤ 7 → (leafInfo s1 r.owner.toNat k [] j.inp).isSome = true →
        ∃ s', GrnCompletes .mkleaf r 0 0 (keyWrap k.key j.inp) (keyWrap k.key j.inp).length s s') ∧
      (key 0x06 k s1 → ∀ p s2, exportKey j s1 = (some p, s2) →
        ∃ s', GrnCompletes .grnExport r 0 0 (keyWrap k.key (leafPlain p.1)) (keyWrap k.key (leafPlain p.1)).length s s') ∧
      (key 0x10 k s1 → ∃ s', GrnCompletes .respond r 0 0 ((hmac k.key j.inp).take r.trunc.toNat)
        ((hmac k.key j.inp).take r.trunc.toNat).length s s') ∧
      (key 0x11 k s1 → ∃ s', GrnCompletes .check r 0 (if (hmac k.key j.inp).take r.trunc.toNat = j.aux then 0 else 2) [] 0 s s') ∧
      (key 0x12 k s1 → match (signDigest (scalarOf (leafFlag r.flags.toNat) k) (sha256 j.inp) s1).1 with
        | some sg => ∃ s', GrnCompletes (.sign true) r 0 0 sg sg.length s s'
        | none => ∃ s', exec (.sign true) s = .next s') ∧
      (key 0x13 k s1 → ∃ s', GrnCompletes .pubkey r 0 0 (publicKey (scalarOf (leafFlag r.flags.toNat) k))
        (publicKey (scalarOf (leafFlag r.flags.toNat) k)).length s s') ∧
      (key 0x14 k s1 → ∀ x, ecdhShared (scalarOf (leafFlag r.flags.toNat) k) j.inp = some x →
        ∃ s', GrnCompletes .ecdh r 0 0 x x.length s s')) ∧
    (grnServes s r 0x20 → ∃ s', GrnCompletes .hash r 0 0 (sha256 j.inp) (sha256 j.inp).length s s') ∧
    (grnServes s r 0x21 → ∃ s' bs, bs.length = r.outLen.toNat ∧ GrnCompletes (.random true) r 0 0 bs bs.length s s') ∧
    (grnServes s r 0x30 → s.grn.nonces.length ≤ 4 →
      ∃ s' n d, GrnCompletes (.nonce true) r 0 0 (bytesOf n 0 16 ++ publicKey d) (bytesOf n 0 16 ++ publicKey d).length s s' ∧
        1 ≤ d ∧ d < p256N ∧ s'.grn.nonces.getLast? = some { nonce := n, priv := BitVec.ofNat 256 d, issued := s.now } ∧
        s'.grn.nonces.length = min 4 (s.grn.nonces.length + 1)) ∧
    (∀ q ∈ [(Instr.seal false, 0x01), (.sign false, 0x12), (.random false, 0x21), (.nonce false, 0x30), (.create false, 0x31)],
      grnServes s r q.2 → ∃ s', GrnCompletes q.1 r 1 0 [] 0 s s' ∧ s'.grn.entFail = true ∧ s'.grn.slots = s.grn.slots.map (fun k =>
        if k.st = .busy then { k with st := .transit } else k) ∧ s'.grn.nonces = s.grn.nonces) ∧
    (∀ q ∈ [(Instr.seal true, 0x01), (.grnOpen, 0x02), (.wrap, 0x03), (.unwrap, 0x04), (.mkleaf, 0x05), (.grnExport, 0x06),
        (.respond, 0x10), (.check, 0x11), (.sign true, 0x12), (.pubkey, 0x13), (.ecdh, 0x14)], r.opc.toNat = q.2 →
      s.grn.grq.head? = some r → s.grn.ready = true → granaryServes s = true →
      (r.malformed = true ∨ (limpReason s 1 = false ∧ ownerServed (grnRuns s r true) r = false) ∨
        (limpReason s 1 = false ∧ rootInfo s r.owner.toNat = none)) →
      ∃ s', GrnCompletes q.1 r 0 0 (List.replicate r.outLen.toNat 0) (outSize r.form) s s' ∧ s'.guard.vlastSrc.toNat = r.src.val ∧
        vget s'.guard.vcnt r.src = satInc (vget s.guard.vcnt r.src))

/-- R406, R407, R408, R409, R410, R411, R412: a step whose fields narrow its parent's yields HMAC-SHA-256 under the
parent key over the step's message, named SHA-256 of the parent's name and the message; a path of one step under the
root finds that key and puts it into a slot; a step that breaks a rule of R406 to R410 finds none, and fills no slot.
-/
def Obligations.DerivationTree : Prop :=
  ∀ (s : State) (o : Fin 64) (m : List Byte) (root : KeyInfo) (fin : KeyInfo → Bool), m.length = 64 → rootInfo s o.val = some root →
    (root.key = (rootOf s o.val).getD [] ∧ root.usage = 8 ∧ root.alg = 1 ∧ root.notAfter = 0) ∧
    (stepForm m 1 o.val = true → narrows (dualUse s o.val) root (numAt m 42 1) (numAt m 45 1) (numAt m 48 4) (numAt m 52 8) = true →
      inTime s (numAt m 52 8) = true →
      let k : KeyInfo := { usage := numAt m 42 1, alg := numAt m 45 1, attr := numAt m 48 4, notAfter := numAt m 52 8
                           key := hmac root.key m, id := sha256 (root.id ++ m) }
      (fin k = true →
        ∃ slot s', walkPath o.val 1 m fin s = (some (k, slot), s') ∧ s'.mem = s.mem ∧
          ∀ x, slot = some x → (vget s'.grn.slots x).st ≠ .free ∧ (vget s'.grn.slots x).id = ofBytes 256 k.id ∧
            (slotOfId s k.id = none → (vget s'.grn.slots x).key.d ^^^ (vget s'.grn.slots x).key.q = ofBytes 256 k.key)) ∧
      (fin k = false → walkPath o.val 1 m fin s = (none, s))) ∧
    (stepForm m 1 o.val = false ∨
      narrows (dualUse s o.val) root (numAt m 42 1) (numAt m 45 1) (numAt m 48 4) (numAt m 52 8) = false →
      walkPath o.val 1 m fin s = (none, s))

/-- R330, R400, R405, R413, R418, R419, R426, R434, R435, R436, R437, R438, R439, R440, R441: the owner operations
under their checks; the start of the Granary, which draws a share where it is zero; nonces' end; re-masking and the
inversion in Backup, which keep every value; a completion read; and the service that queues a thread's request. -/
def Obligations.GranaryOwners : Prop :=
  ∀ (s : State),
    (∀ (r : GrnReq) (h : r.owner.toNat < 64),
      let o : Fin 64 := ⟨r.owner.toNat, h⟩
      let s0 := grnRuns s r true
      let s1 := killNonce (authNonce r.auth) s0
      let j := grnJob s r
      (∀ q ∈ [(Instr.create true, 0x31), (.delete, 0x32), (.rebind, 0x33), (.restore, 0x34)], grnServes s r q.2 →
        mayOwner s0 j q.2 r.owner.toNat = true → dcFlag r.flags.toNat = false →
        ∃ s', GrnCompletes q.1 r 0 3 [] 0 s s' ∧ s'.grn.reason = 1 ∧ s'.grn.refused = satInc s.grn.refused ∧
          s'.grn.roots = s.grn.roots ∧ s'.grn.ostate = s.grn.ostate) ∧
      (grnServes s r 0x31 → authorised s r 0x31 → importFlag r.flags.toNat = false → opState s1 0x31 (ownerState s1 o) = true →
        opParam s1 j 0x31 r.owner.toNat none = true →
        ∀ s2, incrementCounter 3 (newRoot none s1).2 = (true, s2) →
          ∃ s', OwnerOpDone (.create true) r (leBytes 2 (counterValue s2 3 % 2 ^ 16)) s s') ∧
      (grnServes s r 0x32 → authorised s r 0x32 → opState s1 0x32 (ownerState s1 o) = true →
        opParam s1 j 0x32 r.owner.toNat none = true →
        ∃ s', OwnerOpDone .delete r [] s s' ∧ rootRecord s' o.val = none ∧ rootOf s' o.val = none ∧
          ownerState s' o = (if (ownerEntry s o.val).isSome then Owner.declared else Owner.absent) ∧
          ∀ k, (vget s'.grn.slots k).st ≠ .free → (vget s'.grn.slots k).owner.toNat ≠ o.val) ∧
      (grnServes s r 0x33 → authorised s r 0x33 → opState s1 0x33 (ownerState s1 o) = true →
        opParam s1 j 0x33 r.owner.toNat none = true → (rootRecord s1 o.val).isSome = true → (rootOf s1 o.val).isSome = true →
        ∃ s', OwnerOpDone .rebind r [] s s') ∧
      (grnServes s r 0x34 → authorised s r 0x34 → opParam s1 j 0x34 r.owner.toNat none = true →
        (restoreOpen s1 = true → ∃ s' n, OwnerOpDone .restore r [n] s s') ∧
        (restoreOpen s1 = false → ∃ s', GrnCompletes .restore r 0 3 [] 0 s s' ∧ s'.grn.reason = 6))) ∧
    (∀ pufOk : Bool, s.grn.ready = false → granaryServes s = true →
      ∃ s', exec (.granaryStart pufOk) s = .next s' ∧ s'.grn.ready = true ∧ s'.grn.pufFail = !pufOk ∧
        (shareValue s ≠ 0 → shareValue s' = shareValue s ∧ s'.grn.shareNew = s.grn.shareNew) ∧
        (shareValue s = 0 → shareValue s' ≠ 0 ∧ s'.grn.shareNew = true) ∧
        (pufOk = false → ∀ o : Fin 64, (rootRecord s o.val).isSome = true → ownerState s' o = Owner.lost) ∧
        (∀ o : Fin 64, rootRecord s o.val = none →
          ownerState s' o = (if (ownerEntry s o.val).isSome then Owner.declared else Owner.absent))) ∧
    (exec .nonceExpire s = .next { s with grn := { s.grn with
      nonces := s.grn.nonces.filter fun x => decide (s.now < x.issued + 30000000000) } }) ∧
    (s.grn.ready = true → mainOn s = true → s.grn.periodAt + remaskSpan s ≤ s.now →
      ∃ s', exec .remaskPass s = .next s' ∧ shareValue s' = shareValue s ∧ (∀ o, rootOf s' o = rootOf s o) ∧
        (∀ k, (vget s'.grn.slots k).key.d ^^^ (vget s'.grn.slots k).key.q = (vget s.grn.slots k).key.d ^^^ (vget s.grn.slots k).key.q ∧
          (vget s'.grn.slots k).st = (vget s.grn.slots k).st ∧ (vget s'.grn.slots k).id = (vget s.grn.slots k).id) ∧
        s'.grn.polarity = decide ((s.grn.periods + (s.now - s.grn.periodAt) / remaskSpan s) % 2 = 0) ∧
        s'.grn.passes = satInc s.grn.passes) ∧
    (s.now < s.grn.periodAt + remaskSpan s → exec .remaskPass s = .next s) ∧
    (s.sys.mode = Mode.backup → s.bkp.held = false → s.bkp.invertAt + 900000000000 ≤ s.now →
      ∃ s', exec .backupShareInvert s = .next s' ∧ s'.bkp.share = ~~~s.bkp.share ∧ s'.bkp.mask = ~~~s.bkp.mask ∧
        shareValue s' = shareValue s ∧
        s' = { s with bkp := { s.bkp with
          share := s'.bkp.share, mask := s'.bkp.mask, invertAt := s.bkp.invertAt + 900000000000 } }) ∧
    (∀ (d : GrnDone) (rest : List GrnDone), s.grn.grc = d :: rest →
      (∀ t : Thread, d.caller = .wait t → (thr s t).stile.isSome = true →
        ∃ s', exec .granaryCompletion s = .next s' ∧ s'.grn.grc = rest ∧
          ServiceResults t (d.status.setWidth 32) d.written (d.verdict.setWidth 32) s' ∧ s'.mem = s.mem ∧
          (∀ u, u ≠ t → thr s' u = thr s u) ∧
          (∀ k ∈ d.slots, (vget s.grn.slots k).st = .transit → (∀ x ∈ rest, k ∉ x.slots) → (vget s'.grn.slots k).st = .cached)) ∧
      (∀ (g : Thread) (target addr : Word), d.caller = .flow g target addr →
        let f := target.toNat % 4096
        ((flow s f).ready = false → ∀ x : Fin 1024, freeDesc s f = some x →
          ∃ s', exec .granaryCompletion s = .next s' ∧ s'.grn.grc = rest ∧ (desc s' x).st = .queued ∧ (desc s' x).src = 4 ∧
            (desc s' x).flow.toNat = f ∧ (desc s' x).payload.extractLsb' 0 32 = addr ∧
            (desc s' x).payload.extractLsb' 32 8 = d.status ∧ (desc s' x).payload.extractLsb' 40 8 = d.verdict ∧
            (desc s' x).payload.extractLsb' 64 32 = d.written ∧ OtherDescs x s s') ∧
        ((flow s f).ready = true → oldestEntry s f (fun m => decide (m.tag = some (target.extractLsb' 16 16))) = none →
          ∀ (e : Fin 512) (x : Fin 1024), freeEntry s = some e → freeDesc s f = some x →
          ∃ s', exec .granaryCompletion s = .next s' ∧ s'.grn.grc = rest ∧ (desc s' x).st ≠ .free ∧ (desc s' x).src = 4 ∧
            (desc s' x).flow.toNat = f ∧ (desc s' x).tag = target.extractLsb' 16 16 ∧
            (desc s' x).opmask = 1#4 <<< (target.toNat / 4096 % 4) ∧ OtherDescs x s s') ∧
        ((flow s f).ready = false → freeDesc s f = none → exec .granaryCompletion s = .next s))) ∧
    (∀ t : Thread, serving s t 1 = true →
      let addr := (stileReg s t 5).toNat
      let wait := (stileReg s t 6).getLsbD 0
      let f := (stileReg s t 7).toNat % 4096
      let k := threadAsker s t (if wait then .wait t else .flow t (stileReg s t 7) (BitVec.ofNat 32 addr))
      (wait = true →
        (grnTake s k addr = .silent → ∃ s', exec (.svcGranary t) s = .next s' ∧ ServiceResults t 0 0 0 s' ∧ s'.grn = s.grn ∧
          s'.mem = s.mem) ∧
        ∀ r, grnTake s k addr = .queued r → ∃ s', exec (.svcGranary t) s = .next s' ∧
          s' = { s with grn := { s.grn with grq := s.grn.grq ++ [r] }, clk := s'.clk }) ∧
      (wait = false → completionFlowOk s k (stileReg s t 7) = false →
        ∃ s', exec (.svcGranary t) s = .next s' ∧ ServiceResults t 0 0 0 s' ∧ s'.grn = s.grn ∧ s'.mem = s.mem) ∧
      (wait = false → completionFlowOk s k (stileReg s t 7) = true → ∀ r, grnTake s k addr = .queued r →
        (0 < freeCredits (flow s f) →
          ∃ s', exec (.svcGranary t) s = .next s' ∧ ServiceResults t 0 0 0 s' ∧ s'.grn.grq = s.grn.grq ++ [r] ∧
            (flow s' f).taken = (flow s f).taken + 1 ∧ s'.mem = s.mem) ∧
        (freeCredits (flow s f) = 0 →
          ∃ s', exec (.svcGranary t) s = .next s' ∧ ServiceResults t 1 0 0 s' ∧ s'.grn = s.grn ∧ s'.mem = s.mem)))

/-! ### The ledger (21) -/

/-- R93, R460, R461, R462, R463, R464, R465, R469, R471, R474: each request at the head of LGQ is answered as its
operation says. WRITE programs the slot not in force with SEQ one higher and leaves every other byte; ERASE erases
both slots; CADVANCE refuses what is not newer or more than 64 away; LOG appends to the ring; an operation that
NV_PROT ignores answers alike and changes nothing but PROT_DROPS; in Limp reason 2 every request completes
ENCLOSURE_RESTARTING. -/
def Obligations.LedgerRequests : Prop :=
  ∀ (s : State) (r : LdgReq) (rest : List LdgReq), s.ldg.lgq = r :: rest → mainOn s = true →
    let p := r.part.toNat
    let i := r.index.toNat
    (limpReason s 2 = false →
      (r.opc = 0x01 →
        (recordSlot s p i = none →
          ∃ s', LedgerAnswers (.ledgerRead .clean) r 1 0 false (List.replicate 64 0) s s' ∧ s'.mem = s.mem) ∧
        (∀ k, recordSlot s p i = some k →
          (∃ s', LedgerAnswers (.ledgerRead .clean) r 0 (slotSeq s p k) false (slotBytesAt s p k) s s' ∧ s'.mem = s.mem) ∧
          ∀ n : Nat, ∃ s', LedgerAnswers (.ledgerRead (.corrected n)) r 0 (slotSeq s p k) false (slotBytesAt s p k) s s' ∧
            s'.mem = s.mem ∧ s'.ldg.corr = satAdd s.ldg.corr n) ∧
        ∃ s', exec (.ledgerRead .uncorrectable) s = .next s' ∧ s'.ldg.lgq = rest ∧ s'.ldg.uncorr = satInc s.ldg.uncorr) ∧
      (r.opc = 0x02 →
        let k := (recordTarget s p i).1
        let seq := (recordTarget s p i).2
        (ldgProtected s p = false →
          ∃ s', LedgerAnswers .ledgerWrite r 0 seq false [] s s' ∧ LedgerBut (slotBase p k) 64 s s' ∧
            slotBytesAt s' p k = makeSlot i r.data.length (bit s.bkp.cal.valid) (seq % 2 ^ 32) s.bkp.cal.sec.toNat r.data) ∧
        (ldgProtected s p = true →
          ∃ s', LedgerAnswers .ledgerWrite r 0 seq true [] s s' ∧ s'.mem = s.mem ∧ s'.ldg.protDrops = satInc s.ldg.protDrops)) ∧
      (r.opc = 0x03 →
        (recordSlot s p i = none → ∃ s', LedgerAnswers .ledgerErase r 1 0 false [] s s' ∧ s'.mem = s.mem) ∧
        (∀ k, recordSlot s p i = some k →
          (ldgProtected s p = false →
            ∃ s', LedgerAnswers .ledgerErase r 0 (slotSeq s p k) false [] s s' ∧ LedgerBut (slotBase p (2 * i)) 128 s s' ∧
              ∀ j, j < 128 → tabGet ledgerBlank s'.mem.ledger (slotBase p (2 * i) + j) = ledgerBlank) ∧
          (ldgProtected s p = true →
            ∃ s', LedgerAnswers .ledgerErase r 0 (slotSeq s p k) true [] s s' ∧ s'.mem = s.mem ∧
              s'.ldg.protDrops = satInc s.ldg.protDrops))) ∧
      (r.opc = 0x10 → ∃ s', LedgerAnswers .cread r 0 (counterValue s i) false [] s s' ∧ s'.mem = s.mem) ∧
      (r.opc = 0x11 →
        let v := counterValue s i
        let t := r.arg.toNat
        (t ≤ v → ∃ s', LedgerAnswers .cadvance r 2 v false [] s s' ∧ s'.mem = s.mem) ∧
        (v + 64 < t → ∃ s', LedgerAnswers .cadvance r 3 v false [] s s' ∧ s'.mem = s.mem) ∧
        (v < t → t ≤ v + 64 → ldgProtected s 2 = true →
          ∃ s', LedgerAnswers .cadvance r 0 t true [] s s' ∧ s'.mem = s.mem ∧ s'.ldg.protDrops = satInc s.ldg.protDrops) ∧
        (v < t → t ≤ v + 64 → ldgProtected s 2 = false →
          ∃ s', LedgerAnswers .cadvance r 0 t false [] s s' ∧
            ∀ h, activeHalf s i = some h → halfClean s i h → halfCount s i h + (t - v) ≤ 960 → counterValue s' i = t)) ∧
      (r.opc = 0x20 →
        (ldgProtected s 3 = false →
          ∃ s', LedgerAnswers .log r 0 (logSlot s) false [] s s' ∧ LedgerBut (slotBase 3 (logSlot s)) 64 s s' ∧
            slotBytesAt s' 3 (logSlot s) = makeSlot (r.type.toNat + 256 * r.src.toNat) r.data.length (bit s.bkp.cal.valid)
              (logNextSeq s) s.bkp.cal.sec.toNat r.data) ∧
        (ldgProtected s 3 = true →
          ∃ s', LedgerAnswers .log r 0 (logSlot s) true [] s s' ∧ s'.mem = s.mem ∧ s'.ldg.protDrops = satInc s.ldg.protDrops)) ∧
      (r.opc = 0x21 →
        (slotValid s 3 i = true →
          ∃ s', LedgerAnswers (.lread .clean) r 0 (slotSeq s 3 i) false (slotBytesAt s 3 i) s s' ∧ s'.mem = s.mem) ∧
        (slotValid s 3 i = false →
          ∃ s', LedgerAnswers (.lread .clean) r 1 0 false (List.replicate 64 0) s s' ∧ s'.mem = s.mem))) ∧
    (limpReason s 2 = true →
      ∀ q ∈ [(Instr.ledgerRead .clean, (0x01 : Byte)), (.ledgerWrite, 0x02), (.ledgerErase, 0x03), (.cread, 0x10), (.cadvance, 0x11),
          (.log, 0x20), (.lread .clean, 0x21)], r.opc = q.2 →
        ∃ s', exec q.1 s = .next s' ∧ s'.ldg.lgq = rest ∧ s'.mem = s.mem ∧
          s'.ldg.lgc = s.ldg.lgc ++ [{ caller := r.caller, status := 6, verdict := 0, value := 0, prot := false, image := [], buf := r.buf }])

/-- R330, R331, R426, R464, R466, R467, R468, R474: the hardware port's increment raises a counter by one, in the half
in use or, with none valid or 960 bits programmed, in the other; the patrol visits the next row, a weak row of P0
being written anew; a start pass visits every row; a completion reaches the thread in STILE or its flow; the service
queues a thread's request. -/
def Obligations.LedgerUpkeep : Prop :=
  ∀ (s : State), mainOn s = true →
    (∀ c : Fin 4, c.val ≠ 0 → ldgProtected s 2 = false → counterValue s c.val < 2 ^ 32 - 1 →
      ((∀ h, activeHalf s c.val = some h → halfCount s c.val h = 960 ∨ (halfCount s c.val h < 960 ∧ halfClean s c.val h)) →
        ∃ s', exec (.counterIncrement c) s = .next s' ∧ counterValue s' c.val = counterValue s c.val + 1 ∧
          LedgerBut (0x10000 + 256 * c.val) 256 s s' ∧ s' = { s with mem := s'.mem })) ∧
    (∀ c : Fin 4, c.val ≠ 0 → counterValue s c.val ≠ 2 ^ 32 - 1 → ldgProtected s 2 = true →
      exec (.counterIncrement c) s = .next { s with ldg := { s.ldg with protDrops := satInc s.ldg.protDrops } }) ∧
    (patrolRuns s = true → limpReason s 2 = false →
      let row := s.ldg.row.toNat
      (row < 1536 → (row + 1) % 64 ≠ 0 →
        (∃ s', exec (.patrolVisit false) s = .next s' ∧ s'.ldg.row.toNat = row + 1 ∧ s'.ldg.rewrites = s.ldg.rewrites ∧
          s' = { s with ldg := s'.ldg }) ∧
        (512 ≤ row → ∃ s', exec (.patrolVisit true) s = .next s' ∧ s'.ldg.row.toNat = row + 1 ∧
          s'.ldg.rewrites = satInc s.ldg.rewrites ∧ s' = { s with ldg := s'.ldg }) ∧
        (∀ k, row < 512 → recordSlot s 0 (row / 4) = some k →
          ∃ s', exec (.patrolVisit true) s = .next s' ∧ s'.ldg.rewrites = satInc s.ldg.rewrites ∧
            LedgerBut (slotBase 0 (recordTarget s 0 (row / 4)).1) 64 s s' ∧
            ((slotBytesAt s' 0 (recordTarget s 0 (row / 4)).1).drop 16) = (slotBytesAt s 0 k).drop 16 ∧
            (slotNum s' 0 (recordTarget s 0 (row / 4)).1 4 4) = (slotSeq s 0 k + 1) % 2 ^ 32)) ∧
      (row = 1535 → ∃ s', exec (.patrolVisit false) s = .next s' ∧ s'.ldg.row = 0 ∧
        LedgerBut (slotBase 0 (recordTarget s 0 1).1) 64 s s')) ∧
    (s.ldg.passDue = true → limpReason s 2 = false →
      ∃ s', exec (.startPass []) s = .next s' ∧ s'.ldg.row = 0 ∧ s'.ldg.passDue = false ∧ s'.ldg.rewrites = s.ldg.rewrites ∧
        slotBytesAt s' 0 (recordTarget s 0 1).1 = makeSlot 1 9 (bit s.bkp.cal.valid) ((recordTarget s 0 1).2 % 2 ^ 32)
          s.bkp.cal.sec.toNat (leBytes 2 0 ++ leBytes 6 s.bkp.cal.sec.toNat ++ leBytes 1 (bit s.bkp.cal.valid)) ∧
        LedgerBut (slotBase 0 (recordTarget s 0 1).1) 64 s s') ∧
    (s.ldg.passDue = false → ∀ l, exec (.startPass l) s = .next s) ∧
    (∀ (d : LdgDone) (rest : List LdgDone), s.ldg.lgc = d :: rest →
      (∀ t : Thread, d.caller = .wait t → (thr s t).stile.isSome = true →
        ∃ s', exec .ledgerCompletion s = .next s' ∧ s'.ldg.lgc = rest ∧
          ServiceResults t (d.status.setWidth 32) d.value (d.verdict.setWidth 32) s' ∧
          sramRead s' d.buf.toNat d.image.length = d.image ∧ SramBut d.buf.toNat d.image.length s s' ∧
          (∀ u, u ≠ t → thr s' u = thr s u) ∧ s'.drill = s.drill) ∧
      (∀ (g : Thread) (target addr : Word), d.caller = .flow g target addr → (flow s (target.toNat % 4096)).ready = false →
        let f := target.toNat % 4096
        (∀ x : Fin 1024, freeDesc s f = some x →
          ∃ s', exec .ledgerCompletion s = .next s' ∧ s'.ldg.lgc = rest ∧ (desc s' x).st = .queued ∧ (desc s' x).src = 7 ∧
            (desc s' x).flow.toNat = f ∧ (desc s' x).payload.extractLsb' 0 32 = addr ∧
            (desc s' x).payload.extractLsb' 32 8 = d.status ∧ (desc s' x).payload.extractLsb' 40 8 = d.verdict ∧
            (desc s' x).payload.extractLsb' 64 32 = d.value ∧ OtherDescs x s s') ∧
        (freeDesc s f = none → exec .ledgerCompletion s = .next s)) ∧
      (d.caller = .fold → d.prot = true → ∃ s', exec .ledgerCompletion s = .next s' ∧ s'.ldg.lgc = rest ∧ s'.chs = s.chs)) ∧
    (∀ t : Thread, serving s t 2 = true →
      let addr := (stileReg s t 5).toNat
      let k := threadAsker s t (.wait t)
      ((stileReg s t 6).getLsbD 0 = true →
        (ldgTake s k addr = .silent → ∃ s', exec (.svcLedger t) s = .next s' ∧ ServiceResults t 0 0 0 s' ∧ s'.ldg = s.ldg ∧
          s'.mem = s.mem) ∧
        (ldgTake s k addr = .violation → ∃ s', exec (.svcLedger t) s = .next s' ∧ ServiceResults t 0 0 0 s' ∧ s'.ldg = s.ldg ∧
          s'.guard.vlastSrc.toNat = t.val ∧ s'.guard.vlastKind = 2) ∧
        (ldgTake s k addr = .busy → ∃ s', exec (.svcLedger t) s = .next s' ∧ ServiceResults t 1 0 0 s' ∧ s'.ldg = s.ldg) ∧
        ∀ r, ldgTake s k addr = .queued r → ∃ s', exec (.svcLedger t) s = .next s' ∧
          s' = { s with ldg := { s.ldg with lgq := s.ldg.lgq ++ [r] }, clk := s'.clk }) ∧
      ((stileReg s t 6).getLsbD 0 = false →
        let f := (stileReg s t 7).toNat % 4096
        let k := threadAsker s t (.flow t (stileReg s t 7) (BitVec.ofNat 32 addr))
        (completionFlowOk s k (stileReg s t 7) = false →
          ∃ s', exec (.svcLedger t) s = .next s' ∧ ServiceResults t 0 0 0 s' ∧ s'.ldg = s.ldg ∧ s'.drill = s.drill) ∧
        ∀ r, completionFlowOk s k (stileReg s t 7) = true → ldgTake s k addr = .queued r →
          (0 < freeCredits (flow s f) →
            ∃ s', exec (.svcLedger t) s = .next s' ∧ ServiceResults t 0 0 0 s' ∧ s'.ldg.lgq = s.ldg.lgq ++ [r] ∧
              (flow s' f).taken = (flow s f).taken + 1 ∧ s'.mem = s.mem) ∧
          (freeCredits (flow s f) = 0 →
            ∃ s', exec (.svcLedger t) s = .next s' ∧ ServiceResults t 1 0 0 s' ∧ s'.ldg = s.ldg ∧ s'.mem = s.mem)))

/-! ### The Headland and the register map (22, 23) -/

/-- R106, R108, R117, R481, R482, R483: the ROM Headland answers INFO always and every other command ER 03 outside
Store; in Store BUF, NONCE, PROV, SLOTA and FIELD do what they say, PROV blowing the builder's key hash and FIELD the
lifecycle fuses. -/
def Obligations.RomHeadland : Prop :=
  ∀ (s : State), romRuns s = true →
    OnlyAnswers .romInfo { values := infoValues s } s ∧
    (romOpen s = false → ∀ c ∈ [Instr.romBuf 0 [0], .romNonce, .prov, .slotaErase, .slotaWrite 0 4, .fieldCmd],
      OnlyAnswers c { code := 3 } s) ∧
    (romOpen s = true →
      (∀ (off : Nat) (data : List Byte), off % 4 = 0 → 1 ≤ data.length → data.length ≤ 64 → off + data.length ≤ 512 →
        ∃ s', Answers (.romBuf off data) {} s s' ∧ bytesOf s'.hld.buf off data.length = data ∧ s' = { s with hld := s'.hld } ∧
          ∀ k, k < 512 → k < off ∨ off + data.length ≤ k → byteAt s'.hld.buf k = byteAt s.hld.buf k) ∧
      (∀ (off : Nat) (data : List Byte), off % 4 ≠ 0 ∨ data = [] ∨ 64 < data.length ∨ 512 < off + data.length →
        OnlyAnswers (.romBuf off data) { code := 1 } s) ∧
      (∃ s' n, Answers .romNonce { bytes := bytesOf n 0 16 } s s' ∧ s'.hld.romNonce = some (n, s.now) ∧ liveRomNonce s' = some n) ∧
      (liveRomNonce s = none →
        ∃ s', Answers .prov { code := 3 } s s' ∧ s'.hld.refused = some .nonce ∧ s'.fuse = s.fuse ∧ s'.hld.buf = 0) ∧
      (∀ n, liveRomNonce s = some n →
        let key := hldBuf s 0 64
        let ok := ecdsaVerify key (sha256 (provMessage s n)) (hldBuf s 64 64)
        (ok = false → ∃ s', Answers .prov { code := 3 } s s' ∧ s'.hld.refused = some .signature ∧ s'.hld.romNonce = none ∧
          s'.fuse = s.fuse) ∧
        (ok = true → builderKh s ≠ 0 → ∃ s', Answers .prov { code := 3 } s s' ∧ s'.hld.refused = some .provisioned ∧
          s'.fuse = s.fuse) ∧
        (ok = true → builderKh s = 0 → ∃ s', Answers .prov {} s s' ∧ s'.hld.romNonce = none ∧ s'.hld.buf = 0 ∧
          builderKh s' = leNat (sha256 key) ∧ (∀ k, k < 256 ∨ 512 ≤ k → s'.fuse.array.getLsbD k = s.fuse.array.getLsbD k) ∧
          ∀ k, k < 256 → (leNat (sha256 key)).testBit k = true → s'.fuse.array.getLsbD (256 + k) = true)) ∧
      (∃ s', Answers .slotaErase {} s s' ∧ (∀ k, k < 0x40000 → tabGet norBlank s'.mem.store k = norBlank) ∧
        (∀ k, 0x40000 ≤ k → tabGet norBlank s'.mem.store k = tabGet norBlank s.mem.store k) ∧ s'.hld.slotA = []) ∧
      (∀ (off len : Nat), 4 ≤ len → len ≤ 512 → len % 4 = 0 → off + len ≤ 0x40000 → s.hld.slotA = [] →
        (∀ k, k < len → tabGet norBlank s.mem.store (off + k) = norBlank) →
        ∃ s', Answers (.slotaWrite off len) {} s s' ∧ s'.hld.buf = 0 ∧
          (∀ k, k < len → tabGet norBlank s'.mem.store (off + k) = byteAt s.hld.buf k) ∧
          ∀ k, k < off ∨ off + len ≤ k → tabGet norBlank s'.mem.store k = tabGet norBlank s.mem.store k) ∧
      (let errA := Config.slotError s.now false
        let errB := Config.slotError s.now true
        (builderKh s = 0 → ∃ s', Answers .fieldCmd { code := 3 } s s' ∧ s'.hld.refused = some .noKey ∧ s'.fuse = s.fuse) ∧
        (builderKh s ≠ 0 → s.fuse.torn = true ∨ (enclCode s false errA ≠ 0 ∧ enclCode s true errB ≠ 0) →
          ∃ s', Answers .fieldCmd { code := 3 } s s' ∧ s'.hld.refused = some .noImage ∧ s'.fuse = s.fuse) ∧
        (builderKh s ≠ 0 → s.fuse.torn = false → enclCode s false errA = 0 ∨ enclCode s true errB = 0 →
          ∃ s', exec .fieldCmd s = .next s' ∧ ColdStart 3 s.sys.mode (romBlow [1088, 1089, 1090] s) s' ∧
            s'.fuse.array.getLsbD 1088 = true ∧ s'.fuse.array.getLsbD 1089 = true ∧ s'.fuse.array.getLsbD 1090 = true))) ∧
    (liveRomNonce s = none → exec .provNonceExpire s = .next { s with hld := { s.hld with romNonce := none } }) ∧
    (liveRomNonce s ≠ none → exec .provNonceExpire s = .next s)

/-- R465, R466, R480, R481, R482, R484, R485, R486, R487, R488, R490: the resident Headland answers each of its
commands, ER 03 where the mode or the granted scopes close it; an accepted certificate advances counter 0, opens its
scopes and enters Service; a refused one changes nothing but LAST_REFUSAL; a partial line ends unanswered. -/
def Obligations.ResidentHeadland : Prop :=
  ∀ (s : State),
    exec .lineTimeout s = .next s ∧
    (romRuns s = true ∨ residentRuns s = true →
      OnlyAnswers (.headlandUnknownLine true) { code := 1 } s ∧ OnlyAnswers (.headlandUnknownLine false) { code := 2 } s) ∧
    (residentRuns s = true →
      OnlyAnswers .info { values := infoValues s ++ [(seedStsWord s).toNat, (hldStsWord s).toNat] } s ∧
      OnlyAnswers .time { values := [s.bkp.cal.sec.toNat, (calStsWord s.bkp.cal).toNat] } s ∧
      (∀ (t : Thread) (a v : Word) (n : Chan), s.sys.mode = Mode.lockdown → ∀ c ∈ [Instr.buf 0 [0], .hlNonce true, .cert, .exit,
          .rd a 1, .wr a v, .halt t, .go t, .regs t, .hlStageOpen, .unretire n, .bkprst, .vault 0x31 0 0 0 true],
        OnlyAnswers c { code := 3 } s) ∧
      (∀ (t : Thread) (a v : Word) (n : Chan), s.hld.scope = 0 ∨ s.sys.mode ≠ Mode.service → limpReason s 1 = false →
        ∀ c ∈ [Instr.rd a 1, .wr a v, .halt t, .go t, .regs t, .hlStageOpen, .hlStageWrite 0 4, .hlStageCheck false, .hlStageActivate,
          .hlStageAbort, .unretire n, .bkprst, .vault 0x31 0 0 0 true], OnlyAnswers c { code := 3 } s)) ∧
    (residentRuns s = true → s.sys.mode ≠ Mode.lockdown →
      (∀ (off : Nat) (data : List Byte), off % 4 = 0 → 1 ≤ data.length → data.length ≤ 64 → off + data.length ≤ 512 →
        ∃ s', Answers (.buf off data) {} s s' ∧ bytesOf s'.hld.buf off data.length = data ∧ s' = { s with hld := s'.hld }) ∧
      (s.grn.ready = true → granaryServes s = true → s.grn.grq.length < 32 → limpReason s 1 = false →
        (∃ s' n d, Answers (.hlNonce true) { bytes := bytesOf n 0 16 ++ publicKey d } s s' ∧ 1 ≤ d ∧ d < p256N ∧
          s'.grn.nonces.getLast? = some { nonce := n, priv := BitVec.ofNat 256 d, issued := s.now } ∧ s'.mem = s.mem) ∧
        ∃ s', Answers (.hlNonce false) { code := 4 } s s' ∧ s'.grn.nonces = s.grn.nonces ∧ s'.grn.entFail = true) ∧
      (certMode s = true →
        let c := hldBuf s 0 192
        let k := certCode (bufTaken s) c
        (k = 0 → ∃ s', exec .cert s = .next s' ∧ s'.sys.mode = Mode.service ∧ s'.hld.scope = grantedSet s c ∧ s'.hld.scope ≠ 0 ∧
          (s.sys.mode ≠ Mode.service → s'.sys.serviceFrom = s.sys.mode ∧ s'.sys.prev = s.sys.mode) ∧
          s'.hld.endSec.toNat = numAt c 24 6 ∧ s'.hld.accepted = satInc s.hld.accepted ∧ s'.hld.buf = 0 ∧
          s'.hld.answer = { values := [(grantedSet s c).toNat, numAt c 24 8] } ∧
          ∀ h, activeHalf s 0 = some h → halfClean s 0 h → halfCount s 0 h + (numAt c 32 4 - counterValue s 0) ≤ 960 →
            counterValue s' 0 = numAt c 32 4) ∧
        (k ≠ 0 → ∃ s', Answers .cert { code := BitVec.ofNat 8 (0x10 + k) } s s' ∧ s'.hld.lastRefusal.toNat = k ∧ 1 ≤ k ∧ k ≤ 7 ∧
          s'.sys = s.sys ∧ s'.mem = s.mem ∧ s'.hld.scope = s.hld.scope ∧ s'.hld.endSec = s.hld.endSec ∧ s'.hld.buf = 0)) ∧
      (s.sys.mode = Mode.service → ∃ s', Answers .exit {} s s' ∧ s'.sys.mode = s.sys.serviceFrom ∧ s'.hld.scope = 0) ∧
      (s.sys.mode ≠ Mode.service → OnlyAnswers .exit { code := 3 } s) ∧
      (granted s 0 = true →
        (∀ (a : Word) (n : Nat), a.toNat % 4 = 0 → 1 ≤ n → n ≤ 16 → inSram a.toNat (4 * n) = true →
          (∀ i, i < n → guardLets s .headland permR (a.toNat + 4 * i) 4 = true) →
          OnlyAnswers (.rd a n) { values := (List.range n).map fun i => sramWordAt s (a.toNat + 4 * i) } s) ∧
        (∀ (a : Word) (n : Nat), a.toNat % 4 ≠ 0 ∨ n = 0 ∨ 16 < n → OnlyAnswers (.rd a n) { code := 1 } s)) ∧
      (granted s 1 = true → ∀ (a v : Word),
        (a.toNat % 4 = 0 → inSram a.toNat 4 = true → guardLets s .headland permW a.toNat 4 = true →
          ∃ s', Answers (.wr a v) {} s s' ∧ sramRead s' a.toNat 4 = bytesOf v 0 4 ∧ SramBut a.toNat 4 s s' ∧
            s' = { s with hld := s'.hld, mem := s'.mem, cache := s'.cache }) ∧
        (a.toNat % 4 ≠ 0 → OnlyAnswers (.wr a v) { code := 1 } s)) ∧
      (granted s 3 = true → ∀ t : Thread,
        (s.hld.halt.getLsbD t.val = false →
          ∃ s', Answers (.halt t) {} s s' ∧ s'.hld.halt.getLsbD t.val = true ∧ (thr s' t).ext.ipend.getLsbD 4 = true ∧
            (thr s' t).pc = (thr s t).pc ∧ ∀ u, u ≠ t → thr s' u = thr s u) ∧
        (s.hld.halt.getLsbD t.val = true → OnlyAnswers (.halt t) {} s) ∧
        ((thr s t).debug = true →
          ∃ s', Answers (.go t) {} s s' ∧ (thr s' t).debug = false ∧ (thr s' t).inInt = false ∧ s'.hld.halt.getLsbD t.val = false ∧
            (thr s' t).pc = (thr s t).ext.now.epc &&& 0xFFFFFFFC ∧ ∀ u, u ≠ t → thr s' u = thr s u) ∧
        ((thr s t).debug = false → s.hld.halt.getLsbD t.val = false → OnlyAnswers (.go t) {} s) ∧
        ((thr s t).debug = false → s.hld.halt.getLsbD t.val = true →
          ∃ s', Answers (.go t) {} s s' ∧ (thr s' t).ext.ipend.getLsbD 4 = false ∧ s'.hld.halt.getLsbD t.val = false ∧
            (thr s' t).pc = (thr s t).pc ∧ ∀ u, u ≠ t → thr s' u = thr s u) ∧
        ((thr s t).debug = true → ∃ v, OnlyAnswers (.regs t) { values := v } s ∧ v.length = 35 ∧
          (∀ k : Fin 32, v[k.val]? = some (gpr s t (BitVec.ofNat 5 k.val)).toNat) ∧
          v[33]? = some (thr s t).ext.now.epc.toNat ∧ v[34]? = some (thr s t).ext.now.ests.toNat)))

/-- R79, R143, R144, R242, R314, R444, R484, R490, R491, R492: the staging commands act on the Headland's session;
UNRETIRE, BKPRST and VAULT carry out their operations under their scopes; DBGACC reads and writes where TAP is granted
and is nothing elsewhere; BRK under scope HALT halts its thread in the DEBUG handler. -/
def Obligations.HeadlandOperations : Prop :=
  ∀ (s : State),
    (residentRuns s = true → s.sys.mode ≠ Mode.lockdown →
      (stageOpenTo s = true →
        (s.seed.wait = .idle → s.seed.open_ = false ∨ s.seed.source = 1 →
          ∃ s', exec .hlStageOpen s = .next s' ∧ s'.seed.open_ = true ∧ s'.seed.source = 1 ∧ s'.seed.wait = .erasing none ∧
            s'.seed.result = 0 ∧ s'.hld.answers = s.hld.answers ∧
            ∀ k, k < seedAreaLen → tabGet norBlank s'.mem.store (stagingBase + k) = norBlank) ∧
        (s.seed.wait ≠ .idle ∨ (s.seed.open_ = true ∧ s.seed.source ≠ 1) → OnlyAnswers .hlStageOpen { code := 4 } s) ∧
        (holdsStage s 1 = true → s.seed.wait = .idle →
          (∀ (off len : Nat), 4 ≤ len → len ≤ 512 → off % 4 = 0 → off + len ≤ seedAreaLen → s.seed.written = [] →
            (∀ k, k < len → tabGet norBlank s.mem.store (stagingBase + off + k) = norBlank) →
            ∃ s', Answers (.hlStageWrite off len) {} s s' ∧ s'.hld.buf = 0 ∧ s'.seed.checkedLast = false ∧
              (∀ k, k < len → tabGet norBlank s'.mem.store (stagingBase + off + k) = byteAt s.hld.buf k) ∧
              ∀ k, k < stagingBase + off ∨ stagingBase + off + len ≤ k →
                tabGet norBlank s'.mem.store k = tabGet norBlank s.mem.store k) ∧
          (∀ err : Bool, ∃ s', Answers (.hlStageCheck err) {} s s' ∧ s'.mem = s.mem ∧ s'.seed.checkedLast = true ∧
            s'.seed.result = (if seedCode s stagingBase err = 0 then 1 else 2)) ∧
          (s.seed.result = 1 → s.seed.checkedLast = true →
            ∃ s', exec .hlStageActivate s = .next s' ∧ s'.hld.answers = s.hld.answers ∧
              s'.seed.wait = .copying none (if limpReason s 1 then false else !s.seed.slot)) ∧
          (s.seed.result ≠ 1 ∨ s.seed.checkedLast = false → OnlyAnswers .hlStageActivate { code := 4 } s) ∧
          ∃ s', Answers .hlStageAbort {} s s' ∧ s'.seed.open_ = false ∧ s'.seed.source = 0) ∧
        (holdsStage s 1 = false → ∀ err : Bool, OnlyAnswers (.hlStageCheck err) {} s ∧ OnlyAnswers .hlStageActivate {} s ∧
          OnlyAnswers .hlStageAbort {} s)) ∧
      (granted s 6 = true →
        (∀ n : Chan, (isRetired s n = true → ∃ s', Answers (.unretire n) {} s s' ∧ isRetired s' n = false ∧
            ∀ m, furrowOf m ≠ furrowOf n → isRetired s' m = isRetired s m) ∧
          (isRetired s n = false → OnlyAnswers (.unretire n) {} s)) ∧
        ∃ s', Answers .bkprst {} s s' ∧ BackupReset 3 s s' ∧ s'.sys.mode = s.sys.serviceFrom ∧ s'.hld.scope = 0) ∧
      (granted s 7 = true → ∀ (op : Byte) (o : BitVec 6) (inlen auxlen : Nat) (ok : Bool),
        (vaultFormOk op.toNat inlen auxlen = false → OnlyAnswers (.vault op o inlen auxlen ok) { code := 1 } s) ∧
        (vaultFormOk op.toNat inlen auxlen = true →
          (s.grn.ready = false → ∃ s', Answers (.vault op o inlen auxlen ok) { code := 4 } s s' ∧ s'.grn = s.grn) ∧
          (s.grn.ready = true → granaryServes s = true → s.grn.grq.length < 32 →
            let j := headlandJob op.toNat (if op = 0x31 ∧ inlen ≠ 0 then 6 else 2) o.toNat (hldBuf s 0 320) (hldBuf s 320 inlen)
              (hldBuf s (320 + inlen) auxlen)
            ∀ r s1, runJob j ok (bufTaken s) = (r, s1) → r.status = 0 →
              ∃ s', Answers (.vault op o inlen auxlen ok)
                { values := [r.verdict.toNat, s1.grn.reason.toNat], bytes := r.out } s s' ∧ s'.mem = s1.mem ∧ s'.hld.buf = 0 ∧
                s'.grn.cmds = satInc s1.grn.cmds)))) ∧
    (mainOn s = true → ∀ (data a : Word),
      (granted s 4 = true →
        (scopeHas s 0 = true → a.toNat % 4 = 0 → inSram a.toNat 4 = true → guardLets s .tap permR a.toNat 4 = true →
          ∃ s', exec (.dbgacc 1 data a) s = .next s' ∧ s'.hld.tapData.toNat = sramWordAt s a.toNat ∧ s'.hld.tapStatus = 0 ∧
            s' = { s with hld := s'.hld, clk := s'.clk }) ∧
        (scopeHas s 0 = false → exec (.dbgacc 1 data a) s = .next { s with hld := { s.hld with tapStatus := 2 } }) ∧
        (scopeHas s 1 = true → a.toNat % 4 = 0 → inSram a.toNat 4 = true → guardLets s .tap permW a.toNat 4 = true →
          ∃ s', exec (.dbgacc 2 data a) s = .next s' ∧ sramRead s' a.toNat 4 = bytesOf data 0 4 ∧ SramBut a.toNat 4 s s' ∧
            s'.hld.tapStatus = 0) ∧
        (scopeHas s 1 = false → exec (.dbgacc 2 data a) s = .next { s with hld := { s.hld with tapStatus := 2 } })) ∧
      (granted s 4 = false → ∀ op : BitVec 2, exec (.dbgacc op data a) s = .next s)) ∧
    (∀ (t : Thread) (imm : Half), canRun s t = true → (thr s t).inInt = false → scopeHas s 3 = true → enclFree s = true →
      s.cores.loadingE = false → s.hld.halt.getLsbD t.val = false → intEnabled s t 4 = true →
      ∃ s', exec (.brk t imm) s = .next s' ∧ (thr s' t).debug = true ∧ (thr s' t).inInt = true ∧ (thr s' t).run = .running ∧
        (thr s' t).pc = s.cores.vbaseE + 384 ∧ (thr s' t).ext.now.epc = pcOf s t + 4 ∧ (thr s' t).task = (thr s t).task ∧
        s'.hld.halt.getLsbD t.val = true ∧ (thr s' t).ext.ipend.getLsbD 4 = false ∧ SameRegs t s s' ∧
        ∀ u, u ≠ t → thr s' u = thr s u)

/-- R8, R283, R333, R335, R339, R361, R370, R381, R485, R494, R495, R502: a register write by a requester: SRAM takes
its bytes, flash nothing, an address that the map does not name counts BLOCK and one its guard refuses GUARD; VBASE,
TRESULT and a tile's sticky flags take writes by those who may; a host's write reaches HB.CHSEL. -/
def Obligations.RegisterWrites : Prop :=
  ∀ (s : State) (r : Req) (a v : Word), mainOn s = true → writerOpen s r = true → (∀ b, r ≠ .bay b) →
    (a.toNat % 4 = 0 → guardLets s r permW a.toNat 4 = true →
      (inSram a.toNat 4 = true →
        ∃ s', exec (.registerWrite r a .word v) s = .next s' ∧ sramRead s' a.toNat 4 = bytesOf v 0 4 ∧ SramBut a.toNat 4 s s' ∧
          s' = { s with mem := s'.mem, cache := s'.cache }) ∧
      (inFlash a.toNat 4 = true → exec (.registerWrite r a .word v) s = .next s)) ∧
    (a.toNat % 4 = 0 → mapped a.toNat = false →
      RefusedSilently (.registerWrite r a .word v) r s ∧
        ∃ s', exec (.registerWrite r a .word v) s = .next s' ∧ s'.guard.vlastKind = 2 ∧ s'.guard.vlastAddr = a) ∧
    (a.toNat % 4 = 0 → mapped a.toNat = true → 0x8000 ≤ a.toNat → guardLets s r permW a.toNat 4 = false →
      RefusedSilently (.registerWrite r a .word v) r s ∧
        ∃ s', exec (.registerWrite r a .word v) s = .next s' ∧ s'.guard.vlastKind = 1 ∧ s'.guard.vlastAddr = a) ∧
    (a.toNat % 4 ≠ 0 → exec (.registerWrite r a .word v) s = .next s) ∧
    (passesGuard s r 0x57000000 = true →
      (isEncl s r = true → baseOk s true v.toNat = true →
        exec (.registerWrite r 0x57000000 .word v) s = .next { s with cores := { s.cores with vbaseE := v } }) ∧
      (isEncl s r = true → baseOk s true v.toNat = false → exec (.registerWrite r 0x57000000 .word v) s = .next s) ∧
      (isEncl s r = false → RefusedSilently (.registerWrite r 0x57000000 .word v) r s)) ∧
    (∀ t : Tile, passesGuard s r (BitVec.ofNat 32 (0x57008104 + 16 * t.val)) = true → tileRegOpen s r t = true →
      ∃ s', exec (.registerWrite r (BitVec.ofNat 32 (0x57008104 + 16 * t.val)) .word v) s = .next s' ∧
        tile s' t = { tile s t with flags := (tile s t).flags &&& ~~~(v.extractLsb' 1 4) } ∧
        (∀ u, u ≠ t → tile s' u = tile s u) ∧ s' = { s with tile := { s.tile with tiles := s'.tile.tiles } }) ∧
    (∀ t : Thread, passesGuard s (.thread t) (BitVec.ofNat 32 (0x53040000 + 8 * t.val)) = true →
      ∃ s', exec (.registerWrite (.thread t) (BitVec.ofNat 32 (0x53040000 + 8 * t.val)) .word v) s = .next s' ∧
        (thr s' t).result.toNat = (thr s t).result.toNat / 2 ^ 32 * 2 ^ 32 + v.toNat ∧
        (∀ u, u ≠ t → thr s' u = thr s u)) ∧
    (∀ b : Bay, hostReaches s b = true →
      ∃ s', exec (.registerWrite (.bay b) 0x10 .word v) s = .next s' ∧ OnlyBay b s s' ∧
        bay s' b = { bay s b with chsel := v.setWidth 7 })
end

