-- ==== Sys2Proof/Laws/Keeps.lean ====
section
/-! SUPPORT. Frames: names for "everything but these parts of the state is as before", and how a choice and a fold carry
a part along. -/

namespace Sys2Proof.Machine

theorem snd_of {α : Type} {p : α × State} {a : α} {s' : State} (h : p = (a, s')) : s' = p.2 := by rw [h]

@[simp] theorem ite_now (p : Prop) [Decidable p] (a b : State) :
    (if p then a else b).now = if p then a.now else b.now := apply_ite _ _ _ _

@[simp] theorem ite2_now {α : Type} (p : Prop) [Decidable p] (a b : α × State) :
    (if p then a else b).2.now = if p then a.2.now else b.2.now := by split <;> rfl

@[simp] theorem foldl_now {α : Type} (l : List α) (f : State → α → State) (s : State) (h : ∀ s x, (f s x).now = s.now) :
    (l.foldl f s).now = s.now := by
  induction l generalizing s with
  | nil => rfl
  | cons x t ih => rw [List.foldl_cons, ih, h]

@[simp] theorem ite_draws (p : Prop) [Decidable p] (a b : State) :
    (if p then a else b).draws = if p then a.draws else b.draws := apply_ite _ _ _ _

@[simp] theorem ite2_draws {α : Type} (p : Prop) [Decidable p] (a b : α × State) :
    (if p then a else b).2.draws = if p then a.2.draws else b.2.draws := by split <;> rfl

@[simp] theorem foldl_draws {α : Type} (l : List α) (f : State → α → State) (s : State) (h : ∀ s x, (f s x).draws = s.draws) :
    (l.foldl f s).draws = s.draws := by
  induction l generalizing s with
  | nil => rfl
  | cons x t ih => rw [List.foldl_cons, ih, h]

@[simp] theorem ite_pow (p : Prop) [Decidable p] (a b : State) :
    (if p then a else b).pow = if p then a.pow else b.pow := apply_ite _ _ _ _

@[simp] theorem ite2_pow {α : Type} (p : Prop) [Decidable p] (a b : α × State) :
    (if p then a else b).2.pow = if p then a.2.pow else b.2.pow := by split <;> rfl

@[simp] theorem foldl_pow {α : Type} (l : List α) (f : State → α → State) (s : State) (h : ∀ s x, (f s x).pow = s.pow) :
    (l.foldl f s).pow = s.pow := by
  induction l generalizing s with
  | nil => rfl
  | cons x t ih => rw [List.foldl_cons, ih, h]

@[simp] theorem ite_pins (p : Prop) [Decidable p] (a b : State) :
    (if p then a else b).pins = if p then a.pins else b.pins := apply_ite _ _ _ _

@[simp] theorem ite2_pins {α : Type} (p : Prop) [Decidable p] (a b : α × State) :
    (if p then a else b).2.pins = if p then a.2.pins else b.2.pins := by split <;> rfl

@[simp] theorem foldl_pins {α : Type} (l : List α) (f : State → α → State) (s : State) (h : ∀ s x, (f s x).pins = s.pins) :
    (l.foldl f s).pins = s.pins := by
  induction l generalizing s with
  | nil => rfl
  | cons x t ih => rw [List.foldl_cons, ih, h]

@[simp] theorem ite_bkp (p : Prop) [Decidable p] (a b : State) :
    (if p then a else b).bkp = if p then a.bkp else b.bkp := apply_ite _ _ _ _

@[simp] theorem ite2_bkp {α : Type} (p : Prop) [Decidable p] (a b : α × State) :
    (if p then a else b).2.bkp = if p then a.2.bkp else b.2.bkp := by split <;> rfl

@[simp] theorem foldl_bkp {α : Type} (l : List α) (f : State → α → State) (s : State) (h : ∀ s x, (f s x).bkp = s.bkp) :
    (l.foldl f s).bkp = s.bkp := by
  induction l generalizing s with
  | nil => rfl
  | cons x t ih => rw [List.foldl_cons, ih, h]

@[simp] theorem ite_sys (p : Prop) [Decidable p] (a b : State) :
    (if p then a else b).sys = if p then a.sys else b.sys := apply_ite _ _ _ _

@[simp] theorem ite2_sys {α : Type} (p : Prop) [Decidable p] (a b : α × State) :
    (if p then a else b).2.sys = if p then a.2.sys else b.2.sys := by split <;> rfl

@[simp] theorem foldl_sys {α : Type} (l : List α) (f : State → α → State) (s : State) (h : ∀ s x, (f s x).sys = s.sys) :
    (l.foldl f s).sys = s.sys := by
  induction l generalizing s with
  | nil => rfl
  | cons x t ih => rw [List.foldl_cons, ih, h]

@[simp] theorem ite_fuse (p : Prop) [Decidable p] (a b : State) :
    (if p then a else b).fuse = if p then a.fuse else b.fuse := apply_ite _ _ _ _

@[simp] theorem ite2_fuse {α : Type} (p : Prop) [Decidable p] (a b : α × State) :
    (if p then a else b).2.fuse = if p then a.2.fuse else b.2.fuse := by split <;> rfl

@[simp] theorem foldl_fuse {α : Type} (l : List α) (f : State → α → State) (s : State) (h : ∀ s x, (f s x).fuse = s.fuse) :
    (l.foldl f s).fuse = s.fuse := by
  induction l generalizing s with
  | nil => rfl
  | cons x t ih => rw [List.foldl_cons, ih, h]

@[simp] theorem ite_boot (p : Prop) [Decidable p] (a b : State) :
    (if p then a else b).boot = if p then a.boot else b.boot := apply_ite _ _ _ _

@[simp] theorem ite2_boot {α : Type} (p : Prop) [Decidable p] (a b : α × State) :
    (if p then a else b).2.boot = if p then a.2.boot else b.2.boot := by split <;> rfl

@[simp] theorem foldl_boot {α : Type} (l : List α) (f : State → α → State) (s : State) (h : ∀ s x, (f s x).boot = s.boot) :
    (l.foldl f s).boot = s.boot := by
  induction l generalizing s with
  | nil => rfl
  | cons x t ih => rw [List.foldl_cons, ih, h]

@[simp] theorem ite_seed (p : Prop) [Decidable p] (a b : State) :
    (if p then a else b).seed = if p then a.seed else b.seed := apply_ite _ _ _ _

@[simp] theorem ite2_seed {α : Type} (p : Prop) [Decidable p] (a b : α × State) :
    (if p then a else b).2.seed = if p then a.2.seed else b.2.seed := by split <;> rfl

@[simp] theorem foldl_seed {α : Type} (l : List α) (f : State → α → State) (s : State) (h : ∀ s x, (f s x).seed = s.seed) :
    (l.foldl f s).seed = s.seed := by
  induction l generalizing s with
  | nil => rfl
  | cons x t ih => rw [List.foldl_cons, ih, h]

@[simp] theorem ite_clk (p : Prop) [Decidable p] (a b : State) :
    (if p then a else b).clk = if p then a.clk else b.clk := apply_ite _ _ _ _

@[simp] theorem ite2_clk {α : Type} (p : Prop) [Decidable p] (a b : α × State) :
    (if p then a else b).2.clk = if p then a.2.clk else b.2.clk := by split <;> rfl

@[simp] theorem foldl_clk {α : Type} (l : List α) (f : State → α → State) (s : State) (h : ∀ s x, (f s x).clk = s.clk) :
    (l.foldl f s).clk = s.clk := by
  induction l generalizing s with
  | nil => rfl
  | cons x t ih => rw [List.foldl_cons, ih, h]

@[simp] theorem ite_chs (p : Prop) [Decidable p] (a b : State) :
    (if p then a else b).chs = if p then a.chs else b.chs := apply_ite _ _ _ _

@[simp] theorem ite2_chs {α : Type} (p : Prop) [Decidable p] (a b : α × State) :
    (if p then a else b).2.chs = if p then a.2.chs else b.2.chs := by split <;> rfl

@[simp] theorem foldl_chs {α : Type} (l : List α) (f : State → α → State) (s : State) (h : ∀ s x, (f s x).chs = s.chs) :
    (l.foldl f s).chs = s.chs := by
  induction l generalizing s with
  | nil => rfl
  | cons x t ih => rw [List.foldl_cons, ih, h]

@[simp] theorem ite_drill (p : Prop) [Decidable p] (a b : State) :
    (if p then a else b).drill = if p then a.drill else b.drill := apply_ite _ _ _ _

@[simp] theorem ite2_drill {α : Type} (p : Prop) [Decidable p] (a b : α × State) :
    (if p then a else b).2.drill = if p then a.2.drill else b.2.drill := by split <;> rfl

@[simp] theorem foldl_drill {α : Type} (l : List α) (f : State → α → State) (s : State) (h : ∀ s x, (f s x).drill = s.drill) :
    (l.foldl f s).drill = s.drill := by
  induction l generalizing s with
  | nil => rfl
  | cons x t ih => rw [List.foldl_cons, ih, h]

@[simp] theorem ite_books (p : Prop) [Decidable p] (a b : State) :
    (if p then a else b).books = if p then a.books else b.books := apply_ite _ _ _ _

@[simp] theorem ite2_books {α : Type} (p : Prop) [Decidable p] (a b : α × State) :
    (if p then a else b).2.books = if p then a.2.books else b.2.books := by split <;> rfl

@[simp] theorem foldl_books {α : Type} (l : List α) (f : State → α → State) (s : State) (h : ∀ s x, (f s x).books = s.books) :
    (l.foldl f s).books = s.books := by
  induction l generalizing s with
  | nil => rfl
  | cons x t ih => rw [List.foldl_cons, ih, h]

@[simp] theorem ite_cores (p : Prop) [Decidable p] (a b : State) :
    (if p then a else b).cores = if p then a.cores else b.cores := apply_ite _ _ _ _

@[simp] theorem ite2_cores {α : Type} (p : Prop) [Decidable p] (a b : α × State) :
    (if p then a else b).2.cores = if p then a.2.cores else b.2.cores := by split <;> rfl

@[simp] theorem foldl_cores {α : Type} (l : List α) (f : State → α → State) (s : State) (h : ∀ s x, (f s x).cores = s.cores) :
    (l.foldl f s).cores = s.cores := by
  induction l generalizing s with
  | nil => rfl
  | cons x t ih => rw [List.foldl_cons, ih, h]

@[simp] theorem ite_cache (p : Prop) [Decidable p] (a b : State) :
    (if p then a else b).cache = if p then a.cache else b.cache := apply_ite _ _ _ _

@[simp] theorem ite2_cache {α : Type} (p : Prop) [Decidable p] (a b : α × State) :
    (if p then a else b).2.cache = if p then a.2.cache else b.2.cache := by split <;> rfl

@[simp] theorem foldl_cache {α : Type} (l : List α) (f : State → α → State) (s : State) (h : ∀ s x, (f s x).cache = s.cache) :
    (l.foldl f s).cache = s.cache := by
  induction l generalizing s with
  | nil => rfl
  | cons x t ih => rw [List.foldl_cons, ih, h]

@[simp] theorem ite_guard (p : Prop) [Decidable p] (a b : State) :
    (if p then a else b).guard = if p then a.guard else b.guard := apply_ite _ _ _ _

@[simp] theorem ite2_guard {α : Type} (p : Prop) [Decidable p] (a b : α × State) :
    (if p then a else b).2.guard = if p then a.2.guard else b.2.guard := by split <;> rfl

@[simp] theorem foldl_guard {α : Type} (l : List α) (f : State → α → State) (s : State) (h : ∀ s x, (f s x).guard = s.guard) :
    (l.foldl f s).guard = s.guard := by
  induction l generalizing s with
  | nil => rfl
  | cons x t ih => rw [List.foldl_cons, ih, h]

@[simp] theorem ite_wld (p : Prop) [Decidable p] (a b : State) :
    (if p then a else b).wld = if p then a.wld else b.wld := apply_ite _ _ _ _

@[simp] theorem ite2_wld {α : Type} (p : Prop) [Decidable p] (a b : α × State) :
    (if p then a else b).2.wld = if p then a.2.wld else b.2.wld := by split <;> rfl

@[simp] theorem foldl_wld {α : Type} (l : List α) (f : State → α → State) (s : State) (h : ∀ s x, (f s x).wld = s.wld) :
    (l.foldl f s).wld = s.wld := by
  induction l generalizing s with
  | nil => rfl
  | cons x t ih => rw [List.foldl_cons, ih, h]

@[simp] theorem ite_tile (p : Prop) [Decidable p] (a b : State) :
    (if p then a else b).tile = if p then a.tile else b.tile := apply_ite _ _ _ _

@[simp] theorem ite2_tile {α : Type} (p : Prop) [Decidable p] (a b : α × State) :
    (if p then a else b).2.tile = if p then a.2.tile else b.2.tile := by split <;> rfl

@[simp] theorem foldl_tile {α : Type} (l : List α) (f : State → α → State) (s : State) (h : ∀ s x, (f s x).tile = s.tile) :
    (l.foldl f s).tile = s.tile := by
  induction l generalizing s with
  | nil => rfl
  | cons x t ih => rw [List.foldl_cons, ih, h]

@[simp] theorem ite_bays (p : Prop) [Decidable p] (a b : State) :
    (if p then a else b).bays = if p then a.bays else b.bays := apply_ite _ _ _ _

@[simp] theorem ite2_bays {α : Type} (p : Prop) [Decidable p] (a b : α × State) :
    (if p then a else b).2.bays = if p then a.2.bays else b.2.bays := by split <;> rfl

@[simp] theorem foldl_bays {α : Type} (l : List α) (f : State → α → State) (s : State) (h : ∀ s x, (f s x).bays = s.bays) :
    (l.foldl f s).bays = s.bays := by
  induction l generalizing s with
  | nil => rfl
  | cons x t ih => rw [List.foldl_cons, ih, h]

@[simp] theorem ite_grn (p : Prop) [Decidable p] (a b : State) :
    (if p then a else b).grn = if p then a.grn else b.grn := apply_ite _ _ _ _

@[simp] theorem ite2_grn {α : Type} (p : Prop) [Decidable p] (a b : α × State) :
    (if p then a else b).2.grn = if p then a.2.grn else b.2.grn := by split <;> rfl

@[simp] theorem foldl_grn {α : Type} (l : List α) (f : State → α → State) (s : State) (h : ∀ s x, (f s x).grn = s.grn) :
    (l.foldl f s).grn = s.grn := by
  induction l generalizing s with
  | nil => rfl
  | cons x t ih => rw [List.foldl_cons, ih, h]

@[simp] theorem ite_ldg (p : Prop) [Decidable p] (a b : State) :
    (if p then a else b).ldg = if p then a.ldg else b.ldg := apply_ite _ _ _ _

@[simp] theorem ite2_ldg {α : Type} (p : Prop) [Decidable p] (a b : α × State) :
    (if p then a else b).2.ldg = if p then a.2.ldg else b.2.ldg := by split <;> rfl

@[simp] theorem foldl_ldg {α : Type} (l : List α) (f : State → α → State) (s : State) (h : ∀ s x, (f s x).ldg = s.ldg) :
    (l.foldl f s).ldg = s.ldg := by
  induction l generalizing s with
  | nil => rfl
  | cons x t ih => rw [List.foldl_cons, ih, h]

@[simp] theorem ite_hld (p : Prop) [Decidable p] (a b : State) :
    (if p then a else b).hld = if p then a.hld else b.hld := apply_ite _ _ _ _

@[simp] theorem ite2_hld {α : Type} (p : Prop) [Decidable p] (a b : α × State) :
    (if p then a else b).2.hld = if p then a.2.hld else b.2.hld := by split <;> rfl

@[simp] theorem foldl_hld {α : Type} (l : List α) (f : State → α → State) (s : State) (h : ∀ s x, (f s x).hld = s.hld) :
    (l.foldl f s).hld = s.hld := by
  induction l generalizing s with
  | nil => rfl
  | cons x t ih => rw [List.foldl_cons, ih, h]

@[simp] theorem ite_mem (p : Prop) [Decidable p] (a b : State) :
    (if p then a else b).mem = if p then a.mem else b.mem := apply_ite _ _ _ _

@[simp] theorem ite2_mem {α : Type} (p : Prop) [Decidable p] (a b : α × State) :
    (if p then a else b).2.mem = if p then a.2.mem else b.2.mem := by split <;> rfl

@[simp] theorem foldl_mem {α : Type} (l : List α) (f : State → α → State) (s : State) (h : ∀ s x, (f s x).mem = s.mem) :
    (l.foldl f s).mem = s.mem := by
  induction l generalizing s with
  | nil => rfl
  | cons x t ih => rw [List.foldl_cons, ih, h]

@[simp] theorem ite_pending (p : Prop) [Decidable p] (a b : State) :
    (if p then a else b).pending = if p then a.pending else b.pending := apply_ite _ _ _ _

@[simp] theorem ite2_pending {α : Type} (p : Prop) [Decidable p] (a b : α × State) :
    (if p then a else b).2.pending = if p then a.2.pending else b.2.pending := by split <;> rfl

@[simp] theorem foldl_pending {α : Type} (l : List α) (f : State → α → State) (s : State) (h : ∀ s x, (f s x).pending = s.pending) :
    (l.foldl f s).pending = s.pending := by
  induction l generalizing s with
  | nil => rfl
  | cons x t ih => rw [List.foldl_cons, ih, h]

/-! ### What stays, named by what does not -/

abbrev SameAll (s s' : State) : Prop :=
    s'.now = s.now ∧ s'.draws = s.draws ∧ s'.pow = s.pow ∧ s'.pins = s.pins ∧ s'.bkp = s.bkp ∧ s'.sys = s.sys ∧
    s'.fuse = s.fuse ∧ s'.boot = s.boot ∧ s'.seed = s.seed ∧ s'.clk = s.clk ∧ s'.chs = s.chs ∧ s'.drill = s.drill
    ∧ s'.books = s.books ∧ s'.cores = s.cores ∧ s'.cache = s.cache ∧ s'.guard = s.guard ∧ s'.wld = s.wld ∧ s'.tile
    = s.tile ∧ s'.bays = s.bays ∧ s'.grn = s.grn ∧ s'.ldg = s.ldg ∧ s'.hld = s.hld ∧ s'.mem = s.mem ∧ s'.pending =
    s.pending

abbrev SameBut_bays (s s' : State) : Prop :=
    s'.now = s.now ∧ s'.draws = s.draws ∧ s'.pow = s.pow ∧ s'.pins = s.pins ∧ s'.bkp = s.bkp ∧ s'.sys = s.sys ∧
    s'.fuse = s.fuse ∧ s'.boot = s.boot ∧ s'.seed = s.seed ∧ s'.clk = s.clk ∧ s'.chs = s.chs ∧ s'.drill = s.drill
    ∧ s'.books = s.books ∧ s'.cores = s.cores ∧ s'.cache = s.cache ∧ s'.guard = s.guard ∧ s'.wld = s.wld ∧ s'.tile
    = s.tile ∧ s'.grn = s.grn ∧ s'.ldg = s.ldg ∧ s'.hld = s.hld ∧ s'.mem = s.mem ∧ s'.pending = s.pending

abbrev SameBut_bkp (s s' : State) : Prop :=
    s'.now = s.now ∧ s'.draws = s.draws ∧ s'.pow = s.pow ∧ s'.pins = s.pins ∧ s'.sys = s.sys ∧ s'.fuse = s.fuse ∧
    s'.boot = s.boot ∧ s'.seed = s.seed ∧ s'.clk = s.clk ∧ s'.chs = s.chs ∧ s'.drill = s.drill ∧ s'.books =
    s.books ∧ s'.cores = s.cores ∧ s'.cache = s.cache ∧ s'.guard = s.guard ∧ s'.wld = s.wld ∧ s'.tile = s.tile ∧
    s'.bays = s.bays ∧ s'.grn = s.grn ∧ s'.ldg = s.ldg ∧ s'.hld = s.hld ∧ s'.mem = s.mem ∧ s'.pending = s.pending

abbrev SameBut_bkp_cores (s s' : State) : Prop :=
    s'.now = s.now ∧ s'.draws = s.draws ∧ s'.pow = s.pow ∧ s'.pins = s.pins ∧ s'.sys = s.sys ∧ s'.fuse = s.fuse ∧
    s'.boot = s.boot ∧ s'.seed = s.seed ∧ s'.clk = s.clk ∧ s'.chs = s.chs ∧ s'.drill = s.drill ∧ s'.books =
    s.books ∧ s'.cache = s.cache ∧ s'.guard = s.guard ∧ s'.wld = s.wld ∧ s'.tile = s.tile ∧ s'.bays = s.bays ∧
    s'.grn = s.grn ∧ s'.ldg = s.ldg ∧ s'.hld = s.hld ∧ s'.mem = s.mem ∧ s'.pending = s.pending

abbrev SameBut_bkp_cores_cache (s s' : State) : Prop :=
    s'.now = s.now ∧ s'.draws = s.draws ∧ s'.pow = s.pow ∧ s'.pins = s.pins ∧ s'.sys = s.sys ∧ s'.fuse = s.fuse ∧
    s'.boot = s.boot ∧ s'.seed = s.seed ∧ s'.clk = s.clk ∧ s'.chs = s.chs ∧ s'.drill = s.drill ∧ s'.books =
    s.books ∧ s'.guard = s.guard ∧ s'.wld = s.wld ∧ s'.tile = s.tile ∧ s'.bays = s.bays ∧ s'.grn = s.grn ∧ s'.ldg
    = s.ldg ∧ s'.hld = s.hld ∧ s'.mem = s.mem ∧ s'.pending = s.pending

abbrev SameBut_bkp_guard (s s' : State) : Prop :=
    s'.now = s.now ∧ s'.draws = s.draws ∧ s'.pow = s.pow ∧ s'.pins = s.pins ∧ s'.sys = s.sys ∧ s'.fuse = s.fuse ∧
    s'.boot = s.boot ∧ s'.seed = s.seed ∧ s'.clk = s.clk ∧ s'.chs = s.chs ∧ s'.drill = s.drill ∧ s'.books =
    s.books ∧ s'.cores = s.cores ∧ s'.cache = s.cache ∧ s'.wld = s.wld ∧ s'.tile = s.tile ∧ s'.bays = s.bays ∧
    s'.grn = s.grn ∧ s'.ldg = s.ldg ∧ s'.hld = s.hld ∧ s'.mem = s.mem ∧ s'.pending = s.pending

abbrev SameBut_books (s s' : State) : Prop :=
    s'.now = s.now ∧ s'.draws = s.draws ∧ s'.pow = s.pow ∧ s'.pins = s.pins ∧ s'.bkp = s.bkp ∧ s'.sys = s.sys ∧
    s'.fuse = s.fuse ∧ s'.boot = s.boot ∧ s'.seed = s.seed ∧ s'.clk = s.clk ∧ s'.chs = s.chs ∧ s'.drill = s.drill
    ∧ s'.cores = s.cores ∧ s'.cache = s.cache ∧ s'.guard = s.guard ∧ s'.wld = s.wld ∧ s'.tile = s.tile ∧ s'.bays =
    s.bays ∧ s'.grn = s.grn ∧ s'.ldg = s.ldg ∧ s'.hld = s.hld ∧ s'.mem = s.mem ∧ s'.pending = s.pending

abbrev SameBut_books_ldg_mem (s s' : State) : Prop :=
    s'.now = s.now ∧ s'.draws = s.draws ∧ s'.pow = s.pow ∧ s'.pins = s.pins ∧ s'.bkp = s.bkp ∧ s'.sys = s.sys ∧
    s'.fuse = s.fuse ∧ s'.boot = s.boot ∧ s'.seed = s.seed ∧ s'.clk = s.clk ∧ s'.chs = s.chs ∧ s'.drill = s.drill
    ∧ s'.cores = s.cores ∧ s'.cache = s.cache ∧ s'.guard = s.guard ∧ s'.wld = s.wld ∧ s'.tile = s.tile ∧ s'.bays =
    s.bays ∧ s'.grn = s.grn ∧ s'.hld = s.hld ∧ s'.pending = s.pending

abbrev SameBut_boot (s s' : State) : Prop :=
    s'.now = s.now ∧ s'.draws = s.draws ∧ s'.pow = s.pow ∧ s'.pins = s.pins ∧ s'.bkp = s.bkp ∧ s'.sys = s.sys ∧
    s'.fuse = s.fuse ∧ s'.seed = s.seed ∧ s'.clk = s.clk ∧ s'.chs = s.chs ∧ s'.drill = s.drill ∧ s'.books =
    s.books ∧ s'.cores = s.cores ∧ s'.cache = s.cache ∧ s'.guard = s.guard ∧ s'.wld = s.wld ∧ s'.tile = s.tile ∧
    s'.bays = s.bays ∧ s'.grn = s.grn ∧ s'.ldg = s.ldg ∧ s'.hld = s.hld ∧ s'.mem = s.mem ∧ s'.pending = s.pending

abbrev SameBut_boot_cores (s s' : State) : Prop :=
    s'.now = s.now ∧ s'.draws = s.draws ∧ s'.pow = s.pow ∧ s'.pins = s.pins ∧ s'.bkp = s.bkp ∧ s'.sys = s.sys ∧
    s'.fuse = s.fuse ∧ s'.seed = s.seed ∧ s'.clk = s.clk ∧ s'.chs = s.chs ∧ s'.drill = s.drill ∧ s'.books =
    s.books ∧ s'.cache = s.cache ∧ s'.guard = s.guard ∧ s'.wld = s.wld ∧ s'.tile = s.tile ∧ s'.bays = s.bays ∧
    s'.grn = s.grn ∧ s'.ldg = s.ldg ∧ s'.hld = s.hld ∧ s'.mem = s.mem ∧ s'.pending = s.pending

abbrev SameBut_boot_cores_cache_wld_ldg (s s' : State) : Prop :=
    s'.now = s.now ∧ s'.draws = s.draws ∧ s'.pow = s.pow ∧ s'.pins = s.pins ∧ s'.bkp = s.bkp ∧ s'.sys = s.sys ∧
    s'.fuse = s.fuse ∧ s'.seed = s.seed ∧ s'.clk = s.clk ∧ s'.chs = s.chs ∧ s'.drill = s.drill ∧ s'.books =
    s.books ∧ s'.guard = s.guard ∧ s'.tile = s.tile ∧ s'.bays = s.bays ∧ s'.grn = s.grn ∧ s'.hld = s.hld ∧ s'.mem
    = s.mem ∧ s'.pending = s.pending

abbrev SameBut_boot_guard (s s' : State) : Prop :=
    s'.now = s.now ∧ s'.draws = s.draws ∧ s'.pow = s.pow ∧ s'.pins = s.pins ∧ s'.bkp = s.bkp ∧ s'.sys = s.sys ∧
    s'.fuse = s.fuse ∧ s'.seed = s.seed ∧ s'.clk = s.clk ∧ s'.chs = s.chs ∧ s'.drill = s.drill ∧ s'.books =
    s.books ∧ s'.cores = s.cores ∧ s'.cache = s.cache ∧ s'.wld = s.wld ∧ s'.tile = s.tile ∧ s'.bays = s.bays ∧
    s'.grn = s.grn ∧ s'.ldg = s.ldg ∧ s'.hld = s.hld ∧ s'.mem = s.mem ∧ s'.pending = s.pending

abbrev SameBut_cache (s s' : State) : Prop :=
    s'.now = s.now ∧ s'.draws = s.draws ∧ s'.pow = s.pow ∧ s'.pins = s.pins ∧ s'.bkp = s.bkp ∧ s'.sys = s.sys ∧
    s'.fuse = s.fuse ∧ s'.boot = s.boot ∧ s'.seed = s.seed ∧ s'.clk = s.clk ∧ s'.chs = s.chs ∧ s'.drill = s.drill
    ∧ s'.books = s.books ∧ s'.cores = s.cores ∧ s'.guard = s.guard ∧ s'.wld = s.wld ∧ s'.tile = s.tile ∧ s'.bays =
    s.bays ∧ s'.grn = s.grn ∧ s'.ldg = s.ldg ∧ s'.hld = s.hld ∧ s'.mem = s.mem ∧ s'.pending = s.pending

abbrev SameBut_cache_grn_ldg_mem (s s' : State) : Prop :=
    s'.now = s.now ∧ s'.draws = s.draws ∧ s'.pow = s.pow ∧ s'.pins = s.pins ∧ s'.bkp = s.bkp ∧ s'.sys = s.sys ∧
    s'.fuse = s.fuse ∧ s'.boot = s.boot ∧ s'.seed = s.seed ∧ s'.clk = s.clk ∧ s'.chs = s.chs ∧ s'.drill = s.drill
    ∧ s'.books = s.books ∧ s'.cores = s.cores ∧ s'.guard = s.guard ∧ s'.wld = s.wld ∧ s'.tile = s.tile ∧ s'.bays =
    s.bays ∧ s'.hld = s.hld ∧ s'.pending = s.pending

abbrev SameBut_cache_guard_bays_mem (s s' : State) : Prop :=
    s'.now = s.now ∧ s'.draws = s.draws ∧ s'.pow = s.pow ∧ s'.pins = s.pins ∧ s'.bkp = s.bkp ∧ s'.sys = s.sys ∧
    s'.fuse = s.fuse ∧ s'.boot = s.boot ∧ s'.seed = s.seed ∧ s'.clk = s.clk ∧ s'.chs = s.chs ∧ s'.drill = s.drill
    ∧ s'.books = s.books ∧ s'.cores = s.cores ∧ s'.wld = s.wld ∧ s'.tile = s.tile ∧ s'.grn = s.grn ∧ s'.ldg =
    s.ldg ∧ s'.hld = s.hld ∧ s'.pending = s.pending

abbrev SameBut_cache_guard_mem (s s' : State) : Prop :=
    s'.now = s.now ∧ s'.draws = s.draws ∧ s'.pow = s.pow ∧ s'.pins = s.pins ∧ s'.bkp = s.bkp ∧ s'.sys = s.sys ∧
    s'.fuse = s.fuse ∧ s'.boot = s.boot ∧ s'.seed = s.seed ∧ s'.clk = s.clk ∧ s'.chs = s.chs ∧ s'.drill = s.drill
    ∧ s'.books = s.books ∧ s'.cores = s.cores ∧ s'.wld = s.wld ∧ s'.tile = s.tile ∧ s'.bays = s.bays ∧ s'.grn =
    s.grn ∧ s'.ldg = s.ldg ∧ s'.hld = s.hld ∧ s'.pending = s.pending

abbrev SameBut_cache_guard_tile_mem (s s' : State) : Prop :=
    s'.now = s.now ∧ s'.draws = s.draws ∧ s'.pow = s.pow ∧ s'.pins = s.pins ∧ s'.bkp = s.bkp ∧ s'.sys = s.sys ∧
    s'.fuse = s.fuse ∧ s'.boot = s.boot ∧ s'.seed = s.seed ∧ s'.clk = s.clk ∧ s'.chs = s.chs ∧ s'.drill = s.drill
    ∧ s'.books = s.books ∧ s'.cores = s.cores ∧ s'.wld = s.wld ∧ s'.bays = s.bays ∧ s'.grn = s.grn ∧ s'.ldg =
    s.ldg ∧ s'.hld = s.hld ∧ s'.pending = s.pending

abbrev SameBut_cache_mem (s s' : State) : Prop :=
    s'.now = s.now ∧ s'.draws = s.draws ∧ s'.pow = s.pow ∧ s'.pins = s.pins ∧ s'.bkp = s.bkp ∧ s'.sys = s.sys ∧
    s'.fuse = s.fuse ∧ s'.boot = s.boot ∧ s'.seed = s.seed ∧ s'.clk = s.clk ∧ s'.chs = s.chs ∧ s'.drill = s.drill
    ∧ s'.books = s.books ∧ s'.cores = s.cores ∧ s'.guard = s.guard ∧ s'.wld = s.wld ∧ s'.tile = s.tile ∧ s'.bays =
    s.bays ∧ s'.grn = s.grn ∧ s'.ldg = s.ldg ∧ s'.hld = s.hld ∧ s'.pending = s.pending

abbrev SameBut_chs (s s' : State) : Prop :=
    s'.now = s.now ∧ s'.draws = s.draws ∧ s'.pow = s.pow ∧ s'.pins = s.pins ∧ s'.bkp = s.bkp ∧ s'.sys = s.sys ∧
    s'.fuse = s.fuse ∧ s'.boot = s.boot ∧ s'.seed = s.seed ∧ s'.clk = s.clk ∧ s'.drill = s.drill ∧ s'.books =
    s.books ∧ s'.cores = s.cores ∧ s'.cache = s.cache ∧ s'.guard = s.guard ∧ s'.wld = s.wld ∧ s'.tile = s.tile ∧
    s'.bays = s.bays ∧ s'.grn = s.grn ∧ s'.ldg = s.ldg ∧ s'.hld = s.hld ∧ s'.mem = s.mem ∧ s'.pending = s.pending

abbrev SameBut_chs_drill (s s' : State) : Prop :=
    s'.now = s.now ∧ s'.draws = s.draws ∧ s'.pow = s.pow ∧ s'.pins = s.pins ∧ s'.bkp = s.bkp ∧ s'.sys = s.sys ∧
    s'.fuse = s.fuse ∧ s'.boot = s.boot ∧ s'.seed = s.seed ∧ s'.clk = s.clk ∧ s'.books = s.books ∧ s'.cores =
    s.cores ∧ s'.cache = s.cache ∧ s'.guard = s.guard ∧ s'.wld = s.wld ∧ s'.tile = s.tile ∧ s'.bays = s.bays ∧
    s'.grn = s.grn ∧ s'.ldg = s.ldg ∧ s'.hld = s.hld ∧ s'.mem = s.mem ∧ s'.pending = s.pending

abbrev SameBut_chs_guard (s s' : State) : Prop :=
    s'.now = s.now ∧ s'.draws = s.draws ∧ s'.pow = s.pow ∧ s'.pins = s.pins ∧ s'.bkp = s.bkp ∧ s'.sys = s.sys ∧
    s'.fuse = s.fuse ∧ s'.boot = s.boot ∧ s'.seed = s.seed ∧ s'.clk = s.clk ∧ s'.drill = s.drill ∧ s'.books =
    s.books ∧ s'.cores = s.cores ∧ s'.cache = s.cache ∧ s'.wld = s.wld ∧ s'.tile = s.tile ∧ s'.bays = s.bays ∧
    s'.grn = s.grn ∧ s'.ldg = s.ldg ∧ s'.hld = s.hld ∧ s'.mem = s.mem ∧ s'.pending = s.pending

abbrev SameBut_clk (s s' : State) : Prop :=
    s'.now = s.now ∧ s'.draws = s.draws ∧ s'.pow = s.pow ∧ s'.pins = s.pins ∧ s'.bkp = s.bkp ∧ s'.sys = s.sys ∧
    s'.fuse = s.fuse ∧ s'.boot = s.boot ∧ s'.seed = s.seed ∧ s'.chs = s.chs ∧ s'.drill = s.drill ∧ s'.books =
    s.books ∧ s'.cores = s.cores ∧ s'.cache = s.cache ∧ s'.guard = s.guard ∧ s'.wld = s.wld ∧ s'.tile = s.tile ∧
    s'.bays = s.bays ∧ s'.grn = s.grn ∧ s'.ldg = s.ldg ∧ s'.hld = s.hld ∧ s'.mem = s.mem ∧ s'.pending = s.pending

abbrev SameBut_clk_bays (s s' : State) : Prop :=
    s'.now = s.now ∧ s'.draws = s.draws ∧ s'.pow = s.pow ∧ s'.pins = s.pins ∧ s'.bkp = s.bkp ∧ s'.sys = s.sys ∧
    s'.fuse = s.fuse ∧ s'.boot = s.boot ∧ s'.seed = s.seed ∧ s'.chs = s.chs ∧ s'.drill = s.drill ∧ s'.books =
    s.books ∧ s'.cores = s.cores ∧ s'.cache = s.cache ∧ s'.guard = s.guard ∧ s'.wld = s.wld ∧ s'.tile = s.tile ∧
    s'.grn = s.grn ∧ s'.ldg = s.ldg ∧ s'.hld = s.hld ∧ s'.mem = s.mem ∧ s'.pending = s.pending

abbrev SameBut_clk_cache_guard_bays_mem (s s' : State) : Prop :=
    s'.now = s.now ∧ s'.draws = s.draws ∧ s'.pow = s.pow ∧ s'.pins = s.pins ∧ s'.bkp = s.bkp ∧ s'.sys = s.sys ∧
    s'.fuse = s.fuse ∧ s'.boot = s.boot ∧ s'.seed = s.seed ∧ s'.chs = s.chs ∧ s'.drill = s.drill ∧ s'.books =
    s.books ∧ s'.cores = s.cores ∧ s'.wld = s.wld ∧ s'.tile = s.tile ∧ s'.grn = s.grn ∧ s'.ldg = s.ldg ∧ s'.hld =
    s.hld ∧ s'.pending = s.pending

abbrev SameBut_clk_cache_guard_tile_mem (s s' : State) : Prop :=
    s'.now = s.now ∧ s'.draws = s.draws ∧ s'.pow = s.pow ∧ s'.pins = s.pins ∧ s'.bkp = s.bkp ∧ s'.sys = s.sys ∧
    s'.fuse = s.fuse ∧ s'.boot = s.boot ∧ s'.seed = s.seed ∧ s'.chs = s.chs ∧ s'.drill = s.drill ∧ s'.books =
    s.books ∧ s'.cores = s.cores ∧ s'.wld = s.wld ∧ s'.bays = s.bays ∧ s'.grn = s.grn ∧ s'.ldg = s.ldg ∧ s'.hld =
    s.hld ∧ s'.pending = s.pending

abbrev SameBut_clk_chs (s s' : State) : Prop :=
    s'.now = s.now ∧ s'.draws = s.draws ∧ s'.pow = s.pow ∧ s'.pins = s.pins ∧ s'.bkp = s.bkp ∧ s'.sys = s.sys ∧
    s'.fuse = s.fuse ∧ s'.boot = s.boot ∧ s'.seed = s.seed ∧ s'.drill = s.drill ∧ s'.books = s.books ∧ s'.cores =
    s.cores ∧ s'.cache = s.cache ∧ s'.guard = s.guard ∧ s'.wld = s.wld ∧ s'.tile = s.tile ∧ s'.bays = s.bays ∧
    s'.grn = s.grn ∧ s'.ldg = s.ldg ∧ s'.hld = s.hld ∧ s'.mem = s.mem ∧ s'.pending = s.pending

abbrev SameBut_clk_chs_drill (s s' : State) : Prop :=
    s'.now = s.now ∧ s'.draws = s.draws ∧ s'.pow = s.pow ∧ s'.pins = s.pins ∧ s'.bkp = s.bkp ∧ s'.sys = s.sys ∧
    s'.fuse = s.fuse ∧ s'.boot = s.boot ∧ s'.seed = s.seed ∧ s'.books = s.books ∧ s'.cores = s.cores ∧ s'.cache =
    s.cache ∧ s'.guard = s.guard ∧ s'.wld = s.wld ∧ s'.tile = s.tile ∧ s'.bays = s.bays ∧ s'.grn = s.grn ∧ s'.ldg
    = s.ldg ∧ s'.hld = s.hld ∧ s'.mem = s.mem ∧ s'.pending = s.pending

abbrev SameBut_clk_chs_drill_cores_guard_wld_ldg_mem (s s' : State) : Prop :=
    s'.now = s.now ∧ s'.draws = s.draws ∧ s'.pow = s.pow ∧ s'.pins = s.pins ∧ s'.bkp = s.bkp ∧ s'.sys = s.sys ∧
    s'.fuse = s.fuse ∧ s'.boot = s.boot ∧ s'.seed = s.seed ∧ s'.books = s.books ∧ s'.cache = s.cache ∧ s'.tile =
    s.tile ∧ s'.bays = s.bays ∧ s'.grn = s.grn ∧ s'.hld = s.hld ∧ s'.pending = s.pending

abbrev SameBut_clk_chs_drill_guard (s s' : State) : Prop :=
    s'.now = s.now ∧ s'.draws = s.draws ∧ s'.pow = s.pow ∧ s'.pins = s.pins ∧ s'.bkp = s.bkp ∧ s'.sys = s.sys ∧
    s'.fuse = s.fuse ∧ s'.boot = s.boot ∧ s'.seed = s.seed ∧ s'.books = s.books ∧ s'.cores = s.cores ∧ s'.cache =
    s.cache ∧ s'.wld = s.wld ∧ s'.tile = s.tile ∧ s'.bays = s.bays ∧ s'.grn = s.grn ∧ s'.ldg = s.ldg ∧ s'.hld =
    s.hld ∧ s'.mem = s.mem ∧ s'.pending = s.pending

abbrev SameBut_clk_chs_ldg_mem (s s' : State) : Prop :=
    s'.now = s.now ∧ s'.draws = s.draws ∧ s'.pow = s.pow ∧ s'.pins = s.pins ∧ s'.bkp = s.bkp ∧ s'.sys = s.sys ∧
    s'.fuse = s.fuse ∧ s'.boot = s.boot ∧ s'.seed = s.seed ∧ s'.drill = s.drill ∧ s'.books = s.books ∧ s'.cores =
    s.cores ∧ s'.cache = s.cache ∧ s'.guard = s.guard ∧ s'.wld = s.wld ∧ s'.tile = s.tile ∧ s'.bays = s.bays ∧
    s'.grn = s.grn ∧ s'.hld = s.hld ∧ s'.pending = s.pending

abbrev SameBut_clk_cores_cache_guard_tile_hld (s s' : State) : Prop :=
    s'.now = s.now ∧ s'.draws = s.draws ∧ s'.pow = s.pow ∧ s'.pins = s.pins ∧ s'.bkp = s.bkp ∧ s'.sys = s.sys ∧
    s'.fuse = s.fuse ∧ s'.boot = s.boot ∧ s'.seed = s.seed ∧ s'.chs = s.chs ∧ s'.drill = s.drill ∧ s'.books =
    s.books ∧ s'.wld = s.wld ∧ s'.bays = s.bays ∧ s'.grn = s.grn ∧ s'.ldg = s.ldg ∧ s'.mem = s.mem ∧ s'.pending =
    s.pending

abbrev SameBut_clk_drill (s s' : State) : Prop :=
    s'.now = s.now ∧ s'.draws = s.draws ∧ s'.pow = s.pow ∧ s'.pins = s.pins ∧ s'.bkp = s.bkp ∧ s'.sys = s.sys ∧
    s'.fuse = s.fuse ∧ s'.boot = s.boot ∧ s'.seed = s.seed ∧ s'.chs = s.chs ∧ s'.books = s.books ∧ s'.cores =
    s.cores ∧ s'.cache = s.cache ∧ s'.guard = s.guard ∧ s'.wld = s.wld ∧ s'.tile = s.tile ∧ s'.bays = s.bays ∧
    s'.grn = s.grn ∧ s'.ldg = s.ldg ∧ s'.hld = s.hld ∧ s'.mem = s.mem ∧ s'.pending = s.pending

abbrev SameBut_clk_drill_bays (s s' : State) : Prop :=
    s'.now = s.now ∧ s'.draws = s.draws ∧ s'.pow = s.pow ∧ s'.pins = s.pins ∧ s'.bkp = s.bkp ∧ s'.sys = s.sys ∧
    s'.fuse = s.fuse ∧ s'.boot = s.boot ∧ s'.seed = s.seed ∧ s'.chs = s.chs ∧ s'.books = s.books ∧ s'.cores =
    s.cores ∧ s'.cache = s.cache ∧ s'.guard = s.guard ∧ s'.wld = s.wld ∧ s'.tile = s.tile ∧ s'.grn = s.grn ∧
    s'.ldg = s.ldg ∧ s'.hld = s.hld ∧ s'.mem = s.mem ∧ s'.pending = s.pending

abbrev SameBut_clk_drill_cores_cache_guard_tile_hld (s s' : State) : Prop :=
    s'.now = s.now ∧ s'.draws = s.draws ∧ s'.pow = s.pow ∧ s'.pins = s.pins ∧ s'.bkp = s.bkp ∧ s'.sys = s.sys ∧
    s'.fuse = s.fuse ∧ s'.boot = s.boot ∧ s'.seed = s.seed ∧ s'.chs = s.chs ∧ s'.books = s.books ∧ s'.wld = s.wld
    ∧ s'.bays = s.bays ∧ s'.grn = s.grn ∧ s'.ldg = s.ldg ∧ s'.mem = s.mem ∧ s'.pending = s.pending

abbrev SameBut_clk_drill_cores_grn (s s' : State) : Prop :=
    s'.now = s.now ∧ s'.draws = s.draws ∧ s'.pow = s.pow ∧ s'.pins = s.pins ∧ s'.bkp = s.bkp ∧ s'.sys = s.sys ∧
    s'.fuse = s.fuse ∧ s'.boot = s.boot ∧ s'.seed = s.seed ∧ s'.chs = s.chs ∧ s'.books = s.books ∧ s'.cache =
    s.cache ∧ s'.guard = s.guard ∧ s'.wld = s.wld ∧ s'.tile = s.tile ∧ s'.bays = s.bays ∧ s'.ldg = s.ldg ∧ s'.hld
    = s.hld ∧ s'.mem = s.mem ∧ s'.pending = s.pending

abbrev SameBut_clk_drill_cores_guard (s s' : State) : Prop :=
    s'.now = s.now ∧ s'.draws = s.draws ∧ s'.pow = s.pow ∧ s'.pins = s.pins ∧ s'.bkp = s.bkp ∧ s'.sys = s.sys ∧
    s'.fuse = s.fuse ∧ s'.boot = s.boot ∧ s'.seed = s.seed ∧ s'.chs = s.chs ∧ s'.books = s.books ∧ s'.cache =
    s.cache ∧ s'.wld = s.wld ∧ s'.tile = s.tile ∧ s'.bays = s.bays ∧ s'.grn = s.grn ∧ s'.ldg = s.ldg ∧ s'.hld =
    s.hld ∧ s'.mem = s.mem ∧ s'.pending = s.pending

abbrev SameBut_clk_drill_cores_guard_ldg (s s' : State) : Prop :=
    s'.now = s.now ∧ s'.draws = s.draws ∧ s'.pow = s.pow ∧ s'.pins = s.pins ∧ s'.bkp = s.bkp ∧ s'.sys = s.sys ∧
    s'.fuse = s.fuse ∧ s'.boot = s.boot ∧ s'.seed = s.seed ∧ s'.chs = s.chs ∧ s'.books = s.books ∧ s'.cache =
    s.cache ∧ s'.wld = s.wld ∧ s'.tile = s.tile ∧ s'.bays = s.bays ∧ s'.grn = s.grn ∧ s'.hld = s.hld ∧ s'.mem =
    s.mem ∧ s'.pending = s.pending

abbrev SameBut_clk_drill_cores_guard_wld_ldg_mem (s s' : State) : Prop :=
    s'.now = s.now ∧ s'.draws = s.draws ∧ s'.pow = s.pow ∧ s'.pins = s.pins ∧ s'.bkp = s.bkp ∧ s'.sys = s.sys ∧
    s'.fuse = s.fuse ∧ s'.boot = s.boot ∧ s'.seed = s.seed ∧ s'.chs = s.chs ∧ s'.books = s.books ∧ s'.cache =
    s.cache ∧ s'.tile = s.tile ∧ s'.bays = s.bays ∧ s'.grn = s.grn ∧ s'.hld = s.hld ∧ s'.pending = s.pending

abbrev SameBut_clk_grn (s s' : State) : Prop :=
    s'.now = s.now ∧ s'.draws = s.draws ∧ s'.pow = s.pow ∧ s'.pins = s.pins ∧ s'.bkp = s.bkp ∧ s'.sys = s.sys ∧
    s'.fuse = s.fuse ∧ s'.boot = s.boot ∧ s'.seed = s.seed ∧ s'.chs = s.chs ∧ s'.drill = s.drill ∧ s'.books =
    s.books ∧ s'.cores = s.cores ∧ s'.cache = s.cache ∧ s'.guard = s.guard ∧ s'.wld = s.wld ∧ s'.tile = s.tile ∧
    s'.bays = s.bays ∧ s'.ldg = s.ldg ∧ s'.hld = s.hld ∧ s'.mem = s.mem ∧ s'.pending = s.pending

abbrev SameBut_clk_guard (s s' : State) : Prop :=
    s'.now = s.now ∧ s'.draws = s.draws ∧ s'.pow = s.pow ∧ s'.pins = s.pins ∧ s'.bkp = s.bkp ∧ s'.sys = s.sys ∧
    s'.fuse = s.fuse ∧ s'.boot = s.boot ∧ s'.seed = s.seed ∧ s'.chs = s.chs ∧ s'.drill = s.drill ∧ s'.books =
    s.books ∧ s'.cores = s.cores ∧ s'.cache = s.cache ∧ s'.wld = s.wld ∧ s'.tile = s.tile ∧ s'.bays = s.bays ∧
    s'.grn = s.grn ∧ s'.ldg = s.ldg ∧ s'.hld = s.hld ∧ s'.mem = s.mem ∧ s'.pending = s.pending

abbrev SameBut_clk_guard_bays (s s' : State) : Prop :=
    s'.now = s.now ∧ s'.draws = s.draws ∧ s'.pow = s.pow ∧ s'.pins = s.pins ∧ s'.bkp = s.bkp ∧ s'.sys = s.sys ∧
    s'.fuse = s.fuse ∧ s'.boot = s.boot ∧ s'.seed = s.seed ∧ s'.chs = s.chs ∧ s'.drill = s.drill ∧ s'.books =
    s.books ∧ s'.cores = s.cores ∧ s'.cache = s.cache ∧ s'.wld = s.wld ∧ s'.tile = s.tile ∧ s'.grn = s.grn ∧
    s'.ldg = s.ldg ∧ s'.hld = s.hld ∧ s'.mem = s.mem ∧ s'.pending = s.pending

abbrev SameBut_clk_guard_tile (s s' : State) : Prop :=
    s'.now = s.now ∧ s'.draws = s.draws ∧ s'.pow = s.pow ∧ s'.pins = s.pins ∧ s'.bkp = s.bkp ∧ s'.sys = s.sys ∧
    s'.fuse = s.fuse ∧ s'.boot = s.boot ∧ s'.seed = s.seed ∧ s'.chs = s.chs ∧ s'.drill = s.drill ∧ s'.books =
    s.books ∧ s'.cores = s.cores ∧ s'.cache = s.cache ∧ s'.wld = s.wld ∧ s'.bays = s.bays ∧ s'.grn = s.grn ∧
    s'.ldg = s.ldg ∧ s'.hld = s.hld ∧ s'.mem = s.mem ∧ s'.pending = s.pending

abbrev SameBut_clk_ldg (s s' : State) : Prop :=
    s'.now = s.now ∧ s'.draws = s.draws ∧ s'.pow = s.pow ∧ s'.pins = s.pins ∧ s'.bkp = s.bkp ∧ s'.sys = s.sys ∧
    s'.fuse = s.fuse ∧ s'.boot = s.boot ∧ s'.seed = s.seed ∧ s'.chs = s.chs ∧ s'.drill = s.drill ∧ s'.books =
    s.books ∧ s'.cores = s.cores ∧ s'.cache = s.cache ∧ s'.guard = s.guard ∧ s'.wld = s.wld ∧ s'.tile = s.tile ∧
    s'.bays = s.bays ∧ s'.grn = s.grn ∧ s'.hld = s.hld ∧ s'.mem = s.mem ∧ s'.pending = s.pending

abbrev SameBut_clk_ldg_mem (s s' : State) : Prop :=
    s'.now = s.now ∧ s'.draws = s.draws ∧ s'.pow = s.pow ∧ s'.pins = s.pins ∧ s'.bkp = s.bkp ∧ s'.sys = s.sys ∧
    s'.fuse = s.fuse ∧ s'.boot = s.boot ∧ s'.seed = s.seed ∧ s'.chs = s.chs ∧ s'.drill = s.drill ∧ s'.books =
    s.books ∧ s'.cores = s.cores ∧ s'.cache = s.cache ∧ s'.guard = s.guard ∧ s'.wld = s.wld ∧ s'.tile = s.tile ∧
    s'.bays = s.bays ∧ s'.grn = s.grn ∧ s'.hld = s.hld ∧ s'.pending = s.pending

abbrev SameBut_clk_tile (s s' : State) : Prop :=
    s'.now = s.now ∧ s'.draws = s.draws ∧ s'.pow = s.pow ∧ s'.pins = s.pins ∧ s'.bkp = s.bkp ∧ s'.sys = s.sys ∧
    s'.fuse = s.fuse ∧ s'.boot = s.boot ∧ s'.seed = s.seed ∧ s'.chs = s.chs ∧ s'.drill = s.drill ∧ s'.books =
    s.books ∧ s'.cores = s.cores ∧ s'.cache = s.cache ∧ s'.guard = s.guard ∧ s'.wld = s.wld ∧ s'.bays = s.bays ∧
    s'.grn = s.grn ∧ s'.ldg = s.ldg ∧ s'.hld = s.hld ∧ s'.mem = s.mem ∧ s'.pending = s.pending

abbrev SameBut_cores (s s' : State) : Prop :=
    s'.now = s.now ∧ s'.draws = s.draws ∧ s'.pow = s.pow ∧ s'.pins = s.pins ∧ s'.bkp = s.bkp ∧ s'.sys = s.sys ∧
    s'.fuse = s.fuse ∧ s'.boot = s.boot ∧ s'.seed = s.seed ∧ s'.clk = s.clk ∧ s'.chs = s.chs ∧ s'.drill = s.drill
    ∧ s'.books = s.books ∧ s'.cache = s.cache ∧ s'.guard = s.guard ∧ s'.wld = s.wld ∧ s'.tile = s.tile ∧ s'.bays =
    s.bays ∧ s'.grn = s.grn ∧ s'.ldg = s.ldg ∧ s'.hld = s.hld ∧ s'.mem = s.mem ∧ s'.pending = s.pending

abbrev SameBut_cores_guard (s s' : State) : Prop :=
    s'.now = s.now ∧ s'.draws = s.draws ∧ s'.pow = s.pow ∧ s'.pins = s.pins ∧ s'.bkp = s.bkp ∧ s'.sys = s.sys ∧
    s'.fuse = s.fuse ∧ s'.boot = s.boot ∧ s'.seed = s.seed ∧ s'.clk = s.clk ∧ s'.chs = s.chs ∧ s'.drill = s.drill
    ∧ s'.books = s.books ∧ s'.cache = s.cache ∧ s'.wld = s.wld ∧ s'.tile = s.tile ∧ s'.bays = s.bays ∧ s'.grn =
    s.grn ∧ s'.ldg = s.ldg ∧ s'.hld = s.hld ∧ s'.mem = s.mem ∧ s'.pending = s.pending

abbrev SameBut_cores_hld (s s' : State) : Prop :=
    s'.now = s.now ∧ s'.draws = s.draws ∧ s'.pow = s.pow ∧ s'.pins = s.pins ∧ s'.bkp = s.bkp ∧ s'.sys = s.sys ∧
    s'.fuse = s.fuse ∧ s'.boot = s.boot ∧ s'.seed = s.seed ∧ s'.clk = s.clk ∧ s'.chs = s.chs ∧ s'.drill = s.drill
    ∧ s'.books = s.books ∧ s'.cache = s.cache ∧ s'.guard = s.guard ∧ s'.wld = s.wld ∧ s'.tile = s.tile ∧ s'.bays =
    s.bays ∧ s'.grn = s.grn ∧ s'.ldg = s.ldg ∧ s'.mem = s.mem ∧ s'.pending = s.pending

abbrev SameBut_draws (s s' : State) : Prop :=
    s'.now = s.now ∧ s'.pow = s.pow ∧ s'.pins = s.pins ∧ s'.bkp = s.bkp ∧ s'.sys = s.sys ∧ s'.fuse = s.fuse ∧
    s'.boot = s.boot ∧ s'.seed = s.seed ∧ s'.clk = s.clk ∧ s'.chs = s.chs ∧ s'.drill = s.drill ∧ s'.books =
    s.books ∧ s'.cores = s.cores ∧ s'.cache = s.cache ∧ s'.guard = s.guard ∧ s'.wld = s.wld ∧ s'.tile = s.tile ∧
    s'.bays = s.bays ∧ s'.grn = s.grn ∧ s'.ldg = s.ldg ∧ s'.hld = s.hld ∧ s'.mem = s.mem ∧ s'.pending = s.pending

abbrev SameBut_draws_bkp (s s' : State) : Prop :=
    s'.now = s.now ∧ s'.pow = s.pow ∧ s'.pins = s.pins ∧ s'.sys = s.sys ∧ s'.fuse = s.fuse ∧ s'.boot = s.boot ∧
    s'.seed = s.seed ∧ s'.clk = s.clk ∧ s'.chs = s.chs ∧ s'.drill = s.drill ∧ s'.books = s.books ∧ s'.cores =
    s.cores ∧ s'.cache = s.cache ∧ s'.guard = s.guard ∧ s'.wld = s.wld ∧ s'.tile = s.tile ∧ s'.bays = s.bays ∧
    s'.grn = s.grn ∧ s'.ldg = s.ldg ∧ s'.hld = s.hld ∧ s'.mem = s.mem ∧ s'.pending = s.pending

abbrev SameBut_draws_bkp_cores_cache (s s' : State) : Prop :=
    s'.now = s.now ∧ s'.pow = s.pow ∧ s'.pins = s.pins ∧ s'.sys = s.sys ∧ s'.fuse = s.fuse ∧ s'.boot = s.boot ∧
    s'.seed = s.seed ∧ s'.clk = s.clk ∧ s'.chs = s.chs ∧ s'.drill = s.drill ∧ s'.books = s.books ∧ s'.guard =
    s.guard ∧ s'.wld = s.wld ∧ s'.tile = s.tile ∧ s'.bays = s.bays ∧ s'.grn = s.grn ∧ s'.ldg = s.ldg ∧ s'.hld =
    s.hld ∧ s'.mem = s.mem ∧ s'.pending = s.pending

abbrev SameBut_draws_bkp_grn (s s' : State) : Prop :=
    s'.now = s.now ∧ s'.pow = s.pow ∧ s'.pins = s.pins ∧ s'.sys = s.sys ∧ s'.fuse = s.fuse ∧ s'.boot = s.boot ∧
    s'.seed = s.seed ∧ s'.clk = s.clk ∧ s'.chs = s.chs ∧ s'.drill = s.drill ∧ s'.books = s.books ∧ s'.cores =
    s.cores ∧ s'.cache = s.cache ∧ s'.guard = s.guard ∧ s'.wld = s.wld ∧ s'.tile = s.tile ∧ s'.bays = s.bays ∧
    s'.ldg = s.ldg ∧ s'.hld = s.hld ∧ s'.mem = s.mem ∧ s'.pending = s.pending

abbrev SameBut_draws_bkp_grn_ldg_mem (s s' : State) : Prop :=
    s'.now = s.now ∧ s'.pow = s.pow ∧ s'.pins = s.pins ∧ s'.sys = s.sys ∧ s'.fuse = s.fuse ∧ s'.boot = s.boot ∧
    s'.seed = s.seed ∧ s'.clk = s.clk ∧ s'.chs = s.chs ∧ s'.drill = s.drill ∧ s'.books = s.books ∧ s'.cores =
    s.cores ∧ s'.cache = s.cache ∧ s'.guard = s.guard ∧ s'.wld = s.wld ∧ s'.tile = s.tile ∧ s'.bays = s.bays ∧
    s'.hld = s.hld ∧ s'.pending = s.pending

abbrev SameBut_draws_cache (s s' : State) : Prop :=
    s'.now = s.now ∧ s'.pow = s.pow ∧ s'.pins = s.pins ∧ s'.bkp = s.bkp ∧ s'.sys = s.sys ∧ s'.fuse = s.fuse ∧
    s'.boot = s.boot ∧ s'.seed = s.seed ∧ s'.clk = s.clk ∧ s'.chs = s.chs ∧ s'.drill = s.drill ∧ s'.books =
    s.books ∧ s'.cores = s.cores ∧ s'.guard = s.guard ∧ s'.wld = s.wld ∧ s'.tile = s.tile ∧ s'.bays = s.bays ∧
    s'.grn = s.grn ∧ s'.ldg = s.ldg ∧ s'.hld = s.hld ∧ s'.mem = s.mem ∧ s'.pending = s.pending

abbrev SameBut_draws_cache_grn_ldg_mem (s s' : State) : Prop :=
    s'.now = s.now ∧ s'.pow = s.pow ∧ s'.pins = s.pins ∧ s'.bkp = s.bkp ∧ s'.sys = s.sys ∧ s'.fuse = s.fuse ∧
    s'.boot = s.boot ∧ s'.seed = s.seed ∧ s'.clk = s.clk ∧ s'.chs = s.chs ∧ s'.drill = s.drill ∧ s'.books =
    s.books ∧ s'.cores = s.cores ∧ s'.guard = s.guard ∧ s'.wld = s.wld ∧ s'.tile = s.tile ∧ s'.bays = s.bays ∧
    s'.hld = s.hld ∧ s'.pending = s.pending

abbrev SameBut_draws_cache_grn_mem (s s' : State) : Prop :=
    s'.now = s.now ∧ s'.pow = s.pow ∧ s'.pins = s.pins ∧ s'.bkp = s.bkp ∧ s'.sys = s.sys ∧ s'.fuse = s.fuse ∧
    s'.boot = s.boot ∧ s'.seed = s.seed ∧ s'.clk = s.clk ∧ s'.chs = s.chs ∧ s'.drill = s.drill ∧ s'.books =
    s.books ∧ s'.cores = s.cores ∧ s'.guard = s.guard ∧ s'.wld = s.wld ∧ s'.tile = s.tile ∧ s'.bays = s.bays ∧
    s'.ldg = s.ldg ∧ s'.hld = s.hld ∧ s'.pending = s.pending

abbrev SameBut_draws_cache_guard_grn_ldg_hld_mem (s s' : State) : Prop :=
    s'.now = s.now ∧ s'.pow = s.pow ∧ s'.pins = s.pins ∧ s'.bkp = s.bkp ∧ s'.sys = s.sys ∧ s'.fuse = s.fuse ∧
    s'.boot = s.boot ∧ s'.seed = s.seed ∧ s'.clk = s.clk ∧ s'.chs = s.chs ∧ s'.drill = s.drill ∧ s'.books =
    s.books ∧ s'.cores = s.cores ∧ s'.wld = s.wld ∧ s'.tile = s.tile ∧ s'.bays = s.bays ∧ s'.pending = s.pending

abbrev SameBut_draws_cache_guard_grn_ldg_mem (s s' : State) : Prop :=
    s'.now = s.now ∧ s'.pow = s.pow ∧ s'.pins = s.pins ∧ s'.bkp = s.bkp ∧ s'.sys = s.sys ∧ s'.fuse = s.fuse ∧
    s'.boot = s.boot ∧ s'.seed = s.seed ∧ s'.clk = s.clk ∧ s'.chs = s.chs ∧ s'.drill = s.drill ∧ s'.books =
    s.books ∧ s'.cores = s.cores ∧ s'.wld = s.wld ∧ s'.tile = s.tile ∧ s'.bays = s.bays ∧ s'.hld = s.hld ∧
    s'.pending = s.pending

abbrev SameBut_draws_clk_cache_guard_grn_ldg_mem (s s' : State) : Prop :=
    s'.now = s.now ∧ s'.pow = s.pow ∧ s'.pins = s.pins ∧ s'.bkp = s.bkp ∧ s'.sys = s.sys ∧ s'.fuse = s.fuse ∧
    s'.boot = s.boot ∧ s'.seed = s.seed ∧ s'.chs = s.chs ∧ s'.drill = s.drill ∧ s'.books = s.books ∧ s'.cores =
    s.cores ∧ s'.wld = s.wld ∧ s'.tile = s.tile ∧ s'.bays = s.bays ∧ s'.hld = s.hld ∧ s'.pending = s.pending

abbrev SameBut_draws_clk_drill_guard (s s' : State) : Prop :=
    s'.now = s.now ∧ s'.pow = s.pow ∧ s'.pins = s.pins ∧ s'.bkp = s.bkp ∧ s'.sys = s.sys ∧ s'.fuse = s.fuse ∧
    s'.boot = s.boot ∧ s'.seed = s.seed ∧ s'.chs = s.chs ∧ s'.books = s.books ∧ s'.cores = s.cores ∧ s'.cache =
    s.cache ∧ s'.wld = s.wld ∧ s'.tile = s.tile ∧ s'.bays = s.bays ∧ s'.grn = s.grn ∧ s'.ldg = s.ldg ∧ s'.hld =
    s.hld ∧ s'.mem = s.mem ∧ s'.pending = s.pending

abbrev SameBut_draws_cores_cache (s s' : State) : Prop :=
    s'.now = s.now ∧ s'.pow = s.pow ∧ s'.pins = s.pins ∧ s'.bkp = s.bkp ∧ s'.sys = s.sys ∧ s'.fuse = s.fuse ∧
    s'.boot = s.boot ∧ s'.seed = s.seed ∧ s'.clk = s.clk ∧ s'.chs = s.chs ∧ s'.drill = s.drill ∧ s'.books =
    s.books ∧ s'.guard = s.guard ∧ s'.wld = s.wld ∧ s'.tile = s.tile ∧ s'.bays = s.bays ∧ s'.grn = s.grn ∧ s'.ldg
    = s.ldg ∧ s'.hld = s.hld ∧ s'.mem = s.mem ∧ s'.pending = s.pending

abbrev SameBut_draws_drill_guard_tile (s s' : State) : Prop :=
    s'.now = s.now ∧ s'.pow = s.pow ∧ s'.pins = s.pins ∧ s'.bkp = s.bkp ∧ s'.sys = s.sys ∧ s'.fuse = s.fuse ∧
    s'.boot = s.boot ∧ s'.seed = s.seed ∧ s'.clk = s.clk ∧ s'.chs = s.chs ∧ s'.books = s.books ∧ s'.cores =
    s.cores ∧ s'.cache = s.cache ∧ s'.wld = s.wld ∧ s'.bays = s.bays ∧ s'.grn = s.grn ∧ s'.ldg = s.ldg ∧ s'.hld =
    s.hld ∧ s'.mem = s.mem ∧ s'.pending = s.pending

abbrev SameBut_draws_fuse (s s' : State) : Prop :=
    s'.now = s.now ∧ s'.pow = s.pow ∧ s'.pins = s.pins ∧ s'.bkp = s.bkp ∧ s'.sys = s.sys ∧ s'.boot = s.boot ∧
    s'.seed = s.seed ∧ s'.clk = s.clk ∧ s'.chs = s.chs ∧ s'.drill = s.drill ∧ s'.books = s.books ∧ s'.cores =
    s.cores ∧ s'.cache = s.cache ∧ s'.guard = s.guard ∧ s'.wld = s.wld ∧ s'.tile = s.tile ∧ s'.bays = s.bays ∧
    s'.grn = s.grn ∧ s'.ldg = s.ldg ∧ s'.hld = s.hld ∧ s'.mem = s.mem ∧ s'.pending = s.pending

abbrev SameBut_draws_grn (s s' : State) : Prop :=
    s'.now = s.now ∧ s'.pow = s.pow ∧ s'.pins = s.pins ∧ s'.bkp = s.bkp ∧ s'.sys = s.sys ∧ s'.fuse = s.fuse ∧
    s'.boot = s.boot ∧ s'.seed = s.seed ∧ s'.clk = s.clk ∧ s'.chs = s.chs ∧ s'.drill = s.drill ∧ s'.books =
    s.books ∧ s'.cores = s.cores ∧ s'.cache = s.cache ∧ s'.guard = s.guard ∧ s'.wld = s.wld ∧ s'.tile = s.tile ∧
    s'.bays = s.bays ∧ s'.ldg = s.ldg ∧ s'.hld = s.hld ∧ s'.mem = s.mem ∧ s'.pending = s.pending

abbrev SameBut_draws_guard (s s' : State) : Prop :=
    s'.now = s.now ∧ s'.pow = s.pow ∧ s'.pins = s.pins ∧ s'.bkp = s.bkp ∧ s'.sys = s.sys ∧ s'.fuse = s.fuse ∧
    s'.boot = s.boot ∧ s'.seed = s.seed ∧ s'.clk = s.clk ∧ s'.chs = s.chs ∧ s'.drill = s.drill ∧ s'.books =
    s.books ∧ s'.cores = s.cores ∧ s'.cache = s.cache ∧ s'.wld = s.wld ∧ s'.tile = s.tile ∧ s'.bays = s.bays ∧
    s'.grn = s.grn ∧ s'.ldg = s.ldg ∧ s'.hld = s.hld ∧ s'.mem = s.mem ∧ s'.pending = s.pending

abbrev SameBut_draws_guard_grn (s s' : State) : Prop :=
    s'.now = s.now ∧ s'.pow = s.pow ∧ s'.pins = s.pins ∧ s'.bkp = s.bkp ∧ s'.sys = s.sys ∧ s'.fuse = s.fuse ∧
    s'.boot = s.boot ∧ s'.seed = s.seed ∧ s'.clk = s.clk ∧ s'.chs = s.chs ∧ s'.drill = s.drill ∧ s'.books =
    s.books ∧ s'.cores = s.cores ∧ s'.cache = s.cache ∧ s'.wld = s.wld ∧ s'.tile = s.tile ∧ s'.bays = s.bays ∧
    s'.ldg = s.ldg ∧ s'.hld = s.hld ∧ s'.mem = s.mem ∧ s'.pending = s.pending

abbrev SameBut_draws_hld (s s' : State) : Prop :=
    s'.now = s.now ∧ s'.pow = s.pow ∧ s'.pins = s.pins ∧ s'.bkp = s.bkp ∧ s'.sys = s.sys ∧ s'.fuse = s.fuse ∧
    s'.boot = s.boot ∧ s'.seed = s.seed ∧ s'.clk = s.clk ∧ s'.chs = s.chs ∧ s'.drill = s.drill ∧ s'.books =
    s.books ∧ s'.cores = s.cores ∧ s'.cache = s.cache ∧ s'.guard = s.guard ∧ s'.wld = s.wld ∧ s'.tile = s.tile ∧
    s'.bays = s.bays ∧ s'.grn = s.grn ∧ s'.ldg = s.ldg ∧ s'.mem = s.mem ∧ s'.pending = s.pending

abbrev SameBut_draws_pow_clk_chs_drill_guard_bays (s s' : State) : Prop :=
    s'.now = s.now ∧ s'.pins = s.pins ∧ s'.bkp = s.bkp ∧ s'.sys = s.sys ∧ s'.fuse = s.fuse ∧ s'.boot = s.boot ∧
    s'.seed = s.seed ∧ s'.books = s.books ∧ s'.cores = s.cores ∧ s'.cache = s.cache ∧ s'.wld = s.wld ∧ s'.tile =
    s.tile ∧ s'.grn = s.grn ∧ s'.ldg = s.ldg ∧ s'.hld = s.hld ∧ s'.mem = s.mem ∧ s'.pending = s.pending

abbrev SameBut_draws_pow_clk_guard_bays (s s' : State) : Prop :=
    s'.now = s.now ∧ s'.pins = s.pins ∧ s'.bkp = s.bkp ∧ s'.sys = s.sys ∧ s'.fuse = s.fuse ∧ s'.boot = s.boot ∧
    s'.seed = s.seed ∧ s'.chs = s.chs ∧ s'.drill = s.drill ∧ s'.books = s.books ∧ s'.cores = s.cores ∧ s'.cache =
    s.cache ∧ s'.wld = s.wld ∧ s'.tile = s.tile ∧ s'.grn = s.grn ∧ s'.ldg = s.ldg ∧ s'.hld = s.hld ∧ s'.mem =
    s.mem ∧ s'.pending = s.pending

abbrev SameBut_draws_pow_seed_clk_chs_drill_guard_bays_mem (s s' : State) : Prop :=
    s'.now = s.now ∧ s'.pins = s.pins ∧ s'.bkp = s.bkp ∧ s'.sys = s.sys ∧ s'.fuse = s.fuse ∧ s'.boot = s.boot ∧
    s'.books = s.books ∧ s'.cores = s.cores ∧ s'.cache = s.cache ∧ s'.wld = s.wld ∧ s'.tile = s.tile ∧ s'.grn =
    s.grn ∧ s'.ldg = s.ldg ∧ s'.hld = s.hld ∧ s'.pending = s.pending

abbrev SameBut_drill (s s' : State) : Prop :=
    s'.now = s.now ∧ s'.draws = s.draws ∧ s'.pow = s.pow ∧ s'.pins = s.pins ∧ s'.bkp = s.bkp ∧ s'.sys = s.sys ∧
    s'.fuse = s.fuse ∧ s'.boot = s.boot ∧ s'.seed = s.seed ∧ s'.clk = s.clk ∧ s'.chs = s.chs ∧ s'.books = s.books
    ∧ s'.cores = s.cores ∧ s'.cache = s.cache ∧ s'.guard = s.guard ∧ s'.wld = s.wld ∧ s'.tile = s.tile ∧ s'.bays =
    s.bays ∧ s'.grn = s.grn ∧ s'.ldg = s.ldg ∧ s'.hld = s.hld ∧ s'.mem = s.mem ∧ s'.pending = s.pending

abbrev SameBut_drill_bays (s s' : State) : Prop :=
    s'.now = s.now ∧ s'.draws = s.draws ∧ s'.pow = s.pow ∧ s'.pins = s.pins ∧ s'.bkp = s.bkp ∧ s'.sys = s.sys ∧
    s'.fuse = s.fuse ∧ s'.boot = s.boot ∧ s'.seed = s.seed ∧ s'.clk = s.clk ∧ s'.chs = s.chs ∧ s'.books = s.books
    ∧ s'.cores = s.cores ∧ s'.cache = s.cache ∧ s'.guard = s.guard ∧ s'.wld = s.wld ∧ s'.tile = s.tile ∧ s'.grn =
    s.grn ∧ s'.ldg = s.ldg ∧ s'.hld = s.hld ∧ s'.mem = s.mem ∧ s'.pending = s.pending

abbrev SameBut_drill_cores (s s' : State) : Prop :=
    s'.now = s.now ∧ s'.draws = s.draws ∧ s'.pow = s.pow ∧ s'.pins = s.pins ∧ s'.bkp = s.bkp ∧ s'.sys = s.sys ∧
    s'.fuse = s.fuse ∧ s'.boot = s.boot ∧ s'.seed = s.seed ∧ s'.clk = s.clk ∧ s'.chs = s.chs ∧ s'.books = s.books
    ∧ s'.cache = s.cache ∧ s'.guard = s.guard ∧ s'.wld = s.wld ∧ s'.tile = s.tile ∧ s'.bays = s.bays ∧ s'.grn =
    s.grn ∧ s'.ldg = s.ldg ∧ s'.hld = s.hld ∧ s'.mem = s.mem ∧ s'.pending = s.pending

abbrev SameBut_drill_cores_guard (s s' : State) : Prop :=
    s'.now = s.now ∧ s'.draws = s.draws ∧ s'.pow = s.pow ∧ s'.pins = s.pins ∧ s'.bkp = s.bkp ∧ s'.sys = s.sys ∧
    s'.fuse = s.fuse ∧ s'.boot = s.boot ∧ s'.seed = s.seed ∧ s'.clk = s.clk ∧ s'.chs = s.chs ∧ s'.books = s.books
    ∧ s'.cache = s.cache ∧ s'.wld = s.wld ∧ s'.tile = s.tile ∧ s'.bays = s.bays ∧ s'.grn = s.grn ∧ s'.ldg = s.ldg
    ∧ s'.hld = s.hld ∧ s'.mem = s.mem ∧ s'.pending = s.pending

abbrev SameBut_drill_guard (s s' : State) : Prop :=
    s'.now = s.now ∧ s'.draws = s.draws ∧ s'.pow = s.pow ∧ s'.pins = s.pins ∧ s'.bkp = s.bkp ∧ s'.sys = s.sys ∧
    s'.fuse = s.fuse ∧ s'.boot = s.boot ∧ s'.seed = s.seed ∧ s'.clk = s.clk ∧ s'.chs = s.chs ∧ s'.books = s.books
    ∧ s'.cores = s.cores ∧ s'.cache = s.cache ∧ s'.wld = s.wld ∧ s'.tile = s.tile ∧ s'.bays = s.bays ∧ s'.grn =
    s.grn ∧ s'.ldg = s.ldg ∧ s'.hld = s.hld ∧ s'.mem = s.mem ∧ s'.pending = s.pending

abbrev SameBut_fuse (s s' : State) : Prop :=
    s'.now = s.now ∧ s'.draws = s.draws ∧ s'.pow = s.pow ∧ s'.pins = s.pins ∧ s'.bkp = s.bkp ∧ s'.sys = s.sys ∧
    s'.boot = s.boot ∧ s'.seed = s.seed ∧ s'.clk = s.clk ∧ s'.chs = s.chs ∧ s'.drill = s.drill ∧ s'.books =
    s.books ∧ s'.cores = s.cores ∧ s'.cache = s.cache ∧ s'.guard = s.guard ∧ s'.wld = s.wld ∧ s'.tile = s.tile ∧
    s'.bays = s.bays ∧ s'.grn = s.grn ∧ s'.ldg = s.ldg ∧ s'.hld = s.hld ∧ s'.mem = s.mem ∧ s'.pending = s.pending

abbrev SameBut_fuse_hld (s s' : State) : Prop :=
    s'.now = s.now ∧ s'.draws = s.draws ∧ s'.pow = s.pow ∧ s'.pins = s.pins ∧ s'.bkp = s.bkp ∧ s'.sys = s.sys ∧
    s'.boot = s.boot ∧ s'.seed = s.seed ∧ s'.clk = s.clk ∧ s'.chs = s.chs ∧ s'.drill = s.drill ∧ s'.books =
    s.books ∧ s'.cores = s.cores ∧ s'.cache = s.cache ∧ s'.guard = s.guard ∧ s'.wld = s.wld ∧ s'.tile = s.tile ∧
    s'.bays = s.bays ∧ s'.grn = s.grn ∧ s'.ldg = s.ldg ∧ s'.mem = s.mem ∧ s'.pending = s.pending

abbrev SameBut_grn (s s' : State) : Prop :=
    s'.now = s.now ∧ s'.draws = s.draws ∧ s'.pow = s.pow ∧ s'.pins = s.pins ∧ s'.bkp = s.bkp ∧ s'.sys = s.sys ∧
    s'.fuse = s.fuse ∧ s'.boot = s.boot ∧ s'.seed = s.seed ∧ s'.clk = s.clk ∧ s'.chs = s.chs ∧ s'.drill = s.drill
    ∧ s'.books = s.books ∧ s'.cores = s.cores ∧ s'.cache = s.cache ∧ s'.guard = s.guard ∧ s'.wld = s.wld ∧ s'.tile
    = s.tile ∧ s'.bays = s.bays ∧ s'.ldg = s.ldg ∧ s'.hld = s.hld ∧ s'.mem = s.mem ∧ s'.pending = s.pending

abbrev SameBut_grn_ldg_mem (s s' : State) : Prop :=
    s'.now = s.now ∧ s'.draws = s.draws ∧ s'.pow = s.pow ∧ s'.pins = s.pins ∧ s'.bkp = s.bkp ∧ s'.sys = s.sys ∧
    s'.fuse = s.fuse ∧ s'.boot = s.boot ∧ s'.seed = s.seed ∧ s'.clk = s.clk ∧ s'.chs = s.chs ∧ s'.drill = s.drill
    ∧ s'.books = s.books ∧ s'.cores = s.cores ∧ s'.cache = s.cache ∧ s'.guard = s.guard ∧ s'.wld = s.wld ∧ s'.tile
    = s.tile ∧ s'.bays = s.bays ∧ s'.hld = s.hld ∧ s'.pending = s.pending

abbrev SameBut_guard (s s' : State) : Prop :=
    s'.now = s.now ∧ s'.draws = s.draws ∧ s'.pow = s.pow ∧ s'.pins = s.pins ∧ s'.bkp = s.bkp ∧ s'.sys = s.sys ∧
    s'.fuse = s.fuse ∧ s'.boot = s.boot ∧ s'.seed = s.seed ∧ s'.clk = s.clk ∧ s'.chs = s.chs ∧ s'.drill = s.drill
    ∧ s'.books = s.books ∧ s'.cores = s.cores ∧ s'.cache = s.cache ∧ s'.wld = s.wld ∧ s'.tile = s.tile ∧ s'.bays =
    s.bays ∧ s'.grn = s.grn ∧ s'.ldg = s.ldg ∧ s'.hld = s.hld ∧ s'.mem = s.mem ∧ s'.pending = s.pending

abbrev SameBut_guard_tile (s s' : State) : Prop :=
    s'.now = s.now ∧ s'.draws = s.draws ∧ s'.pow = s.pow ∧ s'.pins = s.pins ∧ s'.bkp = s.bkp ∧ s'.sys = s.sys ∧
    s'.fuse = s.fuse ∧ s'.boot = s.boot ∧ s'.seed = s.seed ∧ s'.clk = s.clk ∧ s'.chs = s.chs ∧ s'.drill = s.drill
    ∧ s'.books = s.books ∧ s'.cores = s.cores ∧ s'.cache = s.cache ∧ s'.wld = s.wld ∧ s'.bays = s.bays ∧ s'.grn =
    s.grn ∧ s'.ldg = s.ldg ∧ s'.hld = s.hld ∧ s'.mem = s.mem ∧ s'.pending = s.pending

abbrev SameBut_hld (s s' : State) : Prop :=
    s'.now = s.now ∧ s'.draws = s.draws ∧ s'.pow = s.pow ∧ s'.pins = s.pins ∧ s'.bkp = s.bkp ∧ s'.sys = s.sys ∧
    s'.fuse = s.fuse ∧ s'.boot = s.boot ∧ s'.seed = s.seed ∧ s'.clk = s.clk ∧ s'.chs = s.chs ∧ s'.drill = s.drill
    ∧ s'.books = s.books ∧ s'.cores = s.cores ∧ s'.cache = s.cache ∧ s'.guard = s.guard ∧ s'.wld = s.wld ∧ s'.tile
    = s.tile ∧ s'.bays = s.bays ∧ s'.grn = s.grn ∧ s'.ldg = s.ldg ∧ s'.mem = s.mem ∧ s'.pending = s.pending

abbrev SameBut_hld_mem (s s' : State) : Prop :=
    s'.now = s.now ∧ s'.draws = s.draws ∧ s'.pow = s.pow ∧ s'.pins = s.pins ∧ s'.bkp = s.bkp ∧ s'.sys = s.sys ∧
    s'.fuse = s.fuse ∧ s'.boot = s.boot ∧ s'.seed = s.seed ∧ s'.clk = s.clk ∧ s'.chs = s.chs ∧ s'.drill = s.drill
    ∧ s'.books = s.books ∧ s'.cores = s.cores ∧ s'.cache = s.cache ∧ s'.guard = s.guard ∧ s'.wld = s.wld ∧ s'.tile
    = s.tile ∧ s'.bays = s.bays ∧ s'.grn = s.grn ∧ s'.ldg = s.ldg ∧ s'.pending = s.pending

abbrev SameBut_ldg (s s' : State) : Prop :=
    s'.now = s.now ∧ s'.draws = s.draws ∧ s'.pow = s.pow ∧ s'.pins = s.pins ∧ s'.bkp = s.bkp ∧ s'.sys = s.sys ∧
    s'.fuse = s.fuse ∧ s'.boot = s.boot ∧ s'.seed = s.seed ∧ s'.clk = s.clk ∧ s'.chs = s.chs ∧ s'.drill = s.drill
    ∧ s'.books = s.books ∧ s'.cores = s.cores ∧ s'.cache = s.cache ∧ s'.guard = s.guard ∧ s'.wld = s.wld ∧ s'.tile
    = s.tile ∧ s'.bays = s.bays ∧ s'.grn = s.grn ∧ s'.hld = s.hld ∧ s'.mem = s.mem ∧ s'.pending = s.pending

abbrev SameBut_ldg_hld (s s' : State) : Prop :=
    s'.now = s.now ∧ s'.draws = s.draws ∧ s'.pow = s.pow ∧ s'.pins = s.pins ∧ s'.bkp = s.bkp ∧ s'.sys = s.sys ∧
    s'.fuse = s.fuse ∧ s'.boot = s.boot ∧ s'.seed = s.seed ∧ s'.clk = s.clk ∧ s'.chs = s.chs ∧ s'.drill = s.drill
    ∧ s'.books = s.books ∧ s'.cores = s.cores ∧ s'.cache = s.cache ∧ s'.guard = s.guard ∧ s'.wld = s.wld ∧ s'.tile
    = s.tile ∧ s'.bays = s.bays ∧ s'.grn = s.grn ∧ s'.mem = s.mem ∧ s'.pending = s.pending

abbrev SameBut_ldg_mem (s s' : State) : Prop :=
    s'.now = s.now ∧ s'.draws = s.draws ∧ s'.pow = s.pow ∧ s'.pins = s.pins ∧ s'.bkp = s.bkp ∧ s'.sys = s.sys ∧
    s'.fuse = s.fuse ∧ s'.boot = s.boot ∧ s'.seed = s.seed ∧ s'.clk = s.clk ∧ s'.chs = s.chs ∧ s'.drill = s.drill
    ∧ s'.books = s.books ∧ s'.cores = s.cores ∧ s'.cache = s.cache ∧ s'.guard = s.guard ∧ s'.wld = s.wld ∧ s'.tile
    = s.tile ∧ s'.bays = s.bays ∧ s'.grn = s.grn ∧ s'.hld = s.hld ∧ s'.pending = s.pending

abbrev SameBut_mem (s s' : State) : Prop :=
    s'.now = s.now ∧ s'.draws = s.draws ∧ s'.pow = s.pow ∧ s'.pins = s.pins ∧ s'.bkp = s.bkp ∧ s'.sys = s.sys ∧
    s'.fuse = s.fuse ∧ s'.boot = s.boot ∧ s'.seed = s.seed ∧ s'.clk = s.clk ∧ s'.chs = s.chs ∧ s'.drill = s.drill
    ∧ s'.books = s.books ∧ s'.cores = s.cores ∧ s'.cache = s.cache ∧ s'.guard = s.guard ∧ s'.wld = s.wld ∧ s'.tile
    = s.tile ∧ s'.bays = s.bays ∧ s'.grn = s.grn ∧ s'.ldg = s.ldg ∧ s'.hld = s.hld ∧ s'.pending = s.pending

abbrev SameBut_now_bkp_drill_cores_wld (s s' : State) : Prop :=
    s'.draws = s.draws ∧ s'.pow = s.pow ∧ s'.pins = s.pins ∧ s'.sys = s.sys ∧ s'.fuse = s.fuse ∧ s'.boot = s.boot
    ∧ s'.seed = s.seed ∧ s'.clk = s.clk ∧ s'.chs = s.chs ∧ s'.books = s.books ∧ s'.cache = s.cache ∧ s'.guard =
    s.guard ∧ s'.tile = s.tile ∧ s'.bays = s.bays ∧ s'.grn = s.grn ∧ s'.ldg = s.ldg ∧ s'.hld = s.hld ∧ s'.mem =
    s.mem ∧ s'.pending = s.pending

abbrev SameBut_pending (s s' : State) : Prop :=
    s'.now = s.now ∧ s'.draws = s.draws ∧ s'.pow = s.pow ∧ s'.pins = s.pins ∧ s'.bkp = s.bkp ∧ s'.sys = s.sys ∧
    s'.fuse = s.fuse ∧ s'.boot = s.boot ∧ s'.seed = s.seed ∧ s'.clk = s.clk ∧ s'.chs = s.chs ∧ s'.drill = s.drill
    ∧ s'.books = s.books ∧ s'.cores = s.cores ∧ s'.cache = s.cache ∧ s'.guard = s.guard ∧ s'.wld = s.wld ∧ s'.tile
    = s.tile ∧ s'.bays = s.bays ∧ s'.grn = s.grn ∧ s'.ldg = s.ldg ∧ s'.hld = s.hld ∧ s'.mem = s.mem

abbrev SameBut_pins_bkp_sys_seed_clk_cores_cache_guard_tile_ldg_hld_mem (s s' : State) : Prop :=
    s'.now = s.now ∧ s'.draws = s.draws ∧ s'.pow = s.pow ∧ s'.fuse = s.fuse ∧ s'.boot = s.boot ∧ s'.chs = s.chs ∧
    s'.drill = s.drill ∧ s'.books = s.books ∧ s'.wld = s.wld ∧ s'.bays = s.bays ∧ s'.grn = s.grn ∧ s'.pending =
    s.pending

abbrev SameBut_pow (s s' : State) : Prop :=
    s'.now = s.now ∧ s'.draws = s.draws ∧ s'.pins = s.pins ∧ s'.bkp = s.bkp ∧ s'.sys = s.sys ∧ s'.fuse = s.fuse ∧
    s'.boot = s.boot ∧ s'.seed = s.seed ∧ s'.clk = s.clk ∧ s'.chs = s.chs ∧ s'.drill = s.drill ∧ s'.books =
    s.books ∧ s'.cores = s.cores ∧ s'.cache = s.cache ∧ s'.guard = s.guard ∧ s'.wld = s.wld ∧ s'.tile = s.tile ∧
    s'.bays = s.bays ∧ s'.grn = s.grn ∧ s'.ldg = s.ldg ∧ s'.hld = s.hld ∧ s'.mem = s.mem ∧ s'.pending = s.pending

abbrev SameBut_pow_bkp (s s' : State) : Prop :=
    s'.now = s.now ∧ s'.draws = s.draws ∧ s'.pins = s.pins ∧ s'.sys = s.sys ∧ s'.fuse = s.fuse ∧ s'.boot = s.boot
    ∧ s'.seed = s.seed ∧ s'.clk = s.clk ∧ s'.chs = s.chs ∧ s'.drill = s.drill ∧ s'.books = s.books ∧ s'.cores =
    s.cores ∧ s'.cache = s.cache ∧ s'.guard = s.guard ∧ s'.wld = s.wld ∧ s'.tile = s.tile ∧ s'.bays = s.bays ∧
    s'.grn = s.grn ∧ s'.ldg = s.ldg ∧ s'.hld = s.hld ∧ s'.mem = s.mem ∧ s'.pending = s.pending

abbrev SameBut_pow_bkp_sys_clk_chs_drill_books_cores_cache_guard_tile_grn (s s' : State) : Prop :=
    s'.now = s.now ∧ s'.draws = s.draws ∧ s'.pins = s.pins ∧ s'.fuse = s.fuse ∧ s'.boot = s.boot ∧ s'.seed =
    s.seed ∧ s'.wld = s.wld ∧ s'.bays = s.bays ∧ s'.ldg = s.ldg ∧ s'.hld = s.hld ∧ s'.mem = s.mem ∧ s'.pending =
    s.pending

abbrev SameBut_pow_bkp_sys_fuse_boot_clk_chs_drill_bays_ldg_hld_mem (s s' : State) : Prop :=
    s'.now = s.now ∧ s'.draws = s.draws ∧ s'.pins = s.pins ∧ s'.seed = s.seed ∧ s'.books = s.books ∧ s'.cores =
    s.cores ∧ s'.cache = s.cache ∧ s'.guard = s.guard ∧ s'.wld = s.wld ∧ s'.tile = s.tile ∧ s'.grn = s.grn ∧
    s'.pending = s.pending

abbrev SameBut_pow_clk_bays (s s' : State) : Prop :=
    s'.now = s.now ∧ s'.draws = s.draws ∧ s'.pins = s.pins ∧ s'.bkp = s.bkp ∧ s'.sys = s.sys ∧ s'.fuse = s.fuse ∧
    s'.boot = s.boot ∧ s'.seed = s.seed ∧ s'.chs = s.chs ∧ s'.drill = s.drill ∧ s'.books = s.books ∧ s'.cores =
    s.cores ∧ s'.cache = s.cache ∧ s'.guard = s.guard ∧ s'.wld = s.wld ∧ s'.tile = s.tile ∧ s'.grn = s.grn ∧
    s'.ldg = s.ldg ∧ s'.hld = s.hld ∧ s'.mem = s.mem ∧ s'.pending = s.pending

abbrev SameBut_pow_clk_chs_drill_bays (s s' : State) : Prop :=
    s'.now = s.now ∧ s'.draws = s.draws ∧ s'.pins = s.pins ∧ s'.bkp = s.bkp ∧ s'.sys = s.sys ∧ s'.fuse = s.fuse ∧
    s'.boot = s.boot ∧ s'.seed = s.seed ∧ s'.books = s.books ∧ s'.cores = s.cores ∧ s'.cache = s.cache ∧ s'.guard
    = s.guard ∧ s'.wld = s.wld ∧ s'.tile = s.tile ∧ s'.grn = s.grn ∧ s'.ldg = s.ldg ∧ s'.hld = s.hld ∧ s'.mem =
    s.mem ∧ s'.pending = s.pending

abbrev SameBut_pow_clk_chs_drill_cores_guard_bays (s s' : State) : Prop :=
    s'.now = s.now ∧ s'.draws = s.draws ∧ s'.pins = s.pins ∧ s'.bkp = s.bkp ∧ s'.sys = s.sys ∧ s'.fuse = s.fuse ∧
    s'.boot = s.boot ∧ s'.seed = s.seed ∧ s'.books = s.books ∧ s'.cache = s.cache ∧ s'.wld = s.wld ∧ s'.tile =
    s.tile ∧ s'.grn = s.grn ∧ s'.ldg = s.ldg ∧ s'.hld = s.hld ∧ s'.mem = s.mem ∧ s'.pending = s.pending

abbrev SameBut_pow_clk_chs_drill_guard_bays (s s' : State) : Prop :=
    s'.now = s.now ∧ s'.draws = s.draws ∧ s'.pins = s.pins ∧ s'.bkp = s.bkp ∧ s'.sys = s.sys ∧ s'.fuse = s.fuse ∧
    s'.boot = s.boot ∧ s'.seed = s.seed ∧ s'.books = s.books ∧ s'.cores = s.cores ∧ s'.cache = s.cache ∧ s'.wld =
    s.wld ∧ s'.tile = s.tile ∧ s'.grn = s.grn ∧ s'.ldg = s.ldg ∧ s'.hld = s.hld ∧ s'.mem = s.mem ∧ s'.pending =
    s.pending

abbrev SameBut_pow_clk_chs_drill_guard_bays_grn (s s' : State) : Prop :=
    s'.now = s.now ∧ s'.draws = s.draws ∧ s'.pins = s.pins ∧ s'.bkp = s.bkp ∧ s'.sys = s.sys ∧ s'.fuse = s.fuse ∧
    s'.boot = s.boot ∧ s'.seed = s.seed ∧ s'.books = s.books ∧ s'.cores = s.cores ∧ s'.cache = s.cache ∧ s'.wld =
    s.wld ∧ s'.tile = s.tile ∧ s'.ldg = s.ldg ∧ s'.hld = s.hld ∧ s'.mem = s.mem ∧ s'.pending = s.pending

abbrev SameBut_pow_clk_chs_drill_guard_bays_hld (s s' : State) : Prop :=
    s'.now = s.now ∧ s'.draws = s.draws ∧ s'.pins = s.pins ∧ s'.bkp = s.bkp ∧ s'.sys = s.sys ∧ s'.fuse = s.fuse ∧
    s'.boot = s.boot ∧ s'.seed = s.seed ∧ s'.books = s.books ∧ s'.cores = s.cores ∧ s'.cache = s.cache ∧ s'.wld =
    s.wld ∧ s'.tile = s.tile ∧ s'.grn = s.grn ∧ s'.ldg = s.ldg ∧ s'.mem = s.mem ∧ s'.pending = s.pending

abbrev SameBut_pow_clk_chs_drill_guard_bays_ldg_mem (s s' : State) : Prop :=
    s'.now = s.now ∧ s'.draws = s.draws ∧ s'.pins = s.pins ∧ s'.bkp = s.bkp ∧ s'.sys = s.sys ∧ s'.fuse = s.fuse ∧
    s'.boot = s.boot ∧ s'.seed = s.seed ∧ s'.books = s.books ∧ s'.cores = s.cores ∧ s'.cache = s.cache ∧ s'.wld =
    s.wld ∧ s'.tile = s.tile ∧ s'.grn = s.grn ∧ s'.hld = s.hld ∧ s'.pending = s.pending

abbrev SameBut_pow_clk_drill (s s' : State) : Prop :=
    s'.now = s.now ∧ s'.draws = s.draws ∧ s'.pins = s.pins ∧ s'.bkp = s.bkp ∧ s'.sys = s.sys ∧ s'.fuse = s.fuse ∧
    s'.boot = s.boot ∧ s'.seed = s.seed ∧ s'.chs = s.chs ∧ s'.books = s.books ∧ s'.cores = s.cores ∧ s'.cache =
    s.cache ∧ s'.guard = s.guard ∧ s'.wld = s.wld ∧ s'.tile = s.tile ∧ s'.bays = s.bays ∧ s'.grn = s.grn ∧ s'.ldg
    = s.ldg ∧ s'.hld = s.hld ∧ s'.mem = s.mem ∧ s'.pending = s.pending

abbrev SameBut_pow_clk_drill_bays (s s' : State) : Prop :=
    s'.now = s.now ∧ s'.draws = s.draws ∧ s'.pins = s.pins ∧ s'.bkp = s.bkp ∧ s'.sys = s.sys ∧ s'.fuse = s.fuse ∧
    s'.boot = s.boot ∧ s'.seed = s.seed ∧ s'.chs = s.chs ∧ s'.books = s.books ∧ s'.cores = s.cores ∧ s'.cache =
    s.cache ∧ s'.guard = s.guard ∧ s'.wld = s.wld ∧ s'.tile = s.tile ∧ s'.grn = s.grn ∧ s'.ldg = s.ldg ∧ s'.hld =
    s.hld ∧ s'.mem = s.mem ∧ s'.pending = s.pending

abbrev SameBut_pow_clk_guard_bays (s s' : State) : Prop :=
    s'.now = s.now ∧ s'.draws = s.draws ∧ s'.pins = s.pins ∧ s'.bkp = s.bkp ∧ s'.sys = s.sys ∧ s'.fuse = s.fuse ∧
    s'.boot = s.boot ∧ s'.seed = s.seed ∧ s'.chs = s.chs ∧ s'.drill = s.drill ∧ s'.books = s.books ∧ s'.cores =
    s.cores ∧ s'.cache = s.cache ∧ s'.wld = s.wld ∧ s'.tile = s.tile ∧ s'.grn = s.grn ∧ s'.ldg = s.ldg ∧ s'.hld =
    s.hld ∧ s'.mem = s.mem ∧ s'.pending = s.pending

abbrev SameBut_pow_clk_ldg (s s' : State) : Prop :=
    s'.now = s.now ∧ s'.draws = s.draws ∧ s'.pins = s.pins ∧ s'.bkp = s.bkp ∧ s'.sys = s.sys ∧ s'.fuse = s.fuse ∧
    s'.boot = s.boot ∧ s'.seed = s.seed ∧ s'.chs = s.chs ∧ s'.drill = s.drill ∧ s'.books = s.books ∧ s'.cores =
    s.cores ∧ s'.cache = s.cache ∧ s'.guard = s.guard ∧ s'.wld = s.wld ∧ s'.tile = s.tile ∧ s'.bays = s.bays ∧
    s'.grn = s.grn ∧ s'.hld = s.hld ∧ s'.mem = s.mem ∧ s'.pending = s.pending

abbrev SameBut_pow_seed_clk_chs_drill_guard_bays_grn_hld (s s' : State) : Prop :=
    s'.now = s.now ∧ s'.draws = s.draws ∧ s'.pins = s.pins ∧ s'.bkp = s.bkp ∧ s'.sys = s.sys ∧ s'.fuse = s.fuse ∧
    s'.boot = s.boot ∧ s'.books = s.books ∧ s'.cores = s.cores ∧ s'.cache = s.cache ∧ s'.wld = s.wld ∧ s'.tile =
    s.tile ∧ s'.ldg = s.ldg ∧ s'.mem = s.mem ∧ s'.pending = s.pending

abbrev SameBut_pow_sys_clk_chs_drill_cores_wld_bays_ldg_mem (s s' : State) : Prop :=
    s'.now = s.now ∧ s'.draws = s.draws ∧ s'.pins = s.pins ∧ s'.bkp = s.bkp ∧ s'.fuse = s.fuse ∧ s'.boot = s.boot
    ∧ s'.seed = s.seed ∧ s'.books = s.books ∧ s'.cache = s.cache ∧ s'.guard = s.guard ∧ s'.tile = s.tile ∧ s'.grn
    = s.grn ∧ s'.hld = s.hld ∧ s'.pending = s.pending

abbrev SameBut_seed (s s' : State) : Prop :=
    s'.now = s.now ∧ s'.draws = s.draws ∧ s'.pow = s.pow ∧ s'.pins = s.pins ∧ s'.bkp = s.bkp ∧ s'.sys = s.sys ∧
    s'.fuse = s.fuse ∧ s'.boot = s.boot ∧ s'.clk = s.clk ∧ s'.chs = s.chs ∧ s'.drill = s.drill ∧ s'.books =
    s.books ∧ s'.cores = s.cores ∧ s'.cache = s.cache ∧ s'.guard = s.guard ∧ s'.wld = s.wld ∧ s'.tile = s.tile ∧
    s'.bays = s.bays ∧ s'.grn = s.grn ∧ s'.ldg = s.ldg ∧ s'.hld = s.hld ∧ s'.mem = s.mem ∧ s'.pending = s.pending

abbrev SameBut_seed_clk_cores_cache_guard_tile_hld (s s' : State) : Prop :=
    s'.now = s.now ∧ s'.draws = s.draws ∧ s'.pow = s.pow ∧ s'.pins = s.pins ∧ s'.bkp = s.bkp ∧ s'.sys = s.sys ∧
    s'.fuse = s.fuse ∧ s'.boot = s.boot ∧ s'.chs = s.chs ∧ s'.drill = s.drill ∧ s'.books = s.books ∧ s'.wld =
    s.wld ∧ s'.bays = s.bays ∧ s'.grn = s.grn ∧ s'.ldg = s.ldg ∧ s'.mem = s.mem ∧ s'.pending = s.pending

abbrev SameBut_seed_hld (s s' : State) : Prop :=
    s'.now = s.now ∧ s'.draws = s.draws ∧ s'.pow = s.pow ∧ s'.pins = s.pins ∧ s'.bkp = s.bkp ∧ s'.sys = s.sys ∧
    s'.fuse = s.fuse ∧ s'.boot = s.boot ∧ s'.clk = s.clk ∧ s'.chs = s.chs ∧ s'.drill = s.drill ∧ s'.books =
    s.books ∧ s'.cores = s.cores ∧ s'.cache = s.cache ∧ s'.guard = s.guard ∧ s'.wld = s.wld ∧ s'.tile = s.tile ∧
    s'.bays = s.bays ∧ s'.grn = s.grn ∧ s'.ldg = s.ldg ∧ s'.mem = s.mem ∧ s'.pending = s.pending

abbrev SameBut_seed_hld_mem (s s' : State) : Prop :=
    s'.now = s.now ∧ s'.draws = s.draws ∧ s'.pow = s.pow ∧ s'.pins = s.pins ∧ s'.bkp = s.bkp ∧ s'.sys = s.sys ∧
    s'.fuse = s.fuse ∧ s'.boot = s.boot ∧ s'.clk = s.clk ∧ s'.chs = s.chs ∧ s'.drill = s.drill ∧ s'.books =
    s.books ∧ s'.cores = s.cores ∧ s'.cache = s.cache ∧ s'.guard = s.guard ∧ s'.wld = s.wld ∧ s'.tile = s.tile ∧
    s'.bays = s.bays ∧ s'.grn = s.grn ∧ s'.ldg = s.ldg ∧ s'.pending = s.pending

abbrev SameBut_seed_mem (s s' : State) : Prop :=
    s'.now = s.now ∧ s'.draws = s.draws ∧ s'.pow = s.pow ∧ s'.pins = s.pins ∧ s'.bkp = s.bkp ∧ s'.sys = s.sys ∧
    s'.fuse = s.fuse ∧ s'.boot = s.boot ∧ s'.clk = s.clk ∧ s'.chs = s.chs ∧ s'.drill = s.drill ∧ s'.books =
    s.books ∧ s'.cores = s.cores ∧ s'.cache = s.cache ∧ s'.guard = s.guard ∧ s'.wld = s.wld ∧ s'.tile = s.tile ∧
    s'.bays = s.bays ∧ s'.grn = s.grn ∧ s'.ldg = s.ldg ∧ s'.hld = s.hld ∧ s'.pending = s.pending

abbrev SameBut_sys (s s' : State) : Prop :=
    s'.now = s.now ∧ s'.draws = s.draws ∧ s'.pow = s.pow ∧ s'.pins = s.pins ∧ s'.bkp = s.bkp ∧ s'.fuse = s.fuse ∧
    s'.boot = s.boot ∧ s'.seed = s.seed ∧ s'.clk = s.clk ∧ s'.chs = s.chs ∧ s'.drill = s.drill ∧ s'.books =
    s.books ∧ s'.cores = s.cores ∧ s'.cache = s.cache ∧ s'.guard = s.guard ∧ s'.wld = s.wld ∧ s'.tile = s.tile ∧
    s'.bays = s.bays ∧ s'.grn = s.grn ∧ s'.ldg = s.ldg ∧ s'.hld = s.hld ∧ s'.mem = s.mem ∧ s'.pending = s.pending

abbrev SameBut_sys_ldg_hld_mem (s s' : State) : Prop :=
    s'.now = s.now ∧ s'.draws = s.draws ∧ s'.pow = s.pow ∧ s'.pins = s.pins ∧ s'.bkp = s.bkp ∧ s'.fuse = s.fuse ∧
    s'.boot = s.boot ∧ s'.seed = s.seed ∧ s'.clk = s.clk ∧ s'.chs = s.chs ∧ s'.drill = s.drill ∧ s'.books =
    s.books ∧ s'.cores = s.cores ∧ s'.cache = s.cache ∧ s'.guard = s.guard ∧ s'.wld = s.wld ∧ s'.tile = s.tile ∧
    s'.bays = s.bays ∧ s'.grn = s.grn ∧ s'.pending = s.pending

abbrev SameBut_sys_ldg_mem (s s' : State) : Prop :=
    s'.now = s.now ∧ s'.draws = s.draws ∧ s'.pow = s.pow ∧ s'.pins = s.pins ∧ s'.bkp = s.bkp ∧ s'.fuse = s.fuse ∧
    s'.boot = s.boot ∧ s'.seed = s.seed ∧ s'.clk = s.clk ∧ s'.chs = s.chs ∧ s'.drill = s.drill ∧ s'.books =
    s.books ∧ s'.cores = s.cores ∧ s'.cache = s.cache ∧ s'.guard = s.guard ∧ s'.wld = s.wld ∧ s'.tile = s.tile ∧
    s'.bays = s.bays ∧ s'.grn = s.grn ∧ s'.hld = s.hld ∧ s'.pending = s.pending

abbrev SameBut_sys_seed_clk_chs_cores_cache_guard_tile_ldg_hld_mem (s s' : State) : Prop :=
    s'.now = s.now ∧ s'.draws = s.draws ∧ s'.pow = s.pow ∧ s'.pins = s.pins ∧ s'.bkp = s.bkp ∧ s'.fuse = s.fuse ∧
    s'.boot = s.boot ∧ s'.drill = s.drill ∧ s'.books = s.books ∧ s'.wld = s.wld ∧ s'.bays = s.bays ∧ s'.grn =
    s.grn ∧ s'.pending = s.pending

abbrev SameBut_sys_seed_clk_cores_cache_guard_tile_ldg_hld_mem (s s' : State) : Prop :=
    s'.now = s.now ∧ s'.draws = s.draws ∧ s'.pow = s.pow ∧ s'.pins = s.pins ∧ s'.bkp = s.bkp ∧ s'.fuse = s.fuse ∧
    s'.boot = s.boot ∧ s'.chs = s.chs ∧ s'.drill = s.drill ∧ s'.books = s.books ∧ s'.wld = s.wld ∧ s'.bays =
    s.bays ∧ s'.grn = s.grn ∧ s'.pending = s.pending

abbrev SameBut_tile (s s' : State) : Prop :=
    s'.now = s.now ∧ s'.draws = s.draws ∧ s'.pow = s.pow ∧ s'.pins = s.pins ∧ s'.bkp = s.bkp ∧ s'.sys = s.sys ∧
    s'.fuse = s.fuse ∧ s'.boot = s.boot ∧ s'.seed = s.seed ∧ s'.clk = s.clk ∧ s'.chs = s.chs ∧ s'.drill = s.drill
    ∧ s'.books = s.books ∧ s'.cores = s.cores ∧ s'.cache = s.cache ∧ s'.guard = s.guard ∧ s'.wld = s.wld ∧ s'.bays
    = s.bays ∧ s'.grn = s.grn ∧ s'.ldg = s.ldg ∧ s'.hld = s.hld ∧ s'.mem = s.mem ∧ s'.pending = s.pending

abbrev SameBut_wld (s s' : State) : Prop :=
    s'.now = s.now ∧ s'.draws = s.draws ∧ s'.pow = s.pow ∧ s'.pins = s.pins ∧ s'.bkp = s.bkp ∧ s'.sys = s.sys ∧
    s'.fuse = s.fuse ∧ s'.boot = s.boot ∧ s'.seed = s.seed ∧ s'.clk = s.clk ∧ s'.chs = s.chs ∧ s'.drill = s.drill
    ∧ s'.books = s.books ∧ s'.cores = s.cores ∧ s'.cache = s.cache ∧ s'.guard = s.guard ∧ s'.tile = s.tile ∧
    s'.bays = s.bays ∧ s'.grn = s.grn ∧ s'.ldg = s.ldg ∧ s'.hld = s.hld ∧ s'.mem = s.mem ∧ s'.pending = s.pending

abbrev Same_now_draws_pending (s s' : State) : Prop :=
    s'.now = s.now ∧ s'.draws = s.draws ∧ s'.pending = s.pending

abbrev Same_now_draws_pins_bkp_fuse_boot_books_wld_grn_pending (s s' : State) : Prop :=
    s'.now = s.now ∧ s'.draws = s.draws ∧ s'.pins = s.pins ∧ s'.bkp = s.bkp ∧ s'.fuse = s.fuse ∧ s'.boot = s.boot
    ∧ s'.books = s.books ∧ s'.wld = s.wld ∧ s'.grn = s.grn ∧ s'.pending = s.pending

abbrev Same_now_draws_pins_fuse_bays_pending (s s' : State) : Prop :=
    s'.now = s.now ∧ s'.draws = s.draws ∧ s'.pins = s.pins ∧ s'.fuse = s.fuse ∧ s'.bays = s.bays ∧ s'.pending =
    s.pending

abbrev Same_now_draws_pins_fuse_books_wld_pending (s s' : State) : Prop :=
    s'.now = s.now ∧ s'.draws = s.draws ∧ s'.pins = s.pins ∧ s'.fuse = s.fuse ∧ s'.books = s.books ∧ s'.wld =
    s.wld ∧ s'.pending = s.pending

abbrev Same_now_draws_pins_fuse_boot_pending (s s' : State) : Prop :=
    s'.now = s.now ∧ s'.draws = s.draws ∧ s'.pins = s.pins ∧ s'.fuse = s.fuse ∧ s'.boot = s.boot ∧ s'.pending =
    s.pending

abbrev Same_now_draws_pins_fuse_boot_wld_pending (s s' : State) : Prop :=
    s'.now = s.now ∧ s'.draws = s.draws ∧ s'.pins = s.pins ∧ s'.fuse = s.fuse ∧ s'.boot = s.boot ∧ s'.wld = s.wld
    ∧ s'.pending = s.pending

abbrev Same_now_draws_pins_fuse_pending (s s' : State) : Prop :=
    s'.now = s.now ∧ s'.draws = s.draws ∧ s'.pins = s.pins ∧ s'.fuse = s.fuse ∧ s'.pending = s.pending

abbrev Same_now_draws_pins_pending (s s' : State) : Prop :=
    s'.now = s.now ∧ s'.draws = s.draws ∧ s'.pins = s.pins ∧ s'.pending = s.pending

abbrev Same_now_draws_pins_sys_fuse_boot_books_wld_mem_pending (s s' : State) : Prop :=
    s'.now = s.now ∧ s'.draws = s.draws ∧ s'.pins = s.pins ∧ s'.sys = s.sys ∧ s'.fuse = s.fuse ∧ s'.boot = s.boot
    ∧ s'.books = s.books ∧ s'.wld = s.wld ∧ s'.mem = s.mem ∧ s'.pending = s.pending

abbrev Same_now_draws_pins_sys_fuse_seed_books_cache_wld_pending (s s' : State) : Prop :=
    s'.now = s.now ∧ s'.draws = s.draws ∧ s'.pins = s.pins ∧ s'.sys = s.sys ∧ s'.fuse = s.fuse ∧ s'.seed = s.seed
    ∧ s'.books = s.books ∧ s'.cache = s.cache ∧ s'.wld = s.wld ∧ s'.pending = s.pending

abbrev Same_now_draws_pow_pins_bkp_drill_books_wld_bays_pending (s s' : State) : Prop :=
    s'.now = s.now ∧ s'.draws = s.draws ∧ s'.pow = s.pow ∧ s'.pins = s.pins ∧ s'.bkp = s.bkp ∧ s'.drill = s.drill
    ∧ s'.books = s.books ∧ s'.wld = s.wld ∧ s'.bays = s.bays ∧ s'.pending = s.pending

abbrev Same_now_draws_pow_pins_bkp_fuse_books_bays_grn_pending (s s' : State) : Prop :=
    s'.now = s.now ∧ s'.draws = s.draws ∧ s'.pow = s.pow ∧ s'.pins = s.pins ∧ s'.bkp = s.bkp ∧ s'.fuse = s.fuse ∧
    s'.books = s.books ∧ s'.bays = s.bays ∧ s'.grn = s.grn ∧ s'.pending = s.pending

abbrev Same_now_draws_pow_pins_fuse_boot_wld_pending (s s' : State) : Prop :=
    s'.now = s.now ∧ s'.draws = s.draws ∧ s'.pow = s.pow ∧ s'.pins = s.pins ∧ s'.fuse = s.fuse ∧ s'.boot = s.boot
    ∧ s'.wld = s.wld ∧ s'.pending = s.pending

abbrev Same_now_draws_pow_pins_fuse_wld_pending (s s' : State) : Prop :=
    s'.now = s.now ∧ s'.draws = s.draws ∧ s'.pow = s.pow ∧ s'.pins = s.pins ∧ s'.fuse = s.fuse ∧ s'.wld = s.wld ∧
    s'.pending = s.pending

abbrev Same_now_pins_fuse_pending (s s' : State) : Prop :=
    s'.now = s.now ∧ s'.pins = s.pins ∧ s'.fuse = s.fuse ∧ s'.pending = s.pending

abbrev Same_now_pow_pins_wld_pending (s s' : State) : Prop :=
    s'.now = s.now ∧ s'.pow = s.pow ∧ s'.pins = s.pins ∧ s'.wld = s.wld ∧ s'.pending = s.pending

end Sys2Proof.Machine
end

