-- ==== Sys2Proof/Laws/Frames.lean ====
section
/-! SUPPORT. The frame of every operation of the machine: which parts of the state it leaves alone. -/

set_option linter.all false

namespace Sys2Proof.Machine

@[simp] theorem setChan_same (s : State) (n : Chan) (c : Channel) : SameBut_chs s (setChan s n c) := by
  unfold SameBut_chs
  simp [setChan]

@[simp] theorem setThr_same (s : State) (t : Thread) (x : Thr) : SameBut_cores s (setThr s t x) := by
  unfold SameBut_cores
  simp [setThr]

@[simp] theorem setCore_same (s : State) (c : Fin 4) (x : Core) : SameBut_cores s (setCore s c x) := by
  unfold SameBut_cores
  simp [setCore]

@[simp] theorem setBay_same (s : State) (b : Bay) (x : BayState) : SameBut_bays s (setBay s b x) := by
  unfold SameBut_bays
  simp [setBay]

@[simp] theorem setFlow_same (s : State) (f : ℕ) (x : Flow) : SameBut_drill s (setFlow s f x) := by
  unfold SameBut_drill
  simp [setFlow]

@[simp] theorem setDesc_same (s : State) (d : Fin 1024) (x : Desc) : SameBut_drill s (setDesc s d x) := by
  unfold SameBut_drill
  simp [setDesc]

@[simp] theorem setEntry_same (s : State) (e : ℕ) (x : MatchEntry) : SameBut_drill s (setEntry s e x) := by
  unfold SameBut_drill
  simp [setEntry]

@[simp] theorem setFurrow_same (s : State) (f : Furrow) (x : FurrowReg) : SameBut_clk s (setFurrow s f x) := by
  unfold SameBut_clk
  simp [setFurrow]

@[simp] theorem setRail_same (s : State) (j : Fin 8) (x : Rail) : SameBut_pow s (setRail s j x) := by
  unfold SameBut_pow
  simp [setRail]

@[simp] theorem setBayOut_same (s : State) (b : Bay) (x : BayOut) : SameBut_pow s (setBayOut s b x) := by
  unfold SameBut_pow
  simp [setBayOut]

@[simp] theorem setAlarm_same (s : State) (a : Fin 4) (x : Alarm) : SameBut_bkp s (setAlarm s a x) := by
  unfold SameBut_bkp
  simp [setAlarm]

@[simp] theorem setCal_same (s : State) (c : Calendar) : SameBut_bkp s (setCal s c) := by
  unfold SameBut_bkp
  simp [setCal]

@[simp] theorem setTamp_same (s : State) (x : Tamper) : SameBut_bkp s (setTamp s x) := by
  unfold SameBut_bkp
  simp [setTamp]

@[simp] theorem draw_same (w : ℕ) (s : State) : SameBut_draws s (draw w s).2 := by
  unfold SameBut_draws
  simp [draw]

@[simp] theorem setQstat_same (s : State) (n : ℕ) (x : QStat) : SameBut_clk s (setQstat s n x) := by
  unfold SameBut_clk
  simp [setQstat]

@[simp] theorem qWrite_same (n k : ℕ) (s : State) : SameBut_clk s (qWrite n k s) := by
  unfold SameBut_clk
  simp [qWrite]

@[simp] theorem qRead_same (n k : ℕ) (s : State) : SameBut_clk s (qRead n k s) := by
  unfold SameBut_clk
  simp [qRead]

@[simp] theorem qPass_same (n : ℕ) (s : State) : SameBut_clk s (qPass n s) := by
  unfold SameBut_clk
  simp [qPass]

@[simp] theorem countStall_same (n : ℕ) (s : State) : SameBut_clk s (countStall n s) := by
  unfold SameBut_clk
  simp [countStall]

@[simp] theorem qJoin_same (n depth k : ℕ) (s : State) : SameBut_clk s (qJoin n depth k s) := by
  unfold SameBut_clk
  simp [qJoin]

@[simp] theorem qLeave_same (n depth k : ℕ) (s : State) : SameBut_clk s (qLeave n depth k s) := by
  unfold SameBut_clk
  simp [qLeave]

@[simp] theorem qPurge_same {α : Type} (n depth : ℕ) (keep : α → Bool) (l : List α) (s : State) :
    SameBut_clk s (qPurge n depth keep l s) := by
  unfold SameBut_clk
  simp [qPurge]

@[simp] theorem hk_same (cause : HkCause) (data : ℕ) (s : State) : SameBut_clk_drill s (hk cause data s) := by
  unfold SameBut_clk_drill
  simp [hk]

@[simp] theorem latchWake_same (k : ℕ) (s : State) : SameBut_sys s (latchWake k s) := by
  unfold SameBut_sys
  simp [latchWake]

@[simp] theorem violateSrc_same (src : ℕ) (kind : Vio) (addr : Word) (write fetch : Bool) (s : State) :
    SameBut_guard s (violateSrc src kind addr write fetch s) := by
  unfold SameBut_guard
  unfold violateSrc; (repeat' split) <;> simp

@[simp] theorem violate_same (r : Req) (kind : Vio) (addr : Word) (write : Bool) (s : State) :
    SameBut_guard s (violate r kind addr write s) := by
  unfold SameBut_guard
  simp [violate]

@[simp] theorem ldgErase_same (a n : ℕ) (s : State) : SameBut_mem s (ldgErase a n s) := by
  unfold SameBut_mem
  simp [ldgErase]

@[simp] theorem ldgProgram_same (a : ℕ) (bs : List Byte) (s : State) : SameBut_mem s (ldgProgram a bs s) := by
  unfold SameBut_mem
  simp [ldgProgram]

@[simp] theorem countProt_same (s : State) : SameBut_ldg s (countProt s) := by
  unfold SameBut_ldg
  simp [countProt]

@[simp] theorem putSlot_same (part slot : ℕ) (bs : List Byte) (s : State) :
    SameBut_ldg_mem s (putSlot part slot bs s) := by
  unfold SameBut_ldg_mem
  simp [putSlot]

@[simp] theorem wipeSlot_same (part slot : ℕ) (s : State) : SameBut_ldg_mem s (wipeSlot part slot s) := by
  unfold SameBut_ldg_mem
  simp [wipeSlot]

@[simp] theorem writeRecord_same (part r len : ℕ) (data : List Byte) (s : State) :
    SameBut_ldg_mem s (writeRecord part r len data s) := by
  unfold SameBut_ldg_mem
  simp [writeRecord]

@[simp] theorem programBit_same (c : ℕ) (b : Bool) (k : ℕ) (s : State) : SameBut_mem s (programBit c b k s) := by
  unfold SameBut_mem
  simp [programBit]

@[simp] theorem stepCounter_same (c : ℕ) (s : State) : SameBut_mem s (stepCounter c s) := by
  unfold SameBut_mem
  unfold stepCounter; (repeat' split) <;> simp

@[simp] theorem stepCounterN_same (c k : ℕ) (s : State) : SameBut_mem s (stepCounterN c k s) := by
  unfold SameBut_mem
  fun_induction stepCounterN c k s <;> simp_all

@[simp] theorem incrementCounter_same (c : ℕ) (s : State) : SameBut_ldg_mem s (incrementCounter c s).2 := by
  unfold SameBut_ldg_mem
  simp [incrementCounter]

@[simp] theorem appendLog_same (type src : ℕ) (data : List Byte) (s : State) :
    SameBut_ldg_mem s (appendLog type src data s).2 := by
  unfold SameBut_ldg_mem
  simp [appendLog]

@[simp] theorem logEntry_same (type src : ℕ) (data : List Byte) (s : State) :
    SameBut_ldg_mem s (logEntry type src data s) := by
  unfold SameBut_ldg_mem
  simp [logEntry]

@[simp] theorem fwLog_same (type : ℕ) (data : List Byte) (s : State) : SameBut_ldg_mem s (fwLog type data s) := by
  unfold SameBut_ldg_mem
  simp [fwLog]

@[simp] theorem transition_same (m : BitVec 3) (s : State) : SameBut_sys_ldg_mem s (transition m s) := by
  unfold SameBut_sys_ldg_mem
  simp [transition]

@[simp] theorem enterMode_same (m : BitVec 3) (s : State) : SameBut_sys_ldg_mem s (enterMode m s) := by
  unfold SameBut_sys_ldg_mem
  simp [enterMode]

@[simp] theorem setChev_same (s : State) (f : Furrow) (l : List ChEvent) : SameBut_chs s (setChev s f l) := by
  unfold SameBut_chs
  simp [setChev]

@[simp] theorem setChwr_same (s : State) (f : Furrow) (l : List ChwrItem) : SameBut_chs s (setChwr s f l) := by
  unfold SameBut_chs
  simp [setChwr]

@[simp] theorem moveRx_same (n : Chan) (st : RxCell) (cells : List (BitVec 5)) (s : State) :
    SameBut_chs s (moveRx n st cells s) := by
  unfold SameBut_chs
  simp [moveRx]

@[simp] theorem moveTx_same (n : Chan) (st : TxCell) (cells : List (BitVec 5)) (s : State) :
    SameBut_chs s (moveTx n st cells s) := by
  unfold SameBut_chs
  simp [moveTx]

@[simp] theorem takeCredit_same (f : ℕ) (s : State) : SameBut_drill s (takeCredit f s) := by
  unfold SameBut_drill
  simp [takeCredit]

@[simp] theorem returnCredit_same (f : ℕ) (s : State) : SameBut_drill s (returnCredit f s) := by
  unfold SameBut_drill
  simp [returnCredit]

@[simp] theorem flushHeld_same (n : Chan) (k : ℕ) (s : State) : SameBut_clk_chs s (flushHeld n k s) := by
  unfold SameBut_clk_chs
  induction k generalizing s with
  | zero => simp [flushHeld]
  | succ k ih => simp only [flushHeld]; (repeat' split) <;> simp [ih]

@[simp] theorem refillChev_same (f : Furrow) (s : State) : SameBut_clk_chs s (refillChev f s) := by
  unfold SameBut_clk_chs
  simp [refillChev]

@[simp] theorem releaseCells_same (n : Chan) (cells : List (BitVec 5)) (s : State) :
    SameBut_chs s (releaseCells n cells s) := by
  unfold SameBut_chs
  simp [releaseCells]

@[simp] theorem applyChwr_same (i : ChwrItem) (s : State) : SameBut_clk_chs s (applyChwr i s) := by
  unfold SameBut_clk_chs
  unfold applyChwr; (repeat' split) <;> simp

@[simp] theorem crossCells_same (i : ChwrItem) (s : State) : SameBut_chs s (crossCells i s) := by
  unfold SameBut_chs
  unfold crossCells; (repeat' split) <;> simp

@[simp] theorem popChwr_same (f : Furrow) (rest : List ChwrItem) (s : State) :
    SameBut_clk_chs s (popChwr f rest s) := by
  unfold SameBut_clk_chs
  unfold popChwr; (repeat' split) <;> simp

@[simp] theorem settleChwr_same (f : Furrow) (k : ℕ) (s : State) : SameBut_clk_chs s (settleChwr f k s) := by
  unfold SameBut_clk_chs
  fun_induction settleChwr f k s <;> simp_all

@[simp] theorem sendChwr_same (f : Furrow) (i : ChwrItem) (s : State) : SameBut_clk_chs s (sendChwr f i s) := by
  unfold SameBut_clk_chs
  simp [sendChwr]

@[simp] theorem grantPass_same (f : ℕ) (s : State) : SameBut_clk_chs_drill s (grantPass f s) := by
  unfold SameBut_clk_chs_drill
  simp [grantPass]

@[simp] theorem pumpGrants_same (f k : ℕ) (s : State) : SameBut_clk_chs_drill s (pumpGrants f k s) := by
  unfold SameBut_clk_chs_drill
  fun_induction pumpGrants f k s <;> simp_all

@[simp] theorem pump_same (f : ℕ) (s : State) : SameBut_clk_chs_drill s (pump f s) := by
  unfold SameBut_clk_chs_drill
  simp [pump]

@[simp] theorem dropGrants_same (n : Chan) (s : State) : SameBut_chs_drill s (dropGrants n s) := by
  unfold SameBut_chs_drill
  simp [dropGrants]

@[simp] theorem raiseEvent_same (n : Chan) (e : ChEvent) (s : State) :
    SameBut_clk_chs_drill s (raiseEvent n e s) := by
  unfold SameBut_clk_chs_drill
  simp [raiseEvent]

@[simp] theorem raiseKind_same (n : Chan) (kind info : Byte) (s : State) :
    SameBut_clk_chs_drill s (raiseKind n kind info s) := by
  unfold SameBut_clk_chs_drill
  simp [raiseKind]

@[simp] theorem countRefusal_same (f : ℕ) (s : State) : SameBut_drill s (countRefusal f s) := by
  unfold SameBut_drill
  simp [countRefusal]

@[simp] theorem takeCell_same (n : Chan) (s : State) : SameBut_chs_drill s (takeCell n s).2 := by
  unfold SameBut_chs_drill
  unfold takeCell; dsimp only; (repeat' split) <;> simp

@[simp] theorem setRegion_same (s : State) (g r : ℕ) (x : Region) : SameBut_guard s (setRegion s g r x) := by
  unfold SameBut_guard
  simp [setRegion]

@[simp] theorem setCache_same (s : State) (c : Fin 4) (x : Caches) : SameBut_cache s (setCache s c x) := by
  unfold SameBut_cache
  simp [setCache]

@[simp] theorem mapCaches_same (f : Fin 4 → Caches → Caches) (s : State) : SameBut_cache s (mapCaches f s) := by
  unfold SameBut_cache
  simp [mapCaches]

@[simp] theorem fillInto_same (sets : ℕ) (x : CacheLine) (l : List CacheLine) (s : State) :
    SameBut_draws s (fillInto sets x l s).2 := by
  unfold SameBut_draws
  simp [fillInto]

@[simp] theorem fillCode_same (c : Fin 4) (x : CacheLine) (s : State) : SameBut_draws_cache s (fillCode c x s) := by
  unfold SameBut_draws_cache
  simp [fillCode]

@[simp] theorem fillData_same (c : Fin 4) (x : CacheLine) (s : State) : SameBut_draws_cache s (fillData c x s) := by
  unfold SameBut_draws_cache
  simp [fillData]

@[simp] theorem dropData_same (keep : Fin 4 → CacheLine → Bool) (a n : ℕ) (s : State) :
    SameBut_cache s (dropData keep a n s) := by
  unfold SameBut_cache
  simp [dropData]

@[simp] theorem dropBanks_same (a n : ℕ) (s : State) : SameBut_cache s (dropBanks a n s) := by
  unfold SameBut_cache
  simp [dropBanks]

@[simp] theorem dropEncl_same (s : State) : SameBut_cache s (dropEncl s) := by
  unfold SameBut_cache
  simp [dropEncl]

@[simp] theorem crossWorlds_same (t : Thread) (s : State) : SameBut_cache s (crossWorlds t s) := by
  unfold SameBut_cache
  simp [crossWorlds]

@[simp] theorem crossDebug_same (t : Thread) (before : Bool) (s : State) :
    SameBut_cache s (crossDebug t before s) := by
  unfold SameBut_cache
  simp [crossDebug]

@[simp] theorem learnBranch_same (t : Thread) (pc target : Word) (taken : Bool) (s : State) :
    SameBut_draws_cache s (learnBranch t pc target taken s) := by
  unfold SameBut_draws_cache
  unfold learnBranch; dsimp only; (repeat' split) <;> simp

@[simp] theorem countMispred_same (t : Thread) (wrong : Bool) (s : State) :
    SameBut_cores s (countMispred t wrong s) := by
  unfold SameBut_cores
  simp [countMispred]

@[simp] theorem resolveBranch_same (t : Thread) (pc target : Word) (taken : Bool) (s : State) :
    SameBut_draws_cores_cache s (resolveBranch t pc target taken s) := by
  unfold SameBut_draws_cores_cache
  simp [resolveBranch]

@[simp] theorem sramStore_same (a : ℕ) (bs : List Byte) (s : State) : SameBut_mem s (sramStore a bs s) := by
  unfold SameBut_mem
  simp [sramStore]

@[simp] theorem sramWrite_same (a : ℕ) (bs : List Byte) (s : State) : SameBut_cache_mem s (sramWrite a bs s) := by
  unfold SameBut_cache_mem
  simp [sramWrite]

@[simp] theorem coreWrite_same (t : Thread) (a : ℕ) (bs : List Byte) (s : State) :
    SameBut_cache_mem s (coreWrite t a bs s) := by
  unfold SameBut_cache_mem
  simp [coreWrite]

@[simp] theorem winRead_same (b : Bay) (tag : Byte) (off len : ℕ) (s : State) :
    SameBut_guard s (winRead b tag off len s).2 := by
  unfold SameBut_guard
  simp [winRead]

@[simp] theorem winWrite_same (b : Bay) (tag : Byte) (off : ℕ) (bs : List Byte) (s : State) :
    SameBut_cache_guard_mem s (winWrite b tag off bs s) := by
  unfold SameBut_cache_guard_mem
  simp [winWrite]

@[simp] theorem flushOut_same (b : Bay) (k : ℕ) (s : State) : SameBut_clk_bays s (flushOut b k s) := by
  unfold SameBut_clk_bays
  fun_induction flushOut b k s <;> simp_all

@[simp] theorem hostSend_same (b : Bay) (i : HostItem) (s : State) : SameBut_clk_bays s (hostSend b i s) := by
  unfold SameBut_clk_bays
  simp [hostSend]

@[simp] theorem sendWrites_same (b : Bay) (size k : ℕ) (x : DWord) (l : List Byte) (s : State) :
    SameBut_clk_bays s (sendWrites b size k x l s) := by
  unfold SameBut_clk_bays
  fun_induction sendWrites b size k x l s <;> simp_all

@[simp] theorem sendReads_same (b : Bay) (size k : ℕ) (x : DWord) (m : ℕ) (s : State) :
    SameBut_clk_bays s (sendReads b size k x m s) := by
  unfold SameBut_clk_bays
  fun_induction sendReads b size k x m s <;> simp_all

@[simp] theorem raiseVec_same (b : Bay) (v : BitVec 5) (s : State) : SameBut_clk_bays s (raiseVec b v s) := by
  unfold SameBut_clk_bays
  simp [raiseVec]

@[simp] theorem releaseVec_same (b : Bay) (v : Fin 32) (s : State) : SameBut_clk_bays s (releaseVec b v s) := by
  unfold SameBut_clk_bays
  simp [releaseVec]

@[simp] theorem bayEvent_same (b : Bay) (s : State) : SameBut_clk_bays s (bayEvent b s) := by
  unfold SameBut_clk_bays
  simp [bayEvent]

@[simp] theorem setSq_same (b : Bay) (q : Fin 16) (x : SubQ) (s : State) : SameBut_bays s (setSq b q x s) := by
  unfold SameBut_bays
  simp [setSq]

@[simp] theorem setCq_same (b : Bay) (q : Fin 16) (x : CmpQ) (s : State) : SameBut_bays s (setCq b q x s) := by
  unfold SameBut_bays
  simp [setCq]

theorem fetchTurn_same (b : Bay) (s : State) {s' : State} (h : fetchTurn b s = some s') : SameBut_clk_bays s s' := by
  unfold SameBut_clk_bays
  simp only [fetchTurn, Option.map_eq_some_iff] at h; obtain ⟨_, _, rfl⟩ := h; simp

@[simp] theorem pumpFetchN_same (b : Bay) (k : ℕ) (s : State) : SameBut_clk_bays s (pumpFetchN b k s) := by
  unfold SameBut_clk_bays
  induction k generalizing s with
  | zero => simp [pumpFetchN]
  | succ k ih =>
    simp only [pumpFetchN]; split
    · simp
    · rename_i h; have e := fetchTurn_same b s h; simp [ih, e]

@[simp] theorem pumpFetch_same (b : Bay) (s : State) : SameBut_clk_bays s (pumpFetch b s) := by
  unfold SameBut_clk_bays
  simp [pumpFetch]

@[simp] theorem writeEntry_same (b : Bay) (q : Fin 16) (result : DWord) (sqid sqhd cid : ℕ) (status : Byte) (notice : Bool) (s : State) :
    SameBut_clk_bays s (writeEntry b q result sqid sqhd cid status notice s) := by
  unfold SameBut_clk_bays
  simp [writeEntry]

@[simp] theorem dropCmd_same (b : Bay) (k : Fin 256) (s : State) : SameBut_bays s (dropCmd b k s) := by
  unfold SameBut_bays
  simp [dropCmd]

@[simp] theorem setCmd_same (b : Bay) (c : BayCmd) (s : State) : SameBut_bays s (setCmd b c s) := by
  unfold SameBut_bays
  simp [setCmd]

@[simp] theorem settleQuiesce_same (b : Bay) (s : State) : SameBut_pow_clk_bays s (settleQuiesce b s) := by
  unfold SameBut_pow_clk_bays
  simp [settleQuiesce]

@[simp] theorem completeCmd_same (b : Bay) (c : BayCmd) (status : Byte) (result : DWord) (s : State) :
    SameBut_pow_clk_bays s (completeCmd b c status result s) := by
  unfold SameBut_pow_clk_bays
  simp [completeCmd]

@[simp] theorem dirOut_same (b : Bay) (c : BayCmd) (s : State) : SameBut_clk_guard_bays s (dirOut b c s) := by
  unfold SameBut_clk_guard_bays
  simp [dirOut]

@[simp] theorem bayCmdDone_same (b : Bay) (slot : Fin 256) (status : Byte) (result : DWord) (s : State) :
    SameBut_pow_clk_guard_bays s (bayCmdDone b slot status result s) := by
  unfold SameBut_pow_clk_guard_bays
  unfold bayCmdDone; (repeat' split) <;> simp

@[simp] theorem flashProgram_same (a : ℕ) (bs : List Byte) (s : State) :
    SameBut_cache_mem s (flashProgram a bs s) := by
  unfold SameBut_cache_mem
  simp [flashProgram]

@[simp] theorem flashErase_same (a n : ℕ) (s : State) : SameBut_cache_mem s (flashErase a n s) := by
  unfold SameBut_cache_mem
  simp [flashErase]

@[simp] theorem notePeak_same (p : BitVec 3) (s : State) : SameBut_drill s (notePeak p s) := by
  unfold SameBut_drill
  simp [notePeak]

@[simp] theorem notePeaks_same (s : State) : SameBut_drill s (notePeaks s) := by
  unfold SameBut_drill
  simp [notePeaks]

@[simp] theorem queueTask_same (d : Fin 1024) (s : State) : SameBut_drill s (queueTask d s) := by
  unfold SameBut_drill
  simp [queueTask]

@[simp] theorem fillDesc_same (f : ℕ) (d : Fin 1024) (x : Desc) (s : State) : SameBut_drill s (fillDesc f d x s) := by
  unfold SameBut_drill
  simp [fillDesc]

@[simp] theorem admitTask_same (f : ℕ) (d : Fin 1024) (x : Desc) (s : State) :
    SameBut_drill s (admitTask f d x s) := by
  unfold SameBut_drill
  simp [admitTask]

@[simp] theorem joinEntry_same (e : Fin 512) (i : BitVec 2) (cell : W256) (y : DescLife) (s : State) :
    SameBut_drill s (joinEntry e i cell y s) := by
  unfold SameBut_drill
  simp [joinEntry]

@[simp] theorem openEntry_same (f : ℕ) (e : Fin 512) (d : Fin 1024) (tag : Option Half) (i : BitVec 2) (cell : W256) (x : Desc) (s : State) :
    SameBut_drill s (openEntry f e d tag i cell x s) := by
  unfold SameBut_drill
  simp [openEntry]

@[simp] theorem partialEntry_same (e : Fin 512) (s : State) : SameBut_drill s (partialEntry e s) := by
  unfold SameBut_drill
  simp [partialEntry]

@[simp] theorem admitTagged_same (f : ℕ) (credit : Bool) (tag : Half) (i : BitVec 2) (x : Desc) (s : State) :
    SameBut_drill s (admitTagged f credit tag i x s).2 := by
  unfold SameBut_drill
  unfold admitTagged; dsimp only; (repeat' split) <;> simp

@[simp] theorem admitUntagged_same (f i : ℕ) (credit : Bool) (x : Desc) (s : State) :
    SameBut_drill s (admitUntagged f i credit x s).2 := by
  unfold SameBut_drill
  unfold admitUntagged; dsimp only; split
  · split <;> simp
  · split <;> cases credit <;> simp

@[simp] theorem returnCells_same (cells : List (Chan × BitVec 5)) (s : State) :
    SameBut_clk_chs s (returnCells cells s) := by
  unfold SameBut_clk_chs
  simp [returnCells]

@[simp] theorem enterChild_same (d : Fin 1024) (s : State) (c : Fin 1024) : SameBut_drill s (enterChild d s c) := by
  unfold SameBut_drill
  unfold enterChild; dsimp only; split
  · split
    · split <;> (rename_i h; simp [snd_of h])
    · simp
  · simp

@[simp] theorem enterChildren_same (d : Fin 1024) (s : State) : SameBut_drill s (enterChildren d s) := by
  unfold SameBut_drill
  simp [enterChildren]

@[simp] theorem releaseDesc_same (d : Fin 1024) (s : State) :
    SameBut_pow_clk_chs_drill_guard_bays s (releaseDesc d s) := by
  unfold SameBut_pow_clk_chs_drill_guard_bays
  simp [releaseDesc]

@[simp] theorem passTurn_same (d : Fin 1024) (s : State) : SameBut_drill s (passTurn d s) := by
  unfold SameBut_drill
  simp [passTurn]

@[simp] theorem cancelDesc_same (d : Fin 1024) (status : Byte) (s : State) :
    SameBut_pow_clk_chs_drill_guard_bays s (cancelDesc d status s) := by
  unfold SameBut_pow_clk_chs_drill_guard_bays
  simp [cancelDesc]

@[simp] theorem readRetItem_same (i : RetItem) (s : State) : SameBut_drill s (readRetItem i s) := by
  unfold SameBut_drill
  simp [readRetItem]

@[simp] theorem readRet_same (s : State) : SameBut_clk_drill s (readRet s) := by
  unfold SameBut_clk_drill
  unfold readRet
  simp (disch := (intros; (repeat' split) <;> simp))

@[simp] theorem noteSelection_same (d : Fin 1024) (thread : ℕ) (st : DescState) (s : State) :
    SameBut_drill s (noteSelection d thread st s) := by
  unfold SameBut_drill
  simp [noteSelection]

@[simp] theorem selectTask_same (d : Fin 1024) (t : Thread) (s : State) : SameBut_clk_drill s (selectTask d t s) := by
  unfold SameBut_clk_drill
  simp [selectTask]

@[simp] theorem loseTurns_same (s : State) : SameBut_drill s (loseTurns s) := by
  unfold SameBut_drill
  simp [loseTurns]

@[simp] theorem selectNext_same (s : State) : SameBut_clk_drill s (selectNext s) := by
  unfold SameBut_clk_drill
  unfold selectNext; (repeat' split) <;> simp

@[simp] theorem selectOne_same (s : State) : SameBut_clk_drill s (selectOne s) := by
  unfold SameBut_clk_drill
  simp [selectOne]

@[simp] theorem pushTlq_same (e : TileEntry) (s : State) : SameBut_clk_tile s (pushTlq e s) := by
  unfold SameBut_clk_tile
  simp [pushTlq]

@[simp] theorem checkTiles_same (before after : State) : SameBut_clk_tile after (checkTiles before after) := by
  unfold SameBut_clk_tile
  simp [checkTiles]

@[simp] theorem returnFrom_same (t : Thread) (s : State) : SameBut_cores_guard s (returnFrom t s) := by
  unfold SameBut_cores_guard
  simp [returnFrom]

@[simp] theorem clearHalt_same (t : Thread) (s : State) : SameBut_hld s (clearHalt t s) := by
  unfold SameBut_hld
  simp [clearHalt]

@[simp] theorem resumeThread_same (t : Thread) (s : State) :
    SameBut_clk_cores_cache_guard_tile_hld s (resumeThread t s) := by
  unfold SameBut_clk_cores_cache_guard_tile_hld
  simp [resumeThread]

@[simp] theorem endStaging_same (s : State) : SameBut_seed_hld s (endStaging s) := by
  unfold SameBut_seed_hld
  simp [endStaging]

@[simp] theorem closeScope_same (s : State) : SameBut_seed_clk_cores_cache_guard_tile_hld s (closeScope s) := by
  unfold SameBut_seed_clk_cores_cache_guard_tile_hld
  simp [closeScope]

@[simp] theorem settle_same (n : Chan) (s : State) : SameBut_chs s (settle n s) := by
  unfold SameBut_chs
  simp [settle]

@[simp] theorem reportOutcome_same (n : Chan) (seq : Byte) (o : ReplyEnd) (s : State) :
    SameBut_chs s (reportOutcome n seq o s) := by
  unfold SameBut_chs
  simp [reportOutcome]

@[simp] theorem dropReply_same (n : Chan) (s : State) : SameBut_chs s (dropReply n s) := by
  unfold SameBut_chs
  unfold dropReply; dsimp only; (repeat' split) <;> simp

@[simp] theorem storeByte_same (n : Chan) (b : Byte) (s : State) : SameBut_chs_drill s (storeByte n b s) := by
  unfold SameBut_chs_drill
  unfold storeByte; dsimp only; (repeat' split) <;> simp

@[simp] theorem storeBytes_same (n : Chan) (bs : List Byte) (s : State) : SameBut_chs_drill s (storeBytes n bs s) := by
  unfold SameBut_chs_drill
  simp [storeBytes]

@[simp] theorem deliverFrame_same (n : Chan) (fr : RxFrame) (s : State) :
    SameBut_clk_chs_drill s (deliverFrame n fr s) := by
  unfold SameBut_clk_chs_drill
  unfold deliverFrame; dsimp only; (repeat' split) <;> simp

@[simp] theorem abandonRx_same (n : Chan) (s : State) : SameBut_chs s (abandonRx n s) := by
  unfold SameBut_chs
  unfold abandonRx; dsimp only; (repeat' split) <;> simp

@[simp] theorem dropEvent_same (e : ChEvent) (s : State) : SameBut_chs_drill s (dropEvent e s) := by
  unfold SameBut_chs_drill
  simp [dropEvent]

@[simp] theorem dropChwr_same (i : ChwrItem) (s : State) : SameBut_chs_drill s (dropChwr i s) := by
  unfold SameBut_chs_drill
  unfold dropChwr; (repeat' split) <;> simp

@[simp] theorem purgeQueues_same (n : Chan) (s : State) : SameBut_clk_chs_drill s (purgeQueues n s) := by
  unfold SameBut_clk_chs_drill
  unfold purgeQueues; dsimp only
  simp (disch := (intros; (repeat' split) <;> simp))

@[simp] theorem cancelChannelTasks_same (n : Chan) (s : State) :
    SameBut_pow_clk_chs_drill_guard_bays s (cancelChannelTasks n s) := by
  unfold SameBut_pow_clk_chs_drill_guard_bays
  simp [cancelChannelTasks]

@[simp] theorem quietChannel_same (n : Chan) (s : State) :
    SameBut_pow_clk_chs_drill_guard_bays s (quietChannel n s) := by
  unfold SameBut_pow_clk_chs_drill_guard_bays
  simp [quietChannel]

@[simp] theorem takeDrive_same (n : Chan) (s : State) : SameBut_chs s (takeDrive n s) := by
  unfold SameBut_chs
  simp [takeDrive]

@[simp] theorem setStrobe_same (n : Chan) (on : Bool) (s : State) : SameBut_clk s (setStrobe n on s) := by
  unfold SameBut_clk
  simp [setStrobe]

@[simp] theorem settleStrobe_same (n : Chan) (s : State) : SameBut_clk s (settleStrobe n s) := by
  unfold SameBut_clk
  simp [settleStrobe]

@[simp] theorem resetChannel_same (n : Chan) (s : State) :
    SameBut_pow_clk_chs_drill_guard_bays s (resetChannel n s) := by
  unfold SameBut_pow_clk_chs_drill_guard_bays
  simp [resetChannel]

@[simp] theorem stopChannel_same (n : Chan) (d : PinDrive) (s : State) : SameBut_chs s (stopChannel n d s) := by
  unfold SameBut_chs
  simp [stopChannel]

@[simp] theorem limpChannel_same (s : State) (n : Chan) : SameBut_chs s (limpChannel s n) := by
  unfold SameBut_chs
  simp [limpChannel]

@[simp] theorem enterLimp_same (k : ℕ) (s : State) :
    SameBut_sys_seed_clk_chs_cores_cache_guard_tile_ldg_hld_mem s (enterLimp k s) := by
  unfold SameBut_sys_seed_clk_chs_cores_cache_guard_tile_ldg_hld_mem
  simp [enterLimp]

@[simp] theorem checkRetiredLimit_same (s : State) :
    SameBut_sys_seed_clk_chs_cores_cache_guard_tile_ldg_hld_mem s (checkRetiredLimit s) := by
  unfold SameBut_sys_seed_clk_chs_cores_cache_guard_tile_ldg_hld_mem
  simp [checkRetiredLimit]

@[simp] theorem requestFold_same (s : State) : SameBut_clk_ldg s (requestFold s) := by
  unfold SameBut_clk_ldg
  simp [requestFold]

@[simp] theorem foldRetirements_same (s : State) : SameBut_clk_chs_ldg_mem s (foldRetirements s) := by
  unfold SameBut_clk_chs_ldg_mem
  simp [foldRetirements]

@[simp] theorem retireQuietly_same (n : Chan) (cause : BitVec 2) (pinCond : Byte) (s : State) :
    SameBut_pow_clk_chs_drill_guard_bays_ldg_mem s (retireQuietly n cause pinCond s) := by
  unfold SameBut_pow_clk_chs_drill_guard_bays_ldg_mem
  simp [retireQuietly]

@[simp] theorem retireChannel_same (n : Chan) (cause : BitVec 2) (pinCond : Byte) (s : State) :
    Same_now_draws_pins_bkp_fuse_boot_books_wld_grn_pending s (retireChannel n cause pinCond s) := by
  unfold Same_now_draws_pins_bkp_fuse_boot_books_wld_grn_pending
  simp [retireChannel]

@[simp] theorem upset_same (n : Chan) (u : Upset) (s : State) :
    Same_now_draws_pins_bkp_fuse_boot_books_wld_grn_pending s (upset n u s) := by
  unfold Same_now_draws_pins_bkp_fuse_boot_books_wld_grn_pending
  simp [upset]

@[simp] theorem discardFrame_same (n : Chan) (u : Upset) (s : State) :
    Same_now_draws_pins_bkp_fuse_boot_books_wld_grn_pending s (discardFrame n u s) := by
  unfold Same_now_draws_pins_bkp_fuse_boot_books_wld_grn_pending
  simp [discardFrame]

@[simp] theorem failFrame_same (n : Chan) (u : Upset) (s : State) :
    Same_now_draws_pins_bkp_fuse_boot_books_wld_grn_pending s (failFrame n u s) := by
  unfold Same_now_draws_pins_bkp_fuse_boot_books_wld_grn_pending
  unfold failFrame; dsimp only; (repeat' split) <;> simp

@[simp] theorem setAsyncFlag_same (n : Chan) (b : ℕ) (s : State) : SameBut_chs s (setAsyncFlag n b s) := by
  unfold SameBut_chs
  simp [setAsyncFlag]

@[simp] theorem setCsFlag_same (n : Chan) (b : ℕ) (s : State) : SameBut_chs s (setCsFlag n b s) := by
  unfold SameBut_chs
  simp [setCsFlag]

@[simp] theorem finishFrame_same (n : Chan) (s : State) :
    Same_now_draws_pins_bkp_fuse_boot_books_wld_grn_pending s (finishFrame n s) := by
  unfold Same_now_draws_pins_bkp_fuse_boot_books_wld_grn_pending
  unfold finishFrame; dsimp only; (repeat' split) <;> simp

@[simp] theorem beginReply_same (n : Chan) (r : Reply) (s : State) : SameBut_clk_chs_drill s (beginReply n r s) := by
  unfold SameBut_clk_chs_drill
  simp [beginReply]

@[simp] theorem endReply_same (n : Chan) (r : Reply) (s : State) : SameBut_clk_chs_drill s (endReply n r s) := by
  unfold SameBut_clk_chs_drill
  simp [endReply]

@[simp] theorem txPostOp_same (n : Chan) (cells len : ℕ) (s : State) :
    SameBut_clk_chs s (txPostOp n cells len s) := by
  unfold SameBut_clk_chs
  simp [txPostOp]

@[simp] theorem popPosted_same (n : Chan) (s : State) : SameBut_chs s (popPosted n s) := by
  unfold SameBut_chs
  unfold popPosted; dsimp only; (repeat' split) <;> simp

@[simp] theorem applyPost_same (n : Chan) (seq : Byte) (off : BitVec 6) (len : BitVec 7) (data : BitVec 512) (s : State) :
    SameBut_chs s (applyPost n seq off len data s) := by
  unfold SameBut_chs
  unfold applyPost; dsimp only; (repeat' split) <;> simp

@[simp] theorem svcResults_same (t : Thread) (status : Byte) (v1 v2 v3 : Word) (s : State) :
    SameBut_cores s (svcResults t status v1 v2 v3 s) := by
  unfold SameBut_cores
  simp [svcResults]

@[simp] theorem svcSilent_same (t : Thread) (s : State) : SameBut_cores s (svcSilent t s) := by
  unfold SameBut_cores
  simp [svcSilent]

@[simp] theorem endCmd_same (b : Bay) (slot : Fin 256) (status : Byte) (result : DWord) (s : State) :
    SameBut_pow_clk_chs_drill_guard_bays s (endCmd b slot status result s) := by
  unfold SameBut_pow_clk_chs_drill_guard_bays
  unfold endCmd; split
  · simp
  · dsimp only; split <;> split <;> simp

set_option maxRecDepth 4000 in
theorem deliverDone_same (src : Byte) (caller : Caller) (status verdict : Byte) (value : Word) (s : State) {s' : State} (h : deliverDone src caller status verdict value s = some s') :
    SameBut_pow_clk_chs_drill_cores_guard_bays s s' := by
  unfold SameBut_pow_clk_chs_drill_cores_guard_bays
  unfold deliverDone at h; split at h
  · cases h; simp
  · split at h <;> cases h <;> simp
  · cases h; simp
  · dsimp only at h; split at h
    · cases h
    · rename_i h2; cases h; simp [snd_of h2]

@[simp] theorem reserveDone_same (caller : Caller) (s : State) : SameBut_drill s (reserveDone caller s) := by
  unfold SameBut_drill
  unfold reserveDone; (repeat' split) <;> simp

@[simp] theorem pushLgq_same (r : LdgReq) (s : State) : SameBut_clk_ldg s (pushLgq r s) := by
  unfold SameBut_clk_ldg
  simp [pushLgq]

@[simp] theorem svcLedgerOp_same (t : Thread) (s : State) :
    SameBut_clk_drill_cores_guard_ldg s (svcLedgerOp t s) := by
  unfold SameBut_clk_drill_cores_guard_ldg
  unfold svcLedgerOp; dsimp only; (repeat' split) <;> simp

@[simp] theorem ldgAnswer_same (r : LdgReq) (status verdict : Byte) (value : ℕ) (prot : Bool) (image : List Byte) (s : State) :
    SameBut_clk_ldg s (ldgAnswer r status verdict value prot image s) := by
  unfold SameBut_clk_ldg
  simp [ldgAnswer]

@[simp] theorem uncorrectableIn_same (part slot : ℕ) (s : State) :
    SameBut_ldg_mem s (uncorrectableIn part slot s) := by
  unfold SameBut_ldg_mem
  simp [uncorrectableIn]

@[simp] theorem eccMet_same (e : Ecc) (part slot : ℕ) (s : State) : SameBut_ldg_mem s (eccMet e part slot s) := by
  unfold SameBut_ldg_mem
  unfold eccMet; (repeat' split) <;> simp

@[simp] theorem ldgReadOp_same (e : Ecc) (r : LdgReq) (s : State) : SameBut_clk_ldg_mem s (ldgReadOp e r s) := by
  unfold SameBut_clk_ldg_mem
  unfold ldgReadOp; dsimp only; (repeat' split) <;> simp

@[simp] theorem ldgWriteOp_same (r : LdgReq) (s : State) : SameBut_clk_ldg_mem s (ldgWriteOp r s) := by
  unfold SameBut_clk_ldg_mem
  simp [ldgWriteOp]

@[simp] theorem ldgEraseOp_same (r : LdgReq) (s : State) : SameBut_clk_ldg_mem s (ldgEraseOp r s) := by
  unfold SameBut_clk_ldg_mem
  unfold ldgEraseOp; dsimp only; (repeat' split) <;> simp

@[simp] theorem ldgAdvanceOp_same (r : LdgReq) (s : State) : SameBut_clk_ldg_mem s (ldgAdvanceOp r s) := by
  unfold SameBut_clk_ldg_mem
  simp [ldgAdvanceOp]

@[simp] theorem ldgLogOp_same (r : LdgReq) (s : State) : SameBut_clk_ldg_mem s (ldgLogOp r s) := by
  unfold SameBut_clk_ldg_mem
  simp [ldgLogOp]

@[simp] theorem ldgLreadOp_same (e : Ecc) (r : LdgReq) (s : State) : SameBut_clk_ldg_mem s (ldgLreadOp e r s) := by
  unfold SameBut_clk_ldg_mem
  simp [ldgLreadOp]

@[simp] theorem popLgc_same (s : State) : SameBut_clk_ldg s (popLgc s) := by
  unfold SameBut_clk_ldg
  simp [popLgc]

@[simp] theorem layImage_same (d : LdgDone) (s : State) : SameBut_cache_mem s (layImage d s) := by
  unfold SameBut_cache_mem
  simp [layImage]

@[simp] theorem loadPatrol_same (s : State) : SameBut_ldg s (loadPatrol s) := by
  unfold SameBut_ldg
  simp [loadPatrol]

@[simp] theorem writePatrol_same (ended : Bool) (s : State) : SameBut_ldg_mem s (writePatrol ended s) := by
  unfold SameBut_ldg_mem
  simp [writePatrol]

@[simp] theorem refreshRecord_same (part r : ℕ) (s : State) : SameBut_ldg_mem s (refreshRecord part r s) := by
  unfold SameBut_ldg_mem
  unfold refreshRecord; (repeat' split) <;> simp

@[simp] theorem refreshRow_same (row : ℕ) (s : State) : SameBut_ldg_mem s (refreshRow row s) := by
  unfold SameBut_ldg_mem
  simp [refreshRow]

@[simp] theorem unretireChannel_same (n : Chan) (s : State) :
    SameBut_pow_clk_chs_drill_guard_bays_ldg_mem s (unretireChannel n s) := by
  unfold SameBut_pow_clk_chs_drill_guard_bays_ldg_mem
  simp [unretireChannel]

@[simp] theorem unretireWrite_same (r : Req) (n : Chan) (s : State) :
    SameBut_pow_clk_chs_drill_guard_bays_ldg_mem s (unretireWrite r n s) := by
  unfold SameBut_pow_clk_chs_drill_guard_bays_ldg_mem
  simp [unretireWrite]

@[simp] theorem storeErase_same (a n : ℕ) (s : State) : SameBut_mem s (storeErase a n s) := by
  unfold SameBut_mem
  simp [storeErase]

@[simp] theorem storeProgram_same (a : ℕ) (bs : List Byte) (s : State) : SameBut_mem s (storeProgram a bs s) := by
  unfold SameBut_mem
  simp [storeProgram]

@[simp] theorem writeDirectory_same (slotB : Bool) (s : State) : SameBut_mem s (writeDirectory slotB s) := by
  unfold SameBut_mem
  simp [writeDirectory]

@[simp] theorem writeRoot_same (o flags gen : ℕ) (digest root : List Byte) (s : State) :
    SameBut_cache_mem s (writeRoot o flags gen digest root s) := by
  unfold SameBut_cache_mem
  simp [writeRoot]

@[simp] theorem eraseRoot_same (o : ℕ) (s : State) : SameBut_cache_mem s (eraseRoot o s) := by
  unfold SameBut_cache_mem
  simp [eraseRoot]

@[simp] theorem startEscrow_same (s : State) : SameBut_grn_ldg_mem s (startEscrow s) := by
  unfold SameBut_grn_ldg_mem
  unfold startEscrow; split
  · simp
  · split
    · simp
    · simp only []; generalize h : incrementCounter 2 s = p; rcases p with ⟨ok, s1⟩
      obtain rfl := snd_of h; (repeat' split) <;> simp

@[simp] theorem freeSlots_same (p : KeySlot → Bool) (s : State) : SameBut_grn s (freeSlots p s) := by
  unfold SameBut_grn
  simp [freeSlots]

@[simp] theorem flushSlots_same (s : State) : SameBut_grn s (flushSlots s) := by
  unfold SameBut_grn
  simp [flushSlots]

@[simp] theorem setOwner_same (o : Fin 64) (st : BitVec 4) (s : State) : SameBut_grn s (setOwner o st s) := by
  unfold SameBut_grn
  simp [setOwner]

@[simp] theorem judgeOwners_same (s : State) : SameBut_grn s (judgeOwners s) := by
  unfold SameBut_grn
  simp [judgeOwners]

@[simp] theorem writeEscrow_same (s : State) : SameBut_grn_ldg_mem s (writeEscrow s) := by
  unfold SameBut_grn_ldg_mem
  simp [writeEscrow]

@[simp] theorem settleEscrow_same (s : State) : SameBut_grn_ldg_mem s (settleEscrow s) := by
  unfold SameBut_grn_ldg_mem
  simp [settleEscrow]

@[simp] theorem drawNonzero_same (s : State) : SameBut_draws s (drawNonzero s).2 := by
  unfold SameBut_draws
  simp [drawNonzero]

@[simp] theorem setShare_same (v : W256) (s : State) : SameBut_draws_bkp s (setShare v s) := by
  unfold SameBut_draws_bkp
  simp [setShare]

@[simp] theorem holdRoot_same (o : ℕ) (root : List Byte) (s : State) : SameBut_draws_grn s (holdRoot o root s) := by
  unfold SameBut_draws_grn
  simp [holdRoot]

@[simp] theorem unwrapRoots_same (s : State) : SameBut_draws_grn s (unwrapRoots s) := by
  unfold SameBut_draws_grn
  unfold unwrapRoots; (try dsimp only); simp (disch := (intros; (repeat' split) <;> simp))

@[simp] theorem granaryStartOp_same (pufOk : Bool) (s : State) :
    SameBut_draws_bkp_grn_ldg_mem s (granaryStartOp pufOk s) := by
  unfold SameBut_draws_bkp_grn_ldg_mem
  simp [granaryStartOp]

@[simp] theorem clearGranary_same (s : State) : SameBut_grn s (clearGranary s) := by
  unfold SameBut_grn
  simp [clearGranary]

@[simp] theorem setSlot_same (k : Fin 48) (x : KeySlot) (s : State) : SameBut_grn s (setSlot k x s) := by
  unfold SameBut_grn
  simp [setSlot]

@[simp] theorem touchSlot_same (info : KeyInfo) (o depth : ℕ) (last : Bool) (s : State) :
    SameBut_draws_grn s (touchSlot info o depth last s).2 := by
  unfold SameBut_draws_grn
  unfold touchSlot; dsimp only; (repeat' split) <;> simp

@[simp] theorem dropExpired_same (id : List Byte) (s : State) : SameBut_grn s (dropExpired id s) := by
  unfold SameBut_grn
  unfold dropExpired; (repeat' split) <;> simp

@[simp] theorem walkSteps_same (o : ℕ) (fin : KeyInfo → Bool) (k : ℕ) (x : KeyInfo) (l : List (List Byte)) (s : State) :
    SameBut_draws_grn s (walkSteps o fin k x l s).2 := by
  unfold SameBut_draws_grn
  induction l generalizing k x s with
  | nil => simp [walkSteps]
  | cons m ms ih =>
    simp only [walkSteps]; split
    · simp
    · split
      · simp
      · split
        · split <;> simp
        · split
          · simp
          · simp [ih]

@[simp] theorem walkPath_same (o depth : ℕ) (path : List Byte) (fin : KeyInfo → Bool) (s : State) :
    SameBut_draws_grn s (walkPath o depth path fin s).2 := by
  unfold SameBut_draws_grn
  unfold walkPath; (repeat' split) <;> simp

@[simp] theorem keyOf_same (o depth : ℕ) (path : List Byte) (leaf : Option (List Byte)) (fin : KeyInfo → Bool) (s : State) :
    SameBut_draws_grn s (keyOf o depth path leaf fin s).2 := by
  unfold SameBut_draws_grn
  unfold keyOf; split
  · simp
  · dsimp only; split
    · simp
    · split
      · simp
      · split
        · simp
        · split <;> simp

@[simp] theorem settleSlots_same (st : SlotState) (s : State) : SameBut_grn s (settleSlots st s) := by
  unfold SameBut_grn
  simp [settleSlots]

@[simp] theorem remaskOp_same (s : State) : SameBut_draws_bkp_grn s (remaskOp s) := by
  unfold SameBut_draws_bkp_grn
  simp [remaskOp]

@[simp] theorem setTile_same (t : Tile) (x : TileReg) (s : State) : SameBut_tile s (setTile t x s) := by
  unfold SameBut_tile
  simp [setTile]

@[simp] theorem writeTile_same (encl : Bool) (t : Tile) (x : TileReg) (s : State) :
    SameBut_tile s (writeTile encl t x s) := by
  unfold SameBut_tile
  simp [writeTile]

@[simp] theorem raiseFlags_same (encl : Bool) (th : Thread) (t : Tile) (r : Raised) (rows : ℕ) (s : State) :
    SameBut_tile s (raiseFlags encl th t r rows s) := by
  unfold SameBut_tile
  simp [raiseFlags]

@[simp] theorem refuseRow_same (th : Thread) (encl write : Bool) (a len : ℕ) (s : State) :
    SameBut_guard s (refuseRow th encl write a len s) := by
  unfold SameBut_guard
  simp [refuseRow]

@[simp] theorem loadRows_same (th : Thread) (encl : Bool) (owner : Byte) (addr c : Word) (n k m : ℕ) (x : TileReg × Raised) (s : State) :
    SameBut_guard s (loadRows th encl owner addr c n k m x s).2 := by
  unfold SameBut_guard
  fun_induction loadRows th encl owner addr c n k m x s <;> simp_all

@[simp] theorem tileBad_same (encl : Bool) (th : Thread) (t : Tile) (s : State) :
    SameBut_tile s (tileBad encl th t s) := by
  unfold SameBut_tile
  simp [tileBad]

@[simp] theorem tldOp_same (th : Thread) (encl : Bool) (owner : Byte) (td : Tile) (addr c : Word) (s : State) :
    SameBut_guard_tile s (tldOp th encl owner td addr c s) := by
  unfold SameBut_guard_tile
  simp [tldOp]

@[simp] theorem storeRows_same (th : Thread) (encl : Bool) (owner : Byte) (x : TileReg) (addr c : Word) (n k m : ℕ) (y : Raised) (s : State) :
    SameBut_cache_guard_mem s (storeRows th encl owner x addr c n k m y s).2 := by
  unfold SameBut_cache_guard_mem
  induction k generalizing m y s with
  | zero => simp [storeRows]
  | succ k ih => simp [storeRows, ih]

@[simp] theorem tstOp_same (th : Thread) (encl : Bool) (owner : Byte) (ta : Tile) (addr c : Word) (s : State) :
    SameBut_cache_guard_tile_mem s (tstOp th encl owner ta addr c s) := by
  unfold SameBut_cache_guard_tile_mem
  simp [tstOp]

@[simp] theorem tmmaOp_same (th : Thread) (encl : Bool) (td ta tb : Tile) (c : Word) (s : State) :
    SameBut_tile s (tmmaOp th encl td ta tb c s) := by
  unfold SameBut_tile
  simp [tmmaOp]

@[simp] theorem telOp_same (th : Thread) (encl : Bool) (td ta tb : Tile) (c : Word) (s : State) :
    SameBut_tile s (telOp th encl td ta tb c s) := by
  unfold SameBut_tile
  simp [telOp]

@[simp] theorem tzeroOp_same (encl : Bool) (td : Tile) (s : State) : SameBut_tile s (tzeroOp encl td s) := by
  unfold SameBut_tile
  simp [tzeroOp]

@[simp] theorem geomOp_same (t : Tile) (v : Word) (s : State) : SameBut_tile s (geomOp t v s) := by
  unfold SameBut_tile
  simp [geomOp]

@[simp] theorem zeroTiles_same (p : ℕ → Bool) (s : State) : SameBut_tile s (zeroTiles p s) := by
  unfold SameBut_tile
  simp [zeroTiles]

@[simp] theorem zeroMarked_same (s : State) : SameBut_tile s (zeroMarked s) := by
  unfold SameBut_tile
  simp [zeroMarked]

@[simp] theorem runTileOp_same (th : Thread) (encl : Bool) (owner : Byte) (o : TileOp) (s : State) :
    SameBut_cache_guard_tile_mem s (runTileOp th encl owner o s) := by
  unfold SameBut_cache_guard_tile_mem
  unfold runTileOp; (repeat' split) <;> simp

@[simp] theorem applyPolicy_same (s : State) : SameBut_tile s (applyPolicy s) := by
  unfold SameBut_tile
  unfold applyPolicy; (repeat' split) <;> simp

@[simp] theorem tileExecuteOp_same (s : State) : SameBut_clk_cache_guard_tile_mem s (tileExecuteOp s) := by
  unfold SameBut_clk_cache_guard_tile_mem
  unfold tileExecuteOp; (repeat' split) <;> simp

@[simp] theorem geomWriteOp_same (r : Req) (t : Tile) (v : Word) (s : State) :
    SameBut_clk_guard_tile s (geomWriteOp r t v s) := by
  unfold SameBut_clk_guard_tile
  unfold geomWriteOp tryWrite; (repeat' split) <;> simp

@[simp] theorem pushGrq_same (r : GrnReq) (s : State) : SameBut_clk_grn s (pushGrq r s) := by
  unfold SameBut_clk_grn
  simp [pushGrq]

@[simp] theorem svcGranaryOp_same (t : Thread) (s : State) : SameBut_clk_drill_cores_grn s (svcGranaryOp t s) := by
  unfold SameBut_clk_drill_cores_grn
  unfold svcGranaryOp; dsimp only; (repeat' split) <;> simp

@[simp] theorem violateNowhere_same (src : ℕ) (kind : Vio) (s : State) :
    SameBut_draws_guard s (violateNowhere src kind s) := by
  unfold SameBut_draws_guard
  simp [violateNowhere]

@[simp] theorem mismatchKind_same (kind : Vio) (j : GrnJob) (s : State) :
    SameBut_draws_guard s (mismatchKind kind j s).2 := by
  unfold SameBut_draws_guard
  simp [mismatchKind]

@[simp] theorem mismatch_same (j : GrnJob) (s : State) : SameBut_draws_guard s (mismatch j s).2 := by
  unfold SameBut_draws_guard
  simp [mismatch]

@[simp] theorem killNonce_same (n : List Byte) (s : State) : SameBut_grn s (killNonce n s) := by
  unfold SameBut_grn
  simp [killNonce]

@[simp] theorem countAuth_same (ok : Bool) (s : State) : SameBut_grn s (countAuth ok s) := by
  unfold SameBut_grn
  simp [countAuth]

@[simp] theorem drawScalar_same (s : State) : SameBut_draws s (drawScalar s).2 := by
  unfold SameBut_draws
  simp [drawScalar]

@[simp] theorem drawBytes_same (k : ℕ) (s : State) : SameBut_draws s (drawBytes k s).2 := by
  unfold SameBut_draws
  induction k generalizing s with
  | zero => simp [drawBytes]
  | succ k ih => simp [drawBytes, ih]

@[simp] theorem signDigest_same (d : ℕ) (dg : List Byte) (s : State) : SameBut_draws s (signDigest d dg s).2 := by
  unfold SameBut_draws
  unfold signDigest; dsimp only; (repeat' split) <;> simp

@[simp] theorem exportKey_same (j : GrnJob) (s : State) : SameBut_draws_grn s (exportKey j s).2 := by
  unfold SameBut_draws_grn
  simp [exportKey]

@[simp] theorem useKey_same (j : GrnJob) (k : KeyInfo) (s : State) : SameBut_draws_grn s (useKey j k s).2 := by
  unfold SameBut_draws_grn
  unfold useKey; dsimp only; (repeat' split) <;> simp

@[simp] theorem undoFill_same (before : Vector KeySlot 48) (ks : List (Fin 48)) (s : State) :
    SameBut_grn s (undoFill before ks s) := by
  unfold SameBut_grn
  simp [undoFill]

@[simp] theorem keyCommand_same (j : GrnJob) (s : State) : SameBut_draws_guard_grn s (keyCommand j s).2 := by
  unfold SameBut_draws_guard_grn
  unfold keyCommand; dsimp only; split
  · simp
  · generalize (if leafFlag _ = true then some j.r.blob else none) = leaf
    generalize hk : keyOf _ _ _ _ _ _ = p; rcases p with ⟨_ | ⟨k, ks⟩, s1⟩ <;> obtain rfl := snd_of hk
    · simp
    · dsimp only; split
      · split <;> simp
      · generalize h : useKey j _ _ = p; rcases p with ⟨_ | r, s1⟩ <;> (obtain rfl := snd_of h; simp)

@[simp] theorem refuse_same (code : ℕ) (s : State) : SameBut_grn s (refuse code s).2 := by
  unfold SameBut_grn
  simp [refuse]

@[simp] theorem acceptAuth_same (s : State) : SameBut_grn s (acceptAuth s) := by
  unfold SameBut_grn
  simp [acceptAuth]

@[simp] theorem newRoot_same (imported : Option (List Byte)) (s : State) :
    SameBut_draws s (newRoot imported s).2 := by
  unfold SameBut_draws
  unfold newRoot; dsimp only; (repeat' split) <;> simp

@[simp] theorem createOwner_same (j : GrnJob) (o : Fin 64) (imported : Option (List Byte)) (s : State) :
    SameBut_draws_cache_grn_ldg_mem s (createOwner j o imported s).2 := by
  unfold SameBut_draws_cache_grn_ldg_mem
  simp [createOwner]

@[simp] theorem deleteOwner_same (o : Fin 64) (s : State) : SameBut_cache_grn_ldg_mem s (deleteOwner o s).2 := by
  unfold SameBut_cache_grn_ldg_mem
  simp [deleteOwner]

@[simp] theorem rebindOwner_same (o : Fin 64) (s : State) : SameBut_cache_grn_ldg_mem s (rebindOwner o s).2 := by
  unfold SameBut_cache_grn_ldg_mem
  unfold rebindOwner; (repeat' split) <;> simp

@[simp] theorem restoreEntry_same (h48 e : List Byte) (s : State) :
    SameBut_draws_cache_grn_mem s (restoreEntry h48 e s).2 := by
  unfold SameBut_draws_cache_grn_mem
  unfold restoreEntry; dsimp only; (repeat' split) <;> simp

@[simp] theorem restoreAll_same (h48 : List Byte) (l : List (List Byte)) (s : State) :
    SameBut_draws_cache_grn_mem s (restoreAll h48 l s).2 := by
  unfold SameBut_draws_cache_grn_mem
  induction l generalizing s with
  | nil => simp [restoreAll]
  | cons e es ih => simp [restoreAll, ih]

@[simp] theorem restoreOwners_same (s : State) : SameBut_draws_cache_grn_mem s (restoreOwners s).2 := by
  unfold SameBut_draws_cache_grn_mem
  unfold restoreOwners; dsimp only; (repeat' split) <;> simp

@[simp] theorem ownerCommand_same (j : GrnJob) (s : State) :
    SameBut_draws_cache_guard_grn_ldg_mem s (ownerCommand j s).2 := by
  unfold SameBut_draws_cache_guard_grn_ldg_mem
  unfold ownerCommand; dsimp only; (repeat' split) <;> simp

@[simp] theorem drawNonce_same (s : State) : SameBut_draws_grn s (drawNonce s).2 := by
  unfold SameBut_draws_grn
  simp [drawNonce]

@[simp] theorem runJob_same (j : GrnJob) (entropyOk : Bool) (s : State) :
    SameBut_draws_cache_guard_grn_ldg_mem s (runJob j entropyOk s).2 := by
  unfold SameBut_draws_cache_guard_grn_ldg_mem
  simp [runJob]

@[simp] theorem noteCommand_same (j : GrnJob) (r : GrnResult) (s : State) : SameBut_grn s (noteCommand j r s) := by
  unfold SameBut_grn
  simp [noteCommand]

@[simp] theorem runHead_same (r : GrnReq) (entropyOk : Bool) (s : State) :
    SameBut_draws_clk_cache_guard_grn_ldg_mem s (runHead r entropyOk s) := by
  unfold SameBut_draws_clk_cache_guard_grn_ldg_mem
  simp [runHead]

@[simp] theorem setGpr_same (t : Thread) (r : Gpr) (w : Word) (s : State) : SameBut_cores s (setGpr t r w s) := by
  unfold SameBut_cores
  simp [setGpr]

@[simp] theorem setPc_same (t : Thread) (pc : Word) (s : State) : SameBut_cores s (setPc t pc s) := by
  unfold SameBut_cores
  simp [setPc]

@[simp] theorem advance_same (t : Thread) (s : State) : SameBut_cores s (advance t s) := by
  unfold SameBut_cores
  simp [advance]

@[simp] theorem setFlags_same (t : Thread) (f : BitVec 4) (s : State) : SameBut_cores s (setFlags t f s) := by
  unfold SameBut_cores
  simp [setFlags]

@[simp] theorem pushRet_same (t : Thread) (a : Word) (s : State) : SameBut_cores s (pushRet t a s) := by
  unfold SameBut_cores
  simp [pushRet]

@[simp] theorem popRet_same (t : Thread) (s : State) : SameBut_cores s (popRet t s) := by
  unfold SameBut_cores
  simp [popRet]

@[simp] theorem settleForeign_same (t : Thread) (s : State) : SameBut_cores s (settleForeign t s) := by
  unfold SameBut_cores
  simp [settleForeign]

@[simp] theorem settleCtl_same (t : Thread) (s : State) : SameBut_cores s (settleCtl t s) := by
  unfold SameBut_cores
  simp [settleCtl]

@[simp] theorem fillLoad_same (t : Thread) (s : State) : SameBut_draws_cache s (fillLoad t s) := by
  unfold SameBut_draws_cache
  unfold fillLoad; (repeat' split) <;> simp

@[simp] theorem settleDone_same (t : Thread) (s : State) : SameBut_draws_cores_cache s (settleDone t s) := by
  unfold SameBut_draws_cores_cache
  simp [settleDone]

@[simp] theorem setIpend_same (t : Thread) (k : ℕ) (s : State) : SameBut_cores s (setIpend t k s) := by
  unfold SameBut_cores
  simp [setIpend]

@[simp] theorem saveStatus_same (t : Thread) (epc : Word) (s : State) : SameBut_cores s (saveStatus t epc s) := by
  unfold SameBut_cores
  simp [saveStatus]

@[simp] theorem clearShadow_same (t : Thread) (c : ℕ) (s : State) : SameBut_bkp s (clearShadow t c s) := by
  unfold SameBut_bkp
  simp [clearShadow]

@[simp] theorem enterHandler_same (t : Thread) (encl : Bool) (k : ℕ) (s : State) :
    SameBut_bkp_cores s (enterHandler t encl k s) := by
  unfold SameBut_bkp_cores
  simp [enterHandler]

@[simp] theorem idleThread_same (t : Thread) (s : State) : SameBut_cores_guard s (idleThread t s) := by
  unfold SameBut_cores_guard
  simp [idleThread]

@[simp] theorem sendEnd_same (t : Thread) (status : Byte) (s : State) : SameBut_clk_drill s (sendEnd t status s) := by
  unfold SameBut_clk_drill
  unfold sendEnd; (repeat' split) <;> simp

@[simp] theorem endTask_same (t : Thread) (status : Byte) (s : State) :
    SameBut_clk_drill_cores_guard s (endTask t status s) := by
  unfold SameBut_clk_drill_cores_guard
  simp [endTask]

@[simp] theorem stileCommit_same (t : Thread) (service : Half) (s : State) :
    SameBut_bkp_cores_cache s (stileCommit t service s) := by
  unfold SameBut_bkp_cores_cache
  simp [stileCommit]

@[simp] theorem stileReturn_same (t : Thread) (results : Vector Word 32) (s : State) :
    SameBut_cores s (stileReturn t results s) := by
  unfold SameBut_cores
  unfold stileReturn; dsimp only; (repeat' split) <;> simp

@[simp] theorem abandon_same (t : Thread) (s : State) : SameBut_draws_cores_cache s (abandon t s).2 := by
  unfold SameBut_draws_cores_cache
  unfold abandon; dsimp only; (repeat' split) <;> simp

@[simp] theorem interruptOp_same (t : Thread) (s : State) : SameBut_draws_bkp_cores_cache s (interruptOp t s) := by
  unfold SameBut_draws_bkp_cores_cache
  unfold interruptOp; dsimp only; (repeat' split) <;> simp

@[simp] theorem startTask_same (t : Thread) (d : Fin 1024) (s : State) :
    SameBut_drill_cores_guard s (startTask t d s) := by
  unfold SameBut_drill_cores_guard
  simp [startTask]

@[simp] theorem taskStartOp_same (t : Thread) (s : State) : SameBut_clk_drill_cores_guard s (taskStartOp t s) := by
  unfold SameBut_clk_drill_cores_guard
  unfold taskStartOp; dsimp only; (repeat' split) <;> simp

@[simp] theorem startCommons_same (entryOff : ℕ) (s : State) : SameBut_cores s (startCommons entryOff s) := by
  unfold SameBut_cores
  unfold startCommons; (repeat' split) <;> simp

@[simp] theorem wakeCommons_same (s : State) : SameBut_cores s (wakeCommons s) := by
  unfold SameBut_cores
  simp [wakeCommons]

@[simp] theorem restoreFlow_same (f : ℕ) (s : State) : SameBut_drill s (restoreFlow f s) := by
  unfold SameBut_drill
  simp [restoreFlow]

theorem admitEvent_same (e : ChEvent) (s : State) {s' : State} (h : admitEvent e s = some s') :
    SameBut_drill s s' := by
  unfold SameBut_drill
  unfold admitEvent at h; dsimp only at h; split at h
  · split at h
    · cases h
    · rename_i h2; cases h; simp [snd_of h2]
  · simp only [Option.map_eq_some_iff] at h; obtain ⟨_, _, rfl⟩ := h; simp

@[simp] theorem admitChev_same (f : Furrow) (s : State) : SameBut_clk_chs_drill s (admitChev f s) := by
  unfold SameBut_clk_chs_drill
  unfold admitChev; split
  · simp
  · split
    · simp
    · rename_i h; simp [admitEvent_same _ _ h]

@[simp] theorem admitHk_same (s : State) : SameBut_clk_drill s (admitHk s) := by
  unfold SameBut_clk_drill
  unfold admitHk; (repeat' split) <;> simp

@[simp] theorem setTimer_same (i : Fin 64) (x : DrillTimer) (s : State) : SameBut_drill s (setTimer i x s) := by
  unfold SameBut_drill
  simp [setTimer]

@[simp] theorem startTimer_same (i : Fin 64) (s : State) : SameBut_drill s (startTimer i s) := by
  unfold SameBut_drill
  simp [startTimer]

@[simp] theorem missTimer_same (i : Fin 64) (f : ℕ) (s : State) : SameBut_drill s (missTimer i f s) := by
  unfold SameBut_drill
  simp [missTimer]

@[simp] theorem raiseTimer_same (i : Fin 64) (f idx : ℕ) (fires : Word) (s : State) :
    SameBut_drill s (raiseTimer i f idx fires s) := by
  unfold SameBut_drill
  unfold raiseTimer; split
  · simp
  · split
    · split <;> (rename_i h; simp [snd_of h])
    · split <;> simp

@[simp] theorem fireTimer_same (i : Fin 64) (s : State) : SameBut_drill s (fireTimer i s) := by
  unfold SameBut_drill
  simp [fireTimer]

@[simp] theorem clearHist_same (s : State) : SameBut_drill s (clearHist s) := by
  unfold SameBut_drill
  simp [clearHist]

@[simp] theorem overloadSubwindow_same (f : ℕ) (s : State) : SameBut_clk_drill_bays s (overloadSubwindow f s) := by
  unfold SameBut_clk_drill_bays
  unfold overloadSubwindow; dsimp only; (repeat' split) <;> simp

@[simp] theorem startSnapshot_same (s : State) : SameBut_books s (startSnapshot s) := by
  unfold SameBut_books
  simp [startSnapshot]

@[simp] theorem finishSnapshot_same (s : State) : SameBut_books_ldg_mem s (finishSnapshot s) := by
  unfold SameBut_books_ldg_mem
  simp [finishSnapshot]

@[simp] theorem abortSnapshot_same (s : State) : SameBut_books s (abortSnapshot s) := by
  unfold SameBut_books
  simp [abortSnapshot]

@[simp] theorem serveRequest_same (b : Bay) (s : State) : SameBut_pow_clk_drill s (serveRequest b s) := by
  unfold SameBut_pow_clk_drill
  simp [serveRequest]

@[simp] theorem setPwr_same (b : Bay) (on : Bool) (s : State) : SameBut_pow_clk_drill_bays s (setPwr b on s) := by
  unfold SameBut_pow_clk_drill_bays
  simp [setPwr]

@[simp] theorem tripOut_same (b : Bay) (s : State) : SameBut_pow_clk_drill_bays s (tripOut b s) := by
  unfold SameBut_pow_clk_drill_bays
  simp [tripOut, raiseSlot]

@[simp] theorem shedOut_same (b : Bay) (s : State) : SameBut_pow_clk_drill_bays s (shedOut b s) := by
  unfold SameBut_pow_clk_drill_bays
  simp [shedOut]

@[simp] theorem outputsOff_same (s : State) : SameBut_pow s (outputsOff s) := by
  unfold SameBut_pow
  simp [outputsOff]

@[simp] theorem outputsOn_same (s : State) : SameBut_pow_clk_drill s (outputsOn s) := by
  unfold SameBut_pow_clk_drill
  simp [outputsOn]

@[simp] theorem setLink_same (b : Bay) (st : BitVec 3) (s : State) : SameBut_clk_drill_bays s (setLink b st s) := by
  unfold SameBut_clk_drill_bays
  simp [setLink, raiseSlot]

@[simp] theorem eraseStaging_same (s : State) : SameBut_mem s (eraseStaging s) := by
  unfold SameBut_mem
  simp [eraseStaging]

@[simp] theorem releaseBayTask_same (b : Bay) (d : Fin 1024) (s : State) :
    SameBut_pow_clk_chs_drill_guard_bays s (releaseBayTask b d s) := by
  unfold SameBut_pow_clk_chs_drill_guard_bays
  simp [releaseBayTask]

@[simp] theorem releaseBayTasks_same (b : Bay) (s : State) :
    SameBut_pow_clk_chs_drill_guard_bays s (releaseBayTasks b s) := by
  unfold SameBut_pow_clk_chs_drill_guard_bays
  simp [releaseBayTasks]

@[simp] theorem orphanRequests_same (b : Bay) (s : State) : SameBut_grn s (orphanRequests b s) := by
  unfold SameBut_grn
  simp [orphanRequests]

@[simp] theorem restoreBayFlows_same (b : Bay) (s : State) : SameBut_drill s (restoreBayFlows b s) := by
  unfold SameBut_drill
  simp [restoreBayFlows]

set_option maxRecDepth 4000 in
@[simp] theorem bayResetParts_same (b : Bay) (cause : Option (BitVec 4)) (link : Option (BitVec 3)) (s : State) :
    SameBut_pow_seed_clk_chs_drill_guard_bays_grn_hld s (bayResetParts b cause link s) := by
  unfold SameBut_pow_seed_clk_chs_drill_guard_bays_grn_hld
  unfold bayResetParts; (repeat' split) <;> simp

set_option maxRecDepth 4000 in
@[simp] theorem bayReset_same (b : Bay) (cause : Option (BitVec 4)) (link : Option (BitVec 3)) (s : State) :
    SameBut_pow_seed_clk_chs_drill_guard_bays_grn_hld s (bayReset b cause link s) := by
  unfold SameBut_pow_seed_clk_chs_drill_guard_bays_grn_hld
  simp [bayReset]

@[simp] theorem silentCmd_same (b : Bay) (c : BayCmd) (s : State) :
    SameBut_draws_pow_clk_guard_bays s (silentCmd b c s) := by
  unfold SameBut_draws_pow_clk_guard_bays
  simp [silentCmd]

@[simp] theorem submitCmd_same (b : Bay) (c : BayCmd) (s : State) :
    SameBut_pow_clk_drill_bays s (submitCmd b c s) := by
  unfold SameBut_pow_clk_drill_bays
  unfold submitCmd; split
  · simp
  · dsimp only; split <;> (rename_i h; simp [snd_of h])

@[simp] theorem admitService_same (b : Bay) (c : BayCmd) (s : State) :
    SameBut_pow_clk_drill_bays s (admitService b c s) := by
  unfold SameBut_pow_clk_drill_bays
  unfold admitService; dsimp only; (repeat' split) <;> simp

theorem beginService_same (b : Bay) (c : BayCmd) (s : State) {s' : State} (h : beginService b c s = some s') :
    SameBut_drill_bays s s' := by
  unfold SameBut_drill_bays
  unfold beginService at h; split at h
  · cases h
  · dsimp only at h; split at h
    · cases h
    · cases h; simp

@[simp] theorem coldReset_same (cause : BitVec 4) (s : State) :
    Same_now_draws_pins_pending s (coldReset cause s) := by
  unfold Same_now_draws_pins_pending
  simp [coldReset]

@[simp] theorem warmClear_same (s : State) : Same_now_draws_pins_fuse_bays_pending s (warmClear s) := by
  unfold Same_now_draws_pins_fuse_bays_pending
  simp [warmClear]

set_option maxRecDepth 4000 in
@[simp] theorem warmReset_same (s : State) : Same_now_draws_pins_fuse_pending s (warmReset s) := by
  unfold Same_now_draws_pins_fuse_pending
  simp [warmReset]

@[simp] theorem endService_same (s : State) :
    SameBut_sys_seed_clk_cores_cache_guard_tile_ldg_hld_mem s (endService s) := by
  unfold SameBut_sys_seed_clk_cores_cache_guard_tile_ldg_hld_mem
  simp [endService]

@[simp] theorem hiZAll_same (s : State) : SameBut_chs s (hiZAll s) := by
  unfold SameBut_chs
  simp [hiZAll]

@[simp] theorem railsOff_same (s : State) : SameBut_pow s (railsOff s) := by
  unfold SameBut_pow
  simp [railsOff]

@[simp] theorem fieldPowerOff_same (s : State) : SameBut_pow_clk_chs_drill_bays s (fieldPowerOff s) := by
  unfold SameBut_pow_clk_chs_drill_bays
  simp [fieldPowerOff]

@[simp] theorem enterBackup_same (s : State) :
    SameBut_pow_bkp_sys_fuse_boot_clk_chs_drill_bays_ldg_hld_mem s (enterBackup s) := by
  unfold SameBut_pow_bkp_sys_fuse_boot_clk_chs_drill_bays_ldg_hld_mem
  simp [enterBackup]

@[simp] theorem freeTaskCells_same (x : Desc) (s : State) : SameBut_chs s (freeTaskCells x s) := by
  unfold SameBut_chs
  simp [freeTaskCells]

@[simp] theorem discardTasks_same (s : State) : SameBut_clk_chs_drill s (discardTasks s) := by
  unfold SameBut_clk_chs_drill
  simp [discardTasks]

@[simp] theorem haltThreads_same (s : State) : SameBut_cores_guard s (haltThreads s) := by
  unfold SameBut_cores_guard
  simp [haltThreads]

@[simp] theorem lockBay_same (b : Bay) (s : State) : SameBut_clk_bays s (lockBay b s) := by
  unfold SameBut_clk_bays
  simp [lockBay]

@[simp] theorem clearForLockdown_same (tamper : Bool) (s : State) :
    SameBut_clk_grn s (clearForLockdown tamper s) := by
  unfold SameBut_clk_grn
  simp [clearForLockdown]

@[simp] theorem enterLockdown_same (lock : BitVec 4) (s : State) :
    Same_now_draws_pow_pins_fuse_boot_wld_pending s (enterLockdown lock s) := by
  unfold Same_now_draws_pow_pins_fuse_boot_wld_pending
  simp [enterLockdown]

@[simp] theorem lockdownEvent_same (lock : BitVec 4) (s : State) :
    Same_now_draws_pow_pins_fuse_boot_wld_pending s (lockdownEvent lock s) := by
  unfold Same_now_draws_pow_pins_fuse_boot_wld_pending
  simp [lockdownEvent]

@[simp] theorem cancelWaiting_same (s : State) : SameBut_pow_clk_chs_drill_guard_bays s (cancelWaiting s) := by
  unfold SameBut_pow_clk_chs_drill_guard_bays
  simp [cancelWaiting]

@[simp] theorem sleepClear_same (s : State) :
    SameBut_pow_bkp_sys_clk_chs_drill_books_cores_cache_guard_tile_grn s (sleepClear s) := by
  unfold SameBut_pow_bkp_sys_clk_chs_drill_books_cores_cache_guard_tile_grn
  simp [sleepClear]

set_option maxRecDepth 4000 in
@[simp] theorem sleepEntry_same (s : State) : Same_now_draws_pins_fuse_boot_wld_pending s (sleepEntry s) := by
  unfold Same_now_draws_pins_fuse_boot_wld_pending
  simp [sleepEntry]

@[simp] theorem railsOn_same (s : State) : SameBut_pow s (railsOn s) := by
  unfold SameBut_pow
  unfold railsOn; (repeat' split) <;> simp

@[simp] theorem commonsDouble_same (t : Thread) (s : State) :
    SameBut_clk_drill_cores_guard_wld_ldg_mem s (commonsDouble t s) := by
  unfold SameBut_clk_drill_cores_guard_wld_ldg_mem
  simp [commonsDouble]

@[simp] theorem restartCommons_same (t : Thread) (s : State) :
    SameBut_clk_drill_cores_cache_guard_tile_hld s (restartCommons t s) := by
  unfold SameBut_clk_drill_cores_cache_guard_tile_hld
  simp [restartCommons]

@[simp] theorem abandonTask_same (d : Fin 1024) (s : State) :
    SameBut_pow_clk_chs_drill_guard_bays s (abandonTask d s) := by
  unfold SameBut_pow_clk_chs_drill_guard_bays
  simp [abandonTask]

@[simp] theorem restartEncl_same (t : Thread) (s : State) :
    SameBut_pow_clk_chs_drill_cores_guard_bays s (restartEncl t s) := by
  unfold SameBut_pow_clk_chs_drill_cores_guard_bays
  unfold restartEncl; dsimp only; (repeat' split) <;> simp

@[simp] theorem restartGranary_same (s : State) : SameBut_clk_grn s (restartGranary s) := by
  unfold SameBut_clk_grn
  simp [restartGranary]

@[simp] theorem restartLedger_same (s : State) : SameBut_clk_ldg s (restartLedger s) := by
  unfold SameBut_clk_ldg
  simp [restartLedger]

@[simp] theorem restartCommand_same (b : Bay) (c : BayCmd) (s : State) :
    SameBut_pow_clk_chs_drill_guard_bays s (restartCommand b c s) := by
  unfold SameBut_pow_clk_chs_drill_guard_bays
  simp [restartCommand]

@[simp] theorem freeEnclDivider_same (c : Fin 4) (s : State) : SameBut_cores s (freeEnclDivider c s) := by
  unfold SameBut_cores
  unfold freeEnclDivider; dsimp only; (repeat' split) <;> simp

@[simp] theorem restartShadows_same (s : State) : SameBut_bkp s (restartShadows s) := by
  unfold SameBut_bkp
  simp [restartShadows]

@[simp] theorem restartStep1_same (s : State) :
    Same_now_draws_pins_sys_fuse_boot_books_wld_mem_pending s (restartStep1 s) := by
  unfold Same_now_draws_pins_sys_fuse_boot_books_wld_mem_pending
  simp [restartStep1]

@[simp] theorem scrub_same (s : State) : SameBut_cache_mem s (scrub s) := by
  unfold SameBut_cache_mem
  simp [scrub]

@[simp] theorem spoilBooks_same (s : State) : SameBut_books s (spoilBooks s) := by
  unfold SameBut_books
  simp [spoilBooks]

@[simp] theorem enclRestart_same (cause : BitVec 2) (t : Thread) (s : State) :
    Same_now_draws_pins_fuse_pending s (enclRestart cause t s) := by
  unfold Same_now_draws_pins_fuse_pending
  simp [enclRestart]

@[simp] theorem reloadE_same (s : State) : SameBut_cores s (reloadE s) := by
  unfold SameBut_cores
  simp [reloadE]

@[simp] theorem reloadC_same (s : State) : SameBut_cores s (reloadC s) := by
  unfold SameBut_cores
  simp [reloadC]

@[simp] theorem startEncl_same (e : Fin 4) (s : State) : SameBut_cores s (startEncl e s) := by
  unfold SameBut_cores
  simp [startEncl]

@[simp] theorem startWatchdog_same (s : State) : SameBut_wld s (startWatchdog s) := by
  unfold SameBut_wld
  simp [startWatchdog]

@[simp] theorem afterRestart_same (s : State) : SameBut_clk_chs_drill_cores_guard_wld_ldg_mem s (afterRestart s) := by
  unfold SameBut_clk_chs_drill_cores_guard_wld_ldg_mem
  simp [afterRestart]

@[simp] theorem remeasureOp_same (uncorrectable : Bool) (timeUs : Half) (s : State) :
    Same_now_draws_pow_pins_bkp_fuse_books_bays_grn_pending s (remeasureOp uncorrectable timeUs s) := by
  unfold Same_now_draws_pow_pins_bkp_fuse_books_bays_grn_pending
  simp [remeasureOp]

@[simp] theorem kickWatchdog_same (s : State) : SameBut_wld s (kickWatchdog s) := by
  unfold SameBut_wld
  simp [kickWatchdog]

@[simp] theorem doubleFault_same (t : Thread) (s : State) : Same_now_draws_pins_fuse_pending s (doubleFault t s) := by
  unfold Same_now_draws_pins_fuse_pending
  simp [doubleFault]

@[simp] theorem raiseExc_same (t : Thread) (k : Exc) (epc : Word) (s : State) :
    Same_now_draws_pins_fuse_pending s (raiseExc t k epc s) := by
  unfold Same_now_draws_pins_fuse_pending
  simp [raiseExc]

@[simp] theorem raiseHere_same (t : Thread) (k : Exc) (s : State) :
    Same_now_draws_pins_fuse_pending s (raiseHere t k s) := by
  unfold Same_now_draws_pins_fuse_pending
  simp [raiseHere]

@[simp] theorem raiseNext_same (t : Thread) (k : Exc) (s : State) :
    Same_now_draws_pins_fuse_pending s (raiseNext t k s) := by
  unfold Same_now_draws_pins_fuse_pending
  simp [raiseNext]

@[simp] theorem ignoreEmission_same (src : ℕ) (encl : Bool) (f : ℕ) (s : State) :
    SameBut_draws_guard s (ignoreEmission src encl f s) := by
  unfold SameBut_draws_guard
  simp [ignoreEmission]

@[simp] theorem raiseNote_same (t : Thread) (n : TileNote) (s : State) :
    SameBut_draws_drill_guard_tile s (raiseNote t n s) := by
  unfold SameBut_draws_drill_guard_tile
  unfold raiseNote; dsimp only; split
  · simp
  · split
    · simp
    · split <;> (rename_i h; simp [snd_of h])

@[simp] theorem settleSync_same (t : Thread) (s : State) : SameBut_cores s (settleSync t s) := by
  unfold SameBut_cores
  simp [settleSync]

@[simp] theorem raiseTile_same (t : Thread) (s : State) : Same_now_pins_fuse_pending s (raiseTile t s) := by
  unfold Same_now_pins_fuse_pending
  simp [raiseTile]

@[simp] theorem tileCompletionOp_same (s : State) : Same_now_pins_fuse_pending s (tileCompletionOp s) := by
  unfold Same_now_pins_fuse_pending
  unfold tileCompletionOp; (repeat' split) <;> simp

@[simp] theorem hldAnswer_same (a : Answer) (s : State) : SameBut_hld s (hldAnswer a s) := by
  unfold SameBut_hld
  simp [hldAnswer]

@[simp] theorem hldOk_same (s : State) : SameBut_hld s (hldOk s) := by
  unfold SameBut_hld
  simp [hldOk]

@[simp] theorem hldErr_same (code : Byte) (s : State) : SameBut_hld s (hldErr code s) := by
  unfold SameBut_hld
  simp [hldErr]

@[simp] theorem stageOpenOp_same (src : BitVec 3) (slot : Option (Fin 256)) (s : State) :
    SameBut_seed_hld_mem s (stageOpenOp src slot s).2 := by
  unfold SameBut_seed_hld_mem
  simp [stageOpenOp]

@[simp] theorem stageByte_same (s : State) (off : ℕ) (b : Byte) : SameBut_seed_mem s (stageByte s off b) := by
  unfold SameBut_seed_mem
  simp [stageByte]

@[simp] theorem stageWriteOp_same (off : ℕ) (bs : List Byte) (s : State) :
    SameBut_seed_mem s (stageWriteOp off bs s).2 := by
  unfold SameBut_seed_mem
  simp [stageWriteOp]

@[simp] theorem stageCheckOp_same (uncorrectable : Bool) (s : State) :
    SameBut_seed s (stageCheckOp uncorrectable s).2 := by
  unfold SameBut_seed
  simp [stageCheckOp]

@[simp] theorem stageActivateOp_same (slot : Option (Fin 256)) (s : State) :
    SameBut_seed_mem s (stageActivateOp slot s).2 := by
  unfold SameBut_seed_mem
  simp [stageActivateOp]

@[simp] theorem stageAbortOp_same (s : State) : SameBut_seed_hld_mem s (stageAbortOp s).2 := by
  unfold SameBut_seed_hld_mem
  simp [stageAbortOp]

@[simp] theorem stageAnswer_same (src : BitVec 3) (slot : Option (Fin 256)) (s : State) :
    SameBut_pow_clk_chs_drill_guard_bays_hld s (stageAnswer src slot s) := by
  unfold SameBut_pow_clk_chs_drill_guard_bays_hld
  unfold stageAnswer; split
  · simp
  · split <;> simp

@[simp] theorem copyStaging_same (slotB : Bool) (s : State) : SameBut_mem s (copyStaging slotB s) := by
  unfold SameBut_mem
  simp [copyStaging]

@[simp] theorem stageCopyOp_same (uncorrectable : Bool) (s : State) :
    Same_now_draws_pins_fuse_pending s (stageCopyOp uncorrectable s) := by
  unfold Same_now_draws_pins_fuse_pending
  unfold stageCopyOp; (repeat' split) <;> simp

@[simp] theorem lockRefuses_same (b : Bay) (addr : Word) (write : Bool) (s : State) :
    SameBut_guard s (lockRefuses b addr write s) := by
  unfold SameBut_guard
  simp [lockRefuses]

@[simp] theorem sqDoorbellOp_same (b : Bay) (q : Fin 16) (value : BitVec 10) (s : State) :
    SameBut_clk_bays s (sqDoorbellOp b q value s) := by
  unfold SameBut_clk_bays
  simp [sqDoorbellOp]

@[simp] theorem cqDoorbellOp_same (b : Bay) (q : Fin 16) (value : BitVec 10) (s : State) :
    SameBut_clk_bays s (cqDoorbellOp b q value s) := by
  unfold SameBut_clk_bays
  simp [cqDoorbellOp]

@[simp] theorem takeEntry_same (b : Bay) (q : Fin 16) (bs : List Byte) (s : State) :
    SameBut_draws_pow_clk_guard_bays s (takeEntry b q bs s) := by
  unfold SameBut_draws_pow_clk_guard_bays
  unfold takeEntry; (repeat' split) <;> simp

@[simp] theorem sqFetchOp_same (b : Bay) (q : Fin 16) (entries : List (List Byte)) (s : State) :
    SameBut_draws_pow_clk_guard_bays s (sqFetchOp b q entries s) := by
  unfold SameBut_draws_pow_clk_guard_bays
  simp [sqFetchOp]

@[simp] theorem dataInOp_same (b : Bay) (slot : Fin 256) (data : List Byte) (s : State) :
    SameBut_cache_guard_bays_mem s (dataInOp b slot data s) := by
  unfold SameBut_cache_guard_bays_mem
  unfold dataInOp; (repeat' split) <;> simp

@[simp] theorem cancelOp_same (b : Bay) (c : BayCmd) (s : State) :
    SameBut_pow_clk_chs_drill_guard_bays s (cancelOp b c s) := by
  unfold SameBut_pow_clk_chs_drill_guard_bays
  unfold cancelOp; (repeat' split) <;> simp

@[simp] theorem silentService_same (b : Bay) (c : BayCmd) (s : State) :
    SameBut_draws_pow_clk_chs_drill_guard_bays s (silentService b c s) := by
  unfold SameBut_draws_pow_clk_chs_drill_guard_bays
  simp [silentService]

@[simp] theorem stageEnd_same (b : Bay) (c : BayCmd) (r : StageAns × State) :
    SameBut_pow_clk_chs_drill_guard_bays r.2 (stageEnd b c r) := by
  unfold SameBut_pow_clk_chs_drill_guard_bays
  unfold stageEnd; (repeat' split) <;> simp

@[simp] theorem stageWriteCmd_same (b : Bay) (c : BayCmd) (s : State) :
    SameBut_draws_pow_seed_clk_chs_drill_guard_bays_mem s (stageWriteCmd b c s) := by
  unfold SameBut_draws_pow_seed_clk_chs_drill_guard_bays_mem
  simp [stageWriteCmd]

@[simp] theorem granaryCmd_same (b : Bay) (c : BayCmd) (s : State) :
    SameBut_pow_clk_chs_drill_guard_bays_grn s (granaryCmd b c s) := by
  unfold SameBut_pow_clk_chs_drill_guard_bays_grn
  unfold granaryCmd; (repeat' split) <;> simp

@[simp] theorem notifyRead_same (t : Thread) (b : Bay) (s : State) : SameBut_clk_guard_bays s (notifyRead t b s).2 := by
  unfold SameBut_clk_guard_bays
  unfold notifyRead; (repeat' split) <;> simp

@[simp] theorem unmaskVec_same (b : Bay) (v : Fin 32) (s : State) : SameBut_clk_bays s (unmaskVec b v s) := by
  unfold SameBut_clk_bays
  simp [unmaskVec]

@[simp] theorem noteDmaError_same (b : Bay) (fault : DmaFault) (s : State) :
    SameBut_bays s (noteDmaError b fault s) := by
  unfold SameBut_bays
  simp [noteDmaError]

@[simp] theorem dmaErrorOp_same (b : Bay) (read : DmaRead) (fault : DmaFault) (s : State) :
    SameBut_pow_clk_bays s (dmaErrorOp b read fault s) := by
  unfold SameBut_pow_clk_bays
  unfold dmaErrorOp; (repeat' split) <;> simp

@[simp] theorem sendReply_same (b : Bay) (attr : TlpAttr) (size k : ℕ) (l : List Byte) (s : State) :
    SameBut_clk_bays s (sendReply b attr size k l s) := by
  unfold SameBut_clk_bays
  fun_induction sendReply b attr size k l s <;> simp_all

@[simp] theorem bar2Op_same (b : Bay) (write : Bool) (attr : TlpAttr) (off len : ℕ) (data : List Byte) (s : State) :
    SameBut_clk_cache_guard_bays_mem s (bar2Op b write attr off len data s) := by
  unfold SameBut_clk_cache_guard_bays_mem
  simp [bar2Op]

@[simp] theorem ltrOp_same (b : Bay) (s : State) : SameBut_clk_bays s (ltrOp b s) := by
  unfold SameBut_clk_bays
  unfold ltrOp; (repeat' split) <;> simp

@[simp] theorem presenceOp_same (b : Bay) (present : Bool) (s : State) :
    SameBut_pow_clk_drill_bays s (presenceOp b present s) := by
  unfold SameBut_pow_clk_drill_bays
  simp [presenceOp, raiseSlot]

@[simp] theorem buttonOp_same (b : Bay) (s : State) : SameBut_clk_drill_bays s (buttonOp b s) := by
  unfold SameBut_clk_drill_bays
  simp [buttonOp, raiseSlot]

@[simp] theorem surpriseOp_same (b : Bay) (linkDown : Bool) (s : State) :
    SameBut_pow_seed_clk_chs_drill_guard_bays_grn_hld s (surpriseOp b linkDown s) := by
  unfold SameBut_pow_seed_clk_chs_drill_guard_bays_grn_hld
  simp [surpriseOp]

@[simp] theorem linkUpOp_same (b : Bay) (speed : BitVec 2) (credits : List ℕ) (s : State) :
    SameBut_clk_drill_bays s (linkUpOp b speed credits s) := by
  unfold SameBut_clk_drill_bays
  simp [linkUpOp]

@[simp] theorem powered_same (s : State) : SameBut_bkp s (powered s) := by
  unfold SameBut_bkp
  simp [powered]

@[simp] theorem powerOnOp_same (mv : Half) (svc5v : Bool) (s : State) :
    Same_now_draws_pins_pending s (powerOnOp mv svc5v s) := by
  unfold Same_now_draws_pins_pending
  simp [powerOnOp]

@[simp] theorem losePower_same (s : State) :
    SameBut_pow_bkp_sys_fuse_boot_clk_chs_drill_bays_ldg_hld_mem s (losePower s) := by
  unfold SameBut_pow_bkp_sys_fuse_boot_clk_chs_drill_bays_ldg_hld_mem
  simp [losePower]

@[simp] theorem restoreDrives_same (s : State) : SameBut_chs s (restoreDrives s) := by
  unfold SameBut_chs
  simp [restoreDrives]

@[simp] theorem trainLinks_same (s : State) : SameBut_clk_drill_bays s (trainLinks s) := by
  unfold SameBut_clk_drill_bays
  simp [trainLinks]

@[simp] theorem sleepPins_same (s : State) : SameBut_chs s (sleepPins s) := by
  unfold SameBut_chs
  simp [sleepPins]

@[simp] theorem budgetShed_same (tripped : Bool) (b : Bay) (s : State) :
    SameBut_pow_clk_drill_bays s (budgetShed tripped b s) := by
  unfold SameBut_pow_clk_drill_bays
  simp [budgetShed]

@[simp] theorem shedUntil_same (baseMc : ℤ) (ma : Bay → ℕ) (tripped : BitVec 4) (l : List Bay) (k : ℕ) (s : State) :
    SameBut_pow_clk_drill_bays s (shedUntil baseMc ma tripped l k s).2 := by
  unfold SameBut_pow_clk_drill_bays
  fun_induction shedUntil baseMc ma tripped l k s <;> simp_all

@[simp] theorem zeroShare_same (s : State) : SameBut_bkp s (zeroShare s) := by
  unfold SameBut_bkp
  simp [zeroShare]

@[simp] theorem setShadow_same (r : Req) (x : Shadow) (s : State) : SameBut_bkp s (setShadow r x s) := by
  unfold SameBut_bkp
  simp [setShadow]

@[simp] theorem latchCal_same (r : Req) (s : State) : SameBut_bkp s (latchCal r s) := by
  unfold SameBut_bkp
  simp [latchCal]

@[simp] theorem latchTime_same (r : Req) (s : State) : SameBut_bkp s (latchTime r s) := by
  unfold SameBut_bkp
  simp [latchTime]

@[simp] theorem bkpReset_same (cause : BitVec 2) (s : State) :
    SameBut_pins_bkp_sys_seed_clk_cores_cache_guard_tile_ldg_hld_mem s (bkpReset cause s) := by
  unfold SameBut_pins_bkp_sys_seed_clk_cores_cache_guard_tile_ldg_hld_mem
  simp [bkpReset]

@[simp] theorem powerLossClear_same (s : State) : SameBut_bkp s (powerLossClear s) := by
  unfold SameBut_bkp
  simp [powerLossClear]

@[simp] theorem bkpResetByte_same (key : Byte) (s : State) :
    SameBut_pins_bkp_sys_seed_clk_cores_cache_guard_tile_ldg_hld_mem s (bkpResetByte key s) := by
  unfold SameBut_pins_bkp_sys_seed_clk_cores_cache_guard_tile_ldg_hld_mem
  simp [bkpResetByte]

@[simp] theorem noteTemp_same (temp : Byte) (s : State) : SameBut_bkp s (noteTemp temp s) := by
  unfold SameBut_bkp
  simp [noteTemp]

@[simp] theorem applyWrite_same (s : State) : SameBut_bkp s (applyWrite s) := by
  unfold SameBut_bkp
  simp [applyWrite]

@[simp] theorem alarmWriteOp_same (a : Fin 4) (hi : Bool) (v : Word) (s : State) :
    SameBut_bkp s (alarmWriteOp a hi v s) := by
  unfold SameBut_bkp
  simp [alarmWriteOp]

@[simp] theorem romBlow_same (bits : List ℕ) (s : State) : SameBut_fuse s (romBlow bits s) := by
  unfold SameBut_fuse
  simp [romBlow]

@[simp] theorem queueBlows_same (bits : List (BitVec 12)) (s : State) : SameBut_fuse s (queueBlows bits s) := by
  unfold SameBut_fuse
  simp [queueBlows]

@[simp] theorem fuseGo_same (bitNo : BitVec 12) (s : State) : SameBut_fuse s (fuseGo bitNo s) := by
  unfold SameBut_fuse
  simp [fuseGo]

@[simp] theorem writeBootRecord_same (slotB : Bool) (s : State) : SameBut_cache_mem s (writeBootRecord slotB s) := by
  unfold SameBut_cache_mem
  simp [writeBootRecord]

@[simp] theorem sampleBits_same (l : List (BitVec 12)) (x : BitVec 4096) (s : State) :
    SameBut_draws s (sampleBits l x s).2 := by
  unfold SameBut_draws
  induction l generalizing x s with
  | nil => simp [sampleBits]
  | cons k t ih => simp [sampleBits, ih]

@[simp] theorem sampleFuses_same (agree : Bool) (s : State) : SameBut_draws_fuse s (sampleFuses agree s) := by
  unfold SameBut_draws_fuse
  simp [sampleFuses]

@[simp] theorem arrive_same (m : BitVec 3) (s : State) : SameBut_sys_ldg_mem s (arrive m s) := by
  unfold SameBut_sys_ldg_mem
  simp [arrive]

@[simp] theorem startLockdown_same (lock : BitVec 4) (s : State) :
    Same_now_draws_pow_pins_fuse_boot_wld_pending s (startLockdown lock s) := by
  unfold Same_now_draws_pow_pins_fuse_boot_wld_pending
  simp [startLockdown]

@[simp] theorem latchSlot_same (slotB fallback : Bool) (codeA codeB : ℕ) (us : Half) (s : State) :
    SameBut_boot_guard s (latchSlot slotB fallback codeA codeB us s) := by
  unfold SameBut_boot_guard
  simp [latchSlot]

@[simp] theorem checkSlots_same (sense : RomSense) (lock : BitVec 4) (s : State) :
    Same_now_draws_pow_pins_fuse_wld_pending s (checkSlots sense lock s) := by
  unfold Same_now_draws_pow_pins_fuse_wld_pending
  simp [checkSlots]

@[simp] theorem romOp_same (sense : RomSense) (s : State) : Same_now_pow_pins_wld_pending s (romOp sense s) := by
  unfold Same_now_pow_pins_wld_pending
  simp [romOp]

@[simp] theorem handover_same (key : Byte) (s : State) : SameBut_boot_cores_cache_wld_ldg s (handover key s) := by
  unfold SameBut_boot_cores_cache_wld_ldg
  simp [handover]

@[simp] theorem railLevels_same (e : SeedEntry) (s : State) : SameBut_pow s (railLevels e s) := by
  unfold SameBut_pow
  simp [railLevels]

@[simp] theorem applyClocks_same (s : State) : SameBut_pow_bkp s (applyClocks s) := by
  unfold SameBut_pow_bkp
  unfold applyClocks; (repeat' split) <;> simp

@[simp] theorem applyFurrows_same (s : State) : SameBut_clk s (applyFurrows s) := by
  unfold SameBut_clk
  unfold applyFurrows; (try dsimp only); simp (disch := (intros; (repeat' split) <;> simp))

@[simp] theorem applyFlows_same (s : State) : SameBut_drill s (applyFlows s) := by
  unfold SameBut_drill
  simp [applyFlows]

@[simp] theorem applyThreads_same (s : State) : SameBut_drill_cores s (applyThreads s) := by
  unfold SameBut_drill_cores
  simp [applyThreads]

@[simp] theorem applyGuards_same (s : State) : SameBut_guard s (applyGuards s) := by
  unfold SameBut_guard
  simp [applyGuards]

@[simp] theorem applyTiles_same (s : State) : SameBut_tile s (applyTiles s) := by
  unfold SameBut_tile
  unfold applyTiles; (repeat' split) <;> simp

@[simp] theorem applyLedger_same (s : State) : SameBut_ldg s (applyLedger s) := by
  unfold SameBut_ldg
  simp [applyLedger]

@[simp] theorem applyBays_same (s : State) : SameBut_pow_clk_drill_bays s (applyBays s) := by
  unfold SameBut_pow_clk_drill_bays
  unfold applyBays; (try dsimp only); simp (disch := (intros; (repeat' split) <;> simp))

@[simp] theorem applyRetired_same (s : State) : SameBut_clk_chs_ldg_mem s (applyRetired s) := by
  unfold SameBut_clk_chs_ldg_mem
  simp [applyRetired]

@[simp] theorem applyChannels_same (s : State) : SameBut_chs s (applyChannels s) := by
  unfold SameBut_chs
  simp [applyChannels]

@[simp] theorem applyStrobes_same (s : State) : SameBut_clk s (applyStrobes s) := by
  unfold SameBut_clk
  simp [applyStrobes]

@[simp] theorem releasePins_same (s : State) : SameBut_pow_clk_chs_drill_bays s (releasePins s) := by
  unfold SameBut_pow_clk_chs_drill_bays
  simp [releasePins]

@[simp] theorem noteSeed_same (slotB fallback : Bool) (codeA codeB : ℕ) (lockdown : Bool) (s : State) :
    SameBut_seed s (noteSeed slotB fallback codeA codeB lockdown s) := by
  unfold SameBut_seed
  simp [noteSeed]

@[simp] theorem applyUart_same (s : State) : SameBut_hld s (applyUart s) := by
  unfold SameBut_hld
  unfold applyUart; (repeat' split) <;> simp

@[simp] theorem applySeed_same (liveUs : Half) (s : State) :
    Same_now_draws_pins_sys_fuse_seed_books_cache_wld_pending s (applySeed liveUs s) := by
  unfold Same_now_draws_pins_sys_fuse_seed_books_cache_wld_pending
  simp [applySeed]

@[simp] theorem seedApplyOp_same (sense : SeedSense) (s : State) :
    Same_now_draws_pins_fuse_books_wld_pending s (seedApplyOp sense s) := by
  unfold Same_now_draws_pins_fuse_books_wld_pending
  simp [seedApplyOp]

@[simp] theorem raiseThermometer_same (lo now target : ℕ) (s : State) :
    SameBut_fuse s (raiseThermometer lo now target s) := by
  unfold SameBut_fuse
  simp [raiseThermometer]

@[simp] theorem commitVersions_same (s : State) : SameBut_fuse s (commitVersions s) := by
  unfold SameBut_fuse
  simp [commitVersions]

@[simp] theorem latchCommons_same (errA errB : Bool) (s : State) : SameBut_boot s (latchCommons errA errB s) := by
  unfold SameBut_boot
  unfold latchCommons; (repeat' split) <;> simp

@[simp] theorem bindCommons_same (errA errB : Bool) (s : State) : SameBut_boot_cores s (bindCommons errA errB s) := by
  unfold SameBut_boot_cores
  simp [bindCommons]

@[simp] theorem commonsBindOp_same (errA errB : Bool) (s : State) :
    Same_now_draws_pow_pins_bkp_drill_books_wld_bays_pending s (commonsBindOp errA errB s) := by
  unfold Same_now_draws_pow_pins_bkp_drill_books_wld_bays_pending
  simp [commonsBindOp]

@[simp] theorem resetWrite_same (kind : ℕ) (s : State) : Same_now_draws_pins_pending s (resetWrite kind s) := by
  unfold Same_now_draws_pins_pending
  simp [resetWrite]

@[simp] theorem activateEncl_same (slotB : Bool) (s : State) :
    Same_now_draws_pins_pending s (activateEncl slotB s) := by
  unfold Same_now_draws_pins_pending
  simp [activateEncl]

@[simp] theorem sleepWrite_same (s : State) : SameBut_sys s (sleepWrite s) := by
  unfold SameBut_sys
  simp [sleepWrite]

@[simp] theorem modeReq_same (v : ℕ) (s : State) :
    SameBut_sys_seed_clk_cores_cache_guard_tile_ldg_hld_mem s (modeReq v s) := by
  unfold SameBut_sys_seed_clk_cores_cache_guard_tile_ldg_hld_mem
  simp [modeReq]

@[simp] theorem wakeParts_same (s : State) : SameBut_pow_clk_ldg s (wakeParts s) := by
  unfold SameBut_pow_clk_ldg
  simp [wakeParts]

@[simp] theorem wakeLocked_same (s : State) : Same_now_draws_pow_pins_fuse_boot_wld_pending s (wakeLocked s) := by
  unfold Same_now_draws_pow_pins_fuse_boot_wld_pending
  simp [wakeLocked]

@[simp] theorem wakeRun_same (s : State) : SameBut_pow_sys_clk_chs_drill_cores_wld_bays_ldg_mem s (wakeRun s) := by
  unfold SameBut_pow_sys_clk_chs_drill_cores_wld_bays_ldg_mem
  simp [wakeRun]

@[simp] theorem wakeOp_same (latUs : BitVec 12) (s : State) :
    Same_now_draws_pins_fuse_boot_pending s (wakeOp latUs s) := by
  unfold Same_now_draws_pins_fuse_boot_pending
  simp [wakeOp]

@[simp] theorem chanReadEffect_same (n : Chan) (off : ℕ) (s : State) : SameBut_chs s (chanReadEffect n off s) := by
  unfold SameBut_chs
  simp [chanReadEffect]

@[simp] theorem enableChannel_same (n : Chan) (s : State) :
    SameBut_pow_clk_chs_drill_guard_bays s (enableChannel n s) := by
  unfold SameBut_pow_clk_chs_drill_guard_bays
  simp [enableChannel]

@[simp] theorem disableChannel_same (n : Chan) (s : State) : SameBut_clk_chs s (disableChannel n s) := by
  unfold SameBut_clk_chs
  simp [disableChannel]

@[simp] theorem writeEn_same (n : Chan) (en : Bool) (s : State) :
    SameBut_pow_clk_chs_drill_guard_bays s (writeEn n en s) := by
  unfold SameBut_pow_clk_chs_drill_guard_bays
  simp [writeEn]

@[simp] theorem chanStore_same (n : Chan) (off : ℕ) (v : Word) (s : State) :
    SameBut_pow_clk_chs_drill_guard_bays s (chanStore n off v s) := by
  unfold SameBut_pow_clk_chs_drill_guard_bays
  simp [chanStore]

@[simp] theorem chanData_same (n : Chan) (off : ℕ) (bs : List Byte) (s : State) :
    SameBut_chs s (chanData n off bs s) := by
  unfold SameBut_chs
  simp [chanData]

@[simp] theorem chanWriteOp_same (r : Req) (n : Chan) (off : ℕ) (v : Word) (s : State) :
    SameBut_pow_clk_chs_drill_guard_bays s (chanWriteOp r n off v s) := by
  unfold SameBut_pow_clk_chs_drill_guard_bays
  simp [chanWriteOp]

@[simp] theorem chanWrite_same (r : Req) (n : Chan) (off : ℕ) (v : Word) (s : State) :
    SameBut_pow_clk_chs_drill_guard_bays s (chanWrite r n off v s) := by
  unfold SameBut_pow_clk_chs_drill_guard_bays
  unfold chanWrite tryWrite; dsimp only; (repeat' split) <;> simp

@[simp] theorem freqWrite_same (f : Furrow) (hz : BitVec 27) (s : State) : SameBut_clk s (freqWrite f hz s) := by
  unfold SameBut_clk
  simp [freqWrite]

@[simp] theorem furrowWrite_same (r : Req) (f : Furrow) (hz : BitVec 27) (s : State) :
    SameBut_clk_guard s (furrowWrite r f hz s) := by
  unfold SameBut_clk_guard
  simp [furrowWrite]

@[simp] theorem measStart_same (dom : BitVec 6) (s : State) : SameBut_clk s (measStart dom s) := by
  unfold SameBut_clk
  simp [measStart]

@[simp] theorem calCtlWrite_same (r : Req) (v : Word) (s : State) : SameBut_bkp_guard s (calCtlWrite r v s) := by
  unfold SameBut_bkp_guard
  simp [calCtlWrite, keepLocked]

@[simp] theorem haltThread_same (t : Thread) (s : State) : SameBut_cores_hld s (haltThread t s) := by
  unfold SameBut_cores_hld
  simp [haltThread]

@[simp] theorem regionWrite_same (r : Req) (g n k : ℕ) (v : Word) (s : State) :
    SameBut_guard s (regionWrite r g n k v s) := by
  unfold SameBut_guard
  simp [regionWrite]

@[simp] theorem lockGuards_same (r : Req) (lock : Bool) (s : State) : SameBut_guard s (lockGuards r lock s) := by
  unfold SameBut_guard
  simp [lockGuards]

@[simp] theorem probeOp_same (v : Word) (s : State) : SameBut_guard s (probeOp v s) := by
  unfold SameBut_guard
  simp [probeOp]

@[simp] theorem loadWrite_same (e c : Bool) (s : State) : SameBut_cores s (loadWrite e c s) := by
  unfold SameBut_cores
  simp [loadWrite]

@[simp] theorem kickOp_same (r : Req) (t : Thread) (s : State) : SameBut_cores_guard s (kickOp r t s) := by
  unfold SameBut_cores_guard
  simp [kickOp]

@[simp] theorem modeWrite_same (r : Req) (c : Fin 4) (v : Word) (s : State) :
    SameBut_cores_guard s (modeWrite r c v s) := by
  unfold SameBut_cores_guard
  simp [modeWrite, keepLocked]

@[simp] theorem ctlWrite_same (r : Req) (t : Thread) (k : ℕ) (v : Word) (s : State) :
    SameBut_cores s (ctlWrite r t k v s) := by
  unfold SameBut_cores
  simp [ctlWrite]

@[simp] theorem setTick_same (t : Thread) (v : Word) (s : State) : SameBut_cores s (setTick t v s) := by
  unfold SameBut_cores
  simp [setTick]

@[simp] theorem perfClear_same (c : Fin 4) (k : ℕ) (s : State) : SameBut_cores s (perfClear c k s) := by
  unfold SameBut_cores
  simp [perfClear]

@[simp] theorem tileCtlWrite_same (r : Req) (v : Word) (s : State) : SameBut_guard_tile s (tileCtlWrite r v s) := by
  unfold SameBut_guard_tile
  simp [tileCtlWrite, keepLocked]

@[simp] theorem flowCfgWrite_same (r : Req) (a : Word) (f : ℕ) (v : Word) (s : State) :
    SameBut_drill_guard s (flowCfgWrite r a f v s) := by
  unfold SameBut_drill_guard
  simp [flowCfgWrite, keepLocked]

@[simp] theorem flowCreditWrite_same (r : Req) (a : Word) (f : ℕ) (v : Word) (s : State) :
    SameBut_clk_chs_drill_guard s (flowCreditWrite r a f v s) := by
  unfold SameBut_clk_chs_drill_guard
  simp [flowCreditWrite, keepLocked]

@[simp] theorem timerCfgWrite_same (i : Fin 64) (v : Word) (s : State) : SameBut_drill s (timerCfgWrite i v s) := by
  unfold SameBut_drill
  simp [timerCfgWrite]

@[simp] theorem slotCtlWrite_same (b : Bay) (v : Word) (s : State) :
    SameBut_pow_clk_drill_bays s (slotCtlWrite b v s) := by
  unfold SameBut_pow_clk_drill_bays
  simp [slotCtlWrite]

@[simp] theorem slotStsWrite_same (b : Bay) (v : Word) (s : State) : SameBut_bays s (slotStsWrite b v s) := by
  unfold SameBut_bays
  simp [slotStsWrite]

@[simp] theorem sqCtlWrite_same (b : Bay) (q : Fin 16) (v : Word) (s : State) :
    SameBut_clk_bays s (sqCtlWrite b q v s) := by
  unfold SameBut_clk_bays
  simp [sqCtlWrite]

@[simp] theorem cqCtlWrite_same (b : Bay) (q : Fin 16) (v : Word) (s : State) :
    SameBut_clk_bays s (cqCtlWrite b q v s) := by
  unfold SameBut_clk_bays
  simp [cqCtlWrite]

@[simp] theorem setVec_same (b : Bay) (v : Fin 32) (x : Vec) (s : State) : SameBut_bays s (setVec b v x s) := by
  unfold SameBut_bays
  simp [setVec]

@[simp] theorem cfgWrite_same (b : Bay) (off : ℕ) (v : Word) (s : State) :
    SameBut_clk_bays s (cfgWrite b off v s) := by
  unfold SameBut_clk_bays
  simp [cfgWrite]

@[simp] theorem readChan_same (r : Req) (n : Chan) (off : ℕ) (a : Word) (w : Width) (s : State) :
    SameBut_chs_guard s (readChan r n off a w s).2 := by
  unfold SameBut_chs_guard
  unfold readChan; (repeat' split) <;> simp

@[simp] theorem writeChan_same (r : Req) (n : Chan) (off : ℕ) (a : Word) (w : Width) (v : Word) (s : State) :
    SameBut_pow_clk_chs_drill_guard_bays s (writeChan r n off a w v s) := by
  unfold SameBut_pow_clk_chs_drill_guard_bays
  unfold writeChan; (repeat' split) <;> simp

@[simp] theorem readCells_same (r : Req) (n : Chan) (off : ℕ) (a : Word) (w : Width) (s : State) :
    SameBut_guard s (readCells r n off a w s).2 := by
  unfold SameBut_guard
  simp [readCells]

@[simp] theorem writeCells_same (r : Req) (n : Chan) (off : ℕ) (a : Word) (w : Width) (v : Word) (s : State) :
    SameBut_chs_guard s (writeCells r n off a w v s) := by
  unfold SameBut_chs_guard
  simp [writeCells]

/-- A register's read and write effects leave a part of the state alone. -/
def Reg.Keeps {β : Type} (π : State → β) (x : Reg) : Prop :=
  (∀ v s, π (x.store v s) = π s) ∧ (∀ s, π (x.latch s) = π s) ∧ ∀ s, π (x.clear s) = π s

theorem readReg_keeps {β : Type} (π : State → β) {r : Req} {a : Word} {w : Width} {x : Reg} {s : State} (h : x.Keeps π)
    (hv : ∀ k w s, π (violate r k a w s) = π s) : π (readReg r a w x s).2 = π s := by
  unfold readReg; (repeat' split) <;> simp [hv, h.2.1, h.2.2]

theorem writeReg_keeps {β : Type} (π : State → β) {r : Req} {a : Word} {w : Width} {v : Word} {x : Reg} {s : State}
    (h : x.Keeps π) (hv : ∀ k w s, π (violate r k a w s) = π s) : π (writeReg r a w v x s) = π s := by
  unfold writeReg; (repeat' split) <;> simp [hv, h.1]

/-- No register access moves the model's time, draws a free value, moves a pin or touches the queue. -/
def Reg.Outer (x : Reg) : Prop :=
  x.Keeps State.now ∧ x.Keeps State.draws ∧ x.Keeps State.pending

theorem outer_none {x : Reg} (h : (none : Option Reg) = some x) : x.Outer := by cases h
theorem outer_some {x y : Reg} (hy : y.Outer) (h : some y = some x) : x.Outer := by cases h; exact hy
theorem outer_ite {c : Prop} [Decidable c] {a b : Option Reg} {x : Reg} (ha : a = some x → x.Outer) (hb : b = some x → x.Outer)
    (h : (if c then a else b) = some x) : x.Outer := by split at h; exacts [ha h, hb h]
theorem outer_dite {c : Prop} [Decidable c] {a : c → Option Reg} {b : ¬ c → Option Reg} {x : Reg}
    (ha : ∀ p, a p = some x → x.Outer) (hb : ∀ p, b p = some x → x.Outer)
    (h : (if p : c then a p else b p) = some x) : x.Outer := by split at h; exacts [ha _ h, hb _ h]
theorem outer_if {c : Prop} [Decidable c] {a b : Reg} (ha : a.Outer) (hb : b.Outer) : (if c then a else b).Outer := by
  split <;> assumption

theorem timerReg_outer (r : Req) (s : State) (i : Fin 64) (k : Nat) : (timerReg r s i k).Outer := by
  unfold timerReg; (try dsimp only)
  (repeat' (first | with_reducible apply outer_if | split)) <;> first
    | (simp [Reg.Outer, Reg.Keeps, keepLocked]; done)
    | (simp only [Reg.Outer, Reg.Keeps]; and_intros <;> intros <;> (repeat' split) <;> simp [keepLocked]; done)
    | skip
theorem flowReg_outer (r : Req) (a : Word) (s : State) (f k : Nat) : (flowReg r a s f k).Outer := by
  unfold flowReg; (try dsimp only)
  (repeat' (first | with_reducible apply outer_if | split)) <;> first
    | (simp [Reg.Outer, Reg.Keeps, keepLocked]; done)
    | (simp only [Reg.Outer, Reg.Keeps]; and_intros <;> intros <;> (repeat' split) <;> simp [keepLocked]; done)
    | skip
theorem shedReg_outer (r : Req) (s : State) (f k : Nat) : (shedReg r s f k).Outer := by
  unfold shedReg; (try dsimp only)
  (repeat' (first | with_reducible apply outer_if | split)) <;> first
    | (simp [Reg.Outer, Reg.Keeps, keepLocked]; done)
    | (simp only [Reg.Outer, Reg.Keeps]; and_intros <;> intros <;> (repeat' split) <;> simp [keepLocked]; done)
    | skip
theorem notifyReg_outer (r : Req) (s : State) (b : Bay) (both : Bool) : (notifyReg r s b both).Outer := by
  unfold notifyReg; (try dsimp only)
  (repeat' (first | with_reducible apply outer_if | split)) <;> first
    | (simp [Reg.Outer, Reg.Keeps, keepLocked]; done)
    | (simp only [Reg.Outer, Reg.Keeps]; and_intros <;> intros <;> (repeat' split) <;> simp [keepLocked]; done)
    | skip
theorem vecReg_outer (b : Bay) (s : State) (v : Fin 32) (k : Nat) : (vecReg b s v k).Outer := by
  unfold vecReg; (try dsimp only)
  (repeat' (first | with_reducible apply outer_if | split)) <;> first
    | (simp [Reg.Outer, Reg.Keeps, keepLocked]; done)
    | (simp only [Reg.Outer, Reg.Keeps]; and_intros <;> intros <;> (repeat' split) <;> simp [keepLocked]; done)
    | skip
theorem powerReg_outer (r : Req) (s : State) (off : Nat) {x : Reg} : powerReg r s off = some x → x.Outer := by
  unfold powerReg; (try dsimp only)
  repeat' with_reducible (first | exact outer_none | refine outer_some ?_ | apply outer_ite | (refine outer_dite ?_ ?_ <;> intro _) | apply outer_if | split)
  all_goals first
    | (simp [Reg.Outer, Reg.Keeps, keepLocked]; done)
    | (simp only [Reg.Outer, Reg.Keeps]; and_intros <;> intros <;> (repeat' split) <;> simp [keepLocked]; done)
    | skip
theorem modeReg_outer (r : Req) (s : State) (off : Nat) {x : Reg} : modeReg r s off = some x → x.Outer := by
  unfold modeReg; (try dsimp only)
  repeat' with_reducible (first | exact outer_none | refine outer_some ?_ | apply outer_ite | (refine outer_dite ?_ ?_ <;> intro _) | apply outer_if | split)
  all_goals first
    | (simp [Reg.Outer, Reg.Keeps, keepLocked]; done)
    | (simp only [Reg.Outer, Reg.Keeps]; and_intros <;> intros <;> (repeat' split) <;> simp [keepLocked]; done)
    | skip
theorem bootReg_outer (r : Req) (s : State) (off : Nat) {x : Reg} : bootReg r s off = some x → x.Outer := by
  unfold bootReg; (try dsimp only)
  repeat' with_reducible (first | exact outer_none | refine outer_some ?_ | apply outer_ite | (refine outer_dite ?_ ?_ <;> intro _) | apply outer_if | split)
  all_goals first
    | (simp [Reg.Outer, Reg.Keeps, keepLocked]; done)
    | (simp only [Reg.Outer, Reg.Keeps]; and_intros <;> intros <;> (repeat' split) <;> simp [keepLocked]; done)
    | skip
theorem seedReg_outer (r : Req) (s : State) (off : Nat) {x : Reg} : seedReg r s off = some x → x.Outer := by
  unfold seedReg; (try dsimp only)
  repeat' with_reducible (first | exact outer_none | refine outer_some ?_ | apply outer_ite | (refine outer_dite ?_ ?_ <;> intro _) | apply outer_if | split)
  all_goals first
    | (simp [Reg.Outer, Reg.Keeps, keepLocked]; done)
    | (simp only [Reg.Outer, Reg.Keeps]; and_intros <;> intros <;> (repeat' split) <;> simp [keepLocked]; done)
    | skip
theorem clkReg_outer (r : Req) (s : State) (off : Nat) {x : Reg} : clkReg r s off = some x → x.Outer := by
  unfold clkReg; (try dsimp only)
  repeat' with_reducible (first | exact outer_none | refine outer_some ?_ | apply outer_ite | (refine outer_dite ?_ ?_ <;> intro _) | apply outer_if | split)
  all_goals first
    | (simp [Reg.Outer, Reg.Keeps, keepLocked]; done)
    | (simp only [Reg.Outer, Reg.Keeps]; and_intros <;> intros <;> (repeat' split) <;> simp [keepLocked]; done)
    | skip
theorem retireReg_outer (r : Req) (s : State) (off : Nat) {x : Reg} : retireReg r s off = some x → x.Outer := by
  unfold retireReg; (try dsimp only)
  repeat' with_reducible (first | exact outer_none | refine outer_some ?_ | apply outer_ite | (refine outer_dite ?_ ?_ <;> intro _) | apply outer_if | split)
  all_goals first
    | (simp [Reg.Outer, Reg.Keeps, keepLocked]; done)
    | (simp only [Reg.Outer, Reg.Keeps]; and_intros <;> intros <;> (repeat' split) <;> simp [keepLocked]; done)
    | skip
theorem sysReg_outer (r : Req) (s : State) (off : Nat) {x : Reg} : sysReg r s off = some x → x.Outer := by
  unfold sysReg; (try dsimp only)
  repeat' with_reducible (first | exact outer_none | exact powerReg_outer _ _ _ | exact modeReg_outer _ _ _ | exact bootReg_outer _ _ _ | exact seedReg_outer _ _ _ | exact clkReg_outer _ _ _ | exact retireReg_outer _ _ _ | refine outer_some ?_ | apply outer_ite | (refine outer_dite ?_ ?_ <;> intro _) | apply outer_if | split)
  all_goals first
    | (simp [Reg.Outer, Reg.Keeps, keepLocked]; done)
    | (simp only [Reg.Outer, Reg.Keeps]; and_intros <;> intros <;> (repeat' split) <;> simp [keepLocked]; done)
    | skip
theorem calReg_outer (r : Req) (s : State) (off : Nat) {x : Reg} : calReg r s off = some x → x.Outer := by
  unfold calReg; (try dsimp only)
  repeat' with_reducible (first | exact outer_none | refine outer_some ?_ | apply outer_ite | (refine outer_dite ?_ ?_ <;> intro _) | apply outer_if | split)
  all_goals first
    | (simp [Reg.Outer, Reg.Keeps, keepLocked]; done)
    | (simp only [Reg.Outer, Reg.Keeps]; and_intros <;> intros <;> (repeat' split) <;> simp [keepLocked]; done)
    | skip
theorem bkpReg_outer (r : Req) (s : State) (off : Nat) {x : Reg} : bkpReg r s off = some x → x.Outer := by
  unfold bkpReg; (try dsimp only)
  repeat' with_reducible (first | exact outer_none | exact calReg_outer _ _ _ | refine outer_some ?_ | apply outer_ite | (refine outer_dite ?_ ?_ <;> intro _) | apply outer_if | split)
  all_goals first
    | (simp [Reg.Outer, Reg.Keeps, keepLocked]; done)
    | (simp only [Reg.Outer, Reg.Keeps]; and_intros <;> intros <;> (repeat' split) <;> simp [keepLocked]; done)
    | skip
theorem fuseReg_outer (r : Req) (s : State) (off : Nat) {x : Reg} : fuseReg r s off = some x → x.Outer := by
  unfold fuseReg; (try dsimp only)
  repeat' with_reducible (first | exact outer_none | refine outer_some ?_ | apply outer_ite | (refine outer_dite ?_ ?_ <;> intro _) | apply outer_if | split)
  all_goals first
    | (simp [Reg.Outer, Reg.Keeps, keepLocked]; done)
    | (simp only [Reg.Outer, Reg.Keeps]; and_intros <;> intros <;> (repeat' split) <;> simp [keepLocked]; done)
    | skip
theorem grnReg_outer (r : Req) (s : State) (off : Nat) {x : Reg} : grnReg r s off = some x → x.Outer := by
  unfold grnReg; (try dsimp only)
  repeat' with_reducible (first | exact outer_none | refine outer_some ?_ | apply outer_ite | (refine outer_dite ?_ ?_ <;> intro _) | apply outer_if | split)
  all_goals first
    | (simp [Reg.Outer, Reg.Keeps, keepLocked]; done)
    | (simp only [Reg.Outer, Reg.Keeps]; and_intros <;> intros <;> (repeat' split) <;> simp [keepLocked]; done)
    | skip
theorem ldgReg_outer (r : Req) (s : State) (off : Nat) {x : Reg} : ldgReg r s off = some x → x.Outer := by
  unfold ldgReg; (try dsimp only)
  repeat' with_reducible (first | exact outer_none | refine outer_some ?_ | apply outer_ite | (refine outer_dite ?_ ?_ <;> intro _) | apply outer_if | split)
  all_goals first
    | (simp [Reg.Outer, Reg.Keeps, keepLocked]; done)
    | (simp only [Reg.Outer, Reg.Keeps]; and_intros <;> intros <;> (repeat' split) <;> simp [keepLocked]; done)
    | skip
theorem hldReg_outer (r : Req) (s : State) (off : Nat) {x : Reg} : hldReg r s off = some x → x.Outer := by
  unfold hldReg; (try dsimp only)
  repeat' with_reducible (first | exact outer_none | refine outer_some ?_ | apply outer_ite | (refine outer_dite ?_ ?_ <;> intro _) | apply outer_if | split)
  all_goals first
    | (simp [Reg.Outer, Reg.Keeps, keepLocked]; done)
    | (simp only [Reg.Outer, Reg.Keeps]; and_intros <;> intros <;> (repeat' split) <;> simp [keepLocked]; done)
    | skip
theorem guardReg_outer (r : Req) (s : State) (off : Nat) {x : Reg} : guardReg r s off = some x → x.Outer := by
  unfold guardReg; (try dsimp only)
  repeat' with_reducible (first | exact outer_none | refine outer_some ?_ | apply outer_ite | (refine outer_dite ?_ ?_ <;> intro _) | apply outer_if | split)
  all_goals first
    | (simp [Reg.Outer, Reg.Keeps, keepLocked]; done)
    | (simp only [Reg.Outer, Reg.Keeps]; and_intros <;> intros <;> (repeat' split) <;> simp [keepLocked]; done)
    | skip
theorem worldReg_outer (r : Req) (s : State) (off : Nat) {x : Reg} : worldReg r s off = some x → x.Outer := by
  unfold worldReg; (try dsimp only)
  repeat' with_reducible (first | exact outer_none | refine outer_some ?_ | apply outer_ite | (refine outer_dite ?_ ?_ <;> intro _) | apply outer_if | split)
  all_goals first
    | (simp [Reg.Outer, Reg.Keeps, keepLocked]; done)
    | (simp only [Reg.Outer, Reg.Keeps]; and_intros <;> intros <;> (repeat' split) <;> simp [keepLocked]; done)
    | skip
theorem threadReg_outer (r : Req) (s : State) (t : Thread) (k : Nat) {x : Reg} : threadReg r s t k = some x → x.Outer := by
  unfold threadReg; (try dsimp only)
  repeat' with_reducible (first | exact outer_none | refine outer_some ?_ | apply outer_ite | (refine outer_dite ?_ ?_ <;> intro _) | apply outer_if | split)
  all_goals first
    | (simp [Reg.Outer, Reg.Keeps, keepLocked]; done)
    | (simp only [Reg.Outer, Reg.Keeps]; and_intros <;> intros <;> (repeat' split) <;> simp [keepLocked]; done)
    | skip
theorem coreReg_outer (r : Req) (s : State) (c : Fin 4) (off : Nat) {x : Reg} : coreReg r s c off = some x → x.Outer := by
  unfold coreReg; (try dsimp only)
  repeat' with_reducible (first | exact outer_none | exact threadReg_outer _ _ _ _ | refine outer_some ?_ | apply outer_ite | (refine outer_dite ?_ ?_ <;> intro _) | apply outer_if | split)
  all_goals first
    | (simp [Reg.Outer, Reg.Keeps, keepLocked]; done)
    | (simp only [Reg.Outer, Reg.Keeps]; and_intros <;> intros <;> (repeat' split) <;> simp [keepLocked]; done)
    | skip
theorem tileReg_outer (r : Req) (s : State) (off : Nat) {x : Reg} : tileReg r s off = some x → x.Outer := by
  unfold tileReg; (try dsimp only)
  repeat' with_reducible (first | exact outer_none | refine outer_some ?_ | apply outer_ite | (refine outer_dite ?_ ?_ <;> intro _) | apply outer_if | split)
  all_goals first
    | (simp [Reg.Outer, Reg.Keeps, keepLocked]; done)
    | (simp only [Reg.Outer, Reg.Keeps]; and_intros <;> intros <;> (repeat' split) <;> simp [keepLocked]; done)
    | skip
theorem coreBlockReg_outer (r : Req) (s : State) (off : Nat) {x : Reg} : coreBlockReg r s off = some x → x.Outer := by
  unfold coreBlockReg; (try dsimp only)
  repeat' with_reducible (first | exact outer_none | exact coreReg_outer _ _ _ _ | exact tileReg_outer _ _ _ | refine outer_some ?_ | apply outer_ite | (refine outer_dite ?_ ?_ <;> intro _) | apply outer_if | split)
  all_goals first
    | (simp [Reg.Outer, Reg.Keeps, keepLocked]; done)
    | (simp only [Reg.Outer, Reg.Keeps]; and_intros <;> intros <;> (repeat' split) <;> simp [keepLocked]; done)
    | skip
theorem drillTopReg_outer (r : Req) (s : State) (off : Nat) {x : Reg} : drillTopReg r s off = some x → x.Outer := by
  unfold drillTopReg; (try dsimp only)
  repeat' with_reducible (first | exact outer_none | refine outer_some ?_ | apply outer_ite | (refine outer_dite ?_ ?_ <;> intro _) | apply outer_if | split)
  all_goals first
    | (simp [Reg.Outer, Reg.Keeps, keepLocked]; done)
    | (simp only [Reg.Outer, Reg.Keeps]; and_intros <;> intros <;> (repeat' split) <;> simp [keepLocked]; done)
    | skip
theorem booksReg_outer (r : Req) (s : State) (off : Nat) {x : Reg} : booksReg r s off = some x → x.Outer := by
  unfold booksReg; (try dsimp only)
  repeat' with_reducible (first | exact outer_none | refine outer_some ?_ | apply outer_ite | (refine outer_dite ?_ ?_ <;> intro _) | apply outer_if | split)
  all_goals first
    | (simp [Reg.Outer, Reg.Keeps, keepLocked]; done)
    | (simp only [Reg.Outer, Reg.Keeps]; and_intros <;> intros <;> (repeat' split) <;> simp [keepLocked]; done)
    | skip
theorem drillReg_outer (r : Req) (s : State) (off : Nat) {x : Reg} : drillReg r s off = some x → x.Outer := by
  unfold drillReg; (try dsimp only)
  repeat' with_reducible (first | exact outer_none | exact timerReg_outer _ _ _ _ | exact flowReg_outer _ _ _ _ _ | exact shedReg_outer _ _ _ _ | exact drillTopReg_outer _ _ _ | exact booksReg_outer _ _ _ | refine outer_some ?_ | apply outer_ite | (refine outer_dite ?_ ?_ <;> intro _) | apply outer_if | split)
  all_goals first
    | (simp [Reg.Outer, Reg.Keeps, keepLocked]; done)
    | (simp only [Reg.Outer, Reg.Keeps]; and_intros <;> intros <;> (repeat' split) <;> simp [keepLocked]; done)
    | skip
theorem bayReg_outer (r : Req) (s : State) (b : Bay) (off : Nat) {x : Reg} : bayReg r s b off = some x → x.Outer := by
  unfold bayReg; (try dsimp only)
  repeat' with_reducible (first | exact outer_none | exact notifyReg_outer _ _ _ _ | refine outer_some ?_ | apply outer_ite | (refine outer_dite ?_ ?_ <;> intro _) | apply outer_if | split)
  all_goals first
    | (simp [Reg.Outer, Reg.Keeps, keepLocked]; done)
    | (simp only [Reg.Outer, Reg.Keeps]; and_intros <;> intros <;> (repeat' split) <;> simp [keepLocked]; done)
    | skip
theorem bayBlockReg_outer (r : Req) (s : State) (off : Nat) {x : Reg} : bayBlockReg r s off = some x → x.Outer := by
  unfold bayBlockReg; (try dsimp only)
  repeat' with_reducible (first | exact outer_none | exact bayReg_outer _ _ _ _ | refine outer_some ?_ | apply outer_ite | (refine outer_dite ?_ ?_ <;> intro _) | apply outer_if | split)
  all_goals first
    | (simp [Reg.Outer, Reg.Keeps, keepLocked]; done)
    | (simp only [Reg.Outer, Reg.Keeps]; and_intros <;> intros <;> (repeat' split) <;> simp [keepLocked]; done)
    | skip
theorem sqReg_outer (b : Bay) (s : State) (q : Fin 16) (k : Nat) {x : Reg} : sqReg b s q k = some x → x.Outer := by
  unfold sqReg; (try dsimp only)
  repeat' with_reducible (first | exact outer_none | refine outer_some ?_ | apply outer_ite | (refine outer_dite ?_ ?_ <;> intro _) | apply outer_if | split)
  all_goals first
    | (simp [Reg.Outer, Reg.Keeps, keepLocked]; done)
    | (simp only [Reg.Outer, Reg.Keeps]; and_intros <;> intros <;> (repeat' split) <;> simp [keepLocked]; done)
    | skip
theorem cqReg_outer (b : Bay) (s : State) (q : Fin 16) (k : Nat) {x : Reg} : cqReg b s q k = some x → x.Outer := by
  unfold cqReg; (try dsimp only)
  repeat' with_reducible (first | exact outer_none | refine outer_some ?_ | apply outer_ite | (refine outer_dite ?_ ?_ <;> intro _) | apply outer_if | split)
  all_goals first
    | (simp [Reg.Outer, Reg.Keeps, keepLocked]; done)
    | (simp only [Reg.Outer, Reg.Keeps]; and_intros <;> intros <;> (repeat' split) <;> simp [keepLocked]; done)
    | skip
theorem hbReg_outer (b : Bay) (s : State) (off : Nat) {x : Reg} : hbReg b s off = some x → x.Outer := by
  unfold hbReg; (try dsimp only)
  repeat' with_reducible (first | exact outer_none | exact flowReg_outer _ _ _ _ _ | exact vecReg_outer _ _ _ _ | exact sqReg_outer _ _ _ _ | exact cqReg_outer _ _ _ _ | refine outer_some ?_ | apply outer_ite | (refine outer_dite ?_ ?_ <;> intro _) | apply outer_if | split)
  all_goals first
    | (simp [Reg.Outer, Reg.Keeps, keepLocked]; done)
    | (simp only [Reg.Outer, Reg.Keeps]; and_intros <;> intros <;> (repeat' split) <;> simp [keepLocked]; done)
    | skip
theorem regAt_outer (r : Req) (s : State) (a : Nat) {x : Reg} : regAt r s a = some x → x.Outer := by
  unfold regAt; (try dsimp only)
  repeat' with_reducible (first | exact outer_none | exact sysReg_outer _ _ _ | exact bkpReg_outer _ _ _ | exact fuseReg_outer _ _ _ | exact grnReg_outer _ _ _ | exact ldgReg_outer _ _ _ | exact hldReg_outer _ _ _ | exact guardReg_outer _ _ _ | exact worldReg_outer _ _ _ | exact coreBlockReg_outer _ _ _ | exact drillReg_outer _ _ _ | exact bayBlockReg_outer _ _ _ | refine outer_some ?_ | apply outer_ite | (refine outer_dite ?_ ?_ <;> intro _) | apply outer_if | split)
  all_goals first
    | (simp [Reg.Outer, Reg.Keeps, keepLocked]; done)
    | (simp only [Reg.Outer, Reg.Keeps]; and_intros <;> intros <;> (repeat' split) <;> simp [keepLocked]; done)
    | skip

@[simp] theorem readBlock_same (r : Req) (a : Word) (w : Width) (s : State) :
    Same_now_draws_pending s (readBlock r a w s).2 := by
  unfold Same_now_draws_pending
  unfold readBlock; dsimp only; split
  · split <;> simp
  · split <;> simp
  · split
    · simp
    · rename_i h; have h := regAt_outer _ _ _ h
      exact ⟨readReg_keeps _ h.1 (by simp), readReg_keeps _ h.2.1 (by simp), readReg_keeps _ h.2.2 (by simp)⟩

@[simp] theorem writeBlock_same (r : Req) (a : Word) (w : Width) (v : Word) (s : State) :
    Same_now_draws_pending s (writeBlock r a w v s) := by
  unfold Same_now_draws_pending
  unfold writeBlock; dsimp only; split
  · simp
  · split <;> simp
  · split
    · simp
    · rename_i h; have h := regAt_outer _ _ _ h
      exact ⟨writeReg_keeps _ h.1 (by simp), writeReg_keeps _ h.2.1 (by simp), writeReg_keeps _ h.2.2 (by simp)⟩

@[simp] theorem accessRead_same (r : Req) (a : Word) (w : Width) (s : State) :
    Same_now_draws_pending s (accessRead r a w s).2 := by
  unfold Same_now_draws_pending
  simp [accessRead]

@[simp] theorem accessWrite_same (r : Req) (a : Word) (w : Width) (v : Word) (s : State) :
    Same_now_draws_pending s (accessWrite r a w v s) := by
  unfold Same_now_draws_pending
  unfold accessWrite; (repeat' split) <;> simp

@[simp] theorem hbChanWrite_same (b : Bay) (off : ℕ) (a v : Word) (s : State) :
    SameBut_pow_clk_chs_drill_guard_bays s (hbChanWrite b off a v s) := by
  unfold SameBut_pow_clk_chs_drill_guard_bays
  simp [hbChanWrite]

@[simp] theorem hbRead_same (b : Bay) (off : ℕ) (s : State) : Same_now_draws_pending s (hbRead b off s).2 := by
  unfold Same_now_draws_pending
  unfold hbRead; dsimp only; split
  · split <;> simp
  · split
    · simp
    · rename_i h; have h := hbReg_outer _ _ _ h
      exact ⟨readReg_keeps _ h.1 (by simp), readReg_keeps _ h.2.1 (by simp), readReg_keeps _ h.2.2 (by simp)⟩

@[simp] theorem hbReadOp_same (b : Bay) (off len : ℕ) (s : State) :
    Same_now_draws_pending s (hbReadOp b off len s).2 := by
  unfold Same_now_draws_pending
  simp [hbReadOp]

@[simp] theorem hostRead_same (b : Bay) (config : Bool) (attr : TlpAttr) (off len : ℕ) (s : State) :
    Same_now_draws_pending s (hostRead b config attr off len s) := by
  unfold Same_now_draws_pending
  simp [hostRead]

@[simp] theorem hostWrite_same (b : Bay) (a : Word) (w : Width) (v : Word) (s : State) :
    Same_now_draws_pending s (hostWrite b a w v s) := by
  unfold Same_now_draws_pending
  unfold hostWrite; dsimp only
  split
  · simp
  split
  · split <;> simp
  split
  · simp
  split
  · simp
  split
  · split <;> simp
  · split
    · split <;> simp
    · rename_i h; have h := hbReg_outer _ _ _ h
      refine ⟨?_, ?_, ?_⟩
      · rw [writeReg_keeps _ h.1 (by simp)]; split <;> simp
      · rw [writeReg_keeps _ h.2.1 (by simp)]; split <;> simp
      · rw [writeReg_keeps _ h.2.2 (by simp)]; split <;> simp

@[simp] theorem registerWriteOp_same (r : Req) (a : Word) (w : Width) (v : Word) (s : State) :
    Same_now_draws_pending s (registerWriteOp r a w v s) := by
  unfold Same_now_draws_pending
  unfold registerWriteOp; (repeat' split) <;> simp

@[simp] theorem settleStart_same (t : Thread) (s : State) : SameBut_cores s (settleStart t s) := by
  unfold SameBut_cores
  simp [settleStart]

@[simp] theorem issue_same (t : Thread) (s : State) : SameBut_draws_cores_cache s (issue t s) := by
  unfold SameBut_draws_cores_cache
  simp [issue]

@[simp] theorem writeNext_same (t : Thread) (rd : Gpr) (w : Word) (s : State) :
    SameBut_cores s (writeNext t rd w s) := by
  unfold SameBut_cores
  simp [writeNext]

@[simp] theorem aluRR_same (t : Thread) (rd rs1 rs2 : Gpr) (op : Word → Word → Word) (s : State) :
    SameBut_cores s (aluRR t rd rs1 rs2 op s) := by
  unfold SameBut_cores
  simp [aluRR]

@[simp] theorem aluRI_same (t : Thread) (rd rs1 : Gpr) (imm : Word) (op : Word → Word → Word) (s : State) :
    SameBut_cores s (aluRI t rd rs1 imm op s) := by
  unfold SameBut_cores
  simp [aluRI]

@[simp] theorem divideOp_same (t : Thread) (rd rs1 rs2 : Gpr) (op : Word → Word → Word) (s : State) :
    SameBut_cores s (divideOp t rd rs1 rs2 op s) := by
  unfold SameBut_cores
  simp [divideOp]

@[simp] theorem declareOverlap_same (n : Chan) (s : State) :
    Same_now_draws_pins_bkp_fuse_boot_books_wld_grn_pending s (declareOverlap n s) := by
  unfold Same_now_draws_pins_bkp_fuse_boot_books_wld_grn_pending
  simp [declareOverlap]

@[simp] theorem seeLine_same (n : Chan) (mark : Bool) (s : State) : SameBut_chs s (seeLine n mark s) := by
  unfold SameBut_chs
  simp [seeLine]

@[simp] theorem noteTotal_same (n : Chan) (at' : ℕ) (bs : List Byte) (s : State) :
    SameBut_chs s (noteTotal n at' bs s) := by
  unfold SameBut_chs
  unfold noteTotal; dsimp only; (repeat' split) <;> simp

@[simp] theorem takeChar_same (n : Chan) (x : RxChar) (s : State) :
    Same_now_draws_pins_bkp_fuse_boot_books_wld_grn_pending s (takeChar n x s) := by
  unfold Same_now_draws_pins_bkp_fuse_boot_books_wld_grn_pending
  unfold takeChar; dsimp only; (repeat' split) <;> simp

@[simp] theorem noteErrors_same (n : Chan) (x : RxChar) (s : State) :
    Same_now_draws_pins_bkp_fuse_boot_books_wld_grn_pending s (noteErrors n x s) := by
  unfold Same_now_draws_pins_bkp_fuse_boot_books_wld_grn_pending
  simp [noteErrors]

@[simp] theorem judgeChar_same (n : Chan) (x : RxChar) (exceeds : Bool) (s : State) :
    Same_now_draws_pins_bkp_fuse_boot_books_wld_grn_pending s (judgeChar n x exceeds s) := by
  unfold Same_now_draws_pins_bkp_fuse_boot_books_wld_grn_pending
  simp [judgeChar]

@[simp] theorem acceptChar_same (n : Chan) (x : RxChar) (startAmp peakAmp : Byte) (edge : Bool) (s : State) :
    Same_now_draws_pins_bkp_fuse_boot_books_wld_grn_pending s (acceptChar n x startAmp peakAmp edge s) := by
  unfold Same_now_draws_pins_bkp_fuse_boot_books_wld_grn_pending
  simp [acceptChar]

@[simp] theorem breakFrame_same (n : Chan) (s : State) :
    Same_now_draws_pins_bkp_fuse_boot_books_wld_grn_pending s (breakFrame n s) := by
  unfold Same_now_draws_pins_bkp_fuse_boot_books_wld_grn_pending
  unfold breakFrame; dsimp only; (repeat' split) <;> simp

@[simp] theorem filterChar_same (n : Chan) (x : RxChar) (startAmp peakAmp : Byte) (edge : Bool) (s : State) :
    Same_now_draws_pins_bkp_fuse_boot_books_wld_grn_pending s (filterChar n x startAmp peakAmp edge s) := by
  unfold Same_now_draws_pins_bkp_fuse_boot_books_wld_grn_pending
  simp [filterChar]

@[simp] theorem falseStart_same (n : Chan) (s : State) : SameBut_chs s (falseStart n s) := by
  unfold SameBut_chs
  unfold falseStart; dsimp only; (repeat' split) <;> simp

@[simp] theorem characterReceiveOp_same (n : Chan) (samples : List Samples) (startAmp peakAmp : Byte) (edge : Bool) (s : State) :
    Same_now_draws_pins_bkp_fuse_boot_books_wld_grn_pending s (characterReceiveOp n samples startAmp peakAmp edge s) := by
  unfold Same_now_draws_pins_bkp_fuse_boot_books_wld_grn_pending
  unfold characterReceiveOp; dsimp only; (repeat' split) <;> simp

@[simp] theorem setCs_same (n : Chan) (x : CsState) (s : State) : SameBut_chs s (setCs n x s) := by
  unfold SameBut_chs
  simp [setCs]

@[simp] theorem repeatWord_same (n : Chan) (s : State) : SameBut_chs s (repeatWord n s) := by
  unfold SameBut_chs
  simp [repeatWord]

@[simp] theorem postedOrRepeat_same (n : Chan) (s : State) : SameBut_chs s (postedOrRepeat n s) := by
  unfold SameBut_chs
  unfold postedOrRepeat; dsimp only; (repeat' split) <;> simp

@[simp] theorem chooseWord_same (n : Chan) (s : State) : SameBut_chs s (chooseWord n s) := by
  unfold SameBut_chs
  unfold chooseWord; dsimp only; (repeat' split) <;> simp

@[simp] theorem startAck_same (n : Chan) (s : State) : SameBut_chs s (startAck n s) := by
  unfold SameBut_chs
  unfold startAck; dsimp only; (repeat' split) <;> simp

@[simp] theorem endAck_same (n : Chan) (s : State) : SameBut_chs s (endAck n s) := by
  unfold SameBut_chs
  simp [endAck]

@[simp] theorem replyStartOp_same (n : Chan) (boundary : Bool) (s : State) :
    SameBut_clk_chs_drill s (replyStartOp n boundary s) := by
  unfold SameBut_clk_chs_drill
  unfold replyStartOp; dsimp only; (repeat' split) <;> simp

@[simp] theorem startWaiting_same (n : Chan) (s : State) : SameBut_clk_chs_drill s (startWaiting n s) := by
  unfold SameBut_clk_chs_drill
  unfold startWaiting; (repeat' split) <;> simp

@[simp] theorem releaseHeld_same (n : Chan) (s : State) : SameBut_chs s (releaseHeld n s) := by
  unfold SameBut_chs
  simp [releaseHeld]

@[simp] theorem startTransfer_same (n : Chan) (fr : TxFrame) (s : State) : SameBut_chs s (startTransfer n fr s) := by
  unfold SameBut_chs
  simp [startTransfer]

@[simp] theorem receiveWords_same (n : Chan) (words : List Word) (s : State) :
    Same_now_draws_pins_bkp_fuse_boot_books_wld_grn_pending s (receiveWords n words s) := by
  unfold Same_now_draws_pins_bkp_fuse_boot_books_wld_grn_pending
  simp [receiveWords]

@[simp] theorem passChunks_same (n : Chan) (bits : ℕ) (s : State) : SameBut_clk s (passChunks n bits s) := by
  unfold SameBut_clk
  simp [passChunks]

@[simp] theorem noteLong_same (n : Chan) (s : State) : SameBut_chs s (noteLong n s) := by
  unfold SameBut_chs
  simp [noteLong]

@[simp] theorem slaveFrame_same (n : Chan) (s : State) :
    Same_now_draws_pins_bkp_fuse_boot_books_wld_grn_pending s (slaveFrame n s) := by
  unfold Same_now_draws_pins_bkp_fuse_boot_books_wld_grn_pending
  unfold slaveFrame; dsimp only; (repeat' split) <;> simp

@[simp] theorem shortWord_same (n : Chan) (s : State) : SameBut_chs s (shortWord n s) := by
  unfold SameBut_chs
  simp [shortWord]

@[simp] theorem releaseFrame_same (n : Chan) (partialBits : ℕ) (s : State) :
    Same_now_draws_pins_bkp_fuse_boot_books_wld_grn_pending s (releaseFrame n partialBits s) := by
  unfold Same_now_draws_pins_bkp_fuse_boot_books_wld_grn_pending
  simp [releaseFrame]

@[simp] theorem branchTo_same (t : Thread) (take : Bool) (target : Word) (s : State) :
    SameBut_draws_cores_cache s (branchTo t take target s) := by
  unfold SameBut_draws_cores_cache
  simp [branchTo]

@[simp] theorem jalrStack_same (t : Thread) (rd rs1 : Gpr) (imm : Half) (next : Word) (s : State) :
    SameBut_cores s (jalrStack t rd rs1 imm next s) := by
  unfold SameBut_cores
  simp [jalrStack]

@[simp] theorem resolveJalr_same (t : Thread) (rd rs1 : Gpr) (imm : Half) (target : Word) (s : State) :
    SameBut_draws_cores_cache s (resolveJalr t rd rs1 imm target s) := by
  unfold SameBut_draws_cores_cache
  unfold resolveJalr; (repeat' split) <;> simp

@[simp] theorem retiOp_same (t : Thread) (s : State) : Same_now_draws_pins_fuse_pending s (retiOp t s) := by
  unfold Same_now_draws_pins_fuse_pending
  simp [retiOp]

@[simp] theorem brkOp_same (t : Thread) (s : State) : Same_now_pins_fuse_pending s (brkOp t s) := by
  unfold Same_now_pins_fuse_pending
  simp [brkOp]

@[simp] theorem stileOp_same (t : Thread) (service : Half) (s : State) :
    Same_now_draws_pins_fuse_pending s (stileOp t service s) := by
  unfold Same_now_draws_pins_fuse_pending
  simp [stileOp]

@[simp] theorem leaveOp_same (t : Thread) (s : State) : Same_now_draws_pins_fuse_pending s (leaveOp t s) := by
  unfold Same_now_draws_pins_fuse_pending
  simp [leaveOp]

@[simp] theorem tdoneOp_same (t : Thread) (status : Byte) (s : State) :
    Same_now_draws_pins_fuse_pending s (tdoneOp t status s) := by
  unfold Same_now_draws_pins_fuse_pending
  simp [tdoneOp]

@[simp] theorem loadMiss_same (t : Thread) (rd : Gpr) (a : Word) (w : Width) (ext : Word → Word) (s : State) :
    Same_now_draws_pending s (loadMiss t rd a w ext s) := by
  unfold Same_now_draws_pending
  unfold loadMiss awaited; dsimp only; (repeat' split) <;> simp

@[simp] theorem loadOp_same (t : Thread) (rd rs1 : Gpr) (imm : Half) (w : Width) (ext : Word → Word) (s : State) :
    Same_now_draws_pending s (loadOp t rd rs1 imm w ext s) := by
  unfold Same_now_draws_pending
  unfold loadOp; dsimp only; (repeat' split) <;> simp

@[simp] theorem storeOp_same (t : Thread) (rs2 rs1 : Gpr) (imm : Half) (w : Width) (s : State) :
    Same_now_draws_pending s (storeOp t rs2 rs1 imm w s) := by
  unfold Same_now_draws_pending
  simp [storeOp]

@[simp] theorem amoAccess_same (t : Thread) (a : Word) (new : Word → Word) (s : State) :
    SameBut_cache_guard_mem s (amoAccess t a new s).2 := by
  unfold SameBut_cache_guard_mem
  simp [amoAccess]

@[simp] theorem amoOp_same (t : Thread) (rd rs1 : Gpr) (new : Word → Word) (s : State) :
    Same_now_draws_pins_fuse_pending s (amoOp t rd rs1 new s) := by
  unfold Same_now_draws_pins_fuse_pending
  unfold amoOp awaited; dsimp only; split
  · simp
  · split <;> simp

@[simp] theorem readChunks_same (t : Thread) (k : ℕ) (x : Word) (m : ℕ) (s : State) :
    Same_now_draws_pending s (readChunks t k x m s).2 := by
  unfold Same_now_draws_pending
  induction k generalizing m x s with
  | zero => simp [readChunks]
  | succ k ih => simp only [readChunks]; split <;> simp [ih]

@[simp] theorem writeChunks_same (t : Thread) (k : ℕ) (x : Word) (l : List Byte) (s : State) :
    Same_now_draws_pending s (writeChunks t k x l s) := by
  unfold Same_now_draws_pending
  induction k generalizing l x s with
  | zero => simp [writeChunks]
  | succ k ih => simp only [writeChunks]; split <;> simp [ih]

@[simp] theorem readElement_same (t : Thread) (a : Word) (n : ℕ) (s : State) :
    Same_now_draws_pending s (readElement t a n s).2 := by
  unfold Same_now_draws_pending
  simp [readElement]

@[simp] theorem writeElement_same (t : Thread) (a : Word) (bs : List Byte) (s : State) :
    Same_now_draws_pending s (writeElement t a bs s) := by
  unfold Same_now_draws_pending
  simp [writeElement]

@[simp] theorem copyElement_same (t : Thread) (dst src : Word) (n : ℕ) (s : State) :
    Same_now_draws_pending s (copyElement t dst src n s) := by
  unfold Same_now_draws_pending
  simp [copyElement]

@[simp] theorem bmovRun_same (t : Thread) (rd rs1 rs2 : Gpr) (k : ℕ) (s : State) :
    Same_now_draws_pending s (bmovRun t rd rs1 rs2 k s) := by
  unfold Same_now_draws_pending
  induction k generalizing s with
  | zero => simp [bmovRun]
  | succ k ih => simp only [bmovRun]; (repeat' split) <;> simp [ih]

@[simp] theorem emitHeld_same (d : Fin 1024) (f : ℕ) (w : Word) (x : Desc) (s : State) :
    SameBut_drill s (emitHeld d f w x s).2 := by
  unfold SameBut_drill
  unfold emitHeld; split <;> simp

@[simp] theorem emitAnswer_same (t : Thread) (w : Word) (payload : BitVec 320) (s : State) :
    SameBut_draws_clk_drill_guard s (emitAnswer t w payload s).2 := by
  unfold SameBut_draws_clk_drill_guard
  unfold emitAnswer; dsimp only; split
  · simp
  · split
    · simp
    · split
      · simp
      · split
        · simp
        · split <;> (rename_i h; simp [snd_of h])

@[simp] theorem foreignCancel_same (t : Thread) (s : State) : SameBut_draws_guard s (foreignCancel t s).2 := by
  unfold SameBut_draws_guard
  simp [foreignCancel]

@[simp] theorem cancelAnswer_same (t : Thread) (w : Word) (s : State) :
    SameBut_draws_pow_clk_chs_drill_guard_bays s (cancelAnswer t w s).2 := by
  unfold SameBut_draws_pow_clk_chs_drill_guard_bays
  simp [cancelAnswer]

@[simp] theorem cancelEntryAnswer_same (t : Thread) (a b : Word) (s : State) :
    SameBut_draws_pow_clk_chs_drill_guard_bays s (cancelEntryAnswer t a b s).2 := by
  unfold SameBut_draws_pow_clk_chs_drill_guard_bays
  unfold cancelEntryAnswer; dsimp only; (repeat' split) <;> simp

@[simp] theorem dataReturnOp_same (t : Thread) (uncorrectable : Bool) (s : State) :
    SameBut_draws_cores_cache s (dataReturnOp t uncorrectable s) := by
  unfold SameBut_draws_cores_cache
  unfold dataReturnOp; (repeat' split) <;> simp

@[simp] theorem dividerFreeOp_same (c : Fin 4) (s : State) : SameBut_draws_cores_cache s (dividerFreeOp c s) := by
  unfold SameBut_draws_cores_cache
  unfold dividerFreeOp; (repeat' split) <;> simp

@[simp] theorem fetchCheck_same (t : Thread) (s : State) : SameBut_guard s (fetchCheck t s) := by
  unfold SameBut_guard
  simp [fetchCheck]

@[simp] theorem illegalOp_same (t : Thread) (word : Word) (s : State) :
    Same_now_draws_pins_fuse_pending s (illegalOp t word s) := by
  unfold Same_now_draws_pins_fuse_pending
  simp [illegalOp]

@[simp] theorem zeroBuf_same (s : State) : SameBut_hld s (zeroBuf s) := by
  unfold SameBut_hld
  simp [zeroBuf]

@[simp] theorem bufOp_same (off : ℕ) (data : List Byte) (s : State) : SameBut_hld s (bufOp off data s) := by
  unfold SameBut_hld
  simp [bufOp]

@[simp] theorem refuse117_same (w : Refused117) (s : State) : SameBut_hld s (refuse117 w s) := by
  unfold SameBut_hld
  simp [refuse117]

@[simp] theorem romNonceOp_same (s : State) : SameBut_draws_hld s (romNonceOp s) := by
  unfold SameBut_draws_hld
  simp [romNonceOp]

@[simp] theorem provOp_same (s : State) : SameBut_fuse_hld s (provOp s) := by
  unfold SameBut_fuse_hld
  unfold provOp; dsimp only; (repeat' split) <;> simp

@[simp] theorem fieldOp_same (errA errB : Bool) (s : State) :
    Same_now_draws_pins_pending s (fieldOp errA errB s) := by
  unfold Same_now_draws_pins_pending
  simp [fieldOp]

@[simp] theorem slotByte_same (s : State) (off : ℕ) (b : Byte) : SameBut_hld_mem s (slotByte s off b) := by
  unfold SameBut_hld_mem
  simp [slotByte]

@[simp] theorem slotaOp_same (off len : ℕ) (s : State) : SameBut_hld_mem s (slotaOp off len s) := by
  unfold SameBut_hld_mem
  simp [slotaOp]

@[simp] theorem hldGranary_same (j : GrnJob) (entropyOk : Bool) (values : State → GrnResult → List ℕ) (s : State) :
    SameBut_draws_cache_guard_grn_ldg_hld_mem s (hldGranary j entropyOk values s) := by
  unfold SameBut_draws_cache_guard_grn_ldg_hld_mem
  simp [hldGranary]

@[simp] theorem vaultOp_same (op : Byte) (owner : BitVec 6) (inlen auxlen : ℕ) (entropyOk : Bool) (s : State) :
    SameBut_draws_cache_guard_grn_ldg_hld_mem s (vaultOp op owner inlen auxlen entropyOk s) := by
  unfold SameBut_draws_cache_guard_grn_ldg_hld_mem
  simp [vaultOp]

@[simp] theorem certRefuse_same (k : ℕ) (tried : Bool) (s : State) : SameBut_ldg_hld s (certRefuse k tried s) := by
  unfold SameBut_ldg_hld
  simp [certRefuse]

@[simp] theorem certAccept_same (c : List Byte) (s : State) : SameBut_sys_ldg_hld_mem s (certAccept c s) := by
  unfold SameBut_sys_ldg_hld_mem
  simp [certAccept]

@[simp] theorem certOp_same (s : State) : SameBut_sys_ldg_hld_mem s (certOp s) := by
  unfold SameBut_sys_ldg_hld_mem
  simp [certOp]

@[simp] theorem readWords_same (r : Req) (k : ℕ) (x : Word) (s : State) :
    Same_now_draws_pending s (readWords r k x s).2 := by
  unfold Same_now_draws_pending
  induction k generalizing x s with
  | zero => simp [readWords]
  | succ k ih => simp [readWords, ih]

@[simp] theorem rdOp_same (addr : Word) (n : ℕ) (s : State) : Same_now_draws_pending s (rdOp addr n s) := by
  unfold Same_now_draws_pending
  simp [rdOp]

@[simp] theorem wrOp_same (addr value : Word) (s : State) : Same_now_draws_pending s (wrOp addr value s) := by
  unfold Same_now_draws_pending
  simp [wrOp]

@[simp] theorem stageLine_same (p : StageAns × State) : SameBut_hld p.2 (stageLine p) := by
  unfold SameBut_hld
  unfold stageLine; (repeat' split) <;> simp

@[simp] theorem hlWriteOp_same (off len : ℕ) (s : State) : SameBut_seed_hld_mem s (hlWriteOp off len s) := by
  unfold SameBut_seed_hld_mem
  simp [hlWriteOp, inHldSession]

@[simp] theorem setTap_same (data : Word) (status : BitVec 2) (s : State) : SameBut_hld s (setTap data status s) := by
  unfold SameBut_hld
  simp [setTap]

@[simp] theorem tapOp_same (op : BitVec 2) (data addr : Word) (s : State) :
    Same_now_draws_pending s (tapOp op data addr s) := by
  unfold Same_now_draws_pending
  unfold tapOp; (repeat' split) <;> simp

@[simp] theorem setOwnerTag_same (t : Thread) (tag : Byte) (s : State) : SameBut_guard s (setOwnerTag t tag s) := by
  unfold SameBut_guard
  simp [setOwnerTag]

@[simp] theorem setTime_same (lo hi : Word) (s : State) : SameBut_bkp s (setTime lo hi s) := by
  unfold SameBut_bkp
  simp [setTime]

@[simp] theorem tickCal_same (s : State) : SameBut_bkp s (tickCal s) := by
  unfold SameBut_bkp
  simp [tickCal]

@[simp] theorem tickThread_same (k : ℕ) (t : Thread) (s : State) : SameBut_cores s (tickThread k t s) := by
  unfold SameBut_cores
  simp [tickThread]

@[simp] theorem tickMain_same (s : State) : SameBut_drill_cores s (tickMain s) := by
  unfold SameBut_drill_cores
  simp [tickMain]

@[simp] theorem tickWatchdog_same (s : State) : SameBut_wld s (tickWatchdog s) := by
  unfold SameBut_wld
  simp [tickWatchdog]

@[simp] theorem tick_same (s : State) : SameBut_now_bkp_drill_cores_wld s (tick s) := by
  unfold SameBut_now_bkp_drill_cores_wld
  simp [tick]

@[simp] theorem State.withFetchWord_same (s : State) (nbits w : ℕ) :
    SameBut_pending s (State.withFetchWord s nbits w) := by
  unfold SameBut_pending
  unfold State.withFetchWord; (repeat' split) <;> simp

end Sys2Proof.Machine
end

