-- ==== Sys2Proof/Laws/Tables.lean ====
section
/-! SUPPORT. The laws of sparse tables and of byte memories: a read after a write, the canonical form kept by every
operation, and tables that read alike being equal. -/

namespace Sys2Proof.Machine

section Plain

variable {α : Type} (d : α)

theorem tabGet_tabDrop_same (k : Nat) (t : Tab α) : tabGet d (tabDrop k t) k = d := by
  fun_induction tabDrop k t <;> simp_all [tabGet]

theorem tabGet_tabDrop_other {k j : Nat} (h : j ≠ k) (t : Tab α) : tabGet d (tabDrop k t) j = tabGet d t j := by
  fun_induction tabDrop k t <;> grind [tabGet]

theorem tabGet_tabInsert_same (k : Nat) (v : α) (t : Tab α) (h : tabDrop k t = t) : tabGet d (tabInsert k v t) k = v := by
  fun_induction tabInsert k v t
  · simp [tabGet]
  · simp [tabGet]
  · rename_i j w t hlt ih
    have hj : j ≠ k := by
      intro e; subst e
      have := congrArg List.length h
      simp only [tabDrop, if_true, List.length_cons] at this
      have hle : (tabDrop j t).length ≤ t.length := by
        clear h this ih; induction t with
        | nil => simp [tabDrop]
        | cons p t ih => rcases p with ⟨a, b⟩; simp only [tabDrop]; split <;> simp <;> omega
      omega
    simp only [tabDrop, hj, if_false, List.cons.injEq, true_and] at h
    simp [tabGet, hj, ih h]

theorem tabGet_tabInsert_other {k j : Nat} (h : j ≠ k) (v : α) (t : Tab α) :
    tabGet d (tabInsert k v t) j = tabGet d t j := by
  fun_induction tabInsert k v t <;> grind [tabGet]

theorem tabDrop_tabDrop (k : Nat) (t : Tab α) : tabDrop k (tabDrop k t) = tabDrop k t := by
  induction t with
  | nil => rfl
  | cons p t ih => rcases p with ⟨a, b⟩; by_cases h : a = k <;> simp [tabDrop, h, ih]

end Plain

variable {α : Type} [DecidableEq α] (d : α)

/-- A read of the key just written. -/
@[simp] theorem tabGet_tabPut_same (t : Tab α) (k : Nat) (v : α) : tabGet d (tabPut d t k v) k = v := by
  unfold tabPut; split
  · rename_i h; rw [h, tabGet_tabDrop_same]
  · exact tabGet_tabInsert_same d k v _ (tabDrop_tabDrop k t)

/-- A write leaves every other key alone. -/
theorem tabGet_tabPut_other {k j : Nat} (h : j ≠ k) (t : Tab α) (v : α) : tabGet d (tabPut d t k v) j = tabGet d t j := by
  unfold tabPut; split
  · exact tabGet_tabDrop_other d h t
  · rw [tabGet_tabInsert_other d h, tabGet_tabDrop_other d h]

theorem tabGet_tabPut (t : Tab α) (k j : Nat) (v : α) :
    tabGet d (tabPut d t k v) j = if j = k then v else tabGet d t j := by
  split
  · rename_i h; subst h; simp
  · rename_i h; exact tabGet_tabPut_other d h t v

/-! ### The canonical form -/

theorem tabWfFrom_mono {lo lo' : Nat} (h : lo' ≤ lo) {t : Tab α} (w : tabWfFrom d lo t = true) :
    tabWfFrom d lo' t = true := by
  cases t with
  | nil => rfl
  | cons p t =>
    rcases p with ⟨a, b⟩
    simp only [tabWfFrom, Bool.and_eq_true, decide_eq_true_eq] at *
    exact ⟨⟨by omega, w.1.2⟩, w.2⟩

theorem tabWfFrom_tabDrop (k lo : Nat) {t : Tab α} (w : tabWfFrom d lo t = true) : tabWfFrom d lo (tabDrop k t) = true := by
  induction t generalizing lo with
  | nil => rfl
  | cons p t ih =>
    rcases p with ⟨a, b⟩
    simp only [tabWfFrom, Bool.and_eq_true, decide_eq_true_eq] at w
    simp only [tabDrop]; split
    · exact ih _ (tabWfFrom_mono d (by omega) w.2)
    · simp [tabWfFrom, w.1.1, w.1.2, ih _ w.2]

theorem tabWfFrom_tabInsert (k lo : Nat) (v : α) (hv : v ≠ d) (hk : lo ≤ k) {t : Tab α} (w : tabWfFrom d lo t = true)
    (hd : tabGet d t k = d) : tabWfFrom d lo (tabInsert k v t) = true := by
  induction t generalizing lo with
  | nil => simp [tabInsert, tabWfFrom, hv, hk]
  | cons p t ih =>
    rcases p with ⟨a, b⟩
    simp only [tabWfFrom, Bool.and_eq_true, decide_eq_true_eq] at w
    have ha : a ≠ k := by intro e; simp [tabGet, e] at hd; exact w.1.2 hd
    simp only [tabGet, ha, if_false] at hd
    simp only [tabInsert]; split
    · simp [tabWfFrom, hv, hk, w.1.2, w.2]; omega
    · simp only [tabWfFrom, Bool.and_eq_true, decide_eq_true_eq]
      exact ⟨w.1, ih _ (by omega) w.2 hd⟩

/-- A write keeps the canonical form. -/
@[simp] theorem tabPut_wf (t : Tab α) (k : Nat) (v : α) (w : tabWf d t = true) : tabWf d (tabPut d t k v) = true := by
  unfold tabPut tabWf at *; split
  · exact tabWfFrom_tabDrop d k 0 w
  · rename_i h
    exact tabWfFrom_tabInsert d k 0 v h (by omega) (tabWfFrom_tabDrop d k 0 w) (tabGet_tabDrop_same d k t)

theorem tabWfFrom_filter (p : Nat × α → Bool) (lo : Nat) {t : Tab α} (w : tabWfFrom d lo t = true) :
    tabWfFrom d lo (t.filter p) = true := by
  induction t generalizing lo with
  | nil => rfl
  | cons x t ih =>
    rcases x with ⟨a, b⟩
    simp only [tabWfFrom, Bool.and_eq_true, decide_eq_true_eq] at w
    rw [List.filter_cons]; split
    · simp [tabWfFrom, w.1.1, w.1.2, ih _ w.2]
    · exact ih _ (tabWfFrom_mono d (by omega) w.2)

theorem tabGet_below {lo k : Nat} (h : k < lo) {t : Tab α} (w : tabWfFrom d lo t = true) : tabGet d t k = d := by
  induction t generalizing lo with
  | nil => rfl
  | cons x t ih =>
    rcases x with ⟨a, b⟩
    simp only [tabWfFrom, Bool.and_eq_true, decide_eq_true_eq] at w
    have : a ≠ k := by omega
    simp only [tabGet, this, if_false]; exact ih (by omega) w.2

/-- Tables in canonical form that read alike are equal. -/
theorem tab_ext {lo lo' : Nat} {t u : Tab α} (wt : tabWfFrom d lo t = true) (wu : tabWfFrom d lo' u = true)
    (h : ∀ k, tabGet d t k = tabGet d u k) : t = u := by
  induction t generalizing u lo lo' with
  | nil =>
    cases u with
    | nil => rfl
    | cons x u =>
      rcases x with ⟨a, b⟩
      simp only [tabWfFrom, Bool.and_eq_true, decide_eq_true_eq] at wu
      have := h a; simp [tabGet] at this; exact absurd this.symm wu.1.2
  | cons x t ih =>
    rcases x with ⟨a, b⟩
    simp only [tabWfFrom, Bool.and_eq_true, decide_eq_true_eq] at wt
    cases u with
    | nil => have := h a; simp [tabGet] at this; exact absurd this wt.1.2
    | cons y u =>
      rcases y with ⟨a', b'⟩
      simp only [tabWfFrom, Bool.and_eq_true, decide_eq_true_eq] at wu
      have e : a = a' := by
        rcases Nat.lt_trichotomy a a' with l | e | l
        · have := h a
          have ne : ¬ a' = a := by omega
          simp only [tabGet, if_true, ne, if_false] at this
          rw [tabGet_below d (by omega) wu.2] at this; exact absurd this wt.1.2
        · exact e
        · have := h a'
          have ne : ¬ a = a' := by omega
          simp only [tabGet, if_true, ne, if_false] at this
          rw [tabGet_below d (by omega) wt.2] at this; exact absurd this.symm wu.1.2
      subst e
      have eb : b = b' := by have := h a; simpa [tabGet] using this
      subst eb
      congr 1
      refine ih wt.2 wu.2 fun k => ?_
      by_cases hk : a = k
      · subst hk; rw [tabGet_below d (by omega) wt.2, tabGet_below d (by omega) wu.2]
      · have := h k; simpa [tabGet, hk] using this

/-! ### Byte memories -/

variable (b : Byte)

@[simp] theorem memStore_wf (m : Memory) (a : Nat) (bs : List Byte) (w : m.wf b = true) : (memStore b m a bs).wf b = true := by
  induction bs generalizing m a with
  | nil => exact w
  | cons x bs ih => exact ih _ _ (tabPut_wf b m a x w)

@[simp] theorem memErase_wf (m : Memory) (a n : Nat) (w : m.wf b = true) : (memErase m a n).wf b = true :=
  tabWfFrom_filter b _ 0 w

/-- Outside the stored bytes every address reads as before. -/
theorem tabGet_memStore_outside (m : Memory) (a k : Nat) (bs : List Byte) (h : k < a ∨ a + bs.length ≤ k) :
    tabGet b (memStore b m a bs) k = tabGet b m k := by
  induction bs generalizing m a with
  | nil => rfl
  | cons x bs ih =>
    simp only [memStore, List.length_cons] at *
    rw [ih _ _ (by omega), tabGet_tabPut_other b (by omega)]

/-- Inside them each address reads its byte. -/
theorem tabGet_memStore_inside (m : Memory) (a k : Nat) (bs : List Byte) (h : k < bs.length) :
    tabGet b (memStore b m a bs) (a + k) = bs[k] := by
  induction bs generalizing m a k with
  | nil => simp at h
  | cons x bs ih =>
    simp only [memStore]
    cases k with
    | zero => rw [tabGet_memStore_outside b _ _ _ _ (by omega)]; simp
    | succ k =>
      have : a + (k + 1) = a + 1 + k := by omega
      rw [this, ih _ _ _ (by simpa using h)]; simp

theorem tabGet_filter_keep (p : Nat × Byte → Bool) (m : Memory) (k : Nat) (h : ∀ v, p (k, v) = true) :
    tabGet b (m.filter p) k = tabGet b m k := by
  induction m with
  | nil => rfl
  | cons x m ih =>
    rcases x with ⟨a, v⟩
    rw [List.filter_cons]; split
    · simp [tabGet, ih]
    · rename_i hp
      have : a ≠ k := by intro e; subst e; exact hp (h v)
      simp [tabGet, this, ih]

theorem tabGet_memErase_outside (m : Memory) (a n k : Nat) (h : k < a ∨ a + n ≤ k) :
    tabGet b (memErase m a n) k = tabGet b m k :=
  tabGet_filter_keep b _ m k fun _ => by simpa using h

/-- An erased byte reads as the blank value. -/
theorem tabGet_memErase_inside (m : Memory) (a n k : Nat) (h : a ≤ k ∧ k < a + n) : tabGet b (memErase m a n) k = b := by
  unfold memErase
  induction m with
  | nil => rfl
  | cons x m ih =>
    rcases x with ⟨j, v⟩
    rw [List.filter_cons]; split
    · rename_i hp
      have : j ≠ k := by intro e; subst e; simp at hp; omega
      simp only [tabGet, this, if_false]; exact ih
    · exact ih

theorem memBytes_congr (m m' : Memory) (a n : Nat) (h : ∀ k, a ≤ k → k < a + n → tabGet b m k = tabGet b m' k) :
    memBytes b m a n = memBytes b m' a n := by
  induction n generalizing a with
  | zero => rfl
  | succ n ih => simp only [memBytes]; rw [h a (by omega) (by omega), ih (a + 1) fun k h1 h2 => h k (by omega) (by omega)]

@[simp] theorem memBytes_length (m : Memory) (a n : Nat) : (memBytes b m a n).length = n := by
  induction n generalizing a with
  | zero => rfl
  | succ n ih => simp [memBytes, ih]

/-- A range read away from the stored bytes. -/
theorem memBytes_memStore_apart (m : Memory) (a c n : Nat) (bs : List Byte) (h : c + n ≤ a ∨ a + bs.length ≤ c) :
    memBytes b (memStore b m a bs) c n = memBytes b m c n :=
  memBytes_congr b _ _ _ _ fun k h1 h2 => tabGet_memStore_outside b m a k bs (by omega)

/-- The bytes just stored read back. -/
theorem memBytes_memStore_same (m : Memory) (a : Nat) (bs : List Byte) :
    memBytes b (memStore b m a bs) a bs.length = bs := by
  induction bs generalizing m a with
  | nil => rfl
  | cons x bs ih =>
    simp only [List.length_cons, memBytes, memStore]
    rw [tabGet_memStore_outside b _ _ _ _ (by omega), ih]; simp

theorem memBytes_memErase_apart (m : Memory) (a c n k : Nat) (h : c + n ≤ a ∨ a + k ≤ c) :
    memBytes b (memErase m a k) c n = memBytes b m c n :=
  memBytes_congr b _ _ _ _ fun j h1 h2 => tabGet_memErase_outside b m a k j (by omega)

end Sys2Proof.Machine
end

