-- ==== Sys2Proof/Laws/State.lean ====
section
/-! SUPPORT. What each update of the state sets and leaves: indexed parts, registers of a thread, its PC and flags. -/

namespace Sys2Proof.Machine

/-! ### Indexed parts -/

@[simp] theorem vget_vset_same {α : Type} {n : Nat} (v : Vector α n) (i : Fin n) (x : α) : vget (vset v i x) i = x := by
  simp [vget, vset]

theorem vget_vset_other {α : Type} {n : Nat} {i j : Fin n} (h : j ≠ i) (v : Vector α n) (x : α) :
    vget (vset v i x) j = vget v j := by
  have : i.val ≠ j.val := fun e => h (Fin.ext e.symm)
  simp [vget, vset, this]

theorem vget_vset {α : Type} {n : Nat} (v : Vector α n) (i j : Fin n) (x : α) :
    vget (vset v i x) j = if j = i then x else vget v j := by
  split
  · rename_i h; subst h; simp
  · rename_i h; exact vget_vset_other h v x

@[simp] theorem chan_setChan_same (s : State) (n : Chan) (c : Channel) : chan (setChan s n c) n = c := by
  simp [chan, setChan]

theorem chan_setChan_other (s : State) {n u : Chan} (h : u ≠ n) (c : Channel) : chan (setChan s n c) u = chan s u := by
  simp [chan, setChan, vget_vset_other h]

theorem chan_setChan (s : State) (n u : Chan) (c : Channel) :
    chan (setChan s n c) u = if u = n then c else chan s u := by
  split
  · rename_i h; subst h; simp
  · rename_i h; exact chan_setChan_other s h c

@[simp] theorem thr_setThr_same (s : State) (t : Thread) (x : Thr) : thr (setThr s t x) t = x := by
  simp [thr, setThr]

theorem thr_setThr_other (s : State) {t u : Thread} (h : u ≠ t) (x : Thr) : thr (setThr s t x) u = thr s u := by
  simp [thr, setThr, vget_vset_other h]

theorem thr_setThr (s : State) (t u : Thread) (x : Thr) :
    thr (setThr s t x) u = if u = t then x else thr s u := by
  split
  · rename_i h; subst h; simp
  · rename_i h; exact thr_setThr_other s h x

@[simp] theorem core_setCore_same (s : State) (c : Fin 4) (x : Core) : core (setCore s c x) c = x := by
  simp [core, setCore]

theorem core_setCore_other (s : State) {c u : Fin 4} (h : u ≠ c) (x : Core) : core (setCore s c x) u = core s u := by
  simp [core, setCore, vget_vset_other h]

theorem core_setCore (s : State) (c u : Fin 4) (x : Core) :
    core (setCore s c x) u = if u = c then x else core s u := by
  split
  · rename_i h; subst h; simp
  · rename_i h; exact core_setCore_other s h x

@[simp] theorem bay_setBay_same (s : State) (b : Bay) (x : BayState) : bay (setBay s b x) b = x := by
  simp [bay, setBay]

theorem bay_setBay_other (s : State) {b u : Bay} (h : u ≠ b) (x : BayState) : bay (setBay s b x) u = bay s u := by
  simp [bay, setBay, vget_vset_other h]

theorem bay_setBay (s : State) (b u : Bay) (x : BayState) :
    bay (setBay s b x) u = if u = b then x else bay s u := by
  split
  · rename_i h; subst h; simp
  · rename_i h; exact bay_setBay_other s h x

@[simp] theorem furrow_setFurrow_same (s : State) (f : Furrow) (x : FurrowReg) : furrow (setFurrow s f x) f = x := by
  simp [furrow, setFurrow]

theorem furrow_setFurrow_other (s : State) {f u : Furrow} (h : u ≠ f) (x : FurrowReg) : furrow (setFurrow s f x) u = furrow s u := by
  simp [furrow, setFurrow, vget_vset_other h]

theorem furrow_setFurrow (s : State) (f u : Furrow) (x : FurrowReg) :
    furrow (setFurrow s f x) u = if u = f then x else furrow s u := by
  split
  · rename_i h; subst h; simp
  · rename_i h; exact furrow_setFurrow_other s h x

@[simp] theorem rail_setRail_same (s : State) (j : Fin 8) (x : Rail) : rail (setRail s j x) j = x := by
  simp [rail, setRail]

theorem rail_setRail_other (s : State) {j u : Fin 8} (h : u ≠ j) (x : Rail) : rail (setRail s j x) u = rail s u := by
  simp [rail, setRail, vget_vset_other h]

theorem rail_setRail (s : State) (j u : Fin 8) (x : Rail) :
    rail (setRail s j x) u = if u = j then x else rail s u := by
  split
  · rename_i h; subst h; simp
  · rename_i h; exact rail_setRail_other s h x

@[simp] theorem bayOut_setBayOut_same (s : State) (b : Bay) (x : BayOut) : bayOut (setBayOut s b x) b = x := by
  simp [bayOut, setBayOut]

theorem bayOut_setBayOut_other (s : State) {b u : Bay} (h : u ≠ b) (x : BayOut) : bayOut (setBayOut s b x) u = bayOut s u := by
  simp [bayOut, setBayOut, vget_vset_other h]

theorem bayOut_setBayOut (s : State) (b u : Bay) (x : BayOut) :
    bayOut (setBayOut s b x) u = if u = b then x else bayOut s u := by
  split
  · rename_i h; subst h; simp
  · rename_i h; exact bayOut_setBayOut_other s h x

@[simp] theorem alarm_setAlarm_same (s : State) (a : Fin 4) (x : Alarm) : alarm (setAlarm s a x) a = x := by
  simp [alarm, setAlarm]

theorem alarm_setAlarm_other (s : State) {a u : Fin 4} (h : u ≠ a) (x : Alarm) : alarm (setAlarm s a x) u = alarm s u := by
  simp [alarm, setAlarm, vget_vset_other h]

theorem alarm_setAlarm (s : State) (a u : Fin 4) (x : Alarm) :
    alarm (setAlarm s a x) u = if u = a then x else alarm s u := by
  split
  · rename_i h; subst h; simp
  · rename_i h; exact alarm_setAlarm_other s h x

@[simp] theorem flow_setFlow_same (s : State) (f : Nat) (x : Flow) : flow (setFlow s f x) f = x := by
  simp [flow, setFlow]

theorem flow_setFlow_other (s : State) {f u : Nat} (h : u ≠ f) (x : Flow) : flow (setFlow s f x) u = flow s u := by
  simp [flow, setFlow, tabGet_tabPut_other _ h]

theorem flow_setFlow (s : State) (f u : Nat) (x : Flow) :
    flow (setFlow s f x) u = if u = f then x else flow s u := by
  split
  · rename_i h; subst h; simp
  · rename_i h; exact flow_setFlow_other s h x

@[simp] theorem entry_setEntry_same (s : State) (e : Nat) (x : MatchEntry) : entry (setEntry s e x) e = x := by
  simp [entry, setEntry]

theorem entry_setEntry_other (s : State) {e u : Nat} (h : u ≠ e) (x : MatchEntry) : entry (setEntry s e x) u = entry s u := by
  simp [entry, setEntry, tabGet_tabPut_other _ h]

theorem entry_setEntry (s : State) (e u : Nat) (x : MatchEntry) :
    entry (setEntry s e x) u = if u = e then x else entry s u := by
  split
  · rename_i h; subst h; simp
  · rename_i h; exact entry_setEntry_other s h x

@[simp] theorem qstat_setQstat_same (s : State) (n : Nat) (x : QStat) : qstat (setQstat s n x) n = x := by
  simp [qstat, setQstat]

theorem qstat_setQstat_other (s : State) {n u : Nat} (h : u ≠ n) (x : QStat) : qstat (setQstat s n x) u = qstat s u := by
  simp [qstat, setQstat, tabGet_tabPut_other _ h]

theorem qstat_setQstat (s : State) (n u : Nat) (x : QStat) :
    qstat (setQstat s n x) u = if u = n then x else qstat s u := by
  split
  · rename_i h; subst h; simp
  · rename_i h; exact qstat_setQstat_other s h x

@[simp] theorem desc_setDesc_same (s : State) (d : Fin 1024) (x : Desc) : desc (setDesc s d x) d = x := by
  simp [desc, setDesc]

theorem desc_setDesc_other (s : State) {d e : Fin 1024} (h : e ≠ d) (x : Desc) : desc (setDesc s d x) e = desc s e := by
  have : e.val ≠ d.val := fun k => h (Fin.ext k)
  simp [desc, setDesc, tabGet_tabPut_other _ this]

theorem desc_setDesc (s : State) (d e : Fin 1024) (x : Desc) : desc (setDesc s d x) e = if e = d then x else desc s e := by
  split
  · rename_i h; subst h; simp
  · rename_i h; exact desc_setDesc_other s h x

@[simp] theorem thr_setCore (s : State) (c : Fin 4) (x : Core) (t : Thread) : thr (setCore s c x) t = thr s t := rfl
@[simp] theorem core_setThr (s : State) (c : Fin 4) (x : Thr) (t : Thread) : core (setThr s t x) c = core s c := rfl
@[simp] theorem flow_setDesc (s : State) (d : Fin 1024) (x : Desc) (f : Nat) : flow (setDesc s d x) f = flow s f := rfl
@[simp] theorem flow_setEntry (s : State) (e : Nat) (x : MatchEntry) (f : Nat) : flow (setEntry s e x) f = flow s f := rfl
@[simp] theorem desc_setFlow (s : State) (f : Nat) (x : Flow) (d : Fin 1024) : desc (setFlow s f x) d = desc s d := rfl
@[simp] theorem desc_setEntry (s : State) (e : Nat) (x : MatchEntry) (d : Fin 1024) : desc (setEntry s e x) d = desc s d := rfl
@[simp] theorem entry_setFlow (s : State) (f : Nat) (x : Flow) (e : Nat) : entry (setFlow s f x) e = entry s e := rfl
@[simp] theorem entry_setDesc (s : State) (d : Fin 1024) (x : Desc) (e : Nat) : entry (setDesc s d x) e = entry s e := rfl
@[simp] theorem rail_setBayOut (s : State) (b : Bay) (x : BayOut) (j : Fin 8) : rail (setBayOut s b x) j = rail s j := rfl
@[simp] theorem bayOut_setRail (s : State) (j : Fin 8) (x : Rail) (b : Bay) : bayOut (setRail s j x) b = bayOut s b := rfl
@[simp] theorem furrow_setQstat (s : State) (n : Nat) (x : QStat) (f : Furrow) : furrow (setQstat s n x) f = furrow s f := rfl
@[simp] theorem qstat_setFurrow (s : State) (f : Furrow) (x : FurrowReg) (n : Nat) : qstat (setFurrow s f x) n = qstat s n := rfl

/-! ### The registers, the PC and the flags of a thread -/

/-- An address with bits 1:0 dropped. -/
theorem wordAddr_toNat (x : Word) : (x &&& ~~~3#32).toNat = x.toNat / 4 * 4 := by
  have h : x &&& ~~~3#32 = (x >>> 2) <<< 2 := by
    ext i hi
    have : (~~~3#32 : BitVec 32)[i] = decide (2 ≤ i) := by
      revert i; decide
    simp only [BitVec.getElem_and, this, BitVec.getElem_shiftLeft, BitVec.getElem_ushiftRight]
    by_cases h2 : i < 2
    · simp [h2]
    · have : 2 + (i - 2) = i := by omega
      have h3 : 2 ≤ i := by omega
      simp [h2, this, h3, BitVec.getLsbD_eq_getElem hi]
  rw [h, BitVec.toNat_shiftLeft, BitVec.toNat_ushiftRight, Nat.shiftLeft_eq, Nat.shiftRight_eq_div_pow]
  omega

/-- The next instruction's address keeps bits 1:0 at 0. -/
theorem wordAddr_add4 (x : Word) : ((x &&& ~~~3#32) + 4#32) &&& ~~~3#32 = (x &&& ~~~3#32) + 4#32 := by
  apply BitVec.eq_of_toNat_eq
  rw [wordAddr_toNat, BitVec.toNat_add, wordAddr_toNat]
  simp; omega


@[simp] theorem gpr_zero (s : State) (t : Thread) : gpr s t 0#5 = 0#32 := by simp [gpr]

/-- g0 discards writes (R299 › Edges). -/
@[simp] theorem setGpr_zero (t : Thread) (w : Word) (s : State) : setGpr t 0#5 w s = s := by simp [setGpr]

@[simp] theorem homeEncl_setThr (s : State) (t u : Thread) (x : Thr) : homeEncl (setThr s t x) u = homeEncl s u := rfl
@[simp] theorem homeEncl_setCore (s : State) (c : Fin 4) (x : Core) (u : Thread) : homeEncl (setCore s c x) u = homeEncl s u := rfl
@[simp] theorem onEnclBank_setCore (s : State) (c : Fin 4) (x : Core) (u : Thread) :
    onEnclBank (setCore s c x) u = onEnclBank s u := rfl

/-- The bank in use follows the home world and STILE alone. -/
theorem onEnclBank_setThr (s : State) (t u : Thread) (x : Thr) (h : x.stile.isSome = (thr s t).stile.isSome) :
    onEnclBank (setThr s t x) u = onEnclBank s u := by
  by_cases e : u = t
  · subst e; simp [onEnclBank, h]
  · simp [onEnclBank, thr_setThr_other s e]

@[simp] theorem stile_setGpr (s : State) (t u : Thread) (r : Gpr) (w : Word) :
    (thr (setGpr t r w s) u).stile = (thr s u).stile := by
  by_cases e : u = t <;> simp only [setGpr] <;> split <;> (try split) <;> simp_all [thr_setThr]

@[simp] theorem onEnclBank_setGpr (s : State) (t u : Thread) (r : Gpr) (w : Word) :
    onEnclBank (setGpr t r w s) u = onEnclBank s u := by
  have h : homeEncl (setGpr t r w s) u = homeEncl s u := by
    unfold setGpr; split
    · rfl
    · dsimp only; split <;> rfl
  simp [onEnclBank, h]

@[simp] theorem onEnclBank_setPc (s : State) (t u : Thread) (pc : Word) : onEnclBank (setPc t pc s) u = onEnclBank s u :=
  onEnclBank_setThr s t u _ rfl
@[simp] theorem onEnclBank_setFlags (s : State) (t u : Thread) (f : BitVec 4) :
    onEnclBank (setFlags t f s) u = onEnclBank s u := onEnclBank_setThr s t u _ rfl

/-- A register after a thread's fields outside its banks change. -/
theorem gpr_setThr (s : State) (t u : Thread) (r : Gpr) (x : Thr) (he : x.encl = (thr s t).encl)
    (hc : x.commons = (thr s t).commons) (hs : x.stile.isSome = (thr s t).stile.isSome) :
    gpr (setThr s t x) u r = gpr s u r := by
  by_cases e : u = t
  · subst e; simp [gpr, onEnclBank_setThr s u u x hs, he, hc]
  · simp [gpr, onEnclBank_setThr s t u x hs, thr_setThr_other s e]

@[simp] theorem gpr_setPc (s : State) (t u : Thread) (r : Gpr) (pc : Word) : gpr (setPc t pc s) u r = gpr s u r :=
  gpr_setThr s t u r _ rfl rfl rfl
@[simp] theorem gpr_advance (s : State) (t u : Thread) (r : Gpr) : gpr (advance t s) u r = gpr s u r := gpr_setPc ..
@[simp] theorem gpr_setFlags (s : State) (t u : Thread) (r : Gpr) (f : BitVec 4) :
    gpr (setFlags t f s) u r = gpr s u r := gpr_setThr s t u r _ rfl rfl rfl
@[simp] theorem gpr_pushRet (s : State) (t u : Thread) (r : Gpr) (a : Word) : gpr (pushRet t a s) u r = gpr s u r :=
  gpr_setThr s t u r _ rfl rfl rfl
@[simp] theorem gpr_popRet (s : State) (t u : Thread) (r : Gpr) : gpr (popRet t s) u r = gpr s u r :=
  gpr_setThr s t u r _ rfl rfl rfl
@[simp] theorem gpr_setCore (s : State) (c : Fin 4) (x : Core) (u : Thread) (r : Gpr) :
    gpr (setCore s c x) u r = gpr s u r := rfl
/-- The fill of a line reads no register and moves no thread. -/
@[simp] theorem thr_fillLoad (s : State) (t u : Thread) : thr (fillLoad t s) u = thr s u := by simp [thr]
@[simp] theorem core_fillLoad (s : State) (t : Thread) (c : Fin 4) : core (fillLoad t s) c = core s c := by simp [core]
@[simp] theorem homeEncl_fillLoad (s : State) (t u : Thread) : homeEncl (fillLoad t s) u = homeEncl s u := by
  simp [homeEncl]
@[simp] theorem gpr_fillLoad (s : State) (t u : Thread) (r : Gpr) : gpr (fillLoad t s) u r = gpr s u r := by
  simp [gpr, onEnclBank]
@[simp] theorem gpr_settleDone (s : State) (t u : Thread) (r : Gpr) : gpr (settleDone t s) u r = gpr s u r := by
  unfold settleDone; dsimp only; rw [gpr_setThr] <;> simp
@[simp] theorem gpr_settleStart (s : State) (t u : Thread) (r : Gpr) : gpr (settleStart t s) u r = gpr s u r :=
  gpr_setThr s t u r _ rfl rfl rfl
@[simp] theorem gpr_issue (s : State) (t u : Thread) (r : Gpr) : gpr (issue t s) u r = gpr s u r :=
  (gpr_setCore _ _ _ _ _).trans ((gpr_settleStart _ t u r).trans (gpr_settleDone s t u r))

/-- The register just written, unless it is g0. -/
theorem gpr_setGpr_same (s : State) (t : Thread) (r : Gpr) (w : Word) : gpr (setGpr t r w s) t r = if r = 0#5 then 0#32 else w := by
  by_cases h : r = 0#5
  · simp [h]
  · have hb := onEnclBank_setGpr s t t r w
    unfold gpr; rw [hb]; unfold setGpr
    by_cases b : onEnclBank s t <;> simp [h, b]

/-- Every other register, of the thread and of every other thread, is as before. -/
theorem gpr_setGpr_other (s : State) (t u : Thread) (r q : Gpr) (w : Word) (h : u ≠ t ∨ q ≠ r) :
    gpr (setGpr t r w s) u q = gpr s u q := by
  have hb := onEnclBank_setGpr s t u r w
  unfold gpr; rw [hb]; unfold setGpr
  by_cases hr : r = 0#5
  · simp [hr]
  · by_cases hu : u = t
    · subst hu
      have hq : q ≠ r := by rcases h with h | h; exact absurd rfl h; exact h
      have hq' : q.toFin ≠ r.toFin := fun e => hq (BitVec.eq_of_toFin_eq e)
      by_cases b : onEnclBank s u <;> simp [hr, b, vget_vset_other hq']
    · by_cases b : onEnclBank s t <;> simp [hr, b, thr_setThr_other s hu]

@[simp] theorem pcOf_setPc (s : State) (t : Thread) (pc : Word) : pcOf (setPc t pc s) t = pc &&& ~~~3#32 := by
  simp [pcOf, setPc, BitVec.and_assoc]

/-- The PC reads with bits 1:0 at 0 (R297). -/
@[simp] theorem pcOf_wordAddr (s : State) (t : Thread) : pcOf s t &&& ~~~3#32 = pcOf s t := by
  simp [pcOf, BitVec.and_assoc]

@[simp] theorem pcOf_advance (s : State) (t : Thread) : pcOf (advance t s) t = pcOf s t + 4#32 := by
  rw [advance, pcOf_setPc]; exact wordAddr_add4 _
@[simp] theorem pcOf_setFlags (s : State) (t u : Thread) (f : BitVec 4) : pcOf (setFlags t f s) u = pcOf s u := by
  by_cases e : u = t
  · subst e; simp [pcOf, setFlags]
  · simp [pcOf, setFlags, thr_setThr_other s e]
@[simp] theorem pcOf_setGpr (s : State) (t u : Thread) (r : Gpr) (w : Word) : pcOf (setGpr t r w s) u = pcOf s u := by
  unfold setGpr; split
  · rfl
  · dsimp only
    by_cases e : u = t <;> split <;> simp_all [pcOf, thr_setThr_other]
@[simp] theorem pcOf_setCore (s : State) (c : Fin 4) (x : Core) (u : Thread) : pcOf (setCore s c x) u = pcOf s u := rfl
@[simp] theorem pcOf_issue (s : State) (t u : Thread) : pcOf (issue t s) u = pcOf s u := by
  by_cases e : u = t
  · subst e; simp [pcOf, issue, settleStart, settleDone]
  · simp [pcOf, issue, settleStart, settleDone, thr_setThr_other _ e]

@[simp] theorem flags_setFlags (s : State) (t : Thread) (f : BitVec 4) : (thr (setFlags t f s) t).flags = f := by
  simp [setFlags]
@[simp] theorem flags_setPc (s : State) (t u : Thread) (pc : Word) : (thr (setPc t pc s) u).flags = (thr s u).flags := by
  by_cases e : u = t
  · subst e; simp [setPc]
  · simp [setPc, thr_setThr_other s e]
@[simp] theorem flags_setGpr (s : State) (t u : Thread) (r : Gpr) (w : Word) :
    (thr (setGpr t r w s) u).flags = (thr s u).flags := by
  unfold setGpr; split
  · rfl
  · dsimp only
    by_cases e : u = t <;> split <;> simp_all [thr_setThr_other]
@[simp] theorem flags_issue (s : State) (t u : Thread) : (thr (issue t s) u).flags = (thr s u).flags := by
  by_cases e : u = t
  · subst e; simp [issue, settleStart, settleDone]
  · simp [issue, settleStart, settleDone, thr_setThr_other _ e]

/-- A thread's issue leaves every other thread as it was. -/
theorem thr_issue_other (s : State) {t u : Thread} (h : u ≠ t) : thr (issue t s) u = thr s u := by
  simp [issue, settleStart, settleDone, thr_setThr_other _ h]
theorem thr_setPc_other (s : State) {t u : Thread} (h : u ≠ t) (pc : Word) : thr (setPc t pc s) u = thr s u :=
  thr_setThr_other s h _
theorem thr_advance_other (s : State) {t u : Thread} (h : u ≠ t) : thr (advance t s) u = thr s u :=
  thr_setThr_other s h _
theorem thr_setFlags_other (s : State) {t u : Thread} (h : u ≠ t) (f : BitVec 4) : thr (setFlags t f s) u = thr s u :=
  thr_setThr_other s h _
theorem thr_setGpr_other (s : State) {t u : Thread} (h : u ≠ t) (r : Gpr) (w : Word) : thr (setGpr t r w s) u = thr s u := by
  unfold setGpr; split
  · rfl
  · dsimp only; split <;> exact thr_setThr_other s h _

/-- What an instruction that issues does: its act on the state after the issue. -/
theorem onThread_runs {t : Thread} {act : State → State} {s : State} (h : canRun s t = true) :
    onThread t act s = .next (act (issue t s)) := by simp [onThread, h]

/-- A thread that cannot execute an instruction now executes none. -/
theorem onThread_waits {t : Thread} {act : State → State} {s : State} (h : canRun s t = false) :
    onThread t act s = .next s := by simp [onThread, h]

end Sys2Proof.Machine
end

