-- ==== Sys2Proof/Laws/Cache.lean ====
section
/-! SUPPORT. The cores' caches: what an update of one core leaves of the others, what a fill and a resolved branch change,
and that a store leaves no stale line (R281, R292, R293). -/

namespace Sys2Proof.Machine

@[simp] theorem cache_setCache_same (s : State) (c : Fin 4) (x : Caches) : cache (setCache s c x) c = x := by
  simp [cache, setCache]
theorem cache_setCache_other (s : State) {c u : Fin 4} (h : u ≠ c) (x : Caches) : cache (setCache s c x) u = cache s u := by
  simp [cache, setCache, vget_vset_other h]
theorem cache_setCache (s : State) (c u : Fin 4) (x : Caches) : cache (setCache s c x) u = if u = c then x else cache s u := by
  split
  · rename_i h; subst h; simp
  · rename_i h; exact cache_setCache_other s h x
@[simp] theorem cache_setThr (s : State) (t : Thread) (x : Thr) (c : Fin 4) : cache (setThr s t x) c = cache s c := rfl
@[simp] theorem cache_setCore (s : State) (k : Fin 4) (x : Core) (c : Fin 4) : cache (setCore s k x) c = cache s c := rfl
@[simp] theorem thr_setCache (s : State) (c : Fin 4) (x : Caches) (t : Thread) : thr (setCache s c x) t = thr s t := rfl
@[simp] theorem core_setCache (s : State) (c : Fin 4) (x : Caches) (k : Fin 4) : core (setCache s c x) k = core s k := rfl
@[simp] theorem gpr_setCache (s : State) (c : Fin 4) (x : Caches) (t : Thread) (r : Gpr) : gpr (setCache s c x) t r = gpr s t r := rfl
@[simp] theorem cache_mapCaches (f : Fin 4 → Caches → Caches) (s : State) (c : Fin 4) :
    cache (mapCaches f s) c = f c (cache s c) := by simp [cache, mapCaches, vget]
/-- A free value drawn is no cached line. -/
@[simp] theorem cache_draws (s : State) (n : Nat) (c : Fin 4) : cache { s with draws := n } c = cache s c := rfl

/-- What is left when only these parts may differ. -/
theorem eq_of_same {s s' : State} (h : SameBut_draws_cores_cache s s') :
    s' = { s with cores := s'.cores, cache := s'.cache, draws := s'.draws } := by
  obtain ⟨h1, h2, h3, h4, h5, h6, h7, h8, h9, h10, h11, h12, h13, h14, h15, h16, h17, h18, h19, h20, h21⟩ := h
  rw [← h1, ← h2, ← h3, ← h4, ← h5, ← h6, ← h7, ← h8, ← h9, ← h10, ← h11, ← h12, ← h13, ← h14, ← h15, ← h16, ← h17, ← h18,
    ← h19, ← h20, ← h21]

/-- A line fill draws free values and changes one list; other cores, the line stores and the buffers stay. -/
theorem cache_fillData_other (s : State) {c u : Fin 4} (h : u ≠ c) (x : CacheLine) : cache (fillData c x s) u = cache s u := by
  unfold fillData fillInto; dsimp only; (repeat' split) <;> simp [cache_setCache_other _ h, draw]
theorem cache_fillData_own (s : State) (c : Fin 4) (x : CacheLine) :
    cache (fillData c x s) c = { cache s c with dlines := (cache (fillData c x s) c).dlines } := by
  unfold fillData fillInto; dsimp only; (repeat' split) <;> simp [draw]
theorem cache_fillLoad_other (s : State) {t : Thread} {u : Fin 4} (h : u ≠ coreOf t) : cache (fillLoad t s) u = cache s u := by
  unfold fillLoad; split
  · rfl
  · exact cache_fillData_other s h _
theorem cache_fillLoad_own (s : State) (t : Thread) :
    cache (fillLoad t s) (coreOf t) = { cache s (coreOf t) with dlines := (cache (fillLoad t s) (coreOf t)).dlines } := by
  unfold fillLoad; split
  · rfl
  · exact cache_fillData_own s _ _

/-- A resolved branch changes its own core's buffer and PERF_MISPRED alone. -/
theorem learnBranch_cache (t : Thread) (pc target : Word) (taken : Bool) (s : State) :
    (∀ c, c ≠ coreOf t → cache (learnBranch t pc target taken s) c = cache s c) ∧
    cache (learnBranch t pc target taken s) (coreOf t) =
      { cache s (coreOf t) with btb := (cache (learnBranch t pc target taken s) (coreOf t)).btb } := by
  unfold learnBranch; dsimp only
  constructor
  · intro c h; split
    · simp [cache_setCache_other _ h]
    · split
      · rfl
      · simp [cache_setCache_other _ h, draw]
  · split
    · simp
    · split
      · rfl
      · simp [draw]
theorem countMispred_core (t : Thread) (wrong : Bool) (s : State) :
    (∀ c, c ≠ coreOf t → core (countMispred t wrong s) c = core s c) ∧
    core (countMispred t wrong s) (coreOf t) =
      { core s (coreOf t) with perfMispred := (core (countMispred t wrong s) (coreOf t)).perfMispred } := by
  unfold countMispred; dsimp only
  constructor
  · intro c h; split
    · simp [core_setCore_other _ h]
    · rfl
  · split <;> simp
@[simp] theorem cache_countMispred (t : Thread) (wrong : Bool) (s : State) (c : Fin 4) :
    cache (countMispred t wrong s) c = cache s c := by simp [cache]
@[simp] theorem thr_countMispred (t : Thread) (wrong : Bool) (s : State) (u : Thread) :
    thr (countMispred t wrong s) u = thr s u := by unfold countMispred; dsimp only; split <;> rfl
@[simp] theorem thr_resolveBranch (t : Thread) (pc target : Word) (taken : Bool) (s : State) (u : Thread) :
    thr (resolveBranch t pc target taken s) u = thr s u := by
  unfold resolveBranch; simp [thr]; exact thr_countMispred ..
@[simp] theorem core_learnBranch (t : Thread) (pc target : Word) (taken : Bool) (s : State) (c : Fin 4) :
    core (learnBranch t pc target taken s) c = core s c := by simp [core]
theorem resolveBranch_cache (t : Thread) (pc target : Word) (taken : Bool) (s : State) :
    (∀ c, c ≠ coreOf t → cache (resolveBranch t pc target taken s) c = cache s c) ∧
    cache (resolveBranch t pc target taken s) (coreOf t) =
      { cache s (coreOf t) with btb := (cache (resolveBranch t pc target taken s) (coreOf t)).btb } := by
  unfold resolveBranch; simpa using learnBranch_cache t pc target taken (countMispred t _ s)
theorem resolveBranch_core (t : Thread) (pc target : Word) (taken : Bool) (s : State) :
    (∀ c, c ≠ coreOf t → core (resolveBranch t pc target taken s) c = core s c) ∧
    core (resolveBranch t pc target taken s) (coreOf t) =
      { core s (coreOf t) with perfMispred := (core (resolveBranch t pc target taken s) (coreOf t)).perfMispred } := by
  unfold resolveBranch; simpa using countMispred_core t _ s

/-- What prediction leaves of the cores' other fields. -/
theorem countMispred_cores (t : Thread) (wrong : Bool) (s : State) :
    (countMispred t wrong s).cores = { s.cores with core := (countMispred t wrong s).cores.core } := by
  unfold countMispred; dsimp only; split <;> rfl
theorem resolveBranch_cores (t : Thread) (pc target : Word) (taken : Bool) (s : State) :
    (resolveBranch t pc target taken s).cores = { s.cores with core := (resolveBranch t pc target taken s).cores.core } := by
  unfold resolveBranch; simpa using countMispred_cores t _ s

/-- A write leaves no other core a line of its bytes (R293). -/
theorem dropData_stale (keep : Fin 4 → CacheLine → Bool) (a n : Nat) (s : State) (c : Fin 4) (x : CacheLine)
    (h : x ∈ (cache (dropData keep a n s) c).dlines) (hk : keep c x = false) : onLine a n x = false := by
  simp [dropData, hk] at h; simp [h.2]

end Sys2Proof.Machine
end

