-- ==== Sys2Proof/Laws/Exec.lean ====
section
/-! SUPPORT. Each command's meaning, by name. -/

namespace Sys2Proof.Machine

@[simp] theorem exec_powerOn (vsupMv : Half) (svc5v : Bool) (s : State) :
    exec (.powerOn vsupMv svc5v) s = execPowerOn vsupMv svc5v s := rfl
@[simp] theorem exec_romSequence (sense : RomSense) (s : State) :
    exec (.romSequence sense) s = execRomSequence sense s := rfl
@[simp] theorem exec_bootHandover (r : Req) (key : Byte) (s : State) :
    exec (.bootHandover r key) s = execBootHandover r key s := rfl
@[simp] theorem exec_seedApply (sense : SeedSense) (s : State) :
    exec (.seedApply sense) s = execSeedApply sense s := rfl
@[simp] theorem exec_commonsBind (errA errB : Bool) (s : State) :
    exec (.commonsBind errA errB) s = execCommonsBind errA errB s := rfl
@[simp] theorem exec_coldResetRequest (r : Req) (s : State) :
    exec (.coldResetRequest r) s = execColdResetRequest r s := rfl
@[simp] theorem exec_warmResetRequest (r : Req) (s : State) :
    exec (.warmResetRequest r) s = execWarmResetRequest r s := rfl
@[simp] theorem exec_mainPowerLost (s : State) : exec .mainPowerLost s = execMainPowerLost s := rfl
@[simp] theorem exec_pllLockLoss (pll : Fin 3) (s : State) :
    exec (.pllLockLoss pll) s = execPllLockLoss pll s := rfl
@[simp] theorem exec_svc5vApplied (s : State) : exec .svc5vApplied s = execSvc5vApplied s := rfl
@[simp] theorem exec_vsupOnServiceSupply (mv : Half) (s : State) :
    exec (.vsupOnServiceSupply mv) s = execVsupOnServiceSupply mv s := rfl
@[simp] theorem exec_vsupOvervoltage (mv : Half) (s : State) :
    exec (.vsupOvervoltage mv) s = execVsupOvervoltage mv s := rfl
@[simp] theorem exec_vsupLowRange (mv : Half) (s : State) : exec (.vsupLowRange mv) s = execVsupLowRange mv s := rfl
@[simp] theorem exec_railOverload (j : Fin 8) (load : RailLoad) (s : State) :
    exec (.railOverload j load) s = execRailOverload j load s := rfl
@[simp] theorem exec_railHiccup (j : Fin 8) (s : State) : exec (.railHiccup j) s = execRailHiccup j s := rfl
@[simp] theorem exec_railRestart (j : Fin 8) (s : State) : exec (.railRestart j) s = execRailRestart j s := rfl
@[simp] theorem exec_bayPowerRequest (r : Req) (b : Bay) (on : Bool) (s : State) :
    exec (.bayPowerRequest r b on) s = execBayPowerRequest r b on s := rfl
@[simp] theorem exec_bayOutputFault (b : Bay) (s : State) :
    exec (.bayOutputFault b) s = execBayOutputFault b s := rfl
@[simp] theorem exec_bayReenable (b : Bay) (s : State) : exec (.bayReenable b) s = execBayReenable b s := rfl
@[simp] theorem exec_bayBudgetShed (baseMc : Int) (m0 m1 m2 m3 : Half) (tripped : BitVec 4) (s : State) :
    exec (.bayBudgetShed baseMc m0 m1 m2 m3 tripped) s = execBayBudgetShed baseMc m0 m1 m2 m3 tripped s := rfl
@[simp] theorem exec_thermalWarn (tj : Byte) (s : State) : exec (.thermalWarn tj) s = execThermalWarn tj s := rfl
@[simp] theorem exec_thermalShed (tj : Byte) (s : State) : exec (.thermalShed tj) s = execThermalShed tj s := rfl
@[simp] theorem exec_thermalShutdown (tj : Byte) (s : State) :
    exec (.thermalShutdown tj) s = execThermalShutdown tj s := rfl
@[simp] theorem exec_thermalRecovery (tj : Byte) (s : State) :
    exec (.thermalRecovery tj) s = execThermalRecovery tj s := rfl
@[simp] theorem exec_ignChange (level : Bool) (s : State) : exec (.ignChange level) s = execIgnChange level s := rfl
@[simp] theorem exec_safeInAssert (asserted : Bool) (s : State) :
    exec (.safeInAssert asserted) s = execSafeInAssert asserted s := rfl
@[simp] theorem exec_svcPresentChange (high : Bool) (s : State) :
    exec (.svcPresentChange high) s = execSvcPresentChange high s := rfl
@[simp] theorem exec_nvProtDeassert (asserted : Bool) (s : State) :
    exec (.nvProtDeassert asserted) s = execNvProtDeassert asserted s := rfl
@[simp] theorem exec_supplySwitchover (src : Fin 3) (battMv vcapMv vbkMv : Half) (s : State) :
    exec (.supplySwitchover src battMv vcapMv vbkMv) s = execSupplySwitchover src battMv vcapMv vbkMv s := rfl
@[simp] theorem exec_vbkLow (vbkMv : Half) (s : State) : exec (.vbkLow vbkMv) s = execVbkLow vbkMv s := rfl
@[simp] theorem exec_powerDecay (s : State) : exec .powerDecay s = execPowerDecay s := rfl
@[simp] theorem exec_decayRecovery (s : State) : exec .decayRecovery s = execDecayRecovery s := rfl
@[simp] theorem exec_backupPor (s : State) : exec .backupPor s = execBackupPor s := rfl
@[simp] theorem exec_bkpResetWrite (r : Req) (key : Byte) (s : State) :
    exec (.bkpResetWrite r key) s = execBkpResetWrite r key s := rfl
@[simp] theorem exec_calSecond (s : State) : exec .calSecond s = execCalSecond s := rfl
@[simp] theorem exec_calSecLoRead (r : Req) (s : State) : exec (.calSecLoRead r) s = execCalSecLoRead r s := rfl
@[simp] theorem exec_timeLoRead (r : Req) (s : State) : exec (.timeLoRead r) s = execTimeLoRead r s := rfl
@[simp] theorem exec_calApply (r : Req) (s : State) : exec (.calApply r) s = execCalApply r s := rfl
@[simp] theorem exec_calApplyEdge (s : State) : exec .calApplyEdge s = execCalApplyEdge s := rfl
@[simp] theorem exec_alarmWrite (r : Req) (a : Fin 4) (hi : Bool) (value : Word) (s : State) :
    exec (.alarmWrite r a hi value) s = execAlarmWrite r a hi value s := rfl
@[simp] theorem exec_alarmFire (a : Fin 4) (s : State) : exec (.alarmFire a) s = execAlarmFire a s := rfl
@[simp] theorem exec_wakeoutRelease (a : Fin 4) (s : State) :
    exec (.wakeoutRelease a) s = execWakeoutRelease a s := rfl
@[simp] theorem exec_wakePulseEnd (s : State) : exec .wakePulseEnd s = execWakePulseEnd s := rfl
@[simp] theorem exec_intrusionTrip (sensors : BitVec 6) (s : State) :
    exec (.intrusionTrip sensors) s = execIntrusionTrip sensors s := rfl
@[simp] theorem exec_fuseBlow (r : Req) (bitNo : BitVec 12) (s : State) :
    exec (.fuseBlow r bitNo) s = execFuseBlow r bitNo s := rfl
@[simp] theorem exec_fuseBlowDone (verified : Bool) (s : State) :
    exec (.fuseBlowDone verified) s = execFuseBlowDone verified s := rfl
@[simp] theorem exec_remeasureDone (uncorrectable : Bool) (timeUs : Half) (s : State) :
    exec (.remeasureDone uncorrectable timeUs) s = execRemeasureDone uncorrectable timeUs s := rfl
@[simp] theorem exec_sleepRequest (r : Req) (s : State) : exec (.sleepRequest r) s = execSleepRequest r s := rfl
@[simp] theorem exec_sleepDrainEnd (s : State) : exec .sleepDrainEnd s = execSleepDrainEnd s := rfl
@[simp] theorem exec_sleepDrainTimeout (s : State) : exec .sleepDrainTimeout s = execSleepDrainTimeout s := rfl
@[simp] theorem exec_wakePathComplete (latUs : BitVec 12) (s : State) :
    exec (.wakePathComplete latUs) s = execWakePathComplete latUs s := rfl
@[simp] theorem exec_serviceExitRequest (r : Req) (s : State) :
    exec (.serviceExitRequest r) s = execServiceExitRequest r s := rfl
@[simp] theorem exec_serviceWindowEnd (s : State) : exec .serviceWindowEnd s = execServiceWindowEnd s := rfl
@[simp] theorem exec_furrowFreqWrite (r : Req) (f : Furrow) (hz : BitVec 27) (s : State) :
    exec (.furrowFreqWrite r f hz) s = execFurrowFreqWrite r f hz s := rfl
@[simp] theorem exec_furrowRelockStart (f : Furrow) (s : State) :
    exec (.furrowRelockStart f) s = execFurrowRelockStart f s := rfl
@[simp] theorem exec_furrowLocked (f : Furrow) (s : State) : exec (.furrowLocked f) s = execFurrowLocked f s := rfl
@[simp] theorem exec_furrowWriteAbandon (f : Furrow) (s : State) :
    exec (.furrowWriteAbandon f) s = execFurrowWriteAbandon f s := rfl
@[simp] theorem exec_clockMeasureStart (r : Req) (dom : BitVec 6) (s : State) :
    exec (.clockMeasureStart r dom) s = execClockMeasureStart r dom s := rfl
@[simp] theorem exec_clockMeasureDone (count : BitVec 24) (s : State) :
    exec (.clockMeasureDone count) s = execClockMeasureDone count s := rfl
@[simp] theorem exec_d5Hop (s : State) : exec .d5Hop s = execD5Hop s := rfl
@[simp] theorem exec_channelEnable (r : Req) (n : Chan) (s : State) :
    exec (.channelEnable r n) s = execChannelEnable r n s := rfl
@[simp] theorem exec_channelReset (r : Req) (n : Chan) (s : State) :
    exec (.channelReset r n) s = execChannelReset r n s := rfl
@[simp] theorem exec_characterReceive (n : Chan) (samples : List Samples) (startAmp : Byte) (peak : PeakSeen) (s : State) :
    exec (.characterReceive n samples startAmp peak) s = execCharacterReceive n samples startAmp peak s := rfl
@[simp] theorem exec_frameComplete (n : Chan) (s : State) : exec (.frameComplete n) s = execFrameComplete n s := rfl
@[simp] theorem exec_frameConfirm (n : Chan) (s : State) : exec (.frameConfirm n) s = execFrameConfirm n s := rfl
@[simp] theorem exec_frameGapTimeout (n : Chan) (s : State) :
    exec (.frameGapTimeout n) s = execFrameGapTimeout n s := rfl
@[simp] theorem exec_overlap (n : Chan) (amp : Byte) (edge : Bool) (s : State) :
    exec (.overlap n amp edge) s = execOverlap n amp edge s := rfl
@[simp] theorem exec_ovlHoldEnd (n : Chan) (s : State) : exec (.ovlHoldEnd n) s = execOvlHoldEnd n s := rfl
@[simp] theorem exec_pinChange (n : Chan) (levels : BitVec 4) (s : State) :
    exec (.pinChange n levels) s = execPinChange n levels s := rfl
@[simp] theorem exec_post (n : Chan) (s : State) : exec (.post n) s = execPost n s := rfl
@[simp] theorem exec_postDeadline (n : Chan) (s : State) : exec (.postDeadline n) s = execPostDeadline n s := rfl
@[simp] theorem exec_replyStart (due : ReplyDue) (s : State) :
    exec (.replyStart due) s = execReplyStart due s := rfl
@[simp] theorem exec_replyDone (n : Chan) (s : State) : exec (.replyDone n) s = execReplyDone n s := rfl
@[simp] theorem exec_replyAbandon (n : Chan) (s : State) : exec (.replyAbandon n) s = execReplyAbandon n s := rfl
@[simp] theorem exec_replyOutcome (n : Chan) (s : State) : exec (.replyOutcome n) s = execReplyOutcome n s := rfl
@[simp] theorem exec_txPost (r : Req) (n : Chan) (cells : BitVec 6) (len : BitVec 12) (s : State) :
    exec (.txPost r n cells len) s = execTxPost r n cells len s := rfl
@[simp] theorem exec_txFrameStart (n : Chan) (s : State) : exec (.txFrameStart n) s = execTxFrameStart n s := rfl
@[simp] theorem exec_txFrameDone (n : Chan) (s : State) : exec (.txFrameDone n) s = execTxFrameDone n s := rfl
@[simp] theorem exec_txCollision (n : Chan) (s : State) : exec (.txCollision n) s = execTxCollision n s := rfl
@[simp] theorem exec_retryBackoffEnd (n : Chan) (s : State) :
    exec (.retryBackoffEnd n) s = execRetryBackoffEnd n s := rfl
@[simp] theorem exec_watchMatch (n : Chan) (address : Byte) (s : State) :
    exec (.watchMatch n address) s = execWatchMatch n address s := rfl
@[simp] theorem exec_watchHandback (n : Chan) (s : State) : exec (.watchHandback n) s = execWatchHandback n s := rfl
@[simp] theorem exec_csTransferStart (n : Chan) (s : State) :
    exec (.csTransferStart n) s = execCsTransferStart n s := rfl
@[simp] theorem exec_csTransferEnd (n : Chan) (words : List Word) (s : State) :
    exec (.csTransferEnd n words) s = execCsTransferEnd n words s := rfl
@[simp] theorem exec_strbWaitEnd (n : Chan) (bits : Nat) (words : List Word) (s : State) :
    exec (.strbWaitEnd n bits words) s = execStrbWaitEnd n bits words s := rfl
@[simp] theorem exec_modeFault (n : Chan) (s : State) : exec (.modeFault n) s = execModeFault n s := rfl
@[simp] theorem exec_modeFaultClear (r : Req) (n : Chan) (s : State) :
    exec (.modeFaultClear r n) s = execModeFaultClear r n s := rfl
@[simp] theorem exec_slaveSelect (n : Chan) (s : State) : exec (.slaveSelect n) s = execSlaveSelect n s := rfl
@[simp] theorem exec_slaveWord (n : Chan) (word : Word) (s : State) :
    exec (.slaveWord n word) s = execSlaveWord n word s := rfl
@[simp] theorem exec_slaveRelease (n : Chan) (partialBits : Nat) (s : State) :
    exec (.slaveRelease n partialBits) s = execSlaveRelease n partialBits s := rfl
@[simp] theorem exec_errSubwindow (n : Chan) (s : State) : exec (.errSubwindow n) s = execErrSubwindow n s := rfl
@[simp] theorem exec_pinMonitorSample (n : Chan) (pin : Fin 4) (reading : PinReading) (s : State) :
    exec (.pinMonitorSample n pin reading) s = execPinMonitorSample n pin reading s := rfl
@[simp] theorem exec_pinFaultPersist (n : Chan) (s : State) :
    exec (.pinFaultPersist n) s = execPinFaultPersist n s := rfl
@[simp] theorem exec_driverLinkLoss (j : Fin 8) (s : State) :
    exec (.driverLinkLoss j) s = execDriverLinkLoss j s := rfl
@[simp] theorem exec_retireFoldDone (s : State) : exec .retireFoldDone s = execRetireFoldDone s := rfl
@[simp] theorem exec_sysUnretireWrite (r : Req) (n : Chan) (s : State) :
    exec (.sysUnretireWrite r n) s = execSysUnretireWrite r n s := rfl
@[simp] theorem exec_channelEventAdmit (q : EventQueue) (s : State) :
    exec (.channelEventAdmit q) s = execChannelEventAdmit q s := rfl
@[simp] theorem exec_taskDispatch (s : State) : exec .taskDispatch s = execTaskDispatch s := rfl
@[simp] theorem exec_agePromotion (d : Fin 1024) (s : State) :
    exec (.agePromotion d) s = execAgePromotion d s := rfl
@[simp] theorem exec_matchTimeout (e : Fin 512) (s : State) : exec (.matchTimeout e) s = execMatchTimeout e s := rfl
@[simp] theorem exec_taskRelease (d : Fin 1024) (s : State) : exec (.taskRelease d) s = execTaskRelease d s := rfl
@[simp] theorem exec_drillTimerStart (r : Req) (i : Fin 64) (s : State) :
    exec (.drillTimerStart r i) s = execDrillTimerStart r i s := rfl
@[simp] theorem exec_drillTimerFire (i : Fin 64) (s : State) :
    exec (.drillTimerFire i) s = execDrillTimerFire i s := rfl
@[simp] theorem exec_deadlinePass (t : Thread) (s : State) : exec (.deadlinePass t) s = execDeadlinePass t s := rfl
@[simp] theorem exec_histClear (r : Req) (s : State) : exec (.histClear r) s = execHistClear r s := rfl
@[simp] theorem exec_loadWindowEnd (c : Fin 4) (s : State) :
    exec (.loadWindowEnd c) s = execLoadWindowEnd c s := rfl
@[simp] theorem exec_overloadSubwindow (f : BitVec 12) (s : State) :
    exec (.overloadSubwindow f) s = execOverloadSubwindow f s := rfl
@[simp] theorem exec_snapshotStart (r : Req) (s : State) : exec (.snapshotStart r) s = execSnapshotStart r s := rfl
@[simp] theorem exec_snapshotDone (s : State) : exec .snapshotDone s = execSnapshotDone s := rfl
@[simp] theorem exec_taskStart (t : Thread) (s : State) : exec (.taskStart t) s = execTaskStart t s := rfl
@[simp] theorem exec_interruptStart (t : Thread) (s : State) :
    exec (.interruptStart t) s = execInterruptStart t s := rfl
@[simp] theorem exec_tickExpire (t : Thread) (s : State) : exec (.tickExpire t) s = execTickExpire t s := rfl
@[simp] theorem exec_kick (r : Req) (core th : Fin 4) (s : State) :
    exec (.kick r core th) s = execKick r core th s := rfl
@[simp] theorem exec_coreModeChange (c : Fin 4) (s : State) :
    exec (.coreModeChange c) s = execCoreModeChange c s := rfl
@[simp] theorem exec_loadE (r : Req) (s : State) : exec (.loadE r) s = execLoadE r s := rfl
@[simp] theorem exec_loadC (r : Req) (s : State) : exec (.loadC r) s = execLoadC r s := rfl
@[simp] theorem exec_vectorLoadDone (s : State) : exec .vectorLoadDone s = execVectorLoadDone s := rfl
@[simp] theorem exec_lineFillDone (c : Fin 4) (encl : Bool) (addr : Word) (uncorrectable : Bool) (s : State) :
    exec (.lineFillDone c encl addr uncorrectable) s = execLineFillDone c encl addr uncorrectable s := rfl
@[simp] theorem exec_dataReturn (back : DataBack) (s : State) :
    exec (.dataReturn back) s = execDataReturn back s := rfl
@[simp] theorem exec_add (t : Thread) (rd rs1 rs2 : Gpr) (s : State) :
    exec (.add t rd rs1 rs2) s = execAdd t rd rs1 rs2 s := rfl
@[simp] theorem exec_sub (t : Thread) (rd rs1 rs2 : Gpr) (s : State) :
    exec (.sub t rd rs1 rs2) s = execSub t rd rs1 rs2 s := rfl
@[simp] theorem exec_and (t : Thread) (rd rs1 rs2 : Gpr) (s : State) :
    exec (.and t rd rs1 rs2) s = execAnd t rd rs1 rs2 s := rfl
@[simp] theorem exec_or (t : Thread) (rd rs1 rs2 : Gpr) (s : State) :
    exec (.or t rd rs1 rs2) s = execOr t rd rs1 rs2 s := rfl
@[simp] theorem exec_xor (t : Thread) (rd rs1 rs2 : Gpr) (s : State) :
    exec (.xor t rd rs1 rs2) s = execXor t rd rs1 rs2 s := rfl
@[simp] theorem exec_sll (t : Thread) (rd rs1 rs2 : Gpr) (s : State) :
    exec (.sll t rd rs1 rs2) s = execSll t rd rs1 rs2 s := rfl
@[simp] theorem exec_srl (t : Thread) (rd rs1 rs2 : Gpr) (s : State) :
    exec (.srl t rd rs1 rs2) s = execSrl t rd rs1 rs2 s := rfl
@[simp] theorem exec_sra (t : Thread) (rd rs1 rs2 : Gpr) (s : State) :
    exec (.sra t rd rs1 rs2) s = execSra t rd rs1 rs2 s := rfl
@[simp] theorem exec_slt (t : Thread) (rd rs1 rs2 : Gpr) (s : State) :
    exec (.slt t rd rs1 rs2) s = execSlt t rd rs1 rs2 s := rfl
@[simp] theorem exec_sltu (t : Thread) (rd rs1 rs2 : Gpr) (s : State) :
    exec (.sltu t rd rs1 rs2) s = execSltu t rd rs1 rs2 s := rfl
@[simp] theorem exec_min (t : Thread) (rd rs1 rs2 : Gpr) (s : State) :
    exec (.min t rd rs1 rs2) s = execMin t rd rs1 rs2 s := rfl
@[simp] theorem exec_max (t : Thread) (rd rs1 rs2 : Gpr) (s : State) :
    exec (.max t rd rs1 rs2) s = execMax t rd rs1 rs2 s := rfl
@[simp] theorem exec_minu (t : Thread) (rd rs1 rs2 : Gpr) (s : State) :
    exec (.minu t rd rs1 rs2) s = execMinu t rd rs1 rs2 s := rfl
@[simp] theorem exec_maxu (t : Thread) (rd rs1 rs2 : Gpr) (s : State) :
    exec (.maxu t rd rs1 rs2) s = execMaxu t rd rs1 rs2 s := rfl
@[simp] theorem exec_clz (t : Thread) (rd rs1 : Gpr) (s : State) :
    exec (.clz t rd rs1) s = execClz t rd rs1 s := rfl
@[simp] theorem exec_popc (t : Thread) (rd rs1 : Gpr) (s : State) :
    exec (.popc t rd rs1) s = execPopc t rd rs1 s := rfl
@[simp] theorem exec_bswap (t : Thread) (rd rs1 : Gpr) (s : State) :
    exec (.bswap t rd rs1) s = execBswap t rd rs1 s := rfl
@[simp] theorem exec_cmp (t : Thread) (rs1 rs2 : Gpr) (s : State) :
    exec (.cmp t rs1 rs2) s = execCmp t rs1 rs2 s := rfl
@[simp] theorem exec_mul (t : Thread) (rd rs1 rs2 : Gpr) (s : State) :
    exec (.mul t rd rs1 rs2) s = execMul t rd rs1 rs2 s := rfl
@[simp] theorem exec_mulh (t : Thread) (rd rs1 rs2 : Gpr) (s : State) :
    exec (.mulh t rd rs1 rs2) s = execMulh t rd rs1 rs2 s := rfl
@[simp] theorem exec_mulhu (t : Thread) (rd rs1 rs2 : Gpr) (s : State) :
    exec (.mulhu t rd rs1 rs2) s = execMulhu t rd rs1 rs2 s := rfl
@[simp] theorem exec_div (t : Thread) (rd rs1 rs2 : Gpr) (s : State) :
    exec (.div t rd rs1 rs2) s = execDiv t rd rs1 rs2 s := rfl
@[simp] theorem exec_divu (t : Thread) (rd rs1 rs2 : Gpr) (s : State) :
    exec (.divu t rd rs1 rs2) s = execDivu t rd rs1 rs2 s := rfl
@[simp] theorem exec_rem (t : Thread) (rd rs1 rs2 : Gpr) (s : State) :
    exec (.rem t rd rs1 rs2) s = execRem t rd rs1 rs2 s := rfl
@[simp] theorem exec_remu (t : Thread) (rd rs1 rs2 : Gpr) (s : State) :
    exec (.remu t rd rs1 rs2) s = execRemu t rd rs1 rs2 s := rfl
@[simp] theorem exec_addi (t : Thread) (rd rs1 : Gpr) (imm : Half) (s : State) :
    exec (.addi t rd rs1 imm) s = execAddi t rd rs1 imm s := rfl
@[simp] theorem exec_andi (t : Thread) (rd rs1 : Gpr) (imm : Half) (s : State) :
    exec (.andi t rd rs1 imm) s = execAndi t rd rs1 imm s := rfl
@[simp] theorem exec_ori (t : Thread) (rd rs1 : Gpr) (imm : Half) (s : State) :
    exec (.ori t rd rs1 imm) s = execOri t rd rs1 imm s := rfl
@[simp] theorem exec_xori (t : Thread) (rd rs1 : Gpr) (imm : Half) (s : State) :
    exec (.xori t rd rs1 imm) s = execXori t rd rs1 imm s := rfl
@[simp] theorem exec_slti (t : Thread) (rd rs1 : Gpr) (imm : Half) (s : State) :
    exec (.slti t rd rs1 imm) s = execSlti t rd rs1 imm s := rfl
@[simp] theorem exec_sltui (t : Thread) (rd rs1 : Gpr) (imm : Half) (s : State) :
    exec (.sltui t rd rs1 imm) s = execSltui t rd rs1 imm s := rfl
@[simp] theorem exec_shiSll (t : Thread) (rd rs1 : Gpr) (sh : BitVec 5) (s : State) :
    exec (.shiSll t rd rs1 sh) s = execShiSll t rd rs1 sh s := rfl
@[simp] theorem exec_shiSrl (t : Thread) (rd rs1 : Gpr) (sh : BitVec 5) (s : State) :
    exec (.shiSrl t rd rs1 sh) s = execShiSrl t rd rs1 sh s := rfl
@[simp] theorem exec_shiSra (t : Thread) (rd rs1 : Gpr) (sh : BitVec 5) (s : State) :
    exec (.shiSra t rd rs1 sh) s = execShiSra t rd rs1 sh s := rfl
@[simp] theorem exec_lui (t : Thread) (rd : Gpr) (imm : Half) (s : State) :
    exec (.lui t rd imm) s = execLui t rd imm s := rfl
@[simp] theorem exec_cmpi (t : Thread) (rs1 : Gpr) (imm : Half) (s : State) :
    exec (.cmpi t rs1 imm) s = execCmpi t rs1 imm s := rfl
@[simp] theorem exec_lb (t : Thread) (rd rs1 : Gpr) (imm : Half) (s : State) :
    exec (.lb t rd rs1 imm) s = execLb t rd rs1 imm s := rfl
@[simp] theorem exec_lbu (t : Thread) (rd rs1 : Gpr) (imm : Half) (s : State) :
    exec (.lbu t rd rs1 imm) s = execLbu t rd rs1 imm s := rfl
@[simp] theorem exec_lh (t : Thread) (rd rs1 : Gpr) (imm : Half) (s : State) :
    exec (.lh t rd rs1 imm) s = execLh t rd rs1 imm s := rfl
@[simp] theorem exec_lhu (t : Thread) (rd rs1 : Gpr) (imm : Half) (s : State) :
    exec (.lhu t rd rs1 imm) s = execLhu t rd rs1 imm s := rfl
@[simp] theorem exec_lw (t : Thread) (rd rs1 : Gpr) (imm : Half) (s : State) :
    exec (.lw t rd rs1 imm) s = execLw t rd rs1 imm s := rfl
@[simp] theorem exec_sb (t : Thread) (rs2 rs1 : Gpr) (imm : Half) (s : State) :
    exec (.sb t rs2 rs1 imm) s = execSb t rs2 rs1 imm s := rfl
@[simp] theorem exec_sh (t : Thread) (rs2 rs1 : Gpr) (imm : Half) (s : State) :
    exec (.sh t rs2 rs1 imm) s = execSh t rs2 rs1 imm s := rfl
@[simp] theorem exec_sw (t : Thread) (rs2 rs1 : Gpr) (imm : Half) (s : State) :
    exec (.sw t rs2 rs1 imm) s = execSw t rs2 rs1 imm s := rfl
@[simp] theorem exec_amoswap (t : Thread) (rd rs1 rs2 : Gpr) (s : State) :
    exec (.amoswap t rd rs1 rs2) s = execAmoswap t rd rs1 rs2 s := rfl
@[simp] theorem exec_amoadd (t : Thread) (rd rs1 rs2 : Gpr) (s : State) :
    exec (.amoadd t rd rs1 rs2) s = execAmoadd t rd rs1 rs2 s := rfl
@[simp] theorem exec_amoand (t : Thread) (rd rs1 rs2 : Gpr) (s : State) :
    exec (.amoand t rd rs1 rs2) s = execAmoand t rd rs1 rs2 s := rfl
@[simp] theorem exec_amoor (t : Thread) (rd rs1 rs2 : Gpr) (s : State) :
    exec (.amoor t rd rs1 rs2) s = execAmoor t rd rs1 rs2 s := rfl
@[simp] theorem exec_cas (t : Thread) (rd rs1 rs2 : Gpr) (s : State) :
    exec (.cas t rd rs1 rs2) s = execCas t rd rs1 rs2 s := rfl
@[simp] theorem exec_bcc (t : Thread) (cond : BitVec 4) (off : BitVec 22) (s : State) :
    exec (.bcc t cond off) s = execBcc t cond off s := rfl
@[simp] theorem exec_cbz (t : Thread) (rs1 : Gpr) (imm : Half) (s : State) :
    exec (.cbz t rs1 imm) s = execCbz t rs1 imm s := rfl
@[simp] theorem exec_cbnz (t : Thread) (rs1 : Gpr) (imm : Half) (s : State) :
    exec (.cbnz t rs1 imm) s = execCbnz t rs1 imm s := rfl
@[simp] theorem exec_j (t : Thread) (off : BitVec 26) (s : State) : exec (.j t off) s = execJ t off s := rfl
@[simp] theorem exec_jal (t : Thread) (off : BitVec 26) (s : State) : exec (.jal t off) s = execJal t off s := rfl
@[simp] theorem exec_jalr (t : Thread) (rd rs1 : Gpr) (imm : Half) (s : State) :
    exec (.jalr t rd rs1 imm) s = execJalr t rd rs1 imm s := rfl
@[simp] theorem exec_bmov (t : Thread) (rd rs1 rs2 : Gpr) (s : State) :
    exec (.bmov t rd rs1 rs2) s = execBmov t rd rs1 rs2 s := rfl
@[simp] theorem exec_nop (t : Thread) (s : State) : exec (.nop t) s = execNop t s := rfl
@[simp] theorem exec_csync (t : Thread) (s : State) : exec (.csync t) s = execCsync t s := rfl
@[simp] theorem exec_fence (t : Thread) (s : State) : exec (.fence t) s = execFence t s := rfl
@[simp] theorem exec_waiti (t : Thread) (s : State) : exec (.waiti t) s = execWaiti t s := rfl
@[simp] theorem exec_reti (t : Thread) (s : State) : exec (.reti t) s = execReti t s := rfl
@[simp] theorem exec_trap (t : Thread) (imm : Half) (s : State) : exec (.trap t imm) s = execTrap t imm s := rfl
@[simp] theorem exec_brk (t : Thread) (imm : Half) (s : State) : exec (.brk t imm) s = execBrk t imm s := rfl
@[simp] theorem exec_stile (t : Thread) (service : Half) (s : State) :
    exec (.stile t service) s = execStile t service s := rfl
@[simp] theorem exec_leave (t : Thread) (s : State) : exec (.leave t) s = execLeave t s := rfl
@[simp] theorem exec_tdone (t : Thread) (status : Byte) (s : State) :
    exec (.tdone t status) s = execTdone t status s := rfl
@[simp] theorem exec_getf (t : Thread) (rd : Gpr) (s : State) : exec (.getf t rd) s = execGetf t rd s := rfl
@[simp] theorem exec_setf (t : Thread) (rs1 : Gpr) (s : State) : exec (.setf t rs1) s = execSetf t rs1 s := rfl
@[simp] theorem exec_tsync (t : Thread) (s : State) : exec (.tsync t) s = execTsync t s := rfl
@[simp] theorem exec_temit (t : Thread) (rd rs1 : Gpr) (s : State) :
    exec (.temit t rd rs1) s = execTemit t rd rs1 s := rfl
@[simp] theorem exec_tcancel (t : Thread) (rd rs1 : Gpr) (s : State) :
    exec (.tcancel t rd rs1) s = execTcancel t rd rs1 s := rfl
@[simp] theorem exec_tcancelEntry (t : Thread) (rd rs1 rs2 : Gpr) (s : State) :
    exec (.tcancelEntry t rd rs1 rs2) s = execTcancelEntry t rd rs1 rs2 s := rfl
@[simp] theorem exec_tld (t : Thread) (td : Tile) (rs1 rs2 : Gpr) (s : State) :
    exec (.tld t td rs1 rs2) s = execTld t td rs1 rs2 s := rfl
@[simp] theorem exec_tst (t : Thread) (ta : Tile) (rs1 rs2 : Gpr) (s : State) :
    exec (.tst t ta rs1 rs2) s = execTst t ta rs1 rs2 s := rfl
@[simp] theorem exec_tmma (t : Thread) (td ta tb : Tile) (rs1 : Gpr) (s : State) :
    exec (.tmma t td ta tb rs1) s = execTmma t td ta tb rs1 s := rfl
@[simp] theorem exec_tel (t : Thread) (td ta tb : Tile) (rs1 : Gpr) (s : State) :
    exec (.tel t td ta tb rs1) s = execTel t td ta tb rs1 s := rfl
@[simp] theorem exec_tzero (t : Thread) (td : Tile) (s : State) : exec (.tzero t td) s = execTzero t td s := rfl
@[simp] theorem exec_tnote (t : Thread) (rs1 rs2 : Gpr) (s : State) :
    exec (.tnote t rs1 rs2) s = execTnote t rs1 rs2 s := rfl
@[simp] theorem exec_geomWrite (r : Req) (tile : Tile) (value : Word) (s : State) :
    exec (.geomWrite r tile value) s = execGeomWrite r tile value s := rfl
@[simp] theorem exec_tileExecute (s : State) : exec .tileExecute s = execTileExecute s := rfl
@[simp] theorem exec_tileCompletion (s : State) : exec .tileCompletion s = execTileCompletion s := rfl
@[simp] theorem exec_tilePolicyChange (s : State) : exec .tilePolicyChange s = execTilePolicyChange s := rfl
@[simp] theorem exec_svcStatus (t : Thread) (s : State) : exec (.svcStatus t) s = execSvcStatus t s := rfl
@[simp] theorem exec_svcGranary (t : Thread) (s : State) : exec (.svcGranary t) s = execSvcGranary t s := rfl
@[simp] theorem exec_svcLedger (t : Thread) (s : State) : exec (.svcLedger t) s = execSvcLedger t s := rfl
@[simp] theorem exec_ownerEnter (t : Thread) (s : State) : exec (.ownerEnter t) s = execOwnerEnter t s := rfl
@[simp] theorem exec_ownerLeave (t : Thread) (s : State) : exec (.ownerLeave t) s = execOwnerLeave t s := rfl
@[simp] theorem exec_svcMode (t : Thread) (s : State) : exec (.svcMode t) s = execSvcMode t s := rfl
@[simp] theorem exec_svcTime (t : Thread) (s : State) : exec (.svcTime t) s = execSvcTime t s := rfl
@[simp] theorem exec_svcReset (t : Thread) (s : State) : exec (.svcReset t) s = execSvcReset t s := rfl
@[simp] theorem exec_guardProbe (r : Req) (value : Word) (s : State) :
    exec (.guardProbe r value) s = execGuardProbe r value s := rfl
@[simp] theorem exec_guardLock (r : Req) (s : State) : exec (.guardLock r) s = execGuardLock r s := rfl
@[simp] theorem exec_wdogKick (r : Req) (s : State) : exec (.wdogKick r) s = execWdogKick r s := rfl
@[simp] theorem exec_watchdogWarn (s : State) : exec .watchdogWarn s = execWatchdogWarn s := rfl
@[simp] theorem exec_watchdogExpire (s : State) : exec .watchdogExpire s = execWatchdogExpire s := rfl
@[simp] theorem exec_sqDoorbell (b : Bay) (q : Fin 16) (value : BitVec 10) (s : State) :
    exec (.sqDoorbell b q value) s = execSqDoorbell b q value s := rfl
@[simp] theorem exec_cqDoorbell (b : Bay) (q : Fin 16) (value : BitVec 10) (s : State) :
    exec (.cqDoorbell b q value) s = execCqDoorbell b q value s := rfl
@[simp] theorem exec_sqFetchDone (b : Bay) (q : Fin 16) (entries : List (List Byte)) (s : State) :
    exec (.sqFetchDone b q entries) s = execSqFetchDone b q entries s := rfl
@[simp] theorem exec_dataInDone (b : Bay) (slot : Fin 256) (data : List Byte) (s : State) :
    exec (.dataInDone b slot data) s = execDataInDone b slot data s := rfl
@[simp] theorem exec_submit (b : Bay) (s : State) : exec (.submit b) s = execSubmit b s := rfl
@[simp] theorem exec_cancel (b : Bay) (s : State) : exec (.cancel b) s = execCancel b s := rfl
@[simp] theorem exec_stageOpen (b : Bay) (s : State) : exec (.stageOpen b) s = execStageOpen b s := rfl
@[simp] theorem exec_stageWrite (b : Bay) (s : State) : exec (.stageWrite b) s = execStageWrite b s := rfl
@[simp] theorem exec_stageCheck (b : Bay) (uncorrectable : Bool) (s : State) :
    exec (.stageCheck b uncorrectable) s = execStageCheck b uncorrectable s := rfl
@[simp] theorem exec_stageActivate (b : Bay) (s : State) : exec (.stageActivate b) s = execStageActivate b s := rfl
@[simp] theorem exec_stageAbort (b : Bay) (s : State) : exec (.stageAbort b) s = execStageAbort b s := rfl
@[simp] theorem exec_stageEraseDone (s : State) : exec .stageEraseDone s = execStageEraseDone s := rfl
@[simp] theorem exec_stageCopyDone (uncorrectable : Bool) (s : State) :
    exec (.stageCopyDone uncorrectable) s = execStageCopyDone uncorrectable s := rfl
@[simp] theorem exec_granary (b : Bay) (s : State) : exec (.granary b) s = execGranary b s := rfl
@[simp] theorem exec_status (b : Bay) (s : State) : exec (.status b) s = execStatus b s := rfl
@[simp] theorem exec_notifyGo (t : Thread) (b : Bay) (s : State) :
    exec (.notifyGo t b) s = execNotifyGo t b s := rfl
@[simp] theorem exec_msixUnmask (b : Bay) (vec : Fin 32) (s : State) :
    exec (.msixUnmask b vec) s = execMsixUnmask b vec s := rfl
@[simp] theorem exec_dmaError (b : Bay) (failure : DmaFailure) (s : State) :
    exec (.dmaError b failure) s = execDmaError b failure s := rfl
@[simp] theorem exec_bar2Access (b : Bay) (req : HostReq) (off : BitVec 20) (len : Nat) (data : List Byte) (s : State) :
    exec (.bar2Access b req off len data) s = execBar2Access b req off len data s := rfl
@[simp] theorem exec_ltrUpdate (b : Bay) (s : State) : exec (.ltrUpdate b) s = execLtrUpdate b s := rfl
@[simp] theorem exec_presenceChange (b : Bay) (present : Bool) (s : State) :
    exec (.presenceChange b present) s = execPresenceChange b present s := rfl
@[simp] theorem exec_attentionButton (b : Bay) (s : State) :
    exec (.attentionButton b) s = execAttentionButton b s := rfl
@[simp] theorem exec_buttonWindowEnd (b : Bay) (s : State) :
    exec (.buttonWindowEnd b) s = execButtonWindowEnd b s := rfl
@[simp] theorem exec_quiesceTimeout (b : Bay) (s : State) :
    exec (.quiesceTimeout b) s = execQuiesceTimeout b s := rfl
@[simp] theorem exec_surpriseRemoval (b : Bay) (linkDown : Bool) (s : State) :
    exec (.surpriseRemoval b linkDown) s = execSurpriseRemoval b linkDown s := rfl
@[simp] theorem exec_perstAssert (b : Bay) (s : State) : exec (.perstAssert b) s = execPerstAssert b s := rfl
@[simp] theorem exec_perstDeassert (b : Bay) (s : State) : exec (.perstDeassert b) s = execPerstDeassert b s := rfl
@[simp] theorem exec_hotReset (b : Bay) (s : State) : exec (.hotReset b) s = execHotReset b s := rfl
@[simp] theorem exec_functionLevelReset (b : Bay) (s : State) :
    exec (.functionLevelReset b) s = execFunctionLevelReset b s := rfl
@[simp] theorem exec_linkUp (b : Bay) (speed : BitVec 2) (credits : List Nat) (s : State) :
    exec (.linkUp b speed credits) s = execLinkUp b speed credits s := rfl
@[simp] theorem exec_granaryStart (pufOk : Bool) (s : State) :
    exec (.granaryStart pufOk) s = execGranaryStart pufOk s := rfl
@[simp] theorem exec_seal (entropyOk : Bool) (s : State) : exec (.seal entropyOk) s = execSeal entropyOk s := rfl
@[simp] theorem exec_grnOpen (s : State) : exec .grnOpen s = execGrnOpen s := rfl
@[simp] theorem exec_wrap (s : State) : exec .wrap s = execWrap s := rfl
@[simp] theorem exec_unwrap (s : State) : exec .unwrap s = execUnwrap s := rfl
@[simp] theorem exec_mkleaf (s : State) : exec .mkleaf s = execMkleaf s := rfl
@[simp] theorem exec_grnExport (s : State) : exec .grnExport s = execGrnExport s := rfl
@[simp] theorem exec_respond (s : State) : exec .respond s = execRespond s := rfl
@[simp] theorem exec_check (s : State) : exec .check s = execCheck s := rfl
@[simp] theorem exec_sign (entropyOk : Bool) (s : State) : exec (.sign entropyOk) s = execSign entropyOk s := rfl
@[simp] theorem exec_pubkey (s : State) : exec .pubkey s = execPubkey s := rfl
@[simp] theorem exec_ecdh (s : State) : exec .ecdh s = execEcdh s := rfl
@[simp] theorem exec_hash (s : State) : exec .hash s = execHash s := rfl
@[simp] theorem exec_random (entropyOk : Bool) (s : State) :
    exec (.random entropyOk) s = execRandom entropyOk s := rfl
@[simp] theorem exec_nonce (entropyOk : Bool) (s : State) : exec (.nonce entropyOk) s = execNonce entropyOk s := rfl
@[simp] theorem exec_create (entropyOk : Bool) (s : State) :
    exec (.create entropyOk) s = execCreate entropyOk s := rfl
@[simp] theorem exec_delete (s : State) : exec .delete s = execDelete s := rfl
@[simp] theorem exec_rebind (s : State) : exec .rebind s = execRebind s := rfl
@[simp] theorem exec_restore (s : State) : exec .restore s = execRestore s := rfl
@[simp] theorem exec_nonceExpire (s : State) : exec .nonceExpire s = execNonceExpire s := rfl
@[simp] theorem exec_remaskPass (s : State) : exec .remaskPass s = execRemaskPass s := rfl
@[simp] theorem exec_backupShareInvert (s : State) : exec .backupShareInvert s = execBackupShareInvert s := rfl
@[simp] theorem exec_granaryCompletion (s : State) : exec .granaryCompletion s = execGranaryCompletion s := rfl
@[simp] theorem exec_ledgerRead (ecc : Ecc) (s : State) : exec (.ledgerRead ecc) s = execLedgerRead ecc s := rfl
@[simp] theorem exec_ledgerWrite (s : State) : exec .ledgerWrite s = execLedgerWrite s := rfl
@[simp] theorem exec_ledgerErase (s : State) : exec .ledgerErase s = execLedgerErase s := rfl
@[simp] theorem exec_cread (s : State) : exec .cread s = execCread s := rfl
@[simp] theorem exec_cadvance (s : State) : exec .cadvance s = execCadvance s := rfl
@[simp] theorem exec_log (s : State) : exec .log s = execLog s := rfl
@[simp] theorem exec_lread (ecc : Ecc) (s : State) : exec (.lread ecc) s = execLread ecc s := rfl
@[simp] theorem exec_counterIncrement (c : Fin 4) (s : State) :
    exec (.counterIncrement c) s = execCounterIncrement c s := rfl
@[simp] theorem exec_ledgerCompletion (s : State) : exec .ledgerCompletion s = execLedgerCompletion s := rfl
@[simp] theorem exec_patrolVisit (weak : Bool) (s : State) :
    exec (.patrolVisit weak) s = execPatrolVisit weak s := rfl
@[simp] theorem exec_startPass (weakRows : List Nat) (s : State) :
    exec (.startPass weakRows) s = execStartPass weakRows s := rfl
@[simp] theorem exec_romInfo (s : State) : exec .romInfo s = execRomInfo s := rfl
@[simp] theorem exec_romBuf (off : Nat) (data : List Byte) (s : State) :
    exec (.romBuf off data) s = execRomBuf off data s := rfl
@[simp] theorem exec_romNonce (s : State) : exec .romNonce s = execRomNonce s := rfl
@[simp] theorem exec_prov (s : State) : exec .prov s = execProv s := rfl
@[simp] theorem exec_provNonceExpire (s : State) : exec .provNonceExpire s = execProvNonceExpire s := rfl
@[simp] theorem exec_slotaErase (s : State) : exec .slotaErase s = execSlotaErase s := rfl
@[simp] theorem exec_slotaWrite (off len : Nat) (s : State) :
    exec (.slotaWrite off len) s = execSlotaWrite off len s := rfl
@[simp] theorem exec_fieldCmd (s : State) : exec .fieldCmd s = execFieldCmd s := rfl
@[simp] theorem exec_info (s : State) : exec .info s = execInfo s := rfl
@[simp] theorem exec_time (s : State) : exec .time s = execTime s := rfl
@[simp] theorem exec_buf (off : Nat) (data : List Byte) (s : State) :
    exec (.buf off data) s = execBuf off data s := rfl
@[simp] theorem exec_hlNonce (entropyOk : Bool) (s : State) :
    exec (.hlNonce entropyOk) s = execHlNonce entropyOk s := rfl
@[simp] theorem exec_cert (s : State) : exec .cert s = execCert s := rfl
@[simp] theorem exec_exit (s : State) : exec .exit s = execExit s := rfl
@[simp] theorem exec_rd (addr : Word) (n : Nat) (s : State) : exec (.rd addr n) s = execRd addr n s := rfl
@[simp] theorem exec_wr (addr value : Word) (s : State) : exec (.wr addr value) s = execWr addr value s := rfl
@[simp] theorem exec_halt (t : Thread) (s : State) : exec (.halt t) s = execHalt t s := rfl
@[simp] theorem exec_go (t : Thread) (s : State) : exec (.go t) s = execGo t s := rfl
@[simp] theorem exec_regs (t : Thread) (s : State) : exec (.regs t) s = execRegs t s := rfl
@[simp] theorem exec_hlStageOpen (s : State) : exec .hlStageOpen s = execHlStageOpen s := rfl
@[simp] theorem exec_hlStageWrite (off len : Nat) (s : State) :
    exec (.hlStageWrite off len) s = execHlStageWrite off len s := rfl
@[simp] theorem exec_hlStageCheck (uncorrectable : Bool) (s : State) :
    exec (.hlStageCheck uncorrectable) s = execHlStageCheck uncorrectable s := rfl
@[simp] theorem exec_hlStageActivate (s : State) : exec .hlStageActivate s = execHlStageActivate s := rfl
@[simp] theorem exec_hlStageAbort (s : State) : exec .hlStageAbort s = execHlStageAbort s := rfl
@[simp] theorem exec_unretire (n : Chan) (s : State) : exec (.unretire n) s = execUnretire n s := rfl
@[simp] theorem exec_bkprst (s : State) : exec .bkprst s = execBkprst s := rfl
@[simp] theorem exec_vault (op : Byte) (owner : BitVec 6) (inlen auxlen : Nat) (entropyOk : Bool) (s : State) :
    exec (.vault op owner inlen auxlen entropyOk) s = execVault op owner inlen auxlen entropyOk s := rfl
@[simp] theorem exec_lineTimeout (s : State) : exec .lineTimeout s = execLineTimeout s := rfl
@[simp] theorem exec_dbgacc (op : BitVec 2) (data addr : Word) (s : State) :
    exec (.dbgacc op data addr) s = execDbgacc op data addr s := rfl
@[simp] theorem exec_registerWrite (r : Req) (addr : Word) (width : Width) (value : Word) (s : State) :
    exec (.registerWrite r addr width value) s = execRegisterWrite r addr width value s := rfl
@[simp] theorem exec_svc5vRemoved (s : State) : exec .svc5vRemoved s = execSvc5vRemoved s := rfl
@[simp] theorem exec_vsupReturnToRange (mv : Half) (s : State) :
    exec (.vsupReturnToRange mv) s = execVsupReturnToRange mv s := rfl
@[simp] theorem exec_flashOperationEnd (bank : Fin 4) (op : FlashOp) (s : State) :
    exec (.flashOperationEnd bank op) s = execFlashOperationEnd bank op s := rfl
@[simp] theorem exec_updatefcReceived (b : Bay) (items : Nat) (s : State) :
    exec (.updatefcReceived b items) s = execUpdatefcReceived b items s := rfl
@[simp] theorem exec_l1Exit (b : Bay) (s : State) : exec (.l1Exit b) s = execL1Exit b s := rfl
@[simp] theorem exec_illegalInstruction (t : Thread) (word : Word) (s : State) :
    exec (.illegalInstruction t word) s = execIllegalInstruction t word s := rfl
@[simp] theorem exec_dividerFree (c : Fin 4) (s : State) : exec (.dividerFree c) s = execDividerFree c s := rfl
@[simp] theorem exec_rstbEdgeOutsideTransfer (n : Chan) (s : State) :
    exec (.rstbEdgeOutsideTransfer n) s = execRstbEdgeOutsideTransfer n s := rfl
@[simp] theorem exec_headlandUnknownLine (overflow : Bool) (s : State) :
    exec (.headlandUnknownLine overflow) s = execHeadlandUnknownLine overflow s := rfl
end Sys2Proof.Machine
end

