-- ==== Sys2Proof/Laws/Held.lean ====
section
/-! SUPPORT. What every operation keeps: the canonical form of the memories, the PUF helper data of program flash (R110),
and the fuses already blown (R106). -/

set_option linter.all false

namespace Sys2Proof.Machine

/-- The memories are in canonical form, and the PUF helper data of program flash is `h`. -/
def MemOk (h : List Byte) (m : Memories) : Prop :=
  memoriesWf m = true ∧ memBytes norBlank m.flash 0x087F8000 0x1000 = h

@[simp] theorem memOk_ite {h : List Byte} (p : Prop) [Decidable p] {a b : Memories} (ha : MemOk h a) (hb : MemOk h b) :
    MemOk h (if p then a else b) := by split <;> assumption
@[simp] theorem memOk_foldl {α : Type} {h : List Byte} (l : List α) (f : State → α → State) (s : State)
    (hf : ∀ s x, MemOk h s.mem → MemOk h (f s x).mem) (hs : MemOk h s.mem) : MemOk h (l.foldl f s).mem := by
  induction l generalizing s with
  | nil => exact hs
  | cons x t ih => exact ih _ (hf _ _ hs)

theorem memOk_sram {h : List Byte} {m : Memories} {x : Memory} (hm : MemOk h m) (hx : x.wf sramBlank = true) :
    MemOk h { m with sram := x } := by
  unfold MemOk memoriesWf at *; simp_all
theorem memOk_store {h : List Byte} {m : Memories} {x : Memory} (hm : MemOk h m) (hx : x.wf norBlank = true) :
    MemOk h { m with store := x } := by
  unfold MemOk memoriesWf at *; simp_all
theorem memOk_ledger {h : List Byte} {m : Memories} {x : Memory} (hm : MemOk h m) (hx : x.wf ledgerBlank = true) :
    MemOk h { m with ledger := x } := by
  unfold MemOk memoriesWf at *; simp_all
theorem memOk_flash {h : List Byte} {m : Memories} {x : Memory} (hm : MemOk h m) (hx : x.wf norBlank = true)
    (hp : memBytes norBlank x 0x087F8000 0x1000 = memBytes norBlank m.flash 0x087F8000 0x1000) :
    MemOk h { m with flash := x } := by
  unfold MemOk memoriesWf at *; simp_all
theorem MemOk.parts {h : List Byte} {m : Memories} (hm : MemOk h m) : m.sram.wf sramBlank = true ∧
    m.flash.wf norBlank = true ∧ m.store.wf norBlank = true ∧ m.ledger.wf ledgerBlank = true := by
  unfold MemOk memoriesWf at hm; simp_all
theorem fusesWithin_refl (a : BitVec 4096) : fusesWithin a a := BitVec.and_self
theorem fusesWithin_trans {a b c : BitVec 4096} (h : fusesWithin a b) (k : fusesWithin b c) : fusesWithin a c := by
  unfold fusesWithin at *; rw [← h, BitVec.and_assoc, k]

theorem setBit_or {w : Nat} (x : BitVec w) (k : Nat) : setBits x k 1 1 = x ||| BitVec.ofNat w (2 ^ k) := by
  have e : ((2 ^ 1 - 1) <<< k : Nat) = 2 ^ k := by simp [Nat.shiftLeft_eq]
  have e2 : ((1 % 2 ^ 1) <<< k &&& 2 ^ k : Nat) = 2 ^ k := by simp [Nat.shiftLeft_eq]
  unfold setBits; simp only [e, e2]
  by_cases h : x.toNat.testBit k
  · have hk : x.toNat &&& 2 ^ k = 2 ^ k := by rw [Nat.and_two_pow]; simp [h]
    rw [hk, Nat.sub_add_cancel (Nat.ge_two_pow_of_testBit h)]
    apply BitVec.eq_of_toNat_eq
    have ho : x.toNat ||| 2 ^ k = x.toNat := by
      apply Nat.eq_of_testBit_eq; intro i
      rw [Nat.testBit_or, Nat.testBit_two_pow]
      by_cases hi : k = i
      · subst hi; simp [h]
      · simp [hi]
    rw [BitVec.toNat_or, BitVec.toNat_ofNat, BitVec.toNat_ofNat]
    conv_rhs => rw [← Nat.mod_eq_of_lt x.isLt, ← Nat.or_mod_two_pow, ho]
  · have h' : x.toNat.testBit k = false := by simpa using h
    have hk : x.toNat &&& 2 ^ k = 0 := by rw [Nat.and_two_pow]; simp [h']
    rw [hk, Nat.sub_zero, BitVec.ofNat_add, BitVec.ofNat_toNat, BitVec.setWidth_eq]
    apply BitVec.add_eq_or_of_and_eq_zero
    apply BitVec.eq_of_getLsbD_eq; intro i hi
    rw [BitVec.getLsbD_and, BitVec.getLsbD_ofNat, Nat.testBit_two_pow]
    by_cases hki : k = i
    · subst hki; simp [BitVec.getLsbD, h']
    · simp [hki]

theorem setBit_within (x : BitVec 4096) (k : Nat) : fusesWithin x (setBits x k 1 1) := by
  unfold fusesWithin; rw [setBit_or]
  apply BitVec.eq_of_getLsbD_eq; intro i hi; simp [BitVec.getLsbD_and, BitVec.getLsbD_or]
  intro h; simp [h]
theorem setFuseBits_within (l : List Nat) (x : BitVec 4096) : fusesWithin x (setFuseBits l x) := by
  unfold setFuseBits
  induction l generalizing x with
  | nil => exact fusesWithin_refl x
  | cons k l ih => exact fusesWithin_trans (setBit_within x k) (ih _)

@[simp] theorem fusesWithin_ite {f : BitVec 4096} (p : Prop) [Decidable p] {a b : Fuses} (ha : fusesWithin f a.array)
    (hb : fusesWithin f b.array) : fusesWithin f (if p then a else b).array := by split <;> assumption
@[simp] theorem fusesWithin_foldl {α : Type} {h : BitVec 4096} (l : List α) (f : State → α → State) (s : State)
    (hf : ∀ s x, fusesWithin h s.fuse.array → fusesWithin h (f s x).fuse.array) (hs : fusesWithin h s.fuse.array) :
    fusesWithin h (l.foldl f s).fuse.array := by
  induction l generalizing s with
  | nil => exact hs
  | cons x t ih => exact ih _ (hf _ _ hs)
@[simp] theorem cutBlow_array (f : Fuses) : (cutBlow f).array = f.array := by unfold cutBlow; split <;> rfl
@[simp] theorem setFuseBits_keeps {f a : BitVec 4096} (l : List Nat) (h : fusesWithin f a) : fusesWithin f (setFuseBits l a) :=
  fusesWithin_trans h (setFuseBits_within l a)
@[simp] theorem nextBlow_array (f : Fuses) : (nextBlow f).array = f.array := by unfold nextBlow; split <;> rfl

@[simp] theorem ldgErase_memOk {hd : List Byte} (a n : ℕ) (s : State) (hm : MemOk hd s.mem) :
    MemOk hd (ldgErase a n s).mem := by
  exact memOk_ledger hm (memErase_wf _ _ _ _ hm.parts.2.2.2)

@[simp] theorem ldgProgram_memOk {hd : List Byte} (a : ℕ) (bs : List Byte) (s : State) (hm : MemOk hd s.mem) :
    MemOk hd (ldgProgram a bs s).mem := by
  exact memOk_ledger hm (memStore_wf _ _ _ _ hm.parts.2.2.2)

@[simp] theorem putSlot_memOk {hd : List Byte} (part slot : ℕ) (bs : List Byte) (s : State) (hm : MemOk hd s.mem) :
    MemOk hd (putSlot part slot bs s).mem := by
  simp [putSlot, hm]

@[simp] theorem wipeSlot_memOk {hd : List Byte} (part slot : ℕ) (s : State) (hm : MemOk hd s.mem) :
    MemOk hd (wipeSlot part slot s).mem := by
  simp [wipeSlot, hm]

@[simp] theorem writeRecord_memOk {hd : List Byte} (part r len : ℕ) (data : List Byte) (s : State) (hm : MemOk hd s.mem) :
    MemOk hd (writeRecord part r len data s).mem := by
  simp [writeRecord, hm]

@[simp] theorem programBit_memOk {hd : List Byte} (c : ℕ) (b : Bool) (k : ℕ) (s : State) (hm : MemOk hd s.mem) :
    MemOk hd (programBit c b k s).mem := by
  simp [programBit, hm]

@[simp] theorem stepCounter_memOk {hd : List Byte} (c : ℕ) (s : State) (hm : MemOk hd s.mem) :
    MemOk hd (stepCounter c s).mem := by
  unfold stepCounter; dsimp only; split
  · exact programBit_memOk _ _ _ _ (ldgProgram_memOk _ _ _ (ldgErase_memOk _ _ _ hm))
  · split
    · exact programBit_memOk _ _ _ _ hm
    · exact programBit_memOk _ _ _ _ (ldgProgram_memOk _ _ _ (ldgErase_memOk _ _ _ hm))

@[simp] theorem stepCounterN_memOk {hd : List Byte} (c k : ℕ) (s : State) (hm : MemOk hd s.mem) :
    MemOk hd (stepCounterN c k s).mem := by
  fun_induction stepCounterN c k s <;> simp_all

@[simp] theorem incrementCounter_memOk {hd : List Byte} (c : ℕ) (s : State) (hm : MemOk hd s.mem) :
    MemOk hd (incrementCounter c s).2.mem := by
  unfold incrementCounter; (repeat' split) <;> simp [hm]

@[simp] theorem appendLog_memOk {hd : List Byte} (type src : ℕ) (data : List Byte) (s : State) (hm : MemOk hd s.mem) :
    MemOk hd (appendLog type src data s).2.mem := by
  simp [appendLog, hm]

@[simp] theorem logEntry_memOk {hd : List Byte} (type src : ℕ) (data : List Byte) (s : State) (hm : MemOk hd s.mem) :
    MemOk hd (logEntry type src data s).mem := by
  simp [logEntry, hm]

@[simp] theorem fwLog_memOk {hd : List Byte} (type : ℕ) (data : List Byte) (s : State) (hm : MemOk hd s.mem) :
    MemOk hd (fwLog type data s).mem := by
  simp [fwLog, hm]

@[simp] theorem transition_memOk {hd : List Byte} (m : BitVec 3) (s : State) (hm : MemOk hd s.mem) :
    MemOk hd (transition m s).mem := by
  simp [transition, hm]

@[simp] theorem enterMode_memOk {hd : List Byte} (m : BitVec 3) (s : State) (hm : MemOk hd s.mem) :
    MemOk hd (enterMode m s).mem := by
  simp [enterMode, hm]

@[simp] theorem sramStore_memOk {hd : List Byte} (a : ℕ) (bs : List Byte) (s : State) (hm : MemOk hd s.mem) :
    MemOk hd (sramStore a bs s).mem := by
  exact memOk_sram hm (memStore_wf _ _ _ _ hm.parts.1)

@[simp] theorem sramWrite_memOk {hd : List Byte} (a : ℕ) (bs : List Byte) (s : State) (hm : MemOk hd s.mem) :
    MemOk hd (sramWrite a bs s).mem := by
  simp [sramWrite, hm]

@[simp] theorem coreWrite_memOk {hd : List Byte} (t : Thread) (a : ℕ) (bs : List Byte) (s : State) (hm : MemOk hd s.mem) :
    MemOk hd (coreWrite t a bs s).mem := by
  simp [coreWrite, hm]

@[simp] theorem winWrite_memOk {hd : List Byte} (b : Bay) (tag : Byte) (off : ℕ) (bs : List Byte) (s : State) (hm : MemOk hd s.mem) :
    MemOk hd (winWrite b tag off bs s).mem := by
  unfold winWrite; (repeat' split) <;> simp [hm]

@[simp] theorem flashProgram_memOk {hd : List Byte} (a : ℕ) (bs : List Byte) (s : State) (hm : MemOk hd s.mem) :
    MemOk hd (flashProgram a bs s).mem := by
  unfold flashProgram; split
  · exact hm
  · rename_i h; simp only [touchesPuf, decide_eq_true_eq] at h
    refine memOk_flash hm (memStore_wf _ _ _ _ hm.parts.2.1) ?_
    by_cases hb : bs = []
    · simp [hb, memStore]
    · have := List.length_pos_iff.2 hb
      exact memBytes_memStore_apart _ _ _ _ _ _ (by omega)

@[simp] theorem flashErase_memOk {hd : List Byte} (a n : ℕ) (s : State) (hm : MemOk hd s.mem) :
    MemOk hd (flashErase a n s).mem := by
  unfold flashErase; split
  · exact hm
  · rename_i h; simp only [touchesPuf, decide_eq_true_eq] at h
    refine memOk_flash hm (memErase_wf _ _ _ _ hm.parts.2.1) ?_
    exact memBytes_congr _ _ _ _ _ fun k h1 h2 => tabGet_memErase_outside _ _ _ _ _ (by omega)

@[simp] theorem enterLimp_memOk {hd : List Byte} (k : ℕ) (s : State) (hm : MemOk hd s.mem) :
    MemOk hd (enterLimp k s).mem := by
  unfold enterLimp; (repeat' split) <;> simp [hm]

@[simp] theorem checkRetiredLimit_memOk {hd : List Byte} (s : State) (hm : MemOk hd s.mem) :
    MemOk hd (checkRetiredLimit s).mem := by
  simp [checkRetiredLimit, hm]

@[simp] theorem foldRetirements_memOk {hd : List Byte} (s : State) (hm : MemOk hd s.mem) :
    MemOk hd (foldRetirements s).mem := by
  unfold foldRetirements; (repeat' split) <;> simp_all

@[simp] theorem retireQuietly_memOk {hd : List Byte} (n : Chan) (cause : BitVec 2) (pinCond : Byte) (s : State) (hm : MemOk hd s.mem) :
    MemOk hd (retireQuietly n cause pinCond s).mem := by
  simp [retireQuietly, hm]

@[simp] theorem retireChannel_memOk {hd : List Byte} (n : Chan) (cause : BitVec 2) (pinCond : Byte) (s : State) (hm : MemOk hd s.mem) :
    MemOk hd (retireChannel n cause pinCond s).mem := by
  unfold retireChannel; (repeat' split) <;> simp [hm]

@[simp] theorem upset_memOk {hd : List Byte} (n : Chan) (u : Upset) (s : State) (hm : MemOk hd s.mem) :
    MemOk hd (upset n u s).mem := by
  simp [upset, hm]

@[simp] theorem discardFrame_memOk {hd : List Byte} (n : Chan) (u : Upset) (s : State) (hm : MemOk hd s.mem) :
    MemOk hd (discardFrame n u s).mem := by
  simp [discardFrame, hm]

@[simp] theorem failFrame_memOk {hd : List Byte} (n : Chan) (u : Upset) (s : State) (hm : MemOk hd s.mem) :
    MemOk hd (failFrame n u s).mem := by
  unfold failFrame; dsimp only; (repeat' split) <;> simp [hm]

@[simp] theorem finishFrame_memOk {hd : List Byte} (n : Chan) (s : State) (hm : MemOk hd s.mem) :
    MemOk hd (finishFrame n s).mem := by
  unfold finishFrame; dsimp only; (repeat' split) <;> simp [hm]

@[simp] theorem uncorrectableIn_memOk {hd : List Byte} (part slot : ℕ) (s : State) (hm : MemOk hd s.mem) :
    MemOk hd (uncorrectableIn part slot s).mem := by
  unfold uncorrectableIn; dsimp only; (repeat' split) <;> simp [hm]

@[simp] theorem eccMet_memOk {hd : List Byte} (e : Ecc) (part slot : ℕ) (s : State) (hm : MemOk hd s.mem) :
    MemOk hd (eccMet e part slot s).mem := by
  unfold eccMet; (repeat' split) <;> simp [hm]

@[simp] theorem ldgReadOp_memOk {hd : List Byte} (e : Ecc) (r : LdgReq) (s : State) (hm : MemOk hd s.mem) :
    MemOk hd (ldgReadOp e r s).mem := by
  unfold ldgReadOp; dsimp only; (repeat' split) <;> simp [hm]

@[simp] theorem ldgWriteOp_memOk {hd : List Byte} (r : LdgReq) (s : State) (hm : MemOk hd s.mem) :
    MemOk hd (ldgWriteOp r s).mem := by
  simp [ldgWriteOp, hm]

@[simp] theorem ldgEraseOp_memOk {hd : List Byte} (r : LdgReq) (s : State) (hm : MemOk hd s.mem) :
    MemOk hd (ldgEraseOp r s).mem := by
  unfold ldgEraseOp; dsimp only; (repeat' split) <;> simp [hm]

@[simp] theorem ldgAdvanceOp_memOk {hd : List Byte} (r : LdgReq) (s : State) (hm : MemOk hd s.mem) :
    MemOk hd (ldgAdvanceOp r s).mem := by
  unfold ldgAdvanceOp; dsimp only; (repeat' split) <;> simp [hm]

@[simp] theorem ldgLogOp_memOk {hd : List Byte} (r : LdgReq) (s : State) (hm : MemOk hd s.mem) :
    MemOk hd (ldgLogOp r s).mem := by
  simp [ldgLogOp, hm]

@[simp] theorem ldgLreadOp_memOk {hd : List Byte} (e : Ecc) (r : LdgReq) (s : State) (hm : MemOk hd s.mem) :
    MemOk hd (ldgLreadOp e r s).mem := by
  simp [ldgLreadOp, hm]

@[simp] theorem layImage_memOk {hd : List Byte} (d : LdgDone) (s : State) (hm : MemOk hd s.mem) :
    MemOk hd (layImage d s).mem := by
  simp [layImage, hm]

@[simp] theorem writePatrol_memOk {hd : List Byte} (ended : Bool) (s : State) (hm : MemOk hd s.mem) :
    MemOk hd (writePatrol ended s).mem := by
  simp [writePatrol, hm]

@[simp] theorem refreshRecord_memOk {hd : List Byte} (part r : ℕ) (s : State) (hm : MemOk hd s.mem) :
    MemOk hd (refreshRecord part r s).mem := by
  unfold refreshRecord; (repeat' split) <;> simp [hm]

@[simp] theorem refreshRow_memOk {hd : List Byte} (row : ℕ) (s : State) (hm : MemOk hd s.mem) :
    MemOk hd (refreshRow row s).mem := by
  simp [refreshRow, hm]

@[simp] theorem unretireChannel_memOk {hd : List Byte} (n : Chan) (s : State) (hm : MemOk hd s.mem) :
    MemOk hd (unretireChannel n s).mem := by
  simp +contextual [unretireChannel, hm]

@[simp] theorem unretireWrite_memOk {hd : List Byte} (r : Req) (n : Chan) (s : State) (hm : MemOk hd s.mem) :
    MemOk hd (unretireWrite r n s).mem := by
  simp [unretireWrite, hm]

@[simp] theorem storeErase_memOk {hd : List Byte} (a n : ℕ) (s : State) (hm : MemOk hd s.mem) :
    MemOk hd (storeErase a n s).mem := by
  exact memOk_store hm (memErase_wf _ _ _ _ hm.parts.2.2.1)

@[simp] theorem storeProgram_memOk {hd : List Byte} (a : ℕ) (bs : List Byte) (s : State) (hm : MemOk hd s.mem) :
    MemOk hd (storeProgram a bs s).mem := by
  exact memOk_store hm (memStore_wf _ _ _ _ hm.parts.2.2.1)

@[simp] theorem writeDirectory_memOk {hd : List Byte} (slotB : Bool) (s : State) (hm : MemOk hd s.mem) :
    MemOk hd (writeDirectory slotB s).mem := by
  simp [writeDirectory, hm]

@[simp] theorem writeRoot_memOk {hd : List Byte} (o flags gen : ℕ) (digest root : List Byte) (s : State) (hm : MemOk hd s.mem) :
    MemOk hd (writeRoot o flags gen digest root s).mem := by
  simp [writeRoot, hm]

@[simp] theorem eraseRoot_memOk {hd : List Byte} (o : ℕ) (s : State) (hm : MemOk hd s.mem) :
    MemOk hd (eraseRoot o s).mem := by
  simp [eraseRoot, hm]

@[simp] theorem startEscrow_memOk {hd : List Byte} (s : State) (hm : MemOk hd s.mem) :
    MemOk hd (startEscrow s).mem := by
  unfold startEscrow; split
  · exact hm
  · split
    · exact hm
    · have h2 := incrementCounter_memOk 2 _ hm
      generalize incrementCounter 2 s = p at *; dsimp only; (repeat' split) <;> exact h2

@[simp] theorem writeEscrow_memOk {hd : List Byte} (s : State) (hm : MemOk hd s.mem) :
    MemOk hd (writeEscrow s).mem := by
  unfold writeEscrow; split
  · exact hm
  · dsimp only
    exact incrementCounter_memOk _ _ (storeProgram_memOk _ _ _ (storeErase_memOk _ _ _ hm))

@[simp] theorem settleEscrow_memOk {hd : List Byte} (s : State) (hm : MemOk hd s.mem) :
    MemOk hd (settleEscrow s).mem := by
  simp [settleEscrow, hm]

@[simp] theorem granaryStartOp_memOk {hd : List Byte} (pufOk : Bool) (s : State) (hm : MemOk hd s.mem) :
    MemOk hd (granaryStartOp pufOk s).mem := by
  simp [granaryStartOp, hm]

@[simp] theorem storeRows_memOk {hd : List Byte} (th : Thread) (encl : Bool) (owner : Byte) (x : TileReg) (addr c : Word) (n k m : ℕ) (y : Raised) (s : State) (hm : MemOk hd s.mem) :
    MemOk hd (storeRows th encl owner x addr c n k m y s).2.mem := by
  induction k generalizing m y s with
  | zero => simpa [storeRows] using hm
  | succ k ih =>
    simp only [storeRows]; refine ih _ _ _ ?_
    split
    · exact sramWrite_memOk _ _ _ hm
    · simpa using hm

@[simp] theorem tstOp_memOk {hd : List Byte} (th : Thread) (encl : Bool) (owner : Byte) (ta : Tile) (addr c : Word) (s : State) (hm : MemOk hd s.mem) :
    MemOk hd (tstOp th encl owner ta addr c s).mem := by
  simp [tstOp, hm]

@[simp] theorem runTileOp_memOk {hd : List Byte} (th : Thread) (encl : Bool) (owner : Byte) (o : TileOp) (s : State) (hm : MemOk hd s.mem) :
    MemOk hd (runTileOp th encl owner o s).mem := by
  unfold runTileOp; (repeat' split) <;> simp [hm]

@[simp] theorem tileExecuteOp_memOk {hd : List Byte} (s : State) (hm : MemOk hd s.mem) :
    MemOk hd (tileExecuteOp s).mem := by
  unfold tileExecuteOp; (repeat' split) <;> simp [hm]

@[simp] theorem createOwner_memOk {hd : List Byte} (j : GrnJob) (o : Fin 64) (imported : Option (List Byte)) (s : State) (hm : MemOk hd s.mem) :
    MemOk hd (createOwner j o imported s).2.mem := by
  unfold createOwner; dsimp only
  have h2 := incrementCounter_memOk 3 (newRoot imported s).2 (hd := hd) (by simpa using hm)
  generalize incrementCounter 3 (newRoot imported s).2 = q at *; split
  · simp [h2]
  · split <;> simp [h2]

@[simp] theorem deleteOwner_memOk {hd : List Byte} (o : Fin 64) (s : State) (hm : MemOk hd s.mem) :
    MemOk hd (deleteOwner o s).2.mem := by
  simp [deleteOwner, hm]

@[simp] theorem rebindOwner_memOk {hd : List Byte} (o : Fin 64) (s : State) (hm : MemOk hd s.mem) :
    MemOk hd (rebindOwner o s).2.mem := by
  unfold rebindOwner; (repeat' split) <;> simp [hm]

@[simp] theorem restoreEntry_memOk {hd : List Byte} (h48 e : List Byte) (s : State) (hm : MemOk hd s.mem) :
    MemOk hd (restoreEntry h48 e s).2.mem := by
  unfold restoreEntry; dsimp only; (repeat' split) <;> simp [hm]

@[simp] theorem restoreAll_memOk {hd : List Byte} (h48 : List Byte) (l : List (List Byte)) (s : State) (hm : MemOk hd s.mem) :
    MemOk hd (restoreAll h48 l s).2.mem := by
  induction l generalizing s with
  | nil => simpa [restoreAll] using hm
  | cons e es ih => simp only [restoreAll]; exact ih _ (restoreEntry_memOk _ _ _ hm)

@[simp] theorem restoreOwners_memOk {hd : List Byte} (s : State) (hm : MemOk hd s.mem) :
    MemOk hd (restoreOwners s).2.mem := by
  unfold restoreOwners; dsimp only; (repeat' split) <;> simp [hm]

@[simp] theorem ownerCommand_memOk {hd : List Byte} (j : GrnJob) (s : State) (hm : MemOk hd s.mem) :
    MemOk hd (ownerCommand j s).2.mem := by
  unfold ownerCommand; dsimp only; (repeat' split) <;> simp [hm]

@[simp] theorem runJob_memOk {hd : List Byte} (j : GrnJob) (entropyOk : Bool) (s : State) (hm : MemOk hd s.mem) :
    MemOk hd (runJob j entropyOk s).2.mem := by
  unfold runJob; dsimp only
  have h1 : MemOk hd (if opDraws j.r.opc.toNat = true then { s with grn := { s.grn with entFail := !entropyOk } } else s).mem := by
    split <;> exact hm
  generalize (if opDraws j.r.opc.toNat = true then { s with grn := { s.grn with entFail := !entropyOk } } else s) = s1 at *
  (repeat' split) <;> first | exact h1 | (simp [h1]; done) | exact ownerCommand_memOk _ _ h1

@[simp] theorem runHead_memOk {hd : List Byte} (r : GrnReq) (entropyOk : Bool) (s : State) (hm : MemOk hd s.mem) :
    MemOk hd (runHead r entropyOk s).mem := by
  unfold runHead; dsimp only; (repeat' split) <;> simp [hm]

@[simp] theorem finishSnapshot_memOk {hd : List Byte} (s : State) (hm : MemOk hd s.mem) :
    MemOk hd (finishSnapshot s).mem := by
  unfold finishSnapshot; (repeat' split) <;> simp [hm]

@[simp] theorem eraseStaging_memOk {hd : List Byte} (s : State) (hm : MemOk hd s.mem) :
    MemOk hd (eraseStaging s).mem := by
  simp [eraseStaging, hm]

@[simp] theorem coldReset_memOk {hd : List Byte} (cause : BitVec 4) (s : State) (hm : MemOk hd s.mem) :
    MemOk hd (coldReset cause s).mem := by
  exact memOk_sram hm rfl

@[simp] theorem coldReset_fuses {fs : BitVec 4096} (cause : BitVec 4) (s : State) (hm : fusesWithin fs s.fuse.array) :
    fusesWithin fs (coldReset cause s).fuse.array := by
  unfold coldReset; simpa using hm

@[simp] theorem warmClear_memOk {hd : List Byte} (s : State) (hm : MemOk hd s.mem) : MemOk hd (warmClear s).mem := by
  exact memOk_sram hm rfl

set_option maxRecDepth 4000 in
@[simp] theorem warmReset_memOk {hd : List Byte} (s : State) (hm : MemOk hd s.mem) : MemOk hd (warmReset s).mem := by
  unfold warmReset; (repeat' split) <;> simp [hm]

@[simp] theorem endService_memOk {hd : List Byte} (s : State) (hm : MemOk hd s.mem) :
    MemOk hd (endService s).mem := by
  simp [endService, hm]

@[simp] theorem enterBackup_memOk {hd : List Byte} (s : State) (hm : MemOk hd s.mem) :
    MemOk hd (enterBackup s).mem := by
  simp [enterBackup, hm]

@[simp] theorem enterBackup_fuses {fs : BitVec 4096} (s : State) (hm : fusesWithin fs s.fuse.array) :
    fusesWithin fs (enterBackup s).fuse.array := by
  unfold enterBackup; simpa using hm

@[simp] theorem enterLockdown_memOk {hd : List Byte} (lock : BitVec 4) (s : State) (hm : MemOk hd s.mem) :
    MemOk hd (enterLockdown lock s).mem := by
  unfold enterLockdown; dsimp only; (repeat' split) <;> simp [hm]

@[simp] theorem lockdownEvent_memOk {hd : List Byte} (lock : BitVec 4) (s : State) (hm : MemOk hd s.mem) :
    MemOk hd (lockdownEvent lock s).mem := by
  unfold lockdownEvent; (repeat' split) <;> simp [hm]

set_option maxRecDepth 4000 in
@[simp] theorem sleepEntry_memOk {hd : List Byte} (s : State) (hm : MemOk hd s.mem) :
    MemOk hd (sleepEntry s).mem := by
  simp [sleepEntry, hm]

@[simp] theorem commonsDouble_memOk {hd : List Byte} (t : Thread) (s : State) (hm : MemOk hd s.mem) :
    MemOk hd (commonsDouble t s).mem := by
  simp [commonsDouble, hm]

@[simp] theorem scrub_memOk {hd : List Byte} (s : State) (hm : MemOk hd s.mem) : MemOk hd (scrub s).mem := by
  unfold scrub
  refine memOk_foldl _ _ _ (fun s x h => ?_) hm
  exact memOk_sram h (memErase_wf _ _ _ _ h.parts.1)

@[simp] theorem enclRestart_memOk {hd : List Byte} (cause : BitVec 2) (t : Thread) (s : State) (hm : MemOk hd s.mem) :
    MemOk hd (enclRestart cause t s).mem := by
  unfold enclRestart; dsimp only; (repeat' split) <;> simp [hm]

@[simp] theorem afterRestart_memOk {hd : List Byte} (s : State) (hm : MemOk hd s.mem) :
    MemOk hd (afterRestart s).mem := by
  unfold afterRestart; dsimp only
  have h1 : MemOk hd (foldRetirements (List.foldl (fun s t => commonsDouble t s) { s with wld := { s.wld with cfHeld := [] } }
      s.wld.cfHeld)).mem := foldRetirements_memOk _ (memOk_foldl _ _ _ (fun _ _ h => commonsDouble_memOk _ _ h) hm)
  split
  · simpa using h1
  · exact h1

@[simp] theorem remeasureOp_memOk {hd : List Byte} (uncorrectable : Bool) (timeUs : Half) (s : State) (hm : MemOk hd s.mem) :
    MemOk hd (remeasureOp uncorrectable timeUs s).mem := by
  unfold remeasureOp; dsimp only; (repeat' split) <;> simp [hm]

@[simp] theorem doubleFault_memOk {hd : List Byte} (t : Thread) (s : State) (hm : MemOk hd s.mem) :
    MemOk hd (doubleFault t s).mem := by
  unfold doubleFault; (repeat' split) <;> simp [hm]

@[simp] theorem raiseExc_memOk {hd : List Byte} (t : Thread) (k : Exc) (epc : Word) (s : State) (hm : MemOk hd s.mem) :
    MemOk hd (raiseExc t k epc s).mem := by
  simp [raiseExc, hm]

@[simp] theorem raiseHere_memOk {hd : List Byte} (t : Thread) (k : Exc) (s : State) (hm : MemOk hd s.mem) :
    MemOk hd (raiseHere t k s).mem := by
  simp [raiseHere, hm]

@[simp] theorem raiseNext_memOk {hd : List Byte} (t : Thread) (k : Exc) (s : State) (hm : MemOk hd s.mem) :
    MemOk hd (raiseNext t k s).mem := by
  simp [raiseNext, hm]

@[simp] theorem raiseTile_memOk {hd : List Byte} (t : Thread) (s : State) (hm : MemOk hd s.mem) :
    MemOk hd (raiseTile t s).mem := by
  simp [raiseTile, hm]

@[simp] theorem tileCompletionOp_memOk {hd : List Byte} (s : State) (hm : MemOk hd s.mem) :
    MemOk hd (tileCompletionOp s).mem := by
  unfold tileCompletionOp; (repeat' split) <;> simp [hm]

@[simp] theorem stageOpenOp_memOk {hd : List Byte} (src : BitVec 3) (slot : Option (Fin 256)) (s : State) (hm : MemOk hd s.mem) :
    MemOk hd (stageOpenOp src slot s).2.mem := by
  simp [stageOpenOp, hm]

@[simp] theorem stageByte_memOk {hd : List Byte} (s : State) (off : ℕ) (b : Byte) (hm : MemOk hd s.mem) :
    MemOk hd (stageByte s off b).mem := by
  simp [stageByte, hm]

@[simp] theorem stageWriteOp_memOk {hd : List Byte} (off : ℕ) (bs : List Byte) (s : State) (hm : MemOk hd s.mem) :
    MemOk hd (stageWriteOp off bs s).2.mem := by
  unfold stageWriteOp; (repeat' split) <;> simp_all

@[simp] theorem stageActivateOp_memOk {hd : List Byte} (slot : Option (Fin 256)) (s : State) (hm : MemOk hd s.mem) :
    MemOk hd (stageActivateOp slot s).2.mem := by
  simp [stageActivateOp, hm]

@[simp] theorem stageAbortOp_memOk {hd : List Byte} (s : State) (hm : MemOk hd s.mem) :
    MemOk hd (stageAbortOp s).2.mem := by
  simp [stageAbortOp, hm]

@[simp] theorem copyStaging_memOk {hd : List Byte} (slotB : Bool) (s : State) (hm : MemOk hd s.mem) :
    MemOk hd (copyStaging slotB s).mem := by
  simp +contextual [copyStaging, hm]

@[simp] theorem stageCopyOp_memOk {hd : List Byte} (uncorrectable : Bool) (s : State) (hm : MemOk hd s.mem) :
    MemOk hd (stageCopyOp uncorrectable s).mem := by
  unfold stageCopyOp; split
  · split
    · exact hm
    · dsimp only; split
      · simp [hm]
      · apply warmReset_memOk; simp; exact writeDirectory_memOk _ _ (copyStaging_memOk _ _ hm)
  · exact hm

@[simp] theorem dataInOp_memOk {hd : List Byte} (b : Bay) (slot : Fin 256) (data : List Byte) (s : State) (hm : MemOk hd s.mem) :
    MemOk hd (dataInOp b slot data s).mem := by
  unfold dataInOp; (repeat' split) <;> simp [hm]

@[simp] theorem stageWriteCmd_memOk {hd : List Byte} (b : Bay) (c : BayCmd) (s : State) (hm : MemOk hd s.mem) :
    MemOk hd (stageWriteCmd b c s).mem := by
  simp [stageWriteCmd, hm]

@[simp] theorem bar2Op_memOk {hd : List Byte} (b : Bay) (write : Bool) (attr : TlpAttr) (off len : ℕ) (data : List Byte) (s : State) (hm : MemOk hd s.mem) :
    MemOk hd (bar2Op b write attr off len data s).mem := by
  unfold bar2Op; (repeat' split) <;> simp [hm]

@[simp] theorem powerOnOp_memOk {hd : List Byte} (mv : Half) (svc5v : Bool) (s : State) (hm : MemOk hd s.mem) :
    MemOk hd (powerOnOp mv svc5v s).mem := by
  unfold powerOnOp; dsimp only; (repeat' split) <;> simp [hm]

@[simp] theorem powerOnOp_fuses {fs : BitVec 4096} (mv : Half) (svc5v : Bool) (s : State) (hm : fusesWithin fs s.fuse.array) :
    fusesWithin fs (powerOnOp mv svc5v s).fuse.array := by
  unfold powerOnOp; dsimp only; (repeat' split) <;> simp [hm]

@[simp] theorem losePower_memOk {hd : List Byte} (s : State) (hm : MemOk hd s.mem) : MemOk hd (losePower s).mem := by
  simp [losePower, hm]

@[simp] theorem losePower_fuses {fs : BitVec 4096} (s : State) (hm : fusesWithin fs s.fuse.array) :
    fusesWithin fs (losePower s).fuse.array := by
  simp [losePower, hm]

@[simp] theorem bkpReset_memOk {hd : List Byte} (cause : BitVec 2) (s : State) (hm : MemOk hd s.mem) :
    MemOk hd (bkpReset cause s).mem := by
  simp [bkpReset, hm]

@[simp] theorem bkpResetByte_memOk {hd : List Byte} (key : Byte) (s : State) (hm : MemOk hd s.mem) :
    MemOk hd (bkpResetByte key s).mem := by
  unfold bkpResetByte; (repeat' split) <;> simp [hm]

@[simp] theorem romBlow_fuses {fs : BitVec 4096} (bits : List ℕ) (s : State) (hm : fusesWithin fs s.fuse.array) :
    fusesWithin fs (romBlow bits s).fuse.array := by
  simp [romBlow, hm]

@[simp] theorem queueBlows_fuses {fs : BitVec 4096} (bits : List (BitVec 12)) (s : State) (hm : fusesWithin fs s.fuse.array) :
    fusesWithin fs (queueBlows bits s).fuse.array := by
  unfold queueBlows; simpa using hm

@[simp] theorem fuseGo_fuses {fs : BitVec 4096} (bitNo : BitVec 12) (s : State) (hm : fusesWithin fs s.fuse.array) :
    fusesWithin fs (fuseGo bitNo s).fuse.array := by
  simp [fuseGo, hm]

@[simp] theorem writeBootRecord_memOk {hd : List Byte} (slotB : Bool) (s : State) (hm : MemOk hd s.mem) :
    MemOk hd (writeBootRecord slotB s).mem := by
  simp [writeBootRecord, hm]

@[simp] theorem sampleFuses_fuses {fs : BitVec 4096} (agree : Bool) (s : State) (hm : fusesWithin fs s.fuse.array) :
    fusesWithin fs (sampleFuses agree s).fuse.array := by
  simp [sampleFuses, hm]

@[simp] theorem arrive_memOk {hd : List Byte} (m : BitVec 3) (s : State) (hm : MemOk hd s.mem) :
    MemOk hd (arrive m s).mem := by
  simp [arrive, hm]

@[simp] theorem startLockdown_memOk {hd : List Byte} (lock : BitVec 4) (s : State) (hm : MemOk hd s.mem) :
    MemOk hd (startLockdown lock s).mem := by
  simp [startLockdown, hm]

@[simp] theorem checkSlots_memOk {hd : List Byte} (sense : RomSense) (lock : BitVec 4) (s : State) (hm : MemOk hd s.mem) :
    MemOk hd (checkSlots sense lock s).mem := by
  unfold checkSlots; dsimp only; (repeat' split) <;> simp [hm]

@[simp] theorem romOp_memOk {hd : List Byte} (sense : RomSense) (s : State) (hm : MemOk hd s.mem) :
    MemOk hd (romOp sense s).mem := by
  unfold romOp; (repeat' split) <;> simp [hm]

@[simp] theorem romOp_fuses {fs : BitVec 4096} (sense : RomSense) (s : State) (hm : fusesWithin fs s.fuse.array) :
    fusesWithin fs (romOp sense s).fuse.array := by
  unfold romOp; dsimp only; (repeat' split) <;> simp [hm]

@[simp] theorem applyRetired_memOk {hd : List Byte} (s : State) (hm : MemOk hd s.mem) :
    MemOk hd (applyRetired s).mem := by
  simp +contextual [applyRetired, hm]

@[simp] theorem applySeed_memOk {hd : List Byte} (liveUs : Half) (s : State) (hm : MemOk hd s.mem) :
    MemOk hd (applySeed liveUs s).mem := by
  simp [applySeed, hm]

@[simp] theorem seedApplyOp_memOk {hd : List Byte} (sense : SeedSense) (s : State) (hm : MemOk hd s.mem) :
    MemOk hd (seedApplyOp sense s).mem := by
  unfold seedApplyOp; dsimp only; (repeat' split) <;> simp [hm]

@[simp] theorem raiseThermometer_fuses {fs : BitVec 4096} (lo now target : ℕ) (s : State) (hm : fusesWithin fs s.fuse.array) :
    fusesWithin fs (raiseThermometer lo now target s).fuse.array := by
  simp [raiseThermometer, hm]

@[simp] theorem commitVersions_fuses {fs : BitVec 4096} (s : State) (hm : fusesWithin fs s.fuse.array) :
    fusesWithin fs (commitVersions s).fuse.array := by
  unfold commitVersions; dsimp only; (repeat' split) <;> simp [hm]

@[simp] theorem commonsBindOp_memOk {hd : List Byte} (errA errB : Bool) (s : State) (hm : MemOk hd s.mem) :
    MemOk hd (commonsBindOp errA errB s).mem := by
  unfold commonsBindOp; split
  · exact hm
  · split
    · exact checkRetiredLimit_memOk _ (settleEscrow_memOk _ (by simpa using enterMode_memOk _ _ (by simpa using hm)))
    · split <;> simp [hm]

@[simp] theorem commonsBindOp_fuses {fs : BitVec 4096} (errA errB : Bool) (s : State) (hm : fusesWithin fs s.fuse.array) :
    fusesWithin fs (commonsBindOp errA errB s).fuse.array := by
  unfold commonsBindOp; (repeat' split) <;> simp [hm]

@[simp] theorem resetWrite_memOk {hd : List Byte} (kind : ℕ) (s : State) (hm : MemOk hd s.mem) :
    MemOk hd (resetWrite kind s).mem := by
  unfold resetWrite; (repeat' split) <;> simp [hm]

@[simp] theorem resetWrite_fuses {fs : BitVec 4096} (kind : ℕ) (s : State) (hm : fusesWithin fs s.fuse.array) :
    fusesWithin fs (resetWrite kind s).fuse.array := by
  simp [resetWrite, hm]

@[simp] theorem activateEncl_memOk {hd : List Byte} (slotB : Bool) (s : State) (hm : MemOk hd s.mem) :
    MemOk hd (activateEncl slotB s).mem := by
  unfold activateEncl; (repeat' split) <;> simp [hm]

@[simp] theorem activateEncl_fuses {fs : BitVec 4096} (slotB : Bool) (s : State) (hm : fusesWithin fs s.fuse.array) :
    fusesWithin fs (activateEncl slotB s).fuse.array := by
  simp [activateEncl, hm]

@[simp] theorem modeReq_memOk {hd : List Byte} (v : ℕ) (s : State) (hm : MemOk hd s.mem) :
    MemOk hd (modeReq v s).mem := by
  unfold modeReq; (repeat' split) <;> simp [hm]

@[simp] theorem wakeLocked_memOk {hd : List Byte} (s : State) (hm : MemOk hd s.mem) :
    MemOk hd (wakeLocked s).mem := by
  simp [wakeLocked, hm]

@[simp] theorem wakeRun_memOk {hd : List Byte} (s : State) (hm : MemOk hd s.mem) : MemOk hd (wakeRun s).mem := by
  simp [wakeRun, hm]

@[simp] theorem wakeOp_memOk {hd : List Byte} (latUs : BitVec 12) (s : State) (hm : MemOk hd s.mem) :
    MemOk hd (wakeOp latUs s).mem := by
  unfold wakeOp; (repeat' split) <;> simp [hm]

/-- A register's read and write effects keep a property of the state. -/
def Reg.Holds (I : State → Prop) (x : Reg) : Prop :=
  (∀ v s, I s → I (x.store v s)) ∧ (∀ s, I s → I (x.latch s)) ∧ ∀ s, I s → I (x.clear s)

theorem readReg_holds {I : State → Prop} {r : Req} {a : Word} {w : Width} {x : Reg} {s : State} (h : x.Holds I)
    (hv : ∀ k w s, I s → I (violate r k a w s)) (hs : I s) : I (readReg r a w x s).2 := by
  unfold readReg; (repeat' split)
  exacts [hv _ _ _ hs, h.2.2 _ (h.2.1 _ hs), h.2.1 _ hs]

theorem writeReg_holds {I : State → Prop} {r : Req} {a : Word} {w : Width} {v : Word} {x : Reg} {s : State}
    (h : x.Holds I) (hv : ∀ k w s, I s → I (violate r k a w s)) (hs : I s) : I (writeReg r a w v x s) := by
  unfold writeReg; (repeat' split)
  exacts [hv _ _ _ hs, h.1 _ _ hs, hs, h.1 _ _ hs]

/-- Register accesses keep the memories' form, the PUF helper data and the fuses already blown. -/
def Reg.Fixed (x : Reg) : Prop :=
  (∀ h, x.Holds fun s => MemOk h s.mem) ∧ ∀ f, x.Holds fun s => fusesWithin f s.fuse.array

theorem fixed_none {x : Reg} (h : (none : Option Reg) = some x) : x.Fixed := by cases h
theorem fixed_some {x y : Reg} (hy : y.Fixed) (h : some y = some x) : x.Fixed := by cases h; exact hy
theorem fixed_ite {c : Prop} [Decidable c] {a b : Option Reg} {x : Reg} (ha : a = some x → x.Fixed) (hb : b = some x → x.Fixed)
    (h : (if c then a else b) = some x) : x.Fixed := by split at h; exacts [ha h, hb h]
theorem fixed_dite {c : Prop} [Decidable c] {a : c → Option Reg} {b : ¬ c → Option Reg} {x : Reg}
    (ha : ∀ p, a p = some x → x.Fixed) (hb : ∀ p, b p = some x → x.Fixed)
    (h : (if p : c then a p else b p) = some x) : x.Fixed := by split at h; exacts [ha _ h, hb _ h]
theorem fixed_if {c : Prop} [Decidable c] {a b : Reg} (ha : a.Fixed) (hb : b.Fixed) : (if c then a else b).Fixed := by
  split <;> assumption

theorem timerReg_fixed (r : Req) (s : State) (i : Fin 64) (k : Nat) : (timerReg r s i k).Fixed := by
  unfold timerReg; (try dsimp only)
  (repeat' (first | with_reducible apply fixed_if | split)) <;> first
    | (simp +contextual [Reg.Fixed, Reg.Holds, keepLocked]; done)
    | (simp only [Reg.Fixed, Reg.Holds]; and_intros <;> intros <;> (try and_intros) <;> intros <;> (repeat' split) <;> simp_all [keepLocked]; done)
    | skip
theorem flowReg_fixed (r : Req) (a : Word) (s : State) (f k : Nat) : (flowReg r a s f k).Fixed := by
  unfold flowReg; (try dsimp only)
  (repeat' (first | with_reducible apply fixed_if | split)) <;> first
    | (simp +contextual [Reg.Fixed, Reg.Holds, keepLocked]; done)
    | (simp only [Reg.Fixed, Reg.Holds]; and_intros <;> intros <;> (try and_intros) <;> intros <;> (repeat' split) <;> simp_all [keepLocked]; done)
    | skip
theorem shedReg_fixed (r : Req) (s : State) (f k : Nat) : (shedReg r s f k).Fixed := by
  unfold shedReg; (try dsimp only)
  (repeat' (first | with_reducible apply fixed_if | split)) <;> first
    | (simp +contextual [Reg.Fixed, Reg.Holds, keepLocked]; done)
    | (simp only [Reg.Fixed, Reg.Holds]; and_intros <;> intros <;> (try and_intros) <;> intros <;> (repeat' split) <;> simp_all [keepLocked]; done)
    | skip
theorem notifyReg_fixed (r : Req) (s : State) (b : Bay) (both : Bool) : (notifyReg r s b both).Fixed := by
  unfold notifyReg; (try dsimp only)
  (repeat' (first | with_reducible apply fixed_if | split)) <;> first
    | (simp +contextual [Reg.Fixed, Reg.Holds, keepLocked]; done)
    | (simp only [Reg.Fixed, Reg.Holds]; and_intros <;> intros <;> (try and_intros) <;> intros <;> (repeat' split) <;> simp_all [keepLocked]; done)
    | skip
theorem vecReg_fixed (b : Bay) (s : State) (v : Fin 32) (k : Nat) : (vecReg b s v k).Fixed := by
  unfold vecReg; (try dsimp only)
  (repeat' (first | with_reducible apply fixed_if | split)) <;> first
    | (simp +contextual [Reg.Fixed, Reg.Holds, keepLocked]; done)
    | (simp only [Reg.Fixed, Reg.Holds]; and_intros <;> intros <;> (try and_intros) <;> intros <;> (repeat' split) <;> simp_all [keepLocked]; done)
    | skip
theorem powerReg_fixed (r : Req) (s : State) (off : Nat) {x : Reg} : powerReg r s off = some x → x.Fixed := by
  unfold powerReg; (try dsimp only)
  repeat' with_reducible (first | exact fixed_none | refine fixed_some ?_ | apply fixed_ite | (refine fixed_dite ?_ ?_ <;> intro _) | apply fixed_if | split)
  all_goals first
    | (simp +contextual [Reg.Fixed, Reg.Holds, keepLocked]; done)
    | (simp only [Reg.Fixed, Reg.Holds]; and_intros <;> intros <;> (try and_intros) <;> intros <;> (repeat' split) <;> simp_all [keepLocked]; done)
    | skip
theorem modeReg_fixed (r : Req) (s : State) (off : Nat) {x : Reg} : modeReg r s off = some x → x.Fixed := by
  unfold modeReg; (try dsimp only)
  repeat' with_reducible (first | exact fixed_none | refine fixed_some ?_ | apply fixed_ite | (refine fixed_dite ?_ ?_ <;> intro _) | apply fixed_if | split)
  all_goals first
    | (simp +contextual [Reg.Fixed, Reg.Holds, keepLocked]; done)
    | (simp only [Reg.Fixed, Reg.Holds]; and_intros <;> intros <;> (try and_intros) <;> intros <;> (repeat' split) <;> simp_all [keepLocked]; done)
    | skip
theorem bootReg_fixed (r : Req) (s : State) (off : Nat) {x : Reg} : bootReg r s off = some x → x.Fixed := by
  unfold bootReg; (try dsimp only)
  repeat' with_reducible (first | exact fixed_none | refine fixed_some ?_ | apply fixed_ite | (refine fixed_dite ?_ ?_ <;> intro _) | apply fixed_if | split)
  all_goals first
    | (simp +contextual [Reg.Fixed, Reg.Holds, keepLocked]; done)
    | (simp only [Reg.Fixed, Reg.Holds]; and_intros <;> intros <;> (try and_intros) <;> intros <;> (repeat' split) <;> simp_all [keepLocked]; done)
    | skip
theorem seedReg_fixed (r : Req) (s : State) (off : Nat) {x : Reg} : seedReg r s off = some x → x.Fixed := by
  unfold seedReg; (try dsimp only)
  repeat' with_reducible (first | exact fixed_none | refine fixed_some ?_ | apply fixed_ite | (refine fixed_dite ?_ ?_ <;> intro _) | apply fixed_if | split)
  all_goals first
    | (simp +contextual [Reg.Fixed, Reg.Holds, keepLocked]; done)
    | (simp only [Reg.Fixed, Reg.Holds]; and_intros <;> intros <;> (try and_intros) <;> intros <;> (repeat' split) <;> simp_all [keepLocked]; done)
    | skip
theorem clkReg_fixed (r : Req) (s : State) (off : Nat) {x : Reg} : clkReg r s off = some x → x.Fixed := by
  unfold clkReg; (try dsimp only)
  repeat' with_reducible (first | exact fixed_none | refine fixed_some ?_ | apply fixed_ite | (refine fixed_dite ?_ ?_ <;> intro _) | apply fixed_if | split)
  all_goals first
    | (simp +contextual [Reg.Fixed, Reg.Holds, keepLocked]; done)
    | (simp only [Reg.Fixed, Reg.Holds]; and_intros <;> intros <;> (try and_intros) <;> intros <;> (repeat' split) <;> simp_all [keepLocked]; done)
    | skip
theorem retireReg_fixed (r : Req) (s : State) (off : Nat) {x : Reg} : retireReg r s off = some x → x.Fixed := by
  unfold retireReg; (try dsimp only)
  repeat' with_reducible (first | exact fixed_none | refine fixed_some ?_ | apply fixed_ite | (refine fixed_dite ?_ ?_ <;> intro _) | apply fixed_if | split)
  all_goals first
    | (simp +contextual [Reg.Fixed, Reg.Holds, keepLocked]; done)
    | (simp only [Reg.Fixed, Reg.Holds]; and_intros <;> intros <;> (try and_intros) <;> intros <;> (repeat' split) <;> simp_all [keepLocked]; done)
    | skip
theorem sysReg_fixed (r : Req) (s : State) (off : Nat) {x : Reg} : sysReg r s off = some x → x.Fixed := by
  unfold sysReg; (try dsimp only)
  repeat' with_reducible (first | exact fixed_none | exact powerReg_fixed _ _ _ | exact modeReg_fixed _ _ _ | exact bootReg_fixed _ _ _ | exact seedReg_fixed _ _ _ | exact clkReg_fixed _ _ _ | exact retireReg_fixed _ _ _ | refine fixed_some ?_ | apply fixed_ite | (refine fixed_dite ?_ ?_ <;> intro _) | apply fixed_if | split)
  all_goals first
    | (simp +contextual [Reg.Fixed, Reg.Holds, keepLocked]; done)
    | (simp only [Reg.Fixed, Reg.Holds]; and_intros <;> intros <;> (try and_intros) <;> intros <;> (repeat' split) <;> simp_all [keepLocked]; done)
    | skip
theorem calReg_fixed (r : Req) (s : State) (off : Nat) {x : Reg} : calReg r s off = some x → x.Fixed := by
  unfold calReg; (try dsimp only)
  repeat' with_reducible (first | exact fixed_none | refine fixed_some ?_ | apply fixed_ite | (refine fixed_dite ?_ ?_ <;> intro _) | apply fixed_if | split)
  all_goals first
    | (simp +contextual [Reg.Fixed, Reg.Holds, keepLocked]; done)
    | (simp only [Reg.Fixed, Reg.Holds]; and_intros <;> intros <;> (try and_intros) <;> intros <;> (repeat' split) <;> simp_all [keepLocked]; done)
    | skip
theorem bkpReg_fixed (r : Req) (s : State) (off : Nat) {x : Reg} : bkpReg r s off = some x → x.Fixed := by
  unfold bkpReg; (try dsimp only)
  repeat' with_reducible (first | exact fixed_none | exact calReg_fixed _ _ _ | refine fixed_some ?_ | apply fixed_ite | (refine fixed_dite ?_ ?_ <;> intro _) | apply fixed_if | split)
  all_goals first
    | (simp +contextual [Reg.Fixed, Reg.Holds, keepLocked]; done)
    | (simp only [Reg.Fixed, Reg.Holds]; and_intros <;> intros <;> (try and_intros) <;> intros <;> (repeat' split) <;> simp_all [keepLocked]; done)
    | skip
theorem fuseReg_fixed (r : Req) (s : State) (off : Nat) {x : Reg} : fuseReg r s off = some x → x.Fixed := by
  unfold fuseReg; (try dsimp only)
  repeat' with_reducible (first | exact fixed_none | refine fixed_some ?_ | apply fixed_ite | (refine fixed_dite ?_ ?_ <;> intro _) | apply fixed_if | split)
  all_goals first
    | (simp +contextual [Reg.Fixed, Reg.Holds, keepLocked]; done)
    | (simp only [Reg.Fixed, Reg.Holds]; and_intros <;> intros <;> (try and_intros) <;> intros <;> (repeat' split) <;> simp_all [keepLocked]; done)
    | skip
theorem grnReg_fixed (r : Req) (s : State) (off : Nat) {x : Reg} : grnReg r s off = some x → x.Fixed := by
  unfold grnReg; (try dsimp only)
  repeat' with_reducible (first | exact fixed_none | refine fixed_some ?_ | apply fixed_ite | (refine fixed_dite ?_ ?_ <;> intro _) | apply fixed_if | split)
  all_goals first
    | (simp +contextual [Reg.Fixed, Reg.Holds, keepLocked]; done)
    | (simp only [Reg.Fixed, Reg.Holds]; and_intros <;> intros <;> (try and_intros) <;> intros <;> (repeat' split) <;> simp_all [keepLocked]; done)
    | skip
theorem ldgReg_fixed (r : Req) (s : State) (off : Nat) {x : Reg} : ldgReg r s off = some x → x.Fixed := by
  unfold ldgReg; (try dsimp only)
  repeat' with_reducible (first | exact fixed_none | refine fixed_some ?_ | apply fixed_ite | (refine fixed_dite ?_ ?_ <;> intro _) | apply fixed_if | split)
  all_goals first
    | (simp +contextual [Reg.Fixed, Reg.Holds, keepLocked]; done)
    | (simp only [Reg.Fixed, Reg.Holds]; and_intros <;> intros <;> (try and_intros) <;> intros <;> (repeat' split) <;> simp_all [keepLocked]; done)
    | skip
theorem hldReg_fixed (r : Req) (s : State) (off : Nat) {x : Reg} : hldReg r s off = some x → x.Fixed := by
  unfold hldReg; (try dsimp only)
  repeat' with_reducible (first | exact fixed_none | refine fixed_some ?_ | apply fixed_ite | (refine fixed_dite ?_ ?_ <;> intro _) | apply fixed_if | split)
  all_goals first
    | (simp +contextual [Reg.Fixed, Reg.Holds, keepLocked]; done)
    | (simp only [Reg.Fixed, Reg.Holds]; and_intros <;> intros <;> (try and_intros) <;> intros <;> (repeat' split) <;> simp_all [keepLocked]; done)
    | skip
theorem guardReg_fixed (r : Req) (s : State) (off : Nat) {x : Reg} : guardReg r s off = some x → x.Fixed := by
  unfold guardReg; (try dsimp only)
  repeat' with_reducible (first | exact fixed_none | refine fixed_some ?_ | apply fixed_ite | (refine fixed_dite ?_ ?_ <;> intro _) | apply fixed_if | split)
  all_goals first
    | (simp +contextual [Reg.Fixed, Reg.Holds, keepLocked]; done)
    | (simp only [Reg.Fixed, Reg.Holds]; and_intros <;> intros <;> (try and_intros) <;> intros <;> (repeat' split) <;> simp_all [keepLocked]; done)
    | skip
theorem worldReg_fixed (r : Req) (s : State) (off : Nat) {x : Reg} : worldReg r s off = some x → x.Fixed := by
  unfold worldReg; (try dsimp only)
  repeat' with_reducible (first | exact fixed_none | refine fixed_some ?_ | apply fixed_ite | (refine fixed_dite ?_ ?_ <;> intro _) | apply fixed_if | split)
  all_goals first
    | (simp +contextual [Reg.Fixed, Reg.Holds, keepLocked]; done)
    | (simp only [Reg.Fixed, Reg.Holds]; and_intros <;> intros <;> (try and_intros) <;> intros <;> (repeat' split) <;> simp_all [keepLocked]; done)
    | skip
theorem threadReg_fixed (r : Req) (s : State) (t : Thread) (k : Nat) {x : Reg} : threadReg r s t k = some x → x.Fixed := by
  unfold threadReg; (try dsimp only)
  repeat' with_reducible (first | exact fixed_none | refine fixed_some ?_ | apply fixed_ite | (refine fixed_dite ?_ ?_ <;> intro _) | apply fixed_if | split)
  all_goals first
    | (simp +contextual [Reg.Fixed, Reg.Holds, keepLocked]; done)
    | (simp only [Reg.Fixed, Reg.Holds]; and_intros <;> intros <;> (try and_intros) <;> intros <;> (repeat' split) <;> simp_all [keepLocked]; done)
    | skip
theorem coreReg_fixed (r : Req) (s : State) (c : Fin 4) (off : Nat) {x : Reg} : coreReg r s c off = some x → x.Fixed := by
  unfold coreReg; (try dsimp only)
  repeat' with_reducible (first | exact fixed_none | exact threadReg_fixed _ _ _ _ | refine fixed_some ?_ | apply fixed_ite | (refine fixed_dite ?_ ?_ <;> intro _) | apply fixed_if | split)
  all_goals first
    | (simp +contextual [Reg.Fixed, Reg.Holds, keepLocked]; done)
    | (simp only [Reg.Fixed, Reg.Holds]; and_intros <;> intros <;> (try and_intros) <;> intros <;> (repeat' split) <;> simp_all [keepLocked]; done)
    | skip
theorem tileReg_fixed (r : Req) (s : State) (off : Nat) {x : Reg} : tileReg r s off = some x → x.Fixed := by
  unfold tileReg; (try dsimp only)
  repeat' with_reducible (first | exact fixed_none | refine fixed_some ?_ | apply fixed_ite | (refine fixed_dite ?_ ?_ <;> intro _) | apply fixed_if | split)
  all_goals first
    | (simp +contextual [Reg.Fixed, Reg.Holds, keepLocked]; done)
    | (simp only [Reg.Fixed, Reg.Holds]; and_intros <;> intros <;> (try and_intros) <;> intros <;> (repeat' split) <;> simp_all [keepLocked]; done)
    | skip
theorem coreBlockReg_fixed (r : Req) (s : State) (off : Nat) {x : Reg} : coreBlockReg r s off = some x → x.Fixed := by
  unfold coreBlockReg; (try dsimp only)
  repeat' with_reducible (first | exact fixed_none | exact coreReg_fixed _ _ _ _ | exact tileReg_fixed _ _ _ | refine fixed_some ?_ | apply fixed_ite | (refine fixed_dite ?_ ?_ <;> intro _) | apply fixed_if | split)
  all_goals first
    | (simp +contextual [Reg.Fixed, Reg.Holds, keepLocked]; done)
    | (simp only [Reg.Fixed, Reg.Holds]; and_intros <;> intros <;> (try and_intros) <;> intros <;> (repeat' split) <;> simp_all [keepLocked]; done)
    | skip
theorem drillTopReg_fixed (r : Req) (s : State) (off : Nat) {x : Reg} : drillTopReg r s off = some x → x.Fixed := by
  unfold drillTopReg; (try dsimp only)
  repeat' with_reducible (first | exact fixed_none | refine fixed_some ?_ | apply fixed_ite | (refine fixed_dite ?_ ?_ <;> intro _) | apply fixed_if | split)
  all_goals first
    | (simp +contextual [Reg.Fixed, Reg.Holds, keepLocked]; done)
    | (simp only [Reg.Fixed, Reg.Holds]; and_intros <;> intros <;> (try and_intros) <;> intros <;> (repeat' split) <;> simp_all [keepLocked]; done)
    | skip
theorem booksReg_fixed (r : Req) (s : State) (off : Nat) {x : Reg} : booksReg r s off = some x → x.Fixed := by
  unfold booksReg; (try dsimp only)
  repeat' with_reducible (first | exact fixed_none | refine fixed_some ?_ | apply fixed_ite | (refine fixed_dite ?_ ?_ <;> intro _) | apply fixed_if | split)
  all_goals first
    | (simp +contextual [Reg.Fixed, Reg.Holds, keepLocked]; done)
    | (simp only [Reg.Fixed, Reg.Holds]; and_intros <;> intros <;> (try and_intros) <;> intros <;> (repeat' split) <;> simp_all [keepLocked]; done)
    | skip
theorem drillReg_fixed (r : Req) (s : State) (off : Nat) {x : Reg} : drillReg r s off = some x → x.Fixed := by
  unfold drillReg; (try dsimp only)
  repeat' with_reducible (first | exact fixed_none | exact timerReg_fixed _ _ _ _ | exact flowReg_fixed _ _ _ _ _ | exact shedReg_fixed _ _ _ _ | exact drillTopReg_fixed _ _ _ | exact booksReg_fixed _ _ _ | refine fixed_some ?_ | apply fixed_ite | (refine fixed_dite ?_ ?_ <;> intro _) | apply fixed_if | split)
  all_goals first
    | (simp +contextual [Reg.Fixed, Reg.Holds, keepLocked]; done)
    | (simp only [Reg.Fixed, Reg.Holds]; and_intros <;> intros <;> (try and_intros) <;> intros <;> (repeat' split) <;> simp_all [keepLocked]; done)
    | skip
theorem bayReg_fixed (r : Req) (s : State) (b : Bay) (off : Nat) {x : Reg} : bayReg r s b off = some x → x.Fixed := by
  unfold bayReg; (try dsimp only)
  repeat' with_reducible (first | exact fixed_none | exact notifyReg_fixed _ _ _ _ | refine fixed_some ?_ | apply fixed_ite | (refine fixed_dite ?_ ?_ <;> intro _) | apply fixed_if | split)
  all_goals first
    | (simp +contextual [Reg.Fixed, Reg.Holds, keepLocked]; done)
    | (simp only [Reg.Fixed, Reg.Holds]; and_intros <;> intros <;> (try and_intros) <;> intros <;> (repeat' split) <;> simp_all [keepLocked]; done)
    | skip
theorem bayBlockReg_fixed (r : Req) (s : State) (off : Nat) {x : Reg} : bayBlockReg r s off = some x → x.Fixed := by
  unfold bayBlockReg; (try dsimp only)
  repeat' with_reducible (first | exact fixed_none | exact bayReg_fixed _ _ _ _ | refine fixed_some ?_ | apply fixed_ite | (refine fixed_dite ?_ ?_ <;> intro _) | apply fixed_if | split)
  all_goals first
    | (simp +contextual [Reg.Fixed, Reg.Holds, keepLocked]; done)
    | (simp only [Reg.Fixed, Reg.Holds]; and_intros <;> intros <;> (try and_intros) <;> intros <;> (repeat' split) <;> simp_all [keepLocked]; done)
    | skip
theorem sqReg_fixed (b : Bay) (s : State) (q : Fin 16) (k : Nat) {x : Reg} : sqReg b s q k = some x → x.Fixed := by
  unfold sqReg; (try dsimp only)
  repeat' with_reducible (first | exact fixed_none | refine fixed_some ?_ | apply fixed_ite | (refine fixed_dite ?_ ?_ <;> intro _) | apply fixed_if | split)
  all_goals first
    | (simp +contextual [Reg.Fixed, Reg.Holds, keepLocked]; done)
    | (simp only [Reg.Fixed, Reg.Holds]; and_intros <;> intros <;> (try and_intros) <;> intros <;> (repeat' split) <;> simp_all [keepLocked]; done)
    | skip
theorem cqReg_fixed (b : Bay) (s : State) (q : Fin 16) (k : Nat) {x : Reg} : cqReg b s q k = some x → x.Fixed := by
  unfold cqReg; (try dsimp only)
  repeat' with_reducible (first | exact fixed_none | refine fixed_some ?_ | apply fixed_ite | (refine fixed_dite ?_ ?_ <;> intro _) | apply fixed_if | split)
  all_goals first
    | (simp +contextual [Reg.Fixed, Reg.Holds, keepLocked]; done)
    | (simp only [Reg.Fixed, Reg.Holds]; and_intros <;> intros <;> (try and_intros) <;> intros <;> (repeat' split) <;> simp_all [keepLocked]; done)
    | skip
theorem hbReg_fixed (b : Bay) (s : State) (off : Nat) {x : Reg} : hbReg b s off = some x → x.Fixed := by
  unfold hbReg; (try dsimp only)
  repeat' with_reducible (first | exact fixed_none | exact flowReg_fixed _ _ _ _ _ | exact vecReg_fixed _ _ _ _ | exact sqReg_fixed _ _ _ _ | exact cqReg_fixed _ _ _ _ | refine fixed_some ?_ | apply fixed_ite | (refine fixed_dite ?_ ?_ <;> intro _) | apply fixed_if | split)
  all_goals first
    | (simp +contextual [Reg.Fixed, Reg.Holds, keepLocked]; done)
    | (simp only [Reg.Fixed, Reg.Holds]; and_intros <;> intros <;> (try and_intros) <;> intros <;> (repeat' split) <;> simp_all [keepLocked]; done)
    | skip
theorem regAt_fixed (r : Req) (s : State) (a : Nat) {x : Reg} : regAt r s a = some x → x.Fixed := by
  unfold regAt; (try dsimp only)
  repeat' with_reducible (first | exact fixed_none | exact sysReg_fixed _ _ _ | exact bkpReg_fixed _ _ _ | exact fuseReg_fixed _ _ _ | exact grnReg_fixed _ _ _ | exact ldgReg_fixed _ _ _ | exact hldReg_fixed _ _ _ | exact guardReg_fixed _ _ _ | exact worldReg_fixed _ _ _ | exact coreBlockReg_fixed _ _ _ | exact drillReg_fixed _ _ _ | exact bayBlockReg_fixed _ _ _ | refine fixed_some ?_ | apply fixed_ite | (refine fixed_dite ?_ ?_ <;> intro _) | apply fixed_if | split)
  all_goals first
    | (simp +contextual [Reg.Fixed, Reg.Holds, keepLocked]; done)
    | (simp only [Reg.Fixed, Reg.Holds]; and_intros <;> intros <;> (try and_intros) <;> intros <;> (repeat' split) <;> simp_all [keepLocked]; done)
    | skip

@[simp] theorem readBlock_memOk {hd : List Byte} (r : Req) (a : Word) (w : Width) (s : State) (hm : MemOk hd s.mem) :
    MemOk hd (readBlock r a w s).2.mem := by
  unfold readBlock; dsimp only; split
  · split <;> simp [hm]
  · split <;> simp [hm]
  · split
    · exact hm
    · rename_i h; exact readReg_holds ((regAt_fixed _ _ _ h).1 _) (fun _ _ _ h => by simpa using h) hm

@[simp] theorem readBlock_fuses {fs : BitVec 4096} (r : Req) (a : Word) (w : Width) (s : State) (hm : fusesWithin fs s.fuse.array) :
    fusesWithin fs (readBlock r a w s).2.fuse.array := by
  unfold readBlock; dsimp only; split
  · split <;> simp [hm]
  · split <;> simp [hm]
  · split
    · exact hm
    · rename_i h; exact readReg_holds ((regAt_fixed _ _ _ h).2 _) (fun _ _ _ h => by simpa using h) hm

@[simp] theorem writeBlock_memOk {hd : List Byte} (r : Req) (a : Word) (w : Width) (v : Word) (s : State) (hm : MemOk hd s.mem) :
    MemOk hd (writeBlock r a w v s).mem := by
  unfold writeBlock; dsimp only; split
  · simp [hm]
  · split <;> simp [hm]
  · split
    · exact hm
    · rename_i h; exact writeReg_holds ((regAt_fixed _ _ _ h).1 _) (fun _ _ _ h => by simpa using h) hm

@[simp] theorem writeBlock_fuses {fs : BitVec 4096} (r : Req) (a : Word) (w : Width) (v : Word) (s : State) (hm : fusesWithin fs s.fuse.array) :
    fusesWithin fs (writeBlock r a w v s).fuse.array := by
  unfold writeBlock; dsimp only; split
  · simp [hm]
  · split <;> simp [hm]
  · split
    · exact hm
    · rename_i h; exact writeReg_holds ((regAt_fixed _ _ _ h).2 _) (fun _ _ _ h => by simpa using h) hm

@[simp] theorem accessRead_memOk {hd : List Byte} (r : Req) (a : Word) (w : Width) (s : State) (hm : MemOk hd s.mem) :
    MemOk hd (accessRead r a w s).2.mem := by
  unfold accessRead; dsimp only; (repeat' split) <;> simp [hm]

@[simp] theorem accessRead_fuses {fs : BitVec 4096} (r : Req) (a : Word) (w : Width) (s : State) (hm : fusesWithin fs s.fuse.array) :
    fusesWithin fs (accessRead r a w s).2.fuse.array := by
  unfold accessRead; dsimp only; (repeat' split) <;> simp [hm]

@[simp] theorem accessWrite_memOk {hd : List Byte} (r : Req) (a : Word) (w : Width) (v : Word) (s : State) (hm : MemOk hd s.mem) :
    MemOk hd (accessWrite r a w v s).mem := by
  unfold accessWrite; dsimp only; (repeat' split) <;> simp [hm]

@[simp] theorem accessWrite_fuses {fs : BitVec 4096} (r : Req) (a : Word) (w : Width) (v : Word) (s : State) (hm : fusesWithin fs s.fuse.array) :
    fusesWithin fs (accessWrite r a w v s).fuse.array := by
  unfold accessWrite; dsimp only; (repeat' split) <;> simp [hm]

@[simp] theorem hbRead_memOk {hd : List Byte} (b : Bay) (off : ℕ) (s : State) (hm : MemOk hd s.mem) :
    MemOk hd (hbRead b off s).2.mem := by
  unfold hbRead; dsimp only; split
  · split <;> simp [hm]
  · split
    · exact hm
    · rename_i h; exact readReg_holds ((hbReg_fixed _ _ _ h).1 _) (fun _ _ _ h => by simpa using h) hm

@[simp] theorem hbRead_fuses {fs : BitVec 4096} (b : Bay) (off : ℕ) (s : State) (hm : fusesWithin fs s.fuse.array) :
    fusesWithin fs (hbRead b off s).2.fuse.array := by
  unfold hbRead; dsimp only; split
  · split <;> simp [hm]
  · split
    · exact hm
    · rename_i h; exact readReg_holds ((hbReg_fixed _ _ _ h).2 _) (fun _ _ _ h => by simpa using h) hm

@[simp] theorem hbReadOp_memOk {hd : List Byte} (b : Bay) (off len : ℕ) (s : State) (hm : MemOk hd s.mem) :
    MemOk hd (hbReadOp b off len s).2.mem := by
  unfold hbReadOp; dsimp only; (repeat' split) <;> simp [hm]

@[simp] theorem hbReadOp_fuses {fs : BitVec 4096} (b : Bay) (off len : ℕ) (s : State) (hm : fusesWithin fs s.fuse.array) :
    fusesWithin fs (hbReadOp b off len s).2.fuse.array := by
  unfold hbReadOp; dsimp only; (repeat' split) <;> simp [hm]

@[simp] theorem hostRead_memOk {hd : List Byte} (b : Bay) (config : Bool) (attr : TlpAttr) (off len : ℕ) (s : State) (hm : MemOk hd s.mem) :
    MemOk hd (hostRead b config attr off len s).mem := by
  unfold hostRead; (repeat' split) <;> simp [hm]

@[simp] theorem hostRead_fuses {fs : BitVec 4096} (b : Bay) (config : Bool) (attr : TlpAttr) (off len : ℕ) (s : State) (hm : fusesWithin fs s.fuse.array) :
    fusesWithin fs (hostRead b config attr off len s).fuse.array := by
  unfold hostRead; (repeat' split) <;> simp [hm]

@[simp] theorem hostWrite_memOk {hd : List Byte} (b : Bay) (a : Word) (w : Width) (v : Word) (s : State) (hm : MemOk hd s.mem) :
    MemOk hd (hostWrite b a w v s).mem := by
  unfold hostWrite; dsimp only
  split
  · exact hm
  split
  · split <;> simp [hm]
  split
  · simp [hm]
  split
  · simp [hm]
  have hq : MemOk hd (if 0x1000 ≤ a.toNat ∧ a.toNat < 0x1080 then s else qPass (98 + b.val) s).mem := by split <;> simp [hm]
  split
  · simpa using hq
  · split
    · exact hq
    · rename_i h; exact writeReg_holds ((hbReg_fixed _ _ _ h).1 _) (fun _ _ _ h => by simpa using h) hq

@[simp] theorem hostWrite_fuses {fs : BitVec 4096} (b : Bay) (a : Word) (w : Width) (v : Word) (s : State) (hm : fusesWithin fs s.fuse.array) :
    fusesWithin fs (hostWrite b a w v s).fuse.array := by
  unfold hostWrite; dsimp only
  split
  · exact hm
  split
  · split <;> simp [hm]
  split
  · simp [hm]
  split
  · simp [hm]
  have hq : fusesWithin fs (if 0x1000 ≤ a.toNat ∧ a.toNat < 0x1080 then s else qPass (98 + b.val) s).fuse.array := by split <;> simp [hm]
  split
  · simpa using hq
  · split
    · exact hq
    · rename_i h; exact writeReg_holds ((hbReg_fixed _ _ _ h).2 _) (fun _ _ _ h => by simpa using h) hq

@[simp] theorem registerWriteOp_memOk {hd : List Byte} (r : Req) (a : Word) (w : Width) (v : Word) (s : State) (hm : MemOk hd s.mem) :
    MemOk hd (registerWriteOp r a w v s).mem := by
  unfold registerWriteOp; split
  · exact hm
  · split
    · exact hostWrite_memOk _ _ _ _ _ hm
    · split
      · exact accessWrite_memOk _ _ _ _ _ hm
      · exact hm

@[simp] theorem registerWriteOp_fuses {fs : BitVec 4096} (r : Req) (a : Word) (w : Width) (v : Word) (s : State) (hm : fusesWithin fs s.fuse.array) :
    fusesWithin fs (registerWriteOp r a w v s).fuse.array := by
  unfold registerWriteOp; split
  · exact hm
  · split
    · exact hostWrite_fuses _ _ _ _ _ hm
    · split
      · exact accessWrite_fuses _ _ _ _ _ hm
      · exact hm

@[simp] theorem declareOverlap_memOk {hd : List Byte} (n : Chan) (s : State) (hm : MemOk hd s.mem) :
    MemOk hd (declareOverlap n s).mem := by
  simp [declareOverlap, hm]

@[simp] theorem takeChar_memOk {hd : List Byte} (n : Chan) (x : RxChar) (s : State) (hm : MemOk hd s.mem) :
    MemOk hd (takeChar n x s).mem := by
  unfold takeChar; dsimp only; (repeat' split) <;> simp [hm]

@[simp] theorem noteErrors_memOk {hd : List Byte} (n : Chan) (x : RxChar) (s : State) (hm : MemOk hd s.mem) :
    MemOk hd (noteErrors n x s).mem := by
  unfold noteErrors; (repeat' split) <;> simp [hm]

@[simp] theorem judgeChar_memOk {hd : List Byte} (n : Chan) (x : RxChar) (exceeds : Bool) (s : State) (hm : MemOk hd s.mem) :
    MemOk hd (judgeChar n x exceeds s).mem := by
  unfold judgeChar; (repeat' split) <;> simp [hm]

@[simp] theorem acceptChar_memOk {hd : List Byte} (n : Chan) (x : RxChar) (startAmp peakAmp : Byte) (edge : Bool) (s : State) (hm : MemOk hd s.mem) :
    MemOk hd (acceptChar n x startAmp peakAmp edge s).mem := by
  simp [acceptChar, hm]

@[simp] theorem breakFrame_memOk {hd : List Byte} (n : Chan) (s : State) (hm : MemOk hd s.mem) :
    MemOk hd (breakFrame n s).mem := by
  unfold breakFrame; dsimp only; (repeat' split) <;> simp [hm]

@[simp] theorem filterChar_memOk {hd : List Byte} (n : Chan) (x : RxChar) (startAmp peakAmp : Byte) (edge : Bool) (s : State) (hm : MemOk hd s.mem) :
    MemOk hd (filterChar n x startAmp peakAmp edge s).mem := by
  unfold filterChar; dsimp only; (repeat' split) <;> simp [hm]

@[simp] theorem characterReceiveOp_memOk {hd : List Byte} (n : Chan) (samples : List Samples) (startAmp peakAmp : Byte) (edge : Bool) (s : State) (hm : MemOk hd s.mem) :
    MemOk hd (characterReceiveOp n samples startAmp peakAmp edge s).mem := by
  unfold characterReceiveOp; dsimp only; (repeat' split) <;> simp [hm]

@[simp] theorem receiveWords_memOk {hd : List Byte} (n : Chan) (words : List Word) (s : State) (hm : MemOk hd s.mem) :
    MemOk hd (receiveWords n words s).mem := by
  simp [receiveWords, hm]

@[simp] theorem slaveFrame_memOk {hd : List Byte} (n : Chan) (s : State) (hm : MemOk hd s.mem) :
    MemOk hd (slaveFrame n s).mem := by
  unfold slaveFrame; dsimp only; (repeat' split) <;> simp [hm]

@[simp] theorem releaseFrame_memOk {hd : List Byte} (n : Chan) (partialBits : ℕ) (s : State) (hm : MemOk hd s.mem) :
    MemOk hd (releaseFrame n partialBits s).mem := by
  unfold releaseFrame; dsimp only; (repeat' split) <;> simp [hm]

@[simp] theorem retiOp_memOk {hd : List Byte} (t : Thread) (s : State) (hm : MemOk hd s.mem) :
    MemOk hd (retiOp t s).mem := by
  simp [retiOp, hm]

@[simp] theorem brkOp_memOk {hd : List Byte} (t : Thread) (s : State) (hm : MemOk hd s.mem) :
    MemOk hd (brkOp t s).mem := by
  simp [brkOp, hm]

@[simp] theorem stileOp_memOk {hd : List Byte} (t : Thread) (service : Half) (s : State) (hm : MemOk hd s.mem) :
    MemOk hd (stileOp t service s).mem := by
  simp [stileOp, hm]

@[simp] theorem leaveOp_memOk {hd : List Byte} (t : Thread) (s : State) (hm : MemOk hd s.mem) :
    MemOk hd (leaveOp t s).mem := by
  simp [leaveOp, hm]

@[simp] theorem tdoneOp_memOk {hd : List Byte} (t : Thread) (status : Byte) (s : State) (hm : MemOk hd s.mem) :
    MemOk hd (tdoneOp t status s).mem := by
  simp [tdoneOp, hm]

@[simp] theorem loadMiss_memOk {hd : List Byte} (t : Thread) (rd : Gpr) (a : Word) (w : Width) (ext : Word → Word) (s : State) (hm : MemOk hd s.mem) :
    MemOk hd (loadMiss t rd a w ext s).mem := by
  unfold loadMiss awaited; dsimp only; (repeat' split) <;> simp [hm]

@[simp] theorem loadMiss_fuses {fs : BitVec 4096} (t : Thread) (rd : Gpr) (a : Word) (w : Width) (ext : Word → Word) (s : State) (hm : fusesWithin fs s.fuse.array) :
    fusesWithin fs (loadMiss t rd a w ext s).fuse.array := by
  unfold loadMiss awaited; dsimp only; (repeat' split) <;> simp [hm]

@[simp] theorem loadOp_memOk {hd : List Byte} (t : Thread) (rd rs1 : Gpr) (imm : Half) (w : Width) (ext : Word → Word) (s : State) (hm : MemOk hd s.mem) :
    MemOk hd (loadOp t rd rs1 imm w ext s).mem := by
  unfold loadOp; dsimp only; (repeat' split) <;> simp [hm]

@[simp] theorem loadOp_fuses {fs : BitVec 4096} (t : Thread) (rd rs1 : Gpr) (imm : Half) (w : Width) (ext : Word → Word) (s : State) (hm : fusesWithin fs s.fuse.array) :
    fusesWithin fs (loadOp t rd rs1 imm w ext s).fuse.array := by
  unfold loadOp; dsimp only; (repeat' split) <;> simp [hm]

@[simp] theorem storeOp_memOk {hd : List Byte} (t : Thread) (rs2 rs1 : Gpr) (imm : Half) (w : Width) (s : State) (hm : MemOk hd s.mem) :
    MemOk hd (storeOp t rs2 rs1 imm w s).mem := by
  simp [storeOp, hm]

@[simp] theorem storeOp_fuses {fs : BitVec 4096} (t : Thread) (rs2 rs1 : Gpr) (imm : Half) (w : Width) (s : State) (hm : fusesWithin fs s.fuse.array) :
    fusesWithin fs (storeOp t rs2 rs1 imm w s).fuse.array := by
  simp [storeOp, hm]

@[simp] theorem amoAccess_memOk {hd : List Byte} (t : Thread) (a : Word) (new : Word → Word) (s : State) (hm : MemOk hd s.mem) :
    MemOk hd (amoAccess t a new s).2.mem := by
  unfold amoAccess; dsimp only; (repeat' split) <;> simp [hm]

@[simp] theorem amoOp_memOk {hd : List Byte} (t : Thread) (rd rs1 : Gpr) (new : Word → Word) (s : State) (hm : MemOk hd s.mem) :
    MemOk hd (amoOp t rd rs1 new s).mem := by
  unfold amoOp awaited; dsimp only; split
  · simp [hm]
  · split
    · simp [hm]
    · simp only [setThr_same, setGpr_same]; exact amoAccess_memOk _ _ _ _ (by simpa using hm)

@[simp] theorem readChunks_memOk {hd : List Byte} (t : Thread) (k : ℕ) (x : Word) (m : ℕ) (s : State) (hm : MemOk hd s.mem) :
    MemOk hd (readChunks t k x m s).2.mem := by
  induction k generalizing x m s with
  | zero => exact hm
  | succ k ih =>
    simp only [readChunks]; split
    · exact hm
    · exact ih _ _ _ (accessRead_memOk _ _ _ _ hm)

@[simp] theorem readChunks_fuses {fs : BitVec 4096} (t : Thread) (k : ℕ) (x : Word) (m : ℕ) (s : State) (hm : fusesWithin fs s.fuse.array) :
    fusesWithin fs (readChunks t k x m s).2.fuse.array := by
  induction k generalizing x m s with
  | zero => exact hm
  | succ k ih =>
    simp only [readChunks]; split
    · exact hm
    · exact ih _ _ _ (accessRead_fuses _ _ _ _ hm)

@[simp] theorem writeChunks_memOk {hd : List Byte} (t : Thread) (k : ℕ) (x : Word) (l : List Byte) (s : State) (hm : MemOk hd s.mem) :
    MemOk hd (writeChunks t k x l s).mem := by
  induction k generalizing x l s with
  | zero => exact hm
  | succ k ih =>
    simp only [writeChunks]; split
    · exact hm
    · exact ih _ _ _ (accessWrite_memOk _ _ _ _ _ hm)

@[simp] theorem writeChunks_fuses {fs : BitVec 4096} (t : Thread) (k : ℕ) (x : Word) (l : List Byte) (s : State) (hm : fusesWithin fs s.fuse.array) :
    fusesWithin fs (writeChunks t k x l s).fuse.array := by
  induction k generalizing x l s with
  | zero => exact hm
  | succ k ih =>
    simp only [writeChunks]; split
    · exact hm
    · exact ih _ _ _ (accessWrite_fuses _ _ _ _ _ hm)

@[simp] theorem readElement_memOk {hd : List Byte} (t : Thread) (a : Word) (n : ℕ) (s : State) (hm : MemOk hd s.mem) :
    MemOk hd (readElement t a n s).2.mem := by
  simp [readElement, hm]

@[simp] theorem readElement_fuses {fs : BitVec 4096} (t : Thread) (a : Word) (n : ℕ) (s : State) (hm : fusesWithin fs s.fuse.array) :
    fusesWithin fs (readElement t a n s).2.fuse.array := by
  simp [readElement, hm]

@[simp] theorem writeElement_memOk {hd : List Byte} (t : Thread) (a : Word) (bs : List Byte) (s : State) (hm : MemOk hd s.mem) :
    MemOk hd (writeElement t a bs s).mem := by
  simp [writeElement, hm]

@[simp] theorem writeElement_fuses {fs : BitVec 4096} (t : Thread) (a : Word) (bs : List Byte) (s : State) (hm : fusesWithin fs s.fuse.array) :
    fusesWithin fs (writeElement t a bs s).fuse.array := by
  simp [writeElement, hm]

@[simp] theorem copyElement_memOk {hd : List Byte} (t : Thread) (dst src : Word) (n : ℕ) (s : State) (hm : MemOk hd s.mem) :
    MemOk hd (copyElement t dst src n s).mem := by
  simp [copyElement, hm]

@[simp] theorem copyElement_fuses {fs : BitVec 4096} (t : Thread) (dst src : Word) (n : ℕ) (s : State) (hm : fusesWithin fs s.fuse.array) :
    fusesWithin fs (copyElement t dst src n s).fuse.array := by
  simp [copyElement, hm]

@[simp] theorem bmovRun_memOk {hd : List Byte} (t : Thread) (rd rs1 rs2 : Gpr) (k : ℕ) (s : State) (hm : MemOk hd s.mem) :
    MemOk hd (bmovRun t rd rs1 rs2 k s).mem := by
  induction k generalizing s with
  | zero => exact hm
  | succ k ih =>
    have hc : ∀ d x n, MemOk hd (copyElement t d x n s).mem := fun d x n => copyElement_memOk _ _ _ _ _ hm
    simp only [bmovRun]; (repeat' split) <;> first | exact hm | (simp [hm]; done) | simp [hc] | (apply ih; simp [hc])

@[simp] theorem bmovRun_fuses {fs : BitVec 4096} (t : Thread) (rd rs1 rs2 : Gpr) (k : ℕ) (s : State) (hm : fusesWithin fs s.fuse.array) :
    fusesWithin fs (bmovRun t rd rs1 rs2 k s).fuse.array := by
  induction k generalizing s with
  | zero => exact hm
  | succ k ih =>
    have hc : ∀ d x n, fusesWithin fs (copyElement t d x n s).fuse.array := fun d x n => copyElement_fuses _ _ _ _ _ hm
    simp only [bmovRun]; (repeat' split) <;> first | exact hm | (simp [hm]; done) | simp [hc] | (apply ih; simp [hc])

@[simp] theorem illegalOp_memOk {hd : List Byte} (t : Thread) (word : Word) (s : State) (hm : MemOk hd s.mem) :
    MemOk hd (illegalOp t word s).mem := by
  simp [illegalOp, hm]

@[simp] theorem provOp_fuses {fs : BitVec 4096} (s : State) (hm : fusesWithin fs s.fuse.array) :
    fusesWithin fs (provOp s).fuse.array := by
  unfold provOp; dsimp only; (repeat' split) <;> simp [hm]

@[simp] theorem fieldOp_memOk {hd : List Byte} (errA errB : Bool) (s : State) (hm : MemOk hd s.mem) :
    MemOk hd (fieldOp errA errB s).mem := by
  unfold fieldOp; (repeat' split) <;> simp [hm]

@[simp] theorem fieldOp_fuses {fs : BitVec 4096} (errA errB : Bool) (s : State) (hm : fusesWithin fs s.fuse.array) :
    fusesWithin fs (fieldOp errA errB s).fuse.array := by
  unfold fieldOp; dsimp only; (repeat' split) <;> simp [hm]

@[simp] theorem slotByte_memOk {hd : List Byte} (s : State) (off : ℕ) (b : Byte) (hm : MemOk hd s.mem) :
    MemOk hd (slotByte s off b).mem := by
  simp [slotByte, hm]

@[simp] theorem slotaOp_memOk {hd : List Byte} (off len : ℕ) (s : State) (hm : MemOk hd s.mem) :
    MemOk hd (slotaOp off len s).mem := by
  unfold slotaOp; (repeat' split) <;> simp_all

@[simp] theorem hldGranary_memOk {hd : List Byte} (j : GrnJob) (entropyOk : Bool) (values : State → GrnResult → List ℕ) (s : State) (hm : MemOk hd s.mem) :
    MemOk hd (hldGranary j entropyOk values s).mem := by
  simp [hldGranary, hm]

@[simp] theorem vaultOp_memOk {hd : List Byte} (op : Byte) (owner : BitVec 6) (inlen auxlen : ℕ) (entropyOk : Bool) (s : State) (hm : MemOk hd s.mem) :
    MemOk hd (vaultOp op owner inlen auxlen entropyOk s).mem := by
  simp [vaultOp, hm]

@[simp] theorem certAccept_memOk {hd : List Byte} (c : List Byte) (s : State) (hm : MemOk hd s.mem) :
    MemOk hd (certAccept c s).mem := by
  unfold certAccept; dsimp only; (repeat' split) <;> simp [hm]

@[simp] theorem certOp_memOk {hd : List Byte} (s : State) (hm : MemOk hd s.mem) : MemOk hd (certOp s).mem := by
  simp [certOp, hm]

@[simp] theorem readWords_memOk {hd : List Byte} (r : Req) (k : ℕ) (x : Word) (s : State) (hm : MemOk hd s.mem) :
    MemOk hd (readWords r k x s).2.mem := by
  induction k generalizing x s with
  | zero => exact hm
  | succ k ih => simp only [readWords]; exact ih _ _ (accessRead_memOk _ _ _ _ hm)

@[simp] theorem readWords_fuses {fs : BitVec 4096} (r : Req) (k : ℕ) (x : Word) (s : State) (hm : fusesWithin fs s.fuse.array) :
    fusesWithin fs (readWords r k x s).2.fuse.array := by
  induction k generalizing x s with
  | zero => exact hm
  | succ k ih => simp only [readWords]; exact ih _ _ (accessRead_fuses _ _ _ _ hm)

@[simp] theorem rdOp_memOk {hd : List Byte} (addr : Word) (n : ℕ) (s : State) (hm : MemOk hd s.mem) :
    MemOk hd (rdOp addr n s).mem := by
  simp [rdOp, hm]

@[simp] theorem rdOp_fuses {fs : BitVec 4096} (addr : Word) (n : ℕ) (s : State) (hm : fusesWithin fs s.fuse.array) :
    fusesWithin fs (rdOp addr n s).fuse.array := by
  simp [rdOp, hm]

@[simp] theorem wrOp_memOk {hd : List Byte} (addr value : Word) (s : State) (hm : MemOk hd s.mem) :
    MemOk hd (wrOp addr value s).mem := by
  simp [wrOp, hm]

@[simp] theorem wrOp_fuses {fs : BitVec 4096} (addr value : Word) (s : State) (hm : fusesWithin fs s.fuse.array) :
    fusesWithin fs (wrOp addr value s).fuse.array := by
  simp [wrOp, hm]

@[simp] theorem hlWriteOp_memOk {hd : List Byte} (off len : ℕ) (s : State) (hm : MemOk hd s.mem) :
    MemOk hd (hlWriteOp off len s).mem := by
  unfold hlWriteOp; (repeat' split) <;> simp [hm, inHldSession]

@[simp] theorem tapOp_memOk {hd : List Byte} (op : BitVec 2) (data addr : Word) (s : State) (hm : MemOk hd s.mem) :
    MemOk hd (tapOp op data addr s).mem := by
  unfold tapOp; (repeat' split) <;> simp [hm]

@[simp] theorem tapOp_fuses {fs : BitVec 4096} (op : BitVec 2) (data addr : Word) (s : State) (hm : fusesWithin fs s.fuse.array) :
    fusesWithin fs (tapOp op data addr s).fuse.array := by
  unfold tapOp; (repeat' split) <;> simp [hm]

end Sys2Proof.Machine
end

