-- ==== Sys2Proof/Laws/Instr.lean ====
section
/-! SUPPORT. What the shared operations of the instructions leave: other threads, other cores, and the parts of the
thread that no register form reaches. -/

namespace Sys2Proof.Machine

/-! ### Only the thread -/

theorem only_refl (t : Thread) (s : State) : OnlyThread t s s :=
  ⟨rfl, rfl, fun _ _ => rfl, fun _ _ => rfl, rfl, fun _ _ => rfl, rfl⟩

theorem only_trans {t : Thread} {s s' s'' : State} (h : OnlyThread t s s') (h' : OnlyThread t s' s'') :
    OnlyThread t s s'' := by
  obtain ⟨a1, a2, a3, a4, a5, a6, a7⟩ := h
  obtain ⟨b1, b2, b3, b4, b5, b6, b7⟩ := h'
  refine ⟨?_, ?_, ?_, ?_, ?_, ?_, ?_⟩
  · rw [b1, a1]
  · rw [b2, a2]
  · intro u hu; rw [b3 u hu, a3 u hu]
  · intro u hu; rw [b4 u hu, a4 u hu]
  · rw [b5, a5]
  · intro u hu; rw [b6 u hu, a6 u hu]
  · rw [b7, a7]

theorem setThr_only (s : State) (t : Thread) (x : Thr) : OnlyThread t s (setThr s t x) :=
  ⟨rfl, rfl, fun _ h => thr_setThr_other s h x, fun _ _ => rfl, rfl, fun _ _ => rfl, rfl⟩

theorem issue_only (t : Thread) (s : State) : OnlyThread t s (issue t s) := by
  refine ⟨?_, ?_, fun u h => thr_issue_other s h, fun c h => ?_, ?_, fun c h => ?_, ?_⟩
  · exact eq_of_same (issue_same t s)
  · simp [issue, settleStart, settleDone, setCore, setThr]
  · simp [issue, settleStart, settleDone, core_setCore_other _ h]
  · simp [issue, settleStart, settleDone]
  · simp [issue, settleStart, settleDone, cache_fillLoad_other s h]
  · simpa [issue, settleStart, settleDone] using cache_fillLoad_own s t

theorem setGpr_only (t : Thread) (r : Gpr) (w : Word) (s : State) : OnlyThread t s (setGpr t r w s) := by
  unfold setGpr; split
  · exact only_refl t s
  · dsimp only; split <;> exact setThr_only ..

theorem setPc_only (t : Thread) (pc : Word) (s : State) : OnlyThread t s (setPc t pc s) := setThr_only ..
theorem advance_only (t : Thread) (s : State) : OnlyThread t s (advance t s) := setThr_only ..
theorem setFlags_only (t : Thread) (f : BitVec 4) (s : State) : OnlyThread t s (setFlags t f s) := setThr_only ..
theorem pushRet_only (t : Thread) (a : Word) (s : State) : OnlyThread t s (pushRet t a s) := setThr_only ..
theorem popRet_only (t : Thread) (s : State) : OnlyThread t s (popRet t s) := setThr_only ..

/-! ### Only the thread's progress -/

theorem progress_refl (t : Thread) (s : State) : OnlyProgress t s s := rfl

theorem progress_trans {t : Thread} {s s' s'' : State} (h : OnlyProgress t s s') (h' : OnlyProgress t s' s'') :
    OnlyProgress t s s'' := by
  unfold OnlyProgress at *; rw [h', h]

theorem setGpr_progress (t : Thread) (r : Gpr) (w : Word) (s : State) : OnlyProgress t s (setGpr t r w s) := by
  unfold setGpr; split
  · rfl
  · dsimp only; split <;> simp [OnlyProgress]

theorem setPc_progress (t : Thread) (pc : Word) (s : State) : OnlyProgress t s (setPc t pc s) := by
  simp [OnlyProgress, setPc]
theorem advance_progress (t : Thread) (s : State) : OnlyProgress t s (advance t s) := setPc_progress ..
theorem setFlags_progress (t : Thread) (f : BitVec 4) (s : State) : OnlyProgress t s (setFlags t f s) := by
  simp [OnlyProgress, setFlags]
theorem pushRet_progress (t : Thread) (a : Word) (s : State) : OnlyProgress t s (pushRet t a s) := by
  simp [OnlyProgress, pushRet]
theorem popRet_progress (t : Thread) (s : State) : OnlyProgress t s (popRet t s) := by
  simp [OnlyProgress, popRet]
theorem issue_progress (t : Thread) (s : State) : OnlyProgress t s (issue t s) := by
  simp [OnlyProgress, issue, settleStart, settleDone]

/-! ### Banks, the return stack and the latch -/

@[simp] theorem commons_issue (t : Thread) (s : State) : (thr (issue t s) t).commons = (thr s t).commons := by
  simp [issue, settleStart, settleDone]
@[simp] theorem encl_issue (t : Thread) (s : State) : (thr (issue t s) t).encl = (thr s t).encl := by
  simp [issue, settleStart, settleDone]
@[simp] theorem ret_issue (t : Thread) (s : State) : (thr (issue t s) t).ret = (thr s t).ret := by
  simp [issue, settleStart, settleDone]
@[simp] theorem latch_issue (t : Thread) (s : State) : (thr (issue t s) t).latch = (thr s t).latch := by
  simp [issue, settleStart, settleDone]
@[simp] theorem stile_issue (t : Thread) (s : State) : (thr (issue t s) t).stile = (thr s t).stile := by
  simp [issue, settleStart, settleDone]
@[simp] theorem onEnclBank_issue (t : Thread) (s : State) : onEnclBank (issue t s) t = onEnclBank s t := by
  simp only [issue, onEnclBank_setCore, settleStart, settleDone]
  rw [onEnclBank_setThr, onEnclBank_setThr] <;> simp [onEnclBank]

@[simp] theorem commons_setPc (t : Thread) (pc : Word) (s : State) : (thr (setPc t pc s) t).commons = (thr s t).commons := by
  simp [setPc]
@[simp] theorem encl_setPc (t : Thread) (pc : Word) (s : State) : (thr (setPc t pc s) t).encl = (thr s t).encl := by
  simp [setPc]
@[simp] theorem ret_setPc (t : Thread) (pc : Word) (s : State) : (thr (setPc t pc s) t).ret = (thr s t).ret := by
  simp [setPc]
@[simp] theorem latch_setPc (t : Thread) (pc : Word) (s : State) : (thr (setPc t pc s) t).latch = (thr s t).latch := by
  simp [setPc]

@[simp] theorem ret_setGpr (t : Thread) (r : Gpr) (w : Word) (s : State) : (thr (setGpr t r w s) t).ret = (thr s t).ret := by
  unfold setGpr; split
  · rfl
  · dsimp only; split <;> simp
@[simp] theorem latch_setGpr (t : Thread) (r : Gpr) (w : Word) (s : State) :
    (thr (setGpr t r w s) t).latch = (thr s t).latch := by
  unfold setGpr; split
  · rfl
  · dsimp only; split <;> simp

/-- A register write leaves the bank that is not in use. -/
theorem setGpr_otherBank (t : Thread) (r : Gpr) (w : Word) (s : State) :
    if onEnclBank s t then (thr (setGpr t r w s) t).commons = (thr s t).commons
    else (thr (setGpr t r w s) t).encl = (thr s t).encl := by
  unfold setGpr
  by_cases h : r = 0#5
  · simp [h]
  · by_cases b : onEnclBank s t <;> simp [h, b]

/-! ### Writing one register and going on -/

/-- What writeNext does after the issue: the register, the PC, and the frame of a register form. -/
theorem writeNext_frame (s : State) (t : Thread) (rd : Gpr) (w : Word) :
    gpr (writeNext t rd w (issue t s)) t rd = (if rd = 0#5 then 0#32 else w) ∧
    pcOf (writeNext t rd w (issue t s)) t = pcOf s t + 4#32 ∧ RegisterFrame t rd s (writeNext t rd w (issue t s)) := by
  refine ⟨?_, ?_, ?_, ?_, ⟨?_, ?_⟩, ?_⟩
  · simp [writeNext, gpr_setGpr_same]
  · simp [writeNext]
  · exact only_trans (issue_only t s) (only_trans (setGpr_only ..) (advance_only ..))
  · exact progress_trans (issue_progress t s) (progress_trans (setGpr_progress ..) (advance_progress ..))
  · intro r h; simp [writeNext, gpr_setGpr_other _ t t rd r w (Or.inr h)]
  · have := setGpr_otherBank t rd w (issue t s)
    simp only [onEnclBank_issue] at this
    split <;> simp_all [writeNext, advance]
  · simp [SameStatus, writeNext, advance]

/-- An instruction whose act is to write one register. -/
theorem writesRegister_of {c : Instr} {t : Thread} {rd : Gpr} {s : State} {v : Word} (f : State → Word)
    (h : canRun s t = true) (e : exec c s = onThread t (fun s => writeNext t rd (f s) s) s) (hv : f (issue t s) = v) :
    WritesRegister c t rd v s :=
  ⟨_, e.trans (onThread_runs h), hv ▸ writeNext_frame ..⟩

/-- An instruction whose act is to set FLAGS. -/
theorem writesFlags_of {c : Instr} {t : Thread} {s : State} {v : BitVec 4} (f : State → BitVec 4) (h : canRun s t = true)
    (e : exec c s = onThread t (fun s => advance t (setFlags t (f s) s)) s) (hv : f (issue t s) = v) :
    WritesFlags c t v s := by
  refine ⟨_, e.trans (onThread_runs h), ?_, ?_, ?_, ?_, ?_, ?_, ?_⟩
  · simp [advance, hv]
  · simp
  · exact only_trans (issue_only t s) (only_trans (setFlags_only ..) (advance_only ..))
  · exact progress_trans (issue_progress t s) (progress_trans (setFlags_progress ..) (advance_progress ..))
  · simp [SameRegs, advance, setFlags]
  · simp [advance, setFlags]
  · simp [advance, setFlags]

/-- A jump after the issue. -/
theorem setPc_goes (s : State) (t : Thread) (pc : Word) :
    pcOf (setPc t pc (issue t s)) t = pc &&& ~~~3#32 ∧ OnlyThread t s (setPc t pc (issue t s)) ∧
    OnlyProgress t s (setPc t pc (issue t s)) ∧ SameRegs t s (setPc t pc (issue t s)) ∧
    SameStatus t s (setPc t pc (issue t s)) := by
  refine ⟨pcOf_setPc .., only_trans (issue_only t s) (setPc_only ..), progress_trans (issue_progress t s) (setPc_progress ..), ?_, ?_⟩
  · simp [SameRegs]
  · simp [SameStatus]

/-- An instruction whose act is a jump. -/
theorem goesTo_of {c : Instr} {t : Thread} {s : State} {v : Word} (f : State → Word) (h : canRun s t = true)
    (e : exec c s = onThread t (fun s => setPc t (f s) s) s) (hv : f (issue t s) &&& ~~~3#32 = v) : GoesTo c t v s := by
  refine ⟨_, e.trans (onThread_runs h), ?_⟩
  rw [← hv]; exact setPc_goes ..

/-! ### Branches -/

/-- What is left of a branch when its prediction's traces are taken back. -/
theorem unbranched_only {t : Thread} {s s1 s2 : State} (h : OnlyThread t s s1) (hs : SameBut_draws_cores_cache s1 s2)
    (hc : s2.cores = { s1.cores with thr := s2.cores.thr, core := s2.cores.core }) (ht : ∀ u, u ≠ t → thr s2 u = thr s1 u)
    (hk : (∀ c, c ≠ coreOf t → core s2 c = core s1 c) ∧
      core s2 (coreOf t) = { core s1 (coreOf t) with perfMispred := (core s2 (coreOf t)).perfMispred })
    (hx : (∀ c, c ≠ coreOf t → cache s2 c = cache s1 c) ∧
      cache s2 (coreOf t) = { cache s1 (coreOf t) with btb := (cache s2 (coreOf t)).btb }) :
    OnlyThread t s (unbranched t s s2) := by
  obtain ⟨a1, a2, a3, a4, a5, a6, a7⟩ := h
  have e := eq_of_same hs
  refine ⟨?_, ?_, ?_, ?_, ?_, ?_, ?_⟩
  · rw [e, a1]; rfl
  · have : (unbranched t s s2).cores = { s2.cores with core := (unbranched t s s2).cores.core } := rfl
    rw [this, hc, a2]
  · intro u hu; simp [unbranched, ht u hu, a3 u hu]
  · intro c hu; simp [unbranched, core_setCore_other _ hu, hk.1 c hu, a4 c hu]
  · rw [show core (unbranched t s s2) (coreOf t) = { core s2 (coreOf t) with perfMispred := (core s (coreOf t)).perfMispred } by
      simp [unbranched], hk.2, a5]
  · intro c hu; simp [unbranched, cache_setCache_other _ hu, hx.1 c hu, a6 c hu]
  · rw [show cache (unbranched t s s2) (coreOf t) = { cache s2 (coreOf t) with btb := (cache s (coreOf t)).btb } by
      simp [unbranched], hx.2, a7]

theorem same_trans {s s1 s2 : State} (h : SameBut_draws_cores_cache s s1) (k : SameBut_cores s1 s2) :
    SameBut_draws_cores_cache s s2 := by
  unfold SameBut_draws_cores_cache SameBut_cores at *; simp_all
theorem setPc_keeps (t : Thread) (pc : Word) (s : State) : SameBut_cores s (setPc t pc s) := setThr_same ..

/-- What a branch or jump does after the issue. -/
theorem branchTo_goes (s : State) (t : Thread) (take : Bool) (target : Word) :
    let s' := branchTo t take target (issue t s)
    pcOf s' t = (if take then target &&& ~~~3#32 else pcOf s t + 4#32) ∧ OnlyThread t s (unbranched t s s') ∧
    OnlyProgress t s s' ∧ SameRegs t s s' ∧ SameStatus t s s' := by
  have hp : ∀ s1 pc, (∀ u, thr s1 u = thr (issue t s) u) → OnlyProgress t s (setPc t pc s1) ∧ SameRegs t s (setPc t pc s1) ∧
      SameStatus t s (setPc t pc s1) := by
    intro s1 pc h
    refine ⟨?_, ?_, ?_⟩
    · have := progress_trans (issue_progress t s) (setPc_progress t pc (issue t s))
      simp_all [OnlyProgress, setPc]
    · simp [SameRegs, setPc, h]
    · simp [SameStatus, setPc, h]
  have hk := resolveBranch_core t (pcOf (issue t s) t) target take (issue t s)
  have hx := resolveBranch_cache t (pcOf (issue t s) t) target take (issue t s)
  have hf := resolveBranch_same t (pcOf (issue t s) t) target take (issue t s)
  have ht := thr_resolveBranch t (pcOf (issue t s) t) target take (issue t s)
  have hc : ∀ x : Thr, (setThr (resolveBranch t (pcOf (issue t s) t) target take (issue t s)) t x).cores =
      { (issue t s).cores with
        thr := (setThr (resolveBranch t (pcOf (issue t s) t) target take (issue t s)) t x).cores.thr
        core := (setThr (resolveBranch t (pcOf (issue t s) t) target take (issue t s)) t x).cores.core } := by
    intro x; rw [setThr]; dsimp only; rw [resolveBranch_cores]
  unfold branchTo; dsimp only
  generalize hr : resolveBranch t (pcOf (issue t s) t) target take (issue t s) = r at *
  have key : ∀ pc, OnlyThread t s (unbranched t s (setPc t pc r)) := fun pc =>
    unbranched_only (issue_only t s) (same_trans hf (setPc_keeps ..)) (hc _)
      (fun u hu => by rw [thr_setPc_other _ hu, ht]) hk hx
  split
  · exact ⟨pcOf_setPc .., key _, (hp _ _ ht).1, (hp _ _ ht).2.1, (hp _ _ ht).2.2⟩
  · refine ⟨?_, key _, (hp _ _ ht).1, (hp _ _ ht).2.1, (hp _ _ ht).2.2⟩
    rw [pcOf_advance]; unfold pcOf; rw [ht]; exact congrArg (· + 4#32) (pcOf_issue s t t)

/-- An instruction whose act is a branch or jump. -/
theorem branches_of {c : Instr} {t : Thread} {s : State} {v : Word} (take : State → Bool) (f : State → Word)
    (h : canRun s t = true) (e : exec c s = onThread t (fun s => branchTo t (take s) (f s) s) s)
    (hv : (if take (issue t s) then f (issue t s) &&& ~~~3#32 else pcOf s t + 4#32) = v) : Branches c t v s := by
  refine ⟨_, e.trans (onThread_runs h), ?_⟩
  rw [← hv]; exact branchTo_goes ..

end Sys2Proof.Machine
end

