-- ==== Sys2Proof/Tests/Slice0.lean ====
section
/-! SUPPORT. Small tests: what well-formedness refuses, words from the tables, and for each statement a state and operands
that meet its hypotheses, clause by clause. -/

namespace Sys2Proof.Tests

open Sys2Proof Sys2Proof.Machine

set_option Elab.async false

/-- The module in Run: the ROM is locked, C0 is the Enclosure's, every thread runs. -/
def inRun : State :=
  { State.reset with
      sys := { mode := Mode.run }
      boot := { romLocked := true }
      drill := { State.reset.drill with enclThreads := 0x000F }
      cores := { thr := Vector.replicate 16 { run := .running }, core := Vector.replicate 4 {} } }

/-- One thread as given, the rest as in `inRun`. -/
def withThr (t : Thread) (x : Thr) : State := setThr inRun t x

/-- One register of a thread of `inRun`. -/
def withReg (t : Thread) (r : Gpr) (w : Word) (s : State) : State := setGpr t r w s

/-! ### Instructions -/

theorem witness_CoreWords : Instr.wf (.bmov 3 4 5 6) = true ∧ (encodeCore (.bmov 3 4 5 6)).isSome = true ∧
    Instr.wf (.bcc 0 14 0x200000) = true ∧ (encodeCore (.tmma 0 15 0 15 31)).isSome = true := by decide +kernel

theorem witness_Immediates : canRun inRun 0 = true ∧ canRun inRun 15 = true ∧ latched inRun 15 = none ∧
    (let s := withReg 0 1 0x201FFFFF inRun
     inSram (gpr s 0 1).toNat 1 = true ∧ guardLets s (.thread 0) permR 0x201FFFFF 1 = true) ∧
    (let s := withReg 0 1 0x20000003 inRun
     inSram (gpr s 0 1 + 1).toNat 4 = true ∧ (gpr s 0 1 + 1).toNat % 4 = 0 ∧
     guardLets s (.thread 0) permW 0x20000004 4 = true) := by decide +kernel

theorem witness_RegisterForms : canRun inRun 0 = true ∧ canRun inRun 15 = true ∧
    gpr (withReg 15 31 0 inRun) 15 31 = 0 ∧ gpr (withReg 15 31 0xFFFFFFFF inRun) 15 31 = 0xFFFFFFFF := by decide +kernel

/-- A core whose divider a thread holds. -/
def divides (u : Thread) : State := setCore inRun (coreOf u) { divider := some u }

theorem witness_MultiplyDivide : canRun inRun 4 = true ∧ (Machine.core inRun 1).divider = none ∧
    (Machine.core (divides 4) (coreOf 4)).divider = some 4 ∧ canRun (divides 5) 4 = true ∧ (5 : Thread) ≠ 4 ∧
    (Machine.core (divides 5) (coreOf 4)).divider = some 5 ∧
    gpr (withReg 4 2 0xFFFFFFFF (withReg 4 1 0x80000000 inRun)) 4 1 = 0x80000000 ∧
    gpr (withReg 4 2 0xFFFFFFFF (withReg 4 1 0x80000000 inRun)) 4 2 = 0xFFFFFFFF ∧ gpr inRun 4 2 = 0 := by decide +kernel

theorem witness_LoadsAndStores : canRun inRun 0 = true ∧ latched inRun 0 = none ∧
    (let s := withReg 0 1 0x201FFFFC inRun
     (effAddr s 0 1 0).toNat % 4 = 0 ∧ inSram (effAddr s 0 1 0).toNat 4 = true ∧
     guardLets s (.thread 0) permR (effAddr s 0 1 0).toNat 4 = true ∧ guardLets s (.thread 0) permW (effAddr s 0 1 0).toNat 4 = true) ∧
    (let s := withReg 0 1 0x08000000 inRun
     inFlash (effAddr s 0 1 1).toNat 1 = true ∧ guardLets s (.thread 0) permR (effAddr s 0 1 1).toNat 1 = true) ∧
    (let s := withThr 2 { run := .running, pc := 0x08001000, latch := some (0x08001000, 7) }
     canRun s 2 = true ∧ (thr s 2).latch = some (pcOf s 2, 7)) := by decide +kernel

theorem encl_passes {s : State} {r : Req} (h : isEncl s r = true) (p : BitVec 3) (a n : Nat) : guardLets s r p a n = true := by
  unfold guardLets; rw [h]; rfl

/-- A thread about to move `n` bytes from 0x20000000 to 0x20000040 by registers 1, 2 and 3. -/
def moving (n : Word) : State := withReg 0 3 n (withReg 0 2 0x20000000 (withReg 0 1 0x20000040 inRun))

theorem witness_AtomicsAndBlockMove :
    (canRun inRun 0 = true ∧ latched inRun 0 = none ∧ mapped 0x20000000 = true ∧ inSram 0x20000000 4 = true ∧
      guardLets inRun (.thread 0) (permR ||| permW) 0x20000000 4 = true ∧ mapped 0x57000000 = true ∧ inSram 0x57000000 4 = false ∧
      guardLets inRun (.thread 0) (permR ||| permW) 0x57000000 4 = true) ∧
    (bmovOk 1 2 3 = true ∧ (gpr (moving 0) 0 3).toNat = 0) ∧
    (canRun (moving 64) 0 = true ∧ inSram (gpr (moving 64) 0 1).toNat 64 = true ∧ inSram (gpr (moving 64) 0 2).toNat 64 = true ∧
      deliverable (moving 64) 0 = none ∧ (gpr (moving 64) 0 2).toNat + 64 ≤ (gpr (moving 64) 0 1).toNat) ∧
    (∀ k m, guardLets (moving 64) (.thread 0) permR (0x20000000 + k) m = true ∧
      guardLets (moving 64) (.thread 0) permW (0x20000040 + k) m = true) :=
  ⟨by decide +kernel, by decide +kernel, by decide +kernel, fun _ _ => ⟨encl_passes (by decide) .., encl_passes (by decide) ..⟩⟩

/-- A Commons thread inside STILE. -/
def inStile : State := withThr 4 { run := .running, stile := some 0x08002000 }

theorem witness_ExceptionsTaken : canRun inRun 0 = true ∧ (thr inRun 0).inInt = false ∧
    (let s := withReg 0 1 0x20000001 inRun
     (effAddr s 0 1 0).toNat % 2 ≠ 0 ∧ (effAddr s 0 1 1).toNat % 4 ≠ 0 ∧ latched s 0 = none) ∧
    inRun.hld.scope.getLsbD 3 = false ∧ decodeCore 0 0x04E43012 = none ∧ decodeCore 0 0 = none ∧
    mapped (pcOf (withThr 0 { run := .running, pc := 0x08001000 }) 0).toNat = true ∧
    guardLets (withThr 0 { run := .running, pc := 0x08001000 }) (.thread 0) permX 0x08001000 4 = true ∧
    inEncl inRun 0 = true ∧ (thr inRun 4).stile = none ∧ canRun inStile 4 = true ∧ (thr inStile 4).stile.isSome = true := by decide +kernel

/-- One tile instruction of thread 5 in TLQ. -/
def tileWaits : State :=
  { inRun with tile := { inRun.tile with tlq := [.op 5 false 0xFF none none (.tzero 3)] } }

theorem witness_OrderingForms : canRun inRun 5 = true ∧ geomWaits inRun = false ∧ (thr inRun 5).ext.now.imask = 0 ∧
    (let s := withThr 5 { run := .running, ext := { now := { imask := 1 } } }
     canRun s 5 = true ∧ deliverable s 5 = none ∧ (thr s 5).ext.now.imask ≠ 0) ∧
    tilePending inRun 5 = false ∧ canRun tileWaits 5 = true ∧ tilePending tileWaits 5 = true := by decide +kernel

theorem witness_ReturnAndTaskEnd :
    (let s := withThr 5 { run := .running, inInt := true }
     canRun s 5 = true ∧ (thr s 5).inInt = true) ∧
    (let s := withThr 5 { run := .running, task := some 1023 }
     canRun s 5 = true ∧ (thr s 5).inInt = false ∧ (thr s 5).stile = none ∧ (thr s 5).task = some 1023) ∧
    (thr inRun 5).task = none := by decide +kernel

theorem witness_StileAndLeave : canRun inRun 4 = true ∧ inEncl inRun 4 = false ∧ enclFree inRun = true ∧
    (canRun inStile 4 = true ∧ (thr inStile 4).stile = some 0x08002000 ∧ homeEncl inStile 4 = false ∧
      (thr inStile 4).debug = false ∧ (thr inStile 4).dfault = false) ∧
    (let s := { inRun with wld := { restart := true } }
     canRun s 4 = true ∧ inEncl s 4 = false ∧ enclFree s = false) := by decide +kernel

/-! ### The tile engine -/

/-- One entry at the head of TLQ. -/
def tlqHead (e : TileEntry) : State := { inRun with tile := { inRun.tile with tlq := [e] } }
/-- A tile of a given shape. -/
def shaped (t : Tile) (rows rb : BitVec 7) (fmt : BitVec 3) (s : State) : State :=
  setTile t { tile s t with geom := { (tile s t).geom with rows := rows, rbytes := rb, fmt := fmt } } s

theorem witness_TileIssueAndCompletion :
    canRun inRun 5 = true ∧ inRun.tile.tlq.length < 32 ∧
    32 ≤ ({ inRun with tile := { inRun.tile with tlq := .replicate 32 .zeroMarked } } : State).tile.tlq.length ∧
    passesGuard inRun (.thread 0) 0x57008100 = true ∧ tileRegOpen inRun .encl 15 = false ∧
    tileRegOpen { inRun with tile := { inRun.tile with enclTiles := 0x8000 } } .encl 15 = true ∧
    (let s : State := setThr { inRun with tile := { inRun.tile with tlc := [{ thread := 4 }] } } 4 { run := .running, syncing := true }
     mainOn s = true ∧ s.tile.tlc = [{ thread := 4 }] ∧ (thr s 4).syncing = true ∧ s.tile.tlq = []) ∧
    (let s := setFlow inRun 4094 { en := true, credits := 1 }
     targetOk s false (flowBay s none) 4094 = true ∧ (flow s 4094).ready = false ∧ freeDesc s 4094 = some 0 ∧
       0 < freeCredits (flow s 4094)) ∧
    (let s := setFlow inRun 4094 { en := true, credits := 0 }
     targetOk s false (flowBay s none) 4094 = true ∧ freeCredits (flow s 4094) = 0) ∧
    (let s := withThr 4 { run := .running, task := some 1023 }
     heldTask s 4 = some (1023, 0) ∧ (thr s 4).inInt = false) ∧
    ({ inRun with tile := { inRun.tile with change := some (1, false) } } : State).tile.tlq = [] ∧
    ({ tileWaits with tile := { tileWaits.tile with change := some (1, false) } } : State).tile.tlq ≠ [] := by decide +kernel

theorem witness_TzeroClears : mainOn inRun = true ∧ inRun.tile.tlc.length < 16 ∧
    tileOpen (tlqHead (.op 5 false 0xFF none none (.tzero 15))) false 15 = true ∧
    tileOpen (tlqHead (.op 5 true 0xFF none none (.tzero 15))) true 15 = false := by decide +kernel

/-- Three tiles for an int8 product of 64 terms and a 1 by 16 result. -/
def product : State := shaped 2 1 64 5 (shaped 1 16 64 0 (shaped 0 1 64 0 inRun))

theorem witness_TileExecution :
    (mainOn product = true ∧ product.tile.tlc.length < 16 ∧ tileOpen product false 2 = true ∧
      tmmaShapeOk (readTile product false 0) (readTile product false 1) (tile product 2) 1 = true ∧
      (tile product 2).geom.fmt = 5 ∧ (tile product 2).geom.rbytes.toNat ≤ 64 ∧
      tmmaShapeOk (readTile product false 0) (readTile product false 0) (tile product 2) 0 = false) ∧
    (let s := shaped 1 64 64 1 (shaped 0 64 64 1 inRun)
     telShapeOk (readTile s false 0) (readTile s false 1) (tile s 0) 4 = true ∧
       intFormat (tile s 0).geom.fmt.toNat = true ∧ telCode 4 ≤ 4 ∧
       telShapeOk (readTile s false 0) (readTile s false 1) (tile s 0) 7 = false) ∧
    (tlqHead (.geom 3 0x00404005)).tile.tlq = [.geom 3 0x00404005] := by decide +kernel

theorem witness_TileLoadsAndStores :
    let s := shaped 4 64 64 0 inRun
    mainOn s = true ∧ s.tile.tlc.length < 16 ∧ tileOpen s false 4 = true ∧ memCtlOk 64 = true ∧
    (tile s 4).geom.rbytes.toNat ≤ 64 ∧ intFormat (ctlFmt 64) = true ∧ intFormat (tile s 4).geom.fmt.toNat = true ∧
    (∀ r : Fin 64, rowAllowed s true 0xFF false (rowAddr 0x20000000 64 r.val) 64 = true ∧
      rowAllowed s true 0xFF true (rowAddr 0x20000000 64 r.val) 64 = true) := by decide +kernel

/-! ### The drill and the books -/

/-- A flow of the Commons with one free credit. -/
def oneCredit : Flow := { en := true, credits := 1 }
/-- Thread 5 names flow 4094 in register 1, which has a free credit or none. -/
def emitting (n : BitVec 11) : State := withReg 5 1 4094 (setFlow inRun 4094 { en := true, credits := n })
/-- Descriptor 991 in a state, on flow 4094. -/
def holding (st : DescState) : State :=
  withReg 5 1 991 (setDesc (setFlow inRun 4094 oneCredit) 991 { st := st, flow := 4094, entry := 511 })
/-- An entry that waits on flow 4094 under tag 7. -/
def entryWaits : State :=
  withReg 5 2 7 (withReg 5 1 4094 (setEntry (setFlow (holding .matching) 4094 { oneCredit with ready := true, timeoutUs := 1 }) 511
    { st := .waiting, flow := 4094, tag := some 7, desc := 991 }))

theorem witness_EmissionAndCancel :
    (let s := emitting 1
     canRun s 5 = true ∧ latched s 5 = none ∧ targetOk s (inEncl s 5) (flowBay s (taskFlow s 5)) ((gpr s 5 1).toNat % 4096) = true ∧
       (flow s 4094).ready = false ∧ drainRefuses s = false ∧ orderedParent s 5 = none ∧ freeDesc s 4094 = some 0 ∧
       0 < freeCredits (flow s 4094)) ∧
    freeCredits (flow (emitting 0) 4094) = 0 ∧
    (let s := holding .queued
     (991 : Fin 1024).val = (gpr s 5 1).toNat % 1024 ∧ (flow s (desc s 991).flow.toNat).world = inEncl s 5 ∧ (desc s 991).st = .queued ∧
       s.drill.descs.all (fun p => decide (p.2.life.parent ≠ some 991)) = true) ∧
    (desc (holding .releasing) 991).st = .releasing ∧
    (let s := entryWaits
     canRun s 5 = true ∧ (flow s 4094).world = inEncl s 5 ∧ (gpr s 5 2).setWidth 16 = 7#16 ∧
       oldestEntry s 4094 (fun m => decide (m.tag = some 7)) = some 511 ∧ oldestEntry s 4094 (fun m => decide (m.tag = some 8)) = none ∧
       (991 : Fin 1024) = (entry s 511).desc.toFin ∧ (desc s 991).entry.toNat = 511) := by decide +kernel

theorem witness_EventsAdmitted :
    (let s := setChev (setFlow inRun 4094 oneCredit) 31 [{ ch := 127, kind := 1, flow := 4094 }]
     mainOn s = true ∧ chevOf s 31 = [{ ch := 127, kind := 1, flow := 4094 }] ∧ (flow s 4094).ready = false ∧ freeDesc s 4094 = some 0) ∧
    (let s : State := { inRun with drill := { inRun.drill with hkq := [⟨.ign, 1⟩] } }
     freeDesc s 4095 = some 992 ∧ 0 < freeCredits (flow s 4095)) := by decide +kernel

/-- Every thread idle, one queued task of flow 4094. -/
def oneTask : State :=
  { setDesc (setFlow inRun 4094 oneCredit) 991 { st := .queued, flow := 4094 } with
      cores := { thr := Vector.replicate 16 {}, core := Vector.replicate 4 {} } }

theorem witness_DispatchAndRelease :
    (let s : State := { oneTask with drill := { oneTask.drill with reserve := vset oneTask.drill.reserve 15 4094, time := 8 } }
     mainOn s = true ∧ (∀ c, vget s.drill.ret c = []) ∧ reservedPick s = some (991, 15)) ∧
    (let s : State := { oneTask with drill := { oneTask.drill with disp := vset oneTask.drill.disp 3 [(15, 991)] } }
     (vget s.drill.disp (coreOf 15)).find? (fun p => decide (p.1 = 15)) = some (15, 991) ∧ (thr s 15).run = .idle ∧
       (thr s 15).inInt = false ∧ deliverable s 15 = none ∧ linesLoading s (homeEncl s 15) = false ∧ homeEncl s 15 = false ∧
       modeLets s 15 = true) ∧
    (let s := setDesc (holding .queued) 991 { st := .releasing, flow := 4094, life := { ended := true } }
     (∀ c, vget s.drill.ret c = []) ∧ releasable s 991 = true ∧ (flow s 4094).nextRelease = (desc s 991).order ∧
       (flow s 4094).skipped = [] ∧ (∀ n, (chan s n).flow ≠ 4094)) := by decide +kernel

/-- R258: a flow with no ready task left loses its turn; one with a ready task keeps it. -/
theorem test_turn_lost_without_a_ready_task :
    (let s : State := { oneTask with drill := { oneTask.drill with turns := .replicate 8 { flow := 4094, used := 1 } } }
     (vget (loseTurns s).drill.turns 0).used = 1 ∧ (vget (loseTurns s).drill.turns 1).used = 256) := by decide +kernel

/-- The drill's clock at a cycle. -/
def atTime (time : DWord) (s : State) : State := { s with drill := { s.drill with time := time } }

theorem witness_AgeingTimersAndDeadlines :
    (let s := holding .queued
     isReady s 991 = true ∧ s.drill.ageUs ≠ 0 ∧ (effLevel s (desc s 991)).toNat < 6 ∧
       s.drill.time.toNat ≤ readySince s (desc s 991) + ((desc s 991).life.boost + 1) * (250 * s.drill.ageUs.toNat) ∧
       isReady s 0 = false) ∧
    (let s := atTime (2 ^ 40) (holding .queued)
     isReady s 991 = true ∧ (effLevel s (desc s 991)).toNat < 6 ∧
       readySince s (desc s 991) + ((desc s 991).life.boost + 1) * (250 * s.drill.ageUs.toNat) < s.drill.time.toNat) ∧
    (let s := atTime 250 entryWaits
     (entry s 511).opened + 250 * (flow s (entry s 511).flow.toNat).timeoutUs.toNat ≤ s.drill.time.toNat) ∧
    entryWaits.drill.time.toNat < (entry entryWaits 511).opened + 250 * (flow entryWaits (entry entryWaits 511).flow.toNat).timeoutUs.toNat ∧
    ((entry entryWaits 511).st = .waiting ∧ (flow entryWaits (entry entryWaits 511).flow.toNat).timeoutUs ≠ 0) ∧
    (let s : State := { inRun with drill := { inRun.drill with timers := vset inRun.drill.timers 63 { period := 1 } } }
     passesGuard s (.thread 0) (timerBase 63) = true ∧ ownsTimer s (.thread 0) 63 = true ∧ (vget s.drill.timers 63).en = false ∧
       (vget s.drill.timers 63).period ≠ 0) ∧
    (let s := emitting 1
     let s : State := { s with drill := { s.drill with timers := vset s.drill.timers 0 { en := true, flow := 4094, period := 1 } } }
     mainOn s = true ∧ (vget s.drill.timers 0).en = true ∧ (timeLo s - (vget s.drill.timers 0).next).toNat < 2 ^ 31 ∧ (flow s 4094).en = true ∧ (flow s 4094).ready = false ∧
       freeDesc s 4094 = some 0 ∧ 0 < freeCredits (flow s 4094)) ∧
    (let s := setDesc (withThr 5 { run := .running, task := some 991 }) 991 { st := .dispatched, deadline := 1 }
     (thr s 5).task = some 991 ∧ (desc s 991).deadline ≠ 0 ∧ (thr s 5).dlineDone = false ∧
       2 ^ 31 ≤ (timeLo s - (desc s 991).deadline).toNat ∧ (timeLo (atTime 1 s) - (desc (atTime 1 s) 991).deadline).toNat < 2 ^ 31) ∧
    (let s : State := { inRun with drill := { inRun.drill with timers := vset inRun.drill.timers 0 { next := 1 } } }
     2 ^ 31 ≤ (timeLo s - (vget s.drill.timers 0).next).toNat) ∧
    (thr (withThr 5 { dlineDone := true }) 5).dlineDone = true := by decide +kernel

theorem witness_ObservationAndBooks :
    passesGuard inRun (.thread 0) 0x50000098 = true ∧ isEncl inRun (.thread 0) = true ∧ mainOn inRun = true ∧
    vget (atTime (250000 * 1000) inRun).drill.loadAt 0 + 250000 * inRun.drill.winMs.toNat ≤ (atTime (250000 * 1000) inRun).drill.time.toNat ∧
    inRun.drill.time.toNat - vget inRun.drill.loadAt 0 < 250000 * inRun.drill.winMs.toNat ∧ (4094 : BitVec 12) ≠ 4095 ∧ (flow (emitting 1) 4094).en = true ∧
    passesGuard inRun (.thread 0) 0x50060000 = true ∧ inRun.books.busy = false ∧
    (let s : State := { inRun with books := { busy := true } }
     s.books.busy = true ∧ s.books.imbal = 0) := by decide +kernel

/-! ### Cores, worlds and guards -/

/-- Thread 15 with every interrupt masked in, the lowest pending. -/
def interrupted : State :=
  withThr 15 { run := .idle, outstanding := some { pc := 0x08000100, rd := 3, old := 9, result := 0, latched := true },
               ext := { ipend := 1, ctl := { imask := 0x1F }, now := { imask := 0x1F } } }

theorem witness_InterruptsAndCoreEvents :
    (deliverable interrupted 15 = some 0 ∧ linesLoading interrupted (intEncl interrupted 15 0) = false ∧
      intEncl interrupted 15 0 = false ∧ (thr interrupted 15).run ≠ .running ∧ (thr interrupted 15).outstanding = some { pc := 0x08000100, rd := 3, old := 9, result := 0, latched := true }) ∧
    (let s := withThr 0 { run := .running, ext := { ipend := 8, ctl := { imask := 0x1F }, now := { imask := 0x1F } } }
     deliverable s 0 = some 3 ∧ linesLoading s (intEncl s 0 3) = false ∧ intEncl s 0 3 = true ∧ enclFree s = true ∧
       (thr s 0).run = .running ∧ (thr s 0).starting = false ∧ (thr s 0).outstanding = none) ∧
    (thr interrupted 15).outstanding.any (fun o => o.latched && o.fill.isSome) = false ∧
    (let s := withThr 15 { outstanding := some { pc := 0, rd := 31, old := 0, result := 1, latched := true, flash := true, fill := some ⟨false, 0⟩ } }
     (thr s 15).outstanding.any (fun o => o.latched && o.flash && o.fill.isSome) = true) ∧
    (Machine.core (divides 5) 1).divider = some 5 ∧ (thr (withThr 3 { ext := { tick := 1 } }) 3).ext.tick ≠ 0 ∧ (thr inRun 3).ext.tick = 0 ∧
    passesGuard inRun .encl 0x57000010 = true ∧ isCore inRun .encl = true ∧ homeEncl inRun (threadAt 0 3) = isEncl inRun .encl ∧
    homeEncl inRun (threadAt 3 3) ≠ isEncl inRun .encl ∧
    (let s := setCore { inRun with cores := { inRun.cores with thr := Vector.replicate 16 {} } } 3 { modeNext := some true }
     (Machine.core s 3).modeNext = some true ∧ ∀ t ∈ others 3, (thr s t).run = .idle ∧ (thr s t).inInt = false) := by decide +kernel

/-- R288: an interrupt that comes within the 12 cycles of a task start waits for the task's first instruction. -/
theorem test_interrupt_waits_for_a_start :
    (let s := withThr 0 { run := .running, starting := true, ext := { ipend := 8, ctl := { imask := 0x1F }, now := { imask := 0x1F } } }
     (thr (interruptOp 0 s) 0).inInt = false ∧ (thr (interruptOp 0 (issue 0 s)) 0).inInt = true) := by decide +kernel

theorem witness_VectorLinesAndFlash :
    passesGuard inRun .encl 0x57000008 = true ∧ isEncl inRun .encl = true ∧
    (let s : State := { inRun with cores := { inRun.cores with loadingE := true, loadingC := true, vbaseE := 0x08000000, vbaseC := 0x20000000 } }
     s.cores.loadingE = true ∧ s.cores.vbaseE ≠ 0 ∧ s.cores.loadingC = true ∧ s.cores.vbaseC ≠ 0) ∧
    mainOn inRun = true ∧ inFlash ((0x087FFFFF : Word).toNat / 32 * 32) 32 = true ∧ touchesBootRecord 0x087F7FFF 1 = false ∧
    touchesBootRecord 0x087F9000 1 = false ∧ enclRuns inRun = true ∧ inRun.boot.enclSlot = false ∧ inBank 3 0x087F7FFF 1 = true ∧ touchesPuf 0x087F7FFF 1 = false ∧ touchesPuf 0x087F9000 1 = false ∧
    touchesPuf 0x087F8FFF 1 = true := by decide +kernel

/-- A Commons thread about to reach a register of the Enclosure's, and SRAM. -/
def reaching (a : Word) : State := withReg 5 1 a inRun

theorem witness_GuardsAndWatchdog :
    passesGuard inRun .encl 0x56002000 = true ∧ isEncl inRun .encl = true ∧ inRun.guard.lock = false ∧
    ({ inRun with guard := { inRun.guard with lock := true } } : State).guard.lock = true ∧
    passesGuard inRun .encl 0x56002408 = true ∧ (0x00130000 : Word).toNat / 65536 % 32 < 20 ∧
    (let s := reaching 0x56000000
     canRun s 5 = true ∧ latched s 5 = none ∧ (effAddr s 5 1 0).toNat % 4 = 0 ∧ mapped (effAddr s 5 1 0).toNat = true ∧
       0x8000 ≤ (effAddr s 5 1 0).toNat ∧ guardLets s (.thread 5) permR (effAddr s 5 1 0).toNat 4 = false ∧
       guardLets s (.thread 5) permW (effAddr s 5 1 0).toNat 4 = false) ∧
    passesGuard inRun .encl 0x56003004 = true ∧ passesGuard inRun (.bay 3) 0x56003004 = true ∧ isEncl inRun (.bay 3) = false ∧
    (let s : State := { inRun with wld := { started := true } }
     watchdogRuns s = true ∧ s.wld.warned = false ∧ 8 * s.wld.elapsed < 7 * watchdogSpan s ∧
       (let u : State := { s with wld := { s.wld with elapsed := watchdogSpan s } }
        7 * watchdogSpan u ≤ 8 * u.wld.elapsed ∧ watchdogRuns u = true ∧ u.wld.warned = false) ∧ homeEncl s 3 = true ∧ homeEncl s 4 = false) := by decide +kernel

/-- The watchdog runs, and so many restarts lie within 600 s. -/
def guarded (k : Nat) : State := { inRun with wld := { started := true, times := .replicate k 0, elapsed := 250000000 } }
/-- A re-measurement runs after a restart, with the digest that flash gives. -/
def measuring : State :=
  let s : State := { inRun with wld := { restart := true }, boot := { romLocked := true, remBusy := true, measValid := true } }
  { s with boot := { s.boot with meas := remeasured s } }

theorem witness_RestartAndDoubleFaults :
    (let s := guarded 1
     watchdogRuns s = true ∧ watchdogSpan s ≤ s.wld.elapsed ∧ inRun.wld.elapsed < watchdogSpan inRun ∧ s.boot.remBusy = false ∧ s.boot.romLocked = true ∧ s.sys.mode ≠ Mode.lockdown ∧
       (recentRestarts s).length < 2) ∧
    2 ≤ (recentRestarts (guarded 2)).length ∧ watchdogRuns (guarded 2) = true ∧
    (let s := withThr 5 { run := .running, inInt := true, task := some 0 }
     canRun s 5 = true ∧ (thr s 5).inInt = true ∧ inEncl s 5 = false ∧ enclFree s = true) ∧
    (let s := withThr 1 { run := .running, inInt := true }
     canRun s 1 = true ∧ inEncl s 1 = true ∧ s.wld.restart = false ∧ s.boot.remBusy = false ∧ limpReason s 2 = false ∧
       s.boot.romLocked = true ∧ s.sys.mode ≠ Mode.lockdown ∧ (recentRestarts s).length < 2) := by decide +kernel

theorem witness_remeasurement : measuring.boot.remBusy = true ∧ mainOn measuring = true ∧ measuring.sys.mode ≠ Mode.lockdown ∧
    measuring.wld.restart = true ∧ homeEncl measuring 0 = true ∧ (∀ t ∈ measuring.wld.cfHeld, homeEncl measuring t = false) ∧
    remeasured measuring = measuring.boot.meas := by decide +kernel

/-- Thread 5 inside STILE with the service number and its first argument. -/
def calling (service a : Word) : State :=
  withThr 5 { run := .running, stile := some 0x08002000, encl := vset (vset (.replicate 32 0) 1 service) 5 a }

theorem witness_Services : serving (calling 0 0) 5 0 = true ∧ serving (calling 3 1) 5 3 = true ∧ serving (calling 4 0) 5 4 = true ∧
    serving (calling 6 0) 5 6 = true ∧
    (serving (calling 5 2) 5 5 = true ∧ stileReg (calling 5 2) 5 5 = 2) ∧
    (serving (calling 7 2) 5 7 = true ∧ stileReg (calling 7 2) 5 5 = 2) ∧
    (serving (calling 7 1) 5 7 = true ∧ stileReg (calling 7 1) 5 5 = 1 ∧ (calling 7 1).sys.mode ≠ Mode.lockdown ∧ (calling 7 1).sys.mode ≠ Mode.limp) ∧
    (serving (calling 7 3) 5 7 = true ∧ stileReg (calling 7 3) 5 5 ≠ 1 ∧ stileReg (calling 7 3) 5 5 ≠ 2) := by decide +kernel

/-! ### Power, backup domain and modes -/

/-- The module in a mode, with VSUP. -/
def inMode (m : BitVec 3) : State := { inRun with sys := { mode := m, romPending := false } }
/-- The descriptors reserved for flow 4095 are all in use. -/
def full4095 (s : State) : State :=
  { s with drill := { s.drill with descs := (List.range 32).map fun i => (992 + i, { st := .queued }) } }
/-- Main power by SVC_5V alone. -/
def onService (m : BitVec 3) : State := { inMode m with pow := { vsup := false, svc5v := true } }
/-- Bay 3's output as given. -/
def output (x : BayOut) : State := setBayOut inRun 3 x

theorem witness_SuppliesAndBayOutputs :
    ((inMode Mode.backup).sys.mode = Mode.backup ∧ (inMode Mode.backup).pow.thermalOff = false ∧ 6500 < (6501 : Half).toNat) ∧
    ((inMode Mode.run).sys.mode ≠ Mode.backup ∧ (inMode Mode.run).pow.svc5v = false) ∧
    ((onService Mode.run).sys.mode ≠ Mode.backup ∧ (onService Mode.run).pow.svc5v = true) ∧
    ((onService Mode.run).pow.vsup = false ∧ (inMode Mode.run).pow.vsup = true ∧ mainOn (inMode Mode.run) = true ∧
      mainOn (onService Mode.run) = true ∧ (onService Mode.sleep).sys.mode = Mode.sleep ∧ 199 ≤ (199 : Byte).toNat) ∧
    (let s : State := { onService Mode.run with pow := { vsup := true, svc5v := true, thermalOff := true } }
     s.sys.mode ≠ Mode.backup ∧ s.pow.thermalOff = true) ∧
    (let s : State := { inMode Mode.backup with pow := { thermalOff := true } }
     s.pow.thermalOff = true ∧ (173 : Byte).toNat < 174 ∧ s.pow.vsup = true) ∧
    (passesGuard inRun .encl (slotAddr 3) = true ∧ (bay inRun 3).pwr = false ∧ (bayOut inRun 3).on = false ∧ fieldPower inRun = true) ∧
    (let s := output { fault := true, request := true }
     (bayOut s 3).request = true ∧ (bayOut s 3).on = false ∧ (bayOut s 3).fault = true ∧ fieldPower s = true ∧
       s.now - (bayOut s 3).tripAt < 25000000 ∧ 25000000 ≤ ({ s with now := 25000000 } : State).now - (bayOut s 3).tripAt) ∧
    (let s : State := { output { on := true } with pow := { (output { on := true }).pow with order := 0xE4 } }
     (bayOut s 3).on = true ∧ mainOn s = true ∧ 8000 < totalMa s (fun b => ([0, 0, 0, 8001] : List Nat).getD b.val 0) ∧
       6000 < totalMa s (fun b => ([0, 0, 0, 6001] : List Nat).getD b.val 0) ∧
       4000 < totalMa s (fun b => ([0, 0, 0, 4001] : List Nat).getD b.val 0) ∧
       (6001 : Int) * 15000 > 8000 * 15000 - 4000 * (77500 - 70000) ∧ (shedOrder s).Nodup ∧ (shedOrder s).find? (fun k => (bayOut s k).on) = some 3) ∧
    189 ≤ (189 : Byte).toNat ∧ (185 : Byte).toNat < 186 := by decide +kernel

theorem witness_PowerFlagsAndPins :
    (mainOn inRun = true ∧ inRun.pow.vsup = true ∧ 32000 < (32001 : Half).toNat ∧ inRun.pow.ov = false ∧
      6000 ≤ (6000 : Half).toNat ∧ (8999 : Half).toNat < 9000 ∧ inRun.pow.ext = false ∧ 9000 ≤ (9000 : Half).toNat ∧
      184 ≤ (184 : Byte).toNat ∧ inRun.pow.warn = false) ∧
    (let s := setRail inRun 7 { en := true }
     (rail s 7).en = true ∧ (rail s 7).hiccupAct = false ∧ (rail s 7).overload = false ∧
       (rail (setRail s 7 { en := true, overload := true, limit := true }) 7).overload = true) ∧
    inRun.pins.ign ≠ true ∧ (inMode Mode.sleep).sys.mode = Mode.sleep ∧ inRun.pins.safeIn = false ∧
    ((inMode Mode.sleep).sys.romPending = false ∧ (inMode Mode.run).sys.romPending = false ∧ mainOn (inMode Mode.run) = true) ∧
    (let s : State := { inMode Mode.service with pins := { svcPresentHigh := false } }
     s.pins.svcPresentHigh = false ∧ s.sys.mode = Mode.service) ∧
    ((inMode Mode.sleep).pins.svcPresentHigh = true ∧ inRun.pins.nvProt = true ∧ inRun.chs.retirePending = false ∧ inRun.chs.toFold = []) := by decide +kernel

/-- The backup domain as given, in a mode. -/
def withBackup (m : BitVec 3) (b : Backup) : State := { inMode m with bkp := b }

theorem witness_BackupSupply :
    ((0 : Fin 3).val = (if (inMode Mode.run).sys.mode ≠ Mode.backup then 0 else if 4000 < (0 : Half).toNat then 1 else 2)) ∧
    ((2 : Fin 3).val = (if (inMode Mode.backup).sys.mode ≠ Mode.backup then 0 else if 4000 < (4000 : Half).toNat then 1 else 2)) ∧
    (2399 : Half).toNat < 2400 ∧ (inMode Mode.backup).sys.mode = Mode.backup ∧ (withBackup Mode.backup { held := true }).bkp.held = true ∧
    (passesGuard inRun .encl 0x55000008 = true ∧ isEncl inRun .encl = true ∧ debugPort .encl = false ∧ inRun.bkp.armed = none) ∧
    (let s : State := { withBackup Mode.service { armed := some 0 } with now := 83 }
     s.bkp.armed = some 0 ∧ s.now - 0 ≤ 83 ∧ s.sys.mode = Mode.service) ∧
    (passesGuard inRun (.bay 0) 0x55000008 = true ∧ isEncl inRun (.bay 0) = false) := by decide +kernel

theorem witness_CalendarAndAlarms :
    (inRun.bkp.held = false ∧ guardLets inRun (.thread 0) permR 0x55000010 4 = true ∧ isEncl inRun (.thread 0) = true ∧
      guardLets inRun (.thread 3) permR 0x50000010 4 = true ∧ isEncl inRun (.thread 3) = true ∧
      passesGuard inRun .encl 0x5500002C = true ∧ inRun.bkp.cal.valid = false) ∧
    (let s := withBackup Mode.limp { cal := { valid := true, applyPending := true } }
     s.bkp.cal.valid = true ∧ s.sys.mode = Mode.limp ∧ s.bkp.cal.applyPending = true ∧ s.bkp.held = false) ∧
    (passesGuard inRun .encl (BitVec.ofNat 32 (0x55000040 + 8 * 3)) = true ∧
      passesGuard inRun .encl (BitVec.ofNat 32 (0x55000044 + 8 * 3)) = true) ∧
    (let s := withBackup Mode.sleep { cal := { valid := true }, alarms := .replicate 4 { en := true, wake := true, task := true } }
     (alarm s 3).en = true ∧ (alarm s 3).fired = false ∧ s.bkp.held = false ∧ s.bkp.cal.valid = true ∧
       (alarm s 3).sec.toNat ≤ s.bkp.cal.sec.toNat ∧ (alarm s 3).wake = true ∧ s.sys.mode = Mode.sleep) ∧
    inRun.bkp.cal.valid = false ∧ (alarm (withBackup Mode.run { alarms := .replicate 4 { fired := true } }) 0).fired = true ∧
    (inMode Mode.backup).sys.mode = Mode.backup := by decide +kernel

/-- An Enclosure blow of the first bit of the Enclosure's thermometer. -/
def blowing (b : Option (BitVec 12)) : State := { inRun with fuse := { blowing := b } }

theorem witness_TamperAndFuses : (0x20 : BitVec 6) ≠ 0 ∧ inRun.bkp.tamp.first = 0 ∧ inRun.sys.mode ≠ Mode.backup ∧
    (inMode Mode.backup).sys.mode = Mode.backup ∧ mainOn (inMode Mode.run) = true ∧ (inMode Mode.run).sys.romPending = false ∧
    (passesGuard inRun .encl 0x5F000200 = true ∧ mayBlow (blowing none) .encl 1098 = true ∧ (blowing none).fuse.blowing = none ∧
      mayBlow (blowing (some 1)) .encl 1101 = true ∧ (blowing (some 1)).fuse.blowing ≠ none) ∧
    mayBlow inRun (.bay 0) 832 = false ∧ (blowing (some 4095)).fuse.blowing = some 4095 := by decide +kernel

theorem witness_SleepWakeAndService :
    (passesGuard inRun .encl 0x54000204 = true ∧ isEncl inRun .encl = true ∧ inRun.sys.sleep ≠ .draining ∧ inRun.sys.mode = Mode.run ∧ inRun.pow.thermalOff = false ∧
      inRun.pins.ign = false ∧ inRun.pins.svcPresentHigh = true ∧ watchBusy inRun = false) ∧
    ¬ ((inMode Mode.limp).sys.mode = Mode.run) ∧ isEncl inRun (.bay 1) = false ∧ passesGuard inRun (.bay 1) 0x54000204 = true ∧
    (let s : State := { inRun with sys := { mode := Mode.run, sleep := .draining }
                                   cores := { thr := Vector.replicate 16 {}, core := Vector.replicate 4 {} } }
     s.sys.sleep = .draining ∧ s.sys.mode = Mode.run ∧ drained s = true) ∧
    (let s : State := { setDesc inRun 0 { st := .dispatched } with sys := { mode := Mode.run, sleep := .draining } }
     s.sys.sleep = .draining ∧ drained s = false) ∧
    (let s : State := { inRun with sys := { mode := Mode.sleep, waking := true, wake := 1 } }
     s.sys.mode = Mode.sleep ∧ s.sys.waking = true ∧ s.sys.wake.getLsbD 4 = false ∧ s.sys.wake.getLsbD 5 = false ∧
       s.pow.vsup = true ∧ homeEncl s 0 = true ∧ s.sys.limpSet = 0) ∧
    (let s : State := { inRun with sys := { mode := Mode.sleep, waking := true, wake := 0x30 } }
     s.sys.wake.getLsbD 4 = true ∧ s.sys.wake.getLsbD 5 = true) ∧
    ((inMode Mode.service).sys.mode = Mode.service ∧ (inMode Mode.service).bkp.cal.valid = false) ∧
    (let s : State := { withBackup Mode.service { cal := { valid := true } } with hld := { endSec := 1 } }
     s.bkp.cal.valid = true ∧ s.bkp.cal.sec.toNat < s.hld.endSec.toNat) := by decide +kernel

theorem witness_ResetRequests :
    (passesGuard inRun .encl 0x5400020C = true ∧ mayReset inRun .encl = true ∧ inRun.sys.mode ≠ Mode.lockdown ∧
      limpReason inRun 2 = false ∧ inRun.boot.measValid = false) ∧
    ({ inRun with boot := { measValid := true } } : State).boot.measValid = true ∧
    ((inMode Mode.limp).sys.mode = Mode.limp ∧ (inMode Mode.limp).seed.activated = false ∧ limpReason (inMode Mode.limp) 2 = false ∧
      mayReset (inMode Mode.limp) .encl = true ∧ ({ inMode Mode.limp with seed := { activated := true } } : State).seed.activated = true) ∧
    (mayReset (inMode Mode.lockdown) .encl = true ∧ (inMode Mode.lockdown).sys.mode = Mode.lockdown) ∧
    mayReset inRun (.bay 2) = false ∧ passesGuard inRun (.bay 2) 0x5400020C = true := by decide +kernel

/-! ### Clocks -/

/-- Furrow 31 as given. -/
def tuned (x : FurrowReg) : State := setFurrow inRun 31 x

theorem witness_ClockRules :
    (passesGuard inRun .encl (furrowAddr 31) = true ∧ isEncl inRun .encl = true ∧ furrowLocked inRun 31 = false ∧
      freqOk inRun 31 1000000 = true ∧ freqOk inRun 31 100000000 = true ∧ (furrow inRun 31).freq = 0 ∧
      (furrow (tuned { freq := 1000000 }) 31).freq ≠ 0 ∧ (999999 : BitVec 27).toNat < 1000000 ∧ 100000000 < (100000001 : BitVec 27).toNat) ∧
    (let s := tuned { freq := 1000000, next := 2000000, pending := true }
     (furrow s 31).pending = true ∧ (furrow s 31).relocking = false ∧ mainOn s = true ∧
       ∀ k : Fin 4, chanIdle (chan s (furrowChan 31 k)) = true) ∧
    (let s := setChan inRun (furrowChan 31 3) { en := true, tx := { busy := true } }
     chanIdle (chan s (furrowChan 31 3)) = false) ∧
    (furrow (tuned { relocking := true }) 31).relocking = true ∧ (furrow inRun 31).pending = false ∧
    passesGuard inRun .encl 0x54000508 = true ∧
    ({ inRun with clk := { inRun.clk with measuring := some 63 } } : State).clk.measuring.isSome = true := by decide +kernel

/-! ### Channels -/

/-- Channel 127 as given, its furrow at 1 MHz. -/
def channel127 (c : Channel) : State := setChan (setFurrow inRun 31 { freq := 1000000, next := 1000000 }) 127 c
/-- An enabled push-pull asynchronous channel of 8N1 characters; 2 is the differential function. -/
def async (func : BitVec 3) (r : AsyncRegs) : Channel :=
  { owner := 1, en := true, drive := .func, cfg := { func := func, fmt := 8 }, async := { regs := r, now := r } }

def ones : Samples := ⟨true, true, false⟩
def zeros : Samples := ⟨false, false, true⟩

/-- R170, R452: without a free receive cell the frame is lost, and CNT_DROPS, STS.DROP and the flow's SHED count it. -/
theorem test_lost_frame_counts_in_shed :
    (let s := (takeCell 127 (channel127 { async 1 {} with flow := 7, rx := { cells := .replicate 32 .tasked } })).2
     (chan s 127).cnt.drops = 1 ∧ (chan s 127).drop = true ∧ (tabGet {} s.drill.shed 7).refused = 1 ∧
       (tabGet {} s.drill.shed 7).shedding = true) := by decide +kernel

theorem witness_FrameReception :
    (let s := channel127 (async 1 {})
     asyncLive s 127 = true ∧ (chan s 127).cfg.func = 1 ∧ (chan s 127).rx.cur = none ∧ (chan s 127).async.ovlHold = false ∧
       fmtData (chan s 127).cfg.fmt = 8 ∧ fmtMultidrop (chan s 127).cfg.fmt = false ∧ fmtParity (chan s 127).cfg.fmt = 0 ∧
       singleSample (chan s 127) = false ∧ nextFreeCell (chan s 127).rx = some 0 ∧ aNoise (chan s 127).async.now = false ∧
       toleratesError s 127 = true ∧ isRetired s 127 = false ∧ paired s 127 = false) ∧
    (let s := channel127 { async 1 {} with rx := { cells := .replicate 32 .tasked } }
     asyncLive s 127 = true ∧ (chan s 127).rx.cur = none ∧ (chan s 127).async.ovlHold = false ∧ fmtData (chan s 127).cfg.fmt = 8 ∧
       nextFreeCell (chan s 127).rx = none ∧ (chan s 127).cfg.dropOldest = false ∧ aNoise (chan s 127).async.now = false) ∧
    (let x := List.replicate 9 zeros ++ [ones]
     x.length = 10 ∧ majority (bitSample x 0) = false ∧ majority (bitSample x 9) = true) ∧
    (∀ i : Fin 10, bitSpace false (bitSample (List.replicate 10 ⟨false, false, false⟩) i.val) = true) ∧
    (let s := channel127 { async 1 { cfg := 0 } with rx := { cur := some { chars := 1, len := 1, cells := [0], declared := true } } }
     asyncLive s 127 = true ∧ aDelim (chan s 127).async.now = 0 ∧ aCrc (chan s 127).async.now = 0 ∧
       ∃ fr, (chan s 127).rx.cur = some fr ∧ fr.chars ≠ 0 ∧ fr.failed = false ∧ fr.declared = true ∧ fr.falseStart = false ∧
         fr.dropping = false ∧ matchRule (chan s 127) (frameBytes (chan s 127) fr.cells fr.len) = none) ∧
    (let s := channel127 { async 1 { cfg := 0x01000000 } with
       rx := { cur := some { chars := 1, len := 1, cells := [0], declared := true } }, rules := [(3, { hdrLen := 1 })] }
     asyncLive s 127 = true ∧ aDelim (chan s 127).async.now ≠ 0 ∧
       matchRule (chan s 127) (frameBytes (chan s 127) [0] 1) = some 3 ∧ (chan s 127).reply = none) ∧
    (let s := channel127 { async 2 { cfg := 0x01000000 } with rx := { cur := some { chars := 1 } } }
     let s := setChan s 127 { chan s 127 with async := { (chan s 127).async with ref := 8 } }
     asyncLive s 127 = true ∧ (chan s 127).cfg.func = 2 ∧ ownDriver (chan s 127) = false ∧ 8 ≤ (chan s 127).async.ref.toNat ∧
       (chan s 127).async.ref.toNat * (100 + (chan s 127).cfg.overlapPct.toNat) < (255 : Byte).toNat * 100 ∧
       toleratesError s 127 = true ∧ aDelim (chan s 127).async.now ≠ 0 ∧
       ∃ fr, (chan s 127).rx.cur = some fr ∧ fr.chars ≠ 0 ∧ fr.failed = false ∧ fr.declared = false) ∧
    (let s := channel127 { async 2 {} with reply := some { seq := 1, rule := 0, computed := false, buf := 0, len := 1, since := 0 } }
     (chan s 127).reply ≠ none ∧ isRetired s 127 = false ∧ clockRuns s 127 = true) ∧
    (let s := channel127 { async 1 {} with pins := { rise := 1 } }
     ((4 : BitVec 4) &&& ~~~(chan s 127).pins.inp &&& (chan s 127).pins.rise) |||
       ((chan s 127).pins.inp &&& ~~~(4 : BitVec 4) &&& (chan s 127).pins.fall) = 0 ∧ paired s 127 = false) ∧
    (isRetired { inRun with chs := { inRun.chs with retired := BitVec.ofNat 128 (2 ^ 127) } } 127 = true ∧
      clockRuns inRun 127 = false) := by decide +kernel

/-- Channel 126 as given, its furrow at 1 MHz. -/
def channel126 (c : Channel) : State := setChan (setFurrow inRun 31 { freq := 1000000, next := 1000000 }) 126 c
/-- An enabled clocked serial channel: 3 master, 4 slave. -/
def clocked (func : BitVec 3) (cfg : Word) (x : CsState) : Channel :=
  { owner := 1, en := true, drive := .func, cfg := { func := func, fmt := 0x81 }, cs := { x with now := { cfg := cfg } } }

/-- A reply armed by rule 3. -/
def armed : Reply := { seq := 9, rule := 3, computed := true, buf := 0, len := 4, sendLen := 64, since := 0 }
/-- Channel 127 with a reply. -/
def replying (y : Reply) : State := channel127 { async 2 {} with reply := some y, rules := [(3, { send := 3, tlen := 64 })] }

theorem witness_ReplyLife :
    (let s := setChwr (replying armed) (furrowOf 127) [.post 127 9 0 64 0]
     chwrOf s (furrowOf 127) = [.post 127 9 0 64 0] ∧ isRetired s 127 = false ∧ clockRuns s 127 = true ∧
       (chan s 127).reply = some armed ∧ armed.computed = true ∧ armed.seq = 9 ∧ armed.deadlinePassed = false ∧
       (0 : BitVec 6).toNat + (64 : BitVec 7).toNat ≤ armed.sendLen.toNat ∧ armed.sendLen.toNat < (1 : BitVec 6).toNat + (64 : BitVec 7).toNat) ∧
    (let s := setChwr (channel127 (async 2 {})) (furrowOf 127) [.post 127 9 0 64 0]
     chwrOf s (furrowOf 127) = [.post 127 9 0 64 0] ∧ (chan s 127).reply = none ∧ isRetired s 127 = false ∧ clockRuns s 127 = true) ∧
    (let y := { armed with posted := true }
     let s := replying y
     (chan s 127).reply = some y ∧ chanLive s 127 = true ∧ clockRuns s 127 = true ∧ (chan s 127).async.onSleep = false ∧
       (chan s 127).cfg.func = 2 ∧ y.turnEnded = false ∧ y.sending = false ∧ y.fallback = false ∧ (chan s 127).tx.busy = false) ∧
    (let y := { armed with deadlinePassed := true }
     (chan (replying y) 127).reply = some y ∧ y.deadlinePassed = true ∧ y.sending = false ∧ y.turnEnded = false) ∧
    (let y := { armed with posted := true }
     let s := channel126 { clocked 4 0x4000F000 { selActive := true } with reply := some y }
     (chan s 126).reply = some y ∧ chanLive s 126 = true ∧ clockRuns s 126 = true ∧ (chan s 126).cfg.func = 4 ∧
       (chan s 126).cs.selActive = true ∧ postedBegun (chan s 126) = false ∧ y.sent = 0 ∧ 0 < y.len.toNat) ∧
    (let y := { armed with sending := true }
     let s := replying y
     (chan s 127).reply = some y ∧ chanLive s 127 = true ∧ (chan s 127).async.onSleep = false ∧ (chan s 127).cfg.func ≠ 4) ∧
    (let s : State := { channel127 { async 2 {} with async := { onSleep := true, ack := some .turning } } with
       seed := { recs := [⟨0x13, false, [127, 0x55]⟩] } }
     (chan s 127).async.onSleep = true ∧ (chan s 127).async.ack = some .turning ∧ watchEntry s 127 = some ⟨0x13, false, [127, 0x55]⟩) ∧
    (let s := channel127 { async 2 {} with async := { onSleep := true, ack := some .sending } }
     (chan s 127).async.onSleep = true ∧ (chan s 127).async.ack = some .sending) ∧
    (let s := setDesc (channel127 { async 2 {} with outcomes := [(9, .fallback)] }) 991
       { st := .releasing, life := { awaits := [(127, 9)] } }
     (chan s 127).outcomes = [(9, .fallback)] ∧ eventWaits s 127 9 = false ∧ awaitingTask s 127 9 = some 991) ∧
    (let s := channel127 { async 2 {} with outcomes := [(9, .sent)] }
     (chan s 127).outcomes = [(9, .sent)] ∧ eventWaits s 127 9 = false ∧ awaitingTask s 127 9 = none) := by decide +kernel

/-- Channel 127 with one frame posted, of one cell. -/
def posted (func : BitVec 3) (busy : Bool) (attempt : BitVec 4) : State :=
  channel127 { async func {} with tx := { posted := [{ cells := [0], len := 64, attempt := attempt }], busy := busy } }

theorem witness_TransmitAndReset :
    (let s := channel127 (async 1 {})
     ownerWrites s (.thread 0) 127 0x24 = true ∧ (chan s 127).cfg.func = 1 ∧ (32 : BitVec 6).toNat ≤ txFree (chan s 127) ∧
       (2048 : BitVec 12).toNat ≤ 64 * (32 : BitVec 6).toNat ∧ chwrOf s (furrowOf 127) = [] ∧
       clockRuns s 127 = true ∧ ¬ ((33 : BitVec 6).toNat ≤ txFree (chan s 127)) ∧ ownerWrites s (.thread 0) 127 0x4 = true ∧ (chan s 127).en = true ∧
       paired s 127 = false) ∧
    (let s := posted 2 false 0
     asyncLive s 127 = true ∧ (chan s 127).tx.backoff = false ∧ (chan s 127).reply = none ∧ (chan s 127).rx.cur = none ∧
       (chan s 127).tx.busy = false ∧ (chan s 127).async.line = true ∧ (chan s 127).async.ovlHold = false ∧ (chan s 127).async.breakWait = false) ∧
    (let s := posted 2 true 0
     (chan s 127).tx.busy = true ∧ (chan s 127).reply = none ∧ chwrOf s (furrowOf 127) = [] ∧ toleratesError s 127 = true ∧ (0 : BitVec 4).toNat = (chan s 127).cfg.retries.toNat) ∧
    (let s := setChan (posted 2 true 14) 127 { chan (posted 2 true 14) 127 with cfg := { func := 2, fmt := 8, retries := 15 } }
     asyncLive s 127 = true ∧ (14 : BitVec 4).toNat < (chan s 127).cfg.retries.toNat) ∧
    (let s := channel127 { owner := 1, cfg := { func := 1, fmt := 8, rate := 12500, oversample := 8 } }
     let c := chan s 127
     ownerWrites s (.thread 0) 127 0x4 = true ∧ c.en = false ∧ paired s 127 = false ∧ s.pow.vsup = true ∧
       s.pow.thermalOff = false ∧ s.sys.mode = Mode.run ∧ s.sys.limpSet = 0 ∧
       settingsFit (level5 s 127) 127 (freqOf s 127) c = true) ∧
    (let s := channel127 { owner := 1, cfg := { func := 1, fmt := 8, rate := 60000000 } }
     let c := chan s 127
     ownerWrites s (.thread 0) 127 0x4 = true ∧ c.en = false ∧ paired s 127 = false ∧
       settingsFit (level5 s 127) 127 (freqOf s 127) c = false) := by decide +kernel

/-- A frame of one cell at the head of a channel's posted frames. -/
def withFrame (c : Channel) : Channel := { c with tx := { c.tx with posted := [{ cells := [0], len := 5 }] } }

/-- Channel 127 a watch channel, with its entry. -/
def watching (a : AsyncState) (x : Sys) : State :=
  { channel127 { async 2 {} with async := a } with sys := x, seed := { recs := [⟨0x13, false, [127, 0x55]⟩] } }

theorem witness_Watch :
    (let s := watching { onSleep := true } { mode := Mode.sleep }
     watchEntry s 127 = some ⟨0x13, false, [127, 0x55]⟩ ∧ SeedEntry.num ⟨0x13, false, [127, 0x55]⟩ 1 1 = (0x55 : Byte).toNat ∧
       (chan s 127).async.onSleep = true ∧ isRetired s 127 = false ∧ s.sys.mode = Mode.sleep ∧ (chan s 127).async.ack = none ∧
       ∀ m, (chan s m).async.watchHit = false) ∧
    (let s := watching { onSleep := true, watchHit := true } { mode := Mode.sleep, waking := true }
     (chan s 127).async.watchHit = true ∧ (chan s 127).async.onSleep = true ∧ (chan s 127).async.ack = none ∧ s.sys.waking = true) ∧
    (let s := watching { onSleep := true } { mode := Mode.run }
     (chan s 127).async.onSleep = true ∧ (chan s 127).async.ack = none ∧ s.sys.mode ≠ Mode.sleep ∧ (chan s 127).async.watchHit = false) := by decide +kernel

theorem witness_ClockedMaster :
    (let s := channel126 (withFrame (clocked 3 0x4000F000 {}))
     pairLive s 126 3 = true ∧ (chan s 126).cs.xfer = none ∧ (chan s 126).cs.flags.getLsbD 3 = false ∧ busClaimed (chan s 126) = false ∧
       (chan s 126).cs.sel = none) ∧
    (let s := channel126 (withFrame (clocked 3 0x4800F000 { sel := some 3 }))
     let s := setChan s 126 { chan s 126 with cs := { (chan s 126).cs with regs := (chan s 126).cs.now } }
     pairLive s 126 3 = true ∧ (chan s 126).cs.xfer = none ∧ (chan s 126).cs.flags.getLsbD 3 = false ∧ busClaimed (chan s 126) = true ∧
       (chan s 126).cs.now = (chan s 126).cs.regs ∧ (chan s 126).cs.sel ≠ some ((controlByte (chan s 126)).setWidth 4)) ∧
    (let s := channel126 (withFrame (clocked 3 0x4800F000 { xfer := some 1, strbWait := [1] }))
     pairLive s 126 3 = true ∧ (chan s 126).cs.xfer = some 1 ∧ csRxEn (chan s 126).cs.now = true ∧ fmtDdr (chan s 126).cfg.fmt = true ∧
       chwrOf s (furrowOf 126) = [] ∧ aCrc (chan s 126).async.now = 0 ∧
       csMfEn (chan s 126).cs.now = true ∧ csDecode (chan s 126).cs.now = false ∧ toleratesError s 126 = true) ∧
    (let s := channel126 (clocked 3 0x4000F000 { strbWait := [1] })
     pairLive s 126 3 = true ∧ (chan s 126).cs.strbWait = [1] ∧ 0 ≠ 1 * fmtWord (chan s 126).cfg.fmt ∧
       toleratesError s 126 = true ∧ aCrc (chan s 126).async.now = 0) ∧
    (let s := channel126 (clocked 3 0x4000F000 {})
     fmtDdr (chan s 126).cfg.fmt = true ∧ (chan s 126).cs.strbWait = [] ∧ (chan s 126).cs.xfer = none ∧ pairLive s 126 3 = true ∧
       ownerWrites s (.thread 0) 126 0x110 = true ∧ paired s 126 = true ∧ (126 : Chan).val % 2 = 0 ∧ sel3Asserted (chan s 126).cs = true) ∧
    sel3Asserted { (clocked 3 0x4000F000 {}).cs with selIn := 0xF } = false := by decide +kernel

theorem witness_ClockedSlave :
    (let s := channel126 (clocked 4 0x4000F000 {})
     pairLive s 126 4 = true ∧ (chan s 126).cs.selActive = false) ∧
    (let s := channel126 (clocked 4 0xC000F000 { selActive := true, frameDone := true })
     pairLive s 126 4 = true ∧ (chan s 126).cs.selActive = true ∧ csFramed (chan s 126).cs.now = true ∧
       (chan s 126).cs.longSeen = false) ∧
    (let s := channel126 { clocked 4 0x4000F000 { selActive := true } with rx := { cur := some { len := 2044, cells := [0] } } }
     csFramed (chan s 126).cs.now = false ∧ pairLive s 126 4 = true ∧ 2044 + 4 ≤ 2048 ∧
       (chan s 126).rx.cur = some { len := 2044, cells := [0] }) ∧
    (let s := channel126 { clocked 4 0xC000F000 { selActive := true } with rx := { cur := some {} } }
     pairLive s 126 4 = true ∧ (chan s 126).cs.frameDone = false ∧ toleratesError s 126 = true ∧
       ∃ fr, (chan s 126).rx.cur = some fr ∧ fr.failed = false) := by decide +kernel

/-- Channel 127 with pin 0 driven push-pull and its monitor as given, at a time. -/
def monitored (p : PinTimer) (now : Nat) : State :=
  { channel127 { async 1 {} with cfg := { func := 1, pm0 := 1, fmt := 8 }
                                 health := { pinFaultMs := 500, pins := vset (.replicate 8 {}) 4 p } } with now := now }

theorem witness_HealthAndRetirement :
    (let s := monitored {} 0
     let x : PinReading := { mv := 1001, highLimit := false, lowLimit := false, diffMv := 0, diffOhms := 0, held1us := true, level := false }
     mainOn s = true ∧ isRetired s 127 = false ∧ chanLive s 127 = true ∧ paired s 127 = false ∧ checkable s 127 x = true ∧
       pinDriven s 127 0 (driverOn (chan s 127).async s.now) = true ∧ pinMode (chan s 127) 0 = 1 ∧ x.level = false ∧
       checkable s 127 { x with held1us := false } = false ∧
       (List.range 8).find? (fun i => pinPersists s (chan s 127).health ((chan s 127).health.pins.toList.getD i {})) = none) ∧
    (let s := monitored { cond := 2, count := 4, seen := some 0 } 125000001
     chanLive s 127 = true ∧ mainOn s = true ∧ paired s 127 = false ∧ (vget (chan s 127).health.pins 4).cond = 2 ∧
       (List.range 8).find? (fun i => pinPersists s (chan s 127).health ((chan s 127).health.pins.toList.getD i {})) = some 4) ∧
    (let s := monitored {} 0
     mainOn s = true ∧ railOf 127 = 7 ∧ (chan s 127).cfg.func ≠ 0 ∧ (chan s 127).en = true ∧
       ∀ m, m ≠ (127 : Chan) → railOf m = 7 → (chan s m).cfg.func = 0 ∨ (chan s m).en = false ∨ isRetired s m = true) ∧
    (let d : LdgDone := { caller := .fold, status := 0, verdict := 0, value := 0, prot := false, image := [], buf := 0 }
     let s : State := { inRun with ldg := { inRun.ldg with lgc := [d] } }
     s.ldg.lgc = [d] ∧ d.caller = .fold ∧ d.prot = false ∧ d.status = 0 ∧ ({ d with status := 1 } : LdgDone).status ≠ 0) ∧
    (passesGuard inRun .encl 0x54000814 = true ∧ isEncl inRun .encl = true ∧ isRetired inRun 127 = false ∧
      isEncl inRun (.bay 0) = false ∧ passesGuard inRun (.bay 0) 0x54000814 = true) ∧
    (let s : State := { inMode Mode.service with chs := { inRun.chs with retired := BitVec.ofNat 128 (2 ^ 127) }, hld := { scope := 0x40 } }
     s.sys.mode = Mode.service ∧ scopeHas s 6 = true ∧ isRetired s 127 = true ∧ paired s 127 = false) := by decide +kernel

/-! ### The host bays -/

/-- The BAY record of bay 3: ENABLE, STAGE, MAX_RATE 3, flows 100 to 107, a window of 64 KiB at 0x20000000. -/
def bayRecord : SeedEntry :=
  ⟨0x0B, false, [3, 5, 3] ++ List.replicate 37 0 ++ [100, 0, 8, 0] ++ [0, 0, 0, 0x20] ++ [0, 0, 1, 0]⟩
/-- Bay 3 as given, with its record, its flows and its guard region. -/
def bay3 (x : BayState) : State :=
  let s := setFlow (setFlow inRun 100 { en := true, credits := 4, bay := 3 }) 101 { en := true, credits := 1, bay := 3 }
  let s := setRegion s 1 0 { base := 0x20000000, limit := 0x2000FFFF, en := true, perm := 3, owner := 0xFF, bay := 3 }
  setBay { s with seed := { applied := true, recs := [bayRecord] } } 3 x
/-- The link is up and queue 0 of either kind is enabled, with commands as given. -/
def linked (cmds : List BayCmd) : BayState :=
  { link := 2, speed := 3, present := true, perst := false, cmds := cmds,
    sq := vset (.replicate 16 {}) 0 { en := true, size := 16 }, cq := vset (.replicate 16 {}) 0 { en := true, size := 16 } }
/-- A command in slot 255 of queue 0. -/
def command (body : BitVec 512) (st : CmdState) : BayCmd := { slot := 255, q := 0, sqhd := 1, body := body, st := st }

theorem witness_BayFetches :
    (let s := bay3 (linked [])
     hostReaches s 3 = true ∧ (sqOf s 3 0).en = true ∧ (15 : BitVec 10).toNat < (sqOf s 3 0).size.toNat ∧
       (sqOf s 3 0).size.toNat ≤ (16 : BitVec 10).toNat ∧ (sqOf s 3 15).en = false ∧
       (let s1 := setSq 3 0 { sqOf s 3 0 with tail := 15 } s
        0 < fetchSize s1 3 0 ∧ (∀ k : Fin 16, k ≠ 0 → fetchSize s1 3 k = 0) ∧ (bay s 3).out = []) ∧
       (cqOf s 3 0).en = true ∧ (15 : BitVec 10).toNat < (cqOf s 3 0).size.toNat ∧ (cqOf s 3 15).en = false) ∧
    (let s := setSq 3 0 { sqOf (bay3 (linked [])) 3 0 with fetching := 1 } (bay3 (linked []))
     (sqOf s 3 0).fetching = 1 ∧ freeSlot (bay s 3) = some 0 ∧ cmdFormOk s 3 (command (1 + 101 * 2 ^ 32) .ready) = true ∧
       cmdFormOk s 3 (command 0 .ready) = false ∧ (bay s 3).quiescing = false) ∧
    (let c := command (1 + 2 ^ 8 + 101 * 2 ^ 32 + 0xFFFC * 2 ^ 128 + 4 * 2 ^ 160) .dataIn
     let s := bay3 (linked [c])
     cmdOf s 3 255 = some c ∧ ([1, 2, 3, 4] : List Byte).length = cmdNum c 20 4 ∧
       winPasses s 3 (sqOf s 3 c.q).owner permW (winBase s 3 + cmdNum c 16 4) 4 = true) := by decide +kernel

/-- Bay 3 with one command of an opcode, nothing else in its body but the given bits. -/
def commanded (opc body : BitVec 512) : State := bay3 (linked [command (opc + body) .ready])
/-- The command of `commanded`. -/
def theCommand (opc body : BitVec 512) : BayCmd := command (opc + body) .ready

theorem takes {s : State} {b : Bay} {opc : Nat} {c : BayCmd} (h : mainOn s = true ∧ s.sys.mode ≠ Mode.lockdown ∧ nextCmd s b opc = some c ∧
    c.st = .ready ∧ cmdOf s b c.slot = some c ∧ drainRefuses s = false ∧ freeDesc s (flowBase s b) = some 0 ∧
    0 < freeCredits (flow s (flowBase s b)) ∧ flowBase s b < 4096 ∧ (flow s (flowBase s b)).kind ≠ 1 ∧ cmdDesc s b c.slot = none)
    (hl : (flow s (flowBase s b)).locked = false) (hd : s.drill.descs = []) : serviceTakes s b opc c 0 :=
  ⟨h.1, h.2.1, h.2.2.1, h.2.2.2.1, h.2.2.2.2.1, h.2.2.2.2.2.1, h.2.2.2.2.2.2.1, h.2.2.2.2.2.2.2.1, h.2.2.2.2.2.2.2.2.1,
    h.2.2.2.2.2.2.2.2.2.1, fun _ => ⟨hl, fun e he => by simp [desc, hd, tabGet] at he⟩, h.2.2.2.2.2.2.2.2.2.2,
    fun e => by simp [desc, hd, tabGet]⟩

theorem witness_BayCommands :
    (let s := commanded 1 (101 * 2 ^ 32)
     let c := theCommand 1 (101 * 2 ^ 32)
     nextCmd s 3 1 = some c ∧ cmdOf s 3 c.slot = some c ∧ mainOn s = true ∧ drainRefuses s = false ∧
       (bay s 3).out = [] ∧ (flow s (cmdNum c 4 2)).ready = false ∧ freeDesc s (cmdNum c 4 2) = some 0 ∧ 0 < freeCredits (flow s (cmdNum c 4 2))) ∧
    (let s : State := { commanded 1 (101 * 2 ^ 32) with sys := { mode := Mode.run, sleep := .draining } }
     drainRefuses s = true) ∧
    (let s := commanded 2 0
     nextCmd s 3 2 = some (theCommand 2 0) ∧ cancelTarget s 3 (theCommand 2 0) = none) ∧
    (let c := theCommand 2 0
     let other := { command (1 + 101 * 2 ^ 32) .admitted with slot := 0 }
     let s := setDesc (bay3 (linked [other, c])) 5 { st := .queued, flow := 101, bay := 3, life := { slots := [(3, 0)] } }
     nextCmd s 3 2 = some c ∧ cancelTarget s 3 c = some 5 ∧ cancellable (desc s 5) = true) ∧
    (enclRuns (commanded 0x21 0) = true ∧ cmdDir (theCommand 0x21 0) = 0 ∧
      (let s : State := { commanded 0x21 0 with wld := { restart := true } }
       enclRuns s = false ∧ mainOn s = true ∧ s.sys.mode ≠ Mode.lockdown ∧ nextCmd s 3 0x21 = some (theCommand 0x21 0))) ∧
    (let s := commanded 1 (100 * 2 ^ 32)
     let s : State := { s with drill := { s.drill with flows := tabPut {} s.drill.flows 100 { flow s 100 with credits := 0 } } }
     nextCmd s 3 1 = some (theCommand 1 (100 * 2 ^ 32)) ∧ drainRefuses s = false ∧ (flow s 100).ready = false ∧
       freeCredits (flow s 100) = 0) ∧
    ((commanded 0x10 0).seed.wait = .idle ∧ (commanded 0x10 0).seed.open_ = false) ∧
    (let s : State := { commanded 0x10 0 with seed := { (commanded 0x10 0).seed with open_ := true, source := 1 } }
     s.seed.open_ = true ∧ s.seed.source ≠ bayStageSource 3 ∧ holdsStage s (bayStageSource 3) = false) ∧
    (let s : State := { inRun with seed := { wait := .erasing none, source := 1 } }
     s.seed.wait = .erasing none ∧ mainOn s = true ∧ stageBay s.seed.source = none) := by decide +kernel

theorem witness_BayServices : serviceTakes (commanded 0x21 0) 3 0x21 (theCommand 0x21 0) 0 ∧
    serviceTakes (commanded 0x10 0) 3 0x10 (theCommand 0x10 0) 0 ∧ serviceTakes (commanded 0x12 0) 3 0x12 (theCommand 0x12 0) 0 ∧
    serviceTakes (commanded 0x14 0) 3 0x14 (theCommand 0x14 0) 0 ∧
    serviceTakes (commanded 0x20 0) 3 0x20 (theCommand 0x20 0) 0 :=
  ⟨takes (by decide +kernel) (by decide +kernel) rfl, takes (by decide +kernel) (by decide +kernel) rfl,
    takes (by decide +kernel) (by decide +kernel) rfl, takes (by decide +kernel) (by decide +kernel) rfl,
    takes (by decide +kernel) (by decide +kernel) rfl⟩

/-- Bay 3 holds the staging session, the last check passed. -/
def staging (opc body : BitVec 512) : State :=
  { commanded opc body with seed := { (commanded opc body).seed with open_ := true, source := bayStageSource 3, result := 1, checkedLast := true } }

theorem witness_BayStaging :
    (let body : BitVec 512 := 2 ^ 8 + 0xF000 * 2 ^ 128 + 4096 * 2 ^ 160 + 0x3E000 * 2 ^ 256
     let s := staging 0x11 body
     let c := theCommand 0x11 body
     serviceTakes s 3 0x11 c 0 ∧ enclRuns s = true ∧ holdsStage s (bayStageSource 3) = true ∧ s.seed.wait = .idle ∧ cmdDir c ≠ 2 ∧
       4 ≤ cmdNum c 20 4 ∧ cmdNum c 20 4 ≤ 4096 ∧ cmdNum c 32 4 % 4 = 0 ∧ cmdNum c 32 4 + cmdNum c 20 4 ≤ seedAreaLen ∧
       s.seed.written = [] ∧ winPasses s 3 (sqOf s 3 c.q).owner permR (winBase s 3 + cmdNum c 16 4) (cmdNum c 20 4) = true ∧
       s.mem.store = []) ∧
    (serviceTakes (staging 0x13 0) 3 0x13 (theCommand 0x13 0) 0 ∧ (staging 0x13 0).seed.result = 1 ∧
      (staging 0x13 0).seed.checkedLast = true ∧ enclRuns (staging 0x13 0) = true ∧ holdsStage (staging 0x13 0) (bayStageSource 3) = true) :=
  ⟨⟨takes (by decide +kernel) (by decide +kernel) rfl, by decide +kernel⟩, ⟨takes (by decide +kernel) (by decide +kernel) rfl, by decide +kernel⟩⟩

theorem witness_GranaryCommand : (match grnTake (commanded 0x20 0) (bayAsker (commanded 0x20 0) 3 255 0xFF) 0 with
    | .queued _ => true
    | _ => false) = true := by decide +kernel

/-- A thread that acts for bay 3. -/
def acting : State :=
  let s := setDesc (bay3 (linked [])) 7 { st := .dispatched, flow := 101 }
  setThr s 0 { run := .running, task := some 7 }

theorem witness_BayTraffic :
    (let s := bay3 (linked [])
     hostReaches s 3 = true ∧ (0xFFFF : BitVec 20).toNat + 1 ≤ winSize s 3 ∧ winPasses s 3 0xFF permW (winBase s 3 + 0xFFFF) 1 = true ∧
       winPasses s 3 0xFF permR (winBase s 3 + 0xFFFF) 1 = true ∧ 1 ≤ maxPayload s 3 ∧ winSize s 3 ≤ (0x10000 : BitVec 20).toNat ∧
       winSize s 3 < (0xFFFF : BitVec 20).toNat + [1, 2].length ∧ winPasses s 3 0xFF permR (winBase s 3) 4 = true ∧
       linkCarries s 3 = true ∧ mainOn s = true ∧ s.sys.mode ≠ Mode.lockdown ∧ (0x8000 : BitVec 20).toNat % 4 = 0 ∧
       bayHasChannel s 3 (bay s 3).chsel.toNat = false) ∧
    (let s := bay3 { link := 2 }
     let s := setRegion s 1 0 { base := 0, limit := 0, en := false }
     winPasses s 3 0xFF permR (winBase s 3) 4 = false) ∧
    (guardLets acting (.thread 0) permR (notifyAddr 3).toNat 4 = true ∧ actsFor acting 0 3 = true ∧
      (cqOf acting 3 0).en = true ∧ 0 < cqFree (cqOf acting 3 0) ∧ actsFor acting 1 3 = false) ∧
    (let s := bay3 { linked [] with cfg := [(0x90, 0x80000000)], vecs := vset (.replicate 32 {}) 31 { pending := true } }
     hostReaches s 3 = true ∧ (vget (bay s 3).vecs 31).pending = true ∧ msixOn s 3 = true ∧ msixMasked s 3 = false ∧
       (vget (bay s 3).vecs 31).addr.toNat % 4 = 0 ∧ messageWaits s 3 31 = false ∧ (vget (bay s 3).vecs 0).pending = false ∧ linkCarries s 3 = true) ∧
    (let s := setSq 3 15 { fetching := 1 } (bay3 (linked []))
     (sqOf s 3 15).fetching ≠ 0) ∧
    cmdOf (bay3 (linked [command 1 .dataIn])) 3 255 = some (command 1 .dataIn) ∧
    (let s := bay3 { linked [] with cfg := [(0x78, 0x400)] }
     let s : State := { s with seed := { s.seed with recs := [bayRecord, ⟨0x0C, false, [3, 1, 1, 0, 10, 0, 1, 0]⟩] } }
     seedFind s 0x0C 1 3 = some ⟨0x0C, false, [3, 1, 1, 0, 10, 0, 1, 0]⟩ ∧ SeedEntry.num ⟨0x0C, false, [3, 1, 1, 0, 10, 0, 1, 0]⟩ 1 1 ≠ 0 ∧
       ltrOn s 3 = true ∧ linkCarries s 3 = true ∧ mainOn s = true ∧ (bay s 3).ltrNs = none) ∧
    (bay (bay3 { link := 3 }) 3).link = 3 ∧
    (let s : State := { inRun with seed := { wait := .copying none true, source := 1 } }
     s.seed.wait = .copying none true ∧ s.seed.source = 1 ∧ seedCode (copyStaging true s) (seedSlotBase true) false ≠ 0 ∧ mainOn s = true) := by decide +kernel

theorem witness_BaySlot :
    mainOn (bay3 {}) = true ∧ (bay (bay3 {}) 3).present = false ∧ (bay (bay3 (linked [])) 3).present = true ∧
    (let s := bay3 { btnPend := true }
     (bay s 3).btnPend = true ∧ (bay s 3).cmds = []) ∧
    (let s := bay3 { linked [command 1 .admitted] with btnPend := true }
     (bay s 3).btnPend = true ∧ (bay s 3).cmds ≠ []) ∧
    (bay (bay3 { quiescing := true }) 3).quiescing = true ∧
    ((bay (bay3 {}) 3).quiesced = false ∧ (bay (bay3 {}) 3).cause ≠ 5) ∧
    ((bay (bay3 { cause := 5 }) 3).cause = 5 ∧ (bay (bay3 { cause := 5 }) 3).link = 0) ∧
    ((bay (bay3 (linked [])) 3).perst = false ∧ (bay (bay3 (linked [])) 3).link = 2) ∧
    ((bay (bay3 {}) 3).perst = true ∧ bayEnabled (bay3 {}) 3 = true ∧ (bay3 {}).seed.applied = true ∧
      (bay3 {}).seed.lockdownOnly = false ∧ fieldSupply (bay3 {}) = true ∧ bayEnabled (bay3 {}) 2 = false) ∧
    (let s := bay3 { perst := false, link := 1 }
     (bay s 3).perst = false ∧ bayEnabled s 3 = true ∧ fieldSupply s = true ∧ (3 : BitVec 2) ≠ 0 ∧ (3 : BitVec 2).toNat ≤ bayMaxRate s 3 ∧ (bay s 3).link ≠ 2 ∧ (bay s 3).link ≠ 3) := by
  decide +kernel

/-! ### The Granary -/

/-- Step 1 of a path of owner 0, of a usage, an algorithm and an ATTR. -/
def pathStep (u a attr : Nat) : List Byte :=
  [0, 0, 0, 1, 0x4F, 0x4C, 0x47, 0x52, 1, 0x41] ++ List.replicate 32 0 ++ leBytes 1 u ++ [1, 0] ++ leBytes 1 a ++ [0, 0] ++
    leBytes 4 attr ++ List.replicate 8 0 ++ [0, 0, 1, 0]
/-- The key of that step under a root of seven. -/
def stepKey (u a attr : Nat) : List Byte := hmac (bytes256 7) (pathStep u a attr)
/-- The body of owner 0's root record, without its CRC. -/
def rootBody (digest : List Byte) : List Byte := magicRoot ++ [0, 0, 1, 0, 1, 0, 0, 0, 0, 0, 0, 0] ++ digest ++ List.replicate 76 0
/-- Bytes from an address, as a memory lists them. -/
def cells : Nat → List Byte → Memory
  | _, [] => []
  | a, b :: bs => (a, b) :: cells (a + 1) bs
/-- Owner 0 with a root of seven and a record of these officers. -/
def rooted (digest : List Byte) (s : State) : State :=
  { s with
      mem := { s.mem with flash := cells (rootLoc 0 false) (rootBody digest ++ leBytes 4 (crc32 (rootBody digest)).toNat) }
      grn := { s.grn with ready := true, roots := [(0, some { d := 7 })], ostate := vset s.grn.ostate 0 Owner.active } }
/-- A request of thread 0 with a path of one step and its input at 0x20000000. -/
def request (opc : Byte) (path inp : List Byte) : GrnReq :=
  { caller := .wait 0, src := 0, tag := 0, bay := none, byBay := false, malformed := false, opc := opc, flags := 0, depth := 1
    owner := 0, trunc := 32, path := path, blob := [], auth := [], inAddr := 0x20000000, inLen := BitVec.ofNat 32 inp.length
    aadAddr := 0, aadLen := 0, auxAddr := 0x20001000, auxLen := 64, outAddr := 0x20002000, outLen := 64 }
/-- The request at the head of GRQ, its input and its AUX in SRAM. -/
def asked (r : GrnReq) (inp aux : List Byte) : State :=
  let s := rooted (List.replicate 32 0) { inRun with mem := { sram := cells 0x20000000 inp ++ cells 0x20001000 aux } }
  { s with grn := { s.grn with grq := [r] } }

/-- The conditions of a key-use command, decided; `p` is asked of the key and the state after its walk. -/
def findsKey (s : State) (r : GrnReq) (opc : Nat) (p : KeyInfo → State → Bool) : Bool :=
  decide (s.grn.grq.head? = some r ∧ s.grn.ready = true ∧ granaryServes s = true ∧ r.opc.toNat = opc ∧ r.malformed = false ∧
    limpReason s 1 = false) && ownerServed (grnRuns s r true) r &&
  match keyOf r.owner.toNat r.depth.toNat r.path (if leafFlag r.flags.toNat then some r.blob else none)
    (fun k => keyServes r.opc.toNat k && admits (grnJob s r) k) (grnRuns s r true) with
  | (some (k, _), s1) => !attrDual k.attr && p k s1
  | (none, _) => false

theorem findsKey_means {s : State} {r : GrnReq} {opc : Nat} {p : KeyInfo → State → Bool} (h : findsKey s r opc p = true) :
    ∃ k s1, (grnServes s r opc ∧ grnKey s r k s1) ∧ p k s1 = true := by
  simp only [findsKey, Bool.and_eq_true, decide_eq_true_eq] at h
  obtain ⟨⟨h1, h2⟩, h3⟩ := h
  split at h3
  · rename_i k ks s1 e
    simp only [Bool.and_eq_true, Bool.not_eq_true'] at h3
    exact ⟨k, s1, ⟨h1, h2, h3.1, ks, e⟩, h3.2⟩
  · cases h3

/-- Sixteen bytes of input. -/
def plain16 : List Byte := List.replicate 16 0x5A

theorem witness_GranaryKeyUse_symmetric :
    findsKey (asked (request 0x01 (pathStep 1 0 0x1001) plain16) plain16 []) (request 0x01 (pathStep 1 0 0x1001) plain16) 0x01 (fun _ _ => true) = true ∧
    findsKey (asked (request 0x03 (pathStep 4 0 0x1004) plain16) plain16 []) (request 0x03 (pathStep 4 0 0x1004) plain16) 0x03 (fun _ _ => true) = true ∧
    findsKey (asked (request 0x10 (pathStep 16 1 0x1010) plain16) plain16 []) (request 0x10 (pathStep 16 1 0x1010) plain16) 0x10 (fun _ _ => true) = true ∧
    findsKey (asked (request 0x11 (pathStep 16 1 0x1010) plain16) plain16 []) (request 0x11 (pathStep 16 1 0x1010) plain16) 0x11 (fun _ _ => true) = true ∧
    findsKey (asked (request 0x12 (pathStep 16 2 0x1010) plain16) plain16 []) (request 0x12 (pathStep 16 2 0x1010) plain16) 0x12 (fun _ _ => true) = true ∧
    findsKey (asked (request 0x13 (pathStep 16 2 0x1010) plain16) plain16 []) (request 0x13 (pathStep 16 2 0x1010) plain16) 0x13 (fun _ _ => true) = true := by
  decide +kernel

/-- Sixteen bytes sealed under the step's key with an IV of zeros. -/
def sealed : List Byte := beBytes 44 88331232759090450724986262783206610882381967100348826323677876037425085604540
/-- That key. -/
def openKey : List Byte := beBytes 32 14674985902517425003607149771758838376163939983732579874077291011762296325542
/-- What OPEN makes of its input. -/
def opened (inp : List Byte) : Option (List Byte) :=
  gcmOpen openKey (inp.take 12) [] (bytesAt inp 12 (inp.length - 28)) (inp.drop (inp.length - 16))

theorem witness_GranaryKeyUse_open :
    (∀ inp ∈ [sealed, List.replicate 28 0],
      findsKey (asked (request 0x02 (pathStep 2 0 0x1002) inp) inp []) (request 0x02 (pathStep 2 0 0x1002) inp) 0x02
        (fun k _ => decide (k.key = openKey)) = true) ∧
    (opened sealed).isSome = true ∧ (opened (List.replicate 28 0)).isNone = true := by decide +kernel

/-- Sixteen bytes wrapped under the step's key. -/
def wrapped : List Byte := beBytes 24 5507658070152262867809738853467453656128527363720846775595
/-- That key. -/
def wrapKey : List Byte := beBytes 32 19409754833318497238069589089257370193828829947006601090254594156861984358595

theorem witness_GranaryKeyUse_wrapped :
    (∀ inp ∈ [wrapped, List.replicate 24 0],
      findsKey (asked (request 0x04 (pathStep 4 0 0x1004) inp) inp []) (request 0x04 (pathStep 4 0 0x1004) inp) 0x04
        (fun k _ => decide (k.key = wrapKey)) = true) ∧
    (keyUnwrap wrapKey wrapped).isSome = true ∧ (keyUnwrap wrapKey (List.replicate 24 0)).isNone = true := by decide +kernel

/-- A leaf's plaintext: the scalar 1, Agree, P-256. -/
def leaf48 : List Byte := List.replicate 31 0 ++ [1, 8, 2, 0, 0, 0x08, 0x10, 0, 0] ++ List.replicate 8 0

theorem witness_GranaryKeyUse_leaf :
    findsKey (asked (request 0x05 (pathStep 4 0 0x100C) leaf48) leaf48 []) (request 0x05 (pathStep 4 0 0x100C) leaf48) 0x05
      (fun k s1 => (leafInfo s1 0 k [] leaf48).isSome) = true ∧
    findsKey (asked (request 0x06 (pathStep 4 0 0x1004) []) [] (pathStep 1 0 0x1001)) (request 0x06 (pathStep 4 0 0x1004) []) 0x06
      (fun _ s1 => (exportKey (grnJob (asked (request 0x06 (pathStep 4 0 0x1004) []) [] (pathStep 1 0 0x1001))
        (request 0x06 (pathStep 4 0 0x1004) [])) s1).1.isSome) = true := by decide +kernel

/-- An ECDH request; its peer is the base point. -/
def agreeing : GrnReq := request 0x14 (pathStep 8 2 0x1008) (pointBytes basePoint)

theorem witness_GranaryKeyUse_agree :
    findsKey (asked agreeing (pointBytes basePoint) []) agreeing 0x14
      (fun k _ => (ecdhShared (scalarOf false k) (pointBytes basePoint)).isSome) = true := by decide +kernel

/-- The conditions `grnServes`, decided. -/
theorem serves {s : State} {r : GrnReq} {opc : Nat} (h : s.grn.grq.head? = some r ∧ s.grn.ready = true ∧ granaryServes s = true ∧
    r.opc.toNat = opc ∧ r.malformed = false ∧ limpReason s 1 = false) : grnServes s r opc := h

theorem witness_GranaryKeyUse_others :
    (∀ opc ∈ ([0x20, 0x21, 0x30, 0x01, 0x12, 0x31] : List Byte),
      grnServes (asked (request opc [] []) [] []) (request opc [] []) opc.toNat) ∧
    (asked (request 0x30 [] []) [] []).grn.nonces.length ≤ 4 ∧
    (∀ q ∈ ([0x01, 0x02, 0x03, 0x04, 0x05, 0x06, 0x10, 0x11, 0x12, 0x13, 0x14] : List Byte),
      let r : GrnReq := { request q [] [] with owner := 63 }
      (asked r [] []).grn.grq.head? = some r ∧ (asked r [] []).grn.ready = true ∧ granaryServes (asked r [] []) = true ∧
        limpReason (asked r [] []) 1 = false ∧ ownerServed (grnRuns (asked r [] []) r true) r = false ∧
        rootInfo (asked r [] []) 63 = none) :=
  ⟨fun opc h => by
    simp only [List.mem_cons, List.not_mem_nil, or_false] at h
    rcases h with rfl | rfl | rfl | rfl | rfl | rfl <;> exact serves (by decide +kernel), by decide +kernel, by decide +kernel⟩

theorem witness_DerivationTree :
    (pathStep 1 0 0x1001).length = 64 ∧
    (let s := rooted (List.replicate 32 0) inRun
     (match rootInfo s 0 with
      | none => false
      | some root => stepForm (pathStep 1 0 0x1001) 1 0 && narrows (dualUse s 0) root 1 0 0x1001 0 && inTime s 0 &&
          !stepForm (pathStep 1 0 0x1001) 1 63 && !narrows (dualUse s 0) root 16 0 0x1010 0) = true) := by decide +kernel

/-! ### Owner operations -/

/-- The two officers' public keys. -/
def officerA : List Byte := beBytes 64 3289977904974803068534310029905908672244723151419965200137572730900470189404928653456303127830151464511332671139471304181021899622969150451144704834287424
def officerB : List Byte := beBytes 64 10101098507414286876428778296618377700613088630425850059557076352497258641327052790059265399099556351925611060651750131167387611348614146955336143090674796
/-- The officer set of these two, and its digest. -/
def officers : List Byte := [2, 0] ++ sha256 officerA ++ sha256 officerB ++ List.replicate 64 0
def officersDigest : List Byte := beBytes 32 48297604829677479494238157969189437880794739946431009188257082783828188002017
/-- An authorisation under a nonce of A5s, for a serial number of zero, with the two signatures. -/
def authFor (opc o : Byte) (param sigA sigB : Nat) : List Byte :=
  [0x4F, 0x4C, 0x44, 0x43, 1, opc, o, 0] ++ List.replicate 8 0 ++ List.replicate 16 0xA5 ++ beBytes 32 param ++ officerA ++
    beBytes 64 sigA ++ officerB ++ beBytes 64 sigB
def createAuth : List Byte := authFor 0x31 5
  24583467833536947545118183964757629091487457238045744208516059415520615722737
  7454171674282902517676912758867188612868323551704149317177155871159240399651972136292211812637849015179754317884724988437514318255936262649234064885761696
  12277023867220910057157259487258718005235249135534453019112969705865548563944002134500754646721952730405497533211596065983402063588406743243299698548675871
def deleteAuth : List Byte := authFor 0x32 0
  59362833118723189712186481514678812730393686001152800007005921451460417115861
  7454171674282902517676912758867188612868323551704149317177155871159240399652040506097255540165293394719639991364079059949910757853415121998667454519687091
  12277023867220910057157259487258718005235249135534453019112969705865548563943978116289648419521901005082997896424295901411783203879550907897929400367032710
def rebindAuth : List Byte := authFor 0x33 0
  57959455740863621532586807162440037258015205354412429479263698843530755932203
  7454171674282902517676912758867188612868323551704149317177155871159240399652023658217721341652724570563127204951209388121929400849303194312237558116123805
  12277023867220910057157259487258718005235249135534453019112969705865548563943939280807963963734622431306388083086835046222192340485165536973137021272695850
def restoreAuth : List Byte := authFor 0x34 0
  0
  7454171674282902517676912758867188612868323551704149317177155871159240399652035417083806219763298247185680581069930418145012628883036729013281491921646953
  12277023867220910057157259487258718005235249135534453019112969705865548563943909829229626527959925502863835350876885848366182361480177478765373058061865731
def restoreHeldAuth : List Byte := authFor 0x34 0
  110351834327524319586421007012986241444677107104306893507881976962899341412421
  7454171674282902517676912758867188612868323551704149317177155871159240399651970903788029059408142038437152274958900713443875715606465673063233625051802003
  12277023867220910057157259487258718005235249135534453019112969705865548563943975444311010203932455593506373853697392741664966675803186857507730230119586250
/-- An owner operation's request. -/
def owning (opc o : Byte) (a : List Byte) : GrnReq := { request opc [] [] with owner := o, flags := 2, auth := a, auxLen := 130 }
/-- The state it meets: owner 0 has a record, owners 0 and 5 are in the seed, the nonce lives, AUX holds the officers. -/
def owned (st : BitVec 4) (r : GrnReq) : State :=
  let s := rooted officersDigest { inRun with mem := { sram := cells 0x20001000 officers } }
  { s with
      seed := { s.seed with recs := [⟨0x0D, false, [0, 0] ++ officers⟩, ⟨0x0D, false, [5, 0] ++ officers⟩] }
      grn := { s.grn with grq := [r], ostate := vset (vset s.grn.ostate 0 st) 5 Owner.declared
                          nonces := [{ nonce := ofBytes 128 (List.replicate 16 0xA5), priv := 1, issued := 0 }] } }
/-- The same with an escrow copy in force that names owner 0. -/
def escrowed (r : GrnReq) : State :=
  let s := owned Owner.escrowWait r
  { s with
      mem := { s.mem with store := cells 0xC0000 ([0x45, 0x53, 0x43, 0x52, 1, 0, 1, 0] ++ List.replicate 56 0) ++
                                   cells 0xC0040 (List.replicate 16 0 ++ officersDigest ++ List.replicate 48 0) }
      grn := { s.grn with escrow := some false } }

/-- The conditions of an authorised operation, decided. -/
def ownerMay (s : State) (r : GrnReq) (opc : Nat) : Bool :=
  decide (s.grn.grq.head? = some r ∧ s.grn.ready = true ∧ granaryServes s = true ∧ r.opc.toNat = opc ∧ r.malformed = false ∧
    limpReason s 1 = false) && dcFlag r.flags.toNat && mayOwner (grnRuns s r true) (grnJob s r) opc r.owner.toNat &&
  decide (authBasics (grnRuns s r true) r.auth opc r.owner.toNat (opSet (grnRuns s r true) (grnJob s r) opc r.owner.toNat) = 0)

theorem ownerMay_means {s : State} {r : GrnReq} {opc : Nat} (h : ownerMay s r opc = true) :
    grnServes s r opc ∧ authorised s r opc := by
  simp only [ownerMay, Bool.and_eq_true, decide_eq_true_eq] at h
  exact ⟨h.1.1.1, h.1.1.2, h.1.2, h.2⟩

theorem witness_GranaryOwners_refused :
    ∀ opc ∈ ([0x31, 0x32, 0x33, 0x34] : List Byte),
      let r : GrnReq := { owning opc 63 [] with flags := 0 }
      let s := owned Owner.active r
      (s.grn.grq.head? = some r ∧ s.grn.ready = true ∧ granaryServes s = true ∧ r.malformed = false ∧ limpReason s 1 = false) ∧
        mayOwner (grnRuns s r true) (grnJob s r) opc.toNat 63 = true ∧ dcFlag r.flags.toNat = false := by decide +kernel

theorem witness_GranaryOwners_create :
    let r := owning 0x31 5 createAuth
    let s := owned Owner.active r
    let s1 := killNonce (authNonce r.auth) (grnRuns s r true)
    ownerMay s r 0x31 = true ∧ importFlag r.flags.toNat = false ∧ opState s1 0x31 (ownerState s1 5) = true ∧
      opParam s1 (grnJob s r) 0x31 5 none = true ∧ (incrementCounter 3 (newRoot none s1).2).1 = true := by decide +kernel

theorem witness_GranaryOwners_delete :
    let r := owning 0x32 0 deleteAuth
    let s := owned Owner.lost r
    let s1 := killNonce (authNonce r.auth) (grnRuns s r true)
    ownerMay s r 0x32 = true ∧ opState s1 0x32 (ownerState s1 0) = true ∧ opParam s1 (grnJob s r) 0x32 0 none = true := by
  decide +kernel

theorem witness_GranaryOwners_rebind :
    let r := owning 0x33 0 rebindAuth
    let s := owned Owner.rebind r
    let s1 := killNonce (authNonce r.auth) (grnRuns s r true)
    ownerMay s r 0x33 = true ∧ opState s1 0x33 (ownerState s1 0) = true ∧ opParam s1 (grnJob s r) 0x33 0 none = true ∧
      (rootRecord s1 0).isSome = true ∧ (rootOf s1 0).isSome = true := by decide +kernel

theorem witness_GranaryOwners_restore :
    (let r := owning 0x34 0 restoreAuth
     let s := owned Owner.escrowWait r
     let s1 := killNonce (authNonce r.auth) (grnRuns s r true)
     ownerMay s r 0x34 = true ∧ opParam s1 (grnJob s r) 0x34 0 none = true ∧ restoreOpen s1 = false) ∧
    (let r := owning 0x34 0 restoreHeldAuth
     let s := escrowed r
     let s1 := killNonce (authNonce r.auth) (grnRuns s r true)
     ownerMay s r 0x34 = true ∧ opParam s1 (grnJob s r) 0x34 0 none = true ∧ restoreOpen s1 = true) := by decide +kernel

/-- A completion for thread 15 at the head of GRC, or one for a flow. -/
def completes (c : Caller) : State :=
  let s := withThr 15 { run := .running, stile := some 0x08002000 }
  { s with grn := { s.grn with ready := true, grc := [{ caller := c, status := 0, slots := [47] }]
                               slots := vset s.grn.slots 47 { st := .transit } } }
/-- Thread 15 calls the Granary with a descriptor at 0x20000100; it asks for HASH. -/
def callsGranary (wait f : Word) (n : BitVec 11) : State :=
  let s := withThr 15 { run := .running, stile := some 0x08002000
                        encl := vset (vset (vset (vset (.replicate 32 0) 1 1) 5 0x20000100) 6 wait) 7 f }
  let s := setFlow s 4094 { en := true, credits := n }
  setRegion { s with mem := { sram := cells 0x20000100 [0x20] } } 1 0
    { base := 0x20000000, limit := 0x2000FFFF, en := true, perm := 3, owner := 0xFF, bay := 0xFF }
/-- The call's answer is a queued request. -/
def queues (s : State) (c : Caller) (addr : Nat) : Bool := match grnTake s (threadAsker s 15 c) addr with
  | .queued _ => true
  | _ => false

/-- R418, R419 › Edges: the first period ends with P 0, the second with P all ones; two that end together count as both. -/
theorem test_remask_polarity :
    (let s : State := { completes .fold with now := 15000000000 }
     (remaskOp s).grn.polarity = false ∧ (remaskOp { remaskOp s with now := 30000000000 }).grn.polarity = true ∧
       (remaskOp { s with now := 30000000000 }).grn.polarity = true ∧ (remaskOp (remaskOp s)).grn.passes = 1) := by decide +kernel

theorem witness_GranaryOwners_others :
    (let s := inRun
     s.grn.ready = false ∧ granaryServes s = true ∧ shareValue s = 0 ∧
       shareValue { s with bkp := { s.bkp with share := 1 } } ≠ 0 ∧ rootRecord s 63 = none) ∧
    (rootRecord { rooted officersDigest inRun with grn := {} } 0).isSome = true ∧
    (let s : State := { completes .fold with now := 15000000000 }
     s.grn.ready = true ∧ mainOn s = true ∧ s.grn.periodAt + remaskSpan s ≤ s.now ∧
       (completes .fold).now < (completes .fold).grn.periodAt + remaskSpan (completes .fold)) ∧
    (let s : State := { inMode Mode.backup with now := 900000000000 }
     s.sys.mode = Mode.backup ∧ s.bkp.held = false ∧ s.bkp.invertAt + 900000000000 ≤ s.now) ∧
    (thr (completes (.wait 15)) 15).stile.isSome = true ∧ (vget (completes (.wait 15)).grn.slots 47).st = .transit ∧
    (let s := setFlow (completes (.flow 15 4094 0)) 4094 { credits := 1 }
     freeDesc s 4094 = some 0 ∧ (flow s 4094).ready = false ∧ freeDesc (full4095 (completes (.flow 15 4095 0))) 4095 = none) ∧
    (let s := setFlow (completes (.flow 15 4094 0)) 4094 { credits := 1, ready := true }
     (flow s 4094).ready = true ∧ oldestEntry s 4094 (fun m => decide (m.tag = some 0)) = none ∧ freeEntry s = some 0 ∧
       freeDesc s 4094 = some 0) ∧
    (let s := callsGranary 1 0 0
     (match grnTake s (threadAsker s 15 (.wait 15)) 0x20010000 with
      | .silent => true
      | _ => false) = true) ∧
    completionFlowOk (callsGranary 0 4095 1) (threadAsker (callsGranary 0 4095 1) 15 (.flow 15 4095 0x20000100)) 4095 = false ∧
    (let s := callsGranary 1 0 0
     serving s 15 1 = true ∧ (stileReg s 15 6).getLsbD 0 = true ∧ queues s (.wait 15) 0x20000100 = true) ∧
    (let s := callsGranary 0 4094 1
     serving s 15 1 = true ∧ (stileReg s 15 6).getLsbD 0 = false ∧
       completionFlowOk s (threadAsker s 15 (.flow 15 4094 0x20000100)) 4094 = true ∧
       queues s (.flow 15 4094 0x20000100) 0x20000100 = true ∧ 0 < freeCredits (flow s 4094)) ∧
    (let s := callsGranary 0 4094 0
     completionFlowOk s (threadAsker s 15 (.flow 15 4094 0x20000100)) 4094 = true ∧
       queues s (.flow 15 4094 0x20000100) 0x20000100 = true ∧ freeCredits (flow s 4094) = 0) := by decide +kernel

/-! ### Images and certificates, signed with keys of the tests' own -/

/-- The Enclosure's and the builder's public keys. -/
def enclKey : List Byte := beBytes 64 3736249649590740374623561626639637306787197937252324413415964792633636332031792048703761194833702426834451678257535346627107525141023408220628203049813456
def builderKey : List Byte := beBytes 64 7962489569377744093555186448968894362644146759542053426972199936409245199404002517992622874364489879197353397367554898543886113335877214408284072061389556
/-- The debug key of a certificate. -/
def debugKey7 : List Byte := beBytes 64 398888924534476535482413289603785387333402505709694135087414001138800746581432230769025271823174773386107370465691092636043406827976315226802375996100074
/-- An Enclosure image's header and signature; its body is 0xA00 erased bytes. -/
def enclImage : List Byte :=
  magicEncl ++ [1, 0] ++ List.replicate 8 0 ++ [0, 0] ++ leBytes 4 0xA00 ++ List.replicate 108 0 ++ enclKey ++
    beBytes 64 4260531635778674157409802389126950721792302607421963258133790195781380542157174120018733527289530551780396112003329810114753781484254402021012350080479660
/-- A Commons image's header; its body is 0xA00 erased bytes, and its digest. -/
def commonsImage : List Byte := magicCmns ++ [1, 0, 0, 0] ++ leBytes 4 0xA00 ++ List.replicate 52 0
def commonsDigest : List Byte := beBytes 32 73318882749927544593611313415850275274055088585799094091542213626516407343666
/-- A seed image of issue 7 with a CLOCKS record of zeros and END. -/
def seedImage : List Byte :=
  magicSeed ++ [1, 0] ++ List.replicate 6 0 ++ leBytes 4 24 ++ List.replicate 8 0 ++ leBytes 4 7 ++ List.replicate 36 0 ++
    builderKey ++ ([1, 0, 16, 0] ++ List.replicate 16 0 ++ [0xFF, 0, 0, 0]) ++
    beBytes 64 9223205724989030970759594100237439775813764426769742106170423073117356856641732748783866972254656784668666495109031992865080903232182214336279778212068061
/-- A builder's signature over a nonce of A5s and a serial number of zero. -/
def provSignature : List Byte := beBytes 64 5177167426691155409348182424507495792730180570372455310783614708398796212356713989278671418042341639690164377113446653586026103168961638677771671235976294
/-- A certificate: all scopes, key 7, seconds 100 to 200, counter value 64. -/
def certificate : List Byte :=
  [0x4F, 0x4C, 0x44, 0x42, 1, 0xFF, 7, 0] ++ List.replicate 8 0 ++ leBytes 8 100 ++ leBytes 8 200 ++ leBytes 4 64 ++
    List.replicate 28 0 ++ debugKey7 ++
    beBytes 64 12277023867220910057157259487258718005235249135534453019112969705865548563944016202874972370837697943905996129444759091126546538633722594923966043403265427
/-- Fuses: the hashes of the two keys, and the lifecycle Fielded. -/
def fieldedFuses : BitVec 4096 :=
  BitVec.ofNat 4096 (8265116534906325136583164277441317515147101880709146700724017880965836164048 + 17430722557238089944825459665649774213732287170464265344067383010758942124146 * 2 ^ 256 + 7 * 2 ^ 1088)

/-! ### What memory that lists an image reads as -/

theorem tabGet_cells (d : Byte) (bs : List Byte) (a k : Nat) :
    tabGet d (cells a bs) k = if a ≤ k then bs.getD (k - a) d else d := by
  induction bs generalizing a with
  | nil => simp [cells, tabGet]
  | cons b bs ih =>
    simp only [cells, tabGet, ih]
    by_cases h : a = k
    · subst h; simp
    · rw [if_neg h]
      by_cases h1 : a ≤ k
      · obtain ⟨m, rfl⟩ : ∃ m, k = a + 1 + m := ⟨k - (a + 1), by omega⟩
        rw [if_pos (by omega), if_pos h1, show a + 1 + m - (a + 1) = m by omega, show a + 1 + m - a = m + 1 by omega]
        rfl
      · rw [if_neg h1, if_neg (by omega)]

theorem memBytes_eq_map (d : Byte) (m : Memory) (a n : Nat) : memBytes d m a n = (List.range n).map fun i => tabGet d m (a + i) := by
  induction n generalizing a with
  | zero => rfl
  | succ n ih =>
    rw [memBytes, ih, List.range_succ_eq_map, List.map_cons, List.map_map]
    refine congrArg₂ _ rfl (List.map_congr_left fun i _ => ?_)
    rw [Function.comp_apply, Nat.succ_eq_add_one, Nat.add_assoc, Nat.add_comm 1 i]

theorem memBytes_cells (d : Byte) (bs : List Byte) (a off n : Nat) :
    memBytes d (cells a bs) (a + off) n = (List.range n).map fun i => bs.getD (off + i) d := by
  rw [memBytes_eq_map]
  refine List.map_congr_left fun i _ => ?_
  rw [tabGet_cells, if_pos (by omega), show a + off + i - a = off + i by omega]

/-- A read of what an image covers, and of blank bytes above it. -/
theorem memBytes_image (d : Byte) (bs : List Byte) (a n : Nat) :
    memBytes d (cells a bs) a n = (bs ++ List.replicate (n - bs.length) d).take n := by
  have h := memBytes_cells d bs a 0 n
  rw [Nat.add_zero] at h
  rw [h]
  refine List.ext_getElem (by simp; omega) fun i h1 h2 => ?_
  simp only [List.getElem_map, List.getElem_range, List.getElem_take, List.getElem_append, List.getElem_replicate, Nat.zero_add,
    List.getD_eq_getElem?_getD]
  split <;> rename_i hh
  · simp [hh]
  · simp [List.getElem?_eq_none (Nat.le_of_not_lt hh)]

theorem memBytes_above (d : Byte) (bs : List Byte) (a b n : Nat) (h : a + bs.length ≤ b) :
    memBytes d (cells a bs) b n = List.replicate n d := by
  obtain ⟨off, rfl⟩ : ∃ off, b = a + off := ⟨b - a, by omega⟩
  rw [memBytes_cells]
  refine List.ext_getElem (by simp) fun i h1 h2 => ?_
  simp only [List.getElem_map, List.getElem_range, List.getElem_replicate, List.getD_eq_getElem?_getD]
  rw [List.getElem?_eq_none (by omega)]
  rfl

/-- A Fielded module after a cold reset with the image in Enclosure slot A. -/
def bootable : State := { State.reset with fuse := { array := fieldedFuses }, mem := { flash := cells 0x08000000 enclImage } }

theorem enclImage_length : enclImage.length = 256 := by decide +kernel

theorem enclCode_image (s : State) (h1 : s.mem.flash = cells 0x08000000 enclImage) (h2 : s.fuse.view = fieldedFuses) :
    enclCode s false false = 0 := by
  have e1 : flashRead s 0x08000000 0x100 = enclImage := by
    rw [flashRead, h1, memBytes_image, enclImage_length, Nat.sub_self]
    exact (congrArg _ (List.append_nil _)).trans (List.take_of_length_le (Nat.le_of_eq enclImage_length))
  have e2 : flashRead s 0x08000000 0xC0 = enclImage.take 0xC0 := by
    rw [flashRead, h1, memBytes_image, enclImage_length]
    exact List.take_append_of_le_length (by rw [enclImage_length]; omega)
  have e3 : ∀ n, flashRead s (0x08000000 + 0x100) n = List.replicate n 0xFF := fun n => by
    rw [flashRead, h1]
    exact memBytes_above _ _ _ _ _ (by rw [enclImage_length])
  have e4 : enclSlotBase false = 0x08000000 := rfl
  simp only [enclCode, enclDigest, enclVer, e4, e1, e2, e3, h2]
  decide +kernel

theorem witness_seedImage_passes :
    seedCode { inRun with fuse := { view := fieldedFuses }, mem := { store := cells 0 seedImage } } 0 false = 0 := by decide +kernel

/-! ### The ledger -/

/-- A ledger request at the head of LGQ, with bytes of the array as given. -/
def ldgReq (opc part : Byte) (index : Half) (arg : Word) : LdgReq :=
  { caller := .wait 15, src := 15, encl := true, tag := 0, malformed := false, opc := opc, part := part, index := index
    buf := 0x20000000, type := 0xFF, data := [1, 2], arg := arg }
def ledgered (r : LdgReq) (array : Memory) : State :=
  { inRun with ldg := { lgq := [r] }, mem := { ledger := array } }
/-- The same with NV_PROT asserted and every partition protected. -/
def guardedLedger (s : State) : State := { s with pins := { s.pins with nvProt := true }, ldg := { s.ldg with pinProt := 0xF } }
/-- A slot in force: the last of P1, or the last of P3. -/
def lastSlot (part slot : Nat) : Memory := cells (slotBase part slot) (makeSlot 383 2 0 7 0 [1, 2])
/-- A half of counter `c` with BASE 5 and its thermometer bytes. -/
def halfOf (c : Nat) (b : Bool) (therm : List Byte) : Memory := cells (halfBase c b) (leBytes 4 5 ++ leBytes 4 (2 ^ 32 - 6) ++ therm)
/-- `halfClean`, decided. -/
def cleanHalf (s : State) (c : Nat) (b : Bool) : Bool :=
  (List.range 960).all fun k => decide (k < halfCount s c b) ||
    (tabGet ledgerBlank s.mem.ledger (halfBase c b + 8 + k / 8)).getLsbD (k % 8)

theorem cleanHalf_means {s : State} {c : Nat} {b : Bool} (h : cleanHalf s c b = true) : halfClean s c b := by
  intro k h1 h2
  have := List.all_eq_true.mp h k (List.mem_range.mpr h2)
  simpa [Nat.not_lt.mpr h1] using this

theorem witness_LedgerRequests_records :
    (∀ opc ∈ ([0x01, 0x02, 0x03] : List Byte),
      let s := ledgered (ldgReq opc 1 383 0) []
      s.ldg.lgq = [ldgReq opc 1 383 0] ∧ mainOn s = true ∧ limpReason s 2 = false ∧ recordSlot s 1 383 = none ∧
        ldgProtected s 1 = false ∧ ldgProtected (guardedLedger s) 1 = true) ∧
    (let s := ledgered (ldgReq 0x01 1 383 0) (lastSlot 1 767)
     recordSlot s 1 383 = some 767 ∧ recordSlot (guardedLedger s) 1 383 = some 767 ∧ ldgProtected (guardedLedger s) 1 = true) := by
  decide +kernel

theorem witness_LedgerRequests_counters :
    (let s := ledgered (ldgReq 0x11 0 127 8) (halfOf 127 true [0xF8])
     counterValue s 127 = 8 ∧ activeHalf s 127 = some true ∧ cleanHalf s 127 true = true ∧ halfCount s 127 true + (72 - 8) ≤ 960 ∧
       ldgProtected s 2 = false ∧ ldgProtected (guardedLedger s) 2 = true ∧ (limpReason s 2 = false)) ∧
    (let s := { ledgered (ldgReq 0x10 0 127 0) [] with sys := { mode := Mode.limp, limpSet := 2 } }
     limpReason s 2 = true ∧ mainOn s = true) := by decide +kernel

theorem witness_LedgerRequests_log :
    (let s := ledgered (ldgReq 0x20 0 0 0) []
     ldgProtected s 3 = false ∧ ldgProtected (guardedLedger s) 3 = true ∧ slotValid s 3 511 = false) ∧
    slotValid (ledgered (ldgReq 0x21 0 511 0) (lastSlot 3 511)) 3 511 = true := by decide +kernel

/-- The patrol at a row, and a start pass due or not. -/
def patrolling (row : BitVec 11) (due : Bool) (array : Memory) : State :=
  { inRun with ldg := { row := row, passDue := due }, mem := { ledger := array } }
/-- Thread 15 calls the ledger with a READ of P1's record 0 into 0x20000000. -/
def callsLedger (opc : Byte) (a : Word) : State :=
  let s := withThr 15 { run := .running, stile := some 0x08002000
                        encl := vset (vset (vset (.replicate 32 0) 1 2) 5 a) 6 1 }
  setRegion { s with mem := { sram := cells 0x20000100 [opc, 1, 0, 0, 0, 0, 0, 0x20] } } 1 0
    { base := 0x20000000, limit := 0x2000FFFF, en := true, perm := 3, owner := 0xFF, bay := 0xFF }
/-- The same, its completion to go to a flow, of so many credits at 4094. -/
def callsLedgerFlow (f : Word) (n : BitVec 11) : State :=
  let s := callsLedger 0x01 0x20000100
  let x := thr s 15
  setFlow (setThr s 15 { x with encl := vset (vset x.encl 6 0) 7 f }) 4094 { en := true, credits := n }
/-- Its request is queued. -/
def flowTakes (s : State) : Bool := match ldgTake s (threadAsker s 15 (.flow 15 4094 0x20000100)) 0x20000100 with
  | .queued _ => true
  | _ => false
/-- What the ledger service makes of a call: 0 silent, 1 violation, 2 busy, 3 queued. -/
def ldgTakeCode (s : State) (a : Nat) : Nat := match ldgTake s (threadAsker s 15 (.wait 15)) a with
  | .silent => 0
  | .violation => 1
  | .busy => 2
  | .queued _ => 3

theorem witness_LedgerUpkeep_counters :
    (let s := ledgered (ldgReq 0 0 0 0) (halfOf 3 false [0xF8])
     mainOn s = true ∧ ldgProtected s 2 = false ∧ counterValue s 3 < 2 ^ 32 - 1 ∧ activeHalf s 3 = some false ∧
       halfCount s 3 false < 960 ∧ cleanHalf s 3 false = true) ∧
    (let s := ledgered (ldgReq 0 0 0 0) (halfOf 1 true (List.replicate 120 0))
     activeHalf s 1 = some true ∧ halfCount s 1 true = 960 ∧ activeHalf s 2 = none ∧ ldgProtected (guardedLedger s) 2 = true ∧
       counterValue (guardedLedger s) 1 ≠ 2 ^ 32 - 1) := by decide +kernel

theorem witness_LedgerUpkeep_patrol :
    (let s := patrolling 1532 false []
     patrolRuns s = true ∧ limpReason s 2 = false ∧ s.ldg.row.toNat < 1536 ∧ (s.ldg.row.toNat + 1) % 64 ≠ 0 ∧ 512 ≤ s.ldg.row.toNat) ∧
    (let s := patrolling 510 false (lastSlot 0 254)
     (s.ldg.row.toNat + 1) % 64 ≠ 0 ∧ s.ldg.row.toNat < 512 ∧ recordSlot s 0 (s.ldg.row.toNat / 4) = some 254) ∧
    (patrolling 1535 false []).ldg.row.toNat = 1535 ∧ (patrolling 0 true []).ldg.passDue = true ∧
    (patrolling 0 false []).ldg.passDue = false := by decide +kernel

theorem witness_LedgerUpkeep_service :
    (let s := callsLedger 0x01 0x20000100
     serving s 15 2 = true ∧ (stileReg s 15 6).getLsbD 0 = true ∧ ldgTakeCode s 0x20000100 = 3 ∧ ldgTakeCode s 0x20010000 = 0 ∧
       ldgTakeCode { s with ldg := { s.ldg with lgq := .replicate 16 (ldgReq 0 0 0 0) } } 0x20000100 = 2) ∧
    ldgTakeCode (callsLedger 0x02 0x20000100) 0x20000100 = 3 ∧ ldgTakeCode (callsLedger 0xFF 0x20000100) 0x20000100 = 1 ∧
    (thr (callsLedger 0 0) 15).stile.isSome = true ∧
    (let s := setFlow (callsLedger 0 0) 4094 { credits := 1 }
     freeDesc s 4094 = some 0 ∧ (flow s 4094).ready = false ∧ freeDesc (full4095 s) 4095 = none) ∧
    (let s := callsLedgerFlow 4094 1
     serving s 15 2 = true ∧ (stileReg s 15 6).getLsbD 0 = false ∧
       completionFlowOk s (threadAsker s 15 (.flow 15 4094 0x20000100)) 4094 = true ∧ flowTakes s = true ∧ 0 < freeCredits (flow s 4094)) ∧
    (let s := callsLedgerFlow 4094 0
     completionFlowOk s (threadAsker s 15 (.flow 15 4094 0x20000100)) 4094 = true ∧ flowTakes s = true ∧ freeCredits (flow s 4094) = 0) ∧
    completionFlowOk (callsLedgerFlow 4095 1) (threadAsker (callsLedgerFlow 4095 1) 15 (.flow 15 4095 0x20000100)) 4095 = false := by
  decide +kernel

/-! ### The start -/

/-- Nothing is wrong with what the ROM senses. -/
def soundRom : RomSense :=
  { fusesAgree := true, intrusionSeen := false, errRec0 := false, errRec1 := false, errSlotA := false, errSlotB := false
    handoverUs := 65535 }
def soundSeed : SeedSense := { errDir0 := false, errDir1 := false, errSlotA := false, errSlotB := false, liveUs := 65535 }

/-- What every case of ROM_SEQUENCE after a cold reset asks for. -/
def romStarts (s : State) : Bool :=
  s.sys.romPending && mainOn s && soundRom.fusesAgree && decide (s.fuse.uncertain = []) && !s.bkp.tamp.witness

theorem bootPref_bootable : bootPref bootable false false = false := by
  have e : ∀ a, 0x08000100 ≤ a → flashRead bootable a 32 = List.replicate 32 0xFF := fun a h =>
    memBytes_above _ _ _ _ _ (by rw [enclImage_length]; omega)
  rw [bootPref, bootRecord, e _ (by decide), e _ (by decide)]
  decide +kernel

theorem witness_RomAndHandover_image : enclCode (sampledFuses bootable) (bootPref bootable false false) false = 0 := by
  rw [bootPref_bootable]
  exact enclCode_image _ rfl rfl

theorem witness_RomAndHandover :
    (romStarts State.reset = true ∧ lifecycle State.reset.fuse.array = .store) ∧
    (romStarts bootable = true ∧ lifecycle bootable.fuse.array = .fielded ∧ intrusionFuse bootable.fuse.array = false ∧
      bootable.bkp.tamp.intrusion = false ∧ bootable.pins.safeIn = false ∧ bootable.bkp.tamp.safePend = false ∧
      bootable.sys.cause ≠ 4) ∧
    (let s : State := { State.reset with fuse := { array := fieldedFuses } }
     romStarts s = true ∧ lifecycle s.fuse.array = .fielded ∧ enclCode (sampledFuses s) false false ≠ 0 ∧
       enclCode (sampledFuses s) true false ≠ 0) ∧
    (let s : State := { bootable with bkp := { bootable.bkp with tamp := { bootable.bkp.tamp with intrusion := true } } }
     romStarts s = true ∧ lifecycle s.fuse.array ≠ .store ∧ s.bkp.tamp.intrusion = true) ∧
    inRun.sys.mode = Mode.run ∧ (inMode Mode.boot).sys.romPending = false ∧
    (let s : State := { inMode Mode.boot with boot := { romLocked := false, mlen := 0xA00 } }
     passesGuard s (.thread 0) 0x54000304 = true ∧ s.boot.romLocked = false ∧ (pcOf s 0).toNat ≤ 0x8000 ∧
       s.sys.romPending = false ∧ s.boot.mlen ≠ 0 ∧ homeEncl s 0 = true) ∧
    (passesGuard inRun (.thread 0) 0x54000304 = true ∧ romWrites inRun (.thread 0) = false) := by decide +kernel

/-- After handover, the signed seed image in slot A. -/
def seeded (m : BitVec 3) : State := { inMode m with fuse := { view := fieldedFuses }, mem := { store := cells 0 seedImage } }

theorem witness_SeedAndCommons_image :
    ((seeded Mode.boot).boot.romLocked = true ∧ (seeded Mode.boot).boot.remBusy = false ∧ (seeded Mode.boot).wld.restart = false ∧
      (seeded Mode.boot).seed.applied = false ∧ (chooseSeed soundSeed (seeded Mode.boot)).1 = true) ∧
    (chooseSeed soundSeed (seeded Mode.lockdown)).1 = true ∧ (chooseSeed soundSeed (inMode Mode.boot)).1 = false := by
  decide +kernel

/-- The IMAGE entry that binds the Commons image in slot A. -/
def imageEntry : SeedEntry := ⟨0x16, false, List.replicate 8 0 ++ commonsDigest ++ List.replicate 32 0⟩
/-- In Boot with the seed applied, IMAGE among its records or not, the Commons image in slot A, thread 15 idle. -/
def binding (es : List SeedEntry) : State :=
  let s := inMode Mode.boot
  setThr { s with seed := { applied := true, recs := es }, mem := { flash := cells 0x08200000 commonsImage } } 15 {}

theorem commonsImage_length : commonsImage.length = 64 := by decide +kernel

theorem witness_SeedAndCommons_match : commonsMatches (binding [imageEntry]) imageEntry false false = true := by
  have e1 : flashRead (binding [imageEntry]) 0x08200000 0x40 = commonsImage := by
    rw [flashRead, show (binding [imageEntry]).mem.flash = cells 0x08200000 commonsImage from rfl, memBytes_image,
      commonsImage_length, Nat.sub_self]
    exact (congrArg _ (List.append_nil _)).trans (List.take_of_length_le (Nat.le_of_eq commonsImage_length))
  have e2 : ∀ n, flashRead (binding [imageEntry]) 0x08200000 n = (commonsImage ++ List.replicate (n - 64) 0xFF).take n := fun n => by
    rw [flashRead, show (binding [imageEntry]).mem.flash = cells 0x08200000 commonsImage from rfl, memBytes_image, commonsImage_length]
    rfl
  have e3 : commonsBase false = 0x08200000 := rfl
  simp only [commonsMatches, e3, e1, e2]
  decide +kernel

theorem witness_SeedAndCommons :
    (let s := binding []
     s.sys.mode = Mode.boot ∧ s.seed.applied = true ∧ enclRuns s = true ∧ (retiredLimit s = 0 ∨ retiredCount s ≤ retiredLimit s) ∧
       seedOne s 0x16 = none ∧ s.boot.commons ≠ 1) ∧
    (let e : SeedEntry := ⟨0x16, false, 1 :: List.replicate 71 0⟩
     let s := binding [e]
     seedOne s 0x16 = some e ∧ commonsMatches s e true false = false ∧ commonsMatches s e false false = false) ∧
    (let s := binding [imageEntry]
     seedOne s 0x16 = some imageEntry ∧ imageEntry.num 0 1 ≠ 1 ∧
       ((fins 16).find? (fun t => !homeEncl s t && modeLets s t && decide ((thr s t).run = .idle) &&
                (thr s t).task.isNone)) = some 15) := by decide +kernel

theorem witness_stageCopyDone :
    (let s : State := { inRun with
        fuse := { view := fieldedFuses }, mem := { store := cells stagingBase seedImage }
        seed := { wait := .copying none true, source := 1 } }
     s.seed.wait = .copying none true ∧ seedCode (copyStaging true s) (seedSlotBase true) false = 0) := by decide +kernel

/-! ### The Headland -/

/-- The ROM Headland in a mode, with a buffer, a nonce and a fuse view as given. -/
def romHeadland (m : BitVec 3) (buf : List Byte) (n : Option (BitVec 128 × Nat)) (view : BitVec 4096) : State :=
  let s := inMode m
  { s with boot := { headland := .rom }, fuse := { view := view }, hld := { s.hld with buf := ofBytes 4096 buf, romNonce := n }
           mem := { flash := cells 0x08000000 enclImage } }
/-- A nonce of A5s, drawn now. -/
def nonceA5 : BitVec 128 := ofBytes 128 (List.replicate 16 0xA5)

theorem witness_RomHeadland :
    (let s := romHeadland Mode.store [] none 0
     romRuns s = true ∧ romOpen s = true ∧ liveRomNonce s = none ∧ builderKh s = 0 ∧ s.hld.slotA = [] ∧
       508 + ([1, 2, 3, 4] : List Byte).length ≤ 512 ∧ 0x40000 - 512 + 512 ≤ 0x40000 ∧
       (∀ k < 512, tabGet norBlank s.mem.store (0x40000 - 512 + k) = norBlank)) ∧
    (let s := romHeadland Mode.store [] none fieldedFuses
     builderKh s ≠ 0 ∧ s.fuse.torn = false ∧
       (let x : State := { s with fuse := { s.fuse with torn := true } }
        romRuns x = true ∧ romOpen x = true ∧ builderKh x ≠ 0 ∧ x.fuse.torn = true)) ∧
    romOpen (romHeadland Mode.limp [] none 0) = false ∧
    (let s := romHeadland Mode.store [] (some (nonceA5, 0)) 0
     liveRomNonce s = some nonceA5 ∧ ecdsaVerify (hldBuf s 0 64) (sha256 (provMessage s nonceA5)) (hldBuf s 64 64) = false) ∧
    (let s := romHeadland Mode.store (builderKey ++ provSignature) (some (nonceA5, 0)) 0
     liveRomNonce s = some nonceA5 ∧ builderKh s = 0 ∧
       ecdsaVerify (hldBuf s 0 64) (sha256 (provMessage s nonceA5)) (hldBuf s 64 64) = true) ∧
    (let s := romHeadland Mode.store (builderKey ++ provSignature) (some (nonceA5, 0)) (fieldedFuses)
     builderKh s ≠ 0 ∧ ecdsaVerify (hldBuf s 0 64) (sha256 (provMessage s nonceA5)) (hldBuf s 64 64) = true) := by decide +kernel

theorem witness_RomHeadland_field : enclCode (romHeadland Mode.store [] none fieldedFuses) false false = 0 :=
  enclCode_image _ rfl rfl

/-- The resident Headland in a mode with scopes granted and a buffer. -/
def resident (m : BitVec 3) (scope : Byte) (buf : List Byte) : State :=
  let s := inMode m
  { s with
      boot := { romLocked := true, headland := .resident }
      pins := { s.pins with svcPresentHigh := false }
      hld := { s.hld with scope := scope, buf := ofBytes 4096 buf }
      seed := { applied := true, recs := [⟨0x15, false, [7, 0xFF, 0, 0] ++ beBytes 32 40125796837246961741692579014196185945400998348553030086621731529633542383051⟩] }
      bkp := { s.bkp with cal := { s.bkp.cal with valid := true, sec := 150 } }
      mem := { ledger := halfOf 0 false [0xF8] }
      grn := { s.grn with ready := true } }

theorem witness_ResidentHeadland_certificate :
    (let s := resident Mode.run 0 certificate
     residentRuns s = true ∧ certMode s = true ∧ certCode (bufTaken s) (hldBuf s 0 192) = 0 ∧
       activeHalf s 0 = some false ∧ halfCount s 0 false + (numAt (hldBuf s 0 192) 32 4 - counterValue s 0) ≤ 960 ∧
       s.sys.mode ≠ Mode.service) ∧
    certCode (bufTaken (resident Mode.run 0 [])) (hldBuf (resident Mode.run 0 []) 0 192) ≠ 0 := by decide +kernel

theorem witness_ResidentHeadland_clean : cleanHalf (resident Mode.run 0 certificate) 0 false = true := by decide +kernel

theorem witness_ResidentHeadland :
    (let s := resident Mode.run 0 []
     residentRuns s = true ∧ s.sys.mode ≠ Mode.lockdown ∧ s.hld.scope = 0 ∧ limpReason s 1 = false ∧ s.grn.ready = true ∧
       granaryServes s = true ∧ s.grn.grq.length < 32 ∧ 508 + ([1, 2, 3, 4] : List Byte).length ≤ 512) ∧
    (residentRuns (resident Mode.lockdown 0 []) = true ∧ (resident Mode.lockdown 0 []).sys.mode = Mode.lockdown) ∧
    (let s := resident Mode.service 0xFF []
     residentRuns s = true ∧ s.sys.mode = Mode.service ∧ granted s 0 = true ∧ granted s 1 = true ∧ granted s 3 = true ∧
       inSram 0x201FFFC0 (4 * 16) = true ∧ (∀ i < 16, guardLets s .headland permR (0x201FFFC0 + 4 * i) 4 = true) ∧
       guardLets s .headland permW 0x201FFFFC 4 = true ∧ s.hld.halt.getLsbD 15 = false ∧ (thr s 15).debug = false) ∧
    (let s := { resident Mode.service 0xFF [] with hld := { (resident Mode.service 0xFF []).hld with halt := 0x8000 } }
     granted s 3 = true ∧ s.hld.halt.getLsbD 15 = true) ∧
    (let s := setThr (resident Mode.service 0xFF []) 15 { run := .running, debug := true, inInt := true }
     granted s 3 = true ∧ (thr s 15).debug = true) := by decide +kernel

/-- A staging session of the Headland, with the last check's result. -/
def sessionOf (result : BitVec 4) (checked : Bool) : State :=
  let s := resident Mode.service 0xFF []
  { s with seed := { s.seed with open_ := true, source := 1, result := result.setWidth _, checkedLast := checked } }

theorem witness_HeadlandOperations_staging :
    (let s := resident Mode.service 0xFF []
     residentRuns s = true ∧ stageOpenTo s = true ∧ s.seed.wait = .idle ∧ s.seed.open_ = false ∧ holdsStage s 1 = false ∧
       granted s 6 = true ∧ granted s 7 = true) ∧
    (let s : State := { resident Mode.service 0xFF [] with seed := { open_ := true, source := 2 } }
     stageOpenTo s = true ∧ s.seed.open_ = true ∧ s.seed.source ≠ 1) ∧
    (let s := sessionOf 1 true
     stageOpenTo s = true ∧ holdsStage s 1 = true ∧ s.seed.wait = .idle ∧ s.seed.result = 1 ∧ s.seed.checkedLast = true ∧
       s.seed.written = [] ∧ 0x40000 - 512 + 512 ≤ seedAreaLen ∧
       (∀ k < 512, tabGet norBlank s.mem.store (stagingBase + (0x40000 - 512) + k) = norBlank)) ∧
    (holdsStage (sessionOf 2 true) 1 = true ∧ (sessionOf 2 true).seed.result ≠ 1) ∧
    (holdsStage (sessionOf 1 false) 1 = true ∧ (sessionOf 1 false).seed.checkedLast = false) := by decide +kernel

theorem witness_HeadlandOperations_repair :
    (let s : State := { resident Mode.service 0xFF [] with chs := { (resident Mode.service 0xFF []).chs with retired := setBits 0 127 1 1 } }
     granted s 6 = true ∧ isRetired s 127 = true ∧ isRetired s 0 = false) ∧
    vaultFormOk 0x32 0 192 = true ∧ vaultFormOk 0x32 0 193 = false ∧ vaultFormOk 0x30 0 0 = false ∧
    (resident Mode.service 0xFF []).grn.ready = true ∧ granaryServes (resident Mode.service 0xFF []) = true ∧
    (runJob (headlandJob 0x32 2 63 (hldBuf (resident Mode.service 0xFF []) 0 320) (hldBuf (resident Mode.service 0xFF []) 320 0)
      (hldBuf (resident Mode.service 0xFF []) 320 130)) true (bufTaken (resident Mode.service 0xFF []))).1.status = 0 := by decide +kernel

theorem witness_HeadlandOperations_debug :
    (let s := resident Mode.service 0xFF []
     mainOn s = true ∧ granted s 4 = true ∧ scopeHas s 0 = true ∧ scopeHas s 1 = true ∧ inSram 0x201FFFFC 4 = true ∧
       guardLets s .tap permR 0x201FFFFC 4 = true ∧ guardLets s .tap permW 0x201FFFFC 4 = true) ∧
    (let s := resident Mode.service 0x10 []
     granted s 4 = true ∧ scopeHas s 0 = false ∧ scopeHas s 1 = false) ∧
    granted (resident Mode.run 0 []) 4 = false ∧
    (let s := resident Mode.service 0xFF []
     canRun s 15 = true ∧ (thr s 15).inInt = false ∧ scopeHas s 3 = true ∧ enclFree s = true ∧ s.cores.loadingE = false ∧
       s.hld.halt.getLsbD 15 = false ∧ intEnabled s 15 4 = true) := by decide +kernel

/-! ### Register writes -/

theorem witness_RegisterWrites :
    (let s := setRegion inRun 1 0 { base := 0x20000000, limit := 0x2000FFFF, en := true, perm := 3, owner := 0xFF, bay := 0xFF }
     mainOn s = true ∧ writerOpen s (.thread 15) = true ∧ guardLets s (.thread 15) permW 0x2000FFFC 4 = true ∧
       inSram 0x2000FFFC 4 = true ∧ mapped 0x20010000 = true ∧ guardLets s (.thread 15) permW 0x20010000 4 = false) ∧
    (writerOpen inRun .encl = true ∧ guardLets inRun .encl permW 0x087FFFFC 4 = true ∧ inFlash 0x087FFFFC 4 = true) ∧
    mapped 0x7FFFFFFC = false ∧ mapped 0x8000 = false ∧
    (passesGuard inRun .encl 0x57000000 = true ∧ isEncl inRun .encl = true ∧ baseOk inRun true 0x080FFFE0 = true ∧
      baseOk inRun true 0x08100000 = false) ∧
    (let s := setRegion inRun 14 0 { base := 0x57000000, limit := 0x57FFFFFF, en := true, perm := 3, owner := 0xFF, bay := 0xFF }
     passesGuard s (.thread 15) 0x57000000 = true ∧ isEncl s (.thread 15) = false) ∧
    (let s : State := { inRun with tile := { inRun.tile with enclTiles := 0x8000 } }
     passesGuard s .encl (BitVec.ofNat 32 (0x57008104 + 16 * 15)) = true ∧ tileRegOpen s .encl 15 = true) ∧
    passesGuard inRun (.thread 0) (BitVec.ofNat 32 0x53040000) = true ∧
    (let s := setRegion inRun 10 0 { base := 0x53000000, limit := 0x53FFFFFF, en := true, perm := 3, owner := 0xFF, bay := 0xFF }
     passesGuard s (.thread 15) (BitVec.ofNat 32 (0x53040000 + 8 * 15)) = true) ∧
    hostReaches (bay3 (linked [])) 3 = true := by decide +kernel

/-! ### The whole machine -/

theorem witness_general : memoriesWf State.reset.mem = true ∧ State.reset.pending = [] := by decide +kernel

/-! ### Ill-formed commands are refused -/

theorem test_bcc_15_ill_formed : Instr.wf (.bcc 0 15 0) = false := by decide
theorem test_bmov_one_register_twice_ill_formed : Instr.wf (.bmov 0 2 2 3) = false := by decide
theorem test_bmov_length_zero_ill_formed : Instr.wf (.bmov 0 1 2 0) = false := by decide
theorem test_character_of_6_samples_ill_formed : Instr.wf (.characterReceive 0 (.replicate 6 ones) 0 { amp := 0 }) = false := by decide
theorem test_character_of_13_samples_ill_formed : Instr.wf (.characterReceive 0 (.replicate 13 ones) 0 { amp := 0 }) = false := by decide
theorem test_trip_of_no_sensor_ill_formed : Instr.wf (.intrusionTrip 0) = false := by decide
theorem test_fetch_of_nine_ill_formed : Instr.wf (.sqFetchDone 0 0 (.replicate 9 (.replicate 64 0))) = false := by decide
theorem test_short_queue_entry_ill_formed : Instr.wf (.sqFetchDone 0 0 [.replicate 63 0]) = false := by decide
theorem test_bar2_without_data_ill_formed : Instr.wf (.bar2Access 0 { write := true } 0 4 []) = false := by decide
theorem test_bar2_of_no_bytes_ill_formed : Instr.wf (.bar2Access 0 { write := false } 0 0 []) = false := by decide
theorem test_register_space_write_ill_formed : Instr.wf (.bar2Access 0 { space := .registers, write := true } 0 4 [0, 0, 0, 0]) = false := by decide
theorem test_link_speed_zero_ill_formed : Instr.wf (.linkUp 0 0 (.replicate 6 0)) = false := by decide
theorem test_link_credits_ill_formed : Instr.wf (.linkUp 0 1 [0]) = false := by decide
theorem test_start_pass_row_ill_formed : Instr.wf (.startPass [1536]) = false := by decide
theorem test_misaligned_write_ill_formed : Instr.wf (.registerWrite .encl 0x20000002 .word 0) = false := by decide
theorem test_flash_operation_across_banks_ill_formed :
    Instr.wf (.flashOperationEnd 0 (.erase 0x081FFFFF 2)) = false ∧ Instr.wf (.flashOperationEnd 1 (.program 0x08000000 [0])) = false := by
  decide
theorem test_updatefc_of_nothing_ill_formed : Instr.wf (.updatefcReceived 0 0) = false := by decide
theorem test_legal_word_ill_formed : Instr.wf (.illegalInstruction 0 0x04E43002) = false := by decide

/-! ### Words written out from the tables of 14 -/

/-- LUI g6, 0xFF00: OP 0x0B, RD 6, RA 0, the immediate. -/
theorem test_lui_word : decodeCore 0 0b001011_00110_00000_1111111100000000 = some (.lui 0 6 0xFF00) := by decide
/-- AND g7, g4, g6: OP 1, RD 7, RA 4, RB 6, zeros, FN 2. -/
theorem test_and_word : decodeCore 0 0b000001_00111_00100_00110_00000_000010 = some (.and 0 7 4 6) := by decide
theorem test_lui_8_word : decodeCore 0 0x2D000002 = some (.lui 0 8 2) := by decide
theorem test_ori_8_word : decodeCore 0 0x19080006 = some (.ori 0 8 8 6) := by decide
theorem test_or_word : decodeCore 0 0x04E74003 = some (.or 0 7 7 8) := by decide

/-! ### Published vectors: FIPS 180-4, RFC 4231 case 2, RFC 6979 A.2.5, FIPS 197 C.3, SP 800-38D case 13, CRC-32 of 123456789 -/

theorem test_sha256_abc : sha256 [0x61, 0x62, 0x63] =
    beBytes 32 0xba7816bf8f01cfea414140de5dae2223b00361a396177a9cb410ff61f20015ad := by decide +kernel
theorem test_hmac : hmac [0x4A, 0x65, 0x66, 0x65] (beBytes 28 0x7768617420646f2079612077616e7420666f72206e6f7468696e673f) =
    beBytes 32 0x5bdcc146bf60754e6a042426089575c75a003f089d2739839dec58b964ec3843 := by decide +kernel
theorem test_ecdsa : ecdsaVerify
    (beBytes 32 0x60FED4BA255A9D31C961EB74C6356D68C049B8923B61FA6CE669622E60F29FB6 ++
      beBytes 32 0x7903FE1008B8BC99A41AE9E95628BC64F2F1B20C2D7E9F5177A3C294D4462299)
    (beBytes 32 0xAF2BDBE1AA9B6EC1E2ADE1D694F41FC71A831D0268E9891562113D8A62ADD1BF)
    (beBytes 32 0xEFD48B2AACB6A8FD1140DD9CD45E81D69D2C877B56AAF991C34D0EA84EAF3716 ++
      beBytes 32 0xF7CB1C942D657C41D436C7A1B6E29F65F3E900DBB9AFF4064DC4AB2F843ACDA8) = true := by decide +kernel
theorem test_aes : aesEnc (roundKeys (beBytes 32 0x000102030405060708090a0b0c0d0e0f101112131415161718191a1b1c1d1e1f))
    (beBytes 16 0x00112233445566778899aabbccddeeff) = beBytes 16 0x8ea2b7ca516745bfeafc49904b496089 := by decide +kernel
theorem test_gcm : gcmSeal (.replicate 32 0) (.replicate 12 0) [] [] = ([], beBytes 16 0x530f8afbc74536b9a963b4f1c4cb738b) := by
  decide +kernel
theorem test_crc32 : crc32 [0x31, 0x32, 0x33, 0x34, 0x35, 0x36, 0x37, 0x38, 0x39] = 0xCBF43926 := by decide +kernel
/-- SP 800-38F: the wrapped key unwraps. RFC 3394 4.6. -/
theorem test_key_wrap : keyWrap (beBytes 32 0x000102030405060708090A0B0C0D0E0F101112131415161718191A1B1C1D1E1F)
    (beBytes 16 0x00112233445566778899AABBCCDDEEFF) = beBytes 24 0x64E8C3F9CE0F5BA263E9777905818A2A93C8191E7D6E8AE7 := by decide +kernel

end Sys2Proof.Tests
end

section
/-! PROOFS. Every step answers a next state and takes the front command alone from the queue (00_scope, R8): no command's
meaning touches the queue, so a step's queue is its tail. -/

namespace Sys2Proof.Machine

/-! ### The shared ways to act leave the queue where their acts do -/

@[simp] theorem tryWrite_pending (r : Req) (a : Word) (ok : Bool) (act : State → State) (s : State)
    (h : ∀ s, (act s).pending = s.pending) : (tryWrite r a ok act s).pending = s.pending := by
  unfold tryWrite; (repeat' split) <;> simp [h]

@[simp] theorem tryRead_pending (r : Req) (a : Word) (ok : Bool) (act : State → State) (s : State)
    (h : ∀ s, (act s).pending = s.pending) : (tryRead r a ok act s).pending = s.pending := by
  unfold tryRead; (repeat' split) <;> simp [h]

@[simp] theorem onRequest_pending (opc : Byte) (act : LdgReq → State → State) (s : State)
    (h : ∀ r s, (act r s).pending = s.pending) : (onRequest opc act s).pending = s.pending := by
  unfold onRequest; (repeat' split) <;> simp [h]

@[simp] theorem onGrq_pending (p : Byte → Bool) (ok : Bool) (s : State) : (onGrq p ok s).pending = s.pending := by
  unfold onGrq; (repeat' split) <;> simp

@[simp] theorem raisePow_pending (cause : HkCause) (data : Nat) (was : Bool) (f : Power → Power) (s : State) :
    (raisePow cause data was f s).pending = s.pending := by
  simp [raisePow]

@[simp] theorem awaited_pending (t : Thread) (rd : Gpr) (act : State → Word × State) (s : State)
    (h : ∀ s, (act s).2.pending = s.pending) : (awaited t rd act s).pending = s.pending := by
  unfold awaited; split <;> simp [h]

@[simp] theorem issueTile_pending (t : Thread) (op : State → TileOp) (s : State) :
    (issueTile t op s).pending = s.pending := by
  simp [issueTile]

@[simp] theorem inSession_pending (b : Bay) (act : BayCmd → State → StageAns × State) (c : BayCmd) (s : State)
    (h : ∀ c s, (act c s).2.pending = s.pending) : (inSession b act c s).pending = s.pending := by
  unfold inSession; split <;> simp [h]

@[simp] theorem inHldSession_pending (act : State → State) (s : State) (h : ∀ s, (act s).pending = s.pending) :
    (inHldSession act s).pending = s.pending := by
  unfold inHldSession; split <;> simp [h]

/-- A service-flow row: admission, then the command's own act once its service has begun. -/
@[simp] theorem serviceRow_pending (b : Bay) (opc : Nat) (act : BayCmd → State → State) (s : State)
    (h : ∀ c s, (act c s).pending = s.pending) : (serviceRow b opc act s).pending = s.pending := by
  unfold serviceRow; dsimp only
  split
  · rfl
  split
  · rfl
  rename_i c _
  split
  · simp
  have admitted : (if c.st = .ready then admitService b c s else s).pending = s.pending := by simp
  generalize (if c.st = .ready then admitService b c s else s) = s1 at admitted
  split
  · exact admitted
  split
  · exact admitted
  split
  · simp [admitted]
  split
  · exact admitted
  · rename_i begun; simp [h, beginService_same _ _ _ begun, admitted]

/-! ### An outcome that goes on -/

/-- A next state with the queue of `s`: the command has queued none and taken none. -/
def GoesOn (s : State) (o : Host.Outcome State Fault Refusal) : Prop := ∃ t, o = .next t ∧ t.pending = s.pending

theorem goesOn_next {s t : State} (h : t.pending = s.pending) : GoesOn s (.next t) := ⟨t, rfl, h⟩

theorem execThermalShed_goesOn (tj : Byte) (s : State) : GoesOn s (execThermalShed tj s) := by
  refine goesOn_next ?_
  dsimp only
  (repeat' split) <;> simp

theorem execPinChange_goesOn (n : Chan) (levels : BitVec 4) (s : State) : GoesOn s (execPinChange n levels s) := by
  unfold execPinChange; dsimp only
  split
  · exact goesOn_next rfl
  · exact goesOn_next (by simp)

theorem execReplyOutcome_goesOn (n : Chan) (s : State) : GoesOn s (execReplyOutcome n s) := by
  refine goesOn_next ?_
  dsimp only
  (repeat' split) <;> simp

/-- A collision abandons a reply, fails or retries a posted frame, or finds nothing of the channel's on the line. -/
theorem execTxCollision_goesOn (n : Chan) (s : State) : GoesOn s (execTxCollision n s) := by
  unfold execTxCollision; dsimp only
  (repeat' split) <;> exact goesOn_next (by simp)

/-- What the Granary's completion queue delivers, and the slots it lets go. -/
theorem execGranaryCompletion_goesOn (s : State) : GoesOn s (execGranaryCompletion s) := by
  refine goesOn_next ?_
  split
  · rfl
  · split
    · rfl
    · rename_i e; simp [deliverDone_same _ _ _ _ _ _ e]

theorem execLedgerCompletion_goesOn (s : State) : GoesOn s (execLedgerCompletion s) := by
  refine goesOn_next ?_
  split
  · rfl
  · split
    · simp
    · split
      · rfl
      · rename_i e; simp [deliverDone_same _ _ _ _ _ _ e]

theorem execIllegalInstruction_goesOn (t : Thread) (word : Word) (s : State) :
    GoesOn s (execIllegalInstruction t word s) := by
  unfold execIllegalInstruction; split
  · exact goesOn_next rfl
  · exact goesOn_next (by simp)

/-- Every command goes on. Most are one operation, whose frame says it; the others look first at what waits in a queue,
at a latch or at an operand. -/
theorem exec_goesOn (c : Instr) (s : State) : GoesOn s (exec c s) := by
  cases c
  case thermalShed => exact execThermalShed_goesOn ..
  case pinChange => exact execPinChange_goesOn ..
  case replyOutcome => exact execReplyOutcome_goesOn ..
  case txCollision => exact execTxCollision_goesOn ..
  case granaryCompletion => exact execGranaryCompletion_goesOn ..
  case ledgerCompletion => exact execLedgerCompletion_goesOn ..
  case illegalInstruction => exact execIllegalInstruction_goesOn ..
  case fuseBlowDone | clockMeasureDone | frameComplete | frameConfirm | frameGapTimeout | post | postDeadline | replyDone |
      replyAbandon | txFrameStart | watchMatch | csTransferStart | csTransferEnd | strbWaitEnd | pinFaultPersist |
      retireFoldDone | channelEventAdmit | deadlinePass | coreModeChange | submit | cancel | stageEraseDone | bar2Access |
      flashOperationEnd =>
    refine goesOn_next ?_
    (repeat' split) <;> simp
  all_goals exact goesOn_next (by simp)

/-- Settles O2: by the queue's front, from the frame of each command and of the idle cycle. -/
theorem stepGoesOn : Obligations.StepGoesOn := by
  unfold Obligations.StepGoesOn
  intro s
  cases hp : s.pending with
  | nil => exact ⟨tick s, by simp [step, hp], by simp [hp]⟩
  | cons c rest => simpa [step, hp, GoesOn] using exec_goesOn c { s with pending := rest }

end Sys2Proof.Machine
end

section
/-! PROOFS. What a refusal records (R339, R340), the accesses that a guard or a block refuses (R333, R335), and the guard's
decision as it depends on the state: shared by the register blocks and the loads and stores. -/

namespace Sys2Proof.Machine

/-! ### A violation -/

theorem eq_of_guard {s s' : State} (h : SameBut_guard s s') : s' = { s with guard := s'.guard } := by
  cases s'; simp_all [SameBut_guard]

theorem firmwareThread_lt (s : State) : firmwareThread s < 16 := by
  unfold firmwareThread
  cases h : (List.range 16).find? fun i => s.drill.enclThreads.getLsbD i with
  | none => decide
  | some i => exact List.mem_range.1 (List.mem_of_find?_eq_some h)

theorem srcCode_lt (s : State) (r : Req) : srcCode s r < 22 := by
  cases r with
  | thread t => exact t.isLt.trans (by decide)
  | encl => exact (firmwareThread_lt s).trans (by decide)
  | bay b => exact (by omega : 16 + b.val < 22)
  | headland => exact (by decide : 20 < 22)
  | tap => exact (by decide : 21 < 22)

/-- The guard block after a violation: the source's counter, VLAST and VLAST_ADDR. -/
theorem violate_guard (r : Req) (kind : Vio) (a : Word) (write : Bool) (s : State) :
    (violate r kind a write s).guard = { s.guard with
      vcnt := vset s.guard.vcnt ⟨srcCode s r, srcCode_lt s r⟩ (satInc (vget s.guard.vcnt ⟨srcCode s r, srcCode_lt s r⟩))
      vlastSrc := BitVec.ofNat 5 (srcCode s r), vlastKind := kind.code, vlastWrite := write, vlastFetch := false
      vlastAddr := a } := by
  simp [violate, violateSrc, srcCode_lt]

@[simp] theorem violate_vlastKind (r : Req) (kind : Vio) (a : Word) (write : Bool) (s : State) :
    (violate r kind a write s).guard.vlastKind = kind.code := by rw [violate_guard]
@[simp] theorem violate_vlastAddr (r : Req) (kind : Vio) (a : Word) (write : Bool) (s : State) :
    (violate r kind a write s).guard.vlastAddr = a := by rw [violate_guard]
@[simp] theorem violate_vlastWrite (r : Req) (kind : Vio) (a : Word) (write : Bool) (s : State) :
    (violate r kind a write s).guard.vlastWrite = write := by rw [violate_guard]

theorem violate_vcnt (r : Req) (kind : Vio) (a : Word) (write : Bool) (s : State) (k : Fin 22) :
    vget (violate r kind a write s).guard.vcnt k =
      if k.val = srcCode s r then satInc (vget s.guard.vcnt k) else vget s.guard.vcnt k := by
  rw [violate_guard]; dsimp only
  rw [vget_vset]
  by_cases h : k.val = srcCode s r
  · obtain rfl : k = ⟨srcCode s r, srcCode_lt s r⟩ := Fin.ext h
    simp
  · rw [if_neg h, if_neg fun e => h (congrArg Fin.val e)]

/-- A command whose whole effect is a violation by a write is refused silently. -/
theorem refusedSilently_of_violate {c : Instr} {r : Req} {s : State} {kind : Vio} {a : Word}
    (h : exec c s = .next (violate r kind a true s)) : RefusedSilently c r s := by
  refine ⟨_, h, eq_of_guard (violate_same ..), ?_, ?_, violate_vlastWrite .., violate_vcnt _ _ _ _ _⟩
  · rw [violate_guard]
  · rw [violate_guard]
    exact Nat.mod_eq_of_lt ((srcCode_lt s r).trans (by decide))

/-! ### Which requests a guard lets through -/

theorem guardPasses_congr {s s' : State} (h : s'.guard.region = s.guard.region) (at' : Attr) (perm : BitVec 3) (a len : Nat) :
    guardPasses s' at' perm a len = guardPasses s at' perm a len := by
  have regions : ∀ g, regionsOf s' g = regionsOf s g := fun g => by simp [regionsOf, region, h]
  have cover : ∀ last k a, covered s' at' perm last k a = covered s at' perm last k a := by
    intro last k
    induction k with
    | zero => intro a; rfl
    | succ k ih => intro a; simp [covered, regions, ih]
  simp [guardPasses, excluded, regions, cover]

theorem guardLets_congr {s s' : State} {r : Req} (hg : s'.guard = s.guard) (he : isEncl s' r = isEncl s r)
    (perm : BitVec 3) (a len : Nat) : guardLets s' r perm a len = guardLets s r perm a len := by
  have attr : attrOf s' r = attrOf s r := by cases r <;> simp [attrOf, ownerTag, hg]
  simp [guardLets, he, attr, guardPasses_congr (congrArg _ hg)]

/-! ### A register's rule (R335) -/

theorem tryWrite_open {s : State} {r : Req} {a : Word} (hp : passesGuard s r a = true) (act : State → State) :
    tryWrite r a true act s = act s := by
  cases r <;> simp_all [tryWrite, passesGuard]

/-- The block refuses, silently: a bay's violation is of the bay's kind. -/
theorem tryWrite_closed {s : State} {r : Req} {a : Word} (hp : passesGuard s r a = true) (act : State → State) :
    ∃ kind, tryWrite r a false act s = violate r kind a true s := by
  cases r with
  | bay b => exact ⟨.bay, rfl⟩
  | _ => exact ⟨.block, by simp_all [tryWrite, passesGuard]⟩

/-! ### Accesses that the map or a guard refuses -/

theorem accessWrite_unmapped {a : Word} (h : mapped a.toNat = false) (r : Req) (w : Width) (v : Word) (s : State) :
    accessWrite r a w v s = violate r .block a true s := by
  simp [accessWrite, h]

theorem accessWrite_refused {s : State} {r : Req} {a : Word} {w : Width} (hm : mapped a.toNat = true)
    (ha : 0x8000 ≤ a.toNat) (hg : guardLets s r permW a.toNat w.bytes = false) (v : Word) :
    accessWrite r a w v s = violate r .guard a true s := by
  have rom : ¬ a.toNat ≤ 0x7FFF := by omega
  simp [accessWrite, hm, rom, hg]

theorem accessRead_refused {s : State} {r : Req} {a : Word} {w : Width} (hm : mapped a.toNat = true)
    (ha : 0x8000 ≤ a.toNat) (hg : guardLets s r permR a.toNat w.bytes = false) :
    accessRead r a w s = (0, violate r .guard a false s) := by
  have rom : ¬ a.toNat ≤ 0x7FFF := by omega
  simp [accessRead, hm, rom, hg]

end Sys2Proof.Machine
end

section
/-! PROOFS. The guards' lock and probe, the loads and stores that a guard refuses, and the watchdog (R331 to R342). -/

namespace Sys2Proof.Machine

/-! ### Lock and probe (R336, R340) -/

theorem execGuardLock_open {s : State} {r : Req} (hp : passesGuard s r 0x56002000 = true) (he : isEncl s r = true) :
    exec (.guardLock r) s = .next (lockGuards r true s) := by
  rw [exec_guardLock, execGuardLock, he, tryWrite_open hp]

/-- The fields of a probe's word are below bit 31, which starts it. -/
theorem bitsAt_withStart (v : Word) (lo n : Nat) (h : lo + n ≤ 31) :
    bitsAt (v ||| 0x80000000) lo n = v.toNat / 2 ^ lo % 2 ^ n := by
  unfold bitsAt
  apply Nat.eq_of_testBit_eq
  intro i
  by_cases hi : i < n
  · have top : Nat.testBit 0x80000000 (lo + i) = false := by
      rw [show (0x80000000 : Nat) = 2 ^ 31 by decide, Nat.testBit_two_pow]
      exact decide_eq_false (by omega)
    simp [Nat.testBit_mod_two_pow, hi, Nat.testBit_shiftRight, ← Nat.shiftRight_eq_div_pow, top]
  · simp [Nat.testBit_mod_two_pow, hi]

theorem execGuardProbe_open {s : State} {r : Req} (v : Word) (hp : passesGuard s r 0x56002408 = true)
    (he : isEncl s r = true) : exec (.guardProbe r v) s = .next (probeOp (v ||| 0x80000000) s) := by
  rw [exec_guardProbe, execGuardProbe, he, tryWrite_open hp]

/-- R10: a reserved SRC leaves SRC as it was. -/
def probeSource (s : State) (v : Word) : Nat :=
  if v.toNat / 65536 % 32 < 20 then v.toNat / 65536 % 32 else s.guard.probeSrc.toNat

theorem probeSource_lt (s : State) (v : Word) : probeSource s v < 2 ^ 5 := by
  unfold probeSource; split
  · omega
  · exact s.guard.probeSrc.isLt

theorem probeOp_start (v : Word) (s : State) :
    probeOp (v ||| 0x80000000) s = { s with guard := { s.guard with
      probeSrc := BitVec.ofNat 5 (probeSource s v), probeDone := true
      probeAllow := probeAllows s
        { bay := if 16 ≤ probeSource s v then some (Fin.ofNat 4 (probeSource s v - 16)) else none
          owner := BitVec.ofNat 8 (v.toNat / 256 % 256) }
        (BitVec.ofNat 3 (v.toNat / 16777216 % 8)) s.guard.probeAddr.toNat s.guard.probeLen.toNat } } := by
  have src : bitsAt (v ||| 0x80000000#32) 16 5 = v.toNat / 65536 % 32 := bitsAt_withStart v 16 5 (by decide)
  have owner : bitsAt (v ||| 0x80000000#32) 8 8 = v.toNat / 256 % 256 := bitsAt_withStart v 8 8 (by decide)
  have perm : bitsAt (v ||| 0x80000000#32) 24 3 = v.toNat / 16777216 % 8 := bitsAt_withStart v 24 3 (by decide)
  have held : (if 20 ≤ v.toNat / 65536 % 32 then s.guard.probeSrc.toNat else v.toNat / 65536 % 32) = probeSource s v := by
    unfold probeSource; split <;> split <;> omega
  simp [probeOp, src, owner, perm, held]

/-! ### A refused load and a refused store (R335, R339) -/

@[simp] theorem inEncl_issue (s : State) (t : Thread) : inEncl (issue t s) t = inEncl s t := by
  have progress : OnlyProgress t s (issue t s) := issue_progress t s
  have home : homeEncl (issue t s) t = homeEncl s t := by simp [homeEncl]
  unfold OnlyProgress at progress
  unfold inEncl; rw [progress, home]

@[simp] theorem effAddr_issue (s : State) (t : Thread) (b : Gpr) (imm : Half) :
    effAddr (issue t s) t b imm = effAddr s t b imm := by simp [effAddr]

@[simp] theorem latched_issue (s : State) (t : Thread) : latched (issue t s) t = latched s t := by simp [latched]

@[simp] theorem inEncl_advance (s : State) (t : Thread) : inEncl (advance t s) t = inEncl s t := by
  simp [inEncl, advance, setPc]

theorem inEncl_qPass (n : Nat) (s : State) (t : Thread) : inEncl (qPass n s) t = inEncl s t := by
  simp [inEncl, homeEncl, thr]

/-- The guard decides on a thread's access as it did before the issue, the next PC and the queue it passes. -/
theorem guardLets_access (s : State) (t : Thread) (q : Nat) (perm : BitVec 3) (a len : Nat) :
    guardLets (qPass q (advance t (issue t s))) (.thread t) perm a len = guardLets s (.thread t) perm a len := by
  refine guardLets_congr ?_ ?_ perm a len
  · simp [advance, setPc]
  · exact (inEncl_qPass ..).trans ((inEncl_advance ..).trans (inEncl_issue ..))

/-- A load's note of what it awaits. -/
def noteOutstanding (t : Thread) (o : Option Outstanding) (s : State) : State :=
  setThr s t { thr s t with outstanding := o }

@[simp] theorem noteOutstanding_same (t : Thread) (o : Option Outstanding) (s : State) :
    SameBut_cores s (noteOutstanding t o s) := setThr_same ..
@[simp] theorem gpr_noteOutstanding (t : Thread) (o : Option Outstanding) (s : State) (r : Gpr) :
    gpr (noteOutstanding t o s) t r = gpr s t r := gpr_setThr _ _ _ _ _ rfl rfl rfl
@[simp] theorem pcOf_noteOutstanding (t : Thread) (o : Option Outstanding) (s : State) :
    pcOf (noteOutstanding t o s) t = pcOf s t := by simp [noteOutstanding, pcOf]

theorem cacheable_refused {s : State} {t : Thread} {a n : Nat} (hg : guardLets s (.thread t) permR a n = false) :
    cacheable s t a n = false := by simp [cacheable, hg]

/-- The state in which a refused load or store has left the PC and the queue and counted its violation. -/
def refusedAccess (t : Thread) (a : Word) (write : Bool) (s : State) : State :=
  violate (.thread t) .guard a write (qPass (88 + (coreOf t).val) (advance t (issue t s)))

@[simp] theorem refusedAccess_mem (t : Thread) (a : Word) (write : Bool) (s : State) :
    (refusedAccess t a write s).mem = s.mem := by simp [refusedAccess]
@[simp] theorem refusedAccess_chs (t : Thread) (a : Word) (write : Bool) (s : State) :
    (refusedAccess t a write s).chs = s.chs := by simp [refusedAccess]
@[simp] theorem refusedAccess_pcOf (t : Thread) (a : Word) (write : Bool) (s : State) :
    pcOf (refusedAccess t a write s) t = pcOf s t + 4 := by
  have cores : (refusedAccess t a write s).cores = (advance t (issue t s)).cores := by simp [refusedAccess]
  rw [← pcOf_issue s t t]
  simpa [pcOf, thr, cores] using pcOf_advance (issue t s) t

/-- One violation counted against the thread, with the refused access in VLAST and VLAST_ADDR. -/
theorem refusedAccess_guard (t : Thread) (a : Word) (write : Bool) (s : State) :
    let g := (refusedAccess t a write s).guard
    vget g.vcnt ⟨t.val, by omega⟩ = satInc (vget s.guard.vcnt ⟨t.val, by omega⟩) ∧ g.vlastKind = 1 ∧
      g.vlastAddr = a ∧ g.vlastWrite = write := by
  refine ⟨?_, violate_vlastKind .., violate_vlastAddr .., violate_vlastWrite ..⟩
  simp [refusedAccess, violate_vcnt, srcCode]

theorem storeOp_refused {s : State} {t : Thread} {b : Gpr} {imm : Half} (d : Gpr)
    (hal : (effAddr s t b imm).toNat % 4 = 0) (hm : mapped (effAddr s t b imm).toNat = true)
    (ha : 0x8000 ≤ (effAddr s t b imm).toNat)
    (hg : guardLets s (.thread t) permW (effAddr s t b imm).toNat 4 = false) :
    storeOp t d b imm .word (issue t s) = refusedAccess t (effAddr s t b imm) true s := by
  have aligns : aligned (effAddr s t b imm) .word = true := decide_eq_true hal
  have refused := accessWrite_refused (w := .word) hm ha ((guardLets_access s t (88 + (coreOf t).val) permW _ 4).trans hg)
  simp only [storeOp, effAddr_issue, aligns, refused]
  rfl

theorem loadOp_refused {s : State} {t : Thread} {b : Gpr} {imm : Half} (rd : Gpr) (hl : latched s t = none)
    (hal : (effAddr s t b imm).toNat % 4 = 0) (hm : mapped (effAddr s t b imm).toNat = true)
    (ha : 0x8000 ≤ (effAddr s t b imm).toNat)
    (hg : guardLets s (.thread t) permR (effAddr s t b imm).toNat 4 = false) :
    ∃ o o', loadOp t rd b imm .word id (issue t s) =
      noteOutstanding t o (noteOutstanding t o' (setGpr t rd 0 (refusedAccess t (effAddr s t b imm) false s))) := by
  have aligns : aligned (effAddr s t b imm) .word = true := decide_eq_true hal
  have refused := accessRead_refused (w := .word) hm ha ((guardLets_access s t (88 + (coreOf t).val) permR _ 4).trans hg)
  have uncached : cacheable (issue t s) t (effAddr s t b imm).toNat Width.word.bytes = false :=
    cacheable_refused ((guardLets_congr (r := .thread t) (by simp) (inEncl_issue s t) _ _ _).trans hg)
  have misses : loadHits (issue t s) t (effAddr s t b imm).toNat Width.word.bytes = false := by simp [loadHits, uncached]
  simp only [loadOp, loadMiss, awaited, effAddr_issue, latched_issue, hl, aligns, misses, refused, uncached]
  exact ⟨_, _, rfl⟩

/-! ### The watchdog (R342) -/

theorem execWdogKick_open {s : State} {r : Req} (hp : passesGuard s r 0x56003004 = true) (he : isEncl s r = true) :
    exec (.wdogKick r) s = .next (kickWatchdog s) := by
  rw [exec_wdogKick, execWdogKick, he, tryWrite_open hp]

theorem wdogKick_refused {s : State} {r : Req} (hp : passesGuard s r 0x56003004 = true) (he : isEncl s r = false) :
    RefusedSilently (.wdogKick r) r s := by
  obtain ⟨kind, closed⟩ := tryWrite_closed hp kickWatchdog
  refine refusedSilently_of_violate (kind := kind) (a := 0x56003004) ?_
  rw [exec_wdogKick, execWdogKick, he, closed]

/-- IPEND.WDOG of the Enclosure threads of a list. -/
def warnThreads (l : List Thread) (s : State) : State :=
  l.foldl (fun s t => if homeEncl s t then setIpend t 3 s else s) s

theorem homeEncl_setIpend (t u : Thread) (k : Nat) (s : State) : homeEncl (setIpend t k s) u = homeEncl s u := rfl

theorem ipend_setIpend (t : Thread) (s : State) : (thr (setIpend t 3 s) t).ext.ipend.getLsbD 3 = true := by
  simp [setIpend, setBit_or]

theorem thr_setIpend_other (s : State) {t u : Thread} (h : u ≠ t) (k : Nat) : thr (setIpend t k s) u = thr s u :=
  thr_setThr_other s h _

@[simp] theorem warnThreads_same (l : List Thread) (s : State) : SameBut_cores s (warnThreads l s) := by
  unfold SameBut_cores warnThreads; simp

theorem warnThreads_other {u : Thread} (l : List Thread) (s : State) (h : homeEncl s u = false) :
    thr (warnThreads l s) u = thr s u := by
  induction l generalizing s with
  | nil => rfl
  | cons t l ih =>
    by_cases ht : homeEncl s t = true
    · have other : u ≠ t := by rintro rfl; simp [h] at ht
      simpa [warnThreads, ht, thr_setIpend_other s other] using ih (setIpend t 3 s) h
    · simpa [warnThreads, ht] using ih s h

theorem warnThreads_warns {u : Thread} (l : List Thread) (s : State) (h : homeEncl s u = true)
    (hu : u ∈ l ∨ (thr s u).ext.ipend.getLsbD 3 = true) : (thr (warnThreads l s) u).ext.ipend.getLsbD 3 = true := by
  induction l generalizing s with
  | nil => exact hu.resolve_left List.not_mem_nil
  | cons t l ih =>
    by_cases ht : homeEncl s t = true
    · have next : u ∈ l ∨ (thr (setIpend t 3 s) u).ext.ipend.getLsbD 3 = true := by
        by_cases e : u = t
        · subst e; exact Or.inr (ipend_setIpend u s)
        · rw [thr_setIpend_other s e]; simpa [e] using hu
      simpa [warnThreads, ht] using ih (setIpend t 3 s) h next
    · have other : u ≠ t := by rintro rfl; exact ht h
      simpa [warnThreads, ht] using ih s h (by simpa [other] using hu)

theorem eq_of_cores {s s' : State} (h : SameBut_cores s s') : s' = { s with cores := s'.cores } := by
  cases s'; simp_all [SameBut_cores]

theorem execWatchdogWarn_warns {s : State} (hr : watchdogRuns s = true) (hw : s.wld.warned = false)
    (h : 7 * watchdogSpan s ≤ 8 * s.wld.elapsed) :
    exec .watchdogWarn s = .next (warnThreads (fins 16) { s with wld := { s.wld with warned := true } }) := by
  simp [execWatchdogWarn, hr, hw, Nat.not_lt.2 h, warnThreads]

theorem execWatchdogWarn_early {s : State} (h : 8 * s.wld.elapsed < 7 * watchdogSpan s) :
    exec .watchdogWarn s = .next s := by
  simp [execWatchdogWarn, h]

/-- Settles O30: each register write by its block's rule, each refused access by the guard's decision, and the warning
by its fold over the threads. -/
theorem guardsAndWatchdog : Obligations.GuardsAndWatchdog := by
  unfold Obligations.GuardsAndWatchdog
  refine ⟨fun s => ⟨fun r hp he => ⟨fun unlocked => ?_, fun locked => ?_⟩, fun r v hp he => ?_, ?_, ?_⟩,
    fun s => ⟨fun r hp => ⟨execWdogKick_open hp, wdogKick_refused hp⟩, fun hr hw h => ?_, execWatchdogWarn_early⟩⟩
  · rw [execGuardLock_open hp he]; simp [lockGuards, unlocked]
  · refine refusedSilently_of_violate (kind := .locked) (a := 0x56002000) ?_
    rw [execGuardLock_open hp he]; simp [lockGuards, locked]
  · dsimp only
    rw [execGuardProbe_open v hp he, probeOp_start]
    exact ⟨_, rfl, rfl, Nat.mod_eq_of_lt (probeSource_lt s v), rfl, rfl⟩
  · intro t rd b imm hrun hl a hal hm ha hg
    obtain ⟨o, o', e⟩ := loadOp_refused rd hl hal hm ha hg
    refine ⟨_, (exec_lw ..).trans ((onThread_runs hrun).trans (congrArg _ e)), ?_⟩
    obtain ⟨count, kind, addr, write⟩ := refusedAccess_guard t (effAddr s t b imm) false s
    refine ⟨?_, ?_, ?_, ?_, ?_, ?_, ?_⟩
    · simp [gpr_setGpr_same]
    · simp
    · simp
    · simpa using count
    · simpa using kind
    · simpa using congrArg BitVec.toNat addr
    · simpa using write
  · intro t d b imm hrun a hal hm ha hg
    obtain ⟨count, kind, addr, write⟩ := refusedAccess_guard t (effAddr s t b imm) true s
    refine ⟨_, (exec_sw ..).trans ((onThread_runs hrun).trans (congrArg _ (storeOp_refused d hal hm ha hg))), ?_⟩
    exact ⟨refusedAccess_pcOf .., refusedAccess_mem .., refusedAccess_chs .., count, kind, congrArg _ addr, write⟩
  · refine ⟨_, execWatchdogWarn_warns hr hw h, ?_, fun t ht => ?_, fun t ht => ?_, ?_⟩
    · simp
    · exact warnThreads_warns _ _ ht (.inl (by simp [fins]))
    · exact warnThreads_other _ _ ht
    · rw [eq_of_cores (warnThreads_same _ _)]

end Sys2Proof.Machine
end

section
/-! PROOFS. A register write by a requester (R8, R333, R335, R494 to R502): memory, what the map or a guard refuses, and
four registers that take a write by those who may. -/

namespace Sys2Proof.Machine

/-! ### A write that reaches the address map -/

theorem registerWriteOp_access {s : State} {r : Req} {a : Word} (hm : mainOn s = true) (hw : writerOpen s r = true)
    (hr : ∀ b, r ≠ .bay b) (ha : a.toNat % 4 = 0) (v : Word) :
    registerWriteOp r a .word v s = accessWrite r a .word v s := by
  cases r with
  | bay b => exact absurd rfl (hr b)
  | _ => simp [registerWriteOp, Width.bytes, ha, hm, hw]

theorem registerWriteOp_misaligned {a : Word} (ha : a.toNat % 4 ≠ 0) (r : Req) (v : Word) (s : State) :
    registerWriteOp r a .word v s = s := by
  simp [registerWriteOp, Width.bytes, ha]

theorem mapped_of_inFlash {a n : Nat} (hn : 0 < n) (h : inFlash a n = true) : mapped a = true := by
  simp only [inFlash, decide_eq_true_eq] at h
  simp only [mapped, guardOf, if_pos (show 0x08000000 ≤ a ∧ a ≤ 0x087FFFFF by omega), Option.isSome_some, Bool.or_true]

theorem inSram_bounds {a n : Nat} (h : inSram a n = true) : 0x20000000 ≤ a ∧ a + n ≤ 0x20200000 := of_decide_eq_true h

theorem mapped_of_inSram {a n : Nat} (hn : 0 < n) (h : inSram a n = true) : mapped a = true := by
  obtain ⟨lo, hi⟩ := inSram_bounds h
  simp only [mapped, guardOf, if_neg (show ¬ (0x08000000 ≤ a ∧ a ≤ 0x087FFFFF) by omega),
    if_pos (show 0x20000000 ≤ a ∧ a ≤ 0x201FFFFF by omega), Option.isSome_some, Bool.or_true]

theorem width_bytes_pos (w : Width) : 0 < w.bytes := by cases w <;> decide

theorem accessWrite_flash {s : State} {r : Req} {a : Word} {w : Width} (hg : guardLets s r permW a.toNat w.bytes = true)
    (hf : inFlash a.toNat w.bytes = true) (v : Word) : accessWrite r a w v s = s := by
  simp [accessWrite, mapped_of_inFlash (width_bytes_pos w) hf, hg, hf]

theorem accessWrite_sram {s : State} {r : Req} {a : Word} {w : Width} (hg : guardLets s r permW a.toNat w.bytes = true)
    (hf : inSram a.toNat w.bytes = true) (v : Word) :
    ∃ keep, accessWrite r a w v s =
      dropData keep a.toNat (bytesOf v 0 w.bytes).length (sramStore a.toNat (bytesOf v 0 w.bytes) s) := by
  have hm := mapped_of_inSram (width_bytes_pos w) hf
  obtain ⟨lo, hi⟩ := inSram_bounds hf
  have rom : ¬ a.toNat ≤ 0x7FFF := by omega
  have flash : inFlash a.toNat w.bytes = false := decide_eq_false (by omega)
  cases r <;> exact ⟨_, by simp only [accessWrite, hm, rom, hg, flash, hf]; rfl⟩

/-- Above 0x5000_0000 lie the register blocks. -/
theorem accessWrite_block {s : State} {r : Req} {a : Word} {w : Width} (hg : guardLets s r permW a.toNat w.bytes = true)
    (hm : mapped a.toNat = true) (ha : 0x50000000 ≤ a.toNat) (v : Word) : accessWrite r a w v s = writeBlock r a w v s := by
  have rom : ¬ a.toNat ≤ 0x7FFF := by omega
  have flash : inFlash a.toNat w.bytes = false := decide_eq_false (by omega)
  have sram : inSram a.toNat w.bytes = false := decide_eq_false (by unfold sramBase; omega)
  have channels : ¬ a.toNat < 0x40080000 := by omega
  have cells : ¬ a.toNat < 0x50000000 := by omega
  simp [accessWrite, hm, rom, hg, flash, sram, channels, cells]

/-- Every address of the register blocks below the fuses' is mapped. -/
theorem mapped_block {a : Nat} (h : 0x50000000 ≤ a ∧ a ≤ 0x58FFFFFF) : mapped a = true := by
  unfold mapped guardOf
  repeat rw [if_neg (by omega)]
  rw [if_pos h]; simp

/-! ### What lies at an address of the blocks -/

/-- A word write to a listed register of a block that is neither the Drill's nor the bays'. -/
theorem writeBlock_register {s : State} {r : Req} {a : Word} {x : Reg} (hd : a.toNat / 0x1000000 ≠ 0x50)
    (hb : a.toNat / 0x1000000 ≠ 0x53) (hx : regAt r s a.toNat = some x) (v : Word) :
    writeBlock r a .word v s = if x.writes then x.store v s else violate r .block a true s := by
  cases h : x.writes <;> simp [writeBlock, hd, hb, hx, writeReg, h]

/-- BAY.TRESULT: a thread's own result. -/
theorem writeBlock_tresult {s : State} {t : Thread} {a : Word} {k : Nat} (hb : a.toNat / 0x1000000 = 0x53)
    (hr : tresultAt (a.toNat % 0x1000000) = some (t, k)) (v : Word) :
    writeBlock (.thread t) a .word v s =
      setThr s t { thr s t with result := setBytes (thr s t).result k (bytesOf v 0 4) } := by
  simp [writeBlock, hb, hr, Width.bytes]

/-! ### A word laid into a double word -/

/-- A field of a number, in place. -/
theorem and_field (x lo n : Nat) : x &&& ((2 ^ n - 1) <<< lo) = x / 2 ^ lo % 2 ^ n * 2 ^ lo := by
  rw [← Nat.shiftLeft_eq, ← Nat.shiftRight_eq_div_pow]
  apply Nat.eq_of_testBit_eq
  intro i
  by_cases h : lo ≤ i
  · simp [Nat.testBit_shiftLeft, Nat.testBit_two_pow_sub_one, Nat.testBit_mod_two_pow, Nat.testBit_shiftRight, h,
      Nat.add_sub_cancel' h, Bool.and_comm]
  · simp [Nat.testBit_shiftLeft, h]

theorem setBits_toNat {w : Nat} (x : BitVec w) (lo n v : Nat) :
    (setBits x lo n v).toNat = (x.toNat - x.toNat / 2 ^ lo % 2 ^ n * 2 ^ lo + v % 2 ^ n * 2 ^ lo) % 2 ^ w := by
  have keep : v % 2 ^ n * 2 ^ lo / 2 ^ lo % 2 ^ n = v % 2 ^ n := by
    rw [Nat.mul_div_cancel _ (Nat.two_pow_pos lo), Nat.mod_mod]
  simp only [setBits, and_field, Nat.shiftLeft_eq (v % 2 ^ n), keep, BitVec.toNat_ofNat]

theorem byteAt_toNat {w : Nat} (x : BitVec w) (k : Nat) : (byteAt x k).toNat = x.toNat / 2 ^ (8 * k) % 256 := by
  simp [byteAt, BitVec.extractLsb'_toNat, Nat.shiftRight_eq_div_pow]

/-- The low `p` of `v` under the rest of `x`. -/
def lowFrom (x v p : Nat) : Nat := x / p * p + v % p

/-- Where `v` has replaced the low bytes of `x`, its next byte goes above them. -/
theorem lowFrom_nextByte (x v p : Nat) (hp : 0 < p) :
    lowFrom x v p - lowFrom x v p / p % 256 * p + v / p % 256 * p = lowFrom x v (p * 256) := by
  have rest : lowFrom x v p / p = x / p := by
    rw [lowFrom, Nat.mul_comm, Nat.mul_add_div hp, Nat.div_eq_of_lt (Nat.mod_lt v hp), Nat.add_zero]
  have split : x / p * p = x / (p * 256) * (p * 256) + x / p % 256 * p := by
    rw [← Nat.div_div_eq_div_mul]
    conv_lhs => rw [← Nat.div_add_mod (x / p) 256]
    ring
  rw [rest]
  unfold lowFrom
  rw [split, Nat.mod_mul, Nat.mul_comm p (v / p % 256)]
  omega

theorem lowFrom_lt {x v p n : Nat} (hx : x < p * n) (hp : 0 < p) : lowFrom x v p < p * n := by
  have quot : x / p < n := Nat.div_lt_of_lt_mul hx
  calc lowFrom x v p < x / p * p + p := Nat.add_lt_add_left (Nat.mod_lt v hp) _
    _ = p * (x / p + 1) := by ring
    _ ≤ p * n := Nat.mul_le_mul_left p quot

/-- One of the low four bytes laid into a double word. -/
theorem setByte_lowFrom {x y : DWord} {v : Word} {k : Nat} (hk : k < 4) (h : y.toNat = lowFrom x.toNat v.toNat (2 ^ (8 * k))) :
    (setByte y k (byteAt v k)).toNat = lowFrom x.toNat v.toNat (2 ^ (8 * (k + 1))) := by
  have next : 2 ^ (8 * (k + 1)) = 2 ^ (8 * k) * 256 := by rw [Nat.mul_succ, Nat.pow_add]
  have width : 2 ^ 64 = 2 ^ (8 * (k + 1)) * 2 ^ (64 - 8 * (k + 1)) := by rw [← Nat.pow_add]; congr 1; omega
  have bound : lowFrom x.toNat v.toNat (2 ^ (8 * (k + 1))) < 2 ^ 64 := by
    rw [width]; exact lowFrom_lt (width ▸ x.isLt) (Nat.two_pow_pos _)
  rw [setByte, setBits_toNat, byteAt_toNat, h, show 2 ^ 8 = 256 from rfl, Nat.mod_mod,
    lowFrom_nextByte _ _ _ (Nat.two_pow_pos _), ← next, Nat.mod_eq_of_lt bound]

/-- A word laid from byte 0 replaces the low word. -/
theorem setBytes_lowWord (x : DWord) (v : Word) :
    (setBytes x 0 (bytesOf v 0 4)).toNat = x.toNat / 2 ^ 32 * 2 ^ 32 + v.toNat := by
  have start : x.toNat = lowFrom x.toNat v.toNat (2 ^ (8 * 0)) := by simp [lowFrom, Nat.mod_one]
  have all := setByte_lowFrom (k := 3) (by decide) (setByte_lowFrom (k := 2) (by decide)
    (setByte_lowFrom (k := 1) (by decide) (setByte_lowFrom (k := 0) (by decide) start)))
  calc _ = lowFrom x.toNat v.toNat (2 ^ 32) := all
    _ = _ := by rw [lowFrom, Nat.mod_eq_of_lt v.isLt]

/-! ### The registers -/

/-- A register's field as a bit vector. -/
theorem ofNat_bitsAt {w : Nat} (v : BitVec w) (lo n : Nat) : BitVec.ofNat n (bitsAt v lo n) = v.extractLsb' lo n :=
  BitVec.eq_of_toNat_eq (by simp [bitsAt, BitVec.extractLsb'_toNat])

@[simp] theorem bay_qPass (n : Nat) (s : State) (b : Bay) : bay (qPass n s) b = bay s b := by simp [bay]

/-- VBASE_E: the Enclosure alone reads and writes it, and it takes an address of its slot only (R283). -/
theorem regAt_vbase (r : Req) (s : State) : regAt r s 0x57000000 = some
    { value := s.cores.vbaseE, reads := isEncl s r, writes := isEncl s r
      store := fun v s => if baseOk s true v.toNat then { s with cores := { s.cores with vbaseE := v } } else s } := rfl

/-- The sticky flags of a tile, which a written one clears (R361). -/
def tileFlagsReg (r : Req) (s : State) (t : Tile) : Reg :=
  { value := fld (tile s t).flags 1, reads := tileRegOpen s r t, writes := tileRegOpen s r t, special := true
    store := fun v s => setTile t { tile s t with flags := (tile s t).flags &&& ~~~(BitVec.ofNat 4 (bitsAt v 1 4)) } s }

theorem tileReg_flags (r : Req) (s : State) (t : Tile) : tileReg r s (0x104 + 16 * t.val) = some (tileFlagsReg r s t) := by
  have index : (⟨(0x104 + 16 * t.val - 0x100) / 16, by omega⟩ : Tile) = t := Fin.ext (by dsimp only; omega)
  have field : (0x104 + 16 * t.val) % 16 / 4 = 1 := by omega
  unfold tileReg
  dsimp only
  rw [if_neg (by omega), if_neg (by omega), if_neg (by omega), if_neg (by omega), dif_pos (by omega), field, index]
  rfl

theorem regAt_tileFlags (r : Req) (s : State) (t : Tile) : regAt r s (0x57008104 + 16 * t.val) = some (tileFlagsReg r s t) := by
  have block : (0x57008104 + 16 * t.val) / 0x1000000 = 0x57 := by omega
  have off : (0x57008104 + 16 * t.val) % 0x1000000 / 4 * 4 = 0x8104 + 16 * t.val := by omega
  have inTiles : 0x8104 + 16 * t.val - 0x8000 = 0x104 + 16 * t.val := by omega
  unfold regAt
  rw [block, off]
  show coreBlockReg r s (0x8104 + 16 * t.val) = _
  unfold coreBlockReg
  rw [← tileReg_flags, if_neg (by omega), if_neg (by omega), if_neg (by omega), if_neg (by omega), if_neg (by omega),
    if_neg (by omega), if_pos (by omega), inTiles]

theorem tresultAt_thread (t : Thread) : tresultAt (0x40000 + 8 * t.val) = some (t, 0) := by
  have place : 0x40000 ≤ 0x40000 + 8 * t.val ∧ 0x40000 + 8 * t.val < 0x40080 := by omega
  have index : (0x40000 + 8 * t.val - 0x40000) / 8 = t.val := by omega
  have byte : (0x40000 + 8 * t.val) % 8 = 0 := by omega
  simp only [tresultAt, dif_pos place, index, byte]

/-- HB.CHSEL: a host's write reaches it through the register queue of its bay (R370). -/
theorem registerWriteOp_chsel {s : State} {b : Bay} (h : hostReaches s b = true) (v : Word) :
    registerWriteOp (.bay b) 0x10 .word v s =
      setBay (qPass (98 + b.val) s) b { bay s b with chsel := BitVec.ofNat 7 (bitsAt v 0 7) } := by
  simp only [hostReaches, Bool.and_eq_true, decide_eq_true_eq] at h
  obtain ⟨⟨carries, main⟩, unlocked⟩ := h
  simp [registerWriteOp, Width.bytes, hostWrite, carries, main, unlocked, hbReg, writeReg]

/-! ### What each accepted write changes -/

theorem eq_of_mem_cache {s s' : State} (h : SameBut_cache_mem s s') : s' = { s with mem := s'.mem, cache := s'.cache } := by
  cases s'; simp_all [SameBut_cache_mem]

theorem eq_of_clk_bays {s s' : State} (h : SameBut_clk_bays s s') : s' = { s with bays := s'.bays, clk := s'.clk } := by
  cases s'; simp_all [SameBut_clk_bays]

/-- SRAM takes the word's bytes, and only the caches' copies change beside it. -/
theorem accessWrite_sram_word {s : State} {r : Req} {a : Word} (hg : guardLets s r permW a.toNat 4 = true)
    (hs : inSram a.toNat 4 = true) (v : Word) :
    let s' := accessWrite r a .word v s
    sramRead s' a.toNat 4 = bytesOf v 0 4 ∧ SramBut a.toNat 4 s s' ∧ s' = { s with mem := s'.mem, cache := s'.cache } := by
  obtain ⟨keep, e⟩ := accessWrite_sram (w := .word) hg hs v
  intro s'
  have mem : s'.mem = { s.mem with sram := memStore sramBlank s.mem.sram a.toNat (bytesOf v 0 4) } := by
    simp [s', e, sramStore, Width.bytes]
  refine ⟨?_, ⟨by rw [mem], fun k outside => ?_⟩, eq_of_mem_cache ?_⟩
  · rw [sramRead, mem]; exact memBytes_memStore_same ..
  · rw [sramByte, mem]; exact tabGet_memStore_outside _ _ _ _ _ outside
  · simp [s', e, SameBut_cache_mem]

/-! ### The command -/

section
variable {s : State} {r : Req} (main : mainOn s = true) (open_ : writerOpen s r = true) (notBay : ∀ b, r ≠ .bay b)

/-- Only a bay passes without a guard (R334). -/
theorem guardLets_of_passesGuard (notBay : ∀ b, r ≠ .bay b) {a : Word} (h : passesGuard s r a = true) :
    guardLets s r permW a.toNat 4 = true := by
  cases r with
  | bay b => exact absurd rfl (notBay b)
  | _ => exact h

include main open_ notBay

theorem exec_registerWrite_access {a : Word} (aligned : a.toNat % 4 = 0) (v : Word) :
    exec (.registerWrite r a .word v) s = .next (accessWrite r a .word v s) :=
  congrArg _ (registerWriteOp_access main open_ notBay aligned v)

theorem exec_registerWrite_block {a : Word} (passes : passesGuard s r a = true)
    (place : 0x50000000 ≤ a.toNat ∧ a.toNat ≤ 0x58FFFFFF) (aligned : a.toNat % 4 = 0) (v : Word) :
    exec (.registerWrite r a .word v) s = .next (writeBlock r a .word v s) := by
  rw [exec_registerWrite_access main open_ notBay aligned,
    accessWrite_block (w := .word) (guardLets_of_passesGuard notBay passes) (mapped_block place) place.1]

theorem exec_registerWrite_vbase (passes : passesGuard s r 0x57000000 = true) (v : Word) :
    exec (.registerWrite r 0x57000000 .word v) s = .next (if isEncl s r then
      if baseOk s true v.toNat then { s with cores := { s.cores with vbaseE := v } } else s
      else violate r .block 0x57000000 true s) := by
  rw [exec_registerWrite_block main open_ notBay passes (by decide) (by decide),
    writeBlock_register (by decide) (by decide) (regAt_vbase r s)]

theorem exec_registerWrite_tileFlags (t : Tile) (passes : passesGuard s r (BitVec.ofNat 32 (0x57008104 + 16 * t.val)) = true)
    (opens : tileRegOpen s r t = true) (v : Word) :
    exec (.registerWrite r (BitVec.ofNat 32 (0x57008104 + 16 * t.val)) .word v) s =
      .next (setTile t { tile s t with flags := (tile s t).flags &&& ~~~(v.extractLsb' 1 4) } s) := by
  have place : (BitVec.ofNat 32 (0x57008104 + 16 * t.val)).toNat = 0x57008104 + 16 * t.val := Nat.mod_eq_of_lt (by omega)
  rw [exec_registerWrite_block main open_ notBay passes (by omega) (by omega),
    writeBlock_register (by omega) (by omega) (place ▸ regAt_tileFlags r s t)]
  simp [tileFlagsReg, opens, ofNat_bitsAt]

end

theorem exec_registerWrite_tresult {s : State} (main : mainOn s = true) (t : Thread)
    (passes : passesGuard s (.thread t) (BitVec.ofNat 32 (0x53040000 + 8 * t.val)) = true) (v : Word) :
    exec (.registerWrite (.thread t) (BitVec.ofNat 32 (0x53040000 + 8 * t.val)) .word v) s =
      .next (setThr s t { thr s t with result := setBytes (thr s t).result 0 (bytesOf v 0 4) }) := by
  have place : (BitVec.ofNat 32 (0x53040000 + 8 * t.val)).toNat = 0x53040000 + 8 * t.val := Nat.mod_eq_of_lt (by omega)
  have off : (0x53040000 + 8 * t.val) % 0x1000000 = 0x40000 + 8 * t.val := by omega
  have own : tresultAt ((BitVec.ofNat 32 (0x53040000 + 8 * t.val)).toNat % 0x1000000) = some (t, 0) := by
    rw [place, off, tresultAt_thread]
  rw [exec_registerWrite_block main rfl (fun b => by simp) passes (by omega) (by omega), writeBlock_tresult (by omega) own]

/-- Settles O60: a requester's write reaches the address map, whose part at the address says what it does. -/
theorem registerWrites : Obligations.RegisterWrites := by
  unfold Obligations.RegisterWrites
  intro s r a v main open_ notBay
  refine ⟨fun aligned lets => ⟨fun sram => ?_, fun flash => ?_⟩, fun aligned unmapped => ?_,
    fun aligned isMapped above refused => ?_, fun misaligned => ?_, fun passes => ?_, fun t passes opens => ?_,
    fun t passes => ?_, fun b reaches => ?_⟩
  · exact ⟨_, exec_registerWrite_access main open_ notBay aligned v, accessWrite_sram_word lets sram v⟩
  · rw [exec_registerWrite_access main open_ notBay aligned, accessWrite_flash lets flash]
  · have refusal := exec_registerWrite_access main open_ notBay aligned v
    rw [accessWrite_unmapped unmapped] at refusal
    exact ⟨refusedSilently_of_violate refusal, _, refusal, violate_vlastKind .., violate_vlastAddr ..⟩
  · have refusal := exec_registerWrite_access main open_ notBay aligned v
    rw [accessWrite_refused (w := .word) isMapped above refused] at refusal
    exact ⟨refusedSilently_of_violate refusal, _, refusal, violate_vlastKind .., violate_vlastAddr ..⟩
  · exact congrArg _ (registerWriteOp_misaligned misaligned r v s)
  · have written := exec_registerWrite_vbase main open_ notBay passes v
    refine ⟨fun encl inSlot => ?_, fun encl outside => ?_, fun other => ?_⟩
    · simpa [encl, inSlot] using written
    · simpa [encl, outside] using written
    · exact refusedSilently_of_violate (kind := .block) (a := 0x57000000) (by simpa [other] using written)
  · exact ⟨_, exec_registerWrite_tileFlags main open_ notBay t passes opens v, vget_vset_same ..,
      fun u other => vget_vset_other other _ _, rfl⟩
  · refine ⟨_, exec_registerWrite_tresult main t passes v, ?_, fun u other => thr_setThr_other s other _⟩
    rw [thr_setThr_same]; exact setBytes_lowWord ..
  · refine ⟨_, congrArg Host.Outcome.next (registerWriteOp_chsel reaches v), ⟨eq_of_clk_bays ?_, fun k other => ?_⟩, ?_⟩
    · simp [SameBut_clk_bays]
    · rw [bay_setBay_other _ other, bay_qPass]
    · rw [bay_setBay_same, ofNat_bitsAt, ← BitVec.setWidth_eq_extractLsb' (by decide)]

end Sys2Proof.Machine
end

section
/-! PROOFS. What a cold reset leaves (R58, R245, R337, R340), and what the loss of main power does to the backup domain
(R84, R419). -/

namespace Sys2Proof.Machine

/-! ### The state after reset -/

@[simp] theorem vget_replicate {α : Type} {n : Nat} (x : α) (i : Fin n) : vget (.replicate n x) i = x := by simp [vget]

/-- After a reset flow 4095 alone is configured (R245). -/
theorem flow_reset (f : Nat) : flow State.reset f = if f = 4095 then flow4095 else {} := by
  simp [flow, State.reset, tabGet, eq_comm]

/-- C0.t0 runs the ROM, and every other thread is held. -/
theorem thr_reset (t : Thread) : thr State.reset t = if t = 0 then { run := .running } else { run := .held } := by
  change vget (vset (.replicate 16 ({ run := .held } : Thr)) 0 { run := .running }) t = _
  rw [vget_vset, vget_replicate]

/-- C0 is in single mode, the other cores are not. -/
theorem core_reset_single (c : Fin 4) : (core State.reset c).single = decide (c = 0) := by
  revert c; decide

/-- Settles O3: each part of the reset state is read off its initial value. -/
theorem resetState : Obligations.ResetState := by
  unfold Obligations.ResetState
  refine ⟨fun j => ?_, fun b => ?_, fun n => ?_, rfl, rfl, ?_, fun f other => ?_, ?_, fun t other => ?_, ?_, fun c other => ?_,
    rfl, rfl, fun t => ?_, fun k => ?_, rfl, rfl, rfl⟩
  · exact congrArg Rail.en (vget_replicate _ j)
  · exact congrArg BayOut.on (vget_replicate _ b)
  · exact congrArg Channel.drive (vget_replicate _ n)
  · exact flow_reset 4095
  · rw [flow_reset, if_neg other]
  · rw [thr_reset, if_pos rfl]
  · rw [thr_reset, if_neg other]
  · exact core_reset_single 0
  · rw [core_reset_single]; exact decide_eq_false other
  · exact vget_replicate _ t
  · exact vget_replicate _ k

/-! ### Main power lost -/

/-- R84, R419: entering Backup starts the count towards the share's next inversion at the time of the loss. -/
theorem enterBackup_invertAt (s : State) : (enterBackup s).bkp.invertAt = s.now := by
  simp [enterBackup]

theorem exec_mainPowerLost_enters {s : State} (powered : s.sys.mode ≠ Mode.backup) (alone : s.pow.svc5v = false) :
    exec .mainPowerLost s = .next (enterBackup { s with pow := { s.pow with vsup := false, extNow := false } }) := by
  simp [execMainPowerLost, powered, losePower, alone]

/-- Refutes O33: at main power's loss (R84) the statement keeps the whole backup domain but the shadow sets, while the
model also notes the time from which the share's inversion in Backup is counted (R419). In Run at cycle 1, without
SVC_5V, that time goes from 0 to 1. -/
theorem not_suppliesAndBayOutputs : ¬ Obligations.SuppliesAndBayOutputs := by
  unfold Obligations.SuppliesAndBayOutputs
  intro ⟨supplies, _⟩
  let s : State := { now := 1, sys := { mode := Mode.run } }
  have powered : s.sys.mode ≠ Mode.backup := by decide
  obtain ⟨-, -, -, lost, -⟩ := supplies s
  obtain ⟨s', ran, -, -, -, -, -, kept, -⟩ := lost powered rfl
  rw [exec_mainPowerLost_enters powered rfl] at ran
  have counted : s'.bkp.invertAt = 1 := by rw [← Host.Outcome.next.inj ran]; exact enterBackup_invertAt _
  rw [kept] at counted
  exact absurd counted (by decide)

end Sys2Proof.Machine
end

section
/-! PROOFS. Housekeeping events, the mode changes, the entry to Lockdown and the end of Service, as the rows of power,
pins and resets use them (R45, R59, R81 to R84, R95, R488). -/

namespace Sys2Proof.Machine

/-! ### Housekeeping events (R452) -/

theorem eq_of_clk_drill {s s' : State} (h : SameBut_clk_drill s s') : s' = { s with drill := s'.drill, clk := s'.clk } := by
  cases s'; simp_all [SameBut_clk_drill]

theorem hk_waits (cause : HkCause) (data : Nat) (s : State) :
    ({ cause := cause, data := data } : HkEvent) ∈ (hk cause data s).drill.hkq := by
  unfold hk; dsimp only
  split
  · assumption
  · simp

/-- An event that waits already stays, whatever follows it. -/
theorem mem_hkq_hk {e : HkEvent} {s : State} (h : e ∈ s.drill.hkq) (cause : HkCause) (data : Nat) :
    e ∈ (hk cause data s).drill.hkq := by
  unfold hk; dsimp only
  split
  · exact h
  · simp [h]

/-- Nothing of the drill but HKQ changes. -/
theorem hk_drill (cause : HkCause) (data : Nat) (s : State) :
    (hk cause data s).drill = { s.drill with hkq := (hk cause data s).drill.hkq } := by
  unfold hk; dsimp only
  split <;> simp

theorem housekeeping_hk {s s1 : State} (h : s1.drill = s.drill) (cause : HkCause) (data : Nat) :
    Housekeeping cause data s (hk cause data s1) :=
  ⟨hk_waits .., h ▸ hk_drill ..⟩

/-- R59: a flag of the power stage sets, and its rise raises its event. -/
theorem raisePow_sets (cause : HkCause) (data : Nat) (was : Bool) (f : Power → Power) (s : State) :
    let s' := raisePow cause data was f s
    s'.pow = f s.pow ∧ (was = true → s'.drill = s.drill) ∧ (was = false → Housekeeping cause data s s') ∧
    s' = { s with pow := s'.pow, drill := s'.drill, clk := s'.clk } := by
  cases was with
  | true => exact ⟨rfl, fun _ => rfl, nofun, rfl⟩
  | false =>
    exact ⟨by simp [raisePow], nofun, fun _ => housekeeping_hk rfl .., by
      conv_lhs => rw [raisePow, if_neg Bool.false_ne_true, eq_of_clk_drill (hk_same ..)]
      simp [raisePow]⟩

/-! ### Mode changes (R82 to R84) -/

@[simp] theorem dropDrain_mode (m : BitVec 3) (y : Sys) : (dropDrain m y).mode = y.mode := by unfold dropDrain; split <;> rfl
@[simp] theorem dropDrain_prev (m : BitVec 3) (y : Sys) : (dropDrain m y).prev = y.prev := by unfold dropDrain; split <;> rfl
@[simp] theorem dropDrain_lock (m : BitVec 3) (y : Sys) : (dropDrain m y).lock = y.lock := by unfold dropDrain; split <;> rfl

theorem transition_sys (m : BitVec 3) (s : State) :
    (transition m s).sys = dropDrain m { s.sys with prev := s.sys.mode, mode := m } := by
  simp [transition]

@[simp] theorem enterMode_mode (m : BitVec 3) (s : State) : (enterMode m s).sys.mode = m := by
  unfold enterMode; split
  · assumption
  · simp [transition_sys]

theorem enterMode_prev {m : BitVec 3} {s : State} (h : s.sys.mode ≠ m) : (enterMode m s).sys.prev = s.sys.mode := by
  simp [enterMode, h, transition_sys]

@[simp] theorem enterMode_lock (m : BitVec 3) (s : State) : (enterMode m s).sys.lock = s.sys.lock := by
  unfold enterMode; split
  · rfl
  · simp [transition_sys]

/-! ### Service's end (R98, R488) -/

@[simp] theorem resumeThread_scope (t : Thread) (s : State) : (resumeThread t s).hld.scope = s.hld.scope := by
  unfold resumeThread; dsimp only
  (repeat' split) <;> simp [clearHalt]

theorem foldl_resumeThread_scope (l : List Thread) (s : State) :
    (l.foldl (fun s t => resumeThread t s) s).hld.scope = s.hld.scope := by
  induction l generalizing s with
  | nil => rfl
  | cons t l ih => rw [List.foldl_cons, ih, resumeThread_scope]

/-- What a certificate opened is closed. -/
@[simp] theorem closeScope_scope (s : State) : (closeScope s).hld.scope = 0 := by
  simp only [closeScope, foldl_resumeThread_scope]
  split <;> rfl

/-- The applied image outlives a session that Service's end closes. -/
@[simp] theorem closeScope_applied (s : State) : (closeScope s).seed.applied = s.seed.applied := by
  simp [closeScope, endStaging, apply_ite State.seed, apply_ite Seed.applied]

theorem endService_leaves {s : State} (h : s.sys.mode = Mode.service) :
    (endService s).sys.mode = s.sys.serviceFrom ∧ (endService s).hld.scope = 0 := by
  simp [endService, h]

/-! ### A channel that stops (R94, R96) -/

theorem dropReply_other {n m : Chan} (h : m ≠ n) (s : State) : chan (dropReply n s) m = chan s m := by
  unfold dropReply; dsimp only
  (repeat' split) <;> simp [reportOutcome, chan_setChan_other _ h]

theorem abandonRx_other {n m : Chan} (h : m ≠ n) (s : State) : chan (abandonRx n s) m = chan s m := by
  unfold abandonRx; dsimp only
  split
  · rfl
  · exact chan_setChan_other s h _

theorem stopChannel_other {n m : Chan} (h : m ≠ n) (d : PinDrive) (s : State) : chan (stopChannel n d s) m = chan s m := by
  simp [stopChannel, chan_setChan_other _ h, abandonRx_other h, dropReply_other h]

@[simp] theorem stopChannel_drive (n : Chan) (d : PinDrive) (s : State) : (chan (stopChannel n d s) n).drive = d := by
  simp [stopChannel]

/-- Where each channel of a list stops with one pin state, whatever has stopped before it, all of them have it. -/
theorem foldl_stopChannel_drive {d : PinDrive} {pin : State → Chan → PinDrive} (l : List Chan) (s : State)
    (same : ∀ s', s'.pow = s.pow → s'.sys = s.sys → s'.seed = s.seed → ∀ n, pin s' n = d) (n : Chan) (h : n ∈ l ∨ (chan s n).drive = d) :
    (chan (l.foldl (fun s n => stopChannel n (pin s n) s) s) n).drive = d := by
  induction l generalizing s with
  | nil => simpa using h
  | cons m l ih =>
    refine ih _ (fun s' pow sys seed => ?_) ?_
    · exact same s' (pow.trans (by simp)) (sys.trans (by simp)) (seed.trans (by simp))
    · have first : pin s m = d := same s rfl rfl rfl m
      by_cases e : n = m
      · subst e; exact .inr (by rw [stopChannel_drive, first])
      · rw [stopChannel_other e]
        exact h.imp_left fun mem => (List.mem_cons.1 mem).resolve_left e

/-! ### The entry to Lockdown (R83, R95 to R97) -/

/-- What Lockdown's pins take: the safe levels with field power and an applied image (R96). -/
def lockdownDrive (s : State) : PinDrive :=
  if s.pow.vsup = true ∧ s.pow.thermalOff = false ∧ s.seed.applied = true then .safe else .hiZ

theorem driveOf_lockdown {s : State} (h : s.sys.mode = Mode.lockdown) (n : Chan) : driveOf s n = lockdownDrive s := by
  unfold driveOf lockdownDrive fieldSupply
  cases s.pow.vsup <;> cases s.pow.thermalOff <;> cases s.seed.applied <;> simp [h]

@[simp] theorem enterLockdown_mode (lock : BitVec 4) (s : State) : (enterLockdown lock s).sys.mode = Mode.lockdown := by
  unfold enterLockdown; dsimp only
  split
  · assumption
  · simp

theorem enterLockdown_lock (lock : BitVec 4) (s : State) : (enterLockdown lock s).sys.lock = lockMerge s.sys.lock lock := by
  unfold enterLockdown; dsimp only
  split <;> simp

/-- The backup domain keeps everything but SAFE_PEND, which clears (R76), and the firings (R100). -/
theorem enterLockdown_bkp (lock : BitVec 4) (s : State) : ∃ alarms,
    (enterLockdown lock s).bkp = { s.bkp with tamp := { s.bkp.tamp with safePend := false }, alarms := alarms } := by
  unfold enterLockdown; dsimp only
  split
  · exact ⟨_, rfl⟩
  · refine ⟨s.bkp.alarms.map fun a => { a with drives := false }, ?_⟩
    simp [releaseFirings, setTamp]

section
variable {s : State} (h : s.sys.mode ≠ Mode.lockdown) (lock : BitVec 4)
include h

theorem enterLockdown_prev : (enterLockdown lock s).sys.prev = s.sys.mode := by
  simp [enterLockdown, h, enterMode_prev]

theorem enterLockdown_descs : (enterLockdown lock s).drill.descs = [] := by
  simp [enterLockdown, h, discardTasks]

theorem enterLockdown_drive (n : Chan) : (chan (enterLockdown lock s) n).drive = lockdownDrive s := by
  have stopped : ∀ s0 : State, s0.pow = s.pow → s0.sys.mode = Mode.lockdown → s0.seed.applied = s.seed.applied →
      (chan ((fins 128).foldl (fun s n => stopChannel n (driveOf s n) s) s0) n).drive = lockdownDrive s := by
    intro s0 pow mode applied
    refine foldl_stopChannel_drive _ _ (fun s' pow' sys' seed' n => ?_) n (.inl (List.mem_finRange n))
    rw [driveOf_lockdown (sys' ▸ mode), lockdownDrive, lockdownDrive, pow', pow, seed', applied]
  simp only [enterLockdown, setTamp, h, chan]
  simpa [chan] using stopped _ (by simp) (by simp) (by simp)

end

end Sys2Proof.Machine
end

section
/-! PROOFS. The flags of the power stage, the pin rails, and the pins of J1 and J14 (R31, R40, R44, R45, R55, R59, R75,
R89, R95, R99, R470, R488). -/

namespace Sys2Proof.Machine

/-! ### The flags (R44, R45, R55, R59) -/

theorem exec_vsupOvervoltage_over {s : State} (main : mainOn s = true) (vsup : s.pow.vsup = true) {mv : Half}
    (high : 32000 < mv.toNat) : exec (.vsupOvervoltage mv) s =
      .next (raisePow .vsup 0 s.pow.ov (fun p => { p with ov := true, vsupMv := mv }) s) := by
  simp [execVsupOvervoltage, main, vsup, Nat.not_le.2 high]

theorem exec_vsupLowRange_low {s : State} (main : mainOn s = true) (vsup : s.pow.vsup = true) {mv : Half}
    (above : 6000 ≤ mv.toNat) (below : mv.toNat < 9000) : exec (.vsupLowRange mv) s =
      .next (raisePow .vsup 1 s.pow.ext (fun p => { p with ext := true, extNow := true, vsupMv := mv }) s) := by
  simp [execVsupLowRange, main, vsup, Nat.not_lt.2 above, Nat.not_le.2 below]

theorem exec_vsupReturnToRange_back {s : State} (vsup : s.pow.vsup = true) {mv : Half} (above : 9000 ≤ mv.toNat) :
    exec (.vsupReturnToRange mv) s = .next { s with pow := { s.pow with extNow := false, vsupMv := mv } } := by
  simp [execVsupReturnToRange, vsup, Nat.not_lt.2 above]

theorem exec_thermalWarn_hot {s : State} (main : mainOn s = true) {tj : Byte} (hot : 184 ≤ tj.toNat) :
    exec (.thermalWarn tj) s = .next (raisePow .therm 0 s.pow.warn (fun p => { p with warn := true, tj := tj }) s) := by
  simp [execThermalWarn, main, Nat.not_lt.2 hot]

/-! ### The rails (R40, R59) -/

/-- A rail's write leaves every other rail and the rest of the state. -/
theorem setRail_rails (s : State) (j : Fin 8) (x : Rail) :
    rail (setRail s j x) j = x ∧ (∀ k, k ≠ j → rail (setRail s j x) k = rail s k) ∧
    setRail s j x = { s with pow := { s.pow with rails := (setRail s j x).pow.rails } } :=
  ⟨rail_setRail_same .., fun _ other => rail_setRail_other s other x, rfl⟩

/-- The rail after its current limit begins, or ends. -/
def loadedRail (x : Rail) (load : RailLoad) : Rail :=
  { x with overload := x.overload || load.inLimit, limit := load.inLimit, current := load.ma }

theorem exec_railOverload_on {s : State} (main : mainOn s = true) {j : Fin 8} (load : RailLoad) (en : (rail s j).en = true)
    (steady : (rail s j).hiccupAct = false) :
    exec (.railOverload j load) s = .next (if (rail s j).overload = true ∨ load.inLimit = false
      then setRail s j (loadedRail (rail s j) load) else hk .rail j.val (setRail s j (loadedRail (rail s j) load))) := by
  simp [execRailOverload, main, en, steady, loadedRail]

theorem exec_railHiccup_on {s : State} {j : Fin 8} (en : (rail s j).en = true) (steady : (rail s j).hiccupAct = false) :
    exec (.railHiccup j) s = .next (setRail s j { rail s j with
      limit := false, hiccupAct := true, hiccups := satInc (rail s j).hiccups, current := 0 }) := by
  simp [execRailHiccup, en, steady]

/-- R40, R59: the rail takes its load, and OVERLOAD's rise raises its event. -/
theorem railOverload_takes {s : State} (main : mainOn s = true) {j : Fin 8} (load : RailLoad) (en : (rail s j).en = true)
    (steady : (rail s j).hiccupAct = false) :
    ∃ s', exec (.railOverload j load) s = .next s' ∧ rail s' j = loadedRail (rail s j) load ∧
      (∀ k, k ≠ j → rail s' k = rail s k) ∧ ((rail s j).overload = true ∨ load.inLimit = false → s'.drill = s.drill) ∧
      ((rail s j).overload = false → load.inLimit = true → Housekeeping .rail j.val s s') ∧
      s' = { s with pow := { s.pow with rails := s'.pow.rails }, drill := s'.drill, clk := s'.clk } := by
  obtain ⟨own, others, frame⟩ := setRail_rails s j (loadedRail (rail s j) load)
  have ran := exec_railOverload_on main load en steady
  by_cases quiet : (rail s j).overload = true ∨ load.inLimit = false
  · rw [if_pos quiet] at ran
    exact ⟨_, ran, own, others, fun _ => rfl, fun fresh limit => by simp [fresh, limit] at quiet, frame⟩
  · rw [if_neg quiet] at ran
    have told := hk_same .rail j.val (setRail s j (loadedRail (rail s j) load))
    refine ⟨_, ran, ?_, fun k other => ?_, fun calm => absurd calm quiet, fun _ _ => housekeeping_hk rfl .., ?_⟩
    · simpa [rail] using own
    · simpa [rail] using others k other
    · rw [eq_of_clk_drill told]; rfl

/-! ### IGN (R89, R99) -/

theorem latchWake_asleep {s : State} (h : s.sys.mode = Mode.sleep) (k : Nat) :
    (latchWake k s).sys = { s.sys with wake := setBits s.sys.wake k 1 1, waking := true } := by
  simp [latchWake, h]

theorem setBits_getLsbD {w : Nat} (x : BitVec w) {k : Nat} (h : k < w) : (setBits x k 1 1).getLsbD k = true := by
  rw [setBit_or, BitVec.getLsbD_or, BitVec.getLsbD_ofNat, Nat.testBit_two_pow_self]; simp [h]

theorem eq_of_sys {s s' : State} (h : SameBut_sys s s') : s' = { s with sys := s'.sys } := by
  cases s'; simp_all [SameBut_sys]

/-- IGN's new level, and its task while the main die runs. -/
def ignTold (v : Bool) (s : State) : State :=
  let s := { s with pins := { s.pins with ign := v } }
  if mainOn s = true then hk .ign (bit v) s else s

theorem ignTold_frame (v : Bool) (s : State) : ignTold v s =
    { s with pins := { s.pins with ign := v }, drill := (ignTold v s).drill, clk := (ignTold v s).clk } := by
  unfold ignTold; dsimp only
  split
  · exact eq_of_clk_drill (hk_same ..)
  · rfl

theorem exec_ignChange_new {s : State} {v : Bool} (change : s.pins.ign ≠ v) :
    exec (.ignChange v) s = .next (if v = true then latchWake 0 (ignTold v s) else ignTold v s) := by
  simp [execIgnChange, change, ignTold]

/-- A rise is latched as a wake source: nothing but SYS follows the task. -/
theorem exec_ignChange_frame {s : State} {v : Bool} (change : s.pins.ign ≠ v) :
    ∃ sys, exec (.ignChange v) s = .next { ignTold v s with sys := sys } ∧
      (v = true → sys = (latchWake 0 (ignTold v s)).sys) := by
  rw [exec_ignChange_new change]
  cases v with
  | true => exact ⟨_, congrArg _ (eq_of_sys (latchWake_same ..)), fun _ => rfl⟩
  | false => exact ⟨_, rfl, nofun⟩

theorem ignChange_tells {s : State} {v : Bool} (change : s.pins.ign ≠ v) :
    ∃ s', exec (.ignChange v) s = .next s' ∧ s'.pins = { s.pins with ign := v } ∧
      (mainOn s = true → Housekeeping .ign (bit v) s s') ∧
      (s.sys.mode = Mode.sleep → v = true → s'.sys.wake.getLsbD 0 = true ∧ s'.sys.waking = true ∧ s'.drill = s.drill) ∧
      s' = { s with pins := s'.pins, sys := s'.sys, drill := s'.drill, clk := s'.clk } := by
  obtain ⟨sys, ran, wake⟩ := exec_ignChange_frame change
  refine ⟨_, ran, ?_, fun main => ?_, fun asleep rise => ?_, ?_⟩
  · exact congrArg State.pins (ignTold_frame v s)
  · have told : ignTold v s = hk .ign (bit v) { s with pins := { s.pins with ign := v } } := if_pos main
    show Housekeeping .ign (bit v) s { ignTold v s with sys := sys }
    rw [told]
    exact housekeeping_hk rfl ..
  · have off : mainOn s = false := by simp [mainOn, asleep]
    have told : ignTold v s = { s with pins := { s.pins with ign := v } } := if_neg (by simpa [mainOn] using off)
    rw [latchWake_asleep (told ▸ asleep)] at wake
    rw [wake rise]
    exact ⟨setBits_getLsbD _ (by decide), rfl, (congrArg State.drill told :)⟩
  · rw [ignTold_frame]

/-! ### SAFE_IN (R31, R75, R76, R95) -/

/-- SAFE_IN's rise before the mode's part of it: the pin, the zeroed share, SAFE and SAFE_PEND, the Granary cleared. -/
def safeInRisen (s : State) : State :=
  let s := { s with pins := { s.pins with safeIn := true } }
  clearGranary (zeroShare (setTamp s { s.bkp.tamp with safe := true, safePend := true }))

theorem exec_safeInAssert_rise {s : State} (low : s.pins.safeIn = false) :
    exec (.safeInAssert true) s = .next (lockdownEvent 2 (safeInRisen s)) := by
  simp [execSafeInAssert, low, safeInRisen]

/-- Whatever the mode, the backup domain is left with the zeroed share and with TAMP as SAFE_IN sets it, but for SAFE_PEND. -/
theorem lockdownEvent_bkp (lock : BitVec 4) (s : State) : ∃ pend alarms, (lockdownEvent lock s).bkp =
    { s.bkp with tamp := { s.bkp.tamp with safePend := pend }, alarms := alarms } := by
  unfold lockdownEvent
  split
  · exact ⟨_, _, rfl⟩
  · split
    · exact ⟨s.bkp.tamp.safePend, s.bkp.alarms, by simp⟩
    · obtain ⟨alarms, kept⟩ := enterLockdown_bkp lock s
      exact ⟨_, _, kept⟩

theorem lockdownEvent_inBackup {s : State} (h : s.sys.mode = Mode.backup) (lock : BitVec 4) : lockdownEvent lock s = s := by
  simp [lockdownEvent, h]

theorem lockdownEvent_inSleep {s : State} (h : s.sys.mode = Mode.sleep) (rom : s.sys.romPending = false) :
    lockdownEvent 2 s = latchWake 4 s := by
  simp only [lockdownEvent, rom, h]
  rfl

theorem lockdownEvent_powered {s : State} (main : mainOn s = true) (rom : s.sys.romPending = false) (lock : BitVec 4) :
    lockdownEvent lock s = enterLockdown lock s := by
  simp only [mainOn, decide_eq_true_eq] at main
  simp [lockdownEvent, main, rom]

theorem safeIn_locks {s : State} (low : s.pins.safeIn = false) :
    ∃ s', exec (.safeInAssert true) s = .next s' ∧ s'.pins = { s.pins with safeIn := true } ∧ s'.bkp.share = 0 ∧
      s'.bkp.mask = 0 ∧ s'.bkp.tamp.safe = true ∧ s'.bkp.tamp.intrusion = s.bkp.tamp.intrusion ∧
      s'.bkp.tamp.witness = s.bkp.tamp.witness ∧ s'.fuse = s.fuse ∧
      (s.sys.mode = Mode.backup → s'.bkp.tamp.safePend = true ∧ s'.sys = s.sys) ∧
      (s.sys.mode = Mode.sleep → s.sys.romPending = false →
        s'.bkp.tamp.safePend = true ∧ s'.sys.wake.getLsbD 4 = true ∧ s'.sys.waking = true) ∧
      (mainOn s = true → s.sys.romPending = false →
        s'.sys.mode = Mode.lockdown ∧ s'.bkp.tamp.safePend = false ∧ (s.sys.lock = 0 → s'.sys.lock = 2) ∧
        (s.sys.mode ≠ Mode.lockdown → s'.sys.prev = s.sys.mode ∧ s'.drill.descs = [] ∧
          ∀ n, (chan s' n).drive = lockdownDrive s)) := by
  obtain ⟨pend, alarms, kept⟩ := lockdownEvent_bkp 2 (safeInRisen s)
  refine ⟨_, exec_safeInAssert_rise low, ?_, by rw [kept]; rfl, by rw [kept]; rfl, by rw [kept]; rfl, by rw [kept]; rfl,
    by rw [kept]; rfl, ?_, fun off => ?_, fun asleep rom => ?_, fun main rom => ?_⟩
  · simp [safeInRisen, clearGranary, zeroShare, setTamp]
  · simp [safeInRisen, clearGranary, zeroShare, setTamp]
  · rw [lockdownEvent_inBackup (s := safeInRisen s) off]; exact ⟨rfl, rfl⟩
  · have woke := latchWake_asleep (s := safeInRisen s) asleep 4
    rw [lockdownEvent_inSleep (s := safeInRisen s) asleep rom]
    refine ⟨by simp [safeInRisen, clearGranary, zeroShare, setTamp], ?_, by rw [woke]⟩
    rw [woke]; exact setBits_getLsbD _ (by decide)
  · rw [lockdownEvent_powered (s := safeInRisen s) main rom]
    obtain ⟨alarms, entered⟩ := enterLockdown_bkp 2 (safeInRisen s)
    refine ⟨enterLockdown_mode .., by rw [entered], fun none => ?_, fun open_ => ⟨?_, ?_, fun n => ?_⟩⟩
    · rw [enterLockdown_lock]
      show lockMerge s.sys.lock 2 = 2
      rw [none]; decide
    · exact enterLockdown_prev (s := safeInRisen s) open_ 2
    · exact enterLockdown_descs (s := safeInRisen s) open_ 2
    · exact enterLockdown_drive (s := safeInRisen s) open_ 2 n

/-! ### SVC_PRESENT and NV_PROT (R89, R470, R488) -/

theorem exec_svcPresentChange_removed {s : State} (low : s.pins.svcPresentHigh = false) :
    exec (.svcPresentChange true) s = .next (endService { s with pins := { s.pins with svcPresentHigh := true } }) := by
  simp [execSvcPresentChange, low]

theorem exec_svcPresentChange_plugged {s : State} (high : s.pins.svcPresentHigh = true) :
    exec (.svcPresentChange false) s = .next (latchWake 3 { s with pins := { s.pins with svcPresentHigh := false } }) := by
  simp [execSvcPresentChange, high]

theorem foldRetirements_none {s : State} (h : s.chs.toFold = []) : foldRetirements s = s := by
  simp [foldRetirements, h]

/-- With nothing to fold, NV_PROT's release is its task alone. -/
theorem exec_nvProtDeassert_idle {s : State} (high : s.pins.nvProt = true) (main : mainOn s = true)
    (quiet : s.chs.retirePending = false) (none : s.chs.toFold = []) :
    exec (.nvProtDeassert false) s = .next (hk .ledger 0 { s with pins := { s.pins with nvProt := false } }) := by
  have on : mainOn { s with pins := { s.pins with nvProt := false } } = true := main
  rw [exec_nvProtDeassert, execNvProtDeassert]
  simp only [high, on]
  rw [foldRetirements_none (by simpa using none)]
  simp [quiet]

/-- Settles O34: flag by flag, rail by rail and pin by pin. -/
theorem powerFlagsAndPins : Obligations.PowerFlagsAndPins := by
  unfold Obligations.PowerFlagsAndPins
  refine ⟨fun s => ⟨fun mv main vsup high => ?_, fun mv main vsup above below => ?_, fun mv vsup above => ?_,
      fun tj main hot => ?_, fun j load main en steady => ?_, fun j en steady => ?_, fun j => ?_⟩,
    fun s => ⟨fun v change => ignChange_tells change, fun low => safeIn_locks low, fun high => ?_,
      fun low service => ?_, fun high asleep => ?_, fun high main quiet none => ?_⟩⟩
  · exact ⟨_, exec_vsupOvervoltage_over main vsup high, raisePow_sets ..⟩
  · exact ⟨_, exec_vsupLowRange_low main vsup above below, raisePow_sets ..⟩
  · exact exec_vsupReturnToRange_back vsup above
  · exact ⟨_, exec_thermalWarn_hot main hot, raisePow_sets ..⟩
  · exact railOverload_takes main load en steady
  · exact ⟨_, exec_railHiccup_on en steady, setRail_rails ..⟩
  · exact ⟨_, rfl, setRail_rails ..⟩
  · rw [exec_safeInAssert, execSafeInAssert, high]; rfl
  · obtain ⟨mode, scope⟩ := endService_leaves (s := { s with pins := { s.pins with svcPresentHigh := true } }) service
    exact ⟨_, exec_svcPresentChange_removed low, by simp, mode, scope⟩
  · have woke := latchWake_asleep (s := { s with pins := { s.pins with svcPresentHigh := false } }) asleep 3
    refine ⟨_, exec_svcPresentChange_plugged high, by simp, ?_, ?_, ?_⟩
    · rw [woke]; exact setBits_getLsbD _ (by decide)
    · rw [woke]
    · rw [eq_of_sys (latchWake_same ..)]
  · refine ⟨_, exec_nvProtDeassert_idle high main quiet none, by simp, housekeeping_hk rfl .., ?_⟩
    rw [eq_of_clk_drill (hk_same ..)]

end Sys2Proof.Machine
end

section
/-! PROOFS. The resets: what a cold reset leaves (R58, R102, R103), and the warm reset with its measurement (R82, R103,
R123). -/

namespace Sys2Proof.Machine

/-! ### The cold reset -/

theorem vget_map {α β : Type} {n : Nat} (f : α → β) (v : Vector α n) (i : Fin n) : vget (v.map f) i = f (vget v i) := by
  simp [vget]

/-- No firing asserts WAKE_OUT any longer (R100). -/
theorem releaseFirings_drives (b : Backup) (a : Fin 4) : (vget (releaseFirings b).alarms a).drives = false := by
  rw [releaseFirings, vget_map]

theorem coldReset_wakeOut (cause : BitVec 4) (s : State) : wakeOut (coldReset cause s) = false := by
  have released : ∀ a, (alarm (coldReset cause s) a).drives = false := releaseFirings_drives s.bkp
  have switch : (coldReset cause s).sys.wakeoutSw = false := rfl
  have pulse : (coldReset cause s).sys.pulse = false := rfl
  simp [wakeOut, released, switch, pulse]

theorem coldReset_coldStart (cause : BitVec 4) (s : State) :
    ColdStart cause.toNat s.sys.mode s (coldReset cause s) := by
  refine ⟨rfl, rfl, rfl, rfl, rfl, rfl, rfl, fun j => ?_, fun b => ?_, fun n => ?_, rfl, rfl, rfl, coldReset_wakeOut cause s,
    rfl, rfl, rfl, rfl, cutBlow_array s.fuse, rfl⟩
  · exact congrArg Rail.en (vget_replicate _ j)
  · exact congrArg BayOut.on (vget_replicate _ b)
  · have fresh : chan (coldReset cause s) n = {} := vget_replicate _ n
    rw [fresh]; exact ⟨rfl, rfl⟩

/-! ### A mode change writes the ledger array alone (R472) -/

theorem logEntry_mem (type src : Nat) (data : List Byte) (s : State) :
    (logEntry type src data s).mem = { s.mem with ledger := (logEntry type src data s).mem.ledger } := by
  unfold logEntry; split
  · rfl
  · unfold appendLog; dsimp only
    generalize makeSlot _ _ _ _ _ _ = bytes
    rfl

theorem transition_mem (m : BitVec 3) (s : State) : (transition m s).mem = { s.mem with ledger := (transition m s).mem.ledger } := by
  unfold transition; dsimp only
  split
  · rfl
  · exact logEntry_mem ..

theorem enterMode_mem (m : BitVec 3) (s : State) : (enterMode m s).mem = { s.mem with ledger := (enterMode m s).mem.ledger } := by
  unfold enterMode; split
  · rfl
  · exact transition_mem m s

/-! ### The warm reset (R103, R123) -/

/-- The bays' part of a warm reset: each is reset with its CAUSE kept and its link down (R398). -/
def warmBays (s : State) : State := (fins 4).foldl (fun s b => bayReset b none (some 0) s) s

/-- No Limp reason stays in force. -/
def limpless (s : State) : State := { s with sys := { s.sys with limpSet := 0 } }

/-- The module in Boot, before a warm reset clears the rest. -/
def warmEntered (s : State) : State := enterMode Mode.boot (limpless (warmBays s))

theorem warmReset_runs {s : State} (h2 : limpReason s 2 = false) (limp : s.sys.mode ≠ Mode.limp ∨ s.seed.activated = true) :
    warmReset s = warmClear (warmEntered s) := by
  have allowed : ¬ (limpReason s 2 = true ∨ (s.sys.mode = Mode.limp ∧ ¬ s.seed.activated = true)) := by
    rw [h2]; rintro (h | ⟨inLimp, old⟩)
    · cases h
    · exact limp.elim (· inLimp) old
  exact if_neg allowed

/-- R84, R94: in Limp reason 2, and in Limp with no new image, a warm reset is not carried out. -/
theorem warmReset_refused {s : State} (h : limpReason s 2 = true ∨ (s.sys.mode = Mode.limp ∧ s.seed.activated = false)) :
    warmReset s = s :=
  if_pos (h.imp_right fun ⟨inLimp, old⟩ => ⟨inLimp, by simp [old]⟩)

@[simp] theorem bayReset_pow (b : Bay) (cause : Option (BitVec 4)) (link : Option (BitVec 3)) (s : State) :
    (bayReset b cause link s).pow = s.pow := rfl

/-- A bay reset has nothing of the Granary go but its commands' place in the requests (R398). -/
theorem bayReset_roots (b : Bay) (cause : Option (BitVec 4)) (link : Option (BitVec 3)) (s : State) :
    (bayReset b cause link s).grn.roots = s.grn.roots := by
  unfold bayReset bayResetParts; dsimp only
  (repeat' split) <;> simp [orphanRequests]

/-- What a bay reset leaves of what a warm reset keeps. -/
theorem foldl_bayReset_keeps (cause : Option (BitVec 4)) (link : Option (BitVec 3)) (l : List Bay) (s : State) :
    let s' := l.foldl (fun s b => bayReset b cause link s) s
    s'.pow = s.pow ∧ s'.grn.roots = s.grn.roots ∧ s'.sys = s.sys ∧ s'.bkp = s.bkp ∧ s'.fuse = s.fuse ∧ s'.boot = s.boot ∧
    s'.mem = s.mem := by
  induction l generalizing s with
  | nil => exact ⟨rfl, rfl, rfl, rfl, rfl, rfl, rfl⟩
  | cons b l ih =>
    obtain ⟨-, -, -, bkp, sys, fuse, boot, -, -, -, -, -, -, mem, -⟩ := bayReset_same b cause link s
    obtain ⟨pow', roots', sys', bkp', fuse', boot', mem'⟩ := ih (bayReset b cause link s)
    exact ⟨pow'.trans rfl, roots'.trans (bayReset_roots ..), sys'.trans sys, bkp'.trans bkp, fuse'.trans fuse,
      boot'.trans boot, mem'.trans mem⟩

theorem warmBays_keeps (s : State) : (warmBays s).pow = s.pow ∧ (warmBays s).grn.roots = s.grn.roots ∧
    (warmBays s).sys = s.sys ∧ (warmBays s).bkp = s.bkp ∧ (warmBays s).fuse = s.fuse ∧ (warmBays s).boot = s.boot ∧
    (warmBays s).mem = s.mem := foldl_bayReset_keeps none (some 0) (fins 4) s

theorem limplessBoot_keeps (s : State) :
    let e := enterMode Mode.boot (limpless s)
    e.sys.mode = Mode.boot ∧ (s.sys.mode ≠ Mode.boot → e.sys.prev = s.sys.mode) ∧ e.pow = s.pow ∧ e.grn.roots = s.grn.roots ∧
    e.bkp = s.bkp ∧ e.fuse = s.fuse ∧ e.boot = s.boot ∧ e.mem.flash = s.mem.flash ∧ e.mem.store = s.mem.store := by
  have written := enterMode_mem Mode.boot (limpless s)
  refine ⟨enterMode_mode .., fun h => enterMode_prev (s := limpless s) h, ?_, ?_, ?_, ?_, ?_, ?_, ?_⟩
  · simp [limpless]
  · simp [limpless]
  · simp [limpless]
  · simp [limpless]
  · simp [limpless]
  · rw [written]; rfl
  · rw [written]; rfl

theorem warmEntered_keeps (s : State) : (warmEntered s).sys.mode = Mode.boot ∧
    (s.sys.mode ≠ Mode.boot → (warmEntered s).sys.prev = s.sys.mode) ∧ (warmEntered s).pow = s.pow ∧
    (warmEntered s).grn.roots = s.grn.roots ∧ (warmEntered s).bkp = s.bkp ∧ (warmEntered s).fuse = s.fuse ∧
    (warmEntered s).boot = s.boot ∧ (warmEntered s).mem.flash = s.mem.flash ∧ (warmEntered s).mem.store = s.mem.store := by
  obtain ⟨pow, roots, sys, bkp, fuse, boot, mem⟩ := warmBays_keeps s
  have booted := limplessBoot_keeps (warmBays s)
  rw [pow, roots, sys, bkp, fuse, boot, mem] at booted
  rw [warmEntered]
  exact booted

/-! ### The requests (R102 to R105) -/

theorem exec_coldResetRequest_open {s : State} {r : Req} (passes : passesGuard s r 0x5400020C = true)
    (may : mayReset s r = true) : exec (.coldResetRequest r) s = .next (coldReset 3 s) := by
  rw [exec_coldResetRequest, execColdResetRequest, may, tryWrite_open passes]; rfl

theorem exec_warmResetRequest_open {s : State} {r : Req} (passes : passesGuard s r 0x5400020C = true)
    (may : mayReset s r = true) :
    exec (.warmResetRequest r) s = .next (if s.sys.mode = Mode.lockdown then s else warmReset s) := by
  rw [exec_warmResetRequest, execWarmResetRequest, may, tryWrite_open passes]
  by_cases h : s.sys.mode = Mode.lockdown <;> simp [resetWrite, h]

/-- R102, R123: SYS after the warm reset's clearing (log entry 102). -/
theorem warmClear_sys (s : State) : (warmClear s).sys.mode = s.sys.mode ∧ (warmClear s).sys.prev = s.sys.prev ∧
    (warmClear s).sys.cause = 4 ∧ (warmClear s).sys.limpSet = 0 ∧ (warmClear s).sys.wake = 0 ∧
    (warmClear s).sys.romPending = !s.boot.measValid :=
  ⟨rfl, rfl, rfl, rfl, rfl, rfl⟩

/-- R103: SRAM is zeroed, and what keeps its contents without power stays. -/
theorem warmClear_mem (s : State) : (warmClear s).mem.sram = [] ∧ (warmClear s).mem.flash = s.mem.flash ∧
    (warmClear s).mem.store = s.mem.store ∧ (warmClear s).fuse = s.fuse :=
  ⟨rfl, rfl, rfl, rfl⟩

/-- The parts that the clearing takes one by one, and the seed, which has to be applied anew. -/
theorem warmClear_parts (s : State) : (warmClear s).pow = warmPower s.pow ∧ (warmClear s).bkp = freshShadows s.bkp ∧
    (warmClear s).grn.roots = s.grn.roots ∧ (warmClear s).grn.slots = .replicate 48 {} ∧
    (warmClear s).seed.applied = false :=
  ⟨rfl, rfl, rfl, rfl, rfl⟩

theorem warmClear_chan (s : State) (n : Chan) : chan (warmClear s) n = {} := vget_replicate _ n

theorem warmClear_rail (s : State) (j : Fin 8) : rail (warmClear s) j = { rail s j with overload := false } := vget_map ..

/-- With a measurement latched the Enclosure is held and measured again. -/
theorem warmClear_measures {s : State} (valid : s.boot.measValid = true) :
    (∀ t, (thr (warmClear s) t).run = .held) ∧
    (warmClear s).boot = { s.boot with commons := 0, remBusy := true, trigger := 1, remMatch := false } := by
  have held : (warmClear s).cores = heldCores := if_pos valid
  exact ⟨fun t => by rw [thr, held]; exact congrArg Thr.run (vget_replicate _ t), if_pos valid⟩

/-- Without one the ROM starts unlocked (05 › Edges). -/
theorem warmClear_unlocks {s : State} (invalid : s.boot.measValid = false) : (warmClear s).boot.romLocked = false := by
  simp [warmClear, invalid]

/-- Settles O39: the cold reset from what it leaves, the warm reset through the module's entry to Boot. -/
theorem resetRequests : Obligations.ResetRequests := by
  unfold Obligations.ResetRequests
  intro s r passes
  refine ⟨fun may => ⟨⟨_, exec_coldResetRequest_open passes may, coldReset_coldStart 3 s⟩, fun unlocked h2 limp => ?_,
    fun refused => ?_⟩, fun mayNot => ⟨?_, ?_⟩⟩
  · have ran := exec_warmResetRequest_open passes may
    rw [if_neg unlocked, warmReset_runs h2 limp] at ran
    obtain ⟨mode, prev, pow, roots, bkp, fuse, boot, flash, store⟩ := warmEntered_keeps s
    obtain ⟨mode', prev', cause, noLimp, noWake, rom⟩ := warmClear_sys (warmEntered s)
    obtain ⟨sram, flash', store', fuse'⟩ := warmClear_mem (warmEntered s)
    obtain ⟨pow', bkp', roots', slots, seed⟩ := warmClear_parts (warmEntered s)
    rw [pow] at pow'
    rw [bkp] at bkp'
    rw [boot] at rom
    refine ⟨_, ran, mode'.trans mode, cause, fun h => prev'.trans (prev h), noLimp, noWake, sram, flash'.trans flash,
      store'.trans store, fuse'.trans fuse, bkp', fun j => ?_, by rw [pow']; rfl, fun n => ?_, seed, fun k => ?_, roots'.trans roots,
      by rw [pow']; rfl, by rw [pow']; rfl, by rw [pow']; rfl, fun valid => ?_, fun invalid => ⟨?_, ?_⟩⟩
    · rw [warmClear_rail, rail, pow, ← rail]
    · rw [warmClear_chan]; exact ⟨rfl, rfl⟩
    · rw [slots]; exact vget_replicate _ k
    · obtain ⟨held, measured⟩ := warmClear_measures (s := warmEntered s) (by rw [boot]; exact valid)
      rw [measured, boot]
      exact ⟨by rw [rom, valid]; rfl, rfl, rfl, rfl, rfl, rfl, held⟩
    · rw [rom, invalid]; rfl
    · exact warmClear_unlocks (by rw [boot]; exact invalid)
  · rw [exec_warmResetRequest_open passes may]
    split
    · rfl
    · rename_i unlocked
      rw [warmReset_refused (refused.resolve_left unlocked)]
  · obtain ⟨kind, shut⟩ := tryWrite_closed passes (resetWrite 2)
    exact refusedSilently_of_violate (by rw [exec_coldResetRequest, execColdResetRequest, mayNot, shut])
  · obtain ⟨kind, shut⟩ := tryWrite_closed passes (resetWrite 1)
    exact refusedSilently_of_violate (by rw [exec_warmResetRequest, execWarmResetRequest, mayNot, shut])

end Sys2Proof.Machine
end

section
/-! PROOFS. What the operations of a bay do to its registers: the slot, the link, what is sent, the end of an orderly
removal, and the parts of a bay reset (R48, R392 to R398, R456). -/

namespace Sys2Proof.Machine

/-! ### One bay -/

theorem onlyBay_refl (b : Bay) (s : State) : OnlyBay b s s := ⟨rfl, fun _ _ => rfl⟩

theorem onlyBay_trans {b : Bay} {s s' s'' : State} (h : OnlyBay b s s') (h' : OnlyBay b s' s'') : OnlyBay b s s'' := by
  obtain ⟨frame, others⟩ := h
  obtain ⟨frame', others'⟩ := h'
  exact ⟨by rw [frame', frame], fun k other => (others' k other).trans (others k other)⟩

theorem onlyBay_setBay (s : State) (b : Bay) (x : BayState) : OnlyBay b s (setBay s b x) :=
  ⟨rfl, fun _ other => bay_setBay_other s other x⟩

theorem eq_of_clk {s s' : State} (h : SameBut_clk s s') : s' = { s with clk := s'.clk } := by
  cases s'; simp_all [SameBut_clk]

/-- An operation sends: of the bay only what it sends and its vectors' bits may differ. -/
def Sends (b : Bay) (s s' : State) : Prop :=
  OnlyBay b s s' ∧ ∃ out vecs, bay s' b = { bay s b with out := out, vecs := vecs }

theorem sends_refl (b : Bay) (s : State) : Sends b s s := ⟨onlyBay_refl b s, _, _, rfl⟩

theorem sends_trans {b : Bay} {s s' s'' : State} (h : Sends b s s') (h' : Sends b s' s'') : Sends b s s'' := by
  obtain ⟨only, _, _, own⟩ := h
  obtain ⟨only', out, vecs, own'⟩ := h'
  exact ⟨onlyBay_trans only only', out, vecs, by rw [own', own]⟩

theorem sends_of_clk {s s' : State} (b : Bay) (h : SameBut_clk s s') : Sends b s s' :=
  ⟨⟨by rw [eq_of_clk h], fun k _ => by rw [eq_of_clk h]; rfl⟩, (bay s b).out, (bay s b).vecs, by rw [eq_of_clk h]; rfl⟩

theorem sends_setOut (s : State) (b : Bay) (out : List HostOut) : Sends b s (setBay s b { bay s b with out := out }) :=
  ⟨onlyBay_setBay .., _, _, bay_setBay_same ..⟩

theorem sends_setVecs (s : State) (b : Bay) (vecs : Vector Vec 32) : Sends b s (setBay s b { bay s b with vecs := vecs }) :=
  ⟨onlyBay_setBay .., _, _, bay_setBay_same ..⟩

theorem flushOut_sends (b : Bay) (k : Nat) (s : State) : Sends b s (flushOut b k s) := by
  induction k generalizing s with
  | zero => exact sends_refl b s
  | succ k ih =>
    unfold flushOut; dsimp only
    split
    · exact sends_refl b s
    · split
      · exact sends_trans (sends_trans (sends_setOut ..) (sends_of_clk b (qLeave_same ..))) (ih _)
      · exact sends_refl b s

theorem hostSend_sends (b : Bay) (i : HostItem) (s : State) : Sends b s (hostSend b i s) :=
  sends_trans (sends_trans (sends_setOut ..) (sends_of_clk b (qJoin_same ..))) (flushOut_sends ..)

theorem raiseVec_sends (b : Bay) (v : BitVec 5) (s : State) : Sends b s (raiseVec b v s) := by
  unfold raiseVec; dsimp only
  split
  · exact sends_setVecs ..
  · split
    · exact sends_refl b s
    · exact hostSend_sends ..

theorem bayEvent_sends (b : Bay) (s : State) : Sends b s (bayEvent b s) := by
  unfold bayEvent; dsimp only
  split
  · exact raiseVec_sends ..
  · exact sends_refl b s

/-! ### The slot and the link -/

theorem bay_hk (cause : HkCause) (data : Nat) (s : State) (k : Bay) : bay (hk cause data s) k = bay s k := by simp [bay]

theorem bay_raiseSlot (b k : Bay) (was : Bool) (f : BayState → BayState) (s : State) :
    bay (raiseSlot b was f s) k = if k = b then f (bay s b) else bay s k := by
  unfold raiseSlot; dsimp only
  split
  · exact bay_setBay ..
  · rw [bay_hk]; exact bay_setBay ..

/-- LINK_STS takes its state; DLLSC shows a change of LINK_UP (R397). -/
def linkedAt (st : BitVec 3) (x : BayState) : BayState :=
  { x with link := st, speed := if st = 2 ∨ st = 3 then x.speed else 0
           dllsc := x.dllsc || (linkUpNow x != decide (st = 2 ∨ st = 3)) }

/-- DLLSC rises with a change of LINK_UP. -/
theorem linkedAt_same {st : BitVec 3} {x : BayState} (same : linkUpNow x = decide (st = 2 ∨ st = 3)) :
    linkedAt st x = { x with link := st, speed := if st = 2 ∨ st = 3 then x.speed else 0 } := by
  rw [linkedAt, same, bne_self_eq_false, Bool.or_false]

theorem linkedAt_change {st : BitVec 3} {x : BayState} (change : linkUpNow x ≠ decide (st = 2 ∨ st = 3)) :
    linkedAt st x =
      { x with link := st, speed := if st = 2 ∨ st = 3 then x.speed else 0, dllsc := true } := by
  rw [linkedAt, bne_iff_ne.mpr change, Bool.or_true]

theorem bay_setLink (b k : Bay) (st : BitVec 3) (s : State) :
    bay (setLink b st s) k = if k = b then linkedAt st (bay s b) else bay s k := by
  by_cases same : linkUpNow (bay s b) = decide (st = 2 ∨ st = 3)
  · rw [show setLink b st s = setBay s b _ from if_pos (beq_iff_eq.mpr same), bay_setBay, linkedAt_same same]
  · rw [show setLink b st s = raiseSlot b _ _ (setBay s b _) from if_neg (mt beq_iff_eq.mp same), bay_raiseSlot,
      linkedAt_change same, bay_setBay_same]
    split
    · rfl
    · next other => rw [bay_setBay_other s other]

theorem serveRequest_bays (b : Bay) (s : State) : (serveRequest b s).bays = s.bays := by
  unfold serveRequest; dsimp only
  (repeat' split) <;> simp

theorem setPwr_bays (b : Bay) (on : Bool) (s : State) :
    (setPwr b on s).bays = (setBay s b { bay s b with pwr := on }).bays := by
  unfold setPwr; dsimp only
  split
  · split
    · rfl
    · rw [serveRequest_bays]; rfl
  · rfl

theorem bay_setPwr (b k : Bay) (on : Bool) (s : State) :
    bay (setPwr b on s) k = if k = b then { bay s b with pwr := on } else bay s k :=
  (congrArg (vget · k) (setPwr_bays b on s)).trans (bay_setBay s b k _)

theorem bayOut_setPwr_off (b : Bay) (s : State) : (bayOut (setPwr b false s) b).on = false := by
  simp [setPwr]

theorem mem_hkq_serveRequest {e : HkEvent} {s : State} (h : e ∈ s.drill.hkq) (b : Bay) :
    e ∈ (serveRequest b s).drill.hkq := by
  unfold serveRequest; dsimp only
  split
  · exact h
  · split
    · exact mem_hkq_hk (s := setBayOut s b _) h ..
    · exact h

theorem mem_hkq_setPwr {e : HkEvent} {s : State} (h : e ∈ s.drill.hkq) (b : Bay) (on : Bool) :
    e ∈ (setPwr b on s).drill.hkq := by
  unfold setPwr; dsimp only
  split
  · split
    · exact h
    · exact mem_hkq_serveRequest (s := setBayOut (setBay s b _) b _) h b
  · exact h

/-! ### The end of an orderly removal (R395) -/

/-- With no command in use: power off, indicator off, QUIESCED. -/
theorem settleQuiesce_ends {s : State} {b : Bay} (quiescing : (bay s b).quiescing = true) (idle : (bay s b).cmds = []) :
    ∃ out vecs, bay (settleQuiesce b s) b =
      { bay s b with quiescing := false, quiesced := true, ind := 0, pwr := false, out := out, vecs := vecs } ∧
      (bayOut (settleQuiesce b s) b).on = false := by
  let s1 : State := setBay (setBayOut s b { bayOut s b with on := false, request := false }) b
    { bay s b with quiescing := false, quiesced := true, ind := 0, pwr := false }
  have settled : settleQuiesce b s = bayEvent b s1 := if_pos (by simp [quiescing, idle])
  obtain ⟨⟨frame, -⟩, out, vecs, own⟩ := bayEvent_sends b s1
  rw [settled]
  refine ⟨out, vecs, by rw [own, bay_setBay_same], ?_⟩
  rw [frame]
  exact congrArg BayOut.on (bayOut_setBayOut_same s b _)

theorem settleQuiesce_waits {s : State} {b : Bay} (h : (bay s b).quiescing = false ∨ (bay s b).cmds ≠ []) :
    settleQuiesce b s = s := by
  unfold settleQuiesce
  exact if_neg (by rcases h with h | h <;> simp [h])

end Sys2Proof.Machine
end

section
/-! PROOFS. The release of a bay's tasks (R272): their commands end as in a removal, and what is released leaves every
channel's retirement as it was. -/

namespace Sys2Proof.Machine

/-! ### Retirement stays (R182, R237) -/

theorem foldl_retired {α : Type} {f : State → α → State} (keeps : ∀ s x, (f s x).chs.retired = s.chs.retired)
    (l : List α) (s : State) : (l.foldl f s).chs.retired = s.chs.retired :=
  List.foldlRecOn (motive := fun s' => s'.chs.retired = s.chs.retired) l f rfl fun s' h x _ => (keeps s' x).trans h

theorem flushHeld_retired (n : Chan) (k : Nat) (s : State) : (flushHeld n k s).chs.retired = s.chs.retired := by
  induction k generalizing s with
  | zero => rfl
  | succ k ih =>
    unfold flushHeld; dsimp only
    split
    · rfl
    · split
      · rfl
      · split
        · simp
        · rw [ih]; simp [setChev, setChan]

theorem applyChwr_retired (i : ChwrItem) (s : State) : (applyChwr i s).chs.retired = s.chs.retired := by
  cases i with
  | post => rfl
  | grant n => exact flushHeld_retired ..
  | release n cells => rfl
  | handover n fr => rfl

theorem crossCells_retired (i : ChwrItem) (s : State) : (crossCells i s).chs.retired = s.chs.retired := by
  cases i <;> rfl

theorem popChwr_retired (f : Furrow) (rest : List ChwrItem) (s : State) :
    (popChwr f rest s).chs.retired = s.chs.retired := by
  unfold popChwr; dsimp only
  split
  · simp [setChwr]
  · rw [crossCells_retired]; simp [setChwr]

theorem settleChwr_retired (f : Furrow) (k : Nat) (s : State) : (settleChwr f k s).chs.retired = s.chs.retired := by
  induction k generalizing s with
  | zero => rfl
  | succ k ih =>
    unfold settleChwr
    split
    · rfl
    · split
      · rfl
      · rfl
      · rw [ih, applyChwr_retired, popChwr_retired]

theorem sendChwr_retired (f : Furrow) (i : ChwrItem) (s : State) : (sendChwr f i s).chs.retired = s.chs.retired := by
  unfold sendChwr; dsimp only
  rw [settleChwr_retired]
  split
  · rw [crossCells_retired]; simp [setChwr]
  · simp [setChwr]

theorem grantPass_retired (f : Nat) (s : State) : (grantPass f s).chs.retired = s.chs.retired := by
  unfold grantPass
  rw [foldl_retired]
  intro s n
  split
  · rw [sendChwr_retired]; simp
  · rfl

theorem pumpGrants_retired (f k : Nat) (s : State) : (pumpGrants f k s).chs.retired = s.chs.retired := by
  induction k generalizing s with
  | zero => rfl
  | succ k ih =>
    unfold pumpGrants
    split
    · rfl
    · rw [ih, grantPass_retired]

theorem returnCells_retired (cells : List (Chan × BitVec 5)) (s : State) :
    (returnCells cells s).chs.retired = s.chs.retired := by
  refine foldl_retired (fun s n => ?_) (fins 128) s
  dsimp only
  split
  · rfl
  · exact sendChwr_retired ..

/-- The commands of a task end with its status, before its cells and its descriptor go (R267). -/
def endCommands (d : Fin 1024) (s : State) : State :=
  (desc s d).life.slots.foldl
    (fun s' p => bayCmdDone p.1 p.2 (desc s d).life.status (desc s d).life.result s') s

/-- What a release does once the task's commands have ended: cells, entry, credit, descriptor and emissions (R267). -/
def retireTask (x : Desc) (d : Fin 1024) (s : State) : State :=
  let f := x.flow.toNat
  let s := returnCells x.life.cells s
  let s := if x.entry = 0xFFFF then s else setEntry s x.entry.toNat {}
  let fl := flow s f
  let s := setFlow s f { consumeOrder x.order fl with taken := fl.taken - 1 }
  pump f (enterChildren d (setDesc s d {}))

theorem releaseDesc_eq (d : Fin 1024) (s : State) : releaseDesc d s = retireTask (desc s d) d (endCommands d s) := rfl

theorem retireTask_bays (x : Desc) (d : Fin 1024) (s : State) : (retireTask x d s).bays = s.bays := by
  simp [retireTask]

theorem retireTask_pow (x : Desc) (d : Fin 1024) (s : State) : (retireTask x d s).pow = s.pow := by
  simp [retireTask]

theorem retireTask_retired (x : Desc) (d : Fin 1024) (s : State) : (retireTask x d s).chs.retired = s.chs.retired := by
  simp [retireTask, pump, pumpGrants_retired, returnCells_retired]

theorem endCommands_retired (d : Fin 1024) (s : State) : (endCommands d s).chs.retired = s.chs.retired := by
  unfold endCommands
  rw [foldl_retired]
  simp

theorem releaseDesc_retired (d : Fin 1024) (s : State) : (releaseDesc d s).chs.retired = s.chs.retired := by
  calc (releaseDesc d s).chs.retired
    _ = (retireTask (desc s d) d (endCommands d s)).chs.retired := by rw [releaseDesc_eq]
    _ = (endCommands d s).chs.retired := retireTask_retired ..
    _ = s.chs.retired := endCommands_retired d s

/-- The descriptor with BAY_REMOVED as its status. -/
def removedDesc (x : Desc) : Desc := { x with life := { x.life with status := worstStatus x.life.status 5 } }

theorem cancelDesc_removed (d : Fin 1024) (s : State) :
    cancelDesc d 5 s = releaseDesc d (setDesc (passTurn d s) d (removedDesc (desc s d))) := rfl

theorem setDesc_passTurn_chs (d e : Fin 1024) (x : Desc) (s : State) : (setDesc (passTurn d s) e x).chs = s.chs := by simp

theorem cancelDesc_retired (d : Fin 1024) (s : State) : (cancelDesc d 5 s).chs.retired = s.chs.retired := by
  rw [cancelDesc_removed, releaseDesc_retired, setDesc_passTurn_chs]

theorem releaseBayTask_retired (b : Bay) (d : Fin 1024) (s : State) :
    (releaseBayTask b d s).chs.retired = s.chs.retired := by
  unfold releaseBayTask; dsimp only
  split
  · rfl
  · split
    · exact cancelDesc_retired ..
    · split
      · rw [releaseDesc_retired]; simp
      · simp

theorem releaseBayTasks_retired (b : Bay) (s : State) : (releaseBayTasks b s).chs.retired = s.chs.retired := by
  unfold releaseBayTasks
  rw [foldl_retired]
  exact fun s d => releaseBayTask_retired b d s

/-! ### The removal's status (R15, R272) -/

theorem statusRank_eq_zero {a : Byte} (h : statusRank a = 0) : a = 5 := by
  unfold statusRank at h
  split at h
  · next five => exact BitVec.eq_of_toNat_eq five
  all_goals cases h

/-- Nothing is reported before BAY_REMOVED. -/
theorem worstStatus_removed (a : Byte) : worstStatus a 5 = 5 := by
  unfold worstStatus
  split
  · next earlier => exact statusRank_eq_zero (Nat.le_zero.mp earlier)
  · rfl

/-! ### The commands of a bay's released tasks -/

/-- What the release of a bay's tasks keeps: what the end of one command in a removal keeps, and speaks only of the bays
and the power stage. -/
theorem releaseBayTasks_induction {P : State → Prop}
    (frame : ∀ s s', s'.bays = s.bays → s'.pow = s.pow → P s → P s')
    (removed : ∀ k slot result s, P s → P (bayCmdDone k slot 5 result s)) (b : Bay) {s : State} (h : P s) :
    P (releaseBayTasks b s) := by
  have commands : ∀ d s, (desc s d).life.status = 5 → P s → P (endCommands d s) := fun d s five h => by
    unfold endCommands
    rw [five]
    exact List.foldlRecOn _ _ h fun s' h' p _ => removed _ _ _ _ h'
  have release : ∀ d s, (desc s d).life.status = 5 → P s → P (releaseDesc d s) := fun d s five h =>
    frame (endCommands d s) _ (retireTask_bays ..) (retireTask_pow ..) (commands d s five h)
  unfold releaseBayTasks
  refine List.foldlRecOn (motive := P) (fins 1024) _ h fun s h d _ => ?_
  unfold releaseBayTask; dsimp only
  split
  · exact h
  · split
    · rw [cancelDesc_removed]
      refine release _ _ ?_ (frame s _ (by simp) (by simp) h)
      rw [desc_setDesc_same]
      exact worstStatus_removed _
    · split
      · refine release _ _ ?_ (frame s _ (by simp) (by simp) h)
        rw [desc_setDesc_same]
        exact worstStatus_removed _
      · exact frame s _ (by simp) (by simp) h

end Sys2Proof.Machine
end

section
/-! PROOFS. What a bay reset leaves of its bay (R58, R272, R398), and the end of an orderly removal by its time limit
(R395). -/

namespace Sys2Proof.Machine

/-! ### The bay while its tasks are released -/

theorem bayCmdDone_removed (k : Bay) (slot : Fin 256) (result : DWord) (s : State) :
    bayCmdDone k slot 5 result s = s ∨ bayCmdDone k slot 5 result s = settleQuiesce k (dropCmd k slot s) := by
  unfold bayCmdDone
  split
  · exact .inl rfl
  · exact .inr (if_pos rfl)

theorem settleQuiesce_other {k b : Bay} (other : b ≠ k) (s : State) :
    bay (settleQuiesce k s) b = bay s b ∧ bayOut (settleQuiesce k s) b = bayOut s b := by
  unfold settleQuiesce; dsimp only
  split
  · obtain ⟨⟨frame, others⟩, -⟩ := bayEvent_sends k (setBay (setBayOut s k _) k _)
    refine ⟨(others b other).trans (bay_setBay_other _ other _), ?_⟩
    rw [frame]
    exact bayOut_setBayOut_other s other _
  · exact ⟨rfl, rfl⟩

/-- The end of a command leaves another bay, and its output, as they were. -/
theorem bayCmdDone_removed_other {k b : Bay} (other : b ≠ k) (slot : Fin 256) (result : DWord) (s : State) :
    bay (bayCmdDone k slot 5 result s) b = bay s b ∧ bayOut (bayCmdDone k slot 5 result s) b = bayOut s b := by
  rcases bayCmdDone_removed k slot result s with same | dropped
  · rw [same]; exact ⟨rfl, rfl⟩
  · obtain ⟨own, out⟩ := settleQuiesce_other other (dropCmd k slot s)
    rw [dropped, own, out]
    exact ⟨bay_setBay_other _ other _, rfl⟩

/-- Of a bay that does not quiesce only the commands end. -/
theorem releaseBayTasks_cmds {b : Bay} {s : State} (still : (bay s b).quiescing = false) :
    ∃ cmds, bay (releaseBayTasks b s) b = { bay s b with cmds := cmds } := by
  refine releaseBayTasks_induction (P := fun s' => ∃ cmds, bay s' b = { bay s b with cmds := cmds })
    (fun s1 s2 bays _ ⟨cmds, own⟩ => ⟨cmds, by rw [bay, bays]; exact own⟩) (fun k slot result s1 ⟨cmds, own⟩ => ?_) b
    ⟨_, rfl⟩
  by_cases other : b = k
  · subst other
    rcases bayCmdDone_removed b slot result s1 with same | dropped
    · exact ⟨cmds, by rw [same]; exact own⟩
    · have waits : (bay (dropCmd b slot s1) b).quiescing = false := by
        rw [dropCmd, bay_setBay_same, own]; exact still
      rw [dropped, settleQuiesce_waits (.inl waits), dropCmd, bay_setBay_same, own]
      exact ⟨_, rfl⟩
  · exact ⟨cmds, by rw [(bayCmdDone_removed_other other slot result s1).1, own]⟩

/-! ### The parts of a bay reset -/

/-- The bay's own staging session ends (R143). -/
def endBayStaging (b : Bay) (s : State) : State :=
  if s.seed.open_ ∧ s.seed.source = bayStageSource b then endStaging s else s

theorem endBayStaging_keeps (b : Bay) (s : State) :
    (endBayStaging b s).bays = s.bays ∧ (endBayStaging b s).chs = s.chs := by
  unfold endBayStaging
  split <;> exact ⟨rfl, rfl⟩

/-- An orderly removal ends without its outcome (R398). -/
def stopQuiescing (b : Bay) (s : State) : State := setBay s b { bay s b with quiescing := false }

/-- A bay reset as far as its tasks: its staging session, an orderly removal and its tasks have ended. -/
def resetTasks (b : Bay) (s : State) : State :=
  orphanRequests b (releaseBayTasks b (stopQuiescing b (endBayStaging b s)))

/-- The bay's registers after a reset with a CAUSE. -/
def resetBay (cause : Option (BitVec 4)) (x : BayState) : BayState := { bayAfterReset x with cause := cause.getD x.cause }

/-- The bay's part of a reset. -/
def resetRegs (b : Bay) (cause : Option (BitVec 4)) (s : State) : State :=
  let x := bay s b
  let s := qRead (102 + b.val) (min 32 (unsent x)) s
  let y := bayAfterReset x
  setBay s b { y with cause := cause.getD y.cause }

theorem bay_resetRegs (b : Bay) (cause : Option (BitVec 4)) (s : State) :
    bay (resetRegs b cause s) b = resetBay cause (bay s b) := by
  unfold resetRegs; dsimp only
  rw [bay_setBay_same]
  rfl

/-- The link goes to a state, or stays. -/
def relink (b : Bay) (link : Option (BitVec 3)) (s : State) : State :=
  match link with
  | none => s
  | some st => setLink b st s

/-- What that makes of the bay. -/
def relinked (link : Option (BitVec 3)) (x : BayState) : BayState :=
  match link with
  | none => x
  | some st => linkedAt st x

theorem bayResetParts_eq (b : Bay) (cause : Option (BitVec 4)) (link : Option (BitVec 3)) (s : State) :
    bayResetParts b cause link s = restoreBayFlows b (relink b link (resetRegs b cause (resetTasks b s))) := by
  cases link <;> rfl

theorem bay_relink (b : Bay) (link : Option (BitVec 3)) (s : State) : bay (relink b link s) b = relinked link (bay s b) := by
  cases link with
  | none => rfl
  | some st => exact (bay_setLink b b st s).trans (if_pos rfl)

theorem relink_keeps (b : Bay) (link : Option (BitVec 3)) (s : State) :
    (relink b link s).seed = s.seed ∧ (relink b link s).chs = s.chs := by
  cases link with
  | none => exact ⟨rfl, rfl⟩
  | some st => exact ⟨by simp [relink], by simp [relink]⟩

theorem bay_orphanRequests (b k : Bay) (s : State) : bay (orphanRequests b s) k = bay s k := rfl

theorem bay_resetTasks (b : Bay) (s : State) :
    ∃ cmds, bay (resetTasks b s) b = { bay s b with quiescing := false, cmds := cmds } := by
  have ended : bay (endBayStaging b s) b = bay s b := congrArg (vget · b) (endBayStaging_keeps b s).1
  obtain ⟨cmds, own⟩ := releaseBayTasks_cmds (b := b)
    (s := stopQuiescing b (endBayStaging b s)) (by rw [stopQuiescing, bay_setBay_same])
  refine ⟨cmds, ?_⟩
  rw [resetTasks, bay_orphanRequests, own, stopQuiescing, bay_setBay_same, ended]

theorem orphanRequests_keeps (b : Bay) (s : State) :
    (orphanRequests b s).chs = s.chs ∧ (orphanRequests b s).seed = s.seed := ⟨rfl, rfl⟩

theorem resetTasks_retired (b : Bay) (s : State) : (resetTasks b s).chs.retired = s.chs.retired := by
  have staged : (stopQuiescing b (endBayStaging b s)).chs = s.chs :=
    (endBayStaging_keeps b s).2
  rw [resetTasks, (orphanRequests_keeps ..).1, releaseBayTasks_retired, staged]

/-- The bay's own staging session has ended. -/
theorem resetTasks_closes {b : Bay} {s : State} (opened : s.seed.open_ = true) (source : s.seed.source = bayStageSource b) :
    (resetTasks b s).seed.open_ = false := by
  have released : ∀ s, (releaseBayTasks b s).seed = s.seed := fun s => by simp
  have ended : endBayStaging b s = endStaging s := if_pos ⟨opened, source⟩
  rw [resetTasks, (orphanRequests_keeps ..).2, released, ended]
  rfl

theorem bay_bayReset (b : Bay) (cause : Option (BitVec 4)) (link : Option (BitVec 3)) (s : State) :
    bay (bayReset b cause link s) b = relinked link (resetBay cause (bay s b)) := by
  obtain ⟨cmds, own⟩ := bay_resetTasks b s
  have parts : bay (bayReset b cause link s) b = bay (bayResetParts b cause link s) b := rfl
  have flows : ∀ s, bay (restoreBayFlows b s) b = bay s b := fun s => by simp [bay]
  rw [parts, bayResetParts_eq, flows, bay_relink, bay_resetRegs, own]
  rfl

theorem bayReset_retired (b : Bay) (cause : Option (BitVec 4)) (link : Option (BitVec 3)) (s : State) :
    (bayReset b cause link s).chs.retired = s.chs.retired := by
  have parts : (bayReset b cause link s).chs = (bayResetParts b cause link s).chs := rfl
  have flows : ∀ s, (restoreBayFlows b s).chs = s.chs := fun s => by simp
  have regs : ∀ s, (resetRegs b cause s).chs = s.chs := fun s => by simp [resetRegs]
  rw [parts, bayResetParts_eq, flows, (relink_keeps ..).2, regs, resetTasks_retired]

theorem bayReset_closes {b : Bay} {s : State} (cause : Option (BitVec 4)) (link : Option (BitVec 3))
    (opened : s.seed.open_ = true) (source : s.seed.source = bayStageSource b) :
    (bayReset b cause link s).seed.open_ = false := by
  have parts : (bayReset b cause link s).seed = (bayResetParts b cause link s).seed := rfl
  have flows : ∀ s, (restoreBayFlows b s).seed = s.seed := fun s => by simp
  have regs : ∀ s, (resetRegs b cause s).seed = s.seed := fun s => by simp [resetRegs]
  rw [parts, bayResetParts_eq, flows, (relink_keeps ..).1, regs, resetTasks_closes opened source]

end Sys2Proof.Machine
end

section
/-! PROOFS. The events of a slot (R392 to R398): each row's effect on the bay, from the bay's operations and its
reset. -/

namespace Sys2Proof.Machine

/-! ### Presence and the button (R392, R393, R395) -/

theorem bay_unchanged (b k : Bay) (s : State) : bay s k = if k = b then bay s b else bay s k := by
  split
  · next own => rw [own]
  · rfl

/-- SLOT_CTL.PWR taken under a condition, as AUTO_ON and AUTO_OFF do. -/
theorem bay_autoPwr (c on : Bool) (b k : Bay) (s : State) :
    bay (if c then setPwr b on s else s) k =
      if k = b then { bay s b with pwr := if c then on else (bay s b).pwr } else bay s k := by
  cases c with
  | true => exact bay_setPwr b k on s
  | false => exact bay_unchanged b k s

theorem raiseSlot_mem (b : Bay) (was : Bool) (f : BayState → BayState) (s : State) : (raiseSlot b was f s).mem = s.mem := by
  simp [raiseSlot]

/-- The slot after PRESENCE_CHANGE. -/
def presenceBay (present : Bool) (x : BayState) : BayState :=
  { x with present := present, pdc := true, quiesced := x.quiesced && !present }

/-- PRESENT and PDC are set, before PWR follows. -/
def notePresence (b : Bay) (present : Bool) (s : State) : State :=
  raiseSlot b (bay s b).pdc (presenceBay present) s

theorem exec_inserted {s : State} {b : Bay} (on : mainOn s = true) (absent : (bay s b).present = false) :
    exec (.presenceChange b true) s =
      .next (if (bay s b).autoOn then setPwr b true (notePresence b true s) else notePresence b true s) := by
  have fits : ¬ ((bay s b).present == true || !mainOn s) = true := by simp [on, absent]
  exact congrArg Host.Outcome.next ((if_neg fits).trans (if_pos rfl))

theorem exec_removed {s : State} {b : Bay} (on : mainOn s = true) (present : (bay s b).present = true) :
    exec (.presenceChange b false) s =
      .next (if (bay s b).autoOff then setPwr b false (notePresence b false s) else notePresence b false s) := by
  have fits : ¬ ((bay s b).present == false || !mainOn s) = true := by simp [on, present]
  exact congrArg Host.Outcome.next ((if_neg fits).trans (if_neg Bool.false_ne_true))

theorem bay_notePresence (b k : Bay) (present : Bool) (s : State) :
    bay (notePresence b present s) k = if k = b then presenceBay present (bay s b) else bay s k := bay_raiseSlot ..

/-- PDC's rise raises its task. -/
theorem notePresence_hkq {b : Bay} {s : State} (rise : (bay s b).pdc = false) (present : Bool) :
    ({ cause := .bay, data := b.val } : HkEvent) ∈ (notePresence b present s).drill.hkq := by
  rw [notePresence, rise]
  exact hk_waits ..

/-- What a press does to the bay besides ABP: with BTN_ACT it starts a removal, and a second press ends it. -/
def pressed (x : BayState) : BayState :=
  if !x.btnAct then x
  else if x.btnPend then { x with btnPend := false, ind := x.indSaved }
  else if x.quiescing || x.quiesced then x
  else { x with btnPend := true, indSaved := x.ind, ind := 3 }

def press (b : Bay) (s : State) : State :=
  let x := bay s b
  if !x.btnAct then s
  else if x.btnPend then setBay s b { x with btnPend := false, ind := x.indSaved }
  else if x.quiescing || x.quiesced then s
  else setBay s b { x with btnPend := true, indSaved := x.ind, ind := 3 }

theorem bay_press (b k : Bay) (s : State) : bay (press b s) k = if k = b then pressed (bay s b) else bay s k := by
  unfold press pressed; dsimp only
  split
  · exact bay_unchanged ..
  · split
    · exact bay_setBay ..
    · split
      · exact bay_unchanged ..
      · exact bay_setBay ..

theorem exec_attentionButton_on {s : State} (on : mainOn s = true) (b : Bay) :
    exec (.attentionButton b) s =
      .next (press b (raiseSlot b (bay s b).abp (fun x => { x with abp := true }) s)) := by
  have runs : ¬ (!mainOn s) = true := by simp [on]
  exact congrArg Host.Outcome.next (if_neg runs)

theorem attentionButton_presses {s : State} (on : mainOn s = true) (b : Bay) :
    let x := bay s b
    ∃ s', exec (.attentionButton b) s = .next s' ∧ (bay s' b).abp = true ∧ (bay s' b).pwr = x.pwr ∧
      (x.btnAct = false → (bay s' b).btnPend = x.btnPend ∧ (bay s' b).ind = x.ind) ∧
      (x.btnAct = true → x.btnPend = true → (bay s' b).btnPend = false ∧ (bay s' b).ind = x.indSaved) ∧
      (x.btnAct = true → x.btnPend = false → x.quiescing = false → x.quiesced = false →
        (bay s' b).btnPend = true ∧ (bay s' b).ind = 3 ∧ (bay s' b).indSaved = x.ind) ∧
      s'.mem = s.mem ∧ ∀ k, k ≠ b → bay s' k = bay s k := by
  intro x
  refine ⟨_, exec_attentionButton_on on b, ?_⟩
  have own : bay (press b (raiseSlot b x.abp (fun x => { x with abp := true }) s)) b = pressed { x with abp := true } := by
    rw [bay_press, if_pos rfl, bay_raiseSlot, if_pos rfl]
  rw [own]
  refine ⟨?_, ?_, fun idle => ?_, fun acts pending => ?_, fun acts idle still kept => ?_, by simp [press, raiseSlot_mem],
    fun k other => ?_⟩
  · unfold pressed; (repeat' split) <;> rfl
  · unfold pressed; (repeat' split) <;> rfl
  · simp [pressed, idle]
  · simp [pressed, acts, pending]
  · simp [pressed, acts, idle, still, kept]
  · rw [bay_press, if_neg other, bay_raiseSlot, if_neg other]

theorem presenceChange_inserts {s : State} {b : Bay} (on : mainOn s = true) (absent : (bay s b).present = false) :
    let x := bay s b
    ∃ s', exec (.presenceChange b true) s = .next s' ∧ (bay s' b).present = true ∧ (bay s' b).pdc = true ∧
        (bay s' b).quiesced = false ∧ (bay s' b).pwr = (x.pwr || x.autoOn) ∧
        (x.pdc = false → ({ cause := .bay, data := b.val } : HkEvent) ∈ s'.drill.hkq) ∧
        s'.mem = s.mem ∧ ∀ k, k ≠ b → bay s' k = bay s k := by
  intro x
  refine ⟨_, exec_inserted on absent, ?_⟩
  rw [bay_autoPwr, if_pos rfl, bay_notePresence, if_pos rfl]
  refine ⟨rfl, rfl, by simp [presenceBay], ?_, fun rise => ?_, ?_, fun k other => ?_⟩
  · cases h : x.autoOn <;> simp [x, h, presenceBay]
  · have noted := notePresence_hkq rise true
    split
    · exact mem_hkq_setPwr noted b true
    · exact noted
  · split <;> simp [notePresence, raiseSlot_mem]
  · rw [bay_autoPwr, if_neg other, bay_notePresence, if_neg other]

theorem presenceChange_removes {s : State} {b : Bay} (on : mainOn s = true) (present : (bay s b).present = true) :
    let x := bay s b
    ∃ s', exec (.presenceChange b false) s = .next s' ∧ (bay s' b).present = false ∧ (bay s' b).pdc = true ∧
        (bay s' b).quiesced = x.quiesced ∧ (bay s' b).pwr = (x.pwr && !x.autoOff) ∧
        (x.autoOff = true → (bayOut s' b).on = false) ∧ s'.mem = s.mem ∧ ∀ k, k ≠ b → bay s' k = bay s k := by
  intro x
  refine ⟨_, exec_removed on present, ?_⟩
  rw [bay_autoPwr, if_pos rfl, bay_notePresence, if_pos rfl]
  refine ⟨rfl, rfl, by simp [presenceBay, x], ?_, fun off => ?_, ?_, fun k other => ?_⟩
  · cases h : x.autoOff <;> simp [x, h, presenceBay]
  · rw [if_pos off]; exact bayOut_setPwr_off ..
  · split <;> simp [notePresence, raiseSlot_mem]
  · rw [bay_autoPwr, if_neg other, bay_notePresence, if_neg other]

/-! ### The end of an orderly removal (R395) -/

theorem exec_windowEnd {s : State} {b : Bay} (on : mainOn s = true) (pending : (bay s b).btnPend = true) :
    exec (.buttonWindowEnd b) s =
      .next (settleQuiesce b (bayEvent b (setBay s b { bay s b with btnPend := false, quiescing := true }))) := by
  have fits : ¬ (!(bay s b).btnPend || !mainOn s) = true := by simp [on, pending]
  exact congrArg Host.Outcome.next (if_neg fits)

/-- Fetching stops while the bay quiesces. -/
theorem fetchSize_quiescing {s : State} {b : Bay} (quiescing : (bay s b).quiescing = true) (q : Fin 16) :
    fetchSize s b q = 0 :=
  if_neg fun ⟨_, _, still, _⟩ => still quiescing

theorem buttonWindowEnd_stopsFetching {s : State} {b : Bay} (on : mainOn s = true) (pending : (bay s b).btnPend = true) :
    let x := bay s b
    (x.cmds = [] → ∃ s', exec (.buttonWindowEnd b) s = .next s' ∧ (bay s' b).quiesced = true ∧ (bay s' b).quiescing = false ∧
        (bay s' b).ind = 0 ∧ (bay s' b).pwr = false ∧ (bayOut s' b).on = false ∧ (bay s' b).btnPend = false) ∧
      (x.cmds ≠ [] → ∃ s', exec (.buttonWindowEnd b) s = .next s' ∧ OnlyBay b s s' ∧ (bay s' b).quiescing = true ∧
        (bay s' b).quiesced = x.quiesced ∧ (bay s' b).btnPend = false ∧ (bay s' b).cmds = x.cmds ∧
        ∀ q, fetchSize s' b q = 0) := by
  intro x
  let s1 := bayEvent b (setBay s b { x with btnPend := false, quiescing := true })
  have ran : exec (.buttonWindowEnd b) s = .next (settleQuiesce b s1) := exec_windowEnd on pending
  obtain ⟨only, out, vecs, own⟩ : Sends b (setBay s b { x with btnPend := false, quiescing := true }) s1 := bayEvent_sends ..
  rw [bay_setBay_same] at own
  have quiescing : (bay s1 b).quiescing = true := by rw [own]
  refine ⟨fun idle => ⟨_, ran, ?_⟩, fun busy => ⟨_, ran, ?_⟩⟩
  · obtain ⟨out', vecs', own', off⟩ := settleQuiesce_ends quiescing (by rw [own]; exact idle)
    rw [own', own]
    exact ⟨rfl, rfl, rfl, rfl, off, rfl⟩
  · rw [settleQuiesce_waits (.inr (by rw [own]; exact busy))]
    exact ⟨onlyBay_trans (onlyBay_setBay ..) only, quiescing, by rw [own], by rw [own], by rw [own],
      fetchSize_quiescing quiescing⟩

/-- An orderly removal has ended. -/
def Removed (b : Bay) (s : State) : Prop :=
  (bay s b).quiesced = true ∧ (bay s b).quiescing = false ∧ (bay s b).ind = 0 ∧ (bayOut s b).on = false

theorem settleQuiesce_removed {b : Bay} {s : State} (h : (bay s b).quiescing = true ∨ Removed b s)
    (idle : (bay s b).cmds = []) : Removed b (settleQuiesce b s) ∧ (bay (settleQuiesce b s) b).cmds = [] := by
  rcases h with quiescing | removed
  · obtain ⟨out, vecs, own, off⟩ := settleQuiesce_ends quiescing idle
    rw [Removed, own]
    exact ⟨⟨rfl, rfl, rfl, off⟩, idle⟩
  · obtain ⟨-, still, -⟩ := id removed
    rw [settleQuiesce_waits (.inl still)]
    exact ⟨removed, idle⟩

/-- The release of the bay's tasks may end the removal with its last command, and has no other effect on it. -/
theorem releaseBayTasks_removing {b : Bay} {s : State} (quiescing : (bay s b).quiescing = true) :
    (bay (releaseBayTasks b s) b).quiescing = true ∨ Removed b (releaseBayTasks b s) := by
  refine releaseBayTasks_induction (P := fun s' => (bay s' b).quiescing = true ∨ Removed b s')
    (fun s1 s2 bays pow h => ?_) (fun k slot result s1 h => ?_) b (.inl quiescing)
  · rwa [Removed, bay, bayOut, bays, pow]
  · by_cases other : b = k
    · subst other
      rcases bayCmdDone_removed b slot result s1 with same | dropped
      · rwa [same]
      · have h' : (bay (dropCmd b slot s1) b).quiescing = true ∨ Removed b (dropCmd b slot s1) := by
          rw [Removed, dropCmd, bay_setBay_same]; exact h
        rw [dropped]
        by_cases idle : (bay (dropCmd b slot s1) b).cmds = []
        · exact .inr (settleQuiesce_removed h' idle).1
        · rwa [settleQuiesce_waits (.inr idle)]
    · obtain ⟨own, out⟩ := bayCmdDone_removed_other other slot result s1
      rwa [Removed, own, out]

/-- The bay's queues and commands as the time limit leaves them. -/
def emptied (x : BayState) : BayState :=
  { x with cmds := [], sq := x.sq.map (fun q => { q with fetching := 0 }), cq := x.cq.map (fun q => { q with reserved := 0 }) }

theorem exec_quiesceTimeout_quiescing {s : State} {b : Bay} (quiescing : (bay s b).quiescing = true) :
    exec (.quiesceTimeout b) s =
      .next (settleQuiesce b (setBay (orphanRequests b (releaseBayTasks b s)) b
        (emptied (bay (orphanRequests b (releaseBayTasks b s)) b)))) := by
  have fits : ¬ (!(bay s b).quiescing) = true := by simp [quiescing]
  exact congrArg Host.Outcome.next (if_neg fits)

/-- Emptying the bay, and its requests' callers, is no part of the removal's end. -/
theorem removing_emptied {b : Bay} {s : State} (h : (bay s b).quiescing = true ∨ Removed b s) :
    let s' := setBay (orphanRequests b s) b (emptied (bay (orphanRequests b s) b))
    (bay s' b).quiescing = true ∨ Removed b s' := by
  dsimp only
  rw [Removed, bay_setBay_same]
  exact h

theorem quiesceTimeout_removes {s : State} {b : Bay} (quiescing : (bay s b).quiescing = true) :
    ∃ s', exec (.quiesceTimeout b) s = .next s' ∧ (bay s' b).cmds = [] ∧ (bay s' b).quiesced = true ∧
        (bay s' b).quiescing = false ∧ (bay s' b).ind = 0 ∧ (bayOut s' b).on = false ∧ s'.mem = s.mem := by
  obtain ⟨⟨quiesced, still, dark, off⟩, idle⟩ :=
    settleQuiesce_removed (removing_emptied (releaseBayTasks_removing quiescing)) (by rw [bay_setBay_same]; rfl)
  exact ⟨_, exec_quiesceTimeout_quiescing quiescing, idle, quiesced, still, dark, off, by simp⟩

/-! ### Bay resets (R396 to R398) -/

/-- The link's own fields apart, a change of the link leaves the bay. -/
theorem relinked_frame (link : Option (BitVec 3)) (x : BayState) :
    ∃ l sp dllsc, relinked link x = { x with link := l, speed := sp, dllsc := dllsc } := by
  cases link with
  | none => exact ⟨_, _, _, rfl⟩
  | some st => exact ⟨_, _, _, rfl⟩

theorem bayReset_done (b : Bay) (cause : BitVec 4) (link : Option (BitVec 3)) (s : State) :
    BayResetDone b cause.toNat s (bayReset b (some cause) link s) := by
  obtain ⟨l, sp, dllsc, own⟩ := relinked_frame link (resetBay (some cause) (bay s b))
  obtain ⟨-, -, -, -, -, -, -, -, -, -, -, -, -, mem, -⟩ := bayReset_same b (some cause) link s
  unfold BayResetDone; dsimp only
  rw [bay_bayReset, own]
  exact ⟨rfl, rfl, rfl, rfl, rfl, rfl, fun q => ⟨vget_replicate _ q, vget_replicate _ q⟩, fun v => vget_replicate _ v, rfl, rfl,
    rfl, rfl, rfl, rfl, rfl, rfl, rfl, rfl, rfl, by rw [mem], bayReset_retired .., bayReset_closes _ _⟩

/-- A removal sequence that ends with the reset is no part of it. -/
theorem bayResetDone_dropSequence {b : Bay} {cause : Nat} {s s' : State} (h : BayResetDone b cause s s') :
    BayResetDone b cause s (setBay s' b { bay s' b with btnPend := false }) := by
  unfold BayResetDone
  rw [bay_setBay_same]
  exact h

theorem bayResetDone_perst {b : Bay} {cause : Nat} {s s' : State}
    (h : BayResetDone b cause (setBay s b { bay s b with perst := true }) s') : BayResetDone b cause s s' := by
  unfold BayResetDone at h
  rw [bay_setBay_same] at h
  exact h

theorem link_bayReset (b : Bay) (cause : Option (BitVec 4)) (st : BitVec 3) (s : State) :
    (bay (bayReset b cause (some st) s) b).link = st := by
  rw [bay_bayReset]; rfl

/-- A surprise removal's reset, which ends the removal sequence too (R396). -/
def surpriseReset (b : Bay) (cause : BitVec 4) (s : State) : State :=
  setBay (bayReset b (some cause) (some 0) s) b { bay (bayReset b (some cause) (some 0) s) b with btnPend := false }

theorem bay_surpriseReset (b : Bay) (cause : BitVec 4) (s : State) :
    bay (surpriseReset b cause s) b = { linkedAt 0 (resetBay (some cause) (bay s b)) with btnPend := false } := by
  rw [surpriseReset, bay_setBay_same, bay_bayReset]
  rfl

theorem surpriseReset_done (b : Bay) (cause : BitVec 4) (s : State) :
    BayResetDone b cause.toNat s (surpriseReset b cause s) :=
  bayResetDone_dropSequence (bayReset_done b cause (some 0) s)

theorem surpriseReset_slot (b : Bay) (cause : BitVec 4) (s : State) :
    (bay (surpriseReset b cause s) b).link = 0 ∧ (bay (surpriseReset b cause s) b).btnPend = false := by
  rw [bay_surpriseReset]
  exact ⟨rfl, rfl⟩

/-- The link of a removed card goes down (R397). -/
theorem surpriseReset_dllsc {b : Bay} {s : State} (up : (bay s b).link = 2 ∨ (bay s b).link = 3) (cause : BitVec 4) :
    (bay (surpriseReset b cause s) b).dllsc = true := by
  have change : linkUpNow (resetBay (some cause) (bay s b)) ≠ decide ((0 : BitVec 3) = 2 ∨ (0 : BitVec 3) = 3) := by
    rw [show linkUpNow (resetBay (some cause) (bay s b)) = true from decide_eq_true up]
    decide
  rw [bay_surpriseReset, linkedAt_change change]

theorem exec_surpriseRemoval_absent {s : State} {b : Bay} (on : mainOn s = true) (absent : (bay s b).present = false)
    (kept : (bay s b).quiesced = false) (fresh : (bay s b).cause ≠ 5) :
    exec (.surpriseRemoval b false) s = .next (surpriseReset b 4 s) := by
  refine congrArg Host.Outcome.next (if_neg ?_)
  rw [on, absent, kept, decide_eq_false fresh]
  exact Bool.false_ne_true

theorem exec_surpriseRemoval_down {s : State} {b : Bay} (on : mainOn s = true) (present : (bay s b).present = true)
    (released : (bay s b).perst = false) (up : (bay s b).link = 2 ∨ (bay s b).link = 3) :
    exec (.surpriseRemoval b true) s = .next (surpriseReset b 5 s) := by
  refine congrArg Host.Outcome.next (if_neg ?_)
  rw [on, present, released, linkUpNow, decide_eq_true up]
  exact Bool.false_ne_true

/-- One removal causes one reset (R396). -/
theorem exec_surpriseRemoval_taken {s : State} {b : Bay} (removed : (bay s b).cause = 5) (down : (bay s b).link = 0) :
    exec (.surpriseRemoval b false) s = .next s := by
  refine congrArg Host.Outcome.next (if_pos ?_)
  rw [removed, down]
  simp

/-! ### PERST#, hot reset, function level reset (R397, R398) -/

theorem exec_perstAssert_released {s : State} {b : Bay} (on : mainOn s = true) (released : (bay s b).perst = false) :
    exec (.perstAssert b) s = .next (bayReset b (some 1) (some 0) (setBay s b { bay s b with perst := true })) := by
  have fits : ¬ ((bay s b).perst || !mainOn s) = true := by simp [on, released]
  exact congrArg Host.Outcome.next (if_neg fits)

theorem perstAssert_resets {s : State} {b : Bay} (on : mainOn s = true) (released : (bay s b).perst = false) :
    ∃ s', exec (.perstAssert b) s = .next s' ∧ BayResetDone b 1 s s' ∧ (bay s' b).link = 0 ∧ (bay s' b).perst = true := by
  refine ⟨_, exec_perstAssert_released on released, bayResetDone_perst (bayReset_done b 1 (some 0) _), link_bayReset .., ?_⟩
  rw [bay_bayReset, bay_setBay_same]
  rfl

/-- The link trains once PERST# is deasserted, if the seed's record and the supply allow it. -/
def trains (b : Bay) (s : State) : Prop :=
  bayEnabled s b = true ∧ s.seed.applied = true ∧ ¬ s.seed.lockdownOnly = true ∧ fieldSupply s = true

theorem exec_perstDeassert_trains {s : State} {b : Bay} (on : mainOn s = true) (held : (bay s b).perst = true)
    (ready : trains b s) : exec (.perstDeassert b) s = .next (setLink b 1 (setBay s b { bay s b with perst := false })) := by
  have fits : ¬ (!(bay s b).perst || !mainOn s) = true := by simp [on, held]
  exact congrArg Host.Outcome.next ((if_neg fits).trans (if_pos ready))

theorem exec_perstDeassert_waits {s : State} {b : Bay} (on : mainOn s = true) (held : (bay s b).perst = true)
    (waits : ¬ trains b s) : exec (.perstDeassert b) s = .next (setBay s b { bay s b with perst := false }) := by
  have fits : ¬ (!(bay s b).perst || !mainOn s) = true := by simp [on, held]
  exact congrArg Host.Outcome.next ((if_neg fits).trans (if_neg waits))

theorem perstDeassert_releases {s : State} {b : Bay} (on : mainOn s = true) (held : (bay s b).perst = true) :
    ∃ s', exec (.perstDeassert b) s = .next s' ∧ (bay s' b).perst = false ∧ (bay s' b).cfg = (bay s b).cfg ∧
        (bayEnabled s b = true → s.seed.applied = true → s.seed.lockdownOnly = false → fieldSupply s = true → (bay s' b).link = 1) ∧
        (bayEnabled s b = false ∨ s.seed.applied = false ∨ fieldSupply s = false → (bay s' b).link = (bay s b).link) := by
  by_cases ready : trains b s
  · obtain ⟨enabled, applied, -, supply⟩ := id ready
    refine ⟨_, exec_perstDeassert_trains on held ready, ?_⟩
    rw [bay_setLink, if_pos rfl, bay_setBay_same]
    exact ⟨rfl, rfl, fun _ _ _ _ => rfl, fun h => by simp [enabled, applied, supply] at h⟩
  · refine ⟨_, exec_perstDeassert_waits on held ready, ?_⟩
    rw [bay_setBay_same]
    exact ⟨rfl, rfl, fun enabled applied open_ supply => absurd ⟨enabled, applied, by simp [open_], supply⟩ ready, fun _ => rfl⟩

theorem hotReset_functionLevelReset_done {s : State} {b : Bay} (on : mainOn s = true) (up : (bay s b).link = 2 ∨ (bay s b).link = 3) :
    (∃ s', exec (.hotReset b) s = .next s' ∧ BayResetDone b 2 s s' ∧ (bay s' b).link = 4) ∧
      (∃ s', exec (.functionLevelReset b) s = .next s' ∧ BayResetDone b 3 s s' ∧ (bay s' b).link = (bay s b).link) := by
  have fits : (linkCarries s b && mainOn s) = true := by
    rw [linkCarries, decide_eq_true up, on]; rfl
  refine ⟨⟨_, congrArg Host.Outcome.next (if_pos fits), bayReset_done b 2 (some 4) s, link_bayReset ..⟩,
    ⟨_, congrArg Host.Outcome.next (if_pos fits), bayReset_done b 3 none s, ?_⟩⟩
  rw [bay_bayReset]
  rfl

/-! ### The link coming up (R366, R397) -/

/-- The host's transmit credits (R456). -/
def creditLimits (credits : List Nat) : Vector Nat 6 := Vector.ofFn fun i => credits.getD i.val 0

theorem exec_linkUp_trains {s : State} {b : Bay} {sp : BitVec 2} (on : mainOn s = true) (released : (bay s b).perst = false)
    (enabled : bayEnabled s b = true) (supply : fieldSupply s = true) (rate : sp ≠ 0) (max : sp.toNat ≤ bayMaxRate s b)
    (down : ¬ ((bay s b).link = 2 ∨ (bay s b).link = 3)) (credits : List Nat) :
    exec (.linkUp b sp credits) s =
      .next (flushOut b 4096 (setLink b 2 (setBay s b { bay s b with speed := sp, txLimit := creditLimits credits }))) := by
  have stopped : linkUpNow (bay s b) = false := decide_eq_false down
  refine congrArg Host.Outcome.next (if_neg ?_)
  simpa [on, released, enabled, supply, Nat.not_lt.mpr max, stopped] using rate

theorem linkUp_connects {s : State} {b : Bay} {sp : BitVec 2} (on : mainOn s = true) (released : (bay s b).perst = false)
    (enabled : bayEnabled s b = true) (supply : fieldSupply s = true) (rate : sp ≠ 0) (max : sp.toNat ≤ bayMaxRate s b)
    (down : ¬ ((bay s b).link = 2 ∨ (bay s b).link = 3)) (credits : List Nat) :
    ∃ s', exec (.linkUp b sp credits) s = .next s' ∧ (bay s' b).link = 2 ∧ (bay s' b).speed = sp ∧ (bay s' b).dllsc = true ∧
        (∀ k : Fin 6, vget (bay s' b).txLimit k = credits.getD k.val 0) ∧ s'.mem = s.mem ∧ ∀ k, k ≠ b → bay s' k = bay s k := by
  refine ⟨_, exec_linkUp_trains on released enabled supply rate max down credits, ?_⟩
  let y : BayState := { bay s b with speed := sp, txLimit := creditLimits credits }
  obtain ⟨⟨-, others⟩, out, vecs, own⟩ := flushOut_sends b 4096 (setLink b 2 (setBay s b y))
  have change : linkUpNow y ≠ decide ((2 : BitVec 3) = 2 ∨ (2 : BitVec 3) = 3) := by
    rw [show linkUpNow y = false from decide_eq_false down]
    decide
  rw [bay_setLink, if_pos rfl, bay_setBay_same, linkedAt_change change] at own
  rw [own]
  refine ⟨rfl, rfl, rfl, fun k => ?_, by simp, fun k other => ?_⟩
  · simp [y, creditLimits, vget]
  · rw [others k other, bay_setLink, if_neg other, bay_setBay_other s other]

/-- Settles O51: one lemma for each event of the slot. -/
theorem baySlot : Obligations.BaySlot := by
  unfold Obligations.BaySlot
  intro s b on x
  refine ⟨presenceChange_inserts on, presenceChange_removes on, attentionButton_presses on b,
    buttonWindowEnd_stopsFetching on, quiesceTimeout_removes,
    fun absent kept fresh => ?_, exec_surpriseRemoval_taken, fun present released up => ?_, perstAssert_resets on,
    perstDeassert_releases on, hotReset_functionLevelReset_done on,
    fun sp credits released enabled supply rate max notL0 notL1 =>
      linkUp_connects on released enabled supply rate max (not_or.mpr ⟨notL0, notL1⟩) credits⟩
  · obtain ⟨link, pend⟩ := surpriseReset_slot b 4 s
    exact ⟨_, exec_surpriseRemoval_absent on absent kept fresh, surpriseReset_done b 4 s, link, pend⟩
  · obtain ⟨link, -⟩ := surpriseReset_slot b 5 s
    exact ⟨_, exec_surpriseRemoval_down on present released up, surpriseReset_done b 5 s, link, surpriseReset_dllsc up 5⟩

end Sys2Proof.Machine
end

section
/-! PROOFS. The backup supply, the clear by a power loss and the resets of the backup domain (R60, R63, R64, R79). -/

namespace Sys2Proof.Machine

/-! ### A backup-domain reset (R64, R79) -/

theorem endService_idle {s : State} (h : s.sys.mode ≠ Mode.service) : endService s = s := if_pos h

/-- The domain and the pins before Service ends: what a backup-domain reset clears, and SAFE_IN sampled anew. -/
def domainReset (cause : BitVec 2) (s : State) : State :=
  { s with
    bkp := { s.bkp with
      cause := cause, vbkLow := false, share := 0, mask := 0, held := false, armed := none, cal := {}
      alarms := .replicate 4 {}
      tamp := { witness := s.bkp.tamp.witness, safePend := s.bkp.tamp.safePend, time := s.bkp.tamp.time, temp := s.bkp.tamp.temp } }
    pins := { s.pins with safeIn := false } }

theorem bkpReset_eq (cause : BitVec 2) (s : State) : bkpReset cause s = endService (domainReset cause s) := rfl

/-- Service's end touches nothing of the domain, so it is left as it was reset. -/
theorem bkpReset_bkp (cause : BitVec 2) (s : State) : (bkpReset cause s).bkp = (domainReset cause s).bkp := by
  rw [bkpReset_eq]; simp

theorem bkpReset_done (cause : BitVec 2) (s : State) : BackupReset cause.toNat s (bkpReset cause s) := by
  refine ⟨?_, ?_, fun a => ?_, ?_, ?_, ?_, ?_, ?_, ?_, ?_, ?_, ?_, ?_, ?_, fun notService => ?_⟩
  case refine_3 => rw [alarm, bkpReset_bkp]; exact vget_replicate ..
  case refine_15 => rw [bkpReset_eq, endService_idle (s := domainReset cause s) notService]; rfl
  all_goals rw [bkpReset_bkp]; rfl

/-- VALID falls with the calendar, which ends Service. -/
theorem bkpReset_leaves {s : State} (service : s.sys.mode = Mode.service) (cause : BitVec 2) :
    (bkpReset cause s).sys.mode = s.sys.serviceFrom ∧ (bkpReset cause s).hld.scope = 0 :=
  endService_leaves (s := domainReset cause s) service

/-! ### The supplies (R60, R63, R64) -/

/-- The source and the levels that a switchover reports. -/
def switchedOver (src : Fin 3) (batt vcap vbk : Half) (s : State) : State :=
  { s with
    bkp := { s.bkp with src := BitVec.ofNat 2 src.val, battMv := batt, vcapMv := vcap, vbkLow := s.bkp.vbkLow || decide (vbk.toNat < 2400) }
    pow := { s.pow with batt := decide (4000 < batt.toNat) } }

theorem exec_supplySwitchover_right {s : State} {src : Fin 3} {batt : Half}
    (right : src.val = (if s.sys.mode ≠ Mode.backup then 0 else if 4000 < batt.toNat then 1 else 2)) (vcap vbk : Half) :
    exec (.supplySwitchover src batt vcap vbk) s = .next (if vbk.toNat < 2000 then
      powerLossClear (switchedOver src batt vcap vbk s) else switchedOver src batt vcap vbk s) := by
  rw [exec_supplySwitchover, execSupplySwitchover, ← right, if_neg (fun ne => ne rfl)]
  rfl

theorem supplySwitchover_takes {s : State} {src : Fin 3} {batt : Half}
    (right : src.val = (if s.sys.mode ≠ Mode.backup then 0 else if 4000 < batt.toNat then 1 else 2)) (vcap vbk : Half) :
    ∃ s', exec (.supplySwitchover src batt vcap vbk) s = .next s' ∧ s'.bkp.src.toNat = src.val ∧ s'.bkp.battMv = batt ∧
      s'.bkp.vcapMv = vcap ∧ s'.bkp.vbkLow = (s.bkp.vbkLow || decide (vbk.toNat < 2400)) ∧
      s'.bkp.share = (if vbk.toNat < 2000 then 0 else s.bkp.share) ∧
      s'.bkp.mask = (if vbk.toNat < 2000 then 0 else s.bkp.mask) ∧
      s'.bkp.held = (s.bkp.held || decide (vbk.toNat < 2000)) ∧ s'.bkp.tamp = s.bkp.tamp ∧ s'.bkp.cal = s.bkp.cal ∧
      s'.pow = { s.pow with batt := decide (4000 < batt.toNat) } ∧ s' = { s with bkp := s'.bkp, pow := s'.pow } := by
  have code : (BitVec.ofNat 2 src.val).toNat = src.val := Nat.mod_eq_of_lt (by omega)
  refine ⟨_, exec_supplySwitchover_right right vcap vbk, ?_⟩
  by_cases decayed : vbk.toNat < 2000
  · simp [decayed, switchedOver, powerLossClear, code]
  · simp [decayed, switchedOver, code]

/-! ### The byte sequence at BKP.RESET (R79) -/

/-- No 0x5A byte lies within the 16 D8 cycles before: 0x5A arms, any other byte disarms. -/
theorem bkpResetByte_unarmed {s : State} (h : s.bkp.armed = none ∨ ∃ t, s.bkp.armed = some t ∧ 83 < s.now - t) (key : Byte) :
    bkpResetByte key s = { s with bkp := { s.bkp with armed := if key = 0x5A then some s.now else none } } := by
  obtain none | ⟨t, armed, late⟩ := h
  · simp only [bkpResetByte, none, Bool.false_eq_true, if_false]
    split <;> rfl
  · have stale : decide (s.now - t ≤ 83) = false := decide_eq_false (Nat.not_le.2 late)
    simp only [bkpResetByte, armed, stale, Bool.false_eq_true, if_false]
    split <;> rfl

theorem bkpResetByte_armed {s : State} {t : Nat} (armed : s.bkp.armed = some t) (soon : s.now - t ≤ 83) (key : Byte) :
    bkpResetByte key s = if key = 0xA5 ∧ s.sys.mode = Mode.service then bkpReset 3 s
      else { s with bkp := { s.bkp with armed := none } } := by
  simp [bkpResetByte, armed, soon]

theorem exec_bkpResetWrite_open {s : State} {r : Req} (passes : passesGuard s r 0x55000008 = true)
    (encl : isEncl s r = true) (core : debugPort r = false) (key : Byte) :
    exec (.bkpResetWrite r key) s = .next (bkpResetByte key s) := by
  rw [exec_bkpResetWrite, execBkpResetWrite, encl, core, Bool.not_false, Bool.and_true, tryWrite_open passes]

theorem bkpResetWrite_refused {s : State} {r : Req} (passes : passesGuard s r 0x55000008 = true)
    (other : isEncl s r = false) (key : Byte) : RefusedSilently (.bkpResetWrite r key) r s := by
  obtain ⟨kind, shut⟩ := tryWrite_closed passes (bkpResetByte key)
  exact refusedSilently_of_violate (by rw [exec_bkpResetWrite, execBkpResetWrite, other, Bool.false_and, shut])

/-- Settles O35: the supplies row by row, the resets by what each leaves of the domain. -/
theorem backupSupply : Obligations.BackupSupply := by
  unfold Obligations.BackupSupply
  refine fun s => ⟨fun src batt vcap vbk right => supplySwitchover_takes right vcap vbk, fun vbk low => ?_, fun off => ?_,
    fun held => ?_, ?_, fun r key passes => ⟨fun encl core => ⟨fun unarmed => ?_, fun t armed soon => ⟨fun isA5 service => ?_,
      fun broken => ?_⟩⟩, fun other => bkpResetWrite_refused passes other key⟩⟩
  · rw [exec_vbkLow, execVbkLow, if_pos low]
  · rw [exec_powerDecay, execPowerDecay, if_pos off]; rfl
  · exact ⟨_, by rw [exec_decayRecovery, execDecayRecovery, if_pos held], bkpReset_done 2 s⟩
  · exact ⟨_, rfl, bkpReset_done 1 { s with bkp := { s.bkp with por := s.bkp.por || decide (s.sys.mode = Mode.backup) } }⟩
  · rw [exec_bkpResetWrite_open passes encl core, bkpResetByte_unarmed unarmed]
  · rw [exec_bkpResetWrite_open passes encl core, bkpResetByte_armed armed soon, if_pos ⟨isA5, service⟩]
    exact ⟨_, rfl, bkpReset_done 3 s, (bkpReset_leaves service 3).1⟩
  · rw [exec_bkpResetWrite_open passes encl core, bkpResetByte_armed armed soon, if_neg (not_and_or.2 broken)]

end Sys2Proof.Machine
end

section
/-! PROOFS. Intrusion and the blowing of fuses (R73, R74, R77, R78, R95, R106, R108). -/

namespace Sys2Proof.Machine

/-! ### Blows, one at a time (R106, R108) -/

theorem setFuseBits_getLsbD (v : BitVec 4096) {n : Nat} (h : n < 4096) (k : Nat) :
    (setFuseBits [n] v).getLsbD k = (decide (k = n) || v.getLsbD k) := by
  show (setBits v n 1 1).getLsbD k = _
  rw [setBit_or, BitVec.getLsbD_or, BitVec.getLsbD_ofNat, Nat.testBit_two_pow, Bool.or_comm]
  by_cases e : k = n
  · simp [e, h]
  · simp [e, Ne.symm e]

/-- With no blow running the first bit that waits is given. -/
theorem nextBlow_free {f : Fuses} (h : f.blowing = none) :
    nextBlow f = { f with blowing := f.queue.head?, queue := f.queue.tail } := by
  cases f with
  | mk array view blowing queue => cases queue <;> subst h <;> rfl

theorem nextBlow_busy {f : Fuses} {n : BitVec 12} (h : f.blowing = some n) : nextBlow f = f := by
  simp [nextBlow, h]

/-- The bit being blown and those that wait keep their order, and nothing else of the fuses changes. -/
theorem nextBlow_order (f : Fuses) :
    nextBlow f = { f with blowing := (nextBlow f).blowing, queue := (nextBlow f).queue } ∧
      (nextBlow f).blowing.toList ++ (nextBlow f).queue = f.blowing.toList ++ f.queue := by
  cases h : f.blowing with
  | none =>
    rw [nextBlow_free h]
    exact ⟨rfl, by cases f.queue <;> rfl⟩
  | some n => rw [nextBlow_busy h, h]; exact ⟨by rw [← h], rfl⟩

theorem exec_fuseBlow_open {s : State} {r : Req} {n : BitVec 12} (passes : passesGuard s r 0x5F000200 = true)
    (may : mayBlow s r n.toNat = true) : exec (.fuseBlow r n) s = .next (fuseGo n s) := by
  rw [exec_fuseBlow, execFuseBlow, may, tryWrite_open passes]

theorem fuseBlow_refused {s : State} {r : Req} {n : BitVec 12} (passes : passesGuard s r 0x5F000200 = true)
    (mayNot : mayBlow s r n.toNat = false) : RefusedSilently (.fuseBlow r n) r s := by
  obtain ⟨kind, shut⟩ := tryWrite_closed passes (fuseGo n)
  exact refusedSilently_of_violate (by rw [exec_fuseBlow, execFuseBlow, mayNot, shut])

theorem exec_fuseBlowDone_verified {s : State} {n : BitVec 12} (running : s.fuse.blowing = some n) :
    exec (.fuseBlowDone true) s = .next { s with fuse := { s.fuse with
      blowing := s.fuse.queue.head?, queue := s.fuse.queue.tail, done := true, fail := false
      array := setFuseBits [n.toNat] s.fuse.array, view := setFuseBits [n.toNat] s.fuse.view
      uncertain := s.fuse.uncertain.filter (· ≠ n) } } := by
  simp [execFuseBlowDone, running, nextBlow_free]

theorem exec_fuseBlowDone_failed {s : State} {n : BitVec 12} (running : s.fuse.blowing = some n) :
    exec (.fuseBlowDone false) s = .next { s with fuse := { s.fuse with
      blowing := s.fuse.queue.head?, queue := s.fuse.queue.tail, done := true, fail := true } } := by
  simp [execFuseBlowDone, running, nextBlow_free]

/-! ### What an intrusion does before the mode's part of it (R74, R77, R78) -/

/-- FIRST's code for the sensors that tripped together: the lowest of them, from 1. -/
def firstCode (x : BitVec 6) : BitVec 3 := BitVec.ofNat 3 (((List.range 6).find? fun i => x.getLsbD i).getD 0 + 1)

theorem firstCode_lowest {x : BitVec 6} (some_ : x ≠ 0) :
    ∃ k, x.getLsbD k = true ∧ (∀ j, j < k → x.getLsbD j = false) ∧ (firstCode x).toNat = k + 1 := by
  cases found : (List.range 6).find? fun i => x.getLsbD i with
  | none =>
    refine absurd (BitVec.eq_of_getLsbD_eq fun i lt => ?_) some_
    simpa using List.find?_eq_none.1 found i (List.mem_range.2 lt)
  | some k =>
    obtain ⟨tripped, inRange, lower⟩ := List.find?_range_eq_some.1 found
    refine ⟨k, tripped, fun j lt => by simpa using lower j lt, ?_⟩
    rw [firstCode, found]
    exact Nat.mod_eq_of_lt (by have := List.mem_range.1 inRange; simp; omega)

/-- TAMP as the sensors set it. -/
def tamperedBy (x : BitVec 6) (b : Backup) : Tamper :=
  { b.tamp with intrusion := true, sensors := b.tamp.sensors ||| x, time := b.cal.sec, witness := true
                first := if b.tamp.first = 0 then firstCode x else b.tamp.first }

/-- TAMP, the share and its mask, the Granary, and the four copies of the intrusion fuse where main power is present. -/
def intruded (x : BitVec 6) (s : State) : State :=
  let s := clearGranary (zeroShare (setTamp s (tamperedBy x s.bkp)))
  if s.sys.mode ≠ Mode.backup then queueBlows [1094, 1095, 1096, 1097] s else s

theorem exec_intrusionTrip_trips {x : BitVec 6} (h : x ≠ 0) (s : State) :
    exec (.intrusionTrip x) s = .next (lockdownEvent 1 (intruded x s)) := by
  rw [exec_intrusionTrip, execIntrusionTrip, if_neg h]; rfl

theorem intruded_bkp (x : BitVec 6) (s : State) :
    (intruded x s).bkp = { s.bkp with tamp := tamperedBy x s.bkp, share := 0, mask := 0 } := by
  unfold intruded; dsimp only; split <;> rfl

theorem intruded_sys (x : BitVec 6) (s : State) : (intruded x s).sys = s.sys := by
  unfold intruded; dsimp only; split <;> rfl

theorem intruded_grn (x : BitVec 6) (s : State) : (intruded x s).grn.roots = [] ∧ (intruded x s).grn.kek = 0 := by
  unfold intruded; dsimp only; split <;> exact ⟨rfl, rfl⟩

theorem intruded_fuse_powered {s : State} (powered : s.sys.mode ≠ Mode.backup) (x : BitVec 6) :
    (intruded x s).fuse = nextBlow { s.fuse with queue := s.fuse.queue ++ [1094, 1095, 1096, 1097] } := by
  rw [intruded, if_pos (by exact powered)]; rfl

theorem intruded_fuse_backup {s : State} (off : s.sys.mode = Mode.backup) (x : BitVec 6) : (intruded x s).fuse = s.fuse := by
  rw [intruded, if_neg (fun powered => powered off)]; rfl

/-! ### A vault without roots stays without them (R400, R442) -/

theorem setOwner_vault {s : State} (h : s.grn.roots = [] ∧ s.grn.kek = 0) (o : Fin 64) (st : BitVec 4) :
    (setOwner o st s).grn.roots = [] ∧ (setOwner o st s).grn.kek = 0 := by
  obtain ⟨roots, kek⟩ := h
  unfold setOwner; dsimp only
  (repeat' split) <;> simp [freeSlots, roots, kek, tabPut, tabDrop]

theorem judgeOwners_vault {s : State} (h : s.grn.roots = [] ∧ s.grn.kek = 0) :
    (judgeOwners s).grn.roots = [] ∧ (judgeOwners s).grn.kek = 0 := by
  unfold judgeOwners
  induction fins 64 generalizing s with
  | nil => exact h
  | cons o l ih => exact ih (setOwner_vault h o _)

theorem clearGranary_vault (s : State) : (clearGranary s).grn.roots = [] ∧ (clearGranary s).grn.kek = 0 := ⟨rfl, rfl⟩

theorem clearForLockdown_vault (s : State) :
    (clearForLockdown true s).grn.roots = [] ∧ (clearForLockdown true s).grn.kek = 0 := by
  rw [clearForLockdown, if_pos rfl]
  exact judgeOwners_vault (clearGranary_vault _)

theorem enterLockdown_vault {s : State} (h : s.grn.roots = [] ∧ s.grn.kek = 0) :
    (enterLockdown 1 s).grn.roots = [] ∧ (enterLockdown 1 s).grn.kek = 0 := by
  unfold enterLockdown; dsimp only
  split
  · exact h
  · simp [clearForLockdown_vault]

theorem lockMerge_intrusion (lock : BitVec 4) : lockMerge lock 1 = 1 := if_pos (.inr rfl)

/-! ### The statement -/

theorem intrusionTrip_takes {x : BitVec 6} (trips : x ≠ 0) (s : State) :
    ∃ s', exec (.intrusionTrip x) s = .next s' ∧ s'.bkp.tamp.intrusion = true ∧ s'.bkp.tamp.sensors = s.bkp.tamp.sensors ||| x ∧
      s'.bkp.tamp.witness = true ∧ s'.bkp.tamp.time = s.bkp.cal.sec ∧ s'.bkp.share = 0 ∧ s'.bkp.mask = 0 ∧
      (s.bkp.tamp.first ≠ 0 → s'.bkp.tamp.first = s.bkp.tamp.first) ∧
      (s.bkp.tamp.first = 0 → ∃ k, x.getLsbD k = true ∧ (∀ j, j < k → x.getLsbD j = false) ∧
        s'.bkp.tamp.first.toNat = k + 1) ∧
      (s.sys.mode ≠ Mode.backup → s'.fuse = { s.fuse with blowing := s'.fuse.blowing, queue := s'.fuse.queue } ∧
        s'.fuse.blowing.toList ++ s'.fuse.queue = s.fuse.blowing.toList ++ s.fuse.queue ++ [1094, 1095, 1096, 1097]) ∧
      (s.sys.mode = Mode.backup → s'.fuse = s.fuse ∧ s'.sys = s.sys) ∧
      (mainOn s = true → s.sys.romPending = false → s'.sys.mode = Mode.lockdown ∧ s'.sys.lock = 1 ∧
        s'.grn.roots = [] ∧ s'.grn.kek = 0) := by
  obtain ⟨pend, alarms, kept⟩ := lockdownEvent_bkp 1 (intruded x s)
  rw [intruded_bkp] at kept
  have fuse : (lockdownEvent 1 (intruded x s)).fuse = (intruded x s).fuse := by simp
  refine ⟨_, exec_intrusionTrip_trips trips s, by rw [kept]; rfl, by rw [kept]; rfl, by rw [kept]; rfl, by rw [kept]; rfl,
    by rw [kept], by rw [kept], fun set => ?_, fun clear => ?_, fun powered => ?_, fun off => ?_, fun main rom => ?_⟩
  · rw [kept]; exact if_neg set
  · obtain ⟨k, tripped, lower, code⟩ := firstCode_lowest trips
    refine ⟨k, tripped, lower, ?_⟩
    rw [kept, ← code]; exact congrArg BitVec.toNat (if_pos clear)
  · obtain ⟨frame, order⟩ := nextBlow_order { s.fuse with queue := s.fuse.queue ++ [1094, 1095, 1096, 1097] }
    rw [fuse, intruded_fuse_powered powered]
    exact ⟨frame, order.trans (List.append_assoc ..).symm⟩
  · rw [lockdownEvent_inBackup (by rw [intruded_sys]; exact off)]
    exact ⟨intruded_fuse_backup off x, intruded_sys x s⟩
  · have main' : mainOn (intruded x s) = true := by rw [mainOn, intruded_sys]; exact main
    rw [lockdownEvent_powered main' (by rw [intruded_sys]; exact rom), enterLockdown_lock, lockMerge_intrusion]
    exact ⟨enterLockdown_mode .., rfl, enterLockdown_vault (intruded_grn x s)⟩

/-- Settles O37: an intrusion through what it leaves before the mode's part, a blow through its controller. -/
theorem tamperAndFuses : Obligations.TamperAndFuses := by
  unfold Obligations.TamperAndFuses
  refine fun s => ⟨fun x trips => intrusionTrip_takes trips s, fun r n passes may => ⟨fun free => ?_, fun busy => ?_⟩,
    fun r n passes mayNot => fuseBlow_refused passes mayNot, fun n running => ⟨?_, ?_⟩⟩
  · rw [exec_fuseBlow_open passes may, fuseGo, free]; rfl
  · rw [exec_fuseBlow_open passes may, fuseGo, if_pos (Option.ne_none_iff_isSome.1 busy)]
  · exact ⟨_, exec_fuseBlowDone_verified running, rfl, rfl, rfl, rfl, setFuseBits_getLsbD _ n.isLt,
      setFuseBits_getLsbD _ n.isLt, rfl⟩
  · exact ⟨_, exec_fuseBlowDone_failed running, rfl, rfl, rfl, rfl⟩

end Sys2Proof.Machine
end

section
/-! PROOFS. The calendar, its readers' shadow sets, the alarms and WAKE_OUT (R65 to R72, R80, R100, R252). -/

namespace Sys2Proof.Machine

/-! ### A reader's shadow set (R66, R67) -/

theorem tryRead_open {s : State} {r : Req} {a : Word} (lets : guardLets s r permR a.toNat 4 = true) (act : State → State) :
    tryRead r a true act s = act s := by
  cases r <;> simp [tryRead, lets]

theorem shadowKey_setShadow (r q : Req) (x : Shadow) (s : State) : shadowKey (setShadow r x s) q = shadowKey s q := by
  cases q <;> rfl

theorem shadowShows_setShadow_same (r : Req) (x : Shadow) (s : State) : shadowShows (setShadow r x s) r = x := by
  rw [shadowShows, shadowKey_setShadow]; exact tabGet_tabPut_same ..

theorem shadowShows_setShadow_other {r q : Req} {s : State} (other : shadowKey s q ≠ shadowKey s r) (x : Shadow) :
    shadowShows (setShadow r x s) q = shadowShows s q := by
  rw [shadowShows, shadowKey_setShadow]; exact tabGet_tabPut_other _ other ..

theorem or_isCommons_eq_true {s : State} {r : Req} (h : isEncl s r = true ∨ isCommons s r = true) :
    (isEncl s r || isCommons s r) = true := by simpa using h

theorem exec_calSecLoRead_open {s : State} {r : Req} (lets : guardLets s r permR 0x55000010 4 = true)
    (reader : isEncl s r = true ∨ isCommons s r = true) : exec (.calSecLoRead r) s = .next (latchCal r s) := by
  rw [exec_calSecLoRead, execCalSecLoRead, or_isCommons_eq_true reader, tryRead_open (a := 0x55000010) lets]

theorem exec_timeLoRead_open {s : State} {r : Req} (lets : guardLets s r permR 0x50000010 4 = true)
    (reader : isEncl s r = true ∨ isCommons s r = true) : exec (.timeLoRead r) s = .next (latchTime r s) := by
  rw [exec_timeLoRead, execTimeLoRead, or_isCommons_eq_true reader, tryRead_open (a := 0x50000010) lets]

/-! ### The time of day (R65, R66) -/

/-- Hour, minute and second fit their fields, and the weekday stands below the date's, so neither is cut. -/
theorem calFields_timeOfDay (sec : W48) : TimeOfDay sec.toNat (calFields0 sec) (calFields1 sec) := by
  constructor
  · simp only [calFields1, BitVec.toNat_ofNat]
    omega
  · simp only [calFields0, BitVec.toNat_ofNat]
    omega

/-! ### The calendar's clock (R65, R68) -/

theorem satInc_toNat (x : Byte) : (satInc x).toNat = min 255 (x.toNat + 1) := by
  unfold satInc
  split
  · next full => rw [full]; rfl
  · next room =>
    have below : x.toNat ≠ 255 := fun e => room (BitVec.eq_of_toNat_eq e)
    have := x.isLt
    rw [BitVec.toNat_add]
    simp; omega

theorem calSecond_passes (s : State) : ∃ s', exec .calSecond s = .next s' ∧
    s'.bkp.tamp = { s.bkp.tamp with temp := Config.cavity s.now } ∧
    s'.bkp.cal = (if s.bkp.held = true then s.bkp.cal else { s.bkp.cal with sec := s.bkp.cal.sec + 1, subsec := 0 }) ∧
    s' = { s with bkp := { s.bkp with tamp := s'.bkp.tamp, cal := s'.bkp.cal } } := by
  by_cases held : s.bkp.held = true
  · exact ⟨noteTemp (Config.cavity s.now) s, congrArg _ (if_pos held), rfl, (if_pos held).symm, rfl⟩
  · exact ⟨setCal (noteTemp (Config.cavity s.now) s) { s.bkp.cal with sec := s.bkp.cal.sec + 1, subsec := 0 },
      congrArg _ (if_neg held), rfl, (if_neg held).symm, rfl⟩

theorem exec_calApply_open {s : State} {r : Req} (passes : passesGuard s r 0x5500002C = true) (encl : isEncl s r = true) :
    exec (.calApply r) s = .next (applyWrite s) := by
  rw [exec_calApply, execCalApply, encl, tryWrite_open passes]

/-- Only a valid time in Limp or Lockdown is not replaced (R68). -/
theorem applyWrite_pends {s : State}
    (open_ : s.bkp.cal.valid = false ∨ (s.sys.mode ≠ Mode.limp ∧ s.sys.mode ≠ Mode.lockdown)) :
    applyWrite s = setCal s { s.bkp.cal with applyPending := true } := by
  refine if_neg ?_
  rintro ⟨valid, low⟩
  obtain invalid | ⟨notLimp, notLockdown⟩ := open_
  · exact absurd valid (by simp [invalid])
  · exact low.elim notLimp notLockdown

theorem exec_calApplyEdge_pending {s : State} (pending : s.bkp.cal.applyPending = true) (free : s.bkp.held = false) :
    exec .calApplyEdge s = .next (setCal s { s.bkp.cal with
      sec := s.bkp.cal.set, subsec := 0, valid := true, sets := satInc s.bkp.cal.sets, applyPending := false
      steppedBack := s.bkp.cal.steppedBack || decide (s.bkp.cal.set < s.bkp.cal.sec) }) := by
  simp [execCalApplyEdge, pending, free]

/-! ### The alarms (R70 to R72, R100) -/

theorem exec_alarmWrite_lo {s : State} {r : Req} {a : Fin 4}
    (passes : passesGuard s r (BitVec.ofNat 32 (0x55000040 + 8 * a.val)) = true) (encl : isEncl s r = true) (v : Word) :
    exec (.alarmWrite r a false v) s = .next (setAlarm s a
      { alarm s a with fired := false, drives := false, sec := setBits (alarm s a).sec 0 32 v.toNat }) := by
  rw [exec_alarmWrite, execAlarmWrite, encl]
  exact congrArg _ (tryWrite_open passes _)

theorem exec_alarmWrite_hi {s : State} {r : Req} {a : Fin 4}
    (passes : passesGuard s r (BitVec.ofNat 32 (0x55000044 + 8 * a.val)) = true) (encl : isEncl s r = true) (v : Word) :
    exec (.alarmWrite r a true v) s = .next (setAlarm s a
      { alarm s a with fired := false, drives := false, en := v.getLsbD 31, task := v.getLsbD 30, wake := v.getLsbD 29
                       wakeout := v.getLsbD 28, sec := setBits (alarm s a).sec 32 16 (bitsAt v 0 16) }) := by
  have place : 0x55000044 + 8 * a.val = 0x55000040 + 8 * a.val + 4 := by omega
  rw [exec_alarmWrite, execAlarmWrite, encl]
  exact congrArg _ (tryWrite_open (place ▸ passes) _)

theorem sec_lowWord (sec : W48) (v : Word) : (setBits sec 0 32 v.toNat).toNat = sec.toNat / 2 ^ 32 * 2 ^ 32 + v.toNat := by
  have := sec.isLt
  have := v.isLt
  rw [setBits_toNat]; omega

theorem sec_highHalf (sec : W48) (v : Word) :
    (setBits sec 32 16 (bitsAt v 0 16)).toNat = v.toNat % 65536 * 2 ^ 32 + sec.toNat % 2 ^ 32 := by
  have := sec.isLt
  rw [setBits_toNat, bitsAt, Nat.shiftRight_zero]; omega

/-- The alarm fired, before its task and its wake. -/
def alarmFired (a : Fin 4) (s : State) : State :=
  setAlarm s a { alarm s a with fired := true, drives := (alarm s a).wakeout && decide (s.sys.mode ≠ Mode.lockdown) }

/-- And its task raised, where the alarm has one and the main die runs. -/
def alarmTold (a : Fin 4) (s : State) : State :=
  if (alarm s a).task = true ∧ mainOn s = true ∧ s.sys.mode ≠ Mode.store then hk .alarm a.val (alarmFired a s) else alarmFired a s

theorem alarmTold_frame (a : Fin 4) (s : State) : alarmTold a s =
    { s with bkp := (alarmFired a s).bkp, drill := (alarmTold a s).drill, clk := (alarmTold a s).clk } := by
  unfold alarmTold
  split
  · exact eq_of_clk_drill (hk_same ..)
  · rfl

theorem exec_alarmFire_due {s : State} {a : Fin 4} (en : (alarm s a).en = true) (fresh : (alarm s a).fired = false)
    (free : s.bkp.held = false) (valid : s.bkp.cal.valid = true) (due : (alarm s a).sec.toNat ≤ s.bkp.cal.sec.toNat) :
    exec (.alarmFire a) s = .next (if (alarm s a).wake = true then latchWake 1 (alarmTold a s) else alarmTold a s) := by
  have reached : ¬ s.bkp.cal.sec < (alarm s a).sec := fun lt => by rw [BitVec.lt_def] at lt; omega
  simp [execAlarmFire, en, fresh, free, valid, reached, alarmTold, alarmFired, mainOn, setAlarm]

/-- Its wake source is latched: nothing but SYS follows the task. -/
theorem exec_alarmFire_frame {s : State} {a : Fin 4} (en : (alarm s a).en = true) (fresh : (alarm s a).fired = false)
    (free : s.bkp.held = false) (valid : s.bkp.cal.valid = true) (due : (alarm s a).sec.toNat ≤ s.bkp.cal.sec.toNat) :
    ∃ sys, exec (.alarmFire a) s = .next { alarmTold a s with sys := sys } ∧
      ((alarm s a).wake = true → sys = (latchWake 1 (alarmTold a s)).sys) ∧ ((alarm s a).wake = false → sys = s.sys) := by
  rw [exec_alarmFire_due en fresh free valid due]
  cases (alarm s a).wake with
  | true => exact ⟨_, congrArg _ (eq_of_sys (latchWake_same ..)), fun _ => rfl, nofun⟩
  | false =>
    refine ⟨s.sys, ?_, nofun, fun _ => rfl⟩
    conv_lhs => rw [if_neg Bool.false_ne_true, alarmTold_frame]
    rw [alarmTold_frame]

theorem alarmFire_fires {s : State} {a : Fin 4} (en : (alarm s a).en = true) (fresh : (alarm s a).fired = false)
    (free : s.bkp.held = false) (valid : s.bkp.cal.valid = true) (due : (alarm s a).sec.toNat ≤ s.bkp.cal.sec.toNat) :
    ∃ s', exec (.alarmFire a) s = .next s' ∧ (alarm s' a).fired = true ∧
      (s.sys.mode ≠ Mode.lockdown → (alarm s' a).drives = (alarm s a).wakeout) ∧
      ((alarm s a).task = true → mainOn s = true → s.sys.mode ≠ Mode.store → Housekeeping .alarm a.val s s') ∧
      ((alarm s a).task = false ∨ mainOn s = false → s'.drill = s.drill) ∧
      (s.sys.mode = Mode.sleep → (alarm s a).wake = true → s'.sys.wake.getLsbD 1 = true ∧ s'.sys.waking = true) ∧
      ((alarm s a).wake = false → s'.sys = s.sys) ∧ (∀ k, k ≠ a → alarm s' k = alarm s k) ∧ s'.bkp.cal = s.bkp.cal ∧
      s' = { s with bkp := s'.bkp, drill := s'.drill, clk := s'.clk, sys := s'.sys } := by
  obtain ⟨sys, ran, woken, unwoken⟩ := exec_alarmFire_frame en fresh free valid due
  have bkp : (alarmTold a s).bkp = (alarmFired a s).bkp := (congrArg State.bkp (alarmTold_frame a s) :)
  have shows : ∀ k, alarm { alarmTold a s with sys := sys } k = alarm (alarmFired a s) k := fun k => by
    simp only [alarm, bkp]
  refine ⟨_, ran, ?_, fun open_ => ?_, fun task main store => ?_, fun silent => ?_, fun asleep wake => ?_, unwoken,
    fun k other => ?_, ?_, ?_⟩
  · rw [shows, alarmFired, alarm_setAlarm_same]
  · rw [shows, alarmFired, alarm_setAlarm_same]; simp [open_]
  · have told : alarmTold a s = hk .alarm a.val (alarmFired a s) := if_pos ⟨task, main, store⟩
    show Housekeeping .alarm a.val s { alarmTold a s with sys := sys }
    rw [told]
    exact housekeeping_hk rfl ..
  · have told : alarmTold a s = alarmFired a s := if_neg fun ⟨task, main, _⟩ => by simp [task, main] at silent
    exact (congrArg State.drill told :)
  · have asleep' : (alarmTold a s).sys.mode = Mode.sleep := (congrArg (·.sys.mode) (alarmTold_frame a s)).trans asleep
    show sys.wake.getLsbD 1 = true ∧ sys.waking = true
    rw [woken wake, latchWake_asleep asleep']
    exact ⟨setBits_getLsbD _ (by decide), rfl⟩
  · rw [shows, alarmFired, alarm_setAlarm_other _ other]
  · exact (congrArg Backup.cal bkp :)
  · rw [alarmTold_frame]

theorem exec_alarmFire_kept {s : State} {a : Fin 4} (h : s.bkp.cal.valid = false ∨ (alarm s a).fired = true) :
    exec (.alarmFire a) s = .next s := by
  obtain invalid | fired := h
  · simp [execAlarmFire, invalid]
  · simp [execAlarmFire, fired]

/-- Settles O36: the calendar's rows, a reader's latch in its own shadow set, and each alarm's write, firing and release. -/
theorem calendarAndAlarms : Obligations.CalendarAndAlarms := by
  unfold Obligations.CalendarAndAlarms
  refine ⟨fun s => ⟨calSecond_passes s, fun r lets reader => ?_, fun r lets reader => ?_,
      fun r passes encl => ⟨fun open_ => ?_, fun valid low => ?_⟩, fun pending free => ?_⟩,
    fun s a => ⟨fun r v => ⟨fun passes encl => ?_, fun passes encl => ?_⟩,
      fun en fresh free valid due => alarmFire_fires en fresh free valid due, exec_alarmFire_kept, fun off => ?_, rfl⟩⟩
  · refine ⟨_, exec_calSecLoRead_open lets reader, ?_, fun q other => shadowShows_setShadow_other other _, rfl⟩
    rw [latchCal, shadowShows_setShadow_same]
    exact ⟨rfl, rfl, calFields_timeOfDay _, rfl⟩
  · exact ⟨_, exec_timeLoRead_open lets reader, shadowShows_setShadow_same .., fun q other => shadowShows_setShadow_other other _,
      rfl⟩
  · rw [exec_calApply_open passes encl, applyWrite_pends open_]; rfl
  · rw [exec_calApply_open passes encl]
    exact congrArg _ (if_pos ⟨valid, low⟩)
  · refine ⟨_, exec_calApplyEdge_pending pending free, rfl, rfl, rfl, satInc_toNat _, rfl, rfl, rfl, rfl⟩
  · refine ⟨_, exec_alarmWrite_lo passes encl v, ?_, ?_, fun k other => alarm_setAlarm_other s other _, rfl⟩
    · rw [alarm_setAlarm_same]; exact sec_lowWord ..
    · rw [alarm_setAlarm_same]
  · refine ⟨_, exec_alarmWrite_hi passes encl v, ?_⟩
    rw [alarm_setAlarm_same]
    exact ⟨rfl, rfl, rfl, rfl, sec_highHalf .., rfl, rfl, fun k other => alarm_setAlarm_other s other _, rfl⟩
  · refine ⟨_, congrArg Host.Outcome.next (if_pos off), alarm_setAlarm_same .., fun k other => alarm_setAlarm_other s other _, rfl⟩

end Sys2Proof.Machine
end

section
/-! PROOFS. The services of the Enclosure (R68, R102, R330, R337): what each leaves in the caller's g4 to g11, and what it
changes beside them. -/

namespace Sys2Proof.Machine

/-! ### The caller's registers (R330) -/

theorem onService_serves {s : State} {t : Thread} {n : Nat} (h : serving s t n = true) (act : State → State) :
    onService t n act s = .next (act s) := by simp [onService, h]

theorem limpReason_of_serving {s : State} {t : Thread} {n : Nat} (h : serving s t n = true) : limpReason s 2 = false := by
  simp only [serving, enclRuns, Bool.and_eq_true, Bool.not_eq_true'] at h
  obtain ⟨⟨⟨⟨⟨-, limp2⟩, -⟩, -⟩, -⟩, -⟩ := h
  exact limp2

theorem svcResults_other (s : State) {t u : Thread} (h : u ≠ t) (status : Byte) (v1 v2 v3 : Word) :
    thr (svcResults t status v1 v2 v3 s) u = thr s u := thr_setThr_other s h _

theorem svcResults_encl (s : State) (t : Thread) (status : Byte) (v1 v2 v3 : Word) :
    let e := (thr (svcResults t status v1 v2 v3 s) t).encl
    vget e 4 = status.setWidth 32 ∧ vget e 5 = v1 ∧ vget e 6 = v2 ∧ vget e 7 = v3 ∧
      ∀ k : Fin 32, 8 ≤ k.val → k.val ≤ 11 → vget e k = 0 := by
  simp only [svcResults, thr_setThr_same, vget_vset]
  refine ⟨rfl, rfl, rfl, rfl, fun k low high => ?_⟩
  obtain rfl | rfl | rfl | rfl : k = 8 ∨ k = 9 ∨ k = 10 ∨ k = 11 := by omega
  all_goals rfl

/-- A service with no result: status OK and zeros. -/
theorem svcSilent_encl (s : State) (t : Thread) : vget (thr (svcSilent t s) t).encl 4 = 0 ∧
    ∀ k : Fin 32, 5 ≤ k.val → k.val ≤ 11 → vget (thr (svcSilent t s) t).encl k = 0 := by
  obtain ⟨r4, r5, r6, r7, rest⟩ := svcResults_encl s t 0 0 0 0
  refine ⟨r4, fun k low high => ?_⟩
  obtain rfl | rfl | rfl | above : k = 5 ∨ k = 6 ∨ k = 7 ∨ 8 ≤ k.val := by omega
  · exact r5
  · exact r6
  · exact r7
  · exact rest k above high

/-! ### The owner tag (R337) -/

theorem exec_ownerEnter_serves {s : State} {t : Thread} (h : serving s t 3 = true) :
    exec (.ownerEnter t) s = .next (svcSilent t (setOwnerTag t (if ownerPermitted s t (stileReg s t 5).toNat then
      BitVec.ofNat 8 (stileReg s t 5).toNat else vget s.guard.towner t) s)) := by
  rw [exec_ownerEnter, execOwnerEnter, onService_serves h]
  dsimp only
  split
  · rfl
  · have kept : vset s.guard.towner t (vget s.guard.towner t) = s.guard.towner := Vector.set_getElem_self _
    rw [setOwnerTag, kept]

/-- The tag is the thread's alone, whichever it takes. -/
theorem svcSilent_setOwnerTag (s : State) (t : Thread) (tag : Byte) :
    let s' := svcSilent t (setOwnerTag t tag s)
    vget (thr s' t).encl 4 = 0 ∧ (∀ k : Fin 32, 5 ≤ k.val → k.val ≤ 11 → vget (thr s' t).encl k = 0) ∧
    vget s'.guard.towner t = tag ∧ (∀ u, u ≠ t → vget s'.guard.towner u = vget s.guard.towner u) ∧
    s' = { s with cores := s'.cores, guard := { s.guard with towner := s'.guard.towner } } := by
  obtain ⟨status, zeros⟩ := svcSilent_encl (setOwnerTag t tag s) t
  exact ⟨status, zeros, vget_vset_same .., fun u other => vget_vset_other other _ _, rfl⟩

/-! ### The calendar's setting (R68) -/

theorem applyWrite_set (s : State) : (applyWrite s).bkp.cal.set = s.bkp.cal.set := by
  unfold applyWrite; dsimp only; split <;> rfl

theorem setTime_set (lo hi : Word) (s : State) :
    (setTime lo hi s).bkp.cal.set.toNat = lo.toNat + hi.toNat % 65536 * 2 ^ 32 := by
  rw [setTime, applyWrite_set]
  show ((hi.setWidth 16 : Half) ++ lo).toNat = _
  rw [BitVec.toNat_append, ← Nat.shiftLeft_add_eq_or_of_lt lo.isLt, BitVec.toNat_setWidth, Nat.shiftLeft_eq]
  omega

theorem setTime_pends {s : State} (limp : s.sys.mode ≠ Mode.limp) (unlocked : s.sys.mode ≠ Mode.lockdown) (lo hi : Word) :
    (setTime lo hi s).bkp.cal.applyPending = true := by
  rw [setTime, applyWrite_pends]
  · rfl
  · exact .inr ⟨limp, unlocked⟩

/-! ### Sleep and the resets (R86, R102) -/

theorem sleepWrite_sys (s : State) : (sleepWrite s).sys.mode = s.sys.mode ∧
    if s.sys.mode = Mode.run ∧ s.pins.ign = false ∧ s.pins.svcPresentHigh = true ∧ watchBusy s = false
    then (sleepWrite s).sys.sleep = .draining ∧ (sleepWrite s).sys.sleepFail = s.sys.sleepFail
    else (sleepWrite s).sys.sleep = s.sys.sleep ∧ (sleepWrite s).sys.sleepFail = true := by
  unfold sleepWrite
  simp only [Bool.not_eq_true]
  split
  · exact ⟨rfl, rfl, rfl⟩
  · exact ⟨rfl, rfl, rfl⟩

theorem exec_svcReset_serves {s : State} {t : Thread} (h : serving s t 7 = true) :
    exec (.svcReset t) s = .next (resetWrite (stileReg s t 5).toNat (svcSilent t s)) := by
  rw [exec_svcReset, execSvcReset, onService_serves h]

theorem resetWrite_warm {s : State} (unlocked : s.sys.mode ≠ Mode.lockdown) (limp : s.sys.mode ≠ Mode.limp)
    (h2 : limpReason s 2 = false) : resetWrite 1 s = warmClear (warmEntered s) := by
  rw [resetWrite, if_neg (by decide), if_pos ⟨rfl, unlocked⟩, warmReset_runs h2 (.inl limp)]

/-- A kind that is neither warm nor cold is refused. -/
theorem resetWrite_reserved {kind : Nat} (notWarm : kind ≠ 1) (notCold : kind ≠ 2) (s : State) : resetWrite kind s = s := by
  rw [resetWrite, if_neg notCold, if_neg (fun ⟨warm, _⟩ => notWarm warm)]

/-- Settles O32: each service's act on the state, and zeros where it has no result. -/
theorem services : Obligations.Services := by
  unfold Obligations.Services
  refine fun s t => ⟨fun serves => ?_, fun serves => ?_, fun serves => ?_, fun serves => ?_, fun serves sleep => ?_,
    fun serves cold => ?_, fun serves warm unlocked limp => ?_, fun serves notWarm notCold => ?_⟩
  · obtain ⟨status, mode, seed, boot, rest⟩ := svcResults_encl s t 0 (sysModeWord s) (seedStsWord s) (bootStsWord s)
    exact ⟨_, by rw [exec_svcStatus, execSvcStatus, onService_serves serves], status, mode, seed, boot, rest,
      eq_of_cores (svcResults_same ..), fun u other => svcResults_other s other ..⟩
  · exact ⟨_, exec_ownerEnter_serves serves, svcSilent_setOwnerTag ..⟩
  · exact ⟨_, by rw [exec_ownerLeave, execOwnerLeave, onService_serves serves], svcSilent_setOwnerTag ..⟩
  · obtain ⟨status, zeros⟩ := svcSilent_encl (setTime (stileReg s t 5) (stileReg s t 6) s) t
    exact ⟨_, by rw [exec_svcTime, execSvcTime, onService_serves serves], status, zeros, setTime_set ..,
      fun limp unlocked => setTime_pends limp unlocked ..⟩
  · obtain ⟨status, zeros⟩ := svcSilent_encl s t
    obtain ⟨mode, drain⟩ := sleepWrite_sys (svcSilent t s)
    refine ⟨sleepWrite (svcSilent t s), ?_, ?_, ?_, mode, drain⟩
    · rw [exec_svcMode, execSvcMode, onService_serves serves, sleep]; rfl
    · simpa [thr] using status
    · simpa [thr] using zeros
  · refine ⟨coldReset 3 (svcSilent t s), ?_, rfl, rfl, rfl, rfl, rfl⟩
    rw [exec_svcReset_serves serves, cold]; rfl
  · obtain ⟨mode, -, cause, -⟩ := warmClear_sys (warmEntered (svcSilent t s))
    obtain ⟨entered, -⟩ := warmEntered_keeps (svcSilent t s)
    refine ⟨_, ?_, mode.trans entered, cause, rfl⟩
    rw [exec_svcReset_serves serves, warm]
    exact congrArg _ (resetWrite_warm unlocked limp (limpReason_of_serving serves :))
  · obtain ⟨status, zeros⟩ := svcSilent_encl s t
    refine ⟨svcSilent t s, ?_, status, zeros, eq_of_cores (svcSilent_same ..)⟩
    rw [exec_svcReset_serves serves, resetWrite_reserved]
    · exact fun one => notWarm (BitVec.eq_of_toNat_eq one)
    · exact fun two => notCold (BitVec.eq_of_toNat_eq two)

end Sys2Proof.Machine
end

section
/-! PROOFS. The Headland's answers, and the staging commands on its session (R143, R144, R145, R481, R484). -/

namespace Sys2Proof.Machine

/-! ### A line answered (R481) -/

section
variable {s : State} {c : Instr}

theorem answers_ok {s1 : State} (ran : exec c s = .next (hldOk s1)) (count : s1.hld.answers = s.hld.answers) :
    Answers c {} s (hldOk s1) := ⟨ran, rfl, congrArg (· + 1) count⟩

theorem onlyAnswers_hldAnswer {a : Answer} (ran : exec c s = .next (hldAnswer a s)) : OnlyAnswers c a s :=
  ⟨_, ⟨ran, rfl, rfl⟩, rfl⟩

/-- A line of the resident Headland that neither the mode nor the granted scopes close. -/
theorem onResident_open {open_ : State → Bool} (runs : residentRuns s = true) (unlocked : s.sys.mode ≠ Mode.lockdown)
    (opens : open_ s = true) (act : State → State) : onResident open_ act s = .next (act s) := by
  simp [onResident, runs, residentOpen, unlocked, opens]

end

/-! ### Bytes of a session, each written once (R144) -/

/-- A byte noted among the ranges is covered from then on, and no other byte's state changes. -/
theorem covered_noteByte (off k : Nat) (l : List (Nat × Nat)) :
    ((noteByte off l).any fun p => decide (p.1 ≤ k ∧ k < p.1 + p.2)) =
      (decide (k = off) || l.any fun p => decide (p.1 ≤ k ∧ k < p.1 + p.2)) := by
  induction l with
  | nil => rw [Bool.eq_iff_iff]; simp [noteByte]; omega
  | cons p l ih =>
    obtain ⟨a, n⟩ := p
    unfold noteByte
    split
    · next extends_ => rw [Bool.eq_iff_iff]; simp; grind
    · rw [List.any_cons, ih, List.any_cons, Bool.or_left_comm]

/-- A run of bytes that the session has not written yet goes to the staging area as it is. -/
theorem foldl_stageByte_fresh (off : Nat) (bs : List Byte) (i : Nat) (s : State)
    (fresh : ∀ k, off + i ≤ k → stageWritten s k = false) :
    ∃ written, ((List.range' i bs.length).zip bs).foldl (fun s p => stageByte s (off + p.1) p.2) s =
      { s with mem := { s.mem with store := memStore norBlank s.mem.store (stagingBase + (off + i)) bs }
               seed := { s.seed with written := written } } := by
  induction bs generalizing i s with
  | nil => exact ⟨_, rfl⟩
  | cons b bs ih =>
    have first : stageByte s (off + i) b =
        { s with mem := { s.mem with store := tabPut norBlank s.mem.store (stagingBase + (off + i)) b }
                 seed := { s.seed with written := noteByte (off + i) s.seed.written } } := by
      rw [stageByte, fresh _ le_rfl]; rfl
    obtain ⟨written, rest⟩ := ih (i + 1) (stageByte s (off + i) b) fun k above => by
      have old : stageWritten s k = false := fresh k (by omega)
      rw [first, stageWritten, covered_noteByte, decide_eq_false (by omega), Bool.false_or]
      exact old
    refine ⟨written, ?_⟩
    rw [List.length_cons, List.range'_succ, List.zip_cons_cons, List.foldl_cons, rest, first]
    rfl

theorem stageWriteOp_fresh {s : State} (idle : s.seed.wait = .idle) (none : s.seed.written = []) (off : Nat) (bs : List Byte) :
    ∃ written, stageWriteOp off bs s =
      (.done, { s with mem := { s.mem with store := memStore norBlank s.mem.store (stagingBase + off) bs }
                       seed := { s.seed with written := written, checkedLast := false } }) := by
  obtain ⟨written, stored⟩ := foldl_stageByte_fresh off bs 0 s fun k _ => by simp [stageWritten, none]
  refine ⟨written, ?_⟩
  rw [stageWriteOp, if_neg (fun busy => busy idle), List.range_eq_range', stored]
  rfl

/-! ### The session's operations (R143, R145) -/

theorem stageOpenOp_idle {s : State} {src : BitVec 3} (idle : s.seed.wait = .idle) (free : s.seed.open_ = false ∨ s.seed.source = src)
    (slot : Option (Fin 256)) : stageOpenOp src slot s = (.later, { eraseStaging s with
      seed := { s.seed with open_ := true, source := src, result := 0, code := 0, written := [], checkedLast := false
                            wait := .erasing slot }
      hld := { s.hld with staged := decide (src = 1) } }) := by
  refine if_neg ?_
  rintro (busy | ⟨open_, other⟩)
  · exact busy idle
  · exact free.elim (fun closed => by simp [closed] at open_) other

theorem stageCheckOp_idle {s : State} (idle : s.seed.wait = .idle) (err : Bool) :
    stageCheckOp err s = (.done, { s with seed := { s.seed with
      result := if seedCode s stagingBase err = 0 then 1 else 2, code := BitVec.ofNat 4 (seedCode s stagingBase err)
      checkedLast := true } }) :=
  if_neg fun busy => busy idle

theorem stageActivateOp_passed {s : State} (idle : s.seed.wait = .idle) (passed : s.seed.result = 1)
    (last : s.seed.checkedLast = true) (slot : Option (Fin 256)) :
    stageActivateOp slot s = (.later, { storeErase (seedSlotBase (activateTarget s)) seedAreaLen s with
      seed := { s.seed with wait := .copying slot (activateTarget s) } }) :=
  if_neg (by simp [idle, passed, last])

/-! ### The staging commands -/

section
variable {s : State} (runs : residentRuns s = true) (unlocked : s.sys.mode ≠ Mode.lockdown) (opens : stageOpenTo s = true)
include runs unlocked opens

theorem hlStageOpen_begins (idle : s.seed.wait = .idle) (free : s.seed.open_ = false ∨ s.seed.source = 1) :
    ∃ s', exec .hlStageOpen s = .next s' ∧ s'.seed.open_ = true ∧ s'.seed.source = 1 ∧ s'.seed.wait = .erasing none ∧
      s'.seed.result = 0 ∧ s'.hld.answers = s.hld.answers ∧
      ∀ k, k < seedAreaLen → tabGet norBlank s'.mem.store (stagingBase + k) = norBlank := by
  have ran : exec .hlStageOpen s = .next (stageLine (stageOpenOp 1 none s)) :=
    onResident_open runs unlocked opens fun s => stageLine (stageOpenOp 1 none s)
  rw [stageOpenOp_idle idle free] at ran
  exact ⟨_, ran, rfl, rfl, rfl, rfl, rfl, fun k inside => tabGet_memErase_inside norBlank _ _ _ _ ⟨by omega, by omega⟩⟩

theorem hlStageOpen_busy (busy : s.seed.wait ≠ .idle ∨ (s.seed.open_ = true ∧ s.seed.source ≠ 1)) :
    OnlyAnswers .hlStageOpen { code := 4 } s := by
  have ran : exec .hlStageOpen s = .next (stageLine (stageOpenOp 1 none s)) :=
    onResident_open runs unlocked opens fun s => stageLine (stageOpenOp 1 none s)
  rw [stageOpenOp, if_pos busy] at ran
  exact onlyAnswers_hldAnswer ran

/-- Without its own session a command is carried out silently (R8). -/
theorem noSession_answers (none : holdsStage s 1 = false) (err : Bool) :
    OnlyAnswers (.hlStageCheck err) {} s ∧ OnlyAnswers .hlStageActivate {} s ∧ OnlyAnswers .hlStageAbort {} s := by
  have silent : ∀ act, inHldSession act s = hldOk s := fun act => if_neg (by rw [none]; exact Bool.false_ne_true)
  have ran := fun act => (onResident_open runs unlocked opens (inHldSession act)).trans (congrArg _ (silent act))
  exact ⟨onlyAnswers_hldAnswer (ran _), onlyAnswers_hldAnswer (ran _), onlyAnswers_hldAnswer (ran _)⟩

variable (holds : holdsStage s 1 = true)
include holds

/-- With its own session a command is the operation it names. -/
theorem onSession_runs (act : State → State) : onResident stageOpenTo (inHldSession act) s = .next (act s) :=
  (onResident_open runs unlocked opens _).trans (congrArg _ (if_pos holds))

theorem hlStageAbort_closes :
    ∃ s', Answers .hlStageAbort {} s s' ∧ s'.seed.open_ = false ∧ s'.seed.source = 0 := by
  have ran : exec .hlStageAbort s = .next (hldOk (endStaging (eraseStaging s))) := onSession_runs runs unlocked opens holds _
  exact ⟨_, answers_ok ran rfl, rfl, rfl⟩

theorem hlStageActivate_busy (unchecked : s.seed.result ≠ 1 ∨ s.seed.checkedLast = false) :
    OnlyAnswers .hlStageActivate { code := 4 } s := by
  have ran : exec .hlStageActivate s = .next (stageLine (stageActivateOp none s)) := onSession_runs runs unlocked opens holds _
  rw [stageActivateOp, if_pos (.inr unchecked)] at ran
  exact onlyAnswers_hldAnswer ran

variable (idle : s.seed.wait = .idle)
include idle

theorem hlStageWrite_writes {off len : Nat} (least : 4 ≤ len) (most : len ≤ 512) (aligned : off % 4 = 0)
    (inside : off + len ≤ seedAreaLen) (none : s.seed.written = []) :
    ∃ s', Answers (.hlStageWrite off len) {} s s' ∧ s'.hld.buf = 0 ∧ s'.seed.checkedLast = false ∧
      (∀ k, k < len → tabGet norBlank s'.mem.store (stagingBase + off + k) = byteAt s.hld.buf k) ∧
      ∀ k, k < stagingBase + off ∨ stagingBase + off + len ≤ k →
        tabGet norBlank s'.mem.store k = tabGet norBlank s.mem.store k := by
  have form : stageWriteFormOk off len = true := decide_eq_true ⟨least, by omega, aligned, inside⟩
  have length : (hldBuf s 0 len).length = len := by simp [hldBuf, bytesOf]
  have ran : exec (.hlStageWrite off len) s = .next (stageLine (stageWriteOp off (hldBuf s 0 len) (zeroBuf s))) := by
    rw [exec_hlStageWrite, execHlStageWrite, onResident_open runs unlocked opens, hlWriteOp, form,
      decide_eq_false (Nat.not_lt.2 most)]
    exact congrArg Host.Outcome.next (if_pos holds)
  obtain ⟨written, stored⟩ := stageWriteOp_fresh (s := zeroBuf s) idle none off (hldBuf s 0 len)
  rw [stored] at ran
  refine ⟨_, answers_ok ran rfl, rfl, rfl, fun k lt => ?_, fun k outside => ?_⟩
  · have read := tabGet_memStore_inside norBlank s.mem.store (stagingBase + off) k (hldBuf s 0 len) (by omega)
    refine read.trans ?_
    simp [hldBuf, bytesOf]
  · exact tabGet_memStore_outside norBlank _ _ _ _ (by rw [length]; exact outside)

theorem hlStageCheck_judges (err : Bool) :
    ∃ s', Answers (.hlStageCheck err) {} s s' ∧ s'.mem = s.mem ∧ s'.seed.checkedLast = true ∧
      s'.seed.result = (if seedCode s stagingBase err = 0 then 1 else 2) := by
  have ran : exec (.hlStageCheck err) s = .next (stageLine (stageCheckOp err s)) := onSession_runs runs unlocked opens holds _
  rw [stageCheckOp_idle idle] at ran
  exact ⟨_, answers_ok ran rfl, rfl, rfl, rfl⟩

theorem hlStageActivate_copies (passed : s.seed.result = 1) (last : s.seed.checkedLast = true) :
    ∃ s', exec .hlStageActivate s = .next s' ∧ s'.hld.answers = s.hld.answers ∧
      s'.seed.wait = .copying none (if limpReason s 1 then false else !s.seed.slot) := by
  have ran : exec .hlStageActivate s = .next (stageLine (stageActivateOp none s)) := onSession_runs runs unlocked opens holds _
  rw [stageActivateOp_passed idle passed last] at ran
  exact ⟨_, ran, rfl, rfl⟩

end

end Sys2Proof.Machine
end

section
/-! PROOFS. Repair and the vault from the Headland (R79, R183, R242, R444, R484): a channel reset leaves every channel's
retirement as it was, an unretired channel's bit clears. -/

namespace Sys2Proof.Machine

/-! ### A bit cleared -/

theorem setBit_clear {w : Nat} (x : BitVec w) {k : Nat} (h : k < w) :
    setBits x k 1 0 = x &&& ~~~BitVec.twoPow w k := by
  have parts : (x &&& ~~~BitVec.twoPow w k) + (x &&& BitVec.twoPow w k) = x := by
    rw [BitVec.add_eq_or_of_and_eq_zero]
    all_goals ext i lt; simp only [BitVec.getElem_or, BitVec.getElem_and, BitVec.getElem_not, BitVec.getElem_zero]
    all_goals cases x[i] <;> simp
  have bit : (x &&& BitVec.twoPow w k).toNat = x.toNat &&& (2 ^ 1 - 1) <<< k := by
    rw [BitVec.toNat_and, BitVec.toNat_twoPow_of_lt h, Nat.shiftLeft_eq]; simp
  have within : x &&& BitVec.twoPow w k ≤ x := by
    rw [BitVec.le_def, BitVec.toNat_and]; exact Nat.and_le_left
  calc setBits x k 1 0
    _ = BitVec.ofNat w (x.toNat - (x &&& BitVec.twoPow w k).toNat) := by simp [setBits, bit]
    _ = x - (x &&& BitVec.twoPow w k) := by rw [← BitVec.toNat_sub_of_le within, BitVec.ofNat_toNat, BitVec.setWidth_eq]
    _ = _ := (eq_sub_iff_add_eq.2 parts).symm

theorem setBit_clear_getLsbD {w : Nat} (x : BitVec w) {k : Nat} (h : k < w) (j : Nat) :
    (setBits x k 1 0).getLsbD j = (decide (j ≠ k) && x.getLsbD j) := by
  rw [setBit_clear x h, BitVec.getLsbD_and, BitVec.getLsbD_not, BitVec.getLsbD_twoPow]
  by_cases inside : j < w
  · by_cases e : j = k
    · simp [e, h]
    · simp [e, Ne.symm e, inside]
  · simp [BitVec.getLsbD_of_ge x j (Nat.not_lt.1 inside)]

/-! ### Retirement stays through a channel reset (R183) -/

theorem pump_retired (f : Nat) (s : State) : (pump f s).chs.retired = s.chs.retired := pumpGrants_retired ..

theorem setChan_retired (s : State) (n : Chan) (c : Channel) : (setChan s n c).chs.retired = s.chs.retired := rfl

theorem dropReply_retired (n : Chan) (s : State) : (dropReply n s).chs.retired = s.chs.retired := by
  unfold dropReply; dsimp only
  split
  · rfl
  · split <;> rfl

theorem abandonRx_retired (n : Chan) (s : State) : (abandonRx n s).chs.retired = s.chs.retired := by
  unfold abandonRx; dsimp only
  split <;> rfl

theorem dropChwr_retired (i : ChwrItem) (s : State) : (dropChwr i s).chs.retired = s.chs.retired := by
  cases i <;> rfl

theorem dropEvent_retired (e : ChEvent) (s : State) : (dropEvent e s).chs.retired = s.chs.retired := rfl

theorem purgeQueues_retired (n : Chan) (s : State) : (purgeQueues n s).chs.retired = s.chs.retired := by
  unfold purgeQueues; dsimp only
  rw [settleChwr_retired, foldl_retired fun s i => crossCells_retired i s, foldl_retired fun s i => dropChwr_retired i s]
  simp only [qPurge_same, setChwr]
  rw [foldl_retired fun s e => dropEvent_retired e s]
  simp [setChev]

theorem cancelDesc_leavesRetired (d : Fin 1024) (status : Byte) (s : State) :
    (cancelDesc d status s).chs.retired = s.chs.retired := by
  rw [cancelDesc, releaseDesc_retired, setDesc_passTurn_chs]

theorem cancelChannelTasks_retired (n : Chan) (s : State) : (cancelChannelTasks n s).chs.retired = s.chs.retired := by
  unfold cancelChannelTasks
  rw [foldl_retired]
  intro s d
  dsimp only
  split
  · exact cancelDesc_leavesRetired ..
  · rfl

theorem dropGrants_retired (n : Chan) (s : State) : (dropGrants n s).chs.retired = s.chs.retired := rfl

theorem quietChannel_retired (n : Chan) (s : State) : (quietChannel n s).chs.retired = s.chs.retired := by
  unfold quietChannel; dsimp only
  rw [dropGrants_retired, setChan_retired, cancelChannelTasks_retired, dropGrants_retired, setChan_retired, abandonRx_retired,
    purgeQueues_retired, dropReply_retired]

theorem takeDrive_retired (n : Chan) (s : State) : (takeDrive n s).chs.retired = s.chs.retired := rfl

theorem resetChannel_retired (n : Chan) (s : State) : (resetChannel n s).chs.retired = s.chs.retired := by
  unfold resetChannel; dsimp only
  rw [foldl_retired fun s k => pump_retired _ s]
  simp only [ite_chs, setStrobe_same, ite_self]
  rw [foldl_retired fun s k => (takeDrive_retired k _).trans (setChan_retired s k _),
    foldl_retired fun s k => quietChannel_retired k s]

/-! ### UNRETIRE (R242) -/

theorem mem_group (s : State) (n : Chan) : n ∈ group s n := by
  have : n = evenOf n ∨ n = oddOf n := by
    rcases Nat.mod_two_eq_zero_or_one n.val with even | odd
    · exact .inl (Fin.ext (by simp [evenOf, even]))
    · exact .inr (Fin.ext (by simp [oddOf, odd]; omega))
  unfold group
  split
  · simpa using this
  · exact List.mem_singleton_self n

/-- A pair lies within one furrow. -/
theorem furrowOf_of_mem_group {s : State} {n k : Chan} (h : k ∈ group s n) : furrowOf k = furrowOf n := by
  have pair : k = n ∨ k = evenOf n ∨ k = oddOf n := by
    unfold group at h
    split at h
    · exact .inr (by simpa using h)
    · exact .inl (List.mem_singleton.1 h)
  rcases pair with rfl | rfl | rfl
  · rfl
  · exact Fin.ext (show (n.val - n.val % 2) / 4 = n.val / 4 by omega)
  · exact Fin.ext (show (n.val - n.val % 2 + 1) / 4 = n.val / 4 by omega)

/-- One channel's bit cleared and its entry logged. -/
def unretireOne (s : State) (k : Chan) : State :=
  fwLog 2 ([BitVec.ofNat 8 k.val, 0, 0, 0] ++ bytesOf s.seed.digest 0 8)
    { s with chs := { s.chs with retired := setBits s.chs.retired k.val 1 0 } }

theorem isRetired_unretireOne (s : State) (k m : Chan) :
    isRetired (unretireOne s k) m = (decide (m ≠ k) && isRetired s m) := by
  have chs : (unretireOne s k).chs.retired = setBits s.chs.retired k.val 1 0 := by simp [unretireOne]
  rw [isRetired, chs, setBit_clear_getLsbD _ k.isLt, isRetired]
  simp [Fin.ext_iff]

theorem isRetired_foldl_unretireOne (l : List Chan) (s : State) (m : Chan) :
    isRetired (l.foldl unretireOne s) m = (decide (m ∉ l) && isRetired s m) := by
  induction l generalizing s with
  | nil => simp
  | cons k l ih =>
    rw [List.foldl_cons, ih, isRetired_unretireOne]
    by_cases e : m = k <;> simp [e]

theorem unretireChannel_eq (n : Chan) (s : State) :
    unretireChannel n s = resetChannel n (requestFold ((group s n).foldl unretireOne s)) := rfl

/-- The channels of the group are back in service, and no other's retirement changes. -/
theorem isRetired_unretireChannel (n m : Chan) (s : State) :
    isRetired (unretireChannel n s) m = (decide (m ∉ group s n) && isRetired s m) := by
  rw [unretireChannel_eq, isRetired, resetChannel_retired, ← isRetired_foldl_unretireOne, isRetired]
  simp

theorem isRetired_hldOk (s : State) (m : Chan) : isRetired (hldOk s) m = isRetired s m := rfl

/-! ### The commands under scope REPAIR -/

/-- Service's end closes what a certificate opened; it answers no line. -/
theorem resumeThread_answers (t : Thread) (s : State) : (resumeThread t s).hld.answers = s.hld.answers := by
  unfold resumeThread; dsimp only
  (repeat' split) <;> simp [clearHalt]

theorem foldl_resumeThread_answers (l : List Thread) (s : State) :
    (l.foldl (fun s t => resumeThread t s) s).hld.answers = s.hld.answers := by
  induction l generalizing s with
  | nil => rfl
  | cons t l ih => rw [List.foldl_cons, ih, resumeThread_answers]

theorem endService_answers (s : State) : (endService s).hld.answers = s.hld.answers := by
  unfold endService
  split
  · rfl
  · simp only [enterMode_same, closeScope, foldl_resumeThread_answers]
    split <;> rfl

theorem bkpReset_answers (cause : BitVec 2) (s : State) : (bkpReset cause s).hld.answers = s.hld.answers := by
  rw [bkpReset_eq, endService_answers]; rfl

section
variable {s : State} (runs : residentRuns s = true) (unlocked : s.sys.mode ≠ Mode.lockdown) (repair : granted s 6 = true)
include runs unlocked repair

theorem exec_unretire_granted (n : Chan) :
    exec (.unretire n) s = .next (hldOk (if isRetired s n = true then unretireChannel n s else s)) := by
  obtain ⟨service, scope⟩ : s.sys.mode = Mode.service ∧ scopeHas s 6 = true := by simpa [granted] using repair
  rw [exec_unretire, execUnretire, onResident_open runs unlocked repair, unretireWrite]
  simp [service, scope, isEncl]

theorem unretire_returns {n : Chan} (retired : isRetired s n = true) :
    ∃ s', Answers (.unretire n) {} s s' ∧ isRetired s' n = false ∧
      ∀ m, furrowOf m ≠ furrowOf n → isRetired s' m = isRetired s m := by
  have ran := exec_unretire_granted runs unlocked repair n
  rw [if_pos retired] at ran
  refine ⟨_, answers_ok ran (by simp), ?_, fun m apart => ?_⟩
  · rw [isRetired_hldOk, isRetired_unretireChannel]
    simp [mem_group s n]
  · have outside : m ∉ group s n := fun inGroup => apart (furrowOf_of_mem_group inGroup)
    rw [isRetired_hldOk, isRetired_unretireChannel]
    simp [outside]

theorem unretire_nothing {n : Chan} (inService : isRetired s n = false) : OnlyAnswers (.unretire n) {} s := by
  have ran := exec_unretire_granted runs unlocked repair n
  rw [if_neg (by simp [inService])] at ran
  exact onlyAnswers_hldAnswer ran

theorem bkprst_resets : ∃ s', Answers .bkprst {} s s' ∧ BackupReset 3 s s' ∧ s'.sys.mode = s.sys.serviceFrom ∧ s'.hld.scope = 0 := by
  obtain ⟨service, -⟩ : s.sys.mode = Mode.service ∧ scopeHas s 6 = true := by simpa [granted] using repair
  have ran : exec .bkprst s = .next (hldOk (bkpReset 3 s)) := by
    rw [exec_bkprst, execBkprst, onResident_open runs unlocked repair]
  obtain ⟨cause, cal, alarms, share, mask, low, held, intrusion, first, sensors, safe, witness, pend, time, -⟩ := bkpReset_done 3 s
  exact ⟨_, answers_ok ran (bkpReset_answers 3 s), ⟨cause, cal, alarms, share, mask, low, held, intrusion, first, sensors, safe,
    witness, pend, time, fun other => absurd service other⟩, bkpReset_leaves service 3⟩

end

/-! ### The vault (R444, R484) -/

section
variable {s : State} (runs : residentRuns s = true) (unlocked : s.sys.mode ≠ Mode.lockdown) (vault : granted s 7 = true)
include runs unlocked vault

theorem vault_malformed {op : Byte} {inlen auxlen : Nat} (bad : vaultFormOk op.toNat inlen auxlen = false) (o : BitVec 6)
    (ok : Bool) : OnlyAnswers (.vault op o inlen auxlen ok) { code := 1 } s := by
  refine onlyAnswers_hldAnswer ?_
  rw [exec_vault, execVault, onResident_open runs unlocked vault, vaultOp, bad]
  rfl

/-- The request that VAULT makes of its operands and the buffer. -/
def vaultJob (s : State) (op : Byte) (o : BitVec 6) (inlen auxlen : Nat) : GrnJob :=
  headlandJob op.toNat (if op = 0x31 ∧ inlen ≠ 0 then 6 else 2) o.toNat (hldBuf s 0 320) (hldBuf s 320 inlen)
    (hldBuf s (320 + inlen) auxlen)

variable {op : Byte} {inlen auxlen : Nat} (form : vaultFormOk op.toNat inlen auxlen = true)
include form

theorem exec_vault_formed (o : BitVec 6) (ok : Bool) : exec (.vault op o inlen auxlen ok) s = .next
    (hldGranary (vaultJob s op o inlen auxlen) ok (fun s r => [r.verdict.toNat, s.grn.reason.toNat]) (bufTaken s)) := by
  rw [exec_vault, execVault, onResident_open runs unlocked vault, vaultOp, form]
  rfl

/-- A Granary that is not READY answers BUSY. -/
theorem vault_busy (notReady : s.grn.ready = false) (o : BitVec 6) (ok : Bool) :
    ∃ s', Answers (.vault op o inlen auxlen ok) { code := 4 } s s' ∧ s'.grn = s.grn := by
  have ran := exec_vault_formed runs unlocked vault form o ok
  have shut : (bufTaken s).grn.ready = false := notReady
  rw [hldGranary, shut] at ran
  exact ⟨_, ⟨ran, rfl, rfl⟩, rfl⟩

theorem vault_performs (ready : s.grn.ready = true) (serves : granaryServes s = true) (room : s.grn.grq.length < 32)
    (o : BitVec 6) {ok : Bool} {r : GrnResult} {s1 : State} (work : runJob (vaultJob s op o inlen auxlen) ok (bufTaken s) = (r, s1))
    (done : r.status = 0) :
    ∃ s', Answers (.vault op o inlen auxlen ok) { values := [r.verdict.toNat, s1.grn.reason.toNat], bytes := r.out } s s' ∧
      s'.mem = s1.mem ∧ s'.hld.buf = 0 ∧ s'.grn.cmds = satInc s1.grn.cmds := by
  have open_ : (!(bufTaken s).grn.ready || !granaryServes (bufTaken s) || decide (32 ≤ (bufTaken s).grn.grq.length)) = false := by
    show (!s.grn.ready || !granaryServes s || decide (32 ≤ s.grn.grq.length)) = false
    simp [ready, serves, room]
  have ran := exec_vault_formed runs unlocked vault form o ok
  rw [hldGranary, open_, work] at ran
  simp only [done] at ran
  have hld : s1.hld = (bufTaken s).hld := by rw [snd_of work]; simp
  refine ⟨_, ⟨ran, rfl, ?_⟩, rfl, ?_, rfl⟩
  · exact congrArg (·.answers + 1) hld
  · exact congrArg (·.buf) hld

end

end Sys2Proof.Machine
end

section
/-! PROOFS. The TAP's accesses and BRK's halt (R314, R485, R490 to R492), and the Headland's operations as a whole. -/

namespace Sys2Proof.Machine

/-! ### A word read from SRAM -/

theorem accessRead_sram {s : State} {r : Req} {a : Word} {w : Width} (hg : guardLets s r permR a.toNat w.bytes = true)
    (hs : inSram a.toNat w.bytes = true) : accessRead r a w s = (ofBytes 32 (sramRead s a.toNat w.bytes), s) := by
  have hm := mapped_of_inSram (width_bytes_pos w) hs
  obtain ⟨lo, hi⟩ := inSram_bounds hs
  have rom : ¬ a.toNat ≤ 0x7FFF := by omega
  have flash : inFlash a.toNat w.bytes = false := decide_eq_false (by omega)
  simp [accessRead, hm, rom, hg, flash, hs]

/-! ### DBGACC (R491, R492) -/

theorem exec_dbgacc_granted {s : State} (main : mainOn s = true) (tap : granted s 4 = true) (op : BitVec 2) (data a : Word) :
    exec (.dbgacc op data a) s = .next (tapOp op data a s) := by
  rw [exec_dbgacc, execDbgacc, main, tap]; rfl

/-- Without TAP granted the transaction is nothing. -/
theorem exec_dbgacc_bypass {s : State} (tap : granted s 4 = false) (op : BitVec 2) (data a : Word) :
    exec (.dbgacc op data a) s = .next s := by
  rw [exec_dbgacc, execDbgacc, tap, Bool.and_false]; rfl

/-- The transaction's crossing changes the counters of TAPQ, and the guard decides as before. -/
theorem guardLets_crossing (s : State) (perm : BitVec 3) (a n : Nat) :
    guardLets (qPass 107 s) .tap perm a n = guardLets s .tap perm a n :=
  guardLets_congr (by simp) (by simp [isEncl]) ..

theorem guardLets_setTap (s : State) (data : Word) (status : BitVec 2) (perm : BitVec 3) (a n : Nat) :
    guardLets (setTap data status s) .tap perm a n = guardLets s .tap perm a n :=
  guardLets_congr (by simp [setTap]) (by simp [isEncl, setTap]) ..

section
variable {s : State} {a : Word}

theorem tapOp_read (data : Word) (read : scopeHas s 0 = true) (aligned : a.toNat % 4 = 0) (sram : inSram a.toNat 4 = true)
    (lets : guardLets s .tap permR a.toNat 4 = true) :
    tapOp 1 data a s = setTap (ofBytes 32 (sramRead s a.toNat 4)) 0 (qPass 107 s) := by
  have got := accessRead_sram (w := .word) ((guardLets_crossing s permR a.toNat 4).trans lets) sram
  show (if !scopeHas s 0 then _ else _) = _
  rw [read, if_neg (by decide), if_neg (by simp [aligned]), got]
  rfl

theorem tapOp_write (data : Word) (poke : scopeHas s 1 = true) (aligned : a.toNat % 4 = 0) :
    tapOp 2 data a s = accessWrite .tap a .word data (setTap s.hld.tapData 0 (qPass 107 s)) := by
  show (if !scopeHas s 1 then _ else _) = _
  rw [poke, if_neg (by decide), if_neg (by simp [aligned])]

theorem tapOp_closed (data : Word) : (scopeHas s 0 = false → tapOp 1 data a s = setTap s.hld.tapData 2 s) ∧
    (scopeHas s 1 = false → tapOp 2 data a s = setTap s.hld.tapData 2 s) := by
  refine ⟨fun noRead => ?_, fun noPoke => ?_⟩
  · show (if !scopeHas s 0 then _ else _) = _
    rw [noRead]; rfl
  · show (if !scopeHas s 1 then _ else _) = _
    rw [noPoke]; rfl

end

/-! What the transaction leaves (R491, R492). -/

theorem setTap_frame (data : Word) (status : BitVec 2) {s s1 : State} (same : SameBut_clk s s1) :
    setTap data status s1 = { s with hld := (setTap data status s1).hld, clk := (setTap data status s1).clk } := by
  rw [eq_of_clk same]; rfl

theorem sramBut_of_mem {a n : Nat} {s0 s s' : State} (same : s0.mem = s.mem) (only : SramBut a n s0 s') : SramBut a n s s' := by
  obtain ⟨mem, bytes⟩ := only
  exact ⟨mem.trans (by rw [same]), fun k outside => (bytes k outside).trans (by rw [sramByte, sramByte, same])⟩

section
variable {s : State} {a : Word} (main : mainOn s = true) (tap : granted s 4 = true) (data : Word)
include main tap

theorem dbgacc_reads (read : scopeHas s 0 = true) (aligned : a.toNat % 4 = 0) (sram : inSram a.toNat 4 = true)
    (lets : guardLets s .tap permR a.toNat 4 = true) :
    ∃ s', exec (.dbgacc 1 data a) s = .next s' ∧ s'.hld.tapData.toNat = sramWordAt s a.toNat ∧ s'.hld.tapStatus = 0 ∧
      s' = { s with hld := s'.hld, clk := s'.clk } := by
  have ran := (exec_dbgacc_granted main tap 1 data a).trans (congrArg _ (tapOp_read data read aligned sram lets))
  exact ⟨_, ran, rfl, rfl, setTap_frame _ _ (qPass_same 107 s)⟩

theorem dbgacc_writes (poke : scopeHas s 1 = true) (aligned : a.toNat % 4 = 0) (sram : inSram a.toNat 4 = true)
    (lets : guardLets s .tap permW a.toNat 4 = true) :
    ∃ s', exec (.dbgacc 2 data a) s = .next s' ∧ sramRead s' a.toNat 4 = bytesOf data 0 4 ∧ SramBut a.toNat 4 s s' ∧
      s'.hld.tapStatus = 0 := by
  have letsCrossed : guardLets (setTap s.hld.tapData 0 (qPass 107 s)) .tap permW a.toNat 4 = true := by
    rw [guardLets_setTap, guardLets_crossing, lets]
  obtain ⟨word, only, frame⟩ := accessWrite_sram_word letsCrossed sram data
  refine ⟨_, (exec_dbgacc_granted main tap 2 data a).trans (congrArg _ (tapOp_write data poke aligned)), word,
    sramBut_of_mem (by simp [setTap]) only, ?_⟩
  rw [frame]; rfl

theorem dbgacc_closed : (scopeHas s 0 = false → exec (.dbgacc 1 data a) s = .next { s with hld := { s.hld with tapStatus := 2 } }) ∧
    (scopeHas s 1 = false → exec (.dbgacc 2 data a) s = .next { s with hld := { s.hld with tapStatus := 2 } }) := by
  obtain ⟨noRead, noPoke⟩ := tapOp_closed (s := s) (a := a) data
  exact ⟨fun h => (exec_dbgacc_granted main tap 1 data a).trans (congrArg _ (noRead h)),
    fun h => (exec_dbgacc_granted main tap 2 data a).trans (congrArg _ (noPoke h))⟩

end

/-! ### An interrupt taken (R285 to R290) -/

/-- With nothing to abandon the interrupt meets the next instruction. -/
theorem abandon_settled {s : State} {t : Thread} (settled : (thr s t).outstanding = none) : abandon t s = (pcOf s t, s) := by
  have filled : fillLoad t s = s := by simp [fillLoad, settled]
  simp [abandon, filled, settled]

/-- The start of interrupt `k` in a world, with nothing to abandon. -/
def interruptStart (t : Thread) (k : Nat) (encl : Bool) (s : State) : State :=
  let s := saveStatus t (pcOf s t) (settleForeign t s)
  let x := thr s t
  enterHandler t encl (8 + k) (setThr s t { x with ext := { x.ext with ipend := setBits x.ext.ipend k 1 0 }, debug := decide (k = 4) })

theorem thr_clearShadow (t u : Thread) (c : Nat) (s : State) : thr (clearShadow t c s) u = thr s u := rfl

theorem entryAddr_setThr (s : State) (t : Thread) (x : Thr) (e : Bool) (j : Nat) :
    entryAddr (setThr s t x) e j = entryAddr s e j := rfl
theorem entryAddr_clearShadow (t : Thread) (c : Nat) (s : State) (e : Bool) (j : Nat) :
    entryAddr (clearShadow t c s) e j = entryAddr s e j := rfl

theorem interruptStart_other {t u : Thread} (h : u ≠ t) (k : Nat) (encl : Bool) (s : State) :
    thr (interruptStart t k encl s) u = thr s u := by
  simp only [interruptStart, enterHandler, thr_clearShadow, saveStatus, settleForeign, thr_setThr_other _ h]

/-- The thread in its handler, everything else of it as before. -/
theorem interruptStart_thr (t : Thread) (k : Nat) (encl : Bool) (s : State) :
    let x := thr (interruptStart t k encl s) t
    x.debug = decide (k = 4) ∧ x.inInt = true ∧ x.run = .running ∧ x.pc = entryAddr s encl (8 + k) ∧
    x.ext.now.epc = pcOf s t ∧ x.task = (thr s t).task ∧ x.ext.ipend = setBits (thr s t).ext.ipend k 1 0 ∧
    x.commons = (thr s t).commons ∧ x.encl = (thr s t).encl := by
  simp [interruptStart, enterHandler, thr_clearShadow, entryAddr_clearShadow, entryAddr_setThr, saveStatus, settleForeign]

/-- An interrupt that is due starts where nothing holds it: its world's lines loaded, its code not halted, its thread past
a task's start and with nothing to abandon. The start meets the threads as they are, the divider alone released. -/
theorem interruptOp_starts {s : State} {t : Thread} {k : Nat} (due : deliverable s t = some k)
    (loaded : linesLoading s (intEncl s t k) = false) (free : enclFree s = true) (started : (thr s t).starting = false)
    (settled : (thr s t).outstanding = none) :
    ∃ s0, interruptOp t s = crossDebug t (inEncl s t) (interruptStart t k (intEncl s t k) s0) ∧ s0.hld = s.hld ∧
      (∀ u, thr s0 u = thr s u) ∧ (∀ e j, entryAddr s0 e j = entryAddr s e j) := by
  have go : (linesLoading s (intEncl s t k) || (intEncl s t k && !enclFree s) || starting s t) = false := by
    simp [loaded, free, starting, started]
  unfold interruptOp
  rw [due]
  dsimp only
  rw [go, if_neg (by decide), abandon_settled settled]
  dsimp only
  split
  · exact ⟨_, rfl, rfl, fun _ => rfl, fun _ _ => rfl⟩
  · exact ⟨s, rfl, rfl, fun _ => rfl, fun _ _ => rfl⟩

/-! ### BRK under scope HALT (R314, R490) -/

/-- The thread as BRK halts it: past the instruction, DEBUG pending. -/
def brkHalted (t : Thread) (s : State) : State := haltThread t (advance t (issue t s))

section
variable {s : State} {t : Thread}

theorem thr_issue_same (s : State) (t : Thread) : thr (issue t s) t = { thr s t with outstanding := none, starting := false } := by
  simp [issue, settleStart, settleDone]

theorem modeLets_issue (s : State) (t : Thread) : modeLets (issue t s) t = modeLets s t := by
  simp [modeLets, issue, settleStart, settleDone]

/-- The vectors of the worlds and the loading of their lines are no part of an issue. -/
theorem vectors_issue (s : State) (t : Thread) :
    (issue t s).cores.vbaseE = s.cores.vbaseE ∧ (issue t s).cores.loadingE = s.cores.loadingE := by
  simp [issue, settleStart, settleDone, setThr, setCore]

theorem modeLets_advance (s : State) (t u : Thread) : modeLets (advance t s) u = modeLets s u := rfl
theorem modeLets_setHld (s : State) (h : HeadlandState) (u : Thread) : modeLets { s with hld := h } u = modeLets s u := rfl
theorem modeLets_setIpend (s : State) (t u : Thread) (k : Nat) : modeLets (setIpend t k s) u = modeLets s u := rfl

theorem thr_advance_same (s : State) (t : Thread) :
    thr (advance t s) t = { thr s t with pc := pcOf s t + 4 } := by
  have word : (pcOf s t + 4) &&& ~~~3#32 = pcOf s t + 4 := wordAddr_add4 _
  rw [advance, setPc, word, thr_setThr_same]

theorem thr_setIpend_same (t : Thread) (k : Nat) (s : State) :
    thr (setIpend t k s) t = { thr s t with ext := { (thr s t).ext with ipend := setBits (thr s t).ext.ipend k 1 1 } } :=
  thr_setThr_same ..

theorem haltThread_raises {s : State} {t : Thread} (clear : s.hld.halt.getLsbD t.val = false) :
    haltThread t s = setIpend t 4 { s with hld := { s.hld with halt := setBits s.hld.halt t.val 1 1 } } := by
  rw [haltThread, clear]; rfl

theorem exec_brk_halts (runs : canRun s t = true) (halt : scopeHas s 3 = true) (imm : Half) :
    exec (.brk t imm) s = .next (interruptOp t (brkHalted t s)) := by
  have scope : scopeHas (issue t s) 3 = true := by simpa [scopeHas] using halt
  rw [exec_brk, execBrk, onThread_runs runs, brkOp, scope]
  rfl

variable (clear : s.hld.halt.getLsbD t.val = false)
include clear

theorem brkHalted_eq : brkHalted t s = setIpend t 4
    { advance t (issue t s) with hld := { s.hld with halt := setBits s.hld.halt t.val 1 1 } } := by
  have same : (advance t (issue t s)).hld = s.hld := by simp
  rw [brkHalted, haltThread_raises (by rw [same, clear]), same]

theorem brkHalted_thr : thr (brkHalted t s) t = { thr s t with
    outstanding := none, starting := false, pc := pcOf s t + 4
    ext := { (thr s t).ext with ipend := setBits (thr s t).ext.ipend 4 1 1 } } := by
  rw [brkHalted_eq clear]
  have past : thr { advance t (issue t s) with hld := { s.hld with halt := setBits s.hld.halt t.val 1 1 } } t =
      { thr s t with outstanding := none, starting := false, pc := pcOf s t + 4 } := by
    show thr (advance t (issue t s)) t = _
    rw [thr_advance_same, thr_issue_same, pcOf_issue]
  rw [thr_setIpend_same, past]

theorem brkHalted_other {u : Thread} (h : u ≠ t) : thr (brkHalted t s) u = thr s u := by
  rw [brkHalted_eq clear, thr_setIpend_other _ h]
  exact (thr_advance_other _ h).trans (thr_issue_other _ h)

theorem homeEncl_brkHalted (u : Thread) : homeEncl (brkHalted t s) u = homeEncl s u := by
  rw [brkHalted_eq clear, homeEncl_setIpend]
  simp [homeEncl]

theorem brkHalted_deliverable (runs : canRun s t = true) (inTask : (thr s t).inInt = false)
   (enabled : intEnabled s t 4 = true) : deliverable (brkHalted t s) t = some 4 := by
  obtain ⟨running, main, lets⟩ : (thr s t).run = .running ∧ mainOn s = true ∧ modeLets s t = true := by
    simp only [canRun, Bool.and_eq_true, decide_eq_true_eq] at runs; tauto
  have mainHalted : mainOn (brkHalted t s) = true := by rw [brkHalted_eq clear]; simpa [mainOn] using main
  have letsHalted : modeLets (brkHalted t s) t = true := by
    rw [brkHalted_eq clear, modeLets_setIpend, modeLets_setHld, modeLets_advance, modeLets_issue, lets]
  have enabledHalted : intEnabled (brkHalted t s) t 4 = true := by
    rw [intEnabled, brkHalted_thr clear, homeEncl_brkHalted clear]; exact enabled
  have pending : (thr (brkHalted t s) t).ext.ipend.getLsbD 4 = true := by
    rw [brkHalted_thr clear]; exact setBits_getLsbD _ (by decide)
  simp only [deliverable, mainHalted, letsHalted]
  rw [brkHalted_thr clear] at pending ⊢
  simp [inTask, running, pending, enabledHalted, intWorld]

theorem vectors_brkHalted :
    (brkHalted t s).cores.vbaseE = s.cores.vbaseE ∧ (brkHalted t s).cores.loadingE = s.cores.loadingE := by
  rw [brkHalted_eq clear]; exact vectors_issue s t

theorem brkHalted_starts (runs : canRun s t = true) (inTask : (thr s t).inInt = false) (free : enclFree s = true)
    (loaded : s.cores.loadingE = false) (enabled : intEnabled s t 4 = true) :
    ∃ s0 before, interruptOp t (brkHalted t s) = crossDebug t before (interruptStart t 4 true s0) ∧
      s0.hld = (brkHalted t s).hld ∧ (∀ u, thr s0 u = thr (brkHalted t s) u) ∧
      entryAddr s0 true 12 = s.cores.vbaseE + 384 := by
  obtain ⟨vectors, lines⟩ := vectors_brkHalted clear
  have freeHalted : enclFree (brkHalted t s) = true := by
    rw [brkHalted_eq clear]; simpa [enclFree, limpReason] using free
  obtain ⟨s0, takes, hld, threads, entry⟩ := interruptOp_starts (brkHalted_deliverable clear runs inTask enabled)
    (lines.trans loaded) freeHalted (by rw [brkHalted_thr clear]) (by rw [brkHalted_thr clear])
  exact ⟨s0, _, takes, hld, threads, (entry true 12).trans (congrArg (· + 384#32) vectors)⟩

/-- BRK halts its thread in the DEBUG handler, at the instruction after it. -/
theorem brk_halts (runs : canRun s t = true) (inTask : (thr s t).inInt = false) (halt : scopeHas s 3 = true)
    (free : enclFree s = true) (loaded : s.cores.loadingE = false) (enabled : intEnabled s t 4 = true) (imm : Half) :
    ∃ s', exec (.brk t imm) s = .next s' ∧ (thr s' t).debug = true ∧ (thr s' t).inInt = true ∧ (thr s' t).run = .running ∧
      (thr s' t).pc = s.cores.vbaseE + 384 ∧ (thr s' t).ext.now.epc = pcOf s t + 4 ∧ (thr s' t).task = (thr s t).task ∧
      s'.hld.halt.getLsbD t.val = true ∧ (thr s' t).ext.ipend.getLsbD 4 = false ∧ SameRegs t s s' ∧
      ∀ u, u ≠ t → thr s' u = thr s u := by
  obtain ⟨s0, before, takes, hld, threads, entry⟩ := brkHalted_starts clear runs inTask free loaded enabled
  have crossed : ∀ u, thr (crossDebug t before (interruptStart t 4 true s0)) u = thr (interruptStart t 4 true s0) u :=
    fun u => by simp [thr]
  have at0 : pcOf s0 t = pcOf s t + 4 := by
    rw [pcOf, threads, brkHalted_thr clear]; exact wordAddr_add4 _
  have kept : (crossDebug t before (interruptStart t 4 true s0)).hld = (brkHalted t s).hld := by
    simpa [interruptStart] using hld
  have handler := interruptStart_thr t 4 true s0
  simp only [← crossed, threads, brkHalted_thr clear] at handler
  obtain ⟨debug, inInt, run, pc, epc, task, ipend, commons, encl⟩ := handler
  refine ⟨_, (exec_brk_halts runs halt imm).trans (congrArg _ takes), debug, inInt, run, pc.trans entry, epc.trans at0, task,
    ?_, ?_, ⟨commons, encl⟩, fun u other => ?_⟩
  · rw [kept, brkHalted_eq clear]; exact setBits_getLsbD _ t.isLt
  · rw [ipend, setBit_clear_getLsbD _ (by decide)]; rfl
  · rw [crossed, interruptStart_other other, threads, brkHalted_other clear other]

end

/-- Settles O59: each staging line is its session's operation, UNRETIRE, BKPRST and VAULT are theirs under their scopes,
DBGACC is an access of the TAP, and BRK raises DEBUG on its thread and takes it at once. -/
theorem headlandOperations : Obligations.HeadlandOperations := by
  unfold Obligations.HeadlandOperations
  refine fun s => ⟨fun runs unlocked => ⟨fun opens => ⟨?_, ?_, fun holds idle => ⟨?_, ?_, ?_, ?_, ?_⟩, ?_⟩, fun repair =>
      ⟨fun n => ⟨unretire_returns runs unlocked repair, unretire_nothing runs unlocked repair⟩, bkprst_resets runs unlocked repair⟩,
      fun vault op o inlen auxlen ok => ⟨fun bad => vault_malformed runs unlocked vault bad o ok, fun form => ⟨fun notReady =>
        vault_busy runs unlocked vault form notReady o ok, fun ready serves room r s1 work done =>
        vault_performs runs unlocked vault form ready serves room o work done⟩⟩⟩,
    fun main data a => ⟨fun tap => ⟨dbgacc_reads main tap data, ?_, dbgacc_writes main tap data, ?_⟩,
      fun tap op => exec_dbgacc_bypass tap op data a⟩,
    fun t imm canRun inTask halt free loaded clear enabled => brk_halts clear canRun inTask halt free loaded enabled imm⟩
  · exact hlStageOpen_begins runs unlocked opens
  · exact hlStageOpen_busy runs unlocked opens
  · exact fun off len least most aligned inside none _ =>
      hlStageWrite_writes runs unlocked opens holds idle least most aligned inside none
  · exact hlStageCheck_judges runs unlocked opens holds idle
  · exact hlStageActivate_copies runs unlocked opens holds idle
  · exact hlStageActivate_busy runs unlocked opens holds
  · exact hlStageAbort_closes runs unlocked opens holds
  · exact noSession_answers runs unlocked opens
  · exact (dbgacc_closed main tap data).1
  · exact (dbgacc_closed main tap data).2

end Sys2Proof.Machine
end

section
/-! PROOFS. What each ledger request answers and writes: the slots of a partition, the records and the log's entries in
them, the rotation counters, and the requests at the head of LGQ (R93, R460 to R465, R469, R471, R474). -/

namespace Sys2Proof.Machine

/-! ### A slot (R461) -/

@[simp] theorem leBytes_length (n x : Nat) : (leBytes n x).length = n := by
  induction n generalizing x with
  | zero => rfl
  | succ n ih => simp [leBytes, ih]

@[simp] theorem makeSlot_length (id len flags seq stamp : Nat) (data : List Byte) :
    (makeSlot id len flags seq stamp data).length = 64 := by
  simp [makeSlot, beBytes]

/-- A range of the ledger array erased. -/
theorem ldgErase_but (a n : Nat) (s : State) : LedgerBut a n s (ldgErase a n s) :=
  ⟨rfl, fun k outside => tabGet_memErase_outside ledgerBlank s.mem.ledger a n k outside⟩

theorem ldgProgram_but (a : Nat) (bs : List Byte) (s : State) : LedgerBut a bs.length s (ldgProgram a bs s) :=
  ⟨rfl, fun k outside => tabGet_memStore_outside ledgerBlank s.mem.ledger a k bs outside⟩

theorem ledgerBut_trans {a n : Nat} {s s' s'' : State} (h : LedgerBut a n s s') (h' : LedgerBut a n s' s'') :
    LedgerBut a n s s'' := by
  obtain ⟨frame, same⟩ := h
  obtain ⟨frame', same'⟩ := h'
  exact ⟨by rw [frame', frame], fun k outside => (same' k outside).trans (same k outside)⟩

theorem ledgerBut_mono {a n a' n' : Nat} {s s' : State} (h : LedgerBut a n s s') (lo : a' ≤ a) (hi : a + n ≤ a' + n') :
    LedgerBut a' n' s s' :=
  h.imp_right fun same k outside => same k (by omega)

/-- Only the memories matter. -/
theorem ledgerBut_of_mem {a n : Nat} {s s' s'' : State} (h : LedgerBut a n s s') (same : s''.mem = s'.mem) :
    LedgerBut a n s s'' := by
  unfold LedgerBut; rw [same]; exact h

theorem putSlot_but (part slot : Nat) {bs : List Byte} (len : bs.length = 64) (s : State) :
    LedgerBut (slotBase part slot) 64 s (putSlot part slot bs s) :=
  have programmed : LedgerBut (slotBase part slot) 64 (ldgErase (slotBase part slot) 64 s)
      (ldgProgram (slotBase part slot) bs (ldgErase (slotBase part slot) 64 s)) := by
    have bytes := ldgProgram_but (slotBase part slot) bs (ldgErase (slotBase part slot) 64 s)
    rwa [len] at bytes
  ledgerBut_of_mem (ledgerBut_trans (ldgErase_but _ 64 s) programmed) rfl

theorem putSlot_reads (part slot : Nat) {bs : List Byte} (len : bs.length = 64) (s : State) :
    slotBytesAt (putSlot part slot bs s) part slot = bs := by
  have back := memBytes_memStore_same ledgerBlank (ldgErase (slotBase part slot) 64 s).mem.ledger (slotBase part slot) bs
  rw [len] at back
  exact back

theorem wipeSlot_but (part slot : Nat) (s : State) : LedgerBut (slotBase part slot) 64 s (wipeSlot part slot s) :=
  ledgerBut_of_mem (ldgErase_but (slotBase part slot) 64 s) rfl

theorem wipeSlot_blank (part slot : Nat) (s : State) {k : Nat} (inside : slotBase part slot ≤ k ∧ k < slotBase part slot + 64) :
    tabGet ledgerBlank (wipeSlot part slot s).mem.ledger k = ledgerBlank :=
  tabGet_memErase_inside ledgerBlank s.mem.ledger _ 64 k inside

/-! ### The two slots of a record (R462) -/

theorem slotBase_succ (part slot : Nat) : slotBase part (slot + 1) = slotBase part slot + 64 := by
  unfold slotBase; omega

/-- Both slots of a record, erased as one range. -/
theorem wipeRecord_but (part i : Nat) (s : State) :
    LedgerBut (slotBase part (2 * i)) 128 s (wipeSlot part (2 * i) (wipeSlot part (2 * i + 1) s)) := by
  have upper := slotBase_succ part (2 * i)
  exact ledgerBut_trans (ledgerBut_mono (wipeSlot_but part (2 * i + 1) s) (by omega) (by omega))
    (ledgerBut_mono (wipeSlot_but part (2 * i) _) (by omega) (by omega))

theorem wipeRecord_blank (part i : Nat) (s : State) {j : Nat} (inside : j < 128) :
    tabGet ledgerBlank (wipeSlot part (2 * i) (wipeSlot part (2 * i + 1) s)).mem.ledger (slotBase part (2 * i) + j) =
      ledgerBlank := by
  have upper := slotBase_succ part (2 * i)
  by_cases low : j < 64
  · exact wipeSlot_blank _ _ _ ⟨by omega, by omega⟩
  · obtain ⟨-, same⟩ := wipeSlot_but part (2 * i) (wipeSlot part (2 * i + 1) s)
    rw [same _ (.inr (by omega))]
    exact wipeSlot_blank _ _ _ ⟨by omega, by omega⟩

/-- A record's DATA goes into the slot not in force. -/
theorem writeRecord_but (part i len : Nat) (data : List Byte) (s : State) :
    LedgerBut (slotBase part (recordTarget s part i).1) 64 s (writeRecord part i len data s) :=
  putSlot_but part _ (makeSlot_length ..) s

theorem writeRecord_reads (part i len : Nat) (data : List Byte) (s : State) :
    slotBytesAt (writeRecord part i len data s) part (recordTarget s part i).1 =
      makeSlot i len (bit s.bkp.cal.valid) ((recordTarget s part i).2 % 2 ^ 32) s.bkp.cal.sec.toNat data :=
  putSlot_reads part _ (makeSlot_length ..) s

/-! ### The thermometer bits of a half (R463) -/

/-- Thermometer bit `k` of the bytes from `a`; a programmed bit reads 0. -/
def thermBit (m : Memory) (a k : Nat) : Bool := (tabGet ledgerBlank m (a + k / 8)).getLsbD (k % 8)

theorem thermBit_firstByte (m : Memory) (a : Nat) {k : Nat} (h : k < 8) :
    thermBit m a k = (tabGet ledgerBlank m a).getLsbD k := by
  rw [thermBit, Nat.div_eq_of_lt h, Nat.mod_eq_of_lt h, Nat.add_zero]

theorem thermBit_nextByte (m : Memory) (a k : Nat) : thermBit m a (k + 8) = thermBit m (a + 1) k := by
  rw [thermBit, thermBit, Nat.add_div_right k (by decide), Nat.add_mod_right,
    show a + (k / 8 + 1) = a + 1 + k / 8 by omega]

/-- The count of a byte that holds an erased bit stops at the first one. -/
theorem lowZeros_eq_iff {x : Byte} {k : Nat} (h : k < 8) :
    lowZeros x = k ↔ x.getLsbD k = true ∧ ∀ j < k, x.getLsbD j = false := by
  unfold lowZeros
  cases found : (List.range 8).find? fun i => x.getLsbD i with
  | none =>
    rw [List.find?_eq_none] at found
    have clear := found k (List.mem_range.2 h)
    simp only [Option.getD_none]
    exact ⟨fun e => by omega, fun ⟨set, _⟩ => absurd set clear⟩
  | some i =>
    obtain ⟨set, inside, below⟩ := List.find?_range_eq_some.1 found
    simp only [Option.getD_some]
    constructor
    · rintro rfl
      exact ⟨set, fun j lt => by simpa using below j lt⟩
    · intro ⟨set', below'⟩
      rcases Nat.lt_trichotomy i k with lt | e | gt
      · simp [below' i lt] at set
      · exact e
      · exact absurd set' (by simpa using below k gt)

theorem lowZeros_lt {x : Byte} {i : Nat} (h : i < 8) (set : x.getLsbD i = true) : lowZeros x < 8 := by
  unfold lowZeros
  cases found : (List.range 8).find? fun i => x.getLsbD i with
  | none => exact absurd set (by simpa using List.find?_eq_none.1 found i (List.mem_range.2 h))
  | some j => exact List.mem_range.1 (List.mem_of_find?_eq_some found)

theorem exists_bit_of_ne_zero {x : Byte} (h : x ≠ 0) : ∃ k < 8, x.getLsbD k = true := by
  by_contra none
  push Not at none
  exact h (BitVec.eq_of_getLsbD_eq fun i lt => by simpa using none i lt)

/-- The count stops at the first erased bit, or at the bytes' end. -/
theorem thermCount_eq (m : Memory) (a n k : Nat) (programmed : ∀ j < k, thermBit m a j = false) (inside : k ≤ 8 * n)
    (stops : k < 8 * n → thermBit m a k = true) : thermCount (memBytes ledgerBlank m a n) = k := by
  induction n generalizing a k with
  | zero => exact (Nat.le_zero.1 inside).symm
  | succ n ih =>
    by_cases zero : tabGet ledgerBlank m a = 0
    · have whole : 8 ≤ k := by
        by_contra low
        have set := stops (by omega)
        rw [thermBit_firstByte m a (by omega), zero] at set
        simp at set
      obtain ⟨k, rfl⟩ := Nat.exists_eq_add_of_le' whole
      have rest := ih (a + 1) k (fun j lt => by rw [← thermBit_nextByte]; exact programmed _ (by omega)) (by omega)
        (fun lt => by rw [← thermBit_nextByte]; exact stops (by omega))
      simp [memBytes, thermCount, zero, rest, Nat.add_comm]
    · obtain ⟨i, lt, set⟩ := exists_bit_of_ne_zero zero
      have low : k < 8 := by
        by_contra high
        rw [← thermBit_firstByte m a lt, programmed i (by omega)] at set
        cases set
      have count : lowZeros (tabGet ledgerBlank m a) = k := (lowZeros_eq_iff low).2
        ⟨by rw [← thermBit_firstByte m a low]; exact stops (by omega),
          fun j below => by rw [← thermBit_firstByte m a (by omega)]; exact programmed j below⟩
      rw [memBytes, thermCount, if_neg zero, count]

/-- Every bit below the count is programmed. -/
theorem thermBit_below_count (m : Memory) (a n : Nat) {k : Nat} (h : k < thermCount (memBytes ledgerBlank m a n)) :
    thermBit m a k = false := by
  induction n generalizing a k with
  | zero => simp [memBytes, thermCount] at h
  | succ n ih =>
    by_cases zero : tabGet ledgerBlank m a = 0
    · by_cases low : k < 8
      · rw [thermBit_firstByte m a low, zero]; simp
      · obtain ⟨k, rfl⟩ := Nat.exists_eq_add_of_le' (Nat.not_lt.1 low)
        rw [thermBit_nextByte]
        refine ih (a + 1) ?_
        simp only [memBytes, thermCount, zero, if_true] at h
        omega
    · obtain ⟨i, lt, set⟩ := exists_bit_of_ne_zero zero
      simp only [memBytes, thermCount, zero, if_false] at h
      have stops : lowZeros (tabGet ledgerBlank m a) < 8 := lowZeros_lt lt set
      obtain ⟨-, below⟩ := (lowZeros_eq_iff stops).1 rfl
      rw [thermBit_firstByte m a (by omega)]
      exact below k h

/-! ### One increment (R463, R464) -/

/-- The bits of the half after one of them is programmed. -/
theorem thermBit_programBit (c : Nat) (b : Bool) (k j : Nat) (s : State) :
    thermBit (programBit c b k s).mem.ledger (halfBase c b + 8) j =
      (decide (j ≠ k) && thermBit s.mem.ledger (halfBase c b + 8) j) := by
  have stored : (programBit c b k s).mem.ledger = tabPut ledgerBlank s.mem.ledger (halfBase c b + 8 + k / 8)
    (setBits (tabGet ledgerBlank s.mem.ledger (halfBase c b + 8 + k / 8)) (k % 8) 1 0) := rfl
  rw [stored, thermBit, thermBit, tabGet_tabPut]
  split
  · rename_i sameByte
    have bit : (j % 8 ≠ k % 8) ↔ (j ≠ k) := by omega
    rw [setBit_clear_getLsbD _ (Nat.mod_lt k (by decide)), sameByte, decide_eq_decide.2 bit]
  · rename_i otherByte
    have other : j ≠ k := fun e => otherByte (by rw [e])
    simp [other]

/-- What lies away from the byte of the bit stays. -/
theorem ldgRead_programBit (c : Nat) (b : Bool) (k : Nat) (s : State) {a n : Nat}
    (apart : a + n ≤ halfBase c b + 8 + k / 8 ∨ halfBase c b + 8 + k / 8 < a) :
    ldgRead (programBit c b k s) a n = ldgRead s a n :=
  memBytes_memStore_apart ledgerBlank _ _ _ _ _ (by simpa [Nat.succ_le_iff] using apart)

section
variable (c : Nat) (h : Bool) {k : Nat} (inside : k < 960) (s : State)
include inside

/-- The header of the half and the whole of the other half stay. -/
theorem halfValid_programBit (b : Bool) : halfValid (programBit c h k s) c b = halfValid s c b := by
  have base := ldgRead_programBit c h k s (a := halfBase c b) (n := 4) (by cases h <;> cases b <;> simp [halfBase] <;> omega)
  have complement := ldgRead_programBit c h k s (a := halfBase c b + 4) (n := 4)
    (by cases h <;> cases b <;> simp [halfBase] <;> omega)
  rw [halfValid, halfValid, halfHeader, halfHeader, base, complement]

theorem halfHeader_programBit (b : Bool) : halfHeader (programBit c h k s) c b = halfHeader s c b := by
  rw [halfHeader, halfHeader, ldgRead_programBit]
  cases h <;> cases b <;> simp [halfBase] <;> omega

theorem halfValue_programBit_other : halfValue (programBit c h k s) c (!h) = halfValue s c (!h) := by
  rw [halfValue, halfValue, halfHeader_programBit c h inside, halfCount, halfCount, ldgRead_programBit]
  cases h <;> simp [halfBase] <;> omega

end

/-- The first erased bit of a clean half, programmed, counts one more. -/
theorem halfCount_programBit {s : State} {c : Nat} {h : Bool} (clean : halfClean s c h) (room : halfCount s c h < 960) :
    halfCount (programBit c h (halfCount s c h) s) c h = halfCount s c h + 1 := by
  refine thermCount_eq _ _ 120 _ (fun j lt => ?_) (by omega) fun lt => ?_
  · rw [thermBit_programBit]
    by_cases last : j = halfCount s c h
    · simp [last]
    · rw [thermBit_below_count s.mem.ledger (halfBase c h + 8) 120 (show j < halfCount s c h by omega), Bool.and_false]
  · have next : thermBit s.mem.ledger (halfBase c h + 8) (halfCount s c h + 1) = true := clean _ (by omega) lt
    rw [thermBit_programBit, next]; simp

theorem halfClean_programBit {s : State} {c : Nat} {h : Bool} (clean : halfClean s c h) (room : halfCount s c h < 960) :
    halfClean (programBit c h (halfCount s c h) s) c h := by
  intro k from_ lt
  rw [halfCount_programBit clean room] at from_
  have erased : thermBit s.mem.ledger (halfBase c h + 8) k = true := clean k (by omega) lt
  have other : k ≠ halfCount s c h := by omega
  show thermBit _ (halfBase c h + 8) k = true
  rw [thermBit_programBit, erased]; simp [other]

/-- The half in use is valid and holds the counter's value. -/
theorem activeHalf_value {s : State} {c : Nat} {h : Bool} (active : activeHalf s c = some h) :
    halfValid s c h = true ∧ counterValue s c = halfValue s c h := by
  unfold activeHalf at active
  unfold counterValue
  split at active
  · cases active
  · rename_i a b; obtain rfl := Option.some.inj active; simp [a, b]
  · rename_i a b; obtain rfl := Option.some.inj active; simp [a, b]
  · rename_i a b
    dsimp only at active
    split at active
    · rename_i less; obtain rfl := Option.some.inj active; simp [a, b, less.le]
    split at active
    · rename_i less; obtain rfl := Option.some.inj active; simp [a, b, less.le]
    · have equal : halfValue s c false = halfValue s c true := by omega
      cases h <;> simp [a, b, equal]

/-- A valid half above the other is in use. -/
theorem activeHalf_of_above {s : State} {c : Nat} {h : Bool} (valid : halfValid s c h = true)
    (above : halfValid s c (!h) = true → halfValue s c (!h) < halfValue s c h) : activeHalf s c = some h := by
  unfold activeHalf
  cases h with
  | false =>
    cases other : halfValid s c true with
    | false => simp [valid]
    | true =>
      have less : halfValue s c true < halfValue s c false := above other
      simp [valid, less, less.le.not_gt]
  | true =>
    cases other : halfValid s c false with
    | false => simp [valid]
    | true =>
      have less : halfValue s c false < halfValue s c true := above other
      simp [valid, less]

theorem halfValue_le_counterValue {s : State} {c : Nat} {h : Bool} (valid : halfValid s c h = true) :
    halfValue s c h ≤ counterValue s c := by
  unfold counterValue
  cases h <;> simp [valid]

section
variable {s : State} {c : Nat} {h : Bool}

/-- R464: a step within the half in use raises the counter by one, and the half stays in use. -/
theorem stepCounter_rises (active : activeHalf s c = some h) (clean : halfClean s c h) (room : halfCount s c h < 960) :
    activeHalf (stepCounter c s) c = some h ∧ halfClean (stepCounter c s) c h ∧
    halfCount (stepCounter c s) c h = halfCount s c h + 1 ∧ counterValue (stepCounter c s) c = counterValue s c + 1 := by
  have stepped : stepCounter c s = programBit c h (halfCount s c h) s := by simp [stepCounter, active, room]
  obtain ⟨valid, value⟩ := activeHalf_value active
  have count := halfCount_programBit clean room
  have raised : halfValue (programBit c h (halfCount s c h) s) c h = halfValue s c h + 1 := by
    rw [halfValue, halfHeader_programBit c h room, count, halfValue, Nat.add_assoc]
  have still : activeHalf (programBit c h (halfCount s c h) s) c = some h := by
    refine activeHalf_of_above ((halfValid_programBit c h room s h).trans valid) fun validOther => ?_
    rw [halfValid_programBit c h room] at validOther
    rw [halfValue_programBit_other c h room, raised]
    exact Nat.lt_succ_of_le (value ▸ halfValue_le_counterValue validOther)
  obtain ⟨-, value'⟩ := activeHalf_value still
  rw [stepped]
  exact ⟨still, halfClean_programBit clean room, count, by rw [value', raised, value]⟩

theorem stepCounterN_rises {n : Nat} (active : activeHalf s c = some h) (clean : halfClean s c h)
    (room : halfCount s c h + n ≤ 960) : counterValue (stepCounterN c n s) c = counterValue s c + n := by
  induction n generalizing s with
  | zero => rfl
  | succ n ih =>
    obtain ⟨active', clean', count, value⟩ := stepCounter_rises active clean (by omega)
    rw [stepCounterN, ih active' clean' (by omega), value]; omega

end

/-! ### The request at the head of LGQ (R474) -/

theorem ldgAnswer_mem (r : LdgReq) (status verdict : Byte) (value : Nat) (prot : Bool) (image : List Byte) (s : State) :
    (ldgAnswer r status verdict value prot image s).mem = s.mem := by simp

/-- The completion of a request. -/
def completionOf (r : LdgReq) (status verdict : Byte) (value : Nat) (prot : Bool) (image : List Byte) : LdgDone :=
  { caller := r.caller, status := status, verdict := verdict, value := BitVec.ofNat 32 value, prot := prot, image := image
    buf := r.buf }

/-- Nothing of the ledger but its two queues changes when a request is answered. -/
theorem ldgAnswer_ldg (r : LdgReq) (status verdict : Byte) (value : Nat) (prot : Bool) (image : List Byte) (s : State) :
    (ldgAnswer r status verdict value prot image s).ldg = { s.ldg with
      lgq := s.ldg.lgq.drop 1, lgc := s.ldg.lgc ++ [completionOf r status verdict value prot image] } := by
  simp [ldgAnswer, completionOf]

/-- A request answered after work that leaves both queues. -/
theorem ledgerAnswers_of_ldgAnswer {c : Instr} {r : LdgReq} {verdict : Byte} {value : Nat} {prot : Bool} {image : List Byte}
    {s s1 : State} (ran : exec c s = .next (ldgAnswer r 0 verdict value prot image s1)) (lgq : s1.ldg.lgq = s.ldg.lgq)
    (lgc : s1.ldg.lgc = s.ldg.lgc) :
    LedgerAnswers c r verdict value prot image s (ldgAnswer r 0 verdict value prot image s1) := by
  refine ⟨ran, ?_, ?_⟩
  · rw [ldgAnswer_ldg, ← lgq]
  · rw [ldgAnswer_ldg, ← lgc]; rfl

/-- An argument that is newer and near enough. -/
theorem ldgAdvanceOp_near {s : State} {r : LdgReq} (newer : counterValue s r.index.toNat < r.arg.toNat)
    (near : r.arg.toNat ≤ counterValue s r.index.toNat + 64) : ldgAdvanceOp r s =
    if ldgProtected s 2 then ldgAnswer r 0 ldgDone r.arg.toNat true [] (countProt s)
    else ldgAnswer r 0 ldgDone r.arg.toNat false []
      (stepCounterN r.index.toNat (r.arg.toNat - counterValue s r.index.toNat) s) := by
  have isNewer : ¬ r.arg.toNat ≤ counterValue s r.index.toNat := by omega
  have isNear : ¬ 64 < r.arg.toNat - counterValue s r.index.toNat := by omega
  simp only [ldgAdvanceOp, isNewer, isNear, if_false]

/-- R469: what NV_PROT ignores answers alike, and PROT_DROPS counts it. -/
theorem ledgerAnswers_of_protected {c : Instr} {r : LdgReq} {value : Nat} {s : State}
    (ran : exec c s = .next (ldgAnswer r 0 ldgDone value true [] (countProt s))) :
    ∃ s', LedgerAnswers c r 0 value true [] s s' ∧ s'.mem = s.mem ∧ s'.ldg.protDrops = satInc s.ldg.protDrops :=
  ⟨_, ledgerAnswers_of_ldgAnswer ran rfl rfl, by simp, by rw [ldgAnswer_ldg]; rfl⟩

@[simp] theorem slotBytesAt_ldgAnswer (r : LdgReq) (status verdict : Byte) (value : Nat) (prot : Bool) (image : List Byte)
    (s : State) (part slot : Nat) :
    slotBytesAt (ldgAnswer r status verdict value prot image s) part slot = slotBytesAt s part slot := by
  simp [slotBytesAt, ldgRead]

theorem counterValue_congr {s s' : State} (h : s'.mem = s.mem) (c : Nat) : counterValue s' c = counterValue s c := by
  have value : ∀ b, halfValue s' c b = halfValue s c b := fun b => by
    rw [halfValue, halfHeader, halfCount, ldgRead, ldgRead, h]; rfl
  have valid : ∀ b, halfValid s' c b = halfValid s c b := fun b => by
    rw [halfValid, halfHeader, ldgRead, ldgRead, h]; rfl
  rw [counterValue, valid, valid, value, value, ← counterValue]

theorem fwLog_queues (type : Nat) (data : List Byte) (s : State) :
    (fwLog type data s).ldg.lgq = s.ldg.lgq ∧ (fwLog type data s).ldg.uncorr = s.ldg.uncorr := by
  unfold fwLog logEntry; split <;> exact ⟨rfl, rfl⟩

/-- R460: an uncorrectable group counts in UNCORR, and the request stays at the head of LGQ. -/
theorem uncorrectableIn_counts (part slot : Nat) (s : State) :
    (uncorrectableIn part slot s).ldg.lgq = s.ldg.lgq ∧ (uncorrectableIn part slot s).ldg.uncorr = satInc s.ldg.uncorr := by
  unfold uncorrectableIn; dsimp only
  (repeat' split) <;> simp [fwLog_queues]

section
variable {s : State} {r : LdgReq} {rest : List LdgReq} {opc : Byte} (front : s.ldg.lgq = r :: rest) (main : mainOn s = true)
  (same : r.opc = opc)
include front main same

/-- A row of the request's opcode acts on it. -/
theorem onRequest_acts (reach : limpReason s 2 = false) (act : LdgReq → State → State) : onRequest opc act s = act r s := by
  simp [onRequest, front, main, same, ldgHalted, reach]

/-- R93, R474: in Limp reason 2 every request completes ENCLOSURE_RESTARTING. -/
theorem onRequest_halted (halted : limpReason s 2 = true) (act : LdgReq → State → State) :
    onRequest opc act s = ldgAnswer r 6 0 0 false [] s := by
  simp [onRequest, front, main, same, ldgHalted, halted]

end

section
variable {s : State} {r : LdgReq} {rest : List LdgReq} (front : s.ldg.lgq = r :: rest) (main : mainOn s = true)
  (reach : limpReason s 2 = false)
include front main reach

/-! ### READ and LREAD (R460, R462) -/

section
variable (opc : r.opc = 0x01)
include opc

theorem exec_ledgerRead_front (e : Ecc) : exec (.ledgerRead e) s = .next (ldgReadOp e r s) := by
  rw [exec_ledgerRead, execLedgerRead, onRequest_acts front main opc reach]

theorem ledgerRead_empty (empty : recordSlot s r.part.toNat r.index.toNat = none) :
    ∃ s', LedgerAnswers (.ledgerRead .clean) r 1 0 false (List.replicate 64 0) s s' ∧ s'.mem = s.mem := by
  have ran := exec_ledgerRead_front front main reach opc .clean
  simp only [ldgReadOp, eccMet, empty] at ran
  exact ⟨_, ledgerAnswers_of_ldgAnswer ran rfl rfl, by simp⟩

theorem ledgerRead_clean {k : Nat} (inForce : recordSlot s r.part.toNat r.index.toNat = some k) :
    ∃ s', LedgerAnswers (.ledgerRead .clean) r 0 (slotSeq s r.part.toNat k) false (slotBytesAt s r.part.toNat k) s s' ∧
      s'.mem = s.mem := by
  have ran := exec_ledgerRead_front front main reach opc .clean
  simp only [ldgReadOp, eccMet, inForce] at ran
  exact ⟨_, ledgerAnswers_of_ldgAnswer ran rfl rfl, by simp⟩

/-- Corrected groups are counted, and the slot is read as it is. -/
theorem ledgerRead_corrected {k : Nat} (inForce : recordSlot s r.part.toNat r.index.toNat = some k) (n : Nat) :
    ∃ s', LedgerAnswers (.ledgerRead (.corrected n)) r 0 (slotSeq s r.part.toNat k) false (slotBytesAt s r.part.toNat k) s s' ∧
      s'.mem = s.mem ∧ s'.ldg.corr = satAdd s.ldg.corr n := by
  have ran := exec_ledgerRead_front front main reach opc (.corrected n)
  have counted : recordSlot { s with ldg := { s.ldg with corr := satAdd s.ldg.corr n } } r.part.toNat r.index.toNat = some k :=
    inForce
  simp only [ldgReadOp, eccMet, counted] at ran
  exact ⟨_, ledgerAnswers_of_ldgAnswer ran rfl rfl, by simp, by rw [ldgAnswer_ldg]⟩

theorem ledgerRead_uncorrectable :
    ∃ s', exec (.ledgerRead .uncorrectable) s = .next s' ∧ s'.ldg.lgq = rest ∧ s'.ldg.uncorr = satInc s.ldg.uncorr := by
  refine ⟨_, exec_ledgerRead_front front main reach opc .uncorrectable, ?_⟩
  simp only [ldgReadOp, eccMet]
  obtain ⟨queue, count⟩ := uncorrectableIn_counts r.part.toNat
    ((recordSlot s r.part.toNat r.index.toNat).getD (2 * r.index.toNat)) s
  split <;> simp [ldgAnswer_ldg, queue, count, front]

end

section
variable (opc : r.opc = 0x21)
include opc

theorem exec_lread_front : exec (.lread .clean) s = .next (ldgLreadOp .clean r s) := by
  rw [exec_lread, execLread, onRequest_acts front main opc reach]

theorem lread_valid (valid : slotValid s 3 r.index.toNat = true) :
    ∃ s', LedgerAnswers (.lread .clean) r 0 (slotSeq s 3 r.index.toNat) false (slotBytesAt s 3 r.index.toNat) s s' ∧
      s'.mem = s.mem := by
  have ran := exec_lread_front front main reach opc
  simp only [ldgLreadOp, eccMet, valid, if_true] at ran
  exact ⟨_, ledgerAnswers_of_ldgAnswer ran rfl rfl, by simp⟩

theorem lread_invalid (invalid : slotValid s 3 r.index.toNat = false) :
    ∃ s', LedgerAnswers (.lread .clean) r 1 0 false (List.replicate 64 0) s s' ∧ s'.mem = s.mem := by
  have ran := exec_lread_front front main reach opc
  simp only [ldgLreadOp, eccMet, invalid, Bool.false_eq_true, if_false] at ran
  exact ⟨_, ledgerAnswers_of_ldgAnswer ran rfl rfl, by simp⟩

end

/-! ### WRITE, ERASE and LOG (R462, R469, R471) -/

section
variable (opc : r.opc = 0x02)
include opc

theorem exec_ledgerWrite_front : exec .ledgerWrite s = .next (ldgWriteOp r s) := by
  rw [exec_ledgerWrite, execLedgerWrite, onRequest_acts front main opc reach]

theorem ledgerWrite_protected (prot : ldgProtected s r.part.toNat = true) :
    ∃ s', LedgerAnswers .ledgerWrite r 0 (recordTarget s r.part.toNat r.index.toNat).2 true [] s s' ∧ s'.mem = s.mem ∧
      s'.ldg.protDrops = satInc s.ldg.protDrops :=
  ledgerAnswers_of_protected (by rw [exec_ledgerWrite_front front main reach opc, ldgWriteOp, if_pos prot])

theorem ledgerWrite_writes (free : ldgProtected s r.part.toNat = false) :
    ∃ s', LedgerAnswers .ledgerWrite r 0 (recordTarget s r.part.toNat r.index.toNat).2 false [] s s' ∧
      LedgerBut (slotBase r.part.toNat (recordTarget s r.part.toNat r.index.toNat).1) 64 s s' ∧
      slotBytesAt s' r.part.toNat (recordTarget s r.part.toNat r.index.toNat).1 =
        makeSlot r.index.toNat r.data.length (bit s.bkp.cal.valid) ((recordTarget s r.part.toNat r.index.toNat).2 % 2 ^ 32)
          s.bkp.cal.sec.toNat r.data := by
  have ran := exec_ledgerWrite_front front main reach opc
  simp only [ldgWriteOp, free, Bool.false_eq_true, if_false] at ran
  refine ⟨_, ledgerAnswers_of_ldgAnswer ran rfl rfl, ?_, ?_⟩
  · exact ledgerBut_of_mem (writeRecord_but ..) (ldgAnswer_mem ..)
  · rw [slotBytesAt_ldgAnswer, writeRecord_reads]

end

section
variable (opc : r.opc = 0x03)
include opc

theorem exec_ledgerErase_front : exec .ledgerErase s = .next (ldgEraseOp r s) := by
  rw [exec_ledgerErase, execLedgerErase, onRequest_acts front main opc reach]

theorem ledgerErase_empty (empty : recordSlot s r.part.toNat r.index.toNat = none) :
    ∃ s', LedgerAnswers .ledgerErase r 1 0 false [] s s' ∧ s'.mem = s.mem := by
  have ran := exec_ledgerErase_front front main reach opc
  simp only [ldgEraseOp, empty] at ran
  exact ⟨_, ledgerAnswers_of_ldgAnswer ran rfl rfl, by simp⟩

theorem ledgerErase_protected {k : Nat} (inForce : recordSlot s r.part.toNat r.index.toNat = some k)
    (prot : ldgProtected s r.part.toNat = true) :
    ∃ s', LedgerAnswers .ledgerErase r 0 (slotSeq s r.part.toNat k) true [] s s' ∧ s'.mem = s.mem ∧
      s'.ldg.protDrops = satInc s.ldg.protDrops :=
  ledgerAnswers_of_protected (by simp only [exec_ledgerErase_front front main reach opc, ldgEraseOp, inForce, prot, if_true])

/-- Both slots of the record read as erased. -/
theorem ledgerErase_erases {k : Nat} (inForce : recordSlot s r.part.toNat r.index.toNat = some k)
    (free : ldgProtected s r.part.toNat = false) :
    ∃ s', LedgerAnswers .ledgerErase r 0 (slotSeq s r.part.toNat k) false [] s s' ∧
      LedgerBut (slotBase r.part.toNat (2 * r.index.toNat)) 128 s s' ∧
      ∀ j, j < 128 → tabGet ledgerBlank s'.mem.ledger (slotBase r.part.toNat (2 * r.index.toNat) + j) = ledgerBlank := by
  have ran := exec_ledgerErase_front front main reach opc
  simp only [ldgEraseOp, inForce, free, Bool.false_eq_true, if_false] at ran
  refine ⟨_, ledgerAnswers_of_ldgAnswer ran rfl rfl, ledgerBut_of_mem (wipeRecord_but ..) (by simp), fun j inside => ?_⟩
  have blank := wipeRecord_blank r.part.toNat r.index.toNat s inside
  simpa using blank

end

section
variable (opc : r.opc = 0x20)
include opc

theorem exec_log_front : exec .log s = .next (ldgLogOp r s) := by
  rw [exec_log, execLog, onRequest_acts front main opc reach]

theorem log_protected (prot : ldgProtected s 3 = true) :
    ∃ s', LedgerAnswers .log r 0 (logSlot s) true [] s s' ∧ s'.mem = s.mem ∧ s'.ldg.protDrops = satInc s.ldg.protDrops :=
  ledgerAnswers_of_protected (by rw [exec_log_front front main reach opc, ldgLogOp, if_pos prot])

theorem log_appends (free : ldgProtected s 3 = false) :
    ∃ s', LedgerAnswers .log r 0 (logSlot s) false [] s s' ∧ LedgerBut (slotBase 3 (logSlot s)) 64 s s' ∧
      slotBytesAt s' 3 (logSlot s) = makeSlot (r.type.toNat + 256 * r.src.toNat) r.data.length (bit s.bkp.cal.valid)
        (logNextSeq s) s.bkp.cal.sec.toNat r.data := by
  have ran := exec_log_front front main reach opc
  simp only [ldgLogOp, appendLog, free, Bool.false_eq_true, if_false] at ran
  refine ⟨_, ledgerAnswers_of_ldgAnswer ran rfl rfl, ?_, ?_⟩
  · exact ledgerBut_of_mem (putSlot_but 3 _ (makeSlot_length ..) s) (ldgAnswer_mem ..)
  · rw [slotBytesAt_ldgAnswer, putSlot_reads 3 _ (makeSlot_length ..)]

end

/-! ### CREAD and CADVANCE (R463, R465, R469) -/

theorem cread_answers (opc : r.opc = 0x10) :
    ∃ s', LedgerAnswers .cread r 0 (counterValue s r.index.toNat) false [] s s' ∧ s'.mem = s.mem := by
  have ran : exec .cread s = .next (ldgAnswer r 0 ldgDone (counterValue s r.index.toNat) false [] s) := by
    rw [exec_cread, execCread, onRequest_acts front main opc reach]
  exact ⟨_, ledgerAnswers_of_ldgAnswer ran rfl rfl, by simp⟩

section
variable (opc : r.opc = 0x11)
include opc

theorem exec_cadvance_front : exec .cadvance s = .next (ldgAdvanceOp r s) := by
  rw [exec_cadvance, execCadvance, onRequest_acts front main opc reach]

theorem cadvance_notNewer (old : r.arg.toNat ≤ counterValue s r.index.toNat) :
    ∃ s', LedgerAnswers .cadvance r 2 (counterValue s r.index.toNat) false [] s s' ∧ s'.mem = s.mem := by
  have ran := exec_cadvance_front front main reach opc
  simp only [ldgAdvanceOp, old, if_true] at ran
  exact ⟨_, ledgerAnswers_of_ldgAnswer ran rfl rfl, by simp⟩

theorem cadvance_tooFar (far : counterValue s r.index.toNat + 64 < r.arg.toNat) :
    ∃ s', LedgerAnswers .cadvance r 3 (counterValue s r.index.toNat) false [] s s' ∧ s'.mem = s.mem := by
  have newer : ¬ r.arg.toNat ≤ counterValue s r.index.toNat := by omega
  have apart : 64 < r.arg.toNat - counterValue s r.index.toNat := by omega
  have ran := exec_cadvance_front front main reach opc
  simp only [ldgAdvanceOp, newer, apart, if_true, if_false] at ran
  exact ⟨_, ledgerAnswers_of_ldgAnswer ran rfl rfl, by simp⟩

variable (newer : counterValue s r.index.toNat < r.arg.toNat) (near : r.arg.toNat ≤ counterValue s r.index.toNat + 64)
include newer near

theorem cadvance_protected (prot : ldgProtected s 2 = true) :
    ∃ s', LedgerAnswers .cadvance r 0 r.arg.toNat true [] s s' ∧ s'.mem = s.mem ∧
      s'.ldg.protDrops = satInc s.ldg.protDrops :=
  ledgerAnswers_of_protected (by
    rw [exec_cadvance_front front main reach opc, ldgAdvanceOp_near newer near, if_pos prot])

/-- With room in the half in use the counter reaches the argument step by step. -/
theorem cadvance_steps (free : ldgProtected s 2 = false) :
    ∃ s', LedgerAnswers .cadvance r 0 r.arg.toNat false [] s s' ∧
      ∀ h, activeHalf s r.index.toNat = some h → halfClean s r.index.toNat h →
        halfCount s r.index.toNat h + (r.arg.toNat - counterValue s r.index.toNat) ≤ 960 →
        counterValue s' r.index.toNat = r.arg.toNat := by
  have ran := exec_cadvance_front front main reach opc
  rw [ldgAdvanceOp_near newer near, if_neg (by simp [free])] at ran
  refine ⟨_, ledgerAnswers_of_ldgAnswer ran (by simp) (by simp), fun h active clean room => ?_⟩
  rw [counterValue_congr (ldgAnswer_mem ..), stepCounterN_rises active clean room]; omega

end

end

/-! ### Limp reason 2 (R93, R474) -/

/-- Whatever the command that would act on it, the request completes ENCLOSURE_RESTARTING. -/
theorem ledger_halted {s : State} {r : LdgReq} {rest : List LdgReq} (front : s.ldg.lgq = r :: rest) (main : mainOn s = true)
    (halted : limpReason s 2 = true) {c : Instr} {act : LdgReq → State → State}
    (row : exec c s = .next (onRequest r.opc act s)) :
    ∃ s', exec c s = .next s' ∧ s'.ldg.lgq = rest ∧ s'.mem = s.mem ∧
      s'.ldg.lgc = s.ldg.lgc ++ [completionOf r 6 0 0 false []] := by
  rw [onRequest_halted front main rfl halted] at row
  refine ⟨_, row, ?_, by simp, ?_⟩
  · rw [ldgAnswer_ldg, front]; rfl
  · rw [ldgAnswer_ldg]

/-- Settles O55: operation by operation on the request at the head of LGQ, and turned away in Limp reason 2. -/
theorem ledgerRequests : Obligations.LedgerRequests := by
  unfold Obligations.LedgerRequests
  refine fun s r rest front main => ⟨fun reach => ⟨fun opc => ⟨?_, fun k inForce => ⟨?_, fun n => ?_⟩, ?_⟩,
    fun opc => ⟨?_, ?_⟩, fun opc => ⟨?_, fun k inForce => ⟨?_, ?_⟩⟩, ?_, fun opc => ⟨?_, ?_, ?_, ?_⟩, fun opc => ⟨?_, ?_⟩,
    fun opc => ⟨?_, ?_⟩⟩, fun halted q mem opc => ?_⟩
  · exact ledgerRead_empty front main reach opc
  · exact ledgerRead_clean front main reach opc inForce
  · exact ledgerRead_corrected front main reach opc inForce n
  · exact ledgerRead_uncorrectable front main reach opc
  · exact ledgerWrite_writes front main reach opc
  · exact ledgerWrite_protected front main reach opc
  · exact ledgerErase_empty front main reach opc
  · exact ledgerErase_erases front main reach opc inForce
  · exact ledgerErase_protected front main reach opc inForce
  · exact cread_answers front main reach
  · exact cadvance_notNewer front main reach opc
  · exact cadvance_tooFar front main reach opc
  · exact cadvance_protected front main reach opc
  · exact cadvance_steps front main reach opc
  · exact log_appends front main reach opc
  · exact log_protected front main reach opc
  · exact lread_valid front main reach opc
  · exact lread_invalid front main reach opc
  · simp only [List.mem_cons, List.not_mem_nil, or_false] at mem
    rcases mem with rfl | rfl | rfl | rfl | rfl | rfl | rfl
    all_goals exact ledger_halted front main halted (by rw [opc]; rfl)

end Sys2Proof.Machine
end

section
/-! PROOFS. The pins that a mode gives its channels (R53, R90, R94, R136), and what is written to the ledger array by
operations that leave every other memory (R471, R472). -/

namespace Sys2Proof.Machine

/-! ### The drives restored -/

theorem driveOf_congr {s s' : State} {n : Chan} (pow : s'.pow = s.pow) (sys : s'.sys = s.sys) (seed : s'.seed = s.seed)
    (retired : s'.chs.retired = s.chs.retired) (en : (chan s' n).en = (chan s n).en) : driveOf s' n = driveOf s n := by
  simp only [driveOf, fieldSupply, isRetired, limpReason, limpAction, modesByte, seedOne, seedOf, pow, sys, seed, retired, en]

theorem chan_takeDrive (n k : Chan) (s : State) :
    chan (takeDrive n s) k = if k = n then { chan s n with drive := driveOf s n } else chan s k := chan_setChan ..

theorem driveOf_takeDrive (n k : Chan) (s : State) : driveOf (takeDrive n s) k = driveOf s k := by
  refine driveOf_congr rfl rfl rfl rfl ?_
  rw [chan_takeDrive]; split
  · next same => rw [same]
  · rfl

/-- Each channel of a list takes the pin state that it has before any of them does. -/
theorem chan_foldl_takeDrive (l : List Chan) (s : State) (k : Chan) :
    chan (l.foldl (fun s n => takeDrive n s) s) k = if k ∈ l then { chan s k with drive := driveOf s k } else chan s k := by
  induction l generalizing s with
  | nil => simp
  | cons n l ih =>
    rw [List.foldl_cons, ih, driveOf_takeDrive, chan_takeDrive]
    by_cases same : k = n
    · subst same; simp
    · simp [same]

theorem chan_restoreDrives (s : State) (n : Chan) : chan (restoreDrives s) n = { chan s n with drive := driveOf s n } := by
  have all : n ∈ fins 128 := List.mem_finRange n
  rw [restoreDrives, chan_foldl_takeDrive, if_pos all]

theorem restoreDrives_retired (s : State) : (restoreDrives s).chs.retired = s.chs.retired :=
  foldl_retired (fun s n => takeDrive_retired n s) (fins 128) s

/-- In Boot and in Run, with field power and no reason for Limp, an enabled channel's pins are its function's. -/
theorem driveOf_enabled {s : State} {n : Chan} (vsup : s.pow.vsup = true) (cool : s.pow.thermalOff = false)
    (mode : s.sys.mode = Mode.boot ∨ s.sys.mode = Mode.run) (noLimp : s.sys.limpSet = 0) (inService : isRetired s n = false) :
    driveOf s n = if (chan s n).en then .func else .hiZ := by
  have notLocked : s.sys.mode ≠ Mode.lockdown := by rcases mode with h | h <;> rw [h] <;> decide
  have takes : s.sys.mode = Mode.boot ∨ s.sys.mode = Mode.run ∨ s.sys.mode = Mode.service ∨ s.sys.mode = Mode.limp :=
    mode.imp_right .inl
  simp [driveOf, fieldSupply, limpReason, vsup, cool, notLocked, takes, noLimp, inService]

/-! ### The supplies (R35, R46) -/

/-- The field supply and the thermal shutdown are as before. -/
def SameSupply (s s' : State) : Prop := s'.pow.vsup = s.pow.vsup ∧ s'.pow.thermalOff = s.pow.thermalOff

theorem sameSupply_of_pow {s s' : State} (h : s'.pow = s.pow) : SameSupply s s' := by rw [SameSupply, h]; exact ⟨rfl, rfl⟩

theorem sameSupply_trans {s s' s'' : State} (h : SameSupply s s') (h' : SameSupply s' s'') : SameSupply s s'' := by
  obtain ⟨vsup, thermal⟩ := h
  obtain ⟨vsup', thermal'⟩ := h'
  exact ⟨vsup'.trans vsup, thermal'.trans thermal⟩

theorem sameSupply_foldl {α : Type} {f : State → α → State} (keeps : ∀ s x, SameSupply s (f s x)) (l : List α) (s : State) :
    SameSupply s (l.foldl f s) :=
  List.foldlRecOn (motive := SameSupply s) l f ⟨rfl, rfl⟩ fun s' h x _ => sameSupply_trans h (keeps s' x)

theorem SameSupply.fieldSupply {s s' : State} (h : SameSupply s s') : fieldSupply s' = fieldSupply s := by
  obtain ⟨vsup, thermal⟩ := h
  rw [Machine.fieldSupply, vsup, thermal, ← Machine.fieldSupply]

theorem setRail_sameSupply (s : State) (j : Fin 8) (x : Rail) : SameSupply s (setRail s j x) := ⟨rfl, rfl⟩

theorem railsOn_sameSupply (s : State) : SameSupply s (railsOn s) := by
  unfold railsOn; split
  · exact ⟨rfl, rfl⟩
  · exact sameSupply_foldl (fun s j => setRail_sameSupply s j _) _ _

theorem hk_pow (cause : HkCause) (data : Nat) (s : State) : (hk cause data s).pow = s.pow := by simp

theorem serveRequest_sameSupply (b : Bay) (s : State) : SameSupply s (serveRequest b s) := by
  unfold serveRequest; dsimp only
  split
  · exact ⟨rfl, rfl⟩
  · split
    · rw [SameSupply, hk_pow]; exact ⟨rfl, rfl⟩
    · exact ⟨rfl, rfl⟩

theorem setPwr_sameSupply (b : Bay) (on : Bool) (s : State) : SameSupply s (setPwr b on s) := by
  unfold setPwr; dsimp only
  split
  · split
    · exact ⟨rfl, rfl⟩
    · exact sameSupply_trans (s' := setBayOut (setBay s b _) b _) ⟨rfl, rfl⟩ (serveRequest_sameSupply ..)
  · exact ⟨rfl, rfl⟩

/-! ### SYS through a mode change (R82, R84) -/

theorem dropDrain_keeps (m : BitVec 3) (y : Sys) :
    (dropDrain m y).limpSet = y.limpSet ∧ (dropDrain m y).wake = y.wake ∧ (dropDrain m y).waking = y.waking ∧
    (dropDrain m y).latUs = y.latUs := by
  unfold dropDrain; split <;> exact ⟨rfl, rfl, rfl, rfl⟩

theorem enterMode_keeps (m : BitVec 3) (s : State) :
    (enterMode m s).sys.limpSet = s.sys.limpSet ∧ (enterMode m s).sys.wake = s.sys.wake ∧
    (enterMode m s).sys.waking = s.sys.waking ∧ (enterMode m s).sys.latUs = s.sys.latUs := by
  unfold enterMode; split
  · exact ⟨rfl, rfl, rfl, rfl⟩
  · rw [transition_sys]; exact dropDrain_keeps ..

theorem enterMode_limpSet (m : BitVec 3) (s : State) : (enterMode m s).sys.limpSet = s.sys.limpSet := (enterMode_keeps m s).1

/-! ### Only the ledger array is written -/

/-- Of the memories the ledger array alone may change. -/
def LedgerOnly (s s' : State) : Prop := s'.mem = { s.mem with ledger := s'.mem.ledger }

theorem ledgerOnly_of_mem {s s' : State} (h : s'.mem = s.mem) : LedgerOnly s s' := by rw [LedgerOnly, h]

theorem ledgerOnly_trans {s s' s'' : State} (h : LedgerOnly s s') (h' : LedgerOnly s' s'') : LedgerOnly s s'' := by
  rw [LedgerOnly] at *; rw [h', h]

theorem ledgerOnly_foldl {α : Type} {f : State → α → State} (writes : ∀ s x, LedgerOnly s (f s x)) (l : List α) (s : State) :
    LedgerOnly s (l.foldl f s) :=
  List.foldlRecOn (motive := LedgerOnly s) l f rfl fun s' h x _ => ledgerOnly_trans h (writes s' x)

theorem LedgerOnly.keeps {s s' : State} (h : LedgerOnly s s') :
    s'.mem.flash = s.mem.flash ∧ s'.mem.sram = s.mem.sram ∧ s'.mem.store = s.mem.store := by
  rw [LedgerOnly] at h; rw [h]; exact ⟨rfl, rfl, rfl⟩

end Sys2Proof.Machine
end

section
/-! PROOFS. The seed application and the start of the Commons (R93, R116, R119, R120, R136, R141). -/

namespace Sys2Proof.Machine

/-! ### The log and the retirement fold write the ledger array alone (R237, R242, R471) -/

theorem fwLog_ledgerOnly (type : Nat) (data : List Byte) (s : State) : LedgerOnly s (fwLog type data s) := logEntry_mem ..

theorem requestFold_ledgerOnly (s : State) : LedgerOnly s (requestFold s) := ledgerOnly_of_mem (by simp)

theorem foldRetirements_ledgerOnly (s : State) : LedgerOnly s (foldRetirements s) := by
  unfold foldRetirements; dsimp only
  split
  · rfl
  · exact ledgerOnly_trans (ledgerOnly_trans (s' := { s with chs := { s.chs with toFold := [] } }) rfl
      (ledgerOnly_foldl (fun s _ => fwLog_ledgerOnly ..) _ _)) (requestFold_ledgerOnly _)

theorem unretireOne_ledgerOnly (s : State) (n : Chan) : LedgerOnly s (unretireOne s n) :=
  ledgerOnly_trans (s' := { s with chs := { s.chs with retired := setBits s.chs.retired n.val 1 0 } }) rfl (fwLog_ledgerOnly ..)

theorem applyRetired_ledgerOnly (s : State) : LedgerOnly s (applyRetired s) := by
  unfold applyRetired; dsimp only
  have rebuilt : ∀ x : Channels, LedgerOnly s { foldRetirements s with chs := x } := fun _ =>
    ledgerOnly_trans (foldRetirements_ledgerOnly s) rfl
  have lifted : ∀ (x : Channels) (l : List Chan), LedgerOnly s _ := fun x l =>
    ledgerOnly_trans (rebuilt x) (ledgerOnly_foldl unretireOne_ledgerOnly l _)
  split
  · exact ledgerOnly_trans (ledgerOnly_trans (lifted _ _) rfl) (requestFold_ledgerOnly _)
  · exact lifted _ _

/-! ### The image in parts (R136) -/

/-- The image's records applied up to the retired set: clocks, channels, flows, threads, guards, tiles, bays, ledger,
owners and the Headland's UART. -/
def appliedRecords (s : State) : State :=
  let s := applyChannels (applyFurrows (applyClocks s))
  let s := applyTiles (applyGuards (applyThreads (applyFlows s)))
  applyUart (judgeOwners (applyLedger (applyBays s)))

/-- END: every pin takes its state. -/
def endApplied (s : State) : State := applyStrobes (releasePins (applyRetired (appliedRecords s)))

/-- The whole application, with the Commons' state by the IMAGE record and the entry in the log. -/
theorem applySeed_eq (liveUs : Half) (s : State) : ∃ data, applySeed liveUs s = fwLog 7 data
    { endApplied s with boot := { (endApplied s).boot with
        liveUs := liveUs, commons := if (seedOne (endApplied s) 0x16).isSome then 3 else 0 } } := ⟨_, rfl⟩

theorem applyGuards_lock (s : State) : (applyGuards s).guard.lock = true := rfl

/-- The seed's application locks the regions, and leaves SYS, the boot record, the image and every memory but the ledger
array. -/
theorem appliedRecords_keeps (s : State) : (appliedRecords s).guard.lock = true ∧ (appliedRecords s).sys = s.sys ∧
    (appliedRecords s).boot = s.boot ∧ (appliedRecords s).seed = s.seed ∧ (appliedRecords s).mem = s.mem := by
  refine ⟨?_, by simp [appliedRecords], by simp [appliedRecords], by simp [appliedRecords], by simp [appliedRecords]⟩
  simp only [appliedRecords, applyUart_same, judgeOwners_same, applyLedger_same, applyBays_same, applyTiles_same]
  exact applyGuards_lock _

theorem endApplied_keeps (s : State) : (endApplied s).guard.lock = true ∧ (endApplied s).sys = s.sys ∧
    (endApplied s).boot = s.boot ∧ (endApplied s).seed = s.seed ∧ LedgerOnly s (endApplied s) := by
  obtain ⟨lock, sys, boot, seed, mem⟩ := appliedRecords_keeps s
  refine ⟨by simp [endApplied, lock], by simp [endApplied, sys], by simp [endApplied, boot], by simp [endApplied, seed], ?_⟩
  exact ledgerOnly_trans (s' := applyRetired (appliedRecords s))
    (ledgerOnly_trans (ledgerOnly_of_mem mem) (applyRetired_ledgerOnly _)) (ledgerOnly_of_mem (by simp [endApplied]))

/-! ### The pins at END (R136) -/

theorem railLevels_sameSupply (e : SeedEntry) (s : State) : SameSupply s (railLevels e s) :=
  sameSupply_foldl (fun s j => setRail_sameSupply s j _) _ _

theorem applyClocks_sameSupply (s : State) : SameSupply s (applyClocks s) := by
  unfold applyClocks; split
  · exact ⟨rfl, rfl⟩
  · refine sameSupply_trans ?_ (railLevels_sameSupply _ _)
    exact ⟨rfl, rfl⟩

theorem applyBays_sameSupply (s : State) : SameSupply s (applyBays s) := by
  refine sameSupply_foldl (fun s b => ?_) _ s
  split
  · exact ⟨rfl, rfl⟩
  · split
    · exact setPwr_sameSupply ..
    · exact ⟨rfl, rfl⟩

theorem appliedRecords_sameSupply (s : State) : SameSupply s (appliedRecords s) := by
  have bays := applyBays_sameSupply
    (applyTiles (applyGuards (applyThreads (applyFlows (applyChannels (applyFurrows (applyClocks s)))))))
  have clocks := applyClocks_sameSupply s
  simp only [SameSupply, applyTiles_same, applyGuards_same, applyThreads_same, applyFlows_same, applyChannels_same,
    applyFurrows_same] at bays
  refine sameSupply_trans clocks (sameSupply_trans bays (sameSupply_of_pow ?_))
  simp [appliedRecords]

/-- The channels at END are those whose pins the restored drives set. -/
theorem endApplied_chs {s : State} (field : fieldSupply s = true) :
    (endApplied s).chs = (restoreDrives (railsOn (applyRetired (appliedRecords s)))).chs := by
  have supplied : fieldSupply (applyRetired (appliedRecords s)) = true := by
    rw [(sameSupply_trans (appliedRecords_sameSupply s) (sameSupply_of_pow (by simp))).fieldSupply, field]
  simp [endApplied, releasePins, supplied]

theorem endApplied_drive {s : State} (vsup : s.pow.vsup = true) (cool : s.pow.thermalOff = false)
    (boot : s.sys.mode = Mode.boot) (noLimp : s.sys.limpSet = 0) (n : Chan) (inService : isRetired (endApplied s) n = false) :
    (chan (endApplied s) n).drive = if (chan (endApplied s) n).en then .func else .hiZ := by
  have chs := endApplied_chs (s := s) (by simp [fieldSupply, vsup, cool])
  rw [isRetired, chs, restoreDrives_retired] at inService
  rw [chan, chs, ← chan, chan_restoreDrives]
  obtain ⟨vsup', thermal'⟩ := sameSupply_trans (appliedRecords_sameSupply s)
    (sameSupply_trans (s' := applyRetired (appliedRecords s)) (sameSupply_of_pow (by simp)) (railsOn_sameSupply _))
  obtain ⟨-, sys, -⟩ := appliedRecords_keeps s
  have still : (railsOn (applyRetired (appliedRecords s))).sys = s.sys := by simp [sys]
  exact driveOf_enabled (vsup'.trans vsup) (thermal'.trans cool) (.inl (still ▸ boot)) (by rw [still]; exact noLimp) inService

/-! ### The seed application (R93, R136, R141) -/

theorem fwLog_frame (type : Nat) (data : List Byte) (s : State) :
    (fwLog type data s).guard = s.guard ∧ (fwLog type data s).sys = s.sys ∧ (fwLog type data s).boot = s.boot ∧
    (fwLog type data s).seed = s.seed ∧ (fwLog type data s).chs = s.chs := by simp

/-- The application locks the regions, leaves SYS, the image and every memory but the ledger array, and notes the
Commons by the IMAGE record. -/
theorem applySeed_leaves (liveUs : Half) (s : State) :
    (applySeed liveUs s).guard.lock = true ∧ (applySeed liveUs s).sys = s.sys ∧
    (applySeed liveUs s).boot = { s.boot with liveUs := liveUs, commons := if (seedOne s 0x16).isSome then 3 else 0 } ∧
    (applySeed liveUs s).seed = s.seed ∧ (applySeed liveUs s).chs = (endApplied s).chs ∧ LedgerOnly s (applySeed liveUs s) := by
  obtain ⟨data, e⟩ := applySeed_eq liveUs s
  obtain ⟨lock, sys, boot, seed, written⟩ := endApplied_keeps s
  have image : seedOne (endApplied s) 0x16 = seedOne s 0x16 := by rw [seedOne, seedOf, seed]; rfl
  rw [e]
  generalize endApplied s = y at *
  obtain ⟨guard', sys', boot', seed', chs'⟩ := fwLog_frame 7 data
    { y with boot := { y.boot with liveUs := liveUs, commons := if (seedOne y 0x16).isSome then 3 else 0 } }
  refine ⟨by rw [guard', lock], sys'.trans sys, ?_, seed'.trans seed, chs', ?_⟩
  · rw [boot', image, boot]
  · refine ledgerOnly_trans ?_ (fwLog_ledgerOnly ..)
    exact ledgerOnly_trans written rfl

/-- The codes of both slots, neither of which passes (R141). -/
def noteCodes (x : SeedSense) (s : State) : State :=
  { s with seed := { s.seed with
      failA := BitVec.ofNat 4 (chooseSeed x s).2.2.1, failB := BitVec.ofNat 4 (chooseSeed x s).2.2.2.1
      fallback := (chooseSeed x s).2.2.2.2 } }

theorem seedOne_isSome (s : State) (type : Byte) :
    (seedOne s type.toNat).isSome = (s.seed.recs.find? fun e => decide (e.type = type)).isSome := by
  rw [seedOne, seedOf, List.head?_filter]
  simp only [BitVec.toNat_inj]

section
variable {s : State} {x : SeedSense} (locked : s.boot.romLocked = true) (measured : s.boot.remBusy = false)
  (up : s.wld.restart = false) (fresh : s.seed.applied = false)
include locked measured up fresh

/-- A passing image in Boot is applied as a whole. -/
theorem exec_seedApply_boot (boot : s.sys.mode = Mode.boot) (ok : (chooseSeed x s).1 = true) :
    exec (.seedApply x) s = .next (applySeed x.liveUs (noteSeed (chooseSeed x s).2.1 (chooseSeed x s).2.2.2.2
      (chooseSeed x s).2.2.1 (chooseSeed x s).2.2.2.1 false s)) := by
  have notLocked : ¬ s.sys.mode = Mode.lockdown := by rw [boot]; decide
  simp [execSeedApply, seedApplyOp, locked, measured, up, fresh, boot, ok, Mode.boot, Mode.lockdown]

/-- In Lockdown its MODES record is, and the pins follow it. -/
theorem exec_seedApply_lockdown (lockdown : s.sys.mode = Mode.lockdown) (ok : (chooseSeed x s).1 = true) :
    let s1 := noteSeed (chooseSeed x s).2.1 (chooseSeed x s).2.2.2.2 (chooseSeed x s).2.2.1 (chooseSeed x s).2.2.2.1 true s
    exec (.seedApply x) s = .next (if fieldSupply s1 then restoreDrives s1 else s1) := by
  simp [execSeedApply, seedApplyOp, locked, measured, up, fresh, lockdown, ok]

/-- With no passing image the codes are noted, and the module enters Limp reason 1. -/
theorem exec_seedApply_none (boot : s.sys.mode = Mode.boot) (none : (chooseSeed x s).1 = false) :
    exec (.seedApply x) s = .next (enterLimp 1 (noteCodes x s)) := by
  simp [execSeedApply, seedApplyOp, noteCodes, locked, measured, up, fresh, boot, none, Mode.boot, Mode.lockdown]

end

/-! ### Limp reason 1 (R93) -/

theorem enterLimp_noImage {s : State} (boot : s.sys.mode = Mode.boot) : enterLimp 1 s =
    (fins 128).foldl (fun s n => stopChannel n .hiZ s)
      (enterMode Mode.limp { s with sys := { s.sys with limpSet := setBits s.sys.limpSet 0 1 1 } }) := by
  simp [enterLimp, boot, Mode.boot, Mode.lockdown, Mode.backup, Mode.service, Mode.limp]

theorem foldl_stopChannel_keeps (l : List Chan) (d : PinDrive) (s : State) :
    (l.foldl (fun s n => stopChannel n d s) s).sys = s.sys ∧ (l.foldl (fun s n => stopChannel n d s) s).seed = s.seed := by
  simp

/-- From Boot the module enters Limp with its reason, and every pin is hi-Z. -/
theorem enterLimp_noImage_leaves {s : State} (boot : s.sys.mode = Mode.boot) :
    (enterLimp 1 s).sys.mode = Mode.limp ∧ limpReason (enterLimp 1 s) 1 = true ∧ (enterLimp 1 s).seed = s.seed ∧
    ∀ n, (chan (enterLimp 1 s) n).drive = .hiZ := by
  let entered := enterMode Mode.limp { s with sys := { s.sys with limpSet := setBits s.sys.limpSet 0 1 1 } }
  have reason : entered.sys.limpSet = setBits s.sys.limpSet 0 1 1 := enterMode_limpSet ..
  obtain ⟨sys, seed⟩ := foldl_stopChannel_keeps (fins 128) .hiZ entered
  rw [enterLimp_noImage boot]
  refine ⟨?_, ?_, ?_, fun n => ?_⟩
  · rw [sys]; exact enterMode_mode ..
  · rw [limpReason, sys, reason]; exact setBits_getLsbD _ (by decide)
  · rw [seed]; simp [entered]
  · exact foldl_stopChannel_drive (pin := fun _ _ => .hiZ) (fins 128) entered
      (fun _ _ _ _ _ => rfl) n (.inl (List.mem_finRange n))

/-! ### The outcomes of SEED_APPLY -/

section
variable {s : State} {x : SeedSense} (locked : s.boot.romLocked = true) (measured : s.boot.remBusy = false)
  (up : s.wld.restart = false) (fresh : s.seed.applied = false)
include locked measured up fresh

theorem seedApply_applies (ok : (chooseSeed x s).1 = true) (boot : s.sys.mode = Mode.boot) :
    ∃ s', exec (.seedApply x) s = .next s' ∧ s'.seed.applied = true ∧ s'.seed.slot = (chooseSeed x s).2.1 ∧
      s'.sys.mode = Mode.boot ∧ s'.seed.digest = seedDigest s (seedSlotBase (chooseSeed x s).2.1) ∧
      s'.seed.recs = seedEntries s (seedSlotBase (chooseSeed x s).2.1) ∧ s'.seed.lockdownOnly = false ∧
      s'.guard.lock = true ∧ s'.boot.liveUs = x.liveUs ∧
      s'.boot.commons = (if ((seedEntries s (seedSlotBase (chooseSeed x s).2.1)).find? fun e => decide (e.type = 0x16)).isSome
        then 3 else 0) ∧
      s'.mem.flash = s.mem.flash ∧ s'.mem.sram = s.mem.sram ∧
      (s.pow.vsup = true → s.pow.thermalOff = false → s.sys.limpSet = 0 → ∀ n, isRetired s' n = false →
        (chan s' n).drive = if (chan s' n).en then .func else .hiZ) := by
  have ran := exec_seedApply_boot locked measured up fresh boot ok
  generalize noted : noteSeed (chooseSeed x s).2.1 _ _ _ false s = s1 at ran
  have seed : s1.seed = (noteSeed (chooseSeed x s).2.1 (chooseSeed x s).2.2.2.2 (chooseSeed x s).2.2.1 (chooseSeed x s).2.2.2.1
    false s).seed := by rw [noted]
  have frame : s1 = { s with seed := s1.seed } := by rw [← noted]; rfl
  have recs : s1.seed.recs = seedEntries s (seedSlotBase (chooseSeed x s).2.1) := by rw [seed]; rfl
  have sys : s1.sys = s.sys := by rw [frame]
  have pow : s1.pow = s.pow := by rw [frame]
  have mem : s1.mem = s.mem := by rw [frame]
  obtain ⟨lock, sys', boot', seed', chs', written⟩ := applySeed_leaves x.liveUs s1
  obtain ⟨flash, sram, -⟩ := written.keeps
  refine ⟨_, ran, by rw [seed', seed]; rfl, by rw [seed', seed]; rfl, by rw [sys', sys, boot], by rw [seed', seed]; rfl,
    seed' ▸ recs, by rw [seed', seed]; rfl, lock, by rw [boot'], ?_, by rw [flash, mem], by rw [sram, mem], ?_⟩
  · rw [boot', ← recs, ← seedOne_isSome]; rfl
  · intro vsup cool noLimp n inService
    rw [isRetired, chs'] at inService
    rw [chan, chs']
    exact endApplied_drive (by rw [pow, vsup]) (by rw [pow, cool]) (by rw [sys, boot]) (by rw [sys, noLimp]) n inService

/-- R136: in Lockdown the pins alone change beside the image. -/
theorem seedApply_lockdown (ok : (chooseSeed x s).1 = true) (lockdown : s.sys.mode = Mode.lockdown) :
    ∃ s', exec (.seedApply x) s = .next s' ∧ s'.seed.applied = true ∧ s'.seed.lockdownOnly = true ∧ s'.sys = s.sys ∧
      (∀ e ∈ s'.seed.recs, e.type = 0x12) ∧ (∀ n, (chan s' n).en = (chan s n).en) ∧ s'.cores = s.cores ∧
      s'.drill = s.drill ∧ s'.mem = s.mem := by
  have ran := exec_seedApply_lockdown locked measured up fresh lockdown ok
  dsimp only at ran
  generalize noted : noteSeed (chooseSeed x s).2.1 _ _ _ true s = s1 at ran
  have shown : s1.seed.applied = true ∧ s1.seed.lockdownOnly = true ∧ ∀ e ∈ s1.seed.recs, e.type = 0x12 := by
    rw [← noted]
    refine ⟨rfl, rfl, fun e mem => ?_⟩
    exact of_decide_eq_true (List.mem_filter.1 mem).2
  have frame : s1 = { s with seed := s1.seed } := by rw [← noted]; rfl
  obtain ⟨applied, only, modes⟩ := shown
  refine ⟨_, ran, ?_⟩
  split
  · simp only [restoreDrives_same, chan_restoreDrives]
    rw [frame]
    exact ⟨applied, only, rfl, modes, fun _ => rfl, rfl, rfl, rfl⟩
  · rw [frame]
    exact ⟨applied, only, rfl, modes, fun _ => rfl, rfl, rfl, rfl⟩

theorem seedApply_none (none : (chooseSeed x s).1 = false) (boot : s.sys.mode = Mode.boot) :
    ∃ s', exec (.seedApply x) s = .next s' ∧ s'.sys.mode = Mode.limp ∧ limpReason s' 1 = true ∧
      s'.seed.applied = false ∧ ∀ n, (chan s' n).drive = .hiZ := by
  obtain ⟨mode, reason, seed, drives⟩ := enterLimp_noImage_leaves (s := noteCodes x s) boot
  exact ⟨_, exec_seedApply_none locked measured up fresh boot none, mode, reason, by rw [seed]; exact fresh, drives⟩

end

/-! ### The Commons (R116, R119, R120) -/

/-- The module is in Run from Boot, with the Commons as bound. -/
def runBound (errA errB : Bool) (s : State) : State :=
  settleEscrow (commitVersions (enterMode Mode.run (bindCommons errA errB s)))

/-- R240: within the seed's limit the retired count changes nothing. -/
theorem checkRetiredLimit_within {s s' : State} (seed : s'.seed = s.seed) (chs : s'.chs = s.chs)
    (h : retiredLimit s = 0 ∨ retiredCount s ≤ retiredLimit s) : checkRetiredLimit s' = s' := by
  have limit : retiredLimit s' = retiredLimit s := by rw [retiredLimit, seedOne, seedOf, seed]; rfl
  have count : retiredCount s' = retiredCount s := by rw [retiredCount, chs]; rfl
  unfold checkRetiredLimit
  rw [limit, count, if_neg]
  rintro ⟨some, above, -⟩
  exact h.elim some above.not_ge

theorem exec_commonsBind_boot {s : State} (boot : s.sys.mode = Mode.boot) (applied : s.seed.applied = true)
    (runs : enclRuns s = true) (within : retiredLimit s = 0 ∨ retiredCount s ≤ retiredLimit s) (errA errB : Bool) :
    exec (.commonsBind errA errB) s = .next (runBound errA errB s) := by
  have bound := checkRetiredLimit_within (s' := runBound errA errB s) (by simp [runBound]) (by simp [runBound]) within
  simp only [exec_commonsBind, execCommonsBind, commonsBindOp, applied, runs, boot, not_true, or_self, if_false, if_true]
  exact congrArg _ bound

theorem runBound_leaves {s : State} (boot : s.sys.mode = Mode.boot) (errA errB : Bool) :
    (runBound errA errB s).sys.mode = Mode.run ∧ (runBound errA errB s).sys.prev = Mode.boot ∧
    (runBound errA errB s).boot = (bindCommons errA errB s).boot ∧
    (runBound errA errB s).cores = (bindCommons errA errB s).cores := by
  have entered : (runBound errA errB s).sys = (enterMode Mode.run (bindCommons errA errB s)).sys := by simp [runBound]
  have still : (bindCommons errA errB s).sys.mode = Mode.boot := by simp [boot]
  refine ⟨by rw [entered, enterMode_mode], ?_, by simp [runBound], by simp [runBound]⟩
  rw [entered, enterMode_prev (by rw [still]; decide), still]

/-- Without an IMAGE record nothing is bound. -/
theorem bindCommons_noImage {s : State} (none : seedOne s 0x16 = none) (unbound : s.boot.commons ≠ 1) (errA errB : Bool) :
    bindCommons errA errB s = s := by
  have latched : latchCommons errA errB s = s := by simp [latchCommons, none]
  simp only [bindCommons, latched, unbound, if_false]

/-- Whether a slot matches the IMAGE record, as its own read errors tell. -/
def slotMatches (errA errB : Bool) (s : State) (e : SeedEntry) (b : Bool) : Bool :=
  commonsMatches s e b (if b then errB else errA)

section
variable {s : State} {e : SeedEntry} (image : seedOne s 0x16 = some e) (errA errB : Bool)
include image

theorem bindCommons_unmatched (first : slotMatches errA errB s e (decide (e.num 0 1 = 1)) = false)
    (other : slotMatches errA errB s e (!decide (e.num 0 1 = 1)) = false) :
    bindCommons errA errB s = { s with boot := { s.boot with commons := 2 } } := by
  have latched : latchCommons errA errB s = { s with boot := { s.boot with commons := 2 } } := by
    unfold slotMatches at first other
    simp only [latchCommons, image, first, other]
    rfl
  simp [bindCommons, latched]

/-- The preferred slot, when it matches, is bound, and the Commons starts from its entry. -/
theorem bindCommons_matched (first : slotMatches errA errB s e (decide (e.num 0 1 = 1)) = true) :
    bindCommons errA errB s =
      startCommons 0x0C { s with boot := { s.boot with commons := 1, commonsSlot := decide (e.num 0 1 = 1) } } := by
  have latched : latchCommons errA errB s =
      { s with boot := { s.boot with commons := 1, commonsSlot := decide (e.num 0 1 = 1) } } := by
    unfold slotMatches at first
    simp only [latchCommons, image, first]
    rfl
  simp [bindCommons, latched]

end

/-- The Commons thread that a start takes: the lowest idle one without a task. -/
def commonsThread (s : State) : Option Thread :=
  (fins 16).find? fun t => !homeEncl s t && modeLets s t && decide ((thr s t).run = .idle) && (thr s t).task.isNone

theorem startCommons_starts {s : State} {t : Thread} (lowest : commonsThread s = some t) (entryOff : Nat) :
    (thr (startCommons entryOff s) t).run = .running ∧ (thr (startCommons entryOff s) t).pc = BitVec.ofNat 32
      (commonsBase s.boot.commonsSlot + 0x40 + numAt (flashRead s (commonsBase s.boot.commonsSlot) 0x40) entryOff 4) := by
  unfold commonsThread at lowest
  simp [startCommons, lowest]

/-- Settles O41: the seed in Boot, in Lockdown and without an image, then the Commons with no record, no match and a
match. -/
theorem seedAndCommons : Obligations.SeedAndCommons := by
  unfold Obligations.SeedAndCommons
  refine fun s => ⟨fun x locked measured up fresh => ⟨?_, ?_, ?_⟩, fun errA errB boot applied runs within => ⟨?_, ?_⟩⟩
  · exact seedApply_applies locked measured up fresh
  · exact seedApply_lockdown locked measured up fresh
  · exact seedApply_none locked measured up fresh
  · intro none unbound
    obtain ⟨mode, prev, boot', cores⟩ := runBound_leaves boot errA errB
    rw [bindCommons_noImage none unbound] at boot' cores
    exact ⟨_, exec_commonsBind_boot boot applied runs within errA errB, mode, prev, boot', cores⟩
  · intro e image first err
    obtain ⟨mode, -, boot', cores⟩ := runBound_leaves boot errA errB
    have ran := exec_commonsBind_boot boot applied runs within errA errB
    refine ⟨fun no other => ?_, fun yes => ?_⟩
    · rw [bindCommons_unmatched image errA errB no other] at boot' cores
      exact ⟨_, ran, mode, by rw [boot'], cores⟩
    · rw [bindCommons_matched image errA errB yes] at boot' cores
      refine ⟨_, ran, mode, by rw [boot']; simp, by rw [boot']; simp [first], fun t lowest => ?_⟩
      rw [thr, cores]
      exact startCommons_starts (s := { s with boot := { s.boot with commons := 1, commonsSlot := first } }) lowest 0x0C

end Sys2Proof.Machine
end

section
/-! PROOFS. What the release of tasks leaves of the channels, the supplies and the bays' outputs (R87, R155, R170, R267,
R272, R451): credits and cells cross to a channel, and of the channel nothing else changes. -/

namespace Sys2Proof.Machine

/-! ### Cells and credits of a channel -/

/-- Of every channel only its receive and transmit sides may change. -/
structure OnlyCells (s s' : State) : Prop where
  rest : ∀ n, chan s' n = { chan s n with rx := (chan s' n).rx, tx := (chan s' n).tx }

theorem onlyCells_of_chs {s s' : State} (h : s'.chs.ch = s.chs.ch) : OnlyCells s s' := ⟨fun n => by
  have same : chan s' n = chan s n := by rw [chan, h, ← chan]
  rw [same]⟩

theorem onlyCells_trans {s s' s'' : State} (h : OnlyCells s s') (h' : OnlyCells s' s'') : OnlyCells s s'' := ⟨fun n => by
  rw [h'.rest n, h.rest n]⟩

theorem onlyCells_foldl {α : Type} {f : State → α → State} (keeps : ∀ s x, OnlyCells s (f s x)) (l : List α) (s : State) :
    OnlyCells s (l.foldl f s) :=
  List.foldlRecOn (motive := OnlyCells s) l f (onlyCells_of_chs rfl) fun s' h x _ => onlyCells_trans h (keeps s' x)

theorem onlyCells_setChan {s : State} {n : Chan} {c : Channel} (rest : c = { chan s n with rx := c.rx, tx := c.tx }) :
    OnlyCells s (setChan s n c) := ⟨fun k => by
  by_cases same : k = n
  · subst same; rw [chan_setChan_same]; exact rest
  · rw [chan_setChan_other s same]⟩

theorem moveRx_onlyCells (n : Chan) (st : RxCell) (cells : List (BitVec 5)) (s : State) : OnlyCells s (moveRx n st cells s) :=
  onlyCells_setChan rfl

theorem moveTx_onlyCells (n : Chan) (st : TxCell) (cells : List (BitVec 5)) (s : State) : OnlyCells s (moveTx n st cells s) :=
  onlyCells_setChan rfl

/-- An event of the channel joins CHEV[f]. -/
theorem joinChev_onlyCells {s : State} {n : Chan} {c : Channel} (rest : c = { chan s n with rx := c.rx, tx := c.tx }) (k : Nat)
    (f : Furrow) (l : List ChEvent) : OnlyCells s (qWrite k 1 (setChev (setChan s n c) f l)) :=
  onlyCells_trans (onlyCells_setChan rest) (onlyCells_of_chs (by simp [setChev]))

theorem flushHeld_onlyCells (n : Chan) (k : Nat) (s : State) : OnlyCells s (flushHeld n k s) := by
  induction k generalizing s with
  | zero => exact onlyCells_of_chs rfl
  | succ k ih =>
    unfold flushHeld; dsimp only
    split
    · exact onlyCells_of_chs rfl
    · split
      · exact onlyCells_of_chs rfl
      · split
        · exact onlyCells_of_chs (by simp)
        · exact onlyCells_trans (joinChev_onlyCells rfl ..) (ih _)

theorem applyChwr_onlyCells (i : ChwrItem) (s : State) : OnlyCells s (applyChwr i s) := by
  cases i with
  | post => exact onlyCells_of_chs rfl
  | grant n => exact onlyCells_trans (onlyCells_setChan (n := n) rfl) (flushHeld_onlyCells ..)
  | release n cells => exact moveRx_onlyCells ..
  | handover n fr => exact onlyCells_trans (moveTx_onlyCells ..) (onlyCells_setChan rfl)

theorem crossCells_onlyCells (i : ChwrItem) (s : State) : OnlyCells s (crossCells i s) := by
  cases i with
  | post | grant => exact onlyCells_of_chs rfl
  | release n cells => exact moveRx_onlyCells ..
  | handover n fr => exact moveTx_onlyCells ..

theorem popChwr_onlyCells (f : Furrow) (rest : List ChwrItem) (s : State) : OnlyCells s (popChwr f rest s) := by
  have popped : OnlyCells s (qLeave (32 + f.val) 16 (rest.length + 1) (setChwr s f rest)) :=
    onlyCells_of_chs (by simp [setChwr])
  unfold popChwr; dsimp only
  split
  · exact popped
  · exact onlyCells_trans popped (crossCells_onlyCells ..)

theorem settleChwr_onlyCells (f : Furrow) (k : Nat) (s : State) : OnlyCells s (settleChwr f k s) := by
  induction k generalizing s with
  | zero => exact onlyCells_of_chs rfl
  | succ k ih =>
    unfold settleChwr
    split
    · exact onlyCells_of_chs rfl
    · split
      · exact onlyCells_of_chs rfl
      · exact onlyCells_of_chs rfl
      · exact onlyCells_trans (onlyCells_trans (popChwr_onlyCells ..) (applyChwr_onlyCells ..)) (ih _)

theorem sendChwr_onlyCells (f : Furrow) (i : ChwrItem) (s : State) : OnlyCells s (sendChwr f i s) := by
  have joined : OnlyCells s (qJoin (32 + f.val) 16 (chwrOf s f).length (setChwr s f (chwrOf s f ++ [i]))) :=
    onlyCells_of_chs (by simp [setChwr])
  unfold sendChwr; dsimp only
  split
  · exact onlyCells_trans (onlyCells_trans joined (crossCells_onlyCells ..)) (settleChwr_onlyCells ..)
  · exact onlyCells_trans joined (settleChwr_onlyCells ..)

theorem grantPass_onlyCells (f : Nat) (s : State) : OnlyCells s (grantPass f s) := by
  refine onlyCells_foldl (fun s n => ?_) (fins 128) s
  split
  · exact onlyCells_trans (s' := takeCredit f s) (onlyCells_of_chs rfl) (sendChwr_onlyCells ..)
  · exact onlyCells_of_chs rfl

theorem pumpGrants_onlyCells (f k : Nat) (s : State) : OnlyCells s (pumpGrants f k s) := by
  induction k generalizing s with
  | zero => exact onlyCells_of_chs rfl
  | succ k ih =>
    unfold pumpGrants
    split
    · exact onlyCells_of_chs rfl
    · exact onlyCells_trans (grantPass_onlyCells ..) (ih _)

theorem returnCells_onlyCells (cells : List (Chan × BitVec 5)) (s : State) : OnlyCells s (returnCells cells s) := by
  refine onlyCells_foldl (fun s n => ?_) (fins 128) s
  dsimp only
  split
  · exact onlyCells_of_chs rfl
  · exact sendChwr_onlyCells ..

/-! ### A task released or cancelled (R267) -/

theorem retireTask_onlyCells (x : Desc) (d : Fin 1024) (s : State) : OnlyCells s (retireTask x d s) := by
  refine onlyCells_trans (returnCells_onlyCells x.life.cells s) (onlyCells_trans ?_ (pumpGrants_onlyCells ..))
  exact onlyCells_of_chs (by simp)

theorem releaseDesc_onlyCells (d : Fin 1024) (s : State) : OnlyCells s (releaseDesc d s) := by
  have ended : OnlyCells s (endCommands d s) := onlyCells_of_chs (by simp [endCommands])
  exact onlyCells_trans ended (retireTask_onlyCells ..)

theorem cancelDesc_onlyCells (d : Fin 1024) (status : Byte) (s : State) : OnlyCells s (cancelDesc d status s) := by
  refine onlyCells_trans ?_ (releaseDesc_onlyCells ..)
  exact onlyCells_of_chs (by rw [setDesc_passTurn_chs])

theorem setDesc_chs (s : State) (d : Fin 1024) (x : Desc) : (setDesc s d x).chs = s.chs := rfl

theorem releaseBayTask_onlyCells (b : Bay) (d : Fin 1024) (s : State) : OnlyCells s (releaseBayTask b d s) := by
  unfold releaseBayTask; dsimp only
  split
  · exact onlyCells_of_chs rfl
  · split
    · exact cancelDesc_onlyCells ..
    · split
      · refine onlyCells_trans (onlyCells_of_chs ?_) (releaseDesc_onlyCells ..)
        rw [setDesc_chs]
      · exact onlyCells_of_chs (by rw [setDesc_chs])

theorem bayReset_onlyCells (b : Bay) (cause : Option (BitVec 4)) (link : Option (BitVec 3)) (s : State) :
    OnlyCells s (bayReset b cause link s) := by
  have staged : OnlyCells s (stopQuiescing b (endBayStaging b s)) := onlyCells_of_chs (congrArg _ (endBayStaging_keeps b s).2)
  have parts : (bayReset b cause link s).chs = (bayResetParts b cause link s).chs := rfl
  have after : (bayResetParts b cause link s).chs = (resetTasks b s).chs := by
    have flows : ∀ s, (restoreBayFlows b s).chs = s.chs := fun s => by simp
    have regs : ∀ s, (resetRegs b cause s).chs = s.chs := fun s => by simp [resetRegs]
    rw [bayResetParts_eq, flows, (relink_keeps ..).2, regs]
  have released : OnlyCells s (resetTasks b s) := by
    refine onlyCells_trans staged (onlyCells_trans ?_ (onlyCells_of_chs (congrArg _ (orphanRequests_keeps b _).1)))
    exact onlyCells_foldl (fun s d => releaseBayTask_onlyCells b d s) (fins 1024) _
  exact onlyCells_trans released (onlyCells_of_chs (by rw [parts, after]))

theorem cancelWaiting_onlyCells (s : State) : OnlyCells s (cancelWaiting s) := by
  refine onlyCells_foldl (fun s d => ?_) (fins 1024) s
  split
  · exact cancelDesc_onlyCells ..
  · exact onlyCells_of_chs rfl

theorem cancelWaiting_retired (s : State) : (cancelWaiting s).chs.retired = s.chs.retired := by
  unfold cancelWaiting
  rw [foldl_retired]
  intro s d
  split
  · exact cancelDesc_leavesRetired ..
  · rfl

/-! ### The supplies while commands end (R395), and the bays' outputs (R87) -/

theorem bayEvent_pow (b : Bay) (s : State) : (bayEvent b s).pow = s.pow := by simp

/-- The end of an orderly removal turns its bay off, and nothing else of the power stage changes. -/
theorem settleQuiesce_sameSupply (b : Bay) (s : State) : SameSupply s (settleQuiesce b s) := by
  unfold settleQuiesce; dsimp only
  split
  · rw [SameSupply, bayEvent_pow]; exact ⟨rfl, rfl⟩
  · exact ⟨rfl, rfl⟩

theorem completeCmd_sameSupply (b : Bay) (c : BayCmd) (status : Byte) (result : DWord) (s : State) :
    SameSupply s (completeCmd b c status result s) := by
  unfold completeCmd; dsimp only
  refine sameSupply_trans (sameSupply_of_pow ?_) (settleQuiesce_sameSupply ..)
  split <;> simp

theorem bayCmdDone_sameSupply (b : Bay) (slot : Fin 256) (status : Byte) (result : DWord) (s : State) :
    SameSupply s (bayCmdDone b slot status result s) := by
  unfold bayCmdDone
  split
  · exact ⟨rfl, rfl⟩
  · split
    · exact sameSupply_trans (s' := dropCmd b slot s) ⟨rfl, rfl⟩ (settleQuiesce_sameSupply ..)
    · refine sameSupply_trans (sameSupply_of_pow ?_) (completeCmd_sameSupply ..)
      split <;> simp

theorem cancelDesc_sameSupply (d : Fin 1024) (status : Byte) (s : State) : SameSupply s (cancelDesc d status s) := by
  have ended : ∀ s, SameSupply s (endCommands d s) := fun s => sameSupply_foldl (fun s p => bayCmdDone_sameSupply ..) _ s
  rw [cancelDesc, releaseDesc_eq]
  refine sameSupply_trans (sameSupply_trans (sameSupply_of_pow ?_) (ended _)) (sameSupply_of_pow (retireTask_pow ..))
  simp

theorem cancelWaiting_sameSupply (s : State) : SameSupply s (cancelWaiting s) := by
  unfold cancelWaiting
  refine sameSupply_foldl (fun s d => ?_) (fins 1024) s
  split
  · exact cancelDesc_sameSupply ..
  · exact ⟨rfl, rfl⟩

theorem foldl_outputOff (l : List Bay) (s : State) (b : Bay) (h : b ∈ l ∨ (bayOut s b).on = false) :
    (bayOut (l.foldl (fun s b => setBayOut s b { bayOut s b with on := false }) s) b).on = false := by
  induction l generalizing s with
  | nil => simpa using h
  | cons k l ih =>
    refine ih _ ?_
    rw [bayOut_setBayOut]
    by_cases same : b = k
    · exact .inr (by rw [if_pos same])
    · rw [if_neg same]
      exact h.imp_left fun mem => (List.mem_cons.1 mem).resolve_left same

theorem outputsOff_off (s : State) (b : Bay) : (bayOut (outputsOff s) b).on = false :=
  foldl_outputOff (fins 4) s b (.inl (List.mem_finRange b))

theorem outputsOff_sameSupply (s : State) : SameSupply s (outputsOff s) :=
  sameSupply_foldl (fun _ _ => ⟨rfl, rfl⟩) (fins 4) s

/-! ### The links (R87, R398) -/

theorem settleQuiesce_link (k b : Bay) (s : State) : (bay (settleQuiesce k s) b).link = (bay s b).link := by
  by_cases other : b = k
  · subst other
    by_cases ends : (bay s b).quiescing = true ∧ (bay s b).cmds = []
    · obtain ⟨quiescing, idle⟩ := ends
      obtain ⟨_, _, own, -⟩ := settleQuiesce_ends quiescing idle
      rw [own]
    · rw [settleQuiesce_waits]
      rcases not_and_or.1 ends with still | busy
      · exact .inl (by simpa using still)
      · exact .inr busy
  · rw [(settleQuiesce_other other s).1]

theorem bayCmdDone_removed_link (k b : Bay) (slot : Fin 256) (result : DWord) (s : State) :
    (bay (bayCmdDone k slot 5 result s) b).link = (bay s b).link := by
  rcases bayCmdDone_removed k slot result s with same | dropped
  · rw [same]
  · rw [dropped, settleQuiesce_link, dropCmd, bay_setBay]
    split
    · next own => rw [own]
    · rfl

/-- A bay reset leaves the link of every other bay. -/
theorem bayReset_link_other {k b : Bay} (other : b ≠ k) (cause : Option (BitVec 4)) (link : Option (BitVec 3)) (s : State) :
    (bay (bayReset k cause link s) b).link = (bay s b).link := by
  have released : ∀ s, (bay (releaseBayTasks k s) b).link = (bay s b).link := fun s =>
    releaseBayTasks_induction (P := fun s' => (bay s' b).link = (bay s b).link)
      (fun s1 s2 bays _ h => by rw [bay, bays]; exact h)
      (fun j slot result s1 h => (bayCmdDone_removed_link ..).trans h) k rfl
  have flows : ∀ s, bay (restoreBayFlows k s) b = bay s b := fun s => by simp [bay]
  have relinks : ∀ s, bay (relink k link s) b = bay s b := fun s => by
    cases link with
    | none => rfl
    | some st => exact (bay_setLink k b st s).trans (if_neg other)
  have regs : ∀ s, bay (resetRegs k cause s) b = bay s b := fun s => by
    rw [resetRegs, bay_setBay_other _ other]; simp [bay]
  have parts : bay (bayReset k cause link s) b = bay (bayResetParts k cause link s) b := rfl
  rw [parts, bayResetParts_eq, flows, relinks, regs, resetTasks, bay_orphanRequests, released, stopQuiescing,
    bay_setBay_other _ other, bay, (endBayStaging_keeps k s).1, ← bay]

/-- Every bay reset with its link down has it down, whatever bays are reset after it. -/
theorem foldl_bayReset_link (cause : Option (BitVec 4)) (l : List Bay) (s : State) (b : Bay)
    (h : b ∈ l ∨ (bay s b).link = 0) : (bay (l.foldl (fun s b => bayReset b cause (some 0) s) s) b).link = 0 := by
  induction l generalizing s with
  | nil => simpa using h
  | cons k l ih =>
    have next : b ∈ l ∨ (bay (bayReset k cause (some 0) s) b).link = 0 := by
      by_cases same : b = k
      · subst same; exact .inr (link_bayReset ..)
      · rw [bayReset_link_other same]
        exact h.imp_left fun mem => (List.mem_cons.1 mem).resolve_left same
    rw [List.foldl_cons]
    exact ih _ next

end Sys2Proof.Machine
end

section
/-! PROOFS. Sleep: the request, the drain's end and its time limit (R86, R87, R88, R105). -/

namespace Sys2Proof.Machine

/-! ### The request (R86, R105) -/

theorem exec_sleepRequest_open {s : State} {r : Req} (passes : passesGuard s r 0x54000204 = true) (encl : isEncl s r = true) :
    exec (.sleepRequest r) s = .next (sleepWrite s) := by
  rw [exec_sleepRequest, execSleepRequest, encl, tryWrite_open passes]; rfl

theorem sleepRequest_refused {s : State} {r : Req} (passes : passesGuard s r 0x54000204 = true) (other : isEncl s r = false) :
    RefusedSilently (.sleepRequest r) r s := by
  obtain ⟨kind, closed⟩ := tryWrite_closed passes (modeReq 2)
  exact refusedSilently_of_violate (by rw [exec_sleepRequest, execSleepRequest, other, closed])

/-- The conditions of R86 for the drain to begin. -/
def SleepMay (s : State) : Prop :=
  s.sys.mode = Mode.run ∧ s.pins.ign = false ∧ s.pins.svcPresentHigh = true ∧ watchBusy s = false

theorem sleepWrite_begins {s : State} (may : SleepMay s) :
    sleepWrite s = { s with sys := { s.sys with sleep := .draining } } := by
  obtain ⟨run, ign, present, quiet⟩ := may
  simp [sleepWrite, run, ign, present, quiet]

theorem sleepWrite_fails {s : State} (mayNot : ¬ SleepMay s) :
    sleepWrite s = { s with sys := { s.sys with sleepFail := true } } := by
  rw [sleepWrite, if_neg]
  rintro ⟨run, ign, present, quiet⟩
  exact mayNot ⟨run, by simpa using ign, present, by simpa using quiet⟩

/-! ### Before the mode changes: outputs, tasks and bays (R87 steps 2 to 4) -/

/-- What waits is cancelled, the outputs are off, and every bay is reset with its link down. -/
def sleepReady (s : State) : State :=
  (fins 4).foldl (fun s b => bayReset b (some 6) (some 0) s) (outputsOff (cancelWaiting s))

/-- The module in Sleep, with nothing cleared yet. -/
def asleep (s : State) : State := enterMode Mode.sleep (abortSnapshot (sleepReady s))

theorem sleepEntry_eq (s : State) : sleepEntry s = sleepClear (asleep s) := by
  simp only [sleepEntry, asleep, sleepReady]

theorem foldl_bayReset_pow (cause : Option (BitVec 4)) (link : Option (BitVec 3)) (l : List Bay) (s : State) :
    (l.foldl (fun s b => bayReset b cause link s) s).pow = s.pow := by
  obtain ⟨pow, -⟩ := foldl_bayReset_keeps cause link l s
  exact pow

theorem bayReset_recs (b : Bay) (cause : Option (BitVec 4)) (link : Option (BitVec 3)) (s : State) :
    (bayReset b cause link s).seed.recs = s.seed.recs := by
  have parts : (bayReset b cause link s).seed = (bayResetParts b cause link s).seed := rfl
  have flows : ∀ s, (restoreBayFlows b s).seed = s.seed := fun s => by simp
  have regs : ∀ s, (resetRegs b cause s).seed = s.seed := fun s => by simp [resetRegs]
  have released : ∀ s, (releaseBayTasks b s).seed = s.seed := fun s => by simp
  have staging : (endBayStaging b s).seed.recs = s.seed.recs := by unfold endBayStaging; split <;> rfl
  rw [parts, bayResetParts_eq, flows, (relink_keeps ..).1, regs, resetTasks, (orphanRequests_keeps ..).2, released]
  exact staging

theorem foldl_bayReset_channels (cause : Option (BitVec 4)) (link : Option (BitVec 3)) (l : List Bay) (s : State) :
    let s' := l.foldl (fun s b => bayReset b cause link s) s
    OnlyCells s s' ∧ s'.chs.retired = s.chs.retired ∧ s'.seed.recs = s.seed.recs := by
  refine List.foldlRecOn (motive := fun s' => OnlyCells s s' ∧ s'.chs.retired = s.chs.retired ∧ s'.seed.recs = s.seed.recs) l _
    ⟨onlyCells_of_chs rfl, rfl, rfl⟩ fun s' ⟨cells, retired, recs⟩ b _ => ⟨?_, ?_, ?_⟩
  · exact onlyCells_trans cells (bayReset_onlyCells ..)
  · exact (bayReset_retired ..).trans retired
  · exact (bayReset_recs ..).trans recs

/-- What stands of the module when its mode changes to Sleep. -/
theorem sleepReady_keeps (s : State) : (sleepReady s).sys = s.sys ∧ (sleepReady s).bkp = s.bkp ∧ (sleepReady s).fuse = s.fuse ∧
    (sleepReady s).boot = s.boot ∧ (sleepReady s).mem = s.mem := by
  obtain ⟨-, -, sys, bkp, fuse, boot, mem⟩ := foldl_bayReset_keeps (some 6) (some 0) (fins 4) (outputsOff (cancelWaiting s))
  simp only [cancelWaiting_same, outputsOff_same] at sys bkp fuse boot mem
  rw [sleepReady]
  exact ⟨sys, bkp, fuse, boot, mem⟩

/-- R87 steps 3 and 4: every output is off and every link down. -/
theorem sleepReady_bays (s : State) (b : Bay) : (bayOut (sleepReady s) b).on = false ∧ (bay (sleepReady s) b).link = 0 := by
  constructor
  · have off := outputsOff_off (cancelWaiting s) b
    rwa [bayOut, ← foldl_bayReset_pow (some 6) (some 0) (fins 4) (outputsOff (cancelWaiting s)), ← bayOut] at off
  · exact foldl_bayReset_link (some 6) (fins 4) _ b (.inl (List.mem_finRange b))

theorem sleepReady_sameSupply (s : State) : SameSupply s (sleepReady s) :=
  sameSupply_trans (sameSupply_trans (cancelWaiting_sameSupply s) (outputsOff_sameSupply _))
    (sameSupply_of_pow (foldl_bayReset_pow ..))

theorem sleepReady_channels (s : State) :
    OnlyCells s (sleepReady s) ∧ (sleepReady s).chs.retired = s.chs.retired ∧ (sleepReady s).seed.recs = s.seed.recs := by
  obtain ⟨cells, retired, recs⟩ := foldl_bayReset_channels (some 6) (some 0) (fins 4) (outputsOff (cancelWaiting s))
  have off : (outputsOff (cancelWaiting s)).chs = (cancelWaiting s).chs := by simp
  have image : (outputsOff (cancelWaiting s)).seed = s.seed := by simp
  refine ⟨?_, ?_, ?_⟩
  · exact onlyCells_trans (onlyCells_trans (cancelWaiting_onlyCells s) (onlyCells_of_chs (congrArg _ off))) cells
  · exact retired.trans ((congrArg _ off).trans (cancelWaiting_retired s))
  · exact recs.trans (congrArg _ image)

/-! ### In Sleep (R87 step 5, R88) -/

theorem asleep_frame (s : State) : (asleep s).pow = (sleepReady s).pow ∧ (asleep s).bays = (sleepReady s).bays ∧
    (asleep s).bkp = (sleepReady s).bkp ∧ (asleep s).fuse = (sleepReady s).fuse ∧ (asleep s).boot = (sleepReady s).boot ∧
    (asleep s).chs = (sleepReady s).chs ∧ (asleep s).seed = (sleepReady s).seed := by
  simp [asleep]

theorem asleep_ledgerOnly (s : State) : LedgerOnly s (asleep s) := by
  have mem : (abortSnapshot (sleepReady s)).mem = s.mem := by
    obtain ⟨-, -, -, -, mem⟩ := sleepReady_keeps s
    rw [← mem]; simp
  rw [asleep]
  exact ledgerOnly_trans (ledgerOnly_of_mem mem) (enterMode_mem ..)

theorem asleep_sys {s : State} (awake : s.sys.mode ≠ Mode.sleep) :
    (asleep s).sys.mode = Mode.sleep ∧ (asleep s).sys.prev = s.sys.mode ∧ (asleep s).sys.wake = s.sys.wake := by
  have sys : (abortSnapshot (sleepReady s)).sys = s.sys := by
    obtain ⟨sys, -⟩ := sleepReady_keeps s
    rw [← sys]; simp
  obtain ⟨-, wake, -⟩ := enterMode_keeps Mode.sleep (abortSnapshot (sleepReady s))
  refine ⟨by rw [asleep, enterMode_mode], ?_, ?_⟩
  · rw [asleep, enterMode_prev (by rwa [sys]), sys]
  · rw [asleep, wake, sys]

/-- What Sleep turns off, and the latches that its entry sets. -/
theorem sleepClear_leaves (s : State) : (sleepClear s).sys.sleep = .asleep ∧ (∀ j, (rail (sleepClear s) j).en = false) ∧
    (∀ k, vget (sleepClear s).grn.slots k = {}) ∧ (sleepClear s).grn.roots = [] ∧ (sleepClear s).drill.descs = [] ∧
    (sleepClear s).bkp = { s.bkp with shadows := [] } ∧
    (∀ n, chan (sleepClear s) n = sleepChannel s n (chan s n)) := by
  refine ⟨rfl, fun j => ?_, fun k => ?_, rfl, rfl, rfl, fun n => ?_⟩
  · exact congrArg Rail.en (vget_map _ s.pow.rails j)
  · exact vget_replicate _ k
  · simp [chan, vget, sleepClear]

theorem sleepClear_keeps (s : State) : (sleepClear s).sys.mode = s.sys.mode ∧ (sleepClear s).sys.prev = s.sys.prev ∧
    (sleepClear s).sys.wake = s.sys.wake ∧ (sleepClear s).mem = s.mem ∧ (sleepClear s).boot = s.boot ∧
    (sleepClear s).fuse = s.fuse ∧ (∀ b, bayOut (sleepClear s) b = bayOut s b) ∧ ∀ b, bay (sleepClear s) b = bay s b :=
  ⟨rfl, rfl, rfl, rfl, rfl, rfl, fun _ => rfl, fun _ => rfl⟩

/-- R88: the settings stay, and the pins watch, sleep or, without field power, are hi-Z. -/
theorem sleepChannel_leaves (s : State) (n : Chan) (c : Channel) :
    (sleepChannel s n c).cfg = c.cfg ∧ (sleepChannel s n c).en = c.en ∧
    (sleepChannel s n c).drive = if s.pow.vsup = false ∨ s.pow.thermalOff = true then .hiZ
      else if (seedFind s 0x13 1 n.val).isSome ∧ c.en = true ∧ isRetired s n = false then .watch else .sleep := by
  refine ⟨rfl, rfl, ?_⟩
  cases vsup : s.pow.vsup <;> cases hot : s.pow.thermalOff <;> simp [sleepChannel, fieldSupply, vsup, hot, and_assoc]

/-- The channel's pins in Sleep, as the module stood before it. -/
theorem asleep_channel (s : State) (n : Chan) : (sleepChannel (asleep s) n (chan (asleep s) n)).cfg = (chan s n).cfg ∧
    (sleepChannel (asleep s) n (chan (asleep s) n)).en = (chan s n).en ∧
    (sleepChannel (asleep s) n (chan (asleep s) n)).drive = if s.pow.vsup = false ∨ s.pow.thermalOff = true then .hiZ
      else if (seedFind s 0x13 1 n.val).isSome ∧ (chan s n).en = true ∧ isRetired s n = false then .watch else .sleep := by
  obtain ⟨pow, -, -, -, -, chs, seed⟩ := asleep_frame s
  obtain ⟨cells, retired, recs⟩ := sleepReady_channels s
  obtain ⟨vsup, thermal⟩ := sleepReady_sameSupply s
  have own : chan (asleep s) n = chan (sleepReady s) n := by rw [chan, chs, ← chan]
  have cfg : (chan (sleepReady s) n).cfg = (chan s n).cfg := by rw [cells.rest n]
  have en : (chan (sleepReady s) n).en = (chan s n).en := by rw [cells.rest n]
  have found : seedFind (asleep s) 0x13 1 n.val = seedFind s 0x13 1 n.val := by
    simp only [seedFind, seedOf, seed, recs]
  have out : isRetired (asleep s) n = isRetired s n := by rw [isRetired, chs, retired, ← isRetired]
  obtain ⟨cfg', en', drive'⟩ := sleepChannel_leaves (asleep s) n (chan (asleep s) n)
  rw [own, cfg] at cfg'
  rw [own, en] at en'
  rw [own, found, en, out, pow, vsup, thermal] at drive'
  rw [own]
  exact ⟨cfg', en', drive'⟩

theorem exec_sleepDrainEnd_drained {s : State} (draining : s.sys.sleep = .draining) (run : s.sys.mode = Mode.run)
    (done : drained s = true) : exec .sleepDrainEnd s = .next (sleepClear (asleep s)) := by
  simp [execSleepDrainEnd, draining, run, done, sleepEntry_eq]

/-- R87, R88: a drained module sleeps. -/
theorem sleepDrainEnd_sleeps {s : State} (draining : s.sys.sleep = .draining) (run : s.sys.mode = Mode.run)
    (done : drained s = true) :
    ∃ s', exec .sleepDrainEnd s = .next s' ∧ s'.sys.mode = Mode.sleep ∧ s'.sys.prev = Mode.run ∧ s'.sys.sleep = .asleep ∧
      s'.sys.wake = s.sys.wake ∧ (∀ j, (rail s' j).en = false) ∧ (∀ b, (bayOut s' b).on = false ∧ (bay s' b).link = 0) ∧
      (∀ k, vget s'.grn.slots k = {}) ∧ s'.grn.roots = [] ∧ s'.drill.descs = [] ∧ s'.mem.sram = s.mem.sram ∧
      s'.mem.flash = s.mem.flash ∧ s'.mem.store = s.mem.store ∧ s'.boot = s.boot ∧
      s'.bkp = { s.bkp with shadows := [] } ∧ s'.fuse = s.fuse ∧
      ∀ n, (chan s' n).cfg = (chan s n).cfg ∧ (chan s' n).en = (chan s n).en ∧
        (chan s' n).drive = if s.pow.vsup = false ∨ s.pow.thermalOff = true then .hiZ
          else if (seedFind s 0x13 1 n.val).isSome ∧ (chan s n).en = true ∧ isRetired s n = false then .watch else .sleep := by
  obtain ⟨sleep, rails, slots, roots, descs, bkp, channels⟩ := sleepClear_leaves (asleep s)
  obtain ⟨mode', prev', wake', mem, boot, fuse, outs, bays⟩ := sleepClear_keeps (asleep s)
  obtain ⟨mode, prev, wake⟩ := asleep_sys (s := s) (by rw [run]; decide)
  obtain ⟨pow', bays', bkp', fuse', boot', -⟩ := asleep_frame s
  obtain ⟨-, bkp'', fuse'', boot'', -⟩ := sleepReady_keeps s
  obtain ⟨flash, sram, store⟩ := (asleep_ledgerOnly s).keeps
  refine ⟨_, exec_sleepDrainEnd_drained draining run done, by rw [mode', mode], by rw [prev', prev, run], sleep,
    by rw [wake', wake], rails, fun b => ?_, slots, roots, descs, by rw [mem, sram], by rw [mem, flash], by rw [mem, store],
    by rw [boot, boot', boot''], ?_, by rw [fuse, fuse', fuse''], fun n => ?_⟩
  · obtain ⟨off, down⟩ := sleepReady_bays s b
    rw [outs, bays, bayOut, bay, pow', bays']
    exact ⟨off, down⟩
  · rw [bkp, bkp', bkp'']
  · rw [channels]; exact asleep_channel s n

/-- R87: an expired drain. -/
theorem exec_sleepDrainTimeout_fails {s : State} (draining : s.sys.sleep = .draining) (open_ : drained s = false) :
    exec .sleepDrainTimeout s = .next { s with sys := { s.sys with sleep := .awake, sleepFail := true } } := by
  simp [execSleepDrainTimeout, draining, open_]

theorem exec_sleepDrain_idle {s : State} (idle : s.sys.sleep ≠ .draining) :
    exec .sleepDrainEnd s = .next s ∧ exec .sleepDrainTimeout s = .next s := by
  simp [execSleepDrainEnd, execSleepDrainTimeout, idle]

end Sys2Proof.Machine
end

section
/-! PROOFS. The wake path (R89 to R92), and the end of Service by request or by its window (R98, R488). -/

namespace Sys2Proof.Machine

/-! ### The threads that each world's drill names (R281) -/

theorem homeEncl_congr {s s' : State} (h : s'.drill.enclThreads = s.drill.enclThreads) (t : Thread) :
    homeEncl s' t = homeEncl s t := by rw [homeEncl, h, ← homeEncl]

theorem hk_enclThreads (cause : HkCause) (data : Nat) (s : State) :
    (hk cause data s).drill.enclThreads = s.drill.enclThreads := by rw [hk_drill]

theorem serveRequest_enclThreads (b : Bay) (s : State) : (serveRequest b s).drill.enclThreads = s.drill.enclThreads := by
  unfold serveRequest; dsimp only
  split
  · rfl
  · split
    · exact hk_enclThreads ..
    · rfl

theorem setLink_enclThreads (b : Bay) (st : BitVec 3) (s : State) :
    (setLink b st s).drill.enclThreads = s.drill.enclThreads := by
  have raised : ∀ was f s, (raiseSlot b was f s).drill.enclThreads = s.drill.enclThreads := fun was f s => by
    unfold raiseSlot; dsimp only
    split
    · rfl
    · exact hk_enclThreads ..
  simp only [setLink, apply_ite State.drill, apply_ite Drill.enclThreads, raised, setBay, ite_self]

theorem foldl_enclThreads {α : Type} {f : State → α → State} (keeps : ∀ s x, (f s x).drill.enclThreads = s.drill.enclThreads)
    (l : List α) (s : State) : (l.foldl f s).drill.enclThreads = s.drill.enclThreads :=
  List.foldlRecOn (motive := fun s' => s'.drill.enclThreads = s.drill.enclThreads) l f rfl fun s' h x _ => (keeps s' x).trans h

theorem outputsOn_enclThreads (s : State) : (outputsOn s).drill.enclThreads = s.drill.enclThreads := by
  unfold outputsOn
  exact foldl_enclThreads (fun s b => serveRequest_enclThreads b (setBayOut s b _)) (fins 4) s

theorem trainLinks_enclThreads (s : State) : (trainLinks s).drill.enclThreads = s.drill.enclThreads := by
  unfold trainLinks
  refine foldl_enclThreads (fun s b => ?_) (fins 4) s
  split
  · exact setLink_enclThreads ..
  · rfl

/-! ### The Enclosure started (R114, R284) -/

/-- The held threads are idle. -/
def freeHeld (s : State) : State :=
  (fins 16).foldl (fun s t => if (thr s t).run = .held then setThr s t { thr s t with run := .idle } else s) s

theorem freeHeld_keeps (s : State) : (freeHeld s).drill = s.drill ∧ (freeHeld s).boot = s.boot := by simp [freeHeld]

/-- Only the held threads are freed before the Enclosure's first starts. -/
theorem startEncl_starts {s : State} (home : homeEncl s 0 = true) (e : Fin 4) :
    (thr (startEncl e s) 0).run = .running ∧ (thr (startEncl e s) 0).pc = vget s.boot.entry e &&& ~~~3#32 := by
  obtain ⟨drill, boot⟩ := freeHeld_keeps s
  have started : homeEncl (freeHeld s) 0 = true := (homeEncl_congr (by rw [drill]) 0).trans home
  rw [← boot]
  unfold freeHeld at *
  simp only [startEncl, started, if_true, thr_setThr_same]
  exact ⟨trivial, trivial⟩

theorem thr_reloadE (s : State) (t : Thread) : thr (reloadE s) t = thr s t := by unfold reloadE; split <;> rfl
theorem thr_reloadC (s : State) (t : Thread) : thr (reloadC s) t = thr s t := by unfold reloadC; split <;> rfl
theorem thr_hk (cause : HkCause) (data : Nat) (s : State) (t : Thread) : thr (hk cause data s) t = thr s t := by simp [thr]

/-! ### The wake path's end (R89, R90) -/

/-- The module at the wake path's end, its rails and clocks restored. -/
def woken (us : BitVec 12) (s : State) : State :=
  wakeParts { s with sys := { s.sys with waking := false, latUs := us, sleep := .awake } }

theorem woken_keeps (us : BitVec 12) (s : State) :
    (woken us s).sys = { s.sys with waking := false, latUs := us, sleep := .awake } ∧ (woken us s).drill = s.drill ∧
    (woken us s).chs = s.chs ∧ (woken us s).boot = s.boot ∧ (woken us s).mem = s.mem ∧ (woken us s).bkp = s.bkp := by
  simp [woken]

theorem woken_sameSupply (us : BitVec 12) (s : State) : SameSupply s (woken us s) := by
  have parts : ∀ s, SameSupply s (wakeParts s) := fun s => by
    have rails : SameSupply s (railsOn { s with clk := { s.clk with furrow := s.clk.furrow.map wakeFurrow } }) :=
      railsOn_sameSupply _
    exact sameSupply_trans rails (sameSupply_of_pow (by simp only [wakeParts, loadPatrol_same]))
  exact parts _

/-- Run again: the pins and, with field power, the bays. -/
def wakeDriven (s : State) : State :=
  let s := restoreDrives (enterMode Mode.run s)
  if fieldSupply s then trainLinks (outputsOn s) else s

theorem wakeDriven_keeps (s : State) : (wakeDriven s).sys = (enterMode Mode.run s).sys ∧ (wakeDriven s).boot = s.boot ∧
    (wakeDriven s).chs = (restoreDrives (enterMode Mode.run s)).chs ∧ LedgerOnly s (wakeDriven s) ∧
    (wakeDriven s).drill.enclThreads = s.drill.enclThreads := by
  refine ⟨by simp [wakeDriven], by simp [wakeDriven], by simp [wakeDriven], ?_, ?_⟩
  · exact ledgerOnly_trans (enterMode_mem Mode.run s) (ledgerOnly_of_mem (by simp [wakeDriven]))
  · unfold wakeDriven; dsimp only
    split
    · rw [trainLinks_enclThreads, outputsOn_enclThreads]; simp
    · simp

/-- The wake task joins once the Enclosure has started and both worlds' vectors are loaded. -/
theorem wakeRun_eq (s : State) : ∃ pulse wld, wakeRun s = hk .wake (wakeDriven s).sys.wake.toNat (reloadC (reloadE (startEncl 3
    { wakeDriven s with sys := { (wakeDriven s).sys with pulse := pulse }, wld := wld }))) := ⟨_, _, rfl⟩

/-- A mode change starts no drain. -/
theorem enterMode_awake (m : BitVec 3) {s : State} (awake : s.sys.sleep = .awake) : (enterMode m s).sys.sleep = .awake := by
  have still : ∀ y : Sys, y.sleep = .awake → (dropDrain m y).sleep = .awake := fun y h => by
    unfold dropDrain; split <;> simp [h]
  unfold enterMode; split
  · exact awake
  · rw [transition_sys]; exact still _ awake

section
variable {s : State}

/-- SYS after a wake that ends in Run. -/
theorem wakeRun_sys (from_ : s.sys.mode ≠ Mode.run) (awake : s.sys.sleep = .awake) :
    (wakeRun s).sys.mode = Mode.run ∧ (wakeRun s).sys.prev = s.sys.mode ∧ (wakeRun s).sys.sleep = .awake ∧
    (wakeRun s).sys.waking = s.sys.waking ∧ (wakeRun s).sys.latUs = s.sys.latUs ∧ (wakeRun s).sys.wake = s.sys.wake := by
  obtain ⟨sys, -⟩ := wakeDriven_keeps s
  obtain ⟨-, wake, waking, lat⟩ := enterMode_keeps Mode.run s
  obtain ⟨pulse, wld, e⟩ := wakeRun_eq s
  rw [e]
  generalize wakeDriven s = y at *
  simp [sys, enterMode_prev from_, enterMode_awake Mode.run awake, wake, waking, lat]

/-- The wake task waits with its sources, and the channels stand as driven. -/
theorem wakeRun_leaves (s : State) : ({ cause := .wake, data := s.sys.wake.toNat } : HkEvent) ∈ (wakeRun s).drill.hkq ∧
    LedgerOnly s (wakeRun s) ∧ (wakeRun s).chs = (wakeDriven s).chs := by
  obtain ⟨sys, -, -, written, -⟩ := wakeDriven_keeps s
  obtain ⟨-, wake, -⟩ := enterMode_keeps Mode.run s
  obtain ⟨pulse, wld, e⟩ := wakeRun_eq s
  rw [e]
  generalize wakeDriven s = y at *
  refine ⟨?_, ledgerOnly_trans written (ledgerOnly_of_mem (by simp)), by simp⟩
  rw [sys, wake]
  exact hk_waits ..

/-- R90, R284: the Enclosure's first thread starts at the wake entry. -/
theorem wakeRun_starts (home : homeEncl s 0 = true) :
    (thr (wakeRun s) 0).run = .running ∧ (thr (wakeRun s) 0).pc = vget s.boot.entry 3 &&& 0xFFFFFFFC := by
  obtain ⟨-, boot, -, -, encl⟩ := wakeDriven_keeps s
  obtain ⟨pulse, wld, e⟩ := wakeRun_eq s
  rw [e, ← boot, thr_hk, thr_reloadC, thr_reloadE]
  have homeDriven : homeEncl (wakeDriven s) 0 = true := (homeEncl_congr encl 0).trans home
  generalize wakeDriven s = y at *
  exact startEncl_starts (s := { y with sys := { y.sys with pulse := pulse }, wld := wld }) homeDriven 3

end

theorem exec_wakePathComplete_waking {s : State} (inSleep : s.sys.mode = Mode.sleep) (waking : s.sys.waking = true)
    (us : BitVec 12) : exec (.wakePathComplete us) s = .next
      (if s.sys.wake.getLsbD 4 = true ∨ s.sys.wake.getLsbD 5 = true then wakeLocked (woken us s)
        else wakeRun (woken us s)) := by
  obtain ⟨sys, -⟩ := woken_keeps us s
  have wake : (woken us s).sys.wake = s.sys.wake := by rw [sys]
  rw [← wake]
  unfold woken
  simp [execWakePathComplete, wakeOp, inSleep, waking]

theorem exec_wakePathComplete_awake {s : State} (awake : s.sys.mode ≠ Mode.sleep) (us : BitVec 12) :
    exec (.wakePathComplete us) s = .next s := by
  simp [execWakePathComplete, wakeOp, awake]

/-- R90: the pins of every channel in service, in Run again. -/
theorem wakeDriven_drive {s : State} (vsup : s.pow.vsup = true) (cool : s.pow.thermalOff = false) (noLimp : s.sys.limpSet = 0)
    {n : Chan} (inService : isRetired s n = false) :
    (chan (wakeDriven s) n).drive = if (chan s n).en then .func else .hiZ := by
  obtain ⟨-, -, chs, -⟩ := wakeDriven_keeps s
  have entered : (enterMode Mode.run s).chs = s.chs ∧ (enterMode Mode.run s).pow = s.pow := by simp
  obtain ⟨chsRun, powRun⟩ := entered
  have own : chan (enterMode Mode.run s) n = chan s n := by rw [chan, chsRun, ← chan]
  rw [chan, chs, ← chan, chan_restoreDrives]
  refine (driveOf_enabled ?_ ?_ (.inr (enterMode_mode ..)) ?_ ?_).trans (by rw [own])
  · rw [powRun, vsup]
  · rw [powRun, cool]
  · rw [enterMode_limpSet, noLimp]
  · rw [isRetired, chsRun, ← isRetired, inService]

section
variable {s : State} {us : BitVec 12} (inSleep : s.sys.mode = Mode.sleep) (waking : s.sys.waking = true)
include inSleep waking

/-- R89, R90: without SAFE_IN and intrusion the wake ends in Run. -/
theorem wakePathComplete_runs (noSafe : s.sys.wake.getLsbD 4 = false) (noTamper : s.sys.wake.getLsbD 5 = false)
    (vsup : s.pow.vsup = true) (cool : s.pow.thermalOff = false) :
    ∃ s', exec (.wakePathComplete us) s = .next s' ∧ s'.sys.mode = Mode.run ∧ s'.sys.prev = Mode.sleep ∧
      s'.sys.sleep = .awake ∧ s'.sys.waking = false ∧ s'.sys.latUs = us ∧ s'.sys.wake = s.sys.wake ∧
      ({ cause := .wake, data := s.sys.wake.toNat } : HkEvent) ∈ s'.drill.hkq ∧ s'.mem.sram = s.mem.sram ∧
      (homeEncl s 0 = true → (thr s' 0).run = .running ∧ (thr s' 0).pc = vget s.boot.entry 3 &&& 0xFFFFFFFC) ∧
      (s.sys.limpSet = 0 → ∀ n, isRetired s n = false → (chan s' n).drive = if (chan s n).en then .func else .hiZ) := by
  have ran := exec_wakePathComplete_waking inSleep waking us
  rw [if_neg (by rw [noSafe, noTamper]; simp)] at ran
  obtain ⟨sys, drill, chs, boot, mem, -⟩ := woken_keeps us s
  obtain ⟨vsup', cool'⟩ := woken_sameSupply us s
  have still : (woken us s).sys.mode = Mode.sleep := by rw [sys]; exact inSleep
  have wake : (woken us s).sys.wake = s.sys.wake := by rw [sys]
  obtain ⟨mode, prev, awake, waking', lat, wake'⟩ := wakeRun_sys (s := woken us s) (by rw [still]; decide) (by rw [sys])
  obtain ⟨event, written, chsRun⟩ := wakeRun_leaves (woken us s)
  obtain ⟨-, sram, -⟩ := written.keeps
  refine ⟨_, ran, mode, by rw [prev, still], awake, by rw [waking', sys], by rw [lat, sys], by rw [wake', wake],
    by rw [← wake]; exact event, by rw [sram, mem], fun home => ?_, fun noLimp n inService => ?_⟩
  · rw [← boot]
    exact wakeRun_starts ((homeEncl_congr (by rw [drill]) 0).trans home)
  · have pins := wakeDriven_drive (s := woken us s) (by rw [vsup', vsup]) (by rw [cool', cool]) (by rw [sys, noLimp]) (n := n)
      (by rw [isRetired, chs, ← isRetired, inService])
    rw [chan, chsRun, ← chan, pins, chan, chs, ← chan]

/-- R89, R92: after SAFE_IN or an intrusion the wake ends in Lockdown. -/
theorem wakePathComplete_locks (locked : s.sys.wake.getLsbD 4 = true ∨ s.sys.wake.getLsbD 5 = true) :
    ∃ s', exec (.wakePathComplete us) s = .next s' ∧ s'.sys.mode = Mode.lockdown ∧ s'.sys.prev = Mode.sleep ∧
      (s.sys.wake.getLsbD 5 = true → s'.sys.lock = 1) ∧ s'.bkp.tamp.safePend = false := by
  have ran := exec_wakePathComplete_waking inSleep waking us
  rw [if_pos locked] at ran
  obtain ⟨sys, -⟩ := woken_keeps us s
  have asleepYet : (woken us s).sys.mode = Mode.sleep := by rw [sys]; exact inSleep
  obtain ⟨alarms, bkp⟩ := enterLockdown_bkp (if (woken us s).sys.wake.getLsbD 5 then 1 else 2) (woken us s)
  refine ⟨_, ran, ?_, ?_, fun tamper => ?_, ?_⟩
  · simp [wakeLocked]
  · simp only [wakeLocked, startEncl_same]
    rw [enterLockdown_prev (by rw [asleepYet]; decide), asleepYet]
  · have tampered : (woken us s).sys.wake.getLsbD 5 = true := by rw [sys]; exact tamper
    simp only [wakeLocked, startEncl_same, tampered, if_true]
    rw [enterLockdown_lock]
    simp [lockMerge]
  · simp only [wakeLocked, startEncl_same]
    rw [bkp]

end

/-! ### Service's end (R98, R488) -/

theorem thr_clearHalt (t u : Thread) (s : State) : thr (clearHalt t s) u = thr s u := rfl
theorem thr_crossDebug (t u : Thread) (before : Bool) (s : State) : thr (crossDebug t before s) u = thr s u := by simp [thr]
theorem thr_checkTiles (before after : State) (u : Thread) : thr (checkTiles before after) u = thr after u := by simp [thr]

theorem debug_returnFrom (t u : Thread) (s : State) :
    (thr (returnFrom t s) u).debug = (decide (u ≠ t) && (thr s u).debug) := by
  have returned : ∃ x : Thr, (returnFrom t s).cores = (setThr s t x).cores ∧ x.debug = false := by
    unfold returnFrom; dsimp only
    split <;> exact ⟨_, rfl, rfl⟩
  obtain ⟨x, cores, clear⟩ := returned
  rw [thr, cores, ← thr, thr_setThr]
  split
  · next own => simp [own, clear]
  · next other => simp [other]

/-- GO takes its thread alone out of the DEBUG handler (R490). -/
theorem debug_resumeThread (t u : Thread) (s : State) :
    (thr (resumeThread t s) u).debug = (decide (u ≠ t) && (thr s u).debug) := by
  unfold resumeThread; dsimp only
  split
  · rw [thr_checkTiles, thr_crossDebug, thr_clearHalt, debug_returnFrom]
  · next running =>
    have clear : u = t → (thr s u).debug = false := fun own => by rw [own]; simpa using running
    split
    · rw [thr_clearHalt, thr_setThr]
      split
      · next own => simpa [own] using running
      · next other => simp [other]
    · by_cases own : u = t
      · rw [clear own]; simp [own]
      · simp [own]

theorem debug_foldl_resumeThread (l : List Thread) (s : State) (u : Thread) (h : u ∈ l ∨ (thr s u).debug = false) :
    (thr (l.foldl (fun s t => resumeThread t s) s) u).debug = false := by
  induction l generalizing s with
  | nil => simpa using h
  | cons t l ih =>
    refine ih _ ?_
    rw [debug_resumeThread]
    by_cases own : u = t
    · simp [own]
    · exact h.imp (fun mem => (List.mem_cons.1 mem).resolve_left own) fun clear => by simp [clear]

theorem closeScope_debug (s : State) (t : Thread) : (thr (closeScope s) t).debug = false := by
  unfold closeScope
  exact debug_foldl_resumeThread (fins 16) _ t (.inl (List.mem_finRange t))

/-- No thread stays in the DEBUG handler, and nothing of SRAM, the drill and the channels changes. -/
theorem endService_keeps {s : State} (service : s.sys.mode = Mode.service) : (∀ t, (thr (endService s) t).debug = false) ∧
    (endService s).mem.sram = s.mem.sram ∧ (endService s).drill = s.drill ∧ (endService s).chs = s.chs := by
  have ended : endService s = enterMode s.sys.serviceFrom (closeScope s) := by simp [endService, service]
  obtain ⟨-, sram, -⟩ := LedgerOnly.keeps (enterMode_mem s.sys.serviceFrom (closeScope s))
  have closed : (closeScope s).mem = s.mem := by simp
  rw [ended]
  refine ⟨fun t => ?_, by rw [sram, closed], by simp, by simp⟩
  have cores : (enterMode s.sys.serviceFrom (closeScope s)).cores = (closeScope s).cores := by simp
  rw [thr, cores, ← thr]
  exact closeScope_debug s t

theorem exec_serviceExitRequest_open {s : State} {r : Req} (passes : passesGuard s r 0x54000204 = true)
    (encl : isEncl s r = true) : exec (.serviceExitRequest r) s = .next (endService s) := by
  rw [exec_serviceExitRequest, execServiceExitRequest, encl, tryWrite_open passes]; rfl

/-- R488: the time is not valid, or has reached the certificate's end. -/
theorem exec_serviceWindowEnd_reached {s : State}
    (reached : s.bkp.cal.valid = false ∨ s.hld.endSec.toNat ≤ s.bkp.cal.sec.toNat) :
    exec .serviceWindowEnd s = .next (endService s) := by
  rw [exec_serviceWindowEnd, execServiceWindowEnd, if_pos]
  exact reached.imp (fun invalid => by simp [invalid]) BitVec.le_def.2

theorem exec_serviceWindowEnd_within {s : State} (valid : s.bkp.cal.valid = true)
    (within : s.bkp.cal.sec.toNat < s.hld.endSec.toNat) : exec .serviceWindowEnd s = .next s := by
  rw [exec_serviceWindowEnd, execServiceWindowEnd, if_neg]
  rintro (invalid | reached)
  · exact invalid valid
  · exact absurd (BitVec.le_def.1 reached) within.not_ge

/-- Settles O38: the request and the drain, then the wake path and the ends of Service. -/
theorem sleepWakeAndService : Obligations.SleepWakeAndService := by
  unfold Obligations.SleepWakeAndService
  refine ⟨fun s => ⟨fun r passes => ⟨fun encl => ⟨fun may => ?_, fun mayNot => ?_⟩, sleepRequest_refused passes⟩,
      sleepDrainEnd_sleeps, exec_sleepDrainTimeout_fails, exec_sleepDrain_idle⟩,
    fun s => ⟨fun us inSleep waking => wakePathComplete_runs inSleep waking,
      fun us inSleep waking => wakePathComplete_locks inSleep waking,
      fun awake us => exec_wakePathComplete_awake awake us, fun r passes encl => ⟨fun service => ?_, fun other => ?_⟩,
      fun service reached => ?_, exec_serviceWindowEnd_within⟩⟩
  · rw [exec_sleepRequest_open passes encl, sleepWrite_begins may]
  · rw [exec_sleepRequest_open passes encl, sleepWrite_fails mayNot]
  · obtain ⟨mode, scope⟩ := endService_leaves service
    exact ⟨_, exec_serviceExitRequest_open passes encl, mode, scope, endService_keeps service⟩
  · rw [exec_serviceExitRequest_open passes encl, endService_idle other]
  · obtain ⟨mode, scope⟩ := endService_leaves service
    exact ⟨_, exec_serviceWindowEnd_reached reached, mode, scope⟩

end Sys2Proof.Machine
end

section
/-! PROOFS. Every step keeps the memories' canonical form, the PUF helper data of program flash and the fuses already blown
(R106, R110): the shared ways to act keep what their acts keep, and each command keeps both. -/

namespace Sys2Proof.Machine

section

variable {hd : List Byte} {fs : BitVec 4096}

/-! ### The shared ways to act keep what their acts keep -/

@[simp] theorem tryWrite_memOk (r : Req) (a : Word) (ok : Bool) (act : State → State) (s : State)
    (h : ∀ s, MemOk hd s.mem → MemOk hd (act s).mem) (hm : MemOk hd s.mem) : MemOk hd (tryWrite r a ok act s).mem := by
  unfold tryWrite; (repeat' split) <;> simp [h, hm]
@[simp] theorem tryWrite_fuses (r : Req) (a : Word) (ok : Bool) (act : State → State) (s : State)
    (h : ∀ s, fusesWithin fs s.fuse.array → fusesWithin fs (act s).fuse.array) (hf : fusesWithin fs s.fuse.array) :
    fusesWithin fs (tryWrite r a ok act s).fuse.array := by
  unfold tryWrite; (repeat' split) <;> simp [h, hf]

@[simp] theorem tryRead_memOk (r : Req) (a : Word) (ok : Bool) (act : State → State) (s : State)
    (h : ∀ s, MemOk hd s.mem → MemOk hd (act s).mem) (hm : MemOk hd s.mem) : MemOk hd (tryRead r a ok act s).mem := by
  unfold tryRead; (repeat' split) <;> simp [h, hm]
@[simp] theorem tryRead_fuses (r : Req) (a : Word) (ok : Bool) (act : State → State) (s : State)
    (h : ∀ s, fusesWithin fs s.fuse.array → fusesWithin fs (act s).fuse.array) (hf : fusesWithin fs s.fuse.array) :
    fusesWithin fs (tryRead r a ok act s).fuse.array := by
  unfold tryRead; (repeat' split) <;> simp [h, hf]

@[simp] theorem onRequest_memOk (opc : Byte) (act : LdgReq → State → State) (s : State)
    (h : ∀ r s, MemOk hd s.mem → MemOk hd (act r s).mem) (hm : MemOk hd s.mem) : MemOk hd (onRequest opc act s).mem := by
  unfold onRequest; (repeat' split) <;> simp [h, hm]
@[simp] theorem onRequest_fuses (opc : Byte) (act : LdgReq → State → State) (s : State)
    (h : ∀ r s, fusesWithin fs s.fuse.array → fusesWithin fs (act r s).fuse.array) (hf : fusesWithin fs s.fuse.array) :
    fusesWithin fs (onRequest opc act s).fuse.array := by
  unfold onRequest; (repeat' split) <;> simp [h, hf]

@[simp] theorem onGrq_memOk (p : Byte → Bool) (ok : Bool) (s : State) (hm : MemOk hd s.mem) :
    MemOk hd (onGrq p ok s).mem := by
  unfold onGrq; (repeat' split) <;> simp [hm]
@[simp] theorem onGrq_fuse (p : Byte → Bool) (ok : Bool) (s : State) : (onGrq p ok s).fuse = s.fuse := by
  unfold onGrq; (repeat' split) <;> simp

@[simp] theorem raisePow_mem (cause : HkCause) (data : Nat) (was : Bool) (f : Power → Power) (s : State) :
    (raisePow cause data was f s).mem = s.mem := by simp [raisePow]
@[simp] theorem raisePow_fuse (cause : HkCause) (data : Nat) (was : Bool) (f : Power → Power) (s : State) :
    (raisePow cause data was f s).fuse = s.fuse := by simp [raisePow]

@[simp] theorem awaited_mem (t : Thread) (rd : Gpr) (act : State → Word × State) (s : State)
    (h : ∀ s, (act s).2.mem = s.mem) : (awaited t rd act s).mem = s.mem := by
  unfold awaited; split <;> simp [h]
@[simp] theorem awaited_fuse (t : Thread) (rd : Gpr) (act : State → Word × State) (s : State)
    (h : ∀ s, (act s).2.fuse = s.fuse) : (awaited t rd act s).fuse = s.fuse := by
  unfold awaited; split <;> simp [h]

@[simp] theorem issueTile_mem (t : Thread) (op : State → TileOp) (s : State) : (issueTile t op s).mem = s.mem := by
  simp [issueTile]
@[simp] theorem issueTile_fuse (t : Thread) (op : State → TileOp) (s : State) : (issueTile t op s).fuse = s.fuse := by
  simp [issueTile]

@[simp] theorem inSession_memOk (b : Bay) (act : BayCmd → State → StageAns × State) (c : BayCmd) (s : State)
    (h : ∀ c s, MemOk hd s.mem → MemOk hd (act c s).2.mem) (hm : MemOk hd s.mem) : MemOk hd (inSession b act c s).mem := by
  unfold inSession; split <;> simp [h, hm]
@[simp] theorem inSession_fuse (b : Bay) (act : BayCmd → State → StageAns × State) (c : BayCmd) (s : State)
    (h : ∀ c s, (act c s).2.fuse = s.fuse) : (inSession b act c s).fuse = s.fuse := by
  unfold inSession; split <;> simp [h]

@[simp] theorem inHldSession_memOk (act : State → State) (s : State) (h : ∀ s, MemOk hd s.mem → MemOk hd (act s).mem)
    (hm : MemOk hd s.mem) : MemOk hd (inHldSession act s).mem := by
  unfold inHldSession; split <;> simp [h, hm]
@[simp] theorem inHldSession_fuses (act : State → State) (s : State)
    (h : ∀ s, fusesWithin fs s.fuse.array → fusesWithin fs (act s).fuse.array) (hf : fusesWithin fs s.fuse.array) :
    fusesWithin fs (inHldSession act s).fuse.array := by
  unfold inHldSession; split <;> simp [h, hf]

/-- A service-flow row keeps what its admission, its selection, a completion and its own act keep. -/
theorem serviceRow_holds {I : State → Prop} (b : Bay) (opc : Nat) (act : BayCmd → State → State) (s : State)
    (hc : ∀ c k v s, I s → I (completeCmd b c k v s)) (ha : ∀ c s, I s → I (admitService b c s))
    (he : ∀ x k v s, I s → I (endCmd b x k v s)) (hb : ∀ c s s', beginService b c s = some s' → I s → I s')
    (h : ∀ c s, I s → I (act c s)) (hs : I s) : I (serviceRow b opc act s) := by
  unfold serviceRow; dsimp only
  split
  · exact hs
  split
  · exact hs
  rename_i c _
  split
  · exact hc _ _ _ _ hs
  have admitted : I (if c.st = .ready then admitService b c s else s) := by split; exacts [ha _ _ hs, hs]
  generalize (if c.st = .ready then admitService b c s else s) = s1 at admitted
  split
  · exact admitted
  split
  · exact admitted
  split
  · exact he _ _ _ _ admitted
  split
  · exact admitted
  · rename_i begun; exact h _ _ (hb _ _ _ begun admitted)

@[simp] theorem serviceRow_memOk (b : Bay) (opc : Nat) (act : BayCmd → State → State) (s : State)
    (h : ∀ c s, MemOk hd s.mem → MemOk hd (act c s).mem) (hm : MemOk hd s.mem) : MemOk hd (serviceRow b opc act s).mem :=
  serviceRow_holds (I := fun s => MemOk hd s.mem) b opc act s (by simp +contextual) (by simp +contextual)
    (by simp +contextual) (fun c s s' begun => by simp [beginService_same _ _ _ begun]) h hm
@[simp] theorem serviceRow_fuses (b : Bay) (opc : Nat) (act : BayCmd → State → State) (s : State)
    (h : ∀ c s, fusesWithin fs s.fuse.array → fusesWithin fs (act c s).fuse.array) (hf : fusesWithin fs s.fuse.array) :
    fusesWithin fs (serviceRow b opc act s).fuse.array :=
  serviceRow_holds (I := fun s => fusesWithin fs s.fuse.array) b opc act s (by simp +contextual) (by simp +contextual)
    (by simp +contextual) (fun c s s' begun => by simp [beginService_same _ _ _ begun]) h hf

/-! ### An outcome that holds them -/

/-- A next state whose memories are in canonical form with the PUF helper data `hd`, and whose fuses hold `fs`. -/
def NextHeld (hd : List Byte) (fs : BitVec 4096) (o : Host.Outcome State Fault Refusal) : Prop :=
  ∃ t, o = .next t ∧ MemOk hd t.mem ∧ fusesWithin fs t.fuse.array

theorem nextHeld {t : State} (mem : MemOk hd t.mem) (fuses : fusesWithin fs t.fuse.array) : NextHeld hd fs (.next t) :=
  ⟨t, rfl, mem, fuses⟩

variable {s : State} (mem : MemOk hd s.mem) (fuses : fusesWithin fs s.fuse.array)
include mem fuses

theorem execPinChange_nextHeld (n : Chan) (levels : BitVec 4) : NextHeld hd fs (execPinChange n levels s) := by
  unfold execPinChange; dsimp only
  split
  · exact nextHeld mem fuses
  · exact nextHeld (by simp [mem]) (by simp [fuses])

theorem execTxCollision_nextHeld (n : Chan) : NextHeld hd fs (execTxCollision n s) := by
  unfold execTxCollision; dsimp only
  (repeat' split) <;> exact nextHeld (by simp [mem]) (by simp [fuses])

theorem execGranaryCompletion_nextHeld : NextHeld hd fs (execGranaryCompletion s) := by
  unfold execGranaryCompletion
  split
  · exact nextHeld mem fuses
  · split
    · exact nextHeld mem fuses
    · rename_i e; have kept := deliverDone_same _ _ _ _ _ _ e
      exact nextHeld (by simp [kept, mem]) (by simp [kept, fuses])

theorem execLedgerCompletion_nextHeld : NextHeld hd fs (execLedgerCompletion s) := by
  unfold execLedgerCompletion
  split
  · exact nextHeld mem fuses
  · split
    · exact nextHeld (by simp [mem]) (by simp [fuses])
    · split
      · exact nextHeld mem fuses
      · rename_i e; have kept := deliverDone_same _ _ _ _ _ _ e
        exact nextHeld (by simp [kept, mem]) (by simp [kept, fuses])

theorem execIllegalInstruction_nextHeld (t : Thread) (word : Word) : NextHeld hd fs (execIllegalInstruction t word s) := by
  unfold execIllegalInstruction onThread
  (repeat' split)
  all_goals exact nextHeld (by simp [mem]) (by simp [fuses])

theorem execDriverLinkLoss_nextHeld (j : Fin 8) : NextHeld hd fs (execDriverLinkLoss j s) := by
  refine nextHeld ?_ ?_
  · split
    · refine checkRetiredLimit_memOk _ (memOk_foldl _ _ _ (fun s n h => retireQuietly_memOk _ _ _ _ h) mem)
    · exact mem
  · simp [fuses]

theorem execStageWrite_nextHeld (b : Bay) : NextHeld hd fs (execStageWrite b s) :=
  nextHeld (serviceRow_memOk _ _ _ _ (fun c s h => by split <;> simp [h]) mem) (by simp [fuses])
theorem execStageActivate_nextHeld (b : Bay) : NextHeld hd fs (execStageActivate b s) :=
  nextHeld (serviceRow_memOk _ _ _ _ (inSession_memOk _ _ · · (fun c s h => by simp [h])) mem) (by simp [fuses])
theorem execStageAbort_nextHeld (b : Bay) : NextHeld hd fs (execStageAbort b s) :=
  nextHeld (serviceRow_memOk _ _ _ _ (inSession_memOk _ _ · · (fun c s h => by simp [h])) mem) (by simp [fuses])
theorem execStartPass_nextHeld (weakRows : List Nat) : NextHeld hd fs (execStartPass weakRows s) := by
  unfold execStartPass
  split
  · exact nextHeld mem fuses
  · have refreshed (rows : List Nat) : MemOk hd (rows.foldl (fun s r => refreshRow r s) s).mem :=
      memOk_foldl _ _ _ (fun s r h => refreshRow_memOk _ _ h) mem
    dsimp only
    split <;> exact nextHeld (by simp [refreshed]) (by simp [fuses])

/-- Every command answers a next state that holds what is to be held. Most are one operation, whose laws say it; the
others look first at what waits in a queue, at a latch or at an operand. -/
theorem exec_nextHeld (c : Instr) : NextHeld hd fs (exec c s) := by
  cases c
  case pinChange => exact execPinChange_nextHeld mem fuses ..
  case txCollision => exact execTxCollision_nextHeld mem fuses ..
  case granaryCompletion => exact execGranaryCompletion_nextHeld mem fuses ..
  case ledgerCompletion => exact execLedgerCompletion_nextHeld mem fuses ..
  case illegalInstruction => exact execIllegalInstruction_nextHeld mem fuses ..
  case driverLinkLoss => exact execDriverLinkLoss_nextHeld mem fuses ..
  case stageWrite => exact execStageWrite_nextHeld mem fuses ..
  case stageActivate => exact execStageActivate_nextHeld mem fuses ..
  case stageAbort => exact execStageAbort_nextHeld mem fuses ..
  case startPass => exact execStartPass_nextHeld mem fuses ..
  case thermalShed | replyOutcome | csTransferEnd | slaveWord | patrolVisit =>
    refine nextHeld ?_ ?_ <;> dsimp only <;> (repeat' split) <;> simp [mem, fuses]
  case pllLockLoss | thermalRecovery | safeInAssert | svcPresentChange | nvProtDeassert | intrusionTrip | fuseBlowDone |
      clockMeasureDone | frameComplete | frameConfirm | frameGapTimeout | post | postDeadline | replyDone | replyAbandon |
      txFrameStart | watchMatch | csTransferStart | strbWaitEnd | pinFaultPersist | retireFoldDone | channelEventAdmit |
      deadlinePass | coreModeChange | bcc | bmov | submit | cancel | stageEraseDone | bar2Access | prov | slotaErase |
      slotaWrite | fieldCmd | hlNonce | cert | exit | rd | wr | hlStageOpen | hlStageWrite | hlStageCheck | unretire | bkprst |
      vault | flashOperationEnd =>
    refine nextHeld ?_ ?_ <;> (repeat' split) <;> simp [mem, fuses]
  case hlStageActivate | hlStageAbort =>
    refine nextHeld ?_ ?_ <;> (repeat' split) <;> simp +contextual [mem, fuses]
  all_goals exact nextHeld (by simp +contextual [mem]) (by simp +contextual [fuses])

end

/-- Settles O5: command by command from what each operation keeps, and the idle cycle touches neither. -/
theorem fusesAndHelperDataStand : Obligations.FusesAndHelperDataStand := by
  unfold Obligations.FusesAndHelperDataStand
  intro s t wf next
  have mem : MemOk (pufHelper s) s.mem := ⟨wf, rfl⟩
  have fuses := fusesWithin_refl s.fuse.array
  have held : NextHeld (pufHelper s) s.fuse.array (step s) := by
    unfold step
    split
    · exact nextHeld (by simp [mem]) (by simp [fuses])
    · next rest _ => exact exec_nextHeld (s := { s with pending := rest }) mem fuses _
  obtain ⟨t', answer, ⟨-, helper⟩, blown⟩ := held
  obtain rfl : t = t' := by simpa [next] using answer
  exact ⟨blown, helper⟩

end Sys2Proof.Machine
end

section
/-! PROOFS. The vector line stores and line fills (R281, R283, R284, R502), flash operations (R282, R110) and the
activation of an Enclosure image (R116). -/

namespace Sys2Proof.Machine

/-! ### The vector line stores (R283, R284) -/

theorem loadWrites_start {s : State} {r : Req} (passes : passesGuard s r 0x57000008 = true) (encl : isEncl s r = true) :
    exec (.loadE r) s = .next { s with cores := { s.cores with
      loadingE := s.cores.loadingE || decide (s.cores.vbaseE ≠ 0) } } ∧
    exec (.loadC r) s = .next { s with cores := { s.cores with
      loadingC := s.cores.loadingC || decide (s.cores.vbaseC ≠ 0) } } := by
  rw [exec_loadE, execLoadE, exec_loadC, execLoadC, encl, tryWrite_open passes, tryWrite_open passes]
  simp [loadWrite]

theorem exec_vectorLoadDone_locks {s : State} (loadE : s.cores.loadingE = true) (baseE : s.cores.vbaseE ≠ 0)
    (loadC : s.cores.loadingC = true) (baseC : s.cores.vbaseC ≠ 0) :
    exec .vectorLoadDone s = .next { s with cores := { s.cores with
      vlsE := flashRead s s.cores.vbaseE.toNat 2560, eValid := true, loadingE := false
      vlsC := flashRead s s.cores.vbaseC.toNat 2560, cValid := true, loadingC := false } } := by
  have reloadedE : reloadE s = { s with cores := { s.cores with
      vlsE := flashRead s s.cores.vbaseE.toNat 2560, eValid := true, loadingE := false } } := if_neg baseE
  rw [exec_vectorLoadDone, execVectorLoadDone, loadE, loadC, if_pos rfl, if_pos rfl, reloadedE]
  exact congrArg Host.Outcome.next (if_neg baseC)

/-! ### Line fills (R281, R294, R502) -/

/-- A world's own ways serve it, whatever the CACHE record. -/
theorem sameWays_own (s : State) (encl : Bool) : sameWays s encl encl = true := by
  unfold sameWays; split <;> simp

theorem holdsLine_congr {s s' : State} (seed : s'.seed = s.seed) (encl : Bool) (line : Nat) (l : List CacheLine) :
    holdsLine s' encl line l = holdsLine s encl line l := by
  simp [holdsLine, sameWays, seedOne, seedOf, seed]

/-- The line stands in the structure after its fill, held there before or put in now. -/
theorem fillInto_holds (sets : Nat) (x : CacheLine) (l : List CacheLine) (s : State) :
    holdsLine s x.encl x.line (fillInto sets x l s).1 = true := by
  unfold fillInto; dsimp only
  split
  · assumption
  · split <;> simp [holdsLine, sameWays_own]

theorem fillCode_cache (c : Fin 4) (x : CacheLine) (s : State) :
    cache (fillCode c x s) c = { cache s c with lines := (fillInto 64 x (cache s c).lines s).1 } ∧
    ∀ d, d ≠ c → cache (fillCode c x s) d = cache s d := by
  have free : ∀ d, cache (fillInto 64 x (cache s c).lines s).2 d = cache s d := fun d => by
    unfold fillInto; dsimp only; (repeat' split) <;> rfl
  constructor
  · rw [fillCode, cache_setCache_same, free]
  · intro d other
    rw [fillCode, cache_setCache_other _ other, free]

theorem fillCode_eq (c : Fin 4) (x : CacheLine) (s : State) :
    fillCode c x s = { s with cache := (fillCode c x s).cache, draws := (fillCode c x s).draws } := by
  unfold fillCode fillInto; dsimp only; (repeat' split) <;> rfl

/-- The fill as the core's counter has it. -/
def countFill (c : Fin 4) (s : State) : State := setCore s c { core s c with perfImiss := satInc (core s c).perfImiss }

theorem countFill_core (c : Fin 4) (s : State) :
    core (countFill c s) c = { core s c with perfImiss := satInc (core s c).perfImiss } ∧
    ∀ d, d ≠ c → core (countFill c s) d = core s d :=
  ⟨core_setCore_same .., fun _ other => core_setCore_other _ other _⟩

section
variable {s : State} {a : Word} (powered : mainOn s = true) (inside : inFlash (a.toNat / 32 * 32) 32 = true)
include powered inside

/-- The fill counts; a line whose data had an uncorrectable error is kept out. -/
theorem exec_lineFillDone_counts (c : Fin 4) (encl err : Bool) :
    exec (.lineFillDone c encl a err) s =
      .next (if err then countFill c s else fillCode c { encl := encl, line := a.toNat / 32 } (countFill c s)) := by
  simp [execLineFillDone, powered, inside, countFill]

theorem lineFillDone_fills (c : Fin 4) (encl err : Bool) :
    ∃ s', exec (.lineFillDone c encl a err) s = .next s' ∧
      core s' c = { core s c with perfImiss := satInc (core s c).perfImiss } ∧
      (∀ d, d ≠ c → core s' d = core s d ∧ cache s' d = cache s d) ∧ (∀ u, thr s' u = thr s u) ∧
      (err = false → holdsLine s' encl (a.toNat / 32) (cache s' c).lines = true) ∧
      (err = true → s'.cache = s.cache) ∧ s' = { s with cores := s'.cores, cache := s'.cache, draws := s'.draws } := by
  refine ⟨_, exec_lineFillDone_counts powered inside c encl err, ?_⟩
  obtain ⟨own, others⟩ := countFill_core c s
  cases err with
  | true => exact ⟨own, fun d other => ⟨others d other, rfl⟩, fun _ => rfl, nofun, fun _ => rfl, rfl⟩
  | false =>
    let x : CacheLine := { encl := encl, line := a.toNat / 32 }
    obtain ⟨filled, apart⟩ := fillCode_cache c x (countFill c s)
    have holds := fillInto_holds 64 x (cache (countFill c s) c).lines (countFill c s)
    have lines := congrArg Caches.lines filled
    have rest := fillCode_eq c x (countFill c s)
    generalize fillCode c x (countFill c s) = t at *
    dsimp only at lines
    rw [← lines, ← holdsLine_congr (show t.seed = (countFill c s).seed by rw [rest])] at holds
    refine ⟨?_, fun d other => ⟨?_, apart d other⟩, fun u => ?_, fun _ => holds, nofun, by rw [rest]; rfl⟩
    · rw [rest]; exact own
    · rw [rest]; exact others d other
    · rw [rest]; rfl

end

/-! ### Flash operations (R110, R282, R293) -/

theorem inBankOf_of_bank {bank : Fin 4} {a n : Nat} (inside : inBank bank a n = true) {x : CacheLine}
    (least : 0x08000000 + 0x200000 * bank.val ≤ 32 * x.line)
    (most : 32 * x.line < 0x08000000 + 0x200000 * (bank.val + 1)) :
    inBankOf a n x = true := by
  simp only [inBank, inBankOf, Bool.and_eq_true, decide_eq_true_eq] at *
  omega

/-- The bank's lines leave the line stores and the data caches; nothing else of the caches changes. -/
theorem dropBanks_uncaches {bank : Fin 4} {a n : Nat} (inside : inBank bank a n = true) (s : State) (c : Fin 4) :
    cache (dropBanks a n s) c = { cache s c with
      lines := (cache (dropBanks a n s) c).lines, dlines := (cache (dropBanks a n s) c).dlines } ∧
    ∀ x, x ∈ (cache (dropBanks a n s) c).lines ∨ x ∈ (cache (dropBanks a n s) c).dlines →
      ¬ (0x08000000 + 0x200000 * bank.val ≤ 32 * x.line ∧ 32 * x.line < 0x08000000 + 0x200000 * (bank.val + 1)) := by
  rw [dropBanks, cache_mapCaches]
  refine ⟨rfl, fun x member ofBank => ?_⟩
  have dropped := inBankOf_of_bank inside ofBank.1 ofBank.2
  simp [dropped] at member

theorem flashProgram_apart {a k : Nat} {bs : List Byte} (apart : k < a ∨ a + bs.length ≤ k) (s : State) :
    tabGet norBlank (flashProgram a bs s).mem.flash k = tabGet norBlank s.mem.flash k := by
  unfold flashProgram; split
  · rfl
  · exact tabGet_memStore_outside norBlank _ _ _ _ apart

theorem flashErase_apart {a n k : Nat} (apart : k < a ∨ a + n ≤ k) (s : State) :
    tabGet norBlank (flashErase a n s).mem.flash k = tabGet norBlank s.mem.flash k := by
  unfold flashErase; split
  · rfl
  · exact tabGet_memErase_outside norBlank _ _ _ _ apart

/-- What the PUF helper data is read from (R110). -/
theorem pufHelper_congr {s s' : State}
    (same : ∀ k, 0x087F8000 ≤ k → k < 0x087F9000 → tabGet norBlank s'.mem.flash k = tabGet norBlank s.mem.flash k) :
    pufHelper s' = pufHelper s :=
  memBytes_congr norBlank _ _ _ _ same

theorem flashProgram_pufHelper (a : Nat) (bs : List Byte) (s : State) : pufHelper (flashProgram a bs s) = pufHelper s := by
  by_cases touches : touchesPuf a bs.length = true
  · rw [flashProgram, if_pos touches]
  · refine pufHelper_congr fun k least most => ?_
    simp only [touchesPuf, decide_eq_true_eq] at touches
    rcases Nat.eq_zero_or_pos bs.length with none | some_
    · rw [List.length_eq_zero_iff.1 none, flashProgram]; split <;> rfl
    · exact flashProgram_apart (by omega) s

theorem flashErase_pufHelper (a n : Nat) (s : State) : pufHelper (flashErase a n s) = pufHelper s := by
  by_cases touches : touchesPuf a n = true
  · rw [flashErase, if_pos touches]
  · refine pufHelper_congr fun k least most => ?_
    simp only [touchesPuf, decide_eq_true_eq] at touches
    exact flashErase_apart (by omega) s

section
variable {s : State} {bank : Fin 4} {a : Word} (powered : mainOn s = true)
include powered

theorem exec_flashProgram {bs : List Byte} (inside : inBank bank a.toNat bs.length = true)
    (puf : touchesPuf a.toNat bs.length = false) (record : touchesBootRecord a.toNat bs.length = false) :
    exec (.flashOperationEnd bank (.program a bs)) s = .next (dropBanks a.toNat bs.length
      { s with mem := { s.mem with flash := memStore norBlank s.mem.flash a.toNat bs } }) := by
  simp [execFlashOperationEnd, flashProgram, powered, inside, puf, record]

theorem exec_flashErase {n : Nat} (inside : inBank bank a.toNat n = true)
    (puf : touchesPuf a.toNat n = false) (record : touchesBootRecord a.toNat n = false) :
    exec (.flashOperationEnd bank (.erase a n)) s = .next (dropBanks a.toNat n
      { s with mem := { s.mem with flash := memErase s.mem.flash a.toNat n } }) := by
  simp [execFlashOperationEnd, flashErase, powered, inside, puf, record]

theorem exec_activate (slotB : Bool) : exec (.flashOperationEnd 3 (.activate slotB)) s = .next (activateEncl slotB s) := by
  simp [execFlashOperationEnd, powered]

end

/-! ### The activation of an image (R113, R116) -/

theorem nextRecord_place (r : Option (Bool × Nat × Nat)) (first second : Nat) :
    (nextRecord r first second).1 = first ∨ (nextRecord r first second).1 = second := by
  unfold nextRecord; split
  · exact .inl rfl
  · dsimp only; split <;> simp

/-- The boot records lie above everything else of flash. -/
theorem writeBootRecord_below (slotB : Bool) (s : State) {k : Nat} (below : k < 0x087FF000) :
    tabGet norBlank (writeBootRecord slotB s).mem.flash k = tabGet norBlank s.mem.flash k := by
  have place := nextRecord_place (bootRecord s false false) 0x087FF000 0x087FF800
  rw [writeBootRecord, flashProgram_apart (.inl (by omega)), flashErase_apart (.inl (by omega))]

theorem activateEncl_passed {s : State} {slotB : Bool} (runs : enclRuns s = true) (other : slotB ≠ s.boot.enclSlot)
    (passes : enclCode s slotB false = 0) : activateEncl slotB s = coldReset 3 (writeBootRecord slotB s) := by
  simp [activateEncl, runs, other, passes]

theorem activateEncl_refused {s : State} {slotB : Bool}
    (refused : slotB = s.boot.enclSlot ∨ enclCode s slotB false ≠ 0) :
    activateEncl slotB s = s := if_pos (.inr refused)

theorem activateEncl_pufHelper (slotB : Bool) (s : State) : pufHelper (activateEncl slotB s) = pufHelper s := by
  unfold activateEncl; split
  · rfl
  · exact pufHelper_congr fun k _ most => writeBootRecord_below slotB s (by omega)

theorem flashOperationEnd_pufHelper (bank : Fin 4) (op : FlashOp) (s : State) :
    ∃ s', exec (.flashOperationEnd bank op) s = .next s' ∧ pufHelper s' = pufHelper s := by
  refine ⟨_, rfl, ?_⟩
  split
  · rfl
  · cases op with
    | program a bs => dsimp only; split; exacts [flashProgram_pufHelper .., rfl]
    | erase a n => dsimp only; split; exacts [flashErase_pufHelper .., rfl]
    | activate slotB => dsimp only; split; exacts [activateEncl_pufHelper .., rfl]

/-- Settles O29: the loads and their end, line fills, flash operations byte by byte and line by line, the activation. -/
theorem vectorLinesAndFlash : Obligations.VectorLinesAndFlash := by
  unfold Obligations.VectorLinesAndFlash
  refine fun s => ⟨fun r => loadWrites_start, exec_vectorLoadDone_locks,
    fun c encl err a powered inside => lineFillDone_fills powered inside c encl err, fun bank a bs n powered => ⟨?_, ?_⟩,
    fun slotB powered => ⟨fun runs other passes => ?_, fun refused => ?_⟩,
    fun bank op => flashOperationEnd_pufHelper bank op s⟩
  · intro inside puf record
    exact ⟨_, exec_flashProgram powered inside puf record, memBytes_memStore_same ..,
      fun k apart => tabGet_memStore_outside norBlank _ _ _ _ apart, dropBanks_uncaches inside _, rfl⟩
  · intro inside puf record
    refine ⟨_, exec_flashErase powered inside puf record, fun k => ?_, dropBanks_uncaches inside _, rfl⟩
    split
    · next range => exact tabGet_memErase_inside norBlank _ _ _ _ range
    · exact tabGet_memErase_outside norBlank _ _ _ _ (by omega)
  · refine ⟨_, exec_activate powered slotB, ?_⟩
    rw [activateEncl_passed runs other passes]
    exact ⟨rfl, rfl, rfl, fun k below => writeBootRecord_below slotB s below⟩
  · rw [exec_activate powered, activateEncl_refused refused]

end Sys2Proof.Machine
end

section
/-! PROOFS. The ROM sequence (R106, R112, R114): the fuses sampled, the slots checked, the mode it ends in; and the handover
(R115). -/

namespace Sys2Proof.Machine

/-! ### The fuses sampled (R106) -/

/-- The ROM has sampled fuses that agree, with no uncertain bit: the view shows the array. -/
def romSampled (s : State) : State :=
  { s with sys := { s.sys with romPending := false }, fuse := { s.fuse with view := s.fuse.array, torn := false } }

/-- Store leads to the ROM Headland; every other lifecycle has its slots checked. -/
theorem romOp_sampled {s : State} {x : RomSense} (pending : s.sys.romPending = true) (powered : mainOn s = true)
    (agree : x.fusesAgree = true) (certain : s.fuse.uncertain = []) (witness : s.bkp.tamp.witness = false) :
    romOp x s = if lifecycle s.fuse.array = .store then
        let t := arrive Mode.store (setTamp (romSampled s) { s.bkp.tamp with safePend := false })
        { t with boot := { t.boot with headland := .rom } }
      else checkSlots x (startLock (intrusionFuse s.fuse.array) (romSampled s)) (romSampled s) := by
  have sampled : sampleFuses true { s with sys := { s.sys with romPending := false } } = romSampled s := by
    simp [sampleFuses, certain, sampleBits, romSampled]
  have kept : (romSampled s).bkp.tamp.witness = false := witness
  simp only [romOp, pending, powered, agree, sampled, kept]
  simp [romSampled]

/-! ### The first mode after a reset (R82, R84) -/

theorem arrive_sys (m : BitVec 3) (s : State) : (arrive m s).sys = { s.sys with mode := m } := by simp [arrive]

theorem arrive_ledgerOnly (m : BitVec 3) (s : State) : LedgerOnly s (arrive m s) := logEntry_mem ..

/-! ### The reasons for Lockdown at a start (R84, R97) -/

theorem startLock_none {s : State} (fielded : lifecycle s.fuse.view = .fielded) (intrusion : s.bkp.tamp.intrusion = false)
    (safeIn : s.pins.safeIn = false) (safePend : s.bkp.tamp.safePend = false) : startLock false s = 0 := by
  have kept : scrapped s.fuse.view = false := by
    cases scrapped : scrapped s.fuse.view with
    | false => rfl
    | true => simp [lifecycle, scrapped] at fielded
  simp [startLock, intrusion, kept, safeIn, safePend]

theorem startLock_intrusion {s : State} (intrusion : s.bkp.tamp.intrusion = true) (seen : Bool) : startLock seen s = 1 :=
  if_pos (.inr intrusion)

/-! ### An Enclosure image (R112) -/

/-- The check reads the slot in flash and the fuse view alone. -/
theorem enclCode_congr {s s' : State} (flash : s'.mem.flash = s.mem.flash) (view : s'.fuse.view = s.fuse.view)
    (slotB err : Bool) : enclCode s' slotB err = enclCode s slotB err := by
  simp [enclCode, enclDigest, enclVer, flashRead, flash, view]

theorem numAt_one (bs : List Byte) (k : Nat) : numAt bs k 1 = (bs.getD k 0).toNat := by
  rw [numAt, bytesAt, List.getD_eq_getElem?_getD, ← List.head?_drop]
  cases bs.drop k <;> simp [leNat]

/-! ### The slots checked (R114 steps 4 to 6) -/

/-- The preferred slot passes. -/
theorem checkSlots_passes {s : State} {x : RomSense} (agree : x.fusesAgree = true) (cause : s.sys.cause ≠ 4) {first : Bool}
    (pref : bootPref s x.errRec0 x.errRec1 = first)
    (passes : enclCode s first (if first then x.errSlotB else x.errSlotA) = 0) :
    checkSlots x 0 s = latchSlot first false 0 0 x.handoverUs (arrive Mode.boot s) := by
  subst pref
  simp only [checkSlots, agree, cause]
  simp [passes]

/-- Neither slot passes. -/
theorem checkSlots_fails {s : State} {x : RomSense} (agree : x.fusesAgree = true) (cause : s.sys.cause ≠ 4)
    (failsA : enclCode s false x.errSlotA ≠ 0) (failsB : enclCode s true x.errSlotB ≠ 0) :
    checkSlots x 0 s =
      let t := arrive Mode.boot s
      let t := enterLimp 4 { t with boot := { t.boot with
        failA := BitVec.ofNat 4 (enclCode s false x.errSlotA), failB := BitVec.ofNat 4 (enclCode s true x.errSlotB)
        fallback := true } }
      { t with boot := { t.boot with headland := .rom } } := by
  simp only [checkSlots, agree, cause]
  cases bootPref s x.errRec0 x.errRec1 <;> simp [failsA, failsB]

theorem enterMode_romPending (m : BitVec 3) (s : State) : (enterMode m s).sys.romPending = s.sys.romPending := by
  unfold enterMode; split
  · rfl
  · rw [transition_sys, dropDrain]; split <;> rfl

theorem enterLockdown_romPending (lock : BitVec 4) (s : State) :
    (enterLockdown lock s).sys.romPending = s.sys.romPending := by
  unfold enterLockdown; dsimp only
  split
  · rfl
  · simp [enterMode_romPending]

/-- A reason for Lockdown leads there, whether a slot passes or not. -/
theorem checkSlots_locks {lock : BitVec 4} (reason : lock ≠ 0) (x : RomSense) (s : State) :
    (checkSlots x lock s).sys.mode = Mode.lockdown ∧ (checkSlots x lock s).sys.lock = lockMerge s.sys.lock lock ∧
    (checkSlots x lock s).sys.romPending = s.sys.romPending := by
  have locked : ∀ t : State, t.sys = s.sys → (startLockdown lock t).sys.mode = Mode.lockdown ∧
      (startLockdown lock t).sys.lock = lockMerge s.sys.lock lock ∧
      (startLockdown lock t).sys.romPending = s.sys.romPending := fun t sys => by
    rw [← sys]; exact ⟨enterLockdown_mode .., enterLockdown_lock .., enterLockdown_romPending ..⟩
  simp only [checkSlots, reason, ne_eq, not_false_eq_true, or_true, if_true, if_false]
  exact iteInduction (motive := fun t : State => t.sys.mode = Mode.lockdown ∧ t.sys.lock = lockMerge s.sys.lock lock ∧
    t.sys.romPending = s.sys.romPending) (fun _ => locked _ rfl) (fun _ => locked _ rfl)

/-! ### Limp from Boot (R93) -/

/-- A reason that takes every pin to hi-Z, entered from Boot. -/
theorem enterLimp_boot {s : State} (boot : s.sys.mode = Mode.boot) {k : Nat} (allPins : ¬ (k = 2 ∨ k = 3)) :
    enterLimp k s = (fins 128).foldl (fun s n => stopChannel n .hiZ s)
      (enterMode Mode.limp { s with sys := { s.sys with limpSet := setBits s.sys.limpSet (k - 1) 1 1 } }) := by
  simp [enterLimp, boot, Mode.boot, Mode.lockdown, Mode.backup, Mode.service, Mode.limp, allPins]

theorem enterLimp_boot_leaves {s : State} (boot : s.sys.mode = Mode.boot) {k : Nat} (allPins : ¬ (k = 2 ∨ k = 3))
    (lt : k - 1 < 4) :
    (enterLimp k s).sys.mode = Mode.limp ∧ limpReason (enterLimp k s) k = true ∧ (enterLimp k s).boot = s.boot ∧
    ∀ n, (chan (enterLimp k s) n).drive = .hiZ := by
  let entered := enterMode Mode.limp { s with sys := { s.sys with limpSet := setBits s.sys.limpSet (k - 1) 1 1 } }
  have reason : entered.sys.limpSet = setBits s.sys.limpSet (k - 1) 1 1 := enterMode_limpSet ..
  obtain ⟨sys, -⟩ := foldl_stopChannel_keeps (fins 128) .hiZ entered
  refine ⟨?_, ?_, by simp, fun n => ?_⟩
  all_goals rw [enterLimp_boot boot allPins]
  · rw [sys]; exact enterMode_mode ..
  · rw [limpReason, sys, reason]; exact setBits_getLsbD _ lt
  · exact foldl_stopChannel_drive (pin := fun _ _ => .hiZ) (fins 128) entered
      (fun _ _ _ _ _ => rfl) n (.inl (List.mem_finRange n))

/-! ### ROM_SEQUENCE (R114) -/

section
variable {s : State} {x : RomSense} (pending : s.sys.romPending = true) (powered : mainOn s = true)
  (agree : x.fusesAgree = true) (certain : s.fuse.uncertain = []) (witness : s.bkp.tamp.witness = false)
include pending powered agree certain witness

theorem romSequence_store (store : lifecycle s.fuse.array = .store) :
    ∃ s', exec (.romSequence x) s = .next s' ∧ s'.sys.mode = Mode.store ∧ s'.sys.romPending = false ∧
      s'.boot.headland = .rom ∧ s'.bkp.tamp.safePend = false ∧ s'.fuse.view = s.fuse.array ∧
      s'.boot.romLocked = s.boot.romLocked := by
  refine ⟨_, rfl, ?_⟩
  rw [romOp_sampled pending powered agree certain witness, if_pos store]
  simp [arrive_sys, romSampled, setTamp]

theorem romSequence_intrusion (notStore : lifecycle s.fuse.array ≠ .store) (intrusion : s.bkp.tamp.intrusion = true) :
    ∃ s', exec (.romSequence x) s = .next s' ∧ s'.sys.mode = Mode.lockdown ∧ s'.sys.lock = 1 ∧
      s'.sys.romPending = false := by
  refine ⟨_, rfl, ?_⟩
  rw [romOp_sampled pending powered agree certain witness, if_neg notStore,
    startLock_intrusion (s := romSampled s) intrusion]
  obtain ⟨mode, lock, rom⟩ := checkSlots_locks (lock := 1) (by decide) x (romSampled s)
  exact ⟨mode, lock.trans (lockMerge_intrusion _), rom⟩

variable (fielded : lifecycle s.fuse.array = .fielded) (fuses : intrusionFuse s.fuse.array = false)
  (intrusion : s.bkp.tamp.intrusion = false) (safeIn : s.pins.safeIn = false) (safePend : s.bkp.tamp.safePend = false)
include fielded fuses intrusion safeIn safePend

/-- A Fielded module without a reason for Lockdown checks its slots. -/
theorem romOp_fielded : romOp x s = checkSlots x 0 (romSampled s) := by
  rw [romOp_sampled pending powered agree certain witness, if_neg (by rw [fielded]; decide), fuses,
    startLock_none (s := romSampled s) fielded intrusion safeIn safePend]

variable (cause : s.sys.cause ≠ 4)
include cause

/-- The preferred slot is latched. -/
theorem romSequence_latches {first : Bool} (pref : bootPref s x.errRec0 x.errRec1 = first)
    (passes : enclCode (sampledFuses s) first (if first then x.errSlotB else x.errSlotA) = 0) :
    exec (.romSequence x) s = .next (latchSlot first false 0 0 x.handoverUs (arrive Mode.boot (romSampled s))) := by
  have passes' : enclCode (romSampled s) first (if first then x.errSlotB else x.errSlotA) = 0 :=
    (enclCode_congr (s := sampledFuses s) rfl rfl ..).trans passes
  rw [exec_romSequence, execRomSequence,
    romOp_fielded pending powered agree certain witness fielded fuses intrusion safeIn safePend,
    checkSlots_passes (s := romSampled s) agree cause pref passes']

theorem romSequence_limp (failsA : enclCode (sampledFuses s) false x.errSlotA ≠ 0)
    (failsB : enclCode (sampledFuses s) true x.errSlotB ≠ 0) :
    ∃ s', exec (.romSequence x) s = .next s' ∧ s'.sys.mode = Mode.limp ∧ limpReason s' 4 = true ∧
      s'.boot.headland = .rom ∧ s'.boot.failA = BitVec.ofNat 4 (enclCode (sampledFuses s) false x.errSlotA) ∧
      s'.boot.failB = BitVec.ofNat 4 (enclCode (sampledFuses s) true x.errSlotB) ∧ s'.boot.meas = s.boot.meas ∧
      ∀ n, (chan s' n).drive = .hiZ := by
  have same : ∀ slotB err, enclCode (romSampled s) slotB err = enclCode (sampledFuses s) slotB err :=
    fun slotB err => enclCode_congr (s := sampledFuses s) rfl rfl ..
  refine ⟨_, rfl, ?_⟩
  rw [romOp_fielded pending powered agree certain witness fielded fuses intrusion safeIn safePend,
    checkSlots_fails (s := romSampled s) agree cause (by rwa [same]) (by rwa [same]), same, same]
  have inBoot : (arrive Mode.boot (romSampled s)).sys.mode = Mode.boot := by rw [arrive_sys]
  have kept : (arrive Mode.boot (romSampled s)).boot = s.boot := by simp [romSampled]
  generalize arrive Mode.boot (romSampled s) = t at *
  obtain ⟨mode, reason, boot, drive⟩ := enterLimp_boot_leaves (k := 4)
    (s := { t with boot := { t.boot with
        failA := BitVec.ofNat 4 (enclCode (sampledFuses s) false x.errSlotA)
        failB := BitVec.ofNat 4 (enclCode (sampledFuses s) true x.errSlotB), fallback := true } })
    inBoot (by decide) (by decide)
  exact ⟨mode, reason, rfl, congrArg Boot.failA boot, congrArg Boot.failB boot,
    (congrArg Boot.meas boot).trans (by simp [kept]), drive⟩

end

/-- What the latched slot shows (R114 step 6): its image's header, digest and entries, read from a flash that the mode's
log entry leaves as it was. -/
theorem latchSlot_shows (slotB : Bool) (us : Half) {s t : State} (flash : t.mem.flash = s.mem.flash) :
    let t' := latchSlot slotB false 0 0 us t
    let h := flashRead s (enclSlotBase slotB) 0x100
    t'.boot.svn.toNat = (h.getD 8 0).toNat ∧ t'.boot.mlen = BitVec.ofNat 20 (numAt h 0x10 4) ∧
    t'.boot.meas = ofBytes 256 (sha256 (flashRead s (enclSlotBase slotB) 0xC0 ++
      flashRead s (enclSlotBase slotB + 0x100) (numAt h 0x10 4))) ∧
    ∀ e : Fin 4, vget t'.boot.entry e = BitVec.ofNat 32 (enclSlotBase slotB + 0x100 + numAt h (0x14 + 4 * e.val) 4) := by
  have read : ∀ a n, flashRead t a n = flashRead s a n := fun a n => by rw [flashRead, flash, flashRead]
  have byte : ∀ b : Byte, BitVec.ofNat 8 b.toNat = b := fun b => by simp
  simp only [latchSlot, enclDigest, read, numAt_one, byte]
  refine ⟨trivial, trivial, trivial, fun e => ?_⟩
  simp [vget]

/-! ### The handover (R115) -/

theorem romWrites_rom {s : State} (unlocked : s.boot.romLocked = false) (fromRom : (pcOf s 0).toNat ≤ 0x8000) :
    romWrites s (.thread 0) = true := by
  simp [romWrites, unlocked, fromRom]

theorem exec_bootHandover_rom {s : State} (key : Byte) (passes : passesGuard s (.thread 0) 0x54000304 = true)
    (rom : romWrites s (.thread 0) = true) : exec (.bootHandover (.thread 0) key) s = .next (handover key s) := by
  rw [exec_bootHandover, execBootHandover, rom, tryWrite_open passes]

theorem bootHandover_refused {s : State} {r : Req} (key : Byte) (passes : passesGuard s r 0x54000304 = true)
    (other : romWrites s r = false) : RefusedSilently (.bootHandover r key) r s := by
  obtain ⟨kind, shut⟩ := tryWrite_closed passes (handover key)
  exact refusedSilently_of_violate (by rw [exec_bootHandover, execBootHandover, other, shut])

/-- The ROM is locked and the resident Headland answers; the first core's line store holds nothing of the ROM. -/
def romLeft (s : State) : State :=
  let t := { s with boot := { s.boot with romLocked := true, measValid := true, headland := .resident } }
  setCache t 0 { cache t 0 with lines := [] }

theorem handover_starts {s : State} (complete : s.sys.romPending = false) (measured : s.boot.mlen ≠ 0)
    (home : homeEncl s 0 = true) :
    (handover 0x3C s).boot = (romLeft s).boot ∧ (thr (handover 0x3C s) 0).run = .running ∧
    (thr (handover 0x3C s) 0).pc = vget s.boot.entry 0 &&& 0xFFFFFFFC ∧
    (handover 0x3C s).wld.started = true ∧ (handover 0x3C s).wld.period = 250 ∧ (handover 0x3C s).mem = s.mem ∧
    (handover 0x3C s).sys = s.sys := by
  obtain ⟨run, pc⟩ := startEncl_starts (s := romLeft s) home 0
  have go : ¬ ((0x3C : Byte) ≠ 0x3C ∨ s.sys.romPending = true ∨ s.boot.mlen = 0) := by
    rintro (other | waits | none)
    exacts [other rfl, by simp [complete] at waits, measured none]
  let t := startWatchdog (startEncl 0 (romLeft s))
  have taken : handover 0x3C s = loadPatrol { t with ldg := { t.ldg with passDue := startPassDue t } } := if_neg go
  rw [taken]
  exact ⟨by simp [t], by simpa [thr, t] using run, by simpa [thr, t, romLeft] using pc, by simp [t, startWatchdog],
    by simp [t, startWatchdog], by simp [t, romLeft], by simp [t, romLeft]⟩

/-- Settles O40: the sequence by lifecycle and by what the slots' checks find, the handover, and who else writes to it. -/
theorem romAndHandover : Obligations.RomAndHandover := by
  unfold Obligations.RomAndHandover
  refine fun s => ⟨fun x pending powered agree certain witness => ⟨
      romSequence_store pending powered agree certain witness,
      fun fielded fuses intrusion safeIn safePend cause => ⟨fun passes => ?_,
        romSequence_limp pending powered agree certain witness fielded fuses intrusion safeIn safePend cause⟩,
      romSequence_intrusion pending powered agree certain witness⟩, fun done x => ?_,
    fun key passes unlocked fromRom complete measured => ⟨fun accepted home => ?_, fun other => ?_⟩,
    fun r key passes other => bootHandover_refused key passes other⟩
  · obtain ⟨flash, -⟩ := LedgerOnly.keeps (arrive_ledgerOnly Mode.boot (romSampled s))
    obtain ⟨svn, mlen, meas, entry⟩ := latchSlot_shows (bootPref s x.errRec0 x.errRec1) x.handoverUs (s := s) flash
    refine ⟨_, romSequence_latches pending powered agree certain witness fielded fuses intrusion safeIn safePend cause rfl
      passes, ?_, ?_, rfl, rfl, svn, mlen, meas, entry, rfl, ?_⟩ <;> simp [latchSlot, arrive_sys, romSampled]
  · rw [exec_romSequence, execRomSequence, romOp, done]; rfl
  · subst accepted
    obtain ⟨boot, run, pc, rest⟩ := handover_starts complete measured home
    refine ⟨_, exec_bootHandover_rom _ passes (romWrites_rom unlocked fromRom), ?_, ?_, ?_, run, pc, ?_, rest⟩
    all_goals rw [boot]; rfl
  · rw [exec_bootHandover_rom key passes (romWrites_rom unlocked fromRom), handover, if_pos (.inl other)]

end Sys2Proof.Machine
end

section
/-! PROOFS. Bytes and bits laid into a datum of a fixed width (R5), and the fuses that a list of blows sets (R106). -/

namespace Sys2Proof.Machine

/-! ### A field of a datum -/

/-- A number with one field replaced, in its three parts. -/
theorem replaceField_parts (x lo n v : Nat) :
    x - x / 2 ^ lo % 2 ^ n * 2 ^ lo + v % 2 ^ n * 2 ^ lo =
      2 ^ lo * (2 ^ n * (x / 2 ^ (lo + n)) + v % 2 ^ n) + x % 2 ^ lo := by
  have whole := Nat.div_add_mod x (2 ^ lo)
  have field := Nat.div_add_mod (x / 2 ^ lo) (2 ^ n)
  rw [Nat.div_div_eq_div_mul, ← Nat.pow_add] at field
  have split : x = 2 ^ lo * (2 ^ n * (x / 2 ^ (lo + n))) + x / 2 ^ lo % 2 ^ n * 2 ^ lo + x % 2 ^ lo := by
    conv_lhs => rw [← whole, ← field]
    ring
  rw [Nat.mul_add, Nat.mul_comm (2 ^ lo) (v % 2 ^ n)]
  omega

/-- Inside the field the new value's bits, outside it the datum's own. -/
theorem setBits_field_getLsbD {w lo n : Nat} (fits : lo + n ≤ w) (x : BitVec w) (v i : Nat) :
    (setBits x lo n v).getLsbD i = if lo ≤ i ∧ i < lo + n then v.testBit (i - lo) else x.getLsbD i := by
  have bit : (setBits x lo n v).getLsbD i = (decide (i < w) &&
      (2 ^ lo * (2 ^ n * (x.toNat / 2 ^ (lo + n)) + v % 2 ^ n) + x.toNat % 2 ^ lo).testBit i) := by
    rw [BitVec.getLsbD, setBits_toNat, replaceField_parts, Nat.testBit_mod_two_pow]
  rw [bit, Nat.testBit_two_pow_mul_add _ (Nat.mod_lt _ (Nat.two_pow_pos lo)),
    Nat.testBit_two_pow_mul_add _ (Nat.mod_lt _ (Nat.two_pow_pos n)), Nat.testBit_div_two_pow, Nat.testBit_mod_two_pow,
    Nat.testBit_mod_two_pow, BitVec.getLsbD]
  by_cases below : i < lo
  · simp [below, Nat.not_le.2 below]; omega
  by_cases inside : i < lo + n
  · have rel : i - lo < n := by omega
    simp [below, inside, rel, Nat.not_lt.1 below]; omega
  · have rel : ¬ i - lo < n := by omega
    have back : i - lo - n + (lo + n) = i := by omega
    simp only [below, inside, rel, back, if_false, and_false]
    by_cases lt : i < w
    · simp [lt]
    · simp [lt, Nat.testBit_lt_two_pow (lt_of_lt_of_le x.isLt (Nat.pow_le_pow_right (by decide) (Nat.not_lt.1 lt)))]

/-! ### Bytes of a datum -/

theorem byteAt_setByte {w k : Nat} (fits : 8 * k + 8 ≤ w) (x : BitVec w) (b : Byte) (j : Nat) :
    byteAt (setByte x k b) j = if j = k then b else byteAt x j := by
  apply BitVec.eq_of_getLsbD_eq
  intro i lt
  have within : 8 * k ≤ 8 * j + i ∧ 8 * j + i < 8 * k + 8 ↔ j = k := by omega
  rw [byteAt, setByte, BitVec.getLsbD_extractLsb', setBits_field_getLsbD fits]
  simp only [within, lt]
  by_cases same : j = k
  · subst same; simp [BitVec.getLsbD]
  · simp [same, byteAt, lt]

/-- Bytes laid from `k` upwards: inside their range each reads back, outside it the datum's own. -/
theorem byteAt_setBytes {w : Nat} (bs : List Byte) {k : Nat} (fits : 8 * (k + bs.length) ≤ w) (x : BitVec w) (j : Nat) :
    byteAt (setBytes x k bs) j = if k ≤ j ∧ j < k + bs.length then bs.getD (j - k) 0 else byteAt x j := by
  induction bs generalizing k x with
  | nil => simp [setBytes]
  | cons b bs ih =>
    rw [List.length_cons] at *
    rw [setBytes, ih (by omega), byteAt_setByte (by omega)]
    by_cases first : j = k
    · subst first; simp
    · by_cases later : k + 1 ≤ j ∧ j < k + 1 + bs.length
      · rw [if_pos later, if_pos (by omega), show j - k = j - (k + 1) + 1 by omega, List.getD_cons_succ]
      · rw [if_neg later, if_neg first, if_neg (by omega)]

theorem bytesOf_setBytes {w : Nat} {bs : List Byte} {k : Nat} (fits : 8 * (k + bs.length) ≤ w) (x : BitVec w) :
    bytesOf (setBytes x k bs) k bs.length = bs := by
  apply List.ext_getElem (by simp [bytesOf])
  intro i _ lt
  simp [bytesOf, byteAt_setBytes bs fits, lt]

theorem leNat_lt (bs : List Byte) : leNat bs < 2 ^ (8 * bs.length) := by
  induction bs with
  | nil => simp [leNat]
  | cons b bs ih =>
    have byte := b.isLt
    have next : 2 ^ (8 * (bs.length + 1)) = 256 * 2 ^ (8 * bs.length) := by rw [Nat.mul_succ, Nat.pow_add, Nat.mul_comm]
    rw [leNat, List.length_cons, next]
    omega

theorem sha256_length (m : List Byte) : (sha256 m).length = 32 := by simp [sha256, beBytes]

/-! ### Fuses blown (R106) -/

/-- The bits of the list are blown, every other is as it was. -/
theorem setFuseBits_list_getLsbD {l : List Nat} (inside : ∀ k ∈ l, k < 4096) (v : BitVec 4096) (k : Nat) :
    (setFuseBits l v).getLsbD k = (decide (k ∈ l) || v.getLsbD k) := by
  induction l generalizing v with
  | nil => simp [setFuseBits]
  | cons n l ih =>
    have first := setFuseBits_getLsbD v (inside n List.mem_cons_self) k
    rw [show setFuseBits (n :: l) v = setFuseBits l (setFuseBits [n] v) from rfl,
      ih fun k member => inside k (List.mem_cons_of_mem n member), first]
    simp [Bool.or_left_comm, Bool.or_assoc]

theorem fuseField_testBit (v : BitVec 4096) (lo n i : Nat) :
    (fuseField v lo n).testBit i = (decide (i < n) && v.getLsbD (lo + i)) := by
  rw [fuseField, bitsAt, Nat.testBit_mod_two_pow, Nat.testBit_shiftRight, BitVec.getLsbD]

end Sys2Proof.Machine
end

section
/-! PROOFS. The ROM Headland (R117, R481 to R483): the buffer, the nonce, PROV, slot A and FIELD. -/

namespace Sys2Proof.Machine

/-! ### Lines of the ROM Headland (R481, R483) -/

/-- Slot A erased, as SLOTA ERASE answers it. -/
def slotErased (s : State) : State :=
  hldOk (storeErase (seedSlotBase false) seedAreaLen { s with hld := { s.hld with slotA := [] } })

section
variable {s : State} (runs : romRuns s = true)
include runs

theorem onRom_closed (shut : romOpen s = false) (act : State → State) : onRom act s = .next (hldErr 3 s) := by
  simp [onRom, runs, shut]

theorem onRom_open (opens : romOpen s = true) (act : State → State) : onRom act s = .next (act s) := by
  simp [onRom, runs, opens]

theorem romInfo_answers : OnlyAnswers .romInfo { values := infoValues s } s :=
  onlyAnswers_hldAnswer (congrArg Host.Outcome.next (if_pos runs))

/-- Outside Store every command but INFO answers ER 03. -/
theorem romCommands_closed (shut : romOpen s = false) :
    ∀ c ∈ [Instr.romBuf 0 [0], .romNonce, .prov, .slotaErase, .slotaWrite 0 4, .fieldCmd],
      OnlyAnswers c { code := 3 } s := by
  intro c member
  have answered : exec c s = .next (hldErr 3 s) := by
    simp only [List.mem_cons, List.not_mem_nil, or_false] at member
    rcases member with rfl | rfl | rfl | rfl | rfl | rfl
    exacts [onRom_closed runs shut (bufOp 0 [0]), onRom_closed runs shut romNonceOp, onRom_closed runs shut provOp,
      onRom_closed runs shut slotErased, onRom_closed runs shut (slotaOp 0 4),
      onRom_closed runs shut (fieldOp (Config.slotError s.now false) (Config.slotError s.now true))]
  exact onlyAnswers_hldAnswer answered

end

/-- A refusal under R117 keeps everything but the Headland. -/
theorem refuse117_answers {c : Instr} {w : Refused117} {s t : State} (ran : exec c s = .next (refuse117 w t))
    (answers : t.hld.answers = s.hld.answers) :
    Answers c { code := 3 } s (refuse117 w t) ∧ (refuse117 w t).hld.refused = some w ∧ (refuse117 w t).fuse = t.fuse ∧
    (refuse117 w t).hld.romNonce = t.hld.romNonce ∧ (refuse117 w t).hld.buf = t.hld.buf :=
  ⟨⟨ran, rfl, congrArg (· + 1) answers⟩, rfl, rfl, rfl, rfl⟩

/-! ### The buffer and the nonce (R117, R482) -/

theorem romNonce_live {s : State} {n : BitVec 128} (drawn : s.hld.romNonce = some (n, s.now)) : liveRomNonce s = some n := by
  simp [liveRomNonce, drawn]

section
variable {s : State} (runs : romRuns s = true) (opens : romOpen s = true)
include runs opens

theorem romBuf_lays {off : Nat} {data : List Byte} (aligned : off % 4 = 0) (least : 1 ≤ data.length)
    (most : data.length ≤ 64) (inside : off + data.length ≤ 512) :
    ∃ s', Answers (.romBuf off data) {} s s' ∧ bytesOf s'.hld.buf off data.length = data ∧
      s' = { s with hld := s'.hld } ∧
      ∀ k, k < 512 → k < off ∨ off + data.length ≤ k → byteAt s'.hld.buf k = byteAt s.hld.buf k := by
  have form : bufFormOk off data = true := decide_eq_true ⟨aligned, by omega, least, most, inside⟩
  have laid : exec (.romBuf off data) s =
      .next (hldOk { s with hld := { s.hld with buf := setBytes s.hld.buf off data } }) := by
    rw [exec_romBuf, execRomBuf, onRom_open runs opens, bufOp, form]; rfl
  refine ⟨_, answers_ok laid rfl, bytesOf_setBytes (by omega) _, rfl, fun k _ outside => ?_⟩
  exact (byteAt_setBytes data (by omega) _ k).trans (if_neg (by omega))

theorem romBuf_refused {off : Nat} {data : List Byte}
    (bad : off % 4 ≠ 0 ∨ data = [] ∨ 64 < data.length ∨ 512 < off + data.length) :
    OnlyAnswers (.romBuf off data) { code := 1 } s := by
  have form : bufFormOk off data = false := by
    refine decide_eq_false fun ⟨aligned, _, least, most, inside⟩ => ?_
    rcases bad with misaligned | none | long | beyond
    · exact misaligned aligned
    · simp [none] at least
    · omega
    · omega
  refine onlyAnswers_hldAnswer (a := { code := 1 }) ?_
  rw [exec_romBuf, execRomBuf, onRom_open runs opens, bufOp, form]; rfl

theorem romNonce_draws : ∃ s' n, Answers .romNonce { bytes := bytesOf n 0 16 } s s' ∧
    s'.hld.romNonce = some (n, s.now) ∧ liveRomNonce s' = some n := by
  have drawn : exec .romNonce s = .next (romNonceOp s) := onRom_open runs opens _
  exact ⟨_, (draw 128 s).1, ⟨drawn, rfl, rfl⟩, rfl, romNonce_live rfl⟩

end

/-! ### PROV (R117 steps 2 and 3) -/

theorem mem_khBits (h : List Byte) (k : Nat) :
    k ∈ khBits h ↔ 256 ≤ k ∧ k < 512 ∧ (leNat h).testBit (k - 256) = true := by
  simp only [khBits, List.mem_map, List.mem_filter, List.mem_range]
  constructor
  · rintro ⟨i, ⟨lt, bit⟩, rfl⟩
    exact ⟨by omega, by omega, by rwa [Nat.add_sub_cancel_left]⟩
  · rintro ⟨least, most, bit⟩
    exact ⟨k - 256, ⟨by omega, bit⟩, by omega⟩

theorem khBits_inside (h : List Byte) : ∀ k ∈ khBits h, k < 4096 := fun k member => by
  have := (mem_khBits h k).1 member
  omega

theorem romBlow_getLsbD {l : List Nat} (inside : ∀ k ∈ l, k < 4096) (s : State) (k : Nat) :
    (romBlow l s).fuse.array.getLsbD k = (decide (k ∈ l) || s.fuse.array.getLsbD k) ∧
    (romBlow l s).fuse.view.getLsbD k = (decide (k ∈ l) || s.fuse.view.getLsbD k) :=
  ⟨setFuseBits_list_getLsbD inside _ k, setFuseBits_list_getLsbD inside _ k⟩

/-- Blown into a view that shows no key hash, the bits of a hash of 32 bytes are BUILDER_KH. -/
theorem romBlow_builderKh {s : State} {h : List Byte} (length : h.length = 32) (blank : builderKh s = 0) :
    builderKh (romBlow (khBits h) s) = leNat h := by
  have below : leNat h < 2 ^ 256 := by simpa [length] using leNat_lt h
  apply Nat.eq_of_testBit_eq
  intro i
  have clear : (decide (i < 256) && s.fuse.view.getLsbD (256 + i)) = false := by
    rw [← fuseField_testBit, show fuseField s.fuse.view 256 256 = 0 from blank, Nat.zero_testBit]
  rw [builderKh, fuseField_testBit, (romBlow_getLsbD (khBits_inside h) s _).2, Bool.and_or_distrib_left, clear,
    Bool.or_false, Bool.eq_iff_iff, Bool.and_eq_true, decide_eq_true_eq, decide_eq_true_eq, mem_khBits,
    Nat.add_sub_cancel_left]
  constructor
  · exact fun ⟨_, _, _, bit⟩ => bit
  · intro bit
    have lt : i < 256 := by
      by_contra above
      rw [Nat.testBit_lt_two_pow (lt_of_lt_of_le below (Nat.pow_le_pow_right (by decide) (Nat.not_lt.1 above)))] at bit
      exact Bool.false_ne_true bit
    exact ⟨lt, by omega, by omega, bit⟩

/-- Of the array the bits of BUILDER_KH alone are blown, each that the hash sets. -/
theorem romBlow_khBits (h : List Byte) (s : State) :
    (∀ k, k < 256 ∨ 512 ≤ k → (romBlow (khBits h) s).fuse.array.getLsbD k = s.fuse.array.getLsbD k) ∧
    ∀ k, k < 256 → (leNat h).testBit k = true → (romBlow (khBits h) s).fuse.array.getLsbD (256 + k) = true := by
  constructor
  · intro k outside
    have kept : k ∉ khBits h := fun member => by have := (mem_khBits h k).1 member; omega
    rw [(romBlow_getLsbD (khBits_inside h) s k).1, decide_eq_false kept, Bool.false_or]
  · intro k lt bit
    have blown : 256 + k ∈ khBits h := (mem_khBits h _).2 ⟨by omega, by omega, by rwa [Nat.add_sub_cancel_left]⟩
    rw [(romBlow_getLsbD (khBits_inside h) s _).1, decide_eq_true blown, Bool.true_or]

/-- An attempt uses its nonce up and empties the buffer. -/
def attempted (s : State) : State := zeroBuf { s with hld := { s.hld with romNonce := none } }

/-- The key hash blown in an attempt, and the line answered. -/
theorem attempted_blows {s : State} {h : List Byte} (length : h.length = 32) (blank : builderKh s = 0) :
    let t := hldOk (romBlow (khBits h) (attempted s))
    (t.hld.answer = {} ∧ t.hld.answers = s.hld.answers + 1) ∧ t.hld.romNonce = none ∧ t.hld.buf = 0 ∧
    builderKh t = leNat h ∧
    (∀ k, k < 256 ∨ 512 ≤ k → t.fuse.array.getLsbD k = s.fuse.array.getLsbD k) ∧
    ∀ k, k < 256 → (leNat h).testBit k = true → t.fuse.array.getLsbD (256 + k) = true := by
  obtain ⟨kept, blown⟩ := romBlow_khBits h (attempted s)
  exact ⟨⟨rfl, rfl⟩, rfl, rfl, romBlow_builderKh (s := attempted s) length blank, kept, blown⟩

section
variable {s : State} (runs : romRuns s = true) (opens : romOpen s = true)
include runs opens

theorem prov_noNonce (none : liveRomNonce s = none) :
    ∃ s', Answers .prov { code := 3 } s s' ∧ s'.hld.refused = some .nonce ∧ s'.fuse = s.fuse ∧ s'.hld.buf = 0 := by
  have ran : exec .prov s = .next (refuse117 .nonce (attempted s)) := by
    rw [exec_prov, execProv, onRom_open runs opens, provOp]; simp only [none]; rfl
  obtain ⟨answers, refused, fuse, -, buf⟩ := refuse117_answers ran rfl
  exact ⟨_, answers, refused, fuse, buf⟩

variable {n : BitVec 128} (live : liveRomNonce s = some n)
include live

/-- With a nonce the attempt goes by the signature, then by whether a key hash is blown. -/
theorem exec_prov_attempt : exec .prov s = .next (
    if !ecdsaVerify (hldBuf s 0 64) (sha256 (provMessage s n)) (hldBuf s 64 64) then refuse117 .signature (attempted s)
    else if builderKh s ≠ 0 then refuse117 .provisioned (attempted s)
    else hldOk (romBlow (khBits (sha256 (hldBuf s 0 64))) (attempted s))) := by
  rw [exec_prov, execProv, onRom_open runs opens, provOp]; simp only [live]; rfl

theorem prov_badSignature (bad : ecdsaVerify (hldBuf s 0 64) (sha256 (provMessage s n)) (hldBuf s 64 64) = false) :
    ∃ s', Answers .prov { code := 3 } s s' ∧ s'.hld.refused = some .signature ∧ s'.hld.romNonce = none ∧
      s'.fuse = s.fuse := by
  have ran := exec_prov_attempt runs opens live
  rw [bad, Bool.not_false, if_pos rfl] at ran
  obtain ⟨answers, refused, fuse, nonce, -⟩ := refuse117_answers ran rfl
  exact ⟨_, answers, refused, nonce, fuse⟩

variable (good : ecdsaVerify (hldBuf s 0 64) (sha256 (provMessage s n)) (hldBuf s 64 64) = true)
include good

theorem prov_provisioned (blown : builderKh s ≠ 0) :
    ∃ s', Answers .prov { code := 3 } s s' ∧ s'.hld.refused = some .provisioned ∧ s'.fuse = s.fuse := by
  have ran := exec_prov_attempt runs opens live
  rw [good, Bool.not_true, if_neg Bool.false_ne_true, if_pos blown] at ran
  obtain ⟨answers, refused, fuse, -⟩ := refuse117_answers ran rfl
  exact ⟨_, answers, refused, fuse⟩

theorem prov_blows (blank : builderKh s = 0) :
    ∃ s', Answers .prov {} s s' ∧ s'.hld.romNonce = none ∧ s'.hld.buf = 0 ∧
      builderKh s' = leNat (sha256 (hldBuf s 0 64)) ∧
      (∀ k, k < 256 ∨ 512 ≤ k → s'.fuse.array.getLsbD k = s.fuse.array.getLsbD k) ∧
      ∀ k, k < 256 → (leNat (sha256 (hldBuf s 0 64))).testBit k = true → s'.fuse.array.getLsbD (256 + k) = true := by
  have ran := exec_prov_attempt runs opens live
  rw [good, Bool.not_true, if_neg Bool.false_ne_true, if_neg (not_not.2 blank)] at ran
  obtain ⟨answered, rest⟩ := attempted_blows (sha256_length (hldBuf s 0 64)) blank
  exact ⟨_, ⟨ran, answered⟩, rest⟩

end

/-- A nonce lives 60 s; then it is forgotten. -/
theorem exec_provNonceExpire_dead {s : State} (dead : liveRomNonce s = none) :
    exec .provNonceExpire s = .next { s with hld := { s.hld with romNonce := none } } := by
  simp [execProvNonceExpire, dead]

theorem exec_provNonceExpire_live {s : State} (live : liveRomNonce s ≠ none) : exec .provNonceExpire s = .next s := by
  simp [execProvNonceExpire, Option.isSome_iff_ne_none.2 live]

/-! ### Slot A (R483) -/

/-- A run of bytes that SLOTA has not written yet goes to the slot as it is. -/
theorem foldl_slotByte_fresh (off : Nat) (bs : List Byte) (i : Nat) (s : State)
    (fresh : ∀ k, off + i ≤ k → (s.hld.slotA.any fun p => decide (p.1 ≤ k ∧ k < p.1 + p.2)) = false) :
    ∃ written, ((List.range' i bs.length).zip bs).foldl (fun s p => slotByte s (off + p.1) p.2) s =
      { s with mem := { s.mem with store := memStore norBlank s.mem.store (seedSlotBase false + (off + i)) bs }
               hld := { s.hld with slotA := written } } := by
  induction bs generalizing i s with
  | nil => exact ⟨_, rfl⟩
  | cons b bs ih =>
    have first : slotByte s (off + i) b =
        { s with mem := { s.mem with store := tabPut norBlank s.mem.store (seedSlotBase false + (off + i)) b }
                 hld := { s.hld with slotA := noteByte (off + i) s.hld.slotA } } := by
      rw [slotByte, fresh _ le_rfl]; rfl
    obtain ⟨written, rest⟩ := ih (i + 1) (slotByte s (off + i) b) fun k above => by
      have old := fresh k (by omega)
      rw [first, covered_noteByte, decide_eq_false (by omega), Bool.false_or]
      exact old
    refine ⟨written, ?_⟩
    rw [List.length_cons, List.range'_succ, List.zip_cons_cons, List.foldl_cons, rest, first]
    rfl

section
variable {s : State} (runs : romRuns s = true) (opens : romOpen s = true)
include runs opens

theorem slotaErase_erases : ∃ s', Answers .slotaErase {} s s' ∧
    (∀ k, k < 0x40000 → tabGet norBlank s'.mem.store k = norBlank) ∧
    (∀ k, 0x40000 ≤ k → tabGet norBlank s'.mem.store k = tabGet norBlank s.mem.store k) ∧ s'.hld.slotA = [] := by
  refine ⟨_, answers_ok (onRom_open runs opens slotErased) rfl, fun k lt => ?_, fun k above => ?_, rfl⟩
  · exact tabGet_memErase_inside norBlank _ _ _ _ ⟨Nat.zero_le k, by simpa [seedSlotBase, seedAreaLen] using lt⟩
  · exact tabGet_memErase_outside norBlank _ _ _ _ (.inr (by simpa [seedSlotBase, seedAreaLen] using above))

theorem slotaWrite_writes {off len : Nat} (least : 4 ≤ len) (most : len ≤ 512) (aligned : len % 4 = 0)
    (inside : off + len ≤ 0x40000) (none : s.hld.slotA = []) :
    ∃ s', Answers (.slotaWrite off len) {} s s' ∧ s'.hld.buf = 0 ∧
      (∀ k, k < len → tabGet norBlank s'.mem.store (off + k) = byteAt s.hld.buf k) ∧
      ∀ k, k < off ∨ off + len ≤ k → tabGet norBlank s'.mem.store k = tabGet norBlank s.mem.store k := by
  have length : (hldBuf s 0 len).length = len := by simp [hldBuf, bytesOf]
  have form : ¬ ¬ (4 ≤ len ∧ len ≤ 512 ∧ len % 4 = 0 ∧ off + len ≤ seedAreaLen) :=
    not_not.2 ⟨least, most, aligned, inside⟩
  obtain ⟨written, stored⟩ := foldl_slotByte_fresh off (hldBuf s 0 len) 0 (zeroBuf s) fun k _ => by simp [zeroBuf, none]
  rw [length, ← List.range_eq_range'] at stored
  have ran : exec (.slotaWrite off len) s = .next (hldOk { zeroBuf s with
      mem := { s.mem with store := memStore norBlank s.mem.store (seedSlotBase false + (off + 0)) (hldBuf s 0 len) }
      hld := { (zeroBuf s).hld with slotA := written } }) := by
    rw [exec_slotaWrite, execSlotaWrite, onRom_open runs opens, slotaOp, if_neg form]
    exact congrArg (fun t => Host.Outcome.next (hldOk t)) stored
  have place : seedSlotBase false + (off + 0) = off := Nat.zero_add _
  rw [place] at ran
  refine ⟨_, answers_ok ran rfl, rfl, fun k lt => ?_, fun k outside => ?_⟩
  · refine (tabGet_memStore_inside norBlank s.mem.store off k (hldBuf s 0 len) (by omega)).trans ?_
    simp [hldBuf, bytesOf]
  · exact tabGet_memStore_outside norBlank _ _ _ _ (by rw [length]; exact outside)

end

/-! ### FIELD (R117 step 5) -/

/-- The cold reset keeps the fuses just blown; the answer before it is no part of what it leaves. -/
theorem romBlow_coldStart (bits : List Nat) (s : State) :
    ColdStart 3 s.sys.mode (romBlow bits s) (coldReset 3 (hldOk (romBlow bits s))) :=
  coldReset_coldStart 3 (hldOk (romBlow bits s))

theorem romBlow_coldReset_getLsbD {bits : List Nat} (inside : ∀ k ∈ bits, k < 4096) (s : State) {k : Nat}
    (member : k ∈ bits) :
    (coldReset 3 (hldOk (romBlow bits s))).fuse.array.getLsbD k = true := by
  have array : (coldReset 3 (hldOk (romBlow bits s))).fuse.array = (romBlow bits s).fuse.array := cutBlow_array _
  rw [array, (romBlow_getLsbD inside s k).1, decide_eq_true member, Bool.true_or]

/-- Of an image the fuse view must be whole and its check pass. -/
def fieldPasses (s : State) (slotB err : Bool) : Bool := !s.fuse.torn && decide (enclCode s slotB err = 0)

section
variable {s : State} (runs : romRuns s = true) (opens : romOpen s = true)
include runs opens

theorem exec_fieldCmd_open : exec .fieldCmd s = .next (
    if builderKh s = 0 then refuse117 .noKey s
    else if !fieldPasses s false (Config.slotError s.now false) && !fieldPasses s true (Config.slotError s.now true) then
      refuse117 .noImage s
    else coldReset 3 (hldOk (romBlow [1088, 1089, 1090] s))) := onRom_open runs opens _

theorem field_noKey (none : builderKh s = 0) :
    ∃ s', Answers .fieldCmd { code := 3 } s s' ∧ s'.hld.refused = some .noKey ∧ s'.fuse = s.fuse := by
  have ran := exec_fieldCmd_open runs opens
  rw [if_pos none] at ran
  obtain ⟨answers, refused, fuse, -⟩ := refuse117_answers ran rfl
  exact ⟨_, answers, refused, fuse⟩

variable (key : builderKh s ≠ 0)
include key

theorem field_noImage (fails : s.fuse.torn = true ∨ (enclCode s false (Config.slotError s.now false) ≠ 0 ∧
      enclCode s true (Config.slotError s.now true) ≠ 0)) :
    ∃ s', Answers .fieldCmd { code := 3 } s s' ∧ s'.hld.refused = some .noImage ∧ s'.fuse = s.fuse := by
  have ran := exec_fieldCmd_open runs opens
  rw [if_neg key, if_pos (by rcases fails with torn | ⟨a, b⟩ <;> simp [fieldPasses, *])] at ran
  obtain ⟨answers, refused, fuse, -⟩ := refuse117_answers ran rfl
  exact ⟨_, answers, refused, fuse⟩

theorem field_resets (whole : s.fuse.torn = false) (passes : enclCode s false (Config.slotError s.now false) = 0 ∨
      enclCode s true (Config.slotError s.now true) = 0) :
    ∃ s', exec .fieldCmd s = .next s' ∧ ColdStart 3 s.sys.mode (romBlow [1088, 1089, 1090] s) s' ∧
      s'.fuse.array.getLsbD 1088 = true ∧ s'.fuse.array.getLsbD 1089 = true ∧ s'.fuse.array.getLsbD 1090 = true := by
  have ran := exec_fieldCmd_open runs opens
  rw [if_neg key, if_neg (by rcases passes with a | b <;> simp [fieldPasses, *])] at ran
  have blown : ∀ k ∈ [1088, 1089, 1090],
      (coldReset 3 (hldOk (romBlow [1088, 1089, 1090] s))).fuse.array.getLsbD k = true :=
    fun k member => romBlow_coldReset_getLsbD (by decide) s member
  exact ⟨_, ran, romBlow_coldStart _ s, blown _ (by decide), blown _ (by decide), blown _ (by decide)⟩

end

/-- Settles O57: the lines open and closed, the buffer byte by byte, PROV and FIELD by what their checks find, slot A. -/
theorem romHeadland : Obligations.RomHeadland := by
  unfold Obligations.RomHeadland
  refine fun s runs => ⟨romInfo_answers runs, romCommands_closed runs, fun opens => ⟨
      fun off data => romBuf_lays runs opens,
      fun off data => romBuf_refused runs opens, romNonce_draws runs opens, prov_noNonce runs opens,
      fun n live => ⟨prov_badSignature runs opens live, prov_provisioned runs opens live, prov_blows runs opens live⟩,
      slotaErase_erases runs opens,
      fun off len least most aligned inside none _ => slotaWrite_writes runs opens least most aligned inside none,
      field_noKey runs opens, field_noImage runs opens, field_resets runs opens⟩,
    exec_provNonceExpire_dead, exec_provNonceExpire_live⟩

end Sys2Proof.Machine
end

section
/-! PROOFS. What a bay sends its host, in order (R387, R388, R456), the fetches of its queues (R375, R376), and the entry
that ends a command (R381, R382). -/

namespace Sys2Proof.Machine

/-! ### The items on their way to a bay's host -/

/-- The items in BAYOUT[b] or sent, in order. -/
def bayItems (s : State) (b : Bay) : List HostItem := (bay s b).out.map HostOut.item

theorem sentToHost_iff {b : Bay} {i : HostItem} {s : State} : SentToHost b i s ↔ i ∈ bayItems s b := List.mem_map.symm

theorem markSent_items (l : List HostOut) : (markSent l).map HostOut.item = l.map HostOut.item := by
  induction l with
  | nil => rfl
  | cons o t ih =>
    unfold markSent
    split
    · rw [List.map_cons, ih, List.map_cons]
    · rfl

/-- The items `l` enter BAYOUT[b]; of the bay, only what has left may differ beside them. -/
def Queues (b : Bay) (l : List HostItem) (s s' : State) : Prop :=
  OnlyBay b s s' ∧ bayItems s' b = bayItems s b ++ l ∧ ∃ out, bay s' b = { bay s b with out := out }

theorem queues_sent {b : Bay} {l : List HostItem} {i : HostItem} {s s' : State} (h : Queues b l s s') (member : i ∈ l) :
    SentToHost b i s' := by
  obtain ⟨-, items, -⟩ := h
  rw [sentToHost_iff, items]
  exact List.mem_append_right _ member

theorem queues_refl (b : Bay) (s : State) : Queues b [] s s := ⟨onlyBay_refl b s, (List.append_nil _).symm, _, rfl⟩

theorem queues_trans {b : Bay} {l l' : List HostItem} {s s' s'' : State} (h : Queues b l s s') (h' : Queues b l' s' s'') :
    Queues b (l ++ l') s s'' := by
  obtain ⟨only, items, _, own⟩ := h
  obtain ⟨only', items', out, own'⟩ := h'
  exact ⟨onlyBay_trans only only', by rw [items', items, List.append_assoc], out, by rw [own', own]⟩

/-- The queues' counters are no part of a bay. -/
theorem queues_of_clk {s s' : State} (b : Bay) (h : SameBut_clk s s') : Queues b [] s s' := by
  rw [eq_of_clk h]
  exact ⟨⟨rfl, fun _ _ => rfl⟩, (List.append_nil _).symm, _, rfl⟩

theorem queues_setOut {b : Bay} {l : List HostItem} {s : State} {out : List HostOut}
    (items : out.map HostOut.item = bayItems s b ++ l) : Queues b l s (setBay s b { bay s b with out := out }) :=
  ⟨onlyBay_setBay .., by rw [bayItems, bay_setBay_same]; exact items, out, bay_setBay_same ..⟩

theorem flushOut_queues (b : Bay) (k : Nat) (s : State) : Queues b [] s (flushOut b k s) := by
  induction k generalizing s with
  | zero => exact queues_refl b s
  | succ k ih =>
    unfold flushOut; dsimp only
    split
    · exact queues_refl b s
    · split
      · exact queues_trans (queues_trans (queues_setOut (by rw [markSent_items, List.append_nil]; rfl))
          (queues_of_clk b (qLeave_same ..))) (ih _)
      · exact queues_refl b s

theorem hostSend_queues (b : Bay) (i : HostItem) (s : State) : Queues b [i] s (hostSend b i s) :=
  queues_trans (queues_trans (queues_setOut List.map_append) (queues_of_clk b (qJoin_same ..))) (flushOut_queues ..)

theorem sendReads_queues (b : Bay) (size k : Nat) (a : DWord) (n : Nat) (s : State) :
    ∃ l, Queues b l s (sendReads b size k a n s) := by
  induction k generalizing a n s with
  | zero => exact ⟨[], queues_refl b s⟩
  | succ k ih =>
    unfold sendReads
    split
    · exact ⟨[], queues_refl b s⟩
    · obtain ⟨l, rest⟩ := ih (a + BitVec.ofNat 64 size) (n - size) (hostSend b (.read a (min n size)) s)
      exact ⟨_, queues_trans (hostSend_queues ..) rest⟩

/-- A reply that one completion carries. -/
theorem sendReply_queues {size : Nat} {bs : List Byte} (nonempty : 0 < bs.length) (fits : bs.length ≤ size) (b : Bay)
    (attr : TlpAttr) (k : Nat) (s : State) : Queues b [.reply bs attr] s (sendReply b attr size (k + 1) bs s) := by
  have one : sendReply b attr size (k + 1) bs s = hostSend b (.reply bs attr) s := by
    have ends : ∀ s, sendReply b attr size k [] s = s := fun s => by cases k <;> rfl
    rw [sendReply, if_neg (List.ne_nil_of_length_pos nonempty), List.drop_eq_nil_of_le fits, List.take_of_length_le fits, ends]
  rw [one]
  exact hostSend_queues ..

theorem raiseVec_items (b : Bay) (v : BitVec 5) (s : State) : bayItems s b <+: bayItems (raiseVec b v s) b := by
  unfold raiseVec; dsimp only
  split
  · rw [bayItems, bayItems, bay_setBay_same]
  · split
    · exact List.prefix_rfl
    · exact ⟨_, (hostSend_queues ..).2.1.symm⟩

theorem bayEvent_items (b : Bay) (s : State) : bayItems s b <+: bayItems (bayEvent b s) b := by
  unfold bayEvent; dsimp only
  split
  · exact raiseVec_items ..
  · exact List.prefix_rfl

/-! ### Fetches (R375, R376) -/

theorem fetchSize_disabled {s : State} {b : Bay} {q : Fin 16} (off : (sqOf s b q).en = false) : fetchSize s b q = 0 :=
  if_neg fun ⟨on, _⟩ => by rw [off] at on; cases on

/-- Fetches are issued: what was to be sent still is, no disabled SQ differs, and a CQ only in the slots reserved. -/
def Fetches (b : Bay) (s s' : State) : Prop :=
  OnlyBay b s s' ∧ bayItems s b <+: bayItems s' b ∧
  (∃ out sq cq turn, bay s' b = { bay s b with out := out, sq := sq, cq := cq, turn := turn }) ∧
  (∀ q, (sqOf s b q).en = false → sqOf s' b q = sqOf s b q) ∧
  ∀ q, ∃ r, cqOf s' b q = { cqOf s b q with reserved := r }

theorem fetches_refl (b : Bay) (s : State) : Fetches b s s :=
  ⟨onlyBay_refl b s, List.prefix_rfl, ⟨_, _, _, _, rfl⟩, fun _ _ => rfl, fun _ => ⟨_, rfl⟩⟩

theorem fetches_trans {b : Bay} {s s' s'' : State} (h : Fetches b s s') (h' : Fetches b s' s'') : Fetches b s s'' := by
  obtain ⟨only, items, ⟨_, _, _, _, own⟩, off, reserved⟩ := h
  obtain ⟨only', items', ⟨_, _, _, _, own'⟩, off', reserved'⟩ := h'
  refine ⟨onlyBay_trans only only', items.trans items', ⟨_, _, _, _, by rw [own', own]⟩, fun q disabled => ?_, fun q => ?_⟩
  · rw [off' q (by rw [off q disabled]; exact disabled), off q disabled]
  · obtain ⟨_, held⟩ := reserved q
    obtain ⟨r, held'⟩ := reserved' q
    exact ⟨r, by rw [held', held]⟩

theorem fetches_of_queues {b : Bay} {l : List HostItem} {s s' : State} (h : Queues b l s s') : Fetches b s s' := by
  obtain ⟨only, items, out, own⟩ := h
  refine ⟨only, ⟨l, items.symm⟩, ⟨_, _, _, _, own⟩, fun q _ => ?_, fun q => ⟨(cqOf s b q).reserved, ?_⟩⟩
  · rw [sqOf, own]; rfl
  · rw [cqOf, own]; rfl

/-- The slots of a fetch turn, before its read is sent. -/
def reserve (b : Bay) (q : Fin 16) (n : Nat) (s : State) : State :=
  let x := sqOf s b q
  let c := cqOf s b x.cqid.toFin
  let s := setCq b x.cqid.toFin { c with reserved := c.reserved + n } (setSq b q { x with fetching := n } s)
  setBay s b { bay s b with turn := q }

theorem bay_reserve (b k : Bay) (q : Fin 16) (n : Nat) (s : State) :
    bay (reserve b q n s) k = if k = b then
      { bay s b with
        sq := vset (bay s b).sq q { sqOf s b q with fetching := n }
        cq := vset (bay s b).cq (sqOf s b q).cqid.toFin
          { cqOf s b (sqOf s b q).cqid.toFin with reserved := (cqOf s b (sqOf s b q).cqid.toFin).reserved + n }
        turn := q } else bay s k := by
  simp only [reserve, setCq, setSq, bay_setBay]
  split <;> simp_all

theorem reserve_fetches {b : Bay} {q : Fin 16} {s : State} (on : (sqOf s b q).en = true) (n : Nat) :
    Fetches b s (reserve b q n s) := by
  have own := bay_reserve b b q n s
  rw [if_pos rfl] at own
  refine ⟨⟨rfl, fun k other => (bay_reserve ..).trans (if_neg other)⟩, by rw [bayItems, bayItems, own],
    ⟨_, _, _, _, own⟩, fun k disabled => ?_, fun k => ?_⟩
  · have other : k ≠ q := fun e => by rw [e, on] at disabled; cases disabled
    rw [sqOf, own]
    exact vget_vset_other other ..
  · rw [cqOf, own]; dsimp only
    rw [vget_vset]
    split
    · next same => rw [same]; exact ⟨_, rfl⟩
    · exact ⟨_, rfl⟩

theorem fetchTurn_fetches {b : Bay} {s s' : State} (h : fetchTurn b s = some s') : Fetches b s s' := by
  obtain ⟨q, found, rfl⟩ := Option.map_eq_some_iff.mp h
  have on : (sqOf s b q).en = true := by
    have size : 0 < fetchSize s b q := by simpa using List.find?_some found
    by_contra off
    rw [fetchSize_disabled (Bool.eq_false_of_not_eq_true off)] at size
    exact Nat.lt_irrefl 0 size
  obtain ⟨l, read⟩ := sendReads_queues b (maxRead (reserve b q (fetchSize s b q) s) b) 8
    ((sqOf s b q).base + BitVec.ofNat 64 (64 * (sqOf s b q).head.toNat)) (64 * fetchSize s b q)
    (reserve b q (fetchSize s b q) s)
  exact fetches_trans (reserve_fetches on _) (fetches_of_queues read)

theorem pumpFetch_fetches (b : Bay) (s : State) : Fetches b s (pumpFetch b s) := by
  suffices ∀ k s, Fetches b s (pumpFetchN b k s) from this 16 s
  intro k
  induction k with
  | zero => exact fetches_refl b
  | succ k ih =>
    intro s
    unfold pumpFetchN
    split
    · exact fetches_refl b s
    · next turn => exact fetches_trans (fetchTurn_fetches turn) (ih _)

/-! ### Completion entries (R381, R382) -/

/-- A CQ whose next entry has been written. -/
def nextEntry (y : CmpQ) : CmpQ :=
  let wrap := decide (y.tail.toNat + 1 = y.size.toNat)
  { y with tail := if wrap then 0 else y.tail + 1, phase := if wrap then !y.phase else y.phase, reserved := y.reserved - 1 }

theorem nextEntry_tail (y : CmpQ) : (nextEntry y).tail = if y.tail.toNat + 1 = y.size.toNat then 0 else y.tail + 1 := by
  simp [nextEntry]

theorem nextEntry_phase (y : CmpQ) : (nextEntry y).phase = if y.tail.toNat + 1 = y.size.toNat then !y.phase else y.phase := by
  simp [nextEntry]

/-- A CQ's message, where its interrupt is enabled. -/
theorem raiseIf_sends (ien : Bool) (b : Bay) (v : BitVec 5) (s : State) :
    Sends b s (if ien then raiseVec b v s else s) ∧ bayItems s b <+: bayItems (if ien then raiseVec b v s else s) b := by
  cases ien with
  | true => exact ⟨raiseVec_sends .., raiseVec_items ..⟩
  | false => exact ⟨sends_refl b s, List.prefix_rfl⟩

/-- The item of a CQ's next entry. -/
def entryItem (q : Fin 16) (y : CmpQ) (result : DWord) (sqid sqhd cid : Nat) (status : Byte) (notice : Bool) : HostItem :=
  .completion q (y.base + BitVec.ofNat 64 (16 * y.tail.toNat)) (entryBits result sqid sqhd cid status notice y.phase)

/-- The entry is to be sent to its place, and its CQ moves on; the message that follows is the vectors'. -/
theorem writeEntry_writes (b : Bay) (q : Fin 16) (result : DWord) (sqid sqhd cid : Nat) (status : Byte) (notice : Bool)
    (s : State) :
    let s' := writeEntry b q result sqid sqhd cid status notice s
    OnlyBay b s s' ∧ SentToHost b (entryItem q (cqOf s b q) result sqid sqhd cid status notice) s' ∧
    ∃ out vecs, bay s' b = { bay s b with cq := vset (bay s b).cq q (nextEntry (cqOf s b q)), out := out, vecs := vecs } := by
  intro s'
  let s1 := setCq b q (nextEntry (cqOf s b q)) s
  let s2 := hostSend b (entryItem q (cqOf s b q) result sqid sqhd cid status notice) s1
  have moved : bay s1 b = { bay s b with cq := vset (bay s b).cq q (nextEntry (cqOf s b q)) } := bay_setBay_same ..
  have queued : Queues b _ s1 s2 := hostSend_queues ..
  obtain ⟨⟨only', out', vecs', own'⟩, items⟩ :
    Sends b s2 s' ∧ bayItems s2 b <+: bayItems s' b := raiseIf_sends (cqOf s b q).ien b (cqOf s b q).vec s2
  have entry := items.subset (sentToHost_iff.mp (queues_sent queued (List.mem_singleton_self _)))
  obtain ⟨only, -, out, own⟩ := queued
  exact ⟨onlyBay_trans (onlyBay_trans (onlyBay_setBay s b _) only) only', sentToHost_iff.mpr entry, out', vecs',
    by rw [own', own, moved]⟩

/-- What follows a completion entry leaves it: what was to be sent still is, the commands and DMA_ERR are as they were, and
a CQ differs only in the slots reserved. -/
def KeepsEntries (b : Bay) (s s' : State) : Prop :=
  bayItems s b <+: bayItems s' b ∧ (bay s' b).cmds = (bay s b).cmds ∧ (bay s' b).dmaErr = (bay s b).dmaErr ∧
  ∀ q, ∃ r, cqOf s' b q = { cqOf s b q with reserved := r }

theorem keepsEntries_trans {b : Bay} {s s' s'' : State} (h : KeepsEntries b s s') (h' : KeepsEntries b s' s'') :
    KeepsEntries b s s'' := by
  obtain ⟨items, cmds, dmaErr, reserved⟩ := h
  obtain ⟨items', cmds', dmaErr', reserved'⟩ := h'
  refine ⟨items.trans items', cmds'.trans cmds, dmaErr'.trans dmaErr, fun q => ?_⟩
  obtain ⟨_, held⟩ := reserved q
  obtain ⟨r, held'⟩ := reserved' q
  exact ⟨r, by rw [held', held]⟩

theorem pumpFetch_keepsEntries (b : Bay) (s : State) : KeepsEntries b s (pumpFetch b s) := by
  obtain ⟨-, items, ⟨_, _, _, _, own⟩, -, reserved⟩ := pumpFetch_fetches b s
  exact ⟨items, by rw [own], by rw [own], reserved⟩

/-- A bay that differs in other registers. -/
theorem keepsEntries_of_bay {b : Bay} {s s' : State} (items : bayItems s b <+: bayItems s' b)
    (cmds : (bay s' b).cmds = (bay s b).cmds) (dmaErr : (bay s' b).dmaErr = (bay s b).dmaErr)
    (cq : (bay s' b).cq = (bay s b).cq) : KeepsEntries b s s' :=
  ⟨items, cmds, dmaErr, fun q => ⟨(cqOf s b q).reserved, by rw [cqOf, cq]; rfl⟩⟩

theorem settleQuiesce_keepsEntries (b : Bay) (s : State) : KeepsEntries b s (settleQuiesce b s) := by
  unfold settleQuiesce; dsimp only
  split
  · have items := bayEvent_items b (setBay (setBayOut s b { bayOut s b with on := false, request := false }) b
      { bay s b with quiescing := false, quiesced := true, ind := 0, pwr := false })
    obtain ⟨-, _, _, own⟩ := bayEvent_sends b (setBay (setBayOut s b { bayOut s b with on := false, request := false }) b
      { bay s b with quiescing := false, quiesced := true, ind := 0, pwr := false })
    rw [bay_setBay_same] at own
    rw [bayItems, bay_setBay_same] at items
    exact keepsEntries_of_bay items (by rw [own]) (by rw [own]) (by rw [own])
  · exact keepsEntries_of_bay List.prefix_rfl rfl rfl rfl

/-- HB's count of commands that completed BUSY. -/
def countBusy (b : Bay) (status : Byte) (s : State) : State :=
  if status = 1 then setBay s b { bay s b with busys := satInc (bay s b).busys } else s

theorem countBusy_keepsEntries (b : Bay) (status : Byte) (s : State) : KeepsEntries b s (countBusy b status s) := by
  unfold countBusy
  split
  · have own := bay_setBay_same s b { bay s b with busys := satInc (bay s b).busys }
    exact keepsEntries_of_bay (by rw [bayItems, bayItems, own]) (by rw [own]) (by rw [own]) (by rw [own])
  · exact keepsEntries_of_bay List.prefix_rfl rfl rfl rfl

/-- A command ends with its completion, and DMA_ERR stays. -/
theorem completeCmd_completes (b : Bay) (c : BayCmd) (status : Byte) (result : DWord) (s : State) :
    CmdCompletes b c status result s (completeCmd b c status result s) ∧
    (bay (completeCmd b c status result s) b).dmaErr = (bay s b).dmaErr := by
  let s1 := dropCmd b c.slot s
  let s2 := writeEntry b (sqOf s b c.q).cqid.toFin result c.q.val c.sqhd.toNat (cmdNum c 2 2) status false s1
  have dropped : bay s1 b = { bay s b with cmds := (bay s b).cmds.filter fun x => decide (x.slot ≠ c.slot) } :=
    bay_setBay_same ..
  have same : ∀ q, cqOf s1 b q = cqOf s b q := fun q => by rw [cqOf, dropped]; rfl
  obtain ⟨-, entry, _, _, own⟩ := writeEntry_writes b (sqOf s b c.q).cqid.toFin result c.q.val c.sqhd.toNat (cmdNum c 2 2)
    status false s1
  have moved : cqOf s2 b (sqOf s b c.q).cqid.toFin = nextEntry (cqOf s b (sqOf s b c.q).cqid.toFin) := by
    rw [cqOf, own, same]; exact vget_vset_same ..
  rw [same] at entry
  have after : KeepsEntries b s2 (completeCmd b c status result s) := keepsEntries_trans
    (keepsEntries_trans (countBusy_keepsEntries b status s2) (pumpFetch_keepsEntries ..)) (settleQuiesce_keepsEntries ..)
  obtain ⟨items, cmds, dmaErr, reserved⟩ := after
  obtain ⟨_, held⟩ := reserved (sqOf s b c.q).cqid.toFin
  rw [moved] at held
  refine ⟨⟨sentToHost_iff.mpr (items.subset (sentToHost_iff.mp entry)), by rw [held]; exact nextEntry_tail _,
    by rw [held]; exact nextEntry_phase _, fun x member => ?_⟩, by rw [dmaErr, own, dropped]⟩
  rw [cmds, own, dropped] at member
  simpa using member

/-- A completion says nothing of what the bay held beside its queues and commands. -/
theorem cmdCompletes_congr {b : Bay} {c : BayCmd} {status : Byte} {result : DWord} {s0 s s' : State}
    (sq : (bay s0 b).sq = (bay s b).sq) (cq : (bay s0 b).cq = (bay s b).cq) (cmds : (bay s0 b).cmds = (bay s b).cmds)
    (h : CmdCompletes b c status result s0 s') : CmdCompletes b c status result s s' := by
  unfold CmdCompletes sqOf cqOf at h ⊢
  rwa [sq, cq, cmds] at h

end Sys2Proof.Machine
end

section
/-! PROOFS. What passes between a bay and its host: the window, a host's reads, notices, vectors, failed reads, LTR and
credits (R371, R373, R383, R384, R387, R390, R391, R456), and the end of an activation's copy (R145). -/

namespace Sys2Proof.Machine

/-! ### The window (R371) -/

theorem map_getD_range (l : List Byte) : ((List.range l.length).map fun i => l.getD i 0) = l :=
  List.ext_getElem (by simp) fun i _ inside => by simp [inside]

/-- SRAM takes the bytes, and only the caches' copies change beside it. -/
theorem sramWrite_stores (a : Nat) (bs : List Byte) (s : State) :
    let s' := sramWrite a bs s
    sramRead s' a bs.length = bs ∧ SramBut a bs.length s s' ∧ s' = { s with mem := s'.mem, cache := s'.cache } := by
  intro s'
  have mem : s'.mem = { s.mem with sram := memStore sramBlank s.mem.sram a bs } := by simp [s', sramWrite, sramStore]
  refine ⟨?_, ⟨by rw [mem], fun k outside => ?_⟩, eq_of_mem_cache (sramWrite_same a bs s)⟩
  · rw [sramRead, mem]; exact memBytes_memStore_same ..
  · rw [sramByte, mem]; exact tabGet_memStore_outside _ _ _ _ _ outside

/-! A bay's share and the guard say nothing of the queues' counters. -/

theorem bayNum_qPass (n : Nat) (s : State) (b : Bay) (off k : Nat) : bayNum (qPass n s) b off k = bayNum s b off k := by
  simp [bayNum, bayRec, seedFind, seedOf]

theorem winBase_qPass (n : Nat) (s : State) (b : Bay) : winBase (qPass n s) b = winBase s b := bayNum_qPass ..
theorem winSize_qPass (n : Nat) (s : State) (b : Bay) : winSize (qPass n s) b = winSize s b := bayNum_qPass ..

theorem winPasses_qPass (n : Nat) (s : State) (b : Bay) (tag : Byte) (perm : BitVec 3) (a len : Nat) :
    winPasses (qPass n s) b tag perm a len = winPasses s b tag perm a len := by
  rw [winPasses, guardPasses_congr (s := s) (by simp), winPasses]

theorem onlyBay_of_clk {s s' : State} (b : Bay) (h : SameBut_clk s s') : OnlyBay b s s' := (queues_of_clk b h).1

theorem bay_violateSrc (src : Nat) (kind : Vio) (a : Word) (write fetch : Bool) (s : State) (b : Bay) :
    bay (violateSrc src kind a write fetch s) b = bay s b := by simp [bay]

/-- An event of a bay that also counted a violation. -/
theorem onlyBay_violated {b : Bay} {s s1 s2 s' : State} (counters : SameBut_clk s s1) (violation : SameBut_guard s1 s2)
    (only : OnlyBay b s2 s') : OnlyBay b s { s' with guard := s.guard } := by
  obtain ⟨frame, others⟩ := only
  refine ⟨?_, fun k other => (others k other).trans ?_⟩
  · rw [frame, eq_of_guard violation, eq_of_clk counters]
  · rw [eq_of_guard violation, eq_of_clk counters]; rfl

theorem winWrite_passes {s : State} {b : Bay} {tag : Byte} {off : Nat} {bs : List Byte} (nonempty : 0 < bs.length)
    (passes : winPasses s b tag permW (winBase s b + off) bs.length = true) :
    winWrite b tag off bs s = sramWrite (winBase s b + off) bs s := by
  rw [winWrite, if_neg (List.ne_nil_of_length_pos nonempty), if_pos passes]

theorem winRead_passes {s : State} {b : Bay} {tag : Byte} {off len : Nat} (nonempty : 0 < len)
    (passes : winPasses s b tag permR (winBase s b + off) len = true) :
    winRead b tag off len s = (sramRead s (winBase s b + off) len, s) := by
  rw [winRead, if_neg (Nat.ne_of_gt nonempty), if_pos passes]

theorem winRead_refused {s : State} {b : Bay} {tag : Byte} {off len : Nat} (nonempty : 0 < len)
    (refused : winPasses s b tag permR (winBase s b + off) len = false) :
    winRead b tag off len s = (List.replicate len 0,
      violateSrc (16 + b.val) .guard (BitVec.ofNat 32 (winBase s b + off)) false false s) := by
  rw [winRead, if_neg (Nat.ne_of_gt nonempty), if_neg (Bool.eq_false_iff.mp refused)]

theorem exec_bar2Access_window {s : State} {b : Bay} (reach : hostReaches s b = true) (write : Bool) (attr : TlpAttr)
    (off : BitVec 20) (len : Nat) (data : List Byte) :
    exec (.bar2Access b { write := write, attr := attr } off len data) s =
      .next (bar2Op b write attr off.toNat len data s) := congrArg Host.Outcome.next (if_pos reach)

/-- Inside the window an access is SRAM's, under the bay's guard. -/
theorem bar2Op_inside {s : State} {b : Bay} {off len : Nat} (inside : off + len ≤ winSize s b) (write : Bool) (attr : TlpAttr)
    (data : List Byte) :
    bar2Op b write attr off len data s =
      if write then winWrite b 0xFF off ((List.range len).map fun i => data.getD i 0) (qPass (98 + b.val) s)
      else
        let r := winRead b 0xFF off len (qPass (98 + b.val) s)
        sendReply b attr (maxPayload r.2 b) (len / 128 + 1) r.1 r.2 := by
  simp [bar2Op, winSize_qPass, inside]

section
variable {s : State} {b : Bay} (reach : hostReaches s b = true) (attr : TlpAttr) {off : BitVec 20} {data : List Byte}
include reach

theorem bar2Access_stores (nonempty : 0 < data.length) (inside : off.toNat + data.length ≤ winSize s b)
    (passes : winPasses s b 0xFF permW (winBase s b + off.toNat) data.length = true) :
    ∃ s', exec (.bar2Access b { write := true, attr := attr } off data.length data) s = .next s' ∧
      sramRead s' (winBase s b + off.toNat) data.length = data ∧ SramBut (winBase s b + off.toNat) data.length s s' ∧
      OnlyBay b s { s' with mem := s.mem, cache := s.cache } := by
  rw [← winPasses_qPass (98 + b.val), ← winBase_qPass (98 + b.val)] at passes
  have ran := exec_bar2Access_window reach true attr off data.length data
  rw [bar2Op_inside inside, if_pos rfl, map_getD_range, winWrite_passes nonempty passes, winBase_qPass] at ran
  obtain ⟨stored, only, frame⟩ := sramWrite_stores (winBase s b + off.toNat) data (qPass (98 + b.val) s)
  refine ⟨_, ran, stored, sramBut_of_mem (by simp) only, ?_⟩
  rw [frame]
  exact onlyBay_of_clk b (by simp [SameBut_clk])

/-- A read of the window that one completion carries. -/
theorem bar2Access_replies (nonempty : 0 < data.length) (inside : off.toNat + data.length ≤ winSize s b)
    {bs : List Byte} {s1 : State} (read : winRead b 0xFF off.toNat data.length (qPass (98 + b.val) s) = (bs, s1))
    (length : bs.length = data.length) (fits : data.length ≤ maxPayload s1 b) :
    ∃ s', exec (.bar2Access b { write := false, attr := attr } off data.length []) s = .next s' ∧
      Queues b [.reply bs attr] s1 s' := by
  have ran := exec_bar2Access_window reach false attr off data.length []
  rw [bar2Op_inside inside, if_neg Bool.false_ne_true, read] at ran
  exact ⟨_, ran, sendReply_queues (length ▸ nonempty) (length ▸ fits) ..⟩

theorem bar2Access_reads (nonempty : 0 < data.length) (inside : off.toNat + data.length ≤ winSize s b)
    (passes : winPasses s b 0xFF permR (winBase s b + off.toNat) data.length = true) (fits : data.length ≤ maxPayload s b) :
    ∃ s', exec (.bar2Access b { write := false, attr := attr } off data.length []) s = .next s' ∧
      SentToHost b (.reply (sramRead s (winBase s b + off.toNat) data.length) attr) s' ∧ OnlyBay b s s' := by
  rw [← winPasses_qPass (98 + b.val), ← winBase_qPass (98 + b.val)] at passes
  obtain ⟨s', ran, queued⟩ := bar2Access_replies reach attr nonempty inside (winRead_passes nonempty passes) (memBytes_length ..)
    (by rw [maxPayload, cfgHeld, bay_qPass]; exact fits)
  have bytes : sramRead (qPass (98 + b.val) s) (winBase (qPass (98 + b.val) s) b + off.toNat) data.length =
      sramRead s (winBase s b + off.toNat) data.length := by
    rw [winBase_qPass]; simp [sramRead]
  rw [bytes] at queued
  exact ⟨s', ran, queues_sent queued (List.mem_singleton_self _), onlyBay_trans (onlyBay_of_clk b (qPass_same ..)) queued.1⟩

/-- A read that the guard refuses returns zeros (R8). -/
theorem bar2Access_refused (nonempty : 0 < data.length) (inside : off.toNat + data.length ≤ winSize s b)
    (refused : winPasses s b 0xFF permR (winBase s b + off.toNat) data.length = false) (fits : data.length ≤ maxPayload s b) :
    ∃ s', exec (.bar2Access b { write := false, attr := attr } off data.length []) s = .next s' ∧
      SentToHost b (.reply (List.replicate data.length 0) attr) s' ∧ OnlyBay b s { s' with guard := s.guard } := by
  rw [← winPasses_qPass (98 + b.val), ← winBase_qPass (98 + b.val)] at refused
  have violation := violateSrc_same (16 + b.val) .guard (BitVec.ofNat 32 (winBase (qPass (98 + b.val) s) b + off.toNat))
    false false (qPass (98 + b.val) s)
  obtain ⟨s', ran, queued⟩ := bar2Access_replies reach attr nonempty inside (winRead_refused nonempty refused)
    List.length_replicate (by rw [maxPayload, cfgHeld, bay_violateSrc, bay_qPass]; exact fits)
  exact ⟨s', ran, queues_sent queued (List.mem_singleton_self _), onlyBay_violated (qPass_same ..) violation queued.1⟩

theorem bar2Access_ignored (beyond : winSize s b ≤ off.toNat) :
    ∃ s', exec (.bar2Access b { write := true, attr := attr } off data.length data) s = .next s' ∧ s' = { s with clk := s'.clk } := by
  have ran := exec_bar2Access_window reach true attr off data.length data
  have kept : bar2Op b true attr off.toNat data.length data s = qPass (98 + b.val) s := by
    by_cases inside : off.toNat + data.length ≤ winSize s b
    · have nothing : data = [] := List.eq_nil_of_length_eq_zero (by omega)
      rw [bar2Op_inside inside, if_pos rfl, map_getD_range]
      exact if_pos nothing
    · simp [bar2Op, winSize_qPass, inside, Nat.not_lt.mpr beyond]
  rw [kept] at ran
  exact ⟨_, ran, eq_of_clk (qPass_same ..)⟩

/-- An access across WIN_SIZE is refused whole (R12). -/
theorem bar2Access_across (across : winSize s b < off.toNat + data.length) :
    ∃ s', exec (.bar2Access b { write := true, attr := attr } off data.length data) s = .next s' ∧ s'.mem = s.mem := by
  refine ⟨_, exec_bar2Access_window reach true attr off data.length data, ?_⟩
  simp only [bar2Op, winSize_qPass, Nat.not_le.mpr across, decide_false, if_true, Bool.false_eq_true, if_false]
  split <;> simp

end

/-! ### A host's reads of BAR0 and configuration space (R370, R373) -/

theorem exec_bar2Access_registers (b : Bay) (attr : TlpAttr) (off : BitVec 20) (s : State) :
    exec (.bar2Access b { space := .registers, write := false, attr := attr } off 4 []) s =
      .next (hostRead b false attr off.toNat 4 s) := rfl

theorem exec_bar2Access_config (b : Bay) (attr : TlpAttr) (off : BitVec 20) (s : State) :
    exec (.bar2Access b { space := .config, write := false, attr := attr } off 4 []) s =
      .next (hostRead b true attr off.toNat 4 s) := rfl

theorem hostCfgWord_qPass (n : Nat) (s : State) (b : Bay) (off : Nat) :
    hostCfgWord (qPass n s) b off = cfgHeld s b off ||| cfgFixed s b off := by
  have fuse : (qPass n s).fuse = s.fuse := by simp
  have rate : bayMaxRate (qPass n s) b = bayMaxRate s b := bayNum_qPass ..
  rw [hostCfgWord, cfgHeld, bay_qPass, cfgFixed, rate, ← cfgHeld, cfgFixed]
  simp only [bayNum_qPass, serialFuses, fuse]

theorem hbRead_mode (b : Bay) (n : Nat) (s : State) : hbRead b 4 (qPass n s) = (sysModeWord s, qPass n s) := by
  simp [hbRead, hbReg, readReg, sysModeWord]

theorem four_le_maxPayload (s : State) (b : Bay) : 4 ≤ maxPayload s b := by
  unfold maxPayload
  split <;> decide

section
variable {s : State} {b : Bay} (carries : linkCarries s b = true) (main : mainOn s = true)
include carries main

/-- One DW is read, and one completion answers. -/
theorem hostRead_replies (config : Bool) (attr : TlpAttr) (off : Nat) {bs : List Byte} {s1 : State}
    (read : (if config then ((bytesOf (hostCfgWord (qPass (98 + b.val) s) b (off / 4 * 4)) (off % 4) 4).take 4, qPass (98 + b.val) s)
      else hbReadOp b off 4 (qPass (98 + b.val) s)) = (bs, s1)) (length : bs.length = 4) :
    Queues b [.reply bs attr] s1 (hostRead b config attr off 4 s) := by
  have answered : hostRead b config attr off 4 s = sendReply b attr (maxPayload s1 b) (4 / 128 + 1) bs s1 := by
    unfold hostRead; dsimp only
    rw [if_neg (by simp [carries, main]), read]
  rw [answered]
  exact sendReply_queues (by omega) (by rw [length]; exact four_le_maxPayload ..) ..

theorem bar2Access_config (attr : TlpAttr) {off : BitVec 20} (aligned : off.toNat % 4 = 0) :
    ∃ s', exec (.bar2Access b { space := .config, write := false, attr := attr } off 4 []) s = .next s' ∧ OnlyBay b s s' ∧
      SentToHost b (.reply (bytesOf (cfgHeld s b off.toNat ||| cfgFixed s b off.toNat) 0 4) attr) s' := by
  have place : off.toNat / 4 * 4 = off.toNat := Nat.div_mul_cancel (Nat.dvd_of_mod_eq_zero aligned)
  have queued := hostRead_replies carries main true attr off.toNat
    (bs := bytesOf (cfgHeld s b off.toNat ||| cfgFixed s b off.toNat) 0 4)
    (by rw [if_pos rfl, place, aligned, hostCfgWord_qPass]; rfl) rfl
  exact ⟨_, exec_bar2Access_config .., onlyBay_trans (onlyBay_of_clk b (qPass_same ..)) queued.1,
    queues_sent queued (List.mem_singleton_self _)⟩

/-- HB.MODE is read in every mode (R373 › Edges). -/
theorem bar2Access_mode (attr : TlpAttr) :
    ∃ s', exec (.bar2Access b { space := .registers, write := false, attr := attr } 4 4 []) s = .next s' ∧ OnlyBay b s s' ∧
      SentToHost b (.reply (bytesOf (sysModeWord s) 0 4) attr) s' := by
  have read : hbReadOp b 4 4 (qPass (98 + b.val) s) = (bytesOf (sysModeWord s) 0 4, qPass (98 + b.val) s) := by
    rw [hbReadOp, if_neg (by simp), if_neg (by simp), hbRead_mode]; rfl
  have queued := hostRead_replies carries main false attr 4 read rfl
  exact ⟨_, exec_bar2Access_registers .., onlyBay_trans (onlyBay_of_clk b (qPass_same ..)) queued.1,
    queues_sent queued (List.mem_singleton_self _)⟩

/-- Another bay's channel in the channel window is silent. -/
theorem bar2Access_channel (attr : TlpAttr) {off : BitVec 20} (low : 0x8000 ≤ off.toNat) (high : off.toNat < 0x9000)
    (aligned : off.toNat % 4 = 0) (unlocked : s.sys.mode ≠ Mode.lockdown)
    (none : bayHasChannel s b (bay s b).chsel.toNat = false) :
    ∃ s', exec (.bar2Access b { space := .registers, write := false, attr := attr } off 4 []) s = .next s' ∧
      OnlyBay b s { s' with guard := s.guard } ∧ SentToHost b (.reply [0, 0, 0, 0] attr) s' ∧
      vget s'.guard.vcnt ⟨16 + b.val, by omega⟩ = satInc (vget s.guard.vcnt ⟨16 + b.val, by omega⟩) := by
  let s1 := violate (.bay b) .bay (BitVec.ofNat 32 off.toNat) false (qPass (98 + b.val) s)
  have word : hbRead b off.toNat (qPass (98 + b.val) s) = (0, s1) := by
    rw [hbRead, if_pos ⟨low, high⟩, if_neg]
    rw [bayHasChannel, bayNum_qPass, bay_qPass]
    exact Bool.eq_false_iff.mp none
  have read : hbReadOp b off.toNat 4 (qPass (98 + b.val) s) = ([0, 0, 0, 0], s1) := by
    have open_ : ¬ ((qPass (98 + b.val) s).sys.mode = Mode.lockdown ∧ ¬ (off.toNat = 4 ∧ 4 = 4)) := by simp [unlocked]
    rw [hbReadOp, if_neg open_, if_neg (by simp [aligned]), word]; rfl
  have queued := hostRead_replies carries main false attr off.toNat read rfl
  have counted : (hostRead b false attr off.toNat 4 s).guard = s1.guard := by rw [queued.1.1]
  refine ⟨_, exec_bar2Access_registers .., onlyBay_violated (qPass_same ..) (violate_same ..) queued.1,
    queues_sent queued (List.mem_singleton_self _), ?_⟩
  rw [counted, violate_vcnt]
  exact if_pos rfl

end

/-! ### Notices (R373, R383) -/

section
variable {s : State} {t : Thread} {b : Bay} (lets : guardLets s (.thread t) permR (notifyAddr b).toNat 4 = true)
include lets

theorem exec_notifyGo_open : exec (.notifyGo t b) s = .next (notifyRead t b s).2 :=
  congrArg Host.Outcome.next (tryRead_open lets fun s => (notifyRead t b s).2)

theorem notifyGo_sends (acts : actsFor s t b = true) (en : (cqOf s b (bay s b).notifyCq.toFin).en = true)
    (free : 0 < cqFree (cqOf s b (bay s b).notifyCq.toFin)) :
    let q := (bay s b).notifyCq.toFin
    let y := cqOf s b q
    ∃ s', exec (.notifyGo t b) s = .next s' ∧ OnlyBay b s s' ∧ (bay s' b).cmds = (bay s b).cmds ∧
      SentToHost b (.completion q (y.base + BitVec.ofNat 64 (16 * y.tail.toNat))
        (entryBits (BitVec.ofNat 64 ((bay s b).notifyLo.toNat + (bay s b).notifyHi.toNat * 2 ^ 32)) 0xFF 0
          (bay s b).notifyTag.toNat 0 true y.phase)) s' ∧
      (cqOf s' b q).tail = (if y.tail.toNat + 1 = y.size.toNat then 0 else y.tail + 1) := by
  intro q y
  have reserved : cqOf (setCq b q { y with reserved := y.reserved + 1 } s) b q = { y with reserved := y.reserved + 1 } := by
    rw [cqOf, setCq, bay_setBay_same]; exact vget_vset_same ..
  obtain ⟨only, entry, out, vecs, own⟩ := writeEntry_writes b q
    (BitVec.ofNat 64 ((bay s b).notifyLo.toNat + (bay s b).notifyHi.toNat * 2 ^ 32)) 0xFF 0 (bay s b).notifyTag.toNat 0 true
    (setCq b q { y with reserved := y.reserved + 1 } s)
  rw [reserved] at entry own
  have queued : (notifyRead t b s).2 = writeEntry b q
      (BitVec.ofNat 64 ((bay s b).notifyLo.toNat + (bay s b).notifyHi.toNat * 2 ^ 32)) 0xFF 0 (bay s b).notifyTag.toNat 0 true
      (setCq b q { y with reserved := y.reserved + 1 } s) := by
    have room : ¬ (!y.en || decide (cqFree y = 0)) = true := by simp [y, q, en, Nat.ne_of_gt free]
    rw [notifyRead, if_neg (by simp [acts])]; dsimp only
    rw [if_neg room]
  have ran := exec_notifyGo_open lets
  rw [queued] at ran
  refine ⟨_, ran, onlyBay_trans (onlyBay_setBay s b _) only, ?_, entry, ?_⟩
  · rw [own, setCq, bay_setBay_same]
  · rw [cqOf, own]; dsimp only
    rw [vget_vset_same]
    exact nextEntry_tail _

/-- No CQ takes it: the read returns 1, and nothing is queued. -/
theorem notifyGo_waits (acts : actsFor s t b = true)
    (full : (cqOf s b (bay s b).notifyCq.toFin).en = false ∨ cqFree (cqOf s b (bay s b).notifyCq.toFin) = 0) :
    exec (.notifyGo t b) s = .next s := by
  have none : (!(cqOf s b (bay s b).notifyCq.toFin).en || decide (cqFree (cqOf s b (bay s b).notifyCq.toFin) = 0)) = true := by
    rcases full with off | empty
    · simp [off]
    · simp [empty]
  rw [exec_notifyGo_open lets, notifyRead, if_neg (by simp [acts])]; dsimp only
  rw [if_pos none]

theorem notifyGo_silent (other : actsFor s t b = false) :
    ∃ s', exec (.notifyGo t b) s = .next s' ∧ s' = { s with guard := s'.guard } ∧
      vget s'.guard.vcnt ⟨t.val, by omega⟩ = satInc (vget s.guard.vcnt ⟨t.val, by omega⟩) := by
  have silent : (notifyRead t b s).2 =
      violate (.thread t) (if (actingBay s t).isSome then .bay else .block) (notifyAddr b) false s :=
    congrArg Prod.snd (if_pos (by simp [other]))
  have ran := exec_notifyGo_open lets
  rw [silent] at ran
  refine ⟨_, ran, eq_of_guard (violate_same ..), ?_⟩
  rw [violate_vcnt]
  exact if_pos rfl

end

/-! ### Vectors (R387) -/

theorem exec_msixUnmask_reached {s : State} {b : Bay} (reach : hostReaches s b = true) (v : Fin 32) :
    exec (.msixUnmask b v) s = .next (unmaskVec b v s) := congrArg Host.Outcome.next (if_pos reach)

theorem raiseVec_open {s : State} {b : Bay} {v : BitVec 5} (mask : (vget (bay s b).vecs v.toFin).mask = false)
    (on : msixOn s b = true) (open_ : msixMasked s b = false) (aligned : (vget (bay s b).vecs v.toFin).addr.toNat % 4 = 0)
    (first : messageWaits s b v = false) :
    raiseVec b v s = hostSend b (.message v (vget (bay s b).vecs v.toFin).addr (vget (bay s b).vecs v.toFin).data) s := by
  exact (if_neg (by simp [mask, on, open_])).trans (if_neg (by simp [aligned, first]))

/-- A vector's bits say nothing of configuration space. -/
theorem setVecs_keeps (s : State) (b : Bay) (vecs : Vector Vec 32) :
    let s' := setBay s b { bay s b with vecs := vecs }
    msixOn s' b = msixOn s b ∧ msixMasked s' b = msixMasked s b ∧ ∀ v, messageWaits s' b v = messageWaits s b v := by
  simp [msixOn, msixMasked, messageWaits, cfgHeld]

theorem msixUnmask_sends {s : State} {b : Bay} {v : Fin 32} (reach : hostReaches s b = true)
    (pending : (vget (bay s b).vecs v).pending = true) (on : msixOn s b = true) (open_ : msixMasked s b = false)
    (aligned : (vget (bay s b).vecs v).addr.toNat % 4 = 0) (first : messageWaits s b (BitVec.ofNat 5 v.val) = false) :
    let e := vget (bay s b).vecs v
    ∃ s', exec (.msixUnmask b v) s = .next s' ∧ OnlyBay b s s' ∧
      vget (bay s' b).vecs v = { e with mask := false, pending := false } ∧
      SentToHost b (.message (BitVec.ofNat 5 v.val) e.addr e.data) s' := by
  intro e
  let s1 := setBay s b { bay s b with vecs := vset (bay s b).vecs v { e with mask := false } }
  let s2 := setBay s1 b { bay s1 b with vecs := vset (bay s1 b).vecs v { e with mask := false, pending := false } }
  have own1 : vget (bay s1 b).vecs v = { e with mask := false } := by rw [bay_setBay_same]; exact vget_vset_same ..
  have own2 : vget (bay s2 b).vecs v = { e with mask := false, pending := false } := by
    rw [bay_setBay_same]; exact vget_vset_same ..
  obtain ⟨on1, open1, waits1⟩ := setVecs_keeps s b (vset (bay s b).vecs v { e with mask := false })
  obtain ⟨on2, open2, waits2⟩ := setVecs_keeps s1 b (vset (bay s1 b).vecs v { e with mask := false, pending := false })
  have released : unmaskVec b v s = raiseVec b (BitVec.ofNat 5 v.val) s2 := by
    have ready : (vget (bay s1 b).vecs v).pending = true ∧ ¬ (vget (bay s1 b).vecs v).mask = true ∧ msixOn s1 b = true ∧
        ¬ msixMasked s1 b = true := by
      rw [own1, on1, open1]; exact ⟨pending, Bool.false_ne_true, on, by simp [open_]⟩
    refine (if_pos ready).trans ?_
    rw [own1]
  have index : (BitVec.ofNat 5 v.val).toFin = v := by ext; simp
  have sent : raiseVec b (BitVec.ofNat 5 v.val) s2 = hostSend b (.message (BitVec.ofNat 5 v.val) e.addr e.data) s2 := by
    have raised := raiseVec_open (s := s2) (b := b) (v := BitVec.ofNat 5 v.val) (by rw [index, own2])
      (by rw [on2, on1, on]) (by rw [open2, open1, open_]) (by rw [index, own2]; exact aligned)
      (by rw [waits2, waits1, first])
    rwa [index, own2] at raised
  have ran := exec_msixUnmask_reached reach v
  rw [released, sent] at ran
  have queued := hostSend_queues b (.message (BitVec.ofNat 5 v.val) e.addr e.data) s2
  obtain ⟨only, -, out, own⟩ := id queued
  refine ⟨_, ran, onlyBay_trans (onlyBay_trans (onlyBay_setBay s b _) (onlyBay_setBay s1 b _)) only, ?_,
    queues_sent queued (List.mem_singleton_self _)⟩
  rw [own]; exact own2

theorem msixUnmask_keeps {s : State} {b : Bay} {v : Fin 32} (reach : hostReaches s b = true)
    (quiet : (vget (bay s b).vecs v).pending = false ∨ msixOn s b = false ∨ msixMasked s b = true) :
    ∃ s', exec (.msixUnmask b v) s = .next s' ∧ OnlyBay b s s' ∧
      vget (bay s' b).vecs v = { vget (bay s b).vecs v with mask := false } ∧ (bay s' b).out = (bay s b).out := by
  let s1 := setBay s b { bay s b with vecs := vset (bay s b).vecs v { vget (bay s b).vecs v with mask := false } }
  have own1 : vget (bay s1 b).vecs v = { vget (bay s b).vecs v with mask := false } := by
    rw [bay_setBay_same]; exact vget_vset_same ..
  have held : unmaskVec b v s = s1 := by
    obtain ⟨on1, open1, -⟩ := setVecs_keeps s b (vset (bay s b).vecs v { vget (bay s b).vecs v with mask := false })
    refine if_neg ?_
    rw [own1, on1, open1]
    rcases quiet with h | h | h <;> simp [h]
  have ran := exec_msixUnmask_reached reach v
  rw [held] at ran
  exact ⟨s1, ran, onlyBay_setBay s b _, own1, by rw [bay_setBay_same]⟩

/-! ### Failed reads (R384) -/

/-- DMA_ERR and AER's status bit alone. -/
theorem bay_noteDmaError (b k : Bay) (fault : DmaFault) (s : State) :
    ∃ cfg, bay (noteDmaError b fault s) k = if k = b then { bay s b with dmaErr := true, cfg := cfg } else bay s k :=
  ⟨_, bay_setBay ..⟩

theorem onlyBay_noteDmaError (b : Bay) (fault : DmaFault) (s : State) : OnlyBay b s (noteDmaError b fault s) :=
  onlyBay_setBay s b _

/-- A fetch stopped by a failed read: its CQ slots are free again, its SQ is off and shows ERR. -/
def stopFetch (b : Bay) (q : Fin 16) (s : State) : State :=
  let x := sqOf s b q
  let c := cqOf s b x.cqid.toFin
  setSq b q { x with en := false, err := true, fetching := 0 }
    (setCq b x.cqid.toFin { c with reserved := c.reserved - x.fetching } s)

theorem bay_stopFetch (b : Bay) (q : Fin 16) (s : State) :
    ∃ cq, bay (stopFetch b q s) b =
      { bay s b with cq := cq, sq := vset (bay s b).sq q { sqOf s b q with en := false, err := true, fetching := 0 } } := by
  simp only [stopFetch, setSq, setCq, bay_setBay_same]
  exact ⟨_, rfl⟩

theorem dmaError_stopsFetch {s : State} {b : Bay} {q : Fin 16} (fault : DmaFault) (runs : (sqOf s b q).fetching ≠ 0) :
    ∃ s', exec (.dmaError b { read := .fetch q, fault := fault }) s = .next s' ∧ OnlyBay b s s' ∧ (sqOf s' b q).en = false ∧
      (sqOf s' b q).err = true ∧ (sqOf s' b q).fetching = 0 ∧ (bay s' b).dmaErr = true ∧ (bay s' b).cmds = (bay s b).cmds := by
  let s1 := noteDmaError b fault (stopFetch b q s)
  have ran : exec (.dmaError b { read := .fetch q, fault := fault }) s = .next (pumpFetch b s1) :=
    congrArg Host.Outcome.next (if_neg runs)
  obtain ⟨_, stopped⟩ := bay_stopFetch b q s
  obtain ⟨_, own⟩ := bay_noteDmaError b b fault (stopFetch b q s)
  rw [if_pos rfl, stopped] at own
  have sq : sqOf s1 b q = { sqOf s b q with en := false, err := true, fetching := 0 } := by
    rw [sqOf, own]; exact vget_vset_same ..
  obtain ⟨only, -, ⟨_, _, _, _, after⟩, disabled, -⟩ := pumpFetch_fetches b s1
  have still : sqOf (pumpFetch b s1) b q = _ := (disabled q (by rw [sq])).trans sq
  have stops : OnlyBay b s (stopFetch b q s) := onlyBay_trans (onlyBay_setBay s b _) (onlyBay_setBay _ b _)
  refine ⟨_, ran, onlyBay_trans (onlyBay_trans stops (onlyBay_noteDmaError ..)) only, by rw [still], by rw [still],
    by rw [still], ?_, ?_⟩
  · rw [after, own]
  · rw [after, own]

theorem dmaError_endsCommand {s : State} {b : Bay} {k : Fin 256} {c : BayCmd} (fault : DmaFault)
    (cmd : cmdOf s b k = some c) (reads : c.st = .dataIn) :
    ∃ s', exec (.dmaError b { read := .data k, fault := fault }) s = .next s' ∧ (bay s' b).dmaErr = true ∧
      CmdCompletes b c 5 0 s s' ∧ s'.drill = s.drill ∧ s'.mem = s.mem := by
  have ran : exec (.dmaError b { read := .data k, fault := fault }) s =
      .next (completeCmd b c 5 0 (noteDmaError b fault s)) := by
    rw [exec_dmaError, execDmaError, dmaErrorOp, cmd]
    exact congrArg Host.Outcome.next (if_pos reads)
  obtain ⟨_, own⟩ := bay_noteDmaError b b fault s
  rw [if_pos rfl] at own
  obtain ⟨completes, dmaErr⟩ := completeCmd_completes b c 5 0 (noteDmaError b fault s)
  exact ⟨_, ran, by rw [dmaErr, own], cmdCompletes_congr (by rw [own]) (by rw [own]) (by rw [own]) completes, by simp, by simp⟩

/-! ### LTR (R390, R391) -/

theorem foldl_min_le (l : List Nat) (m : Nat) : l.foldl min m ≤ m := by
  induction l generalizing m with
  | nil => exact Nat.le_refl m
  | cons x l ih => exact (ih (min m x)).trans (Nat.min_le_left m x)

/-- The smallest scale whose value fits 10 bits. -/
theorem ltrEncode_smallest {ns : Nat} (fits : ns / 32 ^ 5 ≤ 1023) :
    ∃ k, ltrEncode ns = (k, ns / 32 ^ k) ∧ k ≤ 5 ∧ ns / 32 ^ k ≤ 1023 ∧ ∀ j, j < k → 1023 < ns / 32 ^ j := by
  unfold ltrEncode
  split
  · next none => exact absurd fits (by simpa using List.find?_eq_none.mp none 5 (by simp))
  · next k found =>
    obtain ⟨value, range, least⟩ := List.find?_range_eq_some.mp found
    exact ⟨k, rfl, by simp at range; omega, of_decide_eq_true value, fun j below => by simpa using least j below⟩

theorem num_two_lt (e : SeedEntry) (off : Nat) : e.num off 2 < 65536 :=
  (leNat_lt _).trans_le (Nat.pow_le_pow_right (n := 2) (by decide) (by
    have := List.length_take_le 2 (e.data.drop off); omega : _ ≤ 16))

/-- A tolerance is due: the first, a smaller one at once, and a greater one after the interval. -/
def ltrDue (x : BayState) (now interval shown : Nat) : Bool :=
  match x.ltrNs with
  | none => true
  | some old => decide (shown < old) || (decide (old < shown) && decide (interval ≤ now - x.ltrAt))

/-- The bay's registers after a tolerance is sent. -/
def ltrShown (x : BayState) (k v now : Nat) : BayState :=
  { x with ltrSent := satInc x.ltrSent, ltrLast := BitVec.ofNat 13 (k * 1024 + v), ltrNs := some (v * 32 ^ k), ltrAt := now }

/-- The bay's tolerance in ns: the smallest of its terms, under the cap. -/
def ltrTolerance (s : State) (b : Bay) (e : SeedEntry) : Nat :=
  (ltrTerms s b (e.num 2 2 * 1000) (e.num 4 2 * 1000)).foldl min (e.num 4 2 * 1000)

theorem ltrTolerance_fits (s : State) (b : Bay) (e : SeedEntry) : ltrTolerance s b e / 32 ^ 5 ≤ 1023 := by
  have cap : ltrTolerance s b e ≤ e.num 4 2 * 1000 := foldl_min_le ..
  have := num_two_lt e 4
  omega

section
variable {s : State} {b : Bay} {e : SeedEntry} {k v : Nat} (record : seedFind s 0x0C 1 b.val = some e) (counts : e.num 1 1 ≠ 0)
  (on : ltrOn s b = true) (carries : linkCarries s b = true) (main : mainOn s = true)
  (code : ltrEncode (ltrTolerance s b e) = (k, v))
include record counts on carries main code

theorem exec_ltrUpdate_encoded : ∃ required, exec (.ltrUpdate b) s = .next (
    if !ltrDue (bay s b) s.now (e.num 6 2 * 250000) (v * 32 ^ k) then s
    else hostSend b (.ltr (BitVec.ofNat 13 (k * 1024 + v)) required) (setBay s b (ltrShown (bay s b) k v s.now))) := by
  rw [ltrTolerance] at code
  have runs : ¬ (e.num 1 1 = 0 ∨ ¬ ltrOn s b = true ∨ ¬ linkCarries s b = true ∨ ¬ mainOn s = true) := by
    simp [counts, on, carries, main]
  rw [exec_ltrUpdate, execLtrUpdate, ltrOp, record]; dsimp only
  rw [if_neg runs, code]
  exact ⟨_, rfl⟩

theorem ltrUpdate_sends (small : k ≤ 5) (value : v ≤ 1023) (due : (bay s b).ltrNs = none ∨
      (∃ old, (bay s b).ltrNs = some old ∧ (v * 32 ^ k < old ∨
        (old < v * 32 ^ k ∧ e.num 6 2 * 250000 ≤ s.now - (bay s b).ltrAt)))) :
    ∃ s', exec (.ltrUpdate b) s = .next s' ∧ OnlyBay b s s' ∧ (bay s' b).ltrSent = satInc (bay s b).ltrSent ∧
      (bay s' b).ltrLast.toNat = k * 1024 + v ∧ (bay s' b).ltrNs = some (v * 32 ^ k) ∧ (bay s' b).ltrAt = s.now := by
  obtain ⟨required, ran⟩ := exec_ltrUpdate_encoded record counts on carries main code
  have due_ : ltrDue (bay s b) s.now (e.num 6 2 * 250000) (v * 32 ^ k) = true := by
    unfold ltrDue
    rcases due with none | ⟨old, last, smaller | ⟨greater, waited⟩⟩
    · rw [none]
    · rw [last]; simp [smaller]
    · rw [last]; simp [greater, waited]
  rw [due_, if_neg (by simp)] at ran
  obtain ⟨only, -, out, own⟩ := hostSend_queues b (.ltr (BitVec.ofNat 13 (k * 1024 + v)) required)
    (setBay s b (ltrShown (bay s b) k v s.now))
  rw [bay_setBay_same] at own
  refine ⟨_, ran, onlyBay_trans (onlyBay_setBay ..) only, ?_⟩
  rw [own]
  exact ⟨rfl, Nat.mod_eq_of_lt (by omega), rfl, rfl⟩

theorem ltrUpdate_waits {old : Nat} (last : (bay s b).ltrNs = some old) (early : old = v * 32 ^ k ∨
      (old < v * 32 ^ k ∧ s.now - (bay s b).ltrAt < e.num 6 2 * 250000)) : exec (.ltrUpdate b) s = .next s := by
  obtain ⟨required, ran⟩ := exec_ltrUpdate_encoded record counts on carries main code
  have waits : ltrDue (bay s b) s.now (e.num 6 2 * 250000) (v * 32 ^ k) = false := by
    unfold ltrDue; rw [last]
    rcases early with same | ⟨greater, within⟩
    · simp [same]
    · simp [Nat.le_of_lt greater, Nat.not_le.mpr within]
  rwa [waits, if_pos (by rfl)] at ran

end

/-- LTR sends the tolerance in the smallest encoding that holds it, when it is due. -/
theorem ltrUpdate_tolerance {s : State} {b : Bay} {e : SeedEntry} (record : seedFind s 0x0C 1 b.val = some e)
    (counts : e.num 1 1 ≠ 0) (on : ltrOn s b = true) (carries : linkCarries s b = true) (main : mainOn s = true) :
    let cap := e.num 4 2 * 1000
    let l := (ltrTerms s b (e.num 2 2 * 1000) cap).foldl min cap
    ∃ k v, k ≤ 5 ∧ v ≤ 1023 ∧ v = l / 32 ^ k ∧ (∀ j, j < k → 1023 < l / 32 ^ j) ∧
      ((bay s b).ltrNs = none ∨ (∃ old, (bay s b).ltrNs = some old ∧ (v * 32 ^ k < old ∨
          (old < v * 32 ^ k ∧ e.num 6 2 * 250000 ≤ s.now - (bay s b).ltrAt))) →
        ∃ s', exec (.ltrUpdate b) s = .next s' ∧ OnlyBay b s s' ∧ (bay s' b).ltrSent = satInc (bay s b).ltrSent ∧
          (bay s' b).ltrLast.toNat = k * 1024 + v ∧ (bay s' b).ltrNs = some (v * 32 ^ k) ∧ (bay s' b).ltrAt = s.now) ∧
      (∀ old, (bay s b).ltrNs = some old → old = v * 32 ^ k ∨
          (old < v * 32 ^ k ∧ s.now - (bay s b).ltrAt < e.num 6 2 * 250000) → exec (.ltrUpdate b) s = .next s) := by
  intro cap l
  obtain ⟨k, code, small, value, least⟩ := ltrEncode_smallest (ltrTolerance_fits s b e)
  exact ⟨k, _, small, value, rfl, least, ltrUpdate_sends record counts on carries main code small value,
    fun old => ltrUpdate_waits record counts on carries main code⟩

/-! ### Credits and the link's return to L0 (R391, R456) -/

theorem drop_length {k : Nat} {l : List HostOut} (enough : k ≤ (l.filter fun o => o.sent).length) :
    (execUpdatefcReceived.drop k l).length = l.length - k := by
  induction l generalizing k with
  | nil => cases k <;> simp [execUpdatefcReceived.drop]
  | cons o t ih =>
    cases k with
    | zero => rfl
    | succ k =>
      have inside : (t.filter fun o => o.sent).length ≤ t.length := List.length_filter_le ..
      cases sent : o.sent with
      | true =>
        rw [List.filter_cons_of_pos sent, List.length_cons] at enough
        rw [execUpdatefcReceived.drop, if_pos sent, ih (Nat.le_of_succ_le_succ enough), List.length_cons]
        omega
      | false =>
        rw [List.filter_cons_of_neg (by simp [sent])] at enough
        rw [execUpdatefcReceived.drop, if_neg (by simp [sent]), List.length_cons, ih enough, List.length_cons]
        exact (Nat.succ_sub (enough.trans inside)).symm

/-- The oldest items sent are no longer held for their credits. -/
def returned (items : Nat) (x : BayState) : BayState :=
  { x with out := execUpdatefcReceived.drop (min items (x.out.filter fun o => o.sent).length) x.out }

theorem updatefcReceived_returns {s : State} {b : Bay} (carries : linkCarries s b = true) (items : Nat) :
    ∃ s', exec (.updatefcReceived b items) s = .next s' ∧ OnlyBay b s s' ∧
      (bay s' b).out.length = (bay s b).out.length - min items ((bay s b).out.filter fun o => o.sent).length ∧
      (bay s' b).cmds = (bay s b).cmds := by
  have ran : exec (.updatefcReceived b items) s = .next (flushOut b 4096 (setBay s b (returned items (bay s b)))) :=
    congrArg Host.Outcome.next (if_neg (by simp [carries]))
  obtain ⟨only, left, out, own⟩ := flushOut_queues b 4096 (setBay s b (returned items (bay s b)))
  refine ⟨_, ran, onlyBay_trans (onlyBay_setBay ..) only, ?_, by rw [own, bay_setBay_same]; rfl⟩
  have length := congrArg List.length left
  rw [List.append_nil, bayItems, bayItems, List.length_map, List.length_map, bay_setBay_same] at length
  rw [length]
  exact drop_length (Nat.min_le_right ..)

/-- The bay of a link in L0 again, whose next tolerance is its first. -/
def returnedToL0 (x : BayState) : BayState := { x with link := 2, ltrNs := none }

theorem l1Exit_returns {s : State} {b : Bay} (sleeping : (bay s b).link = 3) :
    ∃ s', exec (.l1Exit b) s = .next s' ∧ OnlyBay b s s' ∧ (bay s' b).link = 2 ∧ (bay s' b).ltrNs = none ∧
      (bay s' b).speed = (bay s b).speed ∧ (bay s' b).dllsc = (bay s b).dllsc := by
  let s1 := setBay s b { bay s b with ltrNs := none }
  let s2 := setLink b 2 s1
  have ran : exec (.l1Exit b) s = .next (flushOut b 4096 s2) := congrArg Host.Outcome.next (if_pos sleeping)
  have up : linkUpNow { bay s b with ltrNs := none } = true := decide_eq_true (.inr sleeping)
  have linked : s2 = setBay s1 b (returnedToL0 (bay s b)) := by
    unfold s2 setLink s1; dsimp only
    rw [bay_setBay_same, up]
    exact if_pos rfl
  have own2 : bay s2 b = returnedToL0 (bay s b) := by rw [linked, bay_setBay_same]
  have only2 : OnlyBay b s s2 := by
    rw [linked]; exact onlyBay_trans (onlyBay_setBay s b _) (onlyBay_setBay s1 b _)
  obtain ⟨only, -, out, own⟩ := flushOut_queues b 4096 s2
  refine ⟨_, ran, onlyBay_trans only2 only, ?_⟩
  rw [own, own2]
  exact ⟨rfl, rfl, rfl, rfl⟩

/-! ### The end of an activation's copy (R145) -/

theorem stageAnswer_headland (slot : Option (Fin 256)) (s : State) : stageAnswer 1 slot s = hldOk s := by
  cases slot <;> rfl

section
variable {s : State} {slot : Option (Fin 256)} {t err : Bool} (copying : s.seed.wait = .copying slot t) (main : mainOn s = true)
  (headland : s.seed.source = 1)
include copying main headland

theorem exec_stageCopyDone_headland : exec (.stageCopyDone err) s = .next (
    let s1 := copyStaging t s
    let n := seedCode s1 (seedSlotBase t) err
    let s2 : State := { s1 with seed := { s1.seed with wait := .idle } }
    if n ≠ 0 then hldOk { s2 with seed := { s2.seed with result := 2, code := BitVec.ofNat 4 n, checkedLast := false } }
    else
      let s3 := writeDirectory t s2
      warmReset (hldOk { s3 with seed := { s3.seed with activated := true } })) := by
  have source : (copyStaging t s).seed.source = 1 := by simp [headland]
  have on : ¬ (!mainOn s) = true := by simp [main]
  rw [exec_stageCopyDone, execStageCopyDone, stageCopyOp, copying]; dsimp only
  rw [if_neg on, source, stageAnswer_headland, stageAnswer_headland]

theorem stageCopyDone_fails (fails : seedCode (copyStaging t s) (seedSlotBase t) err ≠ 0) :
    ∃ s', exec (.stageCopyDone err) s = .next s' ∧ s'.seed.wait = .idle ∧ s'.seed.result = 2 ∧ s'.sys = s.sys ∧
      s'.seed.code.toNat = seedCode (copyStaging t s) (seedSlotBase t) err % 16 ∧ s'.mem = (copyStaging t s).mem ∧
      s'.hld.answer = {} := by
  have ran := exec_stageCopyDone_headland (err := err) copying main headland
  dsimp only at ran
  rw [if_pos fails] at ran
  obtain ⟨-, -, -, -, -, sys, -⟩ := copyStaging_same t s
  exact ⟨_, ran, rfl, rfl, sys, BitVec.toNat_ofNat .., rfl, rfl⟩

theorem stageCopyDone_activates (passes : seedCode (copyStaging t s) (seedSlotBase t) err = 0)
    (noLimp : limpReason s 2 = false) :
    ∃ s', exec (.stageCopyDone err) s = .next s' ∧ s'.sys.mode = Mode.boot ∧ s'.sys.cause = 4 ∧
      s'.mem.store = (writeDirectory t (copyStaging t s)).mem.store := by
  have ran := exec_stageCopyDone_headland (err := err) copying main headland
  dsimp only at ran
  rw [if_neg (not_not_intro passes)] at ran
  generalize fresh : hldOk _ = s1 at ran
  have sys : s1.sys = s.sys := by rw [← fresh]; simp
  have activated : s1.seed.activated = true := by rw [← fresh]; rfl
  have store : s1.mem.store = (writeDirectory t (copyStaging t s)).mem.store := by rw [← fresh]; rfl
  rw [warmReset_runs (by rw [limpReason, sys]; exact noLimp) (.inr activated)] at ran
  obtain ⟨mode, -, -, -, -, -, -, -, kept⟩ := warmEntered_keeps s1
  obtain ⟨mode', -, cause, -⟩ := warmClear_sys (warmEntered s1)
  obtain ⟨-, -, kept', -⟩ := warmClear_mem (warmEntered s1)
  exact ⟨_, ran, mode'.trans mode, cause, kept'.trans (kept.trans store)⟩

end

/-- Settles O50: access by access, notice by notice and vector by vector; what follows a send or a fetch keeps the items. -/
theorem bayTraffic : Obligations.BayTraffic := by
  unfold Obligations.BayTraffic
  refine fun s b => ⟨fun attr off data reach nonempty inside => ⟨bar2Access_stores reach attr nonempty inside,
      bar2Access_reads reach attr nonempty inside, bar2Access_refused reach attr nonempty inside⟩,
    fun attr off data reach => ⟨bar2Access_ignored reach attr, bar2Access_across reach attr⟩,
    fun attr off carries main => ⟨bar2Access_config carries main attr, fun mode => mode ▸ bar2Access_mode carries main attr,
      bar2Access_channel carries main attr⟩,
    fun t lets => ⟨notifyGo_sends lets, notifyGo_waits lets, notifyGo_silent lets⟩,
    fun v reach => ⟨fun ⟨pending, on, open_⟩ => msixUnmask_sends reach pending on open_, msixUnmask_keeps reach⟩,
    fun f q => dmaError_stopsFetch f, fun f k c => dmaError_endsCommand f,
    fun e => ltrUpdate_tolerance, fun items carries => updatefcReceived_returns carries items, l1Exit_returns,
    fun slot t err copying main headland => ⟨stageCopyDone_fails copying main headland,
      fun passes _ => stageCopyDone_activates copying main headland passes⟩⟩

end Sys2Proof.Machine
end

section
/-! PROOFS. The tile engine's two queues: what enters TLQ (R319, R347, R351), what TLC's head brings when it is read
(R268, R320, R353, R363), and when ENCL_TILES and POLICY take effect (R341, R365). -/

namespace Sys2Proof.Machine

/-! ### TLQ (R155, R319, R351) -/

theorem eq_of_clk_tile {s s' : State} (h : SameBut_clk_tile s s') : s' = { s with tile := s'.tile, clk := s'.clk } := by
  cases s'; simp_all [SameBut_clk_tile]

@[simp] theorem pushTlq_tile (e : TileEntry) (s : State) :
    (pushTlq e s).tile = { s.tile with tlq := s.tile.tlq ++ [e] } := by simp [pushTlq]

@[simp] theorem thr_pushTlq (e : TileEntry) (s : State) (u : Thread) : thr (pushTlq e s) u = thr s u := by simp [thr]

@[simp] theorem task_issue (t : Thread) (s : State) : (thr (issue t s) t).task = (thr s t).task := by
  simp [issue, settleStart, settleDone]

theorem taskFlow_issue (t : Thread) (s : State) : taskFlow (issue t s) t = taskFlow s t := by simp [taskFlow, desc]

theorem heldTask_issue (t : Thread) (s : State) : heldTask (issue t s) t = heldTask s t := by simp [heldTask, desc]

/-- The entry has its thread's world, owner tag, flow and task as they were before the issue. -/
theorem issueTile_issue (t : Thread) (op : State → TileOp) (s : State) :
    issueTile t op (issue t s) =
      advance t (pushTlq (.op t (inEncl s t) (ownerTag s (.thread t)) (taskFlow s t) (heldTask s t) (op (issue t s)))
        (issue t s)) := by
  simp [issueTile, taskFlow_issue, heldTask_issue, ownerTag]

/-- With TLQ and its counters taken back, only the thread's step is left. -/
theorem advance_pushTlq (t : Thread) (e : TileEntry) (s : State) :
    { advance t (pushTlq e s) with tile := s.tile, clk := s.clk } = advance t s := by
  rw [eq_of_clk_tile (pushTlq_same e s)]; rfl

section
variable {t : Thread} {c : Instr} {op : State → TileOp} {s : State} (runs : canRun s t = true)
  (form : exec c s = onTile t op s)
include runs form

/-- A tile instruction with room in TLQ. -/
theorem entersTlq_of {o : TileOp} (operands : op (issue t s) = o) (room : s.tile.tlq.length < 32) : EntersTlq c t o s := by
  have fits : tlqFull s = false := by simp [tlqFull, room]
  have ran : exec c s = .next (issueTile t op (issue t s)) := by simp [form, onTile, runs, fits]
  rw [issueTile_issue, operands] at ran
  refine ⟨_, ran, ?_, ?_, ?_, ?_, ?_⟩
  · simp [advance, setPc]
  · have same : ∀ e, pcOf (pushTlq e (issue t s)) t = pcOf s t := fun e => by
      rw [pcOf, thr_pushTlq]; exact pcOf_issue s t t
    rw [pcOf_advance, same]; rfl
  · simp [SameRegs, advance]
  · simp [SameStatus, advance]
  · have back := advance_pushTlq t (.op t (inEncl s t) (ownerTag s (.thread t)) (taskFlow s t) (heldTask s t) o) (issue t s)
    simp only [issue_same] at back
    rw [back]
    exact only_trans (issue_only t s) (advance_only t _)

/-- A tile instruction at a full TLQ. -/
theorem waitsAtTlq_of (full : 32 ≤ s.tile.tlq.length) : WaitsAtTlq c s := by
  have stalls : exec c s = .next (countStall 94 s) := by simp [form, onTile, runs, tlqFull, full]
  exact ⟨_, stalls, rfl, fun k other => qstat_setQstat_other s other _⟩

end

/-- A GEOM write by a world that the tile is open to. -/
theorem geomWrite_enters {s : State} {r : Req} {t : Tile} (v : Word)
    (passes : passesGuard s r (BitVec.ofNat 32 (0x57008100 + 16 * t.val)) = true) (opens : tileRegOpen s r t = true) :
    ∃ s', exec (.geomWrite r t v) s = .next s' ∧ s'.tile = { s.tile with tlq := s.tile.tlq ++ [.geom t v] } ∧
      s' = { s with tile := s'.tile, clk := s'.clk } := by
  have ran : exec (.geomWrite r t v) s = .next (pushTlq (.geom t v) s) := by
    rw [exec_geomWrite, execGeomWrite, geomWriteOp, opens, tryWrite_open passes]
  exact ⟨_, ran, pushTlq_tile .., eq_of_clk_tile (pushTlq_same ..)⟩

theorem geomWrite_refused {s : State} {r : Req} {t : Tile} (v : Word)
    (passes : passesGuard s r (BitVec.ofNat 32 (0x57008100 + 16 * t.val)) = true) (closed : tileRegOpen s r t = false) :
    RefusedSilently (.geomWrite r t v) r s := by
  obtain ⟨kind, refused⟩ := tryWrite_closed passes (pushTlq (.geom t v))
  refine refusedSilently_of_violate (kind := kind) (a := BitVec.ofNat 32 (0x57008100 + 16 * t.val)) ?_
  rw [exec_geomWrite, execGeomWrite, geomWriteOp, closed, refused]

/-! ### The head of TLC is read (R353) -/

/-- TLC after the read of its head. -/
def readTlc (rest : List TileDone) (s : State) : State := qRead 95 1 { s with tile := { s.tile with tlc := rest } }

@[simp] theorem readTlc_same (rest : List TileDone) (s : State) : SameBut_clk_tile s (readTlc rest s) := by
  unfold SameBut_clk_tile; simp [readTlc]
@[simp] theorem readTlc_tile (rest : List TileDone) (s : State) :
    (readTlc rest s).tile = { s.tile with tlc := rest } := by simp [readTlc]
@[simp] theorem thr_readTlc (rest : List TileDone) (s : State) (u : Thread) : thr (readTlc rest s) u = thr s u := rfl
theorem flow_readTlc (rest : List TileDone) (s : State) (f : Nat) : flow (readTlc rest s) f = flow s f := rfl
theorem desc_readTlc (rest : List TileDone) (s : State) : desc (readTlc rest s) = desc s := rfl
theorem freeDesc_readTlc (rest : List TileDone) (s : State) (f : Nat) : freeDesc (readTlc rest s) f = freeDesc s f := by
  unfold freeDesc; rw [desc_readTlc]

/-- What the completion carries beside its thread: a note is raised. -/
def carryNote (d : TileDone) (s : State) : State := d.note.elim s fun n => raiseNote d.thread n s

/-- An overflow meets the thread while it holds the instruction's task and runs. -/
def takeOverflow (d : TileDone) (s : State) : State :=
  if d.ovf ∧ d.task.isSome ∧ heldTask s d.thread = d.task ∧ (thr s d.thread).run = .running then raiseTile d.thread s else s

theorem takeOverflow_of_fits {d : TileDone} (fits : d.ovf = false) (s : State) : takeOverflow d s = s := by
  simp [takeOverflow, fits]

theorem settleSync_of_running {t : Thread} {s : State} (running : (thr s t).syncing = false) : settleSync t s = s := by
  simp [settleSync, running]

section
variable {s : State} {d : TileDone} {rest : List TileDone} (main : mainOn s = true) (head : s.tile.tlc = d :: rest)
include main head

/-- The completion's note first, then the TSYNC it ends, then its overflow. -/
theorem tileCompletion_runs : exec .tileCompletion s =
    .next (takeOverflow d (settleSync d.thread (carryNote d (readTlc rest s)))) := by
  rw [exec_tileCompletion, execTileCompletion, tileCompletionOp, head]
  simp only [main, Bool.not_true, Bool.false_eq_true, if_false]
  unfold carryNote
  cases d.note <;> rfl

/-- A completion with no note and no overflow only ends a TSYNC. -/
theorem tileCompletion_plain (plain : d.note = none) (fits : d.ovf = false) :
    exec .tileCompletion s = .next (settleSync d.thread (readTlc rest s)) := by
  rw [tileCompletion_runs main head, takeOverflow_of_fits fits, carryNote, plain]; rfl

/-- A completion with a note alone raises it. -/
theorem tileCompletion_note {n : TileNote} (note : d.note = some n) (fits : d.ovf = false)
    (running : (thr s d.thread).syncing = false) :
    exec .tileCompletion s = .next (raiseNote d.thread n (readTlc rest s)) := by
  have carried : carryNote d (readTlc rest s) = raiseNote d.thread n (readTlc rest s) := by rw [carryNote, note]; rfl
  have running' : (thr (raiseNote d.thread n (readTlc rest s)) d.thread).syncing = false := by simpa [thr] using running
  rw [tileCompletion_runs main head, takeOverflow_of_fits fits, carried, settleSync_of_running running']

/-- An overflow meets the thread that still holds its task. -/
theorem tileCompletion_overflow {k : Fin 1024 × Half} (plain : d.note = none) (overflows : d.ovf = true)
    (task : d.task = some k) (held : heldTask s d.thread = some k) (run : (thr s d.thread).run = .running)
    (running : (thr s d.thread).syncing = false) :
    exec .tileCompletion s = .next (raiseTile d.thread (readTlc rest s)) := by
  have carried : carryNote d (readTlc rest s) = readTlc rest s := by rw [carryNote, plain]; rfl
  have settled : settleSync d.thread (readTlc rest s) = readTlc rest s := settleSync_of_running running
  rw [tileCompletion_runs main head, carried, settled, takeOverflow, if_pos]
  rw [task]
  exact ⟨overflows, rfl, held, run⟩

end

/-! ### A TSYNC that ends (R353) -/

/-- A thread has nothing more on its way where neither queue holds an entry of it. -/
theorem tilePending_none {s : State} {t : Thread} (issued : ∀ e ∈ s.tile.tlq, ∀ en ow f k o, e ≠ .op t en ow f k o)
    (done : ∀ e ∈ s.tile.tlc, e.thread ≠ t) : tilePending s t = false := by
  have inTlc : (s.tile.tlc.any fun d => decide (d.thread = t)) = false := by simpa using done
  rw [tilePending, inTlc, Bool.or_false, List.any_eq_false]
  intro e inside
  cases e with
  | op u en ow f k o =>
    have other : u ≠ t := fun own => issued _ inside en ow f k o (own ▸ rfl)
    simp [other]
  | geom => simp
  | zeroMarked => simp

theorem settleSync_ends {s : State} {t : Thread} (waits : (thr s t).syncing = true) (last : tilePending s t = false) :
    settleSync t s = setThr s t { thr s t with syncing := false, pc := pcOf s t + 4 } := by
  simp [settleSync, waits, last]

/-! ### Admission of a task (R249, R268) -/

@[simp] theorem desc_notePeak (p : BitVec 3) (s : State) (d : Fin 1024) : desc (notePeak p s) d = desc s d := by
  unfold notePeak; dsimp only; split <;> rfl
@[simp] theorem flow_notePeak (p : BitVec 3) (s : State) (f : Nat) : flow (notePeak p s) f = flow s f := by
  unfold notePeak; dsimp only; split <;> rfl

/-- The descriptor as its source filled it, Queued, with its flow, ORDER and ARRIVAL. -/
theorem desc_admitTask_same (f : Nat) (d : Fin 1024) (x : Desc) (s : State) :
    desc (admitTask f d x s) d = { x with
      st := .queued, flow := BitVec.ofNat 12 f, order := (flow s f).nextOrder, arrival := timeLo s
      life := { x.life with readyAt := s.drill.time.toNat, boost := 0 } } := by
  simp [admitTask, queueTask, fillDesc]; rfl

theorem desc_admitTask_other {d e : Fin 1024} (other : e ≠ d) (f : Nat) (x : Desc) (s : State) :
    desc (admitTask f d x s) e = desc s e := by
  simp [admitTask, queueTask, fillDesc, desc_setDesc_other _ other]

theorem flow_admitTask (f : Nat) (d : Fin 1024) (x : Desc) (s : State) :
    flow (admitTask f d x s) f = { flow s f with nextOrder := (flow s f).nextOrder + 1 } := by
  simp [admitTask, queueTask, fillDesc]

theorem flow_takeCredit (f : Nat) (s : State) :
    flow (takeCredit f s) f = { flow s f with taken := (flow s f).taken + 1 } := by simp [takeCredit]

/-! ### A note's task (R363) -/

theorem targetFlow_eq (w : Word) : targetFlow w = w.toNat % 4096 := by simp [targetFlow, bitsAt]

/-- WORD, THREAD, FLAGS and TAG, from the lowest bit. -/
theorem noteDesc_payload (t : Thread) (n : TileNote) (ready : Bool) :
    (noteDesc t n ready).payload.toNat =
      n.word.toNat + t.val * 2 ^ 32 + n.flags.toNat * 2 ^ 40 + n.target.toNat / 65536 * 2 ^ 48 := by
  have word := n.word.isLt
  have target := n.target.isLt
  have flags := n.flags.isLt
  have thread := t.isLt
  simp only [noteDesc, targetTag, bitsAt, BitVec.toNat_ofNat, Nat.shiftRight_eq_div_pow]
  omega

section
variable {t : Thread} {n : TileNote} {s : State} (lets : targetOk s n.encl (flowBay s n.flow) (n.target.toNat % 4096) = true)
  (plain : (flow s (n.target.toNat % 4096)).ready = false)
include lets plain

/-- With a free descriptor and a credit the note's task enters its flow. -/
theorem raiseNote_admits {x : Fin 1024} (free : freeDesc s (n.target.toNat % 4096) = some x)
    (credit : 0 < freeCredits (flow s (n.target.toNat % 4096))) :
    raiseNote t n s = admitTask (n.target.toNat % 4096) x (noteDesc t n false) (takeCredit (n.target.toNat % 4096) s) := by
  simp [raiseNote, targetFlow_eq, lets, indexOk, plain, admitTagged, free, credit]

/-- Without one of them it is refused and counted. -/
theorem raiseNote_drops (refused : freeDesc s (n.target.toNat % 4096) = none ∨
      freeCredits (flow s (n.target.toNat % 4096)) = 0) :
    raiseNote t n s = { countRefusal (n.target.toNat % 4096) s with
      tile := { s.tile with noteDrops := satInc s.tile.noteDrops } } := by
  have noTask : admitTagged (n.target.toNat % 4096) false (targetTag n.target) (targetIndex n.target) (noteDesc t n false) s =
      (.refused, countRefusal (n.target.toNat % 4096) s) := by
    unfold admitTagged
    rcases refused with noDesc | noCredit
    · simp [plain, noDesc]
    · simp [plain, noCredit]
  simp [raiseNote, targetFlow_eq, lets, indexOk, plain, noTask]

end

/-! ### TILE is taken (R286, R320, R321) -/

theorem fillLoad_only (t : Thread) (s : State) : OnlyThread t s (fillLoad t s) := by
  refine ⟨eq_of_same (by simp [SameBut_draws_cores_cache]), by simp, fun u _ => thr_fillLoad s t u,
    fun c _ => core_fillLoad s t c, by simp, fun c other => cache_fillLoad_other s other, cache_fillLoad_own s t⟩

/-- An abandoned access gives its register back; the thread's world, task and handler stay. -/
theorem abandon_only (t : Thread) (s : State) :
    OnlyThread t s (abandon t s).2 ∧ OnlyProgress t s (abandon t s).2 := by
  have fill : OnlyProgress t s (fillLoad t s) := by simp [OnlyProgress]
  unfold abandon; dsimp only
  split
  · exact ⟨fillLoad_only t s, fill⟩
  · next o _ =>
    refine ⟨only_trans (fillLoad_only t s) (only_trans (setGpr_only t o.rd o.old _) (setThr_only ..)),
      progress_trans fill (progress_trans (setGpr_progress t o.rd o.old _) ?_)⟩
    simp [OnlyProgress]

/-- The first instruction that is not completed. -/
theorem abandon_pc (t : Thread) (s : State) :
    (abandon t s).1 = (match (thr s t).outstanding with
      | some o => o.pc
      | none => pcOf s t) := by
  unfold abandon; dsimp only
  rw [thr_fillLoad]
  cases (thr s t).outstanding with
  | none => simp [pcOf]
  | some o => rfl

theorem homeEncl_of_only {t : Thread} {s s' : State} (only : OnlyThread t s s') (u : Thread) :
    homeEncl s' u = homeEncl s u := by
  obtain ⟨frame, -⟩ := only
  rw [frame]; rfl

theorem entryAddr_of_only {t : Thread} {s s' : State} (only : OnlyThread t s s') (encl : Bool) (k : Nat) :
    entryAddr s' encl k = entryAddr s encl k := by
  obtain ⟨-, cores, -⟩ := only
  rw [entryAddr, cores]; rfl

theorem inEncl_of_progress {t : Thread} {s s' : State} (only : OnlyThread t s s') (progress : OnlyProgress t s s') :
    inEncl s' t = inEncl s t := by
  unfold OnlyProgress at progress
  rw [inEncl, homeEncl_of_only only, progress]; rfl

/-- Outside a handler an exception's thread is in the handler, at its world's entry, with EPC as given. -/
theorem raiseExc_thr {t : Thread} {s : State} (outside : (thr s t).inInt = false) (k : Exc) (epc : Word) :
    let x := thr (raiseExc t k epc s) t
    x.inInt = true ∧ x.run = .running ∧ x.pc = entryAddr s (inEncl s t) k.entry ∧ x.ext.now.epc = epc ∧
      x.task = (thr s t).task := by
  simp [raiseExc, outside, enterHandler, thr_clearShadow, entryAddr_clearShadow, saveStatus, settleForeign, entryAddr_setThr]

theorem raiseExc_other {t u : Thread} {s : State} (outside : (thr s t).inInt = false) (other : u ≠ t) (k : Exc) (epc : Word) :
    thr (raiseExc t k epc s) u = thr s u := by
  simp [raiseExc, outside, enterHandler, thr_clearShadow, saveStatus, settleForeign, thr_setThr_other _ other]

theorem raiseTile_thr {t : Thread} {s : State} (outside : (thr s t).inInt = false) :
    let x := thr (raiseTile t s) t
    x.inInt = true ∧ x.run = .running ∧ x.pc = entryAddr s (inEncl s t) 4 ∧ x.ext.now.epc = (abandon t s).1 ∧
      x.task = (thr s t).task ∧ ∀ u, u ≠ t → thr (raiseTile t s) u = thr s u := by
  obtain ⟨only, progress⟩ := abandon_only t s
  have world : inEncl (abandon t s).2 t = inEncl s t := inEncl_of_progress only progress
  have address := entryAddr_of_only only (inEncl s t) 4
  obtain ⟨-, -, others, -⟩ := only
  unfold OnlyProgress at progress
  have task : (thr (abandon t s).2 t).task = (thr s t).task := by rw [progress]
  have outside' : (thr (abandon t s).2 t).inInt = false := by rw [progress]; exact outside
  obtain ⟨inInt, run, pc, epc, task'⟩ := raiseExc_thr outside' .tile (abandon t s).1
  rw [world] at pc
  simp only [raiseTile, thr_checkTiles]
  exact ⟨inInt, run, pc.trans address, epc, task'.trans task,
    fun u other => (raiseExc_other outside' other _ _).trans (others u other)⟩

/-! ### ENCL_TILES and POLICY (R365) -/

/-- A tile zeroed and unmarked. -/
def unmarkedTile (x : TileReg) : TileReg := { x with bytes := [], guards := [], marked := false }

theorem tile_setTile (s : State) (t u : Tile) (x : TileReg) : tile (setTile t x s) u = if u = t then x else tile s u :=
  vget_vset s.tile.tiles t u x

/-- One tile's turn in the zeroing of those that `p` names. -/
def zeroIf (p : Nat → Bool) (s : State) (t : Tile) : State :=
  if p t.val then setTile t (unmarkedTile (tile s t)) s else s

theorem zeroTiles_eq (p : Nat → Bool) (s : State) : zeroTiles p s = (fins 16).foldl (zeroIf p) s := rfl

theorem tile_zeroIf (p : Nat → Bool) (s : State) (t u : Tile) :
    tile (zeroIf p s t) u = if u = t ∧ p u.val = true then unmarkedTile (tile s u) else tile s u := by
  unfold zeroIf
  by_cases own : u = t
  · subst own
    by_cases chosen : p u.val = true <;> simp [chosen, tile_setTile]
  · split <;> simp [own, tile_setTile]

theorem tile_foldl_zeroIf (p : Nat → Bool) (u : Tile) (l : List Tile) (s : State) :
    tile (l.foldl (zeroIf p) s) u = if u ∈ l ∧ p u.val = true then unmarkedTile (tile s u) else tile s u := by
  induction l generalizing s with
  | nil => simp
  | cons t l ih =>
    rw [List.foldl_cons, ih, tile_zeroIf]
    by_cases chosen : p u.val = true
    · by_cases own : u = t
      · subst own; simp [chosen, unmarkedTile]
      · simp [own]
    · simp [chosen]

theorem tile_zeroTiles (p : Nat → Bool) (s : State) (u : Tile) :
    tile (zeroTiles p s) u = if p u.val then unmarkedTile (tile s u) else tile s u := by
  have inside : u ∈ fins 16 := List.mem_finRange u
  rw [zeroTiles_eq, tile_foldl_zeroIf]
  simp [inside]

/-- Of the engine the tiles alone change. -/
theorem zeroTiles_tile (p : Nat → Bool) (s : State) :
    (zeroTiles p s).tile = { s.tile with tiles := (zeroTiles p s).tile.tiles } := by
  rw [zeroTiles_eq]
  refine List.foldlRecOn (motive := fun s' : State => s'.tile = { s.tile with tiles := s'.tile.tiles }) (fins 16) _ rfl
    fun s' frame t _ => ?_
  unfold zeroIf
  split
  · rw [setTile, frame]
  · exact frame

theorem eq_of_tile {s s' : State} (h : SameBut_tile s s') : s' = { s with tile := s'.tile } := by
  cases s'; simp_all [SameBut_tile]

/-- ENCL_TILES and POLICY hold what was written. -/
def policyTaken (e : Half) (p : Bool) (s : State) : State :=
  { s with tile := { s.tile with enclTiles := e, policy := p, change := none } }

section
variable {s : State} {e : Half} {p : Bool} (written : s.tile.change = some (e, p))
include written

theorem tilePolicyChange_applies (idle : s.tile.tlq = []) :
    ∃ s', exec .tilePolicyChange s = .next s' ∧ s'.tile.enclTiles = e ∧ s'.tile.policy = p ∧ s'.tile.change = none ∧
      (∀ t, tile s' t = { tile s t with bytes := [], guards := [], marked := false }) ∧ s' = { s with tile := s'.tile } := by
  have ran : exec .tilePolicyChange s = .next (zeroTiles (fun _ => true) (policyTaken e p s)) := by
    simp [execTilePolicyChange, applyPolicy, written, idle, policyTaken]
  have zeroed := tile_zeroTiles (fun _ => true) (policyTaken e p s)
  have settings := zeroTiles_tile (fun _ => true) (policyTaken e p s)
  have frame := eq_of_tile (zeroTiles_same (fun _ => true) (policyTaken e p s))
  generalize zeroTiles (fun _ => true) (policyTaken e p s) = s' at ran zeroed settings frame
  exact ⟨s', ran, by rw [settings]; rfl, by rw [settings]; rfl, by rw [settings]; rfl, zeroed, frame⟩

theorem tilePolicyChange_waits (busy : s.tile.tlq ≠ []) : exec .tilePolicyChange s = .next s := by
  simp [execTilePolicyChange, applyPolicy, written, busy]

end

/-! ### The completion at the head of TLC (R320, R353, R363) -/

section
variable {s : State} {d : TileDone} {rest : List TileDone} (main : mainOn s = true) (head : s.tile.tlc = d :: rest)
include main head

theorem tileCompletion_reads (plain : d.note = none) (fits : d.ovf = false) (running : (thr s d.thread).syncing = false) :
    ∃ s', exec .tileCompletion s = .next s' ∧ s'.tile = { s.tile with tlc := rest } ∧
      s' = { s with tile := s'.tile, clk := s'.clk } := by
  refine ⟨_, (tileCompletion_plain main head plain fits).trans (congrArg _ (settleSync_of_running running)), ?_, ?_⟩
  · exact readTlc_tile ..
  · exact eq_of_clk_tile (readTlc_same ..)

theorem tileCompletion_endsSync (plain : d.note = none) (fits : d.ovf = false) (waits : (thr s d.thread).syncing = true)
    (done : ∀ e ∈ rest, e.thread ≠ d.thread)
    (issued : ∀ e ∈ s.tile.tlq, ∀ en ow f k o, e ≠ .op d.thread en ow f k o) :
    ∃ s', exec .tileCompletion s = .next s' ∧ s'.tile = { s.tile with tlc := rest } ∧
      pcOf s' d.thread = pcOf s d.thread + 4 ∧ (thr s' d.thread).syncing = false ∧
      OnlyThread d.thread s { s' with tile := s.tile, clk := s.clk } := by
  have last : tilePending (readTlc rest s) d.thread = false :=
    tilePending_none (by rw [readTlc_tile]; exact issued) (by rw [readTlc_tile]; exact done)
  refine ⟨_, (tileCompletion_plain main head plain fits).trans (congrArg _ (settleSync_ends waits last)), ?_, ?_, ?_, ?_⟩
  · exact readTlc_tile ..
  · rw [pcOf, thr_setThr_same]; exact wordAddr_add4 _
  · simp
  · exact setThr_only s d.thread _

theorem tileCompletion_notes {n : TileNote} {x : Fin 1024} (note : d.note = some n) (fits : d.ovf = false)
    (running : (thr s d.thread).syncing = false)
    (lets : targetOk s n.encl (flowBay s n.flow) (n.target.toNat % 4096) = true)
    (plain : (flow s (n.target.toNat % 4096)).ready = false) (free : freeDesc s (n.target.toNat % 4096) = some x)
    (credit : 0 < freeCredits (flow s (n.target.toNat % 4096))) :
    ∃ s', exec .tileCompletion s = .next s' ∧ s'.tile = { s.tile with tlc := rest } ∧
      (desc s' x).st = .queued ∧ (desc s' x).flow.toNat = n.target.toNat % 4096 ∧ (desc s' x).src = 5 ∧
      (desc s' x).deadline = 0 ∧
      (desc s' x).payload.toNat =
        n.word.toNat + d.thread.val * 2 ^ 32 + n.flags.toNat * 2 ^ 40 + n.target.toNat / 65536 * 2 ^ 48 ∧
      (flow s' (n.target.toNat % 4096)).taken = (flow s (n.target.toNat % 4096)).taken + 1 ∧ OtherDescs x s s' ∧
      s'.mem = s.mem ∧ s'.cores = s.cores := by
  rw [← freeDesc_readTlc rest] at free
  rw [← flow_readTlc rest] at credit
  have raised := raiseNote_admits (t := d.thread) (s := readTlc rest s) lets plain free credit
  refine ⟨_, (tileCompletion_note main head note fits running).trans (congrArg _ raised), ?_⟩
  rw [desc_admitTask_same, flow_admitTask]
  refine ⟨by simp, rfl, ?_, rfl, rfl, noteDesc_payload d.thread n false, ?_, fun e other => ?_, by simp, by simp⟩
  · exact Nat.mod_mod _ _
  · rw [flow_takeCredit]; rfl
  · exact desc_admitTask_other other _ _ _

theorem tileCompletion_drops {n : TileNote} (note : d.note = some n) (fits : d.ovf = false)
    (running : (thr s d.thread).syncing = false)
    (lets : targetOk s n.encl (flowBay s n.flow) (n.target.toNat % 4096) = true)
    (plain : (flow s (n.target.toNat % 4096)).ready = false)
    (refused : freeDesc s (n.target.toNat % 4096) = none ∨ freeCredits (flow s (n.target.toNat % 4096)) = 0) :
    ∃ s', exec .tileCompletion s = .next s' ∧
      s'.tile = { s.tile with tlc := rest, noteDrops := satInc s.tile.noteDrops } ∧
      s'.drill.descs = s.drill.descs ∧ s'.drill.flows = s.drill.flows ∧ s'.cores = s.cores := by
  rw [← freeDesc_readTlc rest, ← flow_readTlc rest] at refused
  have raised := raiseNote_drops (t := d.thread) (s := readTlc rest s) lets plain refused
  exact ⟨_, (tileCompletion_note main head note fits running).trans (congrArg _ raised), rfl, rfl, rfl, rfl⟩

theorem tileCompletion_overflows {k : Fin 1024 × Half} (plain : d.note = none) (overflows : d.ovf = true)
    (task : d.task = some k) (held : heldTask s d.thread = some k) (run : (thr s d.thread).run = .running)
    (outside : (thr s d.thread).inInt = false) (running : (thr s d.thread).syncing = false) :
    ∃ s', exec .tileCompletion s = .next s' ∧ (thr s' d.thread).inInt = true ∧ (thr s' d.thread).run = .running ∧
      (thr s' d.thread).pc = (if inEncl s d.thread then s.cores.vbaseE else s.cores.vbaseC) + 128 ∧
      (thr s' d.thread).ext.now.epc =
        (match (thr s d.thread).outstanding with
          | some o => o.pc
          | none => pcOf s d.thread) ∧
      (thr s' d.thread).task = (thr s d.thread).task ∧ ∀ u, u ≠ d.thread → thr s' u = thr s u := by
  obtain ⟨inInt, run', pc, epc, task', others⟩ := raiseTile_thr (s := readTlc rest s) outside
  exact ⟨_, tileCompletion_overflow main head plain overflows task held run running, inInt, run', pc,
    epc.trans (abandon_pc ..), task', others⟩

end

/-- Settles O19: the issue by TLQ's room, GEOM by who may write it, TLC's head by what it carries, the policy by TLQ. -/
theorem tileIssueAndCompletion : Obligations.TileIssueAndCompletion := by
  unfold Obligations.TileIssueAndCompletion
  refine ⟨⟨fun s t td ta tb a b runs => ⟨fun room => ?_, fun full => ?_⟩, fun s r t v passes =>
      ⟨geomWrite_enters v passes, geomWrite_refused v passes⟩⟩,
    fun s d rest main head => ⟨tileCompletion_reads main head, tileCompletion_endsSync main head,
      fun n x note fits running => tileCompletion_notes main head note fits running,
      fun n note fits running => tileCompletion_drops main head note fits running,
      fun k => tileCompletion_overflows main head⟩,
    fun s e p written => ⟨tilePolicyChange_applies written, fun busy => ⟨s, tilePolicyChange_waits written busy, rfl⟩⟩⟩
  · refine ⟨entersTlq_of runs (exec_tld ..) ?_ room, entersTlq_of runs (exec_tst ..) ?_ room,
      entersTlq_of runs (exec_tmma ..) ?_ room, entersTlq_of runs (exec_tel ..) ?_ room,
      entersTlq_of runs (exec_tzero ..) rfl room, entersTlq_of runs (exec_tnote ..) ?_ room⟩ <;> simp only [gpr_issue]
  · exact ⟨waitsAtTlq_of runs (exec_tld ..) full, waitsAtTlq_of runs (exec_tst ..) full,
      waitsAtTlq_of runs (exec_tmma ..) full, waitsAtTlq_of runs (exec_tel ..) full,
      waitsAtTlq_of runs (exec_tzero ..) full, waitsAtTlq_of runs (exec_tnote ..) full⟩

end Sys2Proof.Machine
end

section
/-! PROOFS. What an operation of one channel leaves alone: settings that take effect, events raised, what crosses CHWR[f]
(R155, R171, R206, R226). -/

namespace Sys2Proof.Machine

/-! ### Only one channel -/

theorem onlyChannel_refl (n : Chan) (s : State) : OnlyChannel n s s := ⟨rfl, fun _ _ => rfl⟩

theorem onlyChannel_trans {n : Chan} {s s' s'' : State} (h : OnlyChannel n s s') (h' : OnlyChannel n s' s'') :
    OnlyChannel n s s'' := by
  obtain ⟨rest, others⟩ := h
  obtain ⟨rest', others'⟩ := h'
  exact ⟨by rw [rest', rest], fun m other => (others' m other).trans (others m other)⟩

theorem onlyChannel_setChan (s : State) (n : Chan) (c : Channel) : OnlyChannel n s (setChan s n c) :=
  ⟨rfl, fun _ other => chan_setChan_other s other c⟩

theorem settle_onlyChannel (n : Chan) (s : State) : OnlyChannel n s (settle n s) := by
  unfold settle; dsimp only
  split
  · exact onlyChannel_setChan ..
  · exact onlyChannel_refl ..

/-- R206, R226: of its channel, `settle` changes the settings in force alone. -/
theorem chan_settle (n : Chan) (s : State) : ∃ a x, chan (settle n s) n =
    { chan s n with async := { (chan s n).async with now := a }, cs := { (chan s n).cs with now := x } } := by
  unfold settle; dsimp only
  split
  · exact ⟨_, _, chan_setChan_same ..⟩
  · exact ⟨_, _, rfl⟩

theorem dropReply_onlyChannel (n : Chan) (s : State) : OnlyChannel n s (dropReply n s) := by
  unfold dropReply; dsimp only
  split
  · exact onlyChannel_refl ..
  · split
    · exact onlyChannel_setChan ..
    · exact onlyChannel_trans (onlyChannel_setChan ..) (onlyChannel_setChan ..)

/-! ### Only the channels, the drill and the queues' counters -/

theorem onlyChannels_of_same {s s' : State} (h : SameBut_clk_chs_drill s s') : OnlyChannels s s' := by
  unfold OnlyChannels
  cases s; cases s'
  simp only [State.mk.injEq] at h ⊢
  tauto

/-! ### Events and posts -/

theorem onlyCells_chan {s s' : State} (n : Chan) (h : OnlyCells s s') :
    ∃ rx tx, chan s' n = { chan s n with rx := rx, tx := tx } := ⟨_, _, h.rest n⟩

theorem raiseEvent_onlyCells (n : Chan) (e : ChEvent) (s : State) : OnlyCells s (raiseEvent n e s) := by
  unfold raiseEvent; dsimp only
  split
  · exact onlyCells_trans (onlyCells_setChan rfl) (onlyCells_trans (flushHeld_onlyCells ..) (pumpGrants_onlyCells ..))
  · exact onlyCells_of_chs rfl


end Sys2Proof.Machine
end

section
/-! PROOFS. The life of a reply: posts, the deadline, its start, its end, its outcome, and a watch channel's acknowledgement
(R171, R176 to R180, R196, R199, R204, R222, R252). -/

namespace Sys2Proof.Machine

/-! ### A post reaches its channel (R177) -/

section
variable {n : Chan} {q : Byte} {off : BitVec 6} {len : BitVec 7} {data : BitVec 512}

theorem applyPost_unarmed {s : State} (unarmed : (chan s n).reply = none) :
    chan (applyPost n q off len data s) n = { chan s n with
      postRej := (chan s n).postRej || decide ((chan s n).lateSeq ≠ some q)
      postLate := (chan s n).postLate || decide ((chan s n).lateSeq = some q) } := by
  simp only [applyPost, unarmed]
  split
  · next late => simp [late]
  · next early => simp [early]

/-- The post does not fit the reply: another reply's SEQ, no computed reply, or bytes outside its template. -/
def postMisfits (y : Reply) (q : Byte) (off : BitVec 6) (len : BitVec 7) : Prop :=
  y.computed = false ∨ y.seq ≠ q ∨ len = 0 ∨ 64 < len.toNat ∨ y.sendLen.toNat < off.toNat + len.toNat

theorem applyPost_misfits {s : State} {y : Reply} (armed : (chan s n).reply = some y) (misfits : postMisfits y q off len) :
    chan (applyPost n q off len data s) n = { chan s n with postRej := true } := by
  have rejected : ¬ y.computed ∨ y.seq ≠ q ∨ len.toNat = 0 ∨ 64 < len.toNat ∨ y.sendLen.toNat < off.toNat + len.toNat := by
    rcases misfits with fixed | other | empty | long | outside
    · exact .inl (by simp [fixed])
    · exact .inr (.inl other)
    · exact .inr (.inr (.inl (by simp [empty])))
    · exact .inr (.inr (.inr (.inl long)))
    · exact .inr (.inr (.inr (.inr outside)))
  simp only [applyPost, armed]
  rw [if_pos rejected, chan_setChan_same]

/-- A post that fits is late once the deadline has passed, and joins the reply before. -/
theorem applyPost_fits {s : State} {y : Reply} (armed : (chan s n).reply = some y) (computed : y.computed = true)
    (own : y.seq = q) (nonempty : 0 < len.toNat) (inside : off.toNat + len.toNat ≤ y.sendLen.toNat) (short : len.toNat ≤ 64) :
    chan (applyPost n q off len data s) n = if y.deadlinePassed then { chan s n with postLate := true }
      else { chan s n with reply := some { y with
        posted := true, buf := setBytes y.buf off.toNat (bytesOf data 0 len.toNat) } } := by
  have fits : ¬ (¬ y.computed ∨ y.seq ≠ q ∨ len.toNat = 0 ∨ 64 < len.toNat ∨ y.sendLen.toNat < off.toNat + len.toNat) := by
    rintro (fixed | other | empty | long | outside)
    · exact fixed computed
    · exact other own
    all_goals omega
  simp only [applyPost, armed]
  rw [if_neg fits]
  split <;> rw [chan_setChan_same]

variable {s : State} {rest : List ChwrItem} (front : chwrOf s (furrowOf n) = .post n q off len data :: rest)
  (kept : isRetired s n = false) (runs : clockRuns s n = true)
include front kept runs

/-- The front post is applied; before and after it only cells and credits move, of this and of other channels. -/
theorem post_applies : ∃ s1 s', exec (.post n) s = .next s' ∧ OnlyChannels s s' ∧ OnlyCells s s1 ∧
    OnlyCells (applyPost n q off len data s1) s' := by
  have stays : isRetired (popChwr (furrowOf n) rest s) n = false := by rw [isRetired, popChwr_retired, ← isRetired, kept]
  have ran : exec (.post n) s = .next (settleChwr (furrowOf n) rest.length
      (applyPost n q off len data (popChwr (furrowOf n) rest s))) := by
    simp only [exec_post, execPost, front]
    rw [if_pos ⟨trivial, runs⟩, stays]
    rfl
  exact ⟨_, _, ran, onlyChannels_of_same (by simp [SameBut_clk_chs_drill]), popChwr_onlyCells .., settleChwr_onlyCells ..⟩

theorem post_unarmed (unarmed : (chan s n).reply = none) :
    ∃ s', exec (.post n) s = .next s' ∧ OnlyChannels s s' ∧ (chan s' n).reply = none ∧
      (chan s' n).postRej = ((chan s n).postRej || decide ((chan s n).lateSeq ≠ some q)) ∧
      (chan s' n).postLate = ((chan s n).postLate || decide ((chan s n).lateSeq = some q)) := by
  obtain ⟨s1, s', ran, only, before, after⟩ := post_applies front kept runs
  have same := before.rest n
  have put := after.rest n
  rw [applyPost_unarmed (by rw [same]; exact unarmed), same] at put
  exact ⟨s', ran, only, by rw [put]; exact unarmed, by rw [put], by rw [put]⟩

theorem post_misfits {y : Reply} (armed : (chan s n).reply = some y) (misfits : postMisfits y q off len) :
    ∃ s', exec (.post n) s = .next s' ∧ OnlyChannels s s' ∧ (chan s' n).postRej = true ∧
      (chan s' n).reply = (chan s n).reply := by
  obtain ⟨s1, s', ran, only, before, after⟩ := post_applies front kept runs
  have same := before.rest n
  have put := after.rest n
  rw [applyPost_misfits (by rw [same]; exact armed) misfits, same] at put
  exact ⟨s', ran, only, by rw [put], by rw [put]⟩

theorem post_fits {y : Reply} (armed : (chan s n).reply = some y) (computed : y.computed = true) (own : y.seq = q)
    (nonempty : 0 < len.toNat) (inside : off.toNat + len.toNat ≤ y.sendLen.toNat) (short : len.toNat ≤ 64) :
    (y.deadlinePassed = true → ∃ s', exec (.post n) s = .next s' ∧ OnlyChannels s s' ∧ (chan s' n).postLate = true ∧
      (chan s' n).reply = (chan s n).reply) ∧
    (y.deadlinePassed = false → ∃ s', exec (.post n) s = .next s' ∧ OnlyChannels s s' ∧
      (chan s' n).postLate = (chan s n).postLate ∧ (chan s' n).postRej = (chan s n).postRej ∧
      (chan s' n).reply = some { y with
        posted := true, buf := setBytes y.buf off.toNat (bytesOf data 0 len.toNat) }) := by
  obtain ⟨s1, s', ran, only, before, after⟩ := post_applies front kept runs
  have same := before.rest n
  have put := after.rest n
  rw [applyPost_fits (by rw [same]; exact armed) computed own nonempty inside short, same] at put
  refine ⟨fun passed => ⟨s', ran, only, ?_⟩, fun early => ⟨s', ran, only, ?_⟩⟩
  · rw [if_pos passed] at put
    exact ⟨by rw [put], by rw [put]⟩
  · rw [if_neg (by simp [early])] at put
    exact ⟨by rw [put], by rw [put], by rw [put]⟩

end

/-! ### The deadline and the start of a reply (R176, R178, R180, R222) -/

theorem passDeadline_posted {y : Reply} (posted : y.posted = true) : passDeadline y = { y with deadlinePassed := true } := by
  rw [passDeadline, if_pos posted]
  split
  · next passed => cases y; cases passed; rfl
  · rfl

theorem passDeadline_unposted {y : Reply} (early : y.deadlinePassed = false) (unposted : y.posted = false) :
    passDeadline y = { y with deadlinePassed := true, fallback := true, buf := y.fbBuf, len := y.fbLen } := by
  simp [passDeadline, early, unposted]

/-- At the turnaround's end a reply with its post, or one that needs none, stays as it is but for the passed deadline. -/
theorem deadline_keeps {y : Reply} (ready : y.computed = false ∨ y.posted = true) :
    ∃ p, (if y.computed then passDeadline y else y) = { y with deadlinePassed := p } := by
  split
  · next computed => exact ⟨true, passDeadline_posted (ready.resolve_left (by simp [computed]))⟩
  · exact ⟨_, rfl⟩

theorem repeatWord_onlyChannel (n : Chan) (s : State) : OnlyChannel n s (repeatWord n s) :=
  onlyChannel_trans (onlyChannel_setChan ..) (onlyChannel_setChan ..)

theorem repeatWord_reply (n : Chan) (s : State) : (chan (repeatWord n s) n).reply = (chan s n).reply := by
  simp [repeatWord, setCs, setCsFlag]

theorem postedOrRepeat_onlyChannel (n : Chan) (s : State) : OnlyChannel n s (postedOrRepeat n s) := by
  unfold postedOrRepeat; dsimp only
  split
  · exact onlyChannel_setChan ..
  · exact repeatWord_onlyChannel ..

theorem postedOrRepeat_reply (n : Chan) (s : State) : (chan (postedOrRepeat n s) n).reply = (chan s n).reply := by
  unfold postedOrRepeat; dsimp only
  split
  · rw [chan_setChan_same]
  · exact repeatWord_reply ..

/-- Whatever word a slave with an armed reply chooses, the reply keeps its bytes and its place after the turnaround. -/
theorem chooseWord_keeps {n : Chan} {s : State} {y : Reply} (armed : (chan s n).reply = some y) (own : y.fallback = false) :
    OnlyChannel n s (chooseWord n s) ∧
    ∃ z, (chan (chooseWord n s) n).reply = some z ∧ z.buf = y.buf ∧ z.turnEnded = y.turnEnded := by
  unfold chooseWord; dsimp only
  rw [armed]; dsimp only
  split
  · split
    · exact ⟨onlyChannel_trans (onlyChannel_setChan ..) (postedOrRepeat_onlyChannel ..), { y with late := true },
        by rw [postedOrRepeat_reply, chan_setChan_same], rfl, rfl⟩
    · rw [if_neg (by simp [own])]
      exact ⟨onlyChannel_setChan .., { y with sending := true, sent := y.sent + wordBytes (fmtWord (chan s n).cfg.fmt) },
        by rw [chan_setChan_same], rfl, rfl⟩
  · exact ⟨postedOrRepeat_onlyChannel .., y, by rw [postedOrRepeat_reply, armed], rfl, rfl⟩

/-- R222: a reply whose turnaround has ended begins with its first word. -/
theorem chooseWord_begins {n : Chan} {s : State} {y : Reply} (armed : (chan s n).reply = some y) (own : y.fallback = false)
    (ended : y.turnEnded = true) (unsent : y.sent = 0) (nonempty : 0 < y.len.toNat) (free : postedBegun (chan s n) = false) :
    (∃ k, (chan (chooseWord n s) n).reply = some { y with sending := true, sent := k }) ∧
    (chan (chooseWord n s) n).cs.sdo = wordBits (chan s n) (wordFrom (chan s n) (bytesOf y.buf 0 64) 0) := by
  unfold chooseWord; dsimp only
  rw [armed]; dsimp only
  rw [if_pos ⟨ended, by omega⟩, if_neg (by simp [free]), if_neg (by simp [own]), chan_setChan_same]
  exact ⟨⟨_, rfl⟩, by rw [unsent]; rfl⟩

/-- The first bit of a reply that is no fallback leaves: its bits stand on the line, a half-duplex driver is on (R176, R196). -/
theorem beginReply_own {n : Chan} {y : Reply} (own : y.fallback = false) (s : State) :
    beginReply n y s = setChan s n { chan s n with
      reply := some { y with sending := true, turnEnded := true }
      async := beginWire (chan s n) s.now (bytesOf y.buf 0 y.len.toNat) } := by
  simp [beginReply, own]

/-- R196: a half-duplex driver is on once the line begins, whether its lead had begun or not. -/
theorem beginWire_driverOn {c : Channel} (half : c.cfg.func = 2) (now : Nat) (bs : List Byte) :
    driverOn (beginWire c now bs) now = true := by
  unfold beginWire driverOn; dsimp only
  rw [if_pos (decide_eq_true half)]; dsimp only
  split <;> simp

section
variable {s : State} {n : Chan} {y : Reply} (armed : (chan s n).reply = some y) (live : chanLive s n = true)
include armed live

theorem exec_postDeadline_computed (computed : y.computed = true) :
    exec (.postDeadline n) s = .next (setChan s n { chan s n with reply := some (passDeadline y) }) := by
  simp only [exec_postDeadline, execPostDeadline, armed]
  rw [if_pos ⟨computed, live⟩]

theorem postDeadline_passes (computed : y.computed = true) (early : y.deadlinePassed = false) :
    ∃ s', exec (.postDeadline n) s = .next s' ∧ OnlyChannel n s s' ∧
      (y.posted = true → chan s' n = { chan s n with reply := some { y with deadlinePassed := true } }) ∧
      (y.posted = false → chan s' n = { chan s n with reply := some { y with
        deadlinePassed := true, fallback := true, buf := y.fbBuf, len := y.fbLen } }) := by
  refine ⟨_, exec_postDeadline_computed armed live computed, onlyChannel_setChan .., fun posted => ?_, fun unposted => ?_⟩
  · rw [chan_setChan_same, passDeadline_posted posted]
  · rw [chan_setChan_same, passDeadline_unposted early unposted]

variable (awake : (chan s n).async.onSleep = false) (waits : y.turnEnded = false) (idle : y.sending = false)
  (runs : clockRuns s n = true) (ready : y.computed = false ∨ y.posted = true)
include awake waits idle runs ready

/-- What the turnaround's end does, by the function and the transmitter. -/
theorem exec_replyStart_ready (edge : Bool) : ∃ p, exec (.replyStart { chan := n, boundary := edge }) s = .next (
    if (chan s n).cfg.func = 4 then
      let ended := setChan s n { chan s n with reply := some { y with deadlinePassed := p, turnEnded := true } }
      if edge && (chan s n).cs.selActive then chooseWord n ended else ended
    else if (chan s n).tx.busy then
      setChan s n { chan s n with reply := some { y with deadlinePassed := p, turnEnded := true, late := true } }
    else beginReply n { y with deadlinePassed := p }
      (setChan s n { chan s n with reply := some { y with deadlinePassed := p } })) := by
  obtain ⟨p, kept⟩ := deadline_keeps ready
  refine ⟨p, ?_⟩
  simp only [exec_replyStart, execReplyStart, awake, replyStartOp, armed, kept]
  rw [if_neg (by simp), if_neg (by simp [waits, idle, live, runs])]

/-- R180: a frame being sent goes first, and the reply is late. -/
theorem replyStart_busy (serial : (chan s n).cfg.func ≠ 4) (busy : (chan s n).tx.busy = true) (edge : Bool) :
    ∃ s', exec (.replyStart { chan := n, boundary := edge }) s = .next s' ∧ OnlyChannel n s s' ∧
      ∃ z, (chan s' n).reply = some z ∧ z.buf = y.buf ∧ z.turnEnded = true ∧ z.late = true ∧ z.sending = false := by
  obtain ⟨p, ran⟩ := exec_replyStart_ready armed live awake waits idle runs ready edge
  rw [if_neg serial, if_pos busy] at ran
  exact ⟨_, ran, onlyChannel_setChan .., { y with deadlinePassed := p, turnEnded := true, late := true },
    by rw [chan_setChan_same], rfl, rfl, rfl, idle⟩

/-- R176: the reply starts on a free transmitter. -/
theorem replyStart_free (own : y.fallback = false) (serial : (chan s n).cfg.func ≠ 4) (free : (chan s n).tx.busy = false)
    (edge : Bool) :
    ∃ s', exec (.replyStart { chan := n, boundary := edge }) s = .next s' ∧ OnlyChannel n s s' ∧
      (∃ z, (chan s' n).reply = some z ∧ z.buf = y.buf ∧ z.turnEnded = true ∧ z.sending = true) ∧
      (chan s' n).async.wire = frameLine (chan s n) (bytesOf y.buf 0 y.len.toNat) ∧
      ((chan s n).cfg.func = 2 → driverOn (chan s' n).async s.now = true) := by
  obtain ⟨p, ran⟩ := exec_replyStart_ready armed live awake waits idle runs ready edge
  rw [if_neg serial, if_neg (by simp [free]), beginReply_own (by exact own), chan_setChan_same] at ran
  refine ⟨_, ran, onlyChannel_trans (onlyChannel_setChan ..) (onlyChannel_setChan ..), ?_⟩
  rw [chan_setChan_same]
  exact ⟨⟨{ y with deadlinePassed := p, turnEnded := true, sending := true }, rfl, rfl, rfl, rfl⟩, rfl,
    fun half => beginWire_driverOn half ..⟩

/-- R222: a slave's reply waits for its word boundary, and begins there unless a posted frame must end first. -/
theorem replyStart_slave (own : y.fallback = false) (slave : (chan s n).cfg.func = 4) (edge : Bool) :
    ∃ s', exec (.replyStart { chan := n, boundary := edge }) s = .next s' ∧ OnlyChannel n s s' ∧
      ∃ z, (chan s' n).reply = some z ∧ z.buf = y.buf ∧ z.turnEnded = true ∧
        (edge = false ∨ (chan s n).cs.selActive = false → z.sending = false) ∧
        (edge = true → (chan s n).cs.selActive = true → postedBegun (chan s n) = false → y.sent = 0 → 0 < y.len.toNat →
          z.sending = true ∧ (chan s' n).cs.sdo = wordBits (chan s n) (wordFrom (chan s n) (bytesOf y.buf 0 64) 0)) := by
  obtain ⟨p, ran⟩ := exec_replyStart_ready armed live awake waits idle runs ready edge
  rw [if_pos slave] at ran
  let z : Reply := { y with deadlinePassed := p, turnEnded := true }
  let ended : State := setChan s n { chan s n with reply := some z }
  have now : chan ended n = { chan s n with reply := some z } := chan_setChan_same ..
  have waiting : (chan ended n).reply = some z := by rw [now]
  by_cases boundary : edge = true ∧ (chan s n).cs.selActive = true
  · obtain ⟨onEdge, selected⟩ := boundary
    rw [if_pos (by simp [onEdge, selected])] at ran
    obtain ⟨only, x, reply, buf, turned⟩ := chooseWord_keeps waiting own
    refine ⟨_, ran, onlyChannel_trans (onlyChannel_setChan ..) only, x, reply, buf, turned, ?_, ?_⟩
    · intro off; simp [onEdge, selected] at off
    · intro _ _ free unsent nonempty
      obtain ⟨⟨k, sends⟩, sdo⟩ := chooseWord_begins waiting own rfl unsent nonempty (by rw [now]; exact free)
      rw [sends, Option.some.injEq] at reply
      exact ⟨by rw [← reply], by rw [sdo, now]; rfl⟩
  · rw [if_neg (by simpa using boundary)] at ran
    refine ⟨_, ran, onlyChannel_setChan .., z, waiting, rfl, rfl, fun _ => idle, ?_⟩
    intro onEdge selected
    exact absurd ⟨onEdge, selected⟩ boundary

end

/-! ### The end of a reply (R171, R178, R196) -/

theorem reportOutcome_chan (n : Chan) (seq : Byte) (o : ReplyEnd) (s : State) :
    chan (reportOutcome n seq o s) n = { chan s n with outcomes := (chan s n).outcomes ++ [(seq, o)] } := chan_setChan_same ..

/-- What the drill will hear of a reply that went out: nothing of a fallback, which it heard of at its start. -/
def sentOutcome (y : Reply) : List (Byte × ReplyEnd) := if y.computed ∧ ¬ y.fallback then [(y.seq, .sent)] else []

/-- The counters after a reply's last bit. -/
def countReply (y : Reply) (c : ChCounters) : ChCounters :=
  if y.fallback then { c with fallbacks := satInc c.fallbacks } else { c with replies := satInc c.replies }

/-- The reply's end on its channel: no reply, counted, the line at rest, its outcome told; beside it only cells and
settings in force change. -/
theorem endReply_chan (n : Chan) (y : Reply) (s : State) : ∃ rx tx a x,
    let c := { pastReply (chan s n) y with
      cnt := countReply y (chan s n).cnt, outcomes := (chan s n).outcomes ++ sentOutcome y, rx := rx, tx := tx }
    let line := endWire (chan s n) (freqOf s n) s.now
    chan (endReply n y s) n = { c with async := { line with now := a }, cs := { c.cs with now := x } } := by
  let past : Channel := { pastReply (chan s n) y with
    cnt := countReply y (chan s n).cnt, async := endWire (chan s n) (freqOf s n) s.now }
  let s1 := setChan s n past
  let s2 := if y.fallback then s1 else
    raiseEvent n { ch := n, kind := 5, seq := y.seq, late := y.late } (if y.computed then reportOutcome n y.seq .sent s1 else s1)
  have ended : endReply n y s = settle n s2 := rfl
  have told : ∃ rx tx, chan s2 n = { past with outcomes := past.outcomes ++ sentOutcome y, rx := rx, tx := tx } := by
    have one : chan s1 n = past := chan_setChan_same ..
    by_cases fallback : y.fallback = true
    · have : sentOutcome y = [] := if_neg (by simp [fallback])
      refine ⟨past.rx, past.tx, ?_⟩
      simp [s2, fallback, one, this]
    · obtain ⟨rx, tx, raised⟩ := onlyCells_chan n (raiseEvent_onlyCells n { ch := n, kind := 5, seq := y.seq, late := y.late }
        (if y.computed then reportOutcome n y.seq .sent s1 else s1))
      refine ⟨rx, tx, ?_⟩
      simp only [s2, if_neg fallback]
      rw [raised]
      by_cases computed : y.computed = true
      · have : sentOutcome y = [(y.seq, .sent)] := if_pos ⟨computed, fallback⟩
        rw [if_pos computed, reportOutcome_chan, one, this]
      · have : sentOutcome y = [] := if_neg (fun h => computed h.1)
        rw [if_neg computed, one, this, List.append_nil]
  obtain ⟨rx, tx, told⟩ := told
  obtain ⟨a, x, settled⟩ := chan_settle n s2
  exact ⟨rx, tx, a, x, by rw [ended, settled, told]; rfl⟩

/-- R196: LAG, bits 15:8 of ASYNC_DE, passes before a half-duplex driver is off. -/
theorem endWire_driver {c : Channel} (half : c.cfg.func = 2) (f now : Nat) :
    (endWire c f now).driver =
      c.async.driver.map fun d => (d.1, some (now + ticksTime c f (c.async.now.de.toNat / 256 % 256))) := by
  simp [endWire, half, bitsAt, Nat.shiftRight_eq_div_pow]

/-- R180, R183: a reply dropped before its first bit leaves its outcome, if it is a computed one. -/
theorem dropReply_waiting {s : State} {n : Chan} {y : Reply} (armed : (chan s n).reply = some y) (idle : y.sending = false) :
    chan (dropReply n s) n = { pastReply (chan s n) y with outcomes := if y.computed = true
      then (chan s n).outcomes ++ [(y.seq, if y.fallback = true then .fallback else .abandoned)]
      else (chan s n).outcomes } := by
  simp only [dropReply, armed]
  by_cases computed : y.computed = true
  · rw [if_neg (by simp [computed, idle]), if_pos computed, reportOutcome_chan, chan_setChan_same]; rfl
  · rw [if_pos (by simp [computed]), if_neg computed, chan_setChan_same]; rfl

section
variable {s : State} {n : Chan} {y : Reply} (armed : (chan s n).reply = some y) (live : chanLive s n = true)
  (awake : (chan s n).async.onSleep = false)
include armed live awake

theorem replyDone_ends (sending : y.sending = true) (serial : (chan s n).cfg.func ≠ 4) :
    ∃ s', exec (.replyDone n) s = .next s' ∧ OnlyChannels s s' ∧ (chan s' n).reply = none ∧ (chan s' n).async.wire = [] ∧
      ((chan s n).cfg.func = 2 → (chan s' n).async.driver = (chan s n).async.driver.map fun d =>
        (d.1, some (s.now + ticksTime (chan s n) (freqOf s n) ((chan s n).async.now.de.toNat / 256 % 256)))) ∧
      (chan s' n).cnt = countReply y (chan s n).cnt ∧ (chan s' n).outcomes = (chan s n).outcomes ++ sentOutcome y := by
  have ran : exec (.replyDone n) s = .next (endReply n y s) := by
    simp only [exec_replyDone, execReplyDone, awake, armed]
    rw [if_neg (by simp), if_neg (by simp [sending, live]), if_neg serial]
  obtain ⟨rx, tx, a, x, ended⟩ := endReply_chan n y s
  refine ⟨_, ran, onlyChannels_of_same (by simp [SameBut_clk_chs_drill]), ?_⟩
  rw [ended]
  exact ⟨rfl, rfl, fun half => endWire_driver half .., rfl, rfl⟩

/-- R180, R199: a start bit before the turnaround's end abandons the reply of a half-duplex channel. -/
theorem replyAbandon_abandons (half : (chan s n).cfg.func = 2) (waits : y.turnEnded = false) (idle : y.sending = false) :
    ∃ s', exec (.replyAbandon n) s = .next s' ∧ OnlyChannel n s s' ∧ (chan s' n).reply = none ∧
      (chan s' n).async.driver = none ∧ (chan s' n).cnt = { (chan s n).cnt with abandoned := satInc (chan s n).cnt.abandoned } ∧
      (chan s' n).outcomes = if y.computed = true
        then (chan s n).outcomes ++ [(y.seq, if y.fallback = true then .fallback else .abandoned)]
        else (chan s n).outcomes := by
  let c := chan (dropReply n s) n
  let left : State := setChan (dropReply n s) n { c with
    cnt := { c.cnt with abandoned := satInc c.cnt.abandoned }, async := { c.async with driver := none, line := false } }
  have ran : exec (.replyAbandon n) s = .next (settle n left) := by
    simp only [exec_replyAbandon, execReplyAbandon, awake, armed]
    rw [if_neg (by simp), if_pos ⟨half, by simp [waits], by simp [idle], live⟩]
  obtain ⟨a, x, settled⟩ := chan_settle n left
  refine ⟨_, ran, onlyChannel_trans (dropReply_onlyChannel ..) (onlyChannel_trans (onlyChannel_setChan ..)
    (settle_onlyChannel ..)), ?_⟩
  rw [settled, chan_setChan_same, show c = _ from dropReply_waiting armed idle]
  exact ⟨rfl, rfl, rfl, rfl⟩

end

/-! ### A watch channel's acknowledgement in Sleep (R204) -/

section
variable {s : State} {n : Chan} (asleep : (chan s n).async.onSleep = true)
include asleep

theorem replyStart_acknowledges {e : SeedEntry} (turning : (chan s n).async.ack = some .turning)
    (watch : watchEntry s n = some e) (edge : Bool) :
    ∃ s', exec (.replyStart { chan := n, boundary := edge }) s = .next s' ∧ OnlyChannel n s s' ∧
      (chan s' n).async.ack = some .sending ∧ (chan s' n).async.wire = ackLine ((e.data.drop 16).take (e.num 8 1)) ∧
      driverOn (chan s' n).async s.now = true := by
  have ran : exec (.replyStart { chan := n, boundary := edge }) s = .next (startAck n s) := by
    simp only [exec_replyStart, execReplyStart, asleep, if_true]
  simp only [startAck, turning, watch] at ran
  refine ⟨_, ran, onlyChannel_setChan .., ?_⟩
  rw [chan_setChan_same]
  refine ⟨rfl, rfl, ?_⟩
  cases lead : (chan s n).async.driver <;> simp [driverOn]

theorem replyDone_acknowledged (sending : (chan s n).async.ack = some .sending) :
    ∃ s', exec (.replyDone n) s = .next s' ∧ OnlyChannel n s s' ∧ (chan s' n).async.ack = none ∧
      (chan s' n).async.wire = [] ∧ driverOn (chan s' n).async s.now = false := by
  have ran : exec (.replyDone n) s = .next (endAck n s) := by
    simp only [exec_replyDone, execReplyDone, asleep, if_true]
  rw [endAck, if_pos sending] at ran
  refine ⟨_, ran, onlyChannel_setChan .., ?_⟩
  rw [chan_setChan_same]
  refine ⟨rfl, rfl, ?_⟩
  cases lead : (chan s n).async.driver <;> simp [driverOn]

theorem replyAbandon_unacknowledged (turning : (chan s n).async.ack = some .turning) :
    ∃ s', exec (.replyAbandon n) s = .next s' ∧ OnlyChannel n s s' ∧ (chan s' n).async.ack = none ∧
      (chan s' n).async.driver = none ∧ (chan s' n).async.ackAbandoned = satInc (chan s n).async.ackAbandoned := by
  have ran := exec_replyAbandon n s
  rw [execReplyAbandon, if_pos asleep, if_pos turning] at ran
  refine ⟨_, ran, onlyChannel_setChan .., ?_⟩
  rw [chan_setChan_same]
  exact ⟨rfl, rfl, rfl⟩

theorem replyAbandon_ignored (other : (chan s n).async.ack ≠ some .turning) : exec (.replyAbandon n) s = .next s := by
  rw [exec_replyAbandon, execReplyAbandon, if_pos asleep, if_neg other]

end

/-! ### The drill reads an outcome (R252) -/

/-- The descriptor no longer awaits the reply, and a fallback has missed it. -/
def hearOutcome (n : Chan) (q : Byte) (o : ReplyEnd) (x : Desc) : Desc :=
  let left := x.life.awaits.filter fun p => decide (p ≠ (n, q))
  if o = .fallback then { x with
    missed := true, expired := x.expired || decide (x.st = .queued ∨ x.st = .matching)
    life := { x.life with awaits := left, status := worstStatus x.life.status 4 } }
  else { x with life := { x.life with awaits := left } }

section
variable {s : State} {n : Chan} {q : Byte} {o : ReplyEnd} {rest : List (Byte × ReplyEnd)}
  (first : (chan s n).outcomes = (q, o) :: rest) (read : eventWaits s n q = false)
include first read

theorem exec_replyOutcome_first : exec (.replyOutcome n) s = .next (
    let told := setChan s n { chan s n with outcomes := rest }
    match awaitingTask s n q with
    | none => told
    | some d => setDesc told d (hearOutcome n q o (desc s d))) := by
  have same : awaitingTask (setChan s n { chan s n with outcomes := rest }) n q = awaitingTask s n q := rfl
  simp only [exec_replyOutcome, execReplyOutcome, execReplyOutcome.left, first, read, same]
  rw [if_neg (by simp)]
  cases awaitingTask s n q with
  | none => rfl
  | some d => simp only [hearOutcome]; split <;> rfl

theorem replyOutcome_reads :
    ∃ s', exec (.replyOutcome n) s = .next s' ∧ chan s' n = { chan s n with outcomes := rest } ∧
      (∀ m, m ≠ n → chan s' m = chan s m) ∧
      (awaitingTask s n q = none → s'.drill = s.drill) ∧
      (∀ d, awaitingTask s n q = some d → (n, q) ∉ (desc s' d).life.awaits ∧ OtherDescs d s s' ∧
        (o ≠ .fallback → (desc s' d).life.status = (desc s d).life.status) ∧
        (o = .fallback → (desc s' d).missed = true ∧ (desc s' d).life.status = worstStatus (desc s d).life.status 4)) ∧
      s' = { s with chs := s'.chs, drill := s'.drill } := by
  have ran := exec_replyOutcome_first first read
  cases task : awaitingTask s n q with
  | none =>
    rw [task] at ran
    exact ⟨_, ran, chan_setChan_same .., fun m other => chan_setChan_other s other _, fun _ => rfl, nofun, rfl⟩
  | some d =>
    rw [task] at ran
    refine ⟨_, ran, chan_setChan_same .., fun m other => chan_setChan_other s other _, nofun, ?_, rfl⟩
    rintro _ ⟨⟩
    refine ⟨?_, fun e other => desc_setDesc_other _ other _, fun own => ?_, fun fallback => ?_⟩ <;>
      rw [desc_setDesc_same, hearOutcome]
    · split <;> simp
    · rw [if_neg own]
    · rw [if_pos fallback]; exact ⟨rfl, rfl⟩

end

/-- Settles O44: the post by what it finds armed, the reply by its stage, the acknowledgement in Sleep by its stage, the
outcome by the task that awaits it. -/
theorem replyLife : Obligations.ReplyLife := by
  unfold Obligations.ReplyLife
  refine fun s n => ⟨fun q off len data rest front kept runs => ⟨post_unarmed front kept runs,
      fun y armed misfits => post_misfits front kept runs armed misfits,
      fun y armed computed own nonempty inside short => post_fits front kept runs armed computed own nonempty inside short⟩,
    fun y armed live awake => ⟨postDeadline_passes armed live, fun edge waits idle runs ready own => ?_,
      fun sending serial => ?_, replyAbandon_abandons armed live awake⟩,
    fun asleep => ⟨fun e turning watch => replyStart_acknowledges asleep turning watch, replyDone_acknowledged asleep,
      replyAbandon_unacknowledged asleep, replyAbandon_ignored asleep⟩,
    fun q o rest first read => replyOutcome_reads first read⟩
  · by_cases slave : (chan s n).cfg.func = 4
    · obtain ⟨s', ran, only, z, reply, buf, ended, waiting, begins⟩ :=
        replyStart_slave armed live awake waits idle runs ready own slave edge
      exact ⟨s', ran, only, z, reply, buf, ended, fun h => absurd slave h, fun h => absurd slave h, fun _ => waiting,
        fun _ => begins⟩
    · cases busy : (chan s n).tx.busy with
      | true =>
        obtain ⟨s', ran, only, z, reply, buf, ended, late, idle⟩ :=
          replyStart_busy armed live awake waits idle runs ready slave busy edge
        exact ⟨s', ran, only, z, reply, buf, ended, fun _ _ => ⟨late, idle⟩, fun _ => nofun, fun h => absurd h slave,
          fun h => absurd h slave⟩
      | false =>
        obtain ⟨s', ran, only, ⟨z, reply, buf, ended, sending⟩, wire, driver⟩ :=
          replyStart_free armed live awake waits idle runs ready own slave busy edge
        exact ⟨s', ran, only, z, reply, buf, ended, fun _ => nofun, fun _ _ => ⟨sending, wire, driver⟩,
          fun h => absurd h slave, fun h => absurd h slave⟩
  · obtain ⟨s', ran, only, unarmed, wire, driver, cnt, outcomes⟩ := replyDone_ends armed live awake sending serial
    refine ⟨s', ran, only, unarmed, wire, driver, fun fallback => ?_, fun own => ?_⟩ <;> rw [cnt, outcomes]
    · simp [countReply, sentOutcome, fallback]
    · cases computed : y.computed <;> simp [countReply, sentOutcome, own, computed]

end Sys2Proof.Machine
end

section
/-! PROOFS. The transmit post of a pair's odd channel (R164, R169, R183): it is refused whatever the odd channel's own FUNC, which
a reset of the even channel can leave as it was. -/

namespace Sys2Proof.Machine

/-! ### Writes that touch no locked setting (R138, R139) -/

/-- Where every channel keeps its settings, no lock of the seed refuses the write. -/
theorem chanLocked_of_sameSettings {s s' : State} (n : Chan)
    (same : ∀ m, (chan s' m).cfg = (chan s m).cfg ∧ (chan s' m).flow = (chan s m).flow ∧ (chan s' m).rules = (chan s m).rules ∧
      (chan s' m).tpls = (chan s m).tpls ∧ (chan s' m).health = (chan s m).health) : chanLocked s s' n = false := by
  obtain ⟨cfg, flow, rules, tpls, -⟩ := same n
  obtain ⟨-, -, -, -, health⟩ := same (headOf s n)
  simp [chanLocked, cfg, flow, rules, tpls, health]

/-! ### The odd channel's post -/

/-- R164: the odd channel of a pair has no transmit cells, so its owner's post sets TXREJ. -/
theorem txPost_odd_rejected {s : State} {r : Req} {n : Chan} (owner : ownerWrites s r n 0x24 = true)
    (odd : isOddOfPair s n = true) (cells : BitVec 6) (len : BitVec 12) :
    exec (.txPost r n cells len) s = .next (setChan s n { chan s n with txRej := true }) := by
  simp only [ownerWrites, Bool.and_eq_true, Bool.not_eq_true'] at owner
  obtain ⟨⟨passes, owns⟩, kept⟩ := owner
  have stored : chanStore n 0x24 (fld cells 16 ||| fld len 0) s = setChan s n { chan s n with txRej := true } := by
    simp [chanStore, odd]
  have unlocked : ∀ m, chanLocked s (setChan s n { chan s n with txRej := true }) m = false := fun m =>
    chanLocked_of_sameSettings m fun k => by
      rw [chan_setChan]
      split
      · next own => rw [own]; exact ⟨rfl, rfl, rfl, rfl, rfl⟩
      · exact ⟨rfl, rfl, rfl, rfl, rfl⟩
  rw [exec_txPost, execTxPost, chanWrite, owns]
  dsimp only
  rw [tryWrite_open passes, if_neg (by simp [kept]), chanWriteOp, stored, if_neg (by simp [unlocked])]

/-! ### A pair whose odd channel kept its function -/

/-- CHANNEL entry of one half of a master pair owned by bay B0 (R133, R135). -/
def pairEntry (n : Chan) : SeedEntry := ⟨0x03, false, [BitVec.ofNat 8 n.val, 3, 2]⟩

/-- Channels 126 and 127, a master pair in the seed, now two single-ended asynchronous channels of bay B0. -/
def unbonded : State :=
  let async : Channel := { owner := 2, cfg := { func := 1 } }
  setChan (setChan (setFurrow { seed := { recs := [pairEntry 126, pairEntry 127] } } 31 { freq := 1000000 }) 126 async) 127 async

/-- Where no descriptor is in use, a reset has no task to cancel (R183 step 3). -/
theorem cancelChannelTasks_of_blank {s : State} (blank : s.drill.descs = []) (n : Chan) : cancelChannelTasks n s = s := by
  refine List.foldl_fixed' (fun d => ?_) _
  have free : desc s d = {} := by rw [desc, blank]; rfl
  dsimp only
  rw [free]
  exact if_neg (fun h => absurd h.1 (by decide))

/-- Channel 126 within its reset, before its tasks are cancelled (R183). -/
def cleared : State :=
  let s := abandonRx 126 (purgeQueues 126 (dropReply 126 unbonded))
  let c := chan s 126
  dropGrants 126 (setChan s 126 { c with rx := { c.rx with
    held := [], drops := 0, cells := setRxCells .free (c.rx.held.flatMap fun e => e.cells) c.rx.cells } })

/-- The same after B0 has reset channel 126, which has its seed's values again, FUNC 3 among them. -/
def rebonded : State :=
  let s := dropGrants 126 (setChan cleared 126 { chan cleared 126 with tx := {} })
  let s := takeDrive 126 (setChan s 126 (resetValues s 126 (chan s 126)))
  pump (chan s 126).flow.toNat s

theorem quietChannel_unbonded :
    quietChannel 126 unbonded = dropGrants 126 (setChan cleared 126 { chan cleared 126 with tx := {} }) := by
  have idle : cancelChannelTasks 126 cleared = cleared := cancelChannelTasks_of_blank (by decide +kernel) 126
  have staged : quietChannel 126 unbonded = dropGrants 126 (setChan (cancelChannelTasks 126 cleared) 126
      { chan (cancelChannelTasks 126 cleared) 126 with tx := {} }) := rfl
  rw [staged, idle]

theorem resetChannel_unbonded : resetChannel 126 unbonded = rebonded := by
  have alone : group unbonded 126 = [126] := by decide +kernel
  simp only [resetChannel, alone, List.foldl_cons, List.foldl_nil, quietChannel_unbonded]
  rfl

/-- `rebonded` is where B0's write of 0x5C to CH[126].CTL leads. -/
theorem channelReset_unbonded : exec (.channelReset (.bay 0) 126) unbonded = .next rebonded := by
  have off : (chan unbonded 126).en = false := by decide +kernel
  have own : ownsChannel unbonded (.bay 0) (headOf unbonded 126) = true := by decide +kernel
  have kept : isRetired unbonded 126 = false := by decide +kernel
  have stored : chanStore 126 0x4 0x5C unbonded = resetChannel 126 unbonded := by
    have still : writeEn 126 false unbonded = unbonded := by simp [writeEn, off]
    simp [chanStore, bitsAt, still]
  have val : (flag false 31 ||| 0x5C : Word) = 0x5C := by decide
  rw [exec_channelReset, execChannelReset, off, val, chanWrite, own, tryWrite_open rfl, if_neg (by simp [kept]), chanWriteOp,
    stored, resetChannel_unbonded, if_neg (by simp)]

/-- Channel 127 is the odd channel of a pair and has FUNC 1 still; every other premise of a post that fits holds too. -/
theorem rebonded_odd : isOddOfPair rebonded 127 = true ∧ (chan rebonded 127).cfg.func = 1 ∧
    ownerWrites rebonded (.bay 0) 127 0x24 = true ∧ 1 ≤ txFree (chan rebonded 127) ∧ chwrOf rebonded (furrowOf 127) = [] ∧
    clockRuns rebonded 127 = true := by decide +kernel

/-- Refutes O45: a post of one cell that fits is to join the posted frames of any channel with FUNC 1, while the odd channel
of a bonded pair refuses it. Such a channel comes about when the even channel alone, unbonded before, is reset to the FUNC
3 of its seed (R164, R183; `channelReset_unbonded`). -/
theorem not_transmitAndReset : ¬ Obligations.TransmitAndReset := by
  unfold Obligations.TransmitAndReset
  intro h
  obtain ⟨odd, func, owner, free, empty, runs⟩ := rebonded_odd
  obtain ⟨posts, -⟩ := h rebonded 127
  obtain ⟨fits, -⟩ := posts (.bay 0) 1 1 owner (.inl func)
  obtain ⟨s', ran, -, posted, -⟩ := fits (by decide) free (by decide) (by decide) empty runs
  rw [txPost_odd_rejected owner odd] at ran
  rw [← Host.Outcome.next.inj ran, chan_setChan_same] at posted
  exact absurd posted (by simp)

end Sys2Proof.Machine
end

section
/-! PROOFS. The return from a handler and the end of a thread's task (R267, R298, R314, R316, R323). -/

namespace Sys2Proof.Machine

/-! ### RETI in a handler (R314, R323) -/

/-- The thread after RETI: back at EPC with FLAGS from ESTS, its latch kept for the instruction there alone. -/
def afterReti (x : Thr) : Thr :=
  { x with inInt := false, debug := false, dfault := false, pc := x.ext.now.epc &&& ~~~3#32
           flags := x.ext.now.ests.setWidth 4, run := if x.ext.now.ests.getLsbD 31 then .idle else .running
           latch := x.latch.filter fun l => decide (l.1 = x.ext.now.epc), outstanding := none }

theorem thr_returnFrom (t u : Thread) (s : State) :
    thr (returnFrom t s) u = if u = t then afterReti (thr s t) else thr s u := by
  have back : (returnFrom t s).cores = (setThr s t (afterReti (thr s t))).cores := by
    unfold returnFrom afterReti; dsimp only
    cases latch : (thr s t).latch with
    | none => split <;> rfl
    | some l => by_cases here : l.1 = (thr s t).ext.now.epc <;> simp [here, Option.filter]
  rw [thr, back, ← thr, thr_setThr]

/-- In a handler RETI is the return, whatever it tells the tiles, the caches and HLD.HALT. -/
theorem retiOp_returns {t : Thread} {s : State} (inside : (thr s t).inInt = true) :
    (∀ u, thr (retiOp t s) u = if u = t then afterReti (thr s t) else thr s u) ∧ (retiOp t s).mem = s.mem ∧
      (retiOp t s).drill = s.drill := by
  unfold retiOp
  simp only [inside, Bool.not_true, Bool.false_eq_true, if_false]
  split <;> simp [thr_crossDebug, thr_clearHalt, thr_checkTiles, thr_returnFrom]

theorem reti_returns {s : State} {t : Thread} (runs : canRun s t = true) (inside : (thr s t).inInt = true) :
    let n := (thr s t).ext.now
    ∃ s', exec (.reti t) s = .next s' ∧ (thr s' t).inInt = false ∧ pcOf s' t = n.epc &&& 0xFFFFFFFC ∧
      (thr s' t).flags = BitVec.ofNat 4 n.ests.toNat ∧ (thr s' t).run = (if n.ests.getLsbD 31 then .idle else .running) ∧
      (thr s' t).latch = (match (thr s t).latch with
        | some (a, v) => if a = n.epc then some (a, v) else none
        | none => none) ∧
      SameRegs t s s' ∧ (thr s' t).ret = (thr s t).ret ∧ (thr s' t).task = (thr s t).task ∧
      (∀ u, u ≠ t → thr s' u = thr s u) ∧ s'.mem = s.mem ∧ s'.drill = s.drill := by
  obtain ⟨threads, mem, drill⟩ := retiOp_returns (t := t) (s := issue t s) (by rw [thr_issue_same]; exact inside)
  have own := threads t
  rw [if_pos rfl, thr_issue_same] at own
  refine ⟨_, (exec_reti t s).trans (onThread_runs runs), ?_⟩
  simp only [pcOf, SameRegs, own, afterReti]
  refine ⟨trivial, ?_, (BitVec.ofNat_toNat ..).symm, trivial, ?_, ⟨trivial, trivial⟩, trivial, trivial, fun u other => ?_,
    ?_, ?_⟩
  · rw [BitVec.and_assoc, BitVec.and_self]; rfl
  · cases (thr s t).latch with
    | none => rfl
    | some l => simp [Option.filter]
  · rw [threads, if_neg other, thr_issue_other s other]
  · rw [mem]; simp
  · rw [drill]; simp

/-! ### TDONE (R267, R316, R337) -/

theorem thr_sendEnd (t u : Thread) (status : Byte) (s : State) : thr (sendEnd t status s) u = thr s u := by simp [thr]

theorem thr_idleThread_other {t u : Thread} (other : u ≠ t) (s : State) : thr (idleThread t s) u = thr s u :=
  thr_setThr_other s other _

theorem idleThread_idle (t : Thread) (s : State) :
    (thr (idleThread t s) t).run = .idle ∧ (thr (idleThread t s) t).task = none := by
  have own : thr (idleThread t s) t = _ := thr_setThr_same s t _
  rw [own]
  exact ⟨rfl, rfl⟩

theorem towner_idleThread (t u : Thread) (s : State) :
    vget (idleThread t s).guard.towner u = if u = t then 0xFF else vget s.guard.towner u := vget_vset ..

/-- With a task its descriptor is in transit and RET[c] has its end. -/
theorem sendEnd_sends {t : Thread} {d : Fin 1024} {s : State} (task : (thr s t).task = some d) (status : Byte) :
    (desc (sendEnd t status s) d).st = .transit ∧ (∀ e, e ≠ d → desc (sendEnd t status s) e = desc s e) ∧
      vget (sendEnd t status s).drill.ret (coreOf t) =
        vget s.drill.ret (coreOf t) ++ [{ thread := t, desc := d, status := status }] := by
  have sent : (sendEnd t status s).drill = { (setDesc s d { desc s d with st := .transit }).drill with
      ret := vset s.drill.ret (coreOf t) (vget s.drill.ret (coreOf t) ++ [{ thread := t, desc := d, status := status }]) } := by
    simp [sendEnd, task, setDesc]
  have put : ∀ e, desc (sendEnd t status s) e = desc (setDesc s d { desc s d with st := .transit }) e := fun e => by
    rw [desc, sent]; rfl
  refine ⟨?_, fun e other => (put e).trans (desc_setDesc_other s other _), ?_⟩
  · rw [put, desc_setDesc_same]
  · rw [sent]; exact vget_vset_same ..

/-- Without a task the drill ignores the entry. -/
theorem sendEnd_ignored {t : Thread} {s : State} (task : (thr s t).task = none) (status : Byte) :
    (sendEnd t status s).drill = s.drill := by simp [sendEnd, task]

theorem tdone_ends {s : State} {t : Thread} (status : Byte) (runs : canRun s t = true) (outside : (thr s t).inInt = false)
    (commons : (thr s t).stile = none) :
    ∃ s', exec (.tdone t status) s = .next s' ∧ (thr s' t).run = .idle ∧ (thr s' t).task = none ∧
      vget s'.guard.towner t = 0xFF ∧ (∀ u, u ≠ t → thr s' u = thr s u ∧ vget s'.guard.towner u = vget s.guard.towner u) ∧
      s'.mem = s.mem ∧
      (∀ d, (thr s t).task = some d → (desc s' d).st = .transit ∧ (∀ e, e ≠ d → desc s' e = desc s e) ∧
        vget s'.drill.ret (coreOf t) = vget s.drill.ret (coreOf t) ++
          [{ thread := t, desc := d, status := if status = 2 ∨ status = 3 ∨ status = 4 then status else 0 }]) ∧
      ((thr s t).task = none → s'.drill = s.drill) := by
  have ran : exec (.tdone t status) s =
      .next (checkTiles (issue t s) (endTask t (doneStatus status) (issue t s))) := by
    rw [exec_tdone, execTdone, onThread_runs runs, tdoneOp, if_neg (by simp [thr_issue_same, outside, commons])]
  have drill : (checkTiles (issue t s) (endTask t (doneStatus status) (issue t s))).drill =
      (sendEnd t (doneStatus status) (issue t s)).drill := by simp [endTask]
  have issued : (issue t s).drill = s.drill := by simp
  obtain ⟨run, task⟩ := idleThread_idle t (sendEnd t (doneStatus status) (issue t s))
  refine ⟨_, ran, ?_, ?_, ?_, fun u other => ⟨?_, ?_⟩, ?_, fun d holds => ?_, fun none => ?_⟩
  · rw [thr_checkTiles]; exact run
  · rw [thr_checkTiles]; exact task
  · simp [endTask, towner_idleThread]
  · rw [thr_checkTiles, endTask, thr_idleThread_other other, thr_sendEnd, thr_issue_other s other]
  · simp [endTask, towner_idleThread, other]
  · simp [endTask]
  · obtain ⟨transit, others, ret⟩ := sendEnd_sends (s := issue t s) ((task_issue t s).trans holds) (doneStatus status)
    simp only [desc, drill] at transit others ⊢
    rw [issued] at others ret
    exact ⟨transit, others, ret⟩
  · rw [drill, sendEnd_ignored ((task_issue t s).trans none), issued]

/-- Settles O17: RETI is the return alone, TDONE the end of the task and the thread's idleness. -/
theorem returnAndTaskEnd : Obligations.ReturnAndTaskEnd := by
  unfold Obligations.ReturnAndTaskEnd
  exact ⟨fun s t => reti_returns, fun s t status => tdone_ends status⟩

end Sys2Proof.Machine
end

section
/-! PROOFS. What the admission, the release and the withdrawal of a task leave of the drill (R249, R250, R252, R254, R267,
R269). -/

namespace Sys2Proof.Machine

/-! ### Of the drill, the flows alone -/

theorem eq_of_drill {s s' : State} (h : SameBut_drill s s') : s' = { s with drill := s'.drill } := by
  cases s'; simp_all [SameBut_drill]

/-- Of the drill only the flows may change. -/
def OnlyFlows (s s' : State) : Prop := s'.drill = { s.drill with flows := s'.drill.flows }

theorem onlyFlows_of_drill {s s' : State} (h : s'.drill = s.drill) : OnlyFlows s s' := by rw [OnlyFlows, h]

theorem onlyFlows_trans {s s' s'' : State} (h : OnlyFlows s s') (h' : OnlyFlows s' s'') : OnlyFlows s s'' := by
  unfold OnlyFlows at *; rw [h', h]

theorem onlyFlows_setFlow (s : State) (f : Nat) (x : Flow) : OnlyFlows s (setFlow s f x) := rfl

theorem takeCredit_onlyFlows (f : Nat) (s : State) : OnlyFlows s (takeCredit f s) := rfl

theorem grantPass_onlyFlows (f : Nat) (s : State) : OnlyFlows s (grantPass f s) := by
  refine List.foldlRecOn (motive := OnlyFlows s) (fins 128) _ (onlyFlows_of_drill rfl) fun s' h n _ => ?_
  split
  · exact onlyFlows_trans h (onlyFlows_trans (takeCredit_onlyFlows f s') (onlyFlows_of_drill (by simp)))
  · exact h

/-- What every pass of granting keeps, the whole of granting keeps. -/
theorem pump_induction {P : State → Prop} {f : Nat} (pass : ∀ s, P s → P (grantPass f s)) {s : State} (start : P s) :
    P (pump f s) := by
  suffices ∀ k s, P s → P (pumpGrants f k s) from this 64 s start
  intro k
  induction k with
  | zero => exact fun s h => h
  | succ k ih =>
    intro s h
    unfold pumpGrants
    split
    · exact h
    · exact ih _ (pass s h)

theorem pump_onlyFlows (f : Nat) (s : State) : OnlyFlows s (pump f s) :=
  pump_induction (fun s' h => onlyFlows_trans h (grantPass_onlyFlows f s')) (onlyFlows_of_drill rfl)

theorem passTurn_onlyFlows (d : Fin 1024) (s : State) : OnlyFlows s (passTurn d s) := by
  unfold passTurn; dsimp only
  split
  · exact onlyFlows_setFlow ..
  · exact onlyFlows_of_drill rfl

theorem desc_of_onlyFlows {s s' : State} (h : OnlyFlows s s') (d : Fin 1024) : desc s' d = desc s d := by
  rw [desc, h]; rfl

theorem entry_of_onlyFlows {s s' : State} (h : OnlyFlows s s') (e : Nat) : entry s' e = entry s e := by
  rw [entry, h]; rfl

theorem homes_of_onlyFlows {s s' : State} (h : OnlyFlows s s') : s'.drill.enclThreads = s.drill.enclThreads := by rw [h]

theorem homes_setDesc (s : State) (d : Fin 1024) (x : Desc) : (setDesc s d x).drill.enclThreads = s.drill.enclThreads := rfl

/-! ### A task admitted or queued (R249, R250) -/

theorem notePeak_drill (p : BitVec 3) (s : State) :
    (notePeak p s).drill = { s.drill with peak := (notePeak p s).drill.peak } := by
  unfold notePeak; dsimp only
  split <;> rfl

theorem queueTask_drill (d : Fin 1024) (s : State) :
    (queueTask d s).drill = { s.drill with descs := (queueTask d s).drill.descs, peak := (queueTask d s).drill.peak } := by
  rw [queueTask, notePeak_drill]; rfl

theorem desc_queueTask (d e : Fin 1024) (s : State) : desc (queueTask d s) e = if e = d then { desc s d with
    st := .queued, life := { (desc s d).life with readyAt := s.drill.time.toNat, boost := 0 } } else desc s e := by
  rw [queueTask, desc_notePeak, desc_setDesc]

theorem entry_queueTask (d : Fin 1024) (e : Nat) (s : State) : entry (queueTask d s) e = entry s e := by
  rw [entry, queueTask_drill]; rfl

theorem admitTask_drill (f : Nat) (d : Fin 1024) (x : Desc) (s : State) :
    (admitTask f d x s).drill = { s.drill with
      flows := (admitTask f d x s).drill.flows, descs := (admitTask f d x s).drill.descs
      peak := (admitTask f d x s).drill.peak } := by
  rw [admitTask, queueTask_drill]; rfl

/-! ### A task's release (R254, R267, R268) -/

/-- No emission waits for the release of the descriptor's task. -/
def childless (s : State) (d : Fin 1024) : Prop := ∀ c, (desc s c).life.parent ≠ some d

theorem enterChildren_childless {s : State} {d : Fin 1024} (alone : childless s d) : enterChildren d s = s :=
  List.foldl_fixed' (fun c => if_neg fun h => alone c h.2) _

/-- The descriptor is free, and of the drill's other parts its entry and the flows alone may change. -/
structure Withdrawn (d : Fin 1024) (s s' : State) : Prop where
  descs : ∀ e, desc s' e = if e = d then {} else desc s e
  freed : (desc s d).entry ≠ 0xFFFF → (entry s' (desc s d).entry.toNat).st = .free
  homes : s'.drill.enclThreads = s.drill.enclThreads

/-- The entry of a task is freed with it. -/
def freeEntryOf (x : Desc) (s : State) : State := if x.entry = 0xFFFF then s else setEntry s x.entry.toNat {}

/-- A release before the emissions that waited for it enter their flows: entry, credit and descriptor. -/
def vacated (x : Desc) (d : Fin 1024) (s : State) : State :=
  let fl := flow (freeEntryOf x s) x.flow.toNat
  setDesc (setFlow (freeEntryOf x s) x.flow.toNat { consumeOrder x.order fl with taken := fl.taken - 1 }) d {}

theorem retireTask_eq (x : Desc) (d : Fin 1024) (s : State) : retireTask x d s =
    pump x.flow.toNat (enterChildren d (vacated x d (returnCells x.life.cells s))) := rfl

theorem desc_vacated (x : Desc) (d e : Fin 1024) (s : State) : desc (vacated x d s) e = if e = d then {} else desc s e := by
  have before : desc (freeEntryOf x s) e = desc s e := by
    unfold freeEntryOf
    split <;> rfl
  rw [vacated, desc_setDesc, desc_setFlow, before]

theorem entry_vacated {x : Desc} (attached : x.entry ≠ 0xFFFF) (d : Fin 1024) (s : State) :
    entry (vacated x d s) x.entry.toNat = {} := by
  rw [vacated, entry_setDesc, entry_setFlow, freeEntryOf, if_neg attached, entry_setEntry_same]

theorem vacated_homes (x : Desc) (d : Fin 1024) (s : State) : (vacated x d s).drill.enclThreads = s.drill.enclThreads := by
  unfold vacated freeEntryOf
  split <;> rfl

theorem vacated_withdraws {s s' : State} (d : Fin 1024) (same : s'.drill = s.drill) :
    Withdrawn d s (vacated (desc s d) d s') where
  descs e := by rw [desc_vacated, desc, same]; rfl
  freed attached := by rw [entry_vacated attached]
  homes := by rw [vacated_homes, same]

section
variable {s s' s'' : State} {d : Fin 1024} (left : Withdrawn d s s')
include left

theorem childless_of_withdrawn (alone : childless s d) : childless s' d := fun c => by
  rw [left.descs]
  split
  · exact nofun
  · exact alone c

theorem withdrawn_of_onlyFlows (flows : OnlyFlows s' s'') : Withdrawn d s s'' where
  descs e := (desc_of_onlyFlows flows e).trans (left.descs e)
  freed attached := by rw [entry_of_onlyFlows flows, left.freed attached]
  homes := (homes_of_onlyFlows flows).trans left.homes

end

theorem retireTask_withdraws {s s' : State} {d : Fin 1024} (alone : childless s d) (same : s'.drill = s.drill) :
    Withdrawn d s (retireTask (desc s d) d s') := by
  have left : Withdrawn d s (vacated (desc s d) d (returnCells (desc s d).life.cells s')) :=
    vacated_withdraws d (by simp [same])
  rw [retireTask_eq, enterChildren_childless (childless_of_withdrawn left alone)]
  exact withdrawn_of_onlyFlows left (pump_onlyFlows ..)

theorem releaseDesc_withdraws {s : State} {d : Fin 1024} (alone : childless s d) : Withdrawn d s (releaseDesc d s) := by
  rw [releaseDesc_eq]
  exact retireTask_withdraws alone (by simp [endCommands])

/-- The task with a status reported by R15. -/
def withStatus (status : Byte) (x : Desc) : Desc :=
  { x with life := { x.life with status := worstStatus x.life.status status } }

theorem cancelDesc_eq (d : Fin 1024) (status : Byte) (s : State) :
    cancelDesc d status s = releaseDesc d (setDesc (passTurn d s) d (withStatus status (desc s d))) := rfl

/-- A task withdrawn before its dispatch (R253, R269). -/
theorem cancelDesc_withdraws {s : State} {d : Fin 1024} (alone : childless s d) (status : Byte) :
    Withdrawn d s (cancelDesc d status s) := by
  have passed := passTurn_onlyFlows d s
  have marked : ∀ e, desc (setDesc (passTurn d s) d (withStatus status (desc s d))) e =
      if e = d then withStatus status (desc s d) else desc s e := fun e => by rw [desc_setDesc, desc_of_onlyFlows passed]
  have alone' : childless (setDesc (passTurn d s) d (withStatus status (desc s d))) d := fun c => by
    rw [marked]
    split
    · exact alone d
    · exact alone c
  obtain ⟨descs, freed, homes⟩ := releaseDesc_withdraws alone'
  have entry : (withStatus status (desc s d)).entry = (desc s d).entry := rfl
  rw [desc_setDesc_same, entry] at freed
  rw [homes_setDesc, homes_of_onlyFlows passed] at homes
  rw [cancelDesc_eq]
  refine ⟨fun e => ?_, freed, homes⟩
  rw [descs, marked]
  split <;> rfl

end Sys2Proof.Machine
end

section
/-! PROOFS. What a drill request leaves of its thread, and the requests: TEMIT and TCANCEL (R249, R268, R269, R317). -/

namespace Sys2Proof.Machine

/-! ### A drill request of a thread (R317, R318) -/

/-- The answer is in rd and the thread at its next instruction; the drill and the memories are as the request leaves them
in `r`. -/
structure Answered (t : Thread) (rd : Gpr) (v : Word) (s r s' : State) : Prop where
  value : gpr s' t rd = if rd = 0 then 0 else v
  pc : pcOf s' t = pcOf s t + 4
  others : ∀ u, u ≠ t → thr s' u = thr s u
  mem : s'.mem = r.mem
  drill : s'.drill = r.drill
  regs : SameRegsBut t rd s s'
  status : SameStatus t s s'

theorem onEnclBank_congr {s s' : State} (cores : s'.cores = s.cores) (homes : s'.drill.enclThreads = s.drill.enclThreads)
    (t : Thread) : onEnclBank s' t = onEnclBank s t := by
  rw [onEnclBank, homeEncl, homes, thr, cores]; rfl

theorem gpr_congr {s s' : State} (cores : s'.cores = s.cores) (homes : s'.drill.enclThreads = s.drill.enclThreads)
    (t : Thread) (q : Gpr) : gpr s' t q = gpr s t q := by
  rw [gpr, onEnclBank_congr cores homes, thr, cores]; rfl

/-- A request whose answer waits in no latch. -/
theorem request_answered {c : Instr} {t : Thread} {rd : Gpr} {s r : State} {v : Word} {act : State → State → Word × State}
    (runs : canRun s t = true) (fresh : latched s t = none)
    (form : exec c s = onThread t (fun s => awaited t rd (act s) s) s)
    (answer : act (issue t s) (advance t (issue t s)) = (v, r)) (cores : r.cores = (advance t (issue t s)).cores)
    (homes : r.drill.enclThreads = s.drill.enclThreads) : ∃ s', exec c s = .next s' ∧ Answered t rd v s r s' := by
  have issued : (advance t (issue t s)).drill.enclThreads = s.drill.enclThreads := by simp [advance, setPc]
  have read := gpr_congr cores (homes.trans issued.symm) t
  have bank : onEnclBank r t = onEnclBank s t :=
    (onEnclBank_congr cores (homes.trans issued.symm) t).trans (by simp [advance])
  have threads : ∀ u, thr r u = thr (advance t (issue t s)) u := fun u => by rw [thr, cores]; rfl
  let o : Outstanding := { pc := pcOf (issue t s) t, rd := rd, old := gpr (issue t s) t rd, result := v, latched := true }
  let x : Thr := { thr (setGpr t rd v r) t with outstanding := some o }
  have ran : exec c s = .next (setThr (setGpr t rd v r) t x) := by
    rw [form, onThread_runs runs, awaited, latched_issue, fresh]
    dsimp only
    rw [answer]
  have kept : ∀ q, gpr (setThr (setGpr t rd v r) t x) t q = gpr (setGpr t rd v r) t q :=
    fun q => gpr_setThr _ t t q x rfl rfl rfl
  refine ⟨_, ran, ?_, ?_, fun u other => ?_, by simp [setThr], by simp [setThr], ⟨fun q other => ?_, ?_⟩, ?_⟩
  · exact (kept rd).trans (gpr_setGpr_same ..)
  · have pc : pcOf (setThr (setGpr t rd v r) t x) t = pcOf (setGpr t rd v r) t := by simp [pcOf, x]
    have before : pcOf r t = pcOf (advance t (issue t s)) t := by simp only [pcOf, threads]
    rw [pc, pcOf_setGpr, before, pcOf_advance, pcOf_issue]; rfl
  · rw [thr_setThr_other _ other, thr_setGpr_other _ other, threads, thr_advance_other _ other, thr_issue_other s other]
  · rw [kept, gpr_setGpr_other _ t t rd q v (.inr other), read, gpr_advance, gpr_issue]
  · have bankKept := setGpr_otherBank t rd v r
    rw [bank] at bankKept
    rw [thr_setThr_same]
    split
    · next encl => simpa [encl, threads, advance] using bankKept
    · next commons => simpa [commons, threads, advance] using bankKept
  · have flags : (thr (setGpr t rd v r) t).flags = (thr s t).flags := by rw [flags_setGpr, threads]; simp [advance]
    have ret : (thr (setGpr t rd v r) t).ret = (thr s t).ret := by rw [ret_setGpr, threads]; simp [advance]
    have latch : (thr (setGpr t rd v r) t).latch = (thr s t).latch := by rw [latch_setGpr, threads]; simp [advance]
    rw [SameStatus, thr_setThr_same]
    exact ⟨flags, ret, latch⟩

/-- The state in which the drill answers a thread's request: issued, and through RET[c] (R155). -/
def asked (t : Thread) (s : State) : State := qPass (84 + (coreOf t).val) (advance t (issue t s))

section
variable (t : Thread) (s : State)

theorem asked_eq : qPass (84 + (coreOf t).val) (advance t (issue t s)) = asked t s := rfl
theorem asked_cores : (asked t s).cores = (advance t (issue t s)).cores := by simp [asked]
theorem asked_drill : (asked t s).drill = s.drill := by simp [asked, advance, setPc]
theorem asked_mem : (asked t s).mem = s.mem := by simp [asked, advance, setPc]
theorem flow_asked (f : Nat) : flow (asked t s) f = flow s f := by rw [flow, asked_drill]; rfl
theorem desc_asked (d : Fin 1024) : desc (asked t s) d = desc s d := by rw [desc, asked_drill]; rfl
theorem entry_asked (e : Nat) : entry (asked t s) e = entry s e := by rw [entry, asked_drill]; rfl
theorem freeDesc_asked (f : Nat) : freeDesc (asked t s) f = freeDesc s f := by simp only [freeDesc, desc_asked]
theorem drainRefuses_asked : drainRefuses (asked t s) = drainRefuses s := by simp [drainRefuses, asked, advance, setPc]
theorem inEncl_asked : inEncl (asked t s) t = inEncl s t :=
  (inEncl_qPass ..).trans ((inEncl_advance ..).trans (inEncl_issue ..))
theorem task_asked : (thr (asked t s) t).task = (thr s t).task := by
  have advanced : (thr (asked t s) t).task = (thr (advance t (issue t s)) t).task := by rw [thr, asked_cores]; rfl
  rw [advanced, thr_advance_same, thr_issue_same]
theorem taskFlow_asked : taskFlow (asked t s) t = taskFlow s t := by simp only [taskFlow, task_asked, desc_asked]
theorem orderedParent_asked : orderedParent (asked t s) t = orderedParent s t := by
  simp only [orderedParent, task_asked, desc_asked, flow_asked]
theorem oldestEntry_asked (f : Nat) (p : MatchEntry → Bool) : oldestEntry (asked t s) f p = oldestEntry s f p := by
  simp only [oldestEntry, entry_asked]
theorem targetOk_asked (encl : Bool) (bay : Byte) (f : Nat) : targetOk (asked t s) encl bay f = targetOk s encl bay f := by
  simp only [targetOk, flow_asked]
theorem flowBay_asked (f : Option (BitVec 12)) : flowBay (asked t s) f = flowBay s f := by
  cases f with
  | none => rfl
  | some f => simp only [flowBay, flow_asked]

end

/-! ### TEMIT (R249, R268) -/

/-- The words of a packed list, the first lowest. -/
theorem packed_word (g : Gpr → Word) (l : List Gpr) {k : Nat} (inside : k < l.length) :
    l.foldr (fun r acc => acc * 2 ^ 32 + (g r).toNat) 0 / 2 ^ (32 * k) % 2 ^ 32 = (g l[k]).toNat := by
  induction l generalizing k with
  | nil => simp at inside
  | cons r l ih =>
    have low := (g r).isLt
    cases k with
    | zero => simp only [List.foldr_cons, List.getElem_cons_zero]; omega
    | succ k =>
      have shift : 2 ^ (32 * (k + 1)) = 2 ^ 32 * 2 ^ (32 * k) := by rw [← Nat.pow_add]; congr 1; omega
      have high : (l.foldr (fun r acc => acc * 2 ^ 32 + (g r).toNat) 0 * 2 ^ 32 + (g r).toNat) / 2 ^ 32 =
          l.foldr (fun r acc => acc * 2 ^ 32 + (g r).toNat) 0 := by omega
      rw [List.foldr_cons, shift, ← Nat.div_div_eq_div_mul, high, List.getElem_cons_succ]
      exact ih (by simpa using inside)

theorem extractLsb'_ofNat_word {w k : Nat} (inside : 32 * k + 32 ≤ w) (n : Nat) :
    ((BitVec.ofNat w n).extractLsb' (32 * k) 32).toNat = n / 2 ^ (32 * k) % 2 ^ 32 := by
  have split : 2 ^ w = 2 ^ (32 * k) * 2 ^ (w - 32 * k) := by rw [← Nat.pow_add]; congr 1; omega
  rw [BitVec.extractLsb'_toNat, BitVec.toNat_ofNat, Nat.shiftRight_eq_div_pow, split, Nat.mod_mul_right_div_self,
    Nat.mod_mod_of_dvd _ (Nat.pow_dvd_pow 2 (by omega))]

/-- Word k of the payload is g(20 + k). -/
theorem emitPayload_word (s : State) (t : Thread) (k : Fin 10) :
    (emitPayload s t).extractLsb' (32 * k.val) 32 = gpr s t (BitVec.ofNat 5 (20 + k.val)) := by
  let regs : List Gpr := [20, 21, 22, 23, 24, 25, 26, 27, 28, 29]
  have packed : emitPayload s t = BitVec.ofNat 320 (regs.foldr (fun r acc => acc * 2 ^ 32 + (gpr s t r).toNat) 0) := rfl
  have reg : regs[k.val]'k.isLt = BitVec.ofNat 5 (20 + k.val) := by revert k; decide
  have word := packed_word (gpr s t) regs k.isLt
  apply BitVec.eq_of_toNat_eq
  rw [packed, extractLsb'_ofNat_word (by omega), word, reg]

/-- The task that an emission to a priority-queue flow raises. -/
def emission (payload : BitVec 320) : Desc := { src := 6, payload := payload }

/-- TEMIT's answer to what an admission came to. -/
def admitAnswer : Admit × State → Word × State
  | (.refused, s) => (1, s)
  | (_, s) => (0, s)

section
variable {s : State} {t : Thread} {w : Word}
  (lets : targetOk s (inEncl s t) (flowBay s (taskFlow s t)) (w.toNat % 4096) = true)
  (plain : (flow s (w.toNat % 4096)).ready = false) (awake : drainRefuses s = false) (single : orderedParent s t = none)
include lets plain awake single

/-- An emission that R268 lets through asks its flow for admission. -/
theorem emitAnswer_asks (payload : BitVec 320) : emitAnswer t w payload (advance t (issue t s)) =
    admitAnswer (admitTagged (w.toNat % 4096) false (targetTag w) (targetIndex w) (emission payload) (asked t s)) := by
  simp only [emitAnswer, targetFlow_eq, asked_eq, inEncl_asked, taskFlow_asked, flowBay_asked, targetOk_asked, lets,
    indexOk, flow_asked, plain, drainRefuses_asked, awake, orderedParent_asked, single]
  rfl

/-- With a free descriptor and a credit the emission enters its flow. -/
theorem emitAnswer_admits {d : Fin 1024} (free : freeDesc s (w.toNat % 4096) = some d)
    (credit : 0 < freeCredits (flow s (w.toNat % 4096))) (payload : BitVec 320) :
    emitAnswer t w payload (advance t (issue t s)) =
      (0, admitTask (w.toNat % 4096) d (emission payload) (takeCredit (w.toNat % 4096) (asked t s))) := by
  rw [emitAnswer_asks lets plain awake single, admitTagged]
  simp [flow_asked, plain, freeDesc_asked, free, credit, admitAnswer]

/-- Without one of them it is refused and counted. -/
theorem emitAnswer_refuses (refused : freeDesc s (w.toNat % 4096) = none ∨ freeCredits (flow s (w.toNat % 4096)) = 0)
    (payload : BitVec 320) :
    emitAnswer t w payload (advance t (issue t s)) = (1, countRefusal (w.toNat % 4096) (asked t s)) := by
  rw [emitAnswer_asks lets plain awake single, admitTagged]
  rcases refused with noDesc | noCredit
  · simp [flow_asked, plain, freeDesc_asked, noDesc, admitAnswer]
  · simp [flow_asked, plain, noCredit, admitAnswer]

end

section
variable {s : State} {t : Thread} {rd a : Gpr} (runs : canRun s t = true) (fresh : latched s t = none)
  (lets : targetOk s (inEncl s t) (flowBay s (taskFlow s t)) ((gpr s t a).toNat % 4096) = true)
  (plain : (flow s ((gpr s t a).toNat % 4096)).ready = false) (awake : drainRefuses s = false)
  (single : orderedParent s t = none)
include runs fresh lets plain awake single

theorem temit_admits {d : Fin 1024} (free : freeDesc s ((gpr s t a).toNat % 4096) = some d)
    (credit : 0 < freeCredits (flow s ((gpr s t a).toNat % 4096))) :
    let f := (gpr s t a).toNat % 4096
    ∃ s', exec (.temit t rd a) s = .next s' ∧ gpr s' t rd = 0 ∧ pcOf s' t = pcOf s t + 4 ∧
      (desc s' d).st = .queued ∧ (desc s' d).flow.toNat = f ∧ (desc s' d).src = 6 ∧
      (desc s' d).order = (flow s f).nextOrder ∧
      (∀ k : Fin 10, (desc s' d).payload.extractLsb' (32 * k.val) 32 = gpr s t (BitVec.ofNat 5 (20 + k.val))) ∧
      (flow s' f).taken = (flow s f).taken + 1 ∧ OtherDescs d s s' ∧
      (∀ u, u ≠ t → thr s' u = thr s u) ∧ s'.mem = s.mem ∧ SameRegsBut t rd s s' ∧ SameStatus t s s' := by
  intro f
  let r := admitTask f d (emission (emitPayload (issue t s) t)) (takeCredit f (asked t s))
  have answer : emitAnswer t (gpr (issue t s) t a) (emitPayload (issue t s) t) (advance t (issue t s)) = (0, r) := by
    rw [gpr_issue]; exact emitAnswer_admits lets plain awake single free credit _
  have homes : r.drill.enclThreads = s.drill.enclThreads := by
    simp only [r]; rw [admitTask_drill, homes_of_onlyFlows (takeCredit_onlyFlows ..), asked_drill]
  have cores : r.cores = (advance t (issue t s)).cores := by simp [r, asked_cores]
  obtain ⟨s', ran, done⟩ := request_answered runs fresh (exec_temit t rd a s)
    (act := fun s => emitAnswer t (gpr s t a) (emitPayload s t)) answer cores homes
  have descs : ∀ e, desc s' e = desc r e := fun e => by rw [desc, done.drill]; rfl
  have own := (descs d).trans (desc_admitTask_same ..)
  refine ⟨s', ran, ?_, done.pc, ?_, ?_, ?_, ?_, fun k => ?_, ?_, fun e other => ?_, done.others, ?_, done.regs, done.status⟩
  · simpa using done.value
  · rw [own]
  · rw [own]; exact Nat.mod_mod _ _
  · rw [own]; rfl
  · rw [own, flow_takeCredit, flow_asked]
  · rw [own]
    exact (emitPayload_word _ t k).trans (gpr_issue ..)
  · have flow' : flow s' f = flow r f := by rw [flow, done.drill]; rfl
    rw [flow', flow_admitTask, flow_takeCredit, flow_asked]
  · rw [descs, desc_admitTask_other other, desc_of_onlyFlows (takeCredit_onlyFlows ..), desc_asked]
  · rw [done.mem]; simp [r, asked_mem]

theorem temit_refuses (refused : freeDesc s ((gpr s t a).toNat % 4096) = none ∨
      freeCredits (flow s ((gpr s t a).toNat % 4096)) = 0) :
    ∃ s', exec (.temit t rd a) s = .next s' ∧ gpr s' t rd = (if rd = 0 then 0 else 1) ∧ pcOf s' t = pcOf s t + 4 ∧
      s'.drill.descs = s.drill.descs ∧ s'.drill.flows = s.drill.flows ∧ s'.drill.entries = s.drill.entries ∧
      (∀ u, u ≠ t → thr s' u = thr s u) ∧ s'.mem = s.mem ∧ SameRegsBut t rd s s' ∧ SameStatus t s s' := by
  let r := countRefusal ((gpr s t a).toNat % 4096) (asked t s)
  have answer : emitAnswer t (gpr (issue t s) t a) (emitPayload (issue t s) t) (advance t (issue t s)) = (1, r) := by
    rw [gpr_issue]; exact emitAnswer_refuses lets plain awake single refused _
  have drill : r.drill = { s.drill with shed := r.drill.shed } := by simp only [r, countRefusal]; rw [asked_drill]
  obtain ⟨s', ran, done⟩ := request_answered runs fresh (exec_temit t rd a s)
    (act := fun s => emitAnswer t (gpr s t a) (emitPayload s t)) answer (asked_cores t s) (by rw [drill])
  refine ⟨s', ran, done.value, done.pc, ?_, ?_, ?_, done.others, done.mem.trans (asked_mem t s), done.regs, done.status⟩
  all_goals rw [done.drill, drill]

end

/-! ### TCANCEL (R269) -/

section
variable {s : State} {t : Thread} {rd a : Gpr} (runs : canRun s t = true) (fresh : latched s t = none)
include runs fresh

/-- A cancel that withdraws the descriptor's task. -/
theorem cancel_withdraws {c : Instr} {act : State → State → Word × State} {d : Fin 1024} (alone : childless s d)
    (form : exec c s = onThread t (fun s => awaited t rd (act s) s) s)
    (answer : act (issue t s) (advance t (issue t s)) = (0, cancelDesc d 2 (asked t s))) :
    ∃ s', exec c s = .next s' ∧ gpr s' t rd = 0 ∧ pcOf s' t = pcOf s t + 4 ∧ (desc s' d).st = .free ∧ OtherDescs d s s' ∧
      (∀ u, u ≠ t → thr s' u = thr s u) ∧ s'.mem = s.mem ∧
      ((desc s d).entry ≠ 0xFFFF → (entry s' (desc s d).entry.toNat).st = .free) := by
  have alone' : childless (asked t s) d := fun c => by rw [desc_asked]; exact alone c
  obtain ⟨descs, freed, homes⟩ := cancelDesc_withdraws alone' 2
  rw [asked_drill] at homes
  have cores : (cancelDesc d 2 (asked t s)).cores = (advance t (issue t s)).cores := by simp [asked_cores]
  obtain ⟨s', ran, done⟩ := request_answered runs fresh form answer cores homes
  have descs' : ∀ e, desc s' e = if e = d then {} else desc s e := fun e => by
    rw [desc, done.drill]; exact (descs e).trans (by rw [desc_asked])
  refine ⟨s', ran, by simpa using done.value, done.pc, ?_, fun e other => ?_, done.others, ?_, fun attached => ?_⟩
  · rw [descs', if_pos rfl]
  · rw [descs', if_neg other]
  · rw [done.mem]; simp [asked_mem]
  · rw [desc_asked] at freed
    rw [entry, done.drill]; exact freed attached

/-- A cancel that finds nothing to withdraw. -/
theorem cancel_finds_none {c : Instr} {act : State → State → Word × State}
    (form : exec c s = onThread t (fun s => awaited t rd (act s) s) s)
    (answer : act (issue t s) (advance t (issue t s)) = (1, asked t s)) :
    ∃ s', exec c s = .next s' ∧ gpr s' t rd = (if rd = 0 then 0 else 1) ∧ pcOf s' t = pcOf s t + 4 ∧ s'.drill = s.drill ∧
      (∀ u, u ≠ t → thr s' u = thr s u) ∧ s'.mem = s.mem := by
  obtain ⟨s', ran, done⟩ := request_answered runs fresh form answer (asked_cores t s) (by rw [asked_drill])
  exact ⟨s', ran, done.value, done.pc, done.drill.trans (asked_drill t s), done.others, done.mem.trans (asked_mem t s)⟩

end

section
variable {s : State} {t : Thread} {w : Word} {d : Fin 1024} (named : d.val = w.toNat % 1024)
  (world : (flow s (desc s d).flow.toNat).world = inEncl s t)
include named

theorem named_desc : Fin.ofNat 1024 (bitsAt w 0 10) = d := Fin.ext (by simp [bitsAt, named])

include world

theorem cancelAnswer_queued (queued : (desc s d).st = .queued) :
    cancelAnswer t w (advance t (issue t s)) = (0, cancelDesc d 2 (asked t s)) := by
  simp only [cancelAnswer, asked_eq, named_desc named, desc_asked, flow_asked, inEncl_asked, world, queued, cancellable]
  simp

theorem cancelAnswer_busy (busy : (desc s d).st = .dispatched ∨ (desc s d).st = .transit ∨ (desc s d).st = .releasing ∨
    (desc s d).st = .free) : cancelAnswer t w (advance t (issue t s)) = (1, asked t s) := by
  simp only [cancelAnswer, asked_eq, named_desc named, desc_asked, flow_asked, inEncl_asked, world, cancellable]
  rcases busy with st | st | st | st <;> simp [st]

end

section
variable {s : State} {t : Thread} {a b : Word} (world : (flow s (a.toNat % 4096)).world = inEncl s t)
include world

theorem cancelEntryAnswer_none
    (none : oldestEntry s (a.toNat % 4096) (fun m => decide (m.tag = some (b.setWidth 16))) = none) :
    cancelEntryAnswer t a b (advance t (issue t s)) = (1, asked t s) := by
  have f : bitsAt a 0 12 = a.toNat % 4096 := by simp [bitsAt]
  simp only [cancelEntryAnswer, asked_eq, f, flow_asked, inEncl_asked, world, oldestEntry_asked, none]
  simp

theorem cancelEntryAnswer_waiting {e : Fin 512}
    (found : oldestEntry s (a.toNat % 4096) (fun m => decide (m.tag = some (b.setWidth 16))) = some e) :
    cancelEntryAnswer t a b (advance t (issue t s)) = (0, cancelDesc (entry s e.val).desc.toFin 2 (asked t s)) := by
  have f : bitsAt a 0 12 = a.toNat % 4096 := by simp [bitsAt]
  simp only [cancelEntryAnswer, asked_eq, f, flow_asked, inEncl_asked, world, oldestEntry_asked, found, entry_asked]
  simp

end

/-- Settles O23: an emission by the room in its flow, a cancel by what its descriptor or its tag names. -/
theorem emissionAndCancel : Obligations.EmissionAndCancel := by
  unfold Obligations.EmissionAndCancel
  refine ⟨fun s t rd a runs fresh lets plain awake single =>
      ⟨fun d => temit_admits runs fresh lets plain awake single, temit_refuses runs fresh lets plain awake single⟩,
    fun s t rd a b runs fresh => ⟨fun d named world => ⟨fun queued alone => ?_, fun busy => ?_⟩,
      fun world => ⟨fun none => ?_, fun e found d own attached alone => ?_⟩⟩⟩
  · have answer := cancelAnswer_queued named world queued
    rw [← gpr_issue s t t a] at answer
    obtain ⟨s', ran, value, pc, free, others, threads, mem, -⟩ := cancel_withdraws runs fresh alone (exec_tcancel t rd a s)
      (act := fun s => cancelAnswer t (gpr s t a)) answer
    exact ⟨s', ran, value, pc, free, others, threads, mem⟩
  · have answer := cancelAnswer_busy named world busy
    rw [← gpr_issue s t t a] at answer
    exact cancel_finds_none runs fresh (exec_tcancel t rd a s) (act := fun s => cancelAnswer t (gpr s t a)) answer
  · have answer := cancelEntryAnswer_none world none
    rw [← gpr_issue s t t a, ← gpr_issue s t t b] at answer
    obtain ⟨s', ran, value, pc, drill, -⟩ := cancel_finds_none runs fresh (exec_tcancelEntry t rd a b s)
      (act := fun s => cancelEntryAnswer t (gpr s t a) (gpr s t b)) answer
    exact ⟨s', ran, value, pc, drill⟩
  · have answer := cancelEntryAnswer_waiting world found
    rw [← gpr_issue s t t a, ← gpr_issue s t t b, ← own] at answer
    have held : (desc s d).entry ≠ 0xFFFF := fun none => by
      have small := e.isLt
      rw [none] at attached
      simp at attached
      omega
    obtain ⟨s', ran, value, pc, free, others, -, -, freed⟩ := cancel_withdraws runs fresh alone (exec_tcancelEntry t rd a b s)
      (act := fun s => cancelEntryAnswer t (gpr s t a) (gpr s t b)) answer
    exact ⟨s', ran, value, pc, free, attached ▸ freed held, others⟩

end Sys2Proof.Machine
end

section
/-! PROOFS. Events that become tasks (R173, R245, R250, R251): what joins CHEV[f] while grants reach the channels, and the
admission of the heads of CHEV[f] and HKQ. -/

namespace Sys2Proof.Machine

/-! ### What joins CHEV[f] (R155, R451) -/

/-- CHEV[f] keeps its events in their order, and with nothing held at its channels it gains none. -/
structure ChevGrows (f : Furrow) (s s' : State) : Prop where
  grows : chevOf s f <+: chevOf s' f
  still : (∀ n, furrowOf n = f → (chan s n).rx.held = []) →
    chevOf s' f = chevOf s f ∧ ∀ n, furrowOf n = f → (chan s' n).rx.held = []

theorem chevGrows_refl (f : Furrow) (s : State) : ChevGrows f s s := ⟨List.prefix_rfl, fun none => ⟨rfl, none⟩⟩

theorem chevGrows_trans {f : Furrow} {s s' s'' : State} (h : ChevGrows f s s') (h' : ChevGrows f s' s'') : ChevGrows f s s'' := by
  refine ⟨h.grows.trans h'.grows, fun none => ?_⟩
  obtain ⟨same, none'⟩ := h.still none
  obtain ⟨same', none''⟩ := h'.still none'
  exact ⟨same'.trans same, none''⟩

theorem chevGrows_of_same {f : Furrow} {s s' : State} (chev : s'.chs.chev = s.chs.chev)
    (held : ∀ n, (chan s' n).rx.held = (chan s n).rx.held) : ChevGrows f s s' := by
  have same : chevOf s' f = chevOf s f := by rw [chevOf, chev]; rfl
  exact ⟨same ▸ List.prefix_rfl, fun none => ⟨same, fun n own => (held n).trans (none n own)⟩⟩

theorem chevGrows_of_chs {f : Furrow} {s s' : State} (chev : s'.chs.chev = s.chs.chev) (ch : s'.chs.ch = s.chs.ch) :
    ChevGrows f s s' := chevGrows_of_same chev fun n => by rw [chan, ch]; rfl

theorem chevGrows_setChan {f : Furrow} {s : State} {n : Chan} {c : Channel} (held : c.rx.held = (chan s n).rx.held) :
    ChevGrows f s (setChan s n c) := chevGrows_of_same rfl fun k => by
  rw [chan_setChan]
  split
  · next own => rw [own, held]
  · rfl

theorem chevOf_setChev (s : State) (f g : Furrow) (l : List ChEvent) :
    chevOf (setChev s f l) g = if g = f then l else chevOf s g := by
  split
  · next own => rw [own]; exact tabGet_tabPut_same ..
  · next other => exact tabGet_tabPut_other [] (fun e => other (Fin.ext e)) ..

/-- An event of a channel at the end of its furrow's queue. -/
def joinChev (n : Chan) (c : Channel) (e : ChEvent) (s : State) : State :=
  setChev (setChan s n c) (furrowOf n) (chevOf (setChan s n c) (furrowOf n) ++ [e])

theorem chevOf_joinChev (n : Chan) (c : Channel) (e : ChEvent) (s : State) (f : Furrow) :
    chevOf (joinChev n c e s) f = if f = furrowOf n then chevOf s (furrowOf n) ++ [e] else chevOf s f := chevOf_setChev ..

theorem chan_joinChev (n m : Chan) (c : Channel) (e : ChEvent) (s : State) :
    chan (joinChev n c e s) m = chan (setChan s n c) m := rfl

/-- A held event moves into its furrow's queue. -/
theorem joinChev_grows {f : Furrow} {s : State} {n : Chan} {e : ChEvent} {rest : List ChEvent}
    (held : (chan s n).rx.held = e :: rest) (c : Channel) (e' : ChEvent) : ChevGrows f s (joinChev n c e' s) := by
  refine ⟨?_, fun none => ?_⟩
  · rw [chevOf_joinChev]
    split
    · next own => rw [own]; exact List.prefix_append ..
    · exact List.prefix_rfl
  · have other : furrowOf n ≠ f := fun own => by simp [none n own] at held
    refine ⟨by rw [chevOf_joinChev, if_neg (Ne.symm other)], fun m own => ?_⟩
    have another : m ≠ n := fun same => other (same ▸ own)
    rw [chan_joinChev, chan_setChan_other s another]
    exact none m own

theorem writeChev_grows {f : Furrow} {s : State} {n : Chan} {e : ChEvent} {rest : List ChEvent}
    (held : (chan s n).rx.held = e :: rest) (c : Channel) (e' : ChEvent) (k : Nat) :
    ChevGrows f s (qWrite k 1 (joinChev n c e' s)) :=
  chevGrows_trans (joinChev_grows held c e') (chevGrows_of_chs (by simp) (by simp))

theorem flushHeld_chevGrows (f : Furrow) (n : Chan) (k : Nat) (s : State) : ChevGrows f s (flushHeld n k s) := by
  induction k generalizing s with
  | zero => exact chevGrows_refl ..
  | succ k ih =>
    unfold flushHeld; dsimp only
    split
    · exact chevGrows_refl ..
    · next e rest held =>
      split
      · exact chevGrows_refl ..
      · split
        · exact chevGrows_of_chs (by simp) (by simp)
        · exact chevGrows_trans (writeChev_grows held ..) (ih _)

theorem applyChwr_chevGrows (f : Furrow) (i : ChwrItem) (s : State) : ChevGrows f s (applyChwr i s) := by
  cases i with
  | post => exact chevGrows_refl ..
  | grant n => exact chevGrows_trans (chevGrows_setChan (n := n) (by rfl)) (flushHeld_chevGrows ..)
  | release n cells => exact chevGrows_setChan (n := n) (by rfl)
  | handover n fr => exact chevGrows_trans (chevGrows_setChan (n := n) (by rfl)) (chevGrows_setChan (n := n) (by rfl))

theorem crossCells_chevGrows (f : Furrow) (i : ChwrItem) (s : State) : ChevGrows f s (crossCells i s) := by
  cases i with
  | post | grant => exact chevGrows_refl ..
  | release n cells => exact chevGrows_setChan (n := n) (by rfl)
  | handover n fr => exact chevGrows_setChan (n := n) (by rfl)

theorem popChwr_chevGrows (f g : Furrow) (rest : List ChwrItem) (s : State) : ChevGrows f s (popChwr g rest s) := by
  have popped : ChevGrows f s (qLeave (32 + g.val) 16 (rest.length + 1) (setChwr s g rest)) :=
    chevGrows_of_chs (by simp [setChwr]) (by simp [setChwr])
  unfold popChwr; dsimp only
  split
  · exact popped
  · exact chevGrows_trans popped (crossCells_chevGrows ..)

theorem settleChwr_chevGrows (f g : Furrow) (k : Nat) (s : State) : ChevGrows f s (settleChwr g k s) := by
  induction k generalizing s with
  | zero => exact chevGrows_refl ..
  | succ k ih =>
    unfold settleChwr
    split
    · exact chevGrows_refl ..
    · split
      · exact chevGrows_refl ..
      · exact chevGrows_refl ..
      · exact chevGrows_trans (chevGrows_trans (popChwr_chevGrows ..) (applyChwr_chevGrows ..)) (ih _)

theorem sendChwr_chevGrows (f g : Furrow) (i : ChwrItem) (s : State) : ChevGrows f s (sendChwr g i s) := by
  have joined : ChevGrows f s (qJoin (32 + g.val) 16 (chwrOf s g).length (setChwr s g (chwrOf s g ++ [i]))) :=
    chevGrows_of_chs (by simp [setChwr]) (by simp [setChwr])
  unfold sendChwr; dsimp only
  split
  · exact chevGrows_trans (chevGrows_trans joined (crossCells_chevGrows ..)) (settleChwr_chevGrows ..)
  · exact chevGrows_trans joined (settleChwr_chevGrows ..)

theorem chevGrows_foldl {α : Type} {f : Furrow} {act : State → α → State} (keeps : ∀ s x, ChevGrows f s (act s x))
    (l : List α) (s : State) : ChevGrows f s (l.foldl act s) :=
  List.foldlRecOn (motive := ChevGrows f s) l act (chevGrows_refl f s) fun s' h x _ => chevGrows_trans h (keeps s' x)

theorem pump_chevGrows (f : Furrow) (g : Nat) (s : State) : ChevGrows f s (pump g s) := by
  have pass : ∀ s, ChevGrows f s (grantPass g s) := fun s => by
    refine chevGrows_foldl (fun s n => ?_) (fins 128) s
    split
    · exact chevGrows_trans (s' := takeCredit g s) (chevGrows_of_chs rfl rfl) (sendChwr_chevGrows ..)
    · exact chevGrows_refl ..
  exact pump_induction (fun s' h => chevGrows_trans h (pass s')) (chevGrows_refl f s)

theorem refillChev_chevGrows (f g : Furrow) (s : State) : ChevGrows f s (refillChev g s) :=
  chevGrows_foldl (fun s n => flushHeld_chevGrows f n 64 s) _ s

/-- A furrow's channels are its four. -/
theorem furrowChan_of_furrowOf {n : Chan} {f : Furrow} (own : furrowOf n = f) : ∃ k, n = furrowChan f k := by
  have inside := congrArg Fin.val own
  simp only [furrowOf] at inside
  exact ⟨⟨n.val % 4, by omega⟩, Fin.ext (by simp only [furrowChan]; omega)⟩

/-! ### The head of CHEV[f] (R250, R251) -/

/-- An event's task enters a priority-queue flow where a descriptor is free. -/
theorem admitEvent_admits {s : State} {e : ChEvent} {d : Fin 1024} (plain : (flow s e.flow.toNat).ready = false)
    (free : freeDesc s e.flow.toNat = some d) :
    admitEvent e s = some (admitTask e.flow.toNat d (eventDesc s e) s) := by
  simp [admitEvent, plain, free, eventDesc]

/-- What follows the admission of the head of CHEV[f]: its cells Tasked, what its channels hold, and the grants. -/
def afterHead (f : Furrow) (e : ChEvent) (rest : List ChEvent) (s : State) : State :=
  pump e.flow.toNat (refillChev f (moveRx e.ch .tasked e.cells (qRead f.val 1 (setChev s f rest))))

theorem afterHead_onlyFlows (f : Furrow) (e : ChEvent) (rest : List ChEvent) (s : State) :
    OnlyFlows s (afterHead f e rest s) :=
  onlyFlows_trans (onlyFlows_of_drill (by simp)) (pump_onlyFlows ..)

theorem afterHead_chev (f : Furrow) (e : ChEvent) (rest : List ChEvent) (s : State) :
    ∃ more, chevOf (afterHead f e rest s) f = rest ++ more ∧
      ((∀ k : Fin 4, (chan s (furrowChan f k)).rx.held = []) → more = []) := by
  let read := qRead f.val 1 (setChev s f rest)
  have head : chevOf read f = rest := by
    have kept : ∀ s, chevOf (qRead f.val 1 s) f = chevOf s f := fun s => by simp [chevOf]
    rw [kept, chevOf_setChev, if_pos rfl]
  have chans : ∀ n, chan read n = chan s n := fun n => by simp [read, chan, setChev]
  have after : ChevGrows f read (afterHead f e rest s) :=
    chevGrows_trans (chevGrows_setChan (n := e.ch) (by rfl))
      (chevGrows_trans (refillChev_chevGrows ..) (pump_chevGrows ..))
  obtain ⟨more, joined⟩ := after.grows
  rw [head] at joined
  refine ⟨more, joined.symm, fun none => ?_⟩
  obtain ⟨still, -⟩ := after.still fun n own => by
    obtain ⟨k, rfl⟩ := furrowChan_of_furrowOf own
    rw [chans]; exact none k
  rw [head, ← joined] at still
  simpa using still

theorem channelEvent_admitted {s : State} (main : mainOn s = true) {f : Furrow} {e : ChEvent} {rest : List ChEvent}
    {d : Fin 1024} (queue : chevOf s f = e :: rest) (plain : (flow s e.flow.toNat).ready = false)
    (free : freeDesc s e.flow.toNat = some d) :
    ∃ s', exec (.channelEventAdmit (.chev f)) s = .next s' ∧ (∃ more, chevOf s' f = rest ++ more ∧
        ((∀ k : Fin 4, (chan s (furrowChan f k)).rx.held = []) → more = [])) ∧
      (desc s' d).st = .queued ∧ (desc s' d).flow = e.flow ∧ (desc s' d).src = 1 ∧
      (desc s' d).order = (flow s e.flow.toNat).nextOrder ∧
      (desc s' d).payload = eventPayload e (eventDeadline s e) ∧ (desc s' d).deadline = eventDeadline s e ∧
      OtherDescs d s s' ∧ s'.mem = s.mem ∧ s'.cores = s.cores := by
  let admitted := admitTask e.flow.toNat d (eventDesc s e) s
  have ran : exec (.channelEventAdmit (.chev f)) s = .next (afterHead f e rest admitted) := by
    have enters : admitChev f s = afterHead f e rest admitted := by
      simp only [admitChev, queue, admitEvent_admits plain free, afterHead, admitted]
    simp only [exec_channelEventAdmit, execChannelEventAdmit, main, enters, Bool.not_true, Bool.false_eq_true, if_false]
  have chans : ∀ n, chan admitted n = chan s n := fun n => by simp [admitted, chan]
  have descs := desc_of_onlyFlows (afterHead_onlyFlows f e rest admitted)
  obtain ⟨more, joined, still⟩ := afterHead_chev f e rest admitted
  simp only [chans] at still
  refine ⟨_, ran, ⟨more, joined, still⟩, ?_⟩
  have own := (descs d).trans (desc_admitTask_same ..)
  rw [own]
  refine ⟨rfl, by simp, rfl, rfl, rfl, rfl, fun x other => ?_, ?_, ?_⟩
  · rw [descs, desc_admitTask_other other]
  · simp [afterHead, admitted]
  · simp [afterHead, admitted]

/-! ### The head of HKQ (R245, R250) -/

theorem housekeeping_admitted {s : State} (main : mainOn s = true) {e : HkEvent} {rest : List HkEvent} {d : Fin 1024}
    (queue : s.drill.hkq = e :: rest) (free : freeDesc s 4095 = some d) (credit : 0 < freeCredits (flow s 4095)) :
    ∃ s', exec (.channelEventAdmit .hkq) s = .next s' ∧ s'.drill.hkq = rest ∧ (desc s' d).st = .queued ∧
      (desc s' d).flow = 4095 ∧ (desc s' d).src = 8 ∧ (flow s' 4095).taken = (flow s 4095).taken + 1 ∧
      OtherDescs d s s' ∧ OnlyDrill s s' := by
  let read := qLeave 106 8 s.drill.hkq.length { s with drill := { s.drill with hkq := rest } }
  let x : Desc := { src := 8, payload := BitVec.ofNat 320 (Config.hkPayload e.cause.code e.data), life := { hk := some e } }
  let s' := admitTask 4095 d x (takeCredit 4095 read)
  have ran : exec (.channelEventAdmit .hkq) s = .next s' := by
    simp only [exec_channelEventAdmit, execChannelEventAdmit, main, admitHk, queue, free, credit]
    simp [s', x, read, queue]
  have drill : read.drill = { s.drill with hkq := rest } := by simp [read]
  have own : desc s' d = _ := desc_admitTask_same 4095 d x (takeCredit 4095 read)
  refine ⟨s', ran, ?_, ?_, ?_, ?_, ?_, fun k other => ?_, ?_⟩
  · simp only [s']
    rw [admitTask_drill, takeCredit_onlyFlows, drill]
  · rw [own]
  · rw [own]; rfl
  · rw [own]
  · rw [flow_admitTask, flow_takeCredit, flow, drill]; rfl
  · rw [desc_admitTask_other other]
    simp [desc, takeCredit, setFlow, drill]
  · exact eq_of_clk_drill (by simp [SameBut_clk_drill, s', read])

/-- Settles O24: the head of each queue finds a descriptor, and what follows it leaves the task as it is. -/
theorem eventsAdmitted : Obligations.EventsAdmitted := by
  unfold Obligations.EventsAdmitted
  exact fun s main => ⟨fun f e rest d => channelEvent_admitted main, fun e rest d => housekeeping_admitted main⟩

end Sys2Proof.Machine
end

section
/-! PROOFS. The times of the drill: ageing, the matching store's timeouts, the timers and the deadlines (R250, R252, R253,
R259, R263, R273, R289, R291). -/

namespace Sys2Proof.Machine

/-! ### Ageing (R253, R259) -/

/-- The task with one more AGE_US counted. -/
def promoted (x : Desc) : Desc := { x with life := { x.life with boost := x.life.boost + 1 } }

theorem effLevel_promoted {s : State} {x : Desc} (below : (effLevel s x).toNat < 6) :
    (effLevel s (promoted x)).toNat = (effLevel s x).toNat + 1 := by
  have level : ∀ y : Desc, y.flow = x.flow → effLevel s y = if 6 ≤ (flow s x.flow.toNat).prio.toNat then
      (flow s x.flow.toNat).prio else BitVec.ofNat 3 (min 6 ((flow s x.flow.toNat).prio.toNat + y.life.boost)) :=
    fun y same => by rw [effLevel, same]
  have after : (promoted x).life.boost = x.life.boost + 1 := rfl
  rw [level x rfl] at below ⊢
  rw [level (promoted x) rfl, after]
  split at below
  · omega
  · next low =>
    rw [if_neg low, if_neg low]
    simp only [BitVec.toNat_ofNat] at below ⊢
    omega

theorem effLevel_congr {s s' : State} (flows : s'.drill.flows = s.drill.flows) (x : Desc) : effLevel s' x = effLevel s x := by
  have same : flow s' x.flow.toNat = flow s x.flow.toNat := by rw [flow, flows]; rfl
  rw [effLevel, same]; rfl

section
variable {s : State} {d : Fin 1024}

theorem agePromotion_promotes (ready : isReady s d = true) (ages : s.drill.ageUs ≠ 0)
    (below : (effLevel s (desc s d)).toNat < 6)
    (waited : readySince s (desc s d) + ((desc s d).life.boost + 1) * (250 * s.drill.ageUs.toNat) < s.drill.time.toNat) :
    ∃ s', exec (.agePromotion d) s = .next s' ∧ (effLevel s' (desc s' d)).toNat = (effLevel s (desc s d)).toNat + 1 ∧
      (desc s' d).st = .queued ∧ OtherDescs d s s' ∧ s' = { s with drill := s'.drill } ∧ s'.drill.flows = s.drill.flows := by
  have late : waitedAge s (desc s d) = true := decide_eq_true ⟨ages, by omega⟩
  have queued : (desc s d).st = .queued := by
    rw [isReady, Bool.and_eq_true, decide_eq_true_eq] at ready
    exact ready.1
  let s' := notePeak (effLevel s (desc s d) + 1) (setDesc s d (promoted (desc s d)))
  have ran : exec (.agePromotion d) s = .next s' := by
    rw [exec_agePromotion, execAgePromotion, if_pos ⟨ready, late, below⟩]; rfl
  have own : desc s' d = promoted (desc s d) := by simp [s']
  have flows : s'.drill.flows = s.drill.flows := by simp only [s']; rw [notePeak_drill]; rfl
  refine ⟨s', ran, ?_, ?_, fun e other => ?_, eq_of_drill (by simp [SameBut_drill, s']), flows⟩
  · rw [own, effLevel_congr flows, effLevel_promoted below]
  · rw [own]; exact queued
  · simp [s', desc_setDesc_other s other]

theorem agePromotion_early
    (early : s.drill.time.toNat ≤ readySince s (desc s d) + ((desc s d).life.boost + 1) * (250 * s.drill.ageUs.toNat)) :
    exec (.agePromotion d) s = .next s := by
  have soon : waitedAge s (desc s d) ≠ true := fun late => by
    obtain ⟨-, late⟩ := of_decide_eq_true late
    omega
  rw [exec_agePromotion, execAgePromotion, if_neg fun h => soon h.2.1]

theorem agePromotion_none (other : isReady s d = false ∨ 6 ≤ (effLevel s (desc s d)).toNat) :
    exec (.agePromotion d) s = .next s := by
  rw [exec_agePromotion, execAgePromotion, if_neg]
  rintro ⟨ready, -, below⟩
  rcases other with unready | top
  · exact absurd ready (by simp [unready])
  · omega

end

/-! ### The matching store's timeouts (R263) -/

theorem matchTimeout_ends {s : State} {e : Fin 512} (waiting : (entry s e.val).st = .waiting)
    (set : (flow s (entry s e.val).flow.toNat).timeoutUs.toNat ≠ 0)
    (late : (entry s e.val).opened + 250 * (flow s (entry s e.val).flow.toNat).timeoutUs.toNat ≤ s.drill.time.toNat) :
    let d := (entry s e.val).desc.toFin
    ∃ s', exec (.matchTimeout e) s = .next s' ∧ (entry s' e.val).st = .attached ∧ (desc s' d).st = .queued ∧
      (desc s' d).partial_ = true ∧ (desc s' d).opmask = (desc s d).opmask ∧
      s'.drill.timeouts = satInc s.drill.timeouts ∧ OtherDescs d s s' ∧ s' = { s with drill := s'.drill } := by
  intro d
  let counted : State := { s with drill := { s.drill with timeouts := satInc s.drill.timeouts } }
  let put := setDesc (setEntry counted e.val { entry s e.val with st := .attached }) d { desc s d with partial_ := true }
  have ran : exec (.matchTimeout e) s = .next (queueTask d put) := by
    rw [exec_matchTimeout, execMatchTimeout, if_pos ⟨waiting, set, late⟩]; rfl
  have own : desc (queueTask d put) d = _ := (desc_queueTask d d put).trans (if_pos rfl)
  have marked : desc put d = { desc s d with partial_ := true } := desc_setDesc_same ..
  rw [marked] at own
  refine ⟨_, ran, ?_, ?_, ?_, ?_, ?_, fun x other => ?_, ?_⟩
  · rw [entry_queueTask]; simp [put]
  · rw [own]
  · rw [own]
  · rw [own]
  · rw [queueTask_drill]; rfl
  · rw [desc_queueTask, if_neg other]; exact desc_setDesc_other _ other _
  · exact eq_of_drill (by simp [SameBut_drill, put, counted])

theorem matchTimeout_waits {s : State} {e : Fin 512}
    (early : (flow s (entry s e.val).flow.toNat).timeoutUs.toNat = 0 ∨ s.drill.time.toNat <
      (entry s e.val).opened + 250 * (flow s (entry s e.val).flow.toNat).timeoutUs.toNat) :
    exec (.matchTimeout e) s = .next s := by
  rw [exec_matchTimeout, execMatchTimeout, if_neg]
  rintro ⟨-, set, late⟩
  rcases early with never | early
  · exact set never
  · omega

/-! ### Timers (R250, R273) -/

section
variable {s : State} {i : Fin 64}

theorem drillTimer_starts {r : Req} (passes : passesGuard s r (timerBase i) = true) (owns : ownsTimer s r i = true)
    (off : (vget s.drill.timers i).en = false) (set : (vget s.drill.timers i).period ≠ 0) :
    ∃ s', exec (.drillTimerStart r i) s = .next s' ∧ (vget s'.drill.timers i).en = true ∧
      (vget s'.drill.timers i).next = timeLo s + BitVec.ofNat 32 (250 * (vget s.drill.timers i).period.toNat) ∧
      (∀ j, j ≠ i → vget s'.drill.timers j = vget s.drill.timers j) ∧ s' = { s with drill := s'.drill } ∧
      s'.drill = { s.drill with timers := s'.drill.timers } := by
  let x : DrillTimer := { vget s.drill.timers i with
    en := true, next := timeLo s + BitVec.ofNat 32 (250 * (vget s.drill.timers i).period.toNat) }
  have ran : exec (.drillTimerStart r i) s = .next (setTimer i x s) := by
    rw [exec_drillTimerStart, execDrillTimerStart, owns, tryWrite_open passes, startTimer,
      if_neg fun h => h.elim (by simp [off]) set]
  have own : vget (setTimer i x s).drill.timers i = x := vget_vset_same ..
  exact ⟨_, ran, by rw [own], by rw [own], fun j other => vget_vset_other other _ _, rfl, rfl⟩

theorem drillTimer_early (early : 2 ^ 31 ≤ (timeLo s - (vget s.drill.timers i).next).toNat) :
    exec (.drillTimerFire i) s = .next s := by
  rw [exec_drillTimerFire, execDrillTimerFire, fireTimer, if_pos]
  rw [decide_eq_true early, Bool.or_true]

/-- A timer's task has its number in the lowest byte of the payload. -/
theorem timerDesc_payload (fires : Word) : (timerDesc i fires).payload.toNat % 256 = i.val := by
  have small := fires.isLt
  simp only [timerDesc, BitVec.toNat_ofNat]
  omega

theorem fired_en {x : DrillTimer} (on : x.en = true) : x.fired.en = x.periodic := by
  unfold DrillTimer.fired
  split
  · next periodic => rw [periodic]; exact on
  · next single => simp [single]

theorem drillTimer_fires {d : Fin 1024} (main : mainOn s = true) (on : (vget s.drill.timers i).en = true)
    (due : (timeLo s - (vget s.drill.timers i).next).toNat < 2 ^ 31)
    (en : (flow s (vget s.drill.timers i).flow.toNat).en = true)
    (plain : (flow s (vget s.drill.timers i).flow.toNat).ready = false)
    (free : freeDesc s (vget s.drill.timers i).flow.toNat = some d)
    (credit : 0 < freeCredits (flow s (vget s.drill.timers i).flow.toNat)) :
    ∃ s', exec (.drillTimerFire i) s = .next s' ∧ (desc s' d).st = .queued ∧ (desc s' d).src = 3 ∧
      (desc s' d).flow = (vget s.drill.timers i).flow ∧
      (desc s' d).payload.toNat % 256 = i.val ∧ (vget s'.drill.timers i).en = (vget s.drill.timers i).periodic ∧
      OtherDescs d s s' ∧ s' = { s with drill := s'.drill } := by
  let x := vget s.drill.timers i
  let f := x.flow.toNat
  let s' := admitTask f d (timerDesc i (x.fires + 1)) (takeCredit f (setTimer i x.fired s))
  have due' : ¬ 2 ^ 31 ≤ (timeLo s - x.next).toNat := Nat.not_le.2 due
  have en' : (flow (setTimer i x.fired s) f).en = true := en
  have plain' : (flow (setTimer i x.fired s) f).ready = false := plain
  have free' : freeDesc (setTimer i x.fired s) f = some d := free
  have credit' : 0 < freeCredits (flow (setTimer i x.fired s) f) := credit
  have ran : exec (.drillTimerFire i) s = .next s' := by
    have fires : fireTimer i s = raiseTimer i f (timerIndex s f i) (x.fires + 1) (setTimer i x.fired s) := by
      rw [fireTimer, if_neg (by simpa [on, main] using due)]
    rw [exec_drillTimerFire, execDrillTimerFire, fires]
    simp only [raiseTimer, en', plain', free', credit']
    rfl
  have own : desc s' d = _ := desc_admitTask_same ..
  refine ⟨s', ran, ?_, ?_, ?_, ?_, ?_, fun e other => ?_, eq_of_drill (by simp [SameBut_drill, s', setTimer])⟩
  · rw [own]
  · rw [own]; rfl
  · rw [own]; simp [f, x]
  · rw [own]; exact timerDesc_payload _
  · have timers : s'.drill.timers = vset s.drill.timers i x.fired := by simp only [s']; rw [admitTask_drill]; rfl
    rw [timers, vget_vset_same, fired_en on]
  · exact desc_admitTask_other other ..

end

/-! ### Deadlines (R252, R289) -/

theorem deadlinePassed_iff {s : State} {w : Word} :
    deadlinePassed s w = true ↔ w ≠ 0 ∧ (timeLo s - w).toNat < 2 ^ 31 := decide_eq_true_iff

section
variable {s : State} {t : Thread}

/-- What the row does on a thread that holds a task. -/
theorem deadlinePass_holding {d : Fin 1024} (task : (thr s t).task = some d) : exec (.deadlinePass t) s =
    .next (if deadlinePassed s (desc s d).deadline ∧ ¬ (thr s t).dlineDone then
      setIpend t 2 (setThr s t { thr s t with dlineDone := true }) else s) := by
  simp only [exec_deadlinePass, execDeadlinePass, task]

theorem deadlinePass_sets {d : Fin 1024} (task : (thr s t).task = some d) (set : (desc s d).deadline ≠ 0)
    (past : (timeLo s - (desc s d).deadline).toNat < 2 ^ 31) (first : (thr s t).dlineDone = false) :
    ∃ s', exec (.deadlinePass t) s = .next s' ∧ (thr s' t).ext.ipend.getLsbD 2 = true ∧ (thr s' t).dlineDone = true ∧
      (∀ k, k ≠ 2 → (thr s' t).ext.ipend.getLsbD k = (thr s t).ext.ipend.getLsbD k) ∧
      (∀ u, u ≠ t → thr s' u = thr s u) ∧ s' = { s with cores := s'.cores } := by
  let s' := setIpend t 2 (setThr s t { thr s t with dlineDone := true })
  have ran : exec (.deadlinePass t) s = .next s' := by
    rw [deadlinePass_holding task, if_pos ⟨deadlinePassed_iff.2 ⟨set, past⟩, by simp [first]⟩]
  have own : thr s' t = _ := thr_setIpend_same t 2 (setThr s t { thr s t with dlineDone := true })
  rw [thr_setThr_same] at own
  refine ⟨s', ran, ?_, ?_, fun k other => ?_, fun u other => ?_, eq_of_cores (by simp [SameBut_cores, s'])⟩
  · rw [own]; simp [setBit_or]
  · rw [own]
  · have clear : (BitVec.ofNat 5 (2 ^ 2)).getLsbD k = false := by
      rw [BitVec.getLsbD_ofNat, Nat.testBit_two_pow]
      simp [Ne.symm other]
    simp only [own, setBit_or, BitVec.getLsbD_or, clear, Bool.or_false]
  · exact (thr_setIpend_other _ other 2).trans (thr_setThr_other s other _)

/-- DLINE is set once for a task. -/
theorem deadlinePass_done (done : (thr s t).dlineDone = true) : exec (.deadlinePass t) s = .next s := by
  cases task : (thr s t).task with
  | none => simp only [exec_deadlinePass, execDeadlinePass, task]
  | some d => rw [deadlinePass_holding task, if_neg fun h => h.2 done]

theorem deadlinePass_early {d : Fin 1024} (task : (thr s t).task = some d)
    (early : (desc s d).deadline = 0 ∨ 2 ^ 31 ≤ (timeLo s - (desc s d).deadline).toNat) :
    exec (.deadlinePass t) s = .next s := by
  have ahead : deadlinePassed s (desc s d).deadline ≠ true := fun passed => by
    obtain ⟨set, past⟩ := deadlinePassed_iff.1 passed
    rcases early with unset | later
    · exact set unset
    · omega
  rw [deadlinePass_holding task, if_neg fun h => ahead h.1]

end

/-- Settles O26: each row at its time, and just before it. -/
theorem ageingTimersAndDeadlines : Obligations.AgeingTimersAndDeadlines := by
  unfold Obligations.AgeingTimersAndDeadlines
  exact ⟨fun s => ⟨fun d ready ages below => ⟨agePromotion_promotes ready ages below, agePromotion_early⟩,
      fun d => agePromotion_none, fun e waiting => ⟨matchTimeout_ends waiting, matchTimeout_waits⟩⟩,
    fun s => ⟨fun r i => drillTimer_starts, fun i => drillTimer_early, fun i d => drillTimer_fires,
      fun t d => deadlinePass_sets, fun t => deadlinePass_done, fun t d => deadlinePass_early⟩⟩

end Sys2Proof.Machine
end

section
/-! PROOFS. What the drill and the Books observe: HIST, a core's load window, a flow's overload sub-windows and a snapshot
(R274, R448, R454). -/

namespace Sys2Proof.Machine

/-! ### Load windows (R274) -/

theorem vget_putThreads {α : Type} (c : Fin 4) (new : Thread → α) (old : Vector α 16) (t : Thread) :
    vget (putThreads c new old) t = if coreOf t = c then new t else vget old t := by simp [putThreads, vget]

/-- A core's threads are its four. -/
theorem threads_of_core (c : Fin 4) : ((fins 16).filter fun t => decide (coreOf t = c)) =
    [threadAt c.val 0, threadAt c.val 1, threadAt c.val 2, threadAt c.val 3] := by revert c; decide

theorem coreOf_threadAt (c : Fin 4) {m : Nat} (inside : m < 4) : coreOf (threadAt c.val m) = c :=
  Fin.ext (by simp only [coreOf, threadAt, Fin.val_ofNat]; omega)

section
variable {s : State} {c : Fin 4}

theorem loadWindow_ends (main : mainOn s = true)
    (complete : 250000 * s.drill.winMs.toNat ≤ s.drill.time.toNat - vget s.drill.loadAt c) :
    let share := fun t : Thread => min 1000 (1000 * vget s.drill.busy t / (s.drill.time.toNat - vget s.drill.loadAt c))
    ∃ s', exec (.loadWindowEnd c) s = .next s' ∧
      (∀ t : Thread, (vget s'.drill.tload t).toNat = if coreOf t = c then share t else (vget s.drill.tload t).toNat) ∧
      (∀ t : Thread, vget s'.drill.busy t = if coreOf t = c then 0 else vget s.drill.busy t) ∧
      (∀ k : Fin 4, vget s'.drill.load k = if k = c then
        BitVec.ofNat 10 ((share (threadAt c.val 0) + share (threadAt c.val 1) + share (threadAt c.val 2) +
          share (threadAt c.val 3)) / 4) else vget s.drill.load k) ∧
      s' = { s with drill := { s.drill with tload := s'.drill.tload, load := s'.drill.load, busy := s'.drill.busy,
                                            loadAt := vset s.drill.loadAt c s.drill.time.toNat } } := by
  intro share
  have own : ∀ t, coreOf t = c → threadShare s t = share t := fun t inside => by rw [threadShare, loadSpan, inside]
  have mean : coreShare s c = (share (threadAt c.val 0) + share (threadAt c.val 1) + share (threadAt c.val 2) +
      share (threadAt c.val 3)) / 4 := by
    have fourth : ∀ m, m < 4 → threadShare s (threadAt c.val m) = share (threadAt c.val m) :=
      fun m inside => own _ (coreOf_threadAt c inside)
    rw [coreShare, threads_of_core]
    simp only [List.map_cons, List.map_nil, List.foldl_cons, List.foldl_nil, Nat.zero_add, fourth, Nat.reduceLT]
  have ran := exec_loadWindowEnd c s
  rw [execLoadWindowEnd, if_pos ⟨main, complete⟩] at ran
  refine ⟨_, ran, fun t => ?_, fun t => vget_putThreads .., fun k => ?_, rfl⟩
  · rw [vget_putThreads]
    split
    · next inside =>
      have small : share t ≤ 1000 := Nat.min_le_left ..
      rw [own t inside, BitVec.toNat_ofNat]
      omega
    · rfl
  · rw [vget_vset, mean]

theorem loadWindow_open (early : s.drill.time.toNat - vget s.drill.loadAt c < 250000 * s.drill.winMs.toNat) :
    exec (.loadWindowEnd c) s = .next s := by
  rw [exec_loadWindowEnd, execLoadWindowEnd, if_neg fun h => absurd h.2 (Nat.not_le.2 early)]

end

/-! ### Overload (R454) -/

/-- A sub-window unlike OVERLOAD counts in RUN, the eighth in a row changes OVERLOAD, and one like it ends the row. -/
theorem endSubwindow_counts (x : Shed) :
    let y := endSubwindow x
    y.shedding = false ∧ y.refused = x.refused ∧
    (x.shedding = x.overload → y.overload = x.overload ∧ y.run = 0) ∧
    (x.shedding ≠ x.overload → (x.run.toNat + 1 = 8 → y.overload = !x.overload ∧ y.run = 0) ∧
      (x.run.toNat + 1 < 8 → y.overload = x.overload ∧ y.run = x.run + 1)) := by
  intro y
  by_cases like : x.shedding = x.overload
  · have ends : y = { x with run := 0, shedding := false } := by simp [y, endSubwindow, like]
    rw [ends]
    exact ⟨rfl, rfl, fun _ => ⟨rfl, rfl⟩, fun unlike => absurd like unlike⟩
  · by_cases eighth : x.run.toNat + 1 = 8
    · have changes : y = { x with run := 0, overload := !x.overload, shedding := false } := by
        simp [y, endSubwindow, like, eighth]
      rw [changes]
      exact ⟨rfl, rfl, fun same => absurd same like, fun _ => ⟨fun _ => ⟨rfl, rfl⟩, fun fewer => by omega⟩⟩
    · have counts : y = { x with run := x.run + 1, shedding := false } := by simp [y, endSubwindow, like, eighth]
      rw [counts]
      exact ⟨rfl, rfl, fun same => absurd same like, fun _ => ⟨fun full => absurd full eighth, fun _ => ⟨rfl, rfl⟩⟩⟩

/-- What the flow's bay and the Enclosure are told of an overload is no part of SHED, of the tasks or of the cores. -/
theorem overloadSubwindow_ends {s : State} {f : Nat} (main : mainOn s = true) (kept : f ≠ 4095) (en : (flow s f).en = true) :
    tabGet {} (overloadSubwindow f s).drill.shed f = endSubwindow (tabGet {} s.drill.shed f) ∧
      (overloadSubwindow f s).mem = s.mem ∧ (overloadSubwindow f s).cores = s.cores ∧
      (overloadSubwindow f s).drill.descs = s.drill.descs := by
  let ended : State := { s with drill := { s.drill with
    shed := tabPut {} s.drill.shed f (endSubwindow (tabGet {} s.drill.shed f)) } }
  have put : tabGet {} ended.drill.shed f = endSubwindow (tabGet {} s.drill.shed f) := tabGet_tabPut_same ..
  have told : (hk .overload f ended).drill.shed = ended.drill.shed ∧
      (hk .overload f ended).drill.descs = ended.drill.descs := by rw [hk_drill]; exact ⟨rfl, rfl⟩
  obtain ⟨shed, descs⟩ := told
  rw [overloadSubwindow, if_neg (by simp [main, kept, en])]
  dsimp only
  split
  · split
    · simp only [bayEvent_same]
      exact ⟨by rw [shed, put], by simp, by simp, descs⟩
    · exact ⟨by rw [shed, put], by simp, by simp, descs⟩
  · exact ⟨put, rfl, rfl, rfl⟩

/-! ### Snapshots (R448) -/

theorem snapshot_starts {s : State} {r : Req} (passes : passesGuard s r 0x50060000 = true) (encl : isEncl s r = true)
    (idle : s.books.busy = false) :
    ∃ s', exec (.snapshotStart r) s = .next s' ∧ s'.books.busy = true ∧ s'.books.epoch = !s.books.epoch ∧
      s'.books.latched = latchBooks s ∧ s' = { s with books := s'.books } := by
  have ran := exec_snapshotStart r s
  rw [execSnapshotStart, encl, tryWrite_open passes, startSnapshot, if_neg (by simp [idle])] at ran
  exact ⟨_, ran, rfl, rfl, rfl, rfl⟩

theorem snapshot_ends {s : State} (busy : s.books.busy = true) (balanced : s.books.imbal = 0) :
    ∃ s', exec .snapshotDone s = .next s' ∧ s'.books.busy = false ∧ s'.books.done = true ∧
      s'.books.shown = s.books.latched ∧ s' = { s with books := s'.books } := by
  have ran := exec_snapshotDone s
  rw [execSnapshotDone, finishSnapshot, if_neg (by simp [busy])] at ran
  dsimp only at ran
  rw [if_neg fun h => h.1 balanced] at ran
  exact ⟨_, ran, rfl, rfl, rfl, rfl⟩

/-- Settles O27: each row's own figures, and no more of the state than they. -/
theorem observationAndBooks : Obligations.ObservationAndBooks := by
  unfold Obligations.ObservationAndBooks
  refine fun s => ⟨fun r passes encl => ?_, fun main c => ⟨loadWindow_ends main, loadWindow_open⟩, fun f main kept en => ?_,
    fun r => snapshot_starts, snapshot_ends⟩
  · rw [exec_histClear, execHistClear, encl, tryWrite_open passes]; rfl
  · have housekeeping : f.toNat ≠ 4095 := fun h => kept (BitVec.eq_of_toNat_eq h)
    obtain ⟨shed, mem, cores, descs⟩ := overloadSubwindow_ends main housekeeping en
    refine ⟨_, exec_overloadSubwindow f s, ?_, mem, cores, descs⟩
    rw [shed]
    exact endSubwindow_counts _

end Sys2Proof.Machine
end

section
/-! PROOFS. What starts and ends on a core beside its instructions: an interrupt's start, the answer that returns, the
divider's end, TICK, KICK and the change of a core's mode (R280, R285 to R292, R304, R323, R502). -/

namespace Sys2Proof.Machine

/-! ### Deliverable interrupts and saved status (R287, R290) -/

/-- What an interrupt that can be delivered says of its thread: it is one of the five, pending, and meets no handler. -/
theorem of_deliverable {s : State} {t : Thread} {k : Nat} (due : deliverable s t = some k) :
    k ≤ 4 ∧ (thr s t).ext.ipend.getLsbD k = true ∧ (thr s t).inInt = false := by
  unfold deliverable at due
  dsimp only at due
  split at due
  · cases due
  · next passes =>
    have listed := List.mem_of_find?_eq_some due
    have chosen := List.find?_some due
    simp only [Bool.and_eq_true] at chosen
    obtain ⟨⟨pending, -⟩, -⟩ := chosen
    simp only [Bool.or_eq_true, not_or, Bool.not_eq_true] at passes
    obtain ⟨⟨⟨outside, -⟩, -⟩, -⟩ := passes
    simp only [List.mem_cons, List.not_mem_nil, or_false] at listed
    exact ⟨by omega, pending, outside⟩

/-- The parts of ESTS do not overlap (R287, R296). -/
theorem statusWord_eq (idle encl : Bool) (flags : BitVec 4) : flag idle 31 ||| flag encl 30 ||| fld flags 0 =
    BitVec.ofNat 32 ((if idle then 2 ^ 31 else 0) + (if encl then 2 ^ 30 else 0) + flags.toNat) := by
  revert idle encl flags; decide

/-! ### The instruction that an interrupt meets (R286, R304, R323) -/

/-- An instruction undone: its register as before, and an access's result in the latch. -/
theorem abandon_undone {s : State} {t : Thread} {o : Outstanding} (out : (thr s t).outstanding = some o) :
    (abandon t s).2 = setThr (setGpr t o.rd o.old (fillLoad t s)) t { thr (setGpr t o.rd o.old (fillLoad t s)) t with
      latch := if o.latched then some (o.pc, o.result) else (thr s t).latch, outstanding := none } := by
  simp [abandon, out]

theorem abandon_restores {s : State} {t : Thread} {o : Outstanding} (out : (thr s t).outstanding = some o) :
    gpr (abandon t s).2 t o.rd = (if o.rd = 0 then 0 else o.old) ∧
    (∀ r, r ≠ o.rd → gpr (abandon t s).2 t r = gpr s t r) ∧
    (thr (abandon t s).2 t).latch = if o.latched then some (o.pc, o.result) else (thr s t).latch := by
  have regs : ∀ r, gpr (abandon t s).2 t r = gpr (setGpr t o.rd o.old (fillLoad t s)) t r := fun r => by
    rw [abandon_undone out]; exact gpr_setThr _ t t r _ rfl rfl rfl
  refine ⟨?_, fun r other => ?_, ?_⟩
  · rw [regs, gpr_setGpr_same]; rfl
  · rw [regs, gpr_setGpr_other _ _ _ _ _ _ (.inr other), gpr_fillLoad]
  · rw [abandon_undone out, thr_setThr_same]

theorem abandon_flags (t : Thread) (s : State) : (thr (abandon t s).2 t).flags = (thr s t).flags := by
  unfold abandon; dsimp only
  split
  · rw [thr_fillLoad]
  · rw [thr_setThr_same, flags_setGpr, thr_fillLoad]

/-- The divider is free where the interrupted thread held it. -/
def releaseDivider (t : Thread) (s : State) : State :=
  let c := core s (coreOf t)
  if c.divider = some t then setCore s (coreOf t) { c with divider := none } else s

theorem thr_releaseDivider (t u : Thread) (s : State) : thr (releaseDivider t s) u = thr s u := by
  unfold releaseDivider; dsimp only; split <;> rfl

theorem releaseDivider_only (t : Thread) (s : State) : OnlyThread t s (releaseDivider t s) := by
  unfold releaseDivider; dsimp only; split
  · exact ⟨rfl, rfl, fun _ _ => rfl, fun _ other => core_setCore_other _ other _, by simp, fun _ _ => rfl, rfl⟩
  · exact only_refl t s

/-- The state that an interrupt's start meets: the instruction in progress abandoned, the divider free. -/
def interruptMeets (t : Thread) (s : State) : State := releaseDivider t (abandon t s).2

theorem thr_interruptMeets (t u : Thread) (s : State) : thr (interruptMeets t s) u = thr (abandon t s).2 u :=
  thr_releaseDivider t u _

theorem interruptMeets_only (t : Thread) (s : State) : OnlyThread t s (interruptMeets t s) :=
  only_trans (abandon_only t s).1 (releaseDivider_only t _)

theorem interruptMeets_progress (t : Thread) (s : State) : OnlyProgress t s (interruptMeets t s) := by
  have progress := (abandon_only t s).2
  unfold OnlyProgress at progress ⊢
  rw [thr_interruptMeets]; exact progress

/-! ### An interrupt's start (R285 to R290) -/

/-- The thread enters the handler of interrupt `k`, its IPEND bit taken and its status saved with EPC as given:
`interruptStart` saves the PC, where nothing is abandoned. -/
def takeInterrupt (t : Thread) (k : Nat) (encl : Bool) (epc : Word) (s : State) : State :=
  let s := saveStatus t epc (settleForeign t s)
  let x := thr s t
  enterHandler t encl (8 + k)
    (setThr s t { x with ext := { x.ext with ipend := setBits x.ext.ipend k 1 0 }, debug := decide (k = 4) })

theorem takeInterrupt_other {t u : Thread} (other : u ≠ t) (k : Nat) (encl : Bool) (epc : Word) (s : State) :
    thr (takeInterrupt t k encl epc s) u = thr s u := by
  simp only [takeInterrupt, enterHandler, thr_clearShadow, saveStatus, settleForeign, thr_setThr_other _ other]

/-- Where the handler starts and what it finds saved. -/
theorem takeInterrupt_starts (t : Thread) (k : Nat) (encl : Bool) (epc : Word) (s : State) :
    let x := thr (takeInterrupt t k encl epc s) t
    x.inInt = true ∧ x.run = .running ∧ x.pc = entryAddr s encl (8 + k) ∧
    x.ext.ipend = setBits (thr s t).ext.ipend k 1 0 ∧ x.ext.now.epc = epc ∧
    x.ext.now.ests = flag (decide ((thr s t).run = .idle)) 31 ||| flag (inEncl s t) 30 ||| fld (thr s t).flags 0 := by
  simp [takeInterrupt, enterHandler, thr_clearShadow, entryAddr_clearShadow, entryAddr_setThr, saveStatus, settleForeign,
    inEncl]

/-- What of the thread the handler finds as it was. -/
theorem takeInterrupt_keeps (t : Thread) (k : Nat) (encl : Bool) (epc : Word) (s : State) :
    let x := thr (takeInterrupt t k encl epc s) t
    x.flags = (thr s t).flags ∧ x.task = (thr s t).task ∧ x.stile = (thr s t).stile ∧ x.latch = (thr s t).latch ∧
    x.commons = (thr s t).commons ∧ x.encl = (thr s t).encl := by
  simp [takeInterrupt, enterHandler, thr_clearShadow, saveStatus, settleForeign]

/-- The registers follow the banks, the home world and STILE alone. -/
theorem gpr_of_sameRegs {s s' : State} {t : Thread} (home : homeEncl s' t = homeEncl s t)
    (stile : (thr s' t).stile = (thr s t).stile) (regs : SameRegs t s s') (r : Gpr) : gpr s' t r = gpr s t r := by
  obtain ⟨commons, encl⟩ := regs
  have bank : onEnclBank s' t = onEnclBank s t := by rw [onEnclBank, onEnclBank, home, stile]
  rw [gpr, gpr, bank, commons, encl]

section
variable {s : State} {t : Thread} {k : Nat} (due : deliverable s t = some k)
  (loaded : linesLoading s (intEncl s t k) = false) (free : intEncl s t k = true → enclFree s = true)
  (started : (thr s t).run = .running → (thr s t).starting = false)
include due loaded free started

/-- A deliverable interrupt starts where nothing holds it: its world's lines loaded, its code not halted, its thread past
a task's start. -/
theorem interruptOp_takes : interruptOp t s = crossDebug t (inEncl s t)
    (takeInterrupt t k (intEncl s t k) (abandon t s).1 (interruptMeets t s)) := by
  have past : starting s t = false := by
    rw [starting, Bool.and_eq_false_iff, decide_eq_false_iff_not]
    by_cases running : (thr s t).run = .running
    · exact .inl (started running)
    · exact .inr running
  have go : ¬ (linesLoading s (intEncl s t k) || (intEncl s t k && !enclFree s) || starting s t) = true := by
    rw [loaded, past]
    cases world : intEncl s t k with
    | false => exact Bool.false_ne_true
    | true => rw [free world]; decide
  unfold interruptOp
  rw [due]
  exact if_neg go

theorem thr_interruptOp (u : Thread) : thr (interruptOp t s) u =
    thr (takeInterrupt t k (intEncl s t k) (abandon t s).1 (interruptMeets t s)) u := by
  rw [interruptOp_takes due loaded free started, thr_crossDebug]

/-- The handler starts at its entry with the thread's status saved. -/
theorem interruptOp_enters :
    let x := thr (interruptOp t s) t
    x.inInt = true ∧ x.run = .running ∧ x.pc = entryAddr s (intEncl s t k) (8 + k) ∧
    (∀ j, x.ext.ipend.getLsbD j = (decide (j ≠ k) && (thr s t).ext.ipend.getLsbD j)) ∧
    x.ext.now.epc = (abandon t s).1 ∧
    x.ext.now.ests = BitVec.ofNat 32 ((if (thr s t).run = .idle then 2 ^ 31 else 0) +
      (if inEncl s t then 2 ^ 30 else 0) + (thr s t).flags.toNat) := by
  obtain ⟨least, -, -⟩ := of_deliverable due
  have only := interruptMeets_only t s
  have progress := interruptMeets_progress t s
  have world := inEncl_of_progress only progress
  have flags : (thr (interruptMeets t s) t).flags = (thr s t).flags := by rw [thr_interruptMeets, abandon_flags]
  unfold OnlyProgress at progress
  have run : (thr (interruptMeets t s) t).run = (thr s t).run := by rw [progress]
  have ext : (thr (interruptMeets t s) t).ext = (thr s t).ext := by rw [progress]
  have starts := takeInterrupt_starts t k (intEncl s t k) (abandon t s).1 (interruptMeets t s)
  rw [← thr_interruptOp due loaded free started, entryAddr_of_only only, world, flags, run, ext, statusWord_eq] at starts
  obtain ⟨inInt, running, pc, ipend, epc, ests⟩ := starts
  refine ⟨inInt, running, pc, fun j => ?_, epc, ?_⟩
  · rw [ipend, setBit_clear_getLsbD _ (by omega)]
  · rw [ests]; simp only [decide_eq_true_eq]

/-- Of the thread that the abandoned instruction leaves, the handler finds these as they were. -/
theorem interruptOp_keeps :
    let x := thr (interruptOp t s) t
    x.flags = (thr s t).flags ∧ x.task = (thr s t).task ∧ x.stile = (thr s t).stile ∧
    x.latch = (thr (abandon t s).2 t).latch ∧ SameRegs t (abandon t s).2 (interruptOp t s) := by
  have progress := (abandon_only t s).2
  unfold OnlyProgress at progress
  have task : (thr (abandon t s).2 t).task = (thr s t).task := by rw [progress]
  have stile : (thr (abandon t s).2 t).stile = (thr s t).stile := by rw [progress]
  have keeps := takeInterrupt_keeps t k (intEncl s t k) (abandon t s).1 (interruptMeets t s)
  rw [← thr_interruptOp due loaded free started, thr_interruptMeets, abandon_flags, task, stile] at keeps
  exact keeps

theorem gpr_interruptOp (r : Gpr) : gpr (interruptOp t s) t r = gpr (abandon t s).2 t r := by
  obtain ⟨only, progress⟩ := abandon_only t s
  obtain ⟨-, -, stile, -, regs⟩ := interruptOp_keeps due loaded free started
  unfold OnlyProgress at progress
  have drill : (interruptOp t s).drill = s.drill := by simp
  refine gpr_of_sameRegs ?_ (by rw [stile, progress]) regs r
  rw [homeEncl_of_only only, homeEncl, drill]; rfl

theorem thr_interruptOp_other {u : Thread} (other : u ≠ t) : thr (interruptOp t s) u = thr s u := by
  obtain ⟨-, -, others, -⟩ := interruptMeets_only t s
  rw [thr_interruptOp due loaded free started, takeInterrupt_other other, others u other]

theorem interruptStart_takes :
    ∃ s', exec (.interruptStart t) s = .next s' ∧ (thr s' t).inInt = true ∧ (thr s' t).run = .running ∧
      (thr s' t).pc = (if intEncl s t k then s.cores.vbaseE else s.cores.vbaseC) + BitVec.ofNat 32 (32 * (8 + k)) ∧
      (∀ j, (thr s' t).ext.ipend.getLsbD j = (decide (j ≠ k) && (thr s t).ext.ipend.getLsbD j)) ∧
      (thr s' t).ext.now.ests = BitVec.ofNat 32 ((if (thr s t).run = .idle then 2 ^ 31 else 0) +
        (if inEncl s t then 2 ^ 30 else 0) + (thr s t).flags.toNat) ∧
      (thr s' t).flags = (thr s t).flags ∧ (thr s' t).task = (thr s t).task ∧ (thr s' t).stile = (thr s t).stile ∧
      ((thr s t).outstanding = none → (thr s' t).ext.now.epc = pcOf s t ∧ SameRegs t s s' ∧
        (thr s' t).latch = (thr s t).latch) ∧
      (∀ o, (thr s t).outstanding = some o → (thr s' t).ext.now.epc = o.pc ∧
        gpr s' t o.rd = (if o.rd = 0 then 0 else o.old) ∧ (∀ r, r ≠ o.rd → gpr s' t r = gpr s t r) ∧
        (thr s' t).latch = (if o.latched then some (o.pc, o.result) else (thr s t).latch)) ∧
      (∀ u, u ≠ t → thr s' u = thr s u) ∧ s'.mem = s.mem ∧ s'.drill = s.drill := by
  obtain ⟨inInt, run, pc, ipend, epc, ests⟩ := interruptOp_enters due loaded free started
  obtain ⟨flags, task, stile, latch, regs⟩ := interruptOp_keeps due loaded free started
  refine ⟨interruptOp t s, exec_interruptStart t s, inInt, run, pc, ipend, ests, flags, task, stile, fun settled => ?_,
    fun o out => ?_, fun u => thr_interruptOp_other due loaded free started, by simp, by simp⟩
  · rw [abandon_settled settled] at epc latch regs
    exact ⟨epc, regs, latch⟩
  · obtain ⟨own, others, kept⟩ := abandon_restores out
    rw [abandon_pc, out] at epc
    simp only [gpr_interruptOp due loaded free started]
    exact ⟨epc, own, others, latch.trans kept⟩

end

/-! ### Answers that return, and the divider's end (R286, R292, R304, R502) -/

/-- The line stands in the data cache after its fill. -/
theorem fillData_holds (c : Fin 4) (x : CacheLine) (s : State) :
    holdsLine (fillData c x s) x.encl x.line (cache (fillData c x s) c).dlines = true := by
  have seed : (fillData c x s).seed = s.seed := by simp
  have filled : (cache (fillData c x s) c).dlines = (fillInto 32 x (cache s c).dlines s).1 := by
    rw [fillData, cache_setCache_same]
  rw [holdsLine_congr seed, filled]
  exact fillInto_holds ..

theorem thr_settleDone (t u : Thread) (s : State) :
    thr (settleDone t s) u = if u = t then { thr s t with outstanding := none } else thr s u := by
  rw [settleDone, thr_setThr, thr_fillLoad, thr_fillLoad]

theorem core_settleDone (t : Thread) (s : State) (c : Fin 4) : core (settleDone t s) c = core s c := core_fillLoad s t c

/-- A completed load's line stands in its core's data cache. -/
theorem settleDone_fills {t : Thread} {s : State} {o : Outstanding} {x : CacheLine} (out : (thr s t).outstanding = some o)
    (fill : o.fill = some x) :
    holdsLine (settleDone t s) x.encl x.line (cache (settleDone t s) (coreOf t)).dlines = true := by
  have filled : fillLoad t s = fillData (coreOf t) x s := by simp [fillLoad, out, fill]
  have holds := fillData_holds (coreOf t) x s
  rw [← filled] at holds
  exact holds

section
variable {s : State} {t : Thread} {o : Outstanding} (out : (thr s t).outstanding = some o)
include out

theorem dataReturnOp_completes (latched : o.latched = true) {e : Bool} (sound : (e && o.flash) = false) :
    dataReturnOp t e s = settleDone t s := by
  simp [dataReturnOp, out, latched, sound]

theorem dataReturnOp_reads_zero (latched : o.latched = true) {e : Bool} (uncorrectable : (e && o.flash) = true) :
    dataReturnOp t e s = setThr (setGpr t o.rd 0 s) t { thr (setGpr t o.rd 0 s) t with outstanding := none } := by
  simp [dataReturnOp, out, latched, uncorrectable]

theorem dataReturn_returns (latched : o.latched = true) (e : Bool) :
    ∃ s', exec (.dataReturn { thread := t, uncorrectable := e }) s = .next s' ∧ (thr s' t).outstanding = none ∧
      ((e && o.flash) = false → thr s' t = { thr s t with outstanding := none } ∧
        ∀ x, o.fill = some x → holdsLine s' x.encl x.line (cache s' (coreOf t)).dlines = true) ∧
      ((e && o.flash) = true → gpr s' t o.rd = 0 ∧ (∀ r, r ≠ o.rd → gpr s' t r = gpr s t r) ∧
        s' = { s with cores := s'.cores }) ∧
      (∀ u, u ≠ t → thr s' u = thr s u) ∧ (∀ c, core s' c = core s c) ∧
      s' = { s with cores := s'.cores, cache := s'.cache, draws := s'.draws } := by
  have frame := eq_of_same (dataReturnOp_same t e s)
  refine ⟨dataReturnOp t e s, exec_dataReturn .., ?_⟩
  cases met : e && o.flash with
  | false =>
    rw [dataReturnOp_completes out latched met] at frame ⊢
    have own : thr (settleDone t s) t = { thr s t with outstanding := none } := (thr_settleDone t t s).trans (if_pos rfl)
    exact ⟨by rw [own], fun _ => ⟨own, fun x fill => settleDone_fills out fill⟩, nofun,
      fun u other => (thr_settleDone t u s).trans (if_neg other), core_settleDone t s, frame⟩
  | true =>
    rw [dataReturnOp_reads_zero out latched met] at frame ⊢
    have regs := fun r => gpr_setThr (setGpr t o.rd 0 s) t t r
      { thr (setGpr t o.rd 0 s) t with outstanding := none } rfl rfl rfl
    obtain ⟨-, -, others, -⟩ := setGpr_only t o.rd 0 s
    have cores : ∀ c, core (setGpr t o.rd 0 s) c = core s c := fun c => by
      unfold setGpr; dsimp only; (repeat' split) <;> rfl
    refine ⟨by rw [thr_setThr_same], nofun, fun _ => ⟨?_, fun r other => ?_, eq_of_cores ?_⟩, fun u other => ?_, cores, frame⟩
    · rw [regs, gpr_setGpr_same]; split <;> rfl
    · rw [regs, gpr_setGpr_other _ _ _ _ _ _ (.inr other)]
    · simp [SameBut_cores]
    · rw [thr_setThr_other _ other, others u other]

end

theorem dividerFree_completes {s : State} {c : Fin 4} {t : Thread} (holds : (core s c).divider = some t) :
    ∃ s', exec (.dividerFree c) s = .next s' ∧ core s' c = { core s c with divider := none } ∧
      thr s' t = { thr s t with outstanding := none } ∧ (∀ u, u ≠ t → thr s' u = thr s u) ∧
      s' = { s with cores := s'.cores, cache := s'.cache, draws := s'.draws } := by
  have op : dividerFreeOp c s = setCore (settleDone t s) c { core s c with divider := none } := by
    rw [dividerFreeOp, holds]
  have frame := eq_of_same (dividerFreeOp_same c s)
  refine ⟨_, exec_dividerFree c s, ?_, ?_, fun u other => ?_, frame⟩
  · rw [op, core_setCore_same]
  · rw [op, thr_setCore, thr_settleDone, if_pos rfl]
  · rw [op, thr_setCore, thr_settleDone, if_neg other]

/-! ### TICK, KICK and a core's mode (R280, R289, R291) -/

theorem setIpend_pends (t : Thread) {k : Nat} (inside : k < 5) (s : State) (j : Nat) :
    (thr (setIpend t k s) t).ext.ipend.getLsbD j = (decide (j = k) || (thr s t).ext.ipend.getLsbD j) := by
  rw [thr_setIpend_same, setBit_or, BitVec.getLsbD_or, BitVec.getLsbD_ofNat, Nat.testBit_two_pow, Bool.or_comm]
  by_cases e : j = k
  · simp [e, inside]
  · simp [e, Ne.symm e]

theorem tick_expires {s : State} {t : Thread} (runs : (thr s t).ext.tick ≠ 0) :
    ∃ s', exec (.tickExpire t) s = .next s' ∧ (thr s' t).ext.tick = 0 ∧
      (∀ j, (thr s' t).ext.ipend.getLsbD j = (decide (j = 0) || (thr s t).ext.ipend.getLsbD j)) ∧
      (∀ u, u ≠ t → thr s' u = thr s u) ∧ s' = { s with cores := s'.cores } := by
  have own : thr (setTick t 0 s) t = { thr s t with ext := { (thr s t).ext with tick := 0 } } := thr_setThr_same ..
  have ran : exec (.tickExpire t) s = .next (setIpend t 0 (setTick t 0 s)) := by
    rw [exec_tickExpire, execTickExpire, if_neg runs]
  refine ⟨_, ran, ?_, fun j => ?_, fun u other => ?_, eq_of_cores (by simp [SameBut_cores])⟩
  · rw [thr_setIpend_same, own]
  · rw [setIpend_pends t (by decide), own]
  · exact (thr_setIpend_other _ other 0).trans (thr_setThr_other s other _)

theorem tick_stopped {s : State} {t : Thread} (stopped : (thr s t).ext.tick = 0) : exec (.tickExpire t) s = .next s := by
  rw [exec_tickExpire, execTickExpire, if_pos stopped]

section
variable {s : State} {r : Req} {c m : Fin 4} (passes : passesGuard s r 0x57000010 = true) (onCore : isCore s r = true)
include passes onCore

theorem exec_kick_passes : exec (.kick r c m) s = .next (kickOp r (threadAt c.val m.val) s) := by
  rw [exec_kick, execKick, onCore, tryWrite_open passes]

theorem kick_reaches (home : homeEncl s (threadAt c.val m.val) = isEncl s r) :
    ∃ s', exec (.kick r c m) s = .next s' ∧
      (∀ j, (thr s' (threadAt c.val m.val)).ext.ipend.getLsbD j =
        (decide (j = 1) || (thr s (threadAt c.val m.val)).ext.ipend.getLsbD j)) ∧
      (∀ u, u ≠ threadAt c.val m.val → thr s' u = thr s u) ∧ s' = { s with cores := s'.cores } := by
  have ran : exec (.kick r c m) s = .next (setIpend (threadAt c.val m.val) 1 s) := by
    rw [exec_kick_passes passes onCore, kickOp, if_pos (beq_iff_eq.2 home)]
  exact ⟨_, ran, setIpend_pends _ (by decide) s, fun u other => thr_setIpend_other s other 1,
    eq_of_cores (by simp [SameBut_cores])⟩

theorem kick_refused (foreign : homeEncl s (threadAt c.val m.val) ≠ isEncl s r) : RefusedSilently (.kick r c m) r s := by
  apply refusedSilently_of_violate (kind := .block) (a := 0x57000010)
  rw [exec_kick_passes passes onCore, kickOp, if_neg fun same => foreign (beq_iff_eq.1 same)]

end

theorem coreMode_changes {s : State} {c : Fin 4} {b : Bool} (next : (core s c).modeNext = some b)
    (idle : ∀ t ∈ others c, (thr s t).run = .idle ∧ (thr s t).inInt = false) :
    ∃ s', exec (.coreModeChange c) s = .next s' ∧ core s' c = { core s c with single := b, modeNext := none } ∧
      (∀ u, thr s' u = thr s u) ∧ s' = { s with cores := s'.cores } := by
  have all : ((others c).all fun t => decide ((thr s t).run = .idle) && !(thr s t).inInt) = true :=
    List.all_eq_true.2 fun t other => by simp [idle t other]
  have ran : exec (.coreModeChange c) s = .next (setCore s c { core s c with single := b, modeNext := none }) := by
    simp only [exec_coreModeChange, execCoreModeChange, next, all, if_true]
  exact ⟨_, ran, core_setCore_same .., fun _ => rfl, rfl⟩

/-- Settles O28: an interrupt's start from what it meets, each other event of a core by its own operation. -/
theorem interruptsAndCoreEvents : Obligations.InterruptsAndCoreEvents := by
  unfold Obligations.InterruptsAndCoreEvents
  refine ⟨fun s t k due loaded free started => ?_, fun s => ⟨fun t o e out latched => dataReturn_returns out latched e,
    fun c t => dividerFree_completes, fun t => tick_expires, fun t => tick_stopped,
    fun r c m passes onCore => ⟨kick_reaches passes onCore, kick_refused passes onCore⟩, fun c b => coreMode_changes⟩⟩
  obtain ⟨least, pending, outside⟩ := of_deliverable due
  exact ⟨least, pending, outside, interruptStart_takes due loaded free started⟩

end Sys2Proof.Machine
end

section
/-! PROOFS. The cores' instruction words: each format's fields read back (R300), and with them the word of every well-formed
instruction decodes to it (R301 to R319). -/

namespace Sys2Proof.Machine

/-! ### The fields of a format (R300) -/

section
variable (op : BitVec 6) (d a b : Gpr) (fn : BitVec 11)

/-- A word's opcode, registers and FN in format R. -/
theorem encR_fields : opOf (encR op d a b fn) = op.toNat ∧ fieldA (encR op d a b fn) = d ∧ fieldB (encR op d a b fn) = a ∧
    fieldC (encR op d a b fn) = b ∧ fnOf (encR op d a b fn) = fn.toNat := by
  unfold encR opOf fieldA fieldB fieldC fnOf
  refine ⟨congrArg BitVec.toNat ?_, ?_, ?_, ?_, congrArg BitVec.toNat BitVec.extractLsb'_append_eq_right⟩
  all_goals repeat rw [BitVec.extractLsb'_append_eq_of_le (by decide)]
  · exact BitVec.extractLsb'_eq_self
  all_goals exact BitVec.extractLsb'_append_eq_right

end

/-- Formats I, S and Y. -/
theorem encI_fields (op : BitVec 6) (x y : Gpr) (imm : Half) : opOf (encI op x y imm) = op.toNat ∧
    fieldA (encI op x y imm) = x ∧ fieldB (encI op x y imm) = y ∧ immOf (encI op x y imm) = imm := by
  unfold encI opOf fieldA fieldB immOf
  refine ⟨congrArg BitVec.toNat ?_, ?_, ?_, BitVec.extractLsb'_append_eq_right⟩
  all_goals repeat rw [BitVec.extractLsb'_append_eq_of_le (by decide)]
  · exact BitVec.extractLsb'_eq_self
  all_goals exact BitVec.extractLsb'_append_eq_right

theorem encB_fields (op : BitVec 6) (cond : BitVec 4) (off : BitVec 22) : opOf (encB op cond off) = op.toNat ∧
    condOf (encB op cond off) = cond ∧ off22Of (encB op cond off) = off := by
  unfold encB opOf condOf off22Of
  refine ⟨congrArg BitVec.toNat ?_, ?_, BitVec.extractLsb'_append_eq_right⟩
  all_goals repeat rw [BitVec.extractLsb'_append_eq_of_le (by decide)]
  · exact BitVec.extractLsb'_eq_self
  · exact BitVec.extractLsb'_append_eq_right

theorem encJ_fields (op : BitVec 6) (off : BitVec 26) : opOf (encJ op off) = op.toNat ∧ off26Of (encJ op off) = off := by
  unfold encJ opOf off26Of
  refine ⟨congrArg BitVec.toNat ?_, BitVec.extractLsb'_append_eq_right⟩
  rw [BitVec.extractLsb'_append_eq_of_le (by decide)]
  exact BitVec.extractLsb'_eq_self

theorem encT_fields (tfn td ta tb : BitVec 4) (a b : Gpr) : opOf (encT tfn td ta tb a b) = 0x38 ∧
    tfnOf (encT tfn td ta tb a b) = tfn.toNat ∧ tdOf (encT tfn td ta tb a b) = td ∧ taOf (encT tfn td ta tb a b) = ta ∧
    tbOf (encT tfn td ta tb a b) = tb ∧ trs1Of (encT tfn td ta tb a b) = a ∧ trs2Of (encT tfn td ta tb a b) = b := by
  unfold encT opOf tfnOf tdOf taOf tbOf trs1Of trs2Of
  refine ⟨congrArg BitVec.toNat (a₂ := 0x38#6) ?_, congrArg BitVec.toNat ?_, ?_, ?_, ?_, ?_,
    BitVec.extractLsb'_append_eq_right⟩
  all_goals repeat rw [BitVec.extractLsb'_append_eq_of_le (by decide)]
  · exact BitVec.extractLsb'_eq_self
  all_goals exact BitVec.extractLsb'_append_eq_right

/-- The shift's parts of imm16: the kind, the bits that must be zero, the amount (R301). -/
theorem encI_shift (op : BitVec 6) (x y : Gpr) (kind : BitVec 2) (zeros : BitVec 9) (sh : BitVec 5) :
    (encI op x y (kind ++ zeros ++ sh)).extractLsb' 14 2 = kind ∧
    (encI op x y (kind ++ zeros ++ sh)).extractLsb' 5 9 = zeros ∧
    (encI op x y (kind ++ zeros ++ sh)).extractLsb' 0 5 = sh := by
  unfold encI
  refine ⟨?_, ?_, ?_⟩
  all_goals rw [BitVec.extractLsb'_append_eq_of_add_le (by decide)]
  · rw [BitVec.extractLsb'_append_eq_of_le (by decide), BitVec.extractLsb'_append_eq_of_le (by decide)]
    exact BitVec.extractLsb'_eq_self
  · rw [BitVec.extractLsb'_append_eq_of_le (by decide)]
    exact BitVec.extractLsb'_append_eq_right
  · exact BitVec.extractLsb'_append_eq_right

/-! ### Words whose fields hold more than an operand -/

/-- A shift immediate by its kind (R301). -/
theorem decodeCore_shift (t : Thread) (d a : Gpr) (kind : BitVec 2) (sh : BitVec 5) :
    decodeCore t (encI 0x0A d a (kind ++ 0#9 ++ sh)) = (match kind.toNat with
      | 0 => some (.shiSll t d a sh)
      | 1 => some (.shiSrl t d a sh)
      | 2 => some (.shiSra t d a sh)
      | _ => none) := by
  obtain ⟨op, fa, fb, -⟩ := encI_fields 0x0A d a (kind ++ 0#9 ++ sh)
  obtain ⟨kinds, zeros, amount⟩ := encI_shift 0x0A d a kind 0#9 sh
  have shi : decodeCore t (encI 0x0A d a (kind ++ 0#9 ++ sh)) = decodeShi t (encI 0x0A d a (kind ++ 0#9 ++ sh)) := by
    rw [decodeCore, op]; rfl
  rw [shi, decodeShi, zeros, kinds, amount, fa, fb]
  rfl

/-- COND 15 alone is no branch (R309). -/
theorem decodeCore_bcc (t : Thread) {cond : BitVec 4} (listed : cond ≠ 15) (off : BitVec 22) :
    decodeCore t (encB 0x20 cond off) = some (.bcc t cond off) := by
  simpa [decodeCore, encB_fields, when] using listed

/-- TDONE's status is the low byte of imm16, the rest zero (R316). -/
theorem status_imm (st : Byte) : (0#8 ++ st : Half).toNat < 256 ∧ (0#8 ++ st : Half).setWidth 8 = st := by
  revert st; decide

theorem decodeCore_tdone (t : Thread) (st : Byte) : decodeCore t (encY 9 0 (0#8 ++ st)) = some (.tdone t st) := by
  obtain ⟨op, fn, r, imm⟩ := encI_fields 0x3F 9 0 (0#8 ++ st)
  obtain ⟨byte, value⟩ := status_imm st
  have system : decodeCore t (encY 9 0 (0#8 ++ st)) = decodeSystem t (encY 9 0 (0#8 ++ st)) := by
    rw [decodeCore, encY, op]; rfl
  rw [system, decodeSystem, encY, fn, r, imm]
  simp [when, byte, value]

@[simp] theorem toFin_tileBits (t : Tile) : (tileBits t).toFin = t := by revert t; decide

/-! ### The round trip -/

/-- Each core instruction's word decodes to it on its own thread: by opcode, then by the fields of its format. -/
theorem decodeCore_encodeCore {i : Instr} {w : Word} (wf : i.wf = true) (word : encodeCore i = some w) :
    ∃ t, decodeCore t w = some i := by
  revert word
  fun_cases encodeCore i
  all_goals intro word; cases word
  case case32 t d a sh => exact ⟨t, decodeCore_shift t d a 0 sh⟩
  case case33 t d a sh => exact ⟨t, decodeCore_shift t d a 1 sh⟩
  case case34 t d a sh => exact ⟨t, decodeCore_shift t d a 2 sh⟩
  case case50 t cond off => exact ⟨t, decodeCore_bcc t (of_decide_eq_true wf) off⟩
  case case66 t status => exact ⟨t, decodeCore_tdone t status⟩
  case case56 t d a b =>
    have distinct : bmovOk d a b = true := wf
    exact ⟨t, by simp [decodeCore, encR_fields, when, distinct]⟩
  all_goals simp [decodeCore, encR_fields, encI_fields, encJ_fields, encT_fields, encY, decodeAlu, decodeMul, decodeAmo,
    decodeTask, decodeTile, decodeSystem, when]

/-- Settles O7: format by format the fields read back, and the opcode's decoder finds the instruction. -/
theorem coreWordRoundTrip : Obligations.CoreWordRoundTrip := by
  unfold Obligations.CoreWordRoundTrip
  exact fun i w => decodeCore_encodeCore

/-- Settles O8: each word decoded. -/
theorem coreWordExamples : Obligations.CoreWordExamples := by
  unfold Obligations.CoreWordExamples
  decide

end Sys2Proof.Machine
end

section
/-! PROOFS. The integer, multiply and divide instructions and those on FLAGS (R298, R301 to R305, R314). -/

namespace Sys2Proof.Machine

/-! ### The forms with one result (R301, R302) -/

section
variable {s : State} {t : Thread} {rd a b : Gpr} {c : Instr} {op : Word → Word → Word} {v : Word} (runs : canRun s t = true)
include runs

theorem writesRegister_aluRR (form : exec c s = onThread t (aluRR t rd a b op) s) (value : op (gpr s t a) (gpr s t b) = v) :
    WritesRegister c t rd v s :=
  writesRegister_of (fun s => op (gpr s t a) (gpr s t b)) runs form (by rw [gpr_issue, gpr_issue, value])

theorem writesRegister_aluRI {imm : Word} (form : exec c s = onThread t (aluRI t rd a imm op) s)
    (value : op (gpr s t a) imm = v) : WritesRegister c t rd v s :=
  writesRegister_of (fun s => op (gpr s t a) imm) runs form (by rw [gpr_issue, value])

end

/-! ### Values of the ALU group (R303) -/

section
variable (x y : Word) (imm : Half)

theorem add_eq_ofNat : x + y = BitVec.ofNat 32 (x.toNat + y.toNat) := by simp [BitVec.ofNat_add]
theorem sub_eq_ofInt : x - y = BitVec.ofInt 32 (x.toNat - y.toNat) := by
  rw [Int.sub_eq_add_neg, BitVec.ofInt_add, BitVec.ofInt_neg]
  simp [BitVec.sub_eq_add_neg]

theorem shiftLeft_eq_ofNat (n : Nat) : x <<< n = BitVec.ofNat 32 (x.toNat * 2 ^ n) := by
  apply BitVec.eq_of_toNat_eq
  rw [BitVec.toNat_shiftLeft, BitVec.toNat_ofNat, Nat.shiftLeft_eq]

theorem ushiftRight_eq_ofNat (n : Nat) : x >>> n = BitVec.ofNat 32 (x.toNat / 2 ^ n) := by
  apply BitVec.eq_of_toNat_eq
  rw [BitVec.toNat_ushiftRight, BitVec.toNat_ofNat, Nat.shiftRight_eq_div_pow,
    Nat.mod_eq_of_lt (Nat.lt_of_le_of_lt (Nat.div_le_self ..) x.isLt)]

theorem sshiftRight_eq_ofInt (n : Nat) : x.sshiftRight n = BitVec.ofInt 32 (x.toInt / 2 ^ n) := by
  rw [BitVec.sshiftRight, Int.shiftRight_eq_div_pow]; norm_cast

theorem b2w_decide (p : Prop) [Decidable p] : b2w (decide p) = if p then 1 else 0 := by
  by_cases h : p <;> simp [b2w, bit, h]

theorem minS_eq_ofInt : (if slt y x then y else x) = BitVec.ofInt 32 (min x.toInt y.toInt) := by
  simp only [slt, decide_eq_true_eq]
  split
  · rw [min_eq_right (by omega), BitVec.ofInt_toInt]
  · rw [min_eq_left (by omega), BitVec.ofInt_toInt]

theorem maxS_eq_ofInt : (if slt x y then y else x) = BitVec.ofInt 32 (max x.toInt y.toInt) := by
  simp only [slt, decide_eq_true_eq]
  split
  · rw [max_eq_right (by omega), BitVec.ofInt_toInt]
  · rw [max_eq_left (by omega), BitVec.ofInt_toInt]

theorem minU_eq_ofNat : (if ult y x then y else x) = BitVec.ofNat 32 (min x.toNat y.toNat) := by
  simp only [ult, decide_eq_true_eq]
  split
  · rw [min_eq_right (by omega), BitVec.ofNat_toNat, BitVec.setWidth_eq]
  · rw [min_eq_left (by omega), BitVec.ofNat_toNat, BitVec.setWidth_eq]

theorem maxU_eq_ofNat : (if ult x y then y else x) = BitVec.ofNat 32 (max x.toNat y.toNat) := by
  simp only [ult, decide_eq_true_eq]
  split
  · rw [max_eq_right (by omega), BitVec.ofNat_toNat, BitVec.setWidth_eq]
  · rw [max_eq_left (by omega), BitVec.ofNat_toNat, BitVec.setWidth_eq]

theorem simm_toInt : (simm imm).toInt = imm.toInt := BitVec.toInt_signExtend_of_le (by decide)

theorem add_simm : x + simm imm = BitVec.ofInt 32 (x.toNat + imm.toInt) := by
  rw [BitVec.ofInt_add, ← simm_toInt, BitVec.ofInt_toInt]; simp

theorem upperImm : zimm imm * 65536 = BitVec.ofNat 32 (imm.toNat * 65536) := by
  apply BitVec.eq_of_toNat_eq
  simp [zimm]

theorem shamt_setWidth (sh : BitVec 5) : shamt (sh.setWidth 32) = sh.toNat := by
  have := sh.isLt
  simp only [shamt, BitVec.toNat_setWidth]; omega

/-- CLZ's number: below its leading zeros lies the value, and the next bit is set. -/
theorem leadingZeros_bounds (k : Nat) : leadingZeros x k ≤ k ∧ x.toNat % 2 ^ k < 2 ^ (k - leadingZeros x k) ∧
    (leadingZeros x k < k → 2 ^ (k - 1 - leadingZeros x k) ≤ x.toNat % 2 ^ k) := by
  induction k with
  | zero => simp [leadingZeros, Nat.mod_one]
  | succ k ih =>
    obtain ⟨most, below, top⟩ := ih
    have step : x.toNat % 2 ^ (k + 1) = x.toNat % 2 ^ k + 2 ^ k * (x.toNat / 2 ^ k % 2) := Nat.mod_pow_succ
    have bit : x.getLsbD k = decide (x.toNat / 2 ^ k % 2 = 1) := Nat.testBit_eq_decide_div_mod_eq
    by_cases set : x.getLsbD k = true
    · rw [leadingZeros, if_pos set]
      rw [bit, decide_eq_true_eq] at set
      rw [set] at step
      refine ⟨Nat.zero_le _, Nat.mod_lt _ (Nat.two_pow_pos _), fun _ => ?_⟩
      simp only [Nat.add_sub_cancel, Nat.sub_zero]; omega
    · rw [leadingZeros, if_neg set]
      rw [bit, decide_eq_true_eq] at set
      rw [show x.toNat / 2 ^ k % 2 = 0 by omega, Nat.mul_zero, Nat.add_zero] at step
      rw [step, show k + 1 - (leadingZeros x k + 1) = k - leadingZeros x k by omega,
        show k + 1 - 1 - (leadingZeros x k + 1) = k - 1 - leadingZeros x k by omega]
      exact ⟨by omega, below, fun more => top (by omega)⟩

theorem setBitsOf_eq (k : Nat) : setBitsOf x k = ((List.range k).filter fun i => x.getLsbD i).length := by
  induction k with
  | zero => rfl
  | succ k ih =>
    rw [setBitsOf, ih, List.range_succ, List.filter_append, List.length_append, Nat.add_comm]
    cases set : x.getLsbD k <;> simp [bit, set]

theorem byteAt_byteSwap {k : Nat} (inside : k < 4) : byteAt (byteSwap x) k = byteAt x (3 - k) := by
  unfold byteAt byteSwap
  interval_cases k
  · exact BitVec.extractLsb'_append_eq_right
  · rw [BitVec.extractLsb'_append_eq_of_le (by decide)]
    exact BitVec.extractLsb'_append_eq_right
  · rw [BitVec.extractLsb'_append_eq_of_le (by decide), BitVec.extractLsb'_append_eq_of_le (by decide)]
    exact BitVec.extractLsb'_append_eq_right
  · rw [BitVec.extractLsb'_append_eq_of_le (by decide), BitVec.extractLsb'_append_eq_of_le (by decide),
      BitVec.extractLsb'_append_eq_of_le (by decide)]
    exact BitVec.extractLsb'_eq_self

end

/-- Settles O10: each form writes its one result, its value on integers. -/
theorem registerForms : Obligations.RegisterForms := by
  unfold Obligations.RegisterForms
  refine ⟨fun s t rd a b imm sh runs => ?_, fun s t rd a runs => ?_⟩
  · intro x y sx zx
    refine ⟨?_, ?_, ?_, ?_, ?_, ?_, ?_, ?_, ?_, ?_, ?_, ?_, ?_, ?_, ?_, ?_, ?_, ?_, ?_, ?_, ?_, ?_, ?_, ?_⟩
    · exact writesRegister_aluRR runs rfl (add_eq_ofNat x y)
    · exact writesRegister_aluRR runs rfl (sub_eq_ofInt x y)
    · exact writesRegister_aluRR runs rfl rfl
    · exact writesRegister_aluRR runs rfl rfl
    · exact writesRegister_aluRR runs rfl rfl
    · exact writesRegister_aluRR runs rfl (shiftLeft_eq_ofNat x _)
    · exact writesRegister_aluRR runs rfl (ushiftRight_eq_ofNat x _)
    · exact writesRegister_aluRR runs rfl (sshiftRight_eq_ofInt x _)
    · exact writesRegister_aluRR runs rfl (b2w_decide _)
    · exact writesRegister_aluRR runs rfl (b2w_decide _)
    · exact writesRegister_aluRR runs rfl (minS_eq_ofInt x y)
    · exact writesRegister_aluRR runs rfl (maxS_eq_ofInt x y)
    · exact writesRegister_aluRR runs rfl (minU_eq_ofNat x y)
    · exact writesRegister_aluRR runs rfl (maxU_eq_ofNat x y)
    · exact writesRegister_aluRI runs rfl (add_simm x imm)
    · exact writesRegister_aluRI runs rfl rfl
    · exact writesRegister_aluRI runs rfl rfl
    · exact writesRegister_aluRI runs rfl rfl
    · exact writesRegister_aluRI runs rfl (by rw [slt, b2w_decide, simm_toInt])
    · exact writesRegister_aluRI runs rfl (b2w_decide _)
    · exact writesRegister_aluRI runs rfl (by rw [shamt_setWidth, shiftLeft_eq_ofNat])
    · exact writesRegister_aluRI runs rfl (by rw [shamt_setWidth, ushiftRight_eq_ofNat])
    · exact writesRegister_aluRI runs rfl (by rw [shamt_setWidth, sshiftRight_eq_ofInt])
    · exact writesRegister_of (fun _ => zimm imm * 65536) runs rfl (upperImm imm)
  · intro x
    obtain ⟨most, below, top⟩ := leadingZeros_bounds x 32
    rw [Nat.mod_eq_of_lt x.isLt] at below top
    exact ⟨⟨leadingZeros x 32, most, below, top, writesRegister_aluRI runs rfl rfl⟩,
      writesRegister_aluRI runs rfl (congrArg _ (setBitsOf_eq x 32)),
      ⟨byteSwap x, fun k => byteAt_byteSwap x, writesRegister_aluRI runs rfl rfl⟩⟩

/-! ### The divider (R286, R304) -/

theorem setDivider_only (t : Thread) (d : Option Thread) (s : State) :
    OnlyThread t s (setCore s (coreOf t) { core s (coreOf t) with divider := d }) :=
  ⟨rfl, rfl, fun _ _ => rfl, fun _ other => core_setCore_other _ other _, by simp, fun _ _ => rfl, rfl⟩

/-- A note of what an interrupt may abandon is no part of a register form's frame. -/
theorem registerFrame_noted {t : Thread} {rd : Gpr} {s s' : State} (frame : RegisterFrame t rd s s') (o : Option Outstanding) :
    RegisterFrame t rd s (noteOutstanding t o s') := by
  obtain ⟨only, progress, ⟨others, bank⟩, status⟩ := frame
  refine ⟨only_trans only (setThr_only ..), progress_trans progress (by simp [OnlyProgress, noteOutstanding]),
    ⟨fun r other => (gpr_noteOutstanding ..).trans (others r other), ?_⟩, ?_⟩
  · simpa [noteOutstanding] using bank
  · simpa [SameStatus, noteOutstanding] using status

theorem registerFrame_divider {t : Thread} {rd : Gpr} {s s' : State} (frame : RegisterFrame t rd s s') (d : Option Thread) :
    RegisterFrame t rd s (setCore s' (coreOf t) { core s' (coreOf t) with divider := d }) := by
  obtain ⟨only, progress, regs, status⟩ := frame
  exact ⟨only_trans only (setDivider_only ..), progress, regs, status⟩

/-- What a DIV-group instruction does: a register form whose result may be undone, and the core's divider taken. -/
theorem divideOp_eq (t : Thread) (rd a b : Gpr) (op : Word → Word → Word) (s : State) : ∃ o,
    let s' := noteOutstanding t o (writeNext t rd (op (gpr s t a) (gpr s t b)) s)
    divideOp t rd a b op s = setCore s' (coreOf t) { core s' (coreOf t) with divider := some t } := ⟨_, rfl⟩

section
variable {s : State} {t : Thread} {rd a b : Gpr} {c : Instr} {op : Word → Word → Word} {v : Word} (runs : canRun s t = true)
  (form : exec c s = onDivider t (divideOp t rd a b op) s)
include runs form

section
variable (free : (core s (coreOf t)).divider = none ∨ (core s (coreOf t)).divider = some t)
include free

theorem exec_divide : exec c s = .next (divideOp t rd a b op (issue t s)) := by
  have unheld : dividerHeld s t = false := by rcases free with h | h <;> simp [dividerHeld, h]
  simp [form, onDivider, runs, unheld]

theorem divide_writes (value : op (gpr s t a) (gpr s t b) = v) : WritesRegister c t rd v s := by
  obtain ⟨o, divided⟩ := divideOp_eq t rd a b op (issue t s)
  rw [gpr_issue, gpr_issue, value] at divided
  obtain ⟨own, pc, frame⟩ := writeNext_frame s t rd v
  refine ⟨_, exec_divide runs form free, ?_, ?_, ?_⟩ <;> rw [divided]
  · rw [gpr_setCore, gpr_noteOutstanding]; exact own
  · rw [pcOf_setCore, pcOf_noteOutstanding]; exact pc
  · exact registerFrame_divider (registerFrame_noted frame o) _

theorem divide_takes : ∃ s', exec c s = .next s' ∧ (core s' (coreOf t)).divider = some t :=
  ⟨_, exec_divide runs form free, by rw [divideOp, core_setCore_same]⟩

end

theorem divide_waits {u : Thread} (other : u ≠ t) (held : (core s (coreOf t)).divider = some u) : exec c s = .next s := by
  have unfree : dividerHeld s t = true := by simp [dividerHeld, held, other]
  simp [form, onDivider, runs, unfree]

end

/-! ### Quotients and remainders (R304, R305) -/

theorem remS_eq (x y : Word) : remS x y = BitVec.ofInt 32 (x.toInt - x.toInt.tdiv y.toInt * y.toInt) := by
  rw [remS, Int.tmod_def, mul_comm]

theorem divide_by_zero (x : Word) : divS x 0 = 0 ∧ divU x 0 = 0 ∧ remS x 0 = x ∧ remU x 0 = x := by
  simp [divS, divU, remS, remU]

/-- The one quotient that does not fit (R305). -/
theorem divide_least : divS 0x80000000 0xFFFFFFFF = 0x80000000 ∧ remS 0x80000000 0xFFFFFFFF = 0 := by decide

/-! ### FLAGS (R298) -/

theorem toInt_bounds (x : Word) : -2 ^ 31 ≤ x.toInt ∧ x.toInt < 2 ^ 31 := ⟨BitVec.le_toInt x, BitVec.toInt_lt⟩

/-- V is the true difference outside the signed range. -/
theorem subOverflows_iff (x y : Word) :
    subOverflows x y = decide (x.toInt - y.toInt < -2 ^ 31 ∨ 2 ^ 31 ≤ x.toInt - y.toInt) := by
  have hx := toInt_bounds x
  have hy := toInt_bounds y
  rw [subOverflows, BitVec.toInt_sub, decide_eq_decide, Int.bmod]
  split <;> omega

theorem cmpFlags_eq (x y : Word) : cmpFlags x y =
    (if x.toInt - y.toInt < -2 ^ 31 ∨ 2 ^ 31 ≤ x.toInt - y.toInt then 8#4 else 0#4) |||
      (if y.toNat ≤ x.toNat then 4#4 else 0#4) ||| (if (x - y).getLsbD 31 then 2#4 else 0#4) ||| (if x = y then 1#4 else 0#4) := by
  have word : ∀ z n c v : Bool, BitVec.ofNat 4 (bit z + 2 * bit n + 4 * bit c + 8 * bit v) =
      (if v then 8#4 else 0#4) ||| (if c then 4#4 else 0#4) ||| (if n then 2#4 else 0#4) ||| (if z then 1#4 else 0#4) := by
    decide
  rw [cmpFlags, word, subOverflows_iff, BitVec.msb_eq_getLsbD_last]
  simp only [decide_eq_true_eq]

/-- Settles O11: the products by value, the DIV group by its divider and its divisor, then the four on FLAGS. -/
theorem multiplyDivideAndFlags : Obligations.MultiplyDivideAndFlags := by
  unfold Obligations.MultiplyDivideAndFlags
  refine ⟨fun s t rd a b runs => ?_, fun s t rd a b imm runs => ?_⟩
  · intro x y
    refine ⟨writesRegister_aluRR runs rfl ?_, writesRegister_aluRR runs rfl rfl, writesRegister_aluRR runs rfl rfl,
      fun free => ⟨fun zero => ?_, fun _ => ⟨fun _ => ⟨?_, ?_⟩, ?_, ?_⟩, fun ⟨hx, hy⟩ => ⟨?_, ?_⟩, ?_⟩, fun u other held =>
      ⟨divide_waits runs rfl other held, divide_waits runs rfl other held, divide_waits runs rfl other held,
        divide_waits runs rfl other held⟩⟩
    · simp [x, y, BitVec.ofNat_mul]
    · obtain ⟨quot, quotU, rest, restU⟩ := divide_by_zero x
      exact ⟨divide_writes runs rfl free ((congrArg (divS x) zero).trans quot),
        divide_writes runs rfl free ((congrArg (divU x) zero).trans quotU),
        divide_writes runs rfl free ((congrArg (remS x) zero).trans rest),
        divide_writes runs rfl free ((congrArg (remU x) zero).trans restU)⟩
    · exact divide_writes runs rfl free rfl
    · exact divide_writes runs rfl free (remS_eq x y)
    · exact divide_writes runs rfl free rfl
    · exact divide_writes runs rfl free rfl
    · exact divide_writes runs rfl free ((congrArg₂ divS hx hy).trans divide_least.1)
    · exact divide_writes runs rfl free ((congrArg₂ remS hx hy).trans divide_least.2)
    · rintro c (rfl | rfl | rfl | rfl) <;> exact divide_takes runs rfl free
  · intro flagsOf
    refine ⟨writesFlags_of (fun s => cmpFlags (gpr s t a) (gpr s t b)) runs rfl ?_,
      writesFlags_of (fun s => cmpFlags (gpr s t a) (simm imm)) runs rfl ?_,
      writesFlags_of (fun s => (gpr s t a).setWidth 4) runs rfl (by rw [gpr_issue]),
      writesRegister_of (fun s => (thr s t).flags.setWidth 32) runs rfl ?_⟩
    · rw [gpr_issue, gpr_issue, cmpFlags_eq]
    · rw [gpr_issue, cmpFlags_eq]; rfl
    · rw [flags_issue, BitVec.ofNat_toNat]

end Sys2Proof.Machine
end

section
/-! PROOFS. Branches, jumps, the link register and the return stack (R281, R300, R309, R310). -/

namespace Sys2Proof.Machine

/-! ### Targets (R300) -/

theorem pcOf_toNat_mod (s : State) (t : Thread) : (pcOf s t).toNat % 4 = 0 := by
  rw [pcOf, wordAddr_toNat]; omega

theorem wordAddr_of_aligned {x : Word} (aligned : x.toNat % 4 = 0) : x &&& ~~~3#32 = x := by
  apply BitVec.eq_of_toNat_eq
  rw [wordAddr_toNat]; omega

theorem branchTarget_eq {n : Nat} (pc : Word) (off : BitVec n) : branchTarget pc off = instrAt pc off.toInt := by
  rw [branchTarget, instrAt, BitVec.ofInt_add, BitVec.ofInt_mul, BitVec.signExtend, mul_comm]
  simp

/-- A target counts instructions, so that its bits 1:0 are 0 as the PC's are. -/
theorem branchTarget_aligned {n : Nat} (s : State) (t : Thread) (off : BitVec n) :
    branchTarget (pcOf s t) off &&& ~~~3#32 = instrAt (pcOf s t) off.toInt := by
  rw [← branchTarget_eq]
  apply wordAddr_of_aligned
  have pc := pcOf_toNat_mod s t
  rw [branchTarget, BitVec.toNat_add, BitVec.toNat_mul, show (4 : Word).toNat = 4 from rfl]
  omega

/-! ### Conditional branches and J (R309, R310) -/

section
variable {s : State} {t : Thread} (runs : canRun s t = true)
include runs

theorem branches_by {n : Nat} {c : Instr} {off : BitVec n} {target : Word} (take : State → Bool)
    (form : exec c s = onThread t (fun s => branchTo t (take s) (branchTarget (pcOf s t) off) s) s)
    (value : (if take (issue t s) then instrAt (pcOf s t) off.toInt else pcOf s t + 4) = target) :
    Branches c t target s :=
  branches_of take _ runs form (by rw [branchTarget_aligned, pcOf_issue]; exact value)

theorem bcc_branches {cond : BitVec 4} (listed : cond ≠ 15) (off : BitVec 22) :
    Branches (.bcc t cond off) t
      (if condHolds (thr s t).flags cond then instrAt (pcOf s t) off.toInt else pcOf s t + 4) s :=
  branches_by (off := off) runs (fun s => condHolds (thr s t).flags cond) (by simp only [exec_bcc, execBcc, if_neg listed])
    (by rw [flags_issue])

theorem cbz_branches (a : Gpr) (imm : Half) :
    Branches (.cbz t a imm) t (if gpr s t a = 0 then instrAt (pcOf s t) imm.toInt else pcOf s t + 4) s :=
  branches_by runs (fun s => decide (gpr s t a = 0)) rfl (by simp only [gpr_issue, decide_eq_true_eq])

theorem cbnz_branches (a : Gpr) (imm : Half) :
    Branches (.cbnz t a imm) t (if gpr s t a ≠ 0 then instrAt (pcOf s t) imm.toInt else pcOf s t + 4) s :=
  branches_by runs (fun s => decide (gpr s t a ≠ 0)) rfl (by simp only [gpr_issue, decide_eq_true_eq])

theorem j_branches (off : BitVec 26) : Branches (.j t off) t (instrAt (pcOf s t) off.toInt) s :=
  branches_by runs (fun _ => true) rfl rfl

end

/-! ### What prediction leaves (R281) -/

section
variable {t : Thread} {s s1 : State} (only : OnlyThread t s s1)
include only

theorem unbranched_resolve (pc target : Word) (taken : Bool) :
    OnlyThread t s (unbranched t s (resolveBranch t pc target taken s1)) := by
  have cores := resolveBranch_cores t pc target taken s1
  exact unbranched_only only (resolveBranch_same ..) (by rw [cores]) (fun u _ => thr_resolveBranch ..)
    (resolveBranch_core ..) (resolveBranch_cache ..)

theorem unbranched_countMispred (wrong : Bool) : OnlyThread t s (unbranched t s (countMispred t wrong s1)) := by
  have cores := countMispred_cores t wrong s1
  have same := countMispred_same t wrong s1
  refine unbranched_only only (same_trans ?_ same) (by rw [cores]) (fun u _ => thr_countMispred ..) (countMispred_core ..)
    ⟨fun c _ => cache_countMispred .., by rw [cache_countMispred]⟩
  simp [SameBut_draws_cores_cache]

end

section
variable {t : Thread} {s r : State} (only : OnlyThread t s (unbranched t s r))
include only

theorem unbranched_setThr (x : Thr) : OnlyThread t s (unbranched t s (setThr r t x)) :=
  only_trans only (setThr_only (unbranched t s r) t x)

theorem unbranched_setGpr (rd : Gpr) (w : Word) : OnlyThread t s (unbranched t s (setGpr t rd w r)) := by
  unfold setGpr; dsimp only
  repeat' split
  · exact only
  · exact unbranched_setThr only _
  · exact unbranched_setThr only _

end

/-! ### JAL and JALR (R310) -/

theorem thr_resolveJalr (t : Thread) (rd a : Gpr) (imm : Half) (target : Word) (s : State) (u : Thread) :
    thr (resolveJalr t rd a imm target s) u = thr s u := by
  unfold resolveJalr
  split
  · exact thr_countMispred ..
  · exact thr_resolveBranch ..

theorem unbranched_resolveJalr {t : Thread} {s s1 : State} (only : OnlyThread t s s1) (rd a : Gpr) (imm : Half) (target : Word) :
    OnlyThread t s (unbranched t s (resolveJalr t rd a imm target s1)) := by
  unfold resolveJalr
  split
  · exact unbranched_countMispred only _
  · exact unbranched_resolve only ..

/-- A register write sees of the state the thread and its home world. -/
theorem thr_setGpr_congr {s r : State} {t : Thread} (own : thr r t = thr s t) (home : homeEncl r t = homeEncl s t) (rd : Gpr)
    (w : Word) : thr (setGpr t rd w r) t = thr (setGpr t rd w s) t := by
  have bank : onEnclBank r t = onEnclBank s t := by rw [onEnclBank, onEnclBank, home, own]
  unfold setGpr
  rw [bank, own]
  by_cases zero : rd = 0#5
  · simpa [zero] using own
  · cases onEnclBank s t <;> simp [zero]

section
variable {s s' : State} {t : Thread} {rd : Gpr} {next pc : Word} {stack : List Word}
  (own : thr s' t = { thr (setGpr t rd next (issue t s)) t with pc := pc, ret := stack })
  (only : OnlyThread t s (unbranched t s s'))
include own only

/-- A jump that links in `rd`: the link, and of the thread no more than its PC and return stack beside it. -/
theorem linked_frame : gpr s' t rd = (if rd = 0 then 0 else next) ∧ (thr s' t).ret = stack ∧
    (thr s' t).flags = (thr s t).flags ∧ (thr s' t).latch = (thr s t).latch ∧ OnlyThread t s (unbranched t s s') ∧
    OnlyProgress t s s' ∧ SameRegsBut t rd s s' := by
  have home : homeEncl s' t = homeEncl s t := homeEncl_of_only only t
  have homeLinked : homeEncl (setGpr t rd next (issue t s)) t = homeEncl s t :=
    homeEncl_of_only (only_trans (issue_only t s) (setGpr_only ..)) t
  have regs : ∀ r, gpr s' t r = gpr (setGpr t rd next (issue t s)) t r :=
    gpr_of_sameRegs (home.trans homeLinked.symm) (by rw [own]) ⟨by rw [own], by rw [own]⟩
  refine ⟨?_, by rw [own], ?_, ?_, only, ?_, fun r other => ?_, ?_⟩
  · rw [regs]; exact gpr_setGpr_same ..
  · rw [own]; exact (flags_setGpr ..).trans (flags_issue ..)
  · rw [own]; exact (latch_setGpr ..).trans (latch_issue ..)
  · have progress := progress_trans (issue_progress t s) (setGpr_progress t rd next (issue t s))
    unfold OnlyProgress at progress ⊢
    rw [own, progress]
  · rw [regs, gpr_setGpr_other _ _ _ _ _ _ (.inr other), gpr_issue]
  · have bank := setGpr_otherBank t rd next (issue t s)
    rw [own]
    simpa using bank

end

theorem jal_links {s : State} {t : Thread} (runs : canRun s t = true) (off : BitVec 26) :
    ∃ s', exec (.jal t off) s = .next s' ∧ pcOf s' t = instrAt (pcOf s t) off.toInt ∧ gpr s' t 31 = pcOf s t + 4 ∧
      (thr s' t).ret = ((pcOf s t + 4) :: (thr s t).ret).take 8 ∧ (thr s' t).flags = (thr s t).flags ∧
      (thr s' t).latch = (thr s t).latch ∧ OnlyThread t s (unbranched t s s') ∧ OnlyProgress t s s' ∧ SameRegsBut t 31 s s' := by
  let linked := pushRet t (pcOf s t + 4) (setGpr t 31 (pcOf s t + 4) (issue t s))
  let resolved := resolveBranch t (pcOf linked t) (branchTarget (pcOf s t) off) true linked
  have ran : exec (.jal t off) s = .next (setPc t (branchTarget (pcOf s t) off) resolved) := by
    rw [exec_jal, execJal, onThread_runs runs, pcOf_issue]; rfl
  have only : OnlyThread t s linked :=
    only_trans (issue_only t s) (only_trans (setGpr_only ..) (pushRet_only ..))
  have own : thr (setPc t (branchTarget (pcOf s t) off) resolved) t = { thr (setGpr t 31 (pcOf s t + 4) (issue t s)) t with
      pc := branchTarget (pcOf s t) off &&& ~~~3#32, ret := ((pcOf s t + 4) :: (thr s t).ret).take 8 } := by
    rw [setPc, thr_setThr_same, thr_resolveBranch, show thr linked t = _ from thr_setThr_same .., ret_setGpr, ret_issue]
  refine ⟨_, ran, ?_, linked_frame own (unbranched_setThr (unbranched_resolve only ..) _)⟩
  rw [pcOf_setPc, branchTarget_aligned]

theorem thr_jalrStack (t : Thread) (rd a : Gpr) (imm : Half) (next : Word) (s : State) :
    thr (jalrStack t rd a imm next s) t = { thr s t with ret := if rd = 31 then (next :: (thr s t).ret).take 8
      else if rd = 0 ∧ a = 31 ∧ imm = 0 then (thr s t).ret.drop 1 else (thr s t).ret } := by
  unfold jalrStack
  (repeat' split)
  · exact thr_setThr_same ..
  · exact thr_setThr_same ..
  · rfl

theorem unbranched_jalrStack {t : Thread} {s r : State} (only : OnlyThread t s (unbranched t s r)) (rd a : Gpr) (imm : Half)
    (next : Word) : OnlyThread t s (unbranched t s (jalrStack t rd a imm next r)) := by
  unfold jalrStack
  (repeat' split)
  · exact unbranched_setThr only _
  · exact unbranched_setThr only _
  · exact only

theorem jalr_links {s : State} {t : Thread} (runs : canRun s t = true) (rd a : Gpr) (imm : Half) :
    ∃ s', exec (.jalr t rd a imm) s = .next s' ∧ pcOf s' t = effAddr s t a imm &&& ~~~3#32 ∧
      gpr s' t rd = (if rd = 0 then 0 else pcOf s t + 4) ∧
      (thr s' t).ret = (if rd = 31 then ((pcOf s t + 4) :: (thr s t).ret).take 8
        else if rd = 0 ∧ a = 31 ∧ imm = 0 then (thr s t).ret.drop 1 else (thr s t).ret) ∧
      (thr s' t).flags = (thr s t).flags ∧ (thr s' t).latch = (thr s t).latch ∧
      OnlyThread t s (unbranched t s s') ∧ OnlyProgress t s s' ∧ SameRegsBut t rd s s' := by
  let resolved := resolveJalr t rd a imm (effAddr s t a imm &&& ~~~3#32) (issue t s)
  let linked := jalrStack t rd a imm (pcOf s t + 4) (setGpr t rd (pcOf s t + 4) resolved)
  have ran : exec (.jalr t rd a imm) s = .next (setPc t (effAddr s t a imm) linked) := by
    rw [exec_jalr, execJalr, onThread_runs runs, pcOf_issue, effAddr_issue]
  have predicted : OnlyThread t s (unbranched t s resolved) := unbranched_resolveJalr (issue_only t s) ..
  have only : OnlyThread t s (unbranched t s linked) := unbranched_jalrStack (unbranched_setGpr predicted ..) ..
  have written : thr (setGpr t rd (pcOf s t + 4) resolved) t = thr (setGpr t rd (pcOf s t + 4) (issue t s)) t :=
    thr_setGpr_congr (thr_resolveJalr ..)
      ((homeEncl_of_only predicted t).trans (homeEncl_of_only (issue_only t s) t).symm) ..
  have own : thr (setPc t (effAddr s t a imm) linked) t = { thr (setGpr t rd (pcOf s t + 4) (issue t s)) t with
      pc := effAddr s t a imm &&& ~~~3#32
      ret := if rd = 31 then ((pcOf s t + 4) :: (thr s t).ret).take 8
        else if rd = 0 ∧ a = 31 ∧ imm = 0 then (thr s t).ret.drop 1 else (thr s t).ret } := by
    rw [setPc, thr_setThr_same, thr_jalrStack, written, ret_setGpr, ret_issue]
  exact ⟨_, ran, pcOf_setPc .., linked_frame own (unbranched_setThr only _)⟩

/-- Settles O12: the conditions by COND, the jumps by their targets, the two that link by what they leave. -/
theorem controlFlow : Obligations.ControlFlow := by
  unfold Obligations.ControlFlow
  intro s t rd a imm off22 off26 runs pc z n c v bcc
  have conditional : ∀ cond : BitVec 4, cond ≠ 15 → bcc cond (condHolds (thr s t).flags cond) :=
    fun cond listed => bcc_branches runs listed off22
  refine ⟨conditional 0 (by decide), conditional 1 (by decide), conditional 2 (by decide), conditional 3 (by decide),
    conditional 4 (by decide), conditional 5 (by decide), conditional 6 (by decide), conditional 7 (by decide),
    conditional 8 (by decide), conditional 9 (by decide), conditional 10 (by decide), conditional 11 (by decide),
    conditional 12 (by decide), conditional 13 (by decide), conditional 14 (by decide), cbz_branches runs a imm,
    cbnz_branches runs a imm, j_branches runs off26, jal_links runs off26, ?_⟩
  obtain ⟨s', ran, target, link⟩ := jalr_links runs rd a imm
  refine ⟨s', ran, target.trans (BitVec.eq_of_toNat_eq ?_), link⟩
  rw [wordAddr_toNat, BitVec.toNat_ofNat, effAddr, add_simm, Nat.mod_eq_of_lt]
  omega

end Sys2Proof.Machine
end

section
/-! PROOFS. The exceptions that instructions raise outside a handler (R301, R306, R307, R314 to R316, R321, R322). -/

namespace Sys2Proof.Machine

/-! ### An exception taken (R321, R322) -/

theorem running_of_canRun {s : State} {t : Thread} (runs : canRun s t = true) : (thr s t).run = .running := by
  simp only [canRun, Bool.and_eq_true, decide_eq_true_eq] at runs; tauto

section
variable {s : State} {t : Thread} (outside : (thr s t).inInt = false)
include outside

/-- Outside a handler the thread enters one: its control fields settled, EPC and ESTS saved. -/
theorem raiseExc_enters (k : Exc) (epc : Word) :
    raiseExc t k epc s = enterHandler t (inEncl s t) k.entry (saveStatus t epc (settleForeign t s)) := by
  rw [raiseExc, outside]; rfl

theorem raiseExc_saves (k : Exc) (epc : Word) :
    let x := thr (raiseExc t k epc s) t
    let ests := flag (decide ((thr s t).run = .idle)) 31 ||| flag (inEncl s t) 30 ||| fld (thr s t).flags 0
    x.ext.now.epc = epc ∧ x.ext.now.ests = ests ∧ x.ext.ctl.epc = epc ∧ x.ext.ctl.ests = ests := by
  rw [raiseExc_enters outside]
  simp [enterHandler, thr_clearShadow, saveStatus, settleForeign, inEncl]

/-- What the handler finds as the instruction left it. -/
theorem raiseExc_keeps (k : Exc) (epc : Word) :
    let s' := raiseExc t k epc s
    SameRegs t s s' ∧ SameStatus t s s' ∧ (thr s' t).task = (thr s t).task ∧ (thr s' t).stile = (thr s t).stile := by
  rw [raiseExc_enters outside]
  simp [SameRegs, SameStatus, enterHandler, thr_clearShadow, saveStatus, settleForeign]

/-- But for the handler's own shadow set (R67) the exception changes its thread alone. -/
theorem raiseExc_only (k : Exc) (epc : Word) : OnlyThread t s { raiseExc t k epc s with bkp := s.bkp } ∧
    (raiseExc t k epc s).bkp = { s.bkp with shadows := (raiseExc t k epc s).bkp.shadows } := by
  rw [raiseExc_enters outside]
  have saved : OnlyThread t s (saveStatus t epc (settleForeign t s)) := only_trans (setThr_only ..) (setThr_only ..)
  exact ⟨only_trans saved (setThr_only _ t _), rfl⟩

end

/-- An instruction that issues and raises an exception. -/
theorem takesException_of {s : State} {t : Thread} {c : Instr} {epc : Word} (runs : canRun s t = true)
    (outside : (thr s t).inInt = false) (k : Exc) (ran : exec c s = .next (raiseExc t k epc (issue t s))) :
    TakesException c t k.entry epc s := by
  have running := running_of_canRun runs
  have issued : (thr (issue t s) t).inInt = false := by rw [thr_issue_same]; exact outside
  have bkp : (issue t s).bkp = s.bkp := by simp
  obtain ⟨inInt, run, pc, -, -⟩ := raiseExc_thr issued k epc
  obtain ⟨nowEpc, nowEsts, ctlEpc, ctlEsts⟩ := raiseExc_saves issued k epc
  obtain ⟨regs, status, task, stile⟩ := raiseExc_keeps issued k epc
  obtain ⟨only, shadows⟩ := raiseExc_only issued k epc
  have ests : flag (decide ((thr (issue t s) t).run = .idle)) 31 ||| flag (inEncl (issue t s) t) 30 |||
      fld (thr (issue t s) t).flags 0 = startStatus s t := by
    rw [statusWord_eq, thr_issue_same, inEncl_issue, startStatus]; simp [running]
  rw [ests] at nowEsts ctlEsts
  rw [inEncl_issue] at pc
  rw [bkp] at only shadows
  refine ⟨_, ran, inInt, run, pc.trans (entryAddr_of_only (issue_only t s) ..), nowEpc, nowEsts, ctlEpc, ctlEsts, ?_, ?_, ?_,
    ?_, only_trans (issue_only t s) only, shadows⟩
  · simpa [SameRegs] using regs
  · simpa [SameStatus] using status
  · rw [task, thr_issue_same]
  · rw [stile, stile_issue]

section
variable {s : State} {t : Thread} {c : Instr} {act : State → State} (runs : canRun s t = true)
  (outside : (thr s t).inInt = false) (form : exec c s = onThread t act s)
include runs outside form

/-- An exception whose EPC is the instruction. -/
theorem takesException_here (k : Exc) (raises : act (issue t s) = raiseHere t k (issue t s)) :
    TakesException c t k.entry (pcOf s t) s :=
  takesException_of runs outside k (by rw [form, onThread_runs runs, raises, raiseHere, pcOf_issue])

/-- An exception whose EPC is the next instruction. -/
theorem takesException_next (k : Exc) (raises : act (issue t s) = raiseNext t k (issue t s)) :
    TakesException c t k.entry (pcOf s t + 4) s :=
  takesException_of runs outside k (by rw [form, onThread_runs runs, raises, raiseNext, pcOf_issue])

end

/-! ### ALIGN (R306, R307) -/

theorem storeOp_misaligned {s : State} {t : Thread} {b : Gpr} {imm : Half} {w : Width}
    (odd : (effAddr s t b imm).toNat % w.bytes ≠ 0) (d : Gpr) :
    storeOp t d b imm w (issue t s) = raiseHere t .align (issue t s) := by
  simp [storeOp, aligned, odd]

theorem loadOp_misaligned {s : State} {t : Thread} {b : Gpr} {imm : Half} {w : Width} (fresh : latched s t = none)
    (odd : (effAddr s t b imm).toNat % w.bytes ≠ 0) (rd : Gpr) (ext : Word → Word) :
    loadOp t rd b imm w ext (issue t s) = raiseHere t .align (issue t s) := by
  simp [loadOp, fresh, aligned, odd]

theorem amoOp_misaligned {s : State} {t : Thread} {a : Gpr} (fresh : latched s t = none) (odd : (gpr s t a).toNat % 4 ≠ 0)
    (rd : Gpr) (new : Word → Word) : amoOp t rd a new (issue t s) = raiseHere t .align (issue t s) := by
  simp [amoOp, fresh, aligned, Width.bytes, odd]

/-! ### ILLEGAL (R301) -/

/-- A fetch that the map and the guard let through is no violation. -/
theorem fetchCheck_passes {s : State} {t : Thread} (map : mapped (pcOf s t).toNat = true)
    (lets : guardLets s (.thread t) permX (pcOf s t).toNat 4 = true) : fetchCheck t (issue t s) = issue t s := by
  have passes : guardLets (issue t s) (.thread t) permX (pcOf s t).toNat 4 = true :=
    (guardLets_congr (r := .thread t) (by simp) (inEncl_issue s t) _ _ _).trans lets
  simp [fetchCheck, map, passes]

theorem illegalOp_raises {s : State} {t : Thread} {word : Word}
    (fetched : word = 0 → mapped (pcOf s t).toNat = true ∧ guardLets s (.thread t) permX (pcOf s t).toNat 4 = true) :
    illegalOp t word (issue t s) = raiseHere t .illegal (issue t s) := by
  unfold illegalOp
  split
  · next zero =>
    obtain ⟨map, lets⟩ := fetched zero
    rw [fetchCheck_passes map lets]
  · rfl

section
variable {s : State} {t : Thread} (runs : canRun s t = true) (outside : (thr s t).inInt = false) {c : Instr}
include runs outside

theorem store_misaligned {d b : Gpr} {imm : Half} {w : Width} (form : exec c s = onThread t (storeOp t d b imm w) s)
    (odd : (effAddr s t b imm).toNat % w.bytes ≠ 0) : TakesException c t 1 (pcOf s t) s :=
  takesException_here runs outside form .align (storeOp_misaligned odd d)

theorem load_misaligned {rd b : Gpr} {imm : Half} {w : Width} {ext : Word → Word} (fresh : latched s t = none)
    (form : exec c s = onThread t (loadOp t rd b imm w ext) s) (odd : (effAddr s t b imm).toNat % w.bytes ≠ 0) :
    TakesException c t 1 (pcOf s t) s :=
  takesException_here runs outside form .align (loadOp_misaligned fresh odd rd ext)

theorem amo_misaligned {rd a : Gpr} {new : State → Word → Word} (fresh : latched s t = none)
    (odd : (gpr s t a).toNat % 4 ≠ 0) (form : exec c s = onThread t (fun s => amoOp t rd a (new s) s) s) :
    TakesException c t 1 (pcOf s t) s :=
  takesException_here runs outside form .align (amoOp_misaligned fresh odd rd _)

/-- The encodings and the places that are ILLEGAL. -/
theorem illegal_raises {act : State → State} (form : exec c s = onThread t act s)
    (raises : act (issue t s) = raiseHere t .illegal (issue t s)) : TakesException c t 0 (pcOf s t) s :=
  takesException_here runs outside form .illegal raises

end

/-- Settles O15: each instruction by the condition under which it raises, EPC at it or after it. -/
theorem exceptionsTaken : Obligations.ExceptionsTaken := by
  unfold Obligations.ExceptionsTaken
  refine ⟨fun s t r b x imm runs outside => ?_, fun s t imm status word runs outside => ?_⟩
  · exact ⟨store_misaligned runs outside (exec_sh t r b imm s), store_misaligned runs outside (exec_sw t r b imm s), fun fresh =>
      ⟨fun odd => ⟨load_misaligned runs outside fresh (exec_lh t r b imm s) odd,
        load_misaligned runs outside fresh (exec_lhu t r b imm s) odd⟩,
        load_misaligned runs outside fresh (exec_lw t r b imm s), fun odd =>
        ⟨amo_misaligned runs outside fresh odd (exec_amoswap t r b x s), amo_misaligned runs outside fresh odd (exec_amoadd t r b x s),
        amo_misaligned runs outside fresh odd (exec_amoand t r b x s), amo_misaligned runs outside fresh odd (exec_amoor t r b x s),
        amo_misaligned runs outside fresh odd (exec_cas t r b x s)⟩⟩⟩
  · refine ⟨takesException_next runs outside rfl .trap rfl, fun unhalted => ?_, fun none fetched => ?_, ?_, fun encl => ?_,
      fun none => ?_, fun some => ?_⟩
    · have scope : scopeHas (issue t s) 3 = false := by simpa [scopeHas] using unhalted
      exact takesException_next runs outside rfl .brk (by rw [brkOp, scope]; rfl)
    · exact illegal_raises runs outside (by simp [execIllegalInstruction, none]) (illegalOp_raises fetched)
    · exact illegal_raises runs outside (exec_reti t s) (by simp [retiOp, thr_issue_same, outside])
    · exact illegal_raises runs outside (exec_stile t imm s) (by simp [stileOp, encl])
    · exact illegal_raises runs outside (exec_leave t s) (by simp [leaveOp, none])
    · exact illegal_raises runs outside (exec_tdone t status s) (by simp [tdoneOp, some])

end Sys2Proof.Machine
end

section
/-! PROOFS. The crossing between the worlds by STILE and LEAVE (R315, R327 to R329, R332). -/

namespace Sys2Proof.Machine

/-! ### The registers that cross (R328, R329) -/

theorem vget_copies (src : Vector Word 32) (l : List (Fin 32)) (dst : Vector Word 32) (k : Fin 32) :
    vget (l.foldl (fun v j => vset v j (vget src j)) dst) k = if k ∈ l then vget src k else vget dst k := by
  induction l generalizing dst with
  | nil => simp
  | cons j l ih =>
    rw [List.foldl_cons, ih, vget_vset]
    by_cases first : k = j <;> simp [first]

/-- g4 to g11 come from the one bank, the rest from the other. -/
theorem vget_copyArgs (src dst : Vector Word 32) (k : Fin 32) :
    vget (copyArgs src dst) k = if 4 ≤ k.val ∧ k.val ≤ 11 then vget src k else vget dst k := by
  have args : k ∈ ([4, 5, 6, 7, 8, 9, 10, 11] : List (Fin 32)) ↔ 4 ≤ k.val ∧ k.val ≤ 11 := by revert k; decide
  rw [copyArgs, vget_copies]
  simp only [args]

theorem vget_zeroBank (k : Fin 32) : vget zeroBank k = 0 := by simp [vget, zeroBank]

theorem gpr_encl {s : State} {t : Thread} (bank : onEnclBank s t = true) {r : Gpr} (nonzero : r ≠ 0) :
    gpr s t r = vget (thr s t).encl r.toFin := by rw [gpr, if_neg nonzero, bank]; rfl

theorem gpr_commons {s : State} {t : Thread} (bank : onEnclBank s t = false) {r : Gpr} (nonzero : r ≠ 0) :
    gpr s t r = vget (thr s t).commons r.toFin := by rw [gpr, if_neg nonzero, bank]; rfl

/-! ### STILE enters the Enclosure (R315, R327, R328) -/

/-- The Enclosure bank as STILE leaves it: the call in g1 to g3, the arguments, the owner tag and the stack. -/
def callBank (args : Vector Word 32) (service caller address owner stack : Word) : Vector Word 32 :=
  let e := vset (vset (vset (copyArgs args zeroBank) 1 service) 2 caller) 3 address
  vset (vset e 12 owner) 30 stack

theorem vget_callBank (args : Vector Word 32) (service caller address owner stack : Word) (k : Fin 32) :
    vget (callBank args service caller address owner stack) k =
      if k.val = 30 then stack else if k.val = 12 then owner else if k.val = 3 then address else if k.val = 2 then caller
      else if k.val = 1 then service else if 4 ≤ k.val ∧ k.val ≤ 11 then vget args k else 0 := by
  simp only [callBank, vget_vset, vget_copyArgs, vget_zeroBank, Fin.ext_iff]
  rfl

/-- The thread and its task's flow in g2. -/
def callerWord (s : State) (t : Thread) : Word :=
  BitVec.ofNat 32 (t.val + 65536 * (match (thr s t).task with
    | some d => (desc s d).flow.toNat
    | none => 0x0FFF))

theorem or_fld_16 (t : Thread) (f : BitVec 12) : BitVec.ofNat 32 t.val ||| fld f 16 = BitVec.ofNat 32 (t.val + 65536 * f.toNat) := by
  have low : t.val < 2 ^ 16 := by omega
  rw [fld, ← BitVec.ofNat_or, Nat.or_comm, ← Nat.shiftLeft_add_eq_or_of_lt low, Nat.shiftLeft_eq]
  congr 1; omega

theorem thr_crossWorlds (t u : Thread) (s : State) : thr (crossWorlds t s) u = thr s u := by simp [thr]

/-- The thread as STILE leaves it. -/
def stileThr (t : Thread) (service : Half) (s : State) : Thr :=
  { thr s t with
    encl := callBank (thr s t).commons (service.setWidth 32) (callerWord s t) (pcOf s t)
      ((vget s.guard.towner t).setWidth 32) (vget s.wld.stileStack t)
    savedFlags := (thr s t).flags, savedRet := (thr s t).ret, flags := 0, ret := [], stile := some (pcOf s t)
    pc := entryAddr s true 7, latch := none, outstanding := none }

theorem stileCommit_eq (t : Thread) (service : Half) (s : State) :
    stileCommit t service s = setThr (crossWorlds t (clearShadow t 2 s)) t (stileThr t service s) := by
  have own : thr (crossWorlds t (clearShadow t 2 s)) t = thr s t := (thr_crossWorlds ..).trans (thr_clearShadow ..)
  have pc : pcOf (crossWorlds t (clearShadow t 2 s)) t = pcOf s t := by rw [pcOf, own]; rfl
  have drill : (crossWorlds t (clearShadow t 2 s)).drill = s.drill := by simp
  have guard : (crossWorlds t (clearShadow t 2 s)).guard = s.guard := by simp
  have wld : (crossWorlds t (clearShadow t 2 s)).wld = s.wld := by simp
  have cores : (crossWorlds t (clearShadow t 2 s)).cores = s.cores := by simp
  have caller : (BitVec.ofNat 32 t.val ||| (match (thr s t).task with
      | some d => fld (desc (crossWorlds t (clearShadow t 2 s)) d).flow 16
      | none => 0x0FFF0000#32)) = callerWord s t := by
    unfold callerWord
    cases (thr s t).task with
    | none => exact or_fld_16 t 0x0FFF
    | some d => simp only [desc, drill]; exact or_fld_16 ..
  unfold stileCommit stileThr
  simp only [own, pc, guard, wld, entryAddr, cores, ← caller]
  rfl

theorem callerWord_issue (t : Thread) (s : State) : callerWord (issue t s) t = callerWord s t := by
  have drill : (issue t s).drill = s.drill := by simp
  simp only [callerWord, task_issue, desc, drill]

theorem stileThr_issue (t : Thread) (service : Half) (s : State) : stileThr t service (issue t s) =
    { stileThr t service s with starting := false } := by
  have guard : (issue t s).guard = s.guard := by simp
  have wld : (issue t s).wld = s.wld := by simp
  rw [stileThr, callerWord_issue, pcOf_issue, guard, wld, entryAddr_of_only (issue_only t s), thr_issue_same]
  rfl

/-- A thread inside STILE reads its Enclosure bank. -/
theorem gpr_inStile {s : State} {t : Thread} (stile : (thr s t).stile.isSome = true) {r : Gpr} (nonzero : r ≠ 0) :
    gpr s t r = vget (thr s t).encl r.toFin := gpr_encl (by simp [onEnclBank, stile]) nonzero

theorem onEnclBank_of_commons {s : State} {t : Thread} (commons : inEncl s t = false) : onEnclBank s t = false := by
  simp only [inEncl, Bool.or_eq_false_iff] at commons
  obtain ⟨⟨outside, -⟩, -⟩ := commons
  rw [onEnclBank, Bool.or_eq_false_iff]; exact outside

section
variable {s : State} {t : Thread} (runs : canRun s t = true)
include runs

theorem exec_stile_enters (commons : inEncl s t = false) (free : enclFree s = true) (service : Half) : ∃ r,
    exec (.stile t service) s = .next (setThr r t { stileThr t service s with starting := false }) ∧
      (∀ u, u ≠ t → thr r u = thr s u) ∧ r.mem = s.mem ∧ r.guard = s.guard := by
  have freeIssued : enclFree (issue t s) = true := by simpa [enclFree, limpReason] using free
  have op : stileOp t service (issue t s) = stileCommit t service (issue t s) := by
    simp [stileOp, commons, freeIssued]
  refine ⟨crossWorlds t (clearShadow t 2 (issue t s)), ?_, fun u other => ?_, by simp, by simp⟩
  · rw [exec_stile, execStile, onThread_runs runs, op, stileCommit_eq, stileThr_issue]
  · rw [thr_crossWorlds, thr_clearShadow, thr_issue_other s other]

theorem stile_enters (commons : inEncl s t = false) (free : enclFree s = true) (service : Half) :
    ∃ s', exec (.stile t service) s = .next s' ∧
       (thr s' t).pc = s.cores.vbaseE + 224 ∧ inEncl s' t = true ∧ (thr s' t).stile = some (pcOf s t) ∧
       gpr s' t 1 = service.setWidth 32 ∧ gpr s' t 2 = callerWord s t ∧
       gpr s' t 3 = pcOf s t ∧ (∀ r : Gpr, 4 ≤ r.toNat ∧ r.toNat ≤ 11 → gpr s' t r = gpr s t r) ∧
       gpr s' t 12 = (vget s.guard.towner t).setWidth 32 ∧ gpr s' t 30 = vget s.wld.stileStack t ∧
       (∀ r : Gpr, 13 ≤ r.toNat → r ≠ 30 → gpr s' t r = 0) ∧
       (thr s' t).commons = (thr s t).commons ∧ (thr s' t).flags = 0 ∧ (thr s' t).ret = [] ∧
       (thr s' t).savedFlags = (thr s t).flags ∧ (thr s' t).savedRet = (thr s t).ret ∧ (thr s' t).task = (thr s t).task ∧
       (∀ u, u ≠ t → thr s' u = thr s u) ∧ s'.mem = s.mem ∧ s'.guard = s.guard := by
  obtain ⟨r, ran, others, mem, guard⟩ := exec_stile_enters runs commons free service
  let s' := setThr r t { stileThr t service s with starting := false }
  have own : thr s' t = { stileThr t service s with starting := false } := thr_setThr_same ..
  have bank : ∀ q : Gpr, q ≠ 0 → gpr s' t q = vget (callBank (thr s t).commons (service.setWidth 32) (callerWord s t)
      (pcOf s t) ((vget s.guard.towner t).setWidth 32) (vget s.wld.stileStack t)) q.toFin := fun q nonzero => by
    rw [gpr_inStile (by rw [own]; rfl) nonzero, own]; rfl
  simp only [vget_callBank] at bank
  refine ⟨s', ran, by rw [own]; rfl, by simp [inEncl, own, stileThr], by rw [own]; rfl, bank 1 (by decide), bank 2 (by decide),
    bank 3 (by decide), fun q ⟨low, high⟩ => ?_, bank 12 (by decide), bank 30 (by decide), fun q low other => ?_, by rw [own]; rfl,
    by rw [own]; rfl, by rw [own]; rfl, by rw [own]; rfl, by rw [own]; rfl, by rw [own]; rfl, fun u other => ?_, mem, guard⟩
  · have value : q.toFin.val = q.toNat := rfl
    have nonzero : q ≠ 0 := fun zero => by rw [zero] at low; exact absurd low (by decide)
    rw [bank q nonzero, gpr_commons (onEnclBank_of_commons commons) nonzero]
    repeat rw [if_neg (by omega)]
    rw [if_pos (by omega)]
  · have value : q.toFin.val = q.toNat := rfl
    have stackless : q.toNat ≠ 30 := fun e => other (BitVec.eq_of_toNat_eq e)
    rw [bank q fun zero => by rw [zero] at low; exact absurd low (by decide)]
    repeat rw [if_neg (by omega)]
  · exact (thr_setThr_other _ other _).trans (others u other)

/-- While the Enclosure restarts or is halted the call's results are there at once (R332). -/
theorem stile_refused (commons : inEncl s t = false) (halted : enclFree s = false) (service : Half) :
    ∃ s', exec (.stile t service) s = .next s' ∧ pcOf s' t = pcOf s t + 4 ∧ gpr s' t 4 = 6 ∧
         (∀ r : Gpr, 5 ≤ r.toNat ∧ r.toNat ≤ 11 → gpr s' t r = 0) ∧
         (∀ r : Gpr, r.toNat < 4 ∨ 11 < r.toNat → gpr s' t r = gpr s t r) ∧ OnlyThread t s s' ∧ SameStatus t s s' := by
  have haltedIssued : enclFree (issue t s) = false := by simpa [enclFree, limpReason] using halted
  let x : Thr := { thr (issue t s) t with commons := copyArgs restartResults (thr (issue t s) t).commons }
  let s' := advance t (setThr (issue t s) t x)
  have ran : exec (.stile t service) s = .next s' := by
    rw [exec_stile, execStile, onThread_runs runs]
    simp [stileOp, commons, haltedIssued, s', x]
  have own : thr s' t = { x with pc := pcOf s t + 4 } := by
    have pc : pcOf (setThr (issue t s) t x) t = pcOf (issue t s) t := by rw [pcOf, thr_setThr_same]; rfl
    rw [thr_advance_same, thr_setThr_same, pc, pcOf_issue]
  have only : OnlyThread t s s' := only_trans (issue_only t s) (only_trans (setThr_only ..) (advance_only ..))
  have bank : ∀ r : Gpr, r ≠ 0 → gpr s' t r =
      if 4 ≤ r.toNat ∧ r.toNat ≤ 11 then vget restartResults r.toFin else gpr s t r := fun r nonzero => by
    have stays : onEnclBank s' t = false := by
      have before := onEnclBank_of_commons commons
      rw [onEnclBank, homeEncl_of_only only, own]
      simpa [x, onEnclBank] using before
    rw [gpr_commons stays nonzero, gpr_commons (onEnclBank_of_commons commons) nonzero, own]
    simp only [x, vget_copyArgs, commons_issue]
    rfl
  refine ⟨s', ran, ?_, (bank 4 (by decide)).trans (vget_vset_same zeroBank 4 6), fun r ⟨low, high⟩ => ?_, fun r outside => ?_, only, ?_⟩
  · rw [pcOf, own]; exact wordAddr_add4 _
  · have value : r.toFin.val = r.toNat := rfl
    have result : r.toFin ≠ 4 := fun e => by rw [e] at value; simp at value; omega
    rw [bank r (fun zero => by rw [zero] at low; exact absurd low (by decide)), if_pos ⟨by omega, high⟩, restartResults,
      vget_vset_other result, vget_zeroBank]
  · by_cases zero : r = 0
    · rw [zero]; exact (gpr_zero ..).trans (gpr_zero ..).symm
    · rw [bank r zero, if_neg (by omega)]
  · simp [SameStatus, own, x]

end

/-! ### LEAVE returns from it (R315, R329) -/

/-- The thread as LEAVE leaves it. -/
def leftThr (a : Word) (x : Thr) : Thr :=
  let c := copyArgs x.encl x.commons
  { x with
    commons := vset c 4 (vget c 4 &&& 0xFF#32), encl := zeroBank, flags := x.savedFlags, ret := x.savedRet, stile := none
    pc := a + 4, savedFlags := 0, savedRet := [], latch := none, outstanding := none, starting := false }

/-- The results in g4 to g11, g4 with its status byte alone, and every other register of the Commons as it was. -/
theorem vget_leftThr (a : Word) (x : Thr) (k : Fin 32) : vget (leftThr a x).commons k =
    if k.val = 4 then vget x.encl 4 &&& 0xFF else if 4 ≤ k.val ∧ k.val ≤ 11 then vget x.encl k else vget x.commons k := by
  simp only [leftThr, vget_vset, vget_copyArgs, Fin.ext_iff]
  rfl

section
variable {s : State} {t : Thread} (runs : canRun s t = true) {a : Word} (inside : (thr s t).stile = some a)
include runs inside

theorem exec_leave_returns : ∃ s', exec (.leave t) s = .next s' ∧ thr s' t = leftThr a (thr s t) ∧
    (∀ u, u ≠ t → thr s' u = thr s u) ∧ s'.mem = s.mem ∧ s'.drill = s.drill := by
  have within : inEncl s t = true := by simp [inEncl, inside]
  have back : stileReturn t (thr (issue t s) t).encl (issue t s) = setThr (issue t s) t (leftThr a (thr s t)) := by
    rw [stileReturn, thr_issue_same]
    simp only [inside]
    rfl
  have op : leaveOp t (issue t s) = checkTiles (issue t s) (crossWorlds t (setThr (issue t s) t (leftThr a (thr s t)))) := by
    rw [leaveOp, if_neg (by simp [inside, within]), back]
  refine ⟨_, (exec_leave t s).trans ((onThread_runs runs).trans (congrArg _ op)), ?_, fun u other => ?_, ?_, ?_⟩
  · rw [thr_checkTiles, thr_crossWorlds, thr_setThr_same]
  · rw [thr_checkTiles, thr_crossWorlds, thr_setThr_other _ other, thr_issue_other s other]
  · simp
  · simp

theorem leave_returns (home : homeEncl s t = false) (noDebug : (thr s t).debug = false) (noDfault : (thr s t).dfault = false) :
    ∃ s', exec (.leave t) s = .next s' ∧ (thr s' t).stile = none ∧ inEncl s' t = false ∧ (thr s' t).pc = a + 4 ∧
         gpr s' t 4 = gpr s t 4 &&& 0xFF ∧ (∀ r : Gpr, 5 ≤ r.toNat ∧ r.toNat ≤ 11 → gpr s' t r = gpr s t r) ∧
         (∀ k : Fin 32, k.val < 4 ∨ 11 < k.val → vget (thr s' t).commons k = vget (thr s t).commons k) ∧
         (∀ k : Fin 32, vget (thr s' t).encl k = 0) ∧ (thr s' t).flags = (thr s t).savedFlags ∧
         (thr s' t).ret = (thr s t).savedRet ∧ (thr s' t).task = (thr s t).task ∧
         (∀ u, u ≠ t → thr s' u = thr s u) ∧ s'.mem = s.mem := by
  obtain ⟨s', ran, own, others, mem, drill⟩ := exec_leave_returns runs inside
  have homeLeft : homeEncl s' t = false := by rw [homeEncl, drill]; exact home
  have outside : onEnclBank s' t = false := by rw [onEnclBank, homeLeft, own]; rfl
  have args : ∀ r : Gpr, r ≠ 0 → gpr s t r = vget (thr s t).encl r.toFin :=
    fun r nonzero => gpr_inStile (by simp [inside]) nonzero
  refine ⟨s', ran, by rw [own]; rfl, ?_, by rw [own]; rfl, ?_, fun r ⟨low, high⟩ => ?_, fun k outer => ?_, fun k => ?_,
    by rw [own]; rfl, by rw [own]; rfl, by rw [own]; rfl, others, mem⟩
  · rw [inEncl, homeLeft, own]
    simp [leftThr, noDebug, noDfault]
  · rw [gpr_commons outside (by decide), args 4 (by decide), own, vget_leftThr]; rfl
  · have value : r.toFin.val = r.toNat := rfl
    have nonzero : r ≠ 0 := fun zero => by rw [zero] at low; exact absurd low (by decide)
    rw [gpr_commons outside nonzero, args r nonzero, own, vget_leftThr, if_neg (by omega), if_pos (by omega)]
  · rw [own, vget_leftThr, if_neg (by omega), if_neg (by omega)]
  · rw [own]; exact vget_zeroBank k

end

/-- Settles O18: STILE by what stands in the two banks after it, LEAVE by what it copies back. -/
theorem stileAndLeave : Obligations.StileAndLeave := by
  unfold Obligations.StileAndLeave
  exact ⟨fun s t service runs commons free => stile_enters runs commons free service, fun s t runs =>
    ⟨fun a inside home noDebug noDfault => leave_returns runs inside home noDebug noDfault,
      fun service commons halted => stile_refused runs commons halted service⟩⟩

end Sys2Proof.Machine
end

section
/-! PROOFS. Loads from SRAM and program flash, from the return latch, and the atomic operations (R302, R306, R307, R323,
R502): what an access leaves beside its result, and where the result is found. -/

namespace Sys2Proof.Machine

/-! ### What an access leaves beside its result (R155, R292, R296) -/

theorem setCore_core (s : State) (c : Fin 4) : setCore s c (core s c) = s := by
  simp [setCore, core, vset, vget]

theorem setCore_setCore (s : State) (c : Fin 4) (x y : Core) : setCore (setCore s c x) c y = setCore s c y := by
  simp [setCore, vset]

theorem qPass_clk (n : Nat) (s : State) : (qPass n s).clk = { s.clk with q := (qPass n s).clk.q } := by
  simp only [qPass, qRead, qWrite, setQstat]

theorem qstat_qPass_other {n k : Nat} (other : k ≠ n) (s : State) : qstat (qPass n s) k = qstat s k := by
  rw [qPass, qRead, qstat_setQstat_other _ other, qWrite, qstat_setQstat_other _ other]

theorem unaccessed_clk (t : Thread) (s s' : State) (c : Clocks) : unaccessed t s { s' with clk := c } = unaccessed t s s' := rfl

/-- The thread alone, but for the counters of CREG[c] and PERF_DMISS. -/
def Accessed (t : Thread) (s s' : State) : Prop := OnlyThread t s (unaccessed t s s') ∧ OnlyCreg t s s'

section
variable {t : Thread} {s s' : State}

theorem clk_of_only (only : OnlyThread t s s') : s'.clk = s.clk := by
  obtain ⟨frame, -⟩ := only
  rw [frame]

theorem accessed_of_only (only : OnlyThread t s s') : Accessed t s s' := by
  have clk := clk_of_only only
  have same : unaccessed t s s' = s' := by
    obtain ⟨-, -, -, -, own, -⟩ := only
    have misses : (core s (coreOf t)).perfDmiss = (core s' (coreOf t)).perfDmiss := by rw [own]
    unfold unaccessed
    dsimp only
    rw [misses, setCore_core, ← clk]
  exact ⟨by rw [same]; exact only, by rw [clk], fun k _ => by rw [qstat, clk]; rfl⟩

variable (accessed : Accessed t s s')
include accessed

theorem accessed_setThr (x : Thr) : Accessed t s (setThr s' t x) := by
  obtain ⟨only, clk⟩ := accessed
  exact ⟨only_trans only (setThr_only (unaccessed t s s') t x), clk⟩

theorem accessed_setGpr (rd : Gpr) (w : Word) : Accessed t s (setGpr t rd w s') := by
  unfold setGpr; dsimp only
  repeat' split
  · exact accessed
  · exact accessed_setThr accessed _
  · exact accessed_setThr accessed _

theorem accessed_qPass : Accessed t s (qPass (88 + (coreOf t).val) s') := by
  obtain ⟨only, clk, queues⟩ := accessed
  have frame := eq_of_clk (qPass_same (88 + (coreOf t).val) s')
  refine ⟨by rw [frame, unaccessed_clk]; exact only, ?_, fun k other => (qstat_qPass_other other s').trans (queues k other)⟩
  rw [qPass_clk, clk]

theorem accessed_miss (n : Word) : Accessed t s (setCore s' (coreOf t) { core s' (coreOf t) with perfDmiss := n }) := by
  obtain ⟨only, clk⟩ := accessed
  have same : unaccessed t s (setCore s' (coreOf t) { core s' (coreOf t) with perfDmiss := n }) = unaccessed t s s' := by
    unfold unaccessed
    dsimp only
    rw [setCore_setCore, core_setCore_same]
  exact ⟨by rw [same]; exact only, clk⟩

theorem homeEncl_of_accessed : homeEncl s' t = homeEncl s t := homeEncl_of_only accessed.1 t

end

/-! ### The register that takes an answer (R318, R323) -/

/-- Going on before or after a register is written is the same to the thread. -/
theorem thr_setGpr_advance (t : Thread) (rd : Gpr) (w : Word) (s : State) :
    thr (setGpr t rd w (advance t s)) t = thr (writeNext t rd w s) t := by
  have bank : onEnclBank (advance t s) t = onEnclBank s t := onEnclBank_setPc ..
  rw [writeNext, thr_advance_same, pcOf_setGpr]
  unfold setGpr
  rw [bank, thr_advance_same]
  by_cases zero : rd = 0#5
  · simp [zero, thr_advance_same]
  · cases onEnclBank s t <;> simp [zero]

/-- An instruction whose result is in `rd`, the thread at the next instruction and otherwise as before. -/
structure Delivers (t : Thread) (rd : Gpr) (v : Word) (s s' : State) : Prop where
  value : gpr s' t rd = if rd = 0 then 0 else v
  pc : pcOf s' t = pcOf s t + 4
  progress : OnlyProgress t s s'
  regs : SameRegsBut t rd s s'
  status : SameStatus t s s'

theorem delivers_writeNext (t : Thread) (rd : Gpr) (v : Word) (s : State) : Delivers t rd v s (writeNext t rd v (issue t s)) := by
  obtain ⟨value, pc, -, progress, regs, status⟩ := writeNext_frame s t rd v
  exact ⟨value, pc, progress, regs, status⟩

theorem homeEncl_writeNext (t : Thread) (rd : Gpr) (v : Word) (s : State) :
    homeEncl (writeNext t rd v (issue t s)) t = homeEncl s t :=
  homeEncl_of_only (writeNext_frame s t rd v).2.2.1 t

/-- What is delivered is seen in the thread and its home world alone, whatever an interrupt may still abandon. -/
theorem delivers_of_thr {t : Thread} {rd : Gpr} {v : Word} {s r s' : State} {o : Option Outstanding} (d : Delivers t rd v s r)
    (own : thr s' t = { thr r t with outstanding := o }) (home : homeEncl s' t = homeEncl r t) : Delivers t rd v s s' := by
  obtain ⟨value, pc, progress, ⟨others, bank⟩, status⟩ := d
  have regs : ∀ q, gpr s' t q = gpr r t q := gpr_of_sameRegs home (by rw [own]) ⟨by rw [own], by rw [own]⟩
  refine ⟨(regs rd).trans value, ?_, ?_, ⟨fun q other => (regs q).trans (others q other), ?_⟩, ?_⟩
  · rw [← pc, pcOf, pcOf, own]
  · unfold OnlyProgress at progress ⊢
    rw [own, progress]
  · rw [own]; exact bank
  · unfold SameStatus at status ⊢
    rw [own]; exact status

/-- An answer that waits in no latch. -/
theorem awaited_answers {t : Thread} {rd : Gpr} {act : State → Word × State} {s r : State} {v : Word}
    (fresh : latched s t = none) (answer : act (advance t (issue t s)) = (v, r)) :
    ∃ o, awaited t rd act (issue t s) = noteOutstanding t o (setGpr t rd v r) := by
  rw [awaited, latched_issue, fresh]
  dsimp only
  rw [answer]
  exact ⟨_, rfl⟩

/-- The state in which a thread's access is made: issued, the PC at the next instruction, and through CREG[c] (R155). -/
def accessing (t : Thread) (s : State) : State := qPass (88 + (coreOf t).val) (advance t (issue t s))

theorem accessed_accessing (t : Thread) (s : State) : Accessed t s (accessing t s) :=
  accessed_qPass (accessed_of_only (only_trans (issue_only t s) (advance_only t _)))

theorem thr_accessing (t u : Thread) (s : State) : thr (accessing t s) u = thr (advance t (issue t s)) u := by
  simp [accessing, thr]

/-- The answer of an access that has touched the caches and the memory alone. -/
theorem delivers_accessing {t : Thread} {rd : Gpr} {v : Word} {s r s' : State} {o : Option Outstanding}
    (own : thr r t = thr (accessing t s) t) (home : homeEncl r t = homeEncl s t)
    (kept : thr s' t = { thr (setGpr t rd v r) t with outstanding := o }) (home' : homeEncl s' t = homeEncl s t) :
    Delivers t rd v s s' := by
  refine delivers_of_thr (delivers_writeNext t rd v s) (o := o) ?_ (home'.trans (homeEncl_writeNext ..).symm)
  have before : homeEncl (advance t (issue t s)) t = homeEncl s t :=
    homeEncl_of_only (only_trans (issue_only t s) (advance_only t _)) t
  rw [kept, thr_setGpr_congr (own.trans (thr_accessing t t s)) (home.trans before.symm), thr_setGpr_advance]

/-! ### Loads (R306, R323, R502) -/

theorem accessRead_flash {s : State} {r : Req} {a : Word} {w : Width} (hg : guardLets s r permR a.toNat w.bytes = true)
    (hf : inFlash a.toNat w.bytes = true) : accessRead r a w s = (ofBytes 32 (flashRead s a.toNat w.bytes), s) := by
  have bounds : 0x08000000 ≤ a.toNat ∧ a.toNat + w.bytes ≤ 0x08800000 := of_decide_eq_true hf
  have rom : ¬ a.toNat ≤ 0x7FFF := by omega
  simp [accessRead, mapped_of_inFlash (width_bytes_pos w) hf, rom, hg, hf]

/-- The bytes that memory holds for an access. -/
def MemoryHolds (s : State) (a n : Nat) (m : List Byte) : Prop :=
  (inSram a n = true ∧ m = sramRead s a n) ∨ (inFlash a n = true ∧ m = flashRead s a n)

theorem accessRead_memory {s s1 : State} {r : Req} {a : Word} {w : Width} {m : List Byte} (mem : s1.mem = s.mem)
    (lets : guardLets s1 r permR a.toNat w.bytes = true) (holds : MemoryHolds s a.toNat w.bytes m) :
    accessRead r a w s1 = (ofBytes 32 m, s1) := by
  rcases holds with ⟨sram, rfl⟩ | ⟨flash, rfl⟩
  · rw [accessRead_sram lets sram, sramRead, mem]; rfl
  · rw [accessRead_flash lets flash, flashRead, mem]; rfl

theorem noteOutstanding_twice (t : Thread) (o o' : Option Outstanding) (s : State) :
    noteOutstanding t o' (noteOutstanding t o s) = noteOutstanding t o' s := by
  simp [noteOutstanding, setThr, thr, vset, vget]

/-- The access of a load whose data cross from D3. -/
def crossRead (t : Thread) (a : Word) (w : Width) (ext : Word → Word) (s : State) : Word × State :=
  (ext (accessRead (.thread t) a w (qPass (88 + (coreOf t).val) s)).1, (accessRead (.thread t) a w (qPass (88 + (coreOf t).val) s)).2)

/-- What a load's note says of the line and the memory that it awaits. -/
def awaitedFill (line : Option CacheLine) (flash : Bool) (s : State) (t : Thread) : Option Outstanding :=
  (thr s t).outstanding.map fun o => { o with fill := line, flash := flash }

/-- A miss of the data cache counts (R292). -/
def countMiss (line : Option CacheLine) (c : Fin 4) (s : State) : State :=
  if line.isSome then setCore s c { core s c with perfDmiss := satInc (core s c).perfDmiss } else s

theorem countMiss_cases (line : Option CacheLine) (c : Fin 4) (s : State) :
    countMiss line c s = s ∨ ∃ n, countMiss line c s = setCore s c { core s c with perfDmiss := n } := by
  unfold countMiss
  split
  · exact Or.inr ⟨_, rfl⟩
  · exact Or.inl rfl

theorem loadMiss_eq (t : Thread) (rd : Gpr) (a : Word) (w : Width) (ext : Word → Word) (s : State) :
    loadMiss t rd a w ext s =
      let line := if cacheable s t a.toNat w.bytes then some (dataLine s t a.toNat) else none
      let q := awaited t rd (crossRead t a w ext) s
      countMiss line (coreOf t) (noteOutstanding t (awaitedFill line (inFlash a.toNat w.bytes) q t) q) := rfl

/-- A load's miss: the answer, the note of the line that it fills, and its count. -/
theorem loadMiss_answers {s : State} {t : Thread} {rd : Gpr} {a v : Word} {w : Width} (ext : Word → Word) (fresh : latched s t = none)
    (reads : accessRead (.thread t) a w (accessing t s) = (v, accessing t s)) :
    ∃ o, ∃ r : State, r = noteOutstanding t o (setGpr t rd (ext v) (accessing t s)) ∧
      (loadMiss t rd a w ext (issue t s) = r ∨ ∃ n, loadMiss t rd a w ext (issue t s) =
        setCore r (coreOf t) { core r (coreOf t) with perfDmiss := n }) := by
  have answer : crossRead t a w ext (advance t (issue t s)) = (ext v, accessing t s) := by
    rw [crossRead, ← accessing, reads]
  obtain ⟨o, waits⟩ := awaited_answers (rd := rd) fresh answer
  rw [loadMiss_eq, waits]
  exact ⟨_, _, noteOutstanding_twice .., countMiss_cases ..⟩

theorem loadMiss_reads {s : State} {t : Thread} {rd : Gpr} {a v : Word} {w : Width} (ext : Word → Word) (fresh : latched s t = none)
    (reads : accessRead (.thread t) a w (accessing t s) = (v, accessing t s)) :
    Accessed t s (loadMiss t rd a w ext (issue t s)) ∧ Delivers t rd (ext v) s (loadMiss t rd a w ext (issue t s)) := by
  obtain ⟨o, r, noted, misses⟩ := loadMiss_answers (rd := rd) ext fresh reads
  have accessed : Accessed t s r := noted ▸ accessed_setThr (accessed_setGpr (accessed_accessing t s) rd (ext v)) _
  have own : thr r t = { thr (setGpr t rd (ext v) (accessing t s)) t with outstanding := o } := by
    rw [noted, noteOutstanding, thr_setThr_same]
  have home := homeEncl_of_accessed (accessed_accessing t s)
  obtain same | ⟨n, same⟩ := misses <;> rw [same]
  · exact ⟨accessed, delivers_accessing rfl home own (homeEncl_of_accessed accessed)⟩
  · have counted := accessed_miss accessed n
    exact ⟨counted, delivers_accessing rfl home own (homeEncl_of_accessed counted)⟩

/-- The return latch emptied. -/
def emptyLatch (t : Thread) (s : State) : State := setThr s t { thr s t with latch := none }

theorem onEnclBank_emptyLatch (t : Thread) (s : State) : onEnclBank (emptyLatch t s) t = onEnclBank s t :=
  onEnclBank_setThr s t t { thr s t with latch := none } rfl

theorem pcOf_emptyLatch (t : Thread) (s : State) : pcOf (emptyLatch t s) t = pcOf s t := by
  rw [pcOf, pcOf, emptyLatch, thr_setThr_same]

theorem gpr_emptyLatch (t : Thread) (s : State) (q : Gpr) : gpr (emptyLatch t s) t q = gpr s t q :=
  gpr_setThr s t t q { thr s t with latch := none } rfl rfl rfl

section
variable {s : State} {t : Thread} {rd b : Gpr} {imm : Half} {w : Width} {ext : Word → Word} {c : Instr}
  (runs : canRun s t = true) (form : exec c s = onThread t (loadOp t rd b imm w ext) s)
include runs form

theorem load_reads {m : List Byte} (fresh : latched s t = none) (aligns : (effAddr s t b imm).toNat % w.bytes = 0)
    (lets : guardLets s (.thread t) permR (effAddr s t b imm).toNat w.bytes = true)
    (holds : MemoryHolds s (effAddr s t b imm).toNat w.bytes m) : LoadsRegister c t rd (ext (ofBytes 32 m)) s := by
  have alignedW : aligned (effAddr s t b imm) w = true := decide_eq_true aligns
  have letsIssued : guardLets (issue t s) (.thread t) permR (effAddr s t b imm).toNat w.bytes = true :=
    (guardLets_congr (r := .thread t) (by simp) (inEncl_issue s t) _ _ _).trans lets
  have reads := accessRead_memory (s1 := issue t s) (by simp) letsIssued holds
  have crossed := accessRead_memory (s1 := accessing t s) (by simp [accessing, advance, setPc])
    ((guardLets_access ..).trans lets) holds
  suffices ∃ s', loadOp t rd b imm w ext (issue t s) = s' ∧ Accessed t s s' ∧ Delivers t rd (ext (ofBytes 32 m)) s s' by
    obtain ⟨s', op, ⟨only, creg⟩, value, pc, progress, regs, status⟩ := this
    exact ⟨s', by rw [form, onThread_runs runs, op], value, pc, only, creg, progress, regs, status⟩
  by_cases hit : loadHits (issue t s) t (effAddr s t b imm).toNat w.bytes = true
  · have op : loadOp t rd b imm w ext (issue t s) = writeNext t rd (ext (ofBytes 32 m)) (issue t s) := by
      simp [loadOp, fresh, alignedW, hit, reads]
    exact ⟨_, op, accessed_of_only (writeNext_frame s t rd _).2.2.1, delivers_writeNext ..⟩
  · have op : loadOp t rd b imm w ext (issue t s) = loadMiss t rd (effAddr s t b imm) w ext (issue t s) := by
      simp [loadOp, fresh, alignedW, hit]
    exact ⟨_, op, loadMiss_reads ext fresh crossed⟩

/-- A result in the return latch serves the load, which empties it (R323). -/
theorem load_latched {v : Word} (held : latched s t = some v) :
    ∃ s', exec c s = .next s' ∧ gpr s' t rd = (if rd = 0 then 0 else v) ∧ pcOf s' t = pcOf s t + 4 ∧
      (thr s' t).latch = none ∧ OnlyThread t s s' ∧ OnlyProgress t s s' ∧ SameRegsBut t rd s s' ∧
      (thr s' t).flags = (thr s t).flags ∧ (thr s' t).ret = (thr s t).ret := by
  have op : loadOp t rd b imm w ext (issue t s) = writeNext t rd v (emptyLatch t (issue t s)) := by
    simp only [loadOp, latched_issue, held]; rfl
  have emptied : OnlyThread t s (emptyLatch t (issue t s)) := only_trans (issue_only t s) (setThr_only ..)
  have bank : onEnclBank (emptyLatch t (issue t s)) t = onEnclBank s t :=
    (onEnclBank_emptyLatch ..).trans (onEnclBank_issue t s)
  have regs : ∀ q, gpr (emptyLatch t (issue t s)) t q = gpr s t q := fun q =>
    (gpr_emptyLatch ..).trans (gpr_issue ..)
  refine ⟨_, (form.trans (onThread_runs runs)).trans (congrArg _ op), ?_, ?_, ?_, only_trans emptied (only_trans (setGpr_only ..) (advance_only ..)),
    ?_, ⟨fun q other => ?_, ?_⟩, ?_, ?_⟩
  · simp [writeNext, gpr_setGpr_same]
  · rw [writeNext, pcOf_advance, pcOf_setGpr, pcOf_emptyLatch, pcOf_issue]; rfl
  · simp [writeNext, advance, emptyLatch]
  · have progress : OnlyProgress t s (emptyLatch t (issue t s)) :=
      progress_trans (issue_progress t s) (by simp [OnlyProgress, emptyLatch])
    exact progress_trans progress (progress_trans (setGpr_progress ..) (advance_progress ..))
  · rw [writeNext, gpr_advance, gpr_setGpr_other _ t t rd q v (Or.inr other), regs]
  · have others := setGpr_otherBank t rd v (emptyLatch t (issue t s))
    rw [bank] at others
    split <;> simp_all [writeNext, advance, emptyLatch]
  · simp [writeNext, advance, emptyLatch]
  · simp [writeNext, advance, emptyLatch]

end

/-! ### Loaded values (R306) -/

theorem signExt_byte (m : List Byte) : signExt .byte (ofBytes 32 m) = BitVec.ofInt 32 (ofBytes 8 m).toInt := by
  rw [signExt, ofBytes, BitVec.setWidth_ofNat_of_le (by decide)]; rfl

theorem signExt_half (m : List Byte) : signExt .half (ofBytes 32 m) = BitVec.ofInt 32 (ofBytes 16 m).toInt := by
  rw [signExt, ofBytes, BitVec.setWidth_ofNat_of_le (by decide)]; rfl

section
variable {s : State} {t : Thread} {a : Gpr} {imm : Half} (runs : canRun s t = true) (fresh : latched s t = none) (rd : Gpr)
include runs fresh

theorem loads_byte {m : List Byte} (lets : guardLets s (.thread t) permR (effAddr s t a imm).toNat 1 = true)
    (holds : MemoryHolds s (effAddr s t a imm).toNat 1 m) :
    LoadsRegister (.lb t rd a imm) t rd (BitVec.ofInt 32 (ofBytes 8 m).toInt) s ∧
      LoadsRegister (.lbu t rd a imm) t rd (BitVec.ofNat 32 (leNat m)) s :=
  ⟨signExt_byte m ▸ load_reads runs (exec_lb t rd a imm s) (w := .byte) fresh (Nat.mod_one _) lets holds,
    load_reads runs (exec_lbu t rd a imm s) (w := .byte) fresh (Nat.mod_one _) lets holds⟩

theorem loads_half {m : List Byte} (aligns : (effAddr s t a imm).toNat % 2 = 0)
    (lets : guardLets s (.thread t) permR (effAddr s t a imm).toNat 2 = true)
    (holds : MemoryHolds s (effAddr s t a imm).toNat 2 m) :
    LoadsRegister (.lh t rd a imm) t rd (BitVec.ofInt 32 (ofBytes 16 m).toInt) s ∧
      LoadsRegister (.lhu t rd a imm) t rd (BitVec.ofNat 32 (leNat m)) s :=
  ⟨signExt_half m ▸ load_reads runs (exec_lh t rd a imm s) (w := .half) fresh aligns lets holds,
    load_reads runs (exec_lhu t rd a imm s) (w := .half) fresh aligns lets holds⟩

theorem loads_word {m : List Byte} (aligns : (effAddr s t a imm).toNat % 4 = 0)
    (lets : guardLets s (.thread t) permR (effAddr s t a imm).toNat 4 = true)
    (holds : MemoryHolds s (effAddr s t a imm).toNat 4 m) :
    LoadsRegister (.lw t rd a imm) t rd (BitVec.ofNat 32 (leNat m)) s :=
  load_reads runs (exec_lw t rd a imm s) (w := .word) fresh aligns lets holds

end

end Sys2Proof.Machine
end

section
/-! PROOFS. Stores to SRAM and program flash (R306, R502), and the rules by which the frame of an access to memory is put
together: what each of its parts leaves beside the memory and the caches' copies. -/

namespace Sys2Proof.Machine

/-! ### The frame of an access to memory (R155, R286, R293) -/

/-- Beside the memory and the data caches, a thread's access leaves its own progress and the counters of CREG[c]. -/
structure Moves (t : Thread) (s s' : State) : Prop where
  only : OnlyThread t s { s' with mem := s.mem, cache := s.cache, clk := s.clk }
  creg : OnlyCreg t s s'
  progress : OnlyProgress t s s'
  status : SameStatus t s s'

theorem only_rebase {t : Thread} {s s' : State} (m : Memories) (x : Vector Caches 4) (k : Clocks) (only : OnlyThread t s s') :
    OnlyThread t { s with mem := m, cache := x, clk := k } { s' with mem := m, cache := x, clk := k } := by
  obtain ⟨frame, cores, others, otherCores, own, -, -⟩ := only
  exact ⟨by rw [frame], cores, others, otherCores, own, fun _ _ => rfl, rfl⟩

theorem status_trans {t : Thread} {s s' s'' : State} (first : SameStatus t s s') (next : SameStatus t s' s'') :
    SameStatus t s s'' := by
  obtain ⟨flags, ret, latch⟩ := first
  obtain ⟨flags', ret', latch'⟩ := next
  exact ⟨flags'.trans flags, ret'.trans ret, latch'.trans latch⟩

theorem creg_trans {t : Thread} {s s' s'' : State} (first : OnlyCreg t s s') (next : OnlyCreg t s' s'') :
    OnlyCreg t s s'' := by
  obtain ⟨clk, queues⟩ := first
  obtain ⟨clk', queues'⟩ := next
  exact ⟨by rw [clk', clk], fun k other => (queues' k other).trans (queues k other)⟩

theorem creg_of_clk {t : Thread} {s s' : State} (clk : s'.clk = s.clk) : OnlyCreg t s s' :=
  ⟨by rw [clk], fun k _ => by rw [qstat, clk]; rfl⟩

theorem moves_trans {t : Thread} {s s' s'' : State} (first : Moves t s s') (next : Moves t s' s'') : Moves t s s'' :=
  have rebased := only_rebase s.mem s.cache s.clk next.only
  ⟨only_trans first.only rebased, creg_trans first.creg next.creg,
    progress_trans first.progress next.progress, status_trans first.status next.status⟩

theorem moves_of_only {t : Thread} {s s' : State} (only : OnlyThread t s s') (progress : OnlyProgress t s s')
    (status : SameStatus t s s') : Moves t s s' :=
  ⟨only_rebase s.mem s.cache s.clk only, creg_of_clk (clk_of_only only), progress, status⟩

theorem moves_of_mem_cache {t : Thread} {s s' : State} (frame : s' = { s with mem := s'.mem, cache := s'.cache }) :
    Moves t s s' := by
  have own : thr s' t = thr s t := by rw [frame]; rfl
  refine ⟨?_, creg_of_clk (by rw [frame]), by rw [OnlyProgress, own], by rw [SameStatus, own]; exact ⟨rfl, rfl, rfl⟩⟩
  rw [frame]; exact only_refl t s

theorem moves_qPass (t : Thread) (s : State) : Moves t s (qPass (88 + (coreOf t).val) s) := by
  have frame := eq_of_clk (qPass_same (88 + (coreOf t).val) s)
  have own : thr (qPass (88 + (coreOf t).val) s) t = thr s t := by simp [thr]
  refine ⟨?_, ⟨qPass_clk .., fun k other => qstat_qPass_other other s⟩, by rw [OnlyProgress, own], ?_⟩
  · rw [frame]; exact only_refl t s
  · rw [SameStatus, own]; exact ⟨rfl, rfl, rfl⟩

theorem status_issue (t : Thread) (s : State) : SameStatus t s (issue t s) := by simp [SameStatus]
theorem status_advance (t : Thread) (s : State) : SameStatus t s (advance t s) := by simp [SameStatus, advance]
theorem status_setGpr (t : Thread) (r : Gpr) (w : Word) (s : State) : SameStatus t s (setGpr t r w s) := by simp [SameStatus]

theorem moves_issue (t : Thread) (s : State) : Moves t s (issue t s) :=
  moves_of_only (issue_only t s) (issue_progress t s) (status_issue t s)

theorem moves_advance (t : Thread) (s : State) : Moves t s (advance t s) :=
  moves_of_only (advance_only t s) (advance_progress t s) (status_advance t s)

theorem moves_setGpr (t : Thread) (r : Gpr) (w : Word) (s : State) : Moves t s (setGpr t r w s) :=
  moves_of_only (setGpr_only t r w s) (setGpr_progress t r w s) (status_setGpr t r w s)

theorem moves_noteOutstanding (t : Thread) (o : Option Outstanding) (s : State) : Moves t s (noteOutstanding t o s) :=
  moves_of_only (setThr_only s t { thr s t with outstanding := o }) (by simp [OnlyProgress, noteOutstanding]) (by simp [SameStatus, noteOutstanding])

theorem moves_accessing (t : Thread) (s : State) : Moves t s (accessing t s) :=
  moves_trans (moves_issue t s) (moves_trans (moves_advance t _) (moves_qPass t _))

theorem guardLets_accessing (t : Thread) (s : State) (perm : BitVec 3) (a len : Nat) :
    guardLets (accessing t s) (.thread t) perm a len = guardLets s (.thread t) perm a len := guardLets_access ..

theorem only_of_clk {t : Thread} {s r s' : State} (frame : s' = { r with clk := s'.clk }) (only : OnlyThread t s r) :
    OnlyThread t s { s' with clk := s.clk } := by
  have back : { s' with clk := s.clk } = r := by rw [frame, ← clk_of_only only]
  rw [back]; exact only

theorem only_accessing (t : Thread) (s : State) : OnlyThread t s { accessing t s with clk := s.clk } :=
  only_of_clk (eq_of_clk (qPass_same ..)) (only_trans (issue_only t s) (advance_only t (issue t s)))

theorem mem_accessing (t : Thread) (s : State) : (accessing t s).mem = s.mem := by simp [accessing, advance, setPc]

theorem regs_accessing (t : Thread) (s : State) : SameRegs t s (accessing t s) := by
  rw [SameRegs, thr_accessing]; simp [advance]

theorem pcOf_accessing (t : Thread) (s : State) : pcOf (accessing t s) t = pcOf s t + 4 := by
  have next : pcOf (advance t (issue t s)) t = pcOf s t + 4 := by rw [pcOf_advance, pcOf_issue]; rfl
  rw [← next, pcOf, pcOf, thr_accessing]

theorem cache_of_only {t : Thread} {s s' : State} (only : OnlyThread t s s') {c : Fin 4} (other : c ≠ coreOf t) :
    cache s' c = cache s c := by
  obtain ⟨-, -, -, -, -, others, -⟩ := only
  exact others c other

theorem cache_clk (s : State) (k : Clocks) (c : Fin 4) : cache { s with clk := k } c = cache s c := rfl

theorem cache_accessing_other {t : Thread} {c : Fin 4} (other : c ≠ coreOf t) (s : State) :
    cache (accessing t s) c = cache s c :=
  (cache_clk (accessing t s) s.clk c).symm.trans (cache_of_only (only_accessing t s) other)

/-! ### Bytes stored in SRAM (R293, R306) -/

/-- SRAM takes bytes, and only the caches' copies change beside it. -/
def TakesBytes (a : Nat) (bs : List Byte) (s s' : State) : Prop := s' = { sramStore a bs s with cache := s'.cache }

section
variable {a : Nat} {bs : List Byte} {s s' : State} (takes : TakesBytes a bs s s')
include takes

theorem sram_of_takes : s'.mem = { s.mem with sram := memStore sramBlank s.mem.sram a bs } := by
  rw [takes]; rfl

theorem byte_of_takes {k : Nat} (inside : k < bs.length) : sramByte s' (a + k) = bs[k] := by
  rw [sramByte, sram_of_takes takes]
  exact tabGet_memStore_inside _ _ _ _ _ inside

theorem sramBut_of_takes : SramBut a bs.length s s' := by
  have mem := sram_of_takes takes
  refine ⟨by rw [mem], fun k outside => ?_⟩
  rw [sramByte, mem]
  exact tabGet_memStore_outside _ _ _ _ _ outside

theorem moves_of_takes (t : Thread) : Moves t s s' := by
  refine moves_of_mem_cache ?_
  rw [takes]; rfl

theorem thr_of_takes (t : Thread) : thr s' t = thr s t := by rw [takes]; rfl

end

theorem takes_dropData (keep : Fin 4 → CacheLine → Bool) (a n : Nat) (bs : List Byte) (s : State) :
    TakesBytes a bs s (dropData keep a n (sramStore a bs s)) := rfl

theorem cache_sramStore (a : Nat) (bs : List Byte) (s : State) (c : Fin 4) : cache (sramStore a bs s) c = cache s c := rfl

theorem cache_dropData {keep : Fin 4 → CacheLine → Bool} {c : Fin 4} (drops : ∀ x, keep c x = false) (a n : Nat)
    (bs : List Byte) (s : State) : cache (dropData keep a n (sramStore a bs s)) c =
      { cache s c with dlines := (cache s c).dlines.filter fun x => !onLine a n x } := by
  rw [dropData, cache_mapCaches, cache_sramStore]; simp [drops]

theorem takes_coreWrite (t : Thread) (a : Nat) (bs : List Byte) (s : State) : TakesBytes a bs s (coreWrite t a bs s) := rfl

theorem cache_coreWrite_other {t : Thread} {c : Fin 4} (other : c ≠ coreOf t) (a : Nat) (bs : List Byte) (s : State) :
    cache (coreWrite t a bs s) c =
      { cache s c with dlines := (cache s c).dlines.filter fun x => !onLine a bs.length x } :=
  cache_dropData (by simp [other]) ..

theorem byteAt_masked {n k : Nat} (v : Word) (inside : k < n) (fits : n ≤ 4) :
    byteAt (v &&& BitVec.ofNat 32 (2 ^ (8 * n) - 1)) k = byteAt v k := by
  apply BitVec.eq_of_getLsbD_eq
  intro i lt
  have low : 8 * k + i < 8 * n := by omega
  have word : 8 * k + i < 32 := by omega
  simp [byteAt, lt, BitVec.getLsbD_ofNat, Nat.testBit_two_pow_sub_one, low, word]

theorem bytesOf_masked {n : Nat} (v : Word) (fits : n ≤ 4) :
    bytesOf (v &&& BitVec.ofNat 32 (2 ^ (8 * n) - 1)) 0 n = bytesOf v 0 n :=
  List.map_congr_left fun i inside => by rw [Nat.zero_add, byteAt_masked v (List.mem_range.1 inside) fits]

theorem width_bytes_le (w : Width) : w.bytes ≤ 4 := by cases w <;> decide

theorem accessWrite_core {s : State} {t : Thread} {a : Word} {w : Width}
    (lets : guardLets s (.thread t) permW a.toNat w.bytes = true) (sram : inSram a.toNat w.bytes = true) (v : Word) :
    accessWrite (.thread t) a w v s = coreWrite t a.toNat (bytesOf v 0 w.bytes) s := by
  obtain ⟨lo, hi⟩ := inSram_bounds sram
  have rom : ¬ a.toNat ≤ 0x7FFF := by omega
  have flash : inFlash a.toNat w.bytes = false := decide_eq_false (by omega)
  simp [accessWrite, mapped_of_inSram (width_bytes_pos w) sram, rom, lets, flash, sram]

section
variable {s : State} {t : Thread} {d b : Gpr} {imm : Half} {w : Width} {c : Instr} (runs : canRun s t = true)
  (form : exec c s = onThread t (storeOp t d b imm w) s) (aligns : (effAddr s t b imm).toNat % w.bytes = 0)
include runs form aligns

theorem exec_store : exec c s = .next (accessWrite (.thread t) (effAddr s t b imm) w
    (gpr s t d &&& BitVec.ofNat 32 (2 ^ (8 * w.bytes) - 1)) (accessing t s)) := by
  have alignedW : aligned (effAddr s t b imm) w = true := decide_eq_true aligns
  rw [form, onThread_runs runs, storeOp, effAddr_issue, gpr_issue, accessing]
  simp only [alignedW, not_true_eq_false, if_false]

variable (lets : guardLets s (.thread t) permW (effAddr s t b imm).toNat w.bytes = true)
include lets

theorem stores_sram (sram : inSram (effAddr s t b imm).toNat w.bytes = true) :
    StoresAt c t (effAddr s t b imm).toNat w.bytes (gpr s t d) s := by
  have op := exec_store runs form aligns
  rw [accessWrite_core ((guardLets_accessing ..).trans lets) sram, bytesOf_masked _ (width_bytes_le w)] at op
  have takes := takes_coreWrite t (effAddr s t b imm).toNat (bytesOf (gpr s t d) 0 w.bytes) (accessing t s)
  have moves := moves_trans (moves_accessing t s) (moves_of_takes takes t)
  have own := thr_of_takes takes t
  have length : (bytesOf (gpr s t d) 0 w.bytes).length = w.bytes := by simp [bytesOf]
  obtain ⟨memories, outside⟩ := sramBut_of_takes takes
  refine ⟨_, op, fun k inside => ?_, ⟨?_, fun k apart => ?_⟩, ?_, moves.only, moves.creg, fun u other => ?_, moves.progress, ?_,
    moves.status⟩
  · rw [byte_of_takes takes (by omega)]; simp [bytesOf]
  · rw [memories, mem_accessing]
  · rw [outside k (by omega), sramByte, mem_accessing]; rfl
  · rw [pcOf, own, ← pcOf, pcOf_accessing]
  · rw [cache_coreWrite_other other, cache_accessing_other other, length]
  · rw [SameRegs, own]; exact regs_accessing t s

theorem stores_nothing (flash : inFlash (effAddr s t b imm).toNat w.bytes = true) : StoresNothing c t s := by
  have op := exec_store runs form aligns
  rw [accessWrite_flash ((guardLets_accessing ..).trans lets) flash] at op
  obtain ⟨-, creg, progress, status⟩ := moves_accessing t s
  exact ⟨_, op, pcOf_accessing t s, only_accessing t s, creg, progress, regs_accessing t s, status⟩

end

/-- Settles O13: loads by the two ways a load is answered and by the latch, stores by the bytes that SRAM takes. -/
theorem loadsAndStores : Obligations.LoadsAndStores := by
  unfold Obligations.LoadsAndStores
  refine ⟨fun s t rd b imm runs => ⟨fun fresh n _ aligns lets m holds => ?_, fun v latch c which => ?_⟩, fun s t d b imm runs => ?_⟩
  · refine ⟨?_, ?_, ?_⟩ <;> rintro rfl
    · exact loads_byte runs fresh rd lets holds
    · exact loads_half runs fresh rd aligns lets holds
    · exact loads_word runs fresh rd aligns lets holds
  · have held : latched s t = some v := by simp [latched, latch]
    rcases which with rfl | rfl | rfl | rfl | rfl
    · exact load_latched runs (exec_lb t rd b imm s) held
    · exact load_latched runs (exec_lbu t rd b imm s) held
    · exact load_latched runs (exec_lh t rd b imm s) held
    · exact load_latched runs (exec_lhu t rd b imm s) held
    · exact load_latched runs (exec_lw t rd b imm s) held
  · refine ⟨fun lets => ⟨?_, ?_⟩, fun aligns lets => ⟨?_, ?_⟩, fun aligns lets => ⟨?_, ?_⟩⟩
    · exact stores_sram runs (exec_sb t d b imm s) (w := .byte) (Nat.mod_one _) lets
    · exact stores_nothing runs (exec_sb t d b imm s) (w := .byte) (Nat.mod_one _) lets
    · exact stores_sram runs (exec_sh t d b imm s) (w := .half) aligns lets
    · exact stores_nothing runs (exec_sh t d b imm s) (w := .half) aligns lets
    · exact stores_sram runs (exec_sw t d b imm s) (w := .word) aligns lets
    · exact stores_nothing runs (exec_sw t d b imm s) (w := .word) aligns lets

end Sys2Proof.Machine
end

section
/-! PROOFS. Which immediates are sign-extended and which zero-extended (R302). -/

namespace Sys2Proof.Machine

/-- The sign-extended imm16, written out on numbers. -/
theorem signed_imm (imm : Half) :
    (if imm.toNat < 2 ^ 15 then BitVec.ofNat 32 imm.toNat else BitVec.ofNat 32 (imm.toNat + 0xFFFF0000)) = simm imm := by
  have range := imm.isLt
  apply BitVec.eq_of_toNat_eq
  rw [simm, BitVec.toNat_signExtend, BitVec.msb_eq_decide]
  simp only [decide_eq_true_eq]
  by_cases positive : imm.toNat < 2 ^ 15
  · rw [if_pos positive, if_neg (by omega), BitVec.toNat_ofNat, BitVec.toNat_setWidth, Nat.add_zero]
  · rw [if_neg positive, if_pos (by omega), BitVec.toNat_ofNat, BitVec.toNat_setWidth]; omega

theorem zimm_eq_ofNat (imm : Half) : zimm imm = BitVec.ofNat 32 imm.toNat := by
  apply BitVec.eq_of_toNat_eq
  simp [zimm]

/-- A branch's target: imm16 instructions away. -/
theorem instrAt_simm (pc : Word) (imm : Half) : instrAt pc imm.toInt = pc + simm imm * 4 := by
  rw [instrAt, BitVec.ofInt_add, BitVec.ofInt_mul, ← simm_toInt, BitVec.ofInt_toInt, BitVec.mul_comm]
  simp

/-- Settles O9: each form's immediate as its own lemma takes it, sign- or zero-extended. -/
theorem immediates : Obligations.Immediates := by
  unfold Obligations.Immediates
  intro s t rd a imm runs x sx zx ad
  have signed : sx = simm imm := signed_imm imm
  have zeroed : zx = zimm imm := (zimm_eq_ofNat imm).symm
  have address : ad = (effAddr s t a imm).toNat := by rw [effAddr, ← signed]
  clear_value ad sx zx
  subst signed zeroed address
  refine ⟨?_, ?_, ?_, ?_, ?_, ?_, ?_, ?_, ?_, ?_, ?_, fun fresh sram lets => ?_, fun fresh sram aligns lets => ?_,
    fun fresh sram aligns lets => ?_, fun sram lets => ?_, fun sram aligns lets => ?_, fun sram aligns lets => ?_⟩
  · exact writesRegister_aluRI runs rfl rfl
  · exact writesRegister_aluRI runs rfl (b2w_decide _)
  · exact writesRegister_aluRI runs rfl (b2w_decide _)
  · exact writesFlags_of (fun s => cmpFlags (gpr s t a) (simm imm)) runs rfl (by rw [gpr_issue])
  · exact writesRegister_aluRI runs rfl rfl
  · exact writesRegister_aluRI runs rfl rfl
  · exact writesRegister_aluRI runs rfl rfl
  · exact writesRegister_of (fun _ => zimm imm * 65536) runs rfl (upperImm imm)
  · exact instrAt_simm (pcOf s t) imm ▸ cbz_branches runs a imm
  · exact instrAt_simm (pcOf s t) imm ▸ cbnz_branches runs a imm
  · obtain ⟨s', op, pc, -⟩ := jalr_links runs rd a imm
    exact ⟨s', op, pc⟩
  · exact loads_byte runs fresh rd lets (Or.inl ⟨sram, rfl⟩)
  · exact loads_half runs fresh rd aligns lets (Or.inl ⟨sram, rfl⟩)
  · exact loads_word runs fresh rd aligns lets (Or.inl ⟨sram, rfl⟩)
  · exact stores_sram runs (exec_sb t rd a imm s) (w := .byte) (Nat.mod_one _) lets sram
  · exact stores_sram runs (exec_sh t rd a imm s) (w := .half) aligns lets sram
  · exact stores_sram runs (exec_sw t rd a imm s) (w := .word) aligns lets sram

end Sys2Proof.Machine
end

section
/-! PROOFS. The atomic operations and the block move (R307, R308). -/

namespace Sys2Proof.Machine

/-! ### What an access to memory leaves of the state -/

section
variable {t : Thread} {s s' : State} (moves : Moves t s s')
include moves

theorem homeEncl_of_moves : homeEncl s' t = homeEncl s t := homeEncl_of_only moves.only t

end

theorem sramByte_congr {s s' : State} (mem : s'.mem = s.mem) (k : Nat) : sramByte s' k = sramByte s k := by
  rw [sramByte, mem]; rfl

theorem sramBut_congr {a n : Nat} {s r r' s' : State} (start : r.mem = s.mem) (finish : s'.mem = r'.mem) (but : SramBut a n r r') :
    SramBut a n s s' := by
  obtain ⟨memories, outside⟩ := but
  refine ⟨by rw [finish, memories, start], fun k apart => ?_⟩
  rw [sramByte_congr finish, outside k apart, sramByte_congr start]

theorem takes_sramWrite (a : Nat) (bs : List Byte) (s : State) : TakesBytes a bs s (sramWrite a bs s) := rfl

theorem cache_sramWrite (a : Nat) (bs : List Byte) (s : State) (c : Fin 4) : cache (sramWrite a bs s) c =
    { cache s c with dlines := (cache s c).dlines.filter fun x => !onLine a bs.length x } :=
  cache_dropData (fun _ => rfl) ..

/-! ### Atomic operations (R307) -/

/-- The access of an atomic operation, through CREG[c]. -/
def exchange (t : Thread) (a : Word) (new : Word → Word) (s : State) : Word × State :=
  amoAccess t a new (qPass (88 + (coreOf t).val) s)

theorem amoOp_eq (t : Thread) (rd a : Gpr) (new : Word → Word) (s : State) : amoOp t rd a new s =
    if (latched s t).isNone ∧ ¬ aligned (gpr s t a) .word then raiseHere t .align s
    else awaited t rd (exchange t (gpr s t a) new) s := rfl

theorem amoAccess_sram {s : State} {t : Thread} {a : Word} (lets : guardLets s (.thread t) (permR ||| permW) a.toNat 4 = true)
    (sram : inSram a.toNat 4 = true) (new : Word → Word) : amoAccess t a new s =
      (ofBytes 32 (sramRead s a.toNat 4), sramWrite a.toNat (bytesOf (new (ofBytes 32 (sramRead s a.toNat 4))) 0 4) s) := by
  simp [amoAccess, mapped_of_inSram (by decide) sram, lets, sram]

theorem amoAccess_elsewhere {s : State} {t : Thread} {a : Word} (lets : guardLets s (.thread t) (permR ||| permW) a.toNat 4 = true)
    (here : mapped a.toNat = true) (sram : inSram a.toNat 4 = false) (new : Word → Word) : amoAccess t a new s = (0, s) := by
  simp [amoAccess, here, lets, sram]

section
variable {s : State} {t : Thread} {rd a : Gpr} {new : State → Word → Word} {c : Instr} (runs : canRun s t = true)
  (form : exec c s = onThread t (fun s => amoOp t rd a (new s) s) s) (fresh : latched s t = none)
  (aligns : (gpr s t a).toNat % 4 = 0)
include runs form fresh aligns

theorem exec_amo {v : Word} {r : State} (answer : amoAccess t (gpr s t a) (new (issue t s)) (accessing t s) = (v, r)) :
    ∃ o, exec c s = .next (noteOutstanding t o (setGpr t rd v r)) := by
  have alignedA : aligned (gpr s t a) .word = true := decide_eq_true aligns
  obtain ⟨o, waits⟩ := awaited_answers (rd := rd) (act := exchange t (gpr s t a) (new (issue t s))) fresh answer
  refine ⟨o, ?_⟩
  rw [form, onThread_runs runs, amoOp_eq, gpr_issue, alignedA, waits, if_neg (by simp)]

variable (lets : guardLets s (.thread t) (permR ||| permW) (gpr s t a).toNat 4 = true)
include lets

theorem exchanges_sram {v : Word} (sram : inSram (gpr s t a).toNat 4 = true)
    (value : new (issue t s) (ofBytes 32 (sramRead s (gpr s t a).toNat 4)) = v) : Exchanges c t rd (gpr s t a).toNat v s := by
  have answer := amoAccess_sram ((guardLets_accessing ..).trans lets) sram (new (issue t s))
  have old : sramRead (accessing t s) (gpr s t a).toNat 4 = sramRead s (gpr s t a).toNat 4 := by
    rw [sramRead, mem_accessing]; rfl
  rw [old, value] at answer
  obtain ⟨o, op⟩ := exec_amo runs form fresh aligns answer
  let r := sramWrite (gpr s t a).toNat (bytesOf v 0 4) (accessing t s)
  let s' := noteOutstanding t o (setGpr t rd (ofBytes 32 (sramRead s (gpr s t a).toNat 4)) r)
  have takes : TakesBytes (gpr s t a).toNat (bytesOf v 0 4) (accessing t s) r := takes_sramWrite ..
  have mem : s'.mem = r.mem := by simp [s']
  have caches : s'.cache = r.cache := by simp [s']
  have moves : Moves t s s' := moves_trans (moves_trans (moves_accessing t s) (moves_of_takes takes t))
    (moves_trans (moves_setGpr t rd _ r) (moves_noteOutstanding t o _))
  obtain ⟨result, pc, progress, regs, status⟩ := delivers_accessing (s' := s') (thr_of_takes takes t)
    (homeEncl_of_moves (moves_trans (moves_accessing t s) (moves_of_takes takes t))) (thr_setThr_same ..) (homeEncl_of_moves moves)
  refine ⟨s', op, result, fun k inside => ?_, sramBut_congr (mem_accessing t s) mem (sramBut_of_takes takes), pc, moves.only, moves.creg,
    fun u other => ?_, progress, regs, status⟩
  · rw [sramByte_congr mem, byte_of_takes takes (by simpa [bytesOf] using inside)]; simp [bytesOf]
  · rw [cache, caches, ← cache, cache_sramWrite, cache_accessing_other other]; rfl

theorem loads_elsewhere (here : mapped (gpr s t a).toNat = true) (sram : inSram (gpr s t a).toNat 4 = false) :
    LoadsRegister c t rd 0 s := by
  obtain ⟨o, op⟩ := exec_amo runs form fresh aligns
    (amoAccess_elsewhere ((guardLets_accessing ..).trans lets) here sram (new (issue t s)))
  have accessed : Accessed t s (noteOutstanding t o (setGpr t rd 0 (accessing t s))) :=
    accessed_setThr (accessed_setGpr (accessed_accessing t s) rd 0) { thr (setGpr t rd 0 (accessing t s)) t with outstanding := o }
  obtain ⟨value, pc, progress, regs, status⟩ := delivers_accessing (rd := rd) (v := 0) rfl (homeEncl_of_accessed (accessed_accessing t s))
    (thr_setThr_same ..) (homeEncl_of_accessed accessed)
  obtain ⟨only, creg⟩ := accessed
  exact ⟨_, op, value, pc, only, creg, progress, regs, status⟩

end

end Sys2Proof.Machine
end

section
/-! PROOFS. The block move (R308): the bytes of a chunk, an element read completely and then written, the run of elements. -/

namespace Sys2Proof.Machine

/-! ### The bytes of a chunk -/

theorem leNat_digit (bs : List Byte) (k : Nat) (inside : k < bs.length) : leNat bs / 2 ^ (8 * k) % 256 = bs[k].toNat := by
  induction bs generalizing k with
  | nil => simp at inside
  | cons b bs ih =>
    have byte := b.isLt
    cases k with
    | zero => simp [leNat]; omega
    | succ k =>
      have first : leNat (b :: bs) / 256 = leNat bs := by rw [leNat]; omega
      have digits : 2 ^ (8 * (k + 1)) = 256 * 2 ^ (8 * k) := by rw [Nat.mul_add, Nat.pow_add, Nat.mul_comm]
      rw [digits, ← Nat.div_div_eq_div_mul, first, ih k (by simpa using inside)]; rfl

theorem bytesOf_ofBytes {bs : List Byte} (fits : bs.length ≤ 4) : bytesOf (ofBytes 32 bs) 0 bs.length = bs := by
  have small : leNat bs < 2 ^ 32 := (leNat_lt bs).trans_le (Nat.pow_le_pow_right (by decide) (by omega))
  apply List.ext_getElem (by simp [bytesOf])
  intro i _ inside
  apply BitVec.eq_of_toNat_eq
  simp only [bytesOf, List.getElem_map, List.getElem_range, Nat.zero_add]
  rw [byteAt_toNat, ofBytes, BitVec.toNat_ofNat, Nat.mod_eq_of_lt small, leNat_digit bs i inside]

theorem memBytes_add (d : Byte) (m : Memory) (a i n : Nat) : memBytes d m a (i + n) = memBytes d m a i ++ memBytes d m (a + i) n := by
  induction i generalizing a with
  | zero => simp [memBytes]
  | succ i ih => rw [Nat.add_right_comm, memBytes, ih, memBytes, List.cons_append, Nat.add_assoc, Nat.add_comm 1 i]

theorem memStore_append (d : Byte) (m : Memory) (a : Nat) (xs ys : List Byte) :
    memStore d m a (xs ++ ys) = memStore d (memStore d m a xs) (a + xs.length) ys := by
  induction xs generalizing m a with
  | nil => rfl
  | cons x xs ih => rw [List.cons_append, memStore, ih, memStore, List.length_cons, Nat.add_assoc, Nat.add_comm 1]

theorem getElem_memBytes (d : Byte) (m : Memory) (a n k : Nat) (inside : k < (memBytes d m a n).length) :
    (memBytes d m a n)[k] = tabGet d m (a + k) := by
  induction n generalizing a k with
  | zero => simp at inside
  | succ n ih =>
    cases k with
    | zero => rfl
    | succ k =>
      simp only [memBytes, List.getElem_cons_succ]
      rw [ih, Nat.add_assoc, Nat.add_comm 1]

theorem getElem_sramRead (s : State) (a n k : Nat) (inside : k < (sramRead s a n).length) : (sramRead s a n)[k] = sramByte s (a + k) :=
  getElem_memBytes ..

theorem length_sramRead (s : State) (a n : Nat) : (sramRead s a n).length = n := memBytes_length ..

theorem chunkWidth_le {n : Nat} (a : Nat) (some : 0 < n) : (chunkWidth a n).bytes ≤ n := by
  unfold chunkWidth
  split
  · simp only [Width.bytes]; omega
  · split <;> simp only [Width.bytes] <;> omega

/-! ### SRAM takes bytes in turn -/

theorem takes_nil (a : Nat) (s : State) : TakesBytes a [] s s := rfl

theorem takes_trans {a : Nat} {xs ys : List Byte} {s r s' : State} (first : TakesBytes a xs s r)
    (next : TakesBytes (a + xs.length) ys r s') : TakesBytes a (xs ++ ys) s s' := by
  unfold TakesBytes at *
  rw [next, first]
  simp only [sramStore, memStore_append]

theorem accessWrite_takes {s : State} {r : Req} {a : Word} {w : Width} (lets : guardLets s r permW a.toNat w.bytes = true)
    (sram : inSram a.toNat w.bytes = true) (v : Word) :
    TakesBytes a.toNat (bytesOf v 0 w.bytes) s (accessWrite r a w v s) := by
  obtain ⟨keep, stores⟩ := accessWrite_sram lets sram v
  rw [stores]
  exact takes_dropData ..

/-! ### The guard over a range (R335) -/

/-- The guard lets a thread through to every part of a range. -/
def LetsRange (s : State) (t : Thread) (perm : BitVec 3) (a n : Nat) : Prop :=
  ∀ k m, 0 < m → k + m ≤ n → guardLets s (.thread t) perm (a + k) m = true

theorem letsRange_part {s : State} {t : Thread} {perm : BitVec 3} {a n : Nat} (lets : LetsRange s t perm a n) {i m : Nat}
    (inside : i + m ≤ n) : LetsRange s t perm (a + i) m := fun k j some fits => by
  rw [Nat.add_assoc]; exact lets (i + k) j some (by omega)

theorem letsRange_whole {s : State} {t : Thread} {perm : BitVec 3} {a n : Nat} (lets : LetsRange s t perm a n) {m : Nat}
    (some : 0 < m) (inside : m ≤ n) : guardLets s (.thread t) perm a m = true := lets 0 m some (by omega)

theorem inSram_part {a n i m : Nat} (sram : inSram a n = true) (inside : i + m ≤ n) : inSram (a + i) m = true := by
  obtain ⟨lo, hi⟩ := inSram_bounds sram
  exact decide_eq_true (by unfold sramBase; omega)

section
variable {t : Thread} {s s' : State} (moves : Moves t s s')
include moves

theorem inEncl_of_moves : inEncl s' t = inEncl s t := by
  have progress := moves.progress
  rw [OnlyProgress] at progress
  rw [inEncl, inEncl, homeEncl_of_moves moves, progress]

theorem fields_of_moves : s'.guard = s.guard ∧ s'.sys = s.sys ∧ s'.wld = s.wld ∧ s'.boot = s.boot := by
  obtain ⟨frame, -⟩ := moves.only
  have guard := congrArg State.guard frame
  have sys := congrArg State.sys frame
  have wld := congrArg State.wld frame
  have boot := congrArg State.boot frame
  exact ⟨guard, sys, wld, boot⟩

theorem letsRange_of_moves {perm : BitVec 3} {a n : Nat} (lets : LetsRange s t perm a n) : LetsRange s' t perm a n :=
  fun k m some fits => (guardLets_congr (r := .thread t) (fields_of_moves moves).1 (inEncl_of_moves moves) ..).trans (lets k m some fits)

theorem mainOn_of_moves : mainOn s' = mainOn s := by
  obtain ⟨-, sys, -⟩ := fields_of_moves moves
  rw [mainOn, mainOn, sys]

theorem modeLets_of_moves : modeLets s' t = modeLets s t := by
  obtain ⟨-, -, -, -, own, -⟩ := moves.only
  have single := congrArg Core.single own
  have same : (core s' (coreOf t)).single = (core s (coreOf t)).single := single
  rw [modeLets, modeLets, same]

theorem canRun_of_moves : canRun s' t = canRun s t := by
  have progress := moves.progress
  rw [OnlyProgress] at progress
  obtain ⟨-, sys, wld, boot⟩ := fields_of_moves moves
  have free : enclFree s' = enclFree s := by simp only [enclFree, limpReason, sys, wld, boot]
  rw [canRun, canRun, mainOn_of_moves moves, modeLets_of_moves moves, free, inEncl_of_moves moves, sys, progress]

theorem deliverable_of_moves : deliverable s' t = deliverable s t := by
  have progress := moves.progress
  rw [OnlyProgress] at progress
  have same : (fun k => (thr s' t).ext.ipend.getLsbD k && intEnabled s' t k && intWorld s' t k) =
      fun k => (thr s t).ext.ipend.getLsbD k && intEnabled s t k && intWorld s t k := by
    funext k
    rw [intEnabled, intEnabled, intWorld, intWorld, intEncl, intEncl, inEncl_of_moves moves, homeEncl_of_moves moves, progress]
  rw [deliverable, deliverable, same, mainOn_of_moves moves, modeLets_of_moves moves, progress]

end

/-! ### An element read completely, and written (R8, R308) -/

theorem readChunks_sram {s : State} {t : Thread} (k : Nat) (a : Word) (n : Nat) (enough : n ≤ k) (sram : inSram a.toNat n = true)
    (lets : LetsRange s t permR a.toNat n) : readChunks t k a n s = (sramRead s a.toNat n, s) := by
  induction k generalizing a n with
  | zero =>
    obtain rfl : n = 0 := by omega
    rfl
  | succ k ih =>
    by_cases none : n = 0
    · subst none; simp [readChunks, sramRead, memBytes]
    · have fits := chunkWidth_le a.toNat (n := n) (by omega)
      have some := width_bytes_pos (chunkWidth a.toNat n)
      have word := width_bytes_le (chunkWidth a.toNat n)
      obtain ⟨lo, hi⟩ := inSram_bounds sram
      simp only [readChunks, if_neg none]
      generalize (chunkWidth a.toNat n) = w at *
      have next : (a + BitVec.ofNat 32 w.bytes).toNat = a.toNat + w.bytes := by
        rw [BitVec.toNat_add, BitVec.toNat_ofNat]; omega
      rw [accessRead_sram (letsRange_whole lets some fits) (inSram_part (i := 0) sram (by omega)),
        ih _ _ (by omega) (next ▸ inSram_part sram (by omega)) (next ▸ letsRange_part lets (by omega))]
      have chunk := bytesOf_ofBytes (bs := sramRead s a.toNat w.bytes) (by rw [length_sramRead]; exact word)
      rw [length_sramRead] at chunk
      have split := memBytes_add sramBlank s.mem.sram a.toNat w.bytes (n - w.bytes)
      rw [show w.bytes + (n - w.bytes) = n by omega] at split
      simp only [chunk, next]
      simp only [sramRead, split]

theorem writeChunks_takes {t : Thread} (k : Nat) (a : Word) (bs : List Byte) (s : State) (enough : bs.length ≤ k)
    (sram : inSram a.toNat bs.length = true) (lets : LetsRange s t permW a.toNat bs.length) :
    TakesBytes a.toNat bs s (writeChunks t k a bs s) := by
  induction k generalizing a bs s with
  | zero =>
    obtain rfl : bs = [] := List.length_eq_zero_iff.1 (by omega)
    exact takes_nil ..
  | succ k ih =>
    by_cases none : bs = []
    · subst none; exact takes_nil ..
    · have length := List.length_pos_iff.2 none
      have fits := chunkWidth_le a.toNat length
      have some := width_bytes_pos (chunkWidth a.toNat bs.length)
      have word := width_bytes_le (chunkWidth a.toNat bs.length)
      obtain ⟨lo, hi⟩ := inSram_bounds sram
      simp only [writeChunks, if_neg none]
      generalize (chunkWidth a.toNat bs.length) = w at *
      have next : (a + BitVec.ofNat 32 w.bytes).toNat = a.toNat + w.bytes := by
        rw [BitVec.toNat_add, BitVec.toNat_ofNat]; omega
      have taken : (bs.take w.bytes).length = w.bytes := by rw [List.length_take]; omega
      have rest : (bs.drop w.bytes).length = bs.length - w.bytes := List.length_drop
      have chunk := accessWrite_takes (letsRange_whole lets some fits) (inSram_part (i := 0) sram (by omega))
        (ofBytes 32 (bs.take w.bytes))
      have bytes := bytesOf_ofBytes (bs := bs.take w.bytes) (by omega)
      rw [taken] at bytes
      rw [bytes] at chunk
      have others := ih _ (bs.drop w.bytes) (accessWrite (.thread t) a w (ofBytes 32 (bs.take w.bytes)) s) (by omega)
        (by rw [next, rest]; exact inSram_part sram (by omega))
        (by rw [next, rest]; exact letsRange_of_moves (moves_of_takes chunk t) (letsRange_part lets (by omega)))
      rw [next] at others
      have both := takes_trans chunk (by rw [taken]; exact others)
      rwa [List.take_append_drop] at both

theorem elementRefused_of_lets {s : State} {t : Thread} {perm : BitVec 3} {a n : Nat} (lets : guardLets s (.thread t) perm a n = true) :
    elementRefused s t perm a n = false := by simp [elementRefused, lets]

end Sys2Proof.Machine
end

section
/-! PROOFS. The run of a block move's elements (R286, R308), and O14. -/

namespace Sys2Proof.Machine

/-! ### One element -/

theorem sramRead_qPass (n : Nat) (s : State) (a k : Nat) : sramRead (qPass n s) a k = sramRead s a k := by simp [sramRead]

theorem crossed_moves (t : Thread) (s : State) :
    Moves t s (qPass (88 + (coreOf t).val) (qPass (88 + (coreOf t).val) s)) :=
  moves_trans (moves_qPass t s) (moves_qPass t _)

/-- An element is read completely before it is written. -/
theorem copyElement_takes {s : State} {t : Thread} {dst src : Word} {m : Nat} (some : 0 < m)
    (sramD : inSram dst.toNat m = true) (sramS : inSram src.toNat m = true) (letsD : LetsRange s t permW dst.toNat m)
    (letsS : LetsRange s t permR src.toNat m) :
    TakesBytes dst.toNat (sramRead s src.toNat m) (qPass (88 + (coreOf t).val) (qPass (88 + (coreOf t).val) s))
      (copyElement t dst src m s) := by
  have letsR := letsRange_of_moves (moves_qPass t s) letsS
  have letsW := letsRange_of_moves (crossed_moves t s) letsD
  have read : readElement t src m (qPass (88 + (coreOf t).val) s) = (sramRead s src.toNat m, qPass (88 + (coreOf t).val) s) := by
    rw [readElement, elementRefused_of_lets (letsRange_whole letsR some (Nat.le_refl m)), readChunks_sram m src m (Nat.le_refl m) sramS letsR,
      sramRead_qPass]
    simp
  have length := length_sramRead s src.toNat m
  have refused : elementRefused (qPass (88 + (coreOf t).val) (qPass (88 + (coreOf t).val) s)) t permW dst.toNat
      (sramRead s src.toNat m).length = false := by
    rw [length]; exact elementRefused_of_lets (letsRange_whole letsW some (Nat.le_refl m))
  have written : copyElement t dst src m s = writeChunks t (sramRead s src.toNat m).length dst (sramRead s src.toNat m)
      (qPass (88 + (coreOf t).val) (qPass (88 + (coreOf t).val) s)) := by
    simp [copyElement, read, writeElement, refused]
  rw [written]
  exact writeChunks_takes _ dst _ _ (Nat.le_refl _) (by rw [length]; exact sramD) (by rw [length]; exact letsW)

/-- `m` bytes of a copy are done: the bytes, the registers that follow them, and the frame. -/
structure Copied (t : Thread) (d a n : Gpr) (m : Nat) (s s' : State) : Prop where
  bytes : ∀ k, k < m → sramByte s' ((gpr s t d).toNat + k) = sramByte s ((gpr s t a).toNat + k)
  but : SramBut (gpr s t d).toNat m s s'
  dst : gpr s' t d = gpr s t d + BitVec.ofNat 32 m
  src : gpr s' t a = gpr s t a + BitVec.ofNat 32 m
  left : gpr s' t n = gpr s t n - BitVec.ofNat 32 m
  others : ∀ r, r ≠ d → r ≠ a → r ≠ n → gpr s' t r = gpr s t r
  pc : pcOf s' t = pcOf s t
  moves : Moves t s s'

/-- The registers after an element. -/
def followElement (t : Thread) (d a n : Gpr) (dst src left m : Word) (s : State) : State :=
  setGpr t n (left - m) (setGpr t a (src + m) (setGpr t d (dst + m) s))

theorem bmovRun_done {s : State} {t : Thread} {n : Gpr} (d a : Gpr) (k : Nat) (none : gpr s t n = 0) :
    bmovRun t d a n (k + 1) s = advance t s := by rw [bmovRun]; simp [none]

theorem bmovRun_more {s : State} {t : Thread} {d a n : Gpr} (k m : Nat) (some : gpr s t n ≠ 0)
    (length : elementLength (gpr s t d).toNat (gpr s t n).toNat = m)
    (goes : canRun (copyElement t (gpr s t d) (gpr s t a) m s) t = true)
    (stays : pcOf (copyElement t (gpr s t d) (gpr s t a) m s) t = pcOf s t) :
    bmovRun t d a n (k + 1) s =
      let r := followElement t d a n (gpr s t d) (gpr s t a) (gpr s t n) (BitVec.ofNat 32 m)
        (copyElement t (gpr s t d) (gpr s t a) m s)
      if gpr s t n - BitVec.ofNat 32 m ≠ 0 ∧ (deliverable r t).isSome then r else bmovRun t d a n k r := by
  subst length
  rw [bmovRun]
  dsimp only
  rw [if_neg some, if_neg (by simp [goes, stays])]
  rfl

theorem copied_element {s r : State} {t : Thread} {d a n : Gpr} {m : Nat} (ok : bmovOk d a n = true)
    (takes : TakesBytes (gpr s t d).toNat (sramRead s (gpr s t a).toNat m)
      (qPass (88 + (coreOf t).val) (qPass (88 + (coreOf t).val) s)) r) :
    Copied t d a n m s (followElement t d a n (gpr s t d) (gpr s t a) (gpr s t n) (BitVec.ofNat 32 m) r) := by
  obtain ⟨hd, ha, hn, hda, hdn, han⟩ := of_decide_eq_true ok
  have crossed : (qPass (88 + (coreOf t).val) (qPass (88 + (coreOf t).val) s)).mem = s.mem := by simp
  have own : thr r t = thr s t := (thr_of_takes takes t).trans (by simp [thr])
  have moves : Moves t s r := moves_trans (crossed_moves t s) (moves_of_takes takes t)
  have regs : ∀ q, gpr r t q = gpr s t q := gpr_of_sameRegs (homeEncl_of_moves moves) (by rw [own]) ⟨by rw [own], by rw [own]⟩
  have mem : (followElement t d a n (gpr s t d) (gpr s t a) (gpr s t n) (BitVec.ofNat 32 m) r).mem = r.mem := by
    simp [followElement]
  refine ⟨fun k inside => ?_, ?_, ?_, ?_, ?_, fun q nd na nn => ?_, ?_, ?_⟩
  · have inList : k < (sramRead s (gpr s t a).toNat m).length := by rw [length_sramRead]; exact inside
    rw [sramByte_congr mem, byte_of_takes takes inList, getElem_sramRead]
  · have but := sramBut_of_takes takes
    rw [length_sramRead] at but
    exact sramBut_congr crossed mem but
  · rw [followElement, gpr_setGpr_other _ _ _ _ _ _ (Or.inr hdn), gpr_setGpr_other _ _ _ _ _ _ (Or.inr hda), gpr_setGpr_same]; exact if_neg hd
  · rw [followElement, gpr_setGpr_other _ _ _ _ _ _ (Or.inr han), gpr_setGpr_same]; exact if_neg ha
  · rw [followElement, gpr_setGpr_same]; exact if_neg hn
  · rw [followElement, gpr_setGpr_other _ _ _ _ _ _ (Or.inr nn), gpr_setGpr_other _ _ _ _ _ _ (Or.inr na),
      gpr_setGpr_other _ _ _ _ _ _ (Or.inr nd), regs]
  · rw [followElement, pcOf_setGpr, pcOf_setGpr, pcOf_setGpr, pcOf, own, ← pcOf]
  · exact moves_trans moves (moves_trans (moves_setGpr ..) (moves_trans (moves_setGpr ..) (moves_setGpr ..)))

section
variable {s : State} {t : Thread} {d a n : Gpr} (runs : canRun s t = true) (ok : bmovOk d a n = true)
  (some : gpr s t n ≠ 0) (sramD : inSram (gpr s t d).toNat (gpr s t n).toNat = true)
  (sramS : inSram (gpr s t a).toNat (gpr s t n).toNat = true)
  (letsD : LetsRange s t permW (gpr s t d).toNat (gpr s t n).toNat)
  (letsS : LetsRange s t permR (gpr s t a).toNat (gpr s t n).toNat)
include runs ok some sramD sramS letsD letsS

/-- One round of the run: its element is copied, and the run stops there only for an interrupt before more of it. -/
theorem bmovRun_round (k m : Nat) (length : elementLength (gpr s t d).toNat (gpr s t n).toNat = m) :
    ∃ r, Copied t d a n m s r ∧ bmovRun t d a n (k + 1) s =
      if gpr s t n - BitVec.ofNat 32 m ≠ 0 ∧ (deliverable r t).isSome then r else bmovRun t d a n k r := by
  have left : 0 < (gpr s t n).toNat := Nat.pos_of_ne_zero fun zero => some (BitVec.eq_of_toNat_eq zero)
  have positive : 0 < m := by rw [← length, elementLength]; omega
  have fits : m ≤ (gpr s t n).toNat := by rw [← length, elementLength]; omega
  have takes := copyElement_takes positive (inSram_part (i := 0) sramD (by omega)) (inSram_part (i := 0) sramS (by omega))
    (letsRange_part (i := 0) letsD (by omega)) (letsRange_part (i := 0) letsS (by omega))
  have moves := moves_trans (crossed_moves t s) (moves_of_takes takes t)
  have own : thr (copyElement t (gpr s t d) (gpr s t a) m s) t = thr s t := (thr_of_takes takes t).trans (by simp [thr])
  exact ⟨_, copied_element ok takes, bmovRun_more k m some length ((canRun_of_moves moves).trans runs) (by rw [pcOf, own]; rfl)⟩

end

/-! ### The elements in turn -/

section
variable {s r s' : State} {t : Thread} {d a n : Gpr} {m m' : Nat} (copied : Copied t d a n m s r)
include copied

theorem toNat_dst_of_copied (fits : (gpr s t d).toNat + m < 2 ^ 32) : (gpr r t d).toNat = (gpr s t d).toNat + m := by
  rw [copied.dst, BitVec.toNat_add, BitVec.toNat_ofNat]; omega

theorem toNat_src_of_copied (fits : (gpr s t a).toNat + m < 2 ^ 32) : (gpr r t a).toNat = (gpr s t a).toNat + m := by
  rw [copied.src, BitVec.toNat_add, BitVec.toNat_ofNat]; omega

theorem toNat_left_of_copied (fits : m ≤ (gpr s t n).toNat) : (gpr r t n).toNat = (gpr s t n).toNat - m := by
  have range := (gpr s t n).isLt
  rw [copied.left, BitVec.toNat_sub, BitVec.toNat_ofNat]; omega

/-- What is copied next goes on where the copy stands; the ranges do not overlap. -/
theorem copied_trans (next : Copied t d a n m' r s') (fitsD : (gpr s t d).toNat + m < 2 ^ 32) (fitsS : (gpr s t a).toNat + m < 2 ^ 32)
    (apart : (gpr s t d).toNat + (m + m') ≤ (gpr s t a).toNat ∨ (gpr s t a).toNat + (m + m') ≤ (gpr s t d).toNat) :
    Copied t d a n (m + m') s s' := by
  have dst := toNat_dst_of_copied copied fitsD
  have src := toNat_src_of_copied copied fitsS
  obtain ⟨memories, outside⟩ := copied.but
  obtain ⟨memories', outside'⟩ := next.but
  rw [dst] at outside'
  refine ⟨fun k inside => ?_, ⟨by rw [memories', memories], fun k beyond => ?_⟩, ?_, ?_, ?_, fun q nd na nn => ?_,
    next.pc.trans copied.pc, moves_trans copied.moves next.moves⟩
  · by_cases first : k < m
    · rw [outside' _ (Or.inl (by omega)), copied.bytes k first]
    · obtain ⟨j, rfl⟩ := Nat.exists_eq_add_of_le (Nat.not_lt.1 first)
      have later := next.bytes j (by omega)
      rw [dst, src, outside _ (by omega)] at later
      rw [← Nat.add_assoc, ← Nat.add_assoc, later]
  · rw [outside' k (by omega), outside k (by omega)]
  · rw [next.dst, copied.dst, BitVec.ofNat_add, BitVec.add_assoc]
  · rw [next.src, copied.src, BitVec.ofNat_add, BitVec.add_assoc]
  · rw [next.left, copied.left, BitVec.ofNat_add, sub_sub]
  · rw [next.others q nd na nn, copied.others q nd na nn]

end

theorem copied_none (t : Thread) (d a n : Gpr) (s : State) : Copied t d a n 0 s s :=
  ⟨fun _ inside => absurd inside (Nat.not_lt_zero _), ⟨rfl, fun _ _ => rfl⟩, by simp, by simp, by simp, fun _ _ _ _ => rfl, rfl,
    moves_of_only (only_refl t s) (progress_refl t s) ⟨rfl, rfl, rfl⟩⟩

/-- A copy whose registers lie in SRAM, in ranges that the guard lets the thread through to. -/
structure Copyable (t : Thread) (d a n : Gpr) (s : State) : Prop where
  runs : canRun s t = true
  ok : bmovOk d a n = true
  sramD : inSram (gpr s t d).toNat (gpr s t n).toNat = true
  sramS : inSram (gpr s t a).toNat (gpr s t n).toNat = true
  letsD : LetsRange s t permW (gpr s t d).toNat (gpr s t n).toNat
  letsS : LetsRange s t permR (gpr s t a).toNat (gpr s t n).toNat

/-- What is left of it after some of its bytes. -/
theorem copyable_rest {t : Thread} {d a n : Gpr} {m : Nat} {s r : State} (able : Copyable t d a n s) (copied : Copied t d a n m s r)
    (fits : m ≤ (gpr s t n).toNat) : Copyable t d a n r := by
  obtain ⟨runs, ok, sramD, sramS, letsD, letsS⟩ := able
  obtain ⟨-, endD⟩ := inSram_bounds sramD
  obtain ⟨-, endS⟩ := inSram_bounds sramS
  have dst := toNat_dst_of_copied copied (by omega)
  have src := toNat_src_of_copied copied (by omega)
  have left := toNat_left_of_copied copied fits
  refine ⟨(canRun_of_moves copied.moves).trans runs, ok, ?_, ?_, ?_, ?_⟩
  · rw [dst, left]; exact inSram_part sramD (by omega)
  · rw [src, left]; exact inSram_part sramS (by omega)
  · rw [dst, left]; exact letsRange_of_moves copied.moves (letsRange_part letsD (by omega))
  · rw [src, left]; exact letsRange_of_moves copied.moves (letsRange_part letsS (by omega))

/-- A copy within one line of 32 bytes is one element, whatever the overlap. -/
theorem bmovRun_single {t : Thread} {d a n : Gpr} {s : State} (able : Copyable t d a n s) (some : gpr s t n ≠ 0)
    (single : (gpr s t n).toNat ≤ 32 - (gpr s t d).toNat % 32) (k : Nat) :
    ∃ r, bmovRun t d a n (k + 2) s = advance t r ∧ Copied t d a n (gpr s t n).toNat s r := by
  obtain ⟨runs, ok, sramD, sramS, letsD, letsS⟩ := able
  obtain ⟨r, copied, round⟩ := bmovRun_round runs ok some sramD sramS letsD letsS (k + 1) (gpr s t n).toNat
    (by rw [elementLength]; omega)
  have done : gpr s t n - BitVec.ofNat 32 (gpr s t n).toNat = 0 := by simp
  refine ⟨r, ?_, copied⟩
  rw [round, if_neg (by simp), bmovRun_done d a k (copied.left.trans done)]

/-- A copy between ranges that do not overlap, with no interrupt deliverable: each round copies up to the next line. -/
theorem bmovRun_apart {t : Thread} {d a n : Gpr} (k : Nat) (s : State) (able : Copyable t d a n s) (quiet : deliverable s t = none)
    (apart : (gpr s t d).toNat + (gpr s t n).toNat ≤ (gpr s t a).toNat ∨ (gpr s t a).toNat + (gpr s t n).toNat ≤ (gpr s t d).toNat)
    (rounds : 0 < (gpr s t n).toNat → (gpr s t d).toNat % 32 + (gpr s t n).toNat ≤ 32 * k) :
    ∃ r, bmovRun t d a n (k + 1) s = advance t r ∧ Copied t d a n (gpr s t n).toNat s r := by
  induction k generalizing s with
  | zero =>
    have none : (gpr s t n).toNat = 0 := by omega
    exact ⟨s, bmovRun_done d a 0 (BitVec.eq_of_toNat_eq none), none ▸ copied_none ..⟩
  | succ k ih =>
    by_cases none : gpr s t n = 0
    · have zero : (gpr s t n).toNat = 0 := by rw [none]; rfl
      exact ⟨s, bmovRun_done d a (k + 1) none, zero ▸ copied_none ..⟩
    · have left : 0 < (gpr s t n).toNat := Nat.pos_of_ne_zero fun zero => none (BitVec.eq_of_toNat_eq zero)
      obtain ⟨m, length⟩ : ∃ m, elementLength (gpr s t d).toNat (gpr s t n).toNat = m := ⟨_, rfl⟩
      have element : m = min (gpr s t n).toNat (32 - (gpr s t d).toNat % 32) := by rw [← length, elementLength]; omega
      obtain ⟨r, copied, round⟩ := bmovRun_round able.runs able.ok none able.sramD able.sramS able.letsD able.letsS (k + 1) m length
      have quiet' : deliverable r t = Option.none := (deliverable_of_moves copied.moves).trans quiet
      obtain ⟨-, endD⟩ := inSram_bounds able.sramD
      obtain ⟨-, endS⟩ := inSram_bounds able.sramS
      have dst := toNat_dst_of_copied copied (by omega)
      have src := toNat_src_of_copied copied (by omega)
      have rest := toNat_left_of_copied copied (by omega)
      obtain ⟨s', goes, others⟩ := ih r (copyable_rest able copied (by omega)) quiet' (by omega) (by omega)
      refine ⟨s', ?_, ?_⟩
      · rw [round, if_neg (by simp [quiet']), goes]
      · have all := copied_trans copied others (by omega) (by omega) (by omega)
        rwa [rest, show m + ((gpr s t n).toNat - m) = (gpr s t n).toNat by omega] at all

section
variable {s : State} {t : Thread} {d a n : Gpr} (runs : canRun s t = true) (ok : bmovOk d a n = true)
include runs ok

theorem exec_bmov_runs : exec (.bmov t d a n) s = .next (bmovRun t d a n ((gpr s t n).toNat / 32 + 3) (issue t s)) := by
  rw [exec_bmov, execBmov, onThread_runs runs, gpr_issue, ok]
  rfl

theorem bmov_none (none : (gpr s t n).toNat = 0) : GoesTo (.bmov t d a n) t (pcOf s t + 4) s := by
  have zero : gpr (issue t s) t n = 0 := (gpr_issue ..).trans (BitVec.eq_of_toNat_eq none)
  have op := exec_bmov_runs runs ok
  rw [bmovRun_done d a _ zero] at op
  obtain ⟨pc, only, progress, regs, status⟩ := setPc_goes s t (pcOf (issue t s) t + 4)
  exact ⟨_, op, by rw [pcOf_advance, pcOf_issue]; rfl, only, progress, regs, status⟩

/-- The run ends at the next instruction with the whole copied. -/
theorem bmov_copies (some : 0 < (gpr s t n).toNat) (sramD : inSram (gpr s t d).toNat (gpr s t n).toNat = true)
    (sramS : inSram (gpr s t a).toNat (gpr s t n).toNat = true)
    (letsD : LetsRange s t permW (gpr s t d).toNat (gpr s t n).toNat)
    (letsS : LetsRange s t permR (gpr s t a).toNat (gpr s t n).toNat)
    (shape : (gpr s t n).toNat ≤ 32 - (gpr s t d).toNat % 32 ∨ (deliverable s t = none ∧
      ((gpr s t d).toNat + (gpr s t n).toNat ≤ (gpr s t a).toNat ∨ (gpr s t a).toNat + (gpr s t n).toNat ≤ (gpr s t d).toNat))) :
    ∃ r, exec (.bmov t d a n) s = .next (advance t r) ∧ Copied t d a n (gpr s t n).toNat (issue t s) r := by
  have issued := moves_issue t s
  have regs : ∀ q, gpr (issue t s) t q = gpr s t q := gpr_issue s t t
  have able : Copyable t d a n (issue t s) := ⟨(canRun_of_moves issued).trans runs, ok, by rw [regs, regs]; exact sramD,
    by rw [regs, regs]; exact sramS, by rw [regs, regs]; exact letsRange_of_moves issued letsD,
    by rw [regs, regs]; exact letsRange_of_moves issued letsS⟩
  rw [exec_bmov_runs runs ok, ← regs n]
  rcases shape with single | ⟨quiet, apart⟩
  · obtain ⟨r, ends, copied⟩ := bmovRun_single able (fun zero => by rw [regs] at zero; simp [zero] at some)
      (by rw [regs, regs]; exact single) ((gpr (issue t s) t n).toNat / 32 + 1)
    exact ⟨r, congrArg _ ends, copied⟩
  · obtain ⟨r, ends, copied⟩ := bmovRun_apart ((gpr (issue t s) t n).toNat / 32 + 2) _ able
      ((deliverable_of_moves issued).trans quiet) (by rw [regs, regs, regs]; exact apart) (fun _ => by omega)
    exact ⟨r, congrArg _ ends, copied⟩

end

/-- Settles O14: an atomic operation by its access, BMOV by the rounds of its run. -/
theorem atomicsAndBlockMove : Obligations.AtomicsAndBlockMove := by
  unfold Obligations.AtomicsAndBlockMove
  refine ⟨fun s t rd a b runs fresh aligns here lets => ⟨fun sram => ?_, fun sram c which => ?_⟩,
    fun s t d a n runs ok => ⟨bmov_none runs ok, fun some sramD sramS lets shape => ?_⟩⟩
  · refine ⟨?_, ?_, ?_, ?_, ?_⟩
    · exact exchanges_sram runs (exec_amoswap t rd a b s) fresh aligns lets sram (gpr_issue ..)
    · exact exchanges_sram runs (exec_amoadd t rd a b s) fresh aligns lets sram (by rw [gpr_issue]; exact add_eq_ofNat ..)
    · exact exchanges_sram runs (exec_amoand t rd a b s) fresh aligns lets sram (by rw [gpr_issue])
    · exact exchanges_sram runs (exec_amoor t rd a b s) fresh aligns lets sram (by rw [gpr_issue])
    · exact exchanges_sram runs (exec_cas t rd a b s) fresh aligns lets sram (by rw [gpr_issue, gpr_issue])
  · rcases which with rfl | rfl | rfl | rfl | rfl
    · exact loads_elsewhere runs (exec_amoswap t rd a b s) fresh aligns lets here sram
    · exact loads_elsewhere runs (exec_amoadd t rd a b s) fresh aligns lets here sram
    · exact loads_elsewhere runs (exec_amoand t rd a b s) fresh aligns lets here sram
    · exact loads_elsewhere runs (exec_amoor t rd a b s) fresh aligns lets here sram
    · exact loads_elsewhere runs (exec_cas t rd a b s) fresh aligns lets here sram
  · obtain ⟨r, ends, copied⟩ := bmov_copies runs ok some sramD sramS (fun k m more fits => (lets k m more fits).2)
      (fun k m more fits => (lets k m more fits).1) shape
    have regs : ∀ q, gpr (issue t s) t q = gpr s t q := gpr_issue s t t
    have mem : (advance t r).mem = r.mem := rfl
    have issued : (issue t s).mem = s.mem := by simp
    obtain ⟨only, creg, progress, status⟩ := moves_trans (moves_issue t s) (moves_trans copied.moves (moves_advance t r))
    obtain ⟨bytes, but, dstR, srcR, leftR, others, pc, -⟩ := copied
    rw [regs, regs] at bytes
    rw [regs] at but dstR srcR leftR
    refine ⟨_, ends, fun k inside => ?_, sramBut_congr issued mem but, ?_, ?_, ?_, ?_, fun q nd na nn => ?_, only, creg, progress, status⟩
    · rw [sramByte_congr mem, bytes k inside, sramByte_congr issued]
    · rw [pcOf_advance, pc, pcOf_issue]; rfl
    · rw [gpr_advance, dstR, BitVec.ofNat_add]; simp
    · rw [gpr_advance, srcR, BitVec.ofNat_add]; simp
    · rw [gpr_advance, leftR]; simp
    · rw [gpr_advance, others q nd na nn, regs]

end Sys2Proof.Machine
end

section
/-! PROOFS. What a step carries out (00_scope), and the canonical form of the memories kept by every step (log entry 4). -/

namespace Sys2Proof.Machine

/-- Settles O1: both cases of the queue, by the step's own definition. -/
theorem stepRunsFront : Obligations.StepRunsFront := by
  unfold Obligations.StepRunsFront
  exact ⟨fun c rest s => rfl, fun s empty => by rw [step, empty]⟩

/-- A step's outcome holds the memories and the fuses of the state it is taken in. -/
theorem step_nextHeld {s : State} (wf : memoriesWf s.mem = true) : NextHeld (pufHelper s) s.fuse.array (step s) := by
  have mem : MemOk (pufHelper s) s.mem := ⟨wf, rfl⟩
  have fuses := fusesWithin_refl s.fuse.array
  unfold step
  split
  case h_1 => exact nextHeld (by simp [mem]) (by simp [fuses])
  case h_2 rest _ => exact exec_nextHeld (s := { s with pending := rest }) mem fuses _

/-- Settles O4: every command and the idle cycle keep the form, by what each of them holds. -/
theorem stepKeepsMemoryForm : Obligations.StepKeepsMemoryForm := by
  unfold Obligations.StepKeepsMemoryForm
  intro s t wf next
  obtain ⟨t', answer, ⟨form, -⟩, -⟩ := step_nextHeld wf
  obtain rfl : t = t' := by simpa [next] using answer
  exact form

end Sys2Proof.Machine
end

section
/-! PROOFS. The elements of a tile as they are laid and read back (R347 to R349), a whole tile computed element by element
(R357 to R359, R361), and the head of TLQ executed (R351). -/

namespace Sys2Proof.Machine

/-! ### An element laid into a tile -/

theorem leNat_leBytes (n x : Nat) : leNat (leBytes n x) = x % 256 ^ n := by
  induction n generalizing x with
  | zero => simp [leBytes, leNat, Nat.mod_one]
  | succ n ih => rw [leBytes, leNat, ih, pow_succ', Nat.mod_mul, BitVec.toNat_ofNat]

/-- The element is an integer that its format holds (R349). -/
def ElemFits (f : Nat) (e : Elem) : Prop := ∃ v : Int, e = .int v ∧ (tileRange f).1 ≤ v ∧ v ≤ (tileRange f).2

theorem intFormat_cases {f : Nat} (format : intFormat f = true) : f = 0 ∨ f = 1 ∨ f = 2 ∨ f = 5 := of_decide_eq_true format

theorem fmtFloat_of_intFormat {f : Nat} (format : intFormat f = true) : fmtFloat f = none := by
  rcases intFormat_cases format with rfl | rfl | rfl | rfl <;> rfl

theorem elemFits_clampTo (f : Nat) (v : Int) : ElemFits f (.int (clampTo (tileRange f).1 (tileRange f).2 v)) := by
  have ordered : (tileRange f).1 ≤ (tileRange f).2 := by
    unfold tileRange; (repeat' split) <;> decide
  refine ⟨_, rfl, ?_⟩
  unfold clampTo
  (repeat' split) <;> omega

theorem length_elemBytes (f : Nat) (e : Elem) : (elemBytes f e).length = fmtSize f := by
  cases e <;> simp [elemBytes]

theorem tileElem_eq (x : TileReg) (i j : Nat) : tileElem x i j =
    if x.geom.fmt.toNat = 5 then .int ((tabGet 0 x.guards (16 * i + j)).toInt * 2 ^ 32 +
      leNat (memBytes 0 x.bytes (64 * i + j * x.geom.size) x.geom.size))
    else elemOf x.geom.fmt.toNat (memBytes 0 x.bytes (64 * i + j * x.geom.size) x.geom.size) := rfl

theorem putTileElem_keeps (x : TileReg) (i j : Nat) (e : Elem) :
    putTileElem x i j e = { x with bytes := (putTileElem x i j e).bytes, guards := (putTileElem x i j e).guards } := by
  unfold putTileElem; dsimp only; split <;> rfl

theorem geom_putTileElem (x : TileReg) (i j : Nat) (e : Elem) : (putTileElem x i j e).geom = x.geom := by
  rw [putTileElem_keeps]

theorem bytes_putTileElem (x : TileReg) (i j : Nat) (e : Elem) : (putTileElem x i j e).bytes =
    memStore 0 x.bytes (64 * i + j * x.geom.size) (elemBytes x.geom.fmt.toNat e) := by
  unfold putTileElem; dsimp only; split <;> rfl

theorem guards_putTileElem_int32 {x : TileReg} (format : x.geom.fmt.toNat = 5) (i j : Nat) (v : Int) :
    (putTileElem x i j (.int v)).guards = tabPut 0 x.guards (16 * i + j) (BitVec.ofInt 8 (v / 2 ^ 32)) := by
  unfold putTileElem; rw [format]; rfl

theorem memBytes_putTileElem (x : TileReg) (i j : Nat) (e : Elem) :
    memBytes 0 (putTileElem x i j e).bytes (64 * i + j * x.geom.size) x.geom.size = elemBytes x.geom.fmt.toNat e := by
  rw [bytes_putTileElem]
  have same := memBytes_memStore_same 0 x.bytes (64 * i + j * x.geom.size) (elemBytes x.geom.fmt.toNat e)
  rwa [length_elemBytes] at same

/-- An integer that fits its format reads back as it was laid. -/
theorem tileElem_putTileElem_same {x : TileReg} {e : Elem} (format : intFormat x.geom.fmt.toNat = true)
    (fits : ElemFits x.geom.fmt.toNat e) (i j : Nat) : tileElem (putTileElem x i j e) i j = e := by
  obtain ⟨v, rfl, least, most⟩ := fits
  rw [tileElem_eq, geom_putTileElem, memBytes_putTileElem]
  rcases intFormat_cases format with f | f | f | f
  case' inr.inr.inr => rw [guards_putTileElem_int32 f, tabGet_tabPut_same]
  all_goals
    rw [f] at least most ⊢
    simp [tileRange, elemOf, elemBytes, fmtFloat, fmtSize, fmtSigned, leNat_leBytes, Nat.testBit_eq_decide_div_mod_eq,
      BitVec.toInt_ofInt] at least most ⊢
  case inr.inr.inr =>
    rw [Int.bmod_eq_of_le (by omega) (by omega)]
    omega
  case inr.inl => omega
  all_goals split <;> simp only [Elem.int.injEq] <;> omega

theorem elem_lt_size {x : TileReg} {j : Nat} (inside : j < x.geom.elems) : (j + 1) * x.geom.size ≤ x.geom.rbytes.toNat :=
  (Nat.mul_le_mul_right _ inside).trans (Nat.div_mul_le_self ..)

/-- Two elements of a tile of at most 64 bytes a row lie apart. -/
theorem elems_apart {x : TileReg} (narrow : x.geom.rbytes.toNat ≤ 64) {i j i' j' : Nat} (inside : j < x.geom.elems)
    (inside' : j' < x.geom.elems) (other : ¬ (i' = i ∧ j' = j)) :
    64 * i' + j' * x.geom.size + x.geom.size ≤ 64 * i + j * x.geom.size ∨
      64 * i + j * x.geom.size + x.geom.size ≤ 64 * i' + j' * x.geom.size := by
  have ends := elem_lt_size inside
  have ends' := elem_lt_size inside'
  have row : i = i' → j ≠ j' := fun same more => other ⟨same.symm, more.symm⟩
  have before : j < j' → (j + 1) * x.geom.size ≤ j' * x.geom.size := fun less => Nat.mul_le_mul_right _ less
  have after : j' < j → (j' + 1) * x.geom.size ≤ j * x.geom.size := fun less => Nat.mul_le_mul_right _ less
  simp only [Nat.add_mul, Nat.one_mul] at *
  omega

theorem tileElem_putTileElem_other {x : TileReg} (narrow : x.geom.rbytes.toNat ≤ 64) (e : Elem) {i j i' j' : Nat}
    (inside : j < x.geom.elems) (inside' : j' < x.geom.elems) (other : ¬ (i' = i ∧ j' = j)) :
    tileElem (putTileElem x i j e) i' j' = tileElem x i' j' := by
  have bytes : memBytes 0 (putTileElem x i j e).bytes (64 * i' + j' * x.geom.size) x.geom.size =
      memBytes 0 x.bytes (64 * i' + j' * x.geom.size) x.geom.size := by
    rw [bytes_putTileElem]
    apply memBytes_memStore_apart
    rw [length_elemBytes]
    exact elems_apart narrow inside inside' other
  rw [tileElem_eq, tileElem_eq, geom_putTileElem, bytes]
  split
  next int32 =>
    have size : x.geom.size = 4 := by rw [Geom.size, int32]; rfl
    have ends := elem_lt_size inside
    have ends' := elem_lt_size inside'
    rw [size] at ends ends'
    have guards : tabGet 0 (putTileElem x i j e).guards (16 * i' + j') = tabGet 0 x.guards (16 * i' + j') := by
      cases e with
      | flt b => unfold putTileElem; rw [int32]; rfl
      | int v => rw [guards_putTileElem_int32 int32]; exact tabGet_tabPut_other _ (by omega) ..
    rw [guards]
  · rfl

/-! ### A tile computed element by element (R357 to R359) -/

/-- What one element adds to a tile, to what is raised and to the rows with OVF. -/
def fillElem (f : Nat → Nat → Elem × Raised) (i : Nat) (acc : TileReg × Raised × Nat) (j : Nat) : TileReg × Raised × Nat :=
  (putTileElem acc.1 i j (f i j).1, acc.2.1.or (f i j).2, if (f i j).2.ovf then acc.2.2 ||| (1 <<< i) else acc.2.2)

theorem fillTile_eq (x : TileReg) (m n : Nat) (f : Nat → Nat → Elem × Raised) : fillTile x m n f =
    (List.range m).foldl (fun acc i => (List.range n).foldl (fillElem f i) acc) (x, {}, 0) := rfl

/-- A tile `x` with the elements `done` computed by `f`, and what their computation has raised. -/
structure Filled (x : TileReg) (f : Nat → Nat → Elem × Raised) (done : Nat → Nat → Prop) (acc : TileReg × Raised × Nat) :
    Prop where
  frame : acc.1 = { x with bytes := acc.1.bytes, guards := acc.1.guards }
  computed : ∀ i j, j < x.geom.elems → done i j → tileElem acc.1 i j = (f i j).1
  kept : ∀ i j, j < x.geom.elems → ¬ done i j → tileElem acc.1 i j = tileElem x i j
  ovf : acc.2.1.ovf = true ↔ ∃ i j, done i j ∧ (f i j).2.ovf = true
  rows : ∀ i, acc.2.2.testBit i = true ↔ ∃ j, done i j ∧ (f i j).2.ovf = true

section
variable {x : TileReg} {f : Nat → Nat → Elem × Raised}

theorem filled_geom {done : Nat → Nat → Prop} {acc : TileReg × Raised × Nat} (filled : Filled x f done acc) :
    acc.1.geom = x.geom := by rw [filled.frame]

theorem filled_marked {done : Nat → Nat → Prop} {acc : TileReg × Raised × Nat} (filled : Filled x f done acc) :
    acc.1.marked = x.marked := by rw [filled.frame]

theorem filled_none : Filled x f (fun _ _ => False) (x, {}, 0) :=
  ⟨rfl, fun _ _ _ no => no.elim, fun _ _ _ _ => rfl, by simp, by simp⟩

theorem filled_congr {done done' : Nat → Nat → Prop} {acc : TileReg × Raised × Nat} (filled : Filled x f done acc)
    (same : ∀ i j, done i j ↔ done' i j) : Filled x f done' acc := by
  obtain rfl : done = done' := by ext i j; exact same i j
  exact filled

variable (format : intFormat x.geom.fmt.toNat = true) (narrow : x.geom.rbytes.toNat ≤ 64)
  (fits : ∀ i j, ElemFits x.geom.fmt.toNat (f i j).1)
include format narrow fits

theorem filled_elem {done : Nat → Nat → Prop} {acc : TileReg × Raised × Nat} (filled : Filled x f done acc) (i : Nat) {j : Nat}
    (inside : j < x.geom.elems) : Filled x f (fun a b => done a b ∨ (a = i ∧ b = j)) (fillElem f i acc j) := by
  have geom := filled_geom filled
  obtain ⟨frame, computed, kept, ovf, rows⟩ := filled
  have laid : tileElem (fillElem f i acc j).1 i j = (f i j).1 :=
    tileElem_putTileElem_same (by rwa [geom]) (by rw [geom]; exact fits i j) i j
  have others : ∀ a b, b < x.geom.elems → ¬ (a = i ∧ b = j) → tileElem (fillElem f i acc j).1 a b = tileElem acc.1 a b :=
    fun a b within other => tileElem_putTileElem_other (by rwa [geom]) _ (by rwa [geom]) (by rwa [geom]) other
  refine ⟨?_, fun a b within done => ?_, fun a b within todo => ?_, ?_, fun a => ?_⟩
  · rw [fillElem, putTileElem_keeps, frame]
  · by_cases here : a = i ∧ b = j
    · obtain ⟨rfl, rfl⟩ := here; exact laid
    · rw [others a b within here]; exact computed a b within (done.resolve_right here)
  · rw [others a b within fun here => todo (.inr here)]; exact kept a b within fun before => todo (.inl before)
  · have either : (fillElem f i acc j).2.1.ovf = (acc.2.1.ovf || (f i j).2.ovf) := rfl
    rw [either, Bool.or_eq_true, ovf]
    constructor
    · rintro (⟨a, b, done, raised⟩ | raised)
      exacts [⟨a, b, .inl done, raised⟩, ⟨i, j, .inr ⟨rfl, rfl⟩, raised⟩]
    · rintro ⟨a, b, done | ⟨rfl, rfl⟩, raised⟩
      exacts [.inl ⟨a, b, done, raised⟩, .inr raised]
  · have bit : (fillElem f i acc j).2.2.testBit a = true ↔ acc.2.2.testBit a = true ∨ (a = i ∧ (f i j).2.ovf = true) := by
      unfold fillElem; dsimp only
      split
      next raised => rw [Nat.testBit_or, Bool.or_eq_true, Nat.one_shiftLeft, Nat.testBit_two_pow,
          decide_eq_true_eq, raised, eq_comm (a := i), and_iff_left rfl]
      next quiet => simp [quiet]
    rw [bit, rows]
    constructor
    · rintro (⟨b, done, raised⟩ | ⟨rfl, raised⟩)
      exacts [⟨b, .inl done, raised⟩, ⟨j, .inr ⟨rfl, rfl⟩, raised⟩]
    · rintro ⟨b, done | ⟨rfl, rfl⟩, raised⟩
      exacts [.inl ⟨b, done, raised⟩, .inr ⟨rfl, raised⟩]

theorem filled_row {done : Nat → Nat → Prop} {acc : TileReg × Raised × Nat} (filled : Filled x f done acc) (i n : Nat)
    (inside : n ≤ x.geom.elems) :
    Filled x f (fun a b => done a b ∨ (a = i ∧ b < n)) ((List.range n).foldl (fillElem f i) acc) := by
  induction n with
  | zero => exact filled_congr filled fun a b => by simp
  | succ n ih =>
    rw [List.range_succ, List.foldl_append]
    exact filled_congr (filled_elem format narrow fits (ih (by omega)) i inside) fun a b => by
      rw [or_assoc, ← and_or_left, Nat.lt_succ_iff_lt_or_eq]

/-- Every element of the first `m` rows is computed by `f`. -/
theorem filled_fillTile (m n : Nat) (inside : n ≤ x.geom.elems) :
    Filled x f (fun a b => a < m ∧ b < n) (fillTile x m n f) := by
  rw [fillTile_eq]
  induction m with
  | zero => exact filled_congr filled_none fun a b => by simp
  | succ m ih =>
    rw [List.range_succ, List.foldl_append]
    exact filled_congr (filled_row format narrow fits ih m n inside) fun a b => by
      rw [← or_and_right, Nat.lt_succ_iff_lt_or_eq]

end

end Sys2Proof.Machine
end

section
/-! PROOFS. The head of TLQ executed (R351, R352): what is written to its tile, what it raises, and its completion; TZERO,
TMMA, TEL and a GEOM write. -/

namespace Sys2Proof.Machine

/-! ### A tile written and its flags raised (R341, R361) -/

/-- Of the tile engine only one tile and the flags since each thread's last TNOTE may differ. -/
def OnlyTile (t : Tile) (s s' : State) : Prop :=
  s'.tile = { s.tile with tiles := s'.tile.tiles, since := s'.tile.since } ∧ ∀ u, u ≠ t → tile s' u = tile s u

theorem onlyTile_refl (t : Tile) (s : State) : OnlyTile t s s := ⟨rfl, fun _ _ => rfl⟩

theorem onlyTile_congr {t : Tile} {s r s' : State} (same : r.tile = s.tile) (only : OnlyTile t r s') : OnlyTile t s s' := by
  simpa only [OnlyTile, tile, same] using only

theorem onlyTile_trans {t : Tile} {s s' s'' : State} (first : OnlyTile t s s') (next : OnlyTile t s' s'') : OnlyTile t s s'' :=
  ⟨by rw [next.1, first.1], fun u other => (next.2 u other).trans (first.2 u other)⟩

theorem onlyTile_setTile (t : Tile) (x : TileReg) (s : State) : OnlyTile t s (setTile t x s) :=
  ⟨rfl, fun u other => by rw [tile_setTile, if_neg other]⟩

theorem onlyTile_writeTile (encl : Bool) (t : Tile) (x : TileReg) (s : State) : OnlyTile t s (writeTile encl t x s) := by
  unfold writeTile; split
  exacts [onlyTile_setTile .., onlyTile_refl ..]

theorem onlyTile_raiseFlags (encl : Bool) (th : Thread) (t : Tile) (r : Raised) (rows : Nat) (s : State) :
    OnlyTile t s (raiseFlags encl th t r rows s) := by
  unfold raiseFlags; split
  · exact onlyTile_refl ..
  · exact onlyTile_trans (onlyTile_setTile t _ s) ⟨rfl, fun _ _ => rfl⟩

/-- A tile with what is raised on it. -/
def flagged (x : TileReg) (r : Raised) (rows : Nat) : TileReg :=
  { x with flags := x.flags ||| r.bits, ovrow := x.ovrow ||| BitVec.ofNat 64 rows }

section
variable {s : State} {encl : Bool} {t : Tile} (opens : tileOpen s encl t = true)
include opens

theorem tile_raiseFlags (th : Thread) (r : Raised) (rows : Nat) :
    tile (raiseFlags encl th t r rows s) t = flagged (tile s t) r rows := by
  unfold raiseFlags
  rw [opens]
  exact (tile_setTile s t t _).trans (if_pos rfl)

theorem tile_writeTile (x : TileReg) :
    tile (writeTile encl t x s) t = { x with marked := x.marked || (s.tile.policy && encl) } := by
  rw [writeTile, if_pos opens, tile_setTile, if_pos rfl]

theorem readTile_open : readTile s encl t = tile s t := if_pos opens

/-- A tile that a world has written stays open to it. -/
theorem tileOpen_writeTile {x : TileReg} (kept : x.marked = (tile s t).marked) : tileOpen (writeTile encl t x s) encl t = true := by
  have policy : (writeTile encl t x s).tile.policy = s.tile.policy := by rw [(onlyTile_writeTile encl t x s).1]
  have own : (writeTile encl t x s).tile.enclTiles = s.tile.enclTiles := by rw [(onlyTile_writeTile encl t x s).1]
  unfold tileOpen at *
  rw [policy, own, tile_writeTile (by unfold tileOpen; exact opens), kept]
  cases h : s.tile.policy <;> cases encl <;> simp_all

/-- A result written with what its computation raised. -/
theorem tile_written {x : TileReg} (kept : x.marked = (tile s t).marked) (th : Thread) (r : Raised) (rows : Nat) :
    tile (raiseFlags encl th t r rows (writeTile encl t x s)) t =
      flagged { x with marked := x.marked || (s.tile.policy && encl) } r rows := by
  rw [tile_raiseFlags (tileOpen_writeTile opens kept), tile_writeTile opens]

/-- BAD raises its flag and does nothing else (R361). -/
theorem tile_tileBad (th : Thread) : tile (tileBad encl th t s) t = { tile s t with flags := (tile s t).flags ||| 8 } := by
  rw [tileBad, tile_raiseFlags opens]
  exact congrArg (fun o => { tile s t with flags := (tile s t).flags ||| 8, ovrow := o }) (BitVec.or_zero ..)

end

theorem raised_bit_ovf (r : Raised) : r.bits.getLsbD 0 = r.ovf := by
  obtain ⟨ovf, sat, fpx, bad⟩ := r
  revert ovf sat fpx bad
  decide

theorem flags_flagged_ovf (x : TileReg) (r : Raised) (rows : Nat) :
    (flagged x r rows).flags.getLsbD 0 = true ↔ x.flags.getLsbD 0 = true ∨ r.ovf = true := by
  rw [flagged, BitVec.getLsbD_or, Bool.or_eq_true, raised_bit_ovf]

theorem ovrow_flagged (x : TileReg) (r : Raised) (rows : Nat) {i : Nat} (inside : i < 64) :
    (flagged x r rows).ovrow.getLsbD i = true ↔ x.ovrow.getLsbD i = true ∨ rows.testBit i = true := by
  rw [flagged, BitVec.getLsbD_or, Bool.or_eq_true, BitVec.getLsbD_ofNat, decide_eq_true inside, Bool.true_and]

/-! ### The head of TLQ (R351, R352) -/

/-- The state with the head of TLQ taken out. -/
def tlqTaken (rest : List TileEntry) (s : State) : State :=
  qLeave 94 32 s.tile.tlq.length { s with tile := { s.tile with tlq := rest } }

theorem tlqTaken_eq (rest : List TileEntry) (s : State) :
    tlqTaken rest s = { s with tile := { s.tile with tlq := rest }, clk := (tlqTaken rest s).clk } :=
  eq_of_clk (qLeave_same ..)

theorem tlqTaken_tile (rest : List TileEntry) (s : State) : (tlqTaken rest s).tile = { s.tile with tlq := rest } := by
  rw [tlqTaken_eq]

theorem tile_tlqTaken (rest : List TileEntry) (s : State) (u : Tile) : tile (tlqTaken rest s) u = tile s u := by
  rw [tile, tlqTaken_tile]; rfl

theorem tileOpen_tlqTaken (rest : List TileEntry) (s : State) (encl : Bool) (u : Tile) :
    tileOpen (tlqTaken rest s) encl u = tileOpen s encl u := by
  rw [tileOpen, tile_tlqTaken, tlqTaken_tile]; rfl

theorem readTile_tlqTaken (rest : List TileEntry) (s : State) (encl : Bool) (u : Tile) :
    readTile (tlqTaken rest s) encl u = readTile s encl u := by
  rw [readTile, tileOpen_tlqTaken, tile_tlqTaken]; rfl

/-- The operation at the head of TLQ runs, counts its cycles and enters its completion in TLC. -/
def runEntry (th : Thread) (encl : Bool) (ow : Byte) (fl : Option (BitVec 12)) (task : Option (Fin 1024 × Half)) (o : TileOp)
    (s : State) : State :=
  let r := runTileOp th encl ow o s
  let note := noteOf s th encl fl o
  qWrite 95 1 { r with tile := { r.tile with
    perfBusy := satAdd r.tile.perfBusy (opCycles s o)
    since := if note.isSome then vset r.tile.since th 0 else r.tile.since
    tlc := r.tile.tlc ++ [{ thread := th, task := task, ovf := s.tile.trap && setsOvf th encl ow o s, note := note }] } }

/-- A cycle of the engine's that an entry without an operation takes. -/
def busyCycle (s : State) : State := { s with tile := { s.tile with perfBusy := satInc s.tile.perfBusy } }

/-- The completion of an operation other than TNOTE carries no note. -/
theorem runEntry_done {o : TileOp} (plain : ∀ a w, o ≠ .tnote a w) (th : Thread) (encl : Bool) (ow : Byte)
    (fl : Option (BitVec 12)) (task : Option (Fin 1024 × Half)) (s : State) : ∃ d : TileDone, d.thread = th ∧ d.note = none ∧
      (runEntry th encl ow fl task o s).tile.tlc = (runTileOp th encl ow o s).tile.tlc ++ [d] := by
  have note : noteOf s th encl fl o = none := by
    cases o with
    | tnote a w => exact absurd rfl (plain a w)
    | _ => rfl
  exact ⟨_, rfl, note, rfl⟩

section
variable {s : State} {rest : List TileEntry} (main : mainOn s = true) (room : s.tile.tlc.length < 16)
include main room

theorem exec_tileExecute_op {th : Thread} {encl : Bool} {ow : Byte} {fl : Option (BitVec 12)}
    {task : Option (Fin 1024 × Half)} {o : TileOp} (head : s.tile.tlq = .op th encl ow fl task o :: rest) :
    exec .tileExecute s = .next (runEntry th encl ow fl task o (tlqTaken rest s)) := by
  have open_ : ¬ (!mainOn s || decide (16 ≤ s.tile.tlc.length)) = true := by simp [main, room]
  rw [exec_tileExecute, execTileExecute, tileExecuteOp]
  conv_lhs => rw [head]
  refine congrArg Host.Outcome.next ((if_neg (by simpa using open_)).trans ?_)
  rw [tlqTaken, head]
  rfl

theorem exec_tileExecute_geom {t : Tile} {v : Word} (head : s.tile.tlq = .geom t v :: rest) :
    exec .tileExecute s = .next (geomOp t v (busyCycle (tlqTaken rest s))) := by
  have open_ : ¬ (!mainOn s || decide (16 ≤ s.tile.tlc.length)) = true := by simp [main, room]
  rw [exec_tileExecute, execTileExecute, tileExecuteOp]
  conv_lhs => rw [head]
  refine congrArg Host.Outcome.next ((if_neg (by simpa using open_)).trans ?_)
  rw [tlqTaken, head]
  rfl

/-- An operation that changes its tile and memory alone, and not that tile's geometry, finishes as R351 and R352 say. -/
theorem tileFinishes_memOp {th : Thread} {encl : Bool} {ow : Byte} {fl : Option (BitVec 12)}
    {task : Option (Fin 1024 × Half)} {o : TileOp} {td : Tile} {r : State}
    (head : s.tile.tlq = .op th encl ow fl task o :: rest) (plain : ∀ a w, o ≠ .tnote a w)
    (run : runTileOp th encl ow o (tlqTaken rest s) = r)
    (same : r = { tlqTaken rest s with tile := r.tile, mem := r.mem, cache := r.cache })
    (only : OnlyTile td (tlqTaken rest s) r) (geom : (tile r td).geom = (tile s td).geom) :
    ∃ s', exec .tileExecute s = .next s' ∧ TileFinishes th td rest s { s' with mem := s.mem, cache := s.cache } ∧
      tile s' td = tile r td ∧ s'.mem = r.mem ∧ s'.cache = r.cache := by
  obtain ⟨d, thread, note, done⟩ := runEntry_done plain th encl ow fl task (tlqTaken rest s)
  generalize ran : runEntry th encl ow fl task o (tlqTaken rest s) = s' at done
  have tiles : ∀ u, tile s' u = tile r u := by rw [← ran, ← run]; exact fun _ => rfl
  have frame : s' = { r with tile := s'.tile, clk := s'.clk } := by rw [← ran, ← run]; rfl
  have queue : s'.tile.tlq = r.tile.tlq := by rw [← ran, ← run]; rfl
  refine ⟨s', by rw [exec_tileExecute_op main room head, ran], ⟨?_, ?_, fun u other => ?_, ?_, d, ?_, thread, note⟩, tiles td,
    by rw [frame], by rw [frame]⟩
  · rw [frame, same, tlqTaken_eq]
  · exact queue.trans (by rw [only.1, tlqTaken_tile])
  · exact (tiles u).trans (by rw [only.2 u other, tile_tlqTaken])
  · exact (congrArg TileReg.geom (tiles td)).trans geom
  · exact done.trans (by rw [run, only.1, tlqTaken_tile])

theorem tileFinishes_op {th : Thread} {encl : Bool} {ow : Byte} {fl : Option (BitVec 12)} {task : Option (Fin 1024 × Half)}
    {o : TileOp} {td : Tile} {r : State} (head : s.tile.tlq = .op th encl ow fl task o :: rest)
    (plain : ∀ a w, o ≠ .tnote a w) (run : runTileOp th encl ow o (tlqTaken rest s) = r)
    (same : r = { tlqTaken rest s with tile := r.tile }) (only : OnlyTile td (tlqTaken rest s) r)
    (geom : (tile r td).geom = (tile s td).geom) :
    ∃ s', exec .tileExecute s = .next s' ∧ TileFinishes th td rest s s' ∧ tile s' td = tile r td := by
  obtain ⟨s', ran, finishes, written, mem, cache⟩ :=
    tileFinishes_memOp main room head plain run (by rw [same]) only geom
  have back : { s' with mem := s.mem, cache := s.cache } = s' := by
    rw [same, tlqTaken_eq] at mem cache
    rw [← mem, ← cache]
  rw [back] at finishes
  exact ⟨s', ran, finishes, written⟩

end

/-! ### TZERO (R360) -/

theorem tile_tzeroOp_other {s : State} {encl : Bool} {td : Tile} (shut : tileOpen s encl td = false) : tzeroOp encl td s = s := by
  rw [tzeroOp, writeTile, shut]; rfl

theorem onlyTile_tzeroOp (encl : Bool) (td : Tile) (s : State) : OnlyTile td s (tzeroOp encl td s) := onlyTile_writeTile ..

theorem tile_tzeroOp {s : State} {encl : Bool} {td : Tile} (opens : tileOpen s encl td = true) : tile (tzeroOp encl td s) td =
    { tile s td with bytes := [], guards := [], marked := (tile s td).marked || (s.tile.policy && encl) } :=
  tile_writeTile opens _

/-! ### What TMMA and TEL compute (R349, R357 to R359) -/

theorem saturated_eq_clampTo (r : Int × Int) (v : Int) : saturated r v = clampTo r.1 r.2 v := rfl

theorem dotInt_eq_sum (a b : TileReg) (i j n : Nat) :
    dotInt a b i j n = ((List.range n).map fun k => intOf (tileElem a i k) * intOf (tileElem b j k)).sum := by
  induction n with
  | zero => rfl
  | succ n ih => rw [dotInt, ih, List.range_succ, List.map_append, List.sum_append]; simp

theorem fmtFloat_of_mmaRate {fa fb : Nat} (accepted : (mmaRate fa fb 5).isSome = true) : fmtFloat fa = none := by
  unfold mmaRate at accepted
  split at accepted
  next low => obtain rfl | rfl : fa = 0 ∨ fa = 1 := by omega
              all_goals rfl
  split at accepted
  next both => rw [both.1]; rfl
  split at accepted
  next other => omega
  · cases accepted

theorem accElem_eq (v : Int) : accElem v =
    (.int (saturated (tileRange 5) v), { ovf := decide (saturated (tileRange 5) v ≠ v) }) := by
  have overflows : (v < -accMax ∨ accMax < v) ↔ saturated (tileRange 5) v ≠ v := by
    unfold saturated tileRange accMax
    simp only [if_true]
    (repeat' split) <;> omega
  rw [accElem, decide_eq_decide.2 overflows]
  rfl

/-- One element of a TMMA into an int32 tile: the exact sum, saturated once. -/
theorem mmaElem_int32 {a b d : TileReg} (accepted : (mmaRate a.geom.fmt.toNat b.geom.fmt.toNat 5).isSome = true)
    (zeroed : Bool) (k i j : Nat) : mmaElem a b d zeroed k i j = accElem ((if zeroed then 0 else intOf (tileElem d i j)) +
      ((List.range k).map fun k => intOf (tileElem a i k) * intOf (tileElem b j k)).sum) := by
  unfold mmaElem
  dsimp only
  rw [fmtFloat_of_mmaRate accepted, dotInt_eq_sum]

/-- An integer result of TEL, held to the tile's format. -/
theorem telInt_eq {f : Nat} (format : intFormat f = true) (v : Int) : (telInt f v).1 = .int (saturated (tileRange f) v) := by
  rcases intFormat_cases format with rfl | rfl | rfl | rfl
  case inr.inr.inr => exact congrArg Prod.fst (accElem_eq v)
  all_goals rfl

theorem telElem_int {a b : TileReg} {c : Word} (format : intFormat a.geom.fmt.toNat = true) (pair : telCode c ≤ 4) (i j : Nat) :
    (telElem a b c i j).1 = .int (saturated (tileRange a.geom.fmt.toNat)
      (let x := intOf (tileElem a i j)
       let y := intOf (if telScalar c then tileElem b 0 0 else if telRow c then tileElem b 0 j else tileElem b i j)
       if telCode c = 0 then x + y else if telCode c = 1 then x - y else if telCode c = 2 then x * y
         else if telCode c = 3 then min x y else max x y)) := by
  unfold telElem telPair
  dsimp only
  rw [fmtFloat_of_intFormat format, if_neg (by omega), if_neg (by omega), telInt_eq format]

end Sys2Proof.Machine
end

section
/-! PROOFS. TZERO, TMMA, TEL and a GEOM write at the head of TLQ (R347, R351, R357 to R361). -/

namespace Sys2Proof.Machine

section
variable {s : State} {rest : List TileEntry} {th : Thread} {encl : Bool} {ow : Byte} {fl : Option (BitVec 12)}
  {task : Option (Fin 1024 × Half)} {td : Tile} (main : mainOn s = true) (room : s.tile.tlc.length < 16)
include main room

/-! ### TZERO (R360) -/

theorem tzero_finishes (head : s.tile.tlq = .op th encl ow fl task (.tzero td) :: rest) :
    ∃ s', exec .tileExecute s = .next s' ∧ TileFinishes th td rest s s' ∧
      tile s' td = tile (tzeroOp encl td (tlqTaken rest s)) td := by
  have geom : (tile (tzeroOp encl td (tlqTaken rest s)) td).geom = (tile s td).geom := by
    by_cases opens : tileOpen (tlqTaken rest s) encl td = true
    · rw [tile_tzeroOp opens, tile_tlqTaken]
    · rw [tile_tzeroOp_other (by simpa using opens), tile_tlqTaken]
  exact tileFinishes_op main room head (fun _ _ => nofun) rfl (eq_of_tile (tzeroOp_same ..)) (onlyTile_tzeroOp ..) geom

theorem tzero_clears (head : s.tile.tlq = .op th encl ow fl task (.tzero td) :: rest) (opens : tileOpen s encl td = true) :
    ∃ s', exec .tileExecute s = .next s' ∧ TileFinishes th td rest s s' ∧ (tile s' td).bytes = [] ∧ (tile s' td).guards = [] ∧
      (tile s' td).flags = (tile s td).flags := by
  obtain ⟨s', ran, finishes, written⟩ := tzero_finishes main room head
  rw [tile_tzeroOp (by rwa [tileOpen_tlqTaken]), tile_tlqTaken] at written
  exact ⟨s', ran, finishes, by rw [written], by rw [written], by rw [written]⟩

theorem tzero_drops (head : s.tile.tlq = .op th encl ow fl task (.tzero td) :: rest) (shut : tileOpen s encl td = false) :
    ∃ s', exec .tileExecute s = .next s' ∧ TileFinishes th td rest s s' ∧ tile s' td = tile s td := by
  obtain ⟨s', ran, finishes, written⟩ := tzero_finishes main room head
  rw [tile_tzeroOp_other (by rwa [tileOpen_tlqTaken]), tile_tlqTaken] at written
  exact ⟨s', ran, finishes, written⟩

/-! ### TMMA and TEL (R357 to R359, R361) -/

variable (opens : tileOpen s encl td = true)
include opens

/-- A shape or a combination that is not accepted (R361). -/
theorem bad_finishes {o : TileOp} (head : s.tile.tlq = .op th encl ow fl task o :: rest) (plain : ∀ a w, o ≠ .tnote a w)
    (run : runTileOp th encl ow o (tlqTaken rest s) = tileBad encl th td (tlqTaken rest s)) :
    ∃ s', exec .tileExecute s = .next s' ∧ TileFinishes th td rest s s' ∧
      tile s' td = { tile s td with flags := (tile s td).flags ||| 8 } := by
  have marked := tile_tileBad (s := tlqTaken rest s) (by rwa [tileOpen_tlqTaken]) th
  rw [tile_tlqTaken] at marked
  obtain ⟨s', ran, finishes, written⟩ := tileFinishes_op main room head plain run (eq_of_tile (tileBad_same ..))
    (onlyTile_raiseFlags ..) (by rw [marked])
  exact ⟨s', ran, finishes, written.trans marked⟩

/-- An operation that computes every element of its tile by `f`: the elements, OVF and OVROW as they are then. -/
theorem fill_finishes {o : TileOp} {f : Nat → Nat → Elem × Raised} (head : s.tile.tlq = .op th encl ow fl task o :: rest)
    (plain : ∀ a w, o ≠ .tnote a w)
    (run : runTileOp th encl ow o (tlqTaken rest s) =
      let y := fillTile (tile s td) (tile s td).geom.rows.toNat (tile s td).geom.elems f
      raiseFlags encl th td y.2.1 y.2.2 (writeTile encl td y.1 (tlqTaken rest s)))
    (format : intFormat (tile s td).geom.fmt.toNat = true) (narrow : (tile s td).geom.rbytes.toNat ≤ 64)
    (fits : ∀ i j, ElemFits (tile s td).geom.fmt.toNat (f i j).1) :
    ∃ s', exec .tileExecute s = .next s' ∧ TileFinishes th td rest s s' ∧
      (∀ i j, i < (tile s td).geom.rows.toNat → j < (tile s td).geom.elems → tileElem (tile s' td) i j = (f i j).1) ∧
      ((tile s' td).flags.getLsbD 0 = true ↔ (tile s td).flags.getLsbD 0 = true ∨
        ∃ i j, (i < (tile s td).geom.rows.toNat ∧ j < (tile s td).geom.elems) ∧ (f i j).2.ovf = true) ∧
      (∀ i, i < 64 → ((tile s' td).ovrow.getLsbD i = true ↔ (tile s td).ovrow.getLsbD i = true ∨
        ∃ j, (i < (tile s td).geom.rows.toNat ∧ j < (tile s td).geom.elems) ∧ (f i j).2.ovf = true)) := by
  obtain ⟨frame, computed, -, ovf, rows⟩ :=
    filled_fillTile format narrow fits (tile s td).geom.rows.toNat (tile s td).geom.elems le_rfl
  generalize fillTile (tile s td) (tile s td).geom.rows.toNat (tile s td).geom.elems f = y at run frame computed ovf rows
  dsimp only at run
  have written := tile_written (s := tlqTaken rest s) (x := y.1) (by rwa [tileOpen_tlqTaken])
    (by rw [tile_tlqTaken, frame]) th y.2.1 y.2.2
  obtain ⟨s', ran, finishes, result⟩ := tileFinishes_op main room head plain run
    (eq_of_tile (by unfold SameBut_tile; simp))
    (onlyTile_trans (onlyTile_writeTile ..) (onlyTile_raiseFlags ..)) (by rw [written, flagged, frame])
  rw [written] at result
  refine ⟨s', ran, finishes, fun i j row column => ?_, ?_, fun i inside => ?_⟩
  · rw [result, ← computed i j column ⟨row, column⟩]; rfl
  · rw [result, flags_flagged_ovf, ovf, frame]
  · rw [result, ovrow_flagged _ _ _ inside, rows, frame]

/-- TMMA into an int32 tile: each total saturated once. -/
theorem tmma_computes {ta tb : Tile} {c : Word} (head : s.tile.tlq = .op th encl ow fl task (.tmma td ta tb c) :: rest)
    (accepted : tmmaShapeOk (readTile s encl ta) (readTile s encl tb) (tile s td) c = true) (int32 : (tile s td).geom.fmt = 5)
    (narrow : (tile s td).geom.rbytes.toNat ≤ 64) :
    let total := fun (i j : Nat) => (if c.getLsbD 0 then 0 else intOf (tileElem (tile s td) i j)) +
      ((List.range (readTile s encl ta).geom.elems).map fun k =>
        intOf (tileElem (readTile s encl ta) i k) * intOf (tileElem (readTile s encl tb) j k)).sum
    ∃ s', exec .tileExecute s = .next s' ∧ TileFinishes th td rest s s' ∧
      (∀ i j, i < (tile s td).geom.rows.toNat → j < (tile s td).geom.elems →
        intOf (tileElem (tile s' td) i j) = saturated (tileRange 5) (total i j)) ∧
      ((tile s' td).flags.getLsbD 0 = true ↔ (tile s td).flags.getLsbD 0 = true ∨
        ∃ i j, i < (tile s td).geom.rows.toNat ∧ j < (tile s td).geom.elems ∧ saturated (tileRange 5) (total i j) ≠ total i j) ∧
      (∀ i, i < 64 → ((tile s' td).ovrow.getLsbD i = true ↔ (tile s td).ovrow.getLsbD i = true ∨
        ∃ j, i < (tile s td).geom.rows.toNat ∧ j < (tile s td).geom.elems ∧
          saturated (tileRange 5) (total i j) ≠ total i j)) := by
  intro total
  have fmt : (tile s td).geom.fmt.toNat = 5 := by rw [int32]; rfl
  have rate := accepted
  rw [tmmaShapeOk, Bool.and_eq_true, fmt] at rate
  have elem : ∀ i j, mmaElem (readTile s encl ta) (readTile s encl tb) (tile s td) (c.getLsbD 0)
      (readTile s encl ta).geom.elems i j = accElem (total i j) := mmaElem_int32 rate.2 _ _
  have run : runTileOp th encl ow (.tmma td ta tb c) (tlqTaken rest s) =
      let y := fillTile (tile s td) (tile s td).geom.rows.toNat (tile s td).geom.elems (mmaElem (readTile s encl ta)
        (readTile s encl tb) (tile s td) (c.getLsbD 0) (readTile s encl ta).geom.elems)
      raiseFlags encl th td y.2.1 y.2.2 (writeTile encl td y.1 (tlqTaken rest s)) := by
    unfold runTileOp tmmaOp
    simp only [readTile_tlqTaken, readTile_open opens, accepted, Bool.not_true, Bool.false_eq_true, if_false]
  obtain ⟨s', ran, finishes, computed, ovf, rows⟩ := fill_finishes main room opens head (fun _ _ => nofun) run
    (by rw [fmt]; rfl) narrow (fun i j => by rw [elem, accElem_eq, fmt]; exact elemFits_clampTo 5 _)
  refine ⟨s', ran, finishes, fun i j row column => ?_, ovf.trans ?_, fun i inside => (rows i inside).trans ?_⟩
  · rw [computed i j row column, elem, accElem_eq]; rfl
  · simp only [elem, accElem_eq, decide_eq_true_eq, and_assoc]
  · simp only [elem, accElem_eq, decide_eq_true_eq, and_assoc]

theorem tmma_bad {ta tb : Tile} {c : Word} (head : s.tile.tlq = .op th encl ow fl task (.tmma td ta tb c) :: rest)
    (refused : tmmaShapeOk (readTile s encl ta) (readTile s encl tb) (tile s td) c = false) :
    ∃ s', exec .tileExecute s = .next s' ∧ TileFinishes th td rest s s' ∧
      tile s' td = { tile s td with flags := (tile s td).flags ||| 8 } := by
  refine bad_finishes main room opens head (fun _ _ => nofun) ?_
  unfold runTileOp tmmaOp
  simp only [readTile_tlqTaken, readTile_open opens, refused, Bool.not_false, if_true]

/-- TEL on integers: each result saturated to the tile's format. -/
theorem tel_computes {ta tb : Tile} {c : Word} (head : s.tile.tlq = .op th encl ow fl task (.tel td ta tb c) :: rest)
    (accepted : telShapeOk (readTile s encl ta) (readTile s encl tb) (tile s td) c = true)
    (format : intFormat (tile s td).geom.fmt.toNat = true) (pair : telCode c ≤ 4)
    (narrow : (tile s td).geom.rbytes.toNat ≤ 64) :
    ∃ s', exec .tileExecute s = .next s' ∧ TileFinishes th td rest s s' ∧
      ∀ i j, i < (tile s td).geom.rows.toNat → j < (tile s td).geom.elems →
        tileElem (tile s' td) i j = (telElem (readTile s encl ta) (readTile s encl tb) c i j).1 := by
  have shape : (readTile s encl ta).geom = (tile s td).geom := by
    simp only [telShapeOk, Bool.and_eq_true, decide_eq_true_eq] at accepted
    exact accepted.1.2
  have run : runTileOp th encl ow (.tel td ta tb c) (tlqTaken rest s) =
      let y := fillTile (tile s td) (tile s td).geom.rows.toNat (tile s td).geom.elems
        (telElem (readTile s encl ta) (readTile s encl tb) c)
      raiseFlags encl th td y.2.1 y.2.2 (writeTile encl td y.1 (tlqTaken rest s)) := by
    unfold runTileOp telOp
    simp only [readTile_tlqTaken, readTile_open opens, accepted, Bool.not_true, Bool.false_eq_true, if_false]
  obtain ⟨s', ran, finishes, computed, -⟩ := fill_finishes main room opens head (fun _ _ => nofun) run format narrow
    (fun i j => by rw [telElem_int (by rwa [shape]) pair, shape]; exact elemFits_clampTo _ _)
  exact ⟨s', ran, finishes, computed⟩

theorem tel_bad {ta tb : Tile} {c : Word} (head : s.tile.tlq = .op th encl ow fl task (.tel td ta tb c) :: rest)
    (refused : telShapeOk (readTile s encl ta) (readTile s encl tb) (tile s td) c = false) :
    ∃ s', exec .tileExecute s = .next s' ∧ TileFinishes th td rest s s' ∧
      tile s' td = { tile s td with flags := (tile s td).flags ||| 8 } := by
  refine bad_finishes main room opens head (fun _ _ => nofun) ?_
  unfold runTileOp telOp
  simp only [readTile_tlqTaken, readTile_open opens, refused, Bool.not_false, if_true]

end

/-! ### A GEOM write (R347, R350, R351) -/

theorem geomAfter_rows (g : Geom) (v : Word) : (geomAfter g v).rows.toNat =
    if 1 ≤ v.toNat / 65536 % 128 ∧ v.toNat / 65536 % 128 ≤ 64 then v.toNat / 65536 % 128 else g.rows.toNat := by
  have field : bitsAt v 16 7 = v.toNat / 65536 % 128 := by rw [bitsAt, Nat.shiftRight_eq_div_pow]; rfl
  rw [geomAfter, field, apply_ite BitVec.toNat, BitVec.toNat_ofNat, Nat.mod_mod]

theorem geomAfter_rbytes (g : Geom) (v : Word) : (geomAfter g v).rbytes.toNat =
    if 4 ≤ v.toNat / 256 % 128 ∧ v.toNat / 256 % 128 ≤ 64 ∧ v.toNat / 256 % 128 % 4 = 0 then v.toNat / 256 % 128
    else g.rbytes.toNat := by
  have field : bitsAt v 8 7 = v.toNat / 256 % 128 := by rw [bitsAt, Nat.shiftRight_eq_div_pow]; rfl
  rw [geomAfter, field, apply_ite BitVec.toNat, BitVec.toNat_ofNat, Nat.mod_mod]

theorem geomAfter_fmt (g : Geom) (v : Word) :
    (geomAfter g v).fmt.toNat = if v.toNat % 8 ≤ 6 then v.toNat % 8 else g.fmt.toNat := by
  have field : bitsAt v 0 3 = v.toNat % 8 := by rw [bitsAt, Nat.shiftRight_zero]; rfl
  rw [geomAfter, field, apply_ite BitVec.toNat, BitVec.toNat_ofNat, Nat.mod_mod]

/-- A tile after a GEOM write: guard bits stay only while the tile is int32, or its geometry is as before. -/
def regeared (x : TileReg) (v : Word) : TileReg :=
  { x with geom := geomAfter x.geom v
           guards := if decide (x.geom.fmt = 5 ∧ (geomAfter x.geom v).fmt = 5) || decide (geomAfter x.geom v = x.geom)
             then x.guards else [] }

theorem geom_finishes {s : State} {rest : List TileEntry} {td : Tile} {v : Word} (main : mainOn s = true)
    (room : s.tile.tlc.length < 16) (head : s.tile.tlq = .geom td v :: rest) :
    ∃ s', exec .tileExecute s = .next s' ∧ s'.tile.tlq = rest ∧ s'.tile.tlc = s.tile.tlc ∧ (∀ u, u ≠ td → tile s' u = tile s u) ∧
      s' = { s with tile := s'.tile, clk := s'.clk } ∧ tile s' td = regeared (tile s td) v := by
  have tiles : ∀ u, tile (busyCycle (tlqTaken rest s)) u = tile s u := tile_tlqTaken rest s
  have written : geomOp td v (busyCycle (tlqTaken rest s)) =
      setTile td (regeared (tile s td) v) (busyCycle (tlqTaken rest s)) := by
    unfold geomOp; rw [tiles]; rfl
  refine ⟨_, exec_tileExecute_geom main room head, ?_, ?_, fun u other => ?_, ?_, ?_⟩
  · rw [written, setTile, busyCycle, tlqTaken_tile]
  · rw [written, setTile, busyCycle, tlqTaken_tile]
  · rw [written, tile_setTile, if_neg other, tiles]
  · rw [written, setTile, busyCycle, tlqTaken_eq]
  · rw [written, tile_setTile, if_pos rfl]

theorem regeared_guards_kept {x : TileReg} {v : Word} (before : x.geom.fmt = 5) (after : (regeared x v).geom.fmt = 5) :
    (regeared x v).guards = x.guards := if_pos (by rw [decide_eq_true ⟨before, after⟩]; rfl)

theorem regeared_guards_cleared {x : TileReg} {v : Word} (other : (regeared x v).geom.fmt ≠ x.geom.fmt) :
    (regeared x v).guards = [] := by
  have notBoth : ¬ (x.geom.fmt = 5 ∧ (geomAfter x.geom v).fmt = 5) := fun both => other (both.2.trans both.1.symm)
  have differs : geomAfter x.geom v ≠ x.geom := fun same => other (congrArg Geom.fmt same)
  exact if_neg (by rw [decide_eq_false notBoth, decide_eq_false differs]; decide)

/-! ### The obligations -/

/-- Settles O20: the tile as TZERO leaves it, open to the instruction's world or not. -/
theorem tzeroClears : Obligations.TzeroClears := by
  unfold Obligations.TzeroClears
  intro s th encl ow fl task td rest main room head
  by_cases opens : tileOpen s encl td = true
  · obtain ⟨s', ran, finishes, bytes, guards, flags⟩ := tzero_clears main room head opens
    have geom := finishes.2.2.2.1
    exact ⟨s', ran, finishes, fun _ => ⟨fun k => by rw [bytes]; rfl, fun k => by rw [guards]; rfl, geom, flags⟩,
      fun shut => absurd opens (by simp [shut])⟩
  · obtain ⟨s', ran, finishes, same⟩ := tzero_drops main room head (by simpa using opens)
    exact ⟨s', ran, finishes, fun isOpen => absurd isOpen opens, fun _ => same⟩

/-- Settles O21: entry by entry, each computed tile element by element. -/
theorem tileExecution : Obligations.TileExecution := by
  unfold Obligations.TileExecution
  intro s th encl ow fl task td ta tb c v rest main room opens
  refine ⟨fun head => tzero_clears main room head opens, fun head => ⟨tmma_bad main room opens head, ?_⟩,
    fun head => ⟨tel_bad main room opens head, ?_⟩, fun head => ?_⟩
  · exact fun accepted int32 narrow => tmma_computes main room opens head accepted int32 narrow
  · intro accepted format pair narrow
    obtain ⟨s', ran, finishes, computed⟩ := tel_computes main room opens head accepted format pair narrow
    have shape : (readTile s encl ta).geom = (tile s td).geom := by
      simp only [telShapeOk, Bool.and_eq_true, decide_eq_true_eq] at accepted
      exact accepted.1.2
    refine ⟨s', ran, finishes, fun i j row column => ?_⟩
    dsimp only
    rw [computed i j row column, telElem_int (by rwa [shape]) pair, shape]
    rfl
  · obtain ⟨s', ran, queue, completions, others, frame, written⟩ := geom_finishes main room head
    refine ⟨s', ran, queue, completions, others, frame, ?_⟩
    rw [written]
    exact ⟨rfl, rfl, geomAfter_rows .., geomAfter_rbytes .., geomAfter_fmt .., regeared_guards_kept, regeared_guards_cleared⟩

end Sys2Proof.Machine
end

section
/-! PROOFS. TLD and TST (R341, R354 to R356): the elements that memory rows bring, and the bytes that a tile's rows leave. -/

namespace Sys2Proof.Machine

/-! ### Converted integers (R355) -/

theorem elemOf_int {f : Nat} (format : intFormat f = true) (bs : List Byte) : ∃ v, elemOf f bs = .int v := by
  unfold elemOf
  rw [fmtFloat_of_intFormat format]
  dsimp only
  rw [if_neg (by decide)]
  split <;> exact ⟨_, rfl⟩

theorem convert_int {dst : Nat} (format : intFormat dst = true) (src : Nat) (acc : Bool) (v : Int) :
    convert src dst acc (.int v) = toInt dst acc v := by
  unfold convert
  rw [fmtFloat_of_intFormat format]

theorem convert_fits {src dst : Nat} (srcInt : intFormat src = true) (dstInt : intFormat dst = true) (bs : List Byte) :
    ElemFits dst (convert src dst (decide (dst = 5)) (elemOf src bs)).1 := by
  obtain ⟨v, value⟩ := elemOf_int srcInt bs
  rw [value, convert_int dstInt]
  rcases intFormat_cases dstInt with rfl | rfl | rfl | rfl <;> exact elemFits_clampTo _ v

theorem convert_ovf (src dst : Nat) (acc : Bool) {e : Elem} {v : Int} (value : e = .int v) (format : intFormat dst = true) :
    (convert src dst acc e).2.ovf = false := by
  rw [value, convert_int format]
  rfl

/-! ### TLD (R354, R356) -/

/-- The element [i][j] that the memory rows of a TLD bring to a tile of format `f`, each row `n` elements long. -/
def loadedElem (s : State) (addr c : Word) (n f i j : Nat) : Elem × Raised :=
  let r := if ctlTrans c then j else i
  let k := if ctlTrans c then i else j
  convert (ctlFmt c) f (decide (f = 5)) (elemOf (ctlFmt c)
    (((rowBytes s (rowAddr addr c r) (n * fmtSize (ctlFmt c))).drop (k * fmtSize (ctlFmt c))).take (fmtSize (ctlFmt c))))

theorem rowElem_place (c : Word) (r k : Nat) :
    (if ctlTrans c then (rowElem c r k).2 else (rowElem c r k).1) = r ∧
    (if ctlTrans c then (rowElem c r k).1 else (rowElem c r k).2) = k := by
  unfold rowElem; split <;> exact ⟨rfl, rfl⟩

/-- An element of the tile lies in one place of one memory row. -/
theorem rowElem_of_shape {g : Geom} {c : Word} {i j : Nat} (row : i < g.rows.toNat) (column : j < g.elems) :
    ∃ r k, r < (memShape g c).1 ∧ k < (memShape g c).2 ∧ (i, j) = rowElem c r k := by
  unfold memShape rowElem
  split
  exacts [⟨j, i, column, row, rfl⟩, ⟨i, j, row, column, rfl⟩]

theorem rowElem_inside {g : Geom} {c : Word} {r k : Nat} (row : r < (memShape g c).1) (column : k < (memShape g c).2) :
    (rowElem c r k).1 < g.rows.toNat ∧ (rowElem c r k).2 < g.elems := by
  unfold memShape at row column; unfold rowElem
  split at row <;> simp_all

theorem rowAllowed_congr {s s' : State} (guard : s'.guard = s.guard) (encl : Bool) (ow : Byte) (write : Bool) (a len : Nat) :
    rowAllowed s' encl ow write a len = rowAllowed s encl ow write a len := by
  unfold rowAllowed
  rw [guardPasses_congr (congrArg _ guard)]

theorem rowBytes_congr {s s' : State} (mem : s'.mem = s.mem) (a len : Nat) : rowBytes s' a len = rowBytes s a len := by
  simp [rowBytes, flashRead, sramRead, mem]

theorem loadedElem_congr {s s' : State} (mem : s'.mem = s.mem) (addr c : Word) (n f i j : Nat) :
    loadedElem s' addr c n f i j = loadedElem s addr c n f i j := by
  unfold loadedElem
  dsimp only
  rw [rowBytes_congr mem]

/-- The elements of a memory row are those of the tile's elements that it brings. -/
theorem loadElems_succ (s : State) (addr c : Word) (N r n k : Nat) (y : TileReg) (fl : Raised) :
    loadElems c r (rowBytes s (rowAddr addr c r) (N * fmtSize (ctlFmt c))) (n + 1) k (y, fl) =
      (let e := loadedElem s addr c N y.geom.fmt.toNat (rowElem c r k).1 (rowElem c r k).2
       loadElems c r (rowBytes s (rowAddr addr c r) (N * fmtSize (ctlFmt c))) n (k + 1)
        (putTileElem y (rowElem c r k).1 (rowElem c r k).2 e.1, fl.or e.2)) := by
  obtain ⟨place, column⟩ := rowElem_place c r k
  unfold loadedElem
  dsimp only
  rw [place, column]
  rfl

section
variable {s : State} {x : TileReg} {addr c : Word} {N : Nat} (format : intFormat x.geom.fmt.toNat = true)
  (memFormat : intFormat (ctlFmt c) = true) (narrow : x.geom.rbytes.toNat ≤ 64)
include format memFormat narrow

theorem filled_loadElem {y : TileReg} {fl : Raised} {done : Nat → Nat → Prop}
    (filled : Filled x (loadedElem s addr c N x.geom.fmt.toNat) done (y, fl, 0)) (i : Nat) {j : Nat} (inside : j < x.geom.elems) :
    let e := loadedElem s addr c N x.geom.fmt.toNat i j
    Filled x (loadedElem s addr c N x.geom.fmt.toNat) (fun a b => done a b ∨ (a, b) = (i, j))
      (putTileElem y i j e.1, fl.or e.2, 0) := by
  have quiet : (loadedElem s addr c N x.geom.fmt.toNat i j).2.ovf = false :=
    convert_ovf _ _ _ (elemOf_int memFormat _).choose_spec format
  have fits : ∀ i j, ElemFits x.geom.fmt.toNat (loadedElem s addr c N x.geom.fmt.toNat i j).1 :=
    fun i j => convert_fits memFormat format _
  have next := filled_elem format narrow fits filled i inside
  rw [fillElem, quiet] at next
  exact filled_congr next fun a b => by rw [Prod.mk.injEq]

/-- One memory row placed, element after element. -/
theorem filled_loadElems {r : Nat} (row : r < (memShape x.geom c).1) (n : Nat) : ∀ (k : Nat) (y : TileReg) (fl : Raised)
    (done : Nat → Nat → Prop), k + n ≤ (memShape x.geom c).2 →
    Filled x (loadedElem s addr c N x.geom.fmt.toNat) done (y, fl, 0) →
    let z := loadElems c r (rowBytes s (rowAddr addr c r) (N * fmtSize (ctlFmt c))) n k (y, fl)
    Filled x (loadedElem s addr c N x.geom.fmt.toNat)
      (fun a b => done a b ∨ ∃ q, k ≤ q ∧ q < k + n ∧ (a, b) = rowElem c r q) (z.1, z.2, 0) := by
  induction n with
  | zero => exact fun k y fl done _ filled => filled_congr filled fun a b => ⟨.inl, Or.rec id fun ⟨q, _⟩ => by omega⟩
  | succ n ih =>
    intro k y fl done inside filled
    have geom : y.geom = x.geom := filled_geom filled
    have next := filled_loadElem format memFormat narrow filled (rowElem c r k).1
      (rowElem_inside row (by omega : k < (memShape x.geom c).2)).2
    rw [loadElems_succ, geom]
    refine filled_congr (ih (k + 1) _ _ _ (by omega) next) fun a b => ⟨?_, ?_⟩
    · rintro ((before | here) | ⟨q, least, most, place⟩)
      exacts [.inl before, .inr ⟨k, le_rfl, by omega, here⟩, .inr ⟨q, by omega, by omega, place⟩]
    · rintro (before | ⟨q, least, most, place⟩)
      · exact .inl (.inl before)
      · obtain rfl | later := Nat.eq_or_lt_of_le least
        exacts [.inl (.inr place), .inr ⟨q, later, by omega, place⟩]

/-- Every memory row placed, with every row allowed: no row is refused. -/
theorem filled_loadRows {th : Thread} {encl : Bool} {ow : Byte} (columns : N = (memShape x.geom c).2) (m : Nat) :
    ∀ (r : Nat) (y : TileReg) (fl : Raised) (done : Nat → Nat → Prop), r + m ≤ (memShape x.geom c).1 →
    (∀ q, r ≤ q → q < r + m → rowAllowed s encl ow false (rowAddr addr c q) (N * fmtSize (ctlFmt c)) = true) →
    Filled x (loadedElem s addr c N x.geom.fmt.toNat) done (y, fl, 0) →
    let z := loadRows th encl ow addr c N m r (y, fl) s
    z.2 = s ∧ Filled x (loadedElem s addr c N x.geom.fmt.toNat)
      (fun a b => done a b ∨ ∃ p q, r ≤ p ∧ p < r + m ∧ q < N ∧ (a, b) = rowElem c p q) (z.1.1, z.1.2, 0) := by
  induction m with
  | zero => exact fun r y fl done _ _ filled =>
      ⟨rfl, filled_congr filled fun a b => ⟨.inl, Or.rec id fun ⟨p, q, _⟩ => by omega⟩⟩
  | succ m ih =>
    intro r y fl done inside allowed filled
    have here := filled_loadElems format memFormat narrow (by omega : r < (memShape x.geom c).1) N 0 y fl done (by omega) filled
    have step : loadRows th encl ow addr c N (m + 1) r (y, fl) s = loadRows th encl ow addr c N m (r + 1)
        (loadElems c r (rowBytes s (rowAddr addr c r) (N * fmtSize (ctlFmt c))) N 0 (y, fl)) s := by
      rw [loadRows]; simp only [allowed r le_rfl (by omega), if_true]
    rw [step]
    obtain ⟨same, later⟩ := ih (r + 1) _ _ _ (by omega) (fun q least most => allowed q (by omega) (by omega)) here
    refine ⟨same, filled_congr later fun a b => ⟨?_, ?_⟩⟩
    · rintro ((before | ⟨q, -, most, place⟩) | ⟨p, q, least, most, column, place⟩)
      exacts [.inl before, .inr ⟨r, q, le_rfl, by omega, by omega, place⟩, .inr ⟨p, q, by omega, by omega, column, place⟩]
    · rintro (before | ⟨p, q, least, most, column, place⟩)
      · exact .inl (.inl before)
      · obtain rfl | after := Nat.eq_or_lt_of_le least
        exacts [.inl (.inr ⟨q, by omega, by omega, place⟩), .inr ⟨p, q, after, by omega, column, place⟩]

end

/-! ### TST (R354, R356) -/

theorem storeElems_bytes (x : TileReg) (c : Word) (r n : Nat) : ∀ k, (storeElems x c r n k).1 =
    (List.range n).flatMap fun i => elemBytes (ctlFmt c) (convert x.geom.fmt.toNat (ctlFmt c) false
      (tileElem x (rowElem c r (k + i)).1 (rowElem c r (k + i)).2)).1 := by
  induction n with
  | zero => exact fun _ => rfl
  | succ n ih =>
    intro k
    rw [List.range_succ_eq_map, List.flatMap_cons, List.flatMap_map, storeElems]
    dsimp only
    rw [ih (k + 1)]
    simp only [Nat.add_zero, Nat.add_right_comm k 1, Nat.succ_eq_add_one, ← Nat.add_assoc]

theorem length_storeElems (x : TileReg) (c : Word) (r n : Nat) : ∀ k, (storeElems x c r n k).1.length = n * fmtSize (ctlFmt c) := by
  induction n with
  | zero => intro k; rw [storeElems, Nat.zero_mul]; rfl
  | succ n ih =>
    intro k
    rw [storeElems]
    dsimp only
    rw [List.length_append, length_elemBytes, ih, Nat.succ_mul, Nat.add_comm]

/-- SRAM holds the rows that a TST has stored: nothing outside them changes. -/
structure RowsStored (rows : Nat → Prop) (addr c : Word) (len : Nat) (s s' : State) : Prop where
  frame : s' = { s with mem := { s.mem with sram := s'.mem.sram }, cache := s'.cache }
  outside : ∀ a, (∀ r, rows r → a < rowAddr addr c r ∨ rowAddr addr c r + len ≤ a) → sramByte s' a = sramByte s a

/-- The rows of a TST with every row allowed; the last one stored prevails. -/
theorem storeRows_stores {th : Thread} {encl : Bool} {ow : Byte} {x : TileReg} {addr c : Word} {N : Nat} (m : Nat) :
    ∀ (r : Nat) (fl : Raised) (s : State),
    (∀ q, r ≤ q → q < r + m → rowAllowed s encl ow true (rowAddr addr c q) (N * fmtSize (ctlFmt c)) = true) →
    let s' := (storeRows th encl ow x addr c N m r fl s).2
    RowsStored (fun q => r ≤ q ∧ q < r + m) addr c (N * fmtSize (ctlFmt c)) s s' ∧
      (0 < m → sramRead s' (rowAddr addr c (r + m - 1)) (N * fmtSize (ctlFmt c)) = (storeElems x c (r + m - 1) N 0).1) := by
  induction m with
  | zero => exact fun r fl s _ => ⟨⟨rfl, fun _ _ => rfl⟩, fun none => absurd none (lt_irrefl 0)⟩
  | succ m ih =>
    intro r fl s allowed
    have length := length_storeElems x c r N 0
    have takes := takes_sramWrite (rowAddr addr c r) (storeElems x c r N 0).1 s
    generalize wrote : sramWrite (rowAddr addr c r) (storeElems x c r N 0).1 s = s1 at takes
    have guard : s1.guard = s.guard := by rw [takes]; rfl
    have step : storeRows th encl ow x addr c N (m + 1) r fl s =
        storeRows th encl ow x addr c N m (r + 1) (fl.or (storeElems x c r N 0).2) s1 := by
      rw [storeRows, ← wrote]; simp only [allowed r le_rfl (by omega), if_true]
    rw [step]
    obtain ⟨⟨frame, outside⟩, last⟩ := ih (r + 1) (fl.or (storeElems x c r N 0).2) s1 fun q least most => by
      rw [rowAllowed_congr guard]; exact allowed q (by omega) (by omega)
    refine ⟨⟨?_, fun a apart => ?_⟩, fun _ => ?_⟩
    · rw [frame, takes]; rfl
    · rw [outside a fun q inside => apart q (by omega)]
      exact (sramBut_of_takes takes).2 a (by rw [length]; exact apart r (by omega))
    · obtain rfl | more := Nat.eq_zero_or_pos m
      · rw [← length, Nat.add_sub_cancel]
        exact (congrArg (fun m : Memories => memBytes sramBlank m.sram _ _) (sram_of_takes takes)).trans
          (memBytes_memStore_same ..)
      · have ends : r + 1 + m - 1 = r + (m + 1) - 1 := by omega
        rw [← ends]; exact last more

/-! ### The obligation -/

theorem memShape_geom {x y : TileReg} (same : y.geom = x.geom) (c : Word) : memShape y.geom c = memShape x.geom c := by rw [same]

section
variable {s : State} {rest : List TileEntry} {th : Thread} {encl : Bool} {ow : Byte} {fl : Option (BitVec 12)}
  {task : Option (Fin 1024 × Half)} {td : Tile} {addr c : Word} (main : mainOn s = true) (room : s.tile.tlc.length < 16)
  (opens : tileOpen s encl td = true) (ctl : memCtlOk c = true)
include main room opens ctl

/-- A TLD with every row allowed: each element as the memory rows bring it. -/
theorem tld_loads (head : s.tile.tlq = .op th encl ow fl task (.tld td addr c) :: rest)
    (narrow : (tile s td).geom.rbytes.toNat ≤ 64) (memFormat : intFormat (ctlFmt c) = true)
    (format : intFormat (tile s td).geom.fmt.toNat = true)
    (allowed : ∀ r, r < (memShape (tile s td).geom c).1 →
      rowAllowed s encl ow false (rowAddr addr c r) ((memShape (tile s td).geom c).2 * fmtSize (ctlFmt c)) = true) :
    ∃ s', exec .tileExecute s = .next s' ∧ TileFinishes th td rest s s' ∧
      ∀ i j, i < (tile s td).geom.rows.toNat → j < (tile s td).geom.elems → tileElem (tile s' td) i j =
        (loadedElem s addr c (memShape (tile s td).geom c).2 (tile s td).geom.fmt.toNat i j).1 := by
  obtain ⟨same, filled⟩ := filled_loadRows (s := tlqTaken rest s) (th := th) format memFormat narrow rfl
    (memShape (tile s td).geom c).1 0 (tile s td) {} _ (by omega)
    (fun q _ inside => by
      rw [rowAllowed_congr (s := s) (by rw [tlqTaken_eq])]; exact allowed q (by omega)) filled_none
  have run : runTileOp th encl ow (.tld td addr c) (tlqTaken rest s) =
      let z := loadRows th encl ow addr c (memShape (tile s td).geom c).2 (memShape (tile s td).geom c).1 0 (tile s td, {})
        (tlqTaken rest s)
      raiseFlags encl th td z.1.2 0 (writeTile encl td z.1.1 z.2) := by
    unfold runTileOp tldOp
    simp only [ctl, Bool.not_true, Bool.false_eq_true, if_false, tile_tlqTaken]
  generalize loadRows th encl ow addr c (memShape (tile s td).geom c).2 (memShape (tile s td).geom c).1 0 (tile s td, {})
    (tlqTaken rest s) = z at run same filled
  dsimp only at run
  rw [same] at run
  have written := tile_written (s := tlqTaken rest s) (x := z.1.1) (by rwa [tileOpen_tlqTaken])
    (by rw [tile_tlqTaken]; exact filled_marked filled) th z.1.2 0
  obtain ⟨s', ran, finishes, result⟩ := tileFinishes_op main room head (fun _ _ => nofun) run
    (eq_of_tile (by unfold SameBut_tile; simp))
    (onlyTile_trans (onlyTile_writeTile ..) (onlyTile_raiseFlags ..)) (by rw [written]; exact filled_geom filled)
  refine ⟨s', ran, finishes, fun i j row column => ?_⟩
  obtain ⟨r, k, inside, within, place⟩ := rowElem_of_shape (c := c) row column
  have bytes : loadedElem (tlqTaken rest s) addr c (memShape (tile s td).geom c).2 (tile s td).geom.fmt.toNat i j =
      loadedElem s addr c (memShape (tile s td).geom c).2 (tile s td).geom.fmt.toNat i j :=
    loadedElem_congr (by rw [tlqTaken_eq]) ..
  rw [result, written, ← bytes, ← filled.computed i j column (.inr ⟨r, k, by omega, by omega, within, place⟩)]
  rfl

/-- A TST with every row allowed: its tile keeps its contents, and memory takes the rows. -/
theorem tst_stores (head : s.tile.tlq = .op th encl ow fl task (.tst td addr c) :: rest)
    (allowed : ∀ r, r < (memShape (tile s td).geom c).1 →
      rowAllowed s encl ow true (rowAddr addr c r) ((memShape (tile s td).geom c).2 * fmtSize (ctlFmt c)) = true) :
    ∃ s', exec .tileExecute s = .next s' ∧ TileFinishes th td rest s { s' with mem := s.mem, cache := s.cache } ∧
      (tile s' td).bytes = (tile s td).bytes ∧ (tile s' td).guards = (tile s td).guards ∧
      s'.mem = { s.mem with sram := s'.mem.sram } ∧
      (∀ a, (∀ r, r < (memShape (tile s td).geom c).1 → a < rowAddr addr c r ∨
        rowAddr addr c r + (memShape (tile s td).geom c).2 * fmtSize (ctlFmt c) ≤ a) → sramByte s' a = sramByte s a) ∧
      (0 < (memShape (tile s td).geom c).1 → sramRead s' (rowAddr addr c ((memShape (tile s td).geom c).1 - 1))
        ((memShape (tile s td).geom c).2 * fmtSize (ctlFmt c)) =
        (storeElems (tile s td) c ((memShape (tile s td).geom c).1 - 1) (memShape (tile s td).geom c).2 0).1) := by
  have before : (tlqTaken rest s).mem = s.mem := by rw [tlqTaken_eq]
  obtain ⟨⟨frame, outside⟩, last⟩ := storeRows_stores (th := th) (x := tile s td) (memShape (tile s td).geom c).1 0 {}
    (tlqTaken rest s) fun q _ inside => by
      rw [rowAllowed_congr (s := s) (by rw [tlqTaken_eq])]; exact allowed q (by omega)
  have run : runTileOp th encl ow (.tst td addr c) (tlqTaken rest s) =
      let z := storeRows th encl ow (tile s td) addr c (memShape (tile s td).geom c).2 (memShape (tile s td).geom c).1 0 {}
        (tlqTaken rest s)
      raiseFlags encl th td z.1 0 z.2 := by
    unfold runTileOp tstOp
    simp only [ctl, Bool.not_true, Bool.false_eq_true, if_false, readTile_tlqTaken, readTile_open opens]
  generalize storeRows th encl ow (tile s td) addr c (memShape (tile s td).geom c).2 (memShape (tile s td).geom c).1 0 {}
    (tlqTaken rest s) = z at run frame outside last
  dsimp only at run
  have tiles : z.2.tile = (tlqTaken rest s).tile := by rw [frame]
  have zOpens : tileOpen z.2 encl td = true := by
    rw [← opens, ← tileOpen_tlqTaken rest s]; simp only [tileOpen, tile, tiles]
  have same : tile z.2 td = tile s td := by rw [← tile_tlqTaken rest s]; simp only [tile, tiles]
  have raised := eq_of_tile (raiseFlags_same encl th td z.1 0 z.2)
  have only := onlyTile_raiseFlags encl th td z.1 0 z.2
  have written := tile_raiseFlags zOpens th z.1 0
  rw [same] at written
  generalize raiseFlags encl th td z.1 0 z.2 = r at run raised only written
  obtain ⟨s', ran, finishes, result, mem, -⟩ := tileFinishes_memOp main room head (fun _ _ => nofun) run
    (by rw [raised, frame]) (onlyTile_congr tiles only) (by rw [written]; rfl)
  have stored : s'.mem = z.2.mem := by rw [mem, raised]
  rw [written] at result
  refine ⟨s', ran, finishes, by rw [result]; rfl, by rw [result]; rfl, ?_, fun a apart => ?_, fun some => ?_⟩
  · rw [stored, frame, before]
  · rw [sramByte_congr stored, outside a fun r inside => apart r (by omega), sramByte_congr before]
  · have rows := last some
    rw [Nat.zero_add] at rows
    rw [← rows, sramRead, stored, sramRead]

end

/-- Settles O22: TLD by its elements' places in the memory rows, TST by its last row stored. -/
theorem tileLoadsAndStores : Obligations.TileLoadsAndStores := by
  unfold Obligations.TileLoadsAndStores
  intro s th encl ow fl task td addr c rest main room opens ctl narrow memFormat format
  refine ⟨fun head allowed => ?_, fun head allowed => ?_⟩
  · exact tld_loads main room opens ctl head narrow memFormat format allowed
  · obtain ⟨s', ran, finishes, bytes, guards, mem, outside, last⟩ := tst_stores main room opens ctl head allowed
    refine ⟨s', ran, finishes, mem, bytes, guards, outside, fun some => (last some).trans ?_⟩
    rw [storeElems_bytes]
    congr 1
    funext k
    rw [Nat.zero_add, rowElem]
    split <;> rfl

end Sys2Proof.Machine
end

section
/-! PROOFS. One step of the derivation tree under an owner's root, and the slot that its key enters (R402, R406 to R414). -/

namespace Sys2Proof.Machine

theorem pieces_one {m : List Byte} (length : m.length = 64) : pieces 64 1 m = [m] := by
  have some : m ≠ [] := fun none => by simp [none] at length
  rw [pieces, if_neg some, pieces, List.take_of_length_le length.le]

/-- The root is the parent of depth 1 (R402, R412). -/
theorem rootInfo_fields {s : State} {o : Nat} {root : KeyInfo} (found : rootInfo s o = some root) :
    root.key = (rootOf s o).getD [] ∧ root.usage = 8 ∧ root.alg = 1 ∧ root.notAfter = 0 := by
  unfold rootInfo at found
  cases held : rootOf s o <;> cases record : rootRecord s o <;> simp only [held, record, reduceCtorEq, Option.some.injEq] at found
  subst found
  exact ⟨rfl, rfl, rfl, rfl⟩

theorem derives_root {s : State} {o : Nat} {root : KeyInfo} (found : rootInfo s o = some root) : derives root = true := by
  obtain ⟨-, usage, alg, -⟩ := rootInfo_fields found
  exact decide_eq_true ⟨usage, alg⟩

section
variable {s : State} {o : Fin 64} {m : List Byte} {root : KeyInfo} {fin : KeyInfo → Bool}

/-- The key of a step under its parent (R407). -/
def childKey (parent : KeyInfo) (m : List Byte) : KeyInfo :=
  { usage := numAt m 42 1, alg := numAt m 45 1, attr := numAt m 48 4, notAfter := numAt m 52 8
    key := hmac parent.key m, id := sha256 (parent.id ++ m) }

theorem stepInfo_root (found : rootInfo s o.val = some root) : stepInfo s root m 1 o.val =
    if stepForm m 1 o.val = true ∧
      narrows (dualUse s o.val) root (numAt m 42 1) (numAt m 45 1) (numAt m 48 4) (numAt m 52 8) = true
    then some (childKey root m) else none := by
  unfold stepInfo
  rw [derives_root found]
  simp only [Bool.true_and, Bool.and_eq_true, childKey]

theorem walkPath_step (length : m.length = 64) (found : rootInfo s o.val = some root) :
    walkPath o.val 1 m fin s = walkSteps o.val fin 1 root [m] s := by
  rw [walkPath, found, pieces_one length]

theorem walkPath_refused (length : m.length = 64) (found : rootInfo s o.val = some root)
    (breaks : stepForm m 1 o.val = false ∨
      narrows (dualUse s o.val) root (numAt m 42 1) (numAt m 45 1) (numAt m 48 4) (numAt m 52 8) = false) :
    walkPath o.val 1 m fin s = (none, s) := by
  have none : stepInfo s root m 1 o.val = none := by
    rw [stepInfo_root found, if_neg fun both => by rcases breaks with h | h <;> simp [h] at both]
  rw [walkPath_step length found, walkSteps, none]

theorem walkPath_accepted (length : m.length = 64) (found : rootInfo s o.val = some root) (form : stepForm m 1 o.val = true)
    (narrow : narrows (dualUse s o.val) root (numAt m 42 1) (numAt m 45 1) (numAt m 48 4) (numAt m 52 8) = true)
    (time : inTime s (numAt m 52 8) = true) : walkPath o.val 1 m fin s =
      if fin (childKey root m) then
        (some (childKey root m, (touchSlot (childKey root m) o.val 1 true s).1), (touchSlot (childKey root m) o.val 1 true s).2)
      else (none, s) := by
  have inside : inTime s (childKey root m).notAfter = true := time
  rw [walkPath_step length found, walkSteps, stepInfo_root found, if_pos ⟨form, narrow⟩]
  simp [inside]

end

/-! ### The slot of a key (R413, R414) -/

theorem slot_setSlot (k : Fin 48) (x : KeySlot) (s : State) : vget (setSlot k x s).grn.slots k = x := vget_vset_same ..

/-- The slot found for a key is not Free and carries its name. -/
theorem slotOfId_some {s : State} {id : List Byte} {k : Fin 48} (found : slotOfId s id = some k) :
    (vget s.grn.slots k).st ≠ .free ∧ (vget s.grn.slots k).id = ofBytes 256 id := by
  have held := List.find?_some found
  simpa using held

/-- The state in which a key's slot is looked for: the use counter has moved on. -/
def usedOnce (s : State) : State := { s with grn := { s.grn with uses := s.grn.uses + 1 } }

/-- A slot that a key fills under the mask `q`. -/
def keySlot (info : KeyInfo) (o depth : Nat) (last : Bool) (stamp : Nat) (q : W256) : KeySlot :=
  { st := if last then .busy else .cached, id := ofBytes 256 info.id, key := { d := ofBytes 256 info.key ^^^ q, q := q }
    usage := BitVec.ofNat 8 info.usage, alg := BitVec.ofNat 8 info.alg, attr := BitVec.ofNat 32 info.attr
    notAfter := BitVec.ofNat 48 info.notAfter, owner := BitVec.ofNat 6 o, depth := depth, stamp := stamp }

/-- A step found in a slot: its slot is stamped, and a Cached one takes the step's state. -/
theorem touchSlot_held {info : KeyInfo} {s : State} {k : Fin 48} (held : slotOfId s info.id = some k) (o depth : Nat) (last : Bool) :
    touchSlot info o depth last s = (some k, setSlot k { vget s.grn.slots k with
      stamp := s.grn.uses
      st := if (vget s.grn.slots k).st = .cached then (if last then .busy else .cached) else (vget s.grn.slots k).st }
      (usedOnce s)) := by
  unfold touchSlot
  dsimp only
  split
  next j found => obtain rfl := Option.some.inj (held.symm.trans found); rfl
  next none => cases held.symm.trans none

/-- A step found in no slot fills the one to fill, under a fresh mask, where there is one. -/
theorem touchSlot_fresh {info : KeyInfo} {s : State} (fresh : slotOfId s info.id = none) (o depth : Nat) (last : Bool) :
    (touchSlot info o depth last s).1 = none ∨
    ∃ k q, (touchSlot info o depth last s).1 = some k ∧
      vget (touchSlot info o depth last s).2.grn.slots k = keySlot info o depth last s.grn.uses q := by
  unfold touchSlot
  dsimp only
  split
  next j found => cases fresh.symm.trans found
  · split
    · exact .inl rfl
    · exact .inr ⟨_, _, rfl, slot_setSlot ..⟩

/-- The slot that a step has entered is not Free, carries the key's name, and holds the key where it was filled anew. -/
theorem touchSlot_holds {info : KeyInfo} {o depth : Nat} {last : Bool} {s : State} {x : Fin 48}
    (entered : (touchSlot info o depth last s).1 = some x) :
    let y := vget (touchSlot info o depth last s).2.grn.slots x
    y.st ≠ .free ∧ y.id = ofBytes 256 info.id ∧ (slotOfId s info.id = none → y.key.d ^^^ y.key.q = ofBytes 256 info.key) := by
  have state : (if last then SlotState.busy else .cached) ≠ .free := by split <;> nofun
  cases held : slotOfId s info.id with
  | some k =>
    obtain ⟨used, named⟩ := slotOfId_some held
    rw [touchSlot_held held] at entered ⊢
    obtain rfl := Option.some.inj entered
    dsimp only
    rw [slot_setSlot]
    exact ⟨by dsimp only; split; exacts [state, used], named, nofun⟩
  | none =>
    obtain noSlot | ⟨k, q, slot, fill⟩ := touchSlot_fresh held o depth last
    · rw [noSlot] at entered; cases entered
    · obtain rfl := Option.some.inj (slot.symm.trans entered)
      rw [fill]
      exact ⟨state, rfl, fun _ => by rw [keySlot, BitVec.xor_assoc, BitVec.xor_self, BitVec.xor_zero]⟩

/-- Settles O53: by the one step of the path, and the slot that its key enters. -/
theorem derivationTree : Obligations.DerivationTree := by
  unfold Obligations.DerivationTree
  intro s o m root fin length found
  refine ⟨rootInfo_fields found, fun form narrow time => ⟨fun admits => ?_, fun refuses => ?_⟩, walkPath_refused length found⟩
  · refine ⟨_, _, (walkPath_accepted length found form narrow time).trans (if_pos admits), by simp, fun x entered => ?_⟩
    exact touchSlot_holds entered
  · exact (walkPath_accepted length found form narrow time).trans (if_neg (by rw [childKey, refuses]; decide))

end Sys2Proof.Machine
end

section
/-! PROOFS. What the Granary's walk leaves of its registers, and the command at the head of GRQ from its work to its
completion (R405, R412, R424 to R433, R445). -/

namespace Sys2Proof.Machine

/-! ### The walk touches slots alone (R412 to R414) -/

/-- Of the Granary only the slots, the use counter and the count of evictions may differ. -/
def OnlySlots (s s' : State) : Prop :=
  s'.grn = { s.grn with uses := s'.grn.uses, slots := s'.grn.slots, evicts := s'.grn.evicts }

theorem onlySlots_refl (s : State) : OnlySlots s s := rfl

theorem onlySlots_trans {s s' s'' : State} (first : OnlySlots s s') (next : OnlySlots s' s'') : OnlySlots s s'' := by
  rw [OnlySlots, next, first]

theorem onlySlots_of_grn {s s' : State} (same : s'.grn = s.grn) : OnlySlots s s' := by rw [OnlySlots, same]

theorem onlySlots_setSlot (k : Fin 48) (x : KeySlot) (s : State) : OnlySlots s (setSlot k x s) := rfl

theorem onlySlots_touchSlot (info : KeyInfo) (o depth : Nat) (last : Bool) (s : State) :
    OnlySlots s (touchSlot info o depth last s).2 := by
  unfold touchSlot
  dsimp only
  (repeat' split) <;> rfl

theorem onlySlots_dropExpired (id : List Byte) (s : State) : OnlySlots s (dropExpired id s) := by
  unfold dropExpired; split <;> rfl

theorem onlySlots_walkSteps (o : Nat) (fin : KeyInfo → Bool) (d : Nat) (parent : KeyInfo) (path : List (List Byte)) (s : State) :
    OnlySlots s (walkSteps o fin d parent path s).2 := by
  induction path generalizing d parent s with
  | nil => rfl
  | cons m ms ih =>
    unfold walkSteps
    split
    · exact onlySlots_refl s
    split
    · exact onlySlots_dropExpired ..
    split
    · split
      exacts [onlySlots_touchSlot .., onlySlots_refl s]
    split
    · exact onlySlots_refl s
    · exact onlySlots_trans (onlySlots_touchSlot ..) (ih ..)

theorem onlySlots_walkPath (o depth : Nat) (path : List Byte) (fin : KeyInfo → Bool) (s : State) :
    OnlySlots s (walkPath o depth path fin s).2 := by
  unfold walkPath; split
  exacts [onlySlots_refl s, onlySlots_walkSteps ..]

theorem onlySlots_keyOf (o depth : Nat) (path : List Byte) (leaf : Option (List Byte)) (fin : KeyInfo → Bool) (s : State) :
    OnlySlots s (keyOf o depth path leaf fin s).2 := by
  unfold keyOf
  split
  · exact onlySlots_walkPath ..
  next blob =>
    have walked := onlySlots_walkPath o depth path wraps s
    generalize walkPath o depth path wraps s = w at walked
    dsimp only
    split
    · exact walked
    split
    · exact walked
    split
    · exact onlySlots_trans walked (onlySlots_dropExpired ..)
    split
    exacts [onlySlots_trans walked (onlySlots_touchSlot ..), walked]

theorem draw_grn (w : Nat) (s : State) : (draw w s).2.grn = s.grn := rfl

theorem onlySlots_useKey (j : GrnJob) (k : KeyInfo) (s : State) : OnlySlots s (useKey j k s).2 := by
  unfold useKey
  split
  case h_2 | h_4 | h_5 => dsimp only; split <;> rfl
  case h_6 => exact onlySlots_walkPath ..
  case h_9 => exact onlySlots_of_grn (by simp)
  all_goals rfl

/-! ### The command at the head of GRQ (R424 to R433) -/

/-- The state with the head of GRQ taken out. -/
def grqTaken (s : State) : State := qLeave 92 16 s.grn.grq.length { s with grn := { s.grn with grq := s.grn.grq.drop 1 } }

theorem grqTaken_eq (s : State) :
    grqTaken s = { s with grn := { s.grn with grq := s.grn.grq.drop 1 }, clk := (grqTaken s).clk } :=
  eq_of_clk (qLeave_same ..)

theorem grnRuns_eq (s : State) (r : GrnReq) (ok : Bool) : grnRuns s r ok = { s with
    grn := { s.grn with grq := s.grn.grq.drop 1, entFail := if opDraws r.opc.toNat then !ok else s.grn.entFail }
    clk := (grqTaken s).clk } := by
  have start : grnRuns s r ok = if opDraws r.opc.toNat then
    { grqTaken s with grn := { (grqTaken s).grn with entFail := !ok } } else grqTaken s := rfl
  rw [start, grqTaken_eq]
  split <;> rfl

/-- What follows a command's work: its output, the release of its slots, its completion in GRC, LAST. -/
def grnEnds (r : GrnReq) (res : GrnResult) (t : State) : State :=
  let t := if res.out = [] then t else sramWrite r.outAddr.toNat res.out t
  let d : GrnDone := { caller := r.caller, status := res.status, verdict := res.verdict, written := BitVec.ofNat 32 res.written
                       slots := busySlots t }
  let t := settleSlots .transit t
  let t := { t with grn := { t.grn with cmds := satInc t.grn.cmds, lastOpc := r.opc, lastOwner := r.owner
                                        lastVerdict := res.verdict, lastStatus := res.status } }
  qJoin 93 16 t.grn.grc.length { t with grn := { t.grn with grc := t.grn.grc ++ [d] } }

theorem runHead_eq {r : GrnReq} {ok : Bool} {s t : State} {res : GrnResult}
    (work : runJob (grnJob s r) ok (grqTaken s) = (res, t)) : runHead r ok s = grnEnds r res t := by
  have job : GrnJob.mk r (sramRead (grqTaken s) r.inAddr.toNat r.inLen.toNat) (sramRead (grqTaken s) r.aadAddr.toNat r.aadLen.toNat)
      (sramRead (grqTaken s) r.auxAddr.toNat r.auxLen.toNat) false = grnJob s r := by
    rw [grqTaken_eq]; rfl
  unfold runHead
  dsimp only
  rw [← grqTaken, job, work]
  rfl

theorem onGrq_runs {p : Byte → Bool} {ok : Bool} {s : State} {r : GrnReq} (head : s.grn.grq.head? = some r)
    (ready : s.grn.ready = true) (serves : granaryServes s = true) (row : p r.opc = true) :
    onGrq p ok s = runHead r ok s := by
  obtain ⟨rest, queue⟩ := List.head?_eq_some_iff.1 head
  rw [onGrq, queue]
  dsimp only
  rw [row, ready, serves]
  rfl

/-- What the Granary shows after a command's work. -/
structure GrnEnded (r : GrnReq) (res : GrnResult) (t s' : State) : Prop where
  grn : ∃ d : GrnDone, d.caller = r.caller ∧ d.status = res.status ∧ d.verdict = res.verdict ∧
    d.written = BitVec.ofNat 32 res.written ∧ s'.grn = { t.grn with
      slots := t.grn.slots.map fun k => if k.st = .busy then { k with st := .transit } else k
      cmds := satInc t.grn.cmds, lastOpc := r.opc, lastOwner := r.owner, lastVerdict := res.verdict, lastStatus := res.status
      grc := t.grn.grc ++ [d] }
  output : sramRead s' r.outAddr.toNat res.out.length = res.out
  frame : SramBut r.outAddr.toNat res.out.length t s'
  rest : s' = { t with grn := s'.grn, mem := s'.mem, cache := s'.cache, clk := s'.clk }

theorem grnEnds_ended (r : GrnReq) (res : GrnResult) (t : State) : GrnEnded r res t (grnEnds r res t) := by
  have wrote : TakesBytes r.outAddr.toNat res.out t (if res.out = [] then t else sramWrite r.outAddr.toNat res.out t) := by
    split
    next none => rw [none]; exact takes_nil ..
    · exact takes_sramWrite ..
  unfold grnEnds
  generalize (if res.out = [] then t else sramWrite r.outAddr.toNat res.out t) = u at wrote
  have grn : u.grn = t.grn := by rw [wrote]; rfl
  dsimp only
  generalize ended : qJoin 93 16 _ _ = s'
  have frame := eq_of_clk (ended ▸ qJoin_same ..)
  have mem : s'.mem = u.mem := by rw [frame]; rfl
  exact {
    grn := ⟨_, rfl, rfl, rfl, rfl, by rw [frame, settleSlots]; dsimp only; rw [grn]⟩
    output := by
      rw [sramRead, mem, sram_of_takes wrote]
      exact memBytes_memStore_same ..
    frame := sramBut_congr rfl mem (sramBut_of_takes wrote)
    rest := by
      rw [frame, wrote]; rfl
  }

end Sys2Proof.Machine
end

section
/-! PROOFS. What each key-use command of the Granary answers (R411, R426, R428 to R433). -/

namespace Sys2Proof.Machine

/-! ### A command completes (R426, R445) -/

/-- The queues and the count of commands stand as when the request left GRQ, and memory is as before. -/
structure GrnKept (s t : State) : Prop where
  mem : t.mem = s.mem
  grq : t.grn.grq = s.grn.grq.drop 1
  grc : t.grn.grc = s.grn.grc
  cmds : t.grn.cmds = s.grn.cmds

theorem kept_grnRuns (s : State) (r : GrnReq) (ok : Bool) : GrnKept s (grnRuns s r ok) := by
  rw [grnRuns_eq]
  exact ⟨rfl, rfl, rfl, rfl⟩

section
variable {s t t' : State} (kept : GrnKept s t)
include kept

theorem kept_of_onlySlots (mem : t'.mem = t.mem) (slots : OnlySlots t t') : GrnKept s t' where
  mem := mem.trans kept.mem
  grq := by rw [slots]; exact kept.grq
  grc := by rw [slots]; exact kept.grc
  cmds := by rw [slots]; exact kept.cmds

theorem kept_of_grn (mem : t'.mem = t.mem) (grn : t'.grn = t.grn) : GrnKept s t' :=
  kept_of_onlySlots kept mem (onlySlots_of_grn grn)

theorem kept_killNonce (n : List Byte) : GrnKept s (killNonce n t) where
  mem := kept.mem
  grq := kept.grq
  grc := kept.grc
  cmds := kept.cmds

end

section
variable {c : Instr} {p : Byte → Bool} {ok : Bool} {s t : State} {r : GrnReq} {res : GrnResult}

theorem grnCompletes_of_work (form : exec c s = .next (onGrq p ok s)) (row : p r.opc = true)
    (head : s.grn.grq.head? = some r) (ready : s.grn.ready = true) (serves : granaryServes s = true)
    (work : runJob (grnJob s r) ok (grqTaken s) = (res, t)) (kept : GrnKept s t) :
    GrnCompletes c r res.status res.verdict res.out res.written s (grnEnds r res t) := by
  rw [onGrq_runs head ready serves row, runHead_eq work] at form
  obtain ⟨⟨d, caller, status, verdict, written, grn⟩, output, frame, -⟩ := grnEnds_ended r res t
  refine ⟨form, ?_, ⟨d, ?_, caller, status, verdict, written⟩, output, sramBut_congr kept.mem rfl frame, ?_, ?_, ?_, ?_, ?_⟩ <;>
    rw [grn]
  · exact kept.grq
  · dsimp only; rw [kept.grc]
  · dsimp only; rw [kept.cmds]

end

theorem row_of_code {x code : Byte} {n : Nat} (opc : x.toNat = n) (value : code.toNat = n) : (x == code) = true :=
  beq_iff_eq.2 (BitVec.eq_of_toNat_eq (opc.trans value.symm))

/-! ### Key use (R428 to R431) -/

theorem limpReason_grnRuns (s : State) (r : GrnReq) (ok : Bool) (n : Nat) : limpReason (grnRuns s r ok) n = limpReason s n := by
  rw [grnRuns_eq]; rfl

/-- A command of a key, of an owner or of neither begins its work in `grnRuns`. -/
theorem runJob_begins {s : State} {r : GrnReq} {opc : Nat} (code : r.opc.toNat = opc) (formed : r.malformed = false)
    (mode : limpReason s 1 = false) :
    runJob (grnJob s r) true (grqTaken s) =
      if opc = 0x20 then (performed (sha256 (grnJob s r).inp), grnRuns s r true)
      else if opc = 0x21 then
        (performed ((drawBytes ((r.outLen.toNat + 31) / 32) (grnRuns s r true)).1.take r.outLen.toNat),
          (drawBytes ((r.outLen.toNat + 31) / 32) (grnRuns s r true)).2)
      else if opc = 0x30 then drawNonce (grnRuns s r true)
      else if opOwner opc then
        if !mayOwner (grnRuns s r true) (grnJob s r) opc r.owner.toNat then
          mismatchKind (refusalKind (grnRuns s r true) r) (grnJob s r) (grnRuns s r true)
        else ownerCommand (grnJob s r) (grnRuns s r true)
      else ((keyCommand (grnJob s r) (grnRuns s r true)).1,
        if dcFlag r.flags.toNat then killNonce (authNonce r.auth) (keyCommand (grnJob s r) (grnRuns s r true)).2
        else (keyCommand (grnJob s r) (grnRuns s r true)).2) := by
  have start : (if opDraws opc then { grqTaken s with grn := { (grqTaken s).grn with entFail := !true } } else grqTaken s) =
      grnRuns s r true := by rw [← code]; rfl
  have modes : modeServes (grnRuns s r true) opc = true := by rw [modeServes, limpReason_grnRuns, mode]; rfl
  unfold runJob
  dsimp only
  rw [show (grnJob s r).r = r from rfl, code, start, formed, Bool.not_true, Bool.and_false, modes]
  rfl

theorem keyCommand_found {s s1 s2 : State} {r : GrnReq} {k : KeyInfo} {res : GrnResult} (key : grnKey s r k s1)
    (use : useKey (grnJob s r) k s1 = (some res, s2)) : keyCommand (grnJob s r) (grnRuns s r true) = (res, s2) := by
  obtain ⟨served, single, ks, walk⟩ := key
  unfold keyCommand
  dsimp only
  rw [show (grnJob s r).r = r from rfl, served, walk]
  simp only [single, use, Bool.not_true, Bool.not_false, Bool.true_or, Bool.false_and, Bool.false_eq_true, if_false]

theorem plain_of_opKey {opc : Nat} (key : (opKey opc).isSome = true) :
    opc ≠ 0x20 ∧ opc ≠ 0x21 ∧ opc ≠ 0x30 ∧ opOwner opc = false := by
  unfold opKey at key
  split at key <;> simp_all [opOwner]

/-- The state that a key-use command leaves: the nonce that it named is dead (R434). -/
def nonceNamed (r : GrnReq) (s : State) : State := if dcFlag r.flags.toNat then killNonce (authNonce r.auth) s else s

theorem nonceNamed_guard (r : GrnReq) (s : State) : (nonceNamed r s).guard = s.guard := by unfold nonceNamed; split <;> rfl

theorem kept_nonceNamed {s t : State} (kept : GrnKept s t) (r : GrnReq) : GrnKept s (nonceNamed r t) := by
  unfold nonceNamed
  split
  exacts [kept_killNonce kept _, kept]

theorem runJob_key {s t : State} {r : GrnReq} {opc : Nat} {res : GrnResult} (code : r.opc.toNat = opc) (formed : r.malformed = false)
    (mode : limpReason s 1 = false) (isKey : (opKey opc).isSome = true) (work : keyCommand (grnJob s r) (grnRuns s r true) = (res, t)) :
    runJob (grnJob s r) true (grqTaken s) = (res, nonceNamed r t) := by
  obtain ⟨hash, random, nonce, owner⟩ := plain_of_opKey isKey
  rw [runJob_begins code formed mode, if_neg hash, if_neg random, if_neg nonce, owner, work]
  rfl

theorem keyOf_mem {o depth : Nat} {path : List Byte} {leaf : Option (List Byte)} {fin : KeyInfo → Bool} {s s1 : State}
    {found : Option (KeyInfo × List (Fin 48))} (walk : keyOf o depth path leaf fin s = (found, s1)) : s1.mem = s.mem := by
  have same : (keyOf o depth path leaf fin s).2.mem = s.mem := by simp
  rwa [walk] at same

theorem kept_key {s s1 : State} {r : GrnReq} {k : KeyInfo} (key : grnKey s r k s1) : GrnKept s s1 := by
  obtain ⟨-, -, ks, walk⟩ := key
  refine kept_of_onlySlots (kept_grnRuns s r true) (keyOf_mem walk) ?_
  have slots := onlySlots_keyOf r.owner.toNat r.depth.toNat r.path (if leafFlag r.flags.toNat then some r.blob else none)
    (fun k => keyServes r.opc.toNat k && admits (grnJob s r) k) (grnRuns s r true)
  rwa [walk] at slots

theorem kept_useKey {s s1 s2 : State} {j : GrnJob} {k : KeyInfo} {res : Option GrnResult} (kept : GrnKept s s1)
    (use : useKey j k s1 = (res, s2)) : GrnKept s s2 := by
  have mem : (useKey j k s1).2.mem = s1.mem := by simp
  have slots := onlySlots_useKey j k s1
  rw [use] at mem slots
  exact kept_of_onlySlots kept mem slots

section
variable {s s1 : State} {r : GrnReq} {k : KeyInfo} {opc : Nat}

theorem opcodeOf (key : grnServes s r opc ∧ grnKey s r k s1) : (grnJob s r).r.opc.toNat = opc := by
  obtain ⟨⟨-, -, -, opc, -⟩, -⟩ := key
  exact opc

/-- The command runs with the key that the walk found: what the algorithm gives is the command's answer. -/
theorem keyCompletes {c : Instr} (code : Byte) {res : GrnResult} (key : grnServes s r opc ∧ grnKey s r k s1)
    (form : exec c s = .next (onGrq (· == code) true s)) (value : code.toNat = opc) (isKey : (opKey opc).isSome = true)
    (use : (useKey (grnJob s r) k s1).1 = some res) :
    ∃ s', GrnCompletes c r res.status res.verdict res.out res.written s s' := by
  obtain ⟨⟨head, ready, serves, opc, formed, mode⟩, found⟩ := key
  have used : useKey (grnJob s r) k s1 = (some res, (useKey (grnJob s r) k s1).2) := Prod.ext use rfl
  exact ⟨_, grnCompletes_of_work form (row_of_code opc value) head ready serves
    (runJob_key opc formed mode isKey (keyCommand_found found used)) (kept_nonceNamed (kept_useKey (kept_key found) used) r)⟩

end

/-! ### The algorithms (R429 to R431) -/

section
variable {j : GrnJob} {k : KeyInfo} {s : State}

theorem useKey_seal (opc : j.r.opc.toNat = 0x01) : ∃ iv : List Byte, iv.length = 12 ∧
    (useKey j k s).1 = some (performed (iv ++ (gcmSeal k.key iv j.aad j.inp).1 ++ (gcmSeal k.key iv j.aad j.inp).2)) := by
  refine ⟨bytesOf (draw 96 s).1 0 12, by simp [bytesOf], ?_⟩
  simp only [useKey, opc]

theorem useKey_opened {p : List Byte} (opc : j.r.opc.toNat = 0x02) (opened : gcmOpen k.key (j.inp.take 12) j.aad
      (bytesAt j.inp 12 (j.inp.length - 28)) (j.inp.drop (j.inp.length - 16)) = some p) :
    (useKey j k s).1 = some (performed p) := by
  simp only [useKey, opc, opened]

theorem useKey_forged (opc : j.r.opc.toNat = 0x02) (forged : gcmOpen k.key (j.inp.take 12) j.aad
      (bytesAt j.inp 12 (j.inp.length - 28)) (j.inp.drop (j.inp.length - 16)) = none) :
    (useKey j k s).1 = some { verdict := 1, out := List.replicate (bytesAt j.inp 12 (j.inp.length - 28)).length 0
                              written := (bytesAt j.inp 12 (j.inp.length - 28)).length } := by
  simp only [useKey, opc, forged]

theorem useKey_unwrapped {p : List Byte} (opc : j.r.opc.toNat = 0x04) (opened : keyUnwrap k.key j.inp = some p) :
    (useKey j k s).1 = some (performed p) := by
  simp only [useKey, opc, opened]

theorem useKey_notWrapped (opc : j.r.opc.toNat = 0x04) (forged : keyUnwrap k.key j.inp = none) :
    (useKey j k s).1 = some { verdict := 1, out := List.replicate (j.inp.length - 8) 0, written := j.inp.length - 8 } := by
  simp only [useKey, opc, forged]

theorem useKey_mkleaf (opc : j.r.opc.toNat = 0x05) (depth : keyDepth j.r ≤ 7)
    (leaf : (leafInfo s j.r.owner.toNat k [] j.inp).isSome = true) :
    (useKey j k s).1 = some (performed (keyWrap k.key j.inp)) := by
  simp only [useKey, opc, depth, leaf, and_self, if_true]

theorem useKey_wrap (opc : j.r.opc.toNat = 0x03) : (useKey j k s).1 = some (performed (keyWrap k.key j.inp)) := by
  simp only [useKey, opc]

theorem useKey_respond (opc : j.r.opc.toNat = 0x10) :
    (useKey j k s).1 = some (performed ((hmac k.key j.inp).take j.r.trunc.toNat)) := by
  simp only [useKey, opc]

theorem useKey_check (opc : j.r.opc.toNat = 0x11) :
    (useKey j k s).1 = some { verdict := if (hmac k.key j.inp).take j.r.trunc.toNat = j.aux then 0 else 2 } := by
  simp only [useKey, opc]

theorem useKey_pubkey (opc : j.r.opc.toNat = 0x13) :
    (useKey j k s).1 = some (performed (publicKey (scalarOf (leafFlag j.r.flags.toNat) k))) := by
  simp only [useKey, opc]

theorem useKey_export {p : KeyInfo × Option (Fin 48)} {s2 : State} (opc : j.r.opc.toNat = 0x06)
    (exported : exportKey j s = (some p, s2)) : (useKey j k s).1 = some (performed (keyWrap k.key (leafPlain p.1))) := by
  simp only [useKey, opc, exported, Option.map_some]

theorem useKey_sign (opc : j.r.opc.toNat = 0x12) :
    (useKey j k s).1 = (signDigest (scalarOf (leafFlag j.r.flags.toNat) k) (sha256 j.inp) s).1.map performed := by
  simp only [useKey, opc]

theorem useKey_ecdh (opc : j.r.opc.toNat = 0x14) :
    (useKey j k s).1 = (ecdhShared (scalarOf (leafFlag j.r.flags.toNat) k) j.inp).map performed := by
  simp only [useKey, opc]

end

end Sys2Proof.Machine
end

section
/-! PROOFS. The Granary's other key-use answers (R426, R429, R430, R433, R434): HASH, RANDOM and NONCE, a failed entropy source, and
usage mismatches. -/

namespace Sys2Proof.Machine

/-! ### A usage mismatch (R433) -/

/-- A usage mismatch's answer: zeros over OUT_LEN and the WRITTEN of a performed command. -/
def mismatchAnswer (r : GrnReq) : GrnResult := { out := List.replicate r.outLen.toNat 0, written := outSize r.form }

/-- A violation by `src` is counted. -/
def Violated (src : Fin 22) (s s' : State) : Prop :=
  s'.guard.vlastSrc.toNat = src.val ∧ vget s'.guard.vcnt src = satInc (vget s.guard.vcnt src)

theorem violated_violateNowhere (src : Fin 22) (kind : Vio) (s : State) : Violated src s (violateNowhere src.val kind s) := by
  rw [violateNowhere, violateSrc, dif_pos src.isLt]
  exact ⟨Nat.mod_eq_of_lt (by omega), vget_vset_same ..⟩

theorem violated_congr {src : Fin 22} {s r r' s' : State} (start : r.guard = s.guard) (finish : s'.guard = r'.guard)
    (violated : Violated src r r') : Violated src s s' := by rwa [Violated, finish, ← start]

theorem kept_mismatchKind {s t : State} (kept : GrnKept s t) (kind : Vio) (j : GrnJob) : GrnKept s (mismatchKind kind j t).2 :=
  kept_of_grn kept (by simp) (by simp)

theorem rootInfo_grnRuns (s : State) (r : GrnReq) (ok : Bool) (o : Nat) : rootInfo (grnRuns s r ok) o = rootInfo s o := by
  rw [grnRuns_eq]; rfl

theorem keyOf_rootless {s : State} {o : Nat} (rootless : rootInfo s o = none) (depth : Nat) (path : List Byte)
    (leaf : Option (List Byte)) (fin : KeyInfo → Bool) : keyOf o depth path leaf fin s = (none, s) := by
  have walk : ∀ fin, walkPath o depth path fin s = (none, s) := fun fin => by rw [walkPath, rootless]
  cases leaf <;> simp only [keyOf, walk, Option.map_none]

/-- An owner that is not served, or has no root: the command is a usage mismatch. -/
theorem keyCommand_mismatch {s : State} {r : GrnReq}
    (keyless : ownerServed (grnRuns s r true) r = false ∨ rootInfo s r.owner.toNat = none) :
    ∃ kind, keyCommand (grnJob s r) (grnRuns s r true) = mismatchKind kind (grnJob s r) (grnRuns s r true) := by
  unfold keyCommand
  dsimp only
  split
  · exact ⟨_, rfl⟩
  next served =>
    have rootless := keyless.resolve_left fun none => served (by rw [show (grnJob s r).r = r from rfl, none]; rfl)
    rw [show (grnJob s r).r = r from rfl, keyOf_rootless ((rootInfo_grnRuns ..).trans rootless)]
    exact ⟨_, rfl⟩

section
variable {s : State} {r : GrnReq} {opc : Nat} {c : Instr} {code : Byte}
  (form : exec c s = .next (onGrq (· == code) true s)) (value : code.toNat = opc)
  (head : s.grn.grq.head? = some r) (ready : s.grn.ready = true) (serves : granaryServes s = true)
include form value head ready serves

/-- A key-use command that runs no algorithm reads zeros and counts a violation. -/
theorem mismatchCompletes (isKey : (opKey opc).isSome = true) (given : r.opc.toNat = opc)
    (wrong : r.malformed = true ∨ (limpReason s 1 = false ∧ ownerServed (grnRuns s r true) r = false) ∨
      (limpReason s 1 = false ∧ rootInfo s r.owner.toNat = none)) :
    ∃ s', GrnCompletes c r 0 0 (List.replicate r.outLen.toNat 0) (outSize r.form) s s' ∧ Violated r.src s s' := by
  have works : ∃ t, runJob (grnJob s r) true (grqTaken s) = (mismatchAnswer r, t) ∧ GrnKept s t ∧ Violated r.src s t := by
    have guard : (grnRuns s r true).guard = s.guard := by rw [grnRuns_eq]
    have violated (kind : Vio) : Violated r.src s (mismatchKind kind (grnJob s r) (grnRuns s r true)).2 :=
      violated_congr guard rfl (violated_violateNowhere r.src kind _)
    have kept (kind : Vio) := kept_mismatchKind (kept_grnRuns s r true) kind (grnJob s r)
    cases formed : r.malformed with
    | true =>
      refine ⟨_, ?_, kept .usage, violated .usage⟩
      unfold runJob
      dsimp only
      rw [show (grnJob s r).r.malformed = true from formed, if_pos rfl]
      rfl
    | false =>
      have mode : limpReason s 1 = false := by
        obtain malformed | ⟨mode, -⟩ | ⟨mode, -⟩ := wrong
        exacts [absurd malformed (by rw [formed]; decide), mode, mode]
      obtain ⟨kind, work⟩ := keyCommand_mismatch (s := s) (r := r) <| by
        obtain malformed | ⟨-, unserved⟩ | ⟨-, rootless⟩ := wrong
        exacts [absurd malformed (by rw [formed]; decide), .inl unserved, .inr rootless]
      exact ⟨_, runJob_key given formed mode isKey work, kept_nonceNamed (kept kind) r,
        violated_congr rfl (nonceNamed_guard ..) (violated kind)⟩
  obtain ⟨t, work, kept, violated⟩ := works
  refine ⟨_, grnCompletes_of_work form (row_of_code given value) head ready serves work kept, violated_congr rfl ?_ violated⟩
  rw [(grnEnds_ended r (mismatchAnswer r) t).rest]

end

/-! ### HASH, RANDOM and NONCE (R429, R430, R434) -/

theorem length_drawBytes (n : Nat) (s : State) : (drawBytes n s).1.length = 32 * n := by
  induction n generalizing s with
  | zero => rfl
  | succ n ih =>
    unfold drawBytes
    dsimp only
    rw [List.length_append, ih, bytesOf, List.length_map, List.length_range]
    omega

theorem drawScalar_range (s : State) : 1 ≤ (drawScalar s).1 ∧ (drawScalar s).1 < p256N := by
  have below := Nat.mod_lt (draw 256 s).1.toNat (show 0 < p256N - 1 by decide)
  unfold drawScalar
  dsimp only
  omega

/-- What NONCE draws: the nonce, and its private key in 1 to n − 1, the newest of the four at most that live on. -/
theorem drawNonce_draws (s : State) : ∃ n d t,
    drawNonce s = (performed (bytesOf n 0 16 ++ publicKey d), t) ∧ 1 ≤ d ∧ d < p256N ∧ t.mem = s.mem ∧
    t.grn = { s.grn with nonces := t.grn.nonces } ∧
    t.grn.nonces.getLast? = some { nonce := n, priv := BitVec.ofNat 256 d, issued := s.now } ∧
    t.grn.nonces.length = min 4 (s.grn.nonces.length + 1) := by
  obtain ⟨positive, below⟩ := drawScalar_range (draw 128 s).2
  refine ⟨_, _, _, rfl, positive, below, rfl, rfl, ?_, ?_⟩
  · dsimp only
    rw [List.getLast?_drop, if_neg (by rw [List.length_append]; simp), List.getLast?_append]
    rfl
  · dsimp only
    rw [List.length_drop, List.length_append]
    change (s.grn.nonces.length + 1) - (s.grn.nonces.length + 1 - 4) = _
    omega

section
variable {s : State} {r : GrnReq}

theorem hashCompletes (serves : grnServes s r 0x20) :
    ∃ s', GrnCompletes .hash r 0 0 (sha256 (grnJob s r).inp) (sha256 (grnJob s r).inp).length s s' := by
  obtain ⟨head, ready, served, opc, formed, mode⟩ := serves
  have row : (fun o : Byte => o == 0x20 || !opKnown o.toNat) r.opc = true := by
    dsimp only
    rw [row_of_code opc rfl]
    rfl
  exact ⟨_, grnCompletes_of_work (p := fun o => o == 0x20 || !opKnown o.toNat) rfl row head ready served
    ((runJob_begins opc formed mode).trans (if_pos rfl)) (kept_grnRuns s r true)⟩

theorem randomCompletes (serves : grnServes s r 0x21) :
    ∃ s' bs, bs.length = r.outLen.toNat ∧ GrnCompletes (.random true) r 0 0 bs bs.length s s' := by
  obtain ⟨head, ready, served, opc, formed, mode⟩ := serves
  have work := runJob_begins opc formed mode
  rw [if_neg (by decide), if_pos rfl] at work
  refine ⟨_, _, ?_, grnCompletes_of_work (p := (· == 0x21)) rfl (row_of_code opc rfl) head ready served work
    (kept_of_grn (kept_grnRuns s r true) (by simp) (by simp))⟩
  rw [performed, List.length_take, length_drawBytes]
  omega

theorem nonceCompletes (serves : grnServes s r 0x30) :
    ∃ s' n d, GrnCompletes (.nonce true) r 0 0 (bytesOf n 0 16 ++ publicKey d) (bytesOf n 0 16 ++ publicKey d).length s s' ∧
      1 ≤ d ∧ d < p256N ∧ s'.grn.nonces.getLast? = some { nonce := n, priv := BitVec.ofNat 256 d, issued := s.now } ∧
      s'.grn.nonces.length = min 4 (s.grn.nonces.length + 1) := by
  obtain ⟨head, ready, served, opc, formed, mode⟩ := serves
  have nonces : (grnRuns s r true).grn.nonces = s.grn.nonces := by rw [grnRuns_eq]
  have now : (grnRuns s r true).now = s.now := by rw [grnRuns_eq]
  obtain ⟨n, d, t, drawn, positive, below, mem, grn, last, count⟩ := drawNonce_draws (grnRuns s r true)
  have runs := kept_grnRuns s r true
  have kept : GrnKept s t :=
    ⟨mem.trans runs.mem, by rw [grn]; exact runs.grq, by rw [grn]; exact runs.grc, by rw [grn]; exact runs.cmds⟩
  have work := runJob_begins opc formed mode
  rw [if_neg (by decide), if_neg (by decide), if_pos rfl, drawn] at work
  obtain ⟨⟨_, -, -, -, -, ended⟩, -⟩ := grnEnds_ended r (performed (bytesOf n 0 16 ++ publicKey d)) t
  refine ⟨_, n, d, grnCompletes_of_work (p := (· == 0x30)) rfl (row_of_code opc rfl) head ready served work kept, positive, below, ?_, ?_⟩
  · rw [ended]; dsimp only; rw [last, now]
  · rw [ended]; dsimp only; rw [count, nonces]

/-- A command that draws, while the entropy source fails: BUSY, and nothing is drawn (R430). -/
theorem busyCompletes {c : Instr} {code : Byte} {opc : Nat} (form : exec c s = .next (onGrq (· == code) false s))
    (value : code.toNat = opc) (draws : opDraws opc = true) (serves : grnServes s r opc) :
    ∃ s', GrnCompletes c r 1 0 [] 0 s s' ∧ s'.grn.entFail = true ∧
      s'.grn.slots = s.grn.slots.map (fun k => if k.st = .busy then { k with st := .transit } else k) ∧ s'.grn.nonces = s.grn.nonces := by
  obtain ⟨head, ready, served, given, formed, -⟩ := serves
  have work : runJob (grnJob s r) false (grqTaken s) = ({ status := 1 }, grnRuns s r false) := by
    unfold runJob
    dsimp only
    rw [show (grnJob s r).r = r from rfl, formed, if_neg Bool.false_ne_true, given, draws]
    rw [show grnRuns s r false = { grqTaken s with grn := { (grqTaken s).grn with entFail := true } } by
      rw [grnRuns, given, draws]; rfl]
    rfl
  obtain ⟨⟨_, -, -, -, -, ended⟩, -⟩ := grnEnds_ended r { status := 1 } (grnRuns s r false)
  have runs := grnRuns_eq s r false
  rw [given, draws] at runs
  refine ⟨_, grnCompletes_of_work form (row_of_code given value) head ready served work (kept_grnRuns s r false), ?_, ?_, ?_⟩ <;>
    rw [ended, runs]
  rfl

end

/-- Settles O52, with a command's work taken from its request in GRQ to its completion in GRC. -/
theorem granaryKeyUse : Obligations.GranaryKeyUse := by
  intro s r j key
  refine ⟨fun k s1 => ⟨fun used => ?_, fun used => ⟨fun p opened => ?_, fun forged => ?_⟩, fun used => ?_,
    fun used => ⟨fun p opened => ?_, fun forged => ?_⟩, fun used depth leaf => ?_, fun used p s2 exported => ?_, fun used => ?_,
    fun used => ?_, fun used => ?_, fun used => ?_, fun used x shared => ?_⟩,
    hashCompletes, randomCompletes, fun serves _ => nonceCompletes serves, fun q listed serves => ?_,
    fun q listed opc head ready serves wrong => ?_⟩
  · obtain ⟨iv, length, sealed⟩ := useKey_seal (k := k) (s := s1) (opcodeOf used)
    obtain ⟨s', done⟩ := keyCompletes (c := .seal true) 0x01 used rfl rfl rfl sealed
    exact ⟨s', iv, length, done⟩
  · exact keyCompletes 0x02 used rfl rfl rfl (useKey_opened (opcodeOf used) opened)
  · exact keyCompletes 0x02 used rfl rfl rfl (useKey_forged (opcodeOf used) forged)
  · exact keyCompletes 0x03 used rfl rfl rfl (useKey_wrap (opcodeOf used))
  · exact keyCompletes 0x04 used rfl rfl rfl (useKey_unwrapped (opcodeOf used) opened)
  · exact keyCompletes 0x04 used rfl rfl rfl (useKey_notWrapped (opcodeOf used) forged)
  · exact keyCompletes 0x05 used rfl rfl rfl (useKey_mkleaf (opcodeOf used) depth leaf)
  · exact keyCompletes 0x06 used rfl rfl rfl (useKey_export (opcodeOf used) exported)
  · exact keyCompletes 0x10 used rfl rfl rfl (useKey_respond (opcodeOf used))
  · exact keyCompletes 0x11 used rfl rfl rfl (useKey_check (opcodeOf used))
  · have signed := useKey_sign (k := k) (s := s1) (opcodeOf used)
    split
    next sg drawn =>
      exact keyCompletes (c := .sign true) 0x12 used rfl rfl rfl (signed.trans (congrArg (Option.map performed) drawn))
    · exact ⟨_, rfl⟩
  · exact keyCompletes 0x13 used rfl rfl rfl (useKey_pubkey (opcodeOf used))
  · exact keyCompletes (c := .ecdh) 0x14 used rfl rfl rfl
      ((useKey_ecdh (opcodeOf used)).trans (congrArg (Option.map performed) shared))
  · simp only [List.mem_cons, List.not_mem_nil, or_false] at listed
    rcases listed with rfl | rfl | rfl | rfl | rfl <;> exact busyCompletes rfl rfl rfl serves
  · simp only [List.mem_cons, List.not_mem_nil, or_false] at listed
    rcases listed with rfl | rfl | rfl | rfl | rfl | rfl | rfl | rfl | rfl | rfl | rfl <;>
      exact mismatchCompletes rfl rfl head ready serves rfl opc wrong

end Sys2Proof.Machine
end

section
/-! PROOFS. The Granary's owners (R400 to R404, R420 to R422): what judging, writing and erasing leave, and the state that an owner
comes to. -/

namespace Sys2Proof.Machine

/-! ### What an owner's change leaves of the Granary -/

/-- Of the Granary only the roots, the owner states, the slots and the escrow's standing may differ. -/
def OnlyOwners (s s' : State) : Prop := s'.grn = { s.grn with
  roots := s'.grn.roots, ostate := s'.grn.ostate, slots := s'.grn.slots, escrow := s'.grn.escrow, escPending := s'.grn.escPending }

theorem onlyOwners_refl (s : State) : OnlyOwners s s := rfl

theorem onlyOwners_trans {s s' s'' : State} (first : OnlyOwners s s') (next : OnlyOwners s' s'') : OnlyOwners s s'' := by
  rw [OnlyOwners, next, first]

theorem onlyOwners_of_grn {s s' : State} (same : s'.grn = s.grn) : OnlyOwners s s' := by rw [OnlyOwners, same]

theorem onlyOwners_freeSlots (p : KeySlot → Bool) (s : State) : OnlyOwners s (freeSlots p s) := rfl

theorem onlyOwners_setOwner (o : Fin 64) (st : BitVec 4) (s : State) : OnlyOwners s (setOwner o st s) := by
  unfold setOwner
  dsimp only
  (repeat' split) <;> rfl

theorem onlyOwners_judgeOwners (s : State) : OnlyOwners s (judgeOwners s) := by
  unfold judgeOwners
  induction fins 64 generalizing s with
  | nil => exact onlyOwners_refl s
  | cons o l ih => exact onlyOwners_trans (onlyOwners_setOwner ..) (ih _)

theorem onlyOwners_writeRoot (o flags gen : Nat) (digest root : List Byte) (s : State) :
    OnlyOwners s (writeRoot o flags gen digest root s) := onlyOwners_of_grn (by simp)

theorem onlyOwners_eraseRoot (o : Nat) (s : State) : OnlyOwners s (eraseRoot o s) := onlyOwners_of_grn (by simp)

theorem onlyOwners_holdRoot (o : Nat) (root : List Byte) (s : State) : OnlyOwners s (holdRoot o root s) := rfl

/-- A new escrow copy changes the escrow's standing in the Granary, and no root, owner or slot. -/
theorem writeEscrow_grn (s : State) : (writeEscrow s).grn =
    { s.grn with escrow := (writeEscrow s).grn.escrow, escPending := (writeEscrow s).grn.escPending } := by
  unfold writeEscrow
  split
  · rfl
  · simp

theorem onlyOwners_writeEscrow (s : State) : OnlyOwners s (writeEscrow s) := by rw [OnlyOwners, writeEscrow_grn]

theorem onlyOwners_restoreEntry (h48 e : List Byte) (s : State) : OnlyOwners s (restoreEntry h48 e s).2 := by
  unfold restoreEntry
  dsimp only
  split
  · split
    · split
      exacts [onlyOwners_refl s, onlyOwners_trans (onlyOwners_writeRoot ..) (onlyOwners_holdRoot ..)]
    · exact onlyOwners_refl s
  · exact onlyOwners_refl s

theorem onlyOwners_restoreAll (h48 : List Byte) (es : List (List Byte)) (s : State) : OnlyOwners s (restoreAll h48 es s).2 := by
  induction es generalizing s with
  | nil => exact onlyOwners_refl s
  | cons e es ih => exact onlyOwners_trans (onlyOwners_restoreEntry h48 e s) (ih _)

/-! ### Root records (R404) -/

theorem rootRecord_congr {s s' : State} (flash : s'.mem.flash = s.mem.flash) (o : Nat) : rootRecord s' o = rootRecord s o := by
  have bytes (b : Bool) : rootBytes s' o b = rootBytes s o b := by simp only [rootBytes, flashRead, flash]
  have valid (b : Bool) : rootValid s' o b = rootValid s o b := by simp only [rootValid, bytes]
  simp only [rootRecord, bytes, valid]

theorem rootValid_blank {s : State} {o : Nat} {second : Bool}
    (blank : tabGet norBlank s.mem.flash (rootLoc o second) = norBlank) : rootValid s o second = false := by
  have magic : asciiAt (rootBytes s o second) 0 magicRoot = false := by
    have head : rootBytes s o second = norBlank :: memBytes norBlank s.mem.flash (rootLoc o second + 1) 127 := by
      rw [rootBytes, flashRead, memBytes, blank]
    rw [head]
    exact decide_eq_false (by simp [bytesAt, magicRoot, norBlank])
  simp only [rootValid, magic, Bool.false_and]

theorem flash_flashErase {s : State} {a n : Nat} (apart : touchesPuf a n = false) :
    (flashErase a n s).mem.flash = memErase s.mem.flash a n := by
  rw [flashErase, apart]
  rfl

theorem rootRecord_eraseRoot (s : State) (o : Fin 64) : rootRecord (eraseRoot o.val s) o.val = none := by
  have puf (second : Bool) : touchesPuf (rootLoc o.val second) 128 = false :=
    decide_eq_false (by unfold rootLoc; split <;> omega)
  have blank (second : Bool) : tabGet norBlank (eraseRoot o.val s).mem.flash (rootLoc o.val second) = norBlank := by
    rw [eraseRoot, flash_flashErase (puf true), flash_flashErase (puf false)]
    cases second with
    | true => exact tabGet_memErase_inside norBlank _ _ _ _ ⟨Nat.le_refl _, by omega⟩
    | false =>
      rw [tabGet_memErase_outside norBlank _ _ _ _ (by unfold rootLoc; simp)]
      exact tabGet_memErase_inside norBlank _ _ _ _ ⟨Nat.le_refl _, by omega⟩
  simp only [rootRecord, rootValid_blank (blank false), rootValid_blank (blank true)]

/-! ### What the owners are judged to be (R400) -/

/-- A state in the midst of the judging of the owners. -/
def Judging (s t : State) : Prop :=
  t = { s with grn := { s.grn with roots := t.grn.roots, ostate := t.grn.ostate, slots := t.grn.slots } }

theorem judging_refl (s : State) : Judging s s := rfl

theorem judging_trans {s t u : State} (first : Judging s t) (next : Judging t u) : Judging s u := by rw [Judging, next, first]

theorem judging_setOwner (o : Fin 64) (st : BitVec 4) (s : State) : Judging s (setOwner o st s) := by
  unfold setOwner
  dsimp only
  (repeat' split) <;> rfl

theorem ownerState_setOwner (o x : Fin 64) (st : BitVec 4) (s : State) :
    ownerState (setOwner o st s) x = if x = o then st else ownerState s x := by
  rw [← show vget (vset s.grn.ostate o st) x = if x = o then st else ownerState s x from vget_vset ..]
  unfold setOwner
  dsimp only
  (repeat' split) <;> rfl

/-- What holds of every state in the midst of the judging holds when it ends. -/
theorem judgeOwners_keeps {P : State → Prop} (keeps : ∀ o st t, P t → P (setOwner o st t)) {s : State} (start : P s) :
    P (judgeOwners s) := by
  unfold judgeOwners
  induction fins 64 generalizing s with
  | nil => exact start
  | cons o l ih => exact ih (keeps _ _ _ start)

/-- An owner that is judged alike at every moment of the judging comes to that state. -/
theorem ownerState_judgeOwners {s : State} {o : Fin 64} {v : BitVec 4} (judged : ∀ t, Judging s t → judgeOwner t o.val = v) :
    ownerState (judgeOwners s) o = v := by
  have fold : ∀ (l : List (Fin 64)) (t : State), Judging s t → (o ∈ l ∨ ownerState t o = v) →
      ownerState (l.foldl (fun s o => setOwner o (judgeOwner s o.val) s) t) o = v := by
    intro l
    induction l with
    | nil => exact fun t _ state => state.resolve_left List.not_mem_nil
    | cons x l ih =>
      intro t moment state
      refine ih _ (judging_trans moment (judging_setOwner ..)) ?_
      rw [ownerState_setOwner]
      split
      next same => exact .inr (same ▸ judged t moment)
      next other => exact state.imp_left fun listed => (List.mem_cons.1 listed).resolve_left other
  exact fold (fins 64) s (judging_refl s) (.inl (List.mem_finRange o))

/-- Without a root record an owner is DECLARED where the seed names it, else ABSENT. -/
theorem judgeOwner_recordless {s : State} {o : Nat} (recordless : rootRecord s o = none) (open' : s.sys.mode ≠ Mode.lockdown) :
    judgeOwner s o = if (ownerEntry s o).isSome then Owner.declared else Owner.absent := by
  rw [judgeOwner, recordless]
  exact if_neg fun locked => open' locked.1

/-- With a root record and the PUF failed an owner is LOST. -/
theorem judgeOwner_pufFail {s : State} {o : Nat} (recorded : (rootRecord s o).isSome = true) (fails : s.grn.pufFail = true) :
    judgeOwner s o = Owner.lost := by
  obtain ⟨p, found⟩ := Option.isSome_iff_exists.1 recorded
  rw [judgeOwner, found]
  dsimp only
  rw [unwrapRoot, if_pos fails, fails]
  split <;> rfl

theorem ownerState_recordless {s : State} {o : Fin 64} (recordless : rootRecord s o.val = none) (open' : s.sys.mode ≠ Mode.lockdown) :
    ownerState (judgeOwners s) o = if (ownerEntry s o.val).isSome then Owner.declared else Owner.absent :=
  ownerState_judgeOwners fun t moment => by
    rw [moment]
    exact judgeOwner_recordless recordless open'

theorem ownerState_pufFail {s : State} {o : Fin 64} (recorded : (rootRecord s o.val).isSome = true) (fails : s.grn.pufFail = true) :
    ownerState (judgeOwners s) o = Owner.lost :=
  ownerState_judgeOwners fun t moment => by
    rw [moment]
    exact judgeOwner_pufFail recorded fails

/-! ### A deleted owner (R440) -/

theorem setOwner_roots (o : Fin 64) (st : BitVec 4) (s : State) :
    (setOwner o st s).grn.roots = if st = Owner.orphaned then tabPut none s.grn.roots o.val none else s.grn.roots := by
  unfold setOwner
  dsimp only
  (repeat' split) <;> rfl

theorem setOwner_slots (o : Fin 64) (st : BitVec 4) (s : State) : (setOwner o st s).grn.slots =
    if ownerState s o = st then s.grn.slots else (freeSlots (fun k => decide (k.owner.toNat = o.val)) s).grn.slots := by
  unfold setOwner
  dsimp only
  (repeat' split) <;> rfl

theorem rootOf_setOwner_none {s : State} {x : Nat} (gone : rootOf s x = none) (o : Fin 64) (st : BitVec 4) :
    rootOf (setOwner o st s) x = none := by
  unfold rootOf
  rw [setOwner_roots]
  split
  · rw [tabGet_tabPut]
    split
    exacts [rfl, gone]
  · exact gone

/-- No slot holds a key of the owner. -/
def NoSlotOf (o : Nat) (s : State) : Prop := ∀ k, (vget s.grn.slots k).st ≠ .free → (vget s.grn.slots k).owner.toNat ≠ o

theorem slot_freeSlots (p : KeySlot → Bool) (s : State) (k : Fin 48) :
    vget (freeSlots p s).grn.slots k = if p (vget s.grn.slots k) then {} else vget s.grn.slots k :=
  Vector.getElem_map ..

theorem noSlotOf_freeSlots {s : State} {o : Nat} {p : KeySlot → Bool} (frees : ∀ k, k.owner.toNat = o → p k = true) :
    NoSlotOf o (freeSlots p s) := by
  intro k
  rw [slot_freeSlots]
  split
  · exact fun used => absurd rfl used
  next kept => exact fun _ same => kept (frees _ same)

theorem noSlotOf_freeSlots_of {s : State} {o : Nat} (p : KeySlot → Bool) (none : NoSlotOf o s) : NoSlotOf o (freeSlots p s) := by
  intro k
  rw [slot_freeSlots]
  split
  exacts [fun used => absurd rfl used, none k]

theorem noSlotOf_setOwner {s : State} {x : Nat} (none : NoSlotOf x s) (o : Fin 64) (st : BitVec 4) : NoSlotOf x (setOwner o st s) := by
  unfold NoSlotOf
  rw [setOwner_slots]
  split
  exacts [none, noSlotOf_freeSlots_of _ none]

end Sys2Proof.Machine
end

section
/-! PROOFS. The owner operations under their checks (R434 to R441). -/

namespace Sys2Proof.Machine

theorem kept_onlyOwners {s t t' : State} (kept : GrnKept s t) (mem : t'.mem = t.mem) (owners : OnlyOwners t t') : GrnKept s t' where
  mem := mem.trans kept.mem
  grq := by rw [owners]; exact kept.grq
  grc := by rw [owners]; exact kept.grc
  cmds := by rw [owners]; exact kept.cmds

/-! ### From the request to the operation (R430, R437) -/

theorem runJob_owner {s : State} {r : GrnReq} {opc : Nat} (code : r.opc.toNat = opc) (formed : r.malformed = false)
    (mode : limpReason s 1 = false) (owner : opOwner opc = true)
    (may : mayOwner (grnRuns s r true) (grnJob s r) opc r.owner.toNat = true) :
    runJob (grnJob s r) true (grqTaken s) = ownerCommand (grnJob s r) (grnRuns s r true) := by
  have range := of_decide_eq_true owner
  rw [runJob_begins code formed mode, if_neg (by omega), if_neg (by omega), if_neg (by omega), owner, may]
  rfl

/-- Without dual control an owner operation is refused with code 1. -/
theorem ownerCommand_single {j : GrnJob} (single : dcFlag j.r.flags.toNat = false) (s : State) :
    ownerCommand j s = refuse 1 s := by
  unfold ownerCommand
  dsimp only
  rw [single]
  rfl

/-- The state in which an authorised owner operation is carried out: the nonce it names is dead (R434). -/
def ownerBegins (s : State) (r : GrnReq) : State := killNonce (authNonce r.auth) (grnRuns s r true)

theorem ownerBegins_eq (s : State) (r : GrnReq) : ownerBegins s r = { grnRuns s r true with grn := (ownerBegins s r).grn } := rfl

theorem kept_ownerBegins (s : State) (r : GrnReq) : GrnKept s (ownerBegins s r) := kept_killNonce (kept_grnRuns s r true) _

theorem ownerCommand_authorised {s : State} {r : GrnReq} {opc : Nat} (code : r.opc.toNat = opc) (auth : authorised s r opc)
    (h : r.owner.toNat < 64) (plain : ¬ (opc = 0x31 ∧ importFlag r.flags.toNat = true))
    (state : opState (ownerBegins s r) opc (ownerState (ownerBegins s r) ⟨r.owner.toNat, h⟩) = true)
    (param : opParam (ownerBegins s r) (grnJob s r) opc r.owner.toNat none = true) :
    ownerCommand (grnJob s r) (grnRuns s r true) = match (generalizing := false) opc with
      | 0x31 => createOwner (grnJob s r) ⟨r.owner.toNat, h⟩ none (ownerBegins s r)
      | 0x32 => deleteOwner ⟨r.owner.toNat, h⟩ (ownerBegins s r)
      | 0x33 => rebindOwner ⟨r.owner.toNat, h⟩ (ownerBegins s r)
      | _ => if restoreOpen (ownerBegins s r) then restoreOwners (ownerBegins s r) else refuse 6 (ownerBegins s r) := by
  obtain ⟨dual, -, basics⟩ := auth
  subst code
  unfold ownerCommand
  dsimp only
  rw [show (grnJob s r).r = r from rfl, dual, if_pos rfl, if_pos rfl, basics, dif_pos h, if_neg plain, ← ownerBegins, state, param]
  rfl

/-! ### What an operation comes to (R436, R437) -/

section
variable {c : Instr} {code : Byte} {opc : Nat} {s t : State} {r : GrnReq} (form : exec c s = .next (onGrq (· == code) true s))
  (value : code.toNat = opc) (owner : opOwner opc = true) (serves : grnServes s r opc)
  (may : mayOwner (grnRuns s r true) (grnJob s r) opc r.owner.toNat = true)
include form value owner serves may

/-- The operation is carried out: what it leaves of the Granary beside the owners is the authorisation's count. -/
theorem ownerOpDone_of_work {out : List Byte} (work : ownerCommand (grnJob s r) (grnRuns s r true) = (performed out, t))
    (only : OnlyOwners (acceptAuth (ownerBegins s r)) t) : OwnerOpDone c r out s (grnEnds r (performed out) t) := by
  obtain ⟨head, ready, served, given, formed, mode⟩ := serves
  have ran := runHead_eq ((runJob_owner given formed mode owner may).trans work)
  rw [onGrq_runs (p := (· == code)) head ready served (row_of_code given value), ran] at form
  obtain ⟨⟨d, caller, status, verdict, written, grn⟩, output, -, -⟩ := grnEnds_ended r (performed out) t
  have runs := grnRuns_eq s r true
  refine ⟨form, ?_, ?_, ⟨d, ?_, caller, status, verdict, written⟩, output, ?_⟩
  · rw [grn, only]; exact (kept_grnRuns s r true).grq
  · rw [grn, only]
    change satInc (grnRuns s r true).grn.accepted = _
    rw [runs]
  · rw [grn, only]
    change (grnRuns s r true).grn.grc ++ _ = _
    rw [runs]
  · rw [findNonce, grn, only]
    refine List.find?_eq_none.2 fun x listed => ?_
    have apart := (List.mem_filter.1 listed).2
    simp_all

/-- The operation is refused with a code. -/
theorem refusedCompletes {n : Nat} {u : State} (work : ownerCommand (grnJob s r) (grnRuns s r true) = refuse n u)
    (kept : GrnKept s u) (same : u.grn = { s.grn with grq := u.grn.grq, nonces := u.grn.nonces, entFail := u.grn.entFail }) :
    ∃ s', GrnCompletes c r 0 3 [] 0 s s' ∧ s'.grn.reason = BitVec.ofNat 4 n ∧ s'.grn.refused = satInc s.grn.refused ∧
      s'.grn.roots = s.grn.roots ∧ s'.grn.ostate = s.grn.ostate := by
  obtain ⟨head, ready, served, given, formed, mode⟩ := serves
  have ran := (runJob_owner given formed mode owner may).trans work
  obtain ⟨⟨_, -, -, -, -, grn⟩, -⟩ := grnEnds_ended r { verdict := 3 } (refuse n u).2
  refine ⟨_, grnCompletes_of_work form (row_of_code given value) head ready served (res := { verdict := 3 }) (t := (refuse n u).2) ran
    ⟨kept.mem, kept.grq, kept.grc, kept.cmds⟩, ?_, ?_, ?_, ?_⟩ <;> rw [grn, refuse]
  all_goals dsimp only; rw [same]

end

/-! ### The four operations (R438 to R441) -/

theorem acceptAuth_grn {s s' : State} (same : s'.grn = s.grn) : (acceptAuth s').grn = (acceptAuth s).grn := by
  simp only [acceptAuth, countAuth, if_true, same]

theorem onlyOwners_acceptAuth {s s' t : State} (same : s'.grn = s.grn) (only : OnlyOwners (acceptAuth s') t) :
    OnlyOwners (acceptAuth s) t := by
  rw [OnlyOwners, only, acceptAuth_grn same]

theorem createOwner_made {s s2 : State} (j : GrnJob) (o : Fin 64)
    (counted : incrementCounter 3 (newRoot none s).2 = (true, s2)) : ∃ t,
    createOwner j o none s = (performed (leBytes 2 (counterValue s2 3 % 2 ^ 16)), t) ∧ OnlyOwners (acceptAuth s) t := by
  have grn : s2.grn = s.grn := by
    have same : (incrementCounter 3 (newRoot none s).2).2.grn = s.grn := by simp [newRoot]
    rwa [counted] at same
  unfold createOwner
  dsimp only
  rw [counted]
  refine ⟨_, rfl, onlyOwners_acceptAuth grn ?_⟩
  have judged (k : Nat) (digest root : List Byte) (flags : Nat) : OnlyOwners (acceptAuth s2)
      (judgeOwners (holdRoot o.val root (writeRoot o.val flags k digest root (acceptAuth s2)))) :=
    onlyOwners_trans (onlyOwners_trans (onlyOwners_writeRoot ..) (onlyOwners_holdRoot ..)) (onlyOwners_judgeOwners _)
  split
  exacts [onlyOwners_trans (judged ..) (onlyOwners_writeEscrow _), judged ..]

/-- DELETE's state before the owners are judged again. -/
def deletes (o : Fin 64) (s : State) : State :=
  freeSlots (fun k => decide (k.owner.toNat = o.val)) { eraseRoot o.val (acceptAuth s) with
    grn := { (eraseRoot o.val (acceptAuth s)).grn with
      roots := tabPut none (eraseRoot o.val (acceptAuth s)).grn.roots o.val none } }

theorem deleteOwner_eq (o : Fin 64) (s : State) : deleteOwner o s = (performed [], writeEscrow (judgeOwners (deletes o s))) := rfl

theorem onlyOwners_deletes (o : Fin 64) (s : State) : OnlyOwners (acceptAuth s) (deletes o s) :=
  onlyOwners_trans (onlyOwners_eraseRoot o.val (acceptAuth s)) rfl

theorem onlyOwners_deleteOwner (o : Fin 64) (s : State) : OnlyOwners (acceptAuth s) (deleteOwner o s).2 := by
  rw [deleteOwner_eq]
  exact onlyOwners_trans (onlyOwners_trans (onlyOwners_deletes o s) (onlyOwners_judgeOwners _)) (onlyOwners_writeEscrow _)

theorem rebindOwner_made {s : State} {o : Fin 64} (recorded : (rootRecord s o.val).isSome = true) (held : (rootOf s o.val).isSome = true) :
    ∃ t, rebindOwner o s = (performed [], t) ∧ OnlyOwners (acceptAuth s) t := by
  obtain ⟨⟨b, record⟩, found⟩ := Option.isSome_iff_exists.1 recorded
  obtain ⟨root, holds⟩ := Option.isSome_iff_exists.1 held
  unfold rebindOwner
  rw [found, holds]
  exact ⟨_, rfl, onlyOwners_trans (onlyOwners_writeRoot ..) (onlyOwners_trans (onlyOwners_freeSlots ..)
    (onlyOwners_trans (onlyOwners_judgeOwners _) (onlyOwners_writeEscrow _)))⟩

/-- RESTORE is open only with an escrow in force. -/
theorem escInForce_of_restoreOpen {s : State} (opens : restoreOpen s = true) : ∃ b, escInForce s = some b := by
  cases inForce : escInForce s with
  | some b => exact ⟨b, rfl⟩
  | none =>
    have entryless : escFind s 0 = none := by rw [escFind, escEntries, inForce]; rfl
    rw [restoreOpen, entryless, Bool.and_false] at opens
    cases opens

theorem restoreOwners_made {s : State} (opens : restoreOpen s = true) :
    ∃ n t, restoreOwners s = (performed [n], t) ∧ OnlyOwners (acceptAuth s) t := by
  obtain ⟨b, inForce⟩ := escInForce_of_restoreOpen opens
  unfold restoreOwners
  rw [inForce]
  exact ⟨_, _, rfl, onlyOwners_trans (onlyOwners_restoreAll ..) (onlyOwners_judgeOwners _)⟩

/-! ### A deleted owner (R440) -/

theorem sys_deletes (o : Fin 64) (s : State) : (deletes o s).sys = s.sys := by simp [deletes, acceptAuth]

theorem seed_deletes (o : Fin 64) (s : State) : (deletes o s).seed = s.seed := by simp [deletes, acceptAuth]

theorem flash_stepCounter (c : Nat) (s : State) : (stepCounter c s).mem.flash = s.mem.flash := by
  unfold stepCounter
  dsimp only
  split
  · rfl
  · split <;> rfl

/-- A rotation counter stands in the ledger's own array. -/
theorem flash_incrementCounter (c : Nat) (s : State) : (incrementCounter c s).2.mem.flash = s.mem.flash := by
  unfold incrementCounter
  split
  · rfl
  split
  exacts [rfl, flash_stepCounter c s]

/-- An escrow copy stands in the store's own memory. -/
theorem flash_writeEscrow (s : State) : (writeEscrow s).mem.flash = s.mem.flash := by
  unfold writeEscrow
  split
  · rfl
  · dsimp only
    rw [flash_incrementCounter]
    rfl

theorem rootRecord_deletes (o : Fin 64) (s : State) : rootRecord (deletes o s) o.val = none := by
  rw [rootRecord_congr (s := eraseRoot o.val (acceptAuth s)) (s' := deletes o s) rfl, rootRecord_eraseRoot]

theorem rootOf_deletes (o : Fin 64) (s : State) : rootOf (deletes o s) o.val = none := by
  have roots : (deletes o s).grn.roots = tabPut none (eraseRoot o.val (acceptAuth s)).grn.roots o.val none := rfl
  rw [rootOf, roots, tabGet_tabPut_same]
  rfl

/-- DELETE leaves no record, no root and no slot of the owner. -/
theorem deleteOwner_gone (o : Fin 64) {s : State} (unlocked : s.sys.mode ≠ Mode.lockdown) :
    rootRecord (deleteOwner o s).2 o.val = none ∧ rootOf (deleteOwner o s).2 o.val = none ∧
    ownerState (deleteOwner o s).2 o = (if (ownerEntry s o.val).isSome then Owner.declared else Owner.absent) ∧
    NoSlotOf o.val (deleteOwner o s).2 := by
  have judged := ownerState_recordless (rootRecord_deletes o s) (by rw [sys_deletes]; exact unlocked)
  have entry : ownerEntry (deletes o s) o.val = ownerEntry s o.val := by
    unfold ownerEntry seedFind seedOf
    rw [seed_deletes]
  have rootless : rootOf (judgeOwners (deletes o s)) o.val = none :=
    judgeOwners_keeps (P := fun t => rootOf t o.val = none) (fun x st t gone => rootOf_setOwner_none gone x st)
      (rootOf_deletes o s)
  have slotless : NoSlotOf o.val (judgeOwners (deletes o s)) :=
    judgeOwners_keeps (P := NoSlotOf o.val) (fun x st t none => noSlotOf_setOwner none x st)
      (noSlotOf_freeSlots fun k => decide_eq_true)
  rw [deleteOwner_eq]
  dsimp only
  have same := writeEscrow_grn (judgeOwners (deletes o s))
  have roots := congrArg (fun g => g.roots) same
  have states := congrArg (fun g => g.ostate) same
  have slots := congrArg (fun g => g.slots) same
  dsimp only at roots states slots
  refine ⟨?_, ?_, ?_, ?_⟩
  · rw [rootRecord_congr (s := deletes o s) (by rw [flash_writeEscrow]; simp), rootRecord_deletes]
  · rw [rootOf, roots, ← rootOf, rootless]
  · rw [ownerState, states, ← ownerState, judged, entry]
  · rw [NoSlotOf, slots]; exact slotless

end Sys2Proof.Machine
end

section
/-! PROOFS. The Granary's start, re-masking, and the inversion in Backup (R405, R418, R419, R422). -/

namespace Sys2Proof.Machine

/-! ### The start (R405) -/

theorem drawNonzero_ne (s : State) : (drawNonzero s).1 ≠ 0 := by
  unfold drawNonzero
  dsimp only
  split
  · dsimp only
    split
    · decide
    next nonzero => exact nonzero
  next nonzero => exact nonzero

theorem shareValue_setShare (v : W256) (s : State) : shareValue (setShare v s) = v := by
  unfold setShare shareValue
  dsimp only
  rw [BitVec.xor_assoc, BitVec.xor_self, BitVec.xor_zero]

theorem onlyOwners_unwrapRoots (s : State) : OnlyOwners s (unwrapRoots s) := by
  unfold unwrapRoots
  induction List.range 64 generalizing s with
  | nil => exact onlyOwners_refl s
  | cons o l ih =>
    refine onlyOwners_trans ?_ (ih _)
    dsimp only
    split
    exacts [rfl, onlyOwners_holdRoot ..]

theorem onlyOwners_startEscrow (s : State) : OnlyOwners s (startEscrow s) := by
  have grn : (incrementCounter 2 s).2.grn = s.grn := by simp
  unfold startEscrow
  split
  · rfl
  split
  · rfl
  generalize incrementCounter 2 s = counted at grn
  dsimp only
  (repeat' split) <;> (unfold OnlyOwners; dsimp only; rw [grn])

theorem flash_startEscrow (s : State) : (startEscrow s).mem.flash = s.mem.flash := by
  have flash := flash_incrementCounter 2 s
  unfold startEscrow
  split
  · rfl
  split
  · rfl
  generalize incrementCounter 2 s = counted at flash
  dsimp only
  (repeat' split) <;> exact flash

/-- The start's first step: a share that is zero is drawn (R405). -/
def shareReady (s : State) : State :=
  if decide (shareValue s = 0) then
    let (v, s) := drawNonzero s
    setShare v s
  else s

/-- The start's second step: the KEK of the PUF, as far as it gives one (R403, R405). -/
def kekReady (pufOk fresh : Bool) (u : State) : State := { u with grn := { u.grn with
  pufFail := !pufOk, shareNew := u.grn.shareNew || fresh, kek := if pufOk then ofBytes 256 (kekOf u) else 0 } }

/-- The start's last step: READY, and the first re-masking period begins (R405, R419). -/
def readyNow (u : State) : State := { u with grn := { u.grn with ready := true, periodAt := u.now, periods := 0 } }

/-- The roots unwrapped, the escrow in force and the owners judged. -/
def vaultReady (u : State) : State := judgeOwners (startEscrow (unwrapRoots u))

theorem granaryStartOp_eq {s : State} (idle : s.grn.ready = false) (serves : granaryServes s = true) (pufOk : Bool) :
    granaryStartOp pufOk s = readyNow (vaultReady (kekReady pufOk (decide (shareValue s = 0)) (shareReady s))) := by
  have runs : granaryStartOp pufOk s = _ := if_neg (by rw [idle, serves]; decide)
  rw [runs]
  extract_lets fresh shared g kek ready
  have first : shared = shareReady s := rfl
  have second : kek = kekReady pufOk fresh shared := rfl
  have third : ready = vaultReady kek := rfl
  rw [← first, ← second, ← third]
  clear_value ready
  rfl

theorem shareReady_frame (s : State) : (shareReady s).grn = s.grn ∧ (shareReady s).mem = s.mem ∧ (shareReady s).sys = s.sys ∧
    (shareReady s).seed = s.seed := by
  unfold shareReady
  split <;> simp

theorem shareValue_shareReady (s : State) :
    (shareValue s ≠ 0 → shareValue (shareReady s) = shareValue s) ∧ (shareValue s = 0 → shareValue (shareReady s) ≠ 0) := by
  unfold shareReady
  refine ⟨fun some => by rw [decide_eq_false some]; rfl, fun none => ?_⟩
  rw [decide_eq_true none, if_pos rfl]
  dsimp only
  rw [shareValue_setShare]
  exact drawNonzero_ne s

theorem onlyOwners_vaultReady (u : State) : OnlyOwners u (vaultReady u) :=
  onlyOwners_trans (onlyOwners_trans (onlyOwners_unwrapRoots u) (onlyOwners_startEscrow _)) (onlyOwners_judgeOwners _)

theorem shareValue_vaultReady (u : State) : shareValue (vaultReady u) = shareValue u := by simp [shareValue, vaultReady]

/-- What the owners come to at the start, by their root records (R400, R405). -/
theorem ownerState_vaultReady (u : State) (o : Fin 64) :
    (u.grn.pufFail = true → (rootRecord u o.val).isSome = true → ownerState (vaultReady u) o = Owner.lost) ∧
    (u.sys.mode ≠ Mode.lockdown → rootRecord u o.val = none →
      ownerState (vaultReady u) o = if (ownerEntry u o.val).isSome then Owner.declared else Owner.absent) := by
  have flash : (startEscrow (unwrapRoots u)).mem.flash = u.mem.flash := by rw [flash_startEscrow]; simp
  have record := rootRecord_congr flash o.val
  have owners := onlyOwners_trans (onlyOwners_unwrapRoots u) (onlyOwners_startEscrow _)
  have puf : (startEscrow (unwrapRoots u)).grn.pufFail = u.grn.pufFail := congrArg (fun g => g.pufFail) owners
  have sys : (startEscrow (unwrapRoots u)).sys = u.sys := by simp
  have seed : (startEscrow (unwrapRoots u)).seed = u.seed := by simp
  refine ⟨fun fails recorded => ownerState_pufFail (by rw [record]; exact recorded) (puf.trans fails), fun unlocked recordless => ?_⟩
  have judged := ownerState_recordless (record.trans recordless) (by rw [sys]; exact unlocked)
  rw [vaultReady, judged]
  unfold ownerEntry seedFind seedOf
  rw [seed]

theorem mode_of_serves {s : State} (serves : granaryServes s = true) : s.sys.mode ≠ Mode.lockdown :=
  (of_decide_eq_true (Bool.and_eq_true_iff.1 serves).2).2

theorem granaryStart_starts {s : State} (pufOk : Bool) (idle : s.grn.ready = false) (serves : granaryServes s = true) :
    ∃ s', exec (.granaryStart pufOk) s = .next s' ∧ s'.grn.ready = true ∧ s'.grn.pufFail = !pufOk ∧
      (shareValue s ≠ 0 → shareValue s' = shareValue s ∧ s'.grn.shareNew = s.grn.shareNew) ∧
      (shareValue s = 0 → shareValue s' ≠ 0 ∧ s'.grn.shareNew = true) ∧
      (pufOk = false → ∀ o : Fin 64, (rootRecord s o.val).isSome = true → ownerState s' o = Owner.lost) ∧
      (∀ o : Fin 64, rootRecord s o.val = none →
        ownerState s' o = (if (ownerEntry s o.val).isSome then Owner.declared else Owner.absent)) := by
  obtain ⟨grn, mem, sys, seed⟩ := shareReady_frame s
  obtain ⟨kept, drawn⟩ := shareValue_shareReady s
  have runs : exec (.granaryStart pufOk) s = .next (granaryStartOp pufOk s) := rfl
  rw [granaryStartOp_eq idle serves] at runs
  generalize shareReady s = t at grn mem sys seed kept drawn runs
  generalize fresh : decide (shareValue s = 0) = zero at runs
  have share : shareValue (vaultReady (kekReady pufOk zero t)) = shareValue t := shareValue_vaultReady _
  have owners := onlyOwners_vaultReady (kekReady pufOk zero t)
  have puf : (vaultReady (kekReady pufOk zero t)).grn.pufFail = !pufOk := congrArg (fun g => g.pufFail) owners
  have news : (vaultReady (kekReady pufOk zero t)).grn.shareNew = (s.grn.shareNew || zero) :=
    (congrArg (fun g => g.shareNew) owners).trans (by rw [kekReady, grn])
  have judged (o : Fin 64) := ownerState_vaultReady (kekReady pufOk zero t) o
  have record (o : Nat) : rootRecord (kekReady pufOk zero t) o = rootRecord s o := rootRecord_congr (congrArg Memories.flash mem) o
  have entry (o : Nat) : ownerEntry (kekReady pufOk zero t) o = ownerEntry s o := by
    unfold ownerEntry seedFind seedOf kekReady
    dsimp only
    rw [seed]
  generalize vaultReady (kekReady pufOk zero t) = u at runs share owners puf news judged
  refine ⟨_, runs, rfl, puf, fun some => ?_, fun none => ?_, fun fails o recorded => ?_, fun o recordless => ?_⟩
  · exact ⟨share.trans (kept some), news.trans (by rw [← fresh, decide_eq_false some, Bool.or_false])⟩
  · exact ⟨fun none' => drawn none (share.symm.trans none'), news.trans (by rw [← fresh, decide_eq_true none, Bool.or_true])⟩
  · exact (judged o).1 (by rw [kekReady, fails]; rfl) (by rw [record]; exact recorded)
  · rw [← entry]
    exact (judged o).2 (by rw [kekReady, sys]; exact mode_of_serves serves) ((record o.val).trans recordless)

/-! ### Re-masking (R418, R419) -/

theorem remaskPair_value (r : W256) (p : Bool) (m : Masked) : (remaskPair r p m).d ^^^ (remaskPair r p m).q = m.d ^^^ m.q := by
  have cancels (d q x : W256) : (d ^^^ x) ^^^ (q ^^^ x) = d ^^^ q := by
    rw [BitVec.xor_assoc, BitVec.xor_comm q x, ← BitVec.xor_assoc x, BitVec.xor_self, BitVec.zero_xor]
  exact cancels ..

/-- A slot after a pass of re-masking. -/
def remaskSlot (r : W256) (p : Bool) (k : KeySlot) : KeySlot := if k.st = .free then k else { k with key := remaskPair r p k.key }

theorem remaskSlot_keeps (r : W256) (p : Bool) (k : KeySlot) :
    (remaskSlot r p k).key.d ^^^ (remaskSlot r p k).key.q = k.key.d ^^^ k.key.q ∧ (remaskSlot r p k).st = k.st ∧
    (remaskSlot r p k).id = k.id := by
  unfold remaskSlot
  split
  exacts [⟨rfl, rfl, rfl⟩, ⟨remaskPair_value .., rfl, rfl⟩]

theorem remaskSpan_pos (s : State) : 0 < remaskSpan s := by
  unfold remaskSpan
  split <;> omega

theorem tabGet_map {α : Type} (d : Option α) (f : Option α → Option α) (keeps : f d = d) (t : Tab (Option α)) (k : Nat) :
    tabGet d (t.map fun x => (x.1, f x.2)) k = f (tabGet d t k) := by
  induction t with
  | nil => exact keeps.symm
  | cons x t ih =>
    simp only [List.map_cons, tabGet]
    split
    exacts [rfl, ih]

/-- The state that a pass of re-masking leaves. -/
def remasked (r : W256) (s : State) : State :=
  let p := decide ((s.grn.periods + periodsEnded s) % 2 = 0)
  let share := remaskPair r p { d := s.bkp.share, q := s.bkp.mask }
  { s with
    draws := (draw 256 s).2.draws
    bkp := { s.bkp with share := share.d, mask := share.q }
    grn := { s.grn with
      roots := s.grn.roots.map fun x => (x.1, x.2.map (remaskPair r p))
      slots := s.grn.slots.map (remaskSlot r p)
      polarity := p, passes := satInc s.grn.passes, periods := s.grn.periods + periodsEnded s
      periodAt := s.grn.periodAt + periodsEnded s * remaskSpan s } }

theorem remaskOp_passes {s : State} (ready : s.grn.ready = true) (on : mainOn s = true)
    (ended : s.grn.periodAt + remaskSpan s ≤ s.now) : remaskOp s = remasked (draw 256 s).1 s := by
  have some : periodsEnded s ≠ 0 := by
    have := Nat.div_pos (Nat.le_sub_of_add_le' ended) (remaskSpan_pos s)
    unfold periodsEnded
    omega
  rw [remaskOp, ready, on, decide_eq_false some]
  rfl

theorem slot_remasked (r : W256) (s : State) (k : Fin 48) : vget (remasked r s).grn.slots k =
    remaskSlot r (decide ((s.grn.periods + periodsEnded s) % 2 = 0)) (vget s.grn.slots k) :=
  Vector.getElem_map ..

theorem rootOf_remasked (r : W256) (s : State) (o : Nat) : rootOf (remasked r s) o = rootOf s o := by
  unfold rootOf remasked
  dsimp only
  rw [tabGet_map none (Option.map _) rfl, Option.map_map]
  exact congrArg (fun f => Option.map f _) (funext fun m => congrArg bytes256 (remaskPair_value _ _ m))

theorem remaskPass_keeps {s : State} (ready : s.grn.ready = true) (on : mainOn s = true)
    (ended : s.grn.periodAt + remaskSpan s ≤ s.now) :
    ∃ s', exec .remaskPass s = .next s' ∧ shareValue s' = shareValue s ∧ (∀ o, rootOf s' o = rootOf s o) ∧
      (∀ k, (vget s'.grn.slots k).key.d ^^^ (vget s'.grn.slots k).key.q = (vget s.grn.slots k).key.d ^^^ (vget s.grn.slots k).key.q ∧
        (vget s'.grn.slots k).st = (vget s.grn.slots k).st ∧ (vget s'.grn.slots k).id = (vget s.grn.slots k).id) ∧
      s'.grn.polarity = decide ((s.grn.periods + (s.now - s.grn.periodAt) / remaskSpan s) % 2 = 0) ∧
      s'.grn.passes = satInc s.grn.passes := by
  refine ⟨remasked (draw 256 s).1 s, congrArg Host.Outcome.next (remaskOp_passes ready on ended),
    remaskPair_value _ _ ⟨s.bkp.share, s.bkp.mask⟩, rootOf_remasked _ s, fun k => ?_, rfl, rfl⟩
  rw [slot_remasked]
  exact remaskSlot_keeps ..

theorem remaskPass_waits {s : State} (early : s.now < s.grn.periodAt + remaskSpan s) : exec .remaskPass s = .next s := by
  have none : periodsEnded s = 0 := Nat.div_eq_of_lt (by have := remaskSpan_pos s; omega)
  have runs : exec .remaskPass s = .next (remaskOp s) := rfl
  rw [runs, remaskOp, none]
  simp

/-! ### The inversion in Backup (R419) -/

theorem backupShareInvert_keeps {s : State} (backup : s.sys.mode = Mode.backup) (free : s.bkp.held = false)
    (due : s.bkp.invertAt + 900000000000 ≤ s.now) :
    ∃ s', exec .backupShareInvert s = .next s' ∧ s'.bkp.share = ~~~s.bkp.share ∧ s'.bkp.mask = ~~~s.bkp.mask ∧
      shareValue s' = shareValue s ∧
      s' = { s with bkp := { s.bkp with share := s'.bkp.share, mask := s'.bkp.mask, invertAt := s.bkp.invertAt + 900000000000 } } := by
  have runs : exec .backupShareInvert s = execBackupShareInvert s := rfl
  rw [execBackupShareInvert, if_pos ⟨backup, by simp [free], due⟩] at runs
  refine ⟨_, runs, rfl, rfl, ?_, rfl⟩
  change ~~~s.bkp.share ^^^ ~~~s.bkp.mask = s.bkp.share ^^^ s.bkp.mask
  rw [← BitVec.not_xor_left, ← BitVec.not_xor_right, BitVec.not_not]

/-! ### Nonces' end (R434) -/

theorem nonceExpire_filters (s : State) : exec .nonceExpire s = .next { s with grn := { s.grn with
    nonces := s.grn.nonces.filter fun x => decide (s.now < x.issued + 30000000000) } } := rfl

end Sys2Proof.Machine
end

section
/-! PROOFS. How a completion reaches its caller (R261, R262, R330, R426, R474): the thread that waits in STILE, the flow's task, or
the flow's tagged operand. -/

namespace Sys2Proof.Machine

/-! ### A new entry and its descriptor (R262) -/

section
variable {e : Fin 512} {i : BitVec 2} {cell : W256} {y : DescLife} {s : State} {d : Fin 1024}
  (own : (entry s e.val).desc.toFin = d)
include own

theorem desc_joinEntry_other {x : Fin 1024} (other : x ≠ d) : desc (joinEntry e i cell y s) x = desc s x := by
  unfold joinEntry
  dsimp only
  rw [own]
  split
  · rw [desc_queueTask, if_neg other, desc_setDesc_other _ other, desc_setEntry]
  · rw [desc_setDesc_other _ other, desc_setEntry]

/-- An operand that joins sets its bit; the descriptor is Queued, or as it was. -/
theorem desc_joinEntry_same : ∃ st life, (st = .queued ∨ st = (desc s d).st) ∧
    desc (joinEntry e i cell y s) d = { desc s d with st := st, opmask := (desc s d).opmask ||| (1#4 <<< i.toNat), life := life } := by
  unfold joinEntry
  dsimp only
  rw [own]
  split
  · rw [desc_queueTask, if_pos rfl, desc_setDesc_same]
    exact ⟨_, _, .inl rfl, rfl⟩
  · rw [desc_setDesc_same]
    exact ⟨_, _, .inr rfl, rfl⟩

end

theorem desc_fillDesc_same (f : Nat) (d : Fin 1024) (x : Desc) (s : State) : desc (fillDesc f d x s) d = { x with
    flow := BitVec.ofNat 12 f, order := (flow s f).nextOrder, arrival := timeLo s
    life := { x.life with readyAt := s.drill.time.toNat, boost := 0 } } := by
  rw [fillDesc, desc_setDesc_same]

theorem desc_fillDesc_other {d e : Fin 1024} (other : e ≠ d) (f : Nat) (x : Desc) (s : State) : desc (fillDesc f d x s) e = desc s e := by
  rw [fillDesc, desc_setDesc_other _ other]
  rfl

section
variable (f : Nat) (e : Fin 512) (d : Fin 1024) (tag : Option Half) (i : BitVec 2) (cell : W256) (x : Desc) (s : State)

/-- A new entry's descriptor: its source's SRC, the flow, the tag, and the first operand's bit. -/
theorem desc_openEntry_same : (desc (openEntry f e d tag i cell x s) d).st ≠ .free ∧
    (desc (openEntry f e d tag i cell x s) d).src = x.src ∧
    (desc (openEntry f e d tag i cell x s) d).flow = BitVec.ofNat 12 f ∧
    (desc (openEntry f e d tag i cell x s) d).tag = tag.getD 0 ∧
    (desc (openEntry f e d tag i cell x s) d).opmask = 1#4 <<< i.toNat := by
  unfold openEntry
  dsimp only
  generalize opened : setEntry (fillDesc f d _ s) _ _ = u
  have own : (entry u e.val).desc.toFin = d := by
    rw [← opened, entry_setEntry_same]
    exact Fin.ext (Nat.mod_eq_of_lt d.isLt)
  have filled := congrArg (fun t => desc t d) opened
  rw [desc_setEntry, desc_fillDesc_same] at filled
  obtain ⟨st, life, standing, joined⟩ := desc_joinEntry_same (i := i) (cell := cell) (y := x.life) own
  have used : st ≠ .free := by
    rcases standing with queued | same
    · rw [queued]; exact DescState.noConfusion
    · rw [same, ← filled]; exact DescState.noConfusion
  rw [joined, ← filled]
  exact ⟨used, rfl, rfl, rfl, BitVec.zero_or⟩

theorem desc_openEntry_other {y : Fin 1024} (other : y ≠ d) : desc (openEntry f e d tag i cell x s) y = desc s y := by
  unfold openEntry
  dsimp only
  rw [desc_joinEntry_other (d := d) _ other, desc_setEntry, desc_fillDesc_other other]
  rw [entry_setEntry_same]
  exact Fin.ext (Nat.mod_eq_of_lt d.isLt)

end

/-! ### The caller's registers (R330) -/

theorem results_svcResults (t : Thread) (status : Byte) (v1 v2 : Word) (s : State) :
    ServiceResults t (status.setWidth 32) v1 v2 (svcResults t status v1 v2 0 s) := by
  obtain ⟨r4, r5, r6, r7, rest⟩ := svcResults_encl s t status v1 v2 0
  refine ⟨r4, r5, r6, fun k low high => ?_⟩
  obtain rfl | above : k = 7 ∨ 8 ≤ k.val := by omega
  exacts [r7, rest k above high]

/-! ### A completion's task (R426) -/

theorem targetTag_eq (w : Word) : targetTag w = w.extractLsb' 16 16 := by
  apply BitVec.eq_of_toNat_eq
  simp [targetTag, bitsAt]

theorem targetIndex_toNat (w : Word) : (targetIndex w).toNat = w.toNat / 4096 % 4 := by
  simp [targetIndex, bitsAt, Nat.shiftRight_eq_div_pow]

theorem donePayload_toNat (addr : Word) (status verdict : Byte) (value : Word) : (donePayload addr status verdict value).toNat =
    addr.toNat + status.toNat * 2 ^ 32 + verdict.toNat * 2 ^ 40 + value.toNat * 2 ^ 64 := by
  have a := addr.isLt
  have b := status.isLt
  have c := verdict.isLt
  have v := value.isLt
  rw [donePayload, BitVec.toNat_ofNat]
  refine Nat.mod_eq_of_lt (Nat.lt_of_lt_of_le (m := 2 ^ 97) ?_ (Nat.pow_le_pow_right (by decide) (by decide)))
  omega

/-- The payload holds the descriptor's address, the status, the verdict and the value, each in its place. -/
theorem donePayload_fields (addr : Word) (status verdict : Byte) (value : Word) :
    (donePayload addr status verdict value).extractLsb' 0 32 = addr ∧
    (donePayload addr status verdict value).extractLsb' 32 8 = status ∧
    (donePayload addr status verdict value).extractLsb' 40 8 = verdict ∧
    (donePayload addr status verdict value).extractLsb' 64 32 = value := by
  have a := addr.isLt
  have b := status.isLt
  have c := verdict.isLt
  have v := value.isLt
  refine ⟨?_, ?_, ?_, ?_⟩ <;>
  · apply BitVec.eq_of_toNat_eq
    rw [BitVec.extractLsb'_toNat, donePayload_toNat, Nat.shiftRight_eq_div_pow]
    omega

/-- A task of a flow that takes its completions as tasks. -/
theorem deliverDone_task {src : Byte} {g : Thread} {target addr : Word} {status verdict : Byte} {value : Word} {s : State}
    (plain : (flow s (target.toNat % 4096)).ready = false) {x : Fin 1024} (free : freeDesc s (target.toNat % 4096) = some x) :
    deliverDone src (.flow g target addr) status verdict value s = some (admitTask (target.toNat % 4096) x
      { src := src, payload := donePayload addr status verdict value } s) := by
  simp [deliverDone, targetFlow_eq, admitTagged, plain, free]

/-- Without a free descriptor the completion stays. -/
theorem deliverDone_waits {src : Byte} {g : Thread} {target addr : Word} {status verdict : Byte} {value : Word} {s : State}
    (plain : (flow s (target.toNat % 4096)).ready = false) (full : freeDesc s (target.toNat % 4096) = none) :
    deliverDone src (.flow g target addr) status verdict value s = none := by
  simp [deliverDone, targetFlow_eq, admitTagged, plain, full]

/-- A tagged operand that opens an entry. -/
theorem deliverDone_operand {src : Byte} {g : Thread} {target addr : Word} {status verdict : Byte} {value : Word} {s : State}
    (ready : (flow s (target.toNat % 4096)).ready = true)
    (unmatched : oldestEntry s (target.toNat % 4096) (fun m => decide (m.tag = some (target.extractLsb' 16 16))) = none)
    {e : Fin 512} {x : Fin 1024} (freeE : freeEntry s = some e) (freeD : freeDesc s (target.toNat % 4096) = some x) :
    deliverDone src (.flow g target addr) status verdict value s = some (openEntry (target.toNat % 4096) e x
      (some (targetTag target)) (targetIndex target) (operandCell (donePayload addr status verdict value) src)
      { src := src, tag := targetTag target, payload := donePayload addr status verdict value } s) := by
  rw [← targetTag_eq] at unmatched
  simp [deliverDone, targetFlow_eq, admitTagged, ready, unmatched, freeE, freeD]

end Sys2Proof.Machine
end

section
/-! PROOFS. A Granary completion read, the service that queues a thread's request (R330, R413, R426, R427, R452), and the
statement on the Granary's owners. -/

namespace Sys2Proof.Machine

/-! ### A completion read (R413, R426) -/

/-- One slot of a completion that is read: it is Cached, unless a later completion holds it. -/
def cacheSlot (later : List (Fin 48)) (s : State) (k : Fin 48) : State :=
  let x := vget s.grn.slots k
  if x.st = .transit ∧ k ∉ later then setSlot k { x with st := .cached } s else s

theorem cacheSlots_frame (later l : List (Fin 48)) (s : State) : l.foldl (cacheSlot later) s =
    { s with grn := { s.grn with slots := (l.foldl (cacheSlot later) s).grn.slots } } := by
  induction l generalizing s with
  | nil => rfl
  | cons j l ih =>
    have step : cacheSlot later s j = { s with grn := { s.grn with slots := (cacheSlot later s j).grn.slots } } := by
      unfold cacheSlot
      dsimp only
      split <;> rfl
    rw [List.foldl_cons, ih, step]

theorem slot_setSlot_ite (j k : Fin 48) (x : KeySlot) (s : State) :
    vget (setSlot j x s).grn.slots k = if k = j then x else vget s.grn.slots k := vget_vset ..

theorem st_cacheSlot_cached {later : List (Fin 48)} {s : State} {k : Fin 48} (cached : (vget s.grn.slots k).st = .cached) (j : Fin 48) :
    (vget (cacheSlot later s j).grn.slots k).st = .cached := by
  unfold cacheSlot
  dsimp only
  split
  · rw [slot_setSlot_ite]
    split
    exacts [rfl, cached]
  · exact cached

theorem cacheSlots_cached {later : List (Fin 48)} {k : Fin 48} (free : k ∉ later) {l : List (Fin 48)} {s : State}
    (standing : (vget s.grn.slots k).st = .cached ∨ ((vget s.grn.slots k).st = .transit ∧ k ∈ l)) :
    (vget (l.foldl (cacheSlot later) s).grn.slots k).st = .cached := by
  induction l generalizing s with
  | nil => exact standing.resolve_right fun listed => List.not_mem_nil listed.2
  | cons j l ih =>
    refine ih ?_
    rcases standing with cached | ⟨transit, listed⟩
    · exact .inl (st_cacheSlot_cached cached j)
    · unfold cacheSlot
      dsimp only
      by_cases own : k = j
      · subst own
        rw [if_pos ⟨transit, free⟩, slot_setSlot]
        exact .inl rfl
      · right
        split
        · rw [slot_setSlot_ite, if_neg own]
          exact ⟨transit, (List.mem_cons.1 listed).resolve_left own⟩
        · exact ⟨transit, (List.mem_cons.1 listed).resolve_left own⟩

section
variable {s : State} {d : GrnDone} {rest : List GrnDone} (head : s.grn.grc = d :: rest)
include head

/-- The head of GRC reaches its caller and leaves GRC, and its slots are Cached. -/
theorem granaryCompletion_delivers {u : State} (delivered : deliverDone 4 d.caller d.status d.verdict d.written s = some u)
    (grn : u.grn = s.grn) : ∃ s', exec .granaryCompletion s = .next s' ∧ s' = { u with grn := s'.grn, clk := s'.clk } ∧
      s'.grn.grc = rest ∧
      ∀ k ∈ d.slots, (vget s.grn.slots k).st = .transit → (∀ x ∈ rest, k ∉ x.slots) → (vget s'.grn.slots k).st = .cached := by
  have runs : exec .granaryCompletion s = execGranaryCompletion s := rfl
  rw [execGranaryCompletion, head] at runs
  dsimp only at runs
  rw [delivered] at runs
  change _ = Host.Outcome.next (qLeave 93 16 (rest.length + 1) { d.slots.foldl (cacheSlot (rest.flatMap fun x => x.slots)) u with
    grn := { (d.slots.foldl (cacheSlot (rest.flatMap fun x => x.slots)) u).grn with grc := rest } }) at runs
  have cached (k : Fin 48) (listed : k ∈ d.slots) (transit : (vget u.grn.slots k).st = .transit)
      (free : k ∉ rest.flatMap fun x => x.slots) := cacheSlots_cached free (.inr ⟨transit, listed⟩)
  have frame := cacheSlots_frame (rest.flatMap fun x => x.slots) d.slots u
  generalize d.slots.foldl (cacheSlot (rest.flatMap fun x => x.slots)) u = v at runs cached frame
  have left := eq_of_clk (qLeave_same 93 16 (rest.length + 1) { v with grn := { v.grn with grc := rest } })
  refine ⟨_, runs, ?_, ?_, fun k listed transit free => ?_⟩
  · rw [left, frame]
  · rw [left]
  · rw [left]
    refine cached k listed (by rw [grn]; exact transit) fun later => ?_
    obtain ⟨x, queued, holds⟩ := List.mem_flatMap.1 later
    exact free x queued holds

theorem granaryCompletion_thread {t : Thread} (waits : d.caller = .wait t) (inside : (thr s t).stile.isSome = true) :
    ∃ s', exec .granaryCompletion s = .next s' ∧ s'.grn.grc = rest ∧
      ServiceResults t (d.status.setWidth 32) d.written (d.verdict.setWidth 32) s' ∧ s'.mem = s.mem ∧
      (∀ u, u ≠ t → thr s' u = thr s u) ∧
      (∀ k ∈ d.slots, (vget s.grn.slots k).st = .transit → (∀ x ∈ rest, k ∉ x.slots) → (vget s'.grn.slots k).st = .cached) := by
  have delivered : deliverDone 4 d.caller d.status d.verdict d.written s =
      some (svcResults t d.status d.written (d.verdict.setWidth 32) 0 s) := by
    rw [waits, deliverDone, if_pos (.inl inside)]
  obtain ⟨s', runs, frame, read, slots⟩ := granaryCompletion_delivers head delivered (by simp)
  have own (u : Thread) : thr s' u = thr (svcResults t d.status d.written (d.verdict.setWidth 32) 0 s) u := by rw [frame]; rfl
  refine ⟨s', runs, read, ?_, by rw [frame]; simp, fun u other => ?_, slots⟩
  · rw [ServiceResults, own]
    exact results_svcResults ..
  · rw [own, svcResults_other s other]

variable {g : Thread} {target addr : Word} (names : d.caller = .flow g target addr)
include names

theorem granaryCompletion_task (plain : (flow s (target.toNat % 4096)).ready = false) {x : Fin 1024}
    (free : freeDesc s (target.toNat % 4096) = some x) :
    ∃ s', exec .granaryCompletion s = .next s' ∧ s'.grn.grc = rest ∧ (desc s' x).st = .queued ∧ (desc s' x).src = 4 ∧
      (desc s' x).flow.toNat = target.toNat % 4096 ∧ (desc s' x).payload.extractLsb' 0 32 = addr ∧
      (desc s' x).payload.extractLsb' 32 8 = d.status ∧ (desc s' x).payload.extractLsb' 40 8 = d.verdict ∧
      (desc s' x).payload.extractLsb' 64 32 = d.written ∧ OtherDescs x s s' := by
  have delivered := deliverDone_task (src := 4) (g := g) (addr := addr) (status := d.status) (verdict := d.verdict) (value := d.written)
    plain free
  rw [← names] at delivered
  obtain ⟨s', runs, frame, read, -⟩ := granaryCompletion_delivers head delivered (by simp)
  obtain ⟨address, status, verdict, value⟩ := donePayload_fields addr d.status d.verdict d.written
  have descs (y : Fin 1024) : desc s' y = desc (admitTask (target.toNat % 4096) x
      { src := 4, payload := donePayload addr d.status d.verdict d.written } s) y := by rw [frame]; rfl
  refine ⟨s', runs, read, ?_, ?_, ?_, ?_, ?_, ?_, ?_, fun y other => ?_⟩
  case refine_8 => rw [descs, desc_admitTask_other other]
  all_goals rw [descs, desc_admitTask_same]
  · exact Nat.mod_eq_of_lt (Nat.mod_lt _ (by decide))
  exacts [address, status, verdict, value]

theorem granaryCompletion_operand (ready : (flow s (target.toNat % 4096)).ready = true)
    (unmatched : oldestEntry s (target.toNat % 4096) (fun m => decide (m.tag = some (target.extractLsb' 16 16))) = none)
    {e : Fin 512} {x : Fin 1024} (freeE : freeEntry s = some e) (freeD : freeDesc s (target.toNat % 4096) = some x) :
    ∃ s', exec .granaryCompletion s = .next s' ∧ s'.grn.grc = rest ∧ (desc s' x).st ≠ .free ∧ (desc s' x).src = 4 ∧
      (desc s' x).flow.toNat = target.toNat % 4096 ∧ (desc s' x).tag = target.extractLsb' 16 16 ∧
      (desc s' x).opmask = 1#4 <<< (target.toNat / 4096 % 4) ∧ OtherDescs x s s' := by
  have delivered := deliverDone_operand (src := 4) (g := g) (addr := addr) (status := d.status) (verdict := d.verdict)
    (value := d.written) ready unmatched freeE freeD
  rw [← names] at delivered
  obtain ⟨s', runs, frame, read, -⟩ := granaryCompletion_delivers head delivered (by simp)
  have descs (y : Fin 1024) : desc s' y = desc (openEntry (target.toNat % 4096) e x (some (targetTag target)) (targetIndex target)
      (operandCell (donePayload addr d.status d.verdict d.written) 4)
      { src := 4, tag := targetTag target, payload := donePayload addr d.status d.verdict d.written } s) y := by rw [frame]; rfl
  obtain ⟨used, src, flow, tag, mask⟩ := desc_openEntry_same (target.toNat % 4096) e x (some (targetTag target)) (targetIndex target)
    (operandCell (donePayload addr d.status d.verdict d.written) 4)
    { src := 4, tag := targetTag target, payload := donePayload addr d.status d.verdict d.written } s
  refine ⟨s', runs, read, ?_, ?_, ?_, ?_, ?_, fun y other => ?_⟩ <;> rw [descs]
  · exact used
  · exact src
  · rw [flow]; exact Nat.mod_eq_of_lt (Nat.mod_lt _ (by decide))
  · rw [tag]; exact targetTag_eq target
  · rw [mask, targetIndex_toNat]
  · exact desc_openEntry_other _ _ _ _ _ _ _ _ other

theorem granaryCompletion_waits (plain : (flow s (target.toNat % 4096)).ready = false)
    (full : freeDesc s (target.toNat % 4096) = none) : exec .granaryCompletion s = .next s := by
  have refused := deliverDone_waits (src := 4) (g := g) (addr := addr) (status := d.status) (verdict := d.verdict) (value := d.written)
    plain full
  rw [← names] at refused
  have runs : exec .granaryCompletion s = execGranaryCompletion s := rfl
  rw [runs, execGranaryCompletion, head]
  dsimp only
  rw [refused]

end

end Sys2Proof.Machine
end

section
/-! PROOFS. SVC_GRANARY for a thread (R330, R427, R452), and the statement on the Granary's owners. -/

namespace Sys2Proof.Machine

section
variable {s : State} {t : Thread}

theorem pushGrq_eq (r : GrnReq) (s : State) :
    pushGrq r s = { s with grn := { s.grn with grq := s.grn.grq ++ [r] }, clk := (pushGrq r s).clk } :=
  eq_of_clk (qJoin_same ..)

/-- A call that the service answers at once: the status, zeros, and nothing of the Granary or memory. -/
theorem svcGranary_answers {c : Instr} {status : Byte} {u : State} (runs : exec c s = .next (svcResults t status 0 0 0 u))
    (grn : u.grn = s.grn) (mem : u.mem = s.mem) :
    ∃ s', exec c s = .next s' ∧ ServiceResults t (status.setWidth 32) 0 0 s' ∧ s'.grn = s.grn ∧ s'.mem = s.mem :=
  ⟨_, runs, results_svcResults .., by simp [grn], by simp [mem]⟩

/-- A call with WAIT 0 that is accepted: its request in GRQ and a credit of its flow taken. -/
theorem svcGranary_posted (r : GrnReq) (f : Nat) (s : State) :
    (svcResults t 0 0 0 0 (pushGrq r (takeCredit f s))).grn.grq = s.grn.grq ++ [r] ∧
    (flow (svcResults t 0 0 0 0 (pushGrq r (takeCredit f s))) f).taken = (flow s f).taken + 1 ∧
    (svcResults t 0 0 0 0 (pushGrq r (takeCredit f s))).mem = s.mem := by
  have push := pushGrq_eq r (takeCredit f s)
  have result := eq_of_cores (svcResults_same t 0 0 0 0 (pushGrq r (takeCredit f s)))
  have credit : (takeCredit f s).grn = s.grn := by simp
  refine ⟨?_, ?_, by simp⟩
  · rw [result, push, credit]
  · rw [result, push]
    change (flow (takeCredit f s) f).taken = _
    rw [flow_takeCredit]

variable (serves : serving s t 1 = true)
include serves

theorem svcGranary_runs : exec (.svcGranary t) s = .next (svcGranaryOp t s) := onService_serves serves _

section
variable (waits : (stileReg s t 6).getLsbD 0 = true)
include waits

theorem svcGranary_silent (silent : grnTake s (threadAsker s t (.wait t)) (stileReg s t 5).toNat = .silent) :
    exec (.svcGranary t) s = .next (svcSilent t s) := by
  rw [svcGranary_runs serves, svcGranaryOp]
  rw [waits, if_pos rfl, silent]
  rfl

theorem svcGranary_queues {r : GrnReq} (queued : grnTake s (threadAsker s t (.wait t)) (stileReg s t 5).toNat = .queued r) :
    exec (.svcGranary t) s = .next (pushGrq r s) := by
  rw [svcGranary_runs serves, svcGranaryOp]
  rw [waits, if_pos rfl, queued]
  rfl

end

section
variable (posts : (stileReg s t 6).getLsbD 0 = false)
include posts

/-- The asker of a call with WAIT 0: its completion goes to its flow. -/
def flowAsker (s : State) (t : Thread) : Asker :=
  threadAsker s t (.flow t (stileReg s t 7) (BitVec.ofNat 32 (stileReg s t 5).toNat))

theorem svcGranary_flowless (closed : completionFlowOk s (flowAsker s t) (stileReg s t 7) = false) :
    exec (.svcGranary t) s = .next (svcSilent t s) := by
  rw [svcGranary_runs serves, svcGranaryOp]
  rw [posts, if_neg Bool.false_ne_true, ← flowAsker, closed]
  rfl

theorem svcGranary_posts (flows : completionFlowOk s (flowAsker s t) (stileReg s t 7) = true) {r : GrnReq}
    (queued : grnTake s (flowAsker s t) (stileReg s t 5).toNat = .queued r) : exec (.svcGranary t) s = .next
      (if freeCredits (flow s (targetFlow (stileReg s t 7))) = 0 then
        svcResults t 1 0 0 0 (countRefusal (targetFlow (stileReg s t 7)) s)
      else svcResults t 0 0 0 0 (pushGrq r (takeCredit (targetFlow (stileReg s t 7)) s))) := by
  rw [svcGranary_runs serves, svcGranaryOp]
  rw [posts, if_neg Bool.false_ne_true, ← flowAsker, flows, queued]
  rfl

end

end

/-! ### The statement -/

theorem grnRuns_grn (s : State) (r : GrnReq) (ok : Bool) : (grnRuns s r ok).grn = { s.grn with
    grq := (grnRuns s r ok).grn.grq, nonces := (grnRuns s r ok).grn.nonces, entFail := (grnRuns s r ok).grn.entFail } := by
  rw [grnRuns_eq]

theorem ownerBegins_grn (s : State) (r : GrnReq) : (ownerBegins s r).grn = { s.grn with
    grq := (ownerBegins s r).grn.grq, nonces := (ownerBegins s r).grn.nonces, entFail := (ownerBegins s r).grn.entFail } := by
  rw [ownerBegins, killNonce]
  dsimp only
  rw [grnRuns_grn]

theorem mode_ownerBegins {s : State} {r : GrnReq} {opc : Nat} (serves : grnServes s r opc) :
    (ownerBegins s r).sys.mode ≠ Mode.lockdown := by
  obtain ⟨-, -, served, -⟩ := serves
  rw [ownerBegins, killNonce, grnRuns_eq]
  exact mode_of_serves served

theorem ownerEntry_ownerBegins (s : State) (r : GrnReq) (o : Nat) : ownerEntry (ownerBegins s r) o = ownerEntry s o := by
  rw [ownerBegins, killNonce, grnRuns_eq]
  rfl

theorem opcode_of_serves {s : State} {r : GrnReq} {opc : Nat} (serves : grnServes s r opc) : r.opc.toNat = opc := by
  obtain ⟨-, -, -, code, -⟩ := serves
  exact code

theorem may_of_authorised {s : State} {r : GrnReq} {opc : Nat} (auth : authorised s r opc) :
    mayOwner (grnRuns s r true) (grnJob s r) opc r.owner.toNat = true := by
  obtain ⟨-, may, -⟩ := auth
  exact may

section
variable {s : State} {r : GrnReq} {o : Fin 64}

/-- DELETE: carried out, and nothing of the owner is left. -/
theorem deleteCompletes (serves : grnServes s r 0x32) (auth : authorised s r 0x32)
    (work : ownerCommand (grnJob s r) (grnRuns s r true) = deleteOwner o (ownerBegins s r)) :
    ∃ s', OwnerOpDone .delete r [] s s' ∧ rootRecord s' o.val = none ∧ rootOf s' o.val = none ∧
      ownerState s' o = (if (ownerEntry s o.val).isSome then Owner.declared else Owner.absent) ∧ NoSlotOf o.val s' := by
  obtain ⟨record, root, state, slots⟩ := deleteOwner_gone o (mode_ownerBegins serves)
  have only := onlyOwners_deleteOwner o (ownerBegins s r)
  rw [show deleteOwner o (ownerBegins s r) = (performed [], (deleteOwner o (ownerBegins s r)).2) from rfl] at work
  generalize (deleteOwner o (ownerBegins s r)).2 = t at record root state slots only work
  obtain ⟨⟨_, -, -, -, -, grn⟩, -, ⟨mem, -⟩, -⟩ := grnEnds_ended r (performed []) t
  refine ⟨_, ownerOpDone_of_work (code := 0x32) rfl rfl rfl serves (may_of_authorised auth) work only, ?_, ?_, ?_, fun k => ?_⟩
  · rw [rootRecord_congr (s := t) (by rw [mem]), record]
  · rw [rootOf, grn]; exact root
  · rw [ownerState, grn, ← ownerEntry_ownerBegins s r]; exact state
  · rw [grn]
    dsimp only
    rw [vget, Vector.getElem_map, ← vget]
    split
    next busy => exact fun _ => slots k (by rw [busy]; exact SlotState.noConfusion)
    · exact slots k

end

/-- Settles O54, with each owner operation taken from its request in GRQ to its completion in GRC. -/
theorem granaryOwners : Obligations.GranaryOwners := by
  intro s
  refine ⟨fun r h => ?_, fun pufOk idle serves => granaryStart_starts pufOk idle serves, nonceExpire_filters s,
    remaskPass_keeps, remaskPass_waits, backupShareInvert_keeps, fun d rest head => ⟨fun t => granaryCompletion_thread head,
      fun g target addr names => ⟨fun plain x => granaryCompletion_task head names plain,
        fun ready unmatched e x => granaryCompletion_operand head names ready unmatched,
        granaryCompletion_waits head names⟩⟩, fun t serves => ?_⟩
  · intro o s0 s1 j
    have plain {opc : Nat} (other : opc ≠ 0x31) : ¬ (opc = 0x31 ∧ importFlag r.flags.toNat = true) := fun both => other both.1
    refine ⟨fun q listed serves may single => ?_, fun serves auth noImport state param s2 counted => ?_,
      fun serves auth state param => ?_, fun serves auth state param recorded held => ?_,
      fun serves auth param => ⟨fun opens => ?_, fun closed => ?_⟩⟩
    · have work := ownerCommand_single (j := grnJob s r) single (grnRuns s r true)
      simp only [List.mem_cons, List.not_mem_nil, or_false] at listed
      rcases listed with rfl | rfl | rfl | rfl <;>
        exact refusedCompletes rfl rfl rfl serves may work (kept_grnRuns s r true) (grnRuns_grn s r true)
    · have work := ownerCommand_authorised (opcode_of_serves serves) auth h (by rw [noImport]; exact fun both => Bool.false_ne_true both.2) state param
      obtain ⟨t, made, only⟩ := createOwner_made (grnJob s r) o counted
      exact ⟨_, ownerOpDone_of_work (code := 0x31) rfl rfl rfl serves (may_of_authorised auth) (work.trans made) only⟩
    · exact deleteCompletes serves auth (ownerCommand_authorised (opcode_of_serves serves) auth h (plain (by decide)) state param)
    · have work := ownerCommand_authorised (opcode_of_serves serves) auth h (plain (by decide)) state param
      obtain ⟨t, made, only⟩ := rebindOwner_made recorded held
      exact ⟨_, ownerOpDone_of_work (code := 0x33) rfl rfl rfl serves (may_of_authorised auth) (work.trans made) only⟩
    · have work := ownerCommand_authorised (opcode_of_serves serves) auth h (plain (by decide)) rfl param
      obtain ⟨n, t, made, only⟩ := restoreOwners_made opens
      exact ⟨_, n, ownerOpDone_of_work (code := 0x34) rfl rfl rfl serves (may_of_authorised auth) ((work.trans (if_pos opens)).trans made) only⟩
    · have work := ownerCommand_authorised (opcode_of_serves serves) auth h (plain (by decide)) rfl param
      obtain ⟨s', done, reason, -⟩ := refusedCompletes (c := .restore) (code := 0x34) rfl rfl rfl serves (may_of_authorised auth)
        (work.trans (if_neg (ne_true_of_eq_false closed))) (kept_ownerBegins s r) (ownerBegins_grn s r)
      exact ⟨s', done, reason⟩
  · intro addr wait f k
    refine ⟨fun waits => ⟨fun silent => ?_, fun r queued => ?_⟩, fun posts closed => ?_, fun posts flows r queued =>
      ⟨fun credit => ?_, fun none => ?_⟩⟩
    · rw [show k = threadAsker s t (.wait t) by simp only [k, waits, if_true]] at silent
      exact svcGranary_answers (svcGranary_silent serves waits silent) rfl rfl
    · rw [show k = threadAsker s t (.wait t) by simp only [k, waits, if_true]] at queued
      exact ⟨_, svcGranary_queues serves waits queued, pushGrq_eq r s⟩
    · rw [show k = flowAsker s t by simp only [k, posts, Bool.false_eq_true, if_false]; rfl] at closed
      exact svcGranary_answers (svcGranary_flowless serves posts closed) rfl rfl
    · rw [show k = flowAsker s t by simp only [k, posts, Bool.false_eq_true, if_false]; rfl] at flows queued
      have runs := svcGranary_posts serves posts flows queued
      rw [targetFlow_eq, if_neg credit.ne'] at runs
      exact ⟨_, runs, results_svcResults .., svcGranary_posted r _ s⟩
    · rw [show k = flowAsker s t by simp only [k, posts, Bool.false_eq_true, if_false]; rfl] at flows queued
      have runs := svcGranary_posts serves posts flows queued
      rw [targetFlow_eq, if_pos none] at runs
      exact svcGranary_answers runs (by simp) (by simp)

end Sys2Proof.Machine
end

section
/-! PROOFS. The hardware port's increment of a rotation counter (R463, R464, R466). -/

namespace Sys2Proof.Machine

/-- A half begun anew: its header is the counter's value, and its first thermometer bit is programmed (R464). -/
def beginHalf (c : Nat) (b : Bool) (s : State) : State :=
  programBit c b 0 (ldgProgram (halfBase c b)
    (leBytes 4 (counterValue s c) ++ leBytes 4 (2 ^ 32 - 1 - counterValue s c)) (ldgErase (halfBase c b) 128 s))

theorem stepCounter_eq (c : Nat) (s : State) : stepCounter c s = match activeHalf s c with
    | none => beginHalf c false s
    | some h => if halfCount s c h < 960 then programBit c h (halfCount s c h) s else beginHalf c (!h) s := by
  unfold stepCounter beginHalf
  rfl

/-! ### What an increment leaves (R463) -/

theorem halfBase_inside (c : Nat) (b : Bool) : 0x10000 + 256 * c ≤ halfBase c b ∧ halfBase c b + 128 ≤ 0x10000 + 256 * c + 256 := by
  unfold halfBase
  split <;> omega

theorem programBit_but (c : Nat) (b : Bool) {k : Nat} (inside : k < 960) (s : State) :
    LedgerBut (0x10000 + 256 * c) 256 s (programBit c b k s) := by
  obtain ⟨low, high⟩ := halfBase_inside c b
  exact ledgerBut_mono (ldgProgram_but _ _ s) (by omega) (by simp; omega)

theorem beginHalf_but (c : Nat) (b : Bool) (s : State) : LedgerBut (0x10000 + 256 * c) 256 s (beginHalf c b s) := by
  obtain ⟨low, high⟩ := halfBase_inside c b
  have erased : LedgerBut (0x10000 + 256 * c) 256 s (ldgErase (halfBase c b) 128 s) :=
    ledgerBut_mono (ldgErase_but _ _ s) (by omega) (by omega)
  have headed : LedgerBut (0x10000 + 256 * c) 256 (ldgErase (halfBase c b) 128 s) (ldgProgram (halfBase c b)
      (leBytes 4 (counterValue s c) ++ leBytes 4 (2 ^ 32 - 1 - counterValue s c)) (ldgErase (halfBase c b) 128 s)) :=
    ledgerBut_mono (ldgProgram_but _ _ _) (by omega) (by simp; omega)
  exact ledgerBut_trans (ledgerBut_trans erased headed) (programBit_but c b (by decide) _)

/-- The other half reads as before. -/
theorem ldgRead_beginHalf_other (c : Nat) (b : Bool) (s : State) {a n : Nat}
    (apart : a + n ≤ halfBase c b ∨ halfBase c b + 128 ≤ a) : ldgRead (beginHalf c b s) a n = ldgRead s a n := by
  rw [beginHalf, ldgRead_programBit c b 0 _ (by omega)]
  unfold ldgRead ldgProgram ldgErase
  dsimp only
  rw [memBytes_memStore_apart ledgerBlank _ _ _ _ _ (by simp; omega), memBytes_memErase_apart ledgerBlank _ _ _ _ _ (by omega)]

section
variable (c : Nat) (b : Bool) (s : State)

theorem halfBase_apart {o n : Nat} (inside : o + n ≤ 128) :
    halfBase c (!b) + o + n ≤ halfBase c b ∨ halfBase c b + 128 ≤ halfBase c (!b) + o := by
  unfold halfBase
  cases b <;> (simp only [Bool.not_false, Bool.not_true, Bool.false_eq_true, if_true, if_false]; omega)

theorem halfHeader_beginHalf_other : halfHeader (beginHalf c b s) c (!b) = halfHeader s c (!b) := by
  have header := ldgRead_beginHalf_other c b s (halfBase_apart c b (o := 0) (n := 4) (by decide))
  rw [Nat.add_zero] at header
  rw [halfHeader, header, ← halfHeader]

theorem halfValid_beginHalf_other : halfValid (beginHalf c b s) c (!b) = halfValid s c (!b) := by
  rw [halfValid, halfHeader_beginHalf_other, ldgRead_beginHalf_other c b s (halfBase_apart c b (by decide)), ← halfValid]

theorem halfValue_beginHalf_other : halfValue (beginHalf c b s) c (!b) = halfValue s c (!b) := by
  rw [halfValue, halfHeader_beginHalf_other, halfCount, ldgRead_beginHalf_other c b s (halfBase_apart c b (by decide)), ← halfCount,
    ← halfValue]

/-- The half begun holds its two header words. -/
theorem header_beginHalf : ldgRead (beginHalf c b s) (halfBase c b) 4 = leBytes 4 (counterValue s c) ∧
    ldgRead (beginHalf c b s) (halfBase c b + 4) 4 = leBytes 4 (2 ^ 32 - 1 - counterValue s c) := by
  have whole := memBytes_memStore_same ledgerBlank (ldgErase (halfBase c b) 128 s).mem.ledger (halfBase c b)
    (leBytes 4 (counterValue s c) ++ leBytes 4 (2 ^ 32 - 1 - counterValue s c))
  rw [List.length_append, leBytes_length, leBytes_length, memBytes_add] at whole
  obtain ⟨first, second⟩ := List.append_inj whole (by simp)
  rw [beginHalf, ldgRead_programBit c b 0 _ (by omega), ldgRead_programBit c b 0 _ (by omega)]
  exact ⟨first, second⟩

theorem halfCount_beginHalf : halfCount (beginHalf c b s) c b = 1 := by
  have erased (j : Nat) (inside : j < 960) : thermBit (ldgProgram (halfBase c b)
      (leBytes 4 (counterValue s c) ++ leBytes 4 (2 ^ 32 - 1 - counterValue s c)) (ldgErase (halfBase c b) 128 s)).mem.ledger
      (halfBase c b + 8) j = true := by
    unfold thermBit ldgProgram ldgErase
    dsimp only
    rw [tabGet_memStore_outside ledgerBlank _ _ _ _ (by simp),
      tabGet_memErase_inside ledgerBlank _ _ _ _ (by omega)]
    have byte := Nat.mod_lt j (show 0 < 8 by decide)
    generalize j % 8 = i at byte
    interval_cases i <;> decide
  refine thermCount_eq _ _ 120 1 (fun j first => ?_) (by decide) fun _ => ?_
  · obtain rfl : j = 0 := by omega
    rw [beginHalf, thermBit_programBit]
    rfl
  · rw [beginHalf, thermBit_programBit, erased 1 (by decide)]
    rfl

end

/-! ### The counter rises (R464) -/

section
variable {c : Nat} {s : State} (below : counterValue s c < 2 ^ 32 - 1)
include below

theorem halfValue_beginHalf (b : Bool) : halfValid (beginHalf c b s) c b = true ∧
    halfValue (beginHalf c b s) c b = counterValue s c + 1 := by
  obtain ⟨base, complement⟩ := header_beginHalf c b s
  have header : halfHeader (beginHalf c b s) c b = counterValue s c := by
    rw [halfHeader, base, leNat_leBytes, Nat.mod_eq_of_lt (by omega)]
  refine ⟨?_, by rw [halfValue, header, halfCount_beginHalf]⟩
  rw [halfValid, header, complement, leNat_leBytes, Nat.mod_eq_of_lt (by omega)]
  exact decide_eq_true (by omega)

/-- A half begun anew raises the counter by one, the other half standing no higher than the counter. -/
theorem counterValue_beginHalf (b : Bool) : counterValue (beginHalf c b s) c = counterValue s c + 1 := by
  obtain ⟨valid, value⟩ := halfValue_beginHalf below b
  have others : (if halfValid (beginHalf c b s) c (!b) then halfValue (beginHalf c b s) c (!b) else 0) ≤ counterValue s c := by
    rw [halfValid_beginHalf_other, halfValue_beginHalf_other]
    split
    next valid => exact halfValue_le_counterValue valid
    · exact Nat.zero_le _
  generalize counterValue s c = v at value others
  unfold counterValue
  cases b <;> simp_all <;> omega

/-- One increment, within the half in use or into the other. -/
theorem counterValue_stepCounter (room : ∀ h, activeHalf s c = some h →
      halfCount s c h = 960 ∨ (halfCount s c h < 960 ∧ halfClean s c h)) :
    counterValue (stepCounter c s) c = counterValue s c + 1 := by
  cases active : activeHalf s c with
  | none => rw [stepCounter_eq, active]; exact counterValue_beginHalf below false
  | some h =>
    rcases room h active with full | ⟨some, clean⟩
    · rw [stepCounter_eq, active]
      dsimp only
      rw [if_neg (by omega)]
      exact counterValue_beginHalf below _
    · obtain ⟨-, -, -, value⟩ := stepCounter_rises active clean some
      exact value

end

theorem stepCounter_but (c : Nat) (s : State) : LedgerBut (0x10000 + 256 * c) 256 s (stepCounter c s) := by
  rw [stepCounter_eq]
  split
  · exact beginHalf_but c false s
  · split
    next some => exact programBit_but c _ some s
    · exact beginHalf_but c _ s

/-! ### The command (R466, R469) -/

theorem eq_of_mem {s s' : State} (same : SameBut_mem s s') : s' = { s with mem := s'.mem } := by
  cases s'; simp_all [SameBut_mem]

section
variable {s : State} {c : Fin 4} (on : mainOn s = true) (port : c.val ≠ 0)
include on port

theorem counterIncrement_runs : exec (.counterIncrement c) s = .next (incrementCounter c.val s).2 :=
  congrArg Host.Outcome.next (if_neg (not_or.2 ⟨port, not_not_intro on⟩))

theorem counterIncrement_rises (open' : ldgProtected s 2 = false) (below : counterValue s c.val < 2 ^ 32 - 1)
    (room : ∀ h, activeHalf s c.val = some h → halfCount s c.val h = 960 ∨ (halfCount s c.val h < 960 ∧ halfClean s c.val h)) :
    ∃ s', exec (.counterIncrement c) s = .next s' ∧ counterValue s' c.val = counterValue s c.val + 1 ∧
      LedgerBut (0x10000 + 256 * c.val) 256 s s' ∧ s' = { s with mem := s'.mem } := by
  have runs := counterIncrement_runs on port
  rw [incrementCounter, if_neg (by omega), open', if_neg Bool.false_ne_true] at runs
  dsimp only at runs
  exact ⟨_, runs, counterValue_stepCounter below room, stepCounter_but .., eq_of_mem (stepCounter_same ..)⟩

theorem counterIncrement_protected (room : counterValue s c.val ≠ 2 ^ 32 - 1) (closed : ldgProtected s 2 = true) :
    exec (.counterIncrement c) s = .next { s with ldg := { s.ldg with protDrops := satInc s.ldg.protDrops } } := by
  rw [counterIncrement_runs on port, incrementCounter, if_neg room, if_pos closed]
  rfl

end

end Sys2Proof.Machine
end

section
/-! PROOFS. The patrol, the start pass, the ledger's completions and its service (R330, R331, R426, R467, R468, R474, R475), and the
statement on the ledger's upkeep. -/

namespace Sys2Proof.Machine

/-! ### Records in a state whose counts alone differ -/

section
variable {s s' : State} (mem : s'.mem = s.mem) (bad : s'.ldg.bad = s.ldg.bad)
include mem bad

theorem recordSlot_congr (part r : Nat) : recordSlot s' part r = recordSlot s part r := by
  have bytes (k : Nat) : slotBytesAt s' part k = slotBytesAt s part k := by rw [slotBytesAt, ldgRead, mem]; rfl
  have valid (k : Nat) : slotValid s' part k = slotValid s part k := by
    simp only [slotValid, slotProgrammed, bytes, mem, bad]
  have seq (k : Nat) : slotSeq s' part k = slotSeq s part k := by simp only [slotSeq, slotNum, bytes]
  simp only [recordSlot, valid, seq]

theorem recordTarget_congr (part r : Nat) : recordTarget s' part r = recordTarget s part r := by
  have seq (k : Nat) : slotSeq s' part k = slotSeq s part k := by
    rw [slotSeq, slotNum, slotBytesAt, ldgRead, mem]; rfl
  simp only [recordTarget, recordSlot_congr mem bad, seq]

end

/-- Of the ledger's standing, a slot's writing changes the marks of bad and logged slots alone. -/
theorem putSlot_ldg (part slot : Nat) (bs : List Byte) (s : State) : (putSlot part slot bs s).ldg =
    { s.ldg with bad := (putSlot part slot bs s).ldg.bad, logged := (putSlot part slot bs s).ldg.logged } := rfl

/-! ### A record rewritten (R467) -/

/-- The image of a record's next copy: its own fields, the next SEQ. -/
def refreshed (s : State) (part k seq : Nat) : List Byte :=
  makeSlot (leNat ((slotBytesAt s part k).take 2)) (leNat (((slotBytesAt s part k).drop 2).take 1))
    (leNat (((slotBytesAt s part k).drop 3).take 1)) (seq % 2 ^ 32) (leNat (((slotBytesAt s part k).drop 8).take 6))
    ((slotBytesAt s part k).drop 16)

theorem recordTarget_seq {s : State} {part r k : Nat} (inForce : recordSlot s part r = some k) :
    (recordTarget s part r).2 = slotSeq s part k + 1 := by
  rw [recordTarget, inForce]

theorem refreshRecord_eq {s : State} {part r k : Nat} (inForce : recordSlot s part r = some k) : refreshRecord part r s =
    putSlot part (recordTarget s part r).1 (refreshed s part k (slotSeq s part k + 1)) s := by
  rw [← recordTarget_seq inForce, refreshRecord, inForce]
  rfl

theorem makeSlot_data (id len flags seq stamp : Nat) {data : List Byte} (full : data.length = 48) :
    (makeSlot id len flags seq stamp data).drop 16 = data := by
  unfold makeSlot
  dsimp only
  rw [List.drop_left' (by simp [beBytes])]
  exact List.take_left' full

theorem makeSlot_seq (id len flags seq stamp : Nat) (data : List Byte) :
    leNat (((makeSlot id len flags seq stamp data).drop 4).take 4) = seq % 2 ^ 32 := by
  unfold makeSlot
  dsimp only
  simp only [List.append_assoc]
  rw [← List.append_assoc, ← List.append_assoc, List.drop_left' (by simp), List.take_left' (by simp), leNat_leBytes]
  rfl

theorem slotBytesAt_length (s : State) (part slot : Nat) : (slotBytesAt s part slot).length = 64 := memBytes_length ..

/-! ### The patrol (R467, R468) -/

theorem ledgerBut_of_start {a n : Nat} {r s s' : State} (but : LedgerBut a n r s') (start : r.mem = s.mem) : LedgerBut a n s s' := by
  unfold LedgerBut at but ⊢
  rwa [start] at but

/-- Record 1 is written into the slot not in force. -/
theorem writePatrol_but (ended : Bool) (s : State) : LedgerBut (slotBase 0 (recordTarget s 0 1).1) 64 s (writePatrol ended s) :=
  ledgerBut_of_mem (writeRecord_but 0 1 9 _ s) rfl

/-- At a pass's end record 1 holds the next row and the time of the end (R468). -/
theorem writePatrol_reads (s : State) : slotBytesAt (writePatrol true s) 0 (recordTarget s 0 1).1 =
    makeSlot 1 9 (bit s.bkp.cal.valid) ((recordTarget s 0 1).2 % 2 ^ 32) s.bkp.cal.sec.toNat
      (leBytes 2 s.ldg.row.toNat ++ leBytes 6 s.bkp.cal.sec.toNat ++ leBytes 1 (bit s.bkp.cal.valid)) :=
  writeRecord_reads 0 1 9 _ s

/-- A record's writing leaves the patrol's row, its counts and the pass due. -/
theorem writePatrol_ldg (ended : Bool) (s : State) : (writePatrol ended s).ldg.row = s.ldg.row ∧
    (writePatrol ended s).ldg.rewrites = s.ldg.rewrites ∧ (writePatrol ended s).ldg.passDue = s.ldg.passDue := ⟨rfl, rfl, rfl⟩

section
variable {s : State} (patrols : patrolRuns s = true) (plain : limpReason s 2 = false)
include patrols plain

/-- A visit: the row it stands at, then the next, and record 1 at every 64th. -/
theorem patrolVisit_runs (weak : Bool) : exec (.patrolVisit weak) s = .next
    (let s1 := if weak then refreshRow s.ldg.row.toNat s else s
    let next := (s.ldg.row.toNat + 1) % 1536
    let s2 := { s1 with ldg := { s1.ldg with row := BitVec.ofNat 11 next, visits := s1.ldg.visits + 1 } }
    if next % 64 = 0 ∧ ¬ ldgHalted s2 then writePatrol (decide (next = 0)) s2 else s2) := by
  have halted : ldgHalted s = false := plain
  have runs : exec (.patrolVisit weak) s = execPatrolVisit weak s := rfl
  rw [runs, execPatrolVisit, patrols, if_neg (by decide)]
  simp only [halted, Bool.false_eq_true, false_and, if_false]

/-- A visit whose next row is no multiple of 64. -/
theorem patrolVisit_steps (weak : Bool) (low : s.ldg.row.toNat < 1536) (within : (s.ldg.row.toNat + 1) % 64 ≠ 0) :
    ∃ s', exec (.patrolVisit weak) s = .next s' ∧ s'.ldg.row.toNat = s.ldg.row.toNat + 1 ∧
      s' = { (if weak then refreshRow s.ldg.row.toNat s else s) with ldg := s'.ldg } ∧
      s'.ldg.rewrites = (if weak then refreshRow s.ldg.row.toNat s else s).ldg.rewrites := by
  have runs := patrolVisit_runs patrols plain weak
  dsimp only at runs
  have next : (s.ldg.row.toNat + 1) % 1536 = s.ldg.row.toNat + 1 := Nat.mod_eq_of_lt (by omega)
  rw [next, if_neg (fun both => within both.1)] at runs
  exact ⟨_, runs, Nat.mod_eq_of_lt (by omega), rfl, rfl⟩

theorem patrolVisit_wraps (last : s.ldg.row.toNat = 1535) : ∃ s', exec (.patrolVisit false) s = .next s' ∧ s'.ldg.row = 0 ∧
    LedgerBut (slotBase 0 (recordTarget s 0 1).1) 64 s s' := by
  have runs := patrolVisit_runs patrols plain false
  dsimp only at runs
  rw [last, if_pos ⟨rfl, ne_true_of_eq_false plain⟩] at runs
  obtain ⟨row, -, -⟩ := writePatrol_ldg (decide ((1535 + 1) % 1536 = 0))
    { s with ldg := { s.ldg with row := BitVec.ofNat 11 ((1535 + 1) % 1536), visits := s.ldg.visits + 1 } }
  refine ⟨_, runs, row, ?_⟩
  have target := recordTarget_congr (s := s) (s' := { s with ldg := { s.ldg with
    row := BitVec.ofNat 11 ((1535 + 1) % 1536), visits := s.ldg.visits + 1 } }) rfl rfl 0 1
  rw [← target]
  exact ledgerBut_of_start (writePatrol_but _ _) rfl

/-- A weak row of P0: its record is rewritten with its own fields and the next SEQ. -/
theorem patrolVisit_refreshes {k : Nat} (low : s.ldg.row.toNat < 512) (within : (s.ldg.row.toNat + 1) % 64 ≠ 0)
    (inForce : recordSlot s 0 (s.ldg.row.toNat / 4) = some k) :
    ∃ s', exec (.patrolVisit true) s = .next s' ∧ s'.ldg.rewrites = satInc s.ldg.rewrites ∧
      LedgerBut (slotBase 0 (recordTarget s 0 (s.ldg.row.toNat / 4)).1) 64 s s' ∧
      ((slotBytesAt s' 0 (recordTarget s 0 (s.ldg.row.toNat / 4)).1).drop 16) = (slotBytesAt s 0 k).drop 16 ∧
      (slotNum s' 0 (recordTarget s 0 (s.ldg.row.toNat / 4)).1 4 4) = (slotSeq s 0 k + 1) % 2 ^ 32 := by
  obtain ⟨s', runs, -, frame, rewrites⟩ := patrolVisit_steps patrols plain true (by omega) within
  have row : refreshRow s.ldg.row.toNat s = { refreshRecord 0 (s.ldg.row.toNat / 4) s with
      ldg := (refreshRow s.ldg.row.toNat s).ldg } := by
    rw [refreshRow, if_pos low]
  rw [if_pos rfl, row] at frame
  have length : (refreshed s 0 k (slotSeq s 0 k + 1)).length = 64 := makeSlot_length ..
  have bytes : slotBytesAt s' 0 (recordTarget s 0 (s.ldg.row.toNat / 4)).1 = refreshed s 0 k (slotSeq s 0 k + 1) := by
    rw [← putSlot_reads 0 _ length s, ← refreshRecord_eq inForce, frame]
    rfl
  refine ⟨s', runs, ?_, ?_, ?_, ?_⟩
  · rw [rewrites, if_pos rfl, refreshRow, if_pos low, refreshRecord_eq inForce]
    rfl
  · have written := putSlot_but 0 (recordTarget s 0 (s.ldg.row.toNat / 4)).1 length s
    rw [← refreshRecord_eq inForce] at written
    exact ledgerBut_of_mem written (by rw [frame])
  · rw [bytes]
    exact makeSlot_data _ _ _ _ _ (by rw [List.length_drop, slotBytesAt_length])
  · rw [slotNum, bytes]
    exact (makeSlot_seq ..).trans (Nat.mod_mod ..)

end

/-! ### The start pass (R468) -/

/-- The patrol at row 0 again, and no pass due. -/
def passedRows (s : State) : State := { s with ldg := { s.ldg with row := 0, passDue := false } }

theorem startPass_passes {s : State} (on : mainOn s = true) (due : s.ldg.passDue = true) (plain : limpReason s 2 = false) :
    ∃ s', exec (.startPass []) s = .next s' ∧ s'.ldg.row = 0 ∧ s'.ldg.passDue = false ∧ s'.ldg.rewrites = s.ldg.rewrites ∧
      slotBytesAt s' 0 (recordTarget s 0 1).1 = makeSlot 1 9 (bit s.bkp.cal.valid) ((recordTarget s 0 1).2 % 2 ^ 32)
        s.bkp.cal.sec.toNat (leBytes 2 0 ++ leBytes 6 s.bkp.cal.sec.toNat ++ leBytes 1 (bit s.bkp.cal.valid)) ∧
      LedgerBut (slotBase 0 (recordTarget s 0 1).1) 64 s s' := by
  have runs : exec (.startPass []) s = execStartPass [] s := rfl
  have rows : ((List.range 1536).filter fun r => decide (r ∈ ([] : List Nat)) && !(ldgHalted s && decide (r < 512))) = [] :=
    List.filter_eq_nil_iff.2 fun r _ => by simp
  rw [execStartPass, due, on, if_neg (by decide), rows] at runs
  change _ = Host.Outcome.next (if ldgHalted (passedRows s) = true then passedRows s else writePatrol true (passedRows s)) at runs
  rw [if_neg (show ¬ ldgHalted (passedRows s) = true from ne_true_of_eq_false plain)] at runs
  have target := recordTarget_congr (s := s) (s' := passedRows s) rfl rfl 0 1
  obtain ⟨row, rewrites, passDue⟩ := writePatrol_ldg true (passedRows s)
  refine ⟨_, runs, row, passDue, rewrites, ?_, ?_⟩
  · rw [← target]
    exact writePatrol_reads _
  · rw [← target]
    exact ledgerBut_of_start (writePatrol_but _ _) rfl

theorem startPass_idle {s : State} (idle : s.ldg.passDue = false) (l : List Nat) : exec (.startPass l) s = .next s := by
  have runs : exec (.startPass l) s = execStartPass l s := rfl
  rw [runs, execStartPass, idle]
  rfl

/-! ### A completion read (R426, R474) -/

theorem popLgc_eq (s : State) : popLgc s = { s with ldg := { s.ldg with lgc := s.ldg.lgc.drop 1 }, clk := (popLgc s).clk } :=
  eq_of_clk (qLeave_same ..)

theorem desc_popLgc (s : State) (x : Fin 1024) : desc (popLgc s) x = desc s x := by rw [popLgc_eq]; rfl

theorem thr_popLgc (s : State) (t : Thread) : thr (popLgc s) t = thr s t := by rw [popLgc_eq]; rfl

theorem lgc_popLgc (s : State) : (popLgc s).ldg.lgc = s.ldg.lgc.drop 1 := by rw [popLgc_eq]

theorem takes_layImage (d : LdgDone) (s : State) : TakesBytes d.buf.toNat d.image s (layImage d s) := by
  unfold layImage
  split
  next none => rw [none]; exact takes_nil ..
  · exact takes_sramWrite ..

section
variable {s : State} {d : LdgDone} {rest : List LdgDone} (head : s.ldg.lgc = d :: rest)
include head

/-- The head of LGC reaches its caller and leaves LGC. -/
theorem ledgerCompletion_delivers {u : State} (caller : d.caller ≠ .fold)
    (delivered : deliverDone 7 d.caller d.status d.verdict d.value (layImage d s) = some u) :
    exec .ledgerCompletion s = .next (popLgc u) := by
  have runs : exec .ledgerCompletion s = execLedgerCompletion s := rfl
  rw [runs, execLedgerCompletion, head]
  dsimp only
  rw [if_neg caller, delivered]

theorem ledgerCompletion_thread {t : Thread} (waits : d.caller = .wait t) (inside : (thr s t).stile.isSome = true) :
    ∃ s', exec .ledgerCompletion s = .next s' ∧ s'.ldg.lgc = rest ∧
      ServiceResults t (d.status.setWidth 32) d.value (d.verdict.setWidth 32) s' ∧
      sramRead s' d.buf.toNat d.image.length = d.image ∧ SramBut d.buf.toNat d.image.length s s' ∧
      (∀ u, u ≠ t → thr s' u = thr s u) ∧ s'.drill = s.drill := by
  have takes := takes_layImage d s
  have same (u : Thread) : thr (layImage d s) u = thr s u := thr_of_takes takes u
  have delivered : deliverDone 7 d.caller d.status d.verdict d.value (layImage d s) =
      some (svcResults t d.status d.value (d.verdict.setWidth 32) 0 (layImage d s)) := by
    rw [waits, deliverDone, same, if_pos (.inl inside)]
  have runs := ledgerCompletion_delivers head (by rw [waits]; exact Caller.noConfusion) delivered
  have mem : (popLgc (svcResults t d.status d.value (d.verdict.setWidth 32) 0 (layImage d s))).mem = (layImage d s).mem := by simp
  have ldg : (svcResults t d.status d.value (d.verdict.setWidth 32) 0 (layImage d s)).ldg = s.ldg := by simp
  refine ⟨_, runs, ?_, ?_, ?_, sramBut_congr rfl mem (sramBut_of_takes takes), fun u other => ?_, by simp⟩
  · rw [lgc_popLgc, ldg, head]; rfl
  · rw [ServiceResults, thr_popLgc]; exact results_svcResults ..
  · rw [sramRead, mem, sram_of_takes takes]
    exact memBytes_memStore_same ..
  · rw [thr_popLgc, svcResults_other _ other, same]

theorem ledgerCompletion_fold (folds : d.caller = .fold) (prot : d.prot = true) :
    ∃ s', exec .ledgerCompletion s = .next s' ∧ s'.ldg.lgc = rest ∧ s'.chs = s.chs := by
  have runs : exec .ledgerCompletion s = execLedgerCompletion s := rfl
  rw [execLedgerCompletion, head] at runs
  dsimp only at runs
  rw [if_pos folds, if_pos (.inl prot)] at runs
  refine ⟨_, runs, ?_, by simp⟩
  rw [lgc_popLgc, head]
  rfl

section
variable {g : Thread} {target addr : Word} (names : d.caller = .flow g target addr)
  (plain : (flow s (target.toNat % 4096)).ready = false)
include names plain

theorem ledgerCompletion_task {x : Fin 1024} (free : freeDesc s (target.toNat % 4096) = some x) :
    ∃ s', exec .ledgerCompletion s = .next s' ∧ s'.ldg.lgc = rest ∧ (desc s' x).st = .queued ∧ (desc s' x).src = 7 ∧
      (desc s' x).flow.toNat = target.toNat % 4096 ∧ (desc s' x).payload.extractLsb' 0 32 = addr ∧
      (desc s' x).payload.extractLsb' 32 8 = d.status ∧ (desc s' x).payload.extractLsb' 40 8 = d.verdict ∧
      (desc s' x).payload.extractLsb' 64 32 = d.value ∧ OtherDescs x s s' := by
  have laid : (layImage d s).drill = s.drill := by simp
  have descOf (y : Fin 1024) : desc (layImage d s) y = desc s y := by rw [desc, laid]; rfl
  have freeOf : freeDesc (layImage d s) (target.toNat % 4096) = some x := by
    rw [← free]; simp only [freeDesc, descOf]
  have delivered := deliverDone_task (src := 7) (g := g) (addr := addr) (status := d.status) (verdict := d.verdict) (value := d.value)
    (s := layImage d s) (by rw [flow, laid]; exact plain) freeOf
  rw [← names] at delivered
  have runs := ledgerCompletion_delivers head (by rw [names]; exact Caller.noConfusion) delivered
  have ldg : (admitTask (target.toNat % 4096) x
      { src := 7, payload := donePayload addr d.status d.verdict d.value } (layImage d s)).ldg = s.ldg := by simp
  obtain ⟨address, status, verdict, value⟩ := donePayload_fields addr d.status d.verdict d.value
  refine ⟨_, runs, ?_, ?_, ?_, ?_, ?_, ?_, ?_, ?_, fun y other => ?_⟩
  · rw [lgc_popLgc, ldg, head]; rfl
  case refine_9 => rw [desc_popLgc, desc_admitTask_other other, descOf]
  all_goals rw [desc_popLgc, desc_admitTask_same]
  · exact Nat.mod_eq_of_lt (Nat.mod_lt _ (by decide))
  exacts [address, status, verdict, value]

theorem ledgerCompletion_waits (full : freeDesc s (target.toNat % 4096) = none) : exec .ledgerCompletion s = .next s := by
  have laid : (layImage d s).drill = s.drill := by simp
  have descOf (y : Fin 1024) : desc (layImage d s) y = desc s y := by rw [desc, laid]; rfl
  have fullOf : freeDesc (layImage d s) (target.toNat % 4096) = none := by
    rw [← full]; simp only [freeDesc, descOf]
  have refused := deliverDone_waits (src := 7) (g := g) (addr := addr) (status := d.status) (verdict := d.verdict) (value := d.value)
    (s := layImage d s) (by rw [flow, laid]; exact plain) fullOf
  rw [← names] at refused
  have runs : exec .ledgerCompletion s = execLedgerCompletion s := rfl
  rw [runs, execLedgerCompletion, head]
  dsimp only
  rw [if_neg (by rw [names]; exact Caller.noConfusion), refused]

end

end

end Sys2Proof.Machine
end

section
/-! PROOFS. SVC_LEDGER for a thread (R330, R452, R474, R475), and the statement on the ledger's upkeep. -/

namespace Sys2Proof.Machine

/-- A call that the service answers at once: the status, zeros, and nothing of the ledger. -/
theorem svcLedger_answers {c : Instr} {status : Byte} {s u : State} {t : Thread}
    (runs : exec c s = .next (svcResults t status 0 0 0 u)) (ldg : u.ldg = s.ldg) :
    ∃ s', exec c s = .next s' ∧ ServiceResults t (status.setWidth 32) 0 0 s' ∧ s'.ldg = s.ldg ∧
      s'.mem = u.mem ∧ s'.drill = u.drill ∧ s'.guard = u.guard :=
  ⟨_, runs, results_svcResults .., by simp [ldg], by simp, by simp, by simp⟩

theorem pushLgq_eq (r : LdgReq) (s : State) :
    pushLgq r s = { s with ldg := { s.ldg with lgq := s.ldg.lgq ++ [r] }, clk := (pushLgq r s).clk } :=
  eq_of_clk (qJoin_same ..)

/-- A call with WAIT 0 that is accepted: its request in LGQ and a credit of its flow taken. -/
theorem svcLedger_posted (t : Thread) (r : LdgReq) (f : Nat) (s : State) :
    (svcResults t 0 0 0 0 (pushLgq r (takeCredit f s))).ldg.lgq = s.ldg.lgq ++ [r] ∧
    (flow (svcResults t 0 0 0 0 (pushLgq r (takeCredit f s))) f).taken = (flow s f).taken + 1 ∧
    (svcResults t 0 0 0 0 (pushLgq r (takeCredit f s))).mem = s.mem := by
  have push := pushLgq_eq r (takeCredit f s)
  have result := eq_of_cores (svcResults_same t 0 0 0 0 (pushLgq r (takeCredit f s)))
  have credit : (takeCredit f s).ldg = s.ldg := by simp
  refine ⟨?_, ?_, by simp⟩
  · rw [result, push, credit]
  · rw [result, push]
    change (flow (takeCredit f s) f).taken = _
    rw [flow_takeCredit]

section
variable {s : State} {t : Thread} (serves : serving s t 2 = true)
include serves

theorem svcLedger_runs : exec (.svcLedger t) s = .next (svcLedgerOp t s) := onService_serves serves _

/-- With WAIT 1: what the thread's call comes to. -/
theorem svcLedger_waits (waits : (stileReg s t 6).getLsbD 0 = true) : exec (.svcLedger t) s = .next
    (match ldgTake s (threadAsker s t (.wait t)) (stileReg s t 5).toNat with
    | .silent => svcSilent t s
    | .violation => svcSilent t (violateSrc t.val .block (BitVec.ofNat 32 (stileReg s t 5).toNat) true false s)
    | .busy => svcResults t 1 0 0 0 s
    | .queued r => pushLgq r s) := by
  rw [svcLedger_runs serves, svcLedgerOp, waits, if_pos rfl]
  rfl

/-- With WAIT 0: a call whose flow takes no completion of its caller is answered with zeros. -/
theorem svcLedger_flowless (posts : (stileReg s t 6).getLsbD 0 = false)
    (closed : completionFlowOk s (flowAsker s t) (stileReg s t 7) = false) : exec (.svcLedger t) s = .next (svcSilent t s) := by
  rw [svcLedger_runs serves, svcLedgerOp, posts, if_neg Bool.false_ne_true, ← flowAsker, closed]
  rfl

theorem svcLedger_posts (posts : (stileReg s t 6).getLsbD 0 = false)
    (flows : completionFlowOk s (flowAsker s t) (stileReg s t 7) = true) {r : LdgReq}
    (queued : ldgTake s (flowAsker s t) (stileReg s t 5).toNat = .queued r) : exec (.svcLedger t) s = .next
      (if freeCredits (flow s (targetFlow (stileReg s t 7))) = 0 then
        svcResults t 1 0 0 0 (countRefusal (targetFlow (stileReg s t 7)) s)
      else svcResults t 0 0 0 0 (pushLgq r (takeCredit (targetFlow (stileReg s t 7)) s))) := by
  rw [svcLedger_runs serves, svcLedgerOp, posts, if_neg Bool.false_ne_true, ← flowAsker, flows, queued]
  rfl

end

/-- A refused form counts a violation of code 2 by the thread (R331, R475). -/
theorem guard_violateSrc_block (t : Thread) (a : Word) (s : State) :
    (violateSrc t.val .block a true false s).guard.vlastSrc.toNat = t.val ∧
    (violateSrc t.val .block a true false s).guard.vlastKind = 2 := by
  rw [violateSrc, dif_pos (by omega)]
  exact ⟨Nat.mod_eq_of_lt (by omega), rfl⟩

/-- Settles O56, with each of the ledger's rows by the lemma on its command. -/
theorem ledgerUpkeep : Obligations.LedgerUpkeep := by
  intro s on
  refine ⟨fun c port open' below room => counterIncrement_rises on port open' below room,
    fun c port room closed => counterIncrement_protected on port room closed, fun patrols plain => ?_,
    startPass_passes on, startPass_idle, fun d rest head => ⟨fun t => ledgerCompletion_thread head, fun g target addr names plain =>
      ⟨fun x => ledgerCompletion_task head names plain, ledgerCompletion_waits head names plain⟩, ledgerCompletion_fold head⟩,
    fun t serves => ?_⟩
  · intro row
    refine ⟨fun low within => ⟨?_, fun high => ?_, fun k inP0 inForce => patrolVisit_refreshes patrols plain inP0 within inForce⟩,
      patrolVisit_wraps patrols plain⟩
    · obtain ⟨s', runs, next, frame, rewrites⟩ := patrolVisit_steps patrols plain false low within
      exact ⟨s', runs, next, rewrites, frame⟩
    · obtain ⟨s', runs, next, frame, rewrites⟩ := patrolVisit_steps patrols plain true low within
      have refreshed : refreshRow s.ldg.row.toNat s = { s with ldg := { s.ldg with rewrites := satInc s.ldg.rewrites } } := by
        rw [refreshRow, if_neg (Nat.not_lt.2 high)]
      rw [if_pos rfl, refreshed] at frame rewrites
      exact ⟨s', runs, next, rewrites, frame⟩
  · intro addr k
    refine ⟨fun waits => ?_, fun posts => ?_⟩
    · have runs := svcLedger_waits serves waits
      refine ⟨fun silent => ?_, fun violation => ?_, fun busy => ?_, fun r queued => ?_⟩
      · rw [silent] at runs
        obtain ⟨s', ran, results, ldg, mem, -⟩ := svcLedger_answers runs rfl
        exact ⟨s', ran, results, ldg, mem⟩
      · rw [violation] at runs
        obtain ⟨s', ran, results, ldg, -, -, guard⟩ := svcLedger_answers runs (by simp)
        refine ⟨s', ran, results, ldg, ?_⟩
        rw [guard]
        exact guard_violateSrc_block ..
      · rw [busy] at runs
        obtain ⟨s', ran, results, ldg, -⟩ := svcLedger_answers runs rfl
        exact ⟨s', ran, results, ldg⟩
      · rw [queued] at runs
        exact ⟨_, runs, pushLgq_eq r s⟩
    · intro f k
      refine ⟨fun closed => ?_, fun r flows queued => ⟨fun credit => ?_, fun none => ?_⟩⟩
      · obtain ⟨s', ran, results, ldg, -, drill, -⟩ := svcLedger_answers (svcLedger_flowless serves posts closed) rfl
        exact ⟨s', ran, results, ldg, drill⟩
      · have runs := svcLedger_posts serves posts flows queued
        rw [targetFlow_eq, if_neg credit.ne'] at runs
        exact ⟨_, runs, results_svcResults .., svcLedger_posted t r _ s⟩
      · have runs := svcLedger_posts serves posts flows queued
        rw [targetFlow_eq, if_pos none] at runs
        obtain ⟨s', ran, results, ldg, mem, -⟩ := svcLedger_answers runs (by simp)
        exact ⟨s', ran, results, ldg, by rw [mem]; simp⟩

end Sys2Proof.Machine
end

section
/-! PROOFS. A bay's doorbells and the fetches that they let out (R374 to R376). -/

namespace Sys2Proof.Machine

/-! ### What fetches leave of the SQs (R376) -/

theorem sqOf_of_queues {b : Bay} {l : List HostItem} {s s' : State} (queued : Queues b l s s') (k : Fin 16) :
    sqOf s' b k = sqOf s b k := by
  obtain ⟨-, -, _, own⟩ := queued
  rw [sqOf, own]; rfl

theorem cqOf_of_queues {b : Bay} {l : List HostItem} {s s' : State} (queued : Queues b l s s') (k : Fin 16) :
    cqOf s' b k = cqOf s b k := by
  obtain ⟨-, -, _, own⟩ := queued
  rw [cqOf, own]; rfl

theorem sqOf_reserve (b : Bay) (q k : Fin 16) (n : Nat) (s : State) :
    sqOf (reserve b q n s) b k = if k = q then { sqOf s b q with fetching := n } else sqOf s b k := by
  rw [sqOf, bay_reserve, if_pos rfl]
  exact vget_vset ..

theorem cqOf_reserve (b : Bay) (q k : Fin 16) (n : Nat) (s : State) : cqOf (reserve b q n s) b k =
    if k = (sqOf s b q).cqid.toFin then { cqOf s b k with reserved := (cqOf s b k).reserved + n } else cqOf s b k := by
  rw [cqOf, bay_reserve, if_pos rfl]
  dsimp only
  rw [vget_vset]
  split
  next same => rw [same]
  · rfl

/-- A fetch turn's read, of its queue's next entries. -/
def turnReads (b : Bay) (q : Fin 16) (s : State) : State :=
  sendReads b (maxRead (reserve b q (fetchSize s b q) s) b) 8 ((sqOf s b q).base + BitVec.ofNat 64 (64 * (sqOf s b q).head.toNat))
    (64 * fetchSize s b q) (reserve b q (fetchSize s b q) s)

theorem fetchTurn_eq (b : Bay) (s : State) : fetchTurn b s =
    ((turnOrder (bay s b).turn).find? fun q => decide (0 < fetchSize s b q)).map fun q => turnReads b q s := rfl

theorem turnReads_queues (b : Bay) (q : Fin 16) (s : State) :
    ∃ l, Queues b l (reserve b q (fetchSize s b q) s) (turnReads b q s) := sendReads_queues ..

/-- Fetches change an SQ in the count of its entries on their way alone. -/
theorem pumpFetch_sq (b : Bay) (s : State) (k : Fin 16) : ∃ n, sqOf (pumpFetch b s) b k = { sqOf s b k with fetching := n } := by
  have turn {s s' : State} (turned : fetchTurn b s = some s') : ∃ n, sqOf s' b k = { sqOf s b k with fetching := n } := by
    obtain ⟨q, -, rfl⟩ := Option.map_eq_some_iff.mp (fetchTurn_eq b s ▸ turned)
    obtain ⟨_, queued⟩ := turnReads_queues b q s
    rw [sqOf_of_queues queued, sqOf_reserve]
    split
    next own => rw [own]; exact ⟨_, rfl⟩
    · exact ⟨_, rfl⟩
  suffices ∀ m s, ∃ n, sqOf (pumpFetchN b m s) b k = { sqOf s b k with fetching := n } from this 16 s
  intro m
  induction m with
  | zero => exact fun s => ⟨_, rfl⟩
  | succ m ih =>
    intro s
    unfold pumpFetchN
    split
    · exact ⟨_, rfl⟩
    next s' turned =>
      obtain ⟨_, first⟩ := turn turned
      obtain ⟨n, rest⟩ := ih s'
      exact ⟨n, by rw [rest, first]⟩

theorem pumpFetch_cmds (b : Bay) (s : State) : (bay (pumpFetch b s) b).cmds = (bay s b).cmds := by
  obtain ⟨-, cmds, -, -⟩ := pumpFetch_keepsEntries b s
  exact cmds

/-! ### The queue whose turn it is (R376) -/

theorem mem_turnOrder (k q : Fin 16) : q ∈ turnOrder k := by
  refine List.mem_map.2 ⟨(q.val + 31 - k.val) % 16, List.mem_range.2 (Nat.mod_lt _ (by decide)), Fin.ext ?_⟩
  simp only [Fin.ofNat]
  omega

theorem fetchTurn_none {b : Bay} {s : State} (idle : ∀ k, fetchSize s b k = 0) : fetchTurn b s = none := by
  rw [fetchTurn_eq, List.find?_eq_none.2 fun k _ => by simp [idle k]]
  rfl

theorem fetchTurn_only {b : Bay} {s : State} {q : Fin 16} (some : 0 < fetchSize s b q) (others : ∀ k, k ≠ q → fetchSize s b k = 0) :
    fetchTurn b s = .some (turnReads b q s) := by
  rw [fetchTurn_eq]
  cases found : (turnOrder (bay s b).turn).find? fun q => decide (0 < fetchSize s b q) with
  | none => exact absurd (decide_eq_true some) (List.find?_eq_none.1 found q (mem_turnOrder ..))
  | some k =>
    have size : 0 < fetchSize s b k := by simpa using List.find?_some found
    obtain rfl : k = q := by
      by_contra other
      rw [others k other] at size
      exact Nat.lt_irrefl 0 size
    rfl

theorem pumpFetchN_idle {b : Bay} {s : State} (idle : ∀ k, fetchSize s b k = 0) (m : Nat) : pumpFetchN b m s = s := by
  cases m with
  | zero => rfl
  | succ m => rw [pumpFetchN, fetchTurn_none idle]

/-! ### A queue that may not fetch still may not after another's turn (R376) -/

/-- The entries on their way of all queues. -/
def fetchingSum (v : Vector SubQ 16) : Nat := v.toList.foldl (fun k q => k + q.fetching) 0

theorem foldl_fetching_le {l l' : List SubQ} (less : List.Forall₂ (fun x y => x.fetching ≤ y.fetching) l l') {a a' : Nat} (start : a ≤ a') :
    l.foldl (fun k q => k + q.fetching) a ≤ l'.foldl (fun k q => k + q.fetching) a' := by
  induction less generalizing a a' with
  | nil => exact start
  | cons head _ ih => exact ih (Nat.add_le_add start head)

theorem fetchingSum_vset {v : Vector SubQ 16} {q : Fin 16} {x : SubQ} (more : (vget v q).fetching ≤ x.fetching) :
    fetchingSum v ≤ fetchingSum (vset v q x) := by
  refine foldl_fetching_le (List.forall₂_iff_get.2 ⟨by simp, fun i inside inside' => ?_⟩) (Nat.le_refl 0)
  have range : i < 16 := by simpa using inside
  have at' := vget_vset v q ⟨i, range⟩ x
  change (vget v ⟨i, range⟩).fetching ≤ (vget (vset v q x) ⟨i, range⟩).fetching
  rw [at']
  split
  next own => rw [own]; exact more
  · exact Nat.le_refl _

theorem slotsUsed_eq (x : BayState) : slotsUsed x = x.cmds.length + fetchingSum x.sq + slotsLeaving x := rfl

theorem slotsLeaving_sent {x : BayState} (sent : ∀ o ∈ x.out, o.sent = true) : slotsLeaving x = 0 := by
  rw [slotsLeaving, List.filter_eq_nil_iff.2 fun o listed => by rw [sent o listed]; simp]
  rfl

theorem cqFree_reserved (y : CmpQ) {r : Nat} (more : y.reserved ≤ r) : cqFree { y with reserved := r } ≤ cqFree y := by
  unfold cqFree cqWritten
  dsimp only
  omega

/-- What a queue may fetch does not grow while its CQ and the command slots have no more room. -/
theorem fetchSize_le {s t : State} {b : Bay} {k : Fin 16} (sq : sqOf t b k = sqOf s b k) (sys : t.sys = s.sys)
    (quiescing : (bay t b).quiescing = (bay s b).quiescing) (quiesced : (bay t b).quiesced = (bay s b).quiesced)
    (room : cqFree (cqOf t b (sqOf s b k).cqid.toFin) ≤ cqFree (cqOf s b (sqOf s b k).cqid.toFin))
    (used : slotsUsed (bay s b) ≤ slotsUsed (bay t b)) : fetchSize t b k ≤ fetchSize s b k := by
  unfold fetchSize
  dsimp only
  rw [sq, sys, quiescing, quiesced]
  split
  · omega
  · exact Nat.le_refl 0

theorem fetchSize_reading {s : State} {b : Bay} {q : Fin 16} (busy : (sqOf s b q).fetching ≠ 0) : fetchSize s b q = 0 :=
  if_neg fun ⟨_, idle, _⟩ => busy idle

section
variable {b : Bay} {q : Fin 16} {s : State} (sent : ∀ o ∈ (bay s b).out, o.sent = true)
  (free : (sqOf s b q).fetching = 0) (others : ∀ k, k ≠ q → fetchSize s b k = 0)
include sent free others

/-- After the only turn there is none. -/
theorem fetchSize_turnReads (some : 0 < fetchSize s b q) (k : Fin 16) : fetchSize (turnReads b q s) b k = 0 := by
  obtain ⟨_, queued⟩ := turnReads_queues b q s
  have sq := sqOf_of_queues queued k
  have cq := cqOf_of_queues queued
  obtain ⟨⟨frame, -⟩, -, out, own⟩ := queued
  rw [sqOf_reserve] at sq
  by_cases mine : k = q
  · rw [if_pos mine] at sq
    refine if_neg fun ⟨_, idle, _⟩ => ?_
    rw [sq] at idle
    exact Nat.ne_of_gt some idle
  · rw [if_neg mine] at sq
    rw [bay_reserve, if_pos rfl] at own
    have more : fetchingSum (bay s b).sq ≤ fetchingSum (vset (bay s b).sq q { sqOf s b q with fetching := fetchSize s b q }) :=
      fetchingSum_vset (show (sqOf s b q).fetching ≤ _ by rw [free]; exact Nat.zero_le _)
    have less := fetchSize_le (s := s) sq (by rw [frame]; rfl) (by rw [own]) (by rw [own])
      (by
        rw [cq, cqOf_reserve]
        split
        · exact cqFree_reserved _ (Nat.le_add_right ..)
        · exact Nat.le_refl _)
      (by
        rw [slotsUsed_eq, slotsUsed_eq, slotsLeaving_sent sent, own]
        exact Nat.add_le_add (Nat.add_le_add (Nat.le_refl _) more) (Nat.zero_le _))
    rw [others k mine] at less
    exact Nat.eq_zero_of_le_zero less

theorem pumpFetch_only (some : 0 < fetchSize s b q) : pumpFetch b s = turnReads b q s := by
  rw [pumpFetch, pumpFetchN, fetchTurn_only some others]
  exact pumpFetchN_idle (fetchSize_turnReads sent free others some) 15

end

theorem maxRead_congr {s t : State} {b : Bay} (cfg : (bay t b).cfg = (bay s b).cfg) : maxRead t b = maxRead s b := by
  rw [maxRead, cfgHeld, cfg]; rfl

/-- The first request of a range read. -/
theorem sendReads_first {n : Nat} (some : 0 < n) (b : Bay) (size m : Nat) (a : DWord) (s : State) :
    SentToHost b (.read a (min n size)) (sendReads b size (m + 1) a n s) := by
  rw [sendReads, if_neg (Nat.ne_of_gt some)]
  obtain ⟨l, rest⟩ := sendReads_queues b size m (a + BitVec.ofNat 64 size) (n - size) (hostSend b (.read a (min n size)) s)
  exact queues_sent (queues_trans (hostSend_queues ..) rest) (List.mem_append_left _ (List.mem_singleton_self _))

/-- A turn's read is sent, and its entries and their CQ slots are reserved. -/
theorem turnReads_reads {b : Bay} {q : Fin 16} {s : State} (some : 0 < fetchSize s b q) :
    (sqOf (turnReads b q s) b q).fetching = fetchSize s b q ∧
    (cqOf (turnReads b q s) b (sqOf s b q).cqid.toFin).reserved =
      (cqOf s b (sqOf s b q).cqid.toFin).reserved + fetchSize s b q ∧
    SentToHost b (.read ((sqOf s b q).base + BitVec.ofNat 64 (64 * (sqOf s b q).head.toNat))
      (min (64 * fetchSize s b q) (maxRead s b))) (turnReads b q s) := by
  obtain ⟨_, queued⟩ := turnReads_queues b q s
  refine ⟨?_, ?_, ?_⟩
  · rw [sqOf_of_queues queued, sqOf_reserve, if_pos rfl]
  · rw [cqOf_of_queues queued, cqOf_reserve, if_pos rfl]
  · rw [← maxRead_congr (s := s) (t := reserve b q (fetchSize s b q) s) (by rw [bay_reserve, if_pos rfl])]
    exact sendReads_first (by omega) ..

/-! ### Doorbells (R375) -/

theorem sqOf_setSq_same (b : Bay) (q : Fin 16) (x : SubQ) (s : State) : sqOf (setSq b q x s) b q = x := by
  rw [sqOf, setSq, bay_setBay_same]; exact vget_vset_same ..

theorem cqOf_setCq_same (b : Bay) (q : Fin 16) (x : CmpQ) (s : State) : cqOf (setCq b q x s) b q = x := by
  rw [cqOf, setCq, bay_setBay_same]; exact vget_vset_same ..

theorem cmds_setCq (b : Bay) (q : Fin 16) (x : CmpQ) (s : State) : (bay (setCq b q x s) b).cmds = (bay s b).cmds := by
  rw [setCq, bay_setBay_same]

theorem fetchSize_qPass (n : Nat) (s : State) (b : Bay) (k : Fin 16) : fetchSize (qPass n s) b k = fetchSize s b k := by
  have sq : sqOf (qPass n s) b k = sqOf s b k := congrArg (fun x : BayState => vget x.sq k) (bay_qPass ..)
  have cq : cqOf (qPass n s) b = cqOf s b := funext fun q => congrArg (fun x : BayState => vget x.cq q) (bay_qPass ..)
  have sys : (qPass n s).sys = s.sys := by simp
  unfold fetchSize
  rw [sq, cq, sys, bay_qPass]

section
variable {s : State} {b : Bay} {q : Fin 16} {v : BitVec 10} (reach : hostReaches s b = true)
include reach

theorem sqDoorbell_runs (on : (sqOf s b q).en = true) (below : v.toNat < (sqOf s b q).size.toNat) :
    exec (.sqDoorbell b q v) s = .next (pumpFetch b (qPass (98 + b.val) (setSq b q { sqOf s b q with tail := v } s))) := by
  have runs : exec (.sqDoorbell b q v) s = execSqDoorbell b q v s := rfl
  rw [runs, execSqDoorbell, if_pos reach, sqDoorbellOp]
  exact congrArg Host.Outcome.next (if_pos ⟨on, below⟩)

theorem sqDoorbell_ignored (refused : (sqOf s b q).en = false ∨ (sqOf s b q).size.toNat ≤ v.toNat) :
    exec (.sqDoorbell b q v) s = .next s := by
  have runs : exec (.sqDoorbell b q v) s = execSqDoorbell b q v s := rfl
  rw [runs, execSqDoorbell, if_pos reach, sqDoorbellOp]
  refine congrArg Host.Outcome.next (if_neg fun ⟨on, below⟩ => ?_)
  rcases refused with off | beyond
  · rw [off] at on; cases on
  · exact Nat.not_le.2 below beyond

theorem cqDoorbell_runs (on : (cqOf s b q).en = true) (below : v.toNat < (cqOf s b q).size.toNat) :
    exec (.cqDoorbell b q v) s = .next (pumpFetch b (qPass (98 + b.val) (setCq b q { cqOf s b q with head := v } s))) := by
  have runs : exec (.cqDoorbell b q v) s = execCqDoorbell b q v s := rfl
  rw [runs, execCqDoorbell, if_pos reach, cqDoorbellOp]
  exact congrArg Host.Outcome.next (if_pos ⟨on, below⟩)

theorem cqDoorbell_ignored (refused : (cqOf s b q).en = false ∨ (cqOf s b q).size.toNat ≤ v.toNat) :
    exec (.cqDoorbell b q v) s = .next s := by
  have runs : exec (.cqDoorbell b q v) s = execCqDoorbell b q v s := rfl
  rw [runs, execCqDoorbell, if_pos reach, cqDoorbellOp]
  refine congrArg Host.Outcome.next (if_neg fun ⟨on, below⟩ => ?_)
  rcases refused with off | beyond
  · rw [off] at on; cases on
  · exact Nat.not_le.2 below beyond

/-- A head doorbell takes effect, and the commands stay. -/
theorem cqDoorbell_moves (on : (cqOf s b q).en = true) (below : v.toNat < (cqOf s b q).size.toNat) :
    ∃ s', exec (.cqDoorbell b q v) s = .next s' ∧ OnlyBay b s s' ∧ (cqOf s' b q).head = v ∧ (bay s' b).cmds = (bay s b).cmds := by
  let rung := setCq b q { cqOf s b q with head := v } s
  obtain ⟨only, -, -, -, reserved⟩ := pumpFetch_fetches b (qPass (98 + b.val) rung)
  obtain ⟨_, held⟩ := reserved q
  refine ⟨_, cqDoorbell_runs reach on below,
    onlyBay_trans (onlyBay_trans (onlyBay_setBay s b _) (onlyBay_of_clk b (qPass_same ..))) only, ?_, ?_⟩
  · rw [held, cqOf, bay_qPass, ← cqOf, cqOf_setCq_same]
  · rw [pumpFetch_cmds, bay_qPass, cmds_setCq]

/-- A tail doorbell takes effect; the only queue that may fetch does, and reserves its CQ slots. -/
theorem sqDoorbell_fetches (on : (sqOf s b q).en = true) (below : v.toNat < (sqOf s b q).size.toNat) :
    ∃ s', exec (.sqDoorbell b q v) s = .next s' ∧ OnlyBay b s s' ∧ (sqOf s' b q).tail = v ∧ (bay s' b).cmds = (bay s b).cmds ∧
      (let s1 := setSq b q { sqOf s b q with tail := v } s
       let n := fetchSize s1 b q
       (∀ k, k ≠ q → fetchSize s1 b k = 0) → (∀ o ∈ (bay s b).out, o.sent = true) →
        (n = 0 → s'.bays = s1.bays) ∧
        (0 < n → (sqOf s' b q).fetching = n ∧
          (cqOf s' b (sqOf s b q).cqid.toFin).reserved = (cqOf s b (sqOf s b q).cqid.toFin).reserved + n ∧
          SentToHost b (.read ((sqOf s b q).base + BitVec.ofNat 64 (64 * (sqOf s b q).head.toNat))
            (min (64 * n) (maxRead s b))) s')) := by
  let rung := setSq b q { sqOf s b q with tail := v } s
  let joined := qPass (98 + b.val) rung
  have set : bay joined b = { bay s b with sq := vset (bay s b).sq q { sqOf s b q with tail := v } } :=
    (bay_qPass ..).trans (bay_setBay_same ..)
  have sq : sqOf joined b q = { sqOf s b q with tail := v } := by rw [sqOf, set]; exact vget_vset_same ..
  have cq : ∀ k, cqOf joined b k = cqOf s b k := fun k => by rw [cqOf, set]; rfl
  have size : ∀ k, fetchSize joined b k = fetchSize rung b k := fetchSize_qPass _ _ _
  obtain ⟨only, -, -, -, -⟩ := pumpFetch_fetches b joined
  obtain ⟨_, held⟩ := pumpFetch_sq b joined q
  refine ⟨_, sqDoorbell_runs reach on below,
    onlyBay_trans (onlyBay_trans (onlyBay_setBay s b _) (onlyBay_of_clk b (qPass_same ..))) only, ?_, ?_,
    fun others sent => ⟨fun none => ?_, fun some => ?_⟩⟩
  · exact (congrArg SubQ.tail held).trans (congrArg SubQ.tail sq)
  · rw [pumpFetch_cmds, set]
  · have idle : ∀ k, fetchSize joined b k = 0 := fun k => by
      by_cases mine : k = q
      · rw [mine, size]; exact none
      · rw [size]; exact others k mine
    exact (congrArg State.bays (pumpFetchN_idle idle 16)).trans (by simp [joined, rung])
  · rw [← size] at some
    have free : (sqOf joined b q).fetching = 0 := by
      by_contra busy
      rw [fetchSize_reading busy] at some
      exact Nat.lt_irrefl 0 some
    have only := pumpFetch_only (by rw [set]; exact sent) free (fun k mine => (size k).trans (others k mine)) some
    obtain ⟨fetching, reserved, read⟩ := turnReads_reads some
    rw [← only, sq] at reserved read
    rw [← only] at fetching
    rw [cq] at reserved
    rw [maxRead_congr (s := s) (by rw [set])] at read
    rw [size] at fetching reserved read
    exact ⟨fetching, reserved, read⟩

end

end Sys2Proof.Machine
end

section
/-! PROOFS. A bay's fetched entries and its data in (R376 to R380), and the bays' fetches as a whole. -/

namespace Sys2Proof.Machine

/-! ### A completion's bay (R381, R382) -/

/-- Without an orderly removal nothing settles. -/
theorem settleQuiesce_stays {b : Bay} {s : State} (stays : (bay s b).quiescing = false) : settleQuiesce b s = s :=
  if_neg (by rw [stays]; exact Bool.false_ne_true)

/-- A completion stays with what keeps the entries. -/
theorem cmdCompletes_kept {b : Bay} {c : BayCmd} {status : Byte} {result : DWord} {s s' s'' : State}
    (h : CmdCompletes b c status result s s') (kept : KeepsEntries b s' s'') : CmdCompletes b c status result s s'' := by
  obtain ⟨entry, tail, phase, left⟩ := h
  obtain ⟨items, cmds, -, reserved⟩ := kept
  obtain ⟨_, held⟩ := reserved (sqOf s b c.q).cqid.toFin
  exact ⟨sentToHost_iff.mpr (items.subset (sentToHost_iff.mp entry)), by rw [held]; exact tail, by rw [held]; exact phase,
    by rw [cmds]; exact left⟩

/-- A completion says of the state before only the command's CQ and the other commands. -/
theorem cmdCompletes_of_before {b : Bay} {c : BayCmd} {status : Byte} {result : DWord} {s0 s s' : State}
    (cqid : (sqOf s0 b c.q).cqid = (sqOf s b c.q).cqid) (cq : ∀ q, cqOf s0 b q = cqOf s b q)
    (cmds : ∀ x ∈ (bay s0 b).cmds, x.slot ≠ c.slot → x ∈ (bay s b).cmds) (h : CmdCompletes b c status result s0 s') :
    CmdCompletes b c status result s s' := by
  obtain ⟨entry, tail, phase, left⟩ := h
  rw [cqid, cq] at entry tail phase
  exact ⟨entry, tail, phase, fun x member => ⟨cmds x (left x member).1 (left x member).2, (left x member).2⟩⟩

/-- Outside an orderly removal a completion that is not BUSY changes only its bay, the commands left, and of the SQs the
entries on their way. -/
theorem completeCmd_stays {b : Bay} {s : State} (stays : (bay s b).quiescing = false) (c : BayCmd) (result : DWord) :
    let s' := completeCmd b c 0 result s
    OnlyBay b s s' ∧ (bay s' b).cmds = (bay s b).cmds.filter (fun x => decide (x.slot ≠ c.slot)) ∧
    ∀ k, ∃ n, sqOf s' b k = { sqOf s b k with fetching := n } := by
  intro s'
  let s1 := dropCmd b c.slot s
  let s2 := writeEntry b (sqOf s b c.q).cqid.toFin result c.q.val c.sqhd.toNat (cmdNum c 2 2) 0 false s1
  have dropped : bay s1 b = { bay s b with cmds := (bay s b).cmds.filter fun x => decide (x.slot ≠ c.slot) } :=
    bay_setBay_same ..
  obtain ⟨written, -, _, _, own⟩ := writeEntry_writes b (sqOf s b c.q).cqid.toFin result c.q.val c.sqhd.toNat (cmdNum c 2 2)
    0 false s1
  obtain ⟨fetched, -, ⟨_, _, _, _, pumped⟩, -, -⟩ := pumpFetch_fetches b s2
  have quiet : (bay (pumpFetch b s2) b).quiescing = false := by rw [pumped, own, dropped]; exact stays
  have counted : countBusy b 0 s2 = s2 := if_neg (by decide)
  have ran : s' = settleQuiesce b (pumpFetch b (countBusy b 0 s2)) := rfl
  have settled : s' = pumpFetch b s2 := by rw [ran, counted, settleQuiesce_stays quiet]
  rw [settled]
  refine ⟨onlyBay_trans (onlyBay_trans (onlyBay_setBay s b _) written) fetched, ?_, fun k => ?_⟩
  · rw [pumped, own, dropped]
  · obtain ⟨n, held⟩ := pumpFetch_sq b s2 k
    exact ⟨n, by rw [held, sqOf, own, dropped]; rfl⟩

/-! ### Fetched entries (R376, R379, R380) -/

theorem freeSlot_unused {x : BayState} {k : Fin 256} (found : freeSlot x = some k) : ∀ c ∈ x.cmds, c.slot ≠ k := by
  have none : x.cmds.any (fun c => decide (c.slot = k)) = false := by simpa using List.find?_some found
  intro c listed
  simpa using List.any_eq_false.1 none c listed

theorem freeSlot_congr {x y : BayState} (cmds : y.cmds = x.cmds) : freeSlot y = freeSlot x := by rw [freeSlot, cmds]; rfl

/-- The head after one entry. -/
def nextHead (x : SubQ) : BitVec 10 := if x.head.toNat + 1 = x.size.toNat then 0 else x.head + 1

/-- The command of a fetched entry. -/
def entryCmd (q : Fin 16) (head : BitVec 10) (k : Fin 256) (bs : List Byte) (st : CmdState) : BayCmd :=
  { slot := k, q := q, sqhd := head, body := ofBytes 512 bs, st := st }

/-- A command reads its data in. -/
def readsIn (c : BayCmd) : Bool := decide (cmdDir c = 1 ∧ 0 < cmdNum c 20 4)

/-- HEAD moves and the command takes its slot. -/
def enter (b : Bay) (q : Fin 16) (head : BitVec 10) (c : BayCmd) (s : State) : State :=
  let s := setSq b q { sqOf s b q with head := head } s
  setBay s b { bay s b with cmds := (bay s b).cmds ++ [c] }

theorem bay_enter (b : Bay) (q : Fin 16) (head : BitVec 10) (c : BayCmd) (s : State) : bay (enter b q head c s) b =
    { bay s b with sq := vset (bay s b).sq q { sqOf s b q with head := head }, cmds := (bay s b).cmds ++ [c] } := by
  simp only [enter, setSq, bay_setBay_same]

theorem enter_only (b : Bay) (q : Fin 16) (head : BitVec 10) (c : BayCmd) (s : State) : OnlyBay b s (enter b q head c s) :=
  onlyBay_trans (onlyBay_setBay s b _) (onlyBay_setBay _ b _)

/-- The form of a command rests on its body, on the records applied and on the flows. -/
theorem cmdFormOk_congr {s s' : State} (seed : s'.seed = s.seed) (drill : s'.drill = s.drill) {c c' : BayCmd}
    (body : c'.body = c.body) (b : Bay) : cmdFormOk s' b c' = cmdFormOk s b c := by
  have num : ∀ off n, cmdNum c' off n = cmdNum c off n := fun off n => by rw [cmdNum, body]; rfl
  have dir : cmdDir c' = cmdDir c := by rw [cmdDir, body]; rfl
  have index : cmdIndex c' = cmdIndex c := by rw [cmdIndex, body]; rfl
  have record : bayRec s' b = bayRec s b := by rw [bayRec, seedFind, seedOf, seed]; rfl
  have bytes : ∀ off n, bayNum s' b off n = bayNum s b off n := fun off n => by rw [bayNum, record]; rfl
  have flows : ∀ f, flow s' f = flow s f := fun f => by rw [flow, drill]; rfl
  unfold cmdFormOk cmdOpc bayStages winSize bayHasFlow flowBase flowCount
  simp only [num, dir, index, record, bytes, flows, body]

/-- What a silent command leaves the guard: one more violation of its bay (R340, R379). -/
def silentViolation (b : Bay) (c : BayCmd) (s : State) : State :=
  let kind : Vio := if (cmdOpc c = 1 ∨ cmdOpc c = 2) ∧ ¬ bayHasFlow s b (cmdNum c 4 2) then .bay else .block
  violateSrc (16 + b.val) kind (BitVec.ofNat 32 (Config.free 2 s.draws)) true false { s with draws := s.draws + 1 }

theorem silentViolation_frame (b : Bay) (c : BayCmd) (s : State) :
    let s' := silentViolation b c s
    s' = { s with guard := s'.guard, draws := s'.draws } ∧ s'.guard.vlastSrc.toNat = 16 + b.val ∧
    vget s'.guard.vcnt ⟨16 + b.val, by omega⟩ = satInc (vget s.guard.vcnt ⟨16 + b.val, by omega⟩) := by
  have source : 16 + b.val < 22 := by omega
  simp only [silentViolation, violateSrc, dif_pos source]
  refine ⟨trivial, ?_, vget_vset_same ..⟩
  rw [BitVec.toNat_ofNat]
  omega

/-- What follows the entry's taking of its slot. -/
def entryTaken (b : Bay) (dma : Bool) (c : BayCmd) (s : State) : State :=
  if !cmdFormOk s b c then silentCmd b c s
  else if dma then sendReads b (maxRead s b) (cmdNum c 20 4 / 128 + 1) (BitVec.ofNat 64 (cmdNum c 8 8)) (cmdNum c 20 4) s
  else s

theorem takeEntry_eq (b : Bay) (q : Fin 16) (bs : List Byte) (s : State) : takeEntry b q bs s =
    match freeSlot (bay s b) with
    | none => s
    | some k =>
      let c := entryCmd q (nextHead (sqOf s b q)) k bs .ready
      let c' := if readsIn c then { c with st := .dataIn } else c
      entryTaken b (readsIn c) c' (enter b q (nextHead (sqOf s b q)) c' s) := rfl

/-- An entry of good form has taken its slot, and its data is read in. -/
theorem entryTaken_formed {b : Bay} {c : BayCmd} {s : State} (formed : cmdFormOk s b c = true) (dma : Bool) :
    ∃ l, Queues b l s (entryTaken b dma c s) := by
  have good : ¬(!cmdFormOk s b c) = true := by rw [formed]; exact Bool.false_ne_true
  rw [entryTaken, if_neg good]
  split
  · exact sendReads_queues ..
  · exact ⟨[], queues_refl b s⟩

theorem entryTaken_silent {b : Bay} {c : BayCmd} {s : State} (malformed : cmdFormOk s b c = false) (dma : Bool) :
    entryTaken b dma c s = completeCmd b c 0 0 (silentViolation b c s) := by
  have bad : (!cmdFormOk s b c) = true := by rw [malformed]; rfl
  exact if_pos bad

/-- A silent command completes, and fetches go on. -/
theorem silent_completes {b : Bay} {c : BayCmd} {s : State} (stays : (bay s b).quiescing = false) :
    ∃ s', pumpFetch b (completeCmd b c 0 0 (silentViolation b c s)) = s' ∧ OnlyBay b s { s' with guard := s.guard, draws := s.draws } ∧ (∀ k, (sqOf s' b k).head = (sqOf s b k).head) ∧
    CmdCompletes b c 0 0 s s' ∧ (bay s' b).cmds = (bay s b).cmds.filter (fun x => decide (x.slot ≠ c.slot)) ∧
    s'.guard.vlastSrc.toNat = 16 + b.val ∧
    vget s'.guard.vcnt ⟨16 + b.val, by omega⟩ = satInc (vget s.guard.vcnt ⟨16 + b.val, by omega⟩) := by
  obtain ⟨frame1, source, count⟩ := silentViolation_frame b c s
  have bays : ∀ u, bay (silentViolation b c s) u = bay s u := fun u => by rw [frame1]; rfl
  obtain ⟨⟨frame2, others2⟩, left, sq2⟩ := completeCmd_stays (s := silentViolation b c s) (by rw [bays]; exact stays) c 0
  have completed := (completeCmd_completes b c 0 0 (silentViolation b c s)).1
  revert frame1 source count bays frame2 others2 left sq2 completed
  generalize silentViolation b c s = s1
  generalize completeCmd b c 0 0 s1 = s2
  intro frame1 source count bays frame2 others2 left sq2 completed
  obtain ⟨⟨frame3, others3⟩, -⟩ := pumpFetch_fetches b s2
  have guard : (pumpFetch b s2).guard = s1.guard := by rw [frame3, frame2]
  refine ⟨_, rfl, ⟨?_, fun u other => ?_⟩, fun k => ?_, ?_, ?_, ?_, ?_⟩
  · rw [frame3, frame2, frame1]
  · exact (others3 u other).trans ((others2 u other).trans (bays u))
  · obtain ⟨_, held3⟩ := pumpFetch_sq b s2 k
    obtain ⟨_, held2⟩ := sq2 k
    rw [held3, held2, sqOf, bays]; rfl
  · refine cmdCompletes_of_before ?_ ?_ ?_ (cmdCompletes_kept completed (pumpFetch_keepsEntries b s2))
    · rw [sqOf, bays]; rfl
    · exact fun q => by rw [cqOf, bays]; rfl
    · exact fun x listed _ => bays b ▸ listed
  · rw [pumpFetch_cmds, left, bays]
  · rw [guard]; exact source
  · rw [guard]; exact count

/-- The read in flight has ended. -/
def fetched (b : Bay) (q : Fin 16) (s : State) : State := qPass (98 + b.val) (setSq b q { sqOf s b q with fetching := 0 } s)

theorem bay_fetched (b : Bay) (q : Fin 16) (s : State) :
    bay (fetched b q s) b = { bay s b with sq := vset (bay s b).sq q { sqOf s b q with fetching := 0 } } := by
  rw [fetched, bay_qPass, setSq, bay_setBay_same]

theorem sqOf_fetched (b : Bay) (q : Fin 16) (s : State) : sqOf (fetched b q s) b q = { sqOf s b q with fetching := 0 } := by
  rw [sqOf, bay_fetched]; exact vget_vset_same ..

theorem fetched_only (b : Bay) (q : Fin 16) (s : State) : OnlyBay b s (fetched b q s) :=
  onlyBay_trans (onlyBay_setBay s b _) (onlyBay_of_clk b (qPass_same ..))

/-- The command that takes the slot: it waits for its data, or for admission. -/
def takenCmd (q : Fin 16) (head : BitVec 10) (k : Fin 256) (bs : List Byte) : BayCmd :=
  let c := entryCmd q head k bs .ready
  if readsIn c then { c with st := .dataIn } else c

theorem takenCmd_eq (q : Fin 16) (head : BitVec 10) (k : Fin 256) (bs : List Byte) :
    takenCmd q head k bs = { entryCmd q head k bs .ready with
      st := if readsIn (entryCmd q head k bs .ready) then .dataIn else .ready } := by
  unfold takenCmd; dsimp only
  split
  · rfl
  · rfl

section
variable {s : State} {b : Bay} {q : Fin 16} {bs : List Byte} {k : Fin 256}

/-- The entry has its slot. -/
def entered (b : Bay) (q : Fin 16) (k : Fin 256) (bs : List Byte) (s : State) : State :=
  enter b q (nextHead (sqOf s b q)) (takenCmd q (nextHead (sqOf s b q)) k bs) (fetched b q s)

theorem bay_entered (b : Bay) (q : Fin 16) (k : Fin 256) (bs : List Byte) (s : State) :
    ∃ sq, bay (entered b q k bs s) b =
      { bay s b with sq := sq, cmds := (bay s b).cmds ++ [takenCmd q (nextHead (sqOf s b q)) k bs] } ∧
    vget sq q = { sqOf s b q with head := nextHead (sqOf s b q), fetching := 0 } := by
  rw [entered, bay_enter, sqOf_fetched, bay_fetched]
  exact ⟨_, rfl, vget_vset_same ..⟩

theorem entered_only (b : Bay) (q : Fin 16) (k : Fin 256) (bs : List Byte) (s : State) : OnlyBay b s (entered b q k bs s) :=
  onlyBay_trans (fetched_only b q s) (enter_only ..)

theorem cmdFormOk_entered (q : Fin 16) (k : Fin 256) (bs : List Byte) (s : State) (b : Bay) (head : BitVec 10) :
    cmdFormOk (entered b q k bs s) b (takenCmd q head k bs) = cmdFormOk s b (entryCmd q head k bs .ready) := by
  obtain ⟨frame, -⟩ := entered_only b q k bs s
  refine cmdFormOk_congr ?_ ?_ ?_ b
  · rw [frame]
  · rw [frame]
  · rw [takenCmd_eq]

/-- One fetched entry takes the lowest free slot, and fetches go on. -/
theorem sqFetchDone_runs (one : (sqOf s b q).fetching = 1) (found : freeSlot (bay s b) = some k) (bs : List Byte) :
    ∃ dma, exec (.sqFetchDone b q [bs]) s =
      .next (pumpFetch b (entryTaken b dma (takenCmd q (nextHead (sqOf s b q)) k bs) (entered b q k bs s))) := by
  have runs : exec (.sqFetchDone b q [bs]) s = .next (sqFetchOp b q [bs] s) := rfl
  have some : ¬(sqOf s b q).fetching = 0 := by rw [one]; exact Nat.one_ne_zero
  have entries : ((List.range (sqOf s b q).fetching).map fun i => [bs].getD i []) = [bs] := by rw [one]; rfl
  have found' : freeSlot (bay (fetched b q s) b) = .some k := (freeSlot_congr (by rw [bay_fetched])).trans found
  have op : sqFetchOp b q [bs] s = pumpFetch b (takeEntry b q bs (fetched b q s)) := by
    unfold sqFetchOp
    dsimp only
    rw [if_neg some, entries]
    rfl
  rw [runs, op, takeEntry_eq, found', sqOf_fetched]
  exact ⟨_, rfl⟩

/-- An entry of good form is admitted, or its data is read in. -/
theorem sqFetchDone_admits (one : (sqOf s b q).fetching = 1) (found : freeSlot (bay s b) = some k)
    (formed : cmdFormOk s b (entryCmd q (nextHead (sqOf s b q)) k bs .ready) = true) :
    ∃ s', exec (.sqFetchDone b q [bs]) s = .next s' ∧ OnlyBay b s s' ∧ (sqOf s' b q).head = nextHead (sqOf s b q) ∧
      (bay s' b).cmds = (bay s b).cmds ++ [takenCmd q (nextHead (sqOf s b q)) k bs] := by
  obtain ⟨dma, runs⟩ := sqFetchDone_runs one found bs
  rw [← cmdFormOk_entered] at formed
  obtain ⟨_, queued⟩ := entryTaken_formed formed dma
  obtain ⟨sq, own, moved⟩ := bay_entered b q k bs s
  obtain ⟨_, held⟩ := pumpFetch_sq b (entryTaken b dma (takenCmd q (nextHead (sqOf s b q)) k bs) (entered b q k bs s)) q
  obtain ⟨pumped, -⟩ := pumpFetch_fetches b (entryTaken b dma (takenCmd q (nextHead (sqOf s b q)) k bs) (entered b q k bs s))
  refine ⟨_, runs, onlyBay_trans (onlyBay_trans (entered_only ..) queued.1) pumped, ?_, ?_⟩
  · rw [held, sqOf_of_queues queued, sqOf, own, moved]
  · obtain ⟨-, -, _, out⟩ := queued
    rw [pumpFetch_cmds, out, own]

/-- A silent entry completes OK and counts a violation of its bay (R379). -/
theorem sqFetchDone_silent (one : (sqOf s b q).fetching = 1) (found : freeSlot (bay s b) = some k)
    (malformed : cmdFormOk s b (entryCmd q (nextHead (sqOf s b q)) k bs .ready) = false)
    (stays : (bay s b).quiescing = false) :
    ∃ s', exec (.sqFetchDone b q [bs]) s = .next s' ∧ OnlyBay b s { s' with guard := s.guard, draws := s.draws } ∧
      (sqOf s' b q).head = nextHead (sqOf s b q) ∧
      CmdCompletes b (entryCmd q (nextHead (sqOf s b q)) k bs .ready) 0 0 s s' ∧ (bay s' b).cmds = (bay s b).cmds ∧
      s'.guard.vlastSrc.toNat = 16 + b.val ∧
      vget s'.guard.vcnt ⟨16 + b.val, by omega⟩ = satInc (vget s.guard.vcnt ⟨16 + b.val, by omega⟩) := by
  obtain ⟨dma, runs⟩ := sqFetchDone_runs one found bs
  rw [entryTaken_silent ((cmdFormOk_entered ..).trans malformed)] at runs
  have slot : (takenCmd q (nextHead (sqOf s b q)) k bs).slot = k := by rw [takenCmd_eq]; rfl
  have unused := freeSlot_unused found
  obtain ⟨sq, own, moved⟩ := bay_entered b q k bs s
  obtain ⟨frame, others⟩ := entered_only b q k bs s
  obtain ⟨s', ran, ⟨frame', others'⟩, head, completes, cmds, source, count⟩ :=
    silent_completes (c := takenCmd q (nextHead (sqOf s b q)) k bs) (s := entered b q k bs s) (b := b) (by rw [own]; exact stays)
  rw [ran] at runs
  clear ran
  generalize entered b q k bs s = s1 at *
  refine ⟨s', runs, ⟨?_, fun u other => (others' u other).trans (others u other)⟩, ?_, ?_, ?_, source, ?_⟩
  · have kept := congrArg (fun s' : State => { s' with guard := s.guard, draws := s.draws }) frame'
    rw [frame] at kept
    exact kept
  · rw [head, sqOf, own, moved]
  · have same : CmdCompletes b (entryCmd q (nextHead (sqOf s b q)) k bs .ready) 0 0 s1 s' := by
      rw [takenCmd_eq] at completes
      exact completes
    refine cmdCompletes_of_before ?_ (fun q => ?_) (fun x listed other => ?_) same
    · rw [sqOf, own]
      change (vget sq q).cqid = _
      rw [moved]
      rfl
    · rw [cqOf, own]; rfl
    · rw [own] at listed
      rcases List.mem_append.1 listed with before | taken
      · exact before
      · rw [List.mem_singleton.1 taken, slot] at other
        exact absurd rfl other
  · rw [cmds, own]
    dsimp only
    rw [List.filter_append, List.filter_eq_self.2 fun x listed => decide_eq_true (by rw [slot]; exact unused x listed)]
    simp
  · rw [count, frame]

end

/-! ### Data in (R380) -/

theorem cmdOf_slot {s : State} {b : Bay} {k : Fin 256} {c : BayCmd} (held : cmdOf s b k = some c) : c.slot = k := by
  simpa using List.find?_some held

theorem cmdOf_setCmd {s : State} {b : Bay} {k : Fin 256} {c c' : BayCmd} (held : cmdOf s b k = some c) (slot : c'.slot = c.slot) :
    cmdOf (setCmd b c' s) b k = some c' := by
  have own := cmdOf_slot held
  rw [cmdOf, setCmd, bay_setBay_same, List.find?_map]
  have same : ((fun x : BayCmd => decide (x.slot = k)) ∘ fun y => if y.slot = c'.slot then c' else y) = fun x => decide (x.slot = k) := by
    funext y
    dsimp only [Function.comp]
    split
    next mine => rw [mine]
    · rfl
  rw [same, show List.find? _ (bay s b).cmds = some c from held]
  exact congrArg some (if_pos slot.symm)

/-- DIR IN: the host's bytes are in the window, and the command awaits admission. -/
theorem dataInDone_stores {s : State} {b : Bay} {k : Fin 256} {c : BayCmd} {data : List Byte} (held : cmdOf s b k = some c)
    (waits : c.st = .dataIn) (length : data.length = cmdNum c 20 4) (nonempty : 0 < data.length)
    (passes : winPasses s b (sqOf s b c.q).owner permW (winBase s b + cmdNum c 16 4) data.length = true) :
    ∃ s', exec (.dataInDone b k data) s = .next s' ∧ OnlyBay b s { s' with mem := s.mem, cache := s.cache } ∧
      sramRead s' (winBase s b + cmdNum c 16 4) data.length = data ∧
      SramBut (winBase s b + cmdNum c 16 4) data.length s s' ∧ cmdOf s' b k = some { c with st := .ready } := by
  have runs : exec (.dataInDone b k data) s = .next (dataInOp b k data s) := rfl
  have op : dataInOp b k data s = setCmd b { c with st := .ready } (sramWrite (winBase s b + cmdNum c 16 4) data s) := by
    simp only [dataInOp, held, waits]
    rw [if_neg (fun differs => differs rfl), ← length, map_getD_range, winWrite_passes nonempty passes]
  obtain ⟨stored, but, frame⟩ := sramWrite_stores (winBase s b + cmdNum c 16 4) data s
  rw [op] at runs
  generalize sramWrite (winBase s b + cmdNum c 16 4) data s = s1 at *
  refine ⟨_, runs, ?_, stored, but, cmdOf_setCmd (c := c) ?_ rfl⟩
  · rw [setCmd, setBay, frame]
    exact onlyBay_setBay s b _
  · rw [cmdOf, frame]
    exact held

/-- Settles O48: a doorbell in range moves its queue and lets the queue that may fetch do so; a fetched entry takes its
slot or completes silently; data in goes to the window. -/
theorem bayFetches : Obligations.BayFetches := by
  unfold Obligations.BayFetches
  intro s b q
  refine ⟨fun v reach => ⟨fun ⟨on, below⟩ => sqDoorbell_fetches reach on below, sqDoorbell_ignored reach,
    fun ⟨on, below⟩ => cqDoorbell_moves reach on below, cqDoorbell_ignored reach⟩, fun bs k one found => ?_,
    fun k c data held waits length nonempty passes => dataInDone_stores held waits length nonempty passes⟩
  refine ⟨fun formed => ?_, fun malformed stays => sqFetchDone_silent one found malformed stays⟩
  obtain ⟨s', runs, only, head, cmds⟩ := sqFetchDone_admits (bs := bs) one found formed
  exact ⟨s', runs, only, head, by rw [cmds, takenCmd_eq]; rfl⟩

end Sys2Proof.Machine
end

section
/-! PROOFS. The resident Headland's lines (R434, R480 to R485): what is open and what the mode or the scopes close, the
buffer, NONCE, and the words that RD and WR move. -/

namespace Sys2Proof.Machine

/-! ### Lines that are open (R480, R481, R484) -/

theorem unknownLine_answers {s : State} (runs : romRuns s = true ∨ residentRuns s = true) (overflow : Bool) :
    OnlyAnswers (.headlandUnknownLine overflow) { code := if overflow then 1 else 2 } s :=
  onlyAnswers_hldAnswer (congrArg Host.Outcome.next (if_pos (Bool.or_eq_true_iff.2 runs)))

/-! ### NONCE at the Granary (R434) -/

/-- The Granary's request of NONCE. -/
def nonceJob : GrnJob := headlandJob 0x30 0 0 [] [] []

/-- The Granary at work on NONCE. -/
def nonceRuns (ok : Bool) (s : State) : State := { s with grn := { s.grn with entFail := !ok } }

theorem runJob_nonce {s : State} (mode : limpReason s 1 = false) :
    runJob nonceJob true s = drawNonce (nonceRuns true s) ∧ runJob nonceJob false s = ({ status := 1 }, nonceRuns false s) := by
  have code : nonceJob.r.opc.toNat = 0x30 := rfl
  have formed : nonceJob.r.malformed = false := by decide
  have modes : modeServes (nonceRuns true s) 0x30 = true := by
    have same : limpReason (nonceRuns true s) 1 = limpReason s 1 := rfl
    rw [modeServes, same, mode]; rfl
  have start (ok : Bool) : (if opDraws 0x30 then { s with grn := { s.grn with entFail := !ok } } else s) = nonceRuns ok s := rfl
  constructor
  · unfold runJob
    dsimp only
    rw [code, start, formed, Bool.not_true, Bool.and_false, modes]
    rfl
  · unfold runJob
    dsimp only
    rw [code, start, formed]
    rfl

section
variable {s : State} (runs : residentRuns s = true)
include runs

theorem info_answers : OnlyAnswers .info { values := infoValues s ++ [(seedStsWord s).toNat, (hldStsWord s).toNat] } s :=
  onlyAnswers_hldAnswer (congrArg Host.Outcome.next (if_pos runs))

theorem time_answers : OnlyAnswers .time { values := [s.bkp.cal.sec.toNat, (calStsWord s.bkp.cal).toNat] } s :=
  onlyAnswers_hldAnswer (congrArg Host.Outcome.next (if_pos runs))

/-! ### Lines that the mode or the granted scopes close (R484) -/

theorem onResident_closed {open_ : State → Bool} (shut : s.sys.mode = Mode.lockdown ∨ open_ s = false) (act : State → State) :
    onResident open_ act s = .next (hldErr 3 s) := by
  have closed : (residentOpen s && open_ s) = false := by
    rcases shut with lockdown | scope
    · simp [residentOpen, lockdown]
    · rw [scope, Bool.and_false]
  rw [onResident, runs, closed]
  rfl

/-- A line of the resident Headland under its condition is refused where that is not met. -/
theorem closed_answers {c : Instr} {open_ : State → Bool} {act : State → State} (line : exec c s = onResident open_ act s)
    (shut : s.sys.mode = Mode.lockdown ∨ open_ s = false) : OnlyAnswers c { code := 3 } s :=
  onlyAnswers_hldAnswer (line.trans (onResident_closed runs shut act))

/-- Lockdown closes every line beside INFO and TIME. -/
theorem lockdown_closes (lockdown : s.sys.mode = Mode.lockdown) (t : Thread) (a v : Word) (n : Chan) :
    ∀ c ∈ [Instr.buf 0 [0], .hlNonce true, .cert, .exit, .rd a 1, .wr a v, .halt t, .go t, .regs t, .hlStageOpen, .unretire n,
      .bkprst, .vault 0x31 0 0 0 true], OnlyAnswers c { code := 3 } s := by
  have shut {c : Instr} {open_ : State → Bool} {act : State → State} (line : exec c s = onResident open_ act s) :
    OnlyAnswers c { code := 3 } s := closed_answers runs line (.inl lockdown)
  simp only [List.forall_mem_cons, List.not_mem_nil, false_implies, implies_true, and_true]
  exact ⟨shut (exec_buf ..), shut (exec_hlNonce ..), shut (exec_cert ..), shut (exec_exit ..), shut (exec_rd ..),
    shut (exec_wr ..), shut (exec_halt ..), shut (exec_go ..), shut (exec_regs ..), shut (exec_hlStageOpen ..),
    shut (exec_unretire ..), shut (exec_bkprst ..), shut (exec_vault ..)⟩

/-- Without Service and a scope every line of a scope is closed. -/
theorem noScope_closes (none : s.hld.scope = 0 ∨ s.sys.mode ≠ Mode.service) (limp : limpReason s 1 = false) (t : Thread)
    (a v : Word) (n : Chan) :
    ∀ c ∈ [Instr.rd a 1, .wr a v, .halt t, .go t, .regs t, .hlStageOpen, .hlStageWrite 0 4, .hlStageCheck false,
      .hlStageActivate, .hlStageAbort, .unretire n, .bkprst, .vault 0x31 0 0 0 true], OnlyAnswers c { code := 3 } s := by
  have closed (k : Nat) : granted s k = false := by
    rcases none with scope | mode
    · simp [granted, scopeHas, scope]
    · simp [granted, mode]
  have stage : stageOpenTo s = false := by rw [stageOpenTo, closed, limp]; rfl
  have byScope {c : Instr} {act : State → State} {k : Nat} (line : exec c s = onResident (fun s => granted s k) act s) :
    OnlyAnswers c { code := 3 } s := closed_answers runs line (.inr (closed k))
  have staged {c : Instr} {act : State → State} (line : exec c s = onResident stageOpenTo act s) :
    OnlyAnswers c { code := 3 } s := closed_answers runs line (.inr stage)
  simp only [List.forall_mem_cons, List.not_mem_nil, false_implies, implies_true, and_true]
  exact ⟨byScope (exec_rd ..), byScope (exec_wr ..), byScope (exec_halt ..), byScope (exec_go ..), byScope (exec_regs ..),
    staged (exec_hlStageOpen ..), staged (exec_hlStageWrite ..), staged (exec_hlStageCheck ..), staged (exec_hlStageActivate ..),
    staged (exec_hlStageAbort ..), byScope (exec_unretire ..), byScope (exec_bkprst ..), byScope (exec_vault ..)⟩

variable (unlocked : s.sys.mode ≠ Mode.lockdown)
include unlocked

/-! ### The buffer (R482) -/

theorem buf_lays {off : Nat} {data : List Byte} (aligned : off % 4 = 0) (least : 1 ≤ data.length) (most : data.length ≤ 64)
    (inside : off + data.length ≤ 512) :
    ∃ s', Answers (.buf off data) {} s s' ∧ bytesOf s'.hld.buf off data.length = data ∧ s' = { s with hld := s'.hld } := by
  have form : bufFormOk off data = true := decide_eq_true ⟨aligned, by omega, least, most, inside⟩
  have laid : exec (.buf off data) s = .next (hldOk { s with hld := { s.hld with buf := setBytes s.hld.buf off data } }) := by
    rw [exec_buf, execBuf, onResident_open runs unlocked rfl, bufOp, form]; rfl
  exact ⟨_, answers_ok laid rfl, bytesOf_setBytes (by omega) _, rfl⟩

/-! ### NONCE's answers (R434, R484) -/

variable (ready : s.grn.ready = true) (serves : granaryServes s = true) (room : s.grn.grq.length < 32)
include ready serves room

theorem exec_hlNonce_serves (ok : Bool) : exec (.hlNonce ok) s =
    .next (let p := runJob nonceJob ok s
      if p.1.status ≠ 0 then hldErr 4 (noteCommand nonceJob p.1 p.2)
      else hldAnswer { values := [], bytes := p.1.out } (noteCommand nonceJob p.1 p.2)) := by
  have open' : (!s.grn.ready || !granaryServes s || decide (32 ≤ s.grn.grq.length)) = false := by
    simp [ready, serves, room]
  rw [exec_hlNonce, execHlNonce, onResident_open runs unlocked rfl, hldGranary, open']
  rfl

variable (mode : limpReason s 1 = false)
include mode

theorem hlNonce_draws : ∃ s' n d, Answers (.hlNonce true) { bytes := bytesOf n 0 16 ++ publicKey d } s s' ∧ 1 ≤ d ∧ d < p256N ∧
    s'.grn.nonces.getLast? = some { nonce := n, priv := BitVec.ofNat 256 d, issued := s.now } ∧ s'.mem = s.mem := by
  obtain ⟨n, d, t, drawn, positive, below, mem, -, last, -⟩ := drawNonce_draws (nonceRuns true s)
  have ran := exec_hlNonce_serves runs unlocked ready serves room true
  have hld : t.hld = s.hld := by
    have kept : (drawNonce (nonceRuns true s)).2.hld = (nonceRuns true s).hld := by simp
    rw [drawn] at kept
    exact kept
  rw [(runJob_nonce mode).1, drawn] at ran
  exact ⟨_, n, d, ⟨ran, rfl, congrArg (·.answers + 1) hld⟩, positive, below, last, mem⟩

theorem hlNonce_fails : ∃ s', Answers (.hlNonce false) { code := 4 } s s' ∧ s'.grn.nonces = s.grn.nonces ∧ s'.grn.entFail = true := by
  have ran := exec_hlNonce_serves runs unlocked ready serves room false
  rw [(runJob_nonce mode).2] at ran
  exact ⟨_, ⟨ran, rfl, rfl⟩, rfl, rfl⟩

end

/-! ### RD and WR (R485) -/

/-- Words of SRAM that the guard lets a requester read, the state unchanged. -/
theorem readWords_sram {s : State} {r : Req} {n : Nat} {a : Word} (sram : inSram a.toNat (4 * n) = true)
    (lets : ∀ i, i < n → guardLets s r permR (a.toNat + 4 * i) 4 = true) :
    readWords r n a s = ((List.range n).map fun i => sramWordAt s (a.toNat + 4 * i), s) := by
  induction n generalizing a with
  | zero => rfl
  | succ n ih =>
    obtain ⟨low, high⟩ := of_decide_eq_true sram
    have next : (a + 4).toNat = a.toNat + 4 := by bv_omega
    have first := accessRead_sram (w := .word) (lets 0 (by omega)) (decide_eq_true ⟨low, by change a.toNat + 4 ≤ _; omega⟩)
    have rest := ih (a := a + 4) (decide_eq_true (by rw [next]; omega))
      (fun i below => by rw [next, Nat.add_assoc, Nat.add_comm 4, ← Nat.mul_succ]; exact lets (i + 1) (by omega))
    rw [readWords, first]
    dsimp only
    rw [rest, List.range_succ_eq_map, List.map_cons, List.map_map]
    refine Prod.ext (congrArg₂ List.cons rfl (List.map_congr_left fun i _ => ?_)) rfl
    change sramWordAt s ((a + 4).toNat + 4 * i) = sramWordAt s (a.toNat + 4 * (i + 1))
    rw [next, Nat.add_assoc, Nat.add_comm 4, ← Nat.mul_succ]

section
variable {s : State} (runs : residentRuns s = true) (unlocked : s.sys.mode ≠ Mode.lockdown)
include runs unlocked

theorem exec_rd_granted (read : granted s 0 = true) (a : Word) (n : Nat) : exec (.rd a n) s = .next (rdOp a n s) :=
  onResident_open (open_ := fun s => granted s 0) runs unlocked read _

theorem rd_reads (read : granted s 0 = true) {a : Word} {n : Nat} (aligned : a.toNat % 4 = 0) (least : 1 ≤ n) (most : n ≤ 16)
    (sram : inSram a.toNat (4 * n) = true) (lets : ∀ i, i < n → guardLets s .headland permR (a.toNat + 4 * i) 4 = true) :
    OnlyAnswers (.rd a n) { values := (List.range n).map fun i => sramWordAt s (a.toNat + 4 * i) } s := by
  have ran := exec_rd_granted runs unlocked read a n
  rw [rdOp, if_neg (by omega), readWords_sram sram lets] at ran
  exact onlyAnswers_hldAnswer ran

theorem rd_malformed (read : granted s 0 = true) {a : Word} {n : Nat} (bad : a.toNat % 4 ≠ 0 ∨ n = 0 ∨ 16 < n) :
    OnlyAnswers (.rd a n) { code := 1 } s :=
  onlyAnswers_hldAnswer ((exec_rd_granted runs unlocked read a n).trans (congrArg Host.Outcome.next (if_pos bad)))

theorem exec_wr_granted (poke : granted s 1 = true) (a v : Word) : exec (.wr a v) s = .next (wrOp a v s) :=
  onResident_open (open_ := fun s => granted s 1) runs unlocked poke _

theorem wr_writes (poke : granted s 1 = true) {a : Word} (v : Word) (aligned : a.toNat % 4 = 0)
    (sram : inSram a.toNat 4 = true) (lets : guardLets s .headland permW a.toNat 4 = true) :
    ∃ s', Answers (.wr a v) {} s s' ∧ sramRead s' a.toNat 4 = bytesOf v 0 4 ∧ SramBut a.toNat 4 s s' ∧
      s' = { s with hld := s'.hld, mem := s'.mem, cache := s'.cache } := by
  have ran := exec_wr_granted runs unlocked poke a v
  rw [wrOp, if_neg (not_not_intro aligned)] at ran
  obtain ⟨word, only, frame⟩ := accessWrite_sram_word lets sram v
  generalize accessWrite .headland a .word v s = s1 at *
  refine ⟨_, answers_ok ran (by rw [frame]), word, only, ?_⟩
  exact congrArg (fun x : State => { x with hld := (hldOk s1).hld }) frame

theorem wr_malformed (poke : granted s 1 = true) {a : Word} (v : Word) (bad : a.toNat % 4 ≠ 0) :
    OnlyAnswers (.wr a v) { code := 1 } s :=
  onlyAnswers_hldAnswer ((exec_wr_granted runs unlocked poke a v).trans (congrArg Host.Outcome.next (if_pos bad)))

end

end Sys2Proof.Machine
end

section
/-! PROOFS. The debug certificate (R463 to R465, R486 to R488): the checks, a refusal, an acceptance with counter 0 and
Service, and EXIT. -/

namespace Sys2Proof.Machine

/-! ### A rotation counter beside other writes of the ledger (R463) -/

theorem ldgRead_of_but {a n : Nat} {s s' : State} (but : LedgerBut a n s s') {c k : Nat} (apart : c + k ≤ a ∨ a + n ≤ c) :
    ldgRead s' c k = ldgRead s c k :=
  memBytes_congr _ _ _ _ _ fun j low high => but.2 j (by omega)

theorem counterValue_of_but {a n : Nat} {s s' : State} (but : LedgerBut a n s s') {c : Nat}
    (apart : 0x10000 + 256 * c + 256 ≤ a) : counterValue s' c = counterValue s c := by
  have reads (b : Bool) {o k : Nat} (inside : o + k ≤ 128) : ldgRead s' (halfBase c b + o) k = ldgRead s (halfBase c b + o) k := by
    obtain ⟨-, high⟩ := halfBase_inside c b
    exact ldgRead_of_but but (.inl (by omega))
  have header (b : Bool) : halfHeader s' c b = halfHeader s c b := congrArg leNat (reads b (o := 0) (by decide))
  have valid (b : Bool) : halfValid s' c b = halfValid s c b := by rw [halfValid, header, reads b (by decide), ← halfValid]
  have value (b : Bool) : halfValue s' c b = halfValue s c b := by
    rw [halfValue, header, halfCount, reads b (by decide), ← halfCount, ← halfValue]
  unfold counterValue
  rw [valid, valid, value, value]

/-- An entry of the log stands apart from the counters. -/
theorem counterValue_logEntry {c : Nat} (counter : c < 4) (type src : Nat) (data : List Byte) (s : State) :
    counterValue (logEntry type src data s) c = counterValue s c := by
  unfold logEntry
  split
  · exact counterValue_congr rfl c
  · refine counterValue_of_but (putSlot_but 3 (logSlot s) (makeSlot_length ..) s) ?_
    change _ ≤ 0x18000 + 64 * logSlot s
    omega

theorem counterValue_enterMode {c : Nat} (counter : c < 4) (m : BitVec 3) (s : State) :
    counterValue (enterMode m s) c = counterValue s c := by
  unfold enterMode transition
  dsimp only
  split
  · rfl
  · split
    · rfl
    · exact counterValue_logEntry counter ..

/-! ### Service entered (R98, R488) -/

/-- Service is entered from the mode in force, unless it is in force. -/
def serviceEntered (s : State) : State :=
  if s.sys.mode = Mode.service then s else enterMode Mode.service { s with sys := { s.sys with serviceFrom := s.sys.mode } }

theorem serviceEntered_hld (s : State) : (serviceEntered s).hld = s.hld := by
  unfold serviceEntered
  split
  · rfl
  · simp

theorem serviceEntered_mode (s : State) : (serviceEntered s).sys.mode = Mode.service := by
  unfold serviceEntered
  split
  · assumption
  · exact enterMode_mode ..

theorem serviceEntered_from {s : State} (other : s.sys.mode ≠ Mode.service) :
    (serviceEntered s).sys.serviceFrom = s.sys.mode ∧ (serviceEntered s).sys.prev = s.sys.mode := by
  rw [serviceEntered, if_neg other]
  refine ⟨?_, enterMode_prev other⟩
  rw [enterMode, if_neg other, transition_sys]
  unfold dropDrain
  split
  · rfl
  · rfl

theorem counterValue_serviceEntered {c : Nat} (counter : c < 4) (s : State) : counterValue (serviceEntered s) c = counterValue s c := by
  unfold serviceEntered
  split
  · rfl
  · exact counterValue_enterMode counter ..

/-! ### The checks (R486) -/

theorem certCode_le (s : State) (c : List Byte) : certCode s c ≤ 7 := by
  unfold certCode
  (repeat' split) <;> decide

/-- A certificate that passes: counter 0 rises, and a scope is granted. -/
theorem certCode_passed {s : State} {c : List Byte} (passed : certCode s c = 0) :
    counterValue s 0 < numAt c 32 4 ∧ grantedSet s c ≠ 0 := by
  have checks : certCounter s c = true ∧ certState s c = true := by
    unfold certCode at passed
    (repeat' split at passed) <;> simp_all
  obtain ⟨counter, state⟩ := checks
  obtain ⟨newer, -⟩ := of_decide_eq_true counter
  rw [certState, Bool.and_eq_true, Bool.and_eq_true] at state
  obtain ⟨⟨scope, -⟩, -⟩ := state
  exact ⟨newer, of_decide_eq_true scope⟩

theorem numAt_lt (c : List Byte) (off n : Nat) : numAt c off n < 2 ^ (8 * n) :=
  (leNat_lt _).trans_le (Nat.pow_le_pow_right (by decide) (Nat.mul_le_mul_left 8 (by
    rw [bytesAt]; exact List.length_take_le n (c.drop off))))

/-! ### CERT (R487) -/

/-- What the certificate opens. -/
def certOpened (set : Byte) (c : List Byte) (s : State) : State :=
  { s with hld := { s.hld with scope := set, endSec := BitVec.ofNat 48 (numAt c 24 6), keyIdx := BitVec.ofNat 3 (numAt c 6 1)
                               accepted := satInc s.hld.accepted } }

theorem certOpened_mem (set : Byte) (c : List Byte) (s : State) : (certOpened set c s).mem = s.mem := rfl

theorem certOpened_hld (set : Byte) (c : List Byte) {s t : State} (same : t.hld = s.hld) :
    (certOpened set c t).hld = (certOpened set c s).hld := by
  unfold certOpened
  rw [same]

theorem certAccept_eq (c : List Byte) (s : State) : certAccept c s =
    hldAnswer { values := [(grantedSet s c).toNat, numAt c 24 8] } (serviceEntered (certOpened (grantedSet s c) c
      (stepCounterN 0 (numAt c 32 4 - counterValue s 0) s))) := rfl

/-- An acceptance: the answer, the scopes, Service, and counter 0. -/
theorem certAccept_opens (c : List Byte) (s : State) : ∃ t,
    certAccept c s = hldAnswer { values := [(grantedSet s c).toNat, numAt c 24 8] } t ∧ t.sys.mode = Mode.service ∧
    t.hld = (certOpened (grantedSet s c) c s).hld ∧
    (s.sys.mode ≠ Mode.service → t.sys.serviceFrom = s.sys.mode ∧ t.sys.prev = s.sys.mode) ∧
    counterValue t 0 = counterValue (stepCounterN 0 (numAt c 32 4 - counterValue s 0) s) 0 := by
  have frame := eq_of_mem (stepCounterN_same 0 (numAt c 32 4 - counterValue s 0) s)
  refine ⟨_, certAccept_eq c s, serviceEntered_mode _, ?_, fun other => ?_, ?_⟩
  · rw [serviceEntered_hld]
    exact certOpened_hld _ c (by simp)
  · generalize stepCounterN 0 (numAt c 32 4 - counterValue s 0) s = raised at frame
    have sys : (certOpened (grantedSet s c) c raised).sys = s.sys := by rw [frame]; rfl
    rw [← sys] at other ⊢
    exact serviceEntered_from other
  · rw [counterValue_serviceEntered (by decide)]
    exact counterValue_congr (certOpened_mem ..) 0

section
variable {s : State} (runs : residentRuns s = true) (opens : certMode s = true)
include runs opens

theorem exec_cert_open : exec .cert s = .next (certOp s) := by
  have unlocked : s.sys.mode ≠ Mode.lockdown := by
    rcases of_decide_eq_true opens with run | service | limp
    · rw [run]; decide
    · rw [service]; decide
    · rw [limp]; decide
  exact onResident_open runs unlocked opens _

theorem cert_accepts (passed : certCode (bufTaken s) (hldBuf s 0 192) = 0) :
    let c := hldBuf s 0 192
    ∃ s', exec .cert s = .next s' ∧ s'.sys.mode = Mode.service ∧ s'.hld.scope = grantedSet s c ∧ s'.hld.scope ≠ 0 ∧
      (s.sys.mode ≠ Mode.service → s'.sys.serviceFrom = s.sys.mode ∧ s'.sys.prev = s.sys.mode) ∧
      s'.hld.endSec.toNat = numAt c 24 6 ∧ s'.hld.accepted = satInc s.hld.accepted ∧ s'.hld.buf = 0 ∧
      s'.hld.answer = { values := [(grantedSet s c).toNat, numAt c 24 8] } ∧
      ∀ h, activeHalf s 0 = some h → halfClean s 0 h → halfCount s 0 h + (numAt c 32 4 - counterValue s 0) ≤ 960 →
        counterValue s' 0 = numAt c 32 4 := by
  intro c
  obtain ⟨newer, granted⟩ := certCode_passed passed
  have ran := exec_cert_open runs opens
  have op : certOp s = certAccept c (bufTaken s) := if_pos passed
  obtain ⟨t, accepts, mode, hld, from', counter⟩ := certAccept_opens c (bufTaken s)
  rw [op, accepts] at ran
  refine ⟨_, ran, mode, congrArg (·.scope) hld, (congrArg (·.scope) hld).trans_ne granted, from', ?_,
    congrArg (·.accepted) hld, congrArg (·.buf) hld, rfl, fun h active clean room => ?_⟩
  · refine (congrArg (fun x => x.endSec.toNat) hld).trans ?_
    exact (BitVec.toNat_ofNat ..).trans (Nat.mod_eq_of_lt (numAt_lt c 24 6))
  · have raised : counterValue _ 0 = counterValue s 0 + _ := stepCounterN_rises (s := bufTaken s) active clean room
    have value : counterValue t 0 = numAt c 32 4 := by
      have start : counterValue (bufTaken s) 0 = counterValue s 0 := counterValue_congr rfl 0
      rw [start] at counter newer
      rw [counter, raised]
      exact Nat.add_sub_of_le (Nat.le_of_lt newer)
    exact value

theorem cert_refuses (failed : certCode (bufTaken s) (hldBuf s 0 192) ≠ 0) :
    let k := certCode (bufTaken s) (hldBuf s 0 192)
    ∃ s', Answers .cert { code := BitVec.ofNat 8 (0x10 + k) } s s' ∧ s'.hld.lastRefusal.toNat = k ∧ 1 ≤ k ∧ k ≤ 7 ∧
      s'.sys = s.sys ∧ s'.mem = s.mem ∧ s'.hld.scope = s.hld.scope ∧ s'.hld.endSec = s.hld.endSec ∧ s'.hld.buf = 0 := by
  intro k
  have most : k ≤ 7 := certCode_le ..
  have ran := exec_cert_open runs opens
  have op : certOp s = certRefuse k (decide (k = 6) && certCounter (bufTaken s) (hldBuf s 0 192)) (bufTaken s) := if_neg failed
  rw [op] at ran
  generalize (decide (k = 6) && certCounter (bufTaken s) (hldBuf s 0 192)) = tried at ran
  have last : (BitVec.ofNat 4 k).toNat = k := (BitVec.toNat_ofNat ..).trans (Nat.mod_eq_of_lt (by omega))
  cases tried with
  | true => exact ⟨_, ⟨ran, rfl, rfl⟩, last, Nat.one_le_iff_ne_zero.2 failed, most, rfl, rfl, rfl, rfl, rfl⟩
  | false => exact ⟨_, ⟨ran, rfl, rfl⟩, last, Nat.one_le_iff_ne_zero.2 failed, most, rfl, rfl, rfl, rfl, rfl⟩

end

/-! ### EXIT (R484, R488) -/

section
variable {s : State} (runs : residentRuns s = true)
include runs

theorem exit_leaves (service : s.sys.mode = Mode.service) :
    ∃ s', Answers .exit {} s s' ∧ s'.sys.mode = s.sys.serviceFrom ∧ s'.hld.scope = 0 := by
  have ran : exec .exit s = .next (hldOk (modeReq 4 s)) :=
    onResident_open (open_ := fun s => decide (s.sys.mode = Mode.service)) runs (by rw [service]; decide)
      (decide_eq_true service) fun s => hldOk (modeReq 4 s)
  have ends : modeReq 4 s = endService s := rfl
  rw [ends] at ran
  obtain ⟨mode, scope⟩ := endService_leaves service
  exact ⟨_, answers_ok ran (endService_answers s), mode, scope⟩

theorem exit_closed (other : s.sys.mode ≠ Mode.service) : OnlyAnswers .exit { code := 3 } s :=
  closed_answers runs (exec_exit s) (.inr (decide_eq_false other))

end

end Sys2Proof.Machine
end

section
/-! PROOFS. Threads halted and resumed from the Headland (R490), and the resident Headland as a whole. -/

namespace Sys2Proof.Machine

/-! ### A thread resumed (R490) -/

/-- The return takes the thread to EPC, out of its handler; no other thread differs. -/
theorem returnFrom_threads (t : Thread) (s : State) :
    (thr (returnFrom t s) t).debug = false ∧ (thr (returnFrom t s) t).inInt = false ∧
    (thr (returnFrom t s) t).pc = (thr s t).ext.now.epc &&& 0xFFFFFFFC ∧ ∀ u, u ≠ t → thr (returnFrom t s) u = thr s u := by
  have returned : ∃ x : Thr, (returnFrom t s).cores = (setThr s t x).cores ∧ x.debug = false ∧ x.inInt = false ∧
      x.pc = (thr s t).ext.now.epc &&& ~~~3#32 := by
    unfold returnFrom; dsimp only
    split <;> exact ⟨_, rfl, rfl, rfl, rfl⟩
  obtain ⟨x, cores, debug, inInt, pc⟩ := returned
  have threads (u : Thread) : thr (returnFrom t s) u = thr (setThr s t x) u := by rw [thr, cores, ← thr]
  rw [threads, thr_setThr_same]
  exact ⟨debug, inInt, pc, fun u other => (threads u).trans (thr_setThr_other s other x)⟩

theorem clearHalt_bit (t : Thread) (s : State) : (clearHalt t s).hld.halt.getLsbD t.val = false := by
  rw [clearHalt, setBit_clear_getLsbD _ t.isLt, decide_eq_false (not_not_intro rfl), Bool.false_and]

section
variable {s : State} {t : Thread}

/-- GO on a thread in the DEBUG handler. -/
theorem resumeThread_debug (debug : (thr s t).debug = true) :
    let s' := resumeThread t s
    (thr s' t).debug = false ∧ (thr s' t).inInt = false ∧ s'.hld.halt.getLsbD t.val = false ∧
    (thr s' t).pc = (thr s t).ext.now.epc &&& 0xFFFFFFFC ∧ ∀ u, u ≠ t → thr s' u = thr s u := by
  intro s'
  have resumed : s' = checkTiles s (crossDebug t (inEncl s t) (clearHalt t (returnFrom t s))) := if_pos debug
  have threads (u : Thread) : thr s' u = thr (returnFrom t s) u := by
    rw [resumed, thr_checkTiles, thr_crossDebug, thr_clearHalt]
  have hld : s'.hld = (clearHalt t (returnFrom t s)).hld := by rw [resumed]; simp
  obtain ⟨out, task, pc, others⟩ := returnFrom_threads t s
  rw [threads, hld]
  exact ⟨out, task, clearHalt_bit t _, pc, fun u other => (threads u).trans (others u other)⟩

/-- GO on a thread whose halt has not been taken yet. -/
theorem resumeThread_pending (clear : (thr s t).debug = false) (halted : s.hld.halt.getLsbD t.val = true) :
    let s' := resumeThread t s
    (thr s' t).ext.ipend.getLsbD 4 = false ∧ s'.hld.halt.getLsbD t.val = false ∧ (thr s' t).pc = (thr s t).pc ∧
    ∀ u, u ≠ t → thr s' u = thr s u := by
  intro s'
  have resumed : s' = clearHalt t (setThr s t { thr s t with
      ext := { (thr s t).ext with ipend := setBits (thr s t).ext.ipend 4 1 0 } }) := by
    simp only [s', resumeThread, clear, halted]
    rfl
  rw [resumed, thr_clearHalt, thr_setThr_same]
  refine ⟨?_, clearHalt_bit t _, rfl, fun u other => thr_setThr_other s other _⟩
  rw [setBit_clear_getLsbD _ (by decide)]
  rfl

theorem resumeThread_idle (clear : (thr s t).debug = false) (running : s.hld.halt.getLsbD t.val = false) :
    resumeThread t s = s := by
  simp only [resumeThread, clear, running]
  rfl

end

/-! ### HALT, GO and REGS (R490) -/

/-- The 32 registers first, FLAGS, EPC and ESTS after them. -/
theorem savedRegs_debug {s : State} {t : Thread} (debug : (thr s t).debug = true) :
    (savedRegs s t).length = 35 ∧
    (∀ k : Fin 32, (savedRegs s t)[k.val]? = some (gpr s t (BitVec.ofNat 5 k.val)).toNat) ∧
    (savedRegs s t)[33]? = some (thr s t).ext.now.epc.toNat ∧ (savedRegs s t)[34]? = some (thr s t).ext.now.ests.toNat := by
  have saved : savedRegs s t = (fins 32).map (fun k => (gpr s t (BitVec.ofNat 5 k.val)).toNat) ++
      [bitsAt (thr s t).ext.now.ests 0 8, (thr s t).ext.now.epc.toNat, (thr s t).ext.now.ests.toNat] := by
    rw [savedRegs, debug]
    rfl
  have length : ((fins 32).map fun k => (gpr s t (BitVec.ofNat 5 k.val)).toNat).length = 32 := by simp [fins]
  rw [saved]
  refine ⟨by rw [List.length_append, length]; rfl, fun k => ?_, ?_, ?_⟩
  · rw [List.getElem?_append_left (by rw [length]; exact k.isLt)]
    simp [fins]
  · rw [List.getElem?_append_right (by rw [length]; decide), length]
    rfl
  · rw [List.getElem?_append_right (by rw [length]; decide), length]
    rfl

section
variable {s : State} (runs : residentRuns s = true) (unlocked : s.sys.mode ≠ Mode.lockdown) (halts : granted s 3 = true)
  (t : Thread)
include runs unlocked halts

theorem exec_halt_granted : exec (.halt t) s = .next (hldOk (haltThread t s)) :=
  onResident_open (open_ := fun s => granted s 3) runs unlocked halts fun s => hldOk (haltThread t s)

theorem exec_go_granted : exec (.go t) s = .next (hldOk (resumeThread t s)) :=
  onResident_open (open_ := fun s => granted s 3) runs unlocked halts fun s => hldOk (resumeThread t s)

theorem halt_raises (clear : s.hld.halt.getLsbD t.val = false) :
    ∃ s', Answers (.halt t) {} s s' ∧ s'.hld.halt.getLsbD t.val = true ∧ (thr s' t).ext.ipend.getLsbD 4 = true ∧
      (thr s' t).pc = (thr s t).pc ∧ ∀ u, u ≠ t → thr s' u = thr s u := by
  have ran := exec_halt_granted runs unlocked halts t
  rw [haltThread_raises clear] at ran
  have own : thr (setIpend t 4 { s with hld := { s.hld with halt := setBits s.hld.halt t.val 1 1 } }) t =
      { thr s t with ext := { (thr s t).ext with ipend := setBits (thr s t).ext.ipend 4 1 1 } } := thr_setIpend_same ..
  refine ⟨_, answers_ok ran rfl, setBits_getLsbD _ t.isLt, ?_, (congrArg Thr.pc own).trans rfl,
    fun u other => ?_⟩
  · exact (congrArg (fun x : Thr => x.ext.ipend.getLsbD 4) own).trans (setBits_getLsbD _ (by decide))
  · exact thr_setIpend_other _ other ..

theorem halt_again (halted : s.hld.halt.getLsbD t.val = true) : OnlyAnswers (.halt t) {} s := by
  have ran := exec_halt_granted runs unlocked halts t
  rw [haltThread, if_pos halted] at ran
  exact onlyAnswers_hldAnswer ran

theorem go_resumes (debug : (thr s t).debug = true) :
    ∃ s', Answers (.go t) {} s s' ∧ (thr s' t).debug = false ∧ (thr s' t).inInt = false ∧ s'.hld.halt.getLsbD t.val = false ∧
      (thr s' t).pc = (thr s t).ext.now.epc &&& 0xFFFFFFFC ∧ ∀ u, u ≠ t → thr s' u = thr s u :=
  ⟨_, answers_ok (exec_go_granted runs unlocked halts t) (resumeThread_answers t s), resumeThread_debug debug⟩

theorem go_nothing (clear : (thr s t).debug = false) (running : s.hld.halt.getLsbD t.val = false) : OnlyAnswers (.go t) {} s := by
  have ran := exec_go_granted runs unlocked halts t
  rw [resumeThread_idle clear running] at ran
  exact onlyAnswers_hldAnswer ran

theorem go_withdraws (clear : (thr s t).debug = false) (halted : s.hld.halt.getLsbD t.val = true) :
    ∃ s', Answers (.go t) {} s s' ∧ (thr s' t).ext.ipend.getLsbD 4 = false ∧ s'.hld.halt.getLsbD t.val = false ∧
      (thr s' t).pc = (thr s t).pc ∧ ∀ u, u ≠ t → thr s' u = thr s u :=
  ⟨_, answers_ok (exec_go_granted runs unlocked halts t) (resumeThread_answers t s), resumeThread_pending clear halted⟩

theorem regs_prints (debug : (thr s t).debug = true) :
    ∃ v, OnlyAnswers (.regs t) { values := v } s ∧ v.length = 35 ∧
      (∀ k : Fin 32, v[k.val]? = some (gpr s t (BitVec.ofNat 5 k.val)).toNat) ∧
      v[33]? = some (thr s t).ext.now.epc.toNat ∧ v[34]? = some (thr s t).ext.now.ests.toNat :=
  ⟨_, onlyAnswers_hldAnswer (onResident_open (open_ := fun s => granted s 3) runs unlocked halts _), savedRegs_debug debug⟩

end

/-- Settles O58: the lines that are open and the closed ones, the buffer, NONCE, CERT by its checks, EXIT, then each line of
a scope. -/
theorem residentHeadland : Obligations.ResidentHeadland := by
  unfold Obligations.ResidentHeadland
  refine fun s => ⟨rfl, fun runs => ⟨unknownLine_answers runs true, unknownLine_answers runs false⟩,
    fun runs => ⟨info_answers runs, time_answers runs, fun t a v n lockdown => lockdown_closes runs lockdown t a v n,
      fun t a v n none limp => noScope_closes runs none limp t a v n⟩,
    fun runs unlocked => ⟨fun off data => buf_lays runs unlocked, fun ready serves room mode => ⟨?_, ?_⟩,
      fun opens => ⟨cert_accepts runs opens, cert_refuses runs opens⟩, exit_leaves runs, exit_closed runs,
      fun read => ⟨fun a n => rd_reads runs unlocked read, fun a n => rd_malformed runs unlocked read⟩,
      fun poke a v => ⟨wr_writes runs unlocked poke v, wr_malformed runs unlocked poke v⟩,
      fun halts t => ⟨halt_raises runs unlocked halts t, halt_again runs unlocked halts t, go_resumes runs unlocked halts t,
        go_nothing runs unlocked halts t, go_withdraws runs unlocked halts t, regs_prints runs unlocked halts t⟩⟩⟩
  · exact hlNonce_draws runs unlocked ready serves room mode
  · exact hlNonce_fails runs unlocked ready serves room mode

end Sys2Proof.Machine
end
